-- ==== Sys2Proof/Word.lean ====
section
/-!
DEFINITION. Word.lean: the word types and the sparse tables that the state is built of.
-/
namespace Sys2Proof

abbrev Byte := BitVec 8
/-- One operand of an element (R69). -/
abbrev Vec := BitVec 128
/-- A 64-byte line of memory (R5). -/
abbrev Line := BitVec 512

/-- A table of entries by number, sorted by number; a number that is not listed holds the default of its table. -/
abbrev Table (α : Type) := List (Nat × α)

end Sys2Proof
end

