-- ==== Sys2Proof/Syntax.lean ====
section
/-!
DEFINITION. Syntax.lean: the instructions of the device, one constructor for each row of
spec/opcode_table.json. The first group are the element instructions of R74 (64-bit guarded words),
the second the sequencer instructions of R82 (32-bit words), the third the steps that the device's own
units take (they have no encoding; their arguments name the unit and the request).
-/
namespace Sys2Proof

/-- Lane types of an element instruction (R69). -/
inductive LaneTy where
  | b | h | w | d | q | bf | e5
  deriving DecidableEq, Repr, Inhabited

/-- Declared power classes (R112). -/
inductive PowerClass where
  | light | normal | heavy
  deriving DecidableEq, Repr, Inhabited

/-- Beat counts (R66). -/
inductive Beats where
  | x1 | x2 | x4 | x8 | x16 | x32 | x64
  deriving DecidableEq, Repr, Inhabited

/-- Predicate-update modes of R73, mode 0 apart. -/
inductive PredMode where
  | clear | set | zero | sign | carry | toggle | any
  deriving DecidableEq, Repr, Inhabited

/-- An operand code (R67): a general register, a main-file register, an implicit result register, or a
queue (read as a source) which is a channel where it is written as a destination. -/
inductive Opnd where
  | f (n : Fin 16)
  | la
  | lb
  | q (n : Fin 6)
  | m (n : Fin 32)
  deriving DecidableEq, Repr, Inhabited

/-- Points of coherence named by a scope field (R72). -/
inductive Scope where
  | e | reg | die | pkg | sys
  deriving DecidableEq, Repr, Inhabited

/-- Cache policies (R72). -/
inductive Policy where
  | dflt | cg | strm | noal
  deriving DecidableEq, Repr, Inhabited

/-- The part that every element instruction has: the guard (R64, R65) and the fields outside its operands. -/
structure Hdr where
  /-- predicate half tested -/
  ph : BitVec 1
  /-- which of the four predicates are tested -/
  mask : BitVec 4
  /-- the values they must hold -/
  val : BitVec 4
  /-- the queue whose head tag is tested and the virtual channel it must carry -/
  tagTest : Option (Fin 6 × BitVec 5)
  pwr : PowerClass
  ty : LaneTy
  /-- predicate update (R73); absent in class M -/
  ps : Option (PredMode × Fin 8)
  dq : Bool
  beats : Beats
  deriving DecidableEq, Repr, Inhabited

/-- Who issued a write whose performance an event reports. -/
inductive Actor where
  | elem (key : Nat)
  | seq (region : Nat)
  deriving DecidableEq, Repr, Inhabited

/-- The consumer that R176 detaches: one route of an element's channel, or one consumer of a cistern ring. -/
inductive DetachWho where
  | route (region site elem chan j : Nat)
  | ring (die ring cons : Nat)
  deriving DecidableEq, Repr, Inhabited

/-- A request that the host sends over PCIe (R465 to R468): a read, a write or an atomic at an address, or a read at an offset of a
virtual function's BAR0. -/
inductive HostReq where
  | read (pa len : Nat)
  | write (pa : Nat) (data : List (BitVec 8))
  | atomic (pa size op : Nat) (v c : BitVec 64)
  | bar0Read (fn off : Nat)
  deriving DecidableEq, Repr, Inhabited

/-- What a flit of a peer package carries over a Swiravy link (R365, R373, R471, R474): nothing; a request to a home of this device, with
the placement descriptor that goes with it (R383); a request of the host that the bridging device sends on; the answer to the oldest
request of this device for a line of the peer; or a snoop or a publication request of the peer's home (0 SnpS, 1 SnpI, 2 SnpMM,
3 publication). -/
inductive PeerReq where
  | idle
  | walk (pa : Nat)
  | read (pa : Nat) (plc : BitVec 64)
  | own (pa : Nat) (plc : BitVec 64) (mm : Bool)
  | writeBack (pa : Nat) (plc : BitVec 64) (data : BitVec 512) (mask : BitVec 64) (mm : Bool)
  | evict (pa : Nat) (plc : BitVec 64)
  | write (pa : Nat) (plc : BitVec 64) (data : List (BitVec 8))
  | atomic (pa : Nat) (plc : BitVec 64) (size op : Nat) (v c : BitVec 64)
  | host (rq : HostReq)
  | answer (pa : Nat) (wide : Bool) (data : BitVec 512) (bad : Bool)
  | snoop (pa kind : Nat)
  deriving DecidableEq, Repr, Inhabited

/-- The instructions and steps of the device: one constructor for each row of the opcode table. -/
inductive Instr where
  | nop (h : Hdr)
  | mov (h : Hdr) (d : Opnd) (a : Opnd)
  | movi (h : Hdr) (d : Opnd) (imm : BitVec 12)
  | movhi (h : Hdr) (d : Opnd) (a : Opnd) (imm : BitVec 12)
  | sel (h : Hdr) (d : Opnd) (a : Opnd) (b : Opnd) (c : Opnd)
  | pset (h : Hdr) (a : Opnd)
  | tags (h : Hdr) (d : Opnd) (vc : BitVec 5) (ctx : BitVec 2)
  | halt (h : Hdr)
  | send (h : Hdr) (d : Opnd) (a : Opnd) (eow : Bool) (vc : BitVec 5) (ctx : BitVec 2)
  | sendo (h : Hdr) (d : Opnd) (a : Opnd) (eow : Bool) (vc : BitVec 5) (sc : Scope) (ctx : BitVec 2)
  | drop (h : Hdr) (a : Opnd)
  | relay (h : Hdr) (d : Opnd) (a : Opnd)
  | lcnt (h : Hdr) (d : Opnd) (a : Opnd)
  | ftset (h : Hdr) (a : Opnd) (fmt : BitVec 5) (vc : BitVec 5)
  | arrive (h : Hdr) (a : Opnd) (off : BitVec 6) (rc : BitVec 3) (ch : BitVec 2) (sc : Scope)
  | fevt (h : Hdr) (a : Opnd)
  | add (h : Hdr) (d : Opnd) (a : Opnd) (b : Opnd)
  | sub (h : Hdr) (d : Opnd) (a : Opnd) (b : Opnd)
  | adds (h : Hdr) (d : Opnd) (a : Opnd) (b : Opnd)
  | subs (h : Hdr) (d : Opnd) (a : Opnd) (b : Opnd)
  | addus (h : Hdr) (d : Opnd) (a : Opnd) (b : Opnd)
  | subus (h : Hdr) (d : Opnd) (a : Opnd) (b : Opnd)
  | mul (h : Hdr) (d : Opnd) (a : Opnd) (b : Opnd)
  | mulh (h : Hdr) (d : Opnd) (a : Opnd) (b : Opnd)
  | mulhu (h : Hdr) (d : Opnd) (a : Opnd) (b : Opnd)
  | mad (h : Hdr) (d : Opnd) (a : Opnd) (b : Opnd) (c : Opnd)
  | addmin (h : Hdr) (d : Opnd) (a : Opnd) (b : Opnd) (c : Opnd)
  | addmax (h : Hdr) (d : Opnd) (a : Opnd) (b : Opnd) (c : Opnd)
  | min (h : Hdr) (d : Opnd) (a : Opnd) (b : Opnd)
  | max (h : Hdr) (d : Opnd) (a : Opnd) (b : Opnd)
  | minu (h : Hdr) (d : Opnd) (a : Opnd) (b : Opnd)
  | maxu (h : Hdr) (d : Opnd) (a : Opnd) (b : Opnd)
  | absd (h : Hdr) (d : Opnd) (a : Opnd) (b : Opnd)
  | and (h : Hdr) (d : Opnd) (a : Opnd) (b : Opnd)
  | or (h : Hdr) (d : Opnd) (a : Opnd) (b : Opnd)
  | xor (h : Hdr) (d : Opnd) (a : Opnd) (b : Opnd)
  | andn (h : Hdr) (d : Opnd) (a : Opnd) (b : Opnd)
  | shl (h : Hdr) (d : Opnd) (a : Opnd) (b : Opnd)
  | shr (h : Hdr) (d : Opnd) (a : Opnd) (b : Opnd)
  | sar (h : Hdr) (d : Opnd) (a : Opnd) (b : Opnd)
  | rol (h : Hdr) (d : Opnd) (a : Opnd) (b : Opnd)
  | popc (h : Hdr) (d : Opnd) (a : Opnd)
  | clz (h : Hdr) (d : Opnd) (a : Opnd)
  | cmpeq (h : Hdr) (d : Opnd) (a : Opnd) (b : Opnd)
  | cmplt (h : Hdr) (d : Opnd) (a : Opnd) (b : Opnd)
  | cmpltu (h : Hdr) (d : Opnd) (a : Opnd) (b : Opnd)
  | dot4 (h : Hdr) (d : Opnd) (a : Opnd) (b : Opnd) (c : Opnd)
  | sad (h : Hdr) (d : Opnd) (a : Opnd) (b : Opnd) (c : Opnd)
  | addi (h : Hdr) (d : Opnd) (a : Opnd) (imm : BitVec 12)
  | andi (h : Hdr) (d : Opnd) (a : Opnd) (imm : BitVec 12)
  | ori (h : Hdr) (d : Opnd) (a : Opnd) (imm : BitVec 12)
  | xori (h : Hdr) (d : Opnd) (a : Opnd) (imm : BitVec 12)
  | shli (h : Hdr) (d : Opnd) (a : Opnd) (imm : BitVec 12)
  | shri (h : Hdr) (d : Opnd) (a : Opnd) (imm : BitVec 12)
  | sari (h : Hdr) (d : Opnd) (a : Opnd) (imm : BitVec 12)
  | cmpeqi (h : Hdr) (d : Opnd) (a : Opnd) (imm : BitVec 12)
  | cmplti (h : Hdr) (d : Opnd) (a : Opnd) (imm : BitVec 12)
  | ext (h : Hdr) (d : Opnd) (a : Opnd) (pos : BitVec 6) (len : BitVec 6)
  | ins (h : Hdr) (d : Opnd) (a : Opnd) (pos : BitVec 6) (len : BitVec 6)
  | lxor (h : Hdr) (d : Opnd) (a : Opnd) (imm : BitVec 12)
  | lfun (h : Hdr) (d : Opnd) (a : Opnd) (b : Opnd) (imm : BitVec 6)
  | lbcst (h : Hdr) (d : Opnd) (a : Opnd) (imm : BitVec 12)
  | txch (h : Hdr) (d : Opnd) (a : Opnd) (m : BitVec 4)
  | tbcst (h : Hdr) (d : Opnd) (a : Opnd) (src : BitVec 4)
  | tred (h : Hdr) (d : Opnd) (a : Opnd) (op : BitVec 4) (gm : BitVec 4)
  | lpack (h : Hdr) (d : Opnd) (a : Opnd) (b : Opnd)
  | lunpk (h : Hdr) (d : Opnd) (a : Opnd) (sx : Bool) (half : Bool)
  | fadd (h : Hdr) (d : Opnd) (a : Opnd) (b : Opnd)
  | fsub (h : Hdr) (d : Opnd) (a : Opnd) (b : Opnd)
  | fmul (h : Hdr) (d : Opnd) (a : Opnd) (b : Opnd)
  | fma (h : Hdr) (d : Opnd) (a : Opnd) (b : Opnd) (c : Opnd)
  | fnma (h : Hdr) (d : Opnd) (a : Opnd) (b : Opnd) (c : Opnd)
  | fmin (h : Hdr) (d : Opnd) (a : Opnd) (b : Opnd)
  | fmax (h : Hdr) (d : Opnd) (a : Opnd) (b : Opnd)
  | fcmpeq (h : Hdr) (d : Opnd) (a : Opnd) (b : Opnd)
  | fcmplt (h : Hdr) (d : Opnd) (a : Opnd) (b : Opnd)
  | fcmple (h : Hdr) (d : Opnd) (a : Opnd) (b : Opnd)
  | fsgn (h : Hdr) (d : Opnd) (a : Opnd) (b : Opnd)
  | frcp (h : Hdr) (d : Opnd) (a : Opnd)
  | frsq (h : Hdr) (d : Opnd) (a : Opnd)
  | fexp2 (h : Hdr) (d : Opnd) (a : Opnd)
  | flog2 (h : Hdr) (d : Opnd) (a : Opnd)
  | fsin (h : Hdr) (d : Opnd) (a : Opnd)
  | fcos (h : Hdr) (d : Opnd) (a : Opnd)
  | frnd (h : Hdr) (d : Opnd) (a : Opnd) (rm : BitVec 3)
  | fdot2 (h : Hdr) (d : Opnd) (a : Opnd) (b : Opnd) (c : Opnd)
  | faddmin (h : Hdr) (d : Opnd) (a : Opnd) (b : Opnd) (c : Opnd)
  | fclass (h : Hdr) (d : Opnd) (a : Opnd)
  | fscale (h : Hdr) (d : Opnd) (a : Opnd) (b : Opnd)
  | fsat (h : Hdr) (d : Opnd) (a : Opnd)
  | cvt (h : Hdr) (d : Opnd) (a : Opnd) (tt : BitVec 3) (tf : Bool) (sf : Bool) (rm : BitVec 3) (part : BitVec 4)
  | cvtn (h : Hdr) (d : Opnd) (a : Opnd) (tt : BitVec 3) (tf : Bool) (sf : Bool) (rm : BitVec 3) (ef : BitVec 2)
  | mxqSc (h : Hdr) (d : Opnd) (a : Opnd) (fmt : BitVec 2)
  | mxq (h : Hdr) (d : Opnd) (a : Opnd) (b : Opnd) (rm : BitVec 3) (fmt : BitVec 2)
  | mxdq (h : Hdr) (d : Opnd) (a : Opnd) (b : Opnd) (part : BitVec 3) (fmt : BitVec 2)
  | efld (h : Hdr) (a : Opnd) (n : BitVec 2)
  | efst (h : Hdr) (d : Opnd) (n : BitVec 2)
  | ld (h : Hdr) (d : Opnd) (a : Opnd) (off : BitVec 6) (rc : BitVec 3) (ch : BitVec 2) (sc : Scope) (pol : Policy)
  | st (h : Hdr) (d : Opnd) (a : Opnd) (off : BitVec 6) (rc : BitVec 3) (ch : BitVec 2) (sc : Scope) (pol : Policy)
  | ldfKeep (h : Hdr) (d : Opnd) (a : Opnd) (off : BitVec 6) (rc : BitVec 3) (ch : BitVec 2)
  | ldfClr (h : Hdr) (d : Opnd) (a : Opnd) (off : BitVec 6) (rc : BitVec 3) (ch : BitVec 2)
  | stf (h : Hdr) (d : Opnd) (a : Opnd) (off : BitVec 6) (rc : BitVec 3) (ch : BitVec 2)
  | ldg (h : Hdr) (d : Opnd) (a : Opnd) (off : BitVec 6) (rc : BitVec 3) (ch : BitVec 2) (sc : Scope) (pol : Policy)
  | sts (h : Hdr) (d : Opnd) (a : Opnd) (off : BitVec 6) (rc : BitVec 3) (ch : BitVec 2) (sc : Scope) (pol : Policy)
  | atom (h : Hdr) (d : Opnd) (a : Opnd) (op : BitVec 4) (size : BitVec 2) (rc : BitVec 3) (ch : BitVec 2) (sc : Scope)
  | fenceFull (h : Hdr) (sc : Scope)
  | fenceRel (h : Hdr) (sc : Scope)
  | fenceAcq (h : Hdr) (sc : Scope)
  | ldr (h : Hdr) (d : Opnd) (a : Opnd) (off : BitVec 6) (rc : BitVec 3) (ch : BitVec 2)
  | seal (h : Hdr) (rc : BitVec 3) (ch : BitVec 2)
  | rclaim (h : Hdr) (rc : BitVec 3) (ch : BitVec 2)
  | pref (h : Hdr) (a : Opnd) (off : BitVec 6) (rc : BitVec 3) (pol : Policy)
  | invl1 (h : Hdr)
  | fesetEmpty (h : Hdr) (a : Opnd) (off : BitVec 6) (rc : BitVec 3) (ch : BitVec 2)
  | fesetFull (h : Hdr) (a : Opnd) (off : BitVec 6) (rc : BitVec 3) (ch : BitVec 2)
  | brec (h : Hdr) (d : Opnd) (a : Opnd) (rc : BitVec 3)
  | tsync (h : Hdr)
  | rbox (h : Hdr) (d : Opnd) (a : Opnd) (b : Opnd) (c : Opnd)
  | rtri (h : Hdr) (d : Opnd) (a : Opnd) (b : Opnd) (c : Opnd)
  | spcfg (h : Hdr) (en : Bool) (qa : BitVec 3) (qb : BitVec 3)
  | seqt (h : Hdr) (d : Opnd) (a : Opnd)
  | seqtRst (h : Hdr) (a : Opnd) (j : BitVec 3) (base : BitVec 4)
  | edge (h : Hdr) (d : Opnd) (a : Opnd) (b : Opnd) (c : Opnd)
  | ctlRead (h : Hdr) (d : Opnd) (n : BitVec 5)
  | ctlWrite (h : Hdr) (a : Opnd) (n : BitVec 5)
  | trap (h : Hdr) (n : BitVec 11)
  | bkpt (h : Hdr) (n : BitVec 11)
  | faultySlotFire (cause : BitVec 8)
  | seqAdd (d : BitVec 5) (a : BitVec 5) (b : BitVec 5)
  | seqSub (d : BitVec 5) (a : BitVec 5) (b : BitVec 5)
  | seqAnd (d : BitVec 5) (a : BitVec 5) (b : BitVec 5)
  | seqOr (d : BitVec 5) (a : BitVec 5) (b : BitVec 5)
  | seqXor (d : BitVec 5) (a : BitVec 5) (b : BitVec 5)
  | seqShl (d : BitVec 5) (a : BitVec 5) (b : BitVec 5)
  | seqShr (d : BitVec 5) (a : BitVec 5) (b : BitVec 5)
  | seqSar (d : BitVec 5) (a : BitVec 5) (b : BitVec 5)
  | seqMul (d : BitVec 5) (a : BitVec 5) (b : BitVec 5)
  | seqMulh (d : BitVec 5) (a : BitVec 5) (b : BitVec 5)
  | seqMulhu (d : BitVec 5) (a : BitVec 5) (b : BitVec 5)
  | div (d : BitVec 5) (a : BitVec 5) (b : BitVec 5)
  | divu (d : BitVec 5) (a : BitVec 5) (b : BitVec 5)
  | rem (d : BitVec 5) (a : BitVec 5) (b : BitVec 5)
  | remu (d : BitVec 5) (a : BitVec 5) (b : BitVec 5)
  | seqMin (d : BitVec 5) (a : BitVec 5) (b : BitVec 5)
  | seqMax (d : BitVec 5) (a : BitVec 5) (b : BitVec 5)
  | seqMinu (d : BitVec 5) (a : BitVec 5) (b : BitVec 5)
  | seqMaxu (d : BitVec 5) (a : BitVec 5) (b : BitVec 5)
  | slt (d : BitVec 5) (a : BitVec 5) (b : BitVec 5)
  | sltu (d : BitVec 5) (a : BitVec 5) (b : BitVec 5)
  | seqClz (d : BitVec 5) (a : BitVec 5)
  | seqPopc (d : BitVec 5) (a : BitVec 5)
  | seqAddi (d : BitVec 5) (a : BitVec 5) (i : BitVec 16)
  | seqAndi (d : BitVec 5) (a : BitVec 5) (i : BitVec 16)
  | seqOri (d : BitVec 5) (a : BitVec 5) (i : BitVec 16)
  | seqXori (d : BitVec 5) (a : BitVec 5) (i : BitVec 16)
  | seqShli (d : BitVec 5) (a : BitVec 5) (n : BitVec 6)
  | seqShri (d : BitVec 5) (a : BitVec 5) (n : BitVec 6)
  | seqSari (d : BitVec 5) (a : BitVec 5) (n : BitVec 6)
  | slti (d : BitVec 5) (a : BitVec 5) (i : BitVec 16)
  | lhi (d : BitVec 5) (i : BitVec 16)
  | ldl (d : BitVec 5) (i : BitVec 16)
  | ldb (d : BitVec 5) (a : BitVec 5) (i : BitVec 16)
  | ldh (d : BitVec 5) (a : BitVec 5) (i : BitVec 16)
  | ldw (d : BitVec 5) (a : BitVec 5) (i : BitVec 16)
  | ldd (d : BitVec 5) (a : BitVec 5) (i : BitVec 16)
  | stb (d : BitVec 5) (a : BitVec 5) (i : BitVec 16)
  | sth (d : BitVec 5) (a : BitVec 5) (i : BitVec 16)
  | stw (d : BitVec 5) (a : BitVec 5) (i : BitVec 16)
  | std (d : BitVec 5) (a : BitVec 5) (i : BitVec 16)
  | seqAtom (d : BitVec 5) (a : BitVec 5) (b : BitVec 5) (c : BitVec 3) (z : BitVec 2) (o : BitVec 4)
  | seqFenceFull (s : BitVec 3)
  | seqFenceRel (s : BitVec 3)
  | seqFenceAcq (s : BitVec 3)
  | beq (a : BitVec 5) (b : BitVec 5) (o : BitVec 16)
  | bne (a : BitVec 5) (b : BitVec 5) (o : BitVec 16)
  | blt (a : BitVec 5) (b : BitVec 5) (o : BitVec 16)
  | bge (a : BitVec 5) (b : BitVec 5) (o : BitVec 16)
  | bltu (a : BitVec 5) (b : BitVec 5) (o : BitVec 16)
  | bgeu (a : BitVec 5) (b : BitVec 5) (o : BitVec 16)
  | jmp (o : BitVec 26)
  | jal (o : BitVec 26)
  | jr (d : BitVec 5) (a : BitVec 5)
  | getc (d : BitVec 5) (n : BitVec 12)
  | setc (a : BitVec 5) (n : BitVec 12)
  | seqTrap (n : BitVec 11)
  | seqBkpt (n : BitVec 11)
  | tret
  | waite (a : BitVec 5) (d : BitVec 5)
  | seqTsync
  | mctx (a : BitVec 5) (m : BitVec 4) (c : BitVec 2)
  | mctxClr (m : BitVec 4) (c : BitVec 2)
  | mrunMma (a : BitVec 5) (b : BitVec 5) (m : BitVec 4) (c : BitVec 2) (x : BitVec 4) (s : BitVec 4)
  | mrunZero (a : BitVec 5) (b : BitVec 5) (m : BitVec 4) (c : BitVec 2) (x : BitVec 4) (s : BitVec 4)
  | mrunLoad (a : BitVec 5) (b : BitVec 5) (m : BitVec 4) (c : BitVec 2) (x : BitVec 4) (s : BitVec 4)
  | mrunWrite (a : BitVec 5) (b : BitVec 5) (m : BitVec 4) (c : BitVec 2) (x : BitVec 4) (s : BitVec 4)
  | pump (a : BitVec 5) (u : BitVec 1)
  | ldcfg (a : BitVec 5) (s : BitVec 5)
  | ldcfgClr (s : BitVec 5)
  | ldcfgCode (a : BitVec 5) (w : BitVec 1)
  | recfg (a : BitVec 5)
  | recfgEnd
  | qput (a : BitVec 5) (b : BitVec 5) (p : BitVec 2) (e : BitVec 1) (s : BitVec 3) (c : BitVec 2) (v : BitVec 5)
  | qget (l : BitVec 5) (h : BitVec 5) (p : BitVec 2)
  | tbinit (a : BitVec 5) (b : BitVec 5) (n : BitVec 16)
  | tbarr (a : BitVec 5) (s : BitVec 3)
  | tbwait (a : BitVec 5) (b : BitVec 5) (s : BitVec 3)
  | launch (a : BitVec 5) (d : BitVec 5) (q : BitVec 8)
  | exit
  | yield
  | place (a : BitVec 5)
  | placeFrz
  | placeThaw
  | placeSt (d : BitVec 5)
  | cutsel (a : BitVec 5)
  | restripe (a : BitVec 5)
  | pwrmark (n : BitVec 4)
  | verify (a : BitVec 5) (d : BitVec 5)
  | asyncTrapTake (r : Nat)
  | illegalInstruction (cause : BitVec 8)
  | instructionFetchFault (cause : BitVec 8)
  | slotdatWrite (r : Nat) (w : BitVec 64)
  | spbindWrite (r : Nat) (n : Nat) (w : BitVec 64)
  | sqbindWrite (r : Nat) (n : Nat) (w : BitVec 64)
  | cfgmapWrite (r : Nat) (n : Nat) (w : BitVec 64)
  | retry (r : Nat) (p : Nat)
  | clr (r : Nat) (p : Nat)
  | xfqpop (r : Nat)
  | etpop (r : Nat)
  | etactResume (r : Nat) (st : Nat) (el : Nat)
  | etactHalt (r : Nat) (st : Nat) (el : Nat)
  | enterDraining (r : Nat) (st : Nat) (el : Nat)
  | endOfWaveMarkerSend (r : Nat) (st : Nat) (el : Nat) (k : Nat)
  | configurationInstall (r : Nat) (st : Nat) (el : Nat)
  | installComplete (r : Nat) (st : Nat) (el : Nat)
  | haltedToDraining (r : Nat) (st : Nat) (el : Nat)
  | markerReachesHead (r : Nat) (st : Nat) (el : Nat) (q : Nat)
  | tokenDeliver (r : Nat) (st : Nat) (el : Nat) (k : Nat) (j : Nat)
  | creditReturn (r : Nat) (st : Nat) (el : Nat) (q : Nat)
  | streamDetach (w : DetachWho)
  | outboundPortWrite (r : Nat) (n : Nat)
  | inboundPortDeliver (r : Nat) (n : Nat)
  | coordinateIntersect (r : Nat) (st : Nat) (el : Nat)
  | txchDeliver (r : Nat) (st : Nat) (el : Nat) (m : Nat)
  | tbcstDeliver (r : Nat) (st : Nat) (el : Nat)
  | tredDeliver (r : Nat) (st : Nat) (el : Nat)
  | externalPortRequest (r : Nat) (st : Nat) (el : Nat) (i : Nat)
  | loadDataReturn (r : Nat) (st : Nat) (el : Nat) (i : Nat)
  | writePerformed (r : Nat) (w : Actor) (i : Nat)
  | lateFault (r : Nat) (st : Nat) (el : Nat) (i : Nat)
  | ldfComplete (r : Nat) (st : Nat) (el : Nat) (i : Nat)
  | stfComplete (r : Nat) (st : Nat) (el : Nat) (i : Nat)
  | arriveSend (r : Nat) (st : Nat) (el : Nat) (i : Nat)
  | barrierUpdate (r : Nat) (st : Nat) (el : Nat) (i : Nat)
  | notifyTokenDeliver (r : Nat) (st : Nat) (el : Nat)
  | seqtPark (r : Nat) (st : Nat) (el : Nat)
  | matrixOperandFetch (r : Nat) (m : Nat) (c : Nat) (side : Bool) (vec : Nat) (g : Nat)
  | matrixFetchReturn (r : Nat) (m : Nat) (i : Nat)
  | matrixOperandStage (r : Nat) (m : Nat) (c : Nat) (side : Bool)
  | matrixBlockStep (r : Nat) (m : Nat)
  | matrixZeroTile (r : Nat) (m : Nat)
  | matrixLoadTile (r : Nat) (m : Nat)
  | matrixWriteTile (r : Nat) (m : Nat)
  | matrixTileComplete (r : Nat) (m : Nat) (i : Nat)
  | matrixArrival (r : Nat) (m : Nat) (i : Nat)
  | pumpRequestPacket (r : Nat) (p : Nat)
  | pumpRequestStart (r : Nat) (p : Nat)
  | pumpIssue (r : Nat) (p : Nat)
  | pumpAccessComplete (r : Nat) (p : Nat) (i : Nat)
  | pumpBarrierUpdate (r : Nat) (p : Nat) (i : Nat)
  | pumpRequestComplete (r : Nat) (p : Nat) (i : Nat)
  | eventWaitTimeout (r : Nat)
  | teamRetire (r : Nat)
  | dispatchHeadRead (q : Nat)
  | distributorSelect (owner : Nat)
  | teamBind (owner : Nat)
  | freeRegionBind (r : Nat)
  | stoatSample (r : Nat)
  | stoatGrowComplete (r : Nat)
  | stoatDrainClear (r : Nat) (st : Nat)
  | dealPortDeliver (r : Nat) (n : Nat)
  | rds (ln : Nat)
  | walk (ln : Nat)
  | rdx (ln : Nat)
  | rdmm (ln : Nat)
  | wbm (ln : Nat)
  | wbmm (ln : Nat)
  | wrh (ln : Nat)
  | ath (ln : Nat)
  | clre (ln : Nat)
  | grantAck (ln : Nat)
  | snps (ln : Nat) (ag : Nat)
  | snpi (ln : Nat) (ag : Nat)
  | snpmm (ln : Nat) (ag : Nat)
  | cisternEvict (die : Nat) (ln : Nat)
  | narrowHoldNotice (r : Nat) (ln : Nat)
  | narrowReleaseNotice (die : Nat) (ln : Nat)
  | publicationRequest (die : Nat) (ln : Nat)
  | recallInvalidate (ag : Nat) (ln : Nat)
  | translationInvalidation (r : Nat) (ln : Nat)
  | translationWalkComplete (r : Nat) (st : Nat) (el : Nat) (i : Nat)
  | restripeJob
  | restripeJobEnd
  | martenJobStart (die : Nat)
  | martenTokenEmit (die : Nat) (j : Nat)
  | martenJobEnd (die : Nat) (j : Nat)
  | prcmdPreempt (r : Nat)
  | prcmdRestore (r : Nat)
  | prcmdRelease (r : Nat)
  | prcmdReserve (r : Nat)
  | drainTimerExpire (r : Nat)
  | drawlimExpire (r : Nat)
  | regionHalted (r : Nat)
  | saveComplete (r : Nat)
  | restoreComplete (r : Nat)
  | elementTrapRecordQueue (r : Nat) (st : Nat) (el : Nat)
  | dieLinkFail (f : Nat)
  | rownWrite (r : Nat) (w : BitVec 64)
  | logRecordWrite
  | meterIntervalBoundary
  | doorbellWrite (fn : Nat) (off : Nat) (w : BitVec 32)
  | vfWindowRequest (fn : Nat) (rq : HostReq)
  | hostRequest (rq : HostReq)
  | functionLevelReset (fn : Nat)
  | flitReceive (p : Nat) (ok : Bool) (rq : PeerReq)
  | flitReplay (p : Nat)
  | portReceiveTimeout (p : Nat)
  | portRetrain (p : Nat)
  | peerLost (d : Nat)
  | powerTokenRefill (r : Nat)
  | pwrbudRecompute
  | powerEmergency
  | backpressureWindowEnd (r : Nat)
  | optctlClr (owner : Nat)
  | frmfreeWrite (w : BitVec 64)
  | good
  | goodTimeout
  | deviceReset (host : Bool) (fail : Nat)
  | keylockWrite (w : BitVec 64)
  | verifyServe
  | getVersion
  | getCapabilities
  | negotiateAlgorithms
  | getDigests
  | getCertificate
  | challenge
  | getMeasurements (ix : Nat)
  | deviceRegisterWrite (owner : Nat) (pa : Nat) (w : BitVec 64)
  | writeCombiningBufferDrain (r : Nat)
  deriving DecidableEq, Repr, Inhabited

end Sys2Proof
end

