-- ==== Sys2Proof/Config.lean ====
section
/-!
DEFINITION. Config.lean: what the device fixes (its counts of units), and the free values that stand for what the
spec leaves open. A free value has no body: nothing can be proved of which value it is, so a statement that
holds of the model holds for every value of it.
-/
namespace Sys2Proof

/-- Which agent moves at a step: a sequencer, an element, a unit that takes one of its steps, the clock of a region, or
the device time base. The model's own (log 3). -/
inductive Turn where
  | seq (region : Nat)
  | elem (region site elem : Nat)
  | event (i : Instr)
  | tick (region : Nat)
  | time
  deriving DecidableEq, Repr, Inhabited

namespace Config

/-- Regions of the package, sites of a region, elements of a site, dies (R15, R16, R19). -/
def regions : Nat := 64
def sites : Nat := 20
def elems : Nat := 16
def dies : Nat := 4

/-- FREE VALUE (log 3): the agent that moves at each step. -/
opaque schedule : Nat → Turn

/-- FREE VALUE (log 10): which of the holders whose masks hold a byte gives its value to a merge (R367). -/
opaque mergeChoice : Nat → Nat

/-- FREE VALUE (log 11): which entry a cache or TLB replaces (R207, R391). -/
opaque evictChoice : Nat → Nat

/-- FREE VALUE (log 13): the budgets that the management controller computes from its telemetry (R478). -/
opaque budget : Nat → Nat

/-- FREE VALUE (log 14): the hash that chooses a link port for a line (R472). -/
opaque portHash : Nat → Nat

/-- FREE VALUE (log 15): the bytes of the opaque parts of a save area (R450, R452). -/
opaque opaqueByte : Nat → Byte

/-- FREE VALUE (log 16): bytes of the SPDM responses, which the DMTF specification and the device's certificates
fix and this spec does not (R488). -/
opaque spdmByte : Nat → Byte

/-- FREE VALUE (log 17): what a link peer answers (R373, R473). -/
opaque peerData : Nat → Line

/-- FREE VALUE (log 8): the well that is home to a line that no access has named yet. -/
opaque homeWell : Nat → Nat

/-- FREE VALUE (log 8): the check bits of the SEC-DED code over bits [52:0] of a directory entry (R362). -/
opaque dirCheck : BitVec 53 → BitVec 7

/-- FREE VALUE (log 8): the bits in which a directory entry that cannot be corrected differs, as read, from what it held (R376). -/
opaque dirError : Nat → BitVec 64

/-- FREE VALUE (log 19): what is wired to a Swiravy port: the peer device and its port (R471). -/
opaque linkPeer : Nat → Nat

end Config
end Sys2Proof
end

