-- ==== Sys2Proof/Machine/Table.lean ====
section
/-!
DEFINITION. Machine/Table.lean: reading and writing the sparse tables of the state, and small list operations.
-/
namespace Sys2Proof.Machine

/-- The entry of a number, if it is listed. -/
def tfind {α : Type} (t : Table α) (k : Nat) : Option α :=
  match t with
  | [] => none
  | (j, v) :: r => if j = k then some v else if k < j then none else tfind r k

/-- The entry of a number, or the table's default. -/
def tget {α : Type} (t : Table α) (k : Nat) (d : α) : α := (tfind t k).getD d

/-- Writes one entry. -/
def tset {α : Type} (t : Table α) (k : Nat) (v : α) : Table α :=
  match t with
  | [] => [(k, v)]
  | (j, w) :: r => if j = k then (k, v) :: r else if k < j then (k, v) :: (j, w) :: r else (j, w) :: tset r k v

/-- Removes one entry. -/
def terase {α : Type} (t : Table α) (k : Nat) : Table α :=
  match t with
  | [] => []
  | (j, w) :: r => if j = k then r.dropWhile (fun c => decide (c.1 ≤ k)) else if k < j then (j, w) :: r else (j, w) :: terase r k

/-- Replaces every listed entry. -/
def tmap {α : Type} (f : Nat → α → α) (t : Table α) : Table α := t.map fun p => (p.1, f p.1 p.2)

/-- The first element that a test accepts is replaced by the list `g` of it. -/
def replaceFirst {α : Type} (p : α → Bool) (g : α → List α) : List α → List α
  | [] => []
  | x :: xs => if p x then g x ++ xs else x :: replaceFirst p g xs

/-- Removes the first element that a test accepts. -/
def removeFirst {α : Type} (p : α → Bool) (l : List α) : List α := replaceFirst p (fun _ => []) l

/-- Numbers from 0 to n − 1. -/
def upto (n : Nat) : List Nat := List.range n

/-- The position of the i-th set bit of m counting upwards, among its lowest n bits (R383). -/
def nthSetBit (m : Nat) (n i : Nat) : Nat :=
  ((upto n).filter fun j => m.testBit j).getD i 0

/-- The number of set bits among the lowest n. -/
def popCount (m n : Nat) : Nat := ((upto n).filter fun j => m.testBit j).length

end Sys2Proof.Machine
end

