-- ==== Sys2Proof/Machine/Forms.lean ====
section
/-!
DEFINITION. Machine/Forms.lean: what the encoding tables of the spec say of each instruction: the operand positions of R68,
the types, beat counts, predicate modes and power classes of each row of R126, R141 to R156, R183, R216, R355,
R396 and R427, and the limits on immediates that the instruction descriptions give (R75).
-/
namespace Sys2Proof

/-- Value formats: the lane formats of R157, the MX element formats of R42 and FA40 (R34, R39). -/
inductive NumFmt where
  | int8 | int16 | int32 | int64 | int4
  | fp16 | bf16 | fp32 | fp64 | e4m3 | e5m2 | e2m1 | e3m2 | e2m3 | fa40
  deriving DecidableEq, Repr, Inhabited

def NumFmt.width : NumFmt → Nat
  | .int8 => 8 | .int16 => 16 | .int32 => 32 | .int64 => 64 | .int4 => 4
  | .fp16 => 16 | .bf16 => 16 | .fp32 => 32 | .fp64 => 64
  | .e4m3 => 8 | .e5m2 => 8 | .e2m1 => 4 | .e3m2 => 6 | .e2m3 => 6 | .fa40 => 40

def NumFmt.isInt : NumFmt → Bool
  | .int8 | .int16 | .int32 | .int64 | .int4 => true
  | _ => false

/-- Width in bits of one lane (R69). -/
def LaneTy.width : LaneTy → Nat
  | .b => 8 | .h => 16 | .w => 32 | .d => 64 | .q => 4 | .bf => 16 | .e5 => 8

/-- Number of lanes of a 128-bit operand (R69). -/
def LaneTy.lanes (t : LaneTy) : Nat := 128 / t.width

/-- Number of beats (R66). -/
def Beats.count : Beats → Nat
  | .x1 => 1 | .x2 => 2 | .x4 => 4 | .x8 => 8 | .x16 => 16 | .x32 => 32 | .x64 => 64

/-- Power tokens for each beat (R112). -/
def PowerClass.cost : PowerClass → Nat
  | .light => 1 | .normal => 2 | .heavy => 4

def PowerClass.rank : PowerClass → Nat
  | .light => 0 | .normal => 1 | .heavy => 2

/-- What an instruction does with one of its operand fields D, A, B and C. -/
inductive FieldUse where
  /-- not an operand -/
  | unused
  /-- read: f, la, lb or a queue -/
  | src (o : Opnd)
  /-- read: also a main-file register (MOV) -/
  | srcMain (o : Opnd)
  /-- read: a queue only -/
  | queue (o : Opnd)
  /-- a queue whose heads are removed unread (DROP) -/
  | dropQueue (o : Opnd)
  /-- a queue whose raw tokens are read (RELAY) -/
  | rawQueue (o : Opnd)
  /-- a queue that is named and not read (LCNT) -/
  | queueNamed (o : Opnd)
  /-- an f register that is named and not read (FTSET) -/
  | scaleReg (o : Opnd)
  /-- D read as the data of a store -/
  | data (o : Opnd)
  /-- D written: f or a channel -/
  | dst (o : Opnd)
  /-- D written: also a main-file register (MOV) -/
  | dstMain (o : Opnd)
  /-- D written later: f only -/
  | reg (o : Opnd)
  /-- D read at firing and written later: f only (ATOM) -/
  | regRW (o : Opnd)
  /-- D names the channel that is sent on -/
  | chan (o : Opnd)
  /-- D names a channel that is not sent on (TAGS) -/
  | chanTag (o : Opnd)
  /-- destination of a load: f or a channel -/
  | loadDst (o : Opnd)
  deriving DecidableEq, Repr, Inhabited

/-- The operand of a field, if it is one. -/
def FieldUse.opnd : FieldUse → Option Opnd
  | .unused => none
  | .src o | .srcMain o | .queue o | .dropQueue o | .rawQueue o | .queueNamed o | .scaleReg o | .data o | .dst o | .dstMain o
  | .reg o | .regRW o | .chan o | .chanTag o | .loadDst o => some o

/-- The operand code is legal in the field (R67, R68). la and lb are legal where D is read (DESIGN CHOICE, log 27: R68 and R75 call the codes
reserved in D, R72 and R79 read D as a source there). -/
def FieldUse.ok : FieldUse → Bool
  | .unused => true
  | .src (.m _) => false
  | .src _ | .srcMain _ | .data _ => true
  | .queue (.q _) | .dropQueue (.q _) | .rawQueue (.q _) | .queueNamed (.q _) | .chan (.q _) | .chanTag (.q _) => true
  | .queue _ | .dropQueue _ | .rawQueue _ | .queueNamed _ | .chan _ | .chanTag _ => false
  | .scaleReg (.f _) | .reg (.f _) | .regRW (.f _) => true
  | .scaleReg _ | .reg _ | .regRW _ => false
  | .dst (.f _) | .dst (.q _) | .loadDst (.f _) | .loadDst (.q _) => true
  | .dst _ | .loadDst _ => false
  | .dstMain (.f _) | .dstMain (.q _) | .dstMain (.m _) => true
  | .dstMain _ => false

/-- The queue that the field reads, if it reads one. -/
def FieldUse.readQueue : FieldUse → Option (Fin 6)
  | .src (.q j) | .srcMain (.q j) | .queue (.q j) | .dropQueue (.q j) | .rawQueue (.q j)
  | .data (.q j) => some j
  | _ => none

/-- The channel that the field writes, if it writes one. -/
def FieldUse.writeChan : FieldUse → Option (Fin 6)
  | .dst (.q j) | .dstMain (.q j) | .chan (.q j) | .loadDst (.q j) => some j
  | _ => none

/-- Beat counts that a row accepts (R66, R105, R216). -/
inductive BeatRule where
  | one | four | short | long | load
  deriving DecidableEq, Repr, Inhabited

/-- Predicate-update modes that a row accepts (R73). -/
inductive PredRule where
  | all | noCarry | plain | never
  deriving DecidableEq, Repr, Inhabited

/-- What the encoding tables say of one element instruction. -/
structure Form where
  hdr : Hdr
  tys : List LaneTy
  beats : BeatRule
  d : FieldUse
  a : FieldUse
  b : FieldUse
  c : FieldUse
  ps : PredRule
  dq : Option Bool
  minPower : Nat
  result : Bool
  fpLanes : Bool
  deriving DecidableEq, Repr, Inhabited

/-- The queues that the source fields read, in the order D, A, B, C. -/
def Form.queues (f : Form) : List (Fin 6) :=
  [f.d, f.a, f.b, f.c].filterMap FieldUse.readQueue

def Form.chan (f : Form) : Option (Fin 6) := f.d.writeChan

def PredRule.ok (r : PredRule) : Option (PredMode × Fin 8) → Bool
  | none => true
  | some (m, _) =>
    match r with
    | .all => true
    | .noCarry => m != .carry
    | .plain => m == .clear || m == .set || m == .toggle
    | .never => false

def Form.beatsOk (f : Form) : Bool :=
  let n := f.hdr.beats.count
  match f.beats with
  | .one => n == 1
  | .four => n == 4
  | .short => n ≤ 8
  | .load => if f.chan.isSome then n ≤ 8 else n == 1
  | .long => if f.chan.isSome || !f.queues.isEmpty then n ≤ 8 else true

/-- Everything but the limits on immediates (R75). -/
def Form.ok (f : Form) : Bool :=
  f.tys.contains f.hdr.ty && f.beatsOk && f.d.ok && f.a.ok && f.b.ok && f.c.ok && f.ps.ok f.hdr.ps
    && (match f.dq with | none => true | some b => f.hdr.dq == b) && decide (f.minPower ≤ f.hdr.pwr.rank)

/-- The row of the encoding tables that describes an element instruction; none for every other constructor. -/
def Instr.form : Instr → Option Form
  | .nop h => some ⟨h, [.b], .long, .unused, .unused, .unused, .unused, .plain, none, 0, false, false⟩
  | .mov h d a => some ⟨h, [.b, .h, .w, .d, .q, .bf, .e5], .long, (.dstMain d), (.srcMain a), .unused, .unused, .noCarry, none, 0, true, false⟩
  | .movi h d _ => some ⟨h, [.b, .h, .w, .d], .long, (.dst d), .unused, .unused, .unused, .noCarry, none, 0, true, false⟩
  | .movhi h d a _ => some ⟨h, [.h, .w, .d], .long, (.dst d), (.src a), .unused, .unused, .noCarry, none, 0, true, false⟩
  | .sel h d a b c => some ⟨h, [.b, .h, .w, .d, .q, .bf, .e5], .long, (.dst d), (.src a), (.src b), (.src c), .noCarry, none, 0, true, false⟩
  | .pset h a => some ⟨h, [.w], .one, .unused, (.src a), .unused, .unused, .never, none, 0, false, false⟩
  | .tags h d _ _ => some ⟨h, [.b], .one, (.chanTag d), .unused, .unused, .unused, .plain, (some false), 0, false, false⟩
  | .halt h => some ⟨h, [.b], .one, .unused, .unused, .unused, .unused, .never, none, 0, false, false⟩
  | .send h d a _ _ _ => some ⟨h, [.b, .h, .w, .d, .q, .bf, .e5], .short, (.chan d), (.src a), .unused, .unused, .plain, none, 0, false, false⟩
  | .sendo h d a _ _ _ _ => some ⟨h, [.b, .h, .w, .d, .q, .bf, .e5], .short, (.chan d), (.src a), .unused, .unused, .plain, none, 0, false, false⟩
  | .drop h a => some ⟨h, [.b], .short, .unused, (.dropQueue a), .unused, .unused, .plain, (some true), 0, false, false⟩
  | .relay h d a => some ⟨h, [.b], .short, (.chan d), (.rawQueue a), .unused, .unused, .plain, none, 0, false, false⟩
  | .lcnt h d a => some ⟨h, [.w], .one, (.dst d), (.queueNamed a), .unused, .unused, .noCarry, (some false), 0, true, false⟩
  | .ftset h a _ _ => some ⟨h, [.b], .one, .unused, (.scaleReg a), .unused, .unused, .plain, (some false), 0, false, false⟩
  | .arrive h a _ _ _ _ => some ⟨h, [.b], .one, .unused, (.src a), .unused, .unused, .never, none, 0, false, false⟩
  | .fevt h a => some ⟨h, [.w], .one, .unused, (.src a), .unused, .unused, .never, none, 0, false, false⟩
  | .add h d a b => some ⟨h, [.b, .h, .w, .d, .q], .long, (.dst d), (.src a), (.src b), .unused, .all, none, 0, true, false⟩
  | .sub h d a b => some ⟨h, [.b, .h, .w, .d, .q], .long, (.dst d), (.src a), (.src b), .unused, .all, none, 0, true, false⟩
  | .adds h d a b => some ⟨h, [.b, .h, .w, .d, .q], .long, (.dst d), (.src a), (.src b), .unused, .all, none, 0, true, false⟩
  | .subs h d a b => some ⟨h, [.b, .h, .w, .d, .q], .long, (.dst d), (.src a), (.src b), .unused, .all, none, 0, true, false⟩
  | .addus h d a b => some ⟨h, [.b, .h, .w, .d, .q], .long, (.dst d), (.src a), (.src b), .unused, .all, none, 0, true, false⟩
  | .subus h d a b => some ⟨h, [.b, .h, .w, .d, .q], .long, (.dst d), (.src a), (.src b), .unused, .all, none, 0, true, false⟩
  | .mul h d a b => some ⟨h, [.b, .h, .w, .d, .q], .long, (.dst d), (.src a), (.src b), .unused, .noCarry, none, 1, true, false⟩
  | .mulh h d a b => some ⟨h, [.b, .h, .w, .d, .q], .long, (.dst d), (.src a), (.src b), .unused, .noCarry, none, 1, true, false⟩
  | .mulhu h d a b => some ⟨h, [.b, .h, .w, .d, .q], .long, (.dst d), (.src a), (.src b), .unused, .noCarry, none, 1, true, false⟩
  | .mad h d a b c => some ⟨h, [.b, .h, .w, .d, .q], .long, (.dst d), (.src a), (.src b), (.src c), .noCarry, none, 1, true, false⟩
  | .addmin h d a b c => some ⟨h, [.b, .h, .w, .d, .q], .long, (.dst d), (.src a), (.src b), (.src c), .noCarry, none, 0, true, false⟩
  | .addmax h d a b c => some ⟨h, [.b, .h, .w, .d, .q], .long, (.dst d), (.src a), (.src b), (.src c), .noCarry, none, 0, true, false⟩
  | .min h d a b => some ⟨h, [.b, .h, .w, .d, .q], .long, (.dst d), (.src a), (.src b), .unused, .noCarry, none, 0, true, false⟩
  | .max h d a b => some ⟨h, [.b, .h, .w, .d, .q], .long, (.dst d), (.src a), (.src b), .unused, .noCarry, none, 0, true, false⟩
  | .minu h d a b => some ⟨h, [.b, .h, .w, .d, .q], .long, (.dst d), (.src a), (.src b), .unused, .noCarry, none, 0, true, false⟩
  | .maxu h d a b => some ⟨h, [.b, .h, .w, .d, .q], .long, (.dst d), (.src a), (.src b), .unused, .noCarry, none, 0, true, false⟩
  | .absd h d a b => some ⟨h, [.b, .h, .w, .d, .q], .long, (.dst d), (.src a), (.src b), .unused, .noCarry, none, 0, true, false⟩
  | .and h d a b => some ⟨h, [.b, .h, .w, .d, .q], .long, (.dst d), (.src a), (.src b), .unused, .noCarry, none, 0, true, false⟩
  | .or h d a b => some ⟨h, [.b, .h, .w, .d, .q], .long, (.dst d), (.src a), (.src b), .unused, .noCarry, none, 0, true, false⟩
  | .xor h d a b => some ⟨h, [.b, .h, .w, .d, .q], .long, (.dst d), (.src a), (.src b), .unused, .noCarry, none, 0, true, false⟩
  | .andn h d a b => some ⟨h, [.b, .h, .w, .d, .q], .long, (.dst d), (.src a), (.src b), .unused, .noCarry, none, 0, true, false⟩
  | .shl h d a b => some ⟨h, [.b, .h, .w, .d, .q], .long, (.dst d), (.src a), (.src b), .unused, .all, none, 0, true, false⟩
  | .shr h d a b => some ⟨h, [.b, .h, .w, .d, .q], .long, (.dst d), (.src a), (.src b), .unused, .all, none, 0, true, false⟩
  | .sar h d a b => some ⟨h, [.b, .h, .w, .d, .q], .long, (.dst d), (.src a), (.src b), .unused, .all, none, 0, true, false⟩
  | .rol h d a b => some ⟨h, [.b, .h, .w, .d, .q], .long, (.dst d), (.src a), (.src b), .unused, .noCarry, none, 0, true, false⟩
  | .popc h d a => some ⟨h, [.b, .h, .w, .d, .q], .long, (.dst d), (.src a), .unused, .unused, .noCarry, none, 0, true, false⟩
  | .clz h d a => some ⟨h, [.b, .h, .w, .d, .q], .long, (.dst d), (.src a), .unused, .unused, .noCarry, none, 0, true, false⟩
  | .cmpeq h d a b => some ⟨h, [.b, .h, .w, .d, .q], .long, (.dst d), (.src a), (.src b), .unused, .noCarry, none, 0, true, false⟩
  | .cmplt h d a b => some ⟨h, [.b, .h, .w, .d, .q], .long, (.dst d), (.src a), (.src b), .unused, .noCarry, none, 0, true, false⟩
  | .cmpltu h d a b => some ⟨h, [.b, .h, .w, .d, .q], .long, (.dst d), (.src a), (.src b), .unused, .noCarry, none, 0, true, false⟩
  | .dot4 h d a b c => some ⟨h, [.w], .long, (.dst d), (.src a), (.src b), (.src c), .noCarry, none, 1, true, false⟩
  | .sad h d a b c => some ⟨h, [.w], .long, (.dst d), (.src a), (.src b), (.src c), .noCarry, none, 1, true, false⟩
  | .addi h d a _ => some ⟨h, [.b, .h, .w, .d, .q], .long, (.dst d), (.src a), .unused, .unused, .all, none, 0, true, false⟩
  | .andi h d a _ => some ⟨h, [.b, .h, .w, .d, .q], .long, (.dst d), (.src a), .unused, .unused, .noCarry, none, 0, true, false⟩
  | .ori h d a _ => some ⟨h, [.b, .h, .w, .d, .q], .long, (.dst d), (.src a), .unused, .unused, .noCarry, none, 0, true, false⟩
  | .xori h d a _ => some ⟨h, [.b, .h, .w, .d, .q], .long, (.dst d), (.src a), .unused, .unused, .noCarry, none, 0, true, false⟩
  | .shli h d a _ => some ⟨h, [.b, .h, .w, .d, .q], .long, (.dst d), (.src a), .unused, .unused, .all, none, 0, true, false⟩
  | .shri h d a _ => some ⟨h, [.b, .h, .w, .d, .q], .long, (.dst d), (.src a), .unused, .unused, .all, none, 0, true, false⟩
  | .sari h d a _ => some ⟨h, [.b, .h, .w, .d, .q], .long, (.dst d), (.src a), .unused, .unused, .all, none, 0, true, false⟩
  | .cmpeqi h d a _ => some ⟨h, [.b, .h, .w, .d, .q], .long, (.dst d), (.src a), .unused, .unused, .noCarry, none, 0, true, false⟩
  | .cmplti h d a _ => some ⟨h, [.b, .h, .w, .d, .q], .long, (.dst d), (.src a), .unused, .unused, .noCarry, none, 0, true, false⟩
  | .ext h d a _ _ => some ⟨h, [.b, .h, .w, .d, .q], .long, (.dst d), (.src a), .unused, .unused, .noCarry, none, 0, true, false⟩
  | .ins h d a _ _ => some ⟨h, [.b, .h, .w, .d, .q], .long, (.dst d), (.src a), .unused, .unused, .noCarry, none, 0, true, false⟩
  | .lxor h d a _ => some ⟨h, [.b, .h, .w, .d, .q], .long, (.dst d), (.src a), .unused, .unused, .noCarry, none, 0, true, false⟩
  | .lfun h d a b _ => some ⟨h, [.b, .h, .w, .d, .q], .long, (.dst d), (.src a), (.src b), .unused, .noCarry, none, 0, true, false⟩
  | .lbcst h d a _ => some ⟨h, [.b, .h, .w, .d, .q], .long, (.dst d), (.src a), .unused, .unused, .noCarry, none, 0, true, false⟩
  | .txch h d a _ => some ⟨h, [.b], .one, (.reg d), (.src a), .unused, .unused, .plain, none, 0, false, false⟩
  | .tbcst h d a _ => some ⟨h, [.b], .one, (.reg d), (.src a), .unused, .unused, .plain, none, 0, false, false⟩
  | .tred h d a _ _ => some ⟨h, [.b, .h, .w, .d, .q, .bf], .one, (.reg d), (.src a), .unused, .unused, .plain, none, 0, false, false⟩
  | .lpack h d a b => some ⟨h, [.b, .h, .w, .d], .long, (.dst d), (.src a), (.src b), .unused, .noCarry, none, 0, true, false⟩
  | .lunpk h d a _ _ => some ⟨h, [.q, .b, .h, .w], .long, (.dst d), (.src a), .unused, .unused, .noCarry, none, 0, true, false⟩
  | .fadd h d a b => some ⟨h, [.h, .w, .d, .bf], .long, (.dst d), (.src a), (.src b), .unused, .noCarry, none, 1, true, true⟩
  | .fsub h d a b => some ⟨h, [.h, .w, .d, .bf], .long, (.dst d), (.src a), (.src b), .unused, .noCarry, none, 1, true, true⟩
  | .fmul h d a b => some ⟨h, [.h, .w, .d, .bf], .long, (.dst d), (.src a), (.src b), .unused, .noCarry, none, 1, true, true⟩
  | .fma h d a b c => some ⟨h, [.h, .w, .d, .bf], .long, (.dst d), (.src a), (.src b), (.src c), .noCarry, none, 2, true, true⟩
  | .fnma h d a b c => some ⟨h, [.h, .w, .d, .bf], .long, (.dst d), (.src a), (.src b), (.src c), .noCarry, none, 2, true, true⟩
  | .fmin h d a b => some ⟨h, [.h, .w, .d, .bf], .long, (.dst d), (.src a), (.src b), .unused, .noCarry, none, 1, true, true⟩
  | .fmax h d a b => some ⟨h, [.h, .w, .d, .bf], .long, (.dst d), (.src a), (.src b), .unused, .noCarry, none, 1, true, true⟩
  | .fcmpeq h d a b => some ⟨h, [.h, .w, .d, .bf], .long, (.dst d), (.src a), (.src b), .unused, .noCarry, none, 1, true, false⟩
  | .fcmplt h d a b => some ⟨h, [.h, .w, .d, .bf], .long, (.dst d), (.src a), (.src b), .unused, .noCarry, none, 1, true, false⟩
  | .fcmple h d a b => some ⟨h, [.h, .w, .d, .bf], .long, (.dst d), (.src a), (.src b), .unused, .noCarry, none, 1, true, false⟩
  | .fsgn h d a b => some ⟨h, [.h, .w, .d, .bf], .long, (.dst d), (.src a), (.src b), .unused, .noCarry, none, 1, true, true⟩
  | .frcp h d a => some ⟨h, [.h, .w, .bf], .long, (.dst d), (.src a), .unused, .unused, .noCarry, none, 2, true, true⟩
  | .frsq h d a => some ⟨h, [.h, .w, .bf], .long, (.dst d), (.src a), .unused, .unused, .noCarry, none, 2, true, true⟩
  | .fexp2 h d a => some ⟨h, [.h, .w, .bf], .long, (.dst d), (.src a), .unused, .unused, .noCarry, none, 2, true, true⟩
  | .flog2 h d a => some ⟨h, [.h, .w, .bf], .long, (.dst d), (.src a), .unused, .unused, .noCarry, none, 2, true, true⟩
  | .fsin h d a => some ⟨h, [.h, .w, .bf], .long, (.dst d), (.src a), .unused, .unused, .noCarry, none, 2, true, true⟩
  | .fcos h d a => some ⟨h, [.h, .w, .bf], .long, (.dst d), (.src a), .unused, .unused, .noCarry, none, 2, true, true⟩
  | .frnd h d a _ => some ⟨h, [.h, .w, .d, .bf], .long, (.dst d), (.src a), .unused, .unused, .noCarry, none, 1, true, true⟩
  | .fdot2 h d a b c => some ⟨h, [.h, .bf], .long, (.dst d), (.src a), (.src b), (.src c), .noCarry, none, 2, true, true⟩
  | .faddmin h d a b c => some ⟨h, [.h, .w, .d, .bf], .long, (.dst d), (.src a), (.src b), (.src c), .noCarry, none, 1, true, true⟩
  | .fclass h d a => some ⟨h, [.h, .w, .d, .bf], .long, (.dst d), (.src a), .unused, .unused, .noCarry, none, 1, true, false⟩
  | .fscale h d a b => some ⟨h, [.h, .w, .d, .bf], .long, (.dst d), (.src a), (.src b), .unused, .noCarry, none, 1, true, true⟩
  | .fsat h d a => some ⟨h, [.h, .w, .d, .bf], .long, (.dst d), (.src a), .unused, .unused, .noCarry, none, 1, true, true⟩
  | .cvt h d a _ tf _ _ _ => some ⟨h, [.b, .h, .w, .d, .q, .bf, .e5], .long, (.dst d), (.src a), .unused, .unused, .noCarry, none, 1, true, tf⟩
  | .cvtn h d a _ tf _ _ _ => some ⟨h, [.b, .h, .w, .d, .q, .bf, .e5], .long, (.dst d), (.src a), .unused, .unused, .noCarry, none, 1, true, tf⟩
  | .mxqSc h d a _ => some ⟨h, [.h, .w, .bf], .long, (.dst d), (.src a), .unused, .unused, .noCarry, none, 1, true, false⟩
  | .mxq h d a b _ _ => some ⟨h, [.h, .w, .bf], .long, (.dst d), (.src a), (.src b), .unused, .noCarry, none, 1, true, false⟩
  | .mxdq h d a b _ _ => some ⟨h, [.h, .w, .bf], .long, (.dst d), (.src a), (.src b), .unused, .noCarry, none, 1, true, true⟩
  | .efld h a _ => some ⟨h, [.w], .one, .unused, (.src a), .unused, .unused, .plain, none, 0, false, false⟩
  | .efst h d _ => some ⟨h, [.w], .one, (.dst d), .unused, .unused, .unused, .noCarry, none, 0, true, false⟩
  | .ld h d a _ _ _ _ _ => some ⟨h, [.b], .load, (.loadDst d), (.src a), .unused, .unused, .never, none, 1, false, false⟩
  | .st h d a _ _ _ _ _ => some ⟨h, [.b], .short, (.data d), (.src a), .unused, .unused, .never, none, 1, false, false⟩
  | .ldfKeep h d a _ _ _ => some ⟨h, [.b], .one, (.reg d), (.src a), .unused, .unused, .never, none, 1, false, false⟩
  | .ldfClr h d a _ _ _ => some ⟨h, [.h], .one, (.reg d), (.src a), .unused, .unused, .never, none, 1, false, false⟩
  | .stf h d a _ _ _ => some ⟨h, [.b], .short, (.data d), (.src a), .unused, .unused, .never, none, 1, false, false⟩
  | .ldg h d a _ _ _ _ _ => some ⟨h, [.b, .h, .w, .d], .load, (.loadDst d), (.src a), .unused, .unused, .never, none, 1, false, false⟩
  | .sts h d a _ _ _ _ _ => some ⟨h, [.b, .h, .w, .d], .short, (.data d), (.src a), .unused, .unused, .never, none, 1, false, false⟩
  | .atom h d a _ _ _ _ _ => some ⟨h, [.b], .one, (.regRW d), (.src a), .unused, .unused, .never, none, 1, false, false⟩
  | .fenceFull h _ => some ⟨h, [.b], .one, .unused, .unused, .unused, .unused, .never, none, 0, false, false⟩
  | .fenceRel h _ => some ⟨h, [.b], .one, .unused, .unused, .unused, .unused, .never, none, 0, false, false⟩
  | .fenceAcq h _ => some ⟨h, [.b], .one, .unused, .unused, .unused, .unused, .never, none, 0, false, false⟩
  | .ldr h d a _ _ _ => some ⟨h, [.b], .load, (.loadDst d), (.src a), .unused, .unused, .never, none, 1, false, false⟩
  | .seal h _ _ => some ⟨h, [.b], .one, .unused, .unused, .unused, .unused, .never, none, 0, false, false⟩
  | .rclaim h _ _ => some ⟨h, [.b], .one, .unused, .unused, .unused, .unused, .never, none, 0, false, false⟩
  | .pref h a _ _ _ => some ⟨h, [.b], .one, .unused, (.src a), .unused, .unused, .never, none, 0, false, false⟩
  | .invl1 h => some ⟨h, [.b], .one, .unused, .unused, .unused, .unused, .never, none, 0, false, false⟩
  | .fesetEmpty h a _ _ _ => some ⟨h, [.b], .short, .unused, (.src a), .unused, .unused, .never, none, 0, false, false⟩
  | .fesetFull h a _ _ _ => some ⟨h, [.h], .short, .unused, (.src a), .unused, .unused, .never, none, 0, false, false⟩
  | .brec h d a _ => some ⟨h, [.b], .one, (.src d), (.src a), .unused, .unused, .never, none, 0, false, false⟩
  | .tsync h => some ⟨h, [.b], .one, .unused, .unused, .unused, .unused, .never, none, 0, false, false⟩
  | .rbox h d a b c => some ⟨h, [.w], .long, (.dst d), (.src a), (.src b), (.src c), .plain, none, 1, true, false⟩
  | .rtri h d a b c => some ⟨h, [.w], .four, (.dst d), (.src a), (.src b), (.src c), .plain, none, 2, true, false⟩
  | .spcfg h _ _ _ => some ⟨h, [.b], .one, .unused, .unused, .unused, .unused, .plain, (some false), 0, false, false⟩
  | .seqt h d a => some ⟨h, [.b], .one, (.dst d), (.queue a), .unused, .unused, .noCarry, (some true), 0, true, false⟩
  | .seqtRst h a _ _ => some ⟨h, [.b], .one, .unused, (.src a), .unused, .unused, .plain, none, 0, false, false⟩
  | .edge h d a b c => some ⟨h, [.w], .long, (.dst d), (.src a), (.src b), (.src c), .noCarry, none, 1, true, false⟩
  | .ctlRead h d _ => some ⟨h, [.w], .one, (.dst d), .unused, .unused, .unused, .never, none, 0, true, false⟩
  | .ctlWrite h a _ => some ⟨h, [.w], .one, .unused, (.src a), .unused, .unused, .never, none, 0, false, false⟩
  | .trap h _ => some ⟨h, [.b], .one, .unused, .unused, .unused, .unused, .never, none, 0, false, false⟩
  | .bkpt h _ => some ⟨h, [.b], .one, .unused, .unused, .unused, .unused, .never, none, 0, false, false⟩
  | _ => none

/-- The lane format that a lane type code and a float bit name (R157). -/
def laneFmt : LaneTy → Bool → Option NumFmt
  | .b, false => some .int8 | .b, true => some .e4m3
  | .h, false => some .int16 | .h, true => some .fp16
  | .w, false => some .int32 | .w, true => some .fp32
  | .d, false => some .int64 | .d, true => some .fp64
  | .q, false => some .int4 | .q, true => some .e2m1
  | .bf, false => none | .bf, true => some .bf16
  | .e5, false => none | .e5, true => some .e5m2

/-- The lane type of a 3-bit code (R69). -/
def laneTy? : BitVec 3 → Option LaneTy
  | 0#3 => some .b | 1#3 => some .h | 2#3 => some .w | 3#3 => some .d | 4#3 => some .q
  | 5#3 => some .bf | 6#3 => some .e5 | _ => none

/-- Source and target formats of a conversion (R157). -/
def cvtFmts (t : LaneTy) (tt : BitVec 3) (tf sf : Bool) : Option (NumFmt × NumFmt) :=
  match laneFmt t sf, laneTy? tt with
  | some s, some t' => (laneFmt t' tf).map fun d => (s, d)
  | _, _ => none

/-- The legal conversions of CVT (R158). -/
def cvtOk (t : LaneTy) (tt : BitVec 3) (tf sf : Bool) (rm : BitVec 3) (part : BitVec 4) : Bool :=
  match cvtFmts t tt tf sf with
  | none => false
  | some (s, d) =>
    s != d && s.width ≤ d.width && d.width / s.width ≤ 8 && rm.toNat ≤ 3 &&
      (!(s.isInt && d.isInt) || rm == 0#3) && part.toNat < d.width / s.width

/-- The legal conversions of CVTN (R158). -/
def cvtnOk (t : LaneTy) (tt : BitVec 3) (tf sf : Bool) (rm : BitVec 3) (ef : BitVec 2) : Bool :=
  match cvtFmts t tt tf sf with
  | none => false
  | some (s, d) =>
    s != d && d.width < s.width && s.width / d.width ≤ 8 && rm.toNat ≤ 4 &&
      (rm != 4#3 || (s == .fp32 && [NumFmt.fp16, .bf16, .e4m3, .e5m2, .e2m1].contains d)) &&
      (!(s.isInt && d.isInt) || rm == 0#3) && (rm == 4#3 || ef == 0#2)

/-- The MX element format of a 2-bit code (R162, R165). -/
def mxFmt? : BitVec 2 → Option NumFmt
  | 0#2 => some .e4m3 | 1#2 => some .e5m2 | 2#2 => some .e2m1 | _ => none

/-- A signed immediate fits the lanes of the type (R129, R144). -/
def simmOk (t : LaneTy) (imm : BitVec 12) : Bool :=
  match t with
  | .b => decide (-128 ≤ imm.toInt ∧ imm.toInt ≤ 127)
  | .q => decide (-8 ≤ imm.toInt ∧ imm.toInt ≤ 7)
  | _ => true

/-- The pairings of operation and type that TRED takes (R193). -/
def tredOk (t : LaneTy) (op gm : BitVec 4) : Bool :=
  gm != 0#4 && (if op.toNat ≤ 7 then [LaneTy.b, .h, .w, .d, .q].contains t
    else op.toNat ≤ 10 && [LaneTy.h, .w, .bf].contains t)

/-- The limits on the immediates and control sub-fields of element instructions (R75). -/
def Instr.immOk : Instr → Bool
  | .movi h _ imm => simmOk h.ty imm
  | .addi h _ _ imm | .andi h _ _ imm | .ori h _ _ imm | .xori h _ _ imm
  | .cmpeqi h _ _ imm | .cmplti h _ _ imm => simmOk h.ty imm
  | .shli h _ _ imm | .shri h _ _ imm | .sari h _ _ imm => decide (imm.toNat < h.ty.width)
  | .ext h _ _ pos len | .ins h _ _ pos len => decide (pos.toNat + len.toNat + 1 ≤ h.ty.width)
  | .lxor h _ _ imm | .lbcst h _ _ imm => decide (imm.toNat < h.ty.lanes)
  | .lfun h _ _ _ imm => decide (imm.toNat ≤ h.ty.lanes)
  | .txch _ _ _ m => m != 0#4
  | .tred h _ _ op gm => tredOk h.ty op gm
  | .ftset _ _ fmt _ => decide (fmt.toNat ≤ 0x13)
  | .sendo _ _ _ _ _ sc _ => sc != .e
  | .spcfg _ en qa qb =>
    if en then decide (qa.toNat < 6 ∧ qb.toNat < 6 ∧ qa ≠ qb) else qa == 0#3 && qb == 0#3
  | .seqtRst _ _ j _ => decide (j.toNat < 6)
  | .ctlRead _ _ n => decide (n.toNat ≤ 0x0E)
  | .ctlWrite _ _ n => decide (n.toNat ≤ 0x01)
  | .frnd _ _ _ rm => decide (rm.toNat ≤ 3)
  | .cvt h _ _ tt tf sf rm part => cvtOk h.ty tt tf sf rm part
  | .cvtn h _ _ tt tf sf rm ef => cvtnOk h.ty tt tf sf rm ef
  | .mxqSc _ _ _ fmt => decide (fmt.toNat ≤ 2)
  | .mxq _ _ _ _ rm fmt => decide (rm.toNat ≤ 3 ∧ fmt.toNat ≤ 2)
  | .mxdq h _ _ _ part fmt =>
    match mxFmt? fmt with
    | some f => decide (part.toNat < h.ty.width / f.width)
    | none => false
  | .atom _ _ _ op size _ _ _ => decide (op.toNat ≤ 9 ∧ size.toNat ≤ 1)
  | _ => true

/-- A sequencer word whose ATOM op is reserved is no instruction (R87); the other reserved sub-field values
keep their instruction, whose meaning traps. -/
def Instr.seqOk : Instr → Bool
  | .seqAtom _ _ _ _ _ o => decide (o.toNat ≤ 9)
  | _ => true

end Sys2Proof
end

