-- ==== Sys2Proof/WellFormed.lean ====
section
/-!
DEFINITION. WellFormed.lean: which instructions the encodings of the spec admit (R75, R87). The tables of the
operand positions, types, beat counts, predicate modes, power classes and immediate limits are in Machine/Forms.lean.
-/
namespace Sys2Proof

/-- The well-formed instructions: element instructions that hold no reserved encoding (R75), sequencer
instructions whose word R87 does not turn away at its opcode, and the steps of the device's units. -/
def Instr.wf (i : Instr) : Bool :=
  match i.form with
  | some f => f.ok && i.immOk
  | none => i.seqOk

end Sys2Proof
end

