-- ==== Sys2Proof/Machine/Bits.lean ====
section
/-!
DEFINITION. Machine/Bits.lean: bit fields, lanes, bytes and the byte memory in its canonical form (R5, R11, R39, R69).
-/
namespace Sys2Proof.Machine

/-! ## Numbers -/

/-- The w-bit two's-complement value of n (R11). -/
def sext (w n : Nat) : Int := if n % 2 ^ w < 2 ^ (w - 1) then (n % 2 ^ w : Nat) else (n % 2 ^ w : Nat) - (2 ^ w : Nat)

/-- The low w bits of an integer, in two's complement (Wrap of R138). -/
def wrap (w : Nat) (v : Int) : Nat := (v % ((2 ^ w : Nat) : Int)).toNat

/-- SatS of R138. -/
def satS (w : Nat) (v : Int) : Int :=
  if v < -((2 ^ (w - 1) : Nat) : Int) then -((2 ^ (w - 1) : Nat) : Int)
  else if v > ((2 ^ (w - 1) - 1 : Nat) : Int) then ((2 ^ (w - 1) - 1 : Nat) : Int) else v

/-- SatU of R138. -/
def satU (w : Nat) (v : Int) : Int :=
  if v < 0 then 0 else if v > ((2 ^ w - 1 : Nat) : Int) then ((2 ^ w - 1 : Nat) : Int) else v

/-- Bits [hi:lo] of a number. -/
def field (n hi lo : Nat) : Nat := (n / 2 ^ lo) % 2 ^ (hi + 1 - lo)

/-- n with bits [hi:lo] replaced by v. -/
def putField (n hi lo v : Nat) : Nat :=
  n - field n hi lo * 2 ^ lo + (v % 2 ^ (hi + 1 - lo)) * 2 ^ lo

/-- 2^w − 1. -/
def ones (w : Nat) : Nat := 2 ^ w - 1

/-! ## Lanes -/

/-- Lane j of width w of a value (R5). -/
def laneOf (w : Nat) (v j : Nat) : Nat := (v / 2 ^ (w * j)) % 2 ^ w

/-- The value whose lanes, of width w, are listed from lane 0. -/
def packLanes (w : Nat) : List Nat → Nat
  | [] => 0
  | x :: xs => x % 2 ^ w + 2 ^ w * packLanes w xs

/-- The lanes of width w of an operand, lane 0 first. -/
def lanes (w : Nat) (v : Vec) : List Nat := (upto (128 / w)).map fun j => laneOf w v.toNat j

/-- The operand whose lanes are listed. -/
def vecOf (w : Nat) (l : List Nat) : Vec := BitVec.ofNat 128 (packLanes w l)

/-- Lane by lane on one, two and three operands. -/
def lanes1 (w : Nat) (f : Nat → Nat) (a : Vec) : Vec := vecOf w ((lanes w a).map f)

def lanes2 (w : Nat) (f : Nat → Nat → Nat) (a b : Vec) : Vec :=
  vecOf w (List.zipWith f (lanes w a) (lanes w b))

def lanes3 (w : Nat) (f : Nat → Nat → Nat → Nat) (a b c : Vec) : Vec :=
  vecOf w (List.zipWith (fun p z => f p.1 p.2 z) (List.zip (lanes w a) (lanes w b)) (lanes w c))

/-! ## Bytes -/

/-- The n little-endian bytes of a number (R5). -/
def bytesOf : Nat → Nat → List Byte
  | 0, _ => []
  | n + 1, v => BitVec.ofNat 8 v :: bytesOf n (v / 256)

/-- The little-endian number of a list of bytes (R5). -/
def leVal : List Byte → Nat
  | [] => 0
  | b :: bs => b.toNat + 256 * leVal bs

/-- The big-endian number of a list of bytes. -/
def beVal (l : List Byte) : Nat := leVal l.reverse

/-- Byte j of a line. -/
def lineByte (l : Line) (j : Nat) : Byte := l.extractLsb' (8 * j) 8

/-- n bytes of a line from byte j. -/
def lineBytes (l : Line) (j n : Nat) : List Byte := (upto n).map fun i => lineByte l (j + i)

/-- A mask of 64 bits with one bit for each byte, as a mask of the line's 512 bits. -/
def maskBits (m : BitVec 64) : Line :=
  BitVec.ofNat 512 ((upto 64).foldl (fun a j => if m.getLsbD j then a + 255 * 2 ^ (8 * j) else a) 0)

/-- The bytes of `new` where the mask is set, over `old`. -/
def mergeLine (old new : Line) (m : BitVec 64) : Line :=
  (old &&& ~~~ maskBits m) ||| (new &&& maskBits m)

/-- A line that holds the bytes from byte j on, and the mask of those bytes. -/
def placeBytes (j : Nat) (bs : List Byte) : Line × BitVec 64 :=
  (BitVec.ofNat 512 (leVal bs * 2 ^ (8 * j)), BitVec.ofNat 64 (ones bs.length * 2 ^ j))

/-! ## The byte memory: cells in rising address order, none holding the 0 that an unlisted byte reads as -/

/-- What a byte that nothing has written reads as (log 2). -/
def unwritten : Byte := 0

def memGet : List Host.Cell → Nat → Byte
  | [], _ => unwritten
  | (j, b) :: r, a => if j = a then b else if a < j then unwritten else memGet r a

/-- Canonical form: addresses strictly rising, and no cell holding what an unlisted byte reads as. -/
def Memory.wf : List Host.Cell → Bool
  | [] => true
  | [(_, b)] => b != unwritten
  | (i, b) :: (j, c) :: r => b != unwritten && decide (i < j) && Memory.wf ((j, c) :: r)

/-- n bytes from an address on. -/
def memBytes (m : List Host.Cell) (a n : Nat) : List Byte :=
  let r := m.dropWhile fun c => decide (c.1 < a)
  (upto n).map fun i => memGet r (a + i)

/-- The cells of bytes from an address on: those that differ from what an unlisted byte reads as. -/
def cellsFrom (a : Nat) : List Byte → List Host.Cell
  | [] => []
  | b :: bs => if b = unwritten then cellsFrom (a + 1) bs else (a, b) :: cellsFrom (a + 1) bs

/-- Writes bytes from an address on. -/
def memWrite (m : List Host.Cell) (a : Nat) (bs : List Byte) : List Host.Cell :=
  m.takeWhile (fun c => decide (c.1 < a)) ++ cellsFrom a bs ++ m.dropWhile fun c => decide (c.1 < a + bs.length)

/-- The little-endian number of n bytes from an address on. -/
def memVal (m : List Host.Cell) (a n : Nat) : Nat := leVal (memBytes m a n)

/-- The 64-byte line with number l. -/
def memLine (m : List Host.Cell) (l : Nat) : Line := BitVec.ofNat 512 (memVal m (64 * l) 64)

/-- Writes the bytes of a line that a mask names. -/
def memWriteMask (m : List Host.Cell) (l : Nat) (d : Line) (k : BitVec 64) : List Host.Cell :=
  let old := memBytes m (64 * l) 64
  memWrite m (64 * l) ((upto 64).map fun j => if k.getLsbD j then lineByte d j else old.getD j unwritten)

end Sys2Proof.Machine
end

