-- ==== Sys2Proof/Machine/Float.lean ====
section
/-!
DEFINITION. Machine/Float.lean: the number formats of R34 to R47, exact values, rounding (R48 to R51), NaNs (R38),
MX scales and blocks (R41 to R46).
-/
namespace Sys2Proof.Machine

/-! ## Formats -/

/-- Exponent bits, fraction bits and bias of a floating-point format (R34). -/
def fmtParams : NumFmt → Nat × Nat × Nat
  | .fp64 => (11, 52, 1023)
  | .fp32 => (8, 23, 127)
  | .fp16 => (5, 10, 15)
  | .bf16 => (8, 7, 127)
  | .e5m2 => (5, 2, 15)
  | .e4m3 => (4, 3, 7)
  | .e3m2 => (3, 2, 3)
  | .e2m3 => (2, 3, 1)
  | .e2m1 => (2, 1, 1)
  | .fa40 => (9, 30, 255)
  | .int8 | .int16 | .int32 | .int64 | .int4 => (0, 0, 0)

/-- Formats with infinities and NaN payloads (R35). -/
def hasInf : NumFmt → Bool
  | .fp64 | .fp32 | .fp16 | .bf16 | .e5m2 | .fa40 => true
  | _ => false

/-- Formats that encode a NaN. -/
def hasNaN (f : NumFmt) : Bool := hasInf f || f == .e4m3

/-- Canonical NaN code (R34); 0 where the format has none. -/
def canonNaN : NumFmt → Nat
  | .fp64 => 0x7FF8000000000000
  | .fp32 => 0x7FC00000
  | .fp16 => 0x7E00
  | .bf16 => 0x7FC0
  | .e5m2 => 0x7E
  | .e4m3 => 0x7F
  | .fa40 => 0x7FE0000000
  | _ => 0

/-- Code of the largest finite magnitude (R34). -/
def maxCode : NumFmt → Nat
  | .e4m3 => 0x7E
  | f =>
    let p := fmtParams f
    if hasInf f then (2 ^ p.1 - 2) * 2 ^ p.2.1 + (2 ^ p.2.1 - 1) else 2 ^ (p.1 + p.2.1) - 1

def infCode (f : NumFmt) : Nat := let p := fmtParams f; (2 ^ p.1 - 1) * 2 ^ p.2.1

/-- The sign bit of a code. -/
def signCode (f : NumFmt) (neg : Bool) : Nat := if neg then 2 ^ (f.width - 1) else 0

/-! ## Values -/

/-- The value of a code: a NaN with its sign, fraction field and whether it signals; an infinity; or ±m × 2^e. -/
inductive FV where
  | nan (neg : Bool) (frac : Nat) (fbits : Nat) (sig : Bool)
  | inf (neg : Bool)
  | fin (neg : Bool) (m : Nat) (e : Int)
  deriving DecidableEq, Repr, Inhabited

/-- The value of a floating-point code (R35, R37). -/
def decodeF (f : NumFmt) (x : Nat) : FV :=
  let (eb, fb, bias) := fmtParams f
  let neg := x.testBit (f.width - 1)
  let e := field x (fb + eb - 1) fb
  let fr := x % 2 ^ fb
  if hasInf f && e == 2 ^ eb - 1 then
    if fr == 0 then .inf neg else .nan neg fr fb (!fr.testBit (fb - 1))
  else if f == .e4m3 && e == 15 && fr == 7 then .nan neg fr fb false
  else if e == 0 then .fin neg fr (1 - (bias : Int) - fb)
  else .fin neg (2 ^ fb + fr) ((e : Int) - bias - fb)

/-- The value of an integer code (R39). -/
def decodeI (f : NumFmt) (x : Nat) : FV :=
  let v := sext f.width x
  .fin (decide (v < 0)) v.natAbs 0

/-- The value of a code of any format. -/
def decodeN (f : NumFmt) (x : Nat) : FV := if f.isInt then decodeI f x else decodeF f x

def FV.isNaN : FV → Bool
  | .nan .. => true
  | _ => false

def FV.isSig : FV → Bool
  | .nan _ _ _ s => s
  | _ => false

def FV.isInf : FV → Bool
  | .inf _ => true
  | _ => false

def FV.isZero : FV → Bool
  | .fin _ m _ => m == 0
  | _ => false

def FV.neg : FV → Bool
  | .nan n .. => n
  | .inf n => n
  | .fin n _ _ => n

/-- The value with its sign replaced. -/
def FV.withSign : FV → Bool → FV
  | .nan _ f b s, n => .nan n f b s
  | .inf _, n => .inf n
  | .fin _ m e, n => .fin n m e

/-! ## Flags: NV, DZ, OF, UF, NX in bits 4 to 0, as FPST holds them (R55) -/

abbrev Flags := BitVec 5
def fNV : Flags := 16
def fDZ : Flags := 8
def fOF : Flags := 4
def fUF : Flags := 2
def fNX : Flags := 1

/-! ## Rounding -/

/-- One above the position of the highest set bit; 0 for 0. -/
def bitLen (m : Nat) : Nat := if m = 0 then 0 else m.log2 + 1

/-- m ÷ 2^sh rounded to an integer by a mode of R48, and whether that is inexact. -/
def roundInt (rm : Nat) (neg : Bool) (m : Nat) (sh : Nat) : Nat × Bool :=
  let n := m / 2 ^ sh
  let r := m % 2 ^ sh
  let half := 2 ^ (sh - 1)
  let up : Bool :=
    if r = 0 then false
    else if rm = 0 then decide (r > half) || (r == half && n % 2 == 1)
    else if rm = 1 then false
    else if rm = 2 then !neg
    else neg
  (if up then n + 1 else n, r != 0)

/-- m × 2^e on the grid of multiples of 2^q: how many, and whether it is inexact. -/
def onGrid (rm : Nat) (neg : Bool) (m : Nat) (e q : Int) : Nat × Bool :=
  if q ≤ e then (m * 2 ^ (e - q).toNat, false) else roundInt rm neg m (q - e).toNat

/-- The code of n × 2^q, which is a value of the format. -/
def encodeF (f : NumFmt) (neg : Bool) (n : Nat) (q : Int) : Nat :=
  let (_, fb, bias) := fmtParams f
  if n = 0 then signCode f neg
  else
    let l := bitLen n - 1
    let ex : Int := l + q
    let emin : Int := 1 - (bias : Int)
    if ex < emin then signCode f neg + (n : Nat) * 2 ^ (q - (emin - fb)).toNat
    else
      let fr := if l ≤ fb then n * 2 ^ (fb - l) else n / 2 ^ (l - fb)
      signCode f neg + (ex + bias).toNat * 2 ^ fb + (fr - 2 ^ fb)

/-- The magnitude of the largest finite value as m × 2^e. -/
def maxMag (f : NumFmt) : Nat × Int :=
  match decodeF f (maxCode f) with
  | .fin _ m e => (m, e)
  | _ => (0, 0)

/-- m × 2^e > n × 2^q. -/
def magGt (m : Nat) (e : Int) (n : Nat) (q : Int) : Bool :=
  if e ≤ q then decide (m > n * 2 ^ (q - e).toNat) else decide (m * 2 ^ (e - q).toNat > n)

/-- What overflow gives (R49). -/
def overflowCode (f : NumFmt) (rm : Nat) (neg : Bool) : Nat :=
  let big := maxCode f + signCode f neg
  if !hasInf f then big
  else if rm = 0 then infCode f + signCode f neg
  else if rm = 1 then big
  else if (rm = 2 && !neg) || (rm = 3 && neg) then infCode f + signCode f neg
  else big

/-- Round of R49 on a finite value ±m × 2^e, with the flags of R50. -/
def roundFin (f : NumFmt) (rm : Nat) (neg : Bool) (m : Nat) (e : Int) : Nat × Flags :=
  if m = 0 then (signCode f neg, 0)
  else
    let (_, fb, bias) := fmtParams f
    let emin : Int := 1 - (bias : Int)
    let ex : Int := (bitLen m - 1 : Nat) + e
    let qn : Int := ex - fb
    let q : Int := if qn < emin - fb then emin - fb else qn
    let (n, inexact) := onGrid rm neg m e q
    let (n', _) := onGrid rm neg m e qn
    let tiny := magGt 1 emin n' qn
    let mx := maxMag f
    if magGt n q mx.1 mx.2 then (overflowCode f rm neg, fOF ||| fNX)
    else (encodeF f neg n q, (if inexact then fNX else 0) ||| (if inexact && tiny then fUF else 0))

/-- RoundSat of R45. -/
def roundSat (f : NumFmt) (rm : Nat) (neg : Bool) (m : Nat) (e : Int) : Nat × Flags :=
  let (c, fl) := roundFin f rm neg m e
  if fl &&& fOF != 0 then (maxCode f + signCode f neg, fNX) else (c, fl)

/-- A NaN in another floating-point format (R38). -/
def convNaN (f : NumFmt) (neg : Bool) (fr fbits : Nat) : Nat :=
  if f == .e4m3 then 0x7F + signCode f neg
  else if !hasInf f then 0
  else
    let fb := (fmtParams f).2.1
    let fr' := if fbits ≤ fb then fr * 2 ^ (fb - fbits) else fr / 2 ^ (fbits - fb)
    signCode f neg + infCode f + (fr' ||| 2 ^ (fb - 1))

/-- Round of R49 on any value, a NaN by R38. -/
def roundV (f : NumFmt) (rm : Nat) : FV → Nat × Flags
  | .nan neg fr fb sig =>
    (convNaN f neg fr fb, if sig || !hasNaN f then fNV else 0)
  | .inf neg => if hasInf f then (infCode f + signCode f neg, 0) else (maxCode f + signCode f neg, fNV)
  | .fin neg m e => roundFin f rm neg m e

/-- Conversion to an integer format (R51). -/
def roundToInt (f : NumFmt) (rm : Nat) : FV → Nat × Flags
  | .nan .. => (0, fNV)
  | .inf neg => (if neg then 2 ^ (f.width - 1) else 2 ^ (f.width - 1) - 1, fNV)
  | .fin neg m e =>
    let (n, inexact) := onGrid rm neg m e 0
    let v : Int := if neg then -(n : Int) else n
    let s := satS f.width v
    (wrap f.width s, if s != v then fNV else if inexact then fNX else 0)

/-- Conv of R159 between any two formats. -/
def conv (src dst : NumFmt) (rm : Nat) (x : Nat) : Nat × Flags :=
  if src.isInt && dst.isInt then (wrap dst.width (satS dst.width (sext src.width x)), 0)
  else if dst.isInt then roundToInt dst rm (decodeN src x)
  else roundV dst rm (decodeN src x)

/-! ## Exact sums, products and comparisons -/

/-- A finite value as a signed multiple of 2^e. -/
def scaled (neg : Bool) (m : Nat) (e e0 : Int) : Int :=
  let v : Int := (m * 2 ^ (e - e0).toNat : Nat)
  if neg then -v else v

/-- The exact sum of finite addends (sign, m, e); a zero sum is −0 only when every addend is −0 (R147). -/
def sumFin (l : List (Bool × Nat × Int)) : FV :=
  let e0 := l.foldl (fun a x => if x.2.2 < a then x.2.2 else a) (l.headD (false, 0, 0)).2.2
  let s := l.foldl (fun (a : Int) x => a + scaled x.1 x.2.1 x.2.2 e0) 0
  if s = 0 then .fin (l.all fun x => x.1 && x.2.1 == 0) 0 0 else .fin (decide (s < 0)) s.natAbs e0

/-- The exact product of two values that are not NaNs; none for infinity times zero. -/
def mulV : FV → FV → Option FV
  | .fin a m e, .fin b n q => some (.fin (a != b) (m * n) (e + q))
  | x, y => if x.isZero || y.isZero then none else some (.inf (x.neg != y.neg))

/-- The exact sum of values that are not NaNs; none where opposite infinities meet. -/
def sumV (l : List FV) : Option FV :=
  let infs := l.filter FV.isInf
  match infs with
  | [] => some (sumFin (l.filterMap fun x => match x with | .fin n m e => some (n, m, e) | _ => none))
  | i :: r => if r.all (fun x => x.neg == i.neg) then some i else none

/-- −x. -/
def FV.negate (x : FV) : FV := x.withSign (!x.neg)

/-- Compares two values that are not NaNs, −0 equal to +0. -/
def cmpV (x y : FV) : Ordering :=
  match x, y with
  | .inf a, .inf b => if a == b then .eq else if a then .lt else .gt
  | .inf a, _ => if a then .lt else .gt
  | _, .inf b => if b then .gt else .lt
  | .fin a m e, .fin b n q =>
    let e0 := if e ≤ q then e else q
    compare (scaled a m e e0) (scaled b n q e0)
  | _, _ => .eq

def ltV (x y : FV) : Bool := cmpV x y == .lt
def leV (x y : FV) : Bool := cmpV x y != .gt

/-- The lesser of two values that are not NaNs, with −0 < +0 (R147). -/
def minV (x y : FV) : FV :=
  match cmpV x y with
  | .lt => x
  | .gt => y
  | .eq => if x.neg then x else y

def maxV (x y : FV) : FV :=
  match cmpV x y with
  | .lt => y
  | .gt => x
  | .eq => if x.neg then y else x

/-- x ÷ y for finite x and finite non-zero y, to at least p bits, its last bit standing for the rest. -/
def divSticky (p : Nat) (m : Nat) (e : Int) (n : Nat) (q : Int) : Nat × Int :=
  let sh := p + bitLen n
  let a := m * 2 ^ sh
  (2 * (a / n) + (if a % n = 0 then 0 else 1), e - q - sh - 1)

/-- Integer square root by bits, from bit k down. -/
def isqrtAux : Nat → Nat → Nat → Nat
  | 0, n, r => if (r + 1) * (r + 1) ≤ n then r + 1 else r
  | k + 1, n, r =>
    let t := r + 2 ^ (k + 1)
    isqrtAux k n (if t * t ≤ n then t else r)

def isqrt (n : Nat) : Nat := isqrtAux (bitLen n / 2 + 1) n 0

/-- √(m × 2^e) to at least p bits, its last bit standing for the rest. -/
def sqrtSticky (p : Nat) (m : Nat) (e : Int) : Nat × Int :=
  let (m, e) := if e % 2 = 0 then (m, e) else (2 * m, e - 1)
  let a := m * 2 ^ (2 * p)
  let r := isqrt a
  (2 * r + (if r * r = a then 0 else 1), e / 2 - p - 1)

/-! ## MX scales and blocks -/

/-- EmaxElem of R45. -/
def emaxElem : NumFmt → Int
  | .e4m3 => 8 | .e5m2 => 15 | .e3m2 => 4 | .e2m3 => 2 | .e2m1 => 2 | _ => 0

/-- Floor(Log2(m × 2^e)) of a non-zero magnitude. -/
def floorLog2 (m : Nat) (e : Int) : Int := (bitLen m - 1 : Nat) + e

/-- The scale code of a block of values, and whether it holds a NaN or an infinity (R45, R163). -/
def mxScale (vs : List FV) (f : NumFmt) : Nat × Flags :=
  if vs.any fun v => v.isNaN || v.isInf then (0xFF, fNV)
  else
    let logs := vs.filterMap fun v => match v with | .fin _ m e => if m = 0 then none else some (floorLog2 m e) | _ => none
    let x : Int := match logs with
      | [] => 0
      | l :: r => r.foldl (fun a b => if a < b then b else a) l - emaxElem f
    let x := if x < -127 then -127 else if x > 127 then 127 else x
    ((x + 127).toNat, 0)

/-- NV of a signalling operand (R38, R50). -/
def sigNV (v : FV) : Flags := if v.isSig then fNV else 0

/-- One element of an MX block under a scale code (R45, R164); under 0xFF a signalling operand still sets NV (R38). -/
def mxElem (v : FV) (scale : Nat) (f : NumFmt) (rm : Nat) : Nat × Flags :=
  if scale = 0xFF then (0, sigNV v)
  else match v with
    | .fin neg m e => roundSat f rm neg m (e + 127 - scale)
    | x => roundV f rm x

/-- MxQuantise of R45. -/
def mxQuantise (vs : List FV) (f : NumFmt) (rm : Nat) : Nat × List Nat × Flags :=
  let (s, fl) := mxScale vs f
  let q := vs.map fun v => mxElem v s f rm
  (s, q.map (·.1), q.foldl (fun a x => a ||| x.2) fl)

/-- One element of an MX block, dequantised (R44); a signalling code sets NV under every scale. -/
def mxDequant (x : Nat) (src : NumFmt) (scale : Nat) (dst : NumFmt) (rm : Nat) : Nat × Flags :=
  if scale = 0xFF then (canonNaN dst, sigNV (decodeF src x))
  else match decodeF src x with
    | .nan _ _ _ sig => (canonNaN dst, if sig then fNV else 0)
    | .inf n => (infCode dst + signCode dst n, 0)
    | .fin neg m e => roundFin dst rm neg m (e + (scale : Int) - 127)

/-- The value of a PS8 code (R46). -/
def ps8Value (x : Nat) : FV :=
  let t1 : Bool × Nat × Int := (x.testBit 7, 1, -((field x 6 4 : Nat) : Int))
  let b := field x 2 0
  if b = 7 then .fin t1.1 t1.2.1 t1.2.2 else sumFin [t1, (x.testBit 3, 1, -(b : Int))]

/-- One element of a PS8 block, dequantised (R44, R46). -/
def ps8Dequant (x scale : Nat) (dst : NumFmt) (rm : Nat) : Nat × Flags :=
  if scale = 0xFF then (canonNaN dst, 0)
  else match ps8Value x with
    | .fin neg m e => roundFin dst rm neg m (e + (scale : Int) - 127)
    | _ => (canonNaN dst, 0)

/-- Element j of an array of elements of a width in bits, packed as R43 lays it out. -/
def elemOfBytes (w : Nat) (bs : List Byte) (j : Nat) : Nat :=
  if w = 6 then
    let g := j / 4
    field (leVal ((bs.drop (3 * g)).take 3)) (6 * (j % 4) + 5) (6 * (j % 4))
  else if w = 4 then
    let b := (bs.getD (j / 2) 0).toNat
    if j % 2 = 0 then b % 16 else b / 16
  else leVal ((bs.drop (j * (w / 8))).take (w / 8))

/-- Packs elements of a width in bits into bytes (R43). -/
def elemsToBytes (w : Nat) (l : List Nat) : List Byte := bytesOf (w * l.length / 8) (packLanes w l)

/-- The format of a code of R40: plain formats. -/
def codeFmt : Nat → Option NumFmt
  | 0x01 => some .int8 | 0x02 => some .int16 | 0x03 => some .int32 | 0x04 => some .int64 | 0x05 => some .int4
  | 0x06 => some .fp16 | 0x07 => some .bf16 | 0x08 => some .fp32 | 0x09 => some .fp64
  | 0x0A => some .e4m3 | 0x0B => some .e5m2 | 0x0C => some .e2m1 | 0x13 => some .fa40
  | _ => none

/-- The element format of a block-scaled code of R40; PS8 (0x12) is none. -/
def blockFmt : Nat → Option NumFmt
  | 0x0D => some .e4m3 | 0x0E => some .e5m2 | 0x0F => some .e3m2 | 0x10 => some .e2m3 | 0x11 => some .e2m1
  | _ => none

/-- Bits of one element of a format code. -/
def codeWidth (c : Nat) : Nat :=
  match codeFmt c with
  | some f => f.width
  | none => match blockFmt c with | some f => f.width | none => 8

end Sys2Proof.Machine
end

