-- ==== Sys2Proof/Decode.lean ====
section
/-!
DEFINITION. Decode.lean: the encodings of the element word (R64 to R79) and of the sequencer word (R80 to R90),
the decoder of each, and the encoder. A reserved encoding decodes to the step that the spec gives it: the firing
of a faulty slot, an illegal instruction, or an instruction fetch fault.
-/
namespace Sys2Proof

/-! ## Fields -/

/-- The fields of an element word (R64). -/
structure ElemWord where
  v : BitVec 1
  ph : BitVec 1
  mask : BitVec 4
  val : BitVec 4
  tq : BitVec 3
  tag : BitVec 5
  pwr : BitVec 2
  op : BitVec 7
  ty : BitVec 3
  d : BitVec 6
  a : BitVec 6
  b : BitVec 6
  c : BitVec 6
  ps : BitVec 6
  dq : BitVec 1
  beats : BitVec 3
  deriving DecidableEq, Repr

/-- The 64-bit word of the fields (R64). -/
def ElemWord.pack (w : ElemWord) : BitVec 64 :=
  w.v ++ w.ph ++ w.mask ++ w.val ++ w.tq ++ w.tag ++ w.pwr ++ w.op ++ w.ty ++ w.d ++ w.a ++ w.b ++ w.c
    ++ w.ps ++ w.dq ++ w.beats

/-- The fields of a 64-bit word (R64). -/
def ElemWord.unpack (x : BitVec 64) : ElemWord where
  v := x.extractLsb' 63 1
  ph := x.extractLsb' 62 1
  mask := x.extractLsb' 58 4
  val := x.extractLsb' 54 4
  tq := x.extractLsb' 51 3
  tag := x.extractLsb' 46 5
  pwr := x.extractLsb' 44 2
  op := x.extractLsb' 37 7
  ty := x.extractLsb' 34 3
  d := x.extractLsb' 28 6
  a := x.extractLsb' 22 6
  b := x.extractLsb' 16 6
  c := x.extractLsb' 10 6
  ps := x.extractLsb' 4 6
  dq := x.extractLsb' 3 1
  beats := x.extractLsb' 0 3

/-- imm12, bits [21:10] of the word (R71). -/
def ElemWord.imm (w : ElemWord) : BitVec 12 := w.b ++ w.c

def bit (b : Bool) : BitVec 1 := if b then 1#1 else 0#1

def isOne (b : BitVec 1) : Bool := b == 1#1

/-- Operand codes (R67). -/
def Opnd.code : Opnd → BitVec 6
  | .f n => BitVec.ofNat 6 n.val
  | .la => 0x18#6
  | .lb => 0x19#6
  | .q n => BitVec.ofNat 6 (0x1A + n.val)
  | .m n => BitVec.ofNat 6 (0x20 + n.val)

/-- The operand of a code; codes 0x10 to 0x17 are reserved (R67). -/
def opnd? (x : BitVec 6) : Option Opnd :=
  let n := x.toNat
  if n < 16 then some (.f (Fin.ofNat 16 n))
  else if n < 0x18 then none
  else if n = 0x18 then some .la
  else if n = 0x19 then some .lb
  else if n < 0x20 then some (.q (Fin.ofNat 6 (n - 0x1A)))
  else some (.m (Fin.ofNat 32 (n - 0x20)))

def LaneTy.code : LaneTy → BitVec 3
  | .b => 0#3 | .h => 1#3 | .w => 2#3 | .d => 3#3 | .q => 4#3 | .bf => 5#3 | .e5 => 6#3

def PowerClass.code : PowerClass → BitVec 2
  | .light => 0#2 | .normal => 1#2 | .heavy => 2#2

def power? : BitVec 2 → Option PowerClass
  | 0#2 => some .light | 1#2 => some .normal | 2#2 => some .heavy | _ => none

def Beats.code : Beats → BitVec 3
  | .x1 => 0#3 | .x2 => 1#3 | .x4 => 2#3 | .x8 => 3#3 | .x16 => 4#3 | .x32 => 5#3 | .x64 => 6#3

def beats? : BitVec 3 → Option Beats
  | 0#3 => some .x1 | 1#3 => some .x2 | 2#3 => some .x4 | 3#3 => some .x8 | 4#3 => some .x16
  | 5#3 => some .x32 | 6#3 => some .x64 | _ => none

def Scope.code : Scope → BitVec 3
  | .e => 0#3 | .reg => 1#3 | .die => 2#3 | .pkg => 3#3 | .sys => 4#3

def scope? : BitVec 3 → Option Scope
  | 0#3 => some .e | 1#3 => some .reg | 2#3 => some .die | 3#3 => some .pkg | 4#3 => some .sys | _ => none

def Policy.code : Policy → BitVec 3
  | .dflt => 0#3 | .cg => 1#3 | .strm => 2#3 | .noal => 3#3

def policy? : BitVec 3 → Option Policy
  | 0#3 => some .dflt | 1#3 => some .cg | 2#3 => some .strm | 3#3 => some .noal | _ => none

def PredMode.code : PredMode → BitVec 3
  | .clear => 1#3 | .set => 2#3 | .zero => 3#3 | .sign => 4#3 | .carry => 5#3 | .toggle => 6#3 | .any => 7#3

def predMode? : BitVec 3 → Option PredMode
  | 1#3 => some .clear | 2#3 => some .set | 3#3 => some .zero | 4#3 => some .sign | 5#3 => some .carry
  | 6#3 => some .toggle | 7#3 => some .any | _ => none

/-- The predicate update that PS holds (R73); the outer none is a reserved value. -/
def psField? (x : BitVec 6) : Option (Option (PredMode × Fin 8)) :=
  if x.extractLsb' 3 3 == 0#3 then (if x.extractLsb' 0 3 == 0#3 then some none else none)
  else (predMode? (x.extractLsb' 3 3)).map fun m => some (m, Fin.ofNat 8 (x.extractLsb' 0 3).toNat)

/-- The tag test that TQ and TAG hold (R64, R65); the outer none is a reserved value. -/
def tagTest? (tq : BitVec 3) (tag : BitVec 5) : Option (Option (Fin 6 × BitVec 5)) :=
  if tq.toNat < 6 then some (some (Fin.ofNat 6 tq.toNat, tag))
  else if tq == 7#3 && tag == 0#5 then some none else none

/-- PS of an instruction of class R, I or S (R73). -/
def Hdr.psCode (h : Hdr) : BitVec 6 :=
  match h.ps with
  | none => 0#6
  | some (m, p) => m.code ++ BitVec.ofNat 3 p.val

/-- The fields of a word with the given header and fields (R64). -/
def Hdr.word (h : Hdr) (op : BitVec 7) (d a b c ps : BitVec 6) : ElemWord where
  v := 1#1
  ph := h.ph
  mask := h.mask
  val := h.val
  tq := match h.tagTest with | some (q, _) => BitVec.ofNat 3 q.val | none => 7#3
  tag := match h.tagTest with | some (_, t) => t | none => 0#5
  pwr := h.pwr.code
  op := op
  ty := h.ty.code
  d := d
  a := a
  b := b
  c := c
  ps := ps
  dq := bit h.dq
  beats := h.beats.code

/-- The same with an imm12 in place of B and C (R70). -/
def Hdr.wordI (h : Hdr) (op : BitVec 7) (d a : BitVec 6) (imm : BitVec 12) (ps : BitVec 6) : ElemWord :=
  h.word op d a (imm.extractLsb' 6 6) (imm.extractLsb' 0 6) ps

/-- Opcodes of class M (R70). -/
def isClassM (op : Nat) : Bool := op == 0x0E || (decide (0x68 ≤ op) && decide (op ≤ 0x77))

/-- The header of a word; none where one of its fields is reserved (R75). -/
def hdr? (w : ElemWord) : Option Hdr :=
  (tagTest? w.tq w.tag).bind fun t =>
  (power? w.pwr).bind fun p =>
  (laneTy? w.ty).bind fun ty =>
  (beats? w.beats).bind fun n =>
  (if isClassM w.op.toNat then some none else psField? w.ps).bind fun ps =>
  some ⟨w.ph, w.mask, w.val, t, p, ty, ps, isOne w.dq, n⟩

/-! ## Element instructions -/

/-- The word of an element instruction (R64 to R74 and the encoding tables); none for every other constructor. -/
def elemWord : Instr → Option ElemWord
  | .nop h => some (h.word 0x00#7 0#6 0#6 0#6 0#6 h.psCode)
  | .mov h d a => some (h.word 0x01#7 d.code a.code 0#6 0#6 h.psCode)
  | .movi h d imm => some (h.wordI 0x02#7 d.code 0#6 imm h.psCode)
  | .movhi h d a imm => some (h.wordI 0x03#7 d.code a.code imm h.psCode)
  | .sel h d a b c => some (h.word 0x04#7 d.code a.code b.code c.code h.psCode)
  | .pset h a => some (h.word 0x05#7 0#6 a.code 0#6 0#6 h.psCode)
  | .tags h d vc ctx => some (h.word 0x06#7 d.code 0#6 (0#1 ++ vc) (0#4 ++ ctx) h.psCode)
  | .halt h => some (h.word 0x07#7 0#6 0#6 0#6 0#6 h.psCode)
  | .send h d a eow vc ctx => some (h.word 0x08#7 d.code a.code ((bit eow) ++ vc) (0#4 ++ ctx) h.psCode)
  | .sendo h d a eow vc sc ctx => some (h.word 0x09#7 d.code a.code ((bit eow) ++ vc) (sc.code ++ 0#1 ++ ctx) h.psCode)
  | .drop h a => some (h.word 0x0A#7 0#6 a.code 0#6 0#6 h.psCode)
  | .relay h d a => some (h.word 0x0B#7 d.code a.code 0#6 0#6 h.psCode)
  | .lcnt h d a => some (h.word 0x0C#7 d.code a.code 0#6 0#6 h.psCode)
  | .ftset h a fmt vc => some (h.wordI 0x0D#7 0#6 a.code (0#2 ++ fmt ++ vc) h.psCode)
  | .arrive h a off rc ch sc => some (h.word 0x0E#7 0#6 a.code off (rc ++ ch ++ 1#1) (sc.code ++ 0#3))
  | .fevt h a => some (h.word 0x0F#7 0#6 a.code 0#6 0#6 h.psCode)
  | .add h d a b => some (h.word 0x10#7 d.code a.code b.code 0#6 h.psCode)
  | .sub h d a b => some (h.word 0x11#7 d.code a.code b.code 0#6 h.psCode)
  | .adds h d a b => some (h.word 0x12#7 d.code a.code b.code 0#6 h.psCode)
  | .subs h d a b => some (h.word 0x13#7 d.code a.code b.code 0#6 h.psCode)
  | .addus h d a b => some (h.word 0x14#7 d.code a.code b.code 0#6 h.psCode)
  | .subus h d a b => some (h.word 0x15#7 d.code a.code b.code 0#6 h.psCode)
  | .mul h d a b => some (h.word 0x16#7 d.code a.code b.code 0#6 h.psCode)
  | .mulh h d a b => some (h.word 0x17#7 d.code a.code b.code 0#6 h.psCode)
  | .mulhu h d a b => some (h.word 0x18#7 d.code a.code b.code 0#6 h.psCode)
  | .mad h d a b c => some (h.word 0x19#7 d.code a.code b.code c.code h.psCode)
  | .addmin h d a b c => some (h.word 0x1A#7 d.code a.code b.code c.code h.psCode)
  | .addmax h d a b c => some (h.word 0x1B#7 d.code a.code b.code c.code h.psCode)
  | .min h d a b => some (h.word 0x1C#7 d.code a.code b.code 0#6 h.psCode)
  | .max h d a b => some (h.word 0x1D#7 d.code a.code b.code 0#6 h.psCode)
  | .minu h d a b => some (h.word 0x1E#7 d.code a.code b.code 0#6 h.psCode)
  | .maxu h d a b => some (h.word 0x1F#7 d.code a.code b.code 0#6 h.psCode)
  | .absd h d a b => some (h.word 0x20#7 d.code a.code b.code 0#6 h.psCode)
  | .and h d a b => some (h.word 0x21#7 d.code a.code b.code 0#6 h.psCode)
  | .or h d a b => some (h.word 0x22#7 d.code a.code b.code 0#6 h.psCode)
  | .xor h d a b => some (h.word 0x23#7 d.code a.code b.code 0#6 h.psCode)
  | .andn h d a b => some (h.word 0x24#7 d.code a.code b.code 0#6 h.psCode)
  | .shl h d a b => some (h.word 0x25#7 d.code a.code b.code 0#6 h.psCode)
  | .shr h d a b => some (h.word 0x26#7 d.code a.code b.code 0#6 h.psCode)
  | .sar h d a b => some (h.word 0x27#7 d.code a.code b.code 0#6 h.psCode)
  | .rol h d a b => some (h.word 0x28#7 d.code a.code b.code 0#6 h.psCode)
  | .popc h d a => some (h.word 0x29#7 d.code a.code 0#6 0#6 h.psCode)
  | .clz h d a => some (h.word 0x2A#7 d.code a.code 0#6 0#6 h.psCode)
  | .cmpeq h d a b => some (h.word 0x2B#7 d.code a.code b.code 0#6 h.psCode)
  | .cmplt h d a b => some (h.word 0x2C#7 d.code a.code b.code 0#6 h.psCode)
  | .cmpltu h d a b => some (h.word 0x2D#7 d.code a.code b.code 0#6 h.psCode)
  | .dot4 h d a b c => some (h.word 0x2E#7 d.code a.code b.code c.code h.psCode)
  | .sad h d a b c => some (h.word 0x2F#7 d.code a.code b.code c.code h.psCode)
  | .addi h d a imm => some (h.wordI 0x30#7 d.code a.code imm h.psCode)
  | .andi h d a imm => some (h.wordI 0x31#7 d.code a.code imm h.psCode)
  | .ori h d a imm => some (h.wordI 0x32#7 d.code a.code imm h.psCode)
  | .xori h d a imm => some (h.wordI 0x33#7 d.code a.code imm h.psCode)
  | .shli h d a imm => some (h.wordI 0x34#7 d.code a.code imm h.psCode)
  | .shri h d a imm => some (h.wordI 0x35#7 d.code a.code imm h.psCode)
  | .sari h d a imm => some (h.wordI 0x36#7 d.code a.code imm h.psCode)
  | .cmpeqi h d a imm => some (h.wordI 0x37#7 d.code a.code imm h.psCode)
  | .cmplti h d a imm => some (h.wordI 0x38#7 d.code a.code imm h.psCode)
  | .ext h d a pos len => some (h.word 0x39#7 d.code a.code pos len h.psCode)
  | .ins h d a pos len => some (h.word 0x3A#7 d.code a.code pos len h.psCode)
  | .lxor h d a imm => some (h.wordI 0x40#7 d.code a.code imm h.psCode)
  | .lfun h d a b imm => some (h.word 0x41#7 d.code a.code b.code imm h.psCode)
  | .lbcst h d a imm => some (h.wordI 0x42#7 d.code a.code imm h.psCode)
  | .txch h d a m => some (h.wordI 0x43#7 d.code a.code (0#8 ++ m) h.psCode)
  | .tbcst h d a src => some (h.wordI 0x44#7 d.code a.code (0#8 ++ src) h.psCode)
  | .tred h d a op gm => some (h.wordI 0x45#7 d.code a.code (op ++ gm ++ 0#4) h.psCode)
  | .lpack h d a b => some (h.word 0x46#7 d.code a.code b.code 0#6 h.psCode)
  | .lunpk h d a sx half => some (h.word 0x47#7 d.code a.code 0#6 (0#4 ++ (bit sx) ++ (bit half)) h.psCode)
  | .fadd h d a b => some (h.word 0x48#7 d.code a.code b.code 0#6 h.psCode)
  | .fsub h d a b => some (h.word 0x49#7 d.code a.code b.code 0#6 h.psCode)
  | .fmul h d a b => some (h.word 0x4A#7 d.code a.code b.code 0#6 h.psCode)
  | .fma h d a b c => some (h.word 0x4B#7 d.code a.code b.code c.code h.psCode)
  | .fnma h d a b c => some (h.word 0x4C#7 d.code a.code b.code c.code h.psCode)
  | .fmin h d a b => some (h.word 0x4D#7 d.code a.code b.code 0#6 h.psCode)
  | .fmax h d a b => some (h.word 0x4E#7 d.code a.code b.code 0#6 h.psCode)
  | .fcmpeq h d a b => some (h.word 0x4F#7 d.code a.code b.code 0#6 h.psCode)
  | .fcmplt h d a b => some (h.word 0x50#7 d.code a.code b.code 0#6 h.psCode)
  | .fcmple h d a b => some (h.word 0x51#7 d.code a.code b.code 0#6 h.psCode)
  | .fsgn h d a b => some (h.word 0x52#7 d.code a.code b.code 0#6 h.psCode)
  | .frcp h d a => some (h.word 0x53#7 d.code a.code 0#6 0#6 h.psCode)
  | .frsq h d a => some (h.word 0x54#7 d.code a.code 0#6 0#6 h.psCode)
  | .fexp2 h d a => some (h.word 0x55#7 d.code a.code 0#6 0#6 h.psCode)
  | .flog2 h d a => some (h.word 0x56#7 d.code a.code 0#6 0#6 h.psCode)
  | .fsin h d a => some (h.word 0x57#7 d.code a.code 0#6 0#6 h.psCode)
  | .fcos h d a => some (h.word 0x58#7 d.code a.code 0#6 0#6 h.psCode)
  | .frnd h d a rm => some (h.word 0x59#7 d.code a.code 0#6 (0#3 ++ rm) h.psCode)
  | .fdot2 h d a b c => some (h.word 0x5A#7 d.code a.code b.code c.code h.psCode)
  | .faddmin h d a b c => some (h.word 0x5B#7 d.code a.code b.code c.code h.psCode)
  | .fclass h d a => some (h.word 0x5C#7 d.code a.code 0#6 0#6 h.psCode)
  | .fscale h d a b => some (h.word 0x5D#7 d.code a.code b.code 0#6 h.psCode)
  | .fsat h d a => some (h.word 0x5E#7 d.code a.code 0#6 0#6 h.psCode)
  | .cvt h d a tt tf sf rm part => some (h.wordI 0x60#7 d.code a.code (tt ++ (bit tf) ++ (bit sf) ++ rm ++ part) h.psCode)
  | .cvtn h d a tt tf sf rm ef => some (h.wordI 0x61#7 d.code a.code (tt ++ (bit tf) ++ (bit sf) ++ rm ++ ef ++ 0#2) h.psCode)
  | .mxqSc h d a fmt => some (h.word 0x62#7 d.code a.code 0#6 (0#3 ++ fmt ++ 0#1) h.psCode)
  | .mxq h d a b rm fmt => some (h.word 0x62#7 d.code a.code b.code (rm ++ fmt ++ 1#1) h.psCode)
  | .mxdq h d a b part fmt => some (h.word 0x63#7 d.code a.code b.code (part ++ fmt ++ 0#1) h.psCode)
  | .efld h a n => some (h.word 0x64#7 0#6 a.code 0#6 (0#4 ++ n) h.psCode)
  | .efst h d n => some (h.word 0x65#7 d.code 0#6 0#6 (0#4 ++ n) h.psCode)
  | .ld h d a off rc ch sc pol => some (h.word 0x68#7 d.code a.code off (rc ++ ch ++ 0#1) (sc.code ++ pol.code))
  | .st h d a off rc ch sc pol => some (h.word 0x69#7 d.code a.code off (rc ++ ch ++ 1#1) (sc.code ++ pol.code))
  | .ldfKeep h d a off rc ch => some (h.word 0x6A#7 d.code a.code off (rc ++ ch ++ 0#1) 0#6)
  | .ldfClr h d a off rc ch => some (h.word 0x6A#7 d.code a.code off (rc ++ ch ++ 0#1) 0#6)
  | .stf h d a off rc ch => some (h.word 0x6B#7 d.code a.code off (rc ++ ch ++ 1#1) 0#6)
  | .ldg h d a off rc ch sc pol => some (h.word 0x6C#7 d.code a.code off (rc ++ ch ++ 0#1) (sc.code ++ pol.code))
  | .sts h d a off rc ch sc pol => some (h.word 0x6D#7 d.code a.code off (rc ++ ch ++ 1#1) (sc.code ++ pol.code))
  | .atom h d a op size rc ch sc => some (h.word 0x6E#7 d.code a.code (op ++ size) (rc ++ ch ++ 1#1) (sc.code ++ 0#3))
  | .fenceFull h sc => some (h.word 0x6F#7 0#6 0#6 0#6 0#6 (sc.code ++ 0#3))
  | .fenceRel h sc => some (h.word 0x6F#7 0#6 0#6 1#6 0#6 (sc.code ++ 0#3))
  | .fenceAcq h sc => some (h.word 0x6F#7 0#6 0#6 2#6 0#6 (sc.code ++ 0#3))
  | .ldr h d a off rc ch => some (h.word 0x70#7 d.code a.code off (rc ++ ch ++ 0#1) 0#6)
  | .seal h rc ch => some (h.word 0x71#7 0#6 0#6 0#6 (rc ++ ch ++ 1#1) 0#6)
  | .rclaim h rc ch => some (h.word 0x72#7 0#6 0#6 0#6 (rc ++ ch ++ 1#1) 0#6)
  | .pref h a off rc pol => some (h.word 0x73#7 0#6 a.code off (rc ++ 0#2 ++ 0#1) (0#3 ++ pol.code))
  | .invl1 h => some (h.word 0x74#7 0#6 0#6 0#6 0#6 0#6)
  | .fesetEmpty h a off rc ch => some (h.word 0x75#7 0#6 a.code off (rc ++ ch ++ 1#1) 0#6)
  | .fesetFull h a off rc ch => some (h.word 0x75#7 0#6 a.code off (rc ++ ch ++ 1#1) 0#6)
  | .brec h d a rc => some (h.word 0x76#7 d.code a.code 0#6 (rc ++ 0#2 ++ 0#1) 0#6)
  | .tsync h => some (h.word 0x77#7 0#6 0#6 0#6 0#6 0#6)
  | .rbox h d a b c => some (h.word 0x78#7 d.code a.code b.code c.code h.psCode)
  | .rtri h d a b c => some (h.word 0x79#7 d.code a.code b.code c.code h.psCode)
  | .spcfg h en qa qb => some (h.wordI 0x7A#7 0#6 0#6 ((bit en) ++ 0#2 ++ qa ++ qb ++ 0#3) h.psCode)
  | .seqt h d a => some (h.word 0x7B#7 d.code a.code 0#6 0#6 h.psCode)
  | .seqtRst h a j base => some (h.wordI 0x7B#7 0#6 a.code (1#1 ++ 0#4 ++ j ++ base) h.psCode)
  | .edge h d a b c => some (h.word 0x7C#7 d.code a.code b.code c.code h.psCode)
  | .ctlRead h d n => some (h.wordI 0x7D#7 d.code 0#6 (0#7 ++ n) h.psCode)
  | .ctlWrite h a n => some (h.wordI 0x7D#7 0#6 a.code (1#1 ++ 0#6 ++ n) h.psCode)
  | .trap h n => some (h.wordI 0x7E#7 0#6 0#6 (0#1 ++ n) h.psCode)
  | .bkpt h n => some (h.wordI 0x7E#7 0#6 0#6 (1#1 ++ n) h.psCode)
  | _ => none

/-- The instruction of opcodes 0x00 to 0x0F that a word names, its unused fields not yet checked. -/
def parse0 (w : ElemWord) (h : Hdr) : Option Instr :=
  match w.op.toNat with
  | 0x00 => some (.nop h)
  | 0x01 => (opnd? w.d).bind fun d => (opnd? w.a).bind fun a => some (.mov h d a)
  | 0x02 => (opnd? w.d).bind fun d => some (.movi h d w.imm)
  | 0x03 => (opnd? w.d).bind fun d => (opnd? w.a).bind fun a => some (.movhi h d a w.imm)
  | 0x04 => (opnd? w.d).bind fun d => (opnd? w.a).bind fun a => (opnd? w.b).bind fun b => (opnd? w.c).bind fun c => some (.sel h d a b c)
  | 0x05 => (opnd? w.a).bind fun a => some (.pset h a)
  | 0x06 => (opnd? w.d).bind fun d => some (.tags h d (w.b.extractLsb' 0 5) (w.c.extractLsb' 0 2))
  | 0x07 => some (.halt h)
  | 0x08 => (opnd? w.d).bind fun d => (opnd? w.a).bind fun a => some (.send h d a (isOne (w.b.extractLsb' 5 1)) (w.b.extractLsb' 0 5) (w.c.extractLsb' 0 2))
  | 0x09 => (opnd? w.d).bind fun d => (opnd? w.a).bind fun a => (scope? (w.c.extractLsb' 3 3)).bind fun sc => some (.sendo h d a (isOne (w.b.extractLsb' 5 1)) (w.b.extractLsb' 0 5) sc (w.c.extractLsb' 0 2))
  | 0x0A => (opnd? w.a).bind fun a => some (.drop h a)
  | 0x0B => (opnd? w.d).bind fun d => (opnd? w.a).bind fun a => some (.relay h d a)
  | 0x0C => (opnd? w.d).bind fun d => (opnd? w.a).bind fun a => some (.lcnt h d a)
  | 0x0D => (opnd? w.a).bind fun a => some (.ftset h a (w.imm.extractLsb' 5 5) (w.imm.extractLsb' 0 5))
  | 0x0E => (opnd? w.a).bind fun a => (scope? (w.ps.extractLsb' 3 3)).bind fun sc => some (.arrive h a w.b (w.c.extractLsb' 3 3) (w.c.extractLsb' 1 2) sc)
  | 0x0F => (opnd? w.a).bind fun a => some (.fevt h a)
  | _ => none

/-- The instruction of opcodes 0x10 to 0x1F that a word names, its unused fields not yet checked. -/
def parse1 (w : ElemWord) (h : Hdr) : Option Instr :=
  match w.op.toNat with
  | 0x10 => (opnd? w.d).bind fun d => (opnd? w.a).bind fun a => (opnd? w.b).bind fun b => some (.add h d a b)
  | 0x11 => (opnd? w.d).bind fun d => (opnd? w.a).bind fun a => (opnd? w.b).bind fun b => some (.sub h d a b)
  | 0x12 => (opnd? w.d).bind fun d => (opnd? w.a).bind fun a => (opnd? w.b).bind fun b => some (.adds h d a b)
  | 0x13 => (opnd? w.d).bind fun d => (opnd? w.a).bind fun a => (opnd? w.b).bind fun b => some (.subs h d a b)
  | 0x14 => (opnd? w.d).bind fun d => (opnd? w.a).bind fun a => (opnd? w.b).bind fun b => some (.addus h d a b)
  | 0x15 => (opnd? w.d).bind fun d => (opnd? w.a).bind fun a => (opnd? w.b).bind fun b => some (.subus h d a b)
  | 0x16 => (opnd? w.d).bind fun d => (opnd? w.a).bind fun a => (opnd? w.b).bind fun b => some (.mul h d a b)
  | 0x17 => (opnd? w.d).bind fun d => (opnd? w.a).bind fun a => (opnd? w.b).bind fun b => some (.mulh h d a b)
  | 0x18 => (opnd? w.d).bind fun d => (opnd? w.a).bind fun a => (opnd? w.b).bind fun b => some (.mulhu h d a b)
  | 0x19 => (opnd? w.d).bind fun d => (opnd? w.a).bind fun a => (opnd? w.b).bind fun b => (opnd? w.c).bind fun c => some (.mad h d a b c)
  | 0x1A => (opnd? w.d).bind fun d => (opnd? w.a).bind fun a => (opnd? w.b).bind fun b => (opnd? w.c).bind fun c => some (.addmin h d a b c)
  | 0x1B => (opnd? w.d).bind fun d => (opnd? w.a).bind fun a => (opnd? w.b).bind fun b => (opnd? w.c).bind fun c => some (.addmax h d a b c)
  | 0x1C => (opnd? w.d).bind fun d => (opnd? w.a).bind fun a => (opnd? w.b).bind fun b => some (.min h d a b)
  | 0x1D => (opnd? w.d).bind fun d => (opnd? w.a).bind fun a => (opnd? w.b).bind fun b => some (.max h d a b)
  | 0x1E => (opnd? w.d).bind fun d => (opnd? w.a).bind fun a => (opnd? w.b).bind fun b => some (.minu h d a b)
  | 0x1F => (opnd? w.d).bind fun d => (opnd? w.a).bind fun a => (opnd? w.b).bind fun b => some (.maxu h d a b)
  | _ => none

/-- The instruction of opcodes 0x20 to 0x2F that a word names, its unused fields not yet checked. -/
def parse2 (w : ElemWord) (h : Hdr) : Option Instr :=
  match w.op.toNat with
  | 0x20 => (opnd? w.d).bind fun d => (opnd? w.a).bind fun a => (opnd? w.b).bind fun b => some (.absd h d a b)
  | 0x21 => (opnd? w.d).bind fun d => (opnd? w.a).bind fun a => (opnd? w.b).bind fun b => some (.and h d a b)
  | 0x22 => (opnd? w.d).bind fun d => (opnd? w.a).bind fun a => (opnd? w.b).bind fun b => some (.or h d a b)
  | 0x23 => (opnd? w.d).bind fun d => (opnd? w.a).bind fun a => (opnd? w.b).bind fun b => some (.xor h d a b)
  | 0x24 => (opnd? w.d).bind fun d => (opnd? w.a).bind fun a => (opnd? w.b).bind fun b => some (.andn h d a b)
  | 0x25 => (opnd? w.d).bind fun d => (opnd? w.a).bind fun a => (opnd? w.b).bind fun b => some (.shl h d a b)
  | 0x26 => (opnd? w.d).bind fun d => (opnd? w.a).bind fun a => (opnd? w.b).bind fun b => some (.shr h d a b)
  | 0x27 => (opnd? w.d).bind fun d => (opnd? w.a).bind fun a => (opnd? w.b).bind fun b => some (.sar h d a b)
  | 0x28 => (opnd? w.d).bind fun d => (opnd? w.a).bind fun a => (opnd? w.b).bind fun b => some (.rol h d a b)
  | 0x29 => (opnd? w.d).bind fun d => (opnd? w.a).bind fun a => some (.popc h d a)
  | 0x2A => (opnd? w.d).bind fun d => (opnd? w.a).bind fun a => some (.clz h d a)
  | 0x2B => (opnd? w.d).bind fun d => (opnd? w.a).bind fun a => (opnd? w.b).bind fun b => some (.cmpeq h d a b)
  | 0x2C => (opnd? w.d).bind fun d => (opnd? w.a).bind fun a => (opnd? w.b).bind fun b => some (.cmplt h d a b)
  | 0x2D => (opnd? w.d).bind fun d => (opnd? w.a).bind fun a => (opnd? w.b).bind fun b => some (.cmpltu h d a b)
  | 0x2E => (opnd? w.d).bind fun d => (opnd? w.a).bind fun a => (opnd? w.b).bind fun b => (opnd? w.c).bind fun c => some (.dot4 h d a b c)
  | 0x2F => (opnd? w.d).bind fun d => (opnd? w.a).bind fun a => (opnd? w.b).bind fun b => (opnd? w.c).bind fun c => some (.sad h d a b c)
  | _ => none

/-- The instruction of opcodes 0x30 to 0x3F that a word names, its unused fields not yet checked. -/
def parse3 (w : ElemWord) (h : Hdr) : Option Instr :=
  match w.op.toNat with
  | 0x30 => (opnd? w.d).bind fun d => (opnd? w.a).bind fun a => some (.addi h d a w.imm)
  | 0x31 => (opnd? w.d).bind fun d => (opnd? w.a).bind fun a => some (.andi h d a w.imm)
  | 0x32 => (opnd? w.d).bind fun d => (opnd? w.a).bind fun a => some (.ori h d a w.imm)
  | 0x33 => (opnd? w.d).bind fun d => (opnd? w.a).bind fun a => some (.xori h d a w.imm)
  | 0x34 => (opnd? w.d).bind fun d => (opnd? w.a).bind fun a => some (.shli h d a w.imm)
  | 0x35 => (opnd? w.d).bind fun d => (opnd? w.a).bind fun a => some (.shri h d a w.imm)
  | 0x36 => (opnd? w.d).bind fun d => (opnd? w.a).bind fun a => some (.sari h d a w.imm)
  | 0x37 => (opnd? w.d).bind fun d => (opnd? w.a).bind fun a => some (.cmpeqi h d a w.imm)
  | 0x38 => (opnd? w.d).bind fun d => (opnd? w.a).bind fun a => some (.cmplti h d a w.imm)
  | 0x39 => (opnd? w.d).bind fun d => (opnd? w.a).bind fun a => some (.ext h d a w.b w.c)
  | 0x3A => (opnd? w.d).bind fun d => (opnd? w.a).bind fun a => some (.ins h d a w.b w.c)
  | _ => none

/-- The instruction of opcodes 0x40 to 0x4F that a word names, its unused fields not yet checked. -/
def parse4 (w : ElemWord) (h : Hdr) : Option Instr :=
  match w.op.toNat with
  | 0x40 => (opnd? w.d).bind fun d => (opnd? w.a).bind fun a => some (.lxor h d a w.imm)
  | 0x41 => (opnd? w.d).bind fun d => (opnd? w.a).bind fun a => (opnd? w.b).bind fun b => some (.lfun h d a b w.c)
  | 0x42 => (opnd? w.d).bind fun d => (opnd? w.a).bind fun a => some (.lbcst h d a w.imm)
  | 0x43 => (opnd? w.d).bind fun d => (opnd? w.a).bind fun a => some (.txch h d a (w.imm.extractLsb' 0 4))
  | 0x44 => (opnd? w.d).bind fun d => (opnd? w.a).bind fun a => some (.tbcst h d a (w.imm.extractLsb' 0 4))
  | 0x45 => (opnd? w.d).bind fun d => (opnd? w.a).bind fun a => some (.tred h d a (w.imm.extractLsb' 8 4) (w.imm.extractLsb' 4 4))
  | 0x46 => (opnd? w.d).bind fun d => (opnd? w.a).bind fun a => (opnd? w.b).bind fun b => some (.lpack h d a b)
  | 0x47 => (opnd? w.d).bind fun d => (opnd? w.a).bind fun a => some (.lunpk h d a (isOne (w.c.extractLsb' 1 1)) (isOne (w.c.extractLsb' 0 1)))
  | 0x48 => (opnd? w.d).bind fun d => (opnd? w.a).bind fun a => (opnd? w.b).bind fun b => some (.fadd h d a b)
  | 0x49 => (opnd? w.d).bind fun d => (opnd? w.a).bind fun a => (opnd? w.b).bind fun b => some (.fsub h d a b)
  | 0x4A => (opnd? w.d).bind fun d => (opnd? w.a).bind fun a => (opnd? w.b).bind fun b => some (.fmul h d a b)
  | 0x4B => (opnd? w.d).bind fun d => (opnd? w.a).bind fun a => (opnd? w.b).bind fun b => (opnd? w.c).bind fun c => some (.fma h d a b c)
  | 0x4C => (opnd? w.d).bind fun d => (opnd? w.a).bind fun a => (opnd? w.b).bind fun b => (opnd? w.c).bind fun c => some (.fnma h d a b c)
  | 0x4D => (opnd? w.d).bind fun d => (opnd? w.a).bind fun a => (opnd? w.b).bind fun b => some (.fmin h d a b)
  | 0x4E => (opnd? w.d).bind fun d => (opnd? w.a).bind fun a => (opnd? w.b).bind fun b => some (.fmax h d a b)
  | 0x4F => (opnd? w.d).bind fun d => (opnd? w.a).bind fun a => (opnd? w.b).bind fun b => some (.fcmpeq h d a b)
  | _ => none

/-- The instruction of opcodes 0x50 to 0x5F that a word names, its unused fields not yet checked. -/
def parse5 (w : ElemWord) (h : Hdr) : Option Instr :=
  match w.op.toNat with
  | 0x50 => (opnd? w.d).bind fun d => (opnd? w.a).bind fun a => (opnd? w.b).bind fun b => some (.fcmplt h d a b)
  | 0x51 => (opnd? w.d).bind fun d => (opnd? w.a).bind fun a => (opnd? w.b).bind fun b => some (.fcmple h d a b)
  | 0x52 => (opnd? w.d).bind fun d => (opnd? w.a).bind fun a => (opnd? w.b).bind fun b => some (.fsgn h d a b)
  | 0x53 => (opnd? w.d).bind fun d => (opnd? w.a).bind fun a => some (.frcp h d a)
  | 0x54 => (opnd? w.d).bind fun d => (opnd? w.a).bind fun a => some (.frsq h d a)
  | 0x55 => (opnd? w.d).bind fun d => (opnd? w.a).bind fun a => some (.fexp2 h d a)
  | 0x56 => (opnd? w.d).bind fun d => (opnd? w.a).bind fun a => some (.flog2 h d a)
  | 0x57 => (opnd? w.d).bind fun d => (opnd? w.a).bind fun a => some (.fsin h d a)
  | 0x58 => (opnd? w.d).bind fun d => (opnd? w.a).bind fun a => some (.fcos h d a)
  | 0x59 => (opnd? w.d).bind fun d => (opnd? w.a).bind fun a => some (.frnd h d a (w.c.extractLsb' 0 3))
  | 0x5A => (opnd? w.d).bind fun d => (opnd? w.a).bind fun a => (opnd? w.b).bind fun b => (opnd? w.c).bind fun c => some (.fdot2 h d a b c)
  | 0x5B => (opnd? w.d).bind fun d => (opnd? w.a).bind fun a => (opnd? w.b).bind fun b => (opnd? w.c).bind fun c => some (.faddmin h d a b c)
  | 0x5C => (opnd? w.d).bind fun d => (opnd? w.a).bind fun a => some (.fclass h d a)
  | 0x5D => (opnd? w.d).bind fun d => (opnd? w.a).bind fun a => (opnd? w.b).bind fun b => some (.fscale h d a b)
  | 0x5E => (opnd? w.d).bind fun d => (opnd? w.a).bind fun a => some (.fsat h d a)
  | _ => none

/-- The instruction of opcodes 0x60 to 0x6F that a word names, its unused fields not yet checked. -/
def parse6 (w : ElemWord) (h : Hdr) : Option Instr :=
  match w.op.toNat with
  | 0x60 => (opnd? w.d).bind fun d => (opnd? w.a).bind fun a => some (.cvt h d a (w.imm.extractLsb' 9 3) (isOne (w.imm.extractLsb' 8 1)) (isOne (w.imm.extractLsb' 7 1)) (w.imm.extractLsb' 4 3) (w.imm.extractLsb' 0 4))
  | 0x61 => (opnd? w.d).bind fun d => (opnd? w.a).bind fun a => some (.cvtn h d a (w.imm.extractLsb' 9 3) (isOne (w.imm.extractLsb' 8 1)) (isOne (w.imm.extractLsb' 7 1)) (w.imm.extractLsb' 4 3) (w.imm.extractLsb' 2 2))
  | 0x62 =>
    if w.c.extractLsb' 0 1 == 0#1 then (opnd? w.d).bind fun d => (opnd? w.a).bind fun a => some (.mxqSc h d a (w.c.extractLsb' 1 2))
    else (opnd? w.d).bind fun d => (opnd? w.a).bind fun a => (opnd? w.b).bind fun b => some (.mxq h d a b (w.c.extractLsb' 3 3) (w.c.extractLsb' 1 2))
  | 0x63 => (opnd? w.d).bind fun d => (opnd? w.a).bind fun a => (opnd? w.b).bind fun b => some (.mxdq h d a b (w.c.extractLsb' 3 3) (w.c.extractLsb' 1 2))
  | 0x64 => (opnd? w.a).bind fun a => some (.efld h a (w.c.extractLsb' 0 2))
  | 0x65 => (opnd? w.d).bind fun d => some (.efst h d (w.c.extractLsb' 0 2))
  | 0x68 => (opnd? w.d).bind fun d => (opnd? w.a).bind fun a => (scope? (w.ps.extractLsb' 3 3)).bind fun sc => (policy? (w.ps.extractLsb' 0 3)).bind fun pol => some (.ld h d a w.b (w.c.extractLsb' 3 3) (w.c.extractLsb' 1 2) sc pol)
  | 0x69 => (opnd? w.d).bind fun d => (opnd? w.a).bind fun a => (scope? (w.ps.extractLsb' 3 3)).bind fun sc => (policy? (w.ps.extractLsb' 0 3)).bind fun pol => some (.st h d a w.b (w.c.extractLsb' 3 3) (w.c.extractLsb' 1 2) sc pol)
  | 0x6A =>
    if w.ty == 0#3 then (opnd? w.d).bind fun d => (opnd? w.a).bind fun a => some (.ldfKeep h d a w.b (w.c.extractLsb' 3 3) (w.c.extractLsb' 1 2))
    else (opnd? w.d).bind fun d => (opnd? w.a).bind fun a => some (.ldfClr h d a w.b (w.c.extractLsb' 3 3) (w.c.extractLsb' 1 2))
  | 0x6B => (opnd? w.d).bind fun d => (opnd? w.a).bind fun a => some (.stf h d a w.b (w.c.extractLsb' 3 3) (w.c.extractLsb' 1 2))
  | 0x6C => (opnd? w.d).bind fun d => (opnd? w.a).bind fun a => (scope? (w.ps.extractLsb' 3 3)).bind fun sc => (policy? (w.ps.extractLsb' 0 3)).bind fun pol => some (.ldg h d a w.b (w.c.extractLsb' 3 3) (w.c.extractLsb' 1 2) sc pol)
  | 0x6D => (opnd? w.d).bind fun d => (opnd? w.a).bind fun a => (scope? (w.ps.extractLsb' 3 3)).bind fun sc => (policy? (w.ps.extractLsb' 0 3)).bind fun pol => some (.sts h d a w.b (w.c.extractLsb' 3 3) (w.c.extractLsb' 1 2) sc pol)
  | 0x6E => (opnd? w.d).bind fun d => (opnd? w.a).bind fun a => (scope? (w.ps.extractLsb' 3 3)).bind fun sc => some (.atom h d a (w.b.extractLsb' 2 4) (w.b.extractLsb' 0 2) (w.c.extractLsb' 3 3) (w.c.extractLsb' 1 2) sc)
  | 0x6F =>
    if w.b.extractLsb' 0 2 == 0#2 then (scope? (w.ps.extractLsb' 3 3)).bind fun sc => some (.fenceFull h sc)
    else if w.b.extractLsb' 0 2 == 1#2 then (scope? (w.ps.extractLsb' 3 3)).bind fun sc => some (.fenceRel h sc)
    else (scope? (w.ps.extractLsb' 3 3)).bind fun sc => some (.fenceAcq h sc)
  | _ => none

/-- The instruction of opcodes 0x70 to 0x7F that a word names, its unused fields not yet checked. -/
def parse7 (w : ElemWord) (h : Hdr) : Option Instr :=
  match w.op.toNat with
  | 0x70 => (opnd? w.d).bind fun d => (opnd? w.a).bind fun a => some (.ldr h d a w.b (w.c.extractLsb' 3 3) (w.c.extractLsb' 1 2))
  | 0x71 => some (.seal h (w.c.extractLsb' 3 3) (w.c.extractLsb' 1 2))
  | 0x72 => some (.rclaim h (w.c.extractLsb' 3 3) (w.c.extractLsb' 1 2))
  | 0x73 => (opnd? w.a).bind fun a => (policy? (w.ps.extractLsb' 0 3)).bind fun pol => some (.pref h a w.b (w.c.extractLsb' 3 3) pol)
  | 0x74 => some (.invl1 h)
  | 0x75 =>
    if w.ty == 0#3 then (opnd? w.a).bind fun a => some (.fesetEmpty h a w.b (w.c.extractLsb' 3 3) (w.c.extractLsb' 1 2))
    else (opnd? w.a).bind fun a => some (.fesetFull h a w.b (w.c.extractLsb' 3 3) (w.c.extractLsb' 1 2))
  | 0x76 => (opnd? w.d).bind fun d => (opnd? w.a).bind fun a => some (.brec h d a (w.c.extractLsb' 3 3))
  | 0x77 => some (.tsync h)
  | 0x78 => (opnd? w.d).bind fun d => (opnd? w.a).bind fun a => (opnd? w.b).bind fun b => (opnd? w.c).bind fun c => some (.rbox h d a b c)
  | 0x79 => (opnd? w.d).bind fun d => (opnd? w.a).bind fun a => (opnd? w.b).bind fun b => (opnd? w.c).bind fun c => some (.rtri h d a b c)
  | 0x7A => some (.spcfg h (isOne (w.imm.extractLsb' 11 1)) (w.imm.extractLsb' 6 3) (w.imm.extractLsb' 3 3))
  | 0x7B =>
    if w.imm.extractLsb' 11 1 == 0#1 then (opnd? w.d).bind fun d => (opnd? w.a).bind fun a => some (.seqt h d a)
    else (opnd? w.a).bind fun a => some (.seqtRst h a (w.imm.extractLsb' 4 3) (w.imm.extractLsb' 0 4))
  | 0x7C => (opnd? w.d).bind fun d => (opnd? w.a).bind fun a => (opnd? w.b).bind fun b => (opnd? w.c).bind fun c => some (.edge h d a b c)
  | 0x7D =>
    if w.imm.extractLsb' 11 1 == 0#1 then (opnd? w.d).bind fun d => some (.ctlRead h d (w.imm.extractLsb' 0 5))
    else (opnd? w.a).bind fun a => some (.ctlWrite h a (w.imm.extractLsb' 0 5))
  | 0x7E =>
    if w.imm.extractLsb' 11 1 == 0#1 then some (.trap h (w.imm.extractLsb' 0 11))
    else some (.bkpt h (w.imm.extractLsb' 0 11))
  | _ => none

/-- The instruction that the fields of a word name (R74), before the checks of R75. -/
def parseElem (w : ElemWord) : Option Instr :=
  (hdr? w).bind fun h =>
  match w.op.toNat / 16 with
  | 0 => parse0 w h
  | 1 => parse1 w h
  | 2 => parse2 w h
  | 3 => parse3 w h
  | 4 => parse4 w h
  | 5 => parse5 w h
  | 6 => parse6 w h
  | 7 => parse7 w h
  | _ => none

/-- Reserved opcodes (R75). -/
def reservedOp (op : BitVec 7) : Bool :=
  let n := op.toNat
  (decide (0x3B ≤ n) && decide (n ≤ 0x3F)) || n == 0x5F || n == 0x66 || n == 0x67 || n == 0x7F

/-- A word holds a defined instruction and no reserved value (R75). -/
def legalElem (w : BitVec 64) : Option Instr :=
  match parseElem (ElemWord.unpack w) with
  | some i => if i.wf && elemWord i == some (ElemWord.unpack w) then some i else none
  | none => none

/-- The cause with which a faulty slot traps (R77, R79). -/
def faultyCause (w : BitVec 64) : BitVec 8 :=
  if reservedOp (w.extractLsb' 37 7) then 1 else 2

/-- The instruction of a slot word: none for an empty slot (R78), the firing of a faulty slot for a reserved
encoding (R77). -/
def decodeElem (w : BitVec 64) : Option Instr :=
  if w.extractLsb' 63 1 == 0#1 then none
  else match legalElem w with
    | some i => some i
    | none => some (.faultySlotFire (faultyCause w))

/-! ## Sequencer instructions -/

/-- The rows of the ALU group, major 0 (R85). -/
def decodeAlu (w : BitVec 32) : Instr :=
  match (w.extractLsb' 0 11).toNat with
  | 0 => .seqAdd (w.extractLsb' 21 5) (w.extractLsb' 16 5) (w.extractLsb' 11 5)
  | 1 => .seqSub (w.extractLsb' 21 5) (w.extractLsb' 16 5) (w.extractLsb' 11 5)
  | 2 => .seqAnd (w.extractLsb' 21 5) (w.extractLsb' 16 5) (w.extractLsb' 11 5)
  | 3 => .seqOr (w.extractLsb' 21 5) (w.extractLsb' 16 5) (w.extractLsb' 11 5)
  | 4 => .seqXor (w.extractLsb' 21 5) (w.extractLsb' 16 5) (w.extractLsb' 11 5)
  | 5 => .seqShl (w.extractLsb' 21 5) (w.extractLsb' 16 5) (w.extractLsb' 11 5)
  | 6 => .seqShr (w.extractLsb' 21 5) (w.extractLsb' 16 5) (w.extractLsb' 11 5)
  | 7 => .seqSar (w.extractLsb' 21 5) (w.extractLsb' 16 5) (w.extractLsb' 11 5)
  | 8 => .seqMul (w.extractLsb' 21 5) (w.extractLsb' 16 5) (w.extractLsb' 11 5)
  | 9 => .seqMulh (w.extractLsb' 21 5) (w.extractLsb' 16 5) (w.extractLsb' 11 5)
  | 10 => .seqMulhu (w.extractLsb' 21 5) (w.extractLsb' 16 5) (w.extractLsb' 11 5)
  | 11 => .div (w.extractLsb' 21 5) (w.extractLsb' 16 5) (w.extractLsb' 11 5)
  | 12 => .divu (w.extractLsb' 21 5) (w.extractLsb' 16 5) (w.extractLsb' 11 5)
  | 13 => .rem (w.extractLsb' 21 5) (w.extractLsb' 16 5) (w.extractLsb' 11 5)
  | 14 => .remu (w.extractLsb' 21 5) (w.extractLsb' 16 5) (w.extractLsb' 11 5)
  | 15 => .seqMin (w.extractLsb' 21 5) (w.extractLsb' 16 5) (w.extractLsb' 11 5)
  | 16 => .seqMax (w.extractLsb' 21 5) (w.extractLsb' 16 5) (w.extractLsb' 11 5)
  | 17 => .seqMinu (w.extractLsb' 21 5) (w.extractLsb' 16 5) (w.extractLsb' 11 5)
  | 18 => .seqMaxu (w.extractLsb' 21 5) (w.extractLsb' 16 5) (w.extractLsb' 11 5)
  | 19 => .slt (w.extractLsb' 21 5) (w.extractLsb' 16 5) (w.extractLsb' 11 5)
  | 20 => .sltu (w.extractLsb' 21 5) (w.extractLsb' 16 5) (w.extractLsb' 11 5)
  | 21 => if w &&& 0xFC00FFFF#32 == 0x00000015#32 then .seqClz (w.extractLsb' 21 5) (w.extractLsb' 16 5) else .illegalInstruction 2
  | 22 => if w &&& 0xFC00FFFF#32 == 0x00000016#32 then .seqPopc (w.extractLsb' 21 5) (w.extractLsb' 16 5) else .illegalInstruction 2
  | _ => .illegalInstruction 1

/-- The instruction of a sequencer word (R80 to R87): by its major opcode, then by the fixed bits of the row.
A word that matches no row of its major opcode holds a reserved field value. -/
def decodeSeq (w : BitVec 32) : Instr :=
  match (w.extractLsb' 26 6).toNat with
  | 0 => decodeAlu w
  | 0x01 =>
    .seqAddi (w.extractLsb' 21 5) (w.extractLsb' 16 5) (w.extractLsb' 0 16)
  | 0x02 =>
    .seqAndi (w.extractLsb' 21 5) (w.extractLsb' 16 5) (w.extractLsb' 0 16)
  | 0x03 =>
    .seqOri (w.extractLsb' 21 5) (w.extractLsb' 16 5) (w.extractLsb' 0 16)
  | 0x04 =>
    .seqXori (w.extractLsb' 21 5) (w.extractLsb' 16 5) (w.extractLsb' 0 16)
  | 0x05 =>
    if w &&& 0xFC00FFC0#32 == 0x14000000#32 then .seqShli (w.extractLsb' 21 5) (w.extractLsb' 16 5) (w.extractLsb' 0 6) else
    if w &&& 0xFC00FFC0#32 == 0x14000040#32 then .seqShri (w.extractLsb' 21 5) (w.extractLsb' 16 5) (w.extractLsb' 0 6) else
    if w &&& 0xFC00FFC0#32 == 0x14000080#32 then .seqSari (w.extractLsb' 21 5) (w.extractLsb' 16 5) (w.extractLsb' 0 6) else
    .illegalInstruction 2
  | 0x06 =>
    .slti (w.extractLsb' 21 5) (w.extractLsb' 16 5) (w.extractLsb' 0 16)
  | 0x07 =>
    if w &&& 0xFC1F0000#32 == 0x1C000000#32 then .lhi (w.extractLsb' 21 5) (w.extractLsb' 0 16) else
    .illegalInstruction 2
  | 0x08 =>
    if w &&& 0xFC1F0000#32 == 0x20000000#32 then .ldl (w.extractLsb' 21 5) (w.extractLsb' 0 16) else
    .illegalInstruction 2
  | 0x09 =>
    .ldb (w.extractLsb' 21 5) (w.extractLsb' 16 5) (w.extractLsb' 0 16)
  | 0x0A =>
    .ldh (w.extractLsb' 21 5) (w.extractLsb' 16 5) (w.extractLsb' 0 16)
  | 0x0B =>
    .ldw (w.extractLsb' 21 5) (w.extractLsb' 16 5) (w.extractLsb' 0 16)
  | 0x0C =>
    .ldd (w.extractLsb' 21 5) (w.extractLsb' 16 5) (w.extractLsb' 0 16)
  | 0x0D =>
    .stb (w.extractLsb' 21 5) (w.extractLsb' 16 5) (w.extractLsb' 0 16)
  | 0x0E =>
    .sth (w.extractLsb' 21 5) (w.extractLsb' 16 5) (w.extractLsb' 0 16)
  | 0x0F =>
    .stw (w.extractLsb' 21 5) (w.extractLsb' 16 5) (w.extractLsb' 0 16)
  | 0x10 =>
    .std (w.extractLsb' 21 5) (w.extractLsb' 16 5) (w.extractLsb' 0 16)
  | 0x11 =>
    if 10 ≤ (w.extractLsb' 0 4).toNat then .illegalInstruction 1 else
    if w &&& 0xFC000600#32 == 0x44000000#32 then .seqAtom (w.extractLsb' 21 5) (w.extractLsb' 16 5) (w.extractLsb' 11 5) (w.extractLsb' 6 3) (w.extractLsb' 4 2) (w.extractLsb' 0 4) else
    .illegalInstruction 2
  | 0x12 =>
    if w &&& 0xFFFFFFF8#32 == 0x48000000#32 then .seqFenceFull (w.extractLsb' 0 3) else
    if w &&& 0xFFFFFFF8#32 == 0x48000008#32 then .seqFenceRel (w.extractLsb' 0 3) else
    if w &&& 0xFFFFFFF8#32 == 0x48000010#32 then .seqFenceAcq (w.extractLsb' 0 3) else
    .illegalInstruction 2
  | 0x13 =>
    .beq (w.extractLsb' 21 5) (w.extractLsb' 16 5) (w.extractLsb' 0 16)
  | 0x14 =>
    .bne (w.extractLsb' 21 5) (w.extractLsb' 16 5) (w.extractLsb' 0 16)
  | 0x15 =>
    .blt (w.extractLsb' 21 5) (w.extractLsb' 16 5) (w.extractLsb' 0 16)
  | 0x16 =>
    .bge (w.extractLsb' 21 5) (w.extractLsb' 16 5) (w.extractLsb' 0 16)
  | 0x17 =>
    .bltu (w.extractLsb' 21 5) (w.extractLsb' 16 5) (w.extractLsb' 0 16)
  | 0x18 =>
    .bgeu (w.extractLsb' 21 5) (w.extractLsb' 16 5) (w.extractLsb' 0 16)
  | 0x19 =>
    .jmp (w.extractLsb' 0 26)
  | 0x1A =>
    .jal (w.extractLsb' 0 26)
  | 0x1B =>
    if w &&& 0xFC00FFFF#32 == 0x6C000000#32 then .jr (w.extractLsb' 21 5) (w.extractLsb' 16 5) else
    .illegalInstruction 2
  | 0x1C =>
    if w &&& 0xFC1FF000#32 == 0x70000000#32 then .getc (w.extractLsb' 21 5) (w.extractLsb' 0 12) else
    .illegalInstruction 2
  | 0x1D =>
    if w &&& 0xFFE0F000#32 == 0x74000000#32 then .setc (w.extractLsb' 16 5) (w.extractLsb' 0 12) else
    .illegalInstruction 2
  | 0x1E =>
    if w &&& 0xFFFFF800#32 == 0x78000000#32 then .seqTrap (w.extractLsb' 0 11) else
    if w &&& 0xFFFFF800#32 == 0x78008000#32 then .seqBkpt (w.extractLsb' 0 11) else
    .illegalInstruction 2
  | 0x1F =>
    if w &&& 0xFFFFFFFF#32 == 0x7C000000#32 then .tret else
    .illegalInstruction 2
  | 0x20 =>
    if w &&& 0xFC00FFFF#32 == 0x80000000#32 then .waite (w.extractLsb' 21 5) (w.extractLsb' 16 5) else
    .illegalInstruction 2
  | 0x21 =>
    if w &&& 0xFFFFFFFF#32 == 0x84000000#32 then .seqTsync else
    .illegalInstruction 2
  | 0x22 =>
    if w &&& 0xFC1F03FF#32 == 0x88000000#32 then .mctx (w.extractLsb' 21 5) (w.extractLsb' 12 4) (w.extractLsb' 10 2) else
    if w &&& 0xFFFF03FF#32 == 0x88000200#32 then .mctxClr (w.extractLsb' 12 4) (w.extractLsb' 10 2) else
    .illegalInstruction 2
  | 0x23 =>
    if w &&& 0xFC000300#32 == 0x8C000000#32 then .mrunMma (w.extractLsb' 21 5) (w.extractLsb' 16 5) (w.extractLsb' 12 4) (w.extractLsb' 10 2) (w.extractLsb' 4 4) (w.extractLsb' 0 4) else
    if w &&& 0xFC000300#32 == 0x8C000100#32 then .mrunZero (w.extractLsb' 21 5) (w.extractLsb' 16 5) (w.extractLsb' 12 4) (w.extractLsb' 10 2) (w.extractLsb' 4 4) (w.extractLsb' 0 4) else
    if w &&& 0xFC000300#32 == 0x8C000200#32 then .mrunLoad (w.extractLsb' 21 5) (w.extractLsb' 16 5) (w.extractLsb' 12 4) (w.extractLsb' 10 2) (w.extractLsb' 4 4) (w.extractLsb' 0 4) else
    if w &&& 0xFC000300#32 == 0x8C000300#32 then .mrunWrite (w.extractLsb' 21 5) (w.extractLsb' 16 5) (w.extractLsb' 12 4) (w.extractLsb' 10 2) (w.extractLsb' 4 4) (w.extractLsb' 0 4) else
    .illegalInstruction 2
  | 0x24 =>
    if w &&& 0xFC1FEFFF#32 == 0x90000000#32 then .pump (w.extractLsb' 21 5) (w.extractLsb' 12 1) else
    .illegalInstruction 2
  | 0x25 =>
    if w &&& 0xFC1FFFE0#32 == 0x94000000#32 then .ldcfg (w.extractLsb' 21 5) (w.extractLsb' 0 5) else
    if w &&& 0xFFFFFFE0#32 == 0x94001000#32 then .ldcfgClr (w.extractLsb' 0 5) else
    if w &&& 0xFC1FFFFE#32 == 0x94002000#32 then .ldcfgCode (w.extractLsb' 21 5) (w.extractLsb' 0 1) else
    .illegalInstruction 2
  | 0x26 =>
    if w &&& 0xFC1FFFFF#32 == 0x98000000#32 then .recfg (w.extractLsb' 21 5) else
    if w &&& 0xFFFFFFFF#32 == 0x98001000#32 then .recfgEnd else
    .illegalInstruction 2
  | 0x27 =>
    if w &&& 0xFC00C080#32 == 0x9C000000#32 then .qput (w.extractLsb' 21 5) (w.extractLsb' 16 5) (w.extractLsb' 12 2) (w.extractLsb' 11 1) (w.extractLsb' 8 3) (w.extractLsb' 5 2) (w.extractLsb' 0 5) else
    .illegalInstruction 2
  | 0x28 =>
    if w &&& 0xFC00CFFF#32 == 0xA0000000#32 then .qget (w.extractLsb' 21 5) (w.extractLsb' 16 5) (w.extractLsb' 12 2) else
    .illegalInstruction 2
  | 0x29 =>
    .tbinit (w.extractLsb' 21 5) (w.extractLsb' 16 5) (w.extractLsb' 0 16)
  | 0x2A =>
    if w &&& 0xFC1FFFF8#32 == 0xA8000000#32 then .tbarr (w.extractLsb' 21 5) (w.extractLsb' 0 3) else
    .illegalInstruction 2
  | 0x2B =>
    if w &&& 0xFC00FFF8#32 == 0xAC000000#32 then .tbwait (w.extractLsb' 21 5) (w.extractLsb' 16 5) (w.extractLsb' 0 3) else
    .illegalInstruction 2
  | 0x2C =>
    if w &&& 0xFC00FF00#32 == 0xB0000000#32 then .launch (w.extractLsb' 21 5) (w.extractLsb' 16 5) (w.extractLsb' 0 8) else
    .illegalInstruction 2
  | 0x2D =>
    if w &&& 0xFFFFFFFF#32 == 0xB4000000#32 then .exit else
    .illegalInstruction 2
  | 0x2E =>
    if w &&& 0xFFFFFFFF#32 == 0xB8000000#32 then .yield else
    .illegalInstruction 2
  | 0x2F =>
    if w &&& 0xFC1FFFFF#32 == 0xBC000000#32 then .place (w.extractLsb' 21 5) else
    if w &&& 0xFFFFFFFF#32 == 0xBC001000#32 then .placeFrz else
    if w &&& 0xFFFFFFFF#32 == 0xBC002000#32 then .placeThaw else
    if w &&& 0xFFE0FFFF#32 == 0xBC003000#32 then .placeSt (w.extractLsb' 16 5) else
    .illegalInstruction 2
  | 0x30 =>
    if w &&& 0xFC1FFFFF#32 == 0xC0000000#32 then .cutsel (w.extractLsb' 21 5) else
    .illegalInstruction 2
  | 0x31 =>
    if w &&& 0xFC1FFFFF#32 == 0xC4000000#32 then .restripe (w.extractLsb' 21 5) else
    .illegalInstruction 2
  | 0x32 =>
    if w &&& 0xFFFFFFF0#32 == 0xC8000000#32 then .pwrmark (w.extractLsb' 0 4) else
    .illegalInstruction 2
  | 0x33 =>
    if w &&& 0xFC00FFFF#32 == 0xCC000000#32 then .verify (w.extractLsb' 21 5) (w.extractLsb' 16 5) else
    .illegalInstruction 2
  | 0x3F => .instructionFetchFault 3
  | _ => .illegalInstruction 1

/-- The word of a sequencer instruction (R80 to R86 and the encoding tables); none for every other constructor. -/
def seqWord : Instr → Option (BitVec 32)
  | .seqAdd d a b => some (0#6 ++ d ++ a ++ b ++ 0#11)
  | .seqSub d a b => some (0#6 ++ d ++ a ++ b ++ 1#11)
  | .seqAnd d a b => some (0#6 ++ d ++ a ++ b ++ 2#11)
  | .seqOr d a b => some (0#6 ++ d ++ a ++ b ++ 3#11)
  | .seqXor d a b => some (0#6 ++ d ++ a ++ b ++ 4#11)
  | .seqShl d a b => some (0#6 ++ d ++ a ++ b ++ 5#11)
  | .seqShr d a b => some (0#6 ++ d ++ a ++ b ++ 6#11)
  | .seqSar d a b => some (0#6 ++ d ++ a ++ b ++ 7#11)
  | .seqMul d a b => some (0#6 ++ d ++ a ++ b ++ 8#11)
  | .seqMulh d a b => some (0#6 ++ d ++ a ++ b ++ 9#11)
  | .seqMulhu d a b => some (0#6 ++ d ++ a ++ b ++ 10#11)
  | .div d a b => some (0#6 ++ d ++ a ++ b ++ 11#11)
  | .divu d a b => some (0#6 ++ d ++ a ++ b ++ 12#11)
  | .rem d a b => some (0#6 ++ d ++ a ++ b ++ 13#11)
  | .remu d a b => some (0#6 ++ d ++ a ++ b ++ 14#11)
  | .seqMin d a b => some (0#6 ++ d ++ a ++ b ++ 15#11)
  | .seqMax d a b => some (0#6 ++ d ++ a ++ b ++ 16#11)
  | .seqMinu d a b => some (0#6 ++ d ++ a ++ b ++ 17#11)
  | .seqMaxu d a b => some (0#6 ++ d ++ a ++ b ++ 18#11)
  | .slt d a b => some (0#6 ++ d ++ a ++ b ++ 19#11)
  | .sltu d a b => some (0#6 ++ d ++ a ++ b ++ 20#11)
  | .seqClz d a => some (0#6 ++ d ++ a ++ 21#16)
  | .seqPopc d a => some (0#6 ++ d ++ a ++ 22#16)
  | .seqAddi d a i => some (1#6 ++ d ++ a ++ i)
  | .seqAndi d a i => some (2#6 ++ d ++ a ++ i)
  | .seqOri d a i => some (3#6 ++ d ++ a ++ i)
  | .seqXori d a i => some (4#6 ++ d ++ a ++ i)
  | .seqShli d a n => some (5#6 ++ d ++ a ++ 0#10 ++ n)
  | .seqShri d a n => some (5#6 ++ d ++ a ++ 1#10 ++ n)
  | .seqSari d a n => some (5#6 ++ d ++ a ++ 2#10 ++ n)
  | .slti d a i => some (6#6 ++ d ++ a ++ i)
  | .lhi d i => some (7#6 ++ d ++ 0#5 ++ i)
  | .ldl d i => some (8#6 ++ d ++ 0#5 ++ i)
  | .ldb d a i => some (9#6 ++ d ++ a ++ i)
  | .ldh d a i => some (10#6 ++ d ++ a ++ i)
  | .ldw d a i => some (11#6 ++ d ++ a ++ i)
  | .ldd d a i => some (12#6 ++ d ++ a ++ i)
  | .stb d a i => some (13#6 ++ d ++ a ++ i)
  | .sth d a i => some (14#6 ++ d ++ a ++ i)
  | .stw d a i => some (15#6 ++ d ++ a ++ i)
  | .std d a i => some (16#6 ++ d ++ a ++ i)
  | .seqAtom d a b c z o => some (17#6 ++ d ++ a ++ b ++ 0#2 ++ c ++ z ++ o)
  | .seqFenceFull s => some (150994944#29 ++ s)
  | .seqFenceRel s => some (150994945#29 ++ s)
  | .seqFenceAcq s => some (150994946#29 ++ s)
  | .beq a b o => some (19#6 ++ a ++ b ++ o)
  | .bne a b o => some (20#6 ++ a ++ b ++ o)
  | .blt a b o => some (21#6 ++ a ++ b ++ o)
  | .bge a b o => some (22#6 ++ a ++ b ++ o)
  | .bltu a b o => some (23#6 ++ a ++ b ++ o)
  | .bgeu a b o => some (24#6 ++ a ++ b ++ o)
  | .jmp o => some (25#6 ++ o)
  | .jal o => some (26#6 ++ o)
  | .jr d a => some (27#6 ++ d ++ a ++ 0#16)
  | .getc d n => some (28#6 ++ d ++ 0#9 ++ n)
  | .setc a n => some (928#11 ++ a ++ 0#4 ++ n)
  | .seqTrap n => some (983040#21 ++ n)
  | .seqBkpt n => some (983056#21 ++ n)
  | .tret => some (2080374784#32)
  | .waite a d => some (32#6 ++ a ++ d ++ 0#16)
  | .seqTsync => some (2214592512#32)
  | .mctx a m c => some (34#6 ++ a ++ 0#5 ++ m ++ c ++ 0#10)
  | .mctxClr m c => some (34816#16 ++ m ++ c ++ 512#10)
  | .mrunMma a b m c x s => some (35#6 ++ a ++ b ++ m ++ c ++ 0#2 ++ x ++ s)
  | .mrunZero a b m c x s => some (35#6 ++ a ++ b ++ m ++ c ++ 1#2 ++ x ++ s)
  | .mrunLoad a b m c x s => some (35#6 ++ a ++ b ++ m ++ c ++ 2#2 ++ x ++ s)
  | .mrunWrite a b m c x s => some (35#6 ++ a ++ b ++ m ++ c ++ 3#2 ++ x ++ s)
  | .pump a u => some (36#6 ++ a ++ 0#8 ++ u ++ 0#12)
  | .ldcfg a s => some (37#6 ++ a ++ 0#16 ++ s)
  | .ldcfgClr s => some (77594752#27 ++ s)
  | .ldcfgCode a w => some (37#6 ++ a ++ 4096#20 ++ w)
  | .recfg a => some (38#6 ++ a ++ 0#21)
  | .recfgEnd => some (2550140928#32)
  | .qput a b p e s c v => some (39#6 ++ a ++ b ++ 0#2 ++ p ++ e ++ s ++ 0#1 ++ c ++ v)
  | .qget l h p => some (40#6 ++ l ++ h ++ 0#2 ++ p ++ 0#12)
  | .tbinit a b n => some (41#6 ++ a ++ b ++ n)
  | .tbarr a s => some (42#6 ++ a ++ 0#18 ++ s)
  | .tbwait a b s => some (43#6 ++ a ++ b ++ 0#13 ++ s)
  | .launch a d q => some (44#6 ++ a ++ d ++ 0#8 ++ q)
  | .exit => some (3019898880#32)
  | .yield => some (3087007744#32)
  | .place a => some (47#6 ++ a ++ 0#21)
  | .placeFrz => some (3154120704#32)
  | .placeThaw => some (3154124800#32)
  | .placeSt d => some (1504#11 ++ d ++ 12288#16)
  | .cutsel a => some (48#6 ++ a ++ 0#21)
  | .restripe a => some (49#6 ++ a ++ 0#21)
  | .pwrmark n => some (209715200#28 ++ n)
  | .verify a d => some (51#6 ++ a ++ d ++ 0#16)
  | _ => none

/-! ## Both -/

/-- An encoded instruction: the 64-bit word of an element or the 32-bit word of a sequencer. -/
inductive Code where
  | elem (w : BitVec 64)
  | seq (w : BitVec 32)
  deriving DecidableEq, Repr

/-- The word of an instruction that has one. -/
def encode (i : Instr) : Option Code :=
  match seqWord i with
  | some w => some (.seq w)
  | none => (elemWord i).map fun w => .elem w.pack

/-- The instruction of a word; none for an empty slot. -/
def decode : Code → Option Instr
  | .elem w => decodeElem w
  | .seq w => some (decodeSeq w)

/-- A little-endian value of bytes, the first byte the lowest (R5). -/
def leNat : List (BitVec 8) → Nat
  | [] => 0
  | b :: bs => b.toNat + 256 * leNat bs

/-- The decoder on bytes as memory holds them (R5): four bytes of a sequencer word. -/
def decodeSeqBytes (bs : List (BitVec 8)) : Instr := decodeSeq (BitVec.ofNat 32 (leNat bs))

/-- The decoder on the eight bytes of a slot word. -/
def decodeElemBytes (bs : List (BitVec 8)) : Option Instr := decodeElem (BitVec.ofNat 64 (leNat bs))

/-- The instruction that the decoder reads from a word whose bits are numbered as the opcode table numbers
them: 32 bits are a sequencer word, 64 bits an element word. -/
def decodeTableWord (nbits w : Nat) : Option Instr :=
  if nbits ≤ 32 then some (decodeSeq (BitVec.ofNat 32 w)) else decodeElem (BitVec.ofNat 64 w)

end Sys2Proof
end

