-- ==== Sys2Proof/Machine/State.lean ====
section
/-!
DEFINITION. Machine/State.lean: every piece of state that the spec gives the device, as plain data, the reasons for
which a step can stop, and the state after reset. Units are held in sparse tables by their number; a unit that
is not listed is as the device leaves it at reset.
-/
namespace Sys2Proof.Machine

/-- Why a step stops with a fault. -/
inductive Fault where
  /-- Raised by a step of the device's own units whose arguments name a region, site, element, die or other
  unit that the device does not have (R12, R15 to R17). Safe: no such step exists in the hardware. -/
  | noSuchUnit
  deriving DecidableEq, Repr

/-- Why a step has no meaning. -/
inductive Refusal where
  /-- Raised by Dispatch for an instruction that has no meaning yet. Safe: nothing can be proved of it. -/
  | notModelled (mnemonic : String)
  deriving DecidableEq, Repr

/-! ## Tokens, queues and channels (06) -/

/-- A token: its sideband and its payload (R167). -/
structure Token where
  side : BitVec 16
  pay : Vec
  deriving DecidableEq, Repr, Inhabited

/-- Who obtains slots of a queue: a channel of an element, a stream port, a pump or a notify queue (R170, R500). -/
inductive Feeder where
  | chan (key k : Nat)
  | port (region n : Nat)
  | pump (region p : Nat)
  | notify (key : Nat)
  deriving DecidableEq, Repr, Inhabited

/-- A slot reserved for a feeder, and the cycle from which it is a credit (R172). -/
structure Resv where
  who : Feeder
  usable : Nat
  deriving DecidableEq, Repr, Inhabited

/-- An input queue of an element (R114, R170, R171). -/
structure Queue where
  toks : List Token := []
  resv : List Resv := []
  /-- bound by a route or an inbound stream port, and by a pump's fabric destination (R114) -/
  bound : Bool := false
  pumpBound : Bool := false
  /-- a token or marker that ends the wave has closed it since the last installation -/
  closed : Bool := false
  /-- how many grants the arbiter has made: the round-robin pointer -/
  rr : Nat := 0
  /-- slots that later beats of a firing free: the cycle of each (R172) -/
  late : List Nat := []
  deriving DecidableEq, Repr, Inhabited

/-- A token in an element's output stage (R172, R184): the channel, the routes it has still to reach, the cycle in
which it was sent, and the release that it waits for. -/
structure OutTok where
  chan : Nat
  tok : Token
  /-- the channel's binding when it was sent -/
  bind : BitVec 64
  pend : List Nat
  sent : Nat
  /-- SENDO: the scope, and the number of the first access that the SENDO did not follow -/
  wait : Option (Scope × Nat)
  /-- the sender's records and FPCTL, which a pump request packet samples (R258) -/
  recs : Table (BitVec 256)
  sample : BitVec 3
  deriving DecidableEq, Repr, Inhabited

/-! ## Translations (15) -/

/-- A translation: the leaf, its placement descriptor and the lines it was read from (R388, R391). -/
structure Xlat where
  /-- first virtual address and size of the translated range -/
  va : Nat
  size : Nat
  /-- first physical address -/
  pa : Nat
  pte : BitVec 64
  plc : BitVec 64
  root : Nat
  asid : Nat
  owner : Nat
  leafLines : List Nat
  deriving DecidableEq, Repr, Inhabited

/-- An entry of the walk cache: a table entry of level `lev` under `root` for the address bits above it (R391). -/
structure WalkEntry where
  root : Nat
  lev : Nat
  tag : Nat
  pte : BitVec 64
  line : Nat
  deriving DecidableEq, Repr, Inhabited

/-- A line that a region has read by Walk, and the root of which it is a non-leaf line (R392). -/
structure WalkRec where
  line : Nat
  root : Option Nat
  deriving DecidableEq, Repr, Inhabited

/-- What an access asks of a translation (R390). -/
structure XReq where
  asid : Nat
  owner : Nat
  /-- needs U = 1 -/
  user : Bool
  /-- 0 read, 1 write, 2 atomic, 3 fetch (R404) -/
  kind : Nat
  /-- a sequencer load or store, or an element LD or ST: may reach MT 2 -/
  device : Bool
  probe : Bool
  deriving DecidableEq, Repr, Inhabited

/-- A walk of a region's walker: the address and the access that began it, the lines read so far, and whether it has ended for
that access. Walks of one page of one address space are one (R388, R391). -/
structure WalkRun where
  va : Nat
  req : XReq
  got : Table Line
  fin : Bool
  deriving DecidableEq, Repr, Inhabited

/-! ## Accesses of an element (07) -/

/-- How an access of the element's kind came about; what it does is its `kind` (R217 to R225, R396). -/
inductive AccKind where
  | ld | ldf (clr : Bool) | ldg | ldr | st | stf | sts | atom (op size : Nat)
  | feset (full : Bool) | arrive | pref | tsync
  deriving DecidableEq, Repr, Inhabited

/-- Where the data of a load goes. -/
inductive AccDest where
  | none | reg (code : Nat) | chan (k : Nat)
  deriving DecidableEq, Repr, Inhabited

/-- One address of an access: a beat of 1 to 16 bytes, or one lane of LDG or STS. -/
structure AccLane where
  lane : Nat
  /-- virtual address (space 0) or local offset (spaces 1 and 2) -/
  addr : Nat
  /-- Skip of R202: a zero-fill read or a dropped write -/
  skip : Bool
  xlat : Option Xlat
  /-- a plain load has looked up the L1 (R358) -/
  looked : Bool
  got : Option Vec
  deriving DecidableEq, Repr, Inhabited

/-- An access from its firing until it is performed (R204, R205). -/
structure Access where
  id : Nat
  kind : AccKind
  slot : Nat
  beat : Nat
  /-- the slot word, for the trap record of a late fault -/
  word : BitVec 64
  ops : List Vec
  dest : AccDest
  /-- the chain joined, and whether as a chain write -/
  chain : Option (Nat × Bool)
  scope : Scope
  policy : Policy
  space : Nat
  /-- the element whose scratchpad holds the granule (spaces 1 and 2) -/
  target : Nat
  /-- bytes of each lane -/
  size : Nat
  data : Vec
  fired : Nat
  lanes : List AccLane
  /-- the lane in progress: earlier lanes are done -/
  cur : Nat
  /-- accepted at the owner's external port (spaces 1 and 2), and the cycle of that -/
  accepted : Option Nat
  /-- seal entries whose counts the request raised (R211) -/
  raised : List Nat
  /-- ARRIVE: sent to the barrier's port -/
  sentOff : Bool
  /-- a request of this access waits at a home -/
  asked : Bool
  /-- PREF and plain loads: no line is allocated in the L1 when it returns (R208) -/
  noAlloc : Bool
  /-- physical lines that are not allocated: those of ATOMs that fired after it (R352) -/
  barred : List Nat
  /-- LDF and STF: it has reached its scratchpad and waits there for its granule (R218) -/
  parked : Bool
  /-- a load to a channel, as things stood when it fired: the channel's binding, its tag (R188), and the records and FPCTL that a
  pump request packet samples (R258) -/
  bind : BitVec 64
  tag : BitVec 7
  recs : Table (BitVec 256)
  sample : BitVec 3
  /-- a late fault: cause and address (R203) -/
  fault : Option (BitVec 8 × Nat)
  deriving DecidableEq, Repr, Inhabited

/-- A line of an L1 data cache or of a sequencer's cache (R207, R284). -/
structure CacheLine where
  line : Nat
  data : Line
  first : Bool
  deriving DecidableEq, Repr, Inhabited

/-- A seal entry (R209). -/
structure Seal where
  sealed : Bool := false
  lo : Nat := 0
  hi : Nat := 0
  count : Nat := 0
  deriving DecidableEq, Repr, Inhabited

/-- An unfinished exchange operation (R190 to R193). -/
inductive XKind where
  | txch (m : Nat) | tbcst (src : Nat) | tred (op gm : Nat) (ty : LaneTy)
  deriving DecidableEq, Repr, Inhabited

structure XOp where
  kind : XKind
  d : Nat
  a : Vec
  fired : Nat
  slot : Nat
  word : BitVec 64
  deriving DecidableEq, Repr, Inhabited

/-- A value in an inbox of the tile exchange, and the cycle in which its sender fired. -/
structure Inbox where
  val : Vec
  at_ : Nat
  deriving DecidableEq, Repr, Inhabited

/-! ## Elements (04) -/

/-- Element states (R119). -/
inductive ElemState where
  | idle | running | draining | reconfiguring | halted | trapped | frozen
  deriving DecidableEq, Repr, Inhabited

/-- A notify token on its way: its target queue and itself (R215). -/
structure Notify where
  site : Nat
  elem : Nat
  queue : Nat
  tok : Token
  deriving DecidableEq, Repr, Inhabited

/-- The configuration that an element is installing: the load it comes from, its words 1 to 62 (none for the all-zero
configuration), how many fabric cycles it takes, how many words are installed, and the cycle in which it began (R116, R309). -/
structure Installing where
  load : Nat
  words : List (BitVec 64)
  total : Nat
  done : Nat
  since : Nat
  deriving DecidableEq, Repr, Inhabited

/-- Who writes to a scratchpad or updates a barrier at an external port: an access of an element, the region's sequencer, a pump,
an island or a Marten (R197, R214, R422). -/
inductive UpdFrom where
  | acc (key id : Nat) | seq | pump (p id : Nat) | island (m id : Nat) | marten (die id : Nat)
  deriving DecidableEq, Repr, Inhabited

/-- A write that an external port has accepted and that has still to be written: its source, its address, and the cycle of
acceptance (R198). -/
structure Landing where
  src : UpdFrom
  addr : Nat
  at_ : Nat
  deriving DecidableEq, Repr, Inhabited

/-- An update that waits at a port, or behind one that does (R215): the barrier's offset and its source. -/
structure HeldUpd where
  off : Nat
  src : UpdFrom
  deriving DecidableEq, Repr, Inhabited

/-- One element. -/
structure Elem where
  -- slots, predicates and registers (R99, R100, R19)
  slots : Table (BitVec 64) := []
  faulty : BitVec 16 := 0
  preds : BitVec 8 := 0
  f : Table Vec := []
  m : Table Vec := []
  la : Vec := 0
  lb : Vec := 0
  /-- load-pending bits, by operand code (R111) -/
  pend : BitVec 64 := 0
  ef : Table Vec := []
  fpctl : BitVec 32 := 0
  fpst : BitVec 32 := 0
  cychi : BitVec 32 := 0
  pow : Nat := 0
  st : ElemState := .idle
  wave : BitVec 8 := 0
  /-- first cycle in which the datapath is free (R104) -/
  busy : Nat := 0
  -- queues and channels (06)
  queues : Table Queue := []
  binds : Table (BitVec 64) := []
  /-- routes of each channel that have been detached from its live binding (R176) -/
  det : Table (BitVec 4) := []
  /-- cycle from which the channels of the configuration request slots (R500) -/
  reqFrom : Nat := 0
  /-- VC and CTX of each channel (R168): CTX in [6:5], VC in [4:0] -/
  otag : Table (BitVec 7) := []
  out : List OutTok := []
  fmts : Table (BitVec 16) := []
  spcfg : BitVec 12 := 0
  /-- first cycle in which the coordinate-intersection unit may remove a token (R182) -/
  spBusy : Nat := 0
  /-- first cycle in which the sequence unit's input stage may examine its queue again (R432) -/
  seqBusy : Nat := 0
  -- local memory (07)
  recs : Table (BitVec 256) := []
  seals : Table Seal := []
  spad : List Host.Cell := []
  /-- granules whose full-empty bit is full, ascending (R199) -/
  full : List Nat := []
  l1 : List CacheLine := []
  tlb : List Xlat := []
  accs : List Access := []
  nextAcc : Nat := 0
  /-- lines written in space 0 and perhaps not yet performed at every wider point (R341) -/
  touched : List Nat := []
  cancelled : List Access := []
  /-- first cycle in which the external port is free, the requester that it takes first, and the requesters that have found it
  taken, with the cycle of that (R197) -/
  portBusy : Nat := 0
  portRr : Nat := 0
  portWait : List (Nat × Nat) := []
  /-- writes of other elements that the port has accepted (R198), and barrier updates that wait at it (R215) -/
  landing : List Landing := []
  held : List HeldUpd := []
  /-- the barrier that the sequencer's TBWAIT waits for, and whether a phase change has released it (R214, R299) -/
  waiter : Option (Nat × Bool) := none
  notify : List Notify := []
  -- the tile exchange (06)
  inbox : Table Inbox := []
  binbox : Table Inbox := []
  xops : List XOp := []
  -- the sequence unit (16)
  seqArm : Bool := false
  seqQ : Nat := 0
  seqBase : Nat := 0
  seqExpect : BitVec 24 := 0
  seqOcc : BitVec 256 := 0
  -- reconfiguration, traps and pre-emption (04, 10, 17)
  markers : BitVec 6 := 0
  installing : Option Installing := none
  trapRec : Option (BitVec 1024) := none
  /-- the cycle in which the element took that trap -/
  trapAt : Nat := 0
  frozen : ElemState := .idle
  deriving DecidableEq, Repr, Inhabited

/-! ## The sequencer (10) -/

/-- A store, ATOM or QPUT of the sequencer that has completed and is not yet performed (R282). -/
structure SeqStore where
  id : Nat
  scope : Scope
  xlat : Xlat
  pa : Nat
  data : List Byte
  asked : Bool
  deriving DecidableEq, Repr, Inhabited

/-- A load of the configuration stream (R308, R309): where its descriptor stands, words 1 to 62 of the block of each element
of its sites, rewritten (none for an element without a block), and the elements that have installed it. -/
structure PendLoad where
  id : Nat
  desc : Nat
  blocks : Table (List (BitVec 64))
  installed : List Nat
  deriving DecidableEq, Repr, Inhabited

/-- A pending asynchronous trap (R438). -/
structure AsyncTrap where
  cls : Nat
  cause : BitVec 8
  src : Nat
  val : BitVec 64
  deriving DecidableEq, Repr, Inhabited

/-- A barrier instruction at work (R282, R297): the cycle in which its request left, whether a TBWAIT is registered at the barrier,
and the cycle in which the reply returns, with the cause of a refusal or 0. -/
structure BarWait where
  sent : Option Nat := none
  waits : Bool := false
  reply : Option (Nat × BitVec 8) := none
  deriving DecidableEq, Repr, Inhabited

structure Seq where
  pc : BitVec 64 := 0
  sup : Bool := true
  regs : Table (BitVec 64) := []
  fpctl : BitVec 32 := 0
  fpst : BitVec 32 := 0
  rtentry : BitVec 64 := 0
  tvec : BitVec 64 := 0
  tpc : BitVec 64 := 0
  tcause : BitVec 64 := 0
  tval : BitVec 64 := 0
  pmode : Bool := false
  tscr : BitVec 64 := 0
  strmctl : BitVec 64 := 64
  slotadr : BitVec 64 := 0
  cfgerr : BitVec 64 := 0
  cfgmap : Table (BitVec 64) := []
  codewin : Table (BitVec 64) := []
  sqbind : Table (BitVec 64) := []
  spbind : Table (BitVec 64) := []
  sqside : BitVec 64 := 0
  /-- pending asynchronous traps, in the order in which they arose -/
  pending : List AsyncTrap := []
  /-- virtual lines whose fetch-permit bit is set, with their code window (R89) -/
  permits : List (Nat × Nat) := []
  icache : List CacheLine := []
  dcache : List CacheLine := []
  events : List (BitVec 64) := []
  /-- the last cycle in which FEVT has placed entries, and how many (R134) -/
  evNew : Nat × Nat := (0, 0)
  /-- the cycle in which the event queue last received an entry while it was empty (R295) -/
  evFirst : Nat := 0
  stores : List SeqStore := []
  nextStore : Nat := 0
  touched : List Nat := []
  /-- the cycle in which the instruction that waits began -/
  waitStart : Option Nat := none
  /-- a WAITE that waits: the cycle of its timeout, if it has one, and its destination -/
  waite : Option (Option Nat × BitVec 5) := none
  /-- EXIT has begun (R310), and the first cause that arose while it waited (R436) -/
  exiting : Bool := false
  exitCause : Option (BitVec 8) := none
  /-- loads of configurations that wait for their elements (R302, R304) -/
  loads : List PendLoad := []
  nextLoad : Nat := 0
  endMark : Bool := false
  /-- a request of the instruction that waits has been sent to a home, or its update has been applied at a barrier's port -/
  asked : Bool := false
  bar : BarWait := {}
  /-- lines of records that the instruction that waits has read, by virtual line: it reads each once (R270, R308, R327) -/
  lines : Table Line := []
  /-- the access in progress has sent its request: its translation and address (R393), and the number of its request -/
  inUse : Option (Xlat × Nat) := none
  nextReq : Nat := 0
  /-- a QPUT waits for room in the ring of this queue port (R176) -/
  qputWait : Option Nat := none
  deriving DecidableEq, Repr, Inhabited

/-! ## Matrix islands (08) -/

/-- A configuration context: its record while it is valid (R227, R230), its FAULT bit, and, after a fault, the record under which a
granule that was already sent still lands (R249). -/
structure MCtx where
  rec_ : Option (BitVec 1024) := none
  fault : Bool := false
  old : BitVec 1024 := 0
  deriving DecidableEq, Repr, Inhabited

inductive TileKind where
  | mma | zero | load | write
  deriving DecidableEq, Repr, Inhabited

/-- Progress of one tile of a run: block steps or granules done, and whether the tile is complete (R240). -/
structure TileProg where
  steps : Nat := 0
  /-- the transfer pipe has started it -/
  started : Bool := false
  /-- granules that a scratchpad's port has accepted and that are still to be written, with the cycle of each (R198) -/
  posted : List (Nat × Nat) := []
  /-- the translation of the granule in progress in space 0 -/
  xlat : Option Xlat := none
  /-- first cycle in which what it has read can be there (R198) -/
  due : Nat := 0
  complete : Bool := false
  deriving DecidableEq, Repr, Inhabited

/-- An armed run (R239): TCNT tiles, with the FPCTL sample of R58. -/
structure Run where
  id : Nat
  /-- the MRUN that armed it, in this and in other islands (R234) -/
  group : Nat
  /-- its context has faulted: only a granule that was already sent goes on (R249) -/
  dead : Bool
  ctx : Nat
  kind : TileKind
  acc : Nat
  astep : Nat
  t0 : Int
  tcnt : Nat
  kext : Nat
  sample : BitVec 3
  tiles : Table TileProg
  deriving DecidableEq, Repr, Inhabited

/-- A block of one operand in staging (R227, R236): the pieces of vector v by 8v + piece, its scale at 8v + 7, and how
many tokens have arrived. -/
structure StageBlock where
  run : Nat
  tile : Nat
  block : Nat
  data : Table Vec
  count : Nat
  full : Bool
  deriving DecidableEq, Repr, Inhabited

/-- An operand fetch in flight (R233): the piece it is for, the element whose counts it has raised, and the cycle of its
acceptance. -/
structure MFetch where
  id : Nat
  ctx : Nat
  side : Bool
  run : Nat
  tile : Nat
  block : Nat
  slot : Nat
  key : Nat
  data : Vec
  raised : List Nat
  at_ : Nat
  dropped : Bool
  deriving DecidableEq, Repr, Inhabited

/-- An arrival of a complete tile or run that has still to be sent (R246). -/
structure MArrival where
  id : Nat
  ctx : Nat
  kind : TileKind
  acc : Nat
  tile : Nat
  steps : Nat
  site : Nat
  elem : Nat
  off : Nat
  /-- the cycle in which it was sent -/
  at_ : Nat
  deriving DecidableEq, Repr, Inhabited

/-- Slots of an engine or stream port: reservations and tokens with their senders. -/
structure PortTok where
  key : Nat
  chan : Nat
  tok : Token
  /-- the sender's records and FPCTL, sampled when the sending instruction fired (R258) -/
  recs : Table (BitVec 256)
  sample : BitVec 3
  deriving DecidableEq, Repr, Inhabited

structure PortSlots where
  resv : List Resv := []
  toks : List PortTok := []
  rr : Nat := 0
  deriving DecidableEq, Repr, Inhabited

structure Island where
  ctxs : Table MCtx := []
  /-- accumulator tiles, element [r][n] at 64r + n, as FA40 (R228) -/
  acc : Table (Table (BitVec 40)) := []
  runs : List Run := []
  nextId : Nat := 0
  /-- operand ports: A of context c at 2c, B at 2c + 1 -/
  ports : Table PortSlots := []
  stageA : Table (List StageBlock) := []
  stageB : Table (List StageBlock) := []
  fetches : List MFetch := []
  arrivals : List MArrival := []
  flags : BitVec 6 := 0
  /-- the flags that operations set last, and the cycle of that (R56) -/
  flagsNew : Nat × BitVec 6 := (0, 0)
  mxflt : BitVec 64 := 0
  /-- step credit (R476) -/
  credit : Nat := 0
  deriving DecidableEq, Repr, Inhabited

/-! ## Pumps (09) -/

/-- A request in a pump's queue, with what R258 samples. -/
structure PReq where
  id : Nat
  desc : BitVec 512
  sample : BitVec 3
  /-- made by a packet of this element -/
  origin : Option Nat
  srcRec : Option (BitVec 256)
  dstRec : Option (BitVec 256)
  /-- the cycle in which it entered the queue (R271) -/
  at_ : Nat
  deriving DecidableEq, Repr, Inhabited

/-- A piece of an access of a pump: within a line, or within 64 bytes of a scratchpad; or a token that it sends. -/
structure PPiece where
  iter : Nat
  /-- 0 source, 1 destination, 2 AUX -/
  place : Nat
  write : Bool
  /-- 0 virtual address, 2 scratchpad, 3 stream port, 4 fabric (R257) -/
  ek : Nat
  /-- the element of a scratchpad -/
  key : Nat
  addr : Nat
  size : Nat
  scope : Nat
  data : List Byte
  /-- BOUNDS 2 beyond the extent: zero bytes or a dropped write (R262) -/
  skip : Bool
  tok : Option Token
  deriving DecidableEq, Repr, Inhabited

/-- A piece that has been issued, with the bytes of it that are done. -/
structure PAcc where
  id : Nat
  req : Nat
  p : PPiece
  xlat : Option Xlat
  /-- the cycle in which it was issued -/
  issued : Nat
  done : Nat
  got : List Byte
  /-- granules of a scratchpad that the port has accepted, by position, and a token that has been sent, with the cycle of each (R198) -/
  posted : List (Nat × Nat)
  complete : Bool
  /-- a later granule has been refused: what was accepted still completes (R262) -/
  refused : Bool
  /-- the element and the seal entries of each granule read (R211) -/
  raised : List (Nat × List Nat)
  deriving DecidableEq, Repr, Inhabited

/-- An update of a barrier that a request has still to make (R275). -/
structure PUpd where
  id : Nat
  req : Nat
  darr : Nat
  dsec : Nat
  /-- the cycle in which it was sent -/
  at_ : Nat
  deriving DecidableEq, Repr, Inhabited

/-- A request that has started, with its transform state (R272, R280). -/
structure PActive where
  req : PReq
  /-- 0 reading what the transform needs first, 1 iterations, 2 ending, 3 everything issued -/
  stage : Nat := 0
  /-- next source iteration and next destination iteration -/
  q : Nat := 0
  wr : Nat := 0
  /-- pieces to issue, in order -/
  work : List PPiece := []
  /-- source bytes read or received and not yet consumed, and bytes of a dense source asked for so far -/
  src : List Byte := []
  srcPos : Nat := 0
  /-- bytes read from AUX, and whether the present iteration has asked for them -/
  aux : List Byte := []
  auxAsked : Bool := false
  /-- bytes for the destination that fill no iteration or token yet, and bytes of a dense destination written so far -/
  out : List Byte := []
  dstPos : Nat := 0
  tok : List Byte := []
  crc : BitVec 32 := 0
  /-- every byte hashed so far (SHA-384) -/
  hashed : List Byte := []
  /-- entropy decoder: lanes of the open block and how many it has, symbols left, symbol index, bytes emitted -/
  lanes : List Nat := []
  nlanes : Nat := 0
  left : Nat := 0
  symIx : Nat := 0
  emitted : Nat := 0
  /-- fibre unpack: the entry read ahead, the last coordinate, the end mark -/
  entry : Option (Nat × Nat) := none
  lastCoord : Option Nat := none
  fibEnd : Bool := false
  /-- the arrival has been sent; a final fault has ended the request -/
  arrSent : Bool := false
  dead : Bool := false
  deriving DecidableEq, Repr, Inhabited

structure Pump where
  queue : List PReq := []
  reqPort : PortSlots := {}
  dataPort : PortSlots := {}
  active : List PActive := []
  accs : List PAcc := []
  updates : List PUpd := []
  nextId : Nat := 0
  flags : BitVec 5 := 0
  flagsNew : Nat × BitVec 5 := (0, 0)
  stall : Bool := false
  fault : Bool := false
  pmflt0 : BitVec 64 := 0
  pmflt1 : BitVec 64 := 0
  pmflt2 : BitVec 64 := 0
  pmdsc : BitVec 512 := 0
  /-- latched page runs (R276), by endpoint: 0 source, 1 destination, 2 AUX -/
  latches : List (Nat × Xlat) := []
  /-- fabric destinations of active requests: site, element and queue (R114), or 32 + port, context and 0 -/
  bound : List (Nat × Nat × Nat) := []
  deriving DecidableEq, Repr, Inhabited

/-! ## Stream ports, Stoat and the region (06, 11, 17 to 19) -/

/-- A token that an inbound port has taken from its ring and that is on its way to a queue, and the cycle in which it left. -/
structure PortMove where
  key : Nat
  queue : Nat
  tok : Token
  sent : Nat
  deriving DecidableEq, Repr, Inhabited

/-- A stream port (R180, R331, R332). -/
structure StreamPort where
  slots : PortSlots := {}
  /-- first cycle in which the port takes another token (R180), and the tokens on their way from it (R501) -/
  busy : Nat := 0
  moves : List PortMove := []
  /-- slots that an inbound port holds in its queue are reservations in that queue -/
  lastDeal : Nat := 19
  /-- markers of a wave still to be dealt, by site -/
  dealLeft : List Nat := []
  eowPassed : Bool := false
  /-- channels on which a marker has arrived since the last one was forwarded (R332) -/
  marked : List (Nat × Nat) := []
  /-- channels of instances that drain and no longer count -/
  gone : List (Nat × Nat) := []
  deriving DecidableEq, Repr, Inhabited

/-- What Stoat knows of one actor of the table in effect (R329, R333). -/
structure ActorState where
  entry : BitVec 256
  /-- words 1 to 62 of the elements of its template, as PLACE checked it -/
  tmpl : Table (List (BitVec 64))
  live : List Nat
  high : Nat
  low : Nat
  deriving DecidableEq, Repr, Inhabited

structure Stoat where
  /-- the table in effect -/
  actors : Option (List ActorState) := none
  /-- tables attached to pending loads, by load number (R338) -/
  pending : Table (List ActorState) := []
  frozen : Bool := false
  /-- a growth install in progress: actor, site and the cycle in which it completes -/
  grow : Option (Nat × Nat × Nat) := none
  /-- sites being drained, with their deal port and whether the marker has been delivered -/
  drains : List (Nat × Nat × Bool) := []
  deriving DecidableEq, Repr, Inhabited

/-- The team bound to a region (R283, R314). -/
structure Team where
  disp : Nat
  queue : Nat
  ticket : Nat
  index : Nat
  asid : Nat
  owner : Nat
  l1sz : Nat
  draw : Bool
  kid : Nat
  phase : Nat
  /-- link peers whose homes the team has accessed (R455) -/
  peers : List Nat
  deriving DecidableEq, Repr, Inhabited

/-- Region states of R446. -/
inductive RegionState where
  | free | running | holding | stopping | saving | saved | restoring | reserved
  deriving DecidableEq, Repr, Inhabited

/-- An entry of the write-combining buffer: a line and the bytes it holds (R341). -/
structure WcbEntry where
  line : Nat
  data : Line
  mask : BitVec 64
  plc : BitVec 64
  noticed : Bool
  asked : Bool
  /-- roots and leaf lines of the translations under which it was written (R393) -/
  via : List (Nat × List Nat)
  /-- numbers of the first and the last write that it holds (R351) -/
  first : Nat
  last : Nat
  deriving DecidableEq, Repr, Inhabited

structure Region where
  cycle : Nat := 0
  seq : Seq := {}
  team : Option Team := none
  prevOwner : Nat := 0
  prevAsid : Nat := 0
  islands : Table Island := []
  /-- MRUNs that have armed runs -/
  mruns : Nat := 0
  pumps : Table Pump := []
  ports : Table StreamPort := []
  /-- multicast consumers that hold their stream back, and for how many ns (R176) -/
  held : List (DetachWho × Nat) := []
  stoat : Stoat := {}
  etq : List (BitVec 1024) := []
  faultq : List (BitVec 256) := []
  ovf : Bool := false
  /-- the region has taken the trap of the last link loss (R456) -/
  lossTold : Bool := false
  tlb : List Xlat := []
  walkCache : List WalkEntry := []
  walkRec : List WalkRec := []
  walks : List WalkRun := []
  wcb : List WcbEntry := []
  -- pre-emption (17)
  rstate : RegionState := .free
  reason : BitVec 8 := 0
  empty : Bool := false
  rej : Bool := false
  rerr : BitVec 8 := 0
  savebase : BitVec 64 := 0
  drainlim : Nat := 100
  drawlim : Nat := 2000
  /-- time base at which the drain timer started and at which the hold began -/
  drainFrom : Option Nat := none
  holdFrom : Option Nat := none
  -- partitions and power (18, 19)
  owner : Nat := 0
  ownerRej : Bool := false
  gwCount : Nat := 0
  gwBudget : Nat := 0
  etok : Nat := 256
  istep : Nat := 0
  /-- writes of PWRBUD, the newest first: the cycle, ETOK and ISTEP; each takes effect at the first refill that begins after it -/
  budNext : List (Nat × Nat × Nat) := []
  opFix : Bool := false
  pmax : Nat := 15
  pmin : Nat := 3
  point : Nat := 15
  pointNext : Option Nat := none
  /-- cycle in which an element last fired -/
  firedAt : Option Nat := none
  bpHeld : Nat := 0
  bpStarve : Nat := 0
  /-- bit s: site s is fused off (R17) -/
  fused : BitVec 20 := 0
  deriving DecidableEq, Repr, Inhabited

/-! ## Coherence (14) -/

inductive LineState where
  | invalid | shared | exclusive | modified | mm
  deriving DecidableEq, Repr, Inhabited

/-- A directory entry (R362). -/
structure Dir where
  st : LineState := .invalid
  own : Nat := 0
  cs : BitVec 4 := 0
  ps : BitVec 32 := 0
  ts : BitVec 4 := 0
  nh : BitVec 4 := 0
  deriving DecidableEq, Repr, Inhabited

/-- A line of a cistern (R364). -/
structure CLine where
  st : LineState
  data : Line
  dirty : BitVec 64
  /-- numbers of the first and the last write since the cistern gained write permission (R351) -/
  first : Nat
  last : Nat
  deriving DecidableEq, Repr, Inhabited

structure Cistern where
  lines : Table CLine := []
  /-- regions that hold translations derived from a line (R389) -/
  walkers : List (Nat × Nat) := []
  /-- regions whose write-combining buffers hold narrow writes to a line (R370) -/
  narrow : List (Nat × Nat) := []
  /-- lines of which it has written masked bytes back while other holders keep their copies, with the number of the first write -/
  sent : List (Nat × Nat) := []
  deriving DecidableEq, Repr, Inhabited

inductive ReqKind where
  | rds | walk | rdx | rdmm | wbm | wbmm | wrh | ath | clre | recall
  deriving DecidableEq, Repr, Inhabited

/-- For whom a home answers a request that is not answered by a line in a cistern. -/
inductive ReqTag where
  | none
  | elem (key id : Nat)
  | seqLoad (region id : Nat)
  | store (region id : Nat)
  | wcb (region : Nat)
  | pump (region p id : Nat)
  | island (region m id : Nat)
  | host (id part : Nat)
  | peer (d : Nat)
  | engine (n : Nat)
  | walk (region page asid owner : Nat)
  deriving DecidableEq, Repr, Inhabited

/-- A request at a home (R365). -/
structure HReq where
  kind : ReqKind
  agent : Nat
  /-- the region that walks -/
  region : Nat
  /-- a read or write without a grant: an uncached access, or the host's (R373, R384) -/
  uncached : Bool
  data : Line
  mask : BitVec 64
  /-- AtH: byte offset, size, operation, operand, comparand -/
  off : Nat
  size : Nat
  op : Nat
  v : BitVec 64
  c : BitVec 64
  tag : ReqTag
  /-- a write at pkg or sys by a die's agent: how many narrow writes came before it (R351) -/
  stamp : Nat
  deriving DecidableEq, Repr, Inhabited

/-- A request that the home is serving: what it still waits for (R366, R369, R370). -/
structure HTx where
  req : HReq
  pubs : List Nat
  tinv : List Nat
  snoops : List Nat
  /-- bytes returned by the holders so far: data and mask, in the order of the answers -/
  answers : List (Line × BitVec 64)
  /-- the grant waits for the requester's acknowledgement: state granted and data -/
  granted : Option (LineState × Line)
  /-- a recall: the entry as the home read it (R377) -/
  entry : BitVec 64
  deriving DecidableEq, Repr, Inhabited

structure HomeQ where
  reqs : List HReq := []
  tx : Option HTx := none
  deriving DecidableEq, Repr, Inhabited

/-- An answer on its way to a requester. -/
structure Ack where
  tag : ReqTag
  line : Nat
  data : Line
  old : BitVec 64
  bad : Option (BitVec 8)
  deriving DecidableEq, Repr, Inhabited

/-! ## The distributor (11) -/

/-- Range of a dispatch: first block, one past the last block, and whether it is written (R315). -/
structure Range where
  lo : Nat
  hi : Nat
  write : Bool
  deriving DecidableEq, Repr, Inhabited

/-- The head of a launch queue as the distributor has read it (R317). -/
structure Head where
  ticket : Nat
  rec_ : BitVec 512
  mint : Nat
  l1sz : Nat
  ranges : Option (List Range)
  /-- the dispatch, once it has been selected -/
  disp : Option Nat
  deriving DecidableEq, Repr, Inhabited

/-- A dispatch in flight (R316), or one that ended early and whose completion record is still being written. -/
structure Disp where
  id : Nat
  queue : Nat
  ticket : Nat
  asid : Nat
  owner : Nat
  rec_ : BitVec 512
  ranges : Option (List Range)
  mint : Nat
  l1sz : Nat
  bound : Nat
  retired : List Nat
  lastDie : Option Nat
  /-- the first trap that a team's EXIT recorded -/
  cause : BitVec 8
  /-- it ended before a team was bound: it blocks nothing -/
  early : Bool
  /-- REASON and CAUSE with which it has ended, and how many parts of the completion record are written (R323) -/
  ending : Option (Nat × BitVec 8)
  stage : Nat
  /-- link peers whose homes its retired teams have accessed (R455) -/
  peers : List Nat
  deriving DecidableEq, Repr, Inhabited

structure Distributor where
  heads : Table Head := []
  /-- for a queue that is not empty, the time base since which its head waits (R318) -/
  since : Table Nat := []
  standing : Table Nat := []
  last : Table Nat := []
  inflight : List Disp := []
  nextId : Nat := 1
  deriving DecidableEq, Repr, Inhabited

/-! ## Other units of the package (15, 16, 18, 19) -/

/-- A re-stripe job (R399): the record as read and its physical address. -/
structure RsJob where
  rec_ : BitVec 512
  pa : Nat
  deriving DecidableEq, Repr, Inhabited

/-- The leaf that the re-stripe engine moves: address of its entry, the entry, its size, its descriptors, how many of its lines
are copied, and how many of those have been moved back. -/
structure RsLeaf where
  addr : Nat
  pte : BitVec 64
  size : Nat
  old : BitVec 64
  new : BitVec 64
  copied : Nat
  back : Nat
  deriving DecidableEq, Repr, Inhabited

/-- The running re-stripe job (R400, R401): next address, pages done, the leaf in progress, and the end of the job: reason,
cause and FVA. -/
structure RsRun where
  job : RsJob
  v : Nat
  donep : Nat
  leaf : Option RsLeaf
  ending : Option (Nat × BitVec 8 × Nat)
  deriving DecidableEq, Repr, Inhabited

/-- A Marten job (R421, R422), from its CUTSEL to its end. -/
structure MJob where
  id : Nat
  addr : Nat
  asid : Nat
  owner : Nat
  region : Nat
  started : Bool := false
  rec_ : BitVec 1024 := 0
  graph : BitVec 512 := 0
  /-- the residency snapshot: cluster pages that are resident (R415) -/
  resident : List Nat := []
  /-- next instance to visit, and tokens of the visited ones that are still to be sent: payload and partition -/
  inst : Nat := 0
  todo : List (Nat × Nat) := []
  ntok : Nat := 0
  requested : List Nat := []
  counts : Table Nat := []
  ovf : Bool := false
  /-- the job has set PB of its ring -/
  pb : Bool := false
  /-- the job's end: reason, cause and FVA; whether its marker is written, and how many of its final writes are made -/
  ending : Option (Nat × BitVec 8 × Nat) := none
  marker : Bool := false
  stage : Nat := 0
  /-- its record is written, and with it the job has ended; its arrival is still to be made (R422, R424) -/
  written : Bool := false
  deriving DecidableEq, Repr, Inhabited

structure Marten where
  jobs : List MJob := []
  nextId : Nat := 0
  /-- the job that sent the last token -/
  lastEmit : Nat := 0
  tlb : List Xlat := []
  deriving DecidableEq, Repr, Inhabited

/-- A VERIFY request (R491). -/
structure VReq where
  addr : Nat
  asid : Nat
  owner : Nat
  region : Nat
  /-- RESULT, once the record has been read and checked -/
  result : Option Nat
  deriving DecidableEq, Repr, Inhabited

/-- Port states of R471. -/
inductive PortState where
  | down | training | up | failed
  deriving DecidableEq, Repr, Inhabited

structure LinkPort where
  st : PortState := .down
  lanes : Nat := 0
  peerDev : Nat := 0
  peerPort : Nat := 0
  replay : Nat := 0
  /-- replays in a row of the flit that fails its check -/
  inRow : Nat := 0
  lastFlit : Nat := 0
  everUp : Bool := false
  deriving DecidableEq, Repr, Inhabited

/-- One line of a request of the host: its physical address, its length, and what has come back, with poison. -/
structure HostPart where
  pa : Nat
  len : Nat
  got : Option (List Byte × Bool)
  deriving DecidableEq, Repr, Inhabited

/-- A request of the host in flight (R468, R474): a read or an atomic, which is answered, or a posted write. -/
structure HostPend where
  id : Nat
  fn : Nat
  /-- 0 read, 1 write, 2 atomic -/
  kind : Nat
  parts : List HostPart
  deriving DecidableEq, Repr, Inhabited

/-- What a host request completes with (R459, R493). -/
inductive HostReply where
  | data (bytes : List Byte) (poisoned : Bool)
  | done
  | unsupported
  deriving DecidableEq, Repr, Inhabited

/-- A team's state in the opaque parts of a save area (R450, R452). -/
structure Saved where
  /-- the header of its area, which names it -/
  header : BitVec 512
  region0 : Nat
  region : Region
  elems : Table Elem
  deriving DecidableEq, Repr, Inhabited

/-- What the SPDM responder answers (R488). -/
inductive SpdmReply where
  | version (major minor : Nat)
  | capabilities (certificates challenge measurements sessions : Bool)
  | algorithms (ecdsaP384 sha384 : Bool)
  | digests (bytes : List Byte)
  | certificate (bytes : List Byte)
  | challengeAuth (bytes : List Byte)
  | measurement (index : Nat) (bytes : List Byte)
  | unexpectedRequest
  deriving DecidableEq, Repr, Inhabited

/-- The root of trust's SPDM responder (R488): how far the connection is set up, and the last response. -/
structure Spdm where
  version : Bool := false
  caps : Bool := false
  algs : Bool := false
  reply : Option SpdmReply := none
  deriving DecidableEq, Repr, Inhabited

/-! ## The whole -/

/-- The unit that executes: the model's own field. -/
structure Focus where
  region : Nat := 0
  site : Nat := 0
  elem : Nat := 0
  slot : Nat := 0
  deriving DecidableEq, Repr, Inhabited

/-- The state of the device. -/
structure State where
  -- the model's own fields
  turn : Turn := .seq 0
  moves : Nat := 0
  free : Nat := 0
  focus : Focus := {}
  -- units in tables by number
  regions : Table Region := []
  /-- elements by (20 × region + site) × 16 + element -/
  elems : Table Elem := []
  cisterns : Table Cistern := []
  martens : Table Marten := []
  -- memory, homes and the directory
  mem : List Host.Cell := []
  poison : List Nat := []
  /-- lines whose data fails its check value (R492) -/
  badCheck : List Nat := []
  /-- well that is the home of a line, where an access has named one (R383) -/
  wells : Table Nat := []
  dir : Table Dir := []
  homes : Table HomeQ := []
  acks : List Ack := []
  /-- the wells' frame maps: well and 4 KiB frame whose rows are allocated (R384, R485) -/
  rows : List (Nat × Nat) := []
  /-- how many narrow writes have been made (R351) -/
  wseq : Nat := 0
  /-- for a line of a cistern window, the regions that have written it, and how many narrow writes came before the last (R351) -/
  windowBy : Table (Table Nat) := []
  -- the package's units
  dist : Distributor := {}
  rsQueue : List RsJob := []
  rsRun : Option RsRun := none
  rotQueue : List VReq := []
  spdm : Spdm := {}
  saves : List Saved := []
  -- time
  time : Nat := 0
  -- registers (18, 19)
  /-- INTERVAL as written, and as sampled at the last boundary (R464) -/
  gwint : Nat := 10
  gwEff : Nat := 10
  meters : Table Nat := []
  logcfg : BitVec 64 := 0
  logWr : BitVec 32 := 0
  logRd : BitVec 32 := 0
  /-- records on their way to the log unit -/
  logQueue : List (BitVec 256) := []
  msix : Nat := 0
  vfcfg : Table (BitVec 64) := []
  devid : Nat := 0
  /-- the device is its group's bridging device (R24) -/
  bridge : Bool := true
  links : Table LinkPort := []
  routes : Table (BitVec 18) := []
  lostPeers : List Nat := []
  d2dFailed : List Nat := []
  watts : Nat := 1800
  optEn : Bool := true
  optOwner : Nat := 0
  /-- operating-point table: (owner, KID, phase) and point (R482) -/
  optTable : List ((Nat × Nat × Nat) × Nat) := []
  frmBusy : Option Nat := none
  frmWait : List Nat := []
  /-- time bases of the last meter boundary and of the last budget recomputation -/
  lastMeter : Nat := 0
  lastBudget : Nat := 0
  /-- time base at which the last pre-emption of a power emergency was sent, and the next region (R479) -/
  emergAt : Option Nat := none
  emergRegion : Nat := 0
  stage : Nat := 4
  fails : Nat := 0
  bootReason : Nat := 0
  minimal : Bool := false
  /-- time base at which stage 4 was reached, until GOOD is written (R486) -/
  goodBy : Option Nat := some 0
  keyhash : Table (BitVec 384) := []
  keylock : BitVec 8 := 0
  /-- BOOTST at the end of stage 4 (R488) -/
  bootMeasured : Nat := 4
  hostReplies : List (Nat × HostReply) := []
  hostPend : List HostPend := []
  nextHost : Nat := 0
  /-- the capability list (R494, R495): the tables by their local addresses -/
  qTable : Nat := 0x03000000
  asTable : Nat := 0x02000000
  asCount : Nat := 65536
  /-- offset of a die's ring table in its cistern window -/
  ringOffset : Nat := 0
  moduleForm : Bool := false
  deriving DecidableEq, Repr, Inhabited

/-- The device right after reset: as start-up hands it to software (R7, R486). -/
def State.reset : State := {}

end Sys2Proof.Machine
end

