-- ==== Sys2Proof/Machine/Ops.lean ====
section
/-!
DEFINITION. Machine/Ops.lean: the named operations over the state that the meanings share: units by number, queues,
channels and credits (R169 to R172), the output stage, taking an element trap (R107, R441, R442) and taking and
returning from a sequencer trap (R438, R440).
-/
namespace Sys2Proof.Machine

/-! ## Units -/

def getR (s : State) (r : Nat) : Region := tget s.regions r {}
def setR (s : State) (r : Nat) (x : Region) : State := { s with regions := tset s.regions r x }
def modR (s : State) (r : Nat) (f : Region → Region) : State := setR s r (f (getR s r))

def getE (s : State) (k : Nat) : Elem := tget s.elems k {}
def setE (s : State) (k : Nat) (x : Elem) : State := { s with elems := tset s.elems k x }
def modE (s : State) (k : Nat) (f : Elem → Elem) : State := setE s k (f (getE s k))

def getSeq (s : State) (r : Nat) : Seq := (getR s r).seq
def modSeq (s : State) (r : Nat) (f : Seq → Seq) : State := modR s r fun x => { x with seq := f x.seq }

/-- The number of element e of site st of region r. -/
def ekey (r st e : Nat) : Nat := (r * 20 + st) * 16 + e
def keyRegion (k : Nat) : Nat := k / 320
def keySite (k : Nat) : Nat := k / 16 % 20
def keyElem (k : Nat) : Nat := k % 16

/-- The element that executes. -/
def focusKey (s : State) : Nat := ekey s.focus.region s.focus.site s.focus.elem

/-- Die of a region (R15). -/
def dieOf (r : Nat) : Nat := r / 16

/-- The site is enabled: it exists and is not fused off (R17). -/
def siteOk (x : Region) (st : Nat) : Bool := decide (st < 20) && !x.fused.getLsbD st

/-- Numbers of the elements of a region's enabled sites (R18), in ascending order. -/
def elemKeys (x : Region) (r : Nat) : List Nat :=
  ((upto 20).filter fun st => siteOk x st).flatMap fun st => (upto 16).map fun e => ekey r st e

/-- Column and row of a tile site (R12). -/
def siteCol (st : Nat) : Nat := st % 5
def siteRow (st : Nat) : Nat := st / 5

/-- Mesh hops between two sites (R172). -/
def hops (a b : Nat) : Nat :=
  ((siteCol a : Int) - siteCol b).natAbs + ((siteRow a : Int) - siteRow b).natAbs

/-- The units of the region act: it is not stopped for a pre-emption (R447). -/
def acting (x : Region) : Bool :=
  match x.rstate with
  | .stopping | .saving | .saved | .restoring => false
  | _ => true

/-- What is on its way still moves: the units act, or the region is stopping or settling before its save (R450). -/
def settling (x : Region) : Bool := acting x || x.rstate == .stopping || x.rstate == .saving

/-- The region's owner ID. -/
def ownerOf (x : Region) : Nat := match x.team with | some t => t.owner | none => x.owner

/-- The team's ASID. -/
def asidOf (x : Region) : Nat := match x.team with | some t => t.asid | none => 0

/-- Scratchpad bytes of an element under the team's L1 size (R195). -/
def spadSize (x : Region) : Nat :=
  match x.team with
  | some t => if t.l1sz = 1 then 0xC000 else if t.l1sz = 2 then 0x8000 else 0x10000
  | none => 0x10000

def l1szOf (x : Region) : Nat := match x.team with | some t => t.l1sz | none => 0

/-- Runs a step of a unit that exists; a step of one that does not stops. -/
def withUnit (ok : Bool) (s : State) (f : State → State) : Host.Outcome State Fault Refusal :=
  if ok then .next (f s) else .fault .noSuchUnit

def regionOk (r : Nat) : Bool := decide (r < Config.regions)
def elemOk (s : State) (r st e : Nat) : Bool :=
  decide (r < Config.regions) && siteOk (getR s r) st && decide (e < Config.elems)

/-! ## Tokens -/

/-- A sideband (R167). -/
def mkSide (kind scope : Nat) (eow : Bool) (ctx vc : Nat) : BitVec 16 :=
  BitVec.ofNat 16 (kind * 2 ^ 14 + scope * 2 ^ 11 + (if eow then 2 ^ 10 else 0) + ctx * 2 ^ 8 + vc)

def Token.kind (t : Token) : Nat := (t.side.extractLsb' 14 2).toNat
def Token.scope (t : Token) : Nat := (t.side.extractLsb' 11 3).toNat
def Token.eow (t : Token) : Bool := t.side.getLsbD 10
def Token.ctx (t : Token) : Nat := (t.side.extractLsb' 8 2).toNat
def Token.vc (t : Token) : Nat := (t.side.extractLsb' 0 5).toNat

/-- An end-of-wave marker (R167). -/
def marker : Token := ⟨mkSide 2 0 true 0 0, 0⟩
def Token.isMarker (t : Token) : Bool := t.kind == 2

/-! ## Queues -/

def getQ (e : Elem) (q : Nat) : Queue := tget e.queues q {}
def setQ (e : Elem) (q : Nat) (x : Queue) : Elem := { e with queues := tset e.queues q x }

/-- The queue is closed: unbound, or closed by a token or marker that ended its wave (R114). -/
def Queue.shut (q : Queue) : Bool := q.closed || !(q.bound || q.pumpBound)

/-- Tokens of the current wave at the front of a queue: those up to the first that ends the wave; a marker is no
token that an instruction can read (R102). -/
def waveLen : List Token → Nat
  | [] => 0
  | t :: r => if t.isMarker then 0 else if t.eow then 1 else 1 + waveLen r

/-- QA and QB of the coordinate-intersection unit (R189). -/
def spEn (e : Elem) : Bool := e.spcfg.getLsbD 11
def spQa (e : Elem) : Nat := (e.spcfg.extractLsb' 6 3).toNat
def spQb (e : Elem) : Nat := (e.spcfg.extractLsb' 3 3).toNat

/-- Tokens of the current wave in queue q, whatever the intersection unit says. -/
def rawAvail (e : Elem) (q : Nat) : Nat := if (getQ e q).shut then 0 else waveLen (getQ e q).toks

/-- The coordinate of a token (R182). -/
def coordOf (t : Token) : Nat := laneOf 32 t.pay.toNat 0

/-- Both queues of the intersection unit hold heads with equal coordinates (R182). -/
def spMatched (e : Elem) : Bool :=
  match (getQ e (spQa e)).toks, (getQ e (spQb e)).toks with
  | a :: _, b :: _ => rawAvail e (spQa e) != 0 && rawAvail e (spQb e) != 0 && coordOf a == coordOf b
  | _, _ => false

/-- Avail(q) of R102, with the change that R182 makes. -/
def avail (e : Elem) (q : Nat) : Nat :=
  if spEn e && (q == spQa e || q == spQb e) then (if spMatched e then 1 else 0) else rawAvail e q

/-- The head token of a queue. -/
def headTok (e : Elem) (q : Nat) : Option Token := (getQ e q).toks.head?

/-- Slots of a queue that are neither occupied nor reserved in a cycle; a slot that a later beat of a firing frees is still
occupied (R172). -/
def emptySlots (q : Queue) (cycle : Nat) : Nat := 8 - q.toks.length - q.resv.length - (q.late.filter (cycle < ·)).length

/-- Removes the head of a queue; a token that ends the wave closes it (R106, R114). -/
def dequeue (e : Elem) (q : Nat) : Elem :=
  let x := getQ e q
  match x.toks with
  | [] => e
  | t :: r => setQ e q { x with toks := r, closed := x.closed || t.eow }

/-! ## Channels -/

/-- KIND, NR and route j of a channel binding (R169). -/
def bindOf (e : Elem) (k : Nat) : BitVec 64 := tget e.binds k 0
def bindKind (b : BitVec 64) : Nat := (b.extractLsb' 62 2).toNat
def bindRoutes (b : BitVec 64) : Nat := (b.extractLsb' 60 2).toNat + 1
def bindRoute (b : BitVec 64) (j : Nat) : BitVec 14 := b.extractLsb' (14 * j) 14
def bindPort (b : BitVec 64) : Nat := (b.extractLsb' 0 5).toNat

def routeDc (x : BitVec 14) : Int := sext 4 (x.extractLsb' 10 4).toNat
def routeDr (x : BitVec 14) : Int := sext 3 (x.extractLsb' 7 3).toNat
def routeElem (x : BitVec 14) : Nat := (x.extractLsb' 3 4).toNat
def routeQueue (x : BitVec 14) : Nat := (x.extractLsb' 0 3).toNat

/-- The receiving element and queue of route j of a binding of an element's channel (R169); a route that leaves the region's grid is
refused when it is loaded (R304). -/
def bindTarget (b : BitVec 64) (key j : Nat) : Nat × Nat :=
  let x := bindRoute b j
  let c : Int := siteCol (keySite key) + routeDc x
  let r : Int := siteRow (keySite key) + routeDr x
  (ekey (keyRegion key) ((c + 5 * r).toNat % 20) (routeElem x), routeQueue x)

def routeTarget (e : Elem) (key k j : Nat) : Nat × Nat := bindTarget (bindOf e k) key j

/-- What route j of a binding reaches: a queue, a stream port, or an engine port, whose operand slots are by context. -/
def reach (b : BitVec 64) (key j ctx : Nat) : Nat × Nat × Nat :=
  if bindKind b = 1 then let t := bindTarget b key j; (1, t.1, t.2)
  else if bindKind b = 2 then (2, bindPort b % 16, 0)
  else (3, bindPort b, if bindPort b < 8 then ctx else 0)

/-- Routes of a binding; a port counts as one. -/
def allRoutes (b : BitVec 64) : List Nat := if bindKind b = 1 then upto (bindRoutes b) else if bindKind b = 0 then [] else [0]

/-- Routes of a channel that are live: those of its binding, less the detached ones (R176); a port counts as one. -/
def liveRoutes (e : Elem) (k : Nat) : List Nat :=
  let b := bindOf e k
  if bindKind b = 1 then (upto (bindRoutes b)).filter fun j => !(tget e.det k 0).getLsbD j
  else if bindKind b = 0 then [] else [0]

/-- VC and CTX of a channel's tag register (R168). -/
def otag (e : Elem) (k : Nat) : BitVec 7 := tget e.otag k 0

/-- The context of a tag (R168). -/
def tagCtx (t : BitVec 7) : Nat := (t.extractLsb' 5 2).toNat

def otagCtx (e : Elem) (k : Nat) : Nat := tagCtx (otag e k)

/-- Slots at a receiver that channel k owes: for tokens that it has sent there and are still to be delivered, and for beats of
loads that will send there (R206). -/
def owed (e : Elem) (key k : Nat) (at_ : Nat × Nat × Nat) : Nat :=
  (e.out.map fun t => if t.chan = k then (t.pend.filter fun j => reach t.bind key j t.tok.ctx == at_).length else 0).sum
    + (e.accs.map fun a => if a.dest = .chan k then ((allRoutes a.bind).filter fun j => reach a.bind key j (tagCtx a.tag) == at_).length
        else 0).sum

/-- Usable credits of a feeder among reservations (R170, R172). -/
def usableResv (l : List Resv) (w : Feeder) (cycle : Nat) : Nat :=
  (l.filter fun x => x.who == w && decide (x.usable ≤ cycle)).length

/-- The slots of the engine port with a given number and context (R235, R255). -/
def enginePort (x : Region) (port ctx : Nat) : PortSlots :=
  if port < 8 then tget (tget x.islands (port / 2) {}).ports (2 * ctx + port % 2) {}
  else
    let p := tget x.pumps ((port - 0x10) / 2) {}
    if port % 2 = 0 then p.reqPort else p.dataPort

def setEnginePort (x : Region) (port ctx : Nat) (v : PortSlots) : Region :=
  if port < 8 then
    let i := tget x.islands (port / 2) {}
    { x with islands := tset x.islands (port / 2) { i with ports := tset i.ports (2 * ctx + port % 2) v } }
  else
    let n := (port - 0x10) / 2
    let p := tget x.pumps n {}
    { x with pumps := tset x.pumps n (if port % 2 = 0 then { p with reqPort := v } else { p with dataPort := v }) }

/-- Reservations that channel k of an element holds at the receiver of route j; for an engine port, in the slots of
context ctx (R237). -/
def resvAt (s : State) (key k j ctx : Nat) : List Resv :=
  let e := getE s key
  let b := bindOf e k
  let x := getR s (keyRegion key)
  if bindKind b = 1 then let t := routeTarget e key k j; (getQ (getE s t.1) t.2).resv
  else if bindKind b = 2 then (tget x.ports (bindPort b % 16) {}).slots.resv
  else if bindKind b = 3 then (enginePort x (bindPort b) ctx).resv
  else []

/-- Credits(oK) of R170: the least number of slots held at a receiver, less what the channel owes there; two routes to one
receiver share its slots. -/
def credits (s : State) (key k ctx : Nat) : Nat :=
  let e := getE s key
  let c := (getR s (keyRegion key)).cycle
  match liveRoutes e k with
  | [] => 0
  | r => (r.map fun j =>
      let at_ := reach (bindOf e k) key j ctx
      (usableResv (resvAt s key k j ctx) (.chan key k) c - owed e key k at_)
        / (r.filter fun i => reach (bindOf e k) key i ctx == at_).length).foldl Nat.min 8

/-- Puts a token in the output stage (R109). -/
def send (e : Elem) (k : Nat) (t : Token) (cycle : Nat) (wait : Option (Scope × Nat)) : Elem :=
  { e with out := e.out ++ [⟨k, t, bindOf e k, liveRoutes e k, cycle, wait, e.recs, e.fpctl.extractLsb' 0 3⟩] }

/-- A token under a tag (R168). -/
def taggedToken (tag : BitVec 7) (v : Vec) : Token := ⟨mkSide 0 0 false (tagCtx tag) (tag.extractLsb' 0 5).toNat, v⟩

/-- The token of a result written to channel k (R168). -/
def resultToken (e : Elem) (k : Nat) (v : Vec) : Token := taggedToken (otag e k) v

/-- Puts the token of a load in the output stage, under the binding, the tag and the samples of its firing (R188, R206, R258). -/
def sendLoad (e : Elem) (k : Nat) (a : Access) (v : Vec) (cycle : Nat) : Elem :=
  { e with out := e.out ++ [⟨k, taggedToken a.tag v, a.bind, if a.bind = bindOf e k then liveRoutes e k else allRoutes a.bind,
      cycle, none, a.recs, a.sample⟩] }

/-! ## Element traps -/

/-- The words of an element trap record (R442). -/
def trapRecord (e : Elem) (key : Nat) (origin : Nat) (cause : BitVec 8) (code beat slot : Nat) (word : BitVec 64)
    (addr : Nat) (ops : List Vec) : BitVec 1024 :=
  let qsb := (upto 6).foldl (fun a j => a + (match headTok e j with | some t => t.side.toNat | none => 0) * 2 ^ (16 * j)) 0
  BitVec.ofNat 1024 (keyElem key * 2 ^ 2 + keySite key * 2 ^ 6 + slot * 2 ^ 11 + beat * 2 ^ 15 + code * 2 ^ 21
    + cause.toNat * 2 ^ 32 + origin * 2 ^ 40 + word.toNat * 2 ^ 416 + addr * 2 ^ 480
    + packLanes 128 (ops.map (·.toNat)) * 2 ^ 544 + qsb * 2 ^ 928)

/-- An element takes a trap: it writes the record, which it holds until the region's queue takes it, and enters
Trapped (R107, R441); an element that is Trapped takes no other (log 23). -/
def elemTrap (s : State) (key : Nat) (origin : Nat) (cause : BitVec 8) (code beat slot : Nat) (word : BitVec 64)
    (addr : Nat) (ops : List Vec) : State :=
  let c := (getR s (keyRegion key)).cycle
  modE s key fun e => if e.st = .trapped then e else { e with
    st := .trapped, trapAt := c, trapRec := some (trapRecord e key origin cause code beat slot word addr ops) }

/-! ## Sequencer traps -/

/-- TCAUSE (R437). -/
def mkTcause (src : Nat) (async : Bool) (cause : BitVec 8) : BitVec 64 :=
  BitVec.ofNat 64 (src * 2 ^ 16 + (if async then 2 ^ 8 else 0) + cause.toNat)

/-- What an instruction that waits has begun is abandoned or done with (R282). -/
def dropWait (q : Seq) : Seq :=
  { q with waitStart := none, waite := none, asked := false, bar := {}, lines := [], qputWait := none, inUse := none, nextReq := q.nextReq + 1 }

/-- TakeTrap of R438: the return address, cause, value and mode are saved, and supervisor mode is entered at TVEC. -/
def takeTrap (s : State) (r : Nat) (cause : BitVec 8) (src : Nat) (async : Bool) (val : BitVec 64) : State :=
  modSeq s r fun q => { dropWait q with
    tpc := q.pc, tcause := mkTcause src async cause, tval := val, pmode := q.sup, sup := true, pc := q.tvec }

/-- A synchronous trap of the instruction that the sequencer executes. -/
def seqTrap (s : State) (r : Nat) (cause : BitVec 8) (val : BitVec 64) : State := takeTrap s r cause 0 false val

/-- The return from a trap (R440). -/
def returnTrap (s : State) (r : Nat) : State := modSeq s r fun q => { q with pc := q.tpc, sup := q.pmode }

/-- An asynchronous trap becomes pending; while EXIT waits, the first cause other than a resume notice is recorded and
the trap is not taken (R436). -/
def raiseAsync (s : State) (r cls : Nat) (cause : BitVec 8) (src : Nat) (val : BitVec 64) : State :=
  modSeq s r fun q =>
    if q.exiting && cls != 0 then { q with exitCause := some (q.exitCause.getD cause) }
    else { q with pending := q.pending ++ [⟨cls, cause, src, val⟩] }

/-! ## Sequencer registers -/

/-- s0 reads as zero (R81). -/
def getS (q : Seq) (n : BitVec 5) : BitVec 64 := if n = 0 then 0 else tget q.regs n.toNat 0

/-- Writes to s0 are discarded (R81). -/
def setS (q : Seq) (n : BitVec 5) (v : BitVec 64) : Seq :=
  if n = 0 then q else { q with regs := tset q.regs n.toNat v }

/-- The mask of the addresses that PC and TPC hold: bits [56:2] (R281, R437). -/
def pcMask : BitVec 64 := 0x01FFFFFFFFFFFFFC

/-- PC moves to an address; its bits [1:0] and [63:57] stay 0. -/
def setPc (q : Seq) (v : BitVec 64) : Seq := { dropWait q with pc := v &&& pcMask }

/-- PC moves past the instruction. -/
def nextPc (q : Seq) : Seq := setPc q (q.pc + 4)

end Sys2Proof.Machine
end

