-- ==== Sys2Proof/Machine/Flags.lean ====
section
/-!
DEFINITION. Machine/Flags.lean: predicates and the predicate update (R65, R110), the sticky flags of FPST (R50, R56), the
rounding that DIAG replaces (R57) and the carries of R143.
-/
namespace Sys2Proof.Machine

/-! ## Predicates -/

/-- Predicate j. -/
def getP (e : Elem) (j : Nat) : Bool := e.preds.getLsbD j

/-- Writes predicate j. -/
def setP (e : Elem) (j : Nat) (v : Bool) : Elem :=
  { e with preds := (e.preds &&& ~~~ BitVec.ofNat 8 (2 ^ j)) ||| (if v then BitVec.ofNat 8 (2 ^ j) else 0) }

/-- The predicate test of a guard (R65). -/
def predTest (e : Elem) (ph : BitVec 1) (mask val : BitVec 4) : Bool :=
  let h := e.preds.extractLsb' (4 * ph.toNat) 4
  (h ^^^ val) &&& mask == 0

/-- A lane of a result is zero: all its bits are 0, or in a floating-point lane it is +0 or −0 (R110). -/
def laneZero (fp : Bool) (w x : Nat) : Bool := if fp then x % 2 ^ (w - 1) == 0 else x % 2 ^ w == 0

/-- Every lane of a result is zero. -/
def allZero (fp : Bool) (w : Nat) (v : Vec) : Bool := (lanes w v).all (laneZero fp w)

/-- The new value of the predicate that a mode names (R110). -/
def predValue (m : PredMode) (old zero sign carry any : Bool) : Bool :=
  match m with
  | .clear => false
  | .set => true
  | .zero => zero
  | .sign => sign
  | .carry => carry
  | .toggle => !old
  | .any => any

/-- The predicate update (R110): `res` is the final beat's result, of lanes of w bits. -/
def predUpdate (e : Elem) (ps : Option (PredMode × Fin 8)) (fp : Bool) (w : Nat) (res : Vec) (carry any : Bool) : Elem :=
  match ps with
  | none => e
  | some (m, p) =>
    setP e p.val (predValue m (getP e p.val) (allZero fp w res) ((laneOf w res.toNat 0).testBit (w - 1)) carry any)

/-! ## Sticky flags -/

/-- Sets flags in an element's FPST (R50, R56). -/
def setFlags (e : Elem) (f : Flags) : Elem := { e with fpst := e.fpst ||| f.zeroExtend 32 }

/-- The flags set in cycle c after some more are: what a write of that cycle does not clear (R56). -/
def newFlags {n : Nat} (old : Nat × BitVec n) (c : Nat) (f : BitVec n) : Nat × BitVec n :=
  (c, f ||| if old.1 = c then old.2 else 0)

/-- What a write that clears `w` in cycle c leaves of sticky flags (R56). -/
def clearFlags {n : Nat} (flags : BitVec n) (new : Nat × BitVec n) (c : Nat) (w : BitVec n) : BitVec n :=
  flags &&& ~~~ (if new.1 = c then w &&& ~~~ new.2 else w)

/-- The rounding mode after DIAG (R57): `sample` is FPCTL[2:0]. -/
def rmOf (sample : BitVec 3) (rm : Nat) : Nat := if sample.getLsbD 2 then (sample.extractLsb' 0 2).toNat else rm

/-! ## Carries (R143), on lane 0 of width w -/

def carryAdd (w a b : Nat) : Bool := decide (2 ^ w ≤ a % 2 ^ w + b % 2 ^ w)
def carrySub (w a b : Nat) : Bool := decide (a % 2 ^ w < b % 2 ^ w)
def carrySatS (w : Nat) (v : Int) : Bool := satS w v != v
def carrySatU (w : Nat) (v : Int) : Bool := satU w v != v
def carryShl (w a s : Nat) : Bool := s != 0 && a.testBit (w - s)
def carryShr (a s : Nat) : Bool := s != 0 && a.testBit (s - 1)

end Sys2Proof.Machine
end

