-- ==== Sys2Proof/Machine/Operands.lean ====
section
/-!
DEFINITION. Machine/Operands.lean: the operand forms of the element (R67, R106) with the virtual-channel decode of R175, the
conditions of R102, and firing (R106, R107).
-/
namespace Sys2Proof.Machine

/-! ## Virtual-channel decode -/

/-- FMT and SREG of an element's entry for a virtual channel (R174). -/
def vcFmt (e : Elem) (vc : Nat) : Nat := ((tget e.fmts vc 0).extractLsb' 9 5).toNat
def vcReg (e : Elem) (vc : Nat) : Nat := ((tget e.fmts vc 0).extractLsb' 5 4).toNat

/-- A format whose payloads are decoded when they are read. -/
def decodesFmt (f : Nat) : Bool := decide (0x0D ≤ f ∧ f ≤ 0x12)

/-- Bits of one element code of a decoded payload (R175). -/
def blockCodeWidth (f : Nat) : Nat := if f = 0x0F ∨ f = 0x10 then 6 else if f = 0x11 then 4 else 8

/-- One element code of a block-scaled format, to a target format (R44, R46). -/
def blockDequant (fmt x scale : Nat) (dst : NumFmt) (rm : Nat) : Nat × Flags :=
  match blockFmt fmt with
  | some f => mxDequant x f scale dst rm
  | none => ps8Dequant x scale dst rm

/-- The operand that a queue entry gives, with the flags of its decode (R175). -/
def tokenOperand (e : Elem) (sample : BitVec 3) (t : Token) : Vec × Flags :=
  let f := vcFmt e t.vc
  if decodesFmt f then
    let s := (tget e.f (vcReg e t.vc) 0).toNat % 256
    let w := blockCodeWidth f
    let r := (upto 8).map fun j => blockDequant f (laneOf w t.pay.toNat j) s .bf16 (rmOf sample 0)
    (vecOf 16 (r.map (·.1)), r.foldl (fun a x => a ||| x.2) 0)
  else (t.pay, 0)

/-! ## Operands -/

/-- The queue entry that beat k of an instruction reads (R106). -/
def queueEntry (e : Elem) (q k : Nat) (dq : Bool) : Option Token := (getQ e q).toks[if dq then 0 else k]?

/-- Operand of R106: the value of an operand code at beat k, and the flags of its decode. -/
def readOpnd (e : Elem) (sample : BitVec 3) (k : Nat) (dq : Bool) : Opnd → Vec × Flags
  | .f n => (tget e.f n.val 0, 0)
  | .m n => (tget e.m n.val 0, 0)
  | .la => (e.la, 0)
  | .lb => (e.lb, 0)
  | .q j => match queueEntry e j.val k dq with
    | some t => tokenOperand e sample t
    | none => (0, 0)

/-- The operand that a field gives to a beat: what it reads, and the register that D holds before it is written. -/
def readField (e : Elem) (sample : BitVec 3) (k : Nat) (dq : Bool) : FieldUse → Vec × Flags
  | .src o | .srcMain o | .data o | .queue o => readOpnd e sample k dq o
  | .dst (.f n) | .reg (.f n) | .regRW (.f n) | .loadDst (.f n) => (tget e.f n.val 0, 0)
  | _ => (0, 0)

/-- Invalidates the L1: a miss in flight does not allocate its line (R208). -/
def invalL1 (e : Elem) : Elem := { e with l1 := [], accs := e.accs.map fun a => { a with noAlloc := true } }

/-- The acquire that reading a token makes (R346, R347). -/
def acquireTok (e : Elem) (t : Token) : Elem := if t.kind = 1 ∧ 1 ≤ t.scope then invalL1 e else e

/-- The queue whose tokens a field reads or removes as an operand, with the acquire of R346; RELAY's is not one. -/
def acquireField (e : Elem) (k : Nat) (dq : Bool) : FieldUse → Elem
  | .src (.q j) | .srcMain (.q j) | .data (.q j) | .queue (.q j) | .dropQueue (.q j) =>
    match queueEntry e j.val k dq with
    | some t => acquireTok e t
    | none => e
  | _ => e

/-- The acquires of one beat. -/
def acquireOps (e : Elem) (f : Form) (k : Nat) : Elem :=
  let g := fun e u => acquireField e k f.hdr.dq u
  g (g (g (g e f.d) f.a) f.b) f.c

/-- The operands of one beat. -/
structure BeatOps where
  d : Vec
  a : Vec
  b : Vec
  c : Vec
  deriving DecidableEq, Repr, Inhabited

/-- Reads the operands of beat k; a decode sets its flags (R175). -/
def readOps (e : Elem) (sample : BitVec 3) (f : Form) (k : Nat) : BeatOps × Flags :=
  let r := readField e sample k f.hdr.dq
  (⟨(r f.d).1, (r f.a).1, (r f.b).1, (r f.c).1⟩, (r f.d).2 ||| (r f.a).2 ||| (r f.b).2 ||| (r f.c).2)

/-! ## Readiness -/

/-- Operand codes that carry a load-pending bit (R111): f0 to f15 at 0 to 15, m0 to m31 at 32 to 63. -/
def pendBit : Opnd → Option Nat
  | .f n => some n.val
  | .m n => some (32 + n.val)
  | _ => none

/-- An operand field names a pending register (R111). -/
def fieldPending (e : Elem) (u : FieldUse) : Bool :=
  match u.opnd with
  | some o => match pendBit o with | some j => e.pend.getLsbD j | none => false
  | none => false

def setPend (e : Elem) (j : Nat) : Elem := { e with pend := e.pend ||| BitVec.ofNat 64 (2 ^ j) }
def clearPend (e : Elem) (j : Nat) : Elem := { e with pend := e.pend &&& ~~~ BitVec.ofNat 64 (2 ^ j) }

/-- The head of the queue carries the tag and is of the current wave (R103). -/
def tagOk (e : Elem) : Option (Fin 6 × BitVec 5) → Bool
  | none => true
  | some (q, tag) =>
    avail e q.val != 0 && (match headTok e q.val with | some t => t.vc == tag.toNat | none => false)

/-- DecodeScalePending of R102. -/
def scalePending (e : Elem) (q n : Nat) : Bool :=
  ((getQ e q).toks.take n).any fun t => decodesFmt (vcFmt e t.vc) && e.pend.getLsbD (vcReg e t.vc)

/-- The element is Running, its datapath is free and its region is not stopped (R101, R447). -/
def canPick (s : State) (key : Nat) : Bool :=
  let e := getE s key
  let x := getR s (keyRegion key)
  e.st == .running && decide (e.busy ≤ x.cycle) && acting x

/-- Ready of R102 but for UnitReady; `ctx` is the context of the tokens that it sends. -/
def ready (s : State) (key : Nat) (f : Form) (ctx : Nat) : Bool :=
  let e := getE s key
  let n := f.hdr.beats.count
  canPick s key && predTest e f.hdr.ph f.hdr.mask f.hdr.val && tagOk e f.hdr.tagTest
    && f.queues.all (fun q => decide (n ≤ avail e q.val) && !scalePending e q.val n)
    && (match f.chan with | some k => decide (n ≤ credits s key k.val ctx) | none => true)
    && !(fieldPending e f.d || fieldPending e f.a || fieldPending e f.b || fieldPending e f.c)
    && decide (n * f.hdr.pwr.cost ≤ e.pow)

/-! ## Firing -/

/-- What an instruction knows of its surroundings while it executes. -/
structure Ctx where
  key : Nat
  slot : Nat
  word : BitVec 64
  form : Form
  /-- the firing cycle and the cycles per beat (R104) -/
  cycle : Nat
  cpb : Nat
  /-- FPCTL[2:0] at firing (R58) -/
  sample : BitVec 3
  region : Region
  deriving DecidableEq, Repr, Inhabited

/-- The last cycle of beat k (R106). -/
def Ctx.beatEnd (x : Ctx) (k : Nat) : Nat := x.cycle + (k + 1) * x.cpb - 1

/-- A trap of a beat: cause, CODE and faulting address (R442). -/
structure BeatTrap where
  cause : BitVec 8
  code : Nat
  addr : Nat
  deriving DecidableEq, Repr, Inhabited

/-- What Execute gives for one beat: the element with the instruction's own effects, the result, the flags, what the
instruction holds for its later beats, and its trap. -/
structure BeatRes where
  elem : Elem
  res : Vec
  flags : Flags
  held : List Vec
  trap : Option BeatTrap
  deriving DecidableEq, Repr, Inhabited

/-- Execute of one beat. -/
abbrev Exe := Ctx → Elem → Nat → BeatOps → List Vec → BeatRes

/-- WriteDest of R106. -/
def writeDest (x : Ctx) (e : Elem) (k : Nat) (v : Vec) : FieldUse → Elem
  | .dst (.f n) | .dstMain (.f n) => { e with f := tset e.f n.val v }
  | .dstMain (.m n) => { e with m := tset e.m n.val v }
  | .dst (.q j) | .dstMain (.q j) => send e j.val (resultToken e j.val v) (x.beatEnd k) none
  | _ => e

/-- A slot that beat k frees counts as empty from that beat's cycle on (R172). -/
def freeLate (e : Elem) (q now c : Nat) : Elem :=
  if c = now then e else let x := getQ e q; setQ e q { x with late := c :: x.late.filter (now < ·) }

/-- Removes one head of each distinct queue that the fields read (R106), in cycle c of a firing of cycle `now`. -/
def dequeueAll (e : Elem) (now c : Nat) (qs : List (Fin 6)) : Elem :=
  qs.eraseDups.foldl (fun e q => freeLate (dequeue e q.val) q.val now c) e

/-- The progress of a firing: the element, the operands and result of the last beat, AnyLaneNonZero, what is held, the
beats done, and the trap. -/
structure Firing where
  elem : Elem
  ops : BeatOps
  res : Vec
  any : Bool
  held : List Vec
  done : Nat
  trap : Option BeatTrap
  deriving DecidableEq, Repr, Inhabited

/-- One beat of R106; nothing after a trap (R107). A beat that traps after it has read a KIND 1 token keeps the invalidation of
that token's acquire, which R107 leaves open (DESIGN CHOICE, log 27). -/
def beat (x : Ctx) (exe : Exe) (rw : Nat) (y : Firing) : Firing :=
  match y.trap with
  | some _ => y
  | none =>
    let k := y.done
    let (ops, fl) := readOps y.elem x.sample x.form k
    let r := exe x (acquireOps y.elem x.form k) k ops y.held
    match r.trap with
    | some t => { y with elem := r.elem, ops := ops, trap := some t }
    | none =>
      let e := setFlags r.elem (fl ||| r.flags)
      let e := if x.form.result then
          let w := writeDest x e k r.res x.form.d
          { w with lb := w.la, la := r.res }
        else e
      let e := if x.form.hdr.dq then dequeueAll e x.cycle (x.cycle + k * x.cpb) x.form.queues else e
      { elem := e, ops := ops, res := r.res, any := y.any || !allZero x.form.fpLanes rw r.res, held := r.held,
        done := k + 1, trap := none }

/-- n beats in order. -/
def beats (x : Ctx) (exe : Exe) (rw : Nat) : Nat → Firing → Firing
  | 0, y => y
  | n + 1, y => beats x exe rw n (beat x exe rw y)

/-- The context of a firing of the unit in focus. -/
def fireCtx (s : State) (f : Form) (cpb : Nat) : Ctx :=
  let key := focusKey s
  let e := getE s key
  let r := getR s s.focus.region
  { key := key, slot := s.focus.slot, word := tget e.slots s.focus.slot 0, form := f, cycle := r.cycle, cpb := cpb,
    sample := e.fpctl.extractLsb' 0 3, region := r }

/-- The beats of a firing, from the element that has paid (R106, R112). -/
def runBeats (s : State) (x : Ctx) (exe : Exe) (rw : Nat) : Firing :=
  let e := getE s x.key
  let n := x.form.hdr.beats.count
  beats x exe rw n ⟨{ e with pow := e.pow - n * x.form.hdr.pwr.cost }, default, 0, false, [], 0, none⟩

/-- The state after the beats: the predicate update and the occupied datapath, or the trap of R107,
whose record arrives when the trapping beat has run (R441). -/
def finish (s : State) (x : Ctx) (rw : Nat) (carry : BeatOps → Bool) (y : Firing) : State :=
  let s := modR s (keyRegion x.key) fun r => { r with firedAt := some x.cycle }
  match y.trap with
  | some t =>
    let s := setE s x.key { y.elem with busy := x.cycle + (y.done + 1) * x.cpb }
    modE (elemTrap s x.key 0 t.cause t.code y.done x.slot x.word t.addr [y.ops.a, y.ops.b, y.ops.c]) x.key
      fun e => { e with trapAt := x.cycle + y.done * x.cpb }
  | none =>
    let e := predUpdate y.elem x.form.hdr.ps x.form.fpLanes rw y.res (carry y.ops) y.any
    setE s x.key { e with busy := x.cycle + y.done * x.cpb }

/-- Firing an instruction whose row of the encoding tables is f: nothing where it is not ready (R102, log 6). -/
def fireForm (f : Form) (cpb rw : Nat) (unit : Bool) (ctx : Nat) (carry : BeatOps → Bool) (exe : Exe)
    (after : Firing → State → State) (s : State) : State :=
  if ready s (focusKey s) f ctx && unit then
    let x := fireCtx s f cpb
    let y := runBeats s x exe rw
    let t := finish s x rw carry y
    if y.trap.isNone then after y t else t
  else s

/-- The context of the tokens that D's channel sends as results (R168). -/
def resultCtx (s : State) (f : Form) : Nat :=
  match f.chan with | some k => otagCtx (getE s (focusKey s)) k.val | none => 0

/-- Fires an instruction that needs nothing beyond R102. -/
def fire (i : Instr) (cpb rw : Nat) (carry : BeatOps → Bool) (exe : Exe) (s : State) :
    Host.Outcome State Fault Refusal :=
  match i.form with
  | none => .next s
  | some f => .next (fireForm f cpb rw true (resultCtx s f) carry exe (fun _ t => t) s)

/-- Fires an instruction with a further condition and an effect beyond the element. -/
def fireWith (i : Instr) (unit : Bool) (ctx : Nat) (exe : Exe) (after : Firing → State → State) (s : State) :
    Host.Outcome State Fault Refusal :=
  match i.form with
  | none => .next s
  | some f => .next (fireForm f 1 f.hdr.ty.width unit ctx (fun _ => false) exe after s)

/-- No carry is defined. -/
def noCarry : BeatOps → Bool := fun _ => false

/-- Execute of an instruction that computes a result from its operands. -/
def pureExe (g : BeatOps → Vec) : Exe := fun _ e _ o _ => ⟨e, g o, 0, [], none⟩

/-- Execute of an instruction that computes a result and flags. -/
def flagExe (g : BeatOps → Vec × Flags) : Exe := fun _ e _ o _ => ⟨e, (g o).1, (g o).2, [], none⟩

/-- Execute of an instruction without a result that changes the element. -/
def elemExe (g : Ctx → Elem → Nat → BeatOps → Elem) : Exe := fun x e k o _ => ⟨g x e k o, 0, 0, [], none⟩

/-- Execute of an instruction that only traps. -/
def trapExe (cause : BitVec 8) (code : Nat) : Exe := fun _ e _ _ _ => ⟨e, 0, 0, [], some ⟨cause, code, 0⟩⟩

/-- Fires an integer or lane instruction: its lanes are bits (R110). -/
def fireInt (i : Instr) (rw : Nat) (g : BeatOps → Vec) (s : State) : Host.Outcome State Fault Refusal :=
  fire i 1 rw noCarry (pureExe g) s

/-- Fires an integer instruction that defines a carry (R143). -/
def fireCarry (i : Instr) (rw : Nat) (g : BeatOps → Vec) (c : BeatOps → Bool) (s : State) :
    Host.Outcome State Fault Refusal :=
  fire i 1 rw c (pureExe g) s

end Sys2Proof.Machine
end

