-- ==== Sys2Proof/Machine/ElemControl.lean ====
section
/-!
DEFINITION. Machine/ElemControl.lean: NOP, MOV, MOVI, MOVHI, SEL, PSET, HALT, FEVT, CTL, TRAP and BKPT (R126 to R136), and the
firing of a faulty slot (R77).
-/
namespace Sys2Proof.Machine

/-- NOP (R127). -/
def execNop (h : Hdr) (s : State) : Host.Outcome State Fault Refusal :=
  fire (.nop h) 1 h.ty.width noCarry (pureExe fun _ => 0) s

/-- MOV (R128). -/
def execMov (h : Hdr) (d a : Opnd) (s : State) : Host.Outcome State Fault Refusal :=
  fireInt (.mov h d a) h.ty.width (fun o => o.a) s

/-- MOVI (R129). -/
def execMovi (h : Hdr) (d : Opnd) (imm : BitVec 12) (s : State) : Host.Outcome State Fault Refusal :=
  fireInt (.movi h d imm) h.ty.width
    (fun _ => vecOf h.ty.width (List.replicate h.ty.lanes (wrap h.ty.width imm.toInt))) s

/-- MOVHI (R130). -/
def execMovhi (h : Hdr) (d a : Opnd) (imm : BitVec 12) (s : State) : Host.Outcome State Fault Refusal :=
  fireInt (.movhi h d a imm) h.ty.width
    (fun o => lanes1 h.ty.width (fun x => x * 2 ^ 12 + imm.toNat) o.a) s

/-- SEL (R131). -/
def execSel (h : Hdr) (d a b c : Opnd) (s : State) : Host.Outcome State Fault Refusal :=
  fireInt (.sel h d a b c) h.ty.width
    (fun o => lanes3 h.ty.width (fun x y z => if z != 0 then x else y) o.a o.b o.c) s

/-- The predicates after PSET reads the word w (R132). -/
def psetValue (p : BitVec 8) (w : Nat) : BitVec 8 :=
  let v := BitVec.ofNat 8 w
  let m := BitVec.ofNat 8 (w / 256)
  (p &&& ~~~ m) ||| (v &&& m)

/-- PSET (R132). -/
def execPset (h : Hdr) (a : Opnd) (s : State) : Host.Outcome State Fault Refusal :=
  fire (.pset h a) 1 h.ty.width noCarry
    (elemExe fun _ e _ o => { e with preds := psetValue e.preds (laneOf 32 o.a.toNat 0) }) s

/-- HALT (R133). -/
def execHalt (h : Hdr) (s : State) : Host.Outcome State Fault Refusal :=
  fire (.halt h) 1 h.ty.width noCarry (elemExe fun _ e _ _ => { e with st := .halted }) s

/-- An event-queue entry (R293). -/
def eventEntry (key : Nat) (wave : BitVec 8) (v : Nat) : BitVec 64 :=
  BitVec.ofNat 64 (v % 2 ^ 32 * 2 ^ 32 + wave.toNat * 2 ^ 24 + keySite key * 2 ^ 16 + keyElem key * 2 ^ 12 + 1)

/-- An entry enters the event queue in a cycle: behind every entry of earlier cycles, and among those of the same cycle by
16 × SITE + ELEM (R134). -/
def pushEvent (q : Seq) (cycle : Nat) (v : BitVec 64) : Seq :=
  let n := if q.evNew.1 = cycle then Nat.min q.evNew.2 q.events.length else 0
  let old := q.events.take (q.events.length - n)
  let new := q.events.drop (q.events.length - n)
  let no := fun (w : BitVec 64) => (w.extractLsb' 12 9).toNat
  { q with events := old ++ new.filter (no · ≤ no v) ++ [v] ++ new.filter (no v < no ·), evNew := (cycle, n + 1)
           evFirst := if q.events = [] then cycle else q.evFirst }

/-- FEVT (R134): it needs a free entry of the event queue. -/
def execFevt (h : Hdr) (a : Opnd) (s : State) : Host.Outcome State Fault Refusal :=
  let r := s.focus.region
  fireWith (.fevt h a) (decide ((getSeq s r).events.length < 64)) 0 (elemExe fun _ e _ _ => e)
    (fun y t => modSeq t r fun q =>
      pushEvent q (getR s r).cycle (eventEntry (focusKey s) y.elem.wave (laneOf 32 y.ops.a.toNat 0))) s

/-! ## CTL -/

/-- State codes of R119. -/
def elemStateCode : ElemState → Nat
  | .idle => 0 | .running => 1 | .draining => 2 | .reconfiguring => 3 | .halted => 4 | .trapped => 5 | .frozen => 6

/-- ESTAT (R125). QCLOSED shows what R114 calls closed, an unbound queue among them; so it reads 0x3F at reset, where the
map's Reset column has 0 (DESIGN CHOICE, log 27). -/
def estat (e : Elem) : Nat :=
  (upto 6).foldl (fun a j => if (getQ e j).shut then a + 2 ^ (16 + j) else a) 0
    + e.wave.toNat * 2 ^ 8 + elemStateCode e.st

/-- EID (R125). -/
def eid (key : Nat) : Nat := keyRegion key * 2 ^ 16 + keySite key * 2 ^ 8 + keyElem key

/-- QSTAT, CRSTAT, XSTAT (R194). CRSTAT of a channel that is bound to an operand port, whose slots are held by context (R237),
counts those of the context in its OTAG (DESIGN CHOICE, log 27). -/
def qstat (e : Elem) : Nat := packLanes 4 ((upto 6).map fun j => (getQ e j).toks.length)
def crstat (s : State) (key : Nat) : Nat :=
  packLanes 4 ((upto 6).map fun j => credits s key j (otagCtx (getE s key) j))
def xstat (e : Elem) : Nat :=
  e.inbox.foldl (fun a p => a + 2 ^ p.1) 0 + e.binbox.foldl (fun a p => a + 2 ^ (16 + p.1)) 0

/-- SEALST (R226). -/
def sealst (e : Elem) : Nat :=
  (upto 8).foldl (fun a n =>
    let x := tget e.seals n {}
    a + (if x.sealed then 2 ^ n else 0) + (if x.count = 0 then 0 else 2 ^ (8 + n))) 0

/-- The access takes a pending-load entry, a store-buffer entry (R204). -/
def takesLoad : AccKind → Bool
  | .ld | .ldf _ | .ldg | .ldr | .atom .. => true
  | _ => false
def takesStore : AccKind → Bool
  | .st | .stf | .sts | .feset _ | .arrive | .atom .. | .tsync => true
  | _ => false

/-- The access is not performed: a beat whose lanes are all skipped is performed as it fires (R202, R204). -/
def Access.live (a : Access) : Bool := a.lanes.isEmpty || a.lanes.any fun l => !l.skip

def loadsUsed (e : Elem) : Nat := (e.accs.filter fun a => a.live && takesLoad a.kind).length
def storesUsed (e : Elem) : Nat := (e.accs.filter fun a => a.live && takesStore a.kind).length

/-- The access is of chain n, as a chain write where `w`; TSYNC is a chain write on every chain (R396). -/
def Access.onChain (a : Access) (n : Nat) (w : Bool) : Bool :=
  a.kind == .tsync || (match a.chain with | some (m, v) => m == n && (v || !w) | none => false)

/-- An access of chain n is outstanding; a chain write of it is (R205). -/
def chainBusy (e : Elem) (n : Nat) : Bool := e.accs.any fun a => a.live && a.onChain n false
def chainWriteBusy (e : Elem) (n : Nat) : Bool := e.accs.any fun a => a.live && a.onChain n true

/-- MEMST (R226). -/
def memst (e : Elem) : Nat :=
  loadsUsed e * 2 ^ 16 + storesUsed e * 2 ^ 8
    + (upto 4).foldl (fun a n => a + (if chainWriteBusy e n then 2 ^ (4 + n) else 0)
      + (if chainBusy e n then 2 ^ n else 0)) 0

/-- The value that CTL reads of register n in an element that has paid for the CTL (R125, R194, R226). -/
def ctlValue (s : State) (x : Ctx) (e : Elem) (n : Nat) : Nat :=
  if n = 0 then e.fpctl.toNat
  else if n = 1 then e.fpst.toNat
  else if n = 2 then estat e
  else if n = 3 then eid x.key
  else if n = 4 then e.preds.toNat
  else if n = 5 then e.pow
  else if n = 6 then x.cycle % 2 ^ 32
  else if n = 7 then e.cychi.toNat
  else if n = 8 then qstat e
  else if n = 9 then crstat s x.key
  else if n = 10 then xstat e
  else if n = 11 then e.spcfg.toNat
  else if n = 12 then l1szOf x.region
  else if n = 13 then sealst e
  else if n = 14 then memst e
  else 0

/-- A TRED of the element is unfinished. -/
def Elem.inTred (e : Elem) : Bool := e.xops.any fun x => match x.kind with | .tred .. => true | _ => false

/-- CTL, the form that reads (R135). A read of CYCLO latches CYCHI (R125). A read of FPST returns the flags of every instruction
that fired before (R56); it is not ready while those of a TRED are still to come (DEDUCED, log 27). -/
def execCtlRead (h : Hdr) (d : Opnd) (n : BitVec 5) (s : State) : Host.Outcome State Fault Refusal :=
  match (Instr.ctlRead h d n).form with
  | none => .next s
  | some f => .next (fireForm f 1 h.ty.width (n.toNat != 1 || !(getE s (focusKey s)).inTred) (resultCtx s f) noCarry (fun x e _ _ _ =>
    let e' := if n.toNat = 6 then { e with cychi := BitVec.ofNat 32 (x.cycle / 2 ^ 32) } else e
    ⟨e', BitVec.ofNat 128 (ctlValue s x e n.toNat), 0, [], none⟩) (fun _ t => t) s)

/-- A write of FPCTL or FPST under its access codes (R54, R55). -/
def ctlWriteElem (e : Elem) (n : Nat) (v : BitVec 32) : Elem :=
  if n = 0 then { e with fpctl := v &&& 7 }
  else if n = 1 then { e with fpst := e.fpst &&& ~~~ (v &&& 31) }
  else e

/-- CTL, the form that writes (R135). -/
def execCtlWrite (h : Hdr) (a : Opnd) (n : BitVec 5) (s : State) : Host.Outcome State Fault Refusal :=
  fire (.ctlWrite h a n) 1 h.ty.width noCarry
    (elemExe fun _ e _ o => ctlWriteElem e n.toNat (BitVec.ofNat 32 (laneOf 32 o.a.toNat 0))) s

/-- TRAP (R136): it pays, then traps with cause 0x10 and CODE n. -/
def execTrap (h : Hdr) (n : BitVec 11) (s : State) : Host.Outcome State Fault Refusal :=
  fire (.trap h n) 1 h.ty.width noCarry (trapExe 0x10 n.toNat) s

/-- BKPT (R136): cause 0x11. -/
def execBkpt (h : Hdr) (n : BitVec 11) (s : State) : Host.Outcome State Fault Refusal :=
  fire (.bkpt h n) 1 h.ty.width noCarry (trapExe 0x11 n.toNat) s

/-! ## Faulty slots -/

/-- The predicate test of a slot word, legal or not (R65). -/
def wordPredTest (e : Elem) (w : BitVec 64) : Bool :=
  predTest e (w.extractLsb' 62 1) (w.extractLsb' 58 4) (w.extractLsb' 54 4)

/-- The opcode or a field of a slot word with V = 1 is reserved: the slot is marked faulty (R77, R123). -/
def faultyWord (w : BitVec 64) : Bool := w.getLsbD 63 && (legalElem w).isNone

/-- A faulty slot fires on its predicate test alone and traps before any effect (R77). -/
def execFaultySlotFire (cause : BitVec 8) (s : State) : Host.Outcome State Fault Refusal :=
  let key := focusKey s
  let e := getE s key
  let w := tget e.slots s.focus.slot 0
  if canPick s key && e.faulty.getLsbD s.focus.slot && wordPredTest e w then
    .next (elemTrap s key 0 cause 0 0 s.focus.slot w 0 [])
  else .next s

end Sys2Proof.Machine
end

