-- ==== Sys2Proof/Machine/Coherence.lean ====
section
/-!
DEFINITION. Machine/Coherence.lean: physical addresses (R380, R383), homes, the directory and cisterns (R360 to R378),
write-combining buffers and publication (R341, R351, R370), and the reads, writes and atomics that agents make of a line.
-/
namespace Sys2Proof.Machine

/-! ## Physical addresses (R380) -/

inductive PaClass where
  | gddr | window (die : Nat) | registers | reserved | peer (dev : Nat)
  deriving DecidableEq, Repr, Inhabited

def paLocal (pa : Nat) : Nat := pa % 2 ^ 47
def paDevice (pa : Nat) : Nat := pa / 2 ^ 47 % 32

/-- What the map of R380 holds at a physical address; another device's cistern window is not reachable. -/
def paClass (s : State) (pa : Nat) : PaClass :=
  let a := paLocal pa
  let dev := paDevice pa
  let win := decide (0x400000000000 ≤ a ∧ a < 0x400010000000)
  if dev != s.devid then
    if a < 0x5A00000000 || decide (0x600000000000 ≤ a ∧ a < 0x600100000000) then .peer dev else .reserved
  else if a < 0x5A00000000 then .gddr
  else if win then .window ((a - 0x400000000000) / 0x04000000)
  else if 0x600000000000 ≤ a ∧ a < 0x600100000000 then .registers
  else .reserved

/-- The line of a physical address, by its local address. -/
def lineNo (pa : Nat) : Nat := paLocal pa / 64

/-- The number of a line in cisterns, buffers and requests: lines of other devices have numbers of their own (R373). -/
def lineKey (s : State) (pa : Nat) : Nat := if paDevice pa = s.devid then lineNo pa else 2 ^ 46 + pa / 64

/-- The line's home is on a link peer: its requests wait for the answers of that peer. -/
def peerLine (ln : Nat) : Bool := decide (2 ^ 46 ≤ ln)

/-- Device of a line of a link peer. -/
def lineDev (ln : Nat) : Nat := (ln - 2 ^ 46) / 2 ^ 41 % 32

/-- Home well and channel of R383 under a placement descriptor. -/
def homeOf (pa : Nat) (d : BitVec 64) : Nat × Nat :=
  let wells := (d.extractLsb' 6 8).toNat
  let chan := (d.extractLsb' 14 4).toNat
  let st := paLocal pa / (256 * 2 ^ (d.extractLsb' 20 4).toNat)
  let k := if d.extractLsb' 28 2 == 1 then 1 else popCount wells 8
  let w := if d.extractLsb' 28 2 == 1 then nthSetBit wells 8 0 else nthSetBit wells 8 (st % k)
  (w, 4 * w + nthSetBit chan 4 (st / k % popCount chan 4))

/-- DIES of a placement descriptor: the cistern of a die may cache the page's lines (R384). -/
def dieCaches (d : BitVec 64) (die : Nat) : Bool := d.getLsbD (2 + die)

/-! ## Atomic operations (R86, R220) -/

def atomApply (op size : Nat) (old v c : Nat) : Nat :=
  let w := if size = 0 then 32 else 64
  let old := old % 2 ^ w
  let v := v % 2 ^ w
  let c := c % 2 ^ w
  if op = 0 then (old + v) % 2 ^ w
  else if op = 1 then old &&& v
  else if op = 2 then old ||| v
  else if op = 3 then old ^^^ v
  else if op = 4 then (if sext w old ≤ sext w v then old else v)
  else if op = 5 then (if sext w old ≤ sext w v then v else old)
  else if op = 6 then (if old ≤ v then old else v)
  else if op = 7 then (if old ≤ v then v else old)
  else if op = 8 then v
  else if old = c then v else old

/-- Bytes of an atomic (R220). -/
def atomBytes (size : Nat) : Nat := if size = 0 then 4 else 8

/-- The atomic on a line: the new line and the old value. -/
def atomLine (d : Line) (off op size : Nat) (v c : Nat) : Line × Nat :=
  let n := atomBytes size
  let old := leVal (lineBytes d off n)
  let p := placeBytes off (bytesOf n (atomApply op size old v c))
  (mergeLine d p.1 p.2, old)

/-! ## The owner-0 log (R461, R462) -/

def logRecord (event : Nat) (cause : BitVec 8) (owner : Nat) (region : Option Nat) (addr info time : Nat) : BitVec 256 :=
  BitVec.ofNat 256 (cause.toNat % 64 + event * 2 ^ 22 + (match region with | some r => 2 ^ 26 + r * 2 ^ 27 | none => 0)
    + owner * 2 ^ 33 + info % 2 ^ 64 * 2 ^ 64 + time % 2 ^ 64 * 2 ^ 128 + addr % 2 ^ 64 * 2 ^ 192)

/-- A record on its way to the log unit. -/
def logPush (s : State) (event : Nat) (cause : BitVec 8) (owner : Nat) (region : Option Nat) (addr info : Nat) : State :=
  { s with logQueue := s.logQueue ++ [logRecord event cause owner region addr info s.time] }

/-! ## Tables -/

def getCist (s : State) (d : Nat) : Cistern := tget s.cisterns d {}
def modCist (s : State) (d : Nat) (f : Cistern → Cistern) : State := { s with cisterns := tset s.cisterns d (f (getCist s d)) }
def getDir (s : State) (ln : Nat) : Dir := tget s.dir ln {}
def setDir (s : State) (ln : Nat) (d : Dir) : State := { s with dir := tset s.dir ln d }
def modDir (s : State) (ln : Nat) (f : Dir → Dir) : State := setDir s ln (f (getDir s ln))
def getHome (s : State) (ln : Nat) : HomeQ := tget s.homes ln {}
def setHome (s : State) (ln : Nat) (h : HomeQ) : State :=
  { s with homes := if h = {} then terase s.homes ln else tset s.homes ln h }

/-- The home's copy of a line. -/
def homeLine (s : State) (ln : Nat) : Line := memLine s.mem ln

/-- Well that is the home of a line: as an access has named it, else a free value (R383). -/
def wellOf (s : State) (ln : Nat) : Nat := (tfind s.wells ln).getD (Config.homeWell ln % 8)

/-- The bits [hi:lo]. -/
def bitRange (hi lo : Nat) : Nat := 2 ^ (hi + 1) - 2 ^ lo

/-- Bits of a launch-queue entry and of a ring descriptor that no access writes: RO fields and reserved ones (R7, R8, R178, R312). -/
def queueRo : Line := BitVec.ofNat 512 (bitRange 511 224 + bitRange 191 180 + bitRange 111 104 + bitRange 99 32 + bitRange 30 20 + bitRange 15 7)
def ringRo : Line := BitVec.ofNat 512 (bitRange 511 392 + bitRange 95 84 + bitRange 79 79 + bitRange 63 52 + bitRange 4 0)

/-- The bits of a line that no access writes. -/
def roBits (s : State) (ln : Nat) : Line :=
  let off := 64 * ln % 0x04000000
  if s.qTable / 64 ≤ ln ∧ ln < s.qTable / 64 + 256 then queueRo
  else if 0x400000000000 ≤ 64 * ln ∧ 64 * ln < 0x400010000000 ∧ s.ringOffset ≤ off ∧ off < s.ringOffset + 0x40000 then ringRo
  else 0

/-- What an access leaves of a line: `new`, with the bits that no access writes as they were. -/
def keepRo (s : State) (ln : Nat) (old new : Line) : Line := let m := roBits s ln; if m = 0 then new else (old &&& m) ||| (new &&& ~~~m)

/-- A launch queue's entry after a write: a dispatch becomes the head of a queue that was empty, and waits from then on (R313, R318). -/
def noteHead (s : State) (ln : Nat) : State :=
  if s.qTable / 64 ≤ ln ∧ ln < s.qTable / 64 + 256 then
    let q := ln - s.qTable / 64
    let e := homeLine s ln
    if e.extractLsb' 224 32 = e.extractLsb' 192 32 then { s with dist := { s.dist with since := terase s.dist.since q } }
    else if (tfind s.dist.since q).isSome then s else { s with dist := { s.dist with since := tset s.dist.since q s.time } }
  else s

/-- The home stores bytes of a line; storage rows are allocated on a first write (R384). -/
def storeHome (s : State) (ln : Nat) (d : Line) (m : BitVec 64) : State :=
  let row := (wellOf s ln, ln / 64)
  noteHead { s with mem := memWriteMask s.mem ln (keepRo s ln (homeLine s ln) d) m
                    rows := if m = 0 || s.rows.contains row then s.rows else s.rows ++ [row] } ln

/-- The home applies a write: one of all 64 bytes clears poison (R378). -/
def putHome (s : State) (ln : Nat) (d : Line) (m : BitVec 64) : State :=
  let s := storeHome s ln d m
  { s with poison := if m = BitVec.allOnes 64 then s.poison.filter (· != ln) else s.poison
           badCheck := if m = BitVec.allOnes 64 then s.badCheck.filter (· != ln) else s.badCheck }

/-- The cause with which reading a line traps (R493), if it does. -/
def lineBad (s : State) (ln : Nat) : Option (BitVec 8) :=
  if s.poison.contains ln then some 0x0D else if s.badCheck.contains ln then some 0x0E else none

/-- The line of a cistern, if it holds it. -/
def cLine (s : State) (die ln : Nat) : Option CLine := tfind (getCist s die).lines ln
def setCLine (s : State) (die ln : Nat) (c : CLine) : State := modCist s die fun x => { x with lines := tset x.lines ln c }
def dropCLine (s : State) (die ln : Nat) : State := modCist s die fun x => { x with lines := terase x.lines ln }

/-- Agents that hold a line by its entry (R362, R363). -/
def holders (d : Dir) : List Nat :=
  ((upto 4).filter fun c => d.cs.getLsbD c) ++ ((upto 32).filter fun p => d.ps.getLsbD p).map (32 + ·)

def bit4 (n : Nat) : BitVec 4 := BitVec.ofNat 4 (2 ^ n)
def bit32 (n : Nat) : BitVec 32 := BitVec.ofNat 32 (2 ^ n)

/-- Adds and removes an agent among the holders of an entry. -/
def Dir.addHolder (d : Dir) (ag : Nat) : Dir :=
  if ag < 4 then { d with cs := d.cs ||| bit4 ag } else if 32 ≤ ag then { d with ps := d.ps ||| bit32 (ag - 32) } else d
def Dir.dropHolder (d : Dir) (ag : Nat) : Dir :=
  let d := if ag < 4 then { d with cs := d.cs &&& ~~~ bit4 ag }
    else if 32 ≤ ag then { d with ps := d.ps &&& ~~~ bit32 (ag - 32) } else d
  if d.cs = 0 ∧ d.ps = 0 then { d with st := .invalid, own := 0 }
  else if d.own = ag ∧ (d.st = .exclusive ∨ d.st = .modified) then { d with st := .shared, own := 0 } else d

/-! ## Merging (R367) -/

/-- Merges what the holders returned into the home's copy: a byte in several masks takes one of their values (log 10); a merge is
no write of all 64 bytes in one step, and leaves poison (R378). -/
def mergeAnswers (s : State) (ln : Nat) (l : List (Line × BitVec 64)) : State :=
  let pick := fun j =>
    let c := l.filter fun a => a.2.getLsbD j
    (c.getD (Config.mergeChoice (s.free + j) % c.length) (0, 0)).1
  let mask := l.foldl (fun m a => m ||| a.2) 0
  if mask = 0 then s
  else
    let d := BitVec.ofNat 512 (leVal ((upto 64).map fun j => if mask.getLsbD j then lineByte (pick j) j else 0))
    { storeHome s ln d mask with free := s.free + 64 }

/-- What a link peer that may hold a line dirty returns: a free value (log 17). -/
def peerAnswer (s : State) : Line × BitVec 64 := (Config.peerData s.free, (Config.peerData (s.free + 1)).setWidth 64)

/-! ## Write-backs and recalls -/

/-- Takes a write-back into the home's copy and clears its sender's bit (R364, R372). During a recall it is its sender's answer
(R372, R376). -/
def applyWb (s : State) (ln : Nat) (q : HReq) : State :=
  let h := getHome s ln
  match h.tx with
  | some t =>
    if t.req.kind = .recall then
      let t := if t.snoops.contains q.agent && q.kind != .clre then
          { t with answers := t.answers ++ [(q.data, q.mask)], pubs := if q.mask = 0 then t.pubs else t.pubs ++ [q.agent] } else t
      setHome s ln { h with tx := some { t with snoops := t.snoops.filter (· != q.agent) } }
    else
      let s := if q.kind = .clre then s else putHome s ln q.data q.mask
      setHome (modDir s ln fun d => d.dropHolder q.agent) ln { h with tx := some { t with snoops := t.snoops.filter (· != q.agent) } }
  | none =>
    let s := if q.kind = .clre then s else putHome s ln q.data q.mask
    modDir s ln fun d => d.dropHolder q.agent

def isWb (k : ReqKind) : Bool := k == .wbm || k == .wbmm || k == .clre

/-- Every write-back of the line that is on its way is taken. -/
def drainWb (s : State) (ln : Nat) : State :=
  let h := getHome s ln
  let wbs := h.reqs.filter fun q => isWb q.kind
  wbs.foldl (fun s q => applyWb s ln q) (setHome s ln { h with reqs := h.reqs.filter fun q => !isWb q.kind })

/-- The access that a tag names has been given up: an answer to it is of no use. -/
def staleTag (s : State) : ReqTag → Bool
  | .seqLoad r id => (getSeq s r).nextReq != id
  | .elem key n => !(getE s key).accs.any fun a => a.id == n / 16
  | .store r id => !(getSeq s r).stores.any fun w => w.id == id
  | .pump r p id => !(tget (getR s r).pumps p {}).accs.any fun a => a.id == id
  | _ => false

/-- GRANT_ACK (R366): the requester takes its grant or its answer, and the home goes on to the next request. -/
def grantAck (s : State) (ln : Nat) : State :=
  let h := getHome s ln
  match h.tx with
  | some t => match t.granted with
    | some (st, d) =>
      let q := t.req
      let s := setHome s ln { h with tx := none }
      let cached := q.agent < 4 && !q.uncached && st != .invalid
      let s := if cached then setCLine s q.agent ln ⟨st, d, 0, 0, 0⟩ else s
      let s := if q.kind = .walk then modCist s q.agent fun c =>
          { c with walkers := if c.walkers.contains (ln, q.region) then c.walkers else c.walkers ++ [(ln, q.region)] } else s
      if q.tag = .none ∨ staleTag s q.tag then s
      else { s with acks := s.acks ++ [⟨q.tag, ln, d, if q.kind = .ath then d.setWidth 64 else 0, lineBad s ln⟩] }
    | none => s
  | none => s

/-- The home takes back every copy of a line and merges what was written: the effect of snoops to every holder, made
in one step for a write performed at pkg (R351, R366); a grant already given is taken first. -/
def recallLine (s : State) (ln : Nat) : State :=
  let s := drainWb (grantAck s ln) ln
  let d := getDir s ln
  let own := (upto 4).filterMap fun c => (cLine s c ln).map fun l => (l.data, l.dirty)
  let peers := (upto 32).filterMap fun p =>
    if d.ps.getLsbD p && (d.st == .mm || d.st == .modified || d.st == .exclusive) then some (peerAnswer s) else none
  let h := getHome s ln
  let got := match h.tx with | some t => t.answers | none => []
  let s := mergeAnswers s ln (got ++ own ++ peers)
  let s := (upto 4).foldl (fun s c => dropCLine s c ln) s
  let s := { s with cisterns := tmap (fun _ c => if c.sent == [] then c else { c with sent := c.sent.filter fun p => p.1 != ln }) s.cisterns }
  let s := setDir s ln { getDir s ln with st := .invalid, own := 0, cs := 0, ps := 0 }
  match h.tx with
  | some t => setHome s ln { h with tx := some { t with snoops := [], answers := [] } }
  | none => s

/-! ## The home's requests (R366) -/

/-- Puts a request at the home of a line. -/
def postReq (s : State) (ln : Nat) (q : HReq) : State :=
  let h := getHome s ln
  setHome s ln { h with reqs := h.reqs ++ [q] }

/-- A request with no data. -/
def plainReq (k : ReqKind) (agent : Nat) : HReq :=
  ⟨k, agent, 0, false, 0, 0, 0, 0, 0, 0, 0, .none, 0⟩

/-- A request that a test accepts is waiting at the home or being served. -/
def reqPending (s : State) (ln : Nat) (p : HReq → Bool) : Bool :=
  let h := getHome s ln
  h.reqs.any p || (match h.tx with | some t => p t.req | none => false)

/-- A request for a grant. -/
def isGrantReq (k : ReqKind) : Bool := k == .rds || k == .rdx || k == .rdmm

/-- Posts a request that is answered with an acknowledgement, once. -/
def askTagged (s : State) (ln : Nat) (q : HReq) : State :=
  if reqPending s ln (fun x => x.tag == q.tag) || s.acks.any (fun a => a.tag == q.tag) then s else postReq s ln q

/-- The acknowledgement for a tag. -/
def takeAck (s : State) (t : ReqTag) : Option (Ack × State) :=
  match s.acks.find? fun a => a.tag == t with
  | some a => some (a, { s with acks := removeFirst (fun a => a.tag == t) s.acks })
  | none => none

/-- The request asks for write permission or is a write (R369). -/
def isWriteReq (k : ReqKind) : Bool := k == .rdx || k == .rdmm || k == .wrh || k == .ath

/-- A write-combining buffer of a region of the die holds the line (R370). -/
def dieNarrow (s : State) (die ln : Nat) : Bool :=
  (getDir s ln).nh.getLsbD die || s.regions.any fun p => dieOf p.1 == die && p.2.wcb.any fun w => w.line == ln

/-! ## Write-combining buffers -/

/-- The bytes that a region's buffer holds of a line, over a line (R341). -/
def overlay (x : Region) (ln : Nat) (d : Line) : Line :=
  x.wcb.foldl (fun d w => if w.line = ln then mergeLine d w.data w.mask else d) d

def wcbHas (x : Region) (ln : Nat) : Bool := x.wcb.any fun w => w.line == ln

/-- A write, number n, that the buffer holds (R341): writes to one line combine until the line has been sent off, and lines stand in
the order of their first write. -/
def wcbPut (x : Region) (ln : Nat) (d : Line) (m : BitVec 64) (plc : BitVec 64) (via : Nat × List Nat) (n : Nat) : Region :=
  if x.wcb.any fun w => w.line == ln && !w.asked then
    { x with wcb := x.wcb.map fun w =>
        if w.line = ln ∧ !w.asked then
          { w with data := mergeLine w.data d m, mask := w.mask ||| m, last := n
                   via := if w.via.contains via then w.via else w.via ++ [via] }
        else w }
  else { x with wcb := x.wcb ++ [⟨ln, d, m, plc, false, false, [via], n, n⟩] }

/-- A narrow write that a region's buffer takes. -/
def bufferWrite (s : State) (r ln : Nat) (d : Line) (m : BitVec 64) (plc : BitVec 64) (via : Nat × List Nat) : State :=
  modR { s with wseq := s.wseq + 1 } r fun x => wcbPut x ln d m plc via s.wseq

/-- Regions of a die. -/
def dieRegions (die : Nat) : List Nat := (upto 16).map fun j => 16 * die + j

/-- Another region of the die whose buffer holds the line: the cistern's record names it (R370). -/
def otherHolder (s : State) (r ln : Nat) : Option Nat :=
  (s.regions.find? fun p => p.1 != r && dieOf p.1 == dieOf r && wcbHas p.2 ln).map (·.1)

/-- What a request snoops (R366). -/
def snoopsFor (d : Dir) (q : HReq) : List Nat :=
  match q.kind with
  | .rds | .walk =>
    if d.st = .exclusive ∨ d.st = .modified then [d.own] else if d.st = .mm then holders d else []
  | .rdx =>
    if d.st = .shared then (holders d).filter (· != q.agent)
    else if d.st = .exclusive ∨ d.st = .modified then [d.own] else if d.st = .mm then holders d else []
  | .rdmm =>
    if d.st = .shared then (holders d).filter (· != q.agent)
    else if (d.st = .exclusive ∨ d.st = .modified) ∧ d.own ≠ q.agent then [d.own] else []
  | .wrh | .ath => holders d
  | .recall => []
  | _ => []

/-- The snoop that a request sends to its holders (R366). -/
def snoopKind (d : Dir) (k : ReqKind) : ReqKind :=
  match k with
  | .rds | .walk => if d.st = .mm then .rdx else .rds
  | .rdmm => if d.st = .exclusive ∨ d.st = .modified then .rdmm else .rdx
  | k => if k = .recall then .recall else .rdx

/-- After the publications, what the request still waits for. -/
def planTx (s : State) (ln : Nat) : State :=
  let s := drainWb s ln
  let h := getHome s ln
  match h.tx with
  | none => s
  | some t =>
    let d := getDir s ln
    let tinv := if isWriteReq t.req.kind then (upto 4).filter fun c => d.ts.getLsbD c else t.tinv
    setHome s ln { h with tx := some { t with tinv := tinv, snoops := snoopsFor d t.req } }

/-- What a request is granted (R366), with the directory after it. -/
def grantOf (d : Dir) (q : HReq) : LineState × Dir :=
  match q.kind with
  | .rds =>
    if q.uncached then (.invalid, d)
    else if d.st = .invalid then (.exclusive, { d.addHolder q.agent with st := .exclusive, own := q.agent })
    else (.shared, { d.addHolder q.agent with st := .shared, own := 0 })
  | .walk => (.shared, { d.addHolder q.agent with st := .shared, own := 0, ts := d.ts ||| bit4 (q.agent % 4) })
  | .rdx => (.modified, { ({ d with cs := 0, ps := 0 } : Dir).addHolder q.agent with st := .modified, own := q.agent })
  | .rdmm =>
    if d.st = .mm then (.mm, d.addHolder q.agent)
    else (.modified, { ({ d with cs := 0, ps := 0 } : Dir).addHolder q.agent with st := .modified, own := q.agent })
  | _ => (.invalid, { d with st := .invalid, own := 0, cs := 0, ps := 0 })

/-- The home grants or applies a request whose snoops are answered (R366, R367). -/
def concludeTx (s : State) (ln : Nat) (t : HTx) : State :=
  let s := mergeAnswers s ln t.answers
  let bad := lineBad s ln
  let data := homeLine s ln
  let q := t.req
  let ath := atomLine data q.off q.op q.size q.v.toNat q.c.toNat
  let s := if q.kind = .wrh then putHome s ln q.data q.mask
    else if q.kind = .ath && bad.isNone then putHome s ln ath.1 (BitVec.allOnes 64) else s
  let g := grantOf (getDir s ln) q
  let s := setDir s ln g.2
  let h := getHome s ln
  let out := if q.kind = .ath then BitVec.ofNat 512 ath.2 else data
  setHome s ln { h with tx := some { t with answers := [], granted := some (g.1, out) } }

/-- Grants once nothing is waited for any more. -/
def settle (s : State) (ln : Nat) : State :=
  match (getHome s ln).tx with
  | some t => if t.pubs = [] ∧ t.tinv = [] ∧ t.snoops = [] ∧ t.granted = none ∧ t.req.kind ≠ .recall then concludeTx s ln t else s
  | none => s

/-! ## Publication (R351, R370) -/

/-- A narrow write that a die holds: the numbers of its first and its last part, its line, and the region whose buffer holds it; none
where it stands masked in the cistern, or has been written back while other copies remain. -/
structure Narrow where
  first : Nat
  last : Nat
  line : Nat
  region : Option Nat
  deriving DecidableEq, Repr, Inhabited

/-- The narrow writes of a die; a line that the cistern holds Modified has no other copy, and the home takes it back before anything
else is done with it. -/
def narrowWrites (s : State) (die : Nat) : List Narrow :=
  (s.regions.flatMap fun p => if dieOf p.1 = die then p.2.wcb.map fun w => ⟨w.first, w.last, w.line, some p.1⟩ else [])
    ++ ((getCist s die).lines.filterMap fun p =>
        if p.2.dirty != 0 && p.2.st == .mm then some ⟨p.2.first, p.2.last, p.1, none⟩ else none)
    ++ (getCist s die).sent.map fun p => ⟨p.2, p.2, p.1, none⟩

/-- The number up to which writes go together with those before n: a line is published whole. -/
def horizon (l : List Narrow) : Nat → Nat → Nat
  | 0, n => n
  | k + 1, n => horizon l k ((l.filter fun w => decide (w.first < n)).foldl (fun a w => Nat.max a (w.last + 1)) n)

/-- The order in which they were performed. -/
def putNarrow (w : Narrow) : List Narrow → List Narrow
  | [] => [w]
  | x :: r => if w.first < x.first then w :: x :: r else x :: putNarrow w r

/-- A die's narrow writes before number n that a test does not pass over, oldest first. -/
def olderWrites (s : State) (die n : Nat) (pass : Narrow → Bool) : List Narrow :=
  let l := narrowWrites s die
  let n := horizon l l.length n
  (l.filter fun w => decide (w.first < n) && !pass w).foldr putNarrow []

/-- One past the number of a die's last write to a line that its buffers or its cistern hold; 0 for none. -/
def lastWrite (s : State) (die ln : Nat) : Nat :=
  s.regions.foldl (fun n p => if dieOf p.1 = die then
      p.2.wcb.foldl (fun n w => if w.line = ln then Nat.max n (w.last + 1) else n) n else n)
    (match cLine s die ln with | some c => if c.dirty = 0 then 0 else c.last + 1 | none => 0)

/-- The writes that stand in the cistern for a line. -/
def inCistern (ln : Nat) (w : Narrow) : Bool := w.region.isNone && w.line == ln

/-- The home takes back every copy of a line, after each die has published what it wrote before (R351, R370); `pub` publishes. -/
def recallWith (pub : State → Nat → Nat → (Narrow → Bool) → State × Bool) (s : State) (ln : Nat) : State × Bool :=
  match (getHome s ln).tx with
  | some t => if t.req.kind = .recall then (s, false) else go
  | none => go
where
  go : State × Bool :=
    let a := (upto 4).foldl (fun (a : State × Bool) c =>
      let n := lastWrite a.1 c ln
      if a.2 && n != 0 then pub a.1 c n (inCistern ln) else a) (s, true)
    if a.2 then (settle (recallLine a.1 ln) ln, true) else a

/-- A write without a grant on its way to a peer's home. -/
def peerWrite (die : Nat) (q : HReq) : Bool := q.agent == die && q.kind == .wrh && q.tag == .none

/-- Takes an entry out of a region's buffer. -/
def dropEntry (s : State) (r : Nat) (e : WcbEntry) : State := modR s r fun x => { x with wcb := x.wcb.filter (· != e) }

/-- A narrow write is performed at its home, or sent to a peer's; a line with translations waits for their invalidation (R369). -/
def performNarrow (pub : State → Nat → Nat → (Narrow → Bool) → State × Bool) (s : State) (die : Nat) (w : Narrow) : State × Bool :=
  let ln := w.line
  match w.region with
  | none => match cLine s die ln with
    | some c =>
      if peerLine ln then
        (postReq (dropCLine s die ln) ln { plainReq .wrh die with data := c.data, mask := c.dirty, uncached := true }, true)
      else recallWith pub s ln
    | none =>
      if (getDir s ln).st = .mm then recallWith pub s ln
      else (modCist s die fun c => { c with sent := c.sent.filter fun p => p.1 != ln }, true)
  | some r => match (getR s r).wcb.find? fun e => e.line == ln && e.first == w.first with
    | none => (s, true)
    | some e =>
      let mine := fun (q : HReq) => q.tag == .wcb r
      let h := getHome s ln
      let perform := fun (t : State) => match recallWith pub t ln with
        | (u, true) => (settle (putHome u ln e.data e.mask) ln, true)
        | (_, false) => (s, false)
      if e.asked then
        match takeAck s (.wcb r) with
        | some (_, t) => (dropEntry t r e, true)
        | none =>
          if h.reqs.any mine && !peerLine ln then perform (setHome (dropEntry s r e) ln { h with reqs := removeFirst mine h.reqs })
          else (s, false)
      else if peerLine ln then
        (postReq (dropEntry s r e) ln { plainReq .wrh die with data := e.data, mask := e.mask, uncached := true }, true)
      else if (getDir s ln).ts != 0 then (s, false)
      else perform (dropEntry s r e)

/-- A die publishes its narrow writes before number n, but for those that a test passes over; whether it is done. Dies that hold a
line of them publish in their turn, `k` deep. -/
def publishWithin : Nat → State → Nat → Nat → (Narrow → Bool) → State × Bool
  | 0, s, die, n, pass => (s, (olderWrites s die n pass).isEmpty)
  | k + 1, s, die, n, pass =>
    let a := (olderWrites s die n pass).foldl (fun (a : State × Bool) w => if a.2 then performNarrow (publishWithin k) a.1 die w else a) (s, true)
    (a.1, a.2 && !(a.1.homes.any fun h => peerLine h.1 && h.2.reqs.any (peerWrite die)))

def publishDie (s : State) (die n : Nat) (pass : Narrow → Bool) : State × Bool := publishWithin 6 s die n pass

/-- Every copy of a line is taken back, its holders having published. -/
def takeBack (s : State) (ln : Nat) : State × Bool := recallWith publishDie s ln

/-- Another cistern of this device that holds a peer's line and can give it (R360: this device is one agent there, and keeps its own
record of its cisterns): a Shared copy to a reader, any other with its rights. -/
def ownGiver (s : State) (die ln : Nat) (k : ReqKind) : Option Nat :=
  if peerLine ln then (upto 4).find? fun c => c != die && match cLine s c ln with | some l => l.st != .shared || k == .rds | none => false
  else none

/-- A die's cistern asks for a line: of a cistern of this device that can give a peer's line, which publishes first what its die wrote
before; or of the home, with one request on its way for a line at a time (R365, R366). -/
def askGrant (s : State) (die ln : Nat) (k : ReqKind) : State :=
  match ownGiver s die ln k with
  | some c =>
    let p := publishDie s c (lastWrite s c ln) (inCistern ln)
    match p.2, cLine p.1 c ln with
    | true, some l => setCLine (if l.st = .shared then p.1 else dropCLine p.1 c ln) die ln l
    | _, _ => p.1
  | none =>
    if reqPending s ln fun q => q.agent == die && isGrantReq q.kind && !q.uncached then s else postReq s ln (plainReq k die)

/-- The request comes from outside every die: from the host, a peer or an engine of the package. -/
def outside (q : HReq) : Bool :=
  decide (4 ≤ q.agent) || (match q.tag with | .engine _ | .host .. => true | _ => false)

/-- Dies that publish before the home serves a request: those whose buffers hold the line, and the die of a write at pkg or sys that
made narrow writes before it (R346, R370). -/
def pubsFor (s : State) (ln : Nat) (q : HReq) : List Nat :=
  (upto 4).filter fun c =>
    if c != q.agent || outside q then dieNarrow s c ln
    else (q.kind == .wrh || q.kind == .ath) && !(olderWrites s c q.stamp fun _ => false).isEmpty

/-- The home takes the request at the head of its queue, if it is of the given kind (R366). -/
def startReq (s : State) (ln : Nat) (k : ReqKind) : State :=
  let h := getHome s ln
  match h.tx, h.reqs with
  | none, q :: r =>
    if q.kind = k ∧ !peerLine ln then
      let pubs := pubsFor s ln q
      let s := setHome s ln { reqs := r, tx := some ⟨q, pubs, [], [], [], none, 0⟩ }
      if pubs = [] then settle (planTx s ln) ln else s
    else s
  | _, _ => s

/-- RDS, WALK, RDX, RDMM, WRH, ATH (R366). -/
def execRds (ln : Nat) (s : State) : Host.Outcome State Fault Refusal := .next (startReq s ln .rds)
def execWalk (ln : Nat) (s : State) : Host.Outcome State Fault Refusal := .next (startReq s ln .walk)
def execRdx (ln : Nat) (s : State) : Host.Outcome State Fault Refusal := .next (startReq s ln .rdx)
def execRdmm (ln : Nat) (s : State) : Host.Outcome State Fault Refusal := .next (startReq s ln .rdmm)
def execWrh (ln : Nat) (s : State) : Host.Outcome State Fault Refusal := .next (startReq s ln .wrh)
def execAth (ln : Nat) (s : State) : Host.Outcome State Fault Refusal := .next (startReq s ln .ath)

/-- The bits of an entry (R362). -/
def stateCode : LineState → Nat
  | .invalid => 0 | .shared => 1 | .exclusive => 2 | .modified => 3 | .mm => 4

def dirBits (d : Dir) : BitVec 64 :=
  let v : BitVec 53 := BitVec.ofNat 53 (stateCode d.st + d.own * 2 ^ 3 + d.nh.toNat * 2 ^ 9 + d.ts.toNat * 2 ^ 13 + d.cs.toNat * 2 ^ 17
    + d.ps.toNat * 2 ^ 21)
  v.setWidth 64 ||| (Config.dirCheck v).setWidth 64 <<< 57

/-- The recall ends: the line, the entry and the log record (R376, R377). `pubs` holds the agents that returned data. -/
def endRecall (s : State) (ln : Nat) (t : HTx) : State :=
  let got := t.answers.filter fun a => a.2 != 0
  let s' := match got with
    | [] => s
    | [a] => putHome s ln a.1 a.2
    | _ => { s with poison := if s.poison.contains ln then s.poison else s.poison ++ [ln] }
  let outcome := match got with | [] => 0 | [_] => 1 | _ => 2
  let agent := if outcome = 1 then (t.pubs.headD 0) else 0
  let rec_ := BitVec.ofNat 256 (0x0F + ln % 2 ^ 41 * 2 ^ 6 + s.devid * 2 ^ 47 + agent * 2 ^ 52
    + wellOf s ln % 8 * 2 ^ 58 + outcome * 2 ^ 61 + t.entry.toNat * 2 ^ 64 + s.time % 2 ^ 64 * 2 ^ 128)
  let s := setDir { s' with logQueue := s'.logQueue ++ [rec_] } ln {}
  let h := getHome s ln
  setHome s ln { h with tx := none }

/-- Ends a recall once every agent has answered. -/
def recallOver (s : State) (ln : Nat) : State :=
  match (getHome s ln).tx with
  | some t => if t.req.kind = .recall ∧ t.snoops = [] ∧ t.tinv = [] then endRecall s ln t else s
  | none => s

/-- A write-back of the line is taken as soon as it reaches the home, also as the answer to a snoop (R372). -/
def takeWb (s : State) (ln : Nat) (k : ReqKind) : State :=
  let h := getHome s ln
  match h.reqs.find? fun q => q.kind == k with
  | some q =>
    if peerLine ln then s
    else recallOver (settle (applyWb (setHome s ln { h with reqs := removeFirst (fun q => q.kind == k) h.reqs }) ln q) ln) ln
  | none => s

/-- WBM, WBMM, CLRE (R364, R372). -/
def execWbm (ln : Nat) (s : State) : Host.Outcome State Fault Refusal := .next (takeWb s ln .wbm)
def execWbmm (ln : Nat) (s : State) : Host.Outcome State Fault Refusal := .next (takeWb s ln .wbmm)
def execClre (ln : Nat) (s : State) : Host.Outcome State Fault Refusal := .next (takeWb s ln .clre)

/-! ## Snoops -/

/-- The answer of a holder to a snoop (R366, R371): what it returns and what it keeps. A holder that returns dirty bytes publishes
first what it wrote before them (R351); a Shared copy is given up (R366). -/
def answerSnoop (s : State) (ln ag : Nat) (k : ReqKind) : State :=
  let n := if k = .rdmm then 0 else lastWrite s ag ln
  let p := if n = 0 then (s, true) else publishDie s ag n (inCistern ln)
  let s := p.1
  let h := getHome s ln
  match h.tx with
  | none => s
  | some t =>
    if !p.2 || !t.snoops.contains ag then s
    else
      let d := getDir s ln
      let ans := if ag < 4 then (match cLine s ag ln with | some c => [(c.data, c.dirty)] | none => [])
        else if 32 ≤ ag && (d.st == .mm || d.st == .modified || d.st == .exclusive) then [peerAnswer s] else []
      let s := if k = .rds then
            setDir (match cLine s ag ln with | some c => setCLine s ag ln { c with st := .shared, dirty := 0 } | none => s) ln
              { d with st := .shared, own := 0 }
          else if k = .rdmm then
            match cLine s ag ln with
            | some c => if c.st = .shared then setDir (dropCLine s ag ln) ln (d.dropHolder ag)
              else setDir (setCLine s ag ln { c with st := .mm }) ln { d with st := .mm, own := 0 }
            | none => setDir s ln (if 4 ≤ ag then { d with st := .mm, own := 0 } else d.dropHolder ag)
          else setDir (dropCLine s ag ln) ln (d.dropHolder ag)
      let ans := if k = .rdmm then [] else ans
      setHome s ln { h with tx := some { t with snoops := t.snoops.filter (· != ag), answers := t.answers ++ ans } }

/-- A write-back of the line by an agent is on its way to the home. -/
def wbPending (s : State) (ln ag : Nat) : Bool :=
  (getHome s ln).reqs.any fun q => (isWb q.kind && q.agent == ag) || (peerLine ln && peerWrite ag q)

/-- A snoop of the kind that the home's request sends; where the agent's write-back is on its way, that is the answer (R372). -/
def snoop (s : State) (ln ag : Nat) (k : ReqKind) : State :=
  match (getHome s ln).tx with
  | some t =>
    if wbPending s ln ag || peerLine ln then s
    else if t.pubs = [] ∧ t.tinv = [] ∧ t.snoops.contains ag ∧ snoopKind (getDir s ln) t.req.kind = k then
      settle (answerSnoop s ln ag k) ln
    else s
  | none => s

/-- SNPS, SNPI, SNPMM (R366). -/
def execSnps (ln ag : Nat) (s : State) : Host.Outcome State Fault Refusal := .next (snoop s ln ag .rds)
def execSnpi (ln ag : Nat) (s : State) : Host.Outcome State Fault Refusal := .next (snoop s ln ag .rdx)
def execSnpmm (ln ag : Nat) (s : State) : Host.Outcome State Fault Refusal := .next (snoop s ln ag .rdmm)

/-- CISTERN_EVICT (R364): by the state of the line. Dirty bytes leave after what the die wrote before them (R351). -/
def evictLine (s : State) (die ln : Nat) : State :=
  match cLine s die ln with
  | none => s
  | some c =>
    let p := if c.dirty = 0 then (s, true) else publishDie s die (c.last + 1) (inCistern ln)
    if !p.2 then p.1
    else
      let s := dropCLine p.1 die ln
      match c.st with
      | .exclusive => postReq s ln (plainReq .clre die)
      | .modified => postReq s ln { plainReq .wbm die with data := c.data, mask := BitVec.allOnes 64 }
      | .mm =>
        let s := postReq s ln { plainReq .wbmm die with data := c.data, mask := c.dirty }
        if c.dirty = 0 || peerLine ln then s else modCist s die fun x => { x with sent := x.sent ++ [(ln, c.first)] }
      | _ => s

def execCisternEvict (die ln : Nat) (s : State) : Host.Outcome State Fault Refusal :=
  withUnit (decide (die < Config.dies)) s fun s => evictLine s die ln

/-- Lines of a cistern: 64 MiB (R20). -/
def cisternLines : Nat := 2 ^ 20

/-- GRANT_ACK (R366): a line that the cistern has no room for waits while another leaves (log 11). -/
def execGrantAck (ln : Nat) (s : State) : Host.Outcome State Fault Refusal :=
  .next (match (getHome s ln).tx with
    | some t =>
      let l := (getCist s t.req.agent).lines
      if t.granted.isSome && t.req.agent < 4 && !t.req.uncached && decide (cisternLines ≤ l.length) && (cLine s t.req.agent ln).isNone then
        evictLine { s with free := s.free + 1 } t.req.agent (l.getD (Config.evictChoice s.free % l.length) default).1
      else grantAck s ln
    | none => s)

/-! ## Publication requests and notices (R370) -/

/-- PUBLICATION_REQUEST (R370): the die publishes up to its last write to the line, and the die of the request itself what it wrote
before; a line with translations waits for their invalidation. -/
def publication (s : State) (die ln : Nat) : State :=
  let h := getHome s ln
  match h.tx with
  | none => s
  | some t =>
    if !t.pubs.contains die || t.tinv != [] || t.req.kind == .recall then s
    else
      let own := die == t.req.agent && !outside t.req
      if !own && dieNarrow s die ln && (getDir s ln).ts != 0 then
        setHome s ln { h with tx := some { t with tinv := (upto 4).filter fun c => (getDir s ln).ts.getLsbD c } }
      else
        let p := publishDie s die (if own then t.req.stamp else lastWrite s die ln) fun _ => false
        let s := p.1
        if !p.2 then s
        else
          let s := if own then s else modCist (modDir s ln fun d => { d with nh := d.nh &&& ~~~ bit4 die }) die fun c =>
            { c with narrow := c.narrow.filter fun p => p.1 != ln }
          let h := getHome s ln
          match h.tx with
          | none => s
          | some t =>
            let pubs := t.pubs.filter (· != die)
            let s := setHome s ln { h with tx := some { t with pubs := pubs } }
            if pubs = [] then settle (planTx s ln) ln else s

def execPublicationRequest (die ln : Nat) (s : State) : Host.Outcome State Fault Refusal :=
  withUnit (decide (die < Config.dies)) s fun s => publication s die ln

/-- NARROW_HOLD_NOTICE (R370); one for a line of a peer leaves the device. -/
def execNarrowHoldNotice (r ln : Nat) (s : State) : Host.Outcome State Fault Refusal :=
  withUnit (regionOk r) s fun s =>
    let x := getR s r
    if x.wcb.any fun w => w.line == ln && !w.noticed then
      let s := setR s r { x with wcb := x.wcb.map fun w => if w.line = ln then { w with noticed := true } else w }
      let s := modCist s (dieOf r) fun c => { c with narrow := if c.narrow.contains (ln, r) then c.narrow else c.narrow ++ [(ln, r)] }
      if peerLine ln then s else modDir s ln fun d => { d with nh := d.nh ||| bit4 (dieOf r) }
    else s

/-- NARROW_RELEASE_NOTICE (R370): no buffer of the die holds a narrow write to the line any more. -/
def execNarrowReleaseNotice (die ln : Nat) (s : State) : Host.Outcome State Fault Refusal :=
  withUnit (decide (die < Config.dies)) s fun s =>
    if (dieRegions die).any fun r => wcbHas (getR s r) ln then s
    else
      let s := modCist s die fun c => { c with narrow := c.narrow.filter fun p => p.1 != ln }
      if peerLine ln then s else modDir s ln fun d => { d with nh := d.nh &&& ~~~ bit4 die }

/-- The cistern may write a line that it holds. -/
def writable (c : CLine) : Bool := c.st == .exclusive || c.st == .modified || c.st == .mm

/-- Writes bytes, made by the writes `first` to `last`, into a cistern's line that it may write. -/
def writeCLine (s : State) (die ln : Nat) (c : CLine) (d : Line) (m : BitVec 64) (first last : Nat) : State :=
  setCLine s die ln { st := if c.st = .exclusive then .modified else c.st
                      data := keepRo s ln c.data (mergeLine c.data d m)
                      dirty := c.dirty ||| m
                      first := if c.dirty = 0 then first else Nat.min c.first first
                      last := if c.dirty = 0 then last else Nat.max c.last last }

/-- The request for write permission that a die's cistern sends (R365). -/
def askWrite (s : State) (die ln : Nat) : State :=
  let d := getDir s ln
  let walked := (getCist s die).walkers.any fun p => p.1 == ln
  if (cLine s die ln).isSome || d.ts != 0 || walked then askGrant s die ln .rdx else askGrant s die ln .rdmm

/-- The region takes class 1 once for a link loss that it meets (R456). -/
def tellLoss (s : State) (r : Nat) : State :=
  if (getR s r).lossTold then s else raiseAsync (modR s r fun x => { x with lossTold := true }) r 1 0x0C 6 0

/-- Die-to-die fabrics of the route between two dies (R14): 0–1, 2–3, 0–2, 1–3. -/
def dieRoute (a b : Nat) : List Nat :=
  match a, b with
  | 0, 1 | 1, 0 => [0]
  | 2, 3 | 3, 2 => [1]
  | 0, 2 | 2, 0 => [2]
  | 1, 3 | 3, 1 => [3]
  | 0, 3 => [0, 3]
  | 3, 0 => [1, 2]
  | 1, 2 => [0, 2]
  | 2, 1 => [1, 3]
  | _, _ => []

/-- The route between two dies crosses a failed fabric. -/
def dieCut (s : State) (a b : Nat) : Bool := (dieRoute a b).any fun f => s.d2dFailed.contains f

/-- A request from die a to die b, or its answer, crosses a failed fabric (R14, R456). -/
def dieFar (s : State) (a b : Nat) : Bool := dieCut s a b || dieCut s b a

/-! ## Link peers -/

/-- The ports that lead to a device, and whether any of them is up or has been (R472, R473). -/
def routePorts (s : State) (dev : Nat) : List LinkPort :=
  ((upto 18).filter fun p => (tget s.routes dev 0).getLsbD p).map fun p => tget s.links p {}
def peerUp (s : State) (dev : Nat) : Bool := !s.lostPeers.contains dev && (routePorts s dev).any fun p => p.st == .up
def peerNever (s : State) (dev : Nat) : Bool := (routePorts s dev).all fun p => p.st != .up && !p.everUp

/-- The home of a buffered write is out of reach: beyond a failed fabric, or on a lost peer (R456). -/
def writeLost (s : State) (die : Nat) (w : WcbEntry) : Bool :=
  if peerLine w.line then s.lostPeers.contains (lineDev w.line)
  else !w.asked && w.plc != 0 && dieFar s die ((homeOf (64 * w.line) w.plc).1 / 2)

/-- The physical address of a line. -/
def lineAddr (s : State) (ln : Nat) : Nat := if peerLine ln then 64 * (ln - 2 ^ 46) else 64 * ln + s.devid * 2 ^ 47

/-- WRITE_COMBINING_BUFFER_DRAIN (R365): the oldest line moves to the cistern under write permission, or to the home. -/
def drainWcb (s : State) (r : Nat) : State :=
  let x := getR s r
  let die := dieOf r
  match x.wcb with
  | [] => s
  | w :: rest =>
    let home := !dieCaches w.plc die || s.poison.contains w.line || w.asked
    if writeLost s die w then
      tellLoss (logPush (setR s r { x with wcb := rest }) 2 0x0C (ownerOf x) (some r) (lineAddr s w.line) (lineAddr s w.line / 2 ^ 47)) r
    else if home then
      match takeAck s (.wcb r) with
      | some (_, s) => modR s r fun x => { x with wcb := match x.wcb with
          | w :: rest => if w.asked then rest else w :: rest
          | [] => [] }
      | none =>
        let s := modR s r fun x => { x with wcb := { w with asked := true } :: rest }
        askTagged s w.line { plainReq .wrh die with data := w.data, mask := w.mask, uncached := true, tag := .wcb r, stamp := w.first }
    else match cLine s die w.line with
      | some c => if writable c then setR (writeCLine s die w.line c w.data w.mask w.first w.last) r { x with wcb := rest }
        else askWrite s die w.line
      | none => askWrite s die w.line

def execWriteCombiningBufferDrain (r : Nat) (s : State) : Host.Outcome State Fault Refusal :=
  withUnit (regionOk r) s fun s => drainWcb s r

/-! ## Directory errors (R376) -/

/-- What a die answers to a recall: its dirty bytes, with its buffers' narrow writes over them, but for those already on their way. -/
def recallData (s : State) (die ln : Nat) : Line × BitVec 64 :=
  let base : Line × BitVec 64 := match cLine s die ln with | some c => (c.data, c.dirty) | none => (0, 0)
  (dieRegions die).foldl (fun a r =>
    (getR s r).wcb.foldl (fun (a : Line × BitVec 64) w =>
      if w.line = ln ∧ !w.asked then (mergeLine a.1 w.data w.mask, a.2 ||| w.mask) else a) a) base

/-- The die drops its copy and its narrow writes. -/
def recallDrop (s : State) (die ln : Nat) : State :=
  let s := dropCLine s die ln
  let s := (dieRegions die).foldl (fun s r =>
    if wcbHas (getR s r) ln then modR s r fun x => { x with wcb := x.wcb.filter fun w => w.line != ln || w.asked } else s) s
  modCist s die fun c => { c with narrow := c.narrow.filter fun p => p.1 != ln }

/-- The home begins the recall of a line whose entry it cannot correct (R376). -/
def recallBegin (s : State) (ln : Nat) : State :=
  let h := getHome s ln
  match h.tx with
  | some _ => s
  | none =>
    let t : HTx := { req := plainReq .recall 0, pubs := [], tinv := [0, 1, 2, 3]
                     snoops := [0, 1, 2, 3] ++ ((upto 32).filter (peerUp s)).map (32 + ·)
                     answers := [], granted := none, entry := dirBits (getDir s ln) ^^^ Config.dirError s.free }
    setHome { s with free := s.free + 1 } ln { h with tx := some t }

/-- RECALL_INVALIDATE (R376): the first answer begins the recall; each die publishes what it wrote before the line, answers with its
dirty bytes and those of its buffers, and drops its copy. A write-back that is on its way is the answer (R372). -/
def recallAnswer (s : State) (ag ln : Nat) : State :=
  if peerLine ln then s
  else
    let s := recallBegin s ln
    match (getHome s ln).tx with
    | none => s
    | some t =>
      if t.req.kind ≠ .recall ∨ !t.snoops.contains ag ∨ wbPending s ln ag then s
      else
        let p := if 32 ≤ ag then (s, true) else publishDie s ag (lastWrite s ag ln) fun w => w.line == ln
        let s := p.1
        if !p.2 then s
        else
          let ans := if 32 ≤ ag then peerAnswer s else recallData s ag ln
          let s := if 32 ≤ ag then { s with free := s.free + 2 } else recallDrop s ag ln
          let h := getHome s ln
          match h.tx with
          | none => s
          | some t =>
            let t := { t with snoops := t.snoops.filter (· != ag), answers := t.answers ++ [ans]
                              pubs := if ans.2 != 0 then t.pubs ++ [ag] else t.pubs }
            recallOver (setHome s ln { h with tx := some t }) ln

def execRecallInvalidate (ag ln : Nat) (s : State) : Host.Outcome State Fault Refusal :=
  withUnit (decide (ag < Config.dies ∨ (32 ≤ ag ∧ ag < 64))) s fun s => recallAnswer s ag ln

/-! ## What an agent of a region does with a line -/

/-- The outcome of a read, a write or an atomic: done, with data and the cause that reading it raises, or waiting, with
what was asked of the home. -/
inductive Got where
  | done (s : State) (d : Line) (old : Nat) (bad : Option (BitVec 8))
  | wait (s : State)
  deriving DecidableEq, Repr

/-- The kind of memory that a translated access reaches. -/
structure Via where
  pa : Nat
  plc : BitVec 64
  /-- MT is not 0 (R385) -/
  uncached : Bool
  root : Nat
  leafLines : List Nat
  deriving DecidableEq, Repr, Inhabited

/-- A read across a failed link gives poisoned data; a write or an atomic is dropped and logged, and what an atomic returns is
free (R456, log 17). -/
def lostRead (s : State) (r : Nat) : Got := .done (tellLoss s r) 0 0 (some 0x0D)
def lostWrite (s : State) (r pa dev : Nat) : Got :=
  .done { tellLoss (logPush s 2 0x0C (ownerOf (getR s r)) (some r) pa dev) r with free := s.free + 1 } 0
    (Config.peerData s.free).toNat none

/-- The team has accessed a home of a peer (R455). -/
def notePeer (s : State) (r dev : Nat) : State :=
  modR s r fun x => { x with team := x.team.map fun t =>
    { t with peers := if t.peers.contains dev then t.peers else t.peers ++ [dev] } }

/-- Die of the home of an address under its placement (R13, R383). -/
def homeDie (v : Via) : Nat := (homeOf v.pa v.plc).1 / 2

/-- The home of the line is beyond a failed fabric; a peer's is reached over Swiravy. -/
def viaCut (s : State) (r : Nat) (v : Via) : Bool :=
  s.d2dFailed != [] && paDevice v.pa == s.devid && dieFar s (dieOf r) (homeDie v)

/-- A re-stripe window is open for the line (R401): its home is as the engine has moved it (R402). -/
def inWindow (s : State) (ln : Nat) : Bool :=
  match s.rsRun.bind (·.leaf) with
  | some l => let b := lineNo ((l.pte.extractLsb' 12 40).toNat * 2 ^ 12); decide (b ≤ ln ∧ ln < b + l.size / 64)
  | none => false

/-- Notes the home well of a line that an access names; a request under the old placement to a line that has moved is forwarded, and
leaves the home where it is (R402). -/
def noteWell (s : State) (v : Via) : State :=
  let ln := lineNo v.pa
  if paDevice v.pa ≠ s.devid ∨ tfind s.wells ln = some (homeOf v.pa v.plc).1 ∨ (inWindow s ln ∧ (tfind s.wells ln).isSome) then s
  else { s with wells := tset s.wells ln (homeOf v.pa v.plc).1 }

/-! ### Cistern windows -/

/-- What agents wrote before they wrote to a line of a window is published before another agent reads it (R348, R351): of a region of
the reader's die the buffer drains, and another die publishes. -/
def windowSync (s : State) (die : Nat) (r : Option Nat) (ln : Nat) : State × Bool :=
  (tget s.windowBy ln []).foldl (fun (a : State × Bool) w =>
    if !a.2 || r == some w.1 then a
    else if dieOf w.1 = die ∧ r.isSome then
      if (getR a.1 w.1).wcb.any fun e => decide (e.first < w.2) then (drainWcb a.1 w.1, false) else a
    else publishDie a.1 (dieOf w.1) w.2 fun _ => false) (s, true)

/-- A region's write to a line of a window: how many narrow writes came before is noted. -/
def windowNote (s : State) (r ln : Nat) : State :=
  { s with windowBy := tset s.windowBy ln (tset (tget s.windowBy ln []) r s.wseq) }

/-- Bytes of a line of a window are written. -/
def windowStore (s : State) (ln : Nat) (d : Line) (m : BitVec 64) : State :=
  { s with mem := memWriteMask s.mem ln (keepRo s ln (memLine s.mem ln) d) m }

/-! ### Reads -/

/-- A cistern's masked line goes back before the die reads it anew or takes it for itself. -/
def regrant (s : State) (die ln : Nat) (k : ReqKind) : State :=
  let t := evictLine s die ln
  if (cLine t die ln).isSome then t else askGrant t die ln k

/-- A read of a line that a home of this device or of a peer serves. -/
def readShared (s : State) (r : Nat) (v : Via) (pkg : Bool) (tag : ReqTag) : Got :=
  let die := dieOf r
  let ln := lineKey s v.pa
  match otherHolder s r ln with
  | some q => .wait (drainWcb s q)
  | none =>
    if v.uncached || !dieCaches v.plc die then
      if wcbHas (getR s r) ln then .wait (drainWcb s r)
      else match takeAck s tag with
        | some (a, s) => .done s a.data 0 a.bad
        | none => if viaCut s r v then lostRead s r
            else .wait (askTagged (noteWell s v) ln { plainReq .rds die with uncached := true, tag := tag })
    else match cLine s die ln with
      | some c =>
        if pkg && c.st == .mm then .wait (regrant s die ln .rds)
        else .done s (overlay (getR s r) ln c.data) 0 (lineBad s ln)
      | none => if viaCut s r v then lostRead s r else .wait (askGrant (noteWell s v) die ln .rds)

/-- A read of a line by an agent of region r at a scope (R341). The reader's own buffer and cistern hold newer writes; what another
region of the die holds goes to the cistern first (R347, R370). -/
def readLine (s : State) (r : Nat) (v : Via) (pkg : Bool) (tag : ReqTag) : Got :=
  match paClass s v.pa with
  | .peer dev =>
    if s.lostPeers.contains dev then lostRead s r
    else if peerUp s dev then readShared (notePeer s r dev) r v pkg tag else .wait s
  | .window w =>
    if dieFar s (dieOf r) w then lostRead s r
    else
      let ln := lineNo v.pa
      let p := windowSync s (dieOf r) (some r) ln
      if p.2 then .done p.1 (memLine p.1.mem ln) 0 (lineBad p.1 ln) else .wait p.1
  | .gddr => readShared s r v pkg tag
  | _ => .done s 0 0 (some 0x0D)

/-! ### Writes -/

/-- A write sent to the home (R365). -/
def writeHome (s : State) (r : Nat) (v : Via) (d : Line) (m : BitVec 64) (tag : ReqTag) : Got :=
  match takeAck s tag with
  | some (_, s) => .done s 0 0 none
  | none => if viaCut s r v then lostWrite s r v.pa s.devid
    else .wait (askTagged (noteWell s v) (lineKey s v.pa) { plainReq .wrh (dieOf r) with
      data := d, mask := m, uncached := true, tag := tag, stamp := s.wseq })

/-- A write of bytes of a line that a home of this device or of a peer holds. -/
def writeShared (s : State) (r : Nat) (v : Via) (scope : Nat) (d : Line) (m : BitVec 64) (tag : ReqTag) : Got :=
  let die := dieOf r
  let ln := lineKey s v.pa
  match otherHolder s r ln with
  | some q => .wait (drainWcb s q)
  | none =>
    if scope ≤ 1 then .done (bufferWrite s r ln d m (if v.uncached then 0 else v.plc) (v.root, v.leafLines)) 0 0 none
    else if wcbHas (getR s r) ln then .wait (drainWcb s r)
    else if 3 ≤ scope || v.uncached || !dieCaches v.plc die || s.poison.contains ln then writeHome s r v d m tag
    else
      let ask := if viaCut s r v then lostWrite s r v.pa s.devid else .wait (askWrite (noteWell s v) die ln)
      match cLine s die ln with
      | some c => if writable c then .done (writeCLine { s with wseq := s.wseq + 1 } die ln c d m s.wseq s.wseq) 0 0 none else ask
      | none => ask

/-- A write of bytes of a line by an agent of region r at a scope code (R341). -/
def writeLine (s : State) (r : Nat) (v : Via) (scope : Nat) (d : Line) (m : BitVec 64) (tag : ReqTag) : Got :=
  match paClass s v.pa with
  | .peer dev =>
    if s.lostPeers.contains dev then lostWrite s r v.pa dev
    else if peerUp s dev then writeShared (notePeer s r dev) r v scope d m tag else .wait s
  | .window w =>
    if dieFar s (dieOf r) w then lostWrite s r v.pa s.devid
    else .done (windowNote (windowStore s (lineNo v.pa) d m) r (lineNo v.pa)) 0 0 none
  | .gddr => writeShared s r v scope d m tag
  | _ => .done s 0 0 (some 0x0D)

/-! ### Atomics -/

/-- An atomic on a line that a home of this device or of a peer holds. -/
def atomicShared (s : State) (r : Nat) (v : Via) (scope off op size vv cc : Nat) (tag : ReqTag) : Got :=
  let die := dieOf r
  let ln := lineKey s v.pa
  match otherHolder s r ln with
  | some q => .wait (drainWcb s q)
  | none =>
    if wcbHas (getR s r) ln then .wait (drainWcb s r)
    else if 3 ≤ scope || v.uncached || !dieCaches v.plc die || s.poison.contains ln then
      match takeAck s tag with
      | some (a, s) => .done s 0 a.old.toNat a.bad
      | none => if viaCut s r v then lostWrite s r v.pa s.devid
          else .wait (askTagged (noteWell s v) ln { plainReq .ath die with
            off := off, size := size, op := op, v := BitVec.ofNat 64 vv, c := BitVec.ofNat 64 cc, uncached := true, tag := tag, stamp := s.wseq })
    else
      let ask := if viaCut s r v then lostWrite s r v.pa s.devid else .wait (askGrant (noteWell s v) die ln .rdx)
      match cLine s die ln with
      | some c =>
        if c.st = .exclusive ∨ c.st = .modified then
          let a := atomLine c.data off op size vv cc
          .done (writeCLine { s with wseq := s.wseq + 1 } die ln c a.1 (placeBytes off (bytesOf (atomBytes size) 0)).2 s.wseq s.wseq)
            0 a.2 (lineBad s ln)
        else if c.st = .mm then .wait (regrant s die ln .rdx)
        else ask
      | none => ask

/-- An atomic by an agent of region r: in the die's cistern under exclusive ownership up to die, at the home beyond it
(R341, R352, R375). -/
def atomicLine (s : State) (r : Nat) (v : Via) (scope off op size vv cc : Nat) (tag : ReqTag) : Got :=
  match paClass s v.pa with
  | .peer dev =>
    if s.lostPeers.contains dev then lostWrite s r v.pa dev
    else if peerUp s dev then atomicShared (notePeer s r dev) r v scope off op size vv cc tag else .wait s
  | .window w =>
    if dieFar s (dieOf r) w then lostWrite s r v.pa s.devid
    else
      let ln := lineNo v.pa
      let p := windowSync s (dieOf r) (some r) ln
      let a := atomLine (memLine p.1.mem ln) off op size vv cc
      if p.2 then .done (windowNote (windowStore p.1 ln a.1 (BitVec.allOnes 64)) r ln) 0 a.2 none else .wait p.1
  | .gddr => atomicShared s r v scope off op size vv cc tag
  | _ => .done s 0 0 (some 0x0D)

/-! ## Releases -/

/-- A line written by this agent is performed at the point of a scope: not in the region's buffer from die on; from pkg on
not dirty in the die's cistern, its write-back taken by the home, and no masked copy left in a cistern (R341). -/
def lineAt (s : State) (r ln scope : Nat) : Bool :=
  (scope ≤ 1 || !wcbHas (getR s r) ln) &&
    (scope ≤ 2 || ((match cLine s (dieOf r) ln with | some c => c.dirty == 0 | none => true)
      && !wbPending s ln (dieOf r) && (getDir s ln).st != .mm))

/-- Carries a narrow write of a line outwards for a release or TSYNC: the buffer drains, the cistern writes back, and
masked copies are taken back. -/
def pushOut (s : State) (r ln scope : Nat) : State :=
  if scope ≤ 1 then s
  else if wcbHas (getR s r) ln then drainWcb s r
  else if 3 ≤ scope && !lineAt s r ln scope then
    if peerLine ln then
      match cLine s (dieOf r) ln with
      | some c => if c.st = .mm ∧ c.dirty ≠ 0 then (performNarrow publishDie s (dieOf r) ⟨c.first, c.last, ln, none⟩).1
          else evictLine s (dieOf r) ln
      | none => s
    else if (getDir s ln).st = .mm then (takeBack s ln).1
    else if wbPending s ln (dieOf r) then settle (drainWb s ln) ln
    else evictLine s (dieOf r) ln
  else s

end Sys2Proof.Machine
end

