-- ==== Sys2Proof/Machine/Translate.lean ====
section
/-!
DEFINITION. Machine/Translate.lean: the walk of R388 with the checks of R386, R387 and R390, the TLBs and the walk cache
(R391), fault records (R404) and the translation invalidation of a region (R392 to R394).
-/
namespace Sys2Proof.Machine

/-! ## Reads and writes of the package's own engines at the homes -/

/-- The home's copy of a line becomes current for an agent outside every die: the dies that hold narrow writes to it publish, a line
that a cistern owns is shared, and masked copies are merged, as for an RdS (R351, R366). Whether it is done: a request that the home
serves goes first. -/
def homeSync (s : State) (ln : Nat) : State × Bool :=
  let s := grantAck s ln
  if (getHome s ln).tx.isSome then (s, false)
  else
    let p := (upto 4).foldl (fun (a : State × Bool) c =>
      let n := lastWrite a.1 c ln
      if a.2 && n != 0 then publishDie a.1 c n (inCistern ln) else a) (drainWb s ln, true)
    if !p.2 then p
    else
      let s := p.1
      let d := getDir s ln
      if d.st = .mm then takeBack s ln
      else if (d.st = .exclusive ∨ d.st = .modified) ∧ 32 ≤ d.own then
        let s := if d.st = .modified then storeHome { s with free := s.free + 2 } ln (peerAnswer s).1 (BitVec.allOnes 64) else s
        (setDir s ln { d with st := .shared, own := 0 }, true)
      else if d.st = .exclusive ∨ d.st = .modified then match cLine s d.own ln with
        | some c =>
          let s := storeHome s ln c.data c.dirty
          (setDir (setCLine s d.own ln { c with st := .shared, dirty := 0 }) ln { d with st := .shared, own := 0 }, true)
        | none => (s, true)
      else (s, true)

/-- The lines of a window or of memory that an engine reads become current at their homes. -/
def engineSync (s : State) (pa n : Nat) : State × Bool :=
  (upto ((pa % 64 + n + 63) / 64)).foldl (fun (a : State × Bool) i =>
    if !a.2 then a
    else match paClass a.1 (pa + 64 * i) with
      | .gddr => homeSync a.1 (lineNo pa + i)
      | .window w => windowSync a.1 w none (lineNo pa + i)
      | _ => a) (s, true)

/-- n bytes at a physical address of this device, as their homes hold them. -/
def homeBytes (s : State) (pa n : Nat) : List Byte := memBytes s.mem (paLocal pa) n

def homeVal (s : State) (pa n : Nat) : Nat := leVal (homeBytes s pa n)

/-- The lines of an area that a cistern or a buffer holds, or for which a home has an entry or a request. -/
def heldLines (s : State) (pa n : Nat) : List Nat :=
  let a := paLocal pa
  let all := (s.cisterns.flatMap fun c => c.2.lines.map (·.1)) ++ (s.regions.flatMap fun x => x.2.wcb.map (·.line))
    ++ s.dir.map (·.1) ++ s.homes.map (·.1)
  (all.filter fun ln => decide (a < 64 * ln + 64 ∧ 64 * ln < a + n)).eraseDups

/-- An engine's write at sys in one step: every copy is taken back and the bytes stand at their homes; a line that is written whole is no
longer poisoned (R378). Narrow writes that cannot be published yet come after it in the store order. -/
def engineWrite (s : State) (pa : Nat) (bs : List Byte) : State :=
  let a := paLocal pa
  let z := a + bs.length
  let whole := fun ln => decide (a ≤ 64 * ln ∧ 64 * ln + 64 ≤ z)
  let s := (heldLines s pa bs.length).foldl (fun s ln => settle (recallLine (homeSync s ln).1 ln) ln) s
  let lines := (upto ((a % 64 + bs.length + 63) / 64)).map fun i => (wellOf s (a / 64 + i), (a / 64 + i) / 64)
  noteHead { s with mem := memWrite s.mem a bs
                    rows := if paClass s pa == .gddr then s.rows ++ lines.eraseDups.filter (fun w => !s.rows.contains w) else s.rows
                    poison := s.poison.filter fun ln => !whole ln, badCheck := s.badCheck.filter fun ln => !whole ln } (a / 64)

/-- The parts of a write of bytes from a physical address on, line by line. -/
def writeParts (pa : Nat) (bs : List Byte) : List (Nat × Line × BitVec 64) :=
  (upto ((pa % 64 + bs.length + 63) / 64)).map fun i =>
    let lo := if i = 0 then pa % 64 else 0
    let skip := if i = 0 then 0 else 64 * i - pa % 64
    let p := placeBytes lo ((bs.drop skip).take (64 - lo))
    (lineNo pa + i, p.1, p.2)

/-- A write at sys by an engine of the package, number n: WrH requests to the homes of its lines, and whether every home
has acknowledged (R365). -/
def engineStore (s : State) (n pa : Nat) (bs : List Byte) : State × Bool :=
  match paClass s pa with
  | .gddr | .peer _ =>
    let parts := ((writeParts pa bs).map fun p => (p.1 - lineNo pa + lineKey s pa, p.2)).zipIdx
    let tag := fun i => ReqTag.engine (n * 2 ^ 16 + i)
    if parts.all fun p => s.acks.any fun a => a.tag == tag p.2 then
      ({ s with acks := s.acks.filter fun a => !(parts.any fun p => a.tag == tag p.2) }, true)
    else (parts.foldl (fun s p => askTagged s p.1.1 { plainReq .wrh 0 with
        data := p.1.2.1, mask := p.1.2.2, uncached := true, tag := tag p.2 }) s, false)
  | .window _ => ((writeParts pa bs).foldl (fun s p => windowStore s p.1 p.2.1 p.2.2) s, true)
  | _ => (s, true)

/-- Lines of an area that hold translations: before they are written, empty writes at their homes make the invalidations (R369).
Whether none is left. -/
def clearSharers (s : State) (n pa len : Nat) : State × Bool :=
  let a := paLocal pa
  let ls := (s.dir.filter fun p => p.2.ts != 0 && decide (a < 64 * p.1 + 64 ∧ 64 * p.1 < a + len)).map (·.1)
  let mine := fun (t : ReqTag) => match t with | .engine m => m / 2 ^ 16 == n | _ => false
  if ls.isEmpty && !(s.homes.any fun h => h.2.reqs.any (fun q => mine q.tag) || (match h.2.tx with | some t => mine t.req.tag | none => false)) then
    ({ s with acks := s.acks.filter fun a => !mine a.tag }, true)
  else ((ls.zipIdx).foldl (fun s p =>
    if reqPending s p.1 fun q => mine q.tag then s
    else postReq s p.1 { plainReq .wrh 0 with uncached := true, tag := .engine (n * 2 ^ 16 + p.2) }) s, false)

/-! ## Accesses and faults -/

/-- How a walk goes on: a line that must be read first, a fault with its level, or a leaf. -/
inductive WalkStep where
  | need (ln : Nat)
  | fault (cause : BitVec 8) (level : Nat)
  | leaf (x : Xlat) (level : Nat)
  deriving DecidableEq, Repr, Inhabited

/-! ## Entries -/

def pteBit (p : BitVec 64) (j : Nat) : Bool := p.getLsbD j
def ptePa (p : BitVec 64) : Nat := (p.extractLsb' 12 40).toNat * 2 ^ 12
def ptePlc (p : BitVec 64) : Nat := (p.extractLsb' 52 4).toNat
def pteMt (p : BitVec 64) : Nat := (p.extractLsb' 56 3).toNat

/-- A page-table entry at a level has a reserved value (R386). -/
def pteReserved (s : State) (p : BitVec 64) (lev : Nat) : Bool :=
  let t := pteBit p 1
  pteBit p 11 || pteBit p 59 || pteBit p 63
    || (!t && decide (4 ≤ lev)) || (t && lev == 1)
    || (t && (p.extractLsb' 2 9 != 0 || p.extractLsb' 52 7 != 0 || paClass s (ptePa p) != .gddr))
    || (!t && (decide (3 ≤ pteMt p) || (pteBit p 3 && !pteBit p 2) || (pteBit p 9 && lev == 3)))
    || (!t && lev == 3 && p.extractLsb' 12 18 != 0) || (!t && lev == 2 && p.extractLsb' 12 9 != 0)

/-- An address-space entry has a reserved value (R386). -/
def asReserved (s : State) (e : BitVec 512) : Bool :=
  let root := (e.extractLsb' 64 52).toNat
  let plct := (e.extractLsb' 128 52).toNat
  e.extractLsb' 180 332 != 0 || e.extractLsb' 116 12 != 0 || e.extractLsb' 15 49 != 0 || e.extractLsb' 1 7 != 0
    || paClass s root != .gddr || paClass s plct != .gddr || root % 4096 != 0 || plct % 128 != 0

/-- A placement descriptor has a reserved value (R386). -/
def plcReserved (d : BitVec 64) : Bool :=
  d.extractLsb' 30 34 != 0 || decide (2 ≤ (d.extractLsb' 28 2).toNat) || decide (2 ≤ (d.extractLsb' 26 2).toNat)
    || decide (2 ≤ (d.extractLsb' 24 2).toNat) || decide (9 ≤ (d.extractLsb' 20 4).toNat) || d.extractLsb' 18 2 == 3
    || d.extractLsb' 14 4 == 0 || d.extractLsb' 6 8 == 0 || d.extractLsb' 0 2 != 0

/-- A leaf permits an access (R390). -/
def permitted (p : BitVec 64) (a : XReq) : Bool :=
  (!a.user || pteBit p 5)
    && (if a.kind = 0 then pteBit p 2
        else if a.kind = 1 then pteBit p 3
        else if a.kind = 2 then pteBit p 3 && decide (pteMt p ≤ 1)
        else pteBit p 4 && pteMt p == 0)
    && (pteMt p != 2 || a.device)

/-- Doubleword of a line. -/
def lineDword (l : Line) (pa : Nat) : BitVec 64 := (l >>> (8 * (pa % 64))).setWidth 64

/-- The contiguous group of a leaf is consistent (R387): `ent j` is entry j of its aligned group of 16. -/
def groupOk (ent : Nat → BitVec 64) (lev : Nat) : Bool :=
  let z := 2 ^ (12 + 9 * (lev - 1))
  let e0 := ent 0
  let same := fun (p : BitVec 64) => (p.extractLsb' 52 12, p.extractLsb' 8 4, p.extractLsb' 0 6)
  (upto 16).all (fun j =>
    let p := ent j
    pteBit p 0 && pteBit p 9 && !pteBit p 1 && same p == same e0 && ptePa p == ptePa e0 + j * z)
    && ptePa e0 % (16 * z) == 0

/-! ## The walk (R388) -/

/-- Level index of a virtual address (R379). -/
def vaIndex (va lev : Nat) : Nat := va / 2 ^ (9 * lev + 3) % 512

/-- The address bits above a level's index: what a walk-cache entry of that level is tagged with (R391). -/
def vaTag (va lev : Nat) : Nat := va / 2 ^ (9 * lev + 3)

/-- Leaf of R388. -/
def walkLeaf (s : State) (rd : Nat → Option Line) (va : Nat) (pteAddr : Nat) (pte : BitVec 64) (lev : Nat) (e : BitVec 512)
    (a : XReq) : WalkStep :=
  let da := (e.extractLsb' 128 52).toNat + 8 * ptePlc pte
  match rd (lineNo da) with
  | none => .need (lineNo da)
  | some l =>
    let d := lineDword l da
    if plcReserved d then .fault 0x08 0
    else if !permitted pte a then .fault 0x07 lev
    else if pteBit pte 10 && !a.probe then .fault 0x09 lev
    else
      let z := 2 ^ (12 + 9 * (lev - 1))
      let base := pteAddr / 128 * 128
      let l0 := lineNo base
      let fin := fun (z : Nat) (lines : List Nat) =>
        let fr := ptePa pte - ptePa pte % z
        let pa := fr + va % z
        match paClass s pa with
        | .reserved => WalkStep.fault 0x06 0
        | .peer dev => if peerNever s dev then .fault 0x06 0
            else .leaf ⟨va - va % z, z, fr, pte, d, (e.extractLsb' 64 52).toNat, a.asid, a.owner, lines⟩ lev
        | _ => .leaf ⟨va - va % z, z, fr, pte, d, (e.extractLsb' 64 52).toNat, a.asid, a.owner, lines⟩ lev
      if pteBit pte 9 then
        match rd l0, rd (l0 + 1) with
        | none, _ => .need l0
        | _, none => .need (l0 + 1)
        | some x, some y =>
          let ent := fun j => lineDword (if j < 8 then x else y) (8 * j)
          if groupOk ent lev then fin (16 * z) [l0, l0 + 1] else fin z [lineNo pteAddr]
      else fin z [lineNo pteAddr]

/-- The levels from `lev` down; `cached` is what the walk cache supplies. -/
def walkTable (s : State) (rd : Nat → Option Line) (cached : Nat → Option (BitVec 64)) (va : Nat) (e : BitVec 512) (a : XReq) :
    Nat → Nat → WalkStep
  | 0, _ => .fault 0x06 1
  | lev + 1, tbl =>
    let pa := tbl + 8 * vaIndex va (lev + 1)
    let got := match cached (lev + 1) with
      | some p => some p
      | none => (rd (lineNo pa)).map fun l => lineDword l pa
    match got with
    | none => .need (lineNo pa)
    | some pte =>
      if !pteBit pte 0 then .fault 0x06 (lev + 1)
      else if pteReserved s pte (lev + 1) then .fault 0x08 (lev + 1)
      else if !pteBit pte 1 then walkLeaf s rd va pa pte (lev + 1) e a
      else walkTable s rd cached va e a lev (ptePa pte)

/-- Translate of R388. -/
def walk (s : State) (rd : Nat → Option Line) (cached : Nat → Nat → Option (BitVec 64)) (va : Nat) (a : XReq) : WalkStep :=
  let ea := s.asTable + 64 * a.asid
  match rd (lineNo ea) with
  | none => .need (lineNo ea)
  | some e =>
    if s.asCount ≤ a.asid || !e.getLsbD 0 then .fault 0x06 6
    else if asReserved s e then .fault 0x08 6
    else if (e.extractLsb' 8 7).toNat ≠ a.owner then .fault 0x07 6
    else walkTable s rd (cached (e.extractLsb' 64 52).toNat) va e a 5 (e.extractLsb' 64 52).toNat

/-! ## TLBs -/

/-- A cached translation serves an access (R391). -/
def xlatHit (x : Xlat) (asid owner va : Nat) : Bool :=
  decide (x.va ≤ va) && decide (va < x.va + x.size) && x.owner == owner && (x.asid == asid || pteBit x.pte 8)

/-- The level of a cached leaf, for a fault record. -/
def xlatLevel (x : Xlat) : Nat := if x.size < 2 ^ 21 then 1 else if x.size < 2 ^ 30 then 2 else 3

/-- Adds an entry to a TLB of n entries; which one it replaces is free (log 11). -/
def tlbAdd (n : Nat) (l : List Xlat) (x : Xlat) (free : Nat) : List Xlat :=
  let l := l.filter (· != x)
  if l.length < n then x :: l else x :: l.eraseIdx (Config.evictChoice free % l.length)

/-- A translation invalidation of the line is on its way to a die (R369). -/
def invalidating (s : State) (die ln : Nat) : Bool :=
  match (getHome s ln).tx with | some t => t.tinv.contains die | none => false

/-- The walk-cache entry of a region (R391). -/
def walkCached (x : Region) (va root lev : Nat) : Option (BitVec 64) :=
  (x.walkCache.find? fun w => w.root == root && w.lev == lev && w.tag == vaTag va lev).map (·.pte)

/-- Records a line of a walk (R392): `root` names the root of which it is a non-leaf line. -/
def recordWalk (x : Region) (ln : Nat) (root : Option Nat) : Region :=
  if x.walkRec.contains ⟨ln, root⟩ then x else { x with walkRec := x.walkRec ++ [⟨ln, root⟩] }

/-- The table entries that a walk of va reads, with their lines, from `lev` down (R391, R392): of an entry that the walk cache supplies
the record and the cache have kept the line already. -/
def walkPath (rd : Nat → Option Line) (cached : Nat → Option (BitVec 64)) (root va : Nat) : Nat → Nat → List WalkEntry
  | 0, _ => []
  | lev + 1, tbl =>
    let pa := tbl + 8 * vaIndex va (lev + 1)
    match cached (lev + 1) with
    | some p => walkPath rd cached root va lev (ptePa p)
    | none => match rd (lineNo pa) with
      | none => []
      | some l =>
        let pte := lineDword l pa
        if pteBit pte 0 && pteBit pte 1 then
          ⟨root, lev + 1, vaTag va (lev + 1), pte, lineNo pa⟩ :: walkPath rd cached root va lev (ptePa pte)
        else []

/-- Records the non-leaf lines of a walk, whether or not it has come to an end (R392): the address-space entry, the table entries, and
every other line read that is no line of the leaf. -/
def recordRun (g : Region) (w : WalkRun) (root : Nat) (leaf : List Nat) : Region :=
  let g := (w.got.filter fun p => !leaf.contains p.1).foldl (fun g p => recordWalk g p.1 (some root)) g
  leaf.foldl (fun g ln => recordWalk g ln none) g

/-- What a finished walk leaves in a region: its records, its walk cache and its TLB (R391, R392). -/
def installWalk (s : State) (r : Nat) (w : WalkRun) (x : Xlat) : State :=
  modR { s with free := s.free + 1 } r fun g =>
    let rd := fun ln => tfind w.got ln
    let path := walkPath rd (walkCached g x.va x.root) x.root x.va 5 x.root
    let wc := path.foldl (fun l w => if l.contains w then l
      else if l.length < 64 then w :: l else w :: l.eraseIdx (Config.evictChoice s.free % 64)) g.walkCache
    { recordRun g w x.root x.leafLines with walkCache := wc, tlb := tlbAdd 4096 g.tlb x s.free }

/-! ## Fault records (R404) -/

def faultRecord (va iter asid : Nat) (cause : BitVec 8) (level kind src site unit func : Nat) : BitVec 256 :=
  BitVec.ofNat 256 (func * 2 ^ 30 + unit * 2 ^ 37 + site * 2 ^ 41 + src * 2 ^ 46 + kind * 2 ^ 50 + level * 2 ^ 53
    + cause.toNat * 2 ^ 56 + asid * 2 ^ 112 + iter % 2 ^ 64 * 2 ^ 128 + va % 2 ^ 64 * 2 ^ 192)

/-- Posts a record to a region's fault queue; one that finds it full is dropped. -/
def postFault (s : State) (r : Nat) (rec_ : BitVec 256) : State :=
  modR s r fun x => if x.faultq.length < 16 then { x with faultq := x.faultq ++ [rec_] } else { x with ovf := true }

/-! ## Translation by a unit of a region -/

/-- A translation: done, waiting for a Walk, or a fault with its level. -/
inductive XGot where
  | ok (s : State) (x : Xlat)
  | wait (s : State)
  | fault (s : State) (cause : BitVec 8) (level : Nat)
  deriving DecidableEq, Repr

/-- The checks that a cached translation makes on each access (R380, R390). -/
def xlatCheck (s : State) (x : Xlat) (va : Nat) (a : XReq) : Option (BitVec 8 × Nat) :=
  if !permitted x.pte a then some (0x07, xlatLevel x)
  else match paClass s (x.pa + (va - x.va)) with
    | .reserved => some (0x06, 0)
    | .peer dev => if peerNever s dev then some (0x06, 0) else none
    | _ => none

/-- Walks that a region runs at once (R391). -/
def maxWalks : Nat := 8

/-- The tag of a walk's requests. -/
def walkTag (r : Nat) (w : WalkRun) : ReqTag := .walk r (w.va / 4096) w.req.asid w.req.owner

/-- How a walk goes on with the lines that it has. -/
def runStep (s : State) (g : Region) (w : WalkRun) (va : Nat) (a : XReq) : WalkStep :=
  walk s (fun ln => tfind w.got ln) (walkCached g va) va a

/-- A walk takes the answer of its Walk request, or sends the next one (R389); the access that began it is answered once it ends. -/
def advanceRun (s : State) (r : Nat) (w : WalkRun) : State × WalkRun :=
  match runStep s (getR s r) w w.va w.req with
  | .need ln => match takeAck s (walkTag r w) with
    | some (a, s) => (s, { w with got := tset w.got a.line a.data })
    | none => (askTagged s ln { plainReq .walk (dieOf r) with region := r, tag := walkTag r w }, w)
  | _ => (s, { w with fin := true })

/-- Every walk of a region goes on. -/
def advanceWalks (s : State) (r : Nat) : State :=
  (getR s r).walks.foldl (fun s w =>
    let p := advanceRun s r w
    modR p.1 r fun g => { g with walks := g.walks.map fun v => if v = w then p.2 else v }) s

def dropWalk (s : State) (r : Nat) (w : WalkRun) : State := modR s r fun g => { g with walks := g.walks.filter (· != w) }

/-- A walk for an address begins, once one of the places is free; a walk that has ended and was not asked for again leaves its place. -/
def beginWalk (s : State) (r va : Nat) (a : XReq) : State :=
  modR s r fun g =>
    let l := if g.walks.length < maxWalks then g.walks else removeFirst (·.fin) g.walks
    if l.length < maxWalks then { g with walks := l ++ [⟨va, a, [], false⟩] } else g

/-- Root of the address space whose entry a walk has read. -/
def runRoot (s : State) (w : WalkRun) : Nat :=
  match tfind w.got (lineNo (s.asTable + 64 * w.req.asid)) with | some e => (e.extractLsb' 64 52).toNat | none => 0

/-- Translates through the region TLB, or walks. -/
def translate (s : State) (r : Nat) (va : Nat) (a : XReq) : XGot :=
  if 2 ^ 57 ≤ va then .fault s 0x06 5
  else
    match (getR s r).tlb.find? fun x => xlatHit x a.asid a.owner va with
    | some x => match xlatCheck s x va a with
      | some (c, l) => .fault s c l
      | none => .ok s x
    | none =>
      let s := advanceWalks s r
      let g := getR s r
      match g.walks.find? fun w => w.va / 4096 == va / 4096 && w.req.asid == a.asid && w.req.owner == a.owner with
      | none => .wait (beginWalk s r va a)
      | some w => match runStep s g w va a with
        | .need _ => .wait (if w.fin then modR s r fun g => { g with walks := g.walks.map fun v => if v = w then { w with va := va, req := a, fin := false } else v } else s)
        | .fault c l => .fault (modR (dropWalk s r w) r fun g => recordRun g w (runRoot s w) []) c l
        | .leaf x _ => .ok (installWalk (dropWalk s r w) r w x) x

/-- What a translated address reaches. -/
def viaOf (x : Xlat) (va : Nat) : Via :=
  { pa := x.pa + (va - x.va), plc := x.plc, uncached := pteMt x.pte != 0, root := x.root, leafLines := x.leafLines }

/-! ## Translation invalidation (R393) -/

/-- A translation must go when line L is invalidated: L is one of its leaf lines, or a non-leaf line of its root. -/
def xlatDerived (g : Region) (ln : Nat) (x : Xlat) : Bool :=
  x.leafLines.contains ln || g.walkRec.contains ⟨ln, some x.root⟩

def viaDerived (g : Region) (ln : Nat) (v : Nat × List Nat) : Bool :=
  v.2.contains ln || g.walkRec.contains ⟨ln, some v.1⟩

end Sys2Proof.Machine
end

