-- ==== Sys2Proof/Machine/ElemMem.lean ====
section
/-!
DEFINITION. Machine/ElemMem.lean: the memory instructions of the element as they fire (R200 to R225, R355, R396): address
formation, the checks of the firing beat, and the accesses that they leave outstanding.
-/
namespace Sys2Proof.Machine

/-! ## Buffer records (R200, R201) -/

def recBase (b : BitVec 256) : Nat := (b.extractLsb' 0 57).toNat
def recExtent (b : BitVec 256) : Nat := (b.extractLsb' 64 40).toNat
def recStride1 (b : BitVec 256) : Int := sext 32 (b.extractLsb' 104 32).toNat
def recStride2 (b : BitVec 256) : Int := sext 32 (b.extractLsb' 136 32).toNat
def recFmt (b : BitVec 256) : Nat := (b.extractLsb' 168 5).toNat
def recBounds (b : BitVec 256) : Nat := (b.extractLsb' 173 2).toNat
def recScope (b : BitVec 256) : Nat := (b.extractLsb' 175 3).toNat
def recPolicy (b : BitVec 256) : Nat := (b.extractLsb' 178 3).toNat
def recSpace (b : BitVec 256) : Nat := (b.extractLsb' 181 2).toNat

/-- The element that owns the scratchpad that a record names (R202). -/
def recTarget (key : Nat) (b : BitVec 256) : Nat :=
  if recSpace b = 2 then ekey (keyRegion key) (recBase b / 2 ^ 20 % 32) (recBase b / 2 ^ 16 % 16) else key

/-- A record holds a reserved value (R201). -/
def recReserved (x : Region) (b : BitVec 256) : Bool :=
  recSpace b == 3 || decide (4 ≤ recPolicy b) || decide (5 ≤ recScope b) || recBounds b == 3 || decide (0x14 ≤ recFmt b)
    || b.extractLsb' 183 73 != 0 || b.extractLsb' 57 7 != 0
    || (recSpace b == 1 && (decide (2 ^ 16 ≤ recBase b) || decide (65536 < recBase b % 2 ^ 16 + recExtent b)))
    || (recSpace b == 2 && (decide (2 ^ 25 ≤ recBase b) || !siteOk x (recBase b / 2 ^ 20)
        || decide (65536 < recBase b % 2 ^ 16 + recExtent b)))

/-! ## Address formation (R202) -/

inductive AddrRes where
  | trap (cause : BitVec 8) (addr : Nat)
  | skip
  | at_ (addr : Nat)
  deriving DecidableEq, Repr, Inhabited

/-- MemAddr from the exact offset on. -/
def memAddr (x : Region) (key : Nat) (b : BitVec 256) (spaces : List Nat) (o : Int) (size : Nat) : AddrRes :=
  let sp := recSpace b
  let base := if sp = 0 then recBase b else recBase b % 2 ^ 16
  if !spaces.contains sp then .trap 2 0
  else
    let fin := fun (o : Nat) =>
      let a := base + o
      if a % size ≠ 0 then AddrRes.trap 4 a
      else if sp = 0 && decide (2 ^ 57 ≤ a) then .trap 6 a
      else if sp ≠ 0 && (decide (spadSize x ≤ a) || !siteOk x (keySite (recTarget key b))) then .trap 5 a
      else .at_ a
    if o < 0 ∨ (recExtent b : Int) < o + size then
      if recBounds b = 0 then .trap 5 (wrap 64 (base + o))
      else if recBounds b = 2 ∨ recExtent b < size then .skip
      else fin (if o < 0 then 0 else recExtent b - size)
    else fin o.toNat

/-- The offset of beat k (R202). -/
def recOffset (b : BitVec 256) (a : Vec) (imm : Int) (k u : Nat) : Int :=
  let l := fun j => sext 32 (laneOf 32 a.toNat j)
  l 0 * recStride1 b + l 1 * recStride2 b + l 2 + imm + (u * k : Nat)

/-- The offset of lane j of LDG and STS (R219). -/
def laneOffset (b : BitVec 256) (w : Nat) (a : Vec) (imm : Int) (j : Nat) : Int :=
  sext w (laneOf w a.toNat j) * recStride1 b + imm

/-- off6 (R71). -/
def offBytes (o : BitVec 6) : Int := 16 * o.toInt

/-! ## Issue -/

/-- The record, chain, scope, policy and sizes of a memory instruction. -/
structure MemOp where
  kind : AccKind
  rec_ : Nat
  chain : Option (Nat × Bool)
  scope : Scope
  policy : Policy
  spaces : List Nat
  size : Nat
  dest : AccDest
  deriving DecidableEq, Repr, Inhabited

/-- UnitReady of a memory instruction (R204, R205, R396): entries, chain, and no TSYNC outstanding. -/
def memReady (e : Elem) (m : MemOp) (n : Nat) : Bool :=
  (!takesLoad m.kind || decide (loadsUsed e + n ≤ 32)) && (!takesStore m.kind || decide (storesUsed e + n ≤ 16))
    && (match m.chain with
      | some (c, true) => !chainBusy e c
      | some (c, false) => !chainWriteBusy e c
      | none => true)
    && e.accs.all fun a => a.kind != .tsync

/-- An outstanding access. -/
def newAccess (x : Ctx) (e : Elem) (m : MemOp) (k : Nat) (o : BeatOps) (b : BitVec 256) (data : Vec) (lanes : List AccLane) :
    Access :=
  { id := e.nextAcc, kind := m.kind, slot := x.slot, beat := k, word := x.word, ops := [o.a, o.b, o.c], dest := m.dest,
    chain := m.chain, scope := m.scope, policy := m.policy, space := recSpace b, target := recTarget x.key b,
    size := m.size, data := data, fired := x.cycle + k * x.cpb, lanes := lanes, cur := 0, accepted := none, raised := [],
    sentOff := false, asked := false, noAlloc := false, barred := [], parked := false, fault := none,
    bind := match m.dest with | .chan k => bindOf e k | _ => 0
    tag := match m.dest with | .chan k => otag e k | _ => 0
    recs := match m.dest with | .chan _ => e.recs | _ => [], sample := x.sample }

/-- The access joins the element's tables; a register that it loads becomes pending (R111). -/
def issue (e : Elem) (a : Access) : Elem :=
  let e := { e with accs := e.accs ++ [a], nextAcc := e.nextAcc + 1 }
  match a.dest with
  | .reg c => setPend e c
  | _ => e

/-- The translation that the L1 TLB holds for a virtual address of a plain access (R391). -/
def l1Xlat (x : Ctx) (e : Elem) (addr : Nat) : Option Xlat :=
  e.tlb.find? fun t => xlatHit t (asidOf x.region) (ownerOf x.region) addr

/-- An ATOM of the element has not been translated yet: the line that it invalidates is not known (R207). -/
def atomUnknown (e : Elem) : Bool :=
  e.accs.any fun a => a.space == 0 && (match a.kind with | .atom .. => true | _ => false) && a.lanes.any fun l => l.xlat.isNone && l.got.isNone

/-- A plain load looks up the L1 in its firing cycle (R358), where the L1 TLB translates its address: whether it has looked, and
what the L1 serves (R207, R350). A page of memory type 1 is not looked up (R385). -/
def l1Serve (x : Ctx) (e : Elem) (m : MemOp) (addr size : Nat) : Bool × Option Vec :=
  if m.policy = .cg || !(m.kind == .ld || m.kind == .ldg) then (true, none)
  else match l1Xlat x e addr with
    | some t =>
      let pa := t.pa + (addr - t.va)
      if permitted t.pte ⟨asidOf x.region, ownerOf x.region, true, 0, false, false⟩ && pteMt t.pte == 0 && !atomUnknown e then
        (true, (e.l1.find? fun c => c.line == pa / 64).map fun c => BitVec.ofNat 128 (leVal (lineBytes c.data (pa % 64) size)))
      else (true, none)
    | none => (false, none)

/-- One address of an access as it fires. -/
def newLane (x : Ctx) (e : Elem) (m : MemOp) (space j addr : Nat) : AccLane :=
  let l := if space = 0 then l1Serve x e m addr m.size else (true, none)
  ⟨j, addr, false, none, l.1, l.2⟩

/-- A beat of an instruction with one address: MemAddr, the seal check of the owner's own writes (R210), and the
access. Skip is performed as it fires, but for the zero that a load delivers (R202). -/
def memBeat (x : Ctx) (e : Elem) (m : MemOp) (k u : Nat) (imm : Int) (o : BeatOps) (data : Vec) : BeatRes :=
  let b := tget e.recs m.rec_ 0
  match memAddr x.region x.key b m.spaces (recOffset b o.a imm k u) m.size with
  | .trap c a => ⟨e, 0, 0, [], some ⟨c, 0, a⟩⟩
  | .skip =>
    if takesLoad m.kind then ⟨issue e (newAccess x e m k o b data [⟨0, 0, true, none, true, some 0⟩]), 0, 0, [], none⟩
    else ⟨e, 0, 0, [], none⟩
  | .at_ a =>
    if recSpace b = 1 && takesStore m.kind && (e.seals.any fun p => p.2.sealed && decide (p.2.lo ≤ a / 16 * 16 ∧ a / 16 * 16 < p.2.hi)) then
      ⟨e, 0, 0, [], some ⟨7, 0, a⟩⟩
    else ⟨issue e (newAccess x e m k o b data [newLane x e m (recSpace b) 0 a]), 0, 0, [], none⟩

/-- Fires a memory instruction. -/
def fireMem (i : Instr) (m : MemOp) (exe : Exe) (s : State) : Host.Outcome State Fault Refusal :=
  match i.form with
  | none => .next s
  | some f =>
    let ctx := match f.chan with | some k => otagCtx (getE s (focusKey s)) k.val | none => 0
    .next (fireForm f 1 f.hdr.ty.width (memReady (getE s (focusKey s)) m f.hdr.beats.count) ctx noCarry exe (fun _ t => t) s)

/-- Where a load's data goes. -/
def destOf : Opnd → AccDest
  | .f n => .reg n.val
  | .q j => .chan j.val
  | _ => .none

/-! ## Loads and stores (R217, R218) -/

/-- LD. -/
def execLd (h : Hdr) (d a : Opnd) (off : BitVec 6) (rc : BitVec 3) (ch : BitVec 2) (sc : Scope) (pol : Policy) (s : State) :
    Host.Outcome State Fault Refusal :=
  let m : MemOp := ⟨.ld, rc.toNat, some (ch.toNat, false), sc, pol, [0, 1], 16, destOf d⟩
  fireMem (.ld h d a off rc ch sc pol) m (fun x e k o _ => memBeat x e m k 16 (offBytes off) o 0) s

/-- ST. -/
def execSt (h : Hdr) (d a : Opnd) (off : BitVec 6) (rc : BitVec 3) (ch : BitVec 2) (sc : Scope) (pol : Policy) (s : State) :
    Host.Outcome State Fault Refusal :=
  let m : MemOp := ⟨.st, rc.toNat, some (ch.toNat, true), sc, pol, [0, 1, 2], 16, .none⟩
  fireMem (.st h d a off rc ch sc pol) m (fun x e k o _ => memBeat x e m k 16 (offBytes off) o o.d) s

/-- LDF, keeping the full-empty bit. -/
def execLdfKeep (h : Hdr) (d a : Opnd) (off : BitVec 6) (rc : BitVec 3) (ch : BitVec 2) (s : State) :
    Host.Outcome State Fault Refusal :=
  let m : MemOp := ⟨.ldf false, rc.toNat, some (ch.toNat, false), .e, .dflt, [1], 16, destOf d⟩
  fireMem (.ldfKeep h d a off rc ch) m (fun x e k o _ => memBeat x e m k 0 (offBytes off) o 0) s

/-- LDF, clearing the full-empty bit. -/
def execLdfClr (h : Hdr) (d a : Opnd) (off : BitVec 6) (rc : BitVec 3) (ch : BitVec 2) (s : State) :
    Host.Outcome State Fault Refusal :=
  let m : MemOp := ⟨.ldf true, rc.toNat, some (ch.toNat, false), .e, .dflt, [1], 16, destOf d⟩
  fireMem (.ldfClr h d a off rc ch) m (fun x e k o _ => memBeat x e m k 0 (offBytes off) o 0) s

/-- STF. -/
def execStf (h : Hdr) (d a : Opnd) (off : BitVec 6) (rc : BitVec 3) (ch : BitVec 2) (s : State) :
    Host.Outcome State Fault Refusal :=
  let m : MemOp := ⟨.stf, rc.toNat, some (ch.toNat, true), .e, .dflt, [1, 2], 16, .none⟩
  fireMem (.stf h d a off rc ch) m (fun x e k o _ => memBeat x e m k 16 (offBytes off) o o.d) s

/-- LDR (R211). -/
def execLdr (h : Hdr) (d a : Opnd) (off : BitVec 6) (rc : BitVec 3) (ch : BitVec 2) (s : State) :
    Host.Outcome State Fault Refusal :=
  let m : MemOp := ⟨.ldr, rc.toNat, some (ch.toNat, false), .e, .dflt, [2], 16, destOf d⟩
  fireMem (.ldr h d a off rc ch) m (fun x e k o _ => memBeat x e m k 16 (offBytes off) o 0) s

/-- FESET (R223). -/
def fesetOp (full : Bool) (rc : BitVec 3) (ch : BitVec 2) : MemOp :=
  ⟨.feset full, rc.toNat, some (ch.toNat, true), .e, .dflt, [1, 2], 16, .none⟩

def execFesetEmpty (h : Hdr) (a : Opnd) (off : BitVec 6) (rc : BitVec 3) (ch : BitVec 2) (s : State) :
    Host.Outcome State Fault Refusal :=
  fireMem (.fesetEmpty h a off rc ch) (fesetOp false rc ch)
    (fun x e k o _ => memBeat x e (fesetOp false rc ch) k 16 (offBytes off) o 0) s

def execFesetFull (h : Hdr) (a : Opnd) (off : BitVec 6) (rc : BitVec 3) (ch : BitVec 2) (s : State) :
    Host.Outcome State Fault Refusal :=
  fireMem (.fesetFull h a off rc ch) (fesetOp true rc ch)
    (fun x e k o _ => memBeat x e (fesetOp true rc ch) k 16 (offBytes off) o 0) s

/-- No miss in flight allocates a physical line, and the L1 does not hold it: an ATOM is about to change it (R207, R352). -/
def barLine (e : Elem) (ln : Nat) : Elem :=
  { e with l1 := e.l1.filter fun c => c.line != ln, accs := e.accs.map fun a => { a with barred := ln :: a.barred } }

/-- An ATOM in space 0 invalidates its line as it fires, where the L1 TLB gives the line; otherwise once it is translated, and
until then the L1 serves no load of the element (R207). -/
def atomIssue (x : Ctx) (r : BeatRes) : BeatRes :=
  match r.elem.accs.getLast? with
  | some a => match a.lanes with
    | l :: _ => if a.space = 0 ∧ !l.skip ∧ r.trap = none then
        match l1Xlat x r.elem l.addr with
        | some t => { r with elem := barLine r.elem ((t.pa + (l.addr - t.va)) / 64) }
        | none => r
      else r
    | [] => r
  | none => r

/-- ATOM (R220): the address takes no offset; D is the operand and the comparand. -/
def execAtom (h : Hdr) (d a : Opnd) (op : BitVec 4) (size : BitVec 2) (rc : BitVec 3) (ch : BitVec 2) (sc : Scope) (s : State) :
    Host.Outcome State Fault Refusal :=
  let m : MemOp := ⟨.atom op.toNat size.toNat, rc.toNat, some (ch.toNat, true), sc, .dflt, [0, 1], atomBytes size.toNat, destOf d⟩
  fireMem (.atom h d a op size rc ch sc) m (fun x e k o _ => atomIssue x (memBeat x e m k 0 0 o o.d)) s

/-! ## LDG and STS (R219) -/

/-- The lanes of a beat in ascending order, up to the first that traps. -/
def gatherLanes (x : Ctx) (e : Elem) (m : MemOp) (b : BitVec 256) (w : Nat) (a : Vec) (imm : Int) :
    Nat → Nat → List AccLane × Option BeatTrap
  | 0, _ => ([], none)
  | n + 1, j =>
    match memAddr x.region x.key b m.spaces (laneOffset b w a imm j) m.size with
    | .trap c ad => ([], some ⟨c, 0, ad⟩)
    | r =>
      let rest := gatherLanes x e m b w a imm n (j + 1)
      match r with
      | .at_ ad =>
        if recSpace b = 1 && takesStore m.kind && (e.seals.any fun p => p.2.sealed && decide (p.2.lo ≤ ad / 16 * 16 ∧ ad / 16 * 16 < p.2.hi)) then
          ([], some ⟨7, 0, ad⟩)
        else (newLane x e m (recSpace b) j ad :: rest.1, rest.2)
      | _ => (⟨j, 0, true, none, true, some 0⟩ :: rest.1, rest.2)

/-- One beat of LDG or STS: the lanes below a trapping lane keep their effect. -/
def gatherBeat (x : Ctx) (e : Elem) (m : MemOp) (w k : Nat) (imm : Int) (o : BeatOps) (data : Vec) : BeatRes :=
  let b := tget e.recs m.rec_ 0
  let r := gatherLanes x e m b w o.a imm (128 / w) 0
  let lost := r.2.isSome && (match m.dest with | .chan _ => true | _ => false)
  let e := if r.1 = [] || lost then e else issue e (newAccess x e m k o b data r.1)
  ⟨e, 0, 0, [], r.2⟩

/-- LDG. -/
def execLdg (h : Hdr) (d a : Opnd) (off : BitVec 6) (rc : BitVec 3) (ch : BitVec 2) (sc : Scope) (pol : Policy) (s : State) :
    Host.Outcome State Fault Refusal :=
  let m : MemOp := ⟨.ldg, rc.toNat, some (ch.toNat, false), sc, pol, [0, 1], h.ty.width / 8, destOf d⟩
  fireMem (.ldg h d a off rc ch sc pol) m (fun x e k o _ => gatherBeat x e m h.ty.width k (offBytes off) o 0) s

/-- STS. -/
def execSts (h : Hdr) (d a : Opnd) (off : BitVec 6) (rc : BitVec 3) (ch : BitVec 2) (sc : Scope) (pol : Policy) (s : State) :
    Host.Outcome State Fault Refusal :=
  let m : MemOp := ⟨.sts, rc.toNat, some (ch.toNat, true), sc, pol, [0, 1], h.ty.width / 8, .none⟩
  fireMem (.sts h d a off rc ch sc pol) m (fun x e k o _ => gatherBeat x e m h.ty.width k (offBytes off) o o.d) s

/-! ## Barriers (R213, R214) -/

def barArr (b : BitVec 128) : Nat := (b.extractLsb' 4 20).toNat
def barReload (b : BitVec 128) : Nat := (b.extractLsb' 24 24).toNat
def barSec (b : BitVec 128) : Nat := (b.extractLsb' 48 32).toNat
def barPhase (b : BitVec 128) : Nat := (b.extractLsb' 0 4).toNat
def barNen (b : BitVec 128) : Bool := b.getLsbD 127

/-- The notify token of a phase change (R215). -/
def notifyToken (b : BitVec 128) (phase off : Nat) : Notify :=
  let sc := (b.extractLsb' 112 3).toNat
  ⟨(b.extractLsb' 122 5).toNat, (b.extractLsb' 118 4).toNat, (b.extractLsb' 115 3).toNat,
    ⟨mkSide (if sc = 0 then 0 else 1) sc false 0 31, vecOf 32 [phase, off, 0, 0]⟩⟩

/-- The barrier after an update that is not refused, and whether its phase changes. -/
def barAfter (b : BitVec 128) (darr dsec : Nat) : BitVec 128 × Bool :=
  let arr := barArr b - darr
  let sec := barSec b - dsec
  let n := b.toNat
  if arr = 0 ∧ sec = 0 then
    (BitVec.ofNat 128 (putField (putField (putField n 79 48 sec) 23 4 (barReload b)) 3 0 ((barPhase b + 1) % 16)), true)
  else (BitVec.ofNat 128 (putField (putField n 79 48 sec) 23 4 arr), false)

/-- What an update comes to where no other is ahead of it. -/
inductive BarRes where
  | refused
  /-- it would change a phase and the notify queue is full (R215) -/
  | waits
  | applied (e : Elem)
  deriving DecidableEq, Repr

/-- ReleaseWaiters (R214): a TBWAIT that waits for the barrier is released. -/
def releaseWaiter (e : Elem) (off : Nat) : Elem :=
  match e.waiter with
  | some (o, _) => if o = off then { e with waiter := some (off, true) } else e
  | none => e

/-- BarrierUpdate of R214 in the scratchpad of its owner. -/
def barrierUpdate (e : Elem) (off darr dsec : Nat) : BarRes :=
  let b : BitVec 128 := BitVec.ofNat 128 (memVal e.spad off 16)
  if barArr b < darr ∨ barSec b < dsec then .refused
  else
    let r := barAfter b darr dsec
    if r.2 && barNen b && decide (8 ≤ e.notify.length) then .waits
    else
      let e := { e with spad := memWrite e.spad off (bytesOf 16 r.1.toNat) }
      let e := if r.2 then releaseWaiter e off else e
      .applied (if r.2 && barNen b then { e with notify := e.notify ++ [notifyToken b (barPhase r.1) off] } else e)

/-- The source of an update still stands behind it. -/
def updLive (s : State) (r : Nat) : UpdFrom → Bool
  | .acc key id => (getE s key).accs.any fun a => a.id == id && a.kind == .arrive && a.fault.isNone
  | .seq => (getSeq s r).bar.sent.isSome
  | .pump p id => (tget (getR s r).pumps p {}).updates.any fun v => v.id == id
  | .island m id => (tget (getR s r).islands m {}).arrivals.any fun v => v.id == id
  | .marten die id => (tget s.martens die {}).jobs.any fun j => j.id == id

/-- Updates of the barrier at `off` that wait at the port ahead of a source (R215). -/
def updAhead (s : State) (key off : Nat) (src : UpdFrom) : Bool :=
  ((getE s key).held.takeWhile fun h => h.src != src).any fun h => h.off == off && updLive s (keyRegion key) h.src

/-- Every access that an element issued before number `id` is performed at the point of a scope (R225, R355). -/
def performedAt (s : State) (key id scope : Nat) : Bool :=
  let e := getE s key
  (e.accs.all fun a => !a.live || decide (id ≤ a.id)) && e.touched.all fun ln => lineAt s (keyRegion key) ln scope

/-- The same for the element as it stands in a beat. -/
def performedNow (s : State) (e : Elem) (r scope : Nat) : Bool :=
  (e.accs.all fun a => !a.live) && e.touched.all fun ln => lineAt s r ln scope

/-- ARRIVE (R225): in the firing beat where the barrier is the element's own and nothing is waited for; otherwise the
arrival stays outstanding. An update that has to wait in its firing beat takes its place at the port at once (R215). -/
def execArrive (h : Hdr) (a : Opnd) (off : BitVec 6) (rc : BitVec 3) (ch : BitVec 2) (sc : Scope) (s : State) :
    Host.Outcome State Fault Refusal :=
  let m : MemOp := ⟨.arrive, rc.toNat, some (ch.toNat, true), sc, .dflt, [1, 2], 16, .none⟩
  fireMem (.arrive h a off rc ch sc) m (fun x e k o _ =>
    let r := memBeat x e m k 0 (offBytes off) o 0
    let b := tget e.recs m.rec_ 0
    match r.trap, memAddr x.region x.key b m.spaces (recOffset b o.a (offBytes off) k 0) 16 with
    | none, .at_ ad =>
      if recSpace b = 1 && performedNow s e (keyRegion x.key) sc.code.toNat then
        let wait : BeatRes := { r with elem := { r.elem with held := r.elem.held ++ [⟨ad, .acc x.key e.nextAcc⟩] } }
        if updAhead s x.key ad (.acc x.key e.nextAcc) then wait
        else match barrierUpdate e ad 1 0 with
          | .refused => ⟨e, 0, 0, [], some ⟨5, 0, ad⟩⟩
          | .applied e' => ⟨{ e' with portBusy := Nat.max e'.portBusy (x.cycle + 1) }, 0, 0, [], none⟩
          | .waits => wait
      else r
    | _, _ => r) s

/-! ## Seals, prefetch, records and the L1 (R208, R221, R222, R224) -/

/-- The granule range of a record in space 1, rounded outward (R221). -/
def sealRange (b : BitVec 256) : Nat × Nat :=
  let base := recBase b % 2 ^ 16
  (base / 16 * 16, (base + recExtent b + 15) / 16 * 16)

/-- SEAL. -/
def sealBeat (e : Elem) (n : Nat) : BeatRes :=
  let b := tget e.recs n 0
  let q := tget e.seals n {}
  let r := sealRange b
  if recSpace b ≠ 1 then ⟨e, 0, 0, [], some ⟨2, 0, 0⟩⟩
  else if q.sealed then
    (if q.lo = r.1 ∧ q.hi = r.2 then ⟨e, 0, 0, [], none⟩ else ⟨e, 0, 0, [], some ⟨7, 0, recBase b % 2 ^ 16⟩⟩)
  else ⟨{ e with seals := tset e.seals n { q with sealed := true, lo := r.1, hi := r.2 } }, 0, 0, [], none⟩

/-- A memory instruction that takes no entry. -/
def noEntry (rc : Nat) (chain : Option (Nat × Bool)) (sc : Scope) : MemOp :=
  ⟨.pref, rc, chain, sc, .dflt, [], 16, .none⟩

def execSeal (h : Hdr) (rc : BitVec 3) (ch : BitVec 2) (s : State) : Host.Outcome State Fault Refusal :=
  fireMem (.seal h rc ch) (noEntry rc.toNat (some (ch.toNat, true)) .e) (fun _ e _ _ _ => sealBeat e rc.toNat) s

/-- RCLAIM: not ready while the entry's count is not zero. -/
def execRclaim (h : Hdr) (rc : BitVec 3) (ch : BitVec 2) (s : State) : Host.Outcome State Fault Refusal :=
  let e := getE s (focusKey s)
  let m := noEntry rc.toNat (some (ch.toNat, true)) .e
  fireWith (.rclaim h rc ch) (memReady e m 1 && (tget e.seals rc.toNat {}).count == 0) 0 (fun _ e _ _ _ =>
    if recSpace (tget e.recs rc.toNat 0) ≠ 1 then ⟨e, 0, 0, [], some ⟨2, 0, 0⟩⟩
    else ⟨{ e with seals := tset e.seals rc.toNat { tget e.seals rc.toNat {} with sealed := false } }, 0, 0, [], none⟩)
    (fun _ t => t) s

/-- PREF (R222): bounds trap behaves as zero, and the address is rounded down to its line. -/
def execPref (h : Hdr) (a : Opnd) (off : BitVec 6) (rc : BitVec 3) (pol : Policy) (s : State) :
    Host.Outcome State Fault Refusal :=
  let m : MemOp := ⟨.pref, rc.toNat, none, .die, pol, [0], 64, .none⟩
  fireMem (.pref h a off rc pol) m (fun x e k o _ =>
    let b := tget e.recs rc.toNat 0
    if recSpace b ≠ 0 ∨ pol = .cg ∨ pol = .noal then ⟨e, 0, 0, [], none⟩
    else
      let q := recOffset b o.a (offBytes off) k 0
      let out := decide (q < 0 ∨ (recExtent b : Int) < q + 64)
      if out && (recBounds b != 1 || decide (recExtent b < 64)) then ⟨e, 0, 0, [], none⟩
      else
        let q := if q < 0 then 0 else if out then recExtent b - 64 else q.toNat
        let ad := (recBase b + q) / 64 * 64
        if 2 ^ 57 ≤ ad then ⟨e, 0, 0, [], some ⟨6, 0, ad⟩⟩
        else ⟨issue e (newAccess x e m k o b 0 [⟨0, ad, false, none, true, none⟩]), 0, 0, [], none⟩) s

/-- INVL1 (R208, R222). -/
def execInvl1 (h : Hdr) (s : State) : Host.Outcome State Fault Refusal :=
  fireMem (.invl1 h) (noEntry 0 none .e) (elemExe fun _ e _ _ => invalL1 e) s

/-- BREC (R224). -/
def execBrec (h : Hdr) (d a : Opnd) (rc : BitVec 3) (s : State) : Host.Outcome State Fault Refusal :=
  fireMem (.brec h d a rc) (noEntry rc.toNat none .e) (fun x e _ o _ =>
    let b : BitVec 256 := o.d ++ o.a
    if recReserved x.region b then ⟨e, 0, 0, [], some ⟨2, 0, 0⟩⟩
    else ⟨{ e with recs := tset e.recs rc.toNat b }, 0, 0, [], none⟩) s

/-! ## FENCE and TSYNC (R355, R396) -/

/-- UnitReady of FENCE: kind 0 full, 1 release, 2 acquire. -/
def fenceReady (s : State) (key kind scope : Nat) : Bool :=
  let e := getE s key
  (kind == 2 || performedNow s e (keyRegion key) scope)
    && (kind == 1 || e.accs.all fun a => !a.live || !takesLoad a.kind)
    && e.accs.all fun a => a.kind != .tsync

/-- Lines that stand at the home need no more watching. -/
def pruneTouched (key : Nat) (s : State) : State :=
  modE s key fun e => { e with touched := e.touched.filter fun ln => !lineAt s (keyRegion key) ln 4 }

def fireFence (i : Instr) (kind : Nat) (sc : Scope) (s : State) : Host.Outcome State Fault Refusal :=
  let key := focusKey s
  fireWith i (fenceReady s key kind sc.code.toNat) 0
    (elemExe fun _ e _ _ => if kind ≠ 1 ∧ 1 ≤ sc.code.toNat then invalL1 e else e) (fun _ t => pruneTouched key t) s

def execFenceFull (h : Hdr) (sc : Scope) (s : State) : Host.Outcome State Fault Refusal := fireFence (.fenceFull h sc) 0 sc s
def execFenceRel (h : Hdr) (sc : Scope) (s : State) : Host.Outcome State Fault Refusal := fireFence (.fenceRel h sc) 1 sc s
def execFenceAcq (h : Hdr) (sc : Scope) (s : State) : Host.Outcome State Fault Refusal := fireFence (.fenceAcq h sc) 2 sc s

/-- TSYNC: it takes a store-buffer entry once no access is outstanding. -/
def execTsync (h : Hdr) (s : State) : Host.Outcome State Fault Refusal :=
  let e := getE s (focusKey s)
  let m : MemOp := ⟨.tsync, 0, none, .die, .dflt, [], 16, .none⟩
  fireWith (.tsync h) (e.accs.all (fun a => !a.live) && decide (storesUsed e + 1 ≤ 16)) 0
    (elemExe fun x e k o => issue e (newAccess x e m k o 0 0 [])) (fun _ t => t) s

end Sys2Proof.Machine
end

