-- ==== Sys2Proof/Machine/Region.lean ====
section
/-!
DEFINITION. Machine/Region.lean: cistern rings (R178), gateways (R464), stream-port bindings (R179), which queues are bound
(R114), the clearing of a region (R455) and pre-emption requests (R445, R446).
-/
namespace Sys2Proof.Machine

/-! ## Rings (R178) -/

/-- Local address of ring descriptor n of a die. -/
def ringAddr (s : State) (die n : Nat) : Nat := 0x400000000000 + die * 0x04000000 + s.ringOffset + 64 * n

def ringDesc (s : State) (die n : Nat) : BitVec 512 := memLine s.mem (ringAddr s die n / 64)
def setRingDesc (s : State) (die n : Nat) (d : BitVec 512) : State :=
  { s with mem := memWrite s.mem (ringAddr s die n) (bytesOf 64 d.toNat) }

def ringDet (d : BitVec 512) (j : Nat) : Bool := d.getLsbD (384 + j)
def ringRd (d : BitVec 512) (j : Nat) : Nat := (d.extractLsb' (128 + 32 * j) 32).toNat
def ringWr (d : BitVec 512) : Nat := (d.extractLsb' 96 32).toNat
def ringNcons (d : BitVec 512) : Nat := (d.extractLsb' 80 4).toNat
def ringPb (d : BitVec 512) : Bool := d.getLsbD 79
def ringOwner (d : BitVec 512) : Nat := (d.extractLsb' 72 7).toNat
def ringLog2 (d : BitVec 512) : Nat := (d.extractLsb' 64 8).toNat
def ringBase (d : BitVec 512) : Nat := (d.extractLsb' 5 47).toNat * 32

/-- Bits [hi:lo] of a descriptor replaced. -/
def ringPut (d : BitVec 512) (hi lo v : Nat) : BitVec 512 := BitVec.ofNat 512 (putField d.toNat hi lo v)

/-- The descriptor check of R502; `cons` is the consumer index of an inbound port or QGET. -/
def ringOk (d : BitVec 512) (cons : Option Nat) : Bool :=
  decide (1 ≤ ringNcons d ∧ ringNcons d ≤ 8 ∧ 4 ≤ ringLog2 d ∧ ringLog2 d ≤ 16)
    && (match cons with | some j => decide (j < ringNcons d) | none => true)

/-- The ring is full for some attached consumer (R178). -/
def ringFull (d : BitVec 512) : Bool :=
  (upto (ringNcons d)).any fun j => !ringDet d j && (ringWr d + 2 ^ 32 - ringRd d j) % 2 ^ 32 == 2 ^ ringLog2 d

def ringEntryAddr (d : BitVec 512) (c : Nat) : Nat := paLocal (ringBase d) + 32 * (c % 2 ^ ringLog2 d)

/-- The token in the entry with counter value c. -/
def ringRead (s : State) (d : BitVec 512) (c : Nat) : Token :=
  let v := memVal s.mem (ringEntryAddr d c) 32
  ⟨BitVec.ofNat 16 (v / 2 ^ 128), BitVec.ofNat 128 v⟩

/-- Writes a token in the entry with counter value c: 32 bytes, of which 18 to 31 are 0. -/
def ringWrite (s : State) (d : BitVec 512) (c : Nat) (t : Token) : State :=
  { s with mem := memWrite s.mem (ringEntryAddr d c) (bytesOf 32 (t.pay.toNat + t.side.toNat * 2 ^ 128)) }

/-- Writes a token at WR, then increments WR (R180). -/
def ringPush (s : State) (die n : Nat) (t : Token) : State :=
  let d := ringDesc s die n
  setRingDesc (ringWrite s d (ringWr d) t) die n (ringPut d 127 96 (ringWr d + 1))

/-- A push by an agent of a region, which may have narrow writes that the token's reader must find (R348). -/
def ringPushBy (s : State) (r die n : Nat) (t : Token) : State :=
  let d := ringDesc s die n
  windowNote (ringPush s die n t) r (ringEntryAddr d (ringWr d) / 64)

/-- Consumer j, of region r, reads its next entry: what the token's writers wrote before it is published first (R348). -/
def ringSync (s : State) (r die n j : Nat) : State × Bool :=
  let d := ringDesc s die n
  windowSync s (dieOf r) (some r) (ringEntryAddr d (ringRd d j) / 64)

/-- Increments RDj. -/
def ringPop (s : State) (die n j : Nat) : State :=
  let d := ringDesc s die n
  setRingDesc s die n (ringPut d (159 + 32 * j) (128 + 32 * j) (ringRd d j + 1))

/-! ## Gateways (R463, R464) -/

/-- The gateway passes units: its count has not reached the budget. -/
def gwPasses (x : Region) : Bool := x.gwBudget == 0 || decide (x.gwCount < x.gwBudget)
/-- A unit crosses: the count does not advance while the region is stopped (R464). -/
def gwUnit (s : State) (r : Nat) : State := modR s r fun x => if acting x then { x with gwCount := x.gwCount + 1 } else x

/-! ## Stream-port bindings (R179) -/

def spOf (s : State) (r n : Nat) : BitVec 64 := tget (getSeq s r).spbind n 0
def spEnabled (b : BitVec 64) : Bool := b.getLsbD 63
def spOut (b : BitVec 64) : Bool := b.getLsbD 62
def spCons (b : BitVec 64) : Nat := (b.extractLsb' 59 3).toNat
def spDie (b : BitVec 64) : Nat := (b.extractLsb' 52 2).toNat
def spRing (b : BitVec 64) : Nat := (b.extractLsb' 40 12).toNat
def spSite (b : BitVec 64) : Nat := (b.extractLsb' 12 5).toNat
def spElem (b : BitVec 64) : Nat := (b.extractLsb' 8 4).toNat
def spQueue (b : BitVec 64) : Nat := (b.extractLsb' 4 3).toNat

/-- The live sites of the actor whose deal port is spN, if a table in effect names the port (R331). -/
def dealSites (x : Region) (n : Nat) : Option (List Nat) :=
  match x.stoat.actors with
  | none => none
  | some l => (l.find? fun a => (a.entry.extractLsb' 148 4).toNat == n).map (·.live)

/-- Sites to which an inbound port delivers. -/
def portSites (x : Region) (n : Nat) : List Nat :=
  match dealSites x n with
  | some l => l
  | none => [spSite (tget x.seq.spbind n 0)]

/-- Sites that Stoat is draining behind a deal port: their queues stay bound (R335). -/
def drainSites (x : Region) (n : Nat) : List Nat := (x.stoat.drains.filter fun d => d.2.1 == n).map (·.1)

/-! ## Bound queues (R114) -/

/-- The queues that the routes of the elements and the inbound stream ports of a region name. -/
def queueTargets (s : State) (r : Nat) : List (Nat × Nat) :=
  let x := getR s r
  let ch := s.elems.flatMap fun p =>
    if keyRegion p.1 = r then
      (upto 6).flatMap fun k => if bindKind (bindOf p.2 k) = 1 then (liveRoutes p.2 k).map fun j => routeTarget p.2 p.1 k j else []
    else []
  let pt := x.seq.spbind.flatMap fun p =>
    if spEnabled p.2 && !spOut p.2 then ((portSites x p.1 ++ drainSites x p.1).filter (· < 20)).map fun st =>
      (ekey r st (spElem p.2), spQueue p.2) else []
  ch ++ pt

/-- Brings the bound bits of a region's queues up to date after a binding has changed: a queue is bound by the present bindings of its
senders, whatever load its own element runs (R114; DESIGN CHOICE, log 27). -/
def rebind (s : State) (r : Nat) : State :=
  let ts := queueTargets s r
  let s := ts.foldl (fun s t => modE s t.1 fun e => setQ e t.2 { getQ e t.2 with bound := true }) s
  { s with elems := tmap (fun k e => if keyRegion k = r then
      { e with queues := tmap (fun q x => { x with bound := ts.contains (k, q) }) e.queues } else e) s.elems }

/-- A feeder gives back the slots that it holds in the queues of a region. -/
def releaseSlots (s : State) (r : Nat) (w : Feeder) : State :=
  { s with elems := tmap (fun k e => if keyRegion k = r then
      { e with queues := tmap (fun _ q => { q with resv := q.resv.filter fun v => v.who != w }) e.queues } else e) s.elems }

/-- Clears EN of a stream port: it gives up its tokens and slots, and an outbound port its ring (R179, R502). -/
def disablePort (s : State) (r n : Nat) : State :=
  let b := spOf s r n
  if !spEnabled b then s
  else
    let s := if spOut b then setRingDesc s (spDie b) (spRing b) (ringPut (ringDesc s (spDie b) (spRing b)) 79 79 0) else s
    let s := modR s r fun x => { x with ports := terase x.ports n }
    let s := releaseSlots s r (.port r n)
    rebind (modSeq s r fun q => { q with spbind := tset q.spbind n (b &&& ~~~ BitVec.ofNat 64 (2 ^ 63)) }) r

/-! ## Clearing a region (R455) -/

/-- The all-zero configuration of an element: its slots, bindings, formats and records, its predicates and tags
(R96, R117). -/
def zeroConfig (e : Elem) : Elem :=
  { e with slots := [], faulty := 0, preds := 0, binds := [], det := [], otag := [], fmts := [], spcfg := 0, recs := [], markers := 0,
           installing := none, queues := tmap (fun _ q => { q with closed := false }) e.queues }

/-- An element of a cleared region: Idle, with everything that the team left in flight discarded. -/
def clearElem (e : Elem) : Elem :=
  { zeroConfig e with
      st := .idle, queues := [], out := [], inbox := [], binbox := [], xops := [], seqArm := false, seqQ := 0, seqBase := 0,
      seqExpect := 0, seqOcc := 0, accs := [], touched := [], cancelled := [], notify := [], pend := 0, trapRec := none,
      landing := [], held := [], waiter := none, portWait := [],
      seals := tmap (fun _ q => { q with count := 0 }) e.seals }

/-- Every stream port of a region is disabled. -/
def disablePorts (s : State) (r : Nat) : State := (upto 16).foldl (fun s n => disablePort s r n) s

/-- A pump with nothing queued, active or stalled. -/
def clearPump (p : Pump) : Pump := { latches := p.latches, nextId := p.nextId }

/-- An island whose contexts are invalid; its accumulators stay (R228). -/
def clearIsland (i : Island) : Island := { acc := i.acc, nextId := i.nextId, credit := i.credit }

/-- The region is cleared without a save and becomes Free. -/
def clearRegion (s : State) (r : Nat) : State :=
  let s := disablePorts s r
  let s := { s with elems := tmap (fun k e => if keyRegion k = r then clearElem e else e) s.elems }
  modR s r fun x => { x with
    team := none, rstate := .free, walks := [], seq := { dropWait x.seq with
      events := [], pending := [], exiting := false, exitCause := none, loads := [], endMark := false, stores := [], touched := [] },
    islands := tmap (fun _ i => clearIsland i) x.islands, pumps := tmap (fun _ p => clearPump p) x.pumps,
    ports := [], held := [], stoat := {}, etq := [], faultq := [], drainFrom := none, holdFrom := none }

/-! ## Pre-emption requests (R445, R446, R449) -/

/-- SAVEBASE names this device. -/
def saveHere (s : State) (x : Region) : Bool := paDevice x.savebase.toNat == s.devid

/-- A command that is refused sets REJ. -/
def rejCmd (s : State) (r : Nat) : State := modR s r fun x => { x with rej := true }

/-- The region begins to stop. -/
def beginStop (s : State) (r : Nat) (reason : BitVec 8) : State :=
  modR s r fun x => { x with rstate := .stopping, reason := reason, empty := false, holdFrom := none, drainFrom := none }

/-- Command 1. -/
def prPreempt (s : State) (r : Nat) : State :=
  let x := getR s r
  match x.rstate with
  | .free => if saveHere s x then setR s r { x with empty := true } else rejCmd s r
  | .running =>
    if !saveHere s x then rejCmd s r
    else if (match x.team with | some t => t.draw | none => false) && x.drawlim != 0 then
      setR s r { x with rstate := .holding, reason := 0x12, empty := false, holdFrom := some s.time }
    else beginStop s r 0x12
  | _ => rejCmd s r

/-- A request from the drain timer or the management controller; `hold` where a team with DRAW = 1 is held to its draw
boundary (R444). -/
def prRequest (s : State) (r : Nat) (reason : BitVec 8) (hold : Bool) : State :=
  let x := getR s r
  match x.rstate with
  | .free => if saveHere s x then setR s r { x with empty := true } else rejCmd s r
  | .running =>
    if !saveHere s x then rejCmd s r
    else if hold && (match x.team with | some t => t.draw | none => false) && x.drawlim != 0 then
      setR s r { x with rstate := .holding, reason := reason, empty := false, holdFrom := some s.time }
    else beginStop s r reason
  | .holding => if saveHere s x then beginStop s r reason else rejCmd s r
  | _ => s

/-- Command 2: a restore onto a Free, Saved or Reserved region. -/
def prRestore (s : State) (r : Nat) : State :=
  match (getR s r).rstate with
  | .free | .saved | .reserved => modR s r fun x => { x with rstate := .restoring }
  | _ => rejCmd s r

/-- Command 3: a Saved region is cleared, a Reserved one is freed. -/
def prRelease (s : State) (r : Nat) : State :=
  match (getR s r).rstate with
  | .saved => clearRegion s r
  | .reserved => modR s r fun x => { x with rstate := .free }
  | _ => rejCmd s r

/-- Command 4. -/
def prReserve (s : State) (r : Nat) : State :=
  match (getR s r).rstate with
  | .free => modR s r fun x => { x with rstate := .reserved }
  | _ => rejCmd s r

/-- A write of PRCMD. -/
def prcmd (s : State) (r op : Nat) : State :=
  if op = 1 then prPreempt s r else if op = 2 then prRestore s r else if op = 3 then prRelease s r
  else if op = 4 then prReserve s r else rejCmd s r

/-- The steps that these writes are. -/
def execPrcmdPreempt (r : Nat) (s : State) : Host.Outcome State Fault Refusal := withUnit (regionOk r) s fun s => prPreempt s r
def execPrcmdRestore (r : Nat) (s : State) : Host.Outcome State Fault Refusal := withUnit (regionOk r) s fun s => prRestore s r
def execPrcmdRelease (r : Nat) (s : State) : Host.Outcome State Fault Refusal := withUnit (regionOk r) s fun s => prRelease s r
def execPrcmdReserve (r : Nat) (s : State) : Host.Outcome State Fault Refusal := withUnit (regionOk r) s fun s => prReserve s r

/-- DRAIN_TIMER_EXPIRE (R444): a pump has been stalled for DRAINLIM. -/
def execDrainTimerExpire (r : Nat) (s : State) : Host.Outcome State Fault Refusal :=
  withUnit (regionOk r) s fun s =>
    let x := getR s r
    match x.drainFrom with
    | some t =>
      if decide (t + x.drainlim * 1000 ≤ s.time) && (x.rstate == .running || x.rstate == .holding) then
        prRequest (setR s r { x with drainFrom := none }) r 0x13 false
      else s
    | none => s

/-- DRAWLIM_EXPIRE (R449): the hold has lasted DRAWLIM; it keeps its reason. -/
def execDrawlimExpire (r : Nat) (s : State) : Host.Outcome State Fault Refusal :=
  withUnit (regionOk r) s fun s =>
    let x := getR s r
    match x.rstate, x.holdFrom with
    | .holding, some t => if t + x.drawlim * 1000 ≤ s.time then beginStop s r x.reason else s
    | _, _ => s

end Sys2Proof.Machine
end

