-- ==== Sys2Proof/Machine/Registers.lean ====
section
/-!
DEFINITION. Machine/Registers.lean: the device register range of R380 with the capability list (R445, R457 to R464, R466, R470
to R472, R477 to R482, R485, R486, R489, R494, R495), and the steps of its units that need no agent: the owner-0 log, the
meters, the frame that FRMFREE frees.
-/
namespace Sys2Proof.Machine

/-! ## The capability list (R494, R495) -/

def capHeader (id next : Nat) : Nat := id + 2 ^ 16 + next * 2 ^ 24

/-- Doubleword i of the capability list: Device, Fused sites, Tables, Save area, in this order (log 5). -/
def capDword (s : State) (i : Nat) : Nat :=
  if i = 0 then capHeader 1 16
  else if i = 1 then 0x6440 + (if s.moduleForm then 2 ^ 16 else 0)
  else if i = 2 then capHeader 2 536
  else if i < 67 then ones 20 - (getR s (i - 3)).fused.toNat
  else if i = 67 then capHeader 3 600
  else if i = 68 then s.qTable + s.devid * 2 ^ 47
  else if i = 69 then s.asTable + s.devid * 2 ^ 47
  else if i = 70 then s.asCount
  else if i < 75 then ringAddr s (i - 71) 0 + s.devid * 2 ^ 47
  else if i = 75 then capHeader 4 0
  else if i = 76 then 0x018F0000 + 2 ^ 32
  else 0

/-! ## Registers as they are read -/

/-- STATE of R446. -/
def rstateCode : RegionState → Nat
  | .free => 0 | .running => 1 | .holding => 2 | .stopping => 3 | .saving => 4 | .saved => 5 | .restoring => 6 | .reserved => 7

def portCode : PortState → Nat
  | .down => 0 | .training => 1 | .up => 2 | .failed => 3

/-- A region's control block (R445). -/
def blockReg (x : Region) (off : Nat) : Nat :=
  if off = 0x08 then rstateCode x.rstate + (if x.rej then 2 ^ 8 else 0) + (if x.empty then 2 ^ 9 else 0)
      + x.reason.toNat * 2 ^ 16 + x.rerr.toNat * 2 ^ 24
  else if off = 0x10 then x.savebase.toNat
  else if off = 0x18 then x.drainlim
  else if off = 0x20 then x.drawlim
  else 0

/-- PWRBUD as it was written last: ETOK and ISTEP. -/
def budgetSet (x : Region) : Nat × Nat :=
  match x.budNext with
  | b :: _ => b.2
  | [] => (x.etok, x.istep)

/-- BOOTST (R486). -/
def bootst (s : State) : Nat :=
  s.stage + (if s.minimal then 2 ^ 8 else 0) + s.fails * 2 ^ 12 + s.bootReason * 2 ^ 16

/-- The link port register of R471. -/
def linkReg (p : LinkPort) : Nat :=
  portCode p.st + p.lanes * 2 ^ 10 + p.peerPort * 2 ^ 14 + p.peerDev * 2 ^ 19 + p.replay % 2 ^ 32 * 2 ^ 32

/-- The doubleword at an offset of the register range; what is not listed reads as 0 (log 5). -/
def regRead (s : State) (off : Nat) : Nat :=
  if off < 0x10000 then capDword s (off / 8)
  else if off < 0x11000 then blockReg (getR s ((off - 0x10000) / 0x40)) ((off - 0x10000) % 0x40)
  else if off < 0x20000 then 0
  else if off < 0x20200 then
    let x := getR s ((off - 0x20000) / 8)
    x.owner + (if x.ownerRej then 2 ^ 8 else 0)
  else if off = 0x20200 then s.gwint
  else if off = 0x20208 then s.devid
  else if off = 0x20210 then s.logcfg.toNat
  else if off = 0x20218 then s.logRd.toNat * 2 ^ 32 + s.logWr.toNat
  else if off = 0x20220 then bootst s
  else if off < 0x20400 then 0
  else if off < 0x20800 then tget s.meters ((off - 0x20400) / 8) 0
  else if off < 0x21000 then
    (if (off - 0x20800) % 16 = 0 ∧ 1 ≤ (off - 0x20800) / 16 ∧ (off - 0x20800) / 16 ≤ 64 then (tget s.vfcfg ((off - 0x20800) / 16) 0).toNat else 0)
  else if off < 0x21100 then (tget s.routes ((off - 0x21000) / 8) 0).toNat
  else if off < 0x21190 then linkReg (tget s.links ((off - 0x21100) / 8) {})
  else if off < 0x21200 then 0
  else if off < 0x21220 then (if s.d2dFailed.contains ((off - 0x21200) / 8) then 3 else 2)
  else if off < 0x30000 then 0
  else if off < 0x30200 then
    let x := getR s ((off - 0x30000) / 8)
    let b := budgetSet x
    b.1 + b.2 * 2 ^ 16
  else if off < 0x30400 then
    let x := getR s ((off - 0x30200) / 8)
    x.point + x.pmin * 2 ^ 8 + x.pmax * 2 ^ 12 + (if x.opFix then 2 ^ 16 else 0)
  else if off = 0x30400 then s.watts
  else if off = 0x30408 then s.optOwner + (if s.optEn then 2 ^ 7 else 0)
  else if off = 0x30410 then (if s.frmBusy.isSome then 1 else 0)
  else if off < 0x31000 then 0
  else if off < 0x31200 then
    (if (off - 0x31000) % 64 < 48 then field (tget s.keyhash ((off - 0x31000) / 64) 0).toNat
        (8 * ((off - 0x31000) % 64) + 63) (8 * ((off - 0x31000) % 64)) else 0)
  else if off = 0x31200 then s.keylock.toNat
  else 0

/-! ## Freeing a frame (R485) -/

/-- The lines of a frame. -/
def frameLines (f : Nat) : List Nat := (upto 64).map fun i => 64 * f + i

/-- WrH of 64 zero bytes to each line of the frame that is being freed, in ascending order. -/
def frmStart (s : State) (f : Nat) : State :=
  (frameLines f).foldl (fun s ln => askTagged s ln { plainReq .wrh 0 with
      mask := BitVec.allOnes 64, uncached := true, tag := .engine (2 ^ 40 + ln) }) { s with frmBusy := some f }

/-- Once every line is written, the rows are free, the frame's lines have no home until an access names one, and the next free begins. -/
def frmStep (s : State) : State :=
  match s.frmBusy, s.minimal with
  | none, _ => s
  | _, true => s
  | some f, false =>
    let ls := frameLines f
    if ls.all fun ln => s.acks.any fun a => a.tag == ReqTag.engine (2 ^ 40 + ln) then
      let s := { s with acks := s.acks.filter fun a => !(ls.any fun ln => a.tag == ReqTag.engine (2 ^ 40 + ln))
                        rows := s.rows.filter fun w => w.2 != f, frmBusy := none
                        wells := s.wells.filter fun w => w.1 / 64 != f }
      match s.frmWait with
      | [] => s
      | g :: r => frmStart { s with frmWait := r } g
    else s

/-- A write of FRMFREE; one that names no frame of GDDR-7 memory of this device is ignored, and in minimal mode no home works (R33). -/
def frmFree (s : State) (w : BitVec 64) : State :=
  let pa := (w.extractLsb' 12 40).toNat * 2 ^ 12
  let s := frmStep s
  if paClass s pa != .gddr ∨ s.minimal then s
  else if s.frmBusy.isSome then { s with frmWait := s.frmWait ++ [paLocal pa / 4096] }
  else frmStart s (paLocal pa / 4096)

/-! ## Registers as they are written -/

/-- A write of a region's control block (R445). -/
def blockWrite (s : State) (r off : Nat) (w : BitVec 64) : State :=
  let v := (w.extractLsb' 0 24).toNat
  if off = 0x00 then prcmd s r (w.extractLsb' 0 3).toNat
  else if off = 0x08 then (if w.getLsbD 8 then modR s r fun x => { x with rej := false } else s)
  else if off = 0x10 then modR s r fun x => { x with savebase := w &&& 0x000FFFFFFFFF0000 }
  else if off = 0x18 then (if 10 ≤ v ∧ v ≤ 10000 then modR s r fun x => { x with drainlim := v } else s)
  else if off = 0x20 then (if v ≤ 100000 then modR s r fun x => { x with drawlim := v } else s)
  else s

/-- A write of ROWN (R460). -/
def rownWrite (s : State) (r : Nat) (w : BitVec 64) : State :=
  modR s r fun x =>
    let x := if w.getLsbD 8 then { x with ownerRej := false } else x
    let o := (w.extractLsb' 0 7).toNat
    if 64 < o ∨ x.rstate ≠ .free then { x with ownerRej := true } else { x with owner := o }

/-- A write of LOGCFG (R461). -/
def logcfgWrite (s : State) (w : BitVec 64) : State :=
  let old := s.logcfg
  let l := (w.extractLsb' 52 5).toNat
  let n := if 4 ≤ l ∧ l ≤ 16 then w &&& 0x01F0000000000000 else old &&& 0x01F0000000000000
  let ovf := if w.getLsbD 62 then 0 else old &&& 0x4000000000000000
  { s with logcfg := (w &&& 0x800FFFFFFFFFFE00) ||| n ||| ovf }

/-- A write of PWRBUD by owner 127 (R477): it takes effect at a refill. -/
def pwrbudWrite (s : State) (r : Nat) (w : BitVec 64) : State :=
  modR s r fun x =>
    let b := budgetSet x
    let e := (w.extractLsb' 0 9).toNat
    let i := (w.extractLsb' 16 7).toNat
    { x with budNext := (x.cycle, if 256 < e then b.1 else e, if 64 < i then b.2 else i) :: x.budNext }

/-- A write of OPCTL (R480). -/
def opctlWrite (s : State) (r : Nat) (w : BitVec 64) : State :=
  let mx := (w.extractLsb' 12 4).toNat
  let mn := (w.extractLsb' 8 4).toNat
  if mx < mn then s else modR s r fun x => { x with opFix := w.getLsbD 16, pmax := mx, pmin := mn }

/-- A write of OPTCTL (R482). -/
def optctlWrite (s : State) (w : BitVec 64) : State :=
  let o := (w.extractLsb' 0 7).toNat
  let s := { s with optEn := w.getLsbD 7, optOwner := o }
  if w.getLsbD 15 then { s with optTable := s.optTable.filter fun p => p.1.1 != o } else s

/-- A write of BOOTST by owner 0 (R486). -/
def goodWrite (s : State) : State := { s with fails := 0, goodBy := none }

/-- A write of KEYLOCK by owner 0 (R489): bits only become set. -/
def keylockWrite (s : State) (w : BitVec 64) : State := { s with keylock := s.keylock ||| (w.setWidth 8 &&& 0xFE) }

/-- A write of a doubleword of a key slot by owner 0 (R489). -/
def keyhashWrite (s : State) (k j : Nat) (w : BitVec 64) : State :=
  if k = 0 ∨ s.keylock.getLsbD k ∨ 48 ≤ j then s
  else { s with keyhash := tset s.keyhash k (BitVec.ofNat 384 (putField (tget s.keyhash k 0).toNat (8 * j + 63) (8 * j) w.toNat)) }

/-- The write of a doubleword at an offset of the register range by owner 0 or 127. -/
def regWrite (s : State) (owner off : Nat) (w : BitVec 64) : State :=
  if off < 0x10000 then s
  else if off < 0x11000 then blockWrite s ((off - 0x10000) / 0x40) ((off - 0x10000) % 0x40) w
  else if off < 0x20000 then s
  else if off < 0x20200 then rownWrite s ((off - 0x20000) / 8) w
  else if off = 0x20200 then
    let v := (w.extractLsb' 0 10).toNat
    (if 1 ≤ v ∧ v ≤ 1000 then { s with gwint := v } else s)
  else if off = 0x20210 then logcfgWrite s w
  else if off = 0x20218 then { s with logRd := w.extractLsb' 32 32 }
  else if off = 0x20220 then (if owner = 0 ∧ w.getLsbD 24 then goodWrite s else s)
  else if off < 0x20400 then s
  else if off < 0x20800 then { s with meters := tset s.meters ((off - 0x20400) / 8) (w.extractLsb' 0 32).toNat }
  else if off < 0x21000 then
    (if (off - 0x20800) % 16 = 0 ∧ 1 ≤ (off - 0x20800) / 16 ∧ (off - 0x20800) / 16 ≤ 64 then
      { s with vfcfg := tset s.vfcfg ((off - 0x20800) / 16) (w &&& 0x80000000001FFFFF) } else s)
  else if off < 0x21100 then { s with routes := tset s.routes ((off - 0x21000) / 8) (w.extractLsb' 0 18) }
  else if off < 0x30000 then s
  else if off < 0x30200 then (if owner = 127 then pwrbudWrite s ((off - 0x30000) / 8) w else s)
  else if off < 0x30400 then opctlWrite s ((off - 0x30200) / 8) w
  else if off = 0x30400 then
    let v := (w.extractLsb' 0 12).toNat
    (if 300 ≤ v ∧ v ≤ 1800 then { s with watts := v } else s)
  else if off = 0x30408 then optctlWrite s w
  else if off = 0x30410 then frmFree s w
  else if off < 0x31000 then s
  else if off < 0x31200 then (if owner = 0 then keyhashWrite s ((off - 0x31000) / 64) ((off - 0x31000) % 64) w else s)
  else if off = 0x31200 then (if owner = 0 then keylockWrite s w else s)
  else s

/-! ## Accesses to the range (R459) -/

/-- Owners that reach the registers. -/
def regOwner (o : Nat) : Bool := o == 0 || o == 127

/-- n bytes of the register range from an offset on. -/
def devBytes (s : State) (off n : Nat) : List Byte :=
  (upto n).map fun i => BitVec.ofNat 8 (regRead s ((off + i) / 8 * 8) / 2 ^ (8 * ((off + i) % 8)))

/-- The W1C bits of the register at an offset: REJ of PRST and of ROWN, OVF of LOGCFG (R445, R460, R461). -/
def w1cBits (off : Nat) : BitVec 64 :=
  if (0x10000 ≤ off ∧ off < 0x11000 ∧ off % 0x40 = 0x08) ∨ (0x20000 ≤ off ∧ off < 0x20200) then 0x100
  else if off = 0x20210 then 0x4000000000000000 else 0

/-- What a write stores in the bytes of a register that it does not cover: what they read, and no 1 in a W1C bit (R7, log 9). -/
def keptBits (s : State) (off : Nat) : BitVec 64 := BitVec.ofNat 64 (regRead s off) &&& ~~~ w1cBits off

/-- A write of the register at an offset. The OP of PRCMD and the OWNER of ROWN are written only where byte 0 is covered. -/
def partWrite (s : State) (owner off : Nat) (low : Bool) (w : BitVec 64) : State :=
  if low then regWrite s owner off w
  else if 0x10000 ≤ off ∧ off < 0x11000 ∧ off % 0x40 = 0x00 then s
  else if 0x20000 ≤ off ∧ off < 0x20200 then
    (if w.getLsbD 8 then modR s ((off - 0x20000) / 8) fun x => { x with ownerRej := false } else s)
  else regWrite s owner off w

/-- A write of bytes: each register that they touch is written once, in ascending order; bytes of it that the write does not
cover are left as they are (log 9). -/
def devWrite (s : State) (owner off : Nat) (bs : List Byte) : State :=
  let first := off / 8
  (upto ((off % 8 + bs.length + 7) / 8)).foldl (fun s i =>
    let b := 8 * (first + i)
    let covered := fun j => decide (off ≤ b + j ∧ b + j < off + bs.length)
    let v := (upto 8).map fun j =>
      if covered j then bs.getD (b + j - off) 0 else (keptBits s b).extractLsb' (8 * j) 8
    partWrite s owner b (covered 0) (BitVec.ofNat 64 (leVal v))) s

def devOffset (pa : Nat) : Nat := paLocal pa - 0x600000000000

/-- A store of an agent of region r to the register range: a refused one is dropped and logged with event 5. -/
def devStore (s : State) (owner : Nat) (region : Option Nat) (pa : Nat) (bs : List Byte) : State :=
  if regOwner owner then devWrite s owner (devOffset pa) bs else logPush s 5 0x07 owner region pa 1

/-- DEVICE_REGISTER_WRITE: a write of one doubleword by an owner. -/
def execDeviceRegisterWrite (owner pa : Nat) (w : BitVec 64) (s : State) : Host.Outcome State Fault Refusal :=
  .next (if paClass s pa = .registers then
    (if regOwner owner then regWrite s owner (devOffset pa / 8 * 8) w else logPush s 5 0x07 owner none pa 1) else s)

/-- ROWN_WRITE (R460). -/
def execRownWrite (r : Nat) (w : BitVec 64) (s : State) : Host.Outcome State Fault Refusal :=
  withUnit (regionOk r) s fun s => rownWrite s r w

/-- OPTCTL_CLR (R482). -/
def execOptctlClr (owner : Nat) (s : State) : Host.Outcome State Fault Refusal :=
  .next { s with optTable := s.optTable.filter fun p => p.1.1 != owner }

/-- FRMFREE_WRITE (R485). -/
def execFrmfreeWrite (w : BitVec 64) (s : State) : Host.Outcome State Fault Refusal := .next (frmFree s w)

/-- GOOD (R486). -/
def execGood (s : State) : Host.Outcome State Fault Refusal := .next (goodWrite s)

/-- KEYLOCK_WRITE (R489). -/
def execKeylockWrite (w : BitVec 64) (s : State) : Host.Outcome State Fault Refusal := .next (keylockWrite s w)

/-! ## The owner-0 log (R461) -/

def logLog2 (s : State) : Nat := (s.logcfg.extractLsb' 52 5).toNat
def logBase (s : State) : Nat := (s.logcfg.extractLsb' 9 43).toNat * 512

/-- The record at the head of those on their way is dropped. -/
def logDrop (s : State) : State := { s with logQueue := s.logQueue.tail, logcfg := s.logcfg ||| 0x4000000000000000 }

/-- LOG_RECORD_WRITE: the log unit takes one record. -/
def execLogRecordWrite (s : State) : Host.Outcome State Fault Refusal :=
  .next (match s.logQueue with
  | [] => s
  | rec_ :: rest =>
    let n := logLog2 s
    let used := (s.logWr - s.logRd).toNat
    if !s.logcfg.getLsbD 63 || decide (n < 4 ∨ 16 < n) || used == 2 ^ n then logDrop s
    else
      let pa := logBase s + 32 * (s.logWr.toNat % 2 ^ n)
      match paClass s pa with
      | .gddr | .window _ =>
        let t := engineStore s 0 pa (bytesOf 32 rec_.toNat)
        if t.2 then { t.1 with logQueue := rest, logWr := s.logWr + 1, msix := if used = 0 then s.msix + 1 else s.msix } else t.1
      | _ => logDrop s)

/-! ## Meters (R464) -/

/-- The next interval boundary. -/
def nextMeter (s : State) : Nat := (s.lastMeter / (s.gwEff * 1000) + 1) * (s.gwEff * 1000)

/-- METER_INTERVAL_BOUNDARY: every gateway counts from 0, and budget and interval are sampled. -/
def meterBoundary (s : State) : State :=
  if nextMeter s ≤ s.time then
    { s with lastMeter := nextMeter s, gwEff := s.gwint,
             regions := (upto 64).foldl (fun t r =>
               let x : Region := tget t r {}
               let y := { x with gwCount := 0, gwBudget := tget s.meters x.owner 0 }
               if y = x then t else tset t r y) s.regions }
  else s

def execMeterIntervalBoundary (s : State) : Host.Outcome State Fault Refusal := .next (meterBoundary s)

end Sys2Proof.Machine
end

