-- ==== Sys2Proof/Machine/ElemAcc.lean ====
section
/-!
DEFINITION. Machine/ElemAcc.lean: outstanding accesses of the elements until they are performed (R197 to R225, R341): their
translation, the return of load data, the performance of writes, late faults, the external port, waiting LDF and STF,
arrivals, barrier updates and notify tokens; and the performance of the sequencer's stores (R282).
-/
namespace Sys2Proof.Machine

/-! ## The access table -/

def findAcc (e : Elem) (id : Nat) : Option Access := e.accs.find? fun a => a.id == id
def modAcc (s : State) (key id : Nat) (f : Access → Access) : State :=
  modE s key fun e => { e with accs := e.accs.map fun a => if a.id = id then f a else a }
def dropAcc (s : State) (key id : Nat) : State :=
  modE s key fun e => { e with accs := e.accs.filter fun a => a.id != id }

/-- The lane in progress. -/
def Access.lane (a : Access) : AccLane := a.lanes.getD a.cur default
def Access.addr (a : Access) : Nat := a.lane.addr
def Access.setLane (a : Access) (f : AccLane → AccLane) : Access :=
  { a with lanes := (a.lanes.zipIdx).map fun p => if p.2 = a.cur then f p.1 else p.1 }

/-- The access has failed: the element will trap (R203). -/
def faultAcc (s : State) (key id : Nat) (c : BitVec 8) (ad : Nat) : State :=
  modAcc s key id fun a => { a with fault := some (c, ad) }

def isLoad : AccKind → Bool | .ld | .ldg | .pref => true | _ => false
def isStore : AccKind → Bool | .st | .sts => true | _ => false

/-- An access to the element's own scratchpad that is not done. -/
def ownAcc (a : Access) : Bool := a.space == 1 && a.live && a.fault.isNone

/-- The element port has served the access: a read has its value, and one that waits has taken its place (R197, R218, R225). A
write leaves its entry when it is served. -/
def Access.served (a : Access) : Bool :=
  a.parked || a.kind == .arrive || (takesLoad a.kind && a.lanes.all fun l => l.skip || l.got.isSome)

/-- The element port has served every own access that fired before access `id`: it serves them in firing order (R197). -/
def ownTurn (e : Elem) (id : Nat) : Bool := e.accs.all fun a => !(decide (a.id < id) && ownAcc a) || a.served

/-- The element port has served every own access whose cycle at the port has passed: it goes before the external port (R197). -/
def ownServed (e : Elem) (cycle : Nat) : Bool := e.accs.all fun a => !(ownAcc a && decide (a.fired + 2 ≤ cycle)) || a.served

/-- Bytes of a lane in a scratchpad. -/
def spadRead (e : Elem) (addr size : Nat) : Vec := BitVec.ofNat 128 (memVal e.spad addr size)
def spadWrite (e : Elem) (addr size : Nat) (v : Nat) : Elem := { e with spad := memWrite e.spad addr (bytesOf size v) }

/-- Full-empty bits (R199). -/
def isFull (e : Elem) (addr : Nat) : Bool := e.full.contains (addr / 16)
def setFull (e : Elem) (addr : Nat) (v : Bool) : Elem :=
  let l := e.full.filter (· != addr / 16)
  { e with full := if v then (l.filter (· < addr / 16)) ++ [addr / 16] ++ (l.filter (addr / 16 < ·)) else l }

/-! ## Seals (R209 to R211) -/

/-- Sealed entries whose range holds a granule. -/
def sealsOver (e : Elem) (addr : Nat) : List Nat :=
  (e.seals.filter fun p => p.2.sealed && decide (p.2.lo ≤ addr / 16 * 16 ∧ addr / 16 * 16 < p.2.hi)).map (·.1)
def isSealed (e : Elem) (addr : Nat) : Bool := sealsOver e addr != []

def countSeal (e : Elem) (ns : List Nat) (f : Nat → Nat) : Elem :=
  ns.foldl (fun e n => { e with seals := tset e.seals n { tget e.seals n {} with count := f (tget e.seals n {}).count } }) e

/-! ## Translation -/

/-- What an access asks of a translation (R390). -/
def accReq (x : Region) (k : AccKind) : XReq :=
  ⟨asidOf x, ownerOf x, true, if isStore k then 1 else match k with | .atom .. => 2 | _ => 0, k == .ld || k == .st, false⟩

/-- Translates the lane in progress: its own translation, the L1 TLB, the region TLB or a walk (R391, R496). -/
def accXlat (s : State) (key : Nat) (a : Access) : XGot :=
  let r := keyRegion key
  let q := accReq (getR s r) a.kind
  match a.lane.xlat with
  | some x => .ok s x
  | none =>
    match (getE s key).tlb.find? fun x => xlatHit x q.asid q.owner a.addr with
    | some x => match xlatCheck s x a.addr q with
      | some (c, l) => .fault s c l
      | none => .ok s x
    | none => match translate s r a.addr q with
      | .ok s x => .ok (modE { s with free := s.free + 1 } key fun e => { e with tlb := tlbAdd 64 e.tlb x s.free }) x
      | g => g

/-- A translation fault of an access: the record of R404, and the late fault; a PREF only posts the record (R222). -/
def xlatFault (s : State) (key : Nat) (a : Access) (c : BitVec 8) (level : Nat) : State :=
  let r := keyRegion key
  let q := accReq (getR s r) a.kind
  let s := postFault s r (faultRecord a.addr 0 q.asid c level q.kind 3 (keySite key) (keyElem key) 0)
  match a.kind with
  | .pref => dropAcc s key a.id
  | _ => faultAcc s key a.id c a.addr

/-- Continues with the translation of the lane in progress. -/
def withXlat (s : State) (key : Nat) (a : Access) (f : State → Xlat → State) : State :=
  match accXlat s key a with
  | .ok s x => f (modAcc s key a.id fun a => a.setLane fun l => { l with xlat := some x }) x
  | .wait s => s
  | .fault s c l => xlatFault s key a c l

/-- Runs a step of access i of an element of a region that is not stopped before its accesses have settled (R450). -/
def accStep (r st el i : Nat) (s : State) (f : Nat → Access → State) : Host.Outcome State Fault Refusal :=
  withUnit (elemOk s r st el) s fun s =>
    let key := ekey r st el
    match findAcc (getE s key) i with
    | some a => if a.fault.isSome then s else f key a
    | none => s

/-- TRANSLATION_WALK_COMPLETE (R388, R404). -/
def execTranslationWalkComplete (r st el i : Nat) (s : State) : Host.Outcome State Fault Refusal :=
  accStep r st el i s fun key a =>
    if a.space = 0 ∧ a.cur < a.lanes.length ∧ a.lane.xlat = none ∧ a.lane.got = none then withXlat s key a fun s _ => s else s

/-! ## Load data (R198, R206, R207) -/

/-- The L1 lines that an element holds under the team's L1 size (R195). -/
def l1Lines (x : Region) : Nat := if l1szOf x = 1 then 256 else if l1szOf x = 2 then 512 else 0

/-- Allocates a line that is not present (R358); one marked first is replaced first, and else which one is free (R207, log 11). -/
def l1Fill (n : Nat) (l : List CacheLine) (c : CacheLine) (free : Nat) : List CacheLine :=
  if n = 0 ∨ l.any (fun x => x.line == c.line) then l
  else if l.length < n then c :: l
  else match l.findIdx? (·.first) with
    | some i => c :: l.eraseIdx i
    | none => c :: l.eraseIdx (Config.evictChoice free % l.length)

/-- Two accesses are beats of one instruction: an element fires at most one in a cycle. -/
def sameFiring (a b : Access) : Bool := a.fired - a.beat == b.fired - b.beat

/-- Earlier loads to the same channel have sent their tokens: beats of the same instruction (R206), and own-scratchpad beats of
any (R359). -/
def inBeatOrder (e : Elem) (a : Access) : Bool :=
  match a.dest with
  | .chan k => e.accs.all fun b => !(decide (b.id < a.id) && b.dest == .chan k && (sameFiring a b || (a.space == 1 && b.space == 1)))
  | _ => true

/-- The value that a load delivers: its lanes over the register's present value (R219). -/
def loadValue (e : Elem) (a : Access) : Vec :=
  match a.kind with
  | .ldg =>
    let old := match a.dest with | .reg n => tget e.f n 0 | _ => 0
    a.lanes.foldl (fun v l => BitVec.ofNat 128 (putField v.toNat (8 * a.size * (l.lane + 1) - 1) (8 * a.size * l.lane) (l.got.getD 0).toNat)) old
  | _ => match a.lanes with | l :: _ => l.got.getD 0 | [] => 0

/-- Delivers the data of a load and frees its entries; the counts that a read of a sealed granule raised fall (R211). -/
def deliver (s : State) (key : Nat) (a : Access) : State :=
  let c := (getR s (keyRegion key)).cycle - 1
  let s := modE s key fun e =>
    let v := loadValue e a
    let e := { e with accs := e.accs.filter fun b => b.id != a.id }
    match a.dest with
    | .reg n => clearPend { e with f := tset e.f n v } n
    | .chan k => sendLoad e k a v c
    | .none => e
  modE s a.target fun e => countSeal e a.raised (· - 1)

/-- Takes the data of every lane of an own-scratchpad beat. -/
def lanesRead (s : State) (key : Nat) (a : Access) : State :=
  let e := getE s key
  modAcc s key a.id fun a => { a with lanes := a.lanes.map fun l => if l.got.isSome then l else { l with got := some (spadRead e l.addr a.size) } }

/-- Takes the data of the lane in progress and goes on to the next lane. -/
def laneDone (s : State) (key id : Nat) (v : Vec) : State :=
  modAcc s key id fun a => { a.setLane (fun l => { l with got := some v }) with cur := a.cur + 1, asked := false }

/-- The cycle from which the data of a load may reach its destination (R198, R202). -/
def loadDue (key : Nat) (a : Access) : Nat :=
  if !a.live ∨ a.space = 1 then a.fired + 3
  else if a.space = 0 then a.fired + 5
  else a.fired + 4 + 2 * hops (keySite key) (keySite a.target)

/-- A load of the register range (R459): a refused one faults. -/
def regLoad (s : State) (key : Nat) (a : Access) (pa : Nat) : State :=
  if regOwner (ownerOf (getR s (keyRegion key))) then
    laneDone s key a.id (BitVec.ofNat 128 (leVal (devBytes s (devOffset pa) a.size)))
  else faultAcc s key a.id 0x07 a.addr

/-- Earlier accesses of the element that may reach device registers are done (R385). -/
def devInOrder (s : State) (key : Nat) (a : Access) : Bool :=
  (getE s key).accs.all fun b => !(decide (b.id < a.id) && b.space == 0 && (b.kind == .ld || b.kind == .st)
    && (match b.lane.xlat with | some x => pteMt x.pte == 2 | none => b.lane.got.isNone))

/-- Reads the lane in progress of a space-0 load at the point of its scope. A plain load whose address the L1 TLB did not hold when it
fired looks up the L1 once it is translated; no other looks it up here (R207, R358). -/
def readLane (s : State) (key : Nat) (a : Access) (x : Xlat) : State :=
  let r := keyRegion key
  let v := viaOf x a.addr
  let plain := !a.lane.looked && pteMt x.pte == 0
  let s := modAcc s key a.id fun a => a.setLane fun l => { l with looked := true }
  match paClass s v.pa with
  | .registers => if devInOrder s key a then regLoad s key a v.pa else s
  | _ =>
    match (getE s key).l1.find? fun c => plain && c.line == v.pa / 64 with
    | some c => laneDone s key a.id (BitVec.ofNat 128 (leVal (lineBytes c.data (v.pa % 64) a.size)))
    | none =>
      if (getR s r).cycle < a.fired + 20 then s
      else match readLine s r v (decide (3 ≤ a.scope.code.toNat)) (.elem key (a.id * 16 + a.cur)) with
        | .wait s => s
        | .done s d _ bad =>
          match bad with
          | some c => if a.kind = .pref then dropAcc s key a.id else faultAcc s key a.id c a.addr
          | none =>
            let fill := (a.policy == .dflt || a.policy == .strm) && !v.uncached && !a.noAlloc && !a.barred.contains (v.pa / 64)
            let s := if fill then modE { s with free := s.free + 1 } key fun e =>
              { e with l1 := l1Fill (l1Lines (getR s r)) e.l1 ⟨v.pa / 64, d, a.policy == .strm⟩ s.free } else s
            laneDone s key a.id (BitVec.ofNat 128 (leVal (lineBytes d (v.pa % 64) a.size)))

/-- The operand and the comparand of an ATOM (R220). -/
def atomV (a : Access) (size : Nat) : Nat := if size = 0 then laneOf 32 a.data.toNat 0 else laneOf 64 a.data.toNat 0
def atomC (a : Access) (size : Nat) : Nat := if size = 0 then laneOf 32 a.data.toNat 1 else laneOf 64 a.data.toNat 1

/-- A space-0 ATOM at the point of its scope. -/
def atomLane (s : State) (key : Nat) (a : Access) (op size : Nat) (x : Xlat) : State :=
  let r := keyRegion key
  let v := viaOf x a.addr
  let ln := lineKey s v.pa
  match paClass s v.pa with
  | .registers => faultAcc s key a.id 0x07 a.addr
  | _ =>
    let s := modE s key fun e => barLine e (v.pa / 64)
    if (getR s r).cycle < a.fired + 20 then s
    else match atomicLine s r v a.scope.code.toNat (v.pa % 64) op size (atomV a size) (atomC a size) (.elem key (a.id * 16 + a.cur)) with
      | .wait s => s
      | .done s _ old bad => match bad with
        | some c => faultAcc s key a.id c a.addr
        | none =>
          let s := modE s key fun e => { e with touched := if e.touched.contains ln then e.touched else ln :: e.touched }
          laneDone s key a.id (BitVec.ofNat 128 old)

/-- LOAD_DATA_RETURN: the data of a load, LDG or ATOM beat, or the line of a PREF, arrives; lane by lane for LDG. -/
def loadReturn (s : State) (key : Nat) (a : Access) : State :=
  let e := getE s key
  let c := (getR s (keyRegion key)).cycle
  if a.lanes.all fun l => l.got.isSome then
    (if loadDue key a ≤ c ∧ inBeatOrder e a then deliver s key a else s)
  else if a.lane.got.isSome then modAcc s key a.id fun a => { a with cur := a.cur + 1 }
  else match a.kind with
    | .ld | .ldg | .pref =>
      if a.space = 0 then withXlat s key a fun s x => readLane s key a x
      else if a.space = 1 ∧ ownTurn e a.id ∧ a.fired + 2 ≤ c then lanesRead s key a
      else s
    | .atom op size => if a.space = 0 then withXlat s key a fun s x => atomLane s key a op size x else s
    | _ => s

def execLoadDataReturn (r st el i : Nat) (s : State) : Host.Outcome State Fault Refusal :=
  accStep r st el i s fun key a =>
    if isLoad a.kind || a.kind == .ldr || (match a.kind with | .atom .. => true | _ => false) then loadReturn s key a else s

/-! ## Writes (R198, R207, R341, R395) -/

/-- A store acts on a present line of the L1 (R207). -/
def l1Store (e : Elem) (pol : Policy) (pa : Nat) (bs : List Byte) : Elem :=
  let p := placeBytes (pa % 64) bs
  { e with l1 := if pol = .cg then e.l1.filter fun c => c.line != pa / 64
      else e.l1.map fun c => if c.line = pa / 64 then { c with data := mergeLine c.data p.1 p.2 } else c }

/-- The bytes that lane l of a store writes: lane j of the data for STS (R219). -/
def laneBytes (a : Access) (l : AccLane) : List Byte :=
  match a.kind with
  | .sts => bytesOf a.size (laneOf (8 * a.size) a.data.toNat l.lane)
  | _ => bytesOf a.size a.data.toNat

/-- One lane of a store is performed; after the last the access leaves its entry. -/
def storeDone (s : State) (key : Nat) (a : Access) : State :=
  if a.lanes.length ≤ a.cur + 1 then dropAcc s key a.id else laneDone s key a.id 0

/-- A space-0 store of the lane in progress. -/
def storeLane (s : State) (key : Nat) (a : Access) (x : Xlat) : State :=
  let r := keyRegion key
  let v := viaOf x a.addr
  let ln := lineKey s v.pa
  let bs := laneBytes a a.lane
  if (getR s r).cycle < a.fired + 20 then s
  else match paClass s v.pa with
    | .registers =>
      if devInOrder s key a then storeDone (devStore s (ownerOf (getR s r)) (some r) v.pa bs) key a else s
    | _ =>
      let p := placeBytes (v.pa % 64) bs
      match writeLine s r v a.scope.code.toNat p.1 p.2 (.elem key (a.id * 16 + a.cur)) with
      | .wait s => s
      | .done s _ _ _ =>
        let s := modE s key fun e =>
          let e := l1Store e (if pteMt x.pte = 0 then a.policy else .cg) v.pa bs
          { e with touched := if e.touched.contains ln then e.touched else ln :: e.touched }
        storeDone s key a

/-- A store beat to a scratchpad: its lanes in ascending order (R219). -/
def spadStore (e : Elem) (a : Access) : Elem :=
  a.lanes.foldl (fun e l => if l.skip then e else spadWrite e l.addr a.size (leVal (laneBytes a l))) e

/-- The source of a write at an external port still stands behind it. -/
def landLive (s : State) (r : Nat) : UpdFrom → Bool
  | .acc key id => (findAcc (getE s key) id).isSome
  | .pump p id => (tget (getR s r).pumps p {}).accs.any fun a => a.id == id
  | .island m id => (tget (getR s r).islands m {}).runs.any fun u =>
      u.id == id / 2 ^ 16 && (tget u.tiles (id % 2 ^ 16) {}).posted != []
  | _ => true

/-- The writes that the external port of element `key` has accepted and that are still to be written, oldest first. -/
def landings (s : State) (key : Nat) : List Landing := (getE s key).landing.filter fun l => landLive s (keyRegion key) l.src

/-- A write to `addr` accepted at an external port in cycle n is the next to be written there: its cycle has passed and the owner's
element port has gone first (R197, R198). -/
def mayLand (s : State) (key : Nat) (src : UpdFrom) (addr n : Nat) : Bool :=
  let c := (getR s (keyRegion key)).cycle
  decide (n + 2 ≤ c) && ownServed (getE s key) c
    && (match landings s key with | l :: _ => l.src == src && l.addr == addr | [] => false)

/-- The port accepts a write. -/
def landPut (s : State) (key : Nat) (src : UpdFrom) (addr : Nat) : State :=
  modE s key fun e => { e with landing := e.landing ++ [⟨src, addr, (getR s (keyRegion key)).cycle⟩] }

/-- The write is written. -/
def landed (s : State) (key : Nat) (src : UpdFrom) (addr : Nat) (f : Elem → Elem) : State :=
  modE s key fun e => f { e with landing := e.landing.filter fun l => !(l.src == src && l.addr == addr) }

/-- The turn of a write of an element that an external port has accepted. -/
def accLands (s : State) (key : Nat) (a : Access) : Bool :=
  match a.accepted with | some n => mayLand s a.target (.acc key a.id) a.addr n | none => false

/-- It is written, and performed. -/
def land (s : State) (key : Nat) (a : Access) (f : Elem → Elem) : State :=
  dropAcc (landed s a.target (.acc key a.id) a.addr f) key a.id

/-- The first lane that has still to be translated: a beat with a translation fault performs nothing (R203). -/
def untranslated (a : Access) : Option Nat := a.lanes.findIdx? fun l => !l.skip && l.xlat.isNone

/-- A space-0 store: every lane is translated, and then they are performed in ascending order. -/
def globalStore (s : State) (key : Nat) (a : Access) : State :=
  match untranslated a with
  | some n => withXlat (modAcc s key a.id fun a => { a with cur := n }) key { a with cur := n } fun s _ =>
      modAcc s key a.id fun b => { b with cur := a.cur }
  | none =>
    if a.lane.skip then storeDone s key a
    else match a.lane.xlat with
      | some x => storeLane s key a x
      | none => s

/-- WRITE_PERFORMED of an element: a store, FESET or ATOM of its own scratchpad, a store accepted elsewhere, a space-0
store, or TSYNC. -/
def writePerform (s : State) (key : Nat) (a : Access) : State :=
  let e := getE s key
  let r := keyRegion key
  let c := (getR s r).cycle
  let own := a.space == 1 && decide (a.fired + 2 ≤ c) && ownTurn e a.id
  match a.kind with
    | .st | .sts =>
      if a.space = 0 then globalStore s key a
      else if own then modE (dropAcc s key a.id) key fun e => spadStore e a
      else if a.space = 2 && accLands s key a then land s key a fun e => spadStore e a
      else s
    | .feset full =>
      if own then modE (dropAcc s key a.id) key fun e => setFull e a.addr full
      else if a.space = 2 && accLands s key a then land s key a fun e => setFull e a.addr full
      else s
    | .atom op size =>
      if own ∧ a.lane.got = none then
        let old := (spadRead e a.addr a.size).toNat
        modE (modAcc s key a.id fun a => a.setLane fun l => { l with got := some (BitVec.ofNat 128 old) }) key
          fun e => spadWrite e a.addr a.size (atomApply op size old (atomV a size) (atomC a size))
      else s
    | .tsync =>
      match e.touched.find? fun ln => !lineAt s r ln 2 with
      | some ln => pushOut s r ln 2
      | none => if a.fired + 20 ≤ c then dropAcc s key a.id else s
    | _ => s

/-- A store of the sequencer is performed at its scope's point (R282, R341); stores to one line, and those to
device registers, go in order (R345, R385). -/
def seqStorePerform (s : State) (r i : Nat) : State :=
  let q := getSeq s r
  match q.stores.find? fun w => w.id == i with
  | none => s
  | some w =>
    if q.stores.any fun v => decide (v.id < i) && (decide (v.pa / 64 = w.pa / 64)
        || (paClass s v.pa == .registers && paClass s w.pa == .registers)) then s
    else
      let done := fun (s : State) => modSeq s r fun q => { q with stores := q.stores.filter fun v => v.id != i }
      match paClass s w.pa with
      | .registers => done (devStore s (ownerOf (getR s r)) (some r) w.pa w.data)
      | _ =>
        let p := placeBytes (w.pa % 64) w.data
        let v : Via := ⟨w.pa, w.xlat.plc, pteMt w.xlat.pte != 0, w.xlat.root, w.xlat.leafLines⟩
        let ln := lineKey s w.pa
        match writeLine s r v w.scope.code.toNat p.1 p.2 (.store r i) with
        | .wait s => s
        | .done s _ _ _ => done (modSeq s r fun q =>
            { q with touched := if q.touched.contains ln then q.touched else ln :: q.touched })

/-- WRITE_PERFORMED. -/
def execWritePerformed (r : Nat) (w : Actor) (i : Nat) (s : State) : Host.Outcome State Fault Refusal :=
  withUnit (regionOk r && (match w with | .elem k => keyRegion k == r && siteOk (getR s r) (keySite k) | .seq q => q == r)) s fun s =>
    match w with
    | .elem key => match findAcc (getE s key) i with
      | some a => if a.fault.isSome then s else writePerform s key a
      | none => s
    | .seq _ => seqStorePerform s r i

/-! ## Late faults (R203) -/

/-- LATE_FAULT: the fault has returned and the datapath is free; the element traps, and a register that the access would
have loaded is no longer pending (log 8). -/
def execLateFault (r st el i : Nat) (s : State) : Host.Outcome State Fault Refusal :=
  withUnit (elemOk s r st el) s fun s =>
    let key := ekey r st el
    let e := getE s key
    match findAcc e i with
    | some a => match a.fault with
      | some (c, ad) =>
        if e.busy ≤ (getR s r).cycle ∧ e.trapRec = none ∧ e.st ≠ .trapped ∧ e.st ≠ .frozen then
          let s := dropAcc s key i
          let s := match a.dest with | .reg n => modE s key fun e => clearPend e n | _ => s
          elemTrap s key 0 c 0 a.beat a.slot a.word ad a.ops
        else s
      | none => s
    | none => s

/-! ## The external port (R197, R210, R211) -/

/-- The number by which a scratchpad's external port knows a requester. -/
def elemPortNo (key : Nat) : Nat := key % 320
def pumpPortNo (p : Nat) : Nat := 320 + p
def islandPortNo (m : Nat) : Nat := 330 + m
def seqPortNo : Nat := 340
def martenPortNo : Nat := 350
def notifyPortNo : Nat := 360

/-- The external port of element `key` takes requester `who` in this cycle: it is free, the element port has gone first, and
no requester that waited in the last cycle comes before it in the round (R197). -/
def portFree (s : State) (key who : Nat) : Bool :=
  let e := getE s key
  let c := (getR s (keyRegion key)).cycle
  let at_ := fun n => (n + 512 - e.portRr) % 512
  decide (e.portBusy ≤ c) && ownServed e c && !(e.portWait.any fun w => decide (c ≤ w.2 + 1) && w.1 != who && decide (at_ w.1 < at_ who))

/-- The port serves a requester. -/
def portTake (e : Elem) (who c : Nat) : Elem :=
  { e with portBusy := c + 1, portRr := (who + 1) % 512, portWait := e.portWait.filter fun w => w.1 != who && decide (c ≤ w.2 + 1) }

/-- A requester finds the port taken. -/
def portMiss (e : Elem) (who c : Nat) : Elem :=
  { e with portWait := (who, c) :: e.portWait.filter fun w => w.1 != who && decide (c ≤ w.2 + 1) }

/-- One request at an external port: `f` where the port takes it. -/
def usePort (s : State) (key who : Nat) (f : State → State) : State :=
  let c := (getR s (keyRegion key)).cycle
  if portFree s key who then f (modE s key fun e => portTake e who c) else modE s key fun e => portMiss e who c

/-- No write that the port has accepted is still to be written to the granule of an address. -/
def portClear (s : State) (key addr : Nat) : Bool := (landings s key).all fun l => decide (l.addr / 16 ≠ addr / 16)

/-- EXTERNAL_PORT_REQUEST: the owner's port accepts or refuses a remote access of another element. A read raises its counts; a
write goes to the writes that are to be written in that order (R198, R210, R211). -/
def portRequest (s : State) (key : Nat) (a : Access) : State :=
  let c := (getR s (keyRegion key)).cycle
  let t := getE s a.target
  let ns := sealsOver t a.addr
  let req := fun (f : State → State) => usePort s a.target (elemPortNo key) f
  let write := fun (_ : Unit) => req fun s =>
    if ns ≠ [] then faultAcc s key a.id 0x07 a.addr
    else modAcc (landPut s a.target (.acc key a.id) a.addr) key a.id fun a => { a with accepted := some c }
  if a.space ≠ 2 ∨ a.accepted.isSome ∨ !a.live ∨ c < a.fired + 1 + hops (keySite key) (keySite a.target) then s
  else match a.kind with
    | .ldr =>
      if !portClear s a.target a.addr ∨ (ns.any fun n => decide (1023 ≤ (tget t.seals n {}).count)) then s
      else req fun s =>
        if ns = [] then faultAcc s key a.id 0x07 a.addr
        else modAcc (modE s a.target fun e => countSeal e ns (· + 1)) key a.id fun b =>
          { b.setLane (fun l => { l with got := some (spadRead t a.addr 16) }) with raised := ns, accepted := some c }
    | .st | .feset _ | .stf => write ()
    | _ => s

def execExternalPortRequest (r st el i : Nat) (s : State) : Host.Outcome State Fault Refusal :=
  accStep r st el i s fun key a => portRequest s key a

/-! ## Waiting LDF and STF (R218) -/

/-- An earlier LDF or STF of the element waits for the same granule. -/
def waitsBehind (e : Elem) (a : Access) : Bool :=
  e.accs.any fun b => decide (b.id < a.id) && b.target == a.target && b.addr == a.addr && b.live
    && (match a.kind, b.kind with | .ldf _, .ldf _ => true | .stf, .stf => true | _, _ => false)

/-- LDF_COMPLETE: where the granule is full it completes, and `.clr` empties it; where it is empty when its turn at the element
port comes, it waits there. -/
def execLdfComplete (r st el i : Nat) (s : State) : Host.Outcome State Fault Refusal :=
  accStep r st el i s fun key a =>
    let e := getE s key
    let c := (getR s r).cycle
    match a.kind with
    | .ldf clr =>
      if a.lane.skip then (if loadDue key a ≤ c then deliver s key a else s)
      else if c < a.fired + 2 ∨ !(a.parked || ownTurn e a.id) then s
      else if isFull e a.addr ∧ !waitsBehind e a then
        if c < loadDue key a then s
        else
          let v := spadRead e a.addr 16
          let s := if clr then modE s key fun e => setFull e a.addr false else s
          deliver s key (a.setLane fun l => { l with got := some v })
      else modAcc s key a.id fun a => { a with parked := true }
    | _ => s

/-- STF_COMPLETE: the granule is empty; it is written and becomes full. On a full granule it waits at the port. Where the granule
has become sealed while it waited, the write is refused when it could be made, as a late fault (DESIGN CHOICE, log 27). -/
def execStfComplete (r st el i : Nat) (s : State) : Host.Outcome State Fault Refusal :=
  accStep r st el i s fun key a =>
    let e := getE s key
    let t := getE s a.target
    let c := (getR s r).cycle
    let turn := a.parked || (if a.space = 1 then decide (a.fired + 2 ≤ c) && ownTurn e a.id else accLands s key a)
    match a.kind with
    | .stf =>
      if !turn then s
      else if isFull t a.addr || waitsBehind e a then
        if a.parked then s
        else modAcc (landed s a.target (.acc key a.id) a.addr id) key a.id fun a => { a with parked := true }
      else if a.parked && isSealed t a.addr then faultAcc s key a.id 0x07 a.addr
      else land s key a fun e => setFull (spadWrite e a.addr 16 a.data.toNat) a.addr true
    | _ => s

/-! ## Arrivals and barriers (R214, R215, R225) -/

/-- ARRIVE_SEND: every earlier access is performed at the arrival's scope. -/
def execArriveSend (r st el i : Nat) (s : State) : Host.Outcome State Fault Refusal :=
  accStep r st el i s fun key a =>
    if a.kind ≠ .arrive ∨ a.sentOff then s
    else if performedAt s key a.id a.scope.code.toNat then modAcc s key a.id fun a => { a with sentOff := true }
    else match (getE s key).touched.find? fun ln => !lineAt s r ln a.scope.code.toNat with
      | some ln => pushOut s r ln a.scope.code.toNat
      | none => s

/-- What an update comes to at its barrier's port. -/
inductive UpdRes where
  | wait (s : State)
  | refused (s : State)
  | done (s : State)
  deriving DecidableEq, Repr

/-- An update `upd` at the port of its barrier: one per cycle, behind every update of the same barrier that waits there. One that has
to wait takes its place, and other requests pass it (R214, R215). -/
def portUpdate (s : State) (key off : Nat) (src : UpdFrom) (who : Nat) (upd : Elem → BarRes) : UpdRes :=
  let c := (getR s (keyRegion key)).cycle
  if !portFree s key who then .wait (modE s key fun e => portMiss e who c)
  else
    let e := getE s key
    let here := e.held.any fun h => h.src == src
    let keep := if here then s else modE s key fun e => { portTake e who c with held := e.held ++ [⟨off, src⟩] }
    if updAhead s key off src then .wait keep
    else
      let out := fun (e : Elem) => { portTake e who c with held := e.held.filter fun h => h.src != src && updLive s (keyRegion key) h.src }
      match upd e with
      | .refused => .refused (modE s key out)
      | .waits => .wait keep
      | .applied e' => .done (setE s key (out e'))

/-- BARRIER_UPDATE: an arrival that has been sent is applied at the barrier's port. -/
def execBarrierUpdate (r st el i : Nat) (s : State) : Host.Outcome State Fault Refusal :=
  accStep r st el i s fun key a =>
    let c := (getR s r).cycle
    let due := a.space == 1 || decide (a.fired + 1 + hops (keySite key) (keySite a.target) ≤ c)
    if a.kind ≠ .arrive ∨ !a.sentOff ∨ !due then s
    else if isSealed (getE s a.target) a.addr then faultAcc s key a.id 0x07 a.addr
    else match portUpdate s a.target a.addr (.acc key a.id) (elemPortNo key) fun e => barrierUpdate e a.addr 1 0 with
      | .refused s => faultAcc s key a.id 0x05 a.addr
      | .wait s => s
      | .done s => dropAcc s key a.id

/-- A token enters a queue in a slot that its feeder holds (R170). -/
def enqueue (s : State) (key q : Nat) (w : Feeder) (t : Token) : State :=
  modE s key fun e =>
    let x := getQ e q
    setQ e q { x with toks := x.toks ++ [t], resv := removeFirst (fun v => v.who == w) x.resv }

/-- NOTIFY_TOKEN_DELIVER (R215): the head of an element's notify queue goes to its target; a target that does not exist takes
nothing. -/
def execNotifyTokenDeliver (r st el : Nat) (s : State) : Host.Outcome State Fault Refusal :=
  withUnit (elemOk s r st el) s fun s =>
    let key := ekey r st el
    let e := getE s key
    let x := getR s r
    match e.notify with
    | [] => s
    | n :: rest =>
      let pop := fun (s : State) => modE s key fun e => { e with notify := rest }
      let t := ekey r n.site n.elem
      if !siteOk x n.site ∨ 5 < n.queue then pop s
      else if usableResv (getQ (getE s t) n.queue).resv (.notify key) x.cycle = 0 then s
      else usePort s key notifyPortNo fun s => enqueue (pop s) t n.queue (.notify key) n.tok

end Sys2Proof.Machine
end

