-- ==== Sys2Proof/Machine/Channels.lean ====
section
/-!
DEFINITION. Machine/Channels.lean: tokens on their way, credits and their arbiters, end of wave, stream ports, deal ports and
detach (R114 to R118, R167 to R181, R331, R332, R500 to R502).
-/
namespace Sys2Proof.Machine

/-! ## Draining (R115, R116) -/

/-- The queues that a slot's instruction reads: operands, and the queue of its tag test (R103, R115). -/
def slotQueues (w : BitVec 64) : List Nat :=
  match legalElem w with
  | none => []
  | some i => match i.form with
    | some f => f.queues.map (·.val) ++ (match f.hdr.tagTest with | some (q, _) => [q.val] | none => [])
    | none => []

/-- A slot is live (R115). -/
def slotLive (e : Elem) (w : BitVec 64) : Bool :=
  w.getLsbD 63 && wordPredTest e w && (slotQueues w).all fun q => !(getQ e q).shut

/-- The element may enter Draining. -/
def maySleep (e : Elem) (cycle : Nat) : Bool :=
  e.st == .running && (upto 6).all (fun q => (getQ e q).shut) && decide (e.busy ≤ cycle) && e.pend == 0
    && e.slots.all fun p => !slotLive e p.2

/-- ENTER_DRAINING. -/
def execEnterDraining (r st el : Nat) (s : State) : Host.Outcome State Fault Refusal :=
  withUnit (elemOk s r st el) s fun s =>
    let x := getR s r
    let key := ekey r st el
    if acting x && maySleep (getE s key) x.cycle then modE s key fun e => { e with st := .draining, markers := 0 } else s

/-- Channels that the configuration binds. -/
def boundChans (e : Elem) : List Nat := (upto 6).filter fun k => liveRoutes e k != []

/-- Every bound channel has sent its marker. -/
def markersSent (e : Elem) : Bool := (boundChans e).all fun k => e.markers.getLsbD k

/-- A Draining element that has sent every marker enters Reconfiguring (R116). -/
def toReconf (e : Elem) : Elem := if e.st = .draining ∧ markersSent e then { e with st := .reconfiguring } else e

/-- END_OF_WAVE_MARKER_SEND. -/
def execEndOfWaveMarkerSend (r st el k : Nat) (s : State) : Host.Outcome State Fault Refusal :=
  withUnit (elemOk s r st el && decide (k < 6)) s fun s =>
    let x := getR s r
    let key := ekey r st el
    let e := getE s key
    if acting x && e.st == .draining && liveRoutes e k != [] && !e.markers.getLsbD k && decide (1 ≤ credits s key k 0) then
      setE s key (toReconf { send e k marker x.cycle none with markers := e.markers ||| BitVec.ofNat 6 (2 ^ k) })
    else s

/-- MARKER_REACHES_HEAD (R114): an open queue removes the marker, which closes it; what stands behind the end of a wave in a
closed queue stays for the next. The sequence unit keeps a marker at the head of its queue while an occupancy bit is set (R432). -/
def execMarkerReachesHead (r st el q : Nat) (s : State) : Host.Outcome State Fault Refusal :=
  withUnit (elemOk s r st el && decide (q < 6)) s fun s =>
    modE s (ekey r st el) fun e =>
      let x := getQ e q
      match x.toks with
      | t :: rest => if t.isMarker && !x.shut && !(e.seqArm && e.seqQ == q && e.seqOcc != 0) then setQ e q { x with toks := rest, closed := true } else e
      | [] => e

/-! ## Tokens on their way (R172, R173, R184) -/

/-- Hops between a tile site and the units on the region's edges (R501). -/
def hopsWest (st : Nat) : Nat := siteCol st
def hopsEast (st : Nat) : Nat := 4 - siteCol st
def hopsPort (port st : Nat) : Nat :=
  if port < 4 then siteRow st else if port < 8 then 3 - siteRow st else hopsEast st

/-- A token of a SENDO waits for the accesses that it follows (R184). -/
def tokenHeld (s : State) (key : Nat) (t : OutTok) : Bool :=
  match t.wait with
  | some (sc, id) => !performedAt s key id sc.code.toNat
  | none => false

/-- The first token of channel k that route j has still to take, if no earlier token of the channel is held back. -/
def nextOut (s : State) (key k j : Nat) : Option OutTok :=
  let l := (getE s key).out.filter fun t => t.chan == k
  let free := l.takeWhile fun t => !tokenHeld s key t
  free.find? fun t => t.pend.contains j

/-- Takes route j off a token of the output stage. -/
def outTaken (e : Elem) (k j : Nat) : Elem :=
  { e with
    out := replaceFirst (fun t => t.chan == k && t.pend.contains j)
      (fun t => if t.pend.filter (· != j) = [] then [] else [{ t with pend := t.pend.filter (· != j) }]) e.out }

/-- A token enters the slots of a port. -/
def portEnqueue (p : PortSlots) (w : Feeder) (t : PortTok) : PortSlots :=
  { p with toks := p.toks ++ [t], resv := removeFirst (fun v => v.who == w) p.resv }

/-- TOKEN_DELIVER: a token enters the queue of route j, or the port of its channel. -/
def tokenDeliver (s : State) (key k j : Nat) : State :=
  let r := keyRegion key
  let e := getE s key
  let c := (getR s r).cycle
  match nextOut s key k j with
  | none =>
    -- the first token is held back: what it waits for travels on
    match (e.out.filter fun t => t.chan == k).find? fun t => tokenHeld s key t with
    | some t => match t.wait with
      | some (sc, _) => match e.touched.find? fun ln => !lineAt s r ln sc.code.toNat with
        | some ln => pushOut s r ln sc.code.toNat
        | none => s
      | none => s
    | none => s
  | some t =>
    let b := t.bind
    let w := Feeder.chan key k
    let pt : PortTok := ⟨key, k, t.tok, t.recs, t.sample⟩
    if bindKind b = 1 then
      let d := bindTarget b key j
      if c < t.sent + 2 + hops (keySite key) (keySite d.1) then s
      else enqueue (modE s key fun e => outTaken e k j) d.1 d.2 w t.tok
    else if bindKind b = 2 then
      if c < t.sent + 2 + hopsWest (keySite key) then s
      else modR (modE s key fun e => outTaken e k j) r fun x =>
        let n := bindPort b % 16
        let p := tget x.ports n {}
        { x with ports := tset x.ports n { p with slots := portEnqueue p.slots w pt } }
    else if bindKind b = 3 then
      let n := bindPort b
      if c < t.sent + 2 + hopsPort n (keySite key) then s
      else modR (modE s key fun e => outTaken e k j) r fun x =>
        setEnginePort x n t.tok.ctx (portEnqueue (enginePort x n t.tok.ctx) w pt)
    else s

def execTokenDeliver (r st el k j : Nat) (s : State) : Host.Outcome State Fault Refusal :=
  withUnit (elemOk s r st el && decide (k < 6 ∧ j < 4)) s fun s => tokenDeliver s (ekey r st el) k j

/-! ## Credits (R170 to R172, R500) -/

/-- A number for each feeder, in whose order the arbiters go round (R171; the order is the model's, log 18). -/
def feederNo : Feeder → Nat
  | .chan key k => (key % 320) * 8 + k
  | .port _ n => 4000 + n
  | .pump _ p => 5000 + p
  | .notify key => 6000 + key % 320

/-- The requester that comes next after number n, wrapping. -/
def nextFeeder (n : Nat) (l : List (Feeder × Nat)) : Option (Feeder × Nat) :=
  let best := fun (l : List (Feeder × Nat)) => l.foldl (fun (a : Option (Feeder × Nat)) w =>
    match a with | some b => if feederNo w.1 < feederNo b.1 then some w else some b | none => some w) none
  match best (l.filter fun w => decide (n ≤ feederNo w.1)) with
  | some w => some w
  | none => best l

/-- Slots that a feeder holds. -/
def holds (l : List Resv) (w : Feeder) : Nat := (l.filter fun v => v.who == w).length

/-- Grants `n` empty slots round-robin among the requesters (with their hops) that hold fewer than 8. -/
def grantSlots (cycle : Nat) (reqs : List (Feeder × Nat)) : Nat → List Resv → Nat → List Resv × Nat
  | 0, l, rr => (l, rr)
  | n + 1, l, rr =>
    match nextFeeder rr (reqs.filter fun w => decide (holds l w.1 < 8)) with
    | none => (l, rr)
    | some w => grantSlots cycle reqs n (l ++ [⟨w.1, cycle + 2 + w.2⟩]) (feederNo w.1 + 1)

/-- The elements of a region with their numbers. -/
def regionElems (s : State) (r : Nat) : List (Nat × Elem) := s.elems.filter fun p => keyRegion p.1 == r

/-- The feeders that request slots of queue q of an element, with their hops (R114, R170, R215, R500). -/
def requesters (s : State) (key q : Nat) : List (Feeder × Nat) :=
  let r := keyRegion key
  let x := getR s r
  let st := keySite key
  let ch := (regionElems s r).flatMap fun p =>
    if p.2.reqFrom ≤ x.cycle then
      ((upto 6).filter fun k => bindKind (bindOf p.2 k) = 1 && (liveRoutes p.2 k).any fun j => routeTarget p.2 p.1 k j == (key, q)).map
        fun k => (Feeder.chan p.1 k, hops st (keySite p.1))
    else []
  let pt := x.seq.spbind.filterMap fun p =>
    let sites := portSites x p.1 ++ (x.stoat.drains.filter fun d => d.2.1 == p.1 && !d.2.2).map (·.1)
    if spEnabled p.2 && !spOut p.2 && spQueue p.2 == q && spElem p.2 == keyElem key && sites.contains st
    then some (Feeder.port r p.1, hopsWest st) else none
  let pu := x.pumps.filterMap fun p => if p.2.bound.contains (st, keyElem key, q) then some (Feeder.pump r p.1, hopsEast st) else none
  let nt := (regionElems s r).filterMap fun p => match p.2.notify with
    | n :: _ => if n.site = st ∧ n.elem = keyElem key ∧ n.queue = q then some (Feeder.notify p.1, hops st (keySite p.1)) else none
    | [] => none
  ch ++ pt ++ pu ++ nt

/-- CREDIT_RETURN: the arbiter of a queue grants its empty slots. -/
def creditReturn (s : State) (key q : Nat) : State :=
  let x := getQ (getE s key) q
  let g := grantSlots (getR s (keyRegion key)).cycle (requesters s key q) (emptySlots x (getR s (keyRegion key)).cycle) x.resv x.rr
  modE s key fun e => setQ e q { x with resv := g.1, rr := g.2 }

def execCreditReturn (r st el q : Nat) (s : State) : Host.Outcome State Fault Refusal :=
  withUnit (elemOk s r st el && decide (q < 6)) s fun s => creditReturn s (ekey r st el) q

/-- Channels of a region bound to a stream or engine port. -/
def portChans (s : State) (r kind n : Nat) (h : Nat → Nat) : List (Feeder × Nat) :=
  let c := (getR s r).cycle
  (regionElems s r).flatMap fun p =>
    if p.2.reqFrom ≤ c then
      ((upto 6).filter fun k => bindKind (bindOf p.2 k) == kind && bindPort (bindOf p.2 k) == n).map
        fun k => (Feeder.chan p.1 k, h (keySite p.1))
    else []

/-- Grants the empty slots of 8 of a port. -/
def grantPort (cycle : Nat) (reqs : List (Feeder × Nat)) (p : PortSlots) : PortSlots :=
  let g := grantSlots cycle reqs (8 - p.toks.length - p.resv.length) p.resv p.rr
  { p with resv := g.1, rr := g.2 }

/-- An outbound port grants credits: enabled, its ring passes R502 and is not full, its gateway passes (R180, R464). -/
def outGrants (s : State) (r n : Nat) : Bool :=
  let b := spOf s r n
  let d := ringDesc s (spDie b) (spRing b)
  spEnabled b && spOut b && ringOk d none && !ringFull d && gwPasses (getR s r)

/-- Entries of a pump's request queue (R257). -/
def pumpDepth : Nat := 8

/-- Tokens of a packet that a feeder has in a request port, or may still send in slots that it holds there. -/
def packetPart (p : PortSlots) (w : Feeder) : Nat :=
  holds p.resv w + (p.toks.filter fun t => !t.tok.isMarker && w == Feeder.chan t.key t.chan).length

/-- Complete packets in a request port. -/
def fullPackets (p : PortSlots) (ws : List Feeder) : Nat :=
  (ws.map fun w => (p.toks.filter fun t => !t.tok.isMarker && w == Feeder.chan t.key t.chan).length / 4).sum

/-- The request port of a pump grants the slots of one packet at a time to one channel; token 3 needs a free entry of the
request queue (R271). -/
def grantPacket (cycle : Nat) (reqs : List (Feeder × Nat)) (p : Pump) : Nat → Pump
  | 0 => p
  | n + 1 =>
    let x := p.reqPort
    if 8 ≤ x.toks.length + x.resv.length then p
    else
      let next := match reqs.find? fun w => packetPart x w.1 % 4 != 0 with
        | some w => some w
        | none => nextFeeder x.rr reqs
      match next with
      | none => p
      | some w =>
        if packetPart x w.1 % 4 = 3 ∧ pumpDepth ≤ p.queue.length + fullPackets x (reqs.map (·.1)) then p
        else grantPacket cycle reqs { p with
          reqPort := { x with resv := x.resv ++ [⟨w.1, cycle + 2 + w.2⟩], rr := feederNo w.1 + 1 } } n

/-- The arbiters of a region's stream ports and engine ports grant what they can; each operand port of an island has slots for
each context (R237). -/
def portGrants (s : State) (r : Nat) : State :=
  let c := (getR s r).cycle
  let s := (upto 16).foldl (fun s n =>
    let q := portChans s r 2 n hopsWest
    if q ≠ [] ∧ outGrants s r n then
      modR s r fun x => let p := tget x.ports n {}; { x with ports := tset x.ports n { p with slots := grantPort c q p.slots } }
    else s) s
  let s := (upto 8).foldl (fun s n =>
    let q := portChans s r 3 n (hopsPort n)
    let pu := fun ctx => (getR s r).pumps.filterMap fun p => if p.2.bound.contains (32 + n, ctx, 0) then some (Feeder.pump r p.1, 0) else none
    if q = [] ∧ (upto 4).all (fun ctx => pu ctx == []) then s else (upto 4).foldl (fun s ctx => modR s r fun x => setEnginePort x n ctx (grantPort c (q ++ pu ctx) (enginePort x n ctx))) s) s
  (upto 2).foldl (fun s p =>
    let q := portChans s r 3 (0x10 + 2 * p) hopsEast
    let d := portChans s r 3 (0x11 + 2 * p) hopsEast
    let s := if q = [] then s else modR s r fun x => { x with pumps := tset x.pumps p (grantPacket c q (tget x.pumps p {}) 8) }
    if d = [] then s else modR s r fun x => let u := tget x.pumps p {}; { x with pumps := tset x.pumps p { u with dataPort := grantPort c d u.dataPort } }) s

/-! ## Stream ports (R180, R181, R332, R502) -/

/-- The gateway's record of a mismatch (R181, R462). -/
def gwLog (s : State) (r ring die port : Nat) (out queue : Bool) : State :=
  logPush s 1 0x0A (ownerOf (getR s r)) (some r) 0
    (ring + die * 2 ^ 12 + port * 2 ^ 14 + (if out then 2 ^ 18 else 0) + (if queue then 2 ^ 19 else 0))

/-- The element whose token was refused traps, unless it is Trapped already (R181, R503). -/
def nack (s : State) (key k : Nat) : State :=
  elemTrap s key 2 0x0A 0 0 0 0 k []

def modPort (s : State) (r n : Nat) (f : StreamPort → StreamPort) : State :=
  modR s r fun x => { x with ports := tset x.ports n (f (tget x.ports n {})) }

/-- A marker at an outbound port (R332): whether one is to be forwarded, and the port after it. -/
def portMarker (s : State) (r n : Nat) (t : PortTok) (p : StreamPort) : Bool × StreamPort :=
  let draining := (getR s r).stoat.drains.any fun d => d.1 == keySite t.key
  let p := if draining then { p with gone := (t.key, t.chan) :: p.gone } else { p with marked := (t.key, t.chan) :: p.marked }
  let chans := (portChans s r 2 n hopsWest).filterMap fun w => match w.1 with
    | .chan key k => if p.gone.contains (key, k) then none else some (key, k)
    | _ => none
  if chans ≠ [] ∧ chans.all fun c => p.marked.contains c then (true, { p with marked := [] }) else (false, p)

/-- OUTBOUND_PORT_WRITE: a token whose way to the ring crosses a failed fabric is dropped and logged (R456). -/
def outboundWrite (s : State) (r n : Nat) : State :=
  let b := spOf s r n
  let x := getR s r
  let p := tget x.ports n {}
  match p.slots.toks with
  | [] => s
  | t :: rest =>
    let d := ringDesc s (spDie b) (spRing b)
    if !(spEnabled b && spOut b && ringOk d none && !ringFull d && gwPasses x && decide (p.busy ≤ x.cycle)) then s
    else
      let pop := fun (p : StreamPort) => { p with slots := { p.slots with toks := rest }, busy := x.cycle + 1 }
      if dieFar s (dieOf r) (spDie b) then
        tellLoss (logPush (modPort s r n pop) 2 0x0C (ownerOf x) (some r) (ringEntryAddr d (ringWr d) + s.devid * 2 ^ 47) s.devid) r
      else if ringOwner d ≠ ownerOf x then
        nack (gwLog (modPort s r n pop) r (spRing b) (spDie b) n true false) t.key t.chan
      else if t.tok.isMarker then
        let m := portMarker s r n t (pop p)
        let s := modPort s r n fun _ => m.2
        if m.1 then gwUnit (ringPushBy s r (spDie b) (spRing b) marker) r else s
      else gwUnit (ringPushBy (modPort s r n pop) r (spDie b) (spRing b) t.tok) r

def execOutboundPortWrite (r n : Nat) (s : State) : Host.Outcome State Fault Refusal :=
  withUnit (regionOk r && decide (n < 16)) s fun s => outboundWrite s r n

/-- The entry that an inbound port may take now: its ring passes R502, has an entry waiting for the consumer, and the gateway
passes. -/
def inboundHead (s : State) (r n : Nat) : Option Token :=
  let b := spOf s r n
  let d := ringDesc s (spDie b) (spRing b)
  if spEnabled b && !spOut b && !dieFar s (dieOf r) (spDie b) && ringOk d (some (spCons b)) && ringRd d (spCons b) != ringWr d
      && gwPasses (getR s r)
  then some (ringRead s d (ringRd d (spCons b))) else none

/-- An inbound port meets a ring of another owner: it is disabled, and the sequencer traps once (R181). -/
def inboundMismatch (s : State) (r n : Nat) : State :=
  let b := spOf s r n
  raiseAsync (disablePort (gwLog s r (spRing b) (spDie b) n false false) r n) r 5 0x0A 4 0

/-- What the writers of an inbound port's entry wrote before it is published before the port takes it. -/
def inboundSync (s : State) (r n : Nat) : State × Bool := let b := spOf s r n; ringSync s r (spDie b) (spRing b) (spCons b)

/-- Takes the entry of an inbound port. -/
def inboundPop (s : State) (r n : Nat) : State :=
  let b := spOf s r n
  gwUnit (ringPop s (spDie b) (spRing b) (spCons b)) r

def portMismatch (s : State) (r n : Nat) : Bool :=
  let b := spOf s r n
  ringOwner (ringDesc s (spDie b) (spRing b)) != ownerOf (getR s r)

/-- An active request of a pump takes its source from the port. -/
def pumpSource (x : Region) (n : Nat) : Bool :=
  x.pumps.any fun p => p.2.active.any fun a => a.stage < 3 && !a.dead && a.req.desc.extractLsb' 128 64 == BitVec.ofNat 64 (3 * 2 ^ 61 + n)

/-- Slots that a port holds in a queue, less the tokens that are on their way there. -/
def portSlots (s : State) (r n key q : Nat) : Nat :=
  usableResv (getQ (getE s key) q).resv (.port r n) (getR s r).cycle
    - ((tget (getR s r).ports n {}).moves.filter fun m => m.key == key && m.queue == q).length

/-- A port sends a token to a queue in which it holds a slot; it may send another in the next cycle (R180). -/
def portSend (s : State) (r n key q : Nat) (t : Token) : State :=
  let c := (getR s r).cycle
  modPort s r n fun p => { p with moves := p.moves ++ [⟨key, q, t, c⟩], busy := c + 1 }

/-- The first token on its way from a port that has arrived at its queue (R172, R501). -/
def portArrival (s : State) (r n : Nat) : Option PortMove :=
  (tget (getR s r).ports n {}).moves.find? fun m => decide (m.sent + 2 + hopsWest (keySite m.key) ≤ (getR s r).cycle)

/-- It enters the queue. -/
def portArrive (s : State) (r n : Nat) (m : PortMove) : State :=
  enqueue (modPort s r n fun p => { p with moves := removeFirst (fun v => v == m) p.moves }) m.key m.queue (.port r n) m.tok

/-- INBOUND_PORT_DELIVER: while a request of a pump takes its source from the port, the port delivers to no queue (log 21). -/
def inboundDeliver (s : State) (r n : Nat) : State :=
  let x := getR s r
  let b := spOf s r n
  match portArrival s r n with
  | some m => portArrive s r n m
  | none => match inboundHead s r n with
    | none => s
    | some t =>
      if (dealSites x n).isSome ∨ pumpSource x n ∨ !acting x ∨ x.cycle < (tget x.ports n {}).busy then s
      else if portMismatch s r n then inboundMismatch s r n
      else
        let key := ekey r (spSite b) (spElem b)
        let w := inboundSync s r n
        if portSlots s r n key (spQueue b) = 0 then s
        else if !w.2 then w.1
        else portSend (inboundPop w.1 r n) r n key (spQueue b) t

def execInboundPortDeliver (r n : Nat) (s : State) : Host.Outcome State Fault Refusal :=
  withUnit (regionOk r && decide (n < 16)) s fun s => inboundDeliver s r n

/-! ## Deal ports (R331, R335) -/

/-- The queue of a site that the port deals to, and whether it has a slot for the port. -/
def dealQueue (s : State) (r n st : Nat) : Nat × Nat := let b := spOf s r n; (ekey r st (spElem b), spQueue b)
def dealSlot (s : State) (r n st : Nat) : Bool :=
  let q := dealQueue s r n st
  portSlots s r n q.1 q.2 != 0
def dealTo (s : State) (r n st : Nat) (t : Token) : State :=
  let q := dealQueue s r n st
  portSend s r n q.1 q.2 t

/-- DEAL_PORT_DELIVER. -/
def dealDeliver (s : State) (r n : Nat) : State :=
  let x := getR s r
  let p := tget x.ports n {}
  match portArrival s r n, dealSites x n with
  | some m, _ => portArrive s r n m
  | none, none => s
  | none, some live =>
    if !acting x ∨ !spEnabled (spOf s r n) ∨ x.cycle < p.busy then s
    else match p.dealLeft with
    | st :: rest =>
      if dealSlot s r n st then dealTo (modPort s r n fun p => { p with dealLeft := rest }) r n st marker else s
    | [] =>
      match x.stoat.drains.find? fun d => d.2.1 == n && !d.2.2 && dealSlot s r n d.1 with
      | some d => dealTo (modR s r fun x => { x with stoat := { x.stoat with
          drains := x.stoat.drains.map fun y => if y = d then (d.1, d.2.1, true) else y } }) r n d.1 marker
      | none =>
        match inboundHead s r n with
        | none => s
        | some t =>
          let w := inboundSync s r n
          if portMismatch s r n then inboundMismatch s r n
          else if !w.2 then w.1
          else
          let s := w.1
          if t.isMarker then modPort (inboundPop s r n) r n fun p => { p with dealLeft := live, eowPassed := true }
          else
            match (live.filter (p.lastDeal < ·) ++ live.filter (· ≤ p.lastDeal)).find? fun st => dealSlot s r n st with
            | none => s
            | some st =>
              modPort (dealTo (inboundPop s r n) r n st t) r n fun p =>
                { p with lastDeal := st, eowPassed := p.eowPassed || t.eow, dealLeft := if t.eow then live.filter (· != st) else [] }

def execDealPortDeliver (r n : Nat) (s : State) : Host.Outcome State Fault Refusal :=
  withUnit (regionOk r && decide (n < 16)) s fun s => dealDeliver s r n

/-! ## Detach (R176, R177) -/

/-- DTIME of a region in ns. -/
def detachTime (x : Region) : Nat := (x.seq.strmctl.extractLsb' 0 10).toNat * 1000

/-- Queue-port bindings have the fields of stream-port bindings (R296). -/
def sqOf (s : State) (r n : Nat) : BitVec 64 := tget (getSeq s r).sqbind n 0

/-- A route of a multicast channel holds its stream back: a slot waits for that channel alone, and the route alone has no
credit. -/
def routeHolds (s : State) (key k j : Nat) : Bool :=
  let e := getE s key
  let c := (getR s (keyRegion key)).cycle
  let ctx := otagCtx e k
  let lacks := fun j => usableResv (resvAt s key k j ctx) (.chan key k) c ≤ owed e key k (reach (bindOf e k) key j ctx)
  let waits := e.slots.any fun p => match legalElem p.2 with
    | some i => match i.form with
      | some f => f.chan.any (fun q => q.val == k) && ready s key { f with d := .unused } ctx
      | none => false
    | none => false
  let marks := e.st == .draining && !e.markers.getLsbD k
  decide (2 ≤ (liveRoutes e k).length) && (waits || marks) && (liveRoutes e k).filter lacks == [j]

/-- The regions in which consumer c of a ring is bound, with the port: a stream port, or a queue port from 16 on. -/
def ringConsumers (s : State) (die ring c : Nat) : List (Nat × Nat) :=
  let is := fun (b : BitVec 64) => spEnabled b && !spOut b && spDie b == die && spRing b == ring && spCons b == c
  s.regions.flatMap fun p =>
    ((p.2.seq.spbind.filter fun q => is q.2).map fun q => (p.1, q.1)) ++ ((p.2.seq.sqbind.filter fun q => is q.2).map fun q => (p.1, 16 + q.1))

/-- A pump waits to send a token to stream port n. -/
def pumpSends (x : Region) (n : Nat) : Bool :=
  x.pumps.any fun p => p.2.accs.any fun a => a.p.tok.isSome && a.p.ek == 3 && a.p.addr % 16 == n

/-- DIE and RING of a Marten job record (R417). -/
def jobDie (j : MJob) : Nat := field j.rec_.toNat 33 32
def jobRing (j : MJob) : Nat := field j.rec_.toNat 31 20

/-- A Marten job waits to send a token to a ring. -/
def jobSends (j : MJob) (die ring : Nat) : Bool :=
  j.started && j.pb && j.todo != [] && j.ending.isNone && jobDie j == die && jobRing j == ring

/-- A producer of the ring has a token ready: an outbound port that holds one, a pump that sends one through its port, a QPUT that
waits for room, or a Marten job (R176). -/
def ringWaits (s : State) (die ring : Nat) : Bool :=
  let is := fun (b : BitVec 64) => spEnabled b && spOut b && spDie b == die && spRing b == ring
  (s.regions.any fun p =>
    (p.2.seq.spbind.any fun q => is q.2 && ((tget p.2.ports q.1 {}).slots.toks != [] || pumpSends p.2 q.1))
      || (match p.2.seq.qputWait with | some n => is (tget p.2.seq.sqbind n 0) | none => false))
    || s.martens.any fun p => p.2.jobs.any fun j => jobSends j die ring

/-- A ring consumer holds its stream back: the ring is full for it alone. -/
def ringHolds (s : State) (die ring c : Nat) : Bool :=
  let d := ringDesc s die ring
  ringOk d none && decide (2 ≤ ringNcons d) && ringWaits s die ring
    && ((upto (ringNcons d)).filter fun j => !ringDet d j && (ringWr d + 2 ^ 32 - ringRd d j) % 2 ^ 32 == 2 ^ ringLog2 d) == [c]

/-- The consumers of a region that hold a stream back now. -/
def holdingBack (s : State) (r : Nat) : List DetachWho :=
  let x := getR s r
  let routes := (regionElems s r).flatMap fun p => (upto 6).flatMap fun k =>
    ((liveRoutes p.2 k).filter fun j => routeHolds s p.1 k j).map fun j => DetachWho.route r (keySite p.1) (keyElem p.1) k j
  let rings := (x.seq.spbind ++ x.seq.sqbind).filterMap fun p =>
    if spEnabled p.2 && !spOut p.2 && ringHolds s (spDie p.2) (spRing p.2) (spCons p.2)
    then some (.ring (spDie p.2) (spRing p.2) (spCons p.2)) else none
  routes ++ rings

/-- One ns passes for the consumers that hold a stream back; not while the region is pre-empted or restored. -/
def heldTick (s : State) (r : Nat) : State :=
  let x := getR s r
  if !acting x ∨ detachTime x = 0 then s
  else
    let h := (holdingBack s r).map fun w => (w, 1 + (match x.held.find? fun p => p.1 == w with | some p => p.2 | none => 0))
    if h = x.held then s else setR s r { x with held := h }

/-- The hold has lasted the detach time. -/
def heldOut (s : State) (r : Nat) (w : DetachWho) : Bool :=
  let x := getR s r
  detachTime x != 0 && x.held.any fun p => p.1 == w && decide (detachTime x ≤ p.2)

/-- Removes a route from its channel's live binding. -/
def detachRoute (s : State) (key k j : Nat) : State :=
  let e := getE s key
  let t := routeTarget e key k j
  let n := owed e key k (1, t.1, t.2)
  let shared := (liveRoutes e k).any fun i => i != j && routeTarget e key k i == t
  let s := modE s key fun e => { e with det := tset e.det k (tget e.det k 0 ||| BitVec.ofNat 4 (2 ^ j)) }
  let s := if shared then s else modE s t.1 fun y =>
    let q := getQ y t.2
    let mine := (q.resv.filter fun v => v.who == .chan key k).take n
    setQ y t.2 { q with resv := mine ++ q.resv.filter fun v => v.who != .chan key k }
  raiseAsync (rebind s (keyRegion key)) (keyRegion key) 5 0x0B 4 0

/-- Sets DET of a ring consumer and disables its port. -/
def detachRing (s : State) (r n die ring c : Nat) : State :=
  let d := ringDesc s die ring
  let s := setRingDesc s die ring (ringPut d (384 + c) (384 + c) 1)
  let s := if n < 16 then disablePort s r n
    else modSeq s r fun q => { q with sqbind := tset q.sqbind (n - 16) (tget q.sqbind (n - 16) 0 &&& ~~~ BitVec.ofNat 64 (2 ^ 63)) }
  raiseAsync s r 5 0x0B 4 0

/-- STREAM_DETACH. -/
def execStreamDetach (w : DetachWho) (s : State) : Host.Outcome State Fault Refusal :=
  match w with
  | .route r st el k j => withUnit (elemOk s r st el) s fun s =>
      if heldOut s r w then modR (detachRoute s (ekey r st el) k j) r fun x => { x with held := x.held.filter fun p => p.1 != w } else s
  | .ring die ring c => .next (match (ringConsumers s die ring c).find? fun p => heldOut s p.1 w with
      | some (r, n) => modR (detachRing s r n die ring c) r fun x => { x with held := x.held.filter fun p => p.1 != w }
      | none => s)

end Sys2Proof.Machine
end

