-- ==== Sys2Proof/Machine/SeqOps.lean ====
section
/-!
DEFINITION. Machine/SeqOps.lean: what the instructions of the sequencer share (R281 to R284, R290): operands, traps, its loads
and the reading of records, and the waits for its earlier accesses.
-/
namespace Sys2Proof.Machine

/-- Runs an instruction of the sequencer in focus. -/
def seqDo (s : State) (f : Nat → Seq → State) : Host.Outcome State Fault Refusal :=
  .next (f s.focus.region (getSeq s s.focus.region))

/-- The instruction completes: the sequencer's registers change and PC moves past it. -/
def seqNext (s : State) (r : Nat) (f : Seq → Seq) : State := modSeq s r fun q => nextPc (f q)

/-- Writes sd and moves on. -/
def seqPut (s : State) (r : Nat) (d : BitVec 5) (v : BitVec 64) : State := seqNext s r fun q => setS q d v

/-- A reserved field value (R87). -/
def seqReserved (s : State) (r : Nat) : State := seqTrap s r 0x02 0

/-- A privileged instruction (R82, R87). -/
def seqPriv (s : State) (f : Nat → Seq → State) : Host.Outcome State Fault Refusal :=
  seqDo s fun r q => if q.sup then f r q else seqTrap s r 0x07 0

/-- What a read or an address of the sequencer comes to. -/
inductive SeqGot where
  | ok (s : State) (bytes : List Byte)
  | wait (s : State)
  | trap (s : State) (cause : BitVec 8) (va : Nat)
  deriving DecidableEq, Repr

/-- Goes on with what was read, or waits, or takes the trap. -/
def SeqGot.then (g : SeqGot) (r : Nat) (f : State → List Byte → State) : State :=
  match g with
  | .ok s b => f s b
  | .wait s => s
  | .trap s c va => seqTrap s r c (BitVec.ofNat 64 va)

/-- A load, store or ATOM has been issued: no trap and no pre-emption is taken before it completes (R282). -/
def seqIssued (s : State) (r : Nat) : State := modSeq s r fun q => { q with asked := true }
def SeqGot.issued (g : SeqGot) (r : Nat) : SeqGot := match g with | .wait s => .wait (seqIssued s r) | g => g

/-- What the sequencer asks of a translation: kind 0 read, 1 write, 2 atomic, 3 fetch (R390). -/
def seqReq (s : State) (r kind : Nat) : XReq :=
  let x := getR s r
  ⟨asidOf x, ownerOf x, !x.seq.sup, kind, decide (kind ≤ 1), false⟩

/-- Translates an address of the sequencer; a fault posts its record (R404). -/
def seqXlat (s : State) (r va kind : Nat) : XGot :=
  let q := seqReq s r kind
  match translate s r va q with
  | .fault s c l => .fault (if 2 ^ 57 ≤ va then s else postFault s r (faultRecord va 0 q.asid c l kind 2 0 0 0)) c l
  | g => g

/-- Translates an address for an access whose request may have been sent already: it keeps its translation (R393). -/
def seqUse (s : State) (r va kind : Nat) : XGot :=
  match (getSeq s r).inUse with
  | some (x, a) => if a = va then .ok s x else seqXlat s r va kind
  | none => seqXlat s r va kind

/-- The request of the access in progress, its translation held; and the access done. -/
def seqTag (s : State) (r : Nat) : ReqTag := .seqLoad r (getSeq s r).nextReq
def seqHold (s : State) (r va : Nat) (x : Xlat) : State := modSeq s r fun q => { q with inUse := some (x, va) }
def seqRelease (s : State) (r : Nat) : State := modSeq s r fun q => { q with inUse := none, nextReq := q.nextReq + 1 }

/-- A store of the sequencer to the line has not been performed (R284). -/
def storePending (q : Seq) (pa : Nat) : Bool := q.stores.any fun w => decide (w.pa / 64 = pa / 64)

/-- Lines of the sequencer's data cache (R281). -/
def dcacheLines : Nat := 256

/-- A load of the sequencer from one line: a hit is served from the data cache, and a miss allocates its line; a page of memory type 1
goes to the home (R284, R385). The line that it gives holds the n bytes at va. -/
def seqLoadLine (s : State) (r va n : Nat) : SeqGot :=
  match seqUse s r va 0 with
  | .wait s => .wait s
  | .fault s c _ => .trap s c va
  | .ok s x =>
    let v := viaOf x va
    let q := getSeq s r
    if storePending q v.pa then .wait s
    else match paClass s v.pa with
    | .registers =>
      if q.stores.any fun w => paClass s w.pa == .registers then .wait s
      else if regOwner (ownerOf (getR s r)) then .ok s (List.replicate (v.pa % 64) 0 ++ devBytes s (devOffset v.pa) n) else .trap s 0x07 va
    | _ =>
      match if pteMt x.pte = 0 then q.dcache.find? fun c => c.line == v.pa / 64 else none with
      | some c => .ok s (lineBytes c.data 0 64)
      | none => match readLine s r v false (seqTag s r) with
        | .wait s => .wait (seqHold s r va x)
        | .done s d _ bad =>
          let s := seqRelease s r
          match bad with
          | some c => .trap s c va
          | none =>
            let s := if v.uncached then s else modSeq { s with free := s.free + 1 } r fun q =>
              { q with dcache := l1Fill dcacheLines q.dcache ⟨v.pa / 64, d, false⟩ s.free }
            .ok s (lineBytes d 0 64)

/-- A load of up to 8 bytes that lie in one line (R284, R290). -/
def seqLoad (s : State) (r va n : Nat) : SeqGot :=
  if 2 ^ 57 ≤ va then .trap s 0x06 va
  else if va % n ≠ 0 then .trap s 0x04 va
  else match seqLoadLine s r va n with
    | .ok s b => .ok s ((b.drop (va % 64)).take n)
    | g => g

/-! ## Records -/

/-- Reads n bytes of a record line by line; `k` lines are left. A line that the instruction has read is not read again. -/
def readLines (r : Nat) : Nat → State → Nat → Nat → List Byte → SeqGot
  | 0, s, _, _, acc => .ok s acc
  | k + 1, s, va, n, acc =>
    if n = 0 then .ok s acc
    else
      let m := Nat.min n (64 - va % 64)
      match tfind (getSeq s r).lines (va / 64) with
      | some d => readLines r k s (va + m) (n - m) (acc ++ lineBytes d (va % 64) m)
      | none =>
        if 2 ^ 57 ≤ va then .trap s 0x06 va
        else match seqLoadLine s r va m with
          | .ok s b => readLines r k (modSeq s r fun q => { q with lines := tset q.lines (va / 64) (BitVec.ofNat 512 (leVal b)) })
              (va + m) (n - m) (acc ++ (b.drop (va % 64)).take m)
          | g => g

/-- The sequencer reads n bytes of a record by loads of its own (R270, R284, R290, R305, R327). -/
def seqRecord (s : State) (r va n : Nat) : SeqGot := readLines r (n / 64 + 2) s va n []

/-! ## Earlier accesses of the sequencer -/

/-- Every earlier write of the sequencer is performed at the point of a scope (R299, R356). -/
def seqPerformed (s : State) (r scope : Nat) : Bool :=
  let q := getSeq s r
  q.stores == [] && q.touched.all fun ln => lineAt s r ln scope

/-- Carries the earlier writes of the sequencer on. -/
def seqPush (s : State) (r scope : Nat) : State :=
  let q := getSeq s r
  match q.stores with
  | w :: _ => seqStorePerform s r w.id
  | [] => match q.touched.find? fun ln => !lineAt s r ln scope with
    | some ln => pushOut s r ln scope
    | none => s

/-- Waits for the earlier writes, then goes on. -/
def afterWrites (s : State) (r scope : Nat) (f : State → State) : State :=
  if seqPerformed s r scope then f (modSeq s r fun q => { q with touched := q.touched.filter fun ln => !lineAt s r ln 4 }) else seqPush s r scope

/-- An acquire at reg or wider empties the data cache (R284, R347). -/
def seqAcquire (q : Seq) (scope : Nat) : Seq := if 1 ≤ scope then { q with dcache := [] } else q

/-- The sequencer begins to wait, if it does not wait already. -/
def seqWait (s : State) (r : Nat) : State :=
  modSeq s r fun q => { q with waitStart := some (q.waitStart.getD (getR s r).cycle) }

end Sys2Proof.Machine
end

