-- ==== Sys2Proof/Machine/SeqAlu.lean ====
section
/-!
DEFINITION. Machine/SeqAlu.lean: the ALU group, the immediate forms and the branches of the sequencer (R288, R289, R292).
-/
namespace Sys2Proof.Machine

/-! ## Results (R288) -/

def aluSigned (x : BitVec 64) : Int := sext 64 x.toNat
def aluMulh (a b : BitVec 64) : BitVec 64 := BitVec.ofNat 64 (wrap 64 (aluSigned a * aluSigned b / (2 ^ 64 : Nat)))
def aluMulhu (a b : BitVec 64) : BitVec 64 := BitVec.ofNat 64 (a.toNat * b.toNat / 2 ^ 64)
def aluDiv (a b : BitVec 64) : BitVec 64 :=
  if b = 0 then BitVec.allOnes 64 else BitVec.ofNat 64 (wrap 64 ((aluSigned a).tdiv (aluSigned b)))
def aluDivu (a b : BitVec 64) : BitVec 64 := if b = 0 then BitVec.allOnes 64 else BitVec.ofNat 64 (a.toNat / b.toNat)
def aluRem (a b : BitVec 64) : BitVec 64 :=
  if b = 0 then a else BitVec.ofNat 64 (wrap 64 ((aluSigned a).tmod (aluSigned b)))
def aluRemu (a b : BitVec 64) : BitVec 64 := if b = 0 then a else BitVec.ofNat 64 (a.toNat % b.toNat)
def aluMin (a b : BitVec 64) : BitVec 64 := if aluSigned a ≤ aluSigned b then a else b
def aluMax (a b : BitVec 64) : BitVec 64 := if aluSigned a ≤ aluSigned b then b else a
def aluMinu (a b : BitVec 64) : BitVec 64 := if a.toNat ≤ b.toNat then a else b
def aluMaxu (a b : BitVec 64) : BitVec 64 := if a.toNat ≤ b.toNat then b else a
def aluSlt (a b : BitVec 64) : BitVec 64 := if aluSigned a < aluSigned b then 1 else 0
def aluSltu (a b : BitVec 64) : BitVec 64 := if a.toNat < b.toNat then 1 else 0

/-- Leading zeros among the lowest n bits. -/
def leadZeros : Nat → BitVec 64 → Nat
  | 0, _ => 0
  | n + 1, a => if a.getLsbD n then 0 else leadZeros n a + 1

def shiftBy (b : BitVec 64) : Nat := (b.extractLsb' 0 6).toNat

/-- The two-operand form. -/
def alu2 (d a b : BitVec 5) (f : BitVec 64 → BitVec 64 → BitVec 64) (s : State) : Host.Outcome State Fault Refusal :=
  seqDo s fun r q => seqPut s r d (f (getS q a) (getS q b))

/-- The one-operand form. -/
def alu1 (d a : BitVec 5) (f : BitVec 64 → BitVec 64) (s : State) : Host.Outcome State Fault Refusal :=
  seqDo s fun r q => seqPut s r d (f (getS q a))

abbrev Meaning := State → Host.Outcome State Fault Refusal

def execSeqAdd (d a b : BitVec 5) : Meaning := alu2 d a b (· + ·)
def execSeqSub (d a b : BitVec 5) : Meaning := alu2 d a b (· - ·)
def execSeqAnd (d a b : BitVec 5) : Meaning := alu2 d a b (· &&& ·)
def execSeqOr (d a b : BitVec 5) : Meaning := alu2 d a b (· ||| ·)
def execSeqXor (d a b : BitVec 5) : Meaning := alu2 d a b (· ^^^ ·)
def execSeqShl (d a b : BitVec 5) : Meaning := alu2 d a b fun x y => x <<< shiftBy y
def execSeqShr (d a b : BitVec 5) : Meaning := alu2 d a b fun x y => x >>> shiftBy y
def execSeqSar (d a b : BitVec 5) : Meaning := alu2 d a b fun x y => x.sshiftRight (shiftBy y)
def execSeqMul (d a b : BitVec 5) : Meaning := alu2 d a b (· * ·)
def execSeqMulh (d a b : BitVec 5) : Meaning := alu2 d a b aluMulh
def execSeqMulhu (d a b : BitVec 5) : Meaning := alu2 d a b aluMulhu
def execDiv (d a b : BitVec 5) : Meaning := alu2 d a b aluDiv
def execDivu (d a b : BitVec 5) : Meaning := alu2 d a b aluDivu
def execRem (d a b : BitVec 5) : Meaning := alu2 d a b aluRem
def execRemu (d a b : BitVec 5) : Meaning := alu2 d a b aluRemu
def execSeqMin (d a b : BitVec 5) : Meaning := alu2 d a b aluMin
def execSeqMax (d a b : BitVec 5) : Meaning := alu2 d a b aluMax
def execSeqMinu (d a b : BitVec 5) : Meaning := alu2 d a b aluMinu
def execSeqMaxu (d a b : BitVec 5) : Meaning := alu2 d a b aluMaxu
def execSlt (d a b : BitVec 5) : Meaning := alu2 d a b aluSlt
def execSltu (d a b : BitVec 5) : Meaning := alu2 d a b aluSltu
def execSeqClz (d a : BitVec 5) : Meaning := alu1 d a fun x => BitVec.ofNat 64 (leadZeros 64 x)
def execSeqPopc (d a : BitVec 5) : Meaning := alu1 d a fun x => BitVec.ofNat 64 (popCount x.toNat 64)

/-! ## Immediate forms (R289) -/

def execSeqAddi (d a : BitVec 5) (i : BitVec 16) : Meaning := alu1 d a fun x => x + i.signExtend 64
def execSeqAndi (d a : BitVec 5) (i : BitVec 16) : Meaning := alu1 d a fun x => x &&& i.setWidth 64
def execSeqOri (d a : BitVec 5) (i : BitVec 16) : Meaning := alu1 d a fun x => x ||| i.setWidth 64
def execSeqXori (d a : BitVec 5) (i : BitVec 16) : Meaning := alu1 d a fun x => x ^^^ i.setWidth 64
def execSeqShli (d a : BitVec 5) (n : BitVec 6) : Meaning := alu1 d a fun x => x <<< n.toNat
def execSeqShri (d a : BitVec 5) (n : BitVec 6) : Meaning := alu1 d a fun x => x >>> n.toNat
def execSeqSari (d a : BitVec 5) (n : BitVec 6) : Meaning := alu1 d a fun x => x.sshiftRight n.toNat
def execSlti (d a : BitVec 5) (i : BitVec 16) : Meaning := alu1 d a fun x => aluSlt x (i.signExtend 64)
def execLhi (d : BitVec 5) (i : BitVec 16) : Meaning := fun s => seqDo s fun r _ => seqPut s r d (i.signExtend 64 <<< 16)

/-! ## Branches (R84, R292) -/

/-- A conditional branch. -/
def branch (a b : BitVec 5) (o : BitVec 16) (c : BitVec 64 → BitVec 64 → Bool) (s : State) : Host.Outcome State Fault Refusal :=
  seqDo s fun r q => modSeq s r fun q' =>
    if c (getS q a) (getS q b) then setPc q' (q'.pc + (o.signExtend 64 <<< 2)) else nextPc q'

def execBeq (a b : BitVec 5) (o : BitVec 16) : Meaning := branch a b o (· == ·)
def execBne (a b : BitVec 5) (o : BitVec 16) : Meaning := branch a b o (· != ·)
def execBlt (a b : BitVec 5) (o : BitVec 16) : Meaning := branch a b o fun x y => decide (aluSigned x < aluSigned y)
def execBge (a b : BitVec 5) (o : BitVec 16) : Meaning := branch a b o fun x y => decide (aluSigned y ≤ aluSigned x)
def execBltu (a b : BitVec 5) (o : BitVec 16) : Meaning := branch a b o fun x y => decide (x.toNat < y.toNat)
def execBgeu (a b : BitVec 5) (o : BitVec 16) : Meaning := branch a b o fun x y => decide (y.toNat ≤ x.toNat)

def execJmp (o : BitVec 26) : Meaning := fun s => seqDo s fun r _ =>
  modSeq s r fun q => setPc q (q.pc + (o.signExtend 64 <<< 2))
def execJal (o : BitVec 26) : Meaning := fun s => seqDo s fun r _ =>
  modSeq s r fun q => setPc (setS q 31 (q.pc + 4)) (q.pc + (o.signExtend 64 <<< 2))

/-- JR: a misaligned target traps with nothing changed (R84). -/
def execJr (d a : BitVec 5) : Meaning := fun s => seqDo s fun r q =>
  if (getS q a).extractLsb' 0 2 ≠ 0 then seqTrap s r 0x04 (getS q a)
  else modSeq s r fun q' => setPc (setS q' d (q'.pc + 4)) (getS q a)

end Sys2Proof.Machine
end

