-- ==== Sys2Proof/Machine/SeqMem.lean ====
section
/-!
DEFINITION. Machine/SeqMem.lean: the sequencer's loads, stores, ATOM, FENCE and TSYNC (R90, R290, R291, R356, R397).
-/
namespace Sys2Proof.Machine

/-- The exact address of a load or store: sa read as unsigned, plus the signed offset; none where it is negative (R290). -/
def seqAddr (q : Seq) (a : BitVec 5) (i : BitVec 16) : Int := (getS q a).toNat + i.toInt

/-- Goes on with an address of 57 bits; any other traps. -/
def withAddr (s : State) (r : Nat) (va : Int) (f : Nat → State) : State :=
  if va < 0 ∨ ((2 ^ 57 : Nat) : Int) ≤ va then seqTrap s r 0x06 (BitVec.ofNat 64 (wrap 64 va)) else f va.toNat

/-- A load of n bytes, sign-extended. -/
def loadN (n : Nat) (d a : BitVec 5) (i : BitVec 16) (s : State) : Host.Outcome State Fault Refusal :=
  seqDo s fun r q => withAddr s r (seqAddr q a i) fun va =>
    ((seqLoad s r va n).issued r).then r fun s b => seqPut s r d (BitVec.ofNat 64 (wrap 64 (sext (8 * n) (leVal b))))

def execLdb (d a : BitVec 5) (i : BitVec 16) : Meaning := loadN 1 d a i
def execLdh (d a : BitVec 5) (i : BitVec 16) : Meaning := loadN 2 d a i
def execLdw (d a : BitVec 5) (i : BitVec 16) : Meaning := loadN 4 d a i
def execLdd (d a : BitVec 5) (i : BitVec 16) : Meaning := loadN 8 d a i

/-- LDL (R90). -/
def execLdl (d : BitVec 5) (i : BitVec 16) : Meaning := fun s => seqDo s fun r q =>
  withAddr s r ((q.pc.toNat / 8 * 8 : Nat) + 8 * i.toInt) fun va =>
    ((seqLoad s r va 8).issued r).then r fun s b => seqPut s r d (BitVec.ofNat 64 (leVal b))

/-- A store of n bytes: it completes once it is translated, and is performed later (R282); it updates a present line. -/
def storeN (n : Nat) (d a : BitVec 5) (i : BitVec 16) (s : State) : Host.Outcome State Fault Refusal :=
  seqDo s fun r q => withAddr s r (seqAddr q a i) fun va =>
    if va % n ≠ 0 then seqTrap s r 0x04 (BitVec.ofNat 64 va)
    else match seqXlat s r va 1 with
    | .wait s => seqIssued s r
    | .fault s c _ => seqTrap s r c (BitVec.ofNat 64 va)
    | .ok s x =>
      let pa := (viaOf x va).pa
      let bs := bytesOf n (getS q d).toNat
      let p := placeBytes (pa % 64) bs
      seqNext s r fun q => { q with
        stores := q.stores ++ [⟨q.nextStore, .die, x, pa, bs, false⟩], nextStore := q.nextStore + 1,
        dcache := if pteMt x.pte = 0 then
            q.dcache.map fun c => if c.line = pa / 64 then { c with data := mergeLine c.data p.1 p.2 } else c
          else q.dcache.filter fun c => c.line != pa / 64 }

def execStb (d a : BitVec 5) (i : BitVec 16) : Meaning := storeN 1 d a i
def execSth (d a : BitVec 5) (i : BitVec 16) : Meaning := storeN 2 d a i
def execStw (d a : BitVec 5) (i : BitVec 16) : Meaning := storeN 4 d a i
def execStd (d a : BitVec 5) (i : BitVec 16) : Meaning := storeN 8 d a i

/-- ATOM (R86, R291): the scope in c, the size in z, the operation in o. -/
def execSeqAtom (d a b : BitVec 5) (c : BitVec 3) (z : BitVec 2) (o : BitVec 4) : Meaning := fun s => seqDo s fun r q =>
  let size := z.toNat
  let scope := c.toNat
  let n := atomBytes size
  if 10 ≤ o.toNat then seqTrap s r 0x01 0
  else if scope = 0 ∨ 5 ≤ scope ∨ 2 ≤ size then seqReserved s r
  else withAddr s r (getS q a).toNat fun va =>
    if va % n ≠ 0 then seqTrap s r 0x04 (BitVec.ofNat 64 va)
    else match seqUse s r va 2 with
    | .wait s => seqIssued s r
    | .fault s c _ => seqTrap s r c (BitVec.ofNat 64 va)
    | .ok s x =>
      let v := viaOf x va
      let ln := lineKey s v.pa
      if storePending (getSeq s r) v.pa then seqIssued s r
      else match paClass s v.pa with
      | .registers => seqTrap s r 0x07 (BitVec.ofNat 64 va)
      | _ =>
        let s := modSeq s r fun q => { q with dcache := q.dcache.filter fun c => c.line != v.pa / 64 }
        match atomicLine s r v scope (v.pa % 64) o.toNat size (getS q b).toNat (getS q d).toNat (seqTag s r) with
        | .wait s => seqIssued (seqHold s r va x) r
        | .done s _ old bad => match bad with
          | some c => seqTrap s r c (BitVec.ofNat 64 va)
          | none => seqNext s r fun q =>
            setS { q with touched := if q.touched.contains ln then q.touched else ln :: q.touched } d (BitVec.ofNat 64 old)

/-- FENCE (R356): kind 0 full, 1 release, 2 acquire. -/
def seqFence (kind : Nat) (c : BitVec 3) (s : State) : Host.Outcome State Fault Refusal :=
  seqDo s fun r _ =>
    let scope := c.toNat
    let acq := fun s => seqNext s r fun q => if kind = 1 then q else seqAcquire q scope
    if scope = 0 ∨ 5 ≤ scope then seqReserved s r
    else if kind = 2 then acq s
    else afterWrites s r scope acq

def execSeqFenceFull (c : BitVec 3) : Meaning := seqFence 0 c
def execSeqFenceRel (c : BitVec 3) : Meaning := seqFence 1 c
def execSeqFenceAcq (c : BitVec 3) : Meaning := seqFence 2 c

/-- TSYNC (R397): every earlier write is translation-complete, which it is once it stands at the die's cistern under write
permission or at its home (R395). -/
def execSeqTsync : Meaning := fun s => seqDo s fun r _ => afterWrites s r 2 fun s => seqNext s r id

end Sys2Proof.Machine
end

