-- ==== Sys2Proof/Machine/MatrixRec.lean ====
section
/-!
DEFINITION. Machine/MatrixRec.lean: the matrix-context record (R229 to R231), operand and accumulator addresses (R232, R243), the block
step of R60 to R62, and the conversions of LOAD and WRITE (R244, R245).
-/
namespace Sys2Proof.Machine

/-! ## Fields of the record (R230) -/

def mxARec (c : BitVec 1024) : BitVec 256 := c.extractLsb' 0 256
def mxBRec (c : BitVec 1024) : BitVec 256 := c.extractLsb' 256 256
def mxCRec (c : BitVec 1024) : BitVec 256 := c.extractLsb' 512 256
def mxATs (c : BitVec 1024) : Int := sext 32 (c.extractLsb' 800 32).toNat
def mxBTs (c : BitVec 1024) : Int := sext 32 (c.extractLsb' 832 32).toNat
def mxCTs (c : BitVec 1024) : Int := sext 32 (c.extractLsb' 864 32).toNat
def mxASoff (c : BitVec 1024) : Int := sext 16 (c.extractLsb' 896 16).toNat
def mxBSoff (c : BitVec 1024) : Int := sext 16 (c.extractLsb' 912 16).toNat
def mxASs (c : BitVec 1024) : Int := sext 16 (c.extractLsb' 928 16).toNat
def mxBSs (c : BitVec 1024) : Int := sext 16 (c.extractLsb' 944 16).toNat
def mxASrc (c : BitVec 1024) : Bool := c.getLsbD 963
def mxBSrc (c : BitVec 1024) : Bool := c.getLsbD 964
def mxAil (c : BitVec 1024) : Nat := (c.extractLsb' 965 3).toNat
def mxBil (c : BitVec 1024) : Nat := (c.extractLsb' 968 3).toNat
def mxCil (c : BitVec 1024) : Nat := (c.extractLsb' 971 3).toNat
def mxRm (c : BitVec 1024) : Nat := (c.extractLsb' 974 3).toNat
def mxBmode (c : BitVec 1024) : Nat := (c.extractLsb' 977 2).toNat
def mxBoff (c : BitVec 1024) : Nat := 16 * (c.extractLsb' 979 12).toNat
def mxBelem (c : BitVec 1024) : Nat := (c.extractLsb' 991 4).toNat
def mxBsite (c : BitVec 1024) : Nat := (c.extractLsb' 995 5).toNat

/-- One operand of a record: A where `side` is false, B where it is true. -/
structure MOperand where
  rec_ : BitVec 256
  port : Bool
  il : Nat
  ts : Int
  soff : Int
  ss : Int
  deriving DecidableEq, Repr, Inhabited

def mxOperand (c : BitVec 1024) (side : Bool) : MOperand :=
  if side then ⟨mxBRec c, mxBSrc c, mxBil c, mxBTs c, mxBSoff c, mxBSs c⟩
  else ⟨mxARec c, mxASrc c, mxAil c, mxATs c, mxASoff c, mxASs c⟩

/-! ## Operand formats (R229, R232) -/

def mxScaled (f : Nat) : Bool := decide (0x0D ≤ f ∧ f ≤ 0x12)
def mxBlockBytes (f : Nat) : Nat := if f = 0x0F ∨ f = 0x10 then 24 else if f = 0x11 then 16 else if f = 0x06 ∨ f = 0x07 then 64 else 32

/-- A format of the FP8 class. -/
def mxFp8 (f : Nat) : Bool := f == 0x0A || f == 0x0B || decide (0x0D ≤ f ∧ f ≤ 0x11)

/-- The class of a pair of operand formats, numbered as R229 lists them; none where it is no pair. -/
def mxClass (a b : Nat) : Option Nat :=
  if a = 0x11 ∧ b = 0x11 then some 1
  else if mxFp8 a && mxFp8 b then some 0
  else if (a = 0x12 ∧ (b = 0x0A ∨ b = 0x0B)) ∨ (b = 0x12 ∧ (a = 0x0A ∨ a = 0x0B)) then some 2
  else if a = 0x01 ∧ b = 0x01 then some 3
  else if a = 0x07 ∧ b = 0x07 then some 4
  else if a = 0x06 ∧ b = 0x06 then some 5
  else none

def mxPair (c : BitVec 1024) : Option Nat := mxClass (recFmt (mxARec c)) (recFmt (mxBRec c))

/-- The value of an operand element in a format of R40. -/
def mxValue (f x : Nat) : FV :=
  if f = 0x12 then ps8Value x
  else match codeFmt f with
    | some g => decodeN g x
    | none => match blockFmt f with | some g => decodeF g x | none => .fin false 0 0

/-! ## Reserved values (R231) -/

/-- A record in space 2 spreads over elements of one site; one in space 0 over none. -/
def mxPlaceBad (x : Region) (b : BitVec 256) (il : Nat) : Bool :=
  (recSpace b == 2 && (decide (16 < recBase b / 2 ^ 16 % 16 + 2 ^ il) || !siteOk x (recBase b / 2 ^ 20)))
    || (recSpace b == 0 && il != 0)

def mxOperandBad (x : Region) (o : MOperand) : Bool :=
  recReserved x o.rec_ || recBounds o.rec_ == 1 || decide (4 < o.il)
    || (!mxScaled (recFmt o.rec_) && (o.soff != 0 || o.ss != 0))
    || (if o.port then o.rec_ != BitVec.ofNat 256 (recFmt o.rec_ * 2 ^ 168) || o.il != 0 || o.soff != 0 || o.ss != 0 || o.ts != 0
        else recSpace o.rec_ != 2 || mxPlaceBad x o.rec_ o.il)

def mxCFmts : List Nat := [0x03, 0x06, 0x07, 0x08, 0x0A, 0x0B, 0x13]

/-- CREC: an all-zero record names no C. -/
def mxCBad (x : Region) (c : BitVec 1024) : Bool :=
  let b := mxCRec c
  if b = 0 then mxCil c != 0
  else recReserved x b || recBounds b == 1 || (recSpace b != 0 && recSpace b != 2) || !mxCFmts.contains (recFmt b)
    || recStride2 b != 0 || decide (4 < mxCil c) || mxPlaceBad x b (mxCil c)

def mxReserved (x : Region) (c : BitVec 1024) : Bool :=
  c.extractLsb' 1000 24 != 0 || c.extractLsb' 960 3 != 0 || c.extractLsb' 768 32 != 0
    || mxBmode c == 3 || decide (4 ≤ mxRm c)
    || mxOperandBad x (mxOperand c false) || mxOperandBad x (mxOperand c true) || (mxPair c).isNone || mxCBad x c
    || (if mxBmode c = 0 then mxBsite c != 0 || mxBelem c != 0 || mxBoff c != 0 else !siteOk x (mxBsite c))

/-! ## Operand addresses (R232, R233) -/

/-- Elements of block b that lie below KEXT. -/
def mxCount (kext b : Nat) : Nat := Nat.min 32 (kext - 32 * b)

/-- Bytes of a block that hold elements below KEXT. -/
def mxBytes (f kext b : Nat) : Nat := (codeWidth f * mxCount kext b + 7) / 8

/-- What a fetch of a vector's block comes to: a fault of R248, zeros beyond the extent, or the local offsets of the block and of
its scale in an element. -/
inductive MSite where
  | fault (detail : Nat)
  | zero
  | at_ (elem off soff : Nat)
  deriving DecidableEq, Repr, Inhabited

/-- OperandSite with the checks of R233 that need no port. -/
def mxSite (x : Region) (o : MOperand) (t : Int) (v b kext : Nat) : MSite :=
  let f := recFmt o.rec_
  let w : Int := (v / 2 ^ o.il : Nat)
  let off := t * o.ts + w * recStride1 o.rec_ + ((b * mxBlockBytes f : Nat) : Int)
  let so := o.soff + t * o.ss + w * recStride2 o.rec_ + b
  let n := mxBytes f kext b
  let out := fun (p : Int) (n : Nat) => decide (p < 0 ∨ (recExtent o.rec_ : Int) < p + n)
  let base := recBase o.rec_ % 2 ^ 16
  if out off n || (mxScaled f && out so 1) then (if recBounds o.rec_ = 2 then .zero else .fault 3)
  else if off % 8 ≠ 0 then .fault 4
  else if spadSize x ≤ base + off.toNat + n - 1 || (mxScaled f && decide (spadSize x ≤ base + so.toNat)) then .fault 3
  else .at_ (recBase o.rec_ / 2 ^ 16 % 16 + v % 2 ^ o.il) (base + off.toNat) (base + so.toNat)

/-- The pieces of a vector's block: granules from 0 on, and 7 for the scale. -/
def mxPieces (f n : Nat) : MSite → List Nat
  | .at_ _ off _ => upto ((off + n - 1) / 16 - off / 16 + 1) ++ (if mxScaled f then [7] else [])
  | .zero => []
  | .fault _ => [0]

/-- The element key of an operand's element. -/
def mxKey (r : Nat) (o : MOperand) (el : Nat) : Nat := ekey r (recBase o.rec_ / 2 ^ 20 % 32) el

/-! ## The block step (R60 to R62) -/

/-- ExactProduct with NV. A product of integers that is 0 is +0: an integer has no sign of zero. -/
def mxProduct (int : Bool) (a b : FV) : FV × Flags :=
  if a.isNaN || b.isNaN then (.nan false 0 0 false, sigNV a ||| sigNV b)
  else match mulV a b with
    | some p => (if int && p.isZero then .fin false 0 0 else p, 0)
    | none => (.nan false 0 0 false, fNV)

/-- |m × 2^e| is at least 2^256 − 2^224. -/
def mxOver (m : Nat) (e : Int) : Bool := !magGt (2 ^ 32 - 1) 224 m e

/-- AccAdd: the code, the flags and whether it saturated. -/
def accAdd (acc : Nat) (v : FV) : Nat × Flags × Bool :=
  match decodeF .fa40 acc, v with
  | .inf a, .inf b => if a = b then (acc, 0, false) else (canonNaN .fa40, fNV, false)
  | .inf _, _ => (acc, 0, false)
  | _, .inf b => (infCode .fa40 + signCode .fa40 b, 0, false)
  | x, v => match sumV [x, v] with
    | some (.fin n m e) =>
      if mxOver m e then (maxCode .fa40 + signCode .fa40 n, fOF ||| fNX, true)
      else let r := roundFin .fa40 0 n m e; (r.1, r.2, false)
    | _ => (canonNaN .fa40, 0, false)

/-- BlockStep of one output; `int` says that the operands are integers. A signalling operand sets NV also where the
accumulator or a scale already makes the result a NaN (R38, R62). -/
def mxBlockStep (int : Bool) (acc : Nat) (a b : List FV) (sa sb : Nat) : Nat × Flags × Bool :=
  if (decodeF .fa40 acc).isNaN || sa == 0xFF || sb == 0xFF then
    (canonNaN .fa40, (a ++ b).foldl (fun f v => f ||| sigNV v) 0, false)
  else
    let ps := List.zipWith (mxProduct int) a b
    let fl := ps.foldl (fun f p => f ||| p.2) 0
    let vs := ps.map (·.1)
    if vs.any FV.isNaN then (canonNaN .fa40, fl, false)
    else match sumV vs with
      | none => (canonNaN .fa40, fl ||| fNV, false)
      | some (.fin n m e) =>
        let e := e + (sa : Int) - 127 + sb - 127
        if mxOver m e then
          let r := accAdd acc (.fin n (2 ^ 31 - 1) 225)
          (r.1, fl ||| fOF ||| fNX ||| r.2.1, true)
        else let r := accAdd acc (.fin n m e); (r.1, fl ||| r.2.1, r.2.2)
      | some v => let r := accAdd acc v; (r.1, fl ||| r.2.1, r.2.2)

/-! ## C (R243 to R245) -/

/-- Bytes of one element of C. -/
def mxCSize (f : Nat) : Nat := if f = 0x13 then 8 else if f = 0x03 ∨ f = 0x08 then 4 else if f = 0x06 ∨ f = 0x07 then 2 else 1

/-- A granule of C: the row, the first column, how many columns, the offset in its element or buffer, and the row's offset. -/
structure MPiece where
  row : Nat
  col : Nat
  n : Nat
  off : Int
  rowOff : Int
  deriving DecidableEq, Repr, Inhabited

/-- The granules of a tile in the order of rows and columns. -/
def mxCPieces (c : BitVec 1024) (t : Int) : List MPiece :=
  let b := mxCRec c
  let size := mxCSize (recFmt b)
  let base := if recSpace b = 0 then recBase b else recBase b % 2 ^ 16
  (upto 64).flatMap fun r =>
    let o := t * mxCTs c + ((r / 2 ^ mxCil c : Nat) : Int) * recStride1 b
    let a : Int := base + o
    let first := ((16 - a % 16) % 16).toNat / size
    let per := 16 / size
    let cut := (if first = 0 then [] else [(0, first)]) ++
      (upto ((64 - first + per - 1) / per)).map fun i => (first + i * per, Nat.min per (64 - first - i * per))
    cut.map fun p => ⟨r, p.1, p.2, o + ((p.1 * size : Nat) : Int), o⟩

/-- What a granule of C comes to before its port or its translation: a fault, nothing, or an element number and an address. -/
def mxCSite (x : Region) (c : BitVec 1024) (p : MPiece) : MSite :=
  let b := mxCRec c
  let n := p.n * mxCSize (recFmt b)
  let base := if recSpace b = 0 then recBase b else recBase b % 2 ^ 16
  if p.off < 0 ∨ (recExtent b : Int) < p.off + n then (if recBounds b = 2 then .zero else .fault 3)
  else if p.rowOff % 8 ≠ 0 ∨ (base + p.off) % 8 ≠ 0 then .fault 4
  else if recSpace b ≠ 0 ∧ spadSize x ≤ base + p.off.toNat then .fault 3
  else .at_ (recBase b / 2 ^ 16 % 16 + p.row % 2 ^ mxCil c) (base + p.off.toNat) 0

/-- One element read by LOAD (R244). -/
def mxLoad (f x : Nat) : Nat × Flags :=
  let g := (codeFmt f).getD .fa40
  match decodeN g (x % 2 ^ g.width) with
  | .nan _ _ _ sig => (canonNaN .fa40, if sig then fNV else 0)
  | v => if f = 0x13 then (x % 2 ^ 40, 0) else ((roundV .fa40 0 v).1, 0)

/-- One element written by WRITE with rounding mode m (R245). -/
def mxWrite (f m x : Nat) : Nat × Flags :=
  let g := (codeFmt f).getD .fa40
  if f = 0x13 then (x, 0)
  else match decodeF .fa40 x with
    | .nan _ _ _ sig => if g.isInt then roundToInt g m (decodeF .fa40 x) else (canonNaN g, if sig then fNV else 0)
    | v => if g.isInt then roundToInt g m v else roundV g m v

end Sys2Proof.Machine
end

