-- ==== Sys2Proof/Machine/Matrix.lean ====
section
/-!
DEFINITION. Machine/Matrix.lean: matrix islands: operand fetches and staging (R232 to R238), tiles (R239 to R246), context faults
(R249), and the instructions MCTX and MRUN (R251 to R253).
-/
namespace Sys2Proof.Machine

/-! ## Islands -/

def getM (s : State) (r m : Nat) : Island := tget (getR s r).islands m {}
def modM (s : State) (r m : Nat) (f : Island → Island) : State :=
  modR s r fun x => { x with islands := tset x.islands m (f (tget x.islands m {})) }

/-- Runs a step of island m of a region. -/
def islandStep (r m : Nat) (s : State) (f : Region → Island → State) : Host.Outcome State Fault Refusal :=
  withUnit (regionOk r && decide (m < 4)) s fun s => f (getR s r) (getM s r m)

def ctxOf (i : Island) (c : Nat) : MCtx := tget i.ctxs c {}

/-- The record of a run's context; what a faulted run still has under way goes on under the record that it had (R249). -/
def runRec (i : Island) (u : Run) : BitVec 1024 := ((ctxOf i u.ctx).rec_).getD (ctxOf i u.ctx).old

def kindCode : TileKind → Nat
  | .mma => 0 | .zero => 1 | .load => 2 | .write => 3

/-- Accumulator and tile index of tile t of a run (R239). -/
def tileAcc (u : Run) (t : Nat) : Nat := (u.acc + t * u.astep) % 16
def tileIndex (u : Run) (t : Nat) : Int := u.t0 + t
def tileProg (u : Run) (t : Nat) : TileProg := tget u.tiles t {}

/-- Blocks of an MMA tile (R242). -/
def runBlocks (u : Run) : Nat := (u.kext + 31) / 32

/-- Steps of a tile: blocks, one, or granules of C. -/
def tileSteps (i : Island) (u : Run) (t : Nat) : Nat :=
  match u.kind with
  | .mma => runBlocks u
  | .zero => 1
  | _ => (mxCPieces (runRec i u) (tileIndex u t)).length

def findRun (i : Island) (id : Nat) : Option Run := i.runs.find? fun u => u.id == id
def modTile (i : Island) (id t : Nat) (f : TileProg → TileProg) : Island :=
  { i with runs := i.runs.map fun u => if u.id = id then { u with tiles := tset u.tiles t (f (tileProg u t)) } else u }

/-- Flags of MXST, set in cycle c (R247, R56). -/
def mxFlags (c : Nat) (i : Island) (f : Flags) (ovf : Bool) : Island :=
  let b : BitVec 6 := f.zeroExtend 6 ||| (if ovf then 32 else 0)
  { i with flags := i.flags ||| b, flagsNew := newFlags i.flagsNew c b }

/-- A granule of the tile is under way (R249, R250). -/
def TileProg.moving (p : TileProg) : Bool := p.posted != [] || p.xlat.isSome

/-- A run of a faulted context leaves the queue once nothing of it is under way (R249). -/
def reap (i : Island) : Island := { i with runs := i.runs.filter fun u => !u.dead || u.tiles.any fun t => t.2.moving }

/-! ## Context faults (R248, R249) -/

def mkMxflt (cause : BitVec 8) (tile detail kind ctx acc block : Nat) : BitVec 64 :=
  BitVec.ofNat 64 (block % 2 ^ 16 + acc * 2 ^ 16 + ctx * 2 ^ 20 + kind * 2 ^ 22 + detail * 2 ^ 24 + tile % 2 ^ 16 * 2 ^ 32 + cause.toNat * 2 ^ 48)

/-- MXFLT holds the first fault. -/
def setMxflt (i : Island) (v : BitVec 64) : Island := if i.mxflt = 0 then { i with mxflt := v } else i

/-- The staged blocks of a context are dropped. -/
def dropStage (i : Island) (c : Nat) : Island := { i with stageA := terase i.stageA c, stageB := terase i.stageB c }

/-- A fault of context c: what remains of its runs is discarded but for granules that are under way, and the sequencer will trap. -/
def ctxFault (s : State) (r m c : Nat) (v : BitVec 64) : State :=
  raiseAsync (modM s r m fun i =>
    let i := setMxflt (dropStage i c) v
    reap { i with ctxs := tset i.ctxs c { rec_ := none, fault := true, old := ((ctxOf i c).rec_).getD (ctxOf i c).old }
                  runs := i.runs.map fun u => if u.ctx = c then { u with dead := true } else u
                  fetches := i.fetches.map fun f => if f.ctx = c then { f with dropped := true } else f })
    r 3 0x16 2 (BitVec.ofNat 64 m)

/-- A tile faults. One whose context has faulted already only stops. -/
def tileFault (s : State) (r m : Nat) (u : Run) (t : Nat) (cause : BitVec 8) (detail : Nat) : State :=
  let p := tileProg u t
  if u.dead then modM s r m fun i => reap (modTile i u.id t fun p => { p with posted := [], xlat := none })
  else ctxFault (modM s r m fun i => modTile i u.id t fun p => { p with xlat := none }) r m u.ctx
    (mkMxflt cause t detail (kindCode u.kind) u.ctx (tileAcc u t) (p.steps + p.posted.length))

/-! ## Staging (R227, R236) -/

def stageOf (i : Island) (side : Bool) (c : Nat) : List StageBlock := tget (if side then i.stageB else i.stageA) c []
def setStage (i : Island) (side : Bool) (c : Nat) (l : List StageBlock) : Island :=
  if side then { i with stageB := tset i.stageB c l } else { i with stageA := tset i.stageA c l }

def isBlock (w : StageBlock) (run tile block : Nat) : Bool := w.run == run && w.tile == tile && w.block == block

/-- The next block of a context's MMA tiles, in arm order, that is neither folded nor in staging. -/
def nextBlock (i : Island) (side : Bool) (c : Nat) : Option (Run × Nat × Nat) :=
  let st := stageOf i side c
  i.runs.findSome? fun u =>
    if u.ctx = c ∧ u.kind = .mma ∧ !u.dead then
      (upto u.tcnt).findSome? fun t =>
        ((upto (runBlocks u)).find? fun b => decide ((tileProg u t).steps ≤ b) && !(st.any fun w => isBlock w u.id t b)).map
          fun b => (u, t, b)
    else none

/-- The island with a block of staging for the next block, where there is room for one (R227). -/
def openBlock (i : Island) (side : Bool) (c : Nat) : Island :=
  let st := stageOf i side c
  if 2 ≤ st.length then i
  else match nextBlock i side c with
    | some (u, t, b) => setStage i side c (st ++ [⟨u.id, t, b, [], 0, false⟩])
    | none => i

/-- The site of vector v of a block in staging. -/
def blockSite (x : Region) (i : Island) (side : Bool) (w : StageBlock) (v : Nat) : MSite :=
  match findRun i w.run with
  | some u => mxSite x (mxOperand (runRec i u) side) (tileIndex u w.tile) v w.block u.kext
  | none => .zero

def runKext (i : Island) (id : Nat) : Nat := match findRun i id with | some u => u.kext | none => 0
def opFmt (i : Island) (side : Bool) (c : Nat) : Nat := recFmt (mxOperand (((ctxOf i c).rec_).getD 0) side).rec_

/-- The pieces of vector v of a block in staging. -/
def blockPieces (x : Region) (i : Island) (side : Bool) (c : Nat) (w : StageBlock) (v : Nat) : List Nat :=
  let f := opFmt i side c
  mxPieces f (mxBytes f (runKext i w.run) w.block) (blockSite x i side w v)

/-- Every piece of a block fed from scratchpads is staged. -/
def blockReady (x : Region) (i : Island) (side : Bool) (c : Nat) (w : StageBlock) : Bool :=
  (upto 64).all fun v => (blockPieces x i side c w v).all fun g => (tfind w.data (8 * v + g)).isSome

/-- Brings the full marks of a context's staging up to date. -/
def markFull (x : Region) (i : Island) (side : Bool) (c : Nat) : Island :=
  setStage i side c ((stageOf i side c).map fun w => if w.full then w else { w with full := blockReady x i side c w })

/-! ## Operand fetches (R232 to R234) -/

/-- A block in staging lacks piece g of vector v, and no fetch of it is in flight. -/
def lacksPiece (x : Region) (i : Island) (side : Bool) (c : Nat) (w : StageBlock) (v g : Nat) : Bool :=
  !w.full && (blockPieces x i side c w v).contains g && (tfind w.data (8 * v + g)).isNone
    && !(i.fetches.any fun f => f.ctx == c && f.side == side && f.run == w.run && f.tile == w.tile && f.block == w.block && f.slot == 8 * v + g && !f.dropped)

/-- Where a fetch goes: the element and the address of its granule, or of the scale. -/
def fetchSite (x : Region) (r : Nat) (i : Island) (side : Bool) (c : Nat) (w : StageBlock) (v g : Nat) : Option (Nat × Nat) :=
  match blockSite x i side w v with
  | .at_ el off soff => some (mxKey r (mxOperand (((ctxOf i c).rec_).getD 0) side) el, if g = 7 then soff else (off / 16 + g) * 16)
  | _ => none

/-- One operand's fetch of a piece: the island, the side, the block, its vector and its piece. -/
structure FetchOf where
  m : Nat
  side : Bool
  w : StageBlock
  v : Nat
  g : Nat
  deriving DecidableEq, Repr

/-- The fetches of other islands of the same MRUN, for the same tile and block, that name the same granule: they are merged with
this one (R234). -/
def sharers (x : Region) (r m c : Nat) (u : Run) (w : StageBlock) (at_ : Nat × Nat) : List FetchOf :=
  ((upto 4).filter (· != m)).flatMap fun n =>
    let i := tget x.islands n {}
    [false, true].flatMap fun side =>
      ((stageOf i side c).filter fun y => y.tile == w.tile && y.block == w.block && (match findRun i y.run with | some z => z.group == u.group && !z.dead | none => false)).flatMap fun y =>
        (upto 64).flatMap fun v => ((blockPieces x i side c y v).filter fun g =>
          lacksPiece x i side c y v g && fetchSite x r i side c y v g == some at_).map fun g => ⟨n, side, y, v, g⟩

/-- The place of a block in arm order. -/
def blockPos (i : Island) (run tile block : Nat) : Nat := ((i.runs.findIdx fun u => u.id == run) * 2 ^ 16 + tile) * 2 ^ 16 + block

/-- Every block of the other side before this one is staged whole, where that side is fed by tokens: one of them may be a KIND 1
token, whose acquire comes first (R238; DEDUCED, log 27). -/
def behindTokens (i : Island) (side : Bool) (c : Nat) (w : StageBlock) : Bool :=
  (mxOperand (((ctxOf i c).rec_).getD 0) !side).port &&
    (let here := blockPos i w.run w.tile w.block
     ((stageOf i (!side) c).any fun y => !y.full && decide (blockPos i y.run y.tile y.block < here))
       || (match nextBlock i (!side) c with | some (u, t, b) => decide (blockPos i u.id t b < here) | none => false))

/-- MATRIX_OPERAND_FETCH: the owner's port accepts the fetch of piece g of vector vec of the first block in staging that lacks it, with
those that are merged with it; a check of R233 that fails faults the context. CAUSE of a granule that is not sealed is 0x16, as for
the other checks, and not 0x07 (DESIGN CHOICE, log 27). -/
def operandFetch (s : State) (r m c : Nat) (side : Bool) (vec g : Nat) : State :=
  let x := getR s r
  let i := markFull x (openBlock (getM s r m) side c) side c
  let s' := modM s r m fun _ => i
  if (ctxOf i c).rec_ = none ∨ (mxOperand (((ctxOf i c).rec_).getD 0) side).port ∨ !acting x then s
  else match (stageOf i side c).find? fun w => lacksPiece x i side c w vec g with
  | none => s'
  | some w => match findRun i w.run with
    | none => s'
    | some u => match blockSite x i side w vec, fetchSite x r i side c w vec g with
      | .fault d, _ => tileFault s' r m u w.tile 0x16 d
      | _, none => s'
      | _, some (key, addr) =>
        let t := getE s key
        let ns := sealsOver t addr
        let all := ⟨m, side, w, vec, g⟩ :: sharers (getR s' r) r m c u w (key, addr)
        if behindTokens i side c w ∨ !portClear s key addr ∨ (ns.any fun n => decide (1023 < (tget t.seals n {}).count + all.length)) then s'
        else usePort s' key (islandPortNo m) fun s =>
          if ns = [] then all.foldl (fun s f => match findRun (getM s r f.m) f.w.run with
            | some u => tileFault s r f.m u f.w.tile 0x16 2
            | none => s) s
          else
            let v := spadRead t (addr / 16 * 16) 16
            let d := if g = 7 then BitVec.ofNat 128 (v.toNat / 2 ^ (8 * (addr % 16)) % 256) else v
            all.foldl (fun s f => modM (modE s key fun e => countSeal e ns (· + 1)) r f.m fun i => { i with
              nextId := i.nextId + 1
              fetches := i.fetches ++ [⟨i.nextId, c, f.side, f.w.run, f.w.tile, f.w.block, 8 * f.v + f.g, key, d, ns, x.cycle, false⟩] }) s

def execMatrixOperandFetch (r m c : Nat) (side : Bool) (vec g : Nat) (s : State) : Host.Outcome State Fault Refusal :=
  withUnit (regionOk r && decide (m < 4 ∧ c < 4 ∧ vec < 64 ∧ g < 8)) s fun s => operandFetch s r m c side vec g

/-- Hops between an island and an element (R501). -/
def islandHops (m key : Nat) : Nat := hopsPort (2 * m) (keySite key)

/-- MATRIX_FETCH_RETURN: the data of a fetch reaches staging, and the counts that it raised fall (R198, R211); dropped data goes
nowhere. -/
def fetchReturn (s : State) (r m n : Nat) : State :=
  match (getM s r m).fetches.find? fun f => f.id == n with
  | none => s
  | some f =>
    if (getR s r).cycle < f.at_ + 3 + islandHops m f.key then s
    else
      let s := modE s f.key fun e => countSeal e f.raised (· - 1)
      let x := getR s r
      modM s r m fun i =>
        let i := { i with fetches := i.fetches.filter fun f => f.id != n }
        if f.dropped then i
        else markFull x (setStage i f.side f.ctx ((stageOf i f.side f.ctx).map fun w =>
          if isBlock w f.run f.tile f.block then { w with data := tset w.data f.slot f.data } else w)) f.side f.ctx

def execMatrixFetchReturn (r m n : Nat) (s : State) : Host.Outcome State Fault Refusal :=
  withUnit (regionOk r && decide (m < 4)) s fun s => fetchReturn s r m n

/-! ## Operands from channels (R235 to R238) -/

/-- Tokens of a block's vectors, and of the whole block with its scales. -/
def blockTokens (f : Nat) : Nat × Nat :=
  let v := 64 * ((mxBlockBytes f + 15) / 16)
  (v, v + if mxScaled f then 4 else 0)

/-- Token number n of a block enters staging. -/
def stageToken (f : Nat) (w : StageBlock) (pay : Vec) : StageBlock :=
  let per := (mxBlockBytes f + 15) / 16
  let n := w.count
  let d := if n < (blockTokens f).1 then tset w.data (8 * (n / per) + n % per) pay
    else (upto 16).foldl (fun d j => tset d (8 * (16 * (n - (blockTokens f).1) + j) + 7) (BitVec.ofNat 128 (laneOf 8 pay.toNat j))) w.data
  { w with data := d, count := n + 1, full := n + 1 == (blockTokens f).2 }

/-- MATRIX_OPERAND_STAGE: the first token in the slots of a context moves into staging; a marker is removed. A KIND 1 token is so
acquired: what follows it in arm order comes later (R238). -/
def operandStage (s : State) (r m c : Nat) (side : Bool) : State :=
  let x := getR s r
  let n := 2 * m + side.toNat
  let p := enginePort x n c
  match p.toks with
  | [] => s
  | t :: rest =>
    let pop := fun s => modR s r fun x => setEnginePort x n c { p with toks := rest }
    if t.tok.isMarker then pop s
    else
      let i := openBlock (getM s r m) side c
      let o := mxOperand (((ctxOf i c).rec_).getD 0) side
      match (stageOf i side c).find? fun w => !w.full with
      | some w =>
        if !o.port ∨ !acting x then s
        else modM (pop s) r m fun j => setStage j side c ((stageOf i side c).map fun v =>
          if v = w then stageToken (recFmt o.rec_) w t.tok.pay else v)
      | none => s

def execMatrixOperandStage (r m c : Nat) (side : Bool) (s : State) : Host.Outcome State Fault Refusal :=
  withUnit (regionOk r && decide (m < 4 ∧ c < 4)) s fun s => operandStage s r m c side

/-! ## Which tile runs (R240) -/

/-- Incomplete tiles in arm order; of a faulted run, those with a granule under way. -/
def openTiles (i : Island) : List (Run × Nat) :=
  i.runs.flatMap fun u => ((upto u.tcnt).filter fun t => !(tileProg u t).complete && (!u.dead || (tileProg u t).moving)).map fun t => (u, t)

/-- The first tile of a list that a test accepts and before which no tile names the same accumulator. -/
def firstTile (ok : Run → Nat → Bool) : List (Run × Nat) → List Nat → Option (Run × Nat)
  | [], _ => none
  | (u, t) :: rest, seen =>
    let a := tileAcc u t
    if !seen.contains a && ok u t then some (u, t) else firstTile ok rest (a :: seen)

/-- The block of an MMA tile's next step is staged on both sides. -/
def staged (i : Island) (u : Run) (t : Nat) : Bool :=
  let has := fun side => (stageOf i side u.ctx).any fun w => isBlock w u.id t (tileProg u t).steps && w.full
  has false && has true

/-- The tile that the compute pipe steps next. -/
def computeTile (i : Island) : Option (Run × Nat) :=
  firstTile (fun u t => !u.dead && decide ((tileProg u t).steps < tileSteps i u t)
    && (u.kind == .zero || (u.kind == .mma && staged i u t))) (openTiles i) []

/-- Tokens that blocks of a side still need before tile t of run u in arm order. -/
def tokensBefore (i : Island) (side : Bool) (u : Run) (t : Nat) : Nat :=
  let f := opFmt i side u.ctx
  (((openTiles i).takeWhile fun p => !(p.1.id == u.id && p.2 == t)).map fun p =>
    if p.1.ctx = u.ctx ∧ p.1.kind = .mma then
      ((upto (runBlocks p.1)).map fun b =>
        if b < (tileProg p.1 p.2).steps then 0
        else match (stageOf i side u.ctx).find? fun w => isBlock w p.1.id p.2 b with
          | some w => if w.full then 0 else (blockTokens f).2 - w.count
          | none => (blockTokens f).2).sum
    else 0).sum

/-- A KIND 1 token for an earlier tile of the context stands in its slots and is not yet acquired: LOAD and WRITE tiles of the context
wait for it (R238; DEDUCED, log 27). -/
def acquirePending (x : Region) (m : Nat) (i : Island) (u : Run) (t : Nat) : Bool :=
  [false, true].any fun side => (mxOperand (runRec i u) side).port &&
    (((enginePort x (2 * m + side.toNat) u.ctx).toks.filter fun k => !k.tok.isMarker).take (tokensBefore i side u t)).any fun k => k.tok.kind == 1

/-- The tile that the transfer pipe moves: the one that it has started, or the earliest eligible. -/
def transferTile (x : Region) (m : Nat) (i : Island) : Option (Run × Nat) :=
  let is := fun (u : Run) (t : Nat) => (u.kind == .load || u.kind == .write) && decide ((tileProg u t).steps < tileSteps i u t)
  match (openTiles i).find? fun p => is p.1 p.2 && (tileProg p.1 p.2).started with
  | some p => some p
  | none => firstTile (fun u t => !u.dead && is u t && !acquirePending x m i u t) (openTiles i) []

/-! ## Compute tiles -/

def getAcc (i : Island) (a r n : Nat) : Nat := (tget (tget i.acc a []) (64 * r + n) 0).toNat
def setAcc (i : Island) (a r n v : Nat) : Island :=
  { i with acc := tset i.acc a (tset (tget i.acc a []) (64 * r + n) (BitVec.ofNat 40 v)) }

/-- The values of vector v of a staged block, filled to 32 with zeros (R61), and its scale. -/
def stagedVector (x : Region) (i : Island) (side : Bool) (c kext : Nat) (w : StageBlock) (v : Nat) : List FV × Nat :=
  let o := mxOperand (((ctxOf i c).rec_).getD 0) side
  let f := recFmt o.rec_
  let skew := if o.port then 0 else match blockSite x i side w v with | .at_ _ off _ => off % 16 | _ => 0
  let raw := (upto 5).flatMap fun g => bytesOf 16 (tget w.data (8 * v + g) 0).toNat
  let bs := raw.drop skew
  let k := mxCount kext w.block
  ((upto 32).map fun j => if j < k then mxValue f (elemOfBytes (codeWidth f) bs j) else .fin false 0 0,
    if mxScaled f then (tget w.data (8 * v + 7) 0x7F).toNat else 0x7F)

/-- Folds one staged block into an accumulator tile, row by row. -/
def foldBlock (c : Nat) (i : Island) (int : Bool) (a : Nat) (va vb : List (List FV × Nat)) : Island :=
  (va.zipIdx).foldl (fun i p => (vb.zipIdx).foldl (fun i q =>
    let y := mxBlockStep int (getAcc i a p.2 q.2) p.1.1 q.1.1 p.1.2 q.1.2
    mxFlags c (setAcc i a p.2 q.2 y.1) y.2.1 y.2.2) i) i

/-- MATRIX_BLOCK_STEP: the earliest eligible compute tile is an MMA tile; it takes a step credit (R476). -/
def blockStep (s : State) (r m : Nat) : State :=
  let x := getR s r
  let i := getM s r m
  match computeTile i with
  | some (u, t) =>
    let b := (tileProg u t).steps
    let find := fun side => (stageOf i side u.ctx).find? fun w => isBlock w u.id t b
    match u.kind, find false, find true with
    | .mma, some wa, some wb =>
      if !acting x || (x.istep != 0 && i.credit == 0) then s
      else
        let vec := fun side w => (upto 64).map fun v => stagedVector x i side u.ctx u.kext w v
        let drop := fun side => (stageOf i side u.ctx).filter fun w => !isBlock w u.id t b
        let int := recFmt (mxOperand (((ctxOf i u.ctx).rec_).getD 0) false).rec_ == 0x01
        let j := foldBlock x.cycle i int (tileAcc u t) (vec false wa) (vec true wb)
        let j := setStage (setStage j false u.ctx (drop false)) true u.ctx (drop true)
        modM s r m fun _ => { modTile j u.id t (fun p => { p with steps := b + 1 }) with
          credit := if x.istep = 0 then i.credit else i.credit - 1 }
    | _, _, _ => s
  | none => s

def execMatrixBlockStep (r m : Nat) (s : State) : Host.Outcome State Fault Refusal :=
  withUnit (regionOk r && decide (m < 4)) s fun s => blockStep s r m

/-- MATRIX_ZERO_TILE: the earliest eligible compute tile is a ZERO tile. -/
def zeroTile (s : State) (r m : Nat) : State :=
  let i := getM s r m
  match computeTile i with
  | some (u, t) =>
    if u.kind = .zero ∧ acting (getR s r) then
      modM s r m fun i => modTile { i with acc := terase i.acc (tileAcc u t) } u.id t fun p => { p with steps := 1 }
    else s
  | none => s

def execMatrixZeroTile (r m : Nat) (s : State) : Host.Outcome State Fault Refusal :=
  withUnit (regionOk r && decide (m < 4)) s fun s => zeroTile s r m

/-! ## Transfer tiles (R243 to R245) -/

/-- What the reads and writes of an island ask of a translation. -/
def mxReq (x : Region) (kind : Nat) : XReq := ⟨asidOf x, ownerOf x, true, kind, false, false⟩

/-- Translates an address of space 0, once for each granule; a fault posts its record and faults the context (R404, R249). -/
def mxXlat (s : State) (r m : Nat) (u : Run) (t va kind : Nat) (f : State → Xlat → State) : State :=
  let q := mxReq (getR s r) kind
  match (tileProg u t).xlat with
  | some x => f s x
  | none => match translate s r va q with
    | .ok s x => f (modM s r m fun i => modTile i u.id t fun p => { p with xlat := some x }) x
    | .wait s => s
    | .fault s c l =>
      let s := if 2 ^ 57 ≤ va then s else postFault s r (faultRecord va 0 q.asid c l kind 4 0 m 0)
      tileFault s r m u t c 6

/-- One granule of the tile is done. -/
def pieceDone (s : State) (r m : Nat) (u : Run) (t : Nat) : State :=
  modM s r m fun i => reap (modTile i u.id t fun p => { p with steps := p.steps + 1, posted := p.posted.tail, xlat := none })

/-- The elements of a granule enter the accumulator. -/
def loadPiece (s : State) (r m : Nat) (u : Run) (t : Nat) (f : Nat) (p : MPiece) (bs : List Byte) : State :=
  let size := mxCSize f
  let c := (getR s r).cycle
  pieceDone (modM s r m fun i => (upto p.n).foldl (fun i j =>
    let y := mxLoad f (leVal ((bs.drop (j * size)).take size))
    mxFlags c (setAcc i (tileAcc u t) p.row (p.col + j) y.1) y.2 false) i) r m u t

/-- The tag of a granule's request. -/
def mxTag (r m : Nat) (u : Run) (t step : Nat) : ReqTag := .island r m ((u.id * 2 ^ 16 + t) * 2 ^ 16 + step)

/-- The number of a tile's writes at an external port. -/
def tileSrc (m : Nat) (u : Run) (t : Nat) : UpdFrom := .island m (u.id * 2 ^ 16 + t)

/-- The tile of a kind that the transfer pipe moves, with its record; it has started. Once the region stops, or the tile's context has
faulted, only what is under way goes on (R249, R250). -/
def movingTile (s : State) (r m : Nat) (k : TileKind) (f : State → Run → Nat → BitVec 1024 → Bool → State) : State :=
  let x := getR s r
  let i := getM s r m
  match transferTile x m i with
  | some (u, t) =>
    let on := acting x && !u.dead
    if u.kind = k ∧ (on ∨ (settling x ∧ (tileProg u t).moving)) then
      f (modM s r m fun i => modTile i u.id t fun p => { p with started := true }) u t (runRec i u) on
    else s
  | none => s

/-- The element's key of a granule of C. -/
def mxCKey (r : Nat) (c : BitVec 1024) (el : Nat) : Nat := ekey r (recBase (mxCRec c) / 2 ^ 20 % 32) el

/-- MATRIX_LOAD_TILE: the next granule of a LOAD tile. -/
def loadTile (s : State) (r m : Nat) : State :=
  movingTile s r m .load fun s u t c on =>
    match (mxCPieces c (tileIndex u t))[(tileProg u t).steps]? with
    | none => s
    | some p =>
      let x := getR s r
      let f := recFmt (mxCRec c)
      let n := p.n * mxCSize f
      match mxCSite x c p with
      | .fault d => tileFault s r m u t 0x16 d
      | .zero => loadPiece s r m u t f p []
      | .at_ el addr _ =>
        if recSpace (mxCRec c) = 0 then
          mxXlat s r m u t addr 0 fun s xl =>
            let v := viaOf xl addr
            match readLine s r v (decide (3 ≤ recScope (mxCRec c))) (mxTag r m u t (tileProg u t).steps) with
            | .wait s => s
            | .done s d _ bad => match bad with
              | some cause => tileFault s r m u t cause 7
              | none => loadPiece s r m u t f p (lineBytes d (v.pa % 64) n)
        else
          let key := mxCKey r c el
          if !on || !portClear s key addr then s
          else usePort s key (islandPortNo m) fun s =>
            let s := modM s r m fun i => modTile i u.id t fun p => { p with due := x.cycle + 3 + islandHops m key }
            loadPiece s r m u t f p (bytesOf n (spadRead (getE s key) addr n).toNat)

def execMatrixLoadTile (r m : Nat) (s : State) : Host.Outcome State Fault Refusal :=
  withUnit (regionOk r && decide (m < 4)) s fun s => loadTile s r m

/-- The bytes of a granule that WRITE makes of the accumulator, and the flags (R245). -/
def writeBytes (i : Island) (c : BitVec 1024) (u : Run) (t : Nat) (p : MPiece) : List Byte × Flags :=
  let f := recFmt (mxCRec c)
  let out := (upto p.n).map fun j => mxWrite f (rmOf u.sample (mxRm c)) (getAcc i (tileAcc u t) p.row (p.col + j))
  (out.flatMap fun y => bytesOf (mxCSize f) y.1, out.foldl (fun a y => a ||| y.2) 0)

/-- The granule of a WRITE tile is performed. -/
def writeDone (s : State) (r m : Nat) (u : Run) (t : Nat) (fl : Flags) : State :=
  pieceDone (modM s r m fun i => mxFlags (getR s r).cycle i fl false) r m u t

/-- A granule of a WRITE tile that a scratchpad's port has accepted, if it is now written there. -/
def writeLanding (s : State) (r m : Nat) (u : Run) (t : Nat) (c : BitVec 1024) : Option State :=
  match (tileProg u t).posted, (mxCPieces c (tileIndex u t))[(tileProg u t).steps]? with
  | (_, n) :: _, some p => match mxCSite (getR s r) c p with
    | .at_ el addr _ =>
      let key := mxCKey r c el
      if mayLand s key (tileSrc m u t) addr n then
        let y := writeBytes (getM s r m) c u t p
        some (writeDone (landed s key (tileSrc m u t) addr fun e => setFull (spadWrite e addr y.1.length (leVal y.1)) addr true) r m u t y.2)
      else none
    | _ => none
  | _, _ => none

/-- MATRIX_WRITE_TILE: a granule that a port has accepted is written; or the next granule of a WRITE tile is converted and goes to its
scratchpad's port, or is performed at CREC.SCOPE. CAUSE of a write to a sealed granule is 0x16, as for the other checks, and not 0x07
(DESIGN CHOICE, log 27). -/
def writeTile (s : State) (r m : Nat) : State :=
  movingTile s r m .write fun s u t c on => match writeLanding s r m u t c with
    | some s => s
    | none =>
      let q := tileProg u t
      match (mxCPieces c (tileIndex u t))[q.steps + q.posted.length]? with
      | none => s
      | some p =>
        let x := getR s r
        let y := writeBytes (getM s r m) c u t p
        match mxCSite x c p with
        | .fault d => if on then tileFault s r m u t 0x16 d else s
        | .zero => if q.posted = [] then writeDone s r m u t y.2 else s
        | .at_ el addr _ =>
          if recSpace (mxCRec c) = 0 then
            mxXlat s r m u t addr 1 fun s xl =>
              let v := viaOf xl addr
              let b := placeBytes (v.pa % 64) y.1
              match writeLine s r v (recScope (mxCRec c)) b.1 b.2 (mxTag r m u t q.steps) with
              | .wait s => s
              | .done s _ _ _ => writeDone s r m u t y.2
          else if !on then s
          else
            let key := mxCKey r c el
            usePort s key (islandPortNo m) fun s =>
              if isSealed (getE s key) addr then tileFault s r m u t 0x16 5
              else modM (landPut s key (tileSrc m u t) addr) r m fun i => modTile i u.id t fun p =>
                { p with posted := p.posted ++ [(p.steps + p.posted.length, x.cycle)] }

def execMatrixWriteTile (r m : Nat) (s : State) : Host.Outcome State Fault Refusal :=
  withUnit (regionOk r && decide (m < 4)) s fun s => writeTile s r m

/-! ## Completion and arrivals (R240, R246) -/

/-- MATRIX_TILE_COMPLETE: the first tile of run n whose steps are all done is complete; with its last tile the run leaves the
queue. -/
def tileComplete (s : State) (r m n : Nat) : State :=
  let c := (getR s r).cycle
  modM s r m fun i =>
    match findRun i n with
    | none => i
    | some u =>
      match (upto u.tcnt).find? fun t => !u.dead && !(tileProg u t).complete && (tileProg u t).steps == tileSteps i u t && decide ((tileProg u t).due ≤ c) with
      | none => i
      | some t =>
        let d := runRec i u
        let steps := (tileProg u t).steps
        let j := modTile i n t fun p => { p with complete := true }
        let past : Bool := match findRun j n with | some v => (upto v.tcnt).all fun t => (tileProg v t).complete | none => false
        let j := if past then { j with runs := j.runs.filter fun v => v.id != n } else j
        if (mxBmode d = 1 ∧ u.kind = .write) ∨ (mxBmode d = 2 ∧ past) then
          { j with nextId := j.nextId + 1
                   arrivals := j.arrivals ++ [⟨j.nextId, u.ctx, u.kind, tileAcc u t, t, steps, mxBsite d, mxBelem d, mxBoff d, c⟩] }
        else j

def execMatrixTileComplete (r m n : Nat) (s : State) : Host.Outcome State Fault Refusal :=
  withUnit (regionOk r && decide (m < 4)) s fun s => if acting (getR s r) then tileComplete s r m n else s

/-- MATRIX_ARRIVAL: an arrival is applied at the barrier's port; a refused one faults the context. -/
def matrixArrival (s : State) (r m n : Nat) : State :=
  let x := getR s r
  match (getM s r m).arrivals.find? fun a => a.id == n with
  | none => s
  | some a =>
    let key := ekey r a.site a.elem
    let e := getE s key
    let pop := fun s => modM s r m fun i => { i with arrivals := i.arrivals.filter fun b => b.id != n }
    let bad := fun s => ctxFault (pop s) r m a.ctx (mkMxflt 0x16 a.tile 8 (kindCode a.kind) a.ctx a.acc a.steps)
    if !settling x ∨ x.cycle < a.at_ + 1 + islandHops m key then s
    else if spadSize x ≤ a.off ∨ isSealed e a.off then usePort s key (islandPortNo m) bad
    else match portUpdate s key a.off (.island m n) (islandPortNo m) fun e => barrierUpdate e a.off 1 0 with
      | .refused s => bad s
      | .wait s => s
      | .done s => pop s

def execMatrixArrival (r m n : Nat) (s : State) : Host.Outcome State Fault Refusal :=
  withUnit (regionOk r && decide (m < 4)) s fun s => matrixArrival s r m n

/-! ## Status (R247) -/

def ctxBusy (i : Island) (c : Nat) : Bool := i.runs.any fun u => u.ctx == c

def mxst (i : Island) : Nat :=
  let bits := fun (p : Nat → Bool) => (upto 4).foldl (fun a c => a + if p c then 2 ^ c else 0) 0
  i.flags.toNat + i.runs.length * 2 ^ 8 + bits (ctxBusy i) * 2 ^ 12 + bits (fun c => (ctxOf i c).rec_.isSome) * 2 ^ 16
    + bits (fun c => (ctxOf i c).fault) * 2 ^ 20

/-! ## MCTX and MRUN (R251 to R253) -/

/-- The islands of a mask. -/
def maskIslands (m : BitVec 4) : List Nat := (upto 4).filter fun i => m.getLsbD i

def modIslands (s : State) (r : Nat) (m : BitVec 4) (f : Nat → Island → Island) : State :=
  (maskIslands m).foldl (fun s i => modM s r i (f i)) s

/-- Loads or clears context c of every island in the mask: its slots and staging are emptied. -/
def setCtx (s : State) (r : Nat) (m : BitVec 4) (c : Nat) (rec_ : Option (BitVec 1024)) : State :=
  modIslands s r m fun _ i =>
    let empty := fun n (t : Table PortSlots) => tset t n { tget t n {} with toks := [] }
    { dropStage i c with ctxs := tset i.ctxs c { rec_ := rec_, fault := false }, mxflt := 0,
                         ports := empty (2 * c) (empty (2 * c + 1) i.ports)
                         fetches := i.fetches.map fun f => if f.ctx = c then { f with dropped := true } else f }

/-- MCTX waits until no named island has an armed run of the context. -/
def afterRuns (s : State) (r : Nat) (m : BitVec 4) (c : Nat) (f : State → State) : State :=
  if m = 0 then seqReserved s r
  else if (maskIslands m).any fun i => ctxBusy (getM s r i) c then seqWait s r
  else f s

/-- MCTX. -/
def execMctx (a : BitVec 5) (m : BitVec 4) (c : BitVec 2) : Meaning := fun s => seqDo s fun r q =>
  afterRuns s r m c.toNat fun s =>
    let va := (getS q a).toNat
    if va % 128 ≠ 0 then seqTrap s r 0x04 (getS q a)
    else if 2 ^ 57 ≤ va then seqTrap s r 0x06 (getS q a)
    else ((seqRecord s r va 128).issued r).then r fun s bs =>
      let rec_ : BitVec 1024 := BitVec.ofNat 1024 (leVal bs)
      if mxReserved (getR s r) rec_ then
        seqTrap (modIslands s r m fun _ i => setMxflt i (mkMxflt 0x16 0 1 0 c.toNat 0 0)) r 0x16 0
      else seqNext (setCtx s r m c.toNat (some rec_)) r id

/-- MCTX in its clear form. -/
def execMctxClr (m : BitVec 4) (c : BitVec 2) : Meaning := fun s => seqDo s fun r _ =>
  afterRuns s r m c.toNat fun s => seqNext (setCtx s r m c.toNat none) r id

/-- The checks of MRUN that trap with cause 0x02. -/
def mrunReserved (k : TileKind) (a b : BitVec 64) (m : BitVec 4) : Bool :=
  let kext := (a.extractLsb' 16 16).toNat
  m == 0 || a.extractLsb' 32 32 != 0 || a.extractLsb' 0 16 == 0 || decide (b.toInt < -2 ^ 31 ∨ 2 ^ 31 ≤ b.toInt)
    || (if k = .mma then kext == 0 else kext != 0)

/-- The checks of MRUN that trap with cause 0x16. -/
def mrunContext (s : State) (r : Nat) (k : TileKind) (m : BitVec 4) (c : Nat) : Bool :=
  let recs := (maskIslands m).map fun i => (ctxOf (getM s r i) c).rec_
  recs.any (·.isNone)
    || (let rs := recs.map (·.getD 0)
        (k == .mma && rs.any fun x => mxPair x != mxPair (rs.headD 0))
        || ((k == .load || k == .write) && rs.any fun x => mxCRec x == 0)
        || (k == .load && rs.any fun x => recFmt (mxCRec x) == 0x0A || recFmt (mxCRec x) == 0x0B))

/-- MRUN of one kind: it arms the run in every named island at once. Where it traps with 0x16, every named island records DETAIL 1 with
the instruction's KIND and ACC and with TILE and BLOCK 0 (DESIGN CHOICE, log 27). -/
def mrun (k : TileKind) (a b : BitVec 5) (m : BitVec 4) (c : BitVec 2) (acc st : BitVec 4) : Meaning := fun s => seqDo s fun r q =>
  let va := getS q a
  let vb := getS q b
  if mrunReserved k va vb m then seqReserved s r
  else if mrunContext s r k m c.toNat then
    seqTrap (modIslands s r m fun _ i => setMxflt i (mkMxflt 0x16 0 1 (kindCode k) c.toNat acc.toNat 0)) r 0x16 0
  else if (maskIslands m).any fun i => decide (8 ≤ (getM s r i).runs.length) then seqWait s r
  else
    let run := fun (id : Nat) => (⟨id, (getR s r).mruns, false, c.toNat, k, acc.toNat, st.toNat, vb.toInt, (va.extractLsb' 0 16).toNat,
      (va.extractLsb' 16 16).toNat, q.fpctl.extractLsb' 0 3, []⟩ : Run)
    seqNext (modR (modIslands s r m fun _ i => { i with runs := i.runs ++ [run i.nextId], nextId := i.nextId + 1 }) r fun x =>
      { x with mruns := x.mruns + 1 }) r id

/-- MRUN in its four kinds. -/
def execMrunMma (a b : BitVec 5) (m : BitVec 4) (c : BitVec 2) (x st : BitVec 4) : Meaning := mrun .mma a b m c x st
def execMrunZero (a b : BitVec 5) (m : BitVec 4) (c : BitVec 2) (x st : BitVec 4) : Meaning := mrun .zero a b m c x st
def execMrunLoad (a b : BitVec 5) (m : BitVec 4) (c : BitVec 2) (x st : BitVec 4) : Meaning := mrun .load a b m c x st
def execMrunWrite (a b : BitVec 5) (m : BitVec 4) (c : BitVec 2) (x st : BitVec 4) : Meaning := mrun .write a b m c x st

end Sys2Proof.Machine
end

