-- ==== Sys2Proof/Machine/Hash.lean ====
section
/-!
DEFINITION. Machine/Hash.lean: CRC-32C (R267) and SHA-384 by FIPS 180-4 (R267, R489).
-/
namespace Sys2Proof.Machine

/-! ## CRC-32C -/

/-- One bit of the reflected polynomial 0x82F6_3B78. -/
def crcBit (c : BitVec 32) : BitVec 32 := if c.getLsbD 0 then (c >>> 1) ^^^ 0x82F63B78 else c >>> 1

/-- The register after one byte. -/
def crcByte (c : BitVec 32) (b : Byte) : BitVec 32 :=
  (upto 8).foldl (fun c _ => crcBit c) (c ^^^ b.zeroExtend 32)

def crcBytes (c : BitVec 32) (l : List Byte) : BitVec 32 := l.foldl crcByte c

/-! ## SHA-384 -/

abbrev W64 := BitVec 64

def rotr (x : W64) (n : Nat) : W64 := x.rotateRight n

def bigS0 (x : W64) : W64 := rotr x 28 ^^^ rotr x 34 ^^^ rotr x 39
def bigS1 (x : W64) : W64 := rotr x 14 ^^^ rotr x 18 ^^^ rotr x 41
def smallS0 (x : W64) : W64 := rotr x 1 ^^^ rotr x 8 ^^^ (x >>> 7)
def smallS1 (x : W64) : W64 := rotr x 19 ^^^ rotr x 61 ^^^ (x >>> 6)
def chW (x y z : W64) : W64 := (x &&& y) ^^^ (~~~ x &&& z)
def majW (x y z : W64) : W64 := (x &&& y) ^^^ (x &&& z) ^^^ (y &&& z)

/-- The constants of the 80 rounds. -/
def shaK : List W64 :=
  [0x428A2F98D728AE22, 0x7137449123EF65CD, 0xB5C0FBCFEC4D3B2F, 0xE9B5DBA58189DBBC,
   0x3956C25BF348B538, 0x59F111F1B605D019, 0x923F82A4AF194F9B, 0xAB1C5ED5DA6D8118,
   0xD807AA98A3030242, 0x12835B0145706FBE, 0x243185BE4EE4B28C, 0x550C7DC3D5FFB4E2,
   0x72BE5D74F27B896F, 0x80DEB1FE3B1696B1, 0x9BDC06A725C71235, 0xC19BF174CF692694] ++
  [0xE49B69C19EF14AD2, 0xEFBE4786384F25E3, 0x0FC19DC68B8CD5B5, 0x240CA1CC77AC9C65,
   0x2DE92C6F592B0275, 0x4A7484AA6EA6E483, 0x5CB0A9DCBD41FBD4, 0x76F988DA831153B5,
   0x983E5152EE66DFAB, 0xA831C66D2DB43210, 0xB00327C898FB213F, 0xBF597FC7BEEF0EE4,
   0xC6E00BF33DA88FC2, 0xD5A79147930AA725, 0x06CA6351E003826F, 0x142929670A0E6E70] ++
  [0x27B70A8546D22FFC, 0x2E1B21385C26C926, 0x4D2C6DFC5AC42AED, 0x53380D139D95B3DF,
   0x650A73548BAF63DE, 0x766A0ABB3C77B2A8, 0x81C2C92E47EDAEE6, 0x92722C851482353B,
   0xA2BFE8A14CF10364, 0xA81A664BBC423001, 0xC24B8B70D0F89791, 0xC76C51A30654BE30,
   0xD192E819D6EF5218, 0xD69906245565A910, 0xF40E35855771202A, 0x106AA07032BBD1B8] ++
  [0x19A4C116B8D2D0C8, 0x1E376C085141AB53, 0x2748774CDF8EEB99, 0x34B0BCB5E19B48A8,
   0x391C0CB3C5C95A63, 0x4ED8AA4AE3418ACB, 0x5B9CCA4F7763E373, 0x682E6FF3D6B2B8A3,
   0x748F82EE5DEFB2FC, 0x78A5636F43172F60, 0x84C87814A1F0AB72, 0x8CC702081A6439EC,
   0x90BEFFFA23631E28, 0xA4506CEBDE82BDE9, 0xBEF9A3F7B2C67915, 0xC67178F2E372532B] ++
  [0xCA273ECEEA26619C, 0xD186B8C721C0C207, 0xEADA7DD6CDE0EB1E, 0xF57D4F7FEE6ED178,
   0x06F067AA72176FBA, 0x0A637DC5A2C898A6, 0x113F9804BEF90DAE, 0x1B710B35131C471B,
   0x28DB77F523047D84, 0x32CAAB7B40C72493, 0x3C9EBE0A15C9BEBC, 0x431D67C49C100D4C,
   0x4CC5D4BECB3E42B6, 0x597F299CFC657E2A, 0x5FCB6FAB3AD6FAEC, 0x6C44198C4A475817]

/-- The initial hash value. -/
def sha384Init : List W64 :=
  [0xCBBB9D5DC1059ED8, 0x629A292A367CD507, 0x9159015A3070DD17, 0x152FECD8F70E5939,
   0x67332667FFC00B31, 0x8EB44A8768581511, 0xDB0C2E0D64F98FA7, 0x47B5481DBEFA4FA4]

/-- The message padded to a multiple of 128 bytes. -/
def shaPad (m : List Byte) : List Byte :=
  let n := m.length
  m ++ [0x80] ++ List.replicate ((239 - n % 128) % 128) 0 ++ (bytesOf 16 (8 * n)).reverse

/-- The next words of a message schedule: `r` holds the words so far, the last first. -/
def shaSchedule : Nat → List W64 → List W64
  | 0, r => r.reverse
  | n + 1, r =>
    shaSchedule n ((smallS1 (r.getD 1 0) + r.getD 6 0 + smallS0 (r.getD 14 0) + r.getD 15 0) :: r)

/-- The working variables a to h. -/
structure ShaVars where
  a : W64
  b : W64
  c : W64
  d : W64
  e : W64
  f : W64
  g : W64
  h : W64
  deriving DecidableEq, Repr, Inhabited

def shaRound (v : ShaVars) (kw : W64 × W64) : ShaVars :=
  let t1 := v.h + bigS1 v.e + chW v.e v.f v.g + kw.1 + kw.2
  let t2 := bigS0 v.a + majW v.a v.b v.c
  ⟨t1 + t2, v.a, v.b, v.c, v.d + t1, v.e, v.f, v.g⟩

/-- One message block of 128 bytes. -/
def shaBlock (h : List W64) (blk : List Byte) : List W64 :=
  let w := (upto 16).map fun i => BitVec.ofNat 64 (beVal ((blk.drop (8 * i)).take 8))
  let ws := shaSchedule 64 w.reverse
  let g := fun i => h.getD i 0
  let v := (List.zip shaK ws).foldl shaRound ⟨g 0, g 1, g 2, g 3, g 4, g 5, g 6, g 7⟩
  List.zipWith (· + ·) h [v.a, v.b, v.c, v.d, v.e, v.f, v.g, v.h]

/-- The digest of a message, in the byte order of FIPS 180-4. -/
def sha384 (m : List Byte) : List Byte :=
  let p := shaPad m
  let h := (upto (p.length / 128)).foldl (fun h i => shaBlock h ((p.drop (128 * i)).take 128)) sha384Init
  (h.take 6).flatMap fun w => (bytesOf 8 w.toNat).reverse

end Sys2Proof.Machine
end

