-- ==== Sys2Proof/Machine/PumpDesc.lean ====
section
/-!
DEFINITION. Machine/PumpDesc.lean: the request descriptor of a pump and its reserved values (R256 to R261), patterns (R260), the checks of
its accesses (R262) and its transforms (R263 to R268).
-/
namespace Sys2Proof.Machine

/-! ## Fields of the descriptor (R256) -/

def pdStride (d : BitVec 512) (i : Nat) : Int := sext 32 (d.extractLsb' (384 + 32 * i) 32).toNat
def pdDext (d : BitVec 512) : Nat := (d.extractLsb' 352 32).toNat
def pdSext (d : BitVec 512) : Nat := (d.extractLsb' 320 32).toNat
def pdCount (d : BitVec 512) (i : Nat) : Nat := (d.extractLsb' (256 + 16 * i) 16).toNat + 1
def pdDst (d : BitVec 512) : BitVec 64 := d.extractLsb' 192 64
def pdSrc (d : BitVec 512) : BitVec 64 := d.extractLsb' 128 64
def pdAux (d : BitVec 512) : BitVec 64 := d.extractLsb' 64 64
def pdXf (d : BitVec 512) : Nat := (d.extractLsb' 60 4).toNat
def pdSfmt (d : BitVec 512) : Nat := (d.extractLsb' 55 5).toNat
def pdDfmt (d : BitVec 512) : Nat := (d.extractLsb' 50 5).toNat
def pdRm (d : BitVec 512) : Nat := (d.extractLsb' 47 3).toNat
def pdPside (d : BitVec 512) : Bool := d.getLsbD 46
def pdEow (d : BitVec 512) : Bool := d.getLsbD 45
def pdBounds (d : BitVec 512) : Nat := (d.extractLsb' 43 2).toNat
def pdScope (d : BitVec 512) : Nat := (d.extractLsb' 40 3).toNat
def pdPolicy (d : BitVec 512) : Nat := (d.extractLsb' 37 3).toNat
def pdU (d : BitVec 512) : Nat := (d.extractLsb' 31 6).toNat + 1
def pdBen (d : BitVec 512) : Bool := d.getLsbD 30
def pdBsite (d : BitVec 512) : Nat := (d.extractLsb' 25 5).toNat
def pdBelem (d : BitVec 512) : Nat := (d.extractLsb' 21 4).toNat
def pdBoff (d : BitVec 512) : Nat := 16 * (d.extractLsb' 9 12).toNat
def pdOrd (d : BitVec 512) : Bool := d.getLsbD 8
def pdTpad (d : BitVec 512) : Bool := d.getLsbD 7

/-- Kind of an endpoint word (R257). -/
def epKind (w : BitVec 64) : Nat := (w.extractLsb' 61 3).toNat

/-- Iterations of a request (R260). -/
def pdQ (d : BitVec 512) : Nat := pdCount d 0 * pdCount d 1 * pdCount d 2 * pdCount d 3

/-- Offset(q) of R260. -/
def pdOffset (d : BitVec 512) (q : Nat) : Int :=
  let n := pdCount d
  ((q % n 0 : Nat) : Int) * pdStride d 0 + ((q / n 0 % n 1 : Nat) : Int) * pdStride d 1
    + ((q / n 0 / n 1 % n 2 : Nat) : Int) * pdStride d 2 + ((q / n 0 / n 1 / n 2 % n 3 : Nat) : Int) * pdStride d 3

/-! ## Sides (R257, R258) -/

/-- A side of a request: kind 0 with a base address, kind 2 with an element and a local offset, or a stream side. -/
structure PSide where
  ek : Nat
  base : Nat
  key : Nat
  /-- extent in bytes; 0 for none -/
  ext : Nat
  bounds : Nat
  fmt : Nat
  scope : Nat
  deriving DecidableEq, Repr, Inhabited

/-- An endpoint word that names an address. -/
def wordSide (r : Nat) (w : BitVec 64) (ext bounds fmt scope : Nat) : PSide :=
  let ek := epKind w
  { ek := ek, base := if ek = 0 then (w.extractLsb' 0 57).toNat else (w.extractLsb' 0 16).toNat,
    key := ekey r (w.extractLsb' 20 5).toNat (w.extractLsb' 16 4).toNat, ext := ext, bounds := bounds, fmt := fmt, scope := scope }

/-- A record endpoint (R258). -/
def recordSide (r key : Nat) (b : BitVec 256) : PSide :=
  let sp := recSpace b
  { ek := if sp = 0 then 0 else 2, base := if sp = 0 then recBase b else recBase b % 2 ^ 16,
    key := if sp = 2 then ekey r (recBase b / 2 ^ 20 % 32) (recBase b / 2 ^ 16 % 16) else key,
    ext := recExtent b, bounds := recBounds b, fmt := recFmt b, scope := recScope b }

def srcSide (r : Nat) (q : PReq) : PSide :=
  match q.srcRec with
  | some b => recordSide r (q.origin.getD 0) b
  | none => wordSide r (pdSrc q.desc) (16 * pdSext q.desc) (pdBounds q.desc) (pdSfmt q.desc) (pdScope q.desc)
def dstSide (r : Nat) (q : PReq) : PSide :=
  match q.dstRec with
  | some b => recordSide r (q.origin.getD 0) b
  | none => wordSide r (pdDst q.desc) (16 * pdDext q.desc) (pdBounds q.desc) (pdDfmt q.desc) (pdScope q.desc)
def auxSide (r : Nat) (q : PReq) : PSide := wordSide r (pdAux q.desc) 0 (pdBounds q.desc) 0 (pdScope q.desc)

def isMem (ek : Nat) : Bool := ek == 0 || ek == 2

/-! ## Reserved values (R259, R261) -/

/-- An address word of kind 0 or 2. -/
def addrWordOk (x : Region) (w : BitVec 64) : Bool :=
  (epKind w == 0 && w.extractLsb' 57 4 == 0)
    || (epKind w == 2 && w.extractLsb' 25 36 == 0 && siteOk x (w.extractLsb' 20 5).toNat)

/-- A source word; kind 5 in packets only. -/
def srcWordOk (x : Region) (w : BitVec 64) (packet : Bool) : Bool :=
  addrWordOk x w || (epKind w == 3 && w.extractLsb' 4 57 == 0) || (epKind w == 4 && w.extractLsb' 0 61 == 0)
    || (epKind w == 5 && packet && w.extractLsb' 3 58 == 0)

/-- A destination word. -/
def dstWordOk (x : Region) (w : BitVec 64) (packet : Bool) : Bool :=
  addrWordOk x w || (epKind w == 3 && w.extractLsb' 4 57 == 0)
    || (epKind w == 4 && w.extractLsb' 32 29 == 0 && w.extractLsb' 17 7 == 0
        && (if w.getLsbD 31 then w.extractLsb' 3 14 == 0
            else w.extractLsb' 7 1 == 0 && w.extractLsb' 0 4 == 0 && siteOk x (w.extractLsb' 12 5).toNat
              && decide ((w.extractLsb' 4 3).toNat ≤ 5)))
    || (epKind w == 5 && packet && w.extractLsb' 3 58 == 0)
    || (epKind w == 6 && w.extractLsb' 0 61 == 0)

/-- A record endpoint holds a reserved value, or fields of the descriptor that it replaces are set (R258). -/
def recordBad (x : Region) (b : Option (BitVec 256)) (ext fmt : Nat) : Bool :=
  match b with
  | some b => recReserved x b || recBounds b == 1 || ext != 0 || fmt != 0
  | none => false

/-- The AUX word is the one that the transform asks for. -/
def auxOk (x : Region) (d : BitVec 512) : Bool :=
  let w := pdAux d
  match pdXf d with
  | 0 | 3 => w == 0
  | 5 | 6 => w.extractLsb' 32 32 == 0
  | 7 => addrWordOk x (w &&& ~~~ BitVec.ofNat 64 (2 ^ 57))
  | _ => addrWordOk x w

/-- Formats, RM, UNIT and the further limits of the transform's row; `src` and `dst` are the sides. -/
def rowOk (d : BitVec 512) (src dst : PSide) : Bool :=
  let sf := src.fmt
  let df := dst.fmt
  let sk := src.ek
  let dk := dst.ek
  let u := pdU d
  let plain := pdSfmt d == 0 && pdDfmt d == 0 && pdRm d == 0
  let both := !isMem sk && !isMem dk
  let small := u == 1 || u == 2 || u == 4 || u == 8
  match pdXf d with
  | 1 => mxScaled sf && (df == 0x06 || df == 0x07) && u == mxBlockBytes sf
  | 2 => (sf == 0x06 || sf == 0x07 || sf == 0x08) && decide (0x0D ≤ df ∧ df ≤ 0x11) && u == 32
  | 3 =>
    let ws := codeWidth sf
    let wt := codeWidth df
    decide (1 ≤ sf ∧ sf ≤ 0x0C ∧ 1 ≤ df ∧ df ≤ 0x0C) && sf != df && u * 8 % ws == 0 && u * wt % ws == 0
      && decide (Nat.max ws wt / Nat.min ws wt ≤ 8) && (pdRm d == 0 || decide (5 < sf) || decide (5 < df))
  | 4 => plain && (pdPside d || both) && !pdTpad d && (!isMem sk || src.base % 4 == 0)
  | 5 => plain && small && !pdPside d && !pdTpad d
  | 6 => plain && small && (pdPside d || both) && !pdTpad d
  | 9 => plain && !pdPside d && pdStride d 2 == 0 && pdStride d 3 == 0
  | _ => plain

/-- A request holds a reserved value. In index gather PSIDE names the table, which is memory (R268). -/
def pumpReserved (x : Region) (r : Nat) (q : PReq) : Bool :=
  let d := q.desc
  let packet := q.origin.isSome
  let sk := (srcSide r q).ek
  let dk := (dstSide r q).ek
  let both := !isMem sk && !isMem dk
  d.extractLsb' 0 7 != 0 || decide (10 ≤ pdXf d) || decide (4 ≤ pdRm d) || pdBounds d == 1 || pdBounds d == 3
    || decide (5 ≤ pdScope d) || decide (4 ≤ pdPolicy d)
    || !srcWordOk x (pdSrc d) packet || !dstWordOk x (pdDst d) packet || !auxOk x d
    || recordBad x q.srcRec (pdSext d) (pdSfmt d) || recordBad x q.dstRec (pdDext d) (pdDfmt d)
    || (!both && pdXf d != 9 && !isMem (if pdPside d then dk else sk))
    || (both && (upto 4).any fun i => pdStride d i != 0)
    || !rowOk d (srcSide r q) (dstSide r q)
    || (if pdBen d then !siteOk x (pdBsite d) else pdBsite d != 0 || pdBelem d != 0 || pdBoff d != 0)

/-! ## Accesses (R262) -/

/-- A fault of a request (R278). -/
structure PFlt where
  cause : BitVec 8
  detail : Nat
  place : Nat
  addr : Nat
  deriving DecidableEq, Repr, Inhabited

/-- The address-word form of an address of a side (R257). -/
def addrWord (sd : PSide) (a : Int) : Nat :=
  if sd.ek = 0 then wrap 64 a else 2 * 2 ^ 61 + keySite sd.key * 2 ^ 20 + keyElem sd.key * 2 ^ 16 + wrap 16 a

/-- The pieces of an access, or the fault with which it is refused. -/
inductive PRes where
  | ok (l : List PPiece)
  | flt (f : PFlt)
  deriving DecidableEq, Repr, Inhabited

/-- Cuts n bytes that begin at `a` modulo 64 at 64-byte boundaries: positions and lengths. -/
def cut64 (a n : Nat) : List (Nat × Nat) :=
  (upto ((a % 64 + n + 63) / 64)).map fun i =>
    let lo := if i = 0 then 0 else 64 * i - a % 64
    let hi := Nat.min n (64 * (i + 1) - a % 64)
    (lo, hi - lo)

/-- The largest power of two that divides n, at most 16. -/
def accAlign (n : Nat) : Nat := if n % 16 = 0 then 16 else if n % 8 = 0 then 8 else if n % 4 = 0 then 4 else if n % 2 = 0 then 2 else 1

/-- An access of n bytes at offset o of a side; `over` adds the bounds case of R268. -/
def pumpAccess (x : Region) (sd : PSide) (o : Int) (n : Nat) (iter place : Nat) (write : Bool) (data : List Byte) (past : Bool) : PRes :=
  let a : Int := sd.base + o
  let out := decide (o < 0) || (sd.ext != 0 && decide ((sd.ext : Int) < o + n)) || past
  let piece := fun (skip : Bool) (a : Nat) (c : Nat × Nat) =>
    (⟨iter, place, write, sd.ek, sd.key, a + c.1, c.2, sd.scope, (data.drop c.1).take c.2, skip, none⟩ : PPiece)
  let bad := fun (cause : BitVec 8) (detail : Nat) => PRes.flt ⟨cause, detail, place, addrWord sd a⟩
  if out then
    (if sd.bounds = 2 then .ok ((cut64 (a % 64).toNat n).map (piece true (a % 64).toNat)) else bad 0x17 3)
  else if a % accAlign n ≠ 0 then bad 0x17 4
  else if sd.ek = 0 ∧ 2 ^ 57 ≤ a + n - 1 then bad 0x06 6
  else if sd.ek = 2 ∧ spadSize x ≤ a + n - 1 then bad 0x17 3
  else .ok ((cut64 a.toNat n).map (piece false a.toNat))

/-! ## Transforms that act on one iteration (R263, R264) -/

/-- The bytes that an iteration writes, its flags and the scale that MX quantise makes. -/
def pumpXf (q : PReq) (sf df : Nat) (data : List Byte) (scale : Nat) : List Byte × Flags × Nat :=
  let m := rmOf q.sample (pdRm q.desc)
  let flags := fun (l : List (Nat × Flags)) => l.foldl (fun a y => a ||| y.2) (0 : Flags)
  match pdXf q.desc with
  | 1 =>
    let g := (codeFmt df).getD .bf16
    let out := (upto 32).map fun j =>
      let e := elemOfBytes (codeWidth sf) data j
      if sf = 0x12 then ps8Dequant e scale g m else mxDequant e ((blockFmt sf).getD .e4m3) scale g m
    (elemsToBytes 16 (out.map (·.1)), flags out, 0)
  | 2 =>
    let f := (codeFmt sf).getD .fp32
    let y := mxQuantise ((upto 32).map fun j => decodeF f (elemOfBytes f.width data j)) ((blockFmt df).getD .e4m3) m
    (elemsToBytes (codeWidth df) y.2.1, y.2.2, y.1)
  | 3 =>
    let f := (codeFmt sf).getD .fp32
    let g := (codeFmt df).getD .fp32
    let out := (upto (data.length * 8 / f.width)).map fun j => conv f g m (elemOfBytes f.width data j)
    (elemsToBytes g.width (out.map (·.1)), flags out, 0)
  | _ => (data, 0, 0)

/-- Source and destination bytes of an iteration (R261). -/
def pdSrcBytes (d : BitVec 512) (sf : Nat) : Nat :=
  match pdXf d with
  | 2 => 32 * codeWidth sf / 8
  | 9 => 4
  | _ => pdU d
def pdDstBytes (d : BitVec 512) (sf df : Nat) : Nat :=
  match pdXf d with
  | 1 => 64
  | 2 => mxBlockBytes df
  | 3 => pdU d * codeWidth df / codeWidth sf
  | 5 => 16
  | _ => pdU d

/-! ## Progress of a request (R260, R263 to R268) -/

/-- What a request does next: it waits for a token of its source, or it goes on, or it faults. -/
inductive PNext where
  | token
  | go (a : PActive) (f : Flags)
  | flt (f : PFlt) (iter : Nat)
  deriving DecidableEq, Repr, Inhabited

/-- Goes on with pieces to issue. -/
def PRes.go (p : PRes) (iter : Nat) (f : Flags) (a : List PPiece → PActive) : PNext :=
  match p with
  | .ok l => .go (a l) f
  | .flt e => .flt e iter

/-- A token of a stream or fabric destination. -/
def destToken (d : BitVec 512) (eow : Bool) (pay : List Byte) : Token :=
  let w := pdDst d
  let fab := epKind w == 4
  ⟨mkSide 0 0 eow (if fab then (w.extractLsb' 29 2).toNat else 0) (if fab then (w.extractLsb' 24 5).toNat else 0),
   BitVec.ofNat 128 (leVal (pay.take 16))⟩

def tokenPiece (d : BitVec 512) (iter : Nat) (t : Token) : PPiece :=
  ⟨iter, 1, true, epKind (pdDst d), 0, (pdDst d).toNat, 0, 0, [], false, some t⟩

/-- Bytes for a stream or fabric destination, cut into tokens. With TPAD an iteration's last token is padded at once, and after the last
bytes of the request a partial token is; the last token of all carries EOW (R256, R260). -/
def emitBytes (a : PActive) (iter : Nat) (bs : List Byte) (last : Bool) : PActive :=
  let d := a.req.desc
  let l := a.tok ++ bs
  let flush := last || pdTpad d
  let n := if flush then (l.length + 15) / 16 else l.length / 16
  { a with work := a.work ++ (upto n).map (fun i => tokenPiece d iter (destToken d (last && pdEow d && i + 1 == n) (l.drop (16 * i))))
           tok := if flush then [] else l.drop (16 * n) }

/-- Bytes of a destination iteration at an offset of a memory side, or into the stream; `last` says that they are the request's last. -/
def pumpDest (r : Nat) (x : Region) (a : PActive) (iter : Nat) (o : Int) (bs : List Byte) (last : Bool) (f : Flags) : PNext :=
  let sd := dstSide r a.req
  if isMem sd.ek then (pumpAccess x sd o bs.length iter 1 true bs false).go iter f fun l => { a with work := a.work ++ l }
  else if sd.ek = 6 then .go a f
  else .go (emitBytes a iter bs last) f

/-- More source bytes are needed: n bytes at an offset of a memory side, or a token. -/
def needSource (r : Nat) (x : Region) (a : PActive) (iter : Nat) (o : Int) (n : Nat) : PNext :=
  let sd := srcSide r a.req
  if isMem sd.ek then
    (pumpAccess x sd o n iter 0 false [] false).go iter 0 fun l => { a with work := l, srcPos := a.srcPos + n }
  else .token

/-- The offset of an iteration on the source and on the destination side; a stream side is dense (R260). -/
def srcOff (r : Nat) (a : PActive) (sf q : Nat) : Int :=
  let d := a.req.desc
  if pdPside d || !isMem (srcSide r a.req).ek then ((q * pdSrcBytes d sf : Nat) : Int) else pdOffset d q
def dstOff (r : Nat) (a : PActive) (sf df q : Nat) : Int :=
  let d := a.req.desc
  if pdPside d && isMem (dstSide r a.req).ek then pdOffset d q else ((q * pdDstBytes d sf df : Nat) : Int)

/-- The iteration of a transform is done with its source bytes. -/
def nextIter (r : Nat) (a : PActive) (z : Nat) : PActive :=
  let stream := !isMem (srcSide r a.req).ek
  { a with q := a.q + 1, src := if stream && pdTpad a.req.desc then [] else a.src.drop z, aux := [], auxAsked := false }

/-- The source's address word, for faults that a stream of bytes raises. -/
def srcWord (r : Nat) (a : PActive) : Nat :=
  let sd := srcSide r a.req
  if isMem sd.ek then addrWord sd (sd.base + a.srcPos) else (pdSrc a.req.desc).toNat

/-- None, MX dequantise, MX quantise, convert, CRC-32C and SHA-384. -/
def stepPlain (r : Nat) (x : Region) (a : PActive) : PNext :=
  let d := a.req.desc
  let sf := (srcSide r a.req).fmt
  let df := (dstSide r a.req).fmt
  let q := a.q
  let zs := pdSrcBytes d sf
  let so := srcOff r a sf q
  let dof := dstOff r a sf df q
  let last := q + 1 == pdQ d
  if pdQ d ≤ q then .go { a with stage := 2 } 0
  else if a.src.length < zs then
    (if pdXf d = 1 ∧ so % zs ≠ 0 then .flt ⟨0x17, 4, 0, addrWord (srcSide r a.req) ((srcSide r a.req).base + so)⟩ q
     else needSource r x a q so zs)
  else if pdXf d = 1 ∧ !a.auxAsked then
    (pumpAccess x (auxSide r a.req) (so / zs) 1 q 2 false [] false).go q 0 fun l => { a with work := l, auxAsked := true }
  else
    let data := a.src.take zs
    let y := pumpXf a.req sf df data (a.aux.headD 0).toNat
    let b := { nextIter r a zs with
      crc := if pdXf d = 7 then crcBytes a.crc data else a.crc
      hashed := if pdXf d = 8 then a.hashed ++ data else a.hashed }
    if pdXf d = 2 then
      let bb := mxBlockBytes df
      if dof % bb ≠ 0 then .flt ⟨0x17, 4, 1, addrWord (dstSide r a.req) ((dstSide r a.req).base + dof)⟩ q
      else match pumpDest r x b q dof y.1 last y.2.1 with
        | .go b f => (pumpAccess x (auxSide r a.req) (dof / bb) 1 q 2 true [BitVec.ofNat 8 y.2.2] false).go q f fun l => { b with work := b.work ++ l }
        | z => z
    else pumpDest r x b q dof y.1 last y.2.1

/-- Index gather (R268). -/
def stepGather (r : Nat) (x : Region) (a : PActive) : PNext :=
  let d := a.req.desc
  let q := a.q
  if pdQ d ≤ q then .go { a with stage := 2 } 0
  else if a.src.length < 4 then needSource r x a q ((4 * q : Nat) : Int) 4
  else if !a.auxAsked then
    let i := leVal (a.src.take 4)
    let lim := wrap 32 (pdStride d 1)
    (pumpAccess x (auxSide r a.req) (i * pdStride d 0) (pdU d) q 2 false [] (lim != 0 && decide (lim ≤ i))).go q 0
      fun l => { a with work := l, auxAsked := true }
  else pumpDest r x (nextIter r a 4) q ((q * pdU d : Nat) : Int) (a.aux.take (pdU d)) (q + 1 == pdQ d) 0

/-- Fibre pack (R266). -/
def stepPack (r : Nat) (x : Region) (a : PActive) : PNext :=
  let d := a.req.desc
  let q := a.q
  let u := pdU d
  if pdQ d ≤ q then .go { a with stage := 2 } 0
  else if a.src.length < u then needSource r x a q (srcOff r a 0 q) u
  else
    let v := leVal (a.src.take u)
    let b := nextIter r a u
    if v = 0 then .go b 0
    else
      let e := bytesOf 4 ((pdAux d).toNat % 2 ^ 32 + q) ++ bytesOf 4 0 ++ bytesOf 8 v
      pumpDest r x { b with dstPos := a.dstPos + 16 } q a.dstPos e false 0

/-- Fibre unpack (R266). -/
def stepUnpack (r : Nat) (x : Region) (a : PActive) : PNext :=
  let d := a.req.desc
  let w := a.wr
  let u := pdU d
  let lo := (pdAux d).toNat % 2 ^ 32
  if a.entry = none ∧ !a.fibEnd then
    (if a.src.length < 16 then needSource r x a w a.srcPos 16
     else
      let e := leVal (a.src.take 16)
      let c := e % 2 ^ 32
      let b := { a with src := a.src.drop 16 }
      if e = 0xFFFFFFFF then .go { b with fibEnd := true } 0
      else if decide (c < lo ∨ lo + pdQ d ≤ c) || (match a.lastCoord with | some l => decide (c ≤ l) | none => false) then
        .flt ⟨0x17, 10, 0, srcWord r a⟩ w
      else .go { b with lastCoord := some c, entry := some (c, e / 2 ^ 64 % 2 ^ (8 * u)) } 0)
  else if pdQ d ≤ w then .go { a with stage := 2 } 0
  else
    let put := fun v b => pumpDest r x { b with wr := w + 1 } w (dstOff r a 0 0 w) (bytesOf u v) (w + 1 == pdQ d) 0
    match a.entry with
    | some (c, v) => if c = lo + w then put v { a with entry := none } else put 0 a
    | none => put 0 a

/-- Count F[s] of the frequency table, which AUX holds, and the symbol whose range holds a slot with its C[s] (R265). -/
def entropyF (a : PActive) (s : Nat) : Nat := leVal ((a.aux.drop (2 * s)).take 2)
def entropySym (a : PActive) (slot : Nat) : Nat × Nat :=
  ((upto 256).foldl (fun (p : Option (Nat × Nat) × Nat) s =>
    let f := entropyF a s
    (match p.1 with | some y => some y | none => if p.2 ≤ slot ∧ slot < p.2 + f then some (s, p.2) else none, p.2 + f)) (none, 0)).1.getD (0, 0)

/-- Entropy decode (R265), a header, a lane or a symbol at a time. -/
def stepEntropy (r : Nat) (x : Region) (a : PActive) : PNext :=
  let d := a.req.desc
  let w := a.wr
  let u := pdU d
  let bad := PNext.flt ⟨0x17, 9, 0, srcWord r a⟩ w
  let need := needSource r x a w a.srcPos 4
  if u ≤ a.out.length then pumpDest r x { a with out := a.out.drop u, wr := w + 1 } w (dstOff r a 0 0 w) (a.out.take u) (w + 1 == pdQ d) 0
  else if a.nlanes = 0 then
    (if pdQ d * u ≤ a.emitted then .go { a with stage := 2 } 0
     else if a.src.length < 4 then need
     else
      let h := leVal (a.src.take 4)
      let n := h % 2 ^ 24
      if 2 ^ 27 ≤ h ∨ n = 0 ∨ pdQ d * u < a.emitted + n then bad
      else .go { a with src := a.src.drop 4, nlanes := field h 26 24 + 1, lanes := [], left := n, symIx := 0 } 0)
  else if a.lanes.length < a.nlanes then
    (if a.src.length < 8 then need
     else
      let v := leVal (a.src.take 4) + leVal ((a.src.drop 4).take 4) * 2 ^ 32
      if v < 2 ^ 31 ∨ 2 ^ 63 ≤ v then bad else .go { a with src := a.src.drop 8, lanes := a.lanes ++ [v] } 0)
  else if a.left = 0 then
    (if a.lanes.all (· == 2 ^ 31) then .go { a with nlanes := 0, lanes := [] } 0 else bad)
  else
    let j := a.symIx % a.nlanes
    let v := a.lanes.getD j 0
    let slot := v % 4096
    let s := entropySym a slot
    let v := entropyF a s.1 * (v / 4096) + slot - s.2
    let emit := fun (v : Nat) (src : List Byte) => PNext.go { a with
      src := src, lanes := a.lanes.set j v, left := a.left - 1, symIx := a.symIx + 1, emitted := a.emitted + 1,
      out := a.out ++ [BitVec.ofNat 8 s.1] } 0
    if 2 ^ 31 ≤ v then emit v a.src
    else if a.src.length < 4 then need
    else emit (v * 2 ^ 32 + leVal (a.src.take 4)) (a.src.drop 4)

/-- What a request reads before its first iteration: the frequency table, or the value that CRC-32C continues. -/
def stepFirst (r : Nat) (x : Region) (a : PActive) : PNext :=
  let d := a.req.desc
  let n := if pdXf d = 4 then 512 else if pdXf d = 7 ∧ (pdAux d).getLsbD 57 then 4 else 0
  if n ≠ 0 ∧ !a.auxAsked then
    (pumpAccess x (auxSide r a.req) 0 n 0 2 false [] false).go 0 0 fun l => { a with work := l, auxAsked := true }
  else if pdXf d = 4 then
    (if ((upto 256).map (entropyF a)).sum = 4096 then .go { a with stage := 1 } 0
     else .flt ⟨0x17, 9, 2, addrWord (auxSide r a.req) (auxSide r a.req).base⟩ 0)
  else .go { a with stage := 1, aux := [], auxAsked := false, crc := BitVec.allOnes 32 ^^^ BitVec.ofNat 32 (leVal a.aux) } 0

/-- What a request writes after its last iteration: the end mark, the check value or digest. -/
def stepLast (r : Nat) (x : Region) (a : PActive) : PNext :=
  let d := a.req.desc
  let q := pdQ d
  let mark := if pdXf d = 5 then pumpDest r x a q a.dstPos (bytesOf 16 0xFFFFFFFF) true 0 else .go a 0
  match mark with
  | .go a f =>
    let res := if pdXf d = 7 then bytesOf 4 (a.crc ^^^ BitVec.allOnes 32).toNat else if pdXf d = 8 then sha384 a.hashed else []
    if res = [] then .go { a with stage := 3 } f
    else (pumpAccess x (auxSide r a.req) 0 res.length q 2 true res false).go q f fun l => { a with work := a.work ++ l, stage := 3 }
  | z => z

/-- What a request does next, once the pieces that it has asked for are read. -/
def pumpNext (r : Nat) (x : Region) (a : PActive) : PNext :=
  match a.stage with
  | 0 => stepFirst r x a
  | 1 => match pdXf a.req.desc with
    | 4 => stepEntropy r x a
    | 5 => stepPack r x a
    | 6 => stepUnpack r x a
    | 9 => stepGather r x a
    | _ => stepPlain r x a
  | 2 => stepLast r x a
  | _ => .go a 0

end Sys2Proof.Machine
end

