-- ==== Sys2Proof/Machine/Pump.lean ====
section
/-!
DEFINITION. Machine/Pump.lean: pumps: their request ports and queues, the issue engine, accesses and tokens, barrier updates,
faults and status (R254 to R280), and the PUMP instruction (R269, R270).
-/
namespace Sys2Proof.Machine

/-! ## Pumps -/

def pumpOf (s : State) (r p : Nat) : Pump := tget (getR s r).pumps p {}
def modPump (s : State) (r p : Nat) (f : Pump → Pump) : State :=
  modR s r fun x => { x with pumps := tset x.pumps p (f (tget x.pumps p {})) }
def modActive (s : State) (r p id : Nat) (f : PActive → PActive) : State :=
  modPump s r p fun u => { u with active := u.active.map fun a => if a.req.id = id then f a else a }

/-- Runs a step of pump p of a region. -/
def pumpStep (r p : Nat) (s : State) (f : State → State) : Host.Outcome State Fault Refusal :=
  withUnit (regionOk r && decide (p < 2)) s f

def findActive (u : Pump) (id : Nat) : Option PActive := u.active.find? fun a => a.req.id == id

/-- The request that the issue engine works on (R272). -/
def issuing (u : Pump) : Option PActive := u.active.find? fun a => (decide (a.stage < 3) || a.work != []) && !a.dead

/-! ## Faults (R277, R278) -/

/-- PMFLT and PMDSC take the first fault; a resumable one replaces a resumable one. -/
def recordPumpFault (u : Pump) (q : PReq) (f : PFlt) (iter : Nat) (resum : Bool) : Pump :=
  if u.pmflt0 ≠ 0 ∧ !(resum && u.pmflt0.getLsbD 45) then u
  else { u with
    pmflt0 := BitVec.ofNat 64 (f.cause.toNat * 2 ^ 56 + f.detail * 2 ^ 48 + f.place * 2 ^ 46 + (if resum then 2 ^ 45 else 0)
      + (if q.origin.isSome then 2 ^ 44 else 0))
    pmflt1 := BitVec.ofNat 64 iter, pmflt2 := BitVec.ofNat 64 f.addr, pmdsc := q.desc }

/-- The drain timer starts when the first pump of a region stalls, and stops when none is stalled (R444). -/
def stallTimer (s : State) (r : Nat) : State :=
  modR s r fun x => { x with drainFrom :=
    if (x.pumps.any fun p => p.2.stall) then some (x.drainFrom.getD s.time) else none }

/-- A final fault: the request issues no more, the queue is emptied, and the sequencer will trap. -/
def pumpFault (s : State) (r p id : Nat) (f : PFlt) (iter : Nat) : State :=
  match findActive (pumpOf s r p) id with
  | none => s
  | some a =>
    if a.dead then s
    else
      let held := (issuing (pumpOf s r p)).any fun b => b.req.id == id
      stallTimer (raiseAsync (modActive (modPump s r p fun u =>
        { recordPumpFault u a.req f iter false with fault := true, queue := [], stall := u.stall && !held }) r p id
        fun a => { a with dead := true, work := [], tok := [], out := [] }) r 4 0x17 3 (BitVec.ofNat 64 p)) r

/-- A resumable fault: the pump stalls, with the record that went to the region's fault queue. -/
def pumpStall (s : State) (r p : Nat) (a : PActive) (f : PFlt) (iter : Nat) : State :=
  stallTimer (raiseAsync (modPump s r p fun u => { recordPumpFault u a.req f iter true with stall := true }) r 4 f.cause 3 (BitVec.ofNat 64 p)) r

/-! ## Requests (R257 to R259, R270, R271) -/

/-- The record that an endpoint word of kind 5 names among the sender's. -/
def packetRec (recs : Table (BitVec 256)) (w : BitVec 64) : Option (BitVec 256) :=
  if epKind w = 5 then some (tget recs (w.extractLsb' 0 3).toNat 0) else none

/-- A request enters the queue. In one cycle a PUMP's enters before a packet's (R271). -/
def enterRequest (s : State) (r p : Nat) (q : PReq) : State :=
  let c := (getR s r).cycle
  modPump s r p fun u =>
    let q := { q with id := u.nextId, at_ := c }
    let after := fun (w : PReq) => q.origin.isNone && w.origin.isSome && w.at_ == c
    { u with queue := (u.queue.takeWhile fun w => !after w) ++ [q] ++ u.queue.dropWhile fun w => !after w, nextId := u.nextId + 1 }

/-- The channel whose packet is the first to be complete in a request port. -/
def packetChan (l : List PortTok) : Option (Nat × Nat) :=
  ((upto l.length).find? fun n =>
    match l[n]? with
    | some t => ((l.take (n + 1)).filter fun v => v.key == t.key && v.chan == t.chan).length == 4
    | none => false).bind fun n => (l[n]?).map fun t => (t.key, t.chan)

/-- The first complete packet of a request port enters the queue, where there is room; one that holds a reserved value is discarded
with a trap. -/
def takePacket (s : State) (r p : Nat) : State :=
  let u := pumpOf s r p
  let l := u.reqPort.toks
  match packetChan l with
  | none => s
  | some c =>
    if pumpDepth ≤ u.queue.length ∨ !acting (getR s r) then s
    else
      let mine := (l.filter fun t => t.key == c.1 && t.chan == c.2).take 4
      let rest := (upto 4).foldl (fun l _ => removeFirst (fun t => t.key == c.1 && t.chan == c.2) l) l
      let d : BitVec 512 := BitVec.ofNat 512 (packLanes 128 (mine.map (·.tok.pay.toNat)))
      let t := mine.headD default
      let q : PReq := ⟨0, d, t.sample, some t.key, packetRec t.recs (pdSrc d), packetRec t.recs (pdDst d), 0⟩
      let s := modPump s r p fun u => { u with reqPort := { u.reqPort with toks := rest } }
      if pumpReserved (getR s r) r q then
        raiseAsync (modPump s r p fun u => recordPumpFault u q ⟨0x17, 1, 0, 0⟩ 0 false) r 4 0x17 3 (BitVec.ofNat 64 p)
      else enterRequest s r p q

/-- PUMP_REQUEST_PACKET: markers are removed, and every complete packet of the port's 8 slots enters the queue (R271). -/
def requestPacket (s : State) (r p : Nat) : State :=
  let s := if (pumpOf s r p).reqPort.toks.any fun t => t.tok.isMarker then modPump s r p fun u =>
    { u with reqPort := { u.reqPort with toks := u.reqPort.toks.filter fun t => !t.tok.isMarker } } else s
  takePacket (takePacket s r p) r p

def execPumpRequestPacket (r p : Nat) (s : State) : Host.Outcome State Fault Refusal := pumpStep r p s fun s => requestPacket s r p

/-- PUMP. -/
def execPump (a : BitVec 5) (u : BitVec 1) : Meaning := fun s => seqDo s fun r q =>
  let p := u.toNat
  let va := (getS q a).toNat
  if va % 64 ≠ 0 then seqTrap s r 0x04 (getS q a)
  else if 2 ^ 57 ≤ va then seqTrap s r 0x06 (getS q a)
  else ((seqRecord s r va 64).issued r).then r fun s bs =>
    let w : PReq := ⟨0, BitVec.ofNat 512 (leVal bs), q.fpctl.extractLsb' 0 3, none, none, none, 0⟩
    if pumpReserved (getR s r) r w then
      seqTrap (modPump s r p fun u => recordPumpFault u w ⟨0x17, 1, 0, 0⟩ 0 false) r 0x17 0
    else if pumpDepth ≤ (pumpOf s r p).queue.length then modSeq (seqWait s r) r fun q => { q with asked := false }
    else seqNext (enterRequest s r p w) r id

/-! ## Start (R272, R114) -/

/-- The fabric destination of a request: site, element and queue, or 32 + engine port, context and 0. -/
def fabricDest (q : PReq) : Option (Nat × Nat × Nat) :=
  let w := pdDst q.desc
  if q.dstRec.isSome ∨ epKind w ≠ 4 then none
  else if w.getLsbD 31 then some (32 + (w.extractLsb' 0 5).toNat, (w.extractLsb' 29 2).toNat, 0)
  else some ((w.extractLsb' 12 5).toNat, (w.extractLsb' 8 4).toNat, (w.extractLsb' 4 3).toNat)

/-- PUMP_REQUEST_START: the request at the head of the queue starts; a packet's not in the cycle in which it entered, when a PUMP may
still enter before it (R271). -/
def requestStart (s : State) (r p : Nat) : State :=
  let u := pumpOf s r p
  match u.queue with
  | [] => s
  | q :: rest =>
    if (issuing u).isSome ∨ u.stall ∨ (pdOrd q.desc ∧ u.active ≠ []) ∨ !acting (getR s r) ∨ (q.origin.isSome ∧ (getR s r).cycle ≤ q.at_) then s
    else
      let s := modPump s r p fun u => { u with queue := rest, active := u.active ++ [{ req := q }], latches := []
                                               bound := match fabricDest q with | some d => u.bound ++ [d] | none => u.bound }
      let s := match fabricDest q with
        | some (st, el, n) => if st < 32 then modE s (ekey r st el) fun e => setQ e n { getQ e n with pumpBound := true } else s
        | none => s
      if pdXf q.desc = 5 ∧ 0xFFFFFFFF ≤ (pdAux q.desc).toNat % 2 ^ 32 + pdQ q.desc - 1 then pumpFault s r p q.id ⟨0x17, 10, 0, 0⟩ 0
      else s

def execPumpRequestStart (r p : Nat) (s : State) : Host.Outcome State Fault Refusal := pumpStep r p s fun s => requestStart s r p

/-! ## The issue engine -/

/-- What a pump asks of a translation (R390). -/
def pumpReq (x : Region) (write : Bool) : XReq := ⟨asidOf x, ownerOf x, true, if write then 1 else 0, false, false⟩

/-- A latched page run serves an address (R276). -/
def pumpLatch (s : State) (u : Pump) (q : XReq) (va : Nat) : Option Xlat :=
  match u.latches.find? fun x => xlatHit x.2 q.asid q.owner va with
  | some x => if (xlatCheck s x.2 va q).isNone then some x.2 else none
  | none => none

/-- Page runs that a pump latches: 8 for each endpoint and 4 for its auxiliary address; the oldest makes room (R254). -/
def latchPut (l : List (Nat × Xlat)) (place : Nat) (x : Xlat) : List (Nat × Xlat) :=
  if l.any fun y => y.2 == x then l
  else
    let n := if place = 2 then 4 else 8
    let l := if n ≤ (l.filter fun y => y.1 == place).length then removeFirst (fun y => y.1 == place) l else l
    l ++ [(place, x)]

/-- Issues the first piece of a request's work. -/
def issuePiece (s : State) (r p : Nat) (a : PActive) (w : PPiece) : State :=
  let put := fun (s : State) (x : Option Xlat) =>
    modActive (modPump s r p fun u => { u with
      accs := u.accs ++ [⟨u.nextId, a.req.id, w, x, (getR s r).cycle, 0, [], [], false, false, []⟩], nextId := u.nextId + 1
      latches := match x with | some x => latchPut u.latches w.place x | none => u.latches }) r p a.req.id fun a => { a with work := a.work.tail }
  if w.ek ≠ 0 ∨ w.skip ∨ w.tok.isSome then put s none
  else
    let q := pumpReq (getR s r) w.write
    match pumpLatch s (pumpOf s r p) q w.addr with
    | some x => put s (some x)
    | none => match translate s r w.addr q with
      | .ok s x => put s (some x)
      | .wait s => s
      | .fault s c l =>
        let s := postFault s r (faultRecord w.addr w.iter q.asid c l q.kind p 0 0 0)
        pumpStall s r p a ⟨c, 6, w.place, w.addr⟩ w.iter

/-- The next token of a stream source, or the fault that its port raises. -/
inductive SrcTok where
  | none (s : State)
  | tok (s : State) (t : Token)
  | flt (s : State) (f : PFlt)
  deriving DecidableEq, Repr

def sourceToken (s : State) (r p : Nat) (a : PActive) : SrcTok :=
  let w := pdSrc a.req.desc
  if epKind w = 4 then
    match (pumpOf s r p).dataPort.toks with
    | [] => .none s
    | t :: rest => .tok (modPump s r p fun u => { u with dataPort := { u.dataPort with toks := rest } }) t.tok
  else
    let n := (w.extractLsb' 0 4).toNat
    if !spEnabled (spOf s r n) || spOut (spOf s r n) then .flt s ⟨0x17, 11, 0, w.toNat⟩
    else match inboundHead s r n with
      | none => .none s
      | some t =>
        if portMismatch s r n then .flt (inboundMismatch s r n) ⟨0x0A, 11, 0, w.toNat⟩
        else
          let y := inboundSync s r n
          if y.2 then .tok (inboundPop y.1 r n) t else .none y.1

/-- Takes the bytes of the reads that are complete into the request, in the order of their issue. -/
def collectReads (s : State) (r p : Nat) (a : PActive) : State :=
  let mine := (pumpOf s r p).accs.filter fun c => c.req == a.req.id && !c.p.write && c.complete
  let bytes := fun (k : Bool) => (mine.filter fun c => (c.p.place == 2) == k).flatMap (·.got)
  modActive (modPump s r p fun u => { u with accs := u.accs.filter fun c => !mine.contains c }) r p a.req.id fun a =>
    { a with src := a.src ++ bytes false, aux := a.aux ++ bytes true }

/-- PUMP_ISSUE: the issue engine issues the next piece, or goes on with the transform once its reads have returned. -/
def pumpIssue (s : State) (r p : Nat) : State :=
  let u := pumpOf s r p
  match issuing u with
  | none => s
  | some a =>
    if u.stall ∨ !acting (getR s r) then s
    else match a.work with
    | w :: _ => issuePiece s r p a w
    | [] =>
      if u.accs.any fun c => c.req == a.req.id && !c.p.write && !c.complete then s
      else
        let s := collectReads s r p a
        match findActive (pumpOf s r p) a.req.id with
        | none => s
        | some a => match pumpNext r (getR s r) a with
          | .go b f => modActive (modPump s r p fun u => { u with flags := u.flags ||| f, flagsNew := newFlags u.flagsNew (getR s r).cycle f }) r p a.req.id fun _ => b
          | .flt f i => pumpFault s r p a.req.id f i
          | .token => match sourceToken s r p a with
            | .none s => s
            | .flt s f => pumpFault s r p a.req.id f a.q
            | .tok s t =>
              if t.isMarker then s
              else modActive s r p a.req.id fun a => { a with src := a.src ++ bytesOf 16 t.pay.toNat }

def execPumpIssue (r p : Nat) (s : State) : Host.Outcome State Fault Refusal := pumpStep r p s fun s => pumpIssue s r p

/-! ## Accesses and tokens (R262, R272 to R275) -/

def findPAcc (u : Pump) (id : Nat) : Option PAcc := u.accs.find? fun a => a.id == id
def dropPAcc (s : State) (r p id : Nat) : State := modPump s r p fun u => { u with accs := u.accs.filter fun a => a.id != id }
def modPAcc (s : State) (r p id : Nat) (f : PAcc → PAcc) : State :=
  modPump s r p fun u => { u with accs := u.accs.map fun a => if a.id = id then f a else a }

/-- A write is performed: a piece of the destination sends its sector update (R275); what is left of a refused one sends none. -/
def pieceWritten (s : State) (r p : Nat) (a : PAcc) : State :=
  let s := dropPAcc s r p a.id
  match findActive (pumpOf s r p) a.req with
  | some b =>
    if a.p.place = 1 ∧ a.p.tok = none ∧ pdBen b.req.desc ∧ !a.refused then
      modPump s r p fun u => { u with updates := u.updates ++ [⟨u.nextId, a.req, 0, 1, (getR s r).cycle⟩], nextId := u.nextId + 1 }
    else s
  | none => s

/-- Two pieces have a byte in common: by physical address where both are in memory (R273). -/
def sameBytes (a b : PAcc) : Bool :=
  let lap := fun (x n y m : Nat) => decide (y < x + n) && decide (x < y + m)
  a.p.ek == b.p.ek && (match a.p.ek, a.xlat, b.xlat with
    | 0, some x, some y => lap (x.pa + (a.p.addr - x.va)) a.p.size (y.pa + (b.p.addr - y.va)) b.p.size
    | _, _, _ => a.p.key == b.p.key && lap a.p.addr a.p.size b.p.addr b.p.size)

/-- An earlier write of the request to the same bytes is not performed (R273). -/
def behindWrite (u : Pump) (a : PAcc) : Bool :=
  u.accs.any fun b => decide (b.id < a.id) && b.req == a.req && b.p.write && b.p.tok.isNone && sameBytes a b

/-- A piece in memory. -/
def memPiece (s : State) (r p : Nat) (a : PAcc) (x : Xlat) : State :=
  let v := viaOf x a.p.addr
  if a.p.write then
    let q := placeBytes (v.pa % 64) a.p.data
    match writeLine s r v a.p.scope q.1 q.2 (.pump r p a.id) with
    | .wait s => s
    | .done s _ _ _ => pieceWritten s r p a
  else match readLine s r v (decide (3 ≤ a.p.scope)) (.pump r p a.id) with
    | .wait s => s
    | .done s d _ bad => match bad with
      | some c => pumpFault (dropPAcc s r p a.id) r p a.req ⟨c, 7, a.p.place, a.p.addr⟩ a.p.iter
      | none => modPAcc s r p a.id fun a => { a with got := lineBytes d (v.pa % 64) a.p.size, complete := true }

/-- Hops between a pump and an element (R501). -/
def pumpHops (key : Nat) : Nat := hopsEast (keySite key)

/-- A refused granule is a final fault; what the port has accepted of the piece still completes (R262, R277). -/
def pieceRefused (s : State) (r p : Nat) (a : PAcc) (detail ad : Nat) : State :=
  let s := if a.posted = [] then dropPAcc s r p a.id
    else modPAcc s r p a.id fun a => { a with p := { a.p with size := a.done }, refused := true }
  pumpFault s r p a.req ⟨0x17, detail, a.p.place, 2 * 2 ^ 61 + keySite a.p.key * 2 ^ 20 + keyElem a.p.key * 2 ^ 16 + ad⟩ a.p.iter

/-- Bytes of a piece from position `at_` on that lie in one granule. -/
def granuleBytes (a : PAcc) (at_ : Nat) : Nat := Nat.min (a.p.size - at_) (16 - (a.p.addr + at_) % 16)

/-- The first granule of a write that the port has accepted is written (R198, R199). -/
def spadLand (s : State) (r p : Nat) (a : PAcc) : Option State :=
  match a.posted with
  | [] => none
  | (o, n) :: rest =>
    let ad := a.p.addr + o
    let src := UpdFrom.pump p a.id
    if mayLand s a.p.key src ad n then
      let bs := (a.p.data.drop o).take (granuleBytes a o)
      let s := landed s a.p.key src ad fun e => setFull (spadWrite e ad bs.length (leVal bs)) ad true
      some (if a.p.size ≤ a.done ∧ rest = [] then pieceWritten s r p a else modPAcc s r p a.id fun a => { a with posted := rest })
    else none

/-- A piece in a scratchpad goes on: each granule is a request at its owner's port (R262). A read returns once every granule has been
accepted and its data is back. -/
def spadPiece (s : State) (r p : Nat) (a : PAcc) : State :=
  let c := (getR s r).cycle
  let key := a.p.key
  let ad := a.p.addr + a.done
  let n := granuleBytes a a.done
  if a.p.size ≤ a.done then
    (if a.p.write ∨ c < (a.posted.headD (0, 0)).2 + 3 + pumpHops key then s
     else modPAcc (a.raised.foldl (fun s q => modE s q.1 fun e => countSeal e q.2 (· - 1)) s) r p a.id fun a =>
       { a with raised := [], posted := [], complete := true })
  else if c < a.issued + 1 + pumpHops key then s
  else if a.p.write then
    usePort s key (pumpPortNo p) fun s =>
      if isSealed (getE s key) ad then pieceRefused s r p a 5 ad
      else modPAcc (landPut s key (.pump p a.id) ad) r p a.id fun a => { a with posted := a.posted ++ [(a.done, c)], done := a.done + n }
  else
    let e := getE s key
    let ns := sealsOver e ad
    if !portClear s key ad ∨ (ns.any fun m => decide (1023 ≤ (tget e.seals m {}).count)) then s
    else usePort s key (pumpPortNo p) fun s =>
      if ns = [] then pieceRefused s r p a 2 ad
      else modPAcc (modE s key fun e => countSeal e ns (· + 1)) r p a.id fun a =>
        { a with done := a.done + n, got := a.got ++ bytesOf n (spadRead e ad n).toNat, raised := a.raised ++ [(key, ns)], posted := [(0, c)] }

/-- A token of a pump that has been sent over the fabric, and the cycle of that. -/
def sentAt (a : PAcc) : Option Nat := a.posted.head?.map (·.2)

/-- Tokens that a pump has on their way to a destination: they hold slots there. -/
def onTheWay (u : Pump) (w : PPiece) : Nat :=
  (u.accs.filter fun b => b.p.tok.isSome && b.p.ek == w.ek && b.p.addr == w.addr && (sentAt b).isSome).length

/-- A token goes over the fabric: it is sent where the pump has a credit that no other token takes, and enters its slot when it has
travelled there (R172, R501). -/
def fabricPiece (s : State) (r p : Nat) (a : PAcc) (hops : Nat) (resv : List Resv) (enter : State → State) : State :=
  let c := (getR s r).cycle
  match sentAt a with
  | some n => if c < n + 2 + hops then s else pieceWritten (enter s) r p a
  | none =>
    if usableResv resv (.pump r p) c ≤ onTheWay (pumpOf s r p) a.p then s
    else modPAcc s r p a.id fun a => { a with posted := [(0, c)] }

/-- A token goes to a stream port or over the fabric, in the order of the byte stream; across a failed die-to-die fabric it is dropped and
logged (R456). -/
def sendPiece (s : State) (r p : Nat) (a : PAcc) (t : Token) : State :=
  let u := pumpOf s r p
  let w : BitVec 64 := BitVec.ofNat 64 a.p.addr
  let feeder := Feeder.pump r p
  if u.accs.any fun b => decide (b.id < a.id) && b.p.tok.isSome && b.p.ek == a.p.ek && b.p.addr == a.p.addr && ((sentAt b).isNone || (sentAt a).isSome) then s
  else if a.p.ek = 3 then
    let n := a.p.addr % 16
    let b := spOf s r n
    let d := ringDesc s (spDie b) (spRing b)
    let flt := fun (s : State) (c : BitVec 8) => pumpFault (dropPAcc s r p a.id) r p a.req ⟨c, 11, 1, a.p.addr⟩ a.p.iter
    if !spEnabled b || !spOut b then flt s 0x17
    else if dieFar s (dieOf r) (spDie b) then
      pieceWritten (tellLoss (logPush s 2 0x0C (ownerOf (getR s r)) (some r) (ringEntryAddr d (ringWr d) + s.devid * 2 ^ 47) s.devid) r) r p a
    else if !ringOk d none || ringFull d || !gwPasses (getR s r) then s
    else if ringOwner d ≠ ownerOf (getR s r) then flt (gwLog s r (spRing b) (spDie b) n true false) 0x0A
    else pieceWritten (gwUnit (ringPushBy s r (spDie b) (spRing b) t) r) r p a
  else if w.getLsbD 31 then
    let n := (w.extractLsb' 0 5).toNat
    let x := (w.extractLsb' 29 2).toNat
    fabricPiece s r p a 0 (enginePort (getR s r) n x).resv fun s =>
      modR s r fun g => setEnginePort g n x (portEnqueue (enginePort g n x) feeder ⟨0, 0, t, [], 0⟩)
  else
    let key := ekey r (w.extractLsb' 12 5).toNat (w.extractLsb' 8 4).toNat
    let q := (w.extractLsb' 4 3).toNat
    fabricPiece s r p a (pumpHops key) (getQ (getE s key) q).resv fun s => enqueue s key q feeder t

/-- A read that a pre-emption dropped is issued again: it is translated anew (R280). -/
def reissuePiece (s : State) (r p : Nat) (a : PAcc) : State :=
  let u := pumpOf s r p
  let q := pumpReq (getR s r) a.p.write
  if u.stall ∨ !acting (getR s r) then s
  else match translate s r a.p.addr q with
    | .ok s x => modPAcc (modPump s r p fun u => { u with latches := latchPut u.latches a.p.place x }) r p a.id
        fun a => { a with xlat := some x }
    | .wait s => s
    | .fault s c l =>
      let s := postFault s r (faultRecord a.p.addr a.p.iter q.asid c l q.kind p 0 0 0)
      match findActive u a.req with
      | some b => pumpStall s r p b ⟨c, 6, a.p.place, a.p.addr⟩ a.p.iter
      | none => s

/-- PUMP_ACCESS_COMPLETE: a piece or a token that has been issued goes on. While the region is stopped, reads do not: their data is
dropped (R280). -/
def pumpAccessStep (s : State) (r p i : Nat) : State :=
  match findPAcc (pumpOf s r p) i with
  | none => s
  | some a =>
    if a.complete ∨ (!a.p.write ∧ !acting (getR s r)) then s
    else if a.p.write ∧ a.p.tok.isNone ∧ behindWrite (pumpOf s r p) a then s
    else match a.p.tok, a.xlat with
    | some t, _ => sendPiece s r p a t
    | none, some x => memPiece s r p a x
    | none, none =>
      if a.p.skip then
        (if a.p.write then pieceWritten s r p a
         else modPAcc s r p i fun a => { a with got := List.replicate a.p.size 0, complete := true })
      else if a.p.ek = 0 then reissuePiece s r p a
      else match spadLand s r p a with
        | some s => s
        | none => spadPiece s r p a

def execPumpAccessComplete (r p i : Nat) (s : State) : Host.Outcome State Fault Refusal := pumpStep r p s fun s => pumpAccessStep s r p i

/-- PUMP_BARRIER_UPDATE: an update is applied at the barrier's port; a refused one is a final fault. -/
def pumpBarrier (s : State) (r p i : Nat) : State :=
  let u := pumpOf s r p
  let x := getR s r
  match u.updates.find? fun v => v.id == i with
  | none => s
  | some v =>
    let pop := fun s => modPump s r p fun u => { u with updates := u.updates.filter fun w => w.id != i }
    match findActive u v.req with
    | none => pop s
    | some a =>
      let d := a.req.desc
      let key := ekey r (pdBsite d) (pdBelem d)
      let e := getE s key
      let bad := fun s => pumpFault (pop s) r p v.req ⟨0x17, 8, 1, 2 * 2 ^ 61 + pdBsite d * 2 ^ 20 + pdBelem d * 2 ^ 16 + pdBoff d⟩ a.q
      if !settling x ∨ x.cycle < v.at_ + 1 + pumpHops key then s
      else if spadSize x ≤ pdBoff d ∨ isSealed e (pdBoff d) then usePort s key (pumpPortNo p) bad
      else match portUpdate s key (pdBoff d) (.pump p i) (pumpPortNo p) fun e => barrierUpdate e (pdBoff d) v.darr v.dsec with
        | .refused s => bad s
        | .wait s => s
        | .done s => pop s

def execPumpBarrierUpdate (r p i : Nat) (s : State) : Host.Outcome State Fault Refusal := pumpStep r p s fun s => pumpBarrier s r p i

/-! ## Completion (R272, R275) -/

/-- Ends a request: its fabric destination gives back the slots that it held; the queue stays bound (R114). -/
def endRequest (s : State) (r p : Nat) (q : PReq) : State :=
  let s := modPump s r p fun u => { u with
    active := u.active.filter fun a => a.req.id != q.id
    bound := match fabricDest q with | some d => u.bound.erase d | none => u.bound }
  match fabricDest q with
  | none => s
  | some (st, el, n) =>
    if (pumpOf s r p).bound.contains (st, el, n) then s
    else if st < 32 then modE s (ekey r st el) fun e =>
      let x := getQ e n
      setQ e n { x with resv := x.resv.filter fun v => v.who != .pump r p }
    else modR s r fun x =>
      let y := enginePort x (st - 32) el
      setEnginePort x (st - 32) el { y with resv := y.resv.filter fun v => v.who != .pump r p }

/-- PUMP_REQUEST_COMPLETE: with everything performed and sent, the arrival goes out; once it is applied, the request is complete. -/
def requestComplete (s : State) (r p i : Nat) : State :=
  let u := pumpOf s r p
  match findActive u i with
  | none => s
  | some a =>
    if (a.stage < 3 ∧ !a.dead) ∨ a.work ≠ [] ∨ (u.accs.any fun c => c.req == i && (!a.dead || !c.complete)) ∨ (u.updates.any fun v => v.req == i) then s
    else if pdBen a.req.desc ∧ !a.arrSent ∧ !a.dead then
      modActive (modPump s r p fun u => { u with updates := u.updates ++ [⟨u.nextId, i, 1, 0, (getR s r).cycle⟩], nextId := u.nextId + 1 }) r p i
        fun a => { a with arrSent := true }
    else endRequest (modPump s r p fun u => { u with accs := u.accs.filter fun c => c.req != i }) r p a.req

def execPumpRequestComplete (r p i : Nat) (s : State) : Host.Outcome State Fault Refusal :=
  pumpStep r p s fun s => if acting (getR s r) then requestComplete s r p i else s

/-! ## Status and control (R278) -/

def pumpBusy (u : Pump) : Bool := u.queue != [] || u.active != []

def pmst (u : Pump) : Nat :=
  u.flags.toNat + (if u.fault then 2 ^ 10 else 0) + (if u.stall then 2 ^ 11 else 0) + (if pumpBusy u then 2 ^ 12 else 0)
    + Nat.min 8 u.queue.length * 2 ^ 13

/-- RETRY: a stalled pump resumes from the faulting access. -/
def pumpRetry (s : State) (r p : Nat) : State := stallTimer (modPump s r p fun u => { u with stall := false }) r

/-- CLR clears FAULT and the PMFLT registers. -/
def pumpClr (s : State) (r p : Nat) : State :=
  modPump s r p fun u => { u with fault := false, pmflt0 := 0, pmflt1 := 0, pmflt2 := 0, pmdsc := 0 }

def execRetry (r p : Nat) (s : State) : Host.Outcome State Fault Refusal := pumpStep r p s fun s => pumpRetry s r p
def execClr (r p : Nat) (s : State) : Host.Outcome State Fault Refusal := pumpStep r p s fun s => pumpClr s r p

end Sys2Proof.Machine
end

