-- ==== Sys2Proof/Machine/SeqPort.lean ====
section
/-!
DEFINITION. Machine/SeqPort.lean: the queue ports and the barriers of the sequencer (R296 to R299).
-/
namespace Sys2Proof.Machine

/-! ## Queue ports (R296) -/

/-- The port is enabled in a direction and its ring's descriptor passes R502. -/
def sqUsable (s : State) (r n : Nat) (out : Bool) : Bool :=
  let b := sqOf s r n
  spEnabled b && spOut b == out && ringOk (ringDesc s (spDie b) (spRing b)) (if out then none else some (spCons b))

/-- A ring of another owner: logged, and the instruction traps (R181). -/
def sqMismatch (s : State) (r n : Nat) (out : Bool) : State :=
  let b := sqOf s r n
  seqTrap (gwLog s r (spRing b) (spDie b) n out true) r 0x0A 0

/-- QPUT; across a failed fabric the entry is dropped and logged (R456). -/
def execQput (a b : BitVec 5) (p : BitVec 2) (e : BitVec 1) (sc : BitVec 3) (c : BitVec 2) (v : BitVec 5) : Meaning :=
  fun s => seqDo s fun r q =>
    let n := p.toNat
    let x := sqOf s r n
    let d := ringDesc s (spDie x) (spRing x)
    if 5 ≤ sc.toNat then seqReserved s r
    else if !sqUsable s r n true then seqTrap s r 0x0B 0
    else if ringOwner d ≠ ownerOf (getR s r) then sqMismatch s r n true
    else if dieFar s (dieOf r) (spDie x) then
      seqNext (tellLoss (logPush s 2 0x0C (ownerOf (getR s r)) (some r) (ringEntryAddr d (ringWr d) + s.devid * 2 ^ 47) s.devid) r) r id
    else if ringFull d then modSeq (seqWait s r) r fun q => { q with qputWait := some n }
    else if !gwPasses (getR s r) then seqWait s r
    else
      let put := fun s =>
        let t : Token := ⟨mkSide (if sc = 0 then 0 else 1) sc.toNat (e == 1) c.toNat v.toNat,
          BitVec.ofNat 128 ((getS q a).toNat + (getS q b).toNat * 2 ^ 64)⟩
        seqNext (gwUnit (ringPushBy s r (spDie x) (spRing x) t) r) r id
      if sc = 0 then put s else afterWrites (seqWait s r) r sc.toNat put

/-- QGET: the payload goes to dl and dh, the sideband to SQSIDE; a KIND 1 token is acquired (R347). Across a failed
fabric the read is poisoned (R456). -/
def execQget (l h : BitVec 5) (p : BitVec 2) : Meaning := fun s => seqDo s fun r _ =>
  let n := p.toNat
  let x := sqOf s r n
  let d := ringDesc s (spDie x) (spRing x)
  if !sqUsable s r n false then seqTrap s r 0x0B 0
  else if ringOwner d ≠ ownerOf (getR s r) then sqMismatch s r n false
  else if dieFar s (dieOf r) (spDie x) then seqTrap (tellLoss s r) r 0x0D 0
  else if ringRd d (spCons x) = ringWr d ∨ !gwPasses (getR s r) then seqWait s r
  else
    let w := ringSync s r (spDie x) (spRing x) (spCons x)
    if !w.2 then seqWait w.1 r
    else
    let s := w.1
    let t := ringRead s d (ringRd d (spCons x))
    let pay := if t.isMarker then 0 else t.pay.toNat
    seqNext (gwUnit (ringPop s (spDie x) (spRing x) (spCons x)) r) r fun q =>
      let q := setS (setS q l (BitVec.ofNat 64 pay)) h (BitVec.ofNat 64 (pay / 2 ^ 64))
      let q := { q with sqside := t.side.setWidth 64 ||| 0x10000 }
      if t.kind = 1 then seqAcquire q t.scope else q

/-! ## Barriers (R297 to R299) -/

/-- The cause with which a barrier operand is refused. -/
def barrierCause (x : Region) (v : BitVec 64) : Option (BitVec 8) :=
  if v.extractLsb' 25 39 ≠ 0 ∨ !siteOk x (v.extractLsb' 20 5).toNat then some 0x02
  else if v.extractLsb' 0 4 ≠ 0 then some 0x04
  else if spadSize x ≤ (v.extractLsb' 0 16).toNat then some 0x05
  else none

def barrierKey (r : Nat) (v : BitVec 64) : Nat := ekey r (v.extractLsb' 20 5).toNat (v.extractLsb' 16 4).toNat
def barrierOff (v : BitVec 64) : Nat := (v.extractLsb' 0 16).toNat

/-- Runs a barrier instruction on the owner's scratchpad; its faulting address is TVAL. -/
def withBarrier (s : State) (r : Nat) (v : BitVec 64) (f : Nat → Nat → State) : State :=
  match barrierCause (getR s r) v with
  | some c => seqTrap s r c v
  | none => f (barrierKey r v) (barrierOff v)

/-- The notify channel of TBINIT is refused (R298). -/
def notifyBad (x : Region) (n : BitVec 16) : Bool :=
  let site := (n.extractLsb' 10 5).toNat
  decide (4 < (n.extractLsb' 0 3).toNat)
    || (n.getLsbD 15 && (!siteOk x site || decide (5 < (n.extractLsb' 3 3).toNat)))
    || (!n.getLsbD 15 && n.extractLsb' 3 12 != 0)

/-- A barrier instruction from its sending to its reply: `port` at the owner's external port once the request has travelled there,
`done` once the reply has returned; a refusal traps with the operand as the faulting address (R297, R501). -/
def atBarrier (s : State) (r key : Nat) (va : BitVec 64) (port done : State → State) : State :=
  let q := getSeq s r
  let c := (getR s r).cycle
  match q.bar.reply, q.bar.sent with
  | some (t, cause), _ => if c < t then s else if cause = 0 then done s else seqTrap s r cause va
  | none, some t => if c < t + 1 + hopsWest (keySite key) then s else port s
  | none, none => modSeq (seqWait s r) r fun q => { q with bar := { q.bar with sent := some c } }

/-- What the port has done stands, and its reply sets out (R282). -/
def barReply (s : State) (r key : Nat) (cause : BitVec 8) : State :=
  modSeq s r fun q => { q with asked := true, bar := { q.bar with
    reply := some ((getR s r).cycle + 2 + hopsWest (keySite key), cause) } }

/-- An update by the sequencer at the port of a barrier: a sealed granule refuses it with cause 0x07, the barrier with 0x05; behind an
update that waits there, it waits (R215). -/
def seqUpdate (s : State) (r key off : Nat) (upd : Elem → BarRes) : State :=
  if isSealed (getE s key) off then usePort s key seqPortNo fun s => barReply s r key 0x07
  else match portUpdate s key off .seq seqPortNo upd with
    | .wait s => s
    | .refused s => barReply s r key 0x05
    | .done s => barReply s r key 0

/-- TBINIT. -/
def execTbinit (a b : BitVec 5) (n : BitVec 16) : Meaning := fun s => seqDo s fun r q =>
  let v := getS q b
  let x := getR s r
  withBarrier s r (getS q a) fun key off =>
    if v.extractLsb' 0 20 = 0 ∨ v.extractLsb' 20 4 ≠ 0 ∨ v.extractLsb' 56 8 ≠ 0 ∨ notifyBad x n then seqTrap s r 0x02 0
    else
      let arr := (v.extractLsb' 0 20).toNat
      let bar := arr * 2 ^ 4 + arr * 2 ^ 24 + (v.extractLsb' 24 32).toNat * 2 ^ 48 + n.toNat * 2 ^ 112
      atBarrier s r key (getS q a) (fun s => seqUpdate s r key off fun e => .applied (spadWrite e off 16 bar)) fun s => seqNext s r id

/-- TBARR: it follows every earlier access of the sequencer at its scope. -/
def execTbarr (a : BitVec 5) (sc : BitVec 3) : Meaning := fun s => seqDo s fun r q =>
  if 5 ≤ sc.toNat then seqReserved s r
  else withBarrier s r (getS q a) fun key off =>
    let go := fun s => atBarrier s r key (getS q a) (fun s => seqUpdate s r key off fun e => barrierUpdate e off 1 0) fun s => seqNext s r id
    if q.bar.sent.isSome then go s else afterWrites (seqWait s r) r sc.toNat go

/-- TBWAIT: it completes where the phase differs when its check reaches the port, and is otherwise released by a phase change
(R214, R299); then it acquires. -/
def execTbwait (a b : BitVec 5) (sc : BitVec 3) : Meaning := fun s => seqDo s fun r q =>
  if 5 ≤ sc.toNat ∨ (getS q b).extractLsb' 4 60 ≠ 0 then seqReserved s r
  else withBarrier s r (getS q a) fun key off =>
    atBarrier s r key (getS q a) (fun s =>
        if q.bar.waits then (if (getE s key).waiter = some (off, true) then barReply s r key 0 else s)
        else usePort s key seqPortNo fun s =>
          let bar : BitVec 128 := BitVec.ofNat 128 (memVal (getE s key).spad off 16)
          if barPhase bar ≠ (getS q b).toNat then barReply s r key 0
          else modSeq (modE s key fun e => { e with waiter := some (off, false) }) r fun q => { q with bar := { q.bar with waits := true } })
      fun s => seqNext s r fun q => seqAcquire q sc.toNat

end Sys2Proof.Machine
end

