-- ==== Sys2Proof/Machine/SeqCsr.lean ====
section
/-!
DEFINITION. Machine/SeqCsr.lean: the control registers of the sequencer (R286, R287, R122, R123, R177, R179, R247, R248, R278, R296,
R405, R437, R441, R443) and the instructions GETC and SETC that reach them.
-/
namespace Sys2Proof.Machine

/-! ## Numbers and modes -/

/-- Register numbers of a pump, from 0x060 + 0x20p on. -/
def csrPump (n : Nat) : Option (Nat × Nat) :=
  if 0x060 ≤ n ∧ n < 0x0A0 then some ((n - 0x060) / 0x20, (n - 0x060) % 0x20) else none

/-- The number is assigned (R287, R405, R437, R441, R443). -/
def csrAssigned (n : Nat) : Bool :=
  decide (n ≤ 0x016 ∧ n ≠ 0x00E ∧ n ≠ 0x00F) || n == 0x018 || decide (0x01A ≤ n ∧ n ≤ 0x043) || decide (0x048 ≤ n ∧ n ≤ 0x04B)
    || decide (0x050 ≤ n ∧ n ≤ 0x056) || decide (0x100 ≤ n ∧ n < 0x240)
    || (match csrPump n with | some (_, k) => decide (k ≤ 3 ∨ (8 ≤ k ∧ k ≤ 16)) | none => false)

/-- Only supervisor mode reaches the register. -/
def csrSuper (n : Nat) : Bool :=
  decide (0x004 ≤ n ∧ n ≤ 0x016) || decide (0x01A ≤ n ∧ n ≤ 0x03F) || decide (0x051 ≤ n ∧ n ≤ 0x056)
    || (match csrPump n with | some (_, k) => decide (8 ≤ k) | none => false)

/-- The register has a writable field. -/
def csrWritable (n : Nat) : Bool :=
  [0x000, 0x001, 0x004, 0x005, 0x006, 0x009, 0x00A, 0x00C, 0x00D, 0x010, 0x011, 0x012, 0x014, 0x015, 0x016, 0x051, 0x056].contains n
    || decide (0x01C ≤ n ∧ n ≤ 0x02F) || decide (0x040 ≤ n ∧ n ≤ 0x043)
    || (match csrPump n with | some (_, k) => k == 0 || k == 16 | none => false)

/-! ## Reads -/

/-- SSTAT (R287). -/
def sstat (x : Region) (r : Nat) : Nat :=
  x.seq.events.length * 2 ^ 16 + r * 2 ^ 8 + (if x.seq.sup then 2 ^ 7 else 0) + ownerOf x

/-- TSTAT (R437): a full element trap queue stands for class 2. -/
def tstat (x : Region) : Nat :=
  (if x.seq.pmode then 1 else 0)
    + (upto 8).foldl (fun a c =>
        if (x.seq.pending.any fun t => t.cls == c) || (c == 2 && x.etq != []) then a + 2 ^ (8 + c) else a) 0

/-- 64 bits of a record at the head of a queue, or 0. -/
def headWord {w : Nat} (l : List (BitVec w)) (i : Nat) : BitVec 64 :=
  match l with
  | v :: _ => v.extractLsb' (64 * i) 64
  | [] => 0

/-- The tile status window: ESTAT, or STATE 15 at a fused site. -/
def tileWindow (s : State) (r k : Nat) : Nat :=
  if siteOk (getR s r) (k / 16) then estat (getE s (ekey r (k / 16) (k % 16))) else 15

/-- A pump's registers (R278). -/
def csrReadPump (u : Pump) (k : Nat) : BitVec 64 :=
  if k = 0 then BitVec.ofNat 64 (pmst u) else if k = 1 then u.pmflt0 else if k = 2 then u.pmflt1 else if k = 3 then u.pmflt2
  else if 8 ≤ k ∧ k ≤ 15 then u.pmdsc.extractLsb' (64 * (k - 8)) 64 else 0

/-- The value of a control register; a WO register reads as 0 (R7). -/
def csrRead (s : State) (r n : Nat) : BitVec 64 :=
  let x := getR s r
  let q := x.seq
  if n = 0x000 then q.fpctl.setWidth 64
  else if n = 0x001 then q.fpst.setWidth 64
  else if n = 0x002 then BitVec.ofNat 64 (sstat x r)
  else if n = 0x003 then BitVec.ofNat 64 x.cycle
  else if n = 0x004 then q.rtentry
  else if n = 0x005 then q.tvec
  else if n = 0x006 then q.tpc
  else if n = 0x007 then q.tcause
  else if n = 0x008 then q.tval
  else if n = 0x009 then BitVec.ofNat 64 (tstat x)
  else if n = 0x00A then q.tscr
  else if n = 0x00B then BitVec.ofNat 64 x.etq.length
  else if n = 0x010 then q.slotadr
  else if n = 0x012 then q.strmctl
  else if n = 0x013 then q.cfgerr
  else if 0x014 ≤ n ∧ n ≤ 0x016 then tget q.cfgmap (n - 0x014) 0
  else if n = 0x018 then q.sqside
  else if 0x01A ≤ n ∧ n ≤ 0x01B then tget q.codewin (n - 0x01A) 0
  else if 0x01C ≤ n ∧ n ≤ 0x01F then tget q.sqbind (n - 0x01C) 0
  else if 0x020 ≤ n ∧ n ≤ 0x02F then tget q.spbind (n - 0x020) 0
  else if 0x030 ≤ n ∧ n ≤ 0x03F then headWord x.etq (n - 0x030)
  else if 0x040 ≤ n ∧ n ≤ 0x043 then BitVec.ofNat 64 (mxst (tget x.islands (n - 0x040) {}))
  else if 0x048 ≤ n ∧ n ≤ 0x04B then (tget x.islands (n - 0x048) {}).mxflt
  else if n = 0x050 then BitVec.ofNat 64 (asidOf x)
  else if n = 0x051 then BitVec.ofNat 64 ((if x.ovf then 2 ^ 8 else 0) + x.faultq.length)
  else if 0x052 ≤ n ∧ n ≤ 0x055 then headWord x.faultq (n - 0x052)
  else if 0x100 ≤ n then BitVec.ofNat 64 (tileWindow s r (n - 0x100))
  else match csrPump n with
    | some (p, k) => csrReadPump (tget x.pumps p {}) k
    | none => 0

/-- The read synchronises with the completions of an engine (R354): some context of an island, or the pump, is not busy. -/
def csrAcquires (s : State) (r n : Nat) : Bool :=
  let v := csrRead s r n
  if 0x040 ≤ n ∧ n ≤ 0x043 then v.extractLsb' 12 4 != 15
  else match csrPump n with
    | some (_, 0) => !v.getLsbD 12
    | _ => false

/-! ## Writes -/

/-- What a write of a control register comes to. -/
inductive CsrSet where
  | ok (s : State)
  | wait
  | trap (cause : BitVec 8)
  deriving DecidableEq, Repr

/-- The event that a write is: its effect, if it has one. -/
def CsrSet.orElse (g : CsrSet) (s : State) : State := match g with | .ok t => t | _ => s

/-- SLOTDAT (R122, R123): the word takes effect from the next fabric cycle on (R77); a firing of this cycle comes first (log 27). -/
def setSlotdat (s : State) (r : Nat) (w : BitVec 64) : CsrSet :=
  let a := (getSeq s r).slotadr
  let st := (a.extractLsb' 8 5).toNat
  let n := (a.extractLsb' 0 4).toNat
  let key := ekey r st (a.extractLsb' 4 4).toNat
  if !siteOk (getR s r) st then .trap 0x02
  else match (getE s key).st with
    | .draining | .reconfiguring | .frozen => .wait
    | _ =>
      let s := modE s key fun e => { e with
        slots := tset e.slots n w
        busy := Nat.max e.busy ((getR s r).cycle + 1)
        faulty := (e.faulty &&& ~~~ BitVec.ofNat 16 (2 ^ n)) ||| (if faultyWord w then BitVec.ofNat 16 (2 ^ n) else 0) }
      .ok (modSeq s r fun q => { q with slotadr := (q.slotadr &&& 0x1FF0) ||| BitVec.ofNat 64 ((n + 1) % 16) })

/-- Fields of SPBIND and SQBIND. -/
def spMask : BitVec 64 := 0xF83FFF000001FF70
def sqMask : BitVec 64 := 0xF83FFF0000000000

/-- The binding that a SETC with EN = 1 would make is refused (R179, R296); `old` is the present binding. -/
def bindBad (s : State) (x : Region) (stream : Bool) (old v : BitVec 64) : Bool :=
  let d := ringDesc s (spDie v) (spRing v)
  let own := spEnabled old && spOut old && spDie old == spDie v && spRing old == spRing v
  decide (ringNcons d ≤ spCons v)
    || (if spOut v then spCons v != 0 || v.extractLsb' 0 17 != 0 || (ringPb d && !own)
        else stream && (!siteOk x (spSite v) || decide (5 < spQueue v)))

/-- PB of the ring of a binding. -/
def setPb (s : State) (b : BitVec 64) (v : Bool) : State :=
  setRingDesc s (spDie b) (spRing b) (ringPut (ringDesc s (spDie b) (spRing b)) 79 79 (if v then 1 else 0))

/-- PB follows the outbound bindings: the old ring's is cleared, the new one's is set. -/
def movePb (s : State) (old v : BitVec 64) : State :=
  let s := if spEnabled old && spOut old then setPb s old false else s
  if spEnabled v && spOut v then setPb s v true else s

/-- SPBINDn (R179): the direction and the queue of the binding that it replaces decide what the port keeps. -/
def setSpbind (s : State) (r n : Nat) (w : BitVec 64) : CsrSet :=
  let v := w &&& spMask
  let old := spOf s r n
  if spEnabled v && bindBad s (getR s r) true old v then .trap 0x02
  else
    let keeps := spEnabled old && spEnabled v && spOut old == spOut v
    let s := if keeps then movePb s old v else movePb (disablePort s r n) 0 v
    let s := if keeps && !spOut v && old != v then releaseSlots s r (.port r n) else s
    .ok (rebind (modSeq s r fun q => { q with spbind := tset q.spbind n v }) r)

/-- SQBINDn (R296). -/
def setSqbind (s : State) (r n : Nat) (w : BitVec 64) : CsrSet :=
  let v := w &&& sqMask
  let old := sqOf s r n
  if spEnabled v && bindBad s (getR s r) false old v then .trap 0x02
  else .ok (modSeq (movePb s old v) r fun q => { q with sqbind := tset q.sqbind n v })

/-- Fields of CFGMAPi (R287). -/
def cfgmapMask (i : Nat) : BitVec 64 := if i = 2 then 0x000000009F9F9F9F else 0x9F9F9F9F9F9F9F9F

/-- CFGMAPi (R287): an entry with V = 1 names one of the 20 sites. -/
def setCfgmap (s : State) (r i : Nat) (w : BitVec 64) : CsrSet :=
  let v := w &&& cfgmapMask i
  if (upto 8).any fun j => v.getLsbD (8 * j + 7) && decide (19 < (v.extractLsb' (8 * j) 5).toNat) then .trap 0x02
  else .ok (modSeq s r fun q => { q with cfgmap := tset q.cfgmap i v })

/-- ETPOP and XFQPOP remove the head record. -/
def popEtq (s : State) (r : Nat) : State := modR s r fun x => { x with etq := x.etq.tail }
def popFaultq (s : State) (r : Nat) : State := modR s r fun x => { x with faultq := x.faultq.tail }

/-- ETACT (R443): a Trapped element resumes (1) or halts (2). -/
def setEtact (s : State) (r st el act : Nat) : CsrSet :=
  let key := ekey r st el
  if !siteOk (getR s r) st || !(act == 1 || act == 2) then .trap 0x02
  else if (getE s key).st ≠ .trapped then .trap 0x02
  else .ok (modE s key fun e =>
    if act = 1 then { e with st := .running, busy := Nat.max e.busy ((getR s r).cycle + 1) } else { e with st := .halted })

/-- The registers of a pump that can be written (R278). -/
def setPump (s : State) (r p k : Nat) (w : BitVec 64) : State :=
  if k = 0 then modPump s r p fun u => { u with flags := clearFlags u.flags u.flagsNew (getR s r).cycle (w.setWidth 5) }
  else
    let s := if w.getLsbD 1 then pumpRetry s r p else s
    if w.getLsbD 0 then pumpClr s r p else s

/-- SETC of an assigned, writable register (R7, R286). -/
def csrWrite (s : State) (r n : Nat) (w : BitVec 64) : CsrSet :=
  let put := fun (f : Seq → Seq) => CsrSet.ok (modSeq s r f)
  if n = 0x000 then put fun q => { q with fpctl := w.setWidth 32 &&& 7 }
  else if n = 0x001 then put fun q => { q with fpst := q.fpst &&& ~~~ (w.setWidth 32 &&& 31) }
  else if n = 0x004 then put fun q => { q with rtentry := w &&& pcMask }
  else if n = 0x005 then put fun q => { q with tvec := w &&& pcMask }
  else if n = 0x006 then put fun q => { q with tpc := w &&& pcMask }
  else if n = 0x009 then put fun q => { q with pmode := w.getLsbD 0 }
  else if n = 0x00A then put fun q => { q with tscr := w }
  else if n = 0x00C then .ok (if w.getLsbD 0 then popEtq s r else s)
  else if n = 0x00D then setEtact s r (w.extractLsb' 6 5).toNat (w.extractLsb' 2 4).toNat (w.extractLsb' 11 2).toNat
  else if n = 0x010 then put fun q => { q with slotadr := w &&& 0x1FFF }
  else if n = 0x011 then setSlotdat s r w
  else if n = 0x012 then put fun q => { q with strmctl := w &&& 0x3FF }
  else if 0x014 ≤ n ∧ n ≤ 0x016 then setCfgmap s r (n - 0x014) w
  else if 0x01C ≤ n ∧ n ≤ 0x01F then setSqbind s r (n - 0x01C) w
  else if 0x020 ≤ n ∧ n ≤ 0x02F then setSpbind s r (n - 0x020) w
  else if 0x040 ≤ n ∧ n ≤ 0x043 then .ok (modM s r (n - 0x040) fun i => { i with flags := clearFlags i.flags i.flagsNew (getR s r).cycle (w.setWidth 6) })
  else if n = 0x051 then .ok (modR s r fun x => { x with ovf := x.ovf && !w.getLsbD 8 })
  else if n = 0x056 then .ok (if w.getLsbD 0 then popFaultq s r else s)
  else match csrPump n with
    | some (p, k) => .ok (setPump s r p k w)
    | none => .ok s

/-! ## GETC and SETC -/

/-- GETC: the checks of R286, then the read. -/
def execGetc (d : BitVec 5) (n : BitVec 12) : Meaning := fun s => seqDo s fun r q =>
  let k := n.toNat
  if !csrAssigned k then seqTrap s r 0x02 0
  else if csrSuper k && !q.sup then seqTrap s r 0x07 0
  else
    let v := csrRead s r k
    let acq := csrAcquires s r k
    seqNext s r fun q => setS (if acq then seqAcquire q 1 else q) d v

/-- SETC: the checks of R286, then the write, which takes effect before the next instruction begins. -/
def execSetc (a : BitVec 5) (n : BitVec 12) : Meaning := fun s => seqDo s fun r q =>
  let k := n.toNat
  if !csrAssigned k || !csrWritable k then seqTrap s r 0x02 0
  else if csrSuper k && !q.sup then seqTrap s r 0x07 0
  else match csrWrite s r k (getS q a) with
    | .ok s => seqNext s r id
    | .wait => seqWait s r
    | .trap c => seqTrap s r c 0

/-! ## The writes as steps of their units -/

/-- SLOTDAT_WRITE. -/
def execSlotdatWrite (r : Nat) (w : BitVec 64) : Meaning := fun s => withUnit (regionOk r) s fun s => (setSlotdat s r w).orElse s
/-- SPBIND_WRITE. -/
def execSpbindWrite (r n : Nat) (w : BitVec 64) : Meaning := fun s =>
  withUnit (regionOk r && decide (n < 16)) s fun s => (setSpbind s r n w).orElse s
/-- SQBIND_WRITE. -/
def execSqbindWrite (r n : Nat) (w : BitVec 64) : Meaning := fun s =>
  withUnit (regionOk r && decide (n < 4)) s fun s => (setSqbind s r n w).orElse s
/-- CFGMAP_WRITE. -/
def execCfgmapWrite (r n : Nat) (w : BitVec 64) : Meaning := fun s =>
  withUnit (regionOk r && decide (n < 3)) s fun s => (setCfgmap s r n w).orElse s
/-- XFQPOP and ETPOP. -/
def execXfqpop (r : Nat) : Meaning := fun s => withUnit (regionOk r) s fun s => popFaultq s r
def execEtpop (r : Nat) : Meaning := fun s => withUnit (regionOk r) s fun s => popEtq s r
/-- ETACT_RESUME and ETACT_HALT. -/
def execEtactResume (r st el : Nat) : Meaning := fun s => withUnit (elemOk s r st el) s fun s => (setEtact s r st el 1).orElse s
def execEtactHalt (r st el : Nat) : Meaning := fun s => withUnit (elemOk s r st el) s fun s => (setEtact s r st el 2).orElse s

/-- The record of an element is the next to join: none of an earlier cycle waits, nor one of its cycle with a lower number; its
cycle is over. -/
def trapNext (s : State) (key : Nat) : Bool :=
  let at_ := (getE s key).trapAt
  decide (at_ < (getR s (keyRegion key)).cycle)
    && s.elems.all fun p => keyRegion p.1 != keyRegion key || p.2.trapRec.isNone
      || decide (at_ < p.2.trapAt ∨ (at_ = p.2.trapAt ∧ key ≤ p.1))

/-- ELEMENT_TRAP_RECORD_QUEUE (R441): a record joins the queue of 16 in order of arrival. -/
def execElementTrapRecordQueue (r st el : Nat) : Meaning := fun s => withUnit (elemOk s r st el) s fun s =>
  let key := ekey r st el
  match (getE s key).trapRec with
  | some t => if (getR s r).etq.length < 16 && trapNext s key then
      modR (modE s key fun e => { e with trapRec := none }) r fun x => { x with
        etq := x.etq ++ [t]
        seq := if x.seq.exiting then { x.seq with exitCause := some (x.seq.exitCause.getD (BitVec.ofNat 8 (field t.toNat 39 32))) }
          else x.seq } else s
  | none => s

end Sys2Proof.Machine
end

