-- ==== Sys2Proof/Machine/Image.lean ====
section
/-!
DEFINITION. Machine/Image.lean: configuration images: their checks and rewriting (R300 to R304), installation (R114 to R117, R309),
and the instructions LDCFG and RECFG (R305 to R308).
-/
namespace Sys2Proof.Machine

/-- Why an image is rejected (R304), with the element and the word. -/
structure ImgFail where
  reason : Nat
  site : Nat
  elem : Nat
  word : Nat
  deriving DecidableEq, Repr, Inhabited

/-- CFGERR (R287). -/
def cfgErr (f : ImgFail) : BitVec 64 := BitVec.ofNat 64 (f.elem + f.site * 2 ^ 8 + f.word * 2 ^ 16 + f.reason * 2 ^ 24)

/-- A rejected image: CFGERR and the trap. -/
def rejectImage (s : State) (r : Nat) (f : ImgFail) : State :=
  seqTrap (modSeq s r fun q => { q with cfgerr := cfgErr f }) r 0x15 0

/-! ## Positions (R303) -/

/-- The site that CFGMAP gives an image position. -/
def cfgSite (q : Seq) (p : Nat) : Option Nat :=
  let w := tget q.cfgmap (p / 8) 0
  let j := 8 * (p % 8)
  if w.getLsbD (j + 7) then some (w.extractLsb' j 5).toNat else none

/-- The site of a used position, if REASON 7 does not refuse it: mapped, not fused off, and of no other used position;
`used` holds the used positions by site. -/
def usePos (x : Region) (used : Table Nat) (p : Nat) : Option (Nat × Table Nat) :=
  match cfgSite x.seq p with
  | none => none
  | some st =>
    if !siteOk x st then none
    else match tfind used st with
      | some p' => if p' = p then some (st, used) else none
      | none => some (st, tset used st p)

/-- The position at an offset from position p, if it lies in the grid. -/
def posAt (p : Nat) (dc dr : Int) : Option Nat :=
  let c : Int := siteCol p + dc
  let r : Int := siteRow p + dr
  if 0 ≤ c ∧ c ≤ 4 ∧ 0 ≤ r ∧ r ≤ 3 then some (c + 5 * r).toNat else none

/-! ## Words (R169, R174, R201) -/

/-- A rewritten word, or the reason for which it is refused. -/
abbrev Checked := Except Nat (Nat × Table Nat)

/-- Routes j on of a binding at position p on site st, rewritten (R303). -/
def rewriteRoutes (x : Region) (b : BitVec 64) (p st : Nat) : Nat → Nat → Table Nat → Checked
  | 0, _, used => .ok (0, used)
  | n + 1, j, used =>
    let w := bindRoute b j
    match (posAt p (routeDc w) (routeDr w)).bind (usePos x used) with
    | none => .error 7
    | some (t, used) =>
      let v := wrap 4 ((siteCol t : Int) - siteCol st) * 2 ^ 10 + wrap 3 ((siteRow t : Int) - siteRow st) * 2 ^ 7
        + routeElem w * 2 ^ 3 + routeQueue w
      match rewriteRoutes x b p st n (j + 1) used with
      | .ok (rest, used) => .ok (v * 2 ^ (14 * j) + rest, used)
      | e => e

/-- The engine port is reserved (R235, R255). -/
def enginePortReserved (n : Nat) : Bool := decide ((8 ≤ n ∧ n < 16) ∨ 20 ≤ n)

/-- A binding as it is installed. -/
def rewriteBind (x : Region) (used : Table Nat) (b : BitVec 64) (p st : Nat) : Checked :=
  let tgt := (b.extractLsb' 0 56).toNat
  let n := bindRoutes b
  if b.extractLsb' 56 4 ≠ 0 then .error 4
  else if bindKind b = 1 then
    if 2 ^ (14 * n) ≤ tgt then .error 4
    else match rewriteRoutes x b p st n 0 used with
      | .error e => .error e
      | .ok (v, used) =>
        if (upto n).any fun j => decide (5 < routeQueue (bindRoute b j)) then .error 4
        else .ok (2 ^ 62 + (n - 1) * 2 ^ 60 + v, used)
  else if n ≠ 1 then .error 4
  else if bindKind b = 0 then (if tgt = 0 then .ok (0, used) else .error 4)
  else if bindKind b = 2 then (if tgt < 16 then .ok (b.toNat, used) else .error 4)
  else if tgt < 32 ∧ !enginePortReserved tgt then .ok (b.toNat, used) else .error 4

/-- Four format entries (R174). -/
def fmtWordOk (w : BitVec 64) : Bool :=
  (upto 4).all fun j =>
    let v := w.extractLsb' (16 * j) 16
    v.extractLsb' 14 2 == 0 && v.extractLsb' 0 5 == 0 && decide ((v.extractLsb' 9 5).toNat < 0x14)

/-- The word of a record that holds what R201 refuses: the first where BASE takes part, else the third for a field, else the
last. -/
def recFailWord (x : Region) (v : BitVec 256) : Nat :=
  let base := recBase v
  let sum := base % 2 ^ 16 + recExtent v
  if v.extractLsb' 57 7 ≠ 0 ∨ (recSpace v = 1 ∧ (2 ^ 16 ≤ base ∨ 65536 < sum))
      ∨ (recSpace v = 2 ∧ (2 ^ 25 ≤ base ∨ siteOk x (base / 2 ^ 20) = false ∨ 65536 < sum)) then 0
  else if v.extractLsb' 183 9 ≠ 0 ∨ recSpace v = 3 ∨ 4 ≤ recPolicy v ∨ 5 ≤ recScope v ∨ recBounds v = 3 ∨ 0x14 ≤ recFmt v then 2
  else 3

/-- A buffer record as it is installed; a refusal names the word of the record. -/
def rewriteRec (x : Region) (used : Table Nat) (v : BitVec 256) : Except (Nat × Nat) (Nat × Table Nat) :=
  let fin := fun (v : BitVec 256) used => if recReserved x v then .error (6, recFailWord x v) else .ok (v.toNat, used)
  if recSpace v = 2 then
    match usePos x used (v.extractLsb' 20 5).toNat with
    | none => .error (7, 0)
    | some (t, used) => fin (BitVec.ofNat 256 (putField v.toNat 24 20 t)) used
  else fin v used

/-! ## Blocks and tile images (R302, R304) -/

/-- What goes through the words of a block: the rewritten words so far and the used positions. -/
abbrev BlockCheck := Except ImgFail (List (BitVec 64) × Table Nat)

/-- Applies a check to words i on of a block, keeping what it makes of them. -/
def checkWords (fail : Nat → Nat → ImgFail) (f : Table Nat → BitVec 64 → Checked) : List (BitVec 64) → Nat → BlockCheck → BlockCheck
  | [], _, a => a
  | w :: ws, i, a =>
    match a with
    | .error e => .error e
    | .ok (l, used) => match f used w with
      | .ok (v, used) => checkWords fail f ws (i + 1) (.ok (l ++ [BitVec.ofNat 64 v], used))
      | .error c => .error (fail c i)

/-- The records of a block, four words each. -/
def checkRecs (x : Region) (fail : Nat → Nat → ImgFail) (ws : List (BitVec 64)) : Nat → Nat → BlockCheck → BlockCheck
  | 0, _, a => a
  | n + 1, i, a =>
    match a with
    | .error e => .error e
    | .ok (l, used) =>
      let v : BitVec 256 := BitVec.ofNat 256 (packLanes 64 (((ws.drop i).take 4).map (·.toNat)))
      match rewriteRec x used v with
      | .ok (v, used) => checkRecs x fail ws n (i + 4) (.ok (l ++ (lanesOf4 v), used))
      | .error (c, w) => .error (fail c (i + w))
where
  lanesOf4 (v : Nat) : List (BitVec 64) := (upto 4).map fun j => BitVec.ofNat 64 (v / 2 ^ (64 * j))

/-- A block of element e of a tile image at position p on site st: its words 1 to 62 as they are installed. -/
def checkBlock (x : Region) (p st e : Nat) (ws : List (BitVec 64)) (used : Table Nat) : BlockCheck :=
  let fail := fun reason word => (⟨reason, st, e, word⟩ : ImgFail)
  let w0 := (ws.getD 0 0).toNat
  if w0 % 16 ≠ e then .error (fail 1 0)
  else if w0 ≠ e then .error ⟨1, st, 0, 0⟩
  else
    let part := fun i n => (ws.drop i).take n
    let a : BlockCheck := checkWords fail (fun u w => if faultyWord w then .error 3 else .ok (w.toNat, u)) (part 1 16) 1 (.ok ([], used))
    let a := checkWords fail (fun u w => rewriteBind x u w p st) (part 17 6) 17 a
    let a := checkWords fail (fun u w => if fmtWordOk w then .ok (w.toNat, u) else .error 5) (part 23 8) 23 a
    match checkRecs x fail ws 8 31 a with
    | .error f => .error f
    | .ok r => if ws.getD 63 0 ≠ 0 then .error ⟨1, st, 0, 0⟩ else .ok r

/-- The doublewords of a list of bytes. -/
def dwords (n : Nat) (l : List Byte) : List (BitVec 64) := (upto n).map fun i => BitVec.ofNat 64 (leVal ((l.drop (8 * i)).take 8))

/-- The elements that have a block (EMASK), in ascending order. -/
def emaskElems (h : Nat) : List Nat := (upto 16).filter fun e => h.testBit e

/-- Bytes of a tile image with a given header. -/
def imageLen (h : Nat) : Nat := 16 + 512 * (emaskElems h).length

/-- The blocks of a tile image in turn. -/
def checkBlocks (x : Region) (p st : Nat) : List Nat → List Byte → Table (List (BitVec 64)) → Table Nat →
    Except ImgFail (Table (List (BitVec 64)) × Table Nat)
  | [], _, out, used => .ok (out, used)
  | e :: es, bs, out, used =>
    match checkBlock x p st e (dwords 64 (bs.take 512)) used with
    | .error f => .error f
    | .ok (ws, used) => checkBlocks x p st es (bs.drop 512) (tset out (16 * st + e) ws) used

/-- IMGPOS of a header. -/
def imgPos (h : Nat) : Nat := field h 68 64

/-- The site that a rejected image of a load would be placed on. -/
def failSite (x : Region) (h : Nat) : Nat := (cfgSite x.seq (imgPos h)).getD 0

/-- Check of R303 and R304 on a tile image: `target` is the site of LDCFG. The result is the site and the words of its elements,
none for an element without a block. -/
def checkImage (x : Region) (bs : List Byte) (target : Option Nat) (used : Table Nat) :
    Except ImgFail (Nat × Table (List (BitVec 64)) × Table Nat) :=
  let h := leVal (bs.take 16)
  let p := imgPos h
  let fail := fun reason => (⟨reason, target.getD (failSite x h), 0, 0⟩ : ImgFail)
  if field h 127 69 ≠ 0 ∨ field h 31 16 ≠ 0 ∨ 19 < p then .error (fail 1)
  else if (~~~ crcBytes 0xFFFFFFFF (bs.drop 16)).toNat ≠ field h 63 32 then .error (fail 2)
  else match usePos x used p with
    | none => .error (fail 7)
    | some (st, used) =>
      if target.any (· != st) then .error (fail 7)
      else
        let none16 := (upto 16).map fun e => (16 * st + e, ([] : List (BitVec 64)))
        match checkBlocks x p st (emaskElems h) (bs.drop 16) none16 used with
        | .error f => .error f
        | .ok (out, used) => .ok (st, out, used)

/-- The images of a load in turn; a position that came before is a duplicate. -/
def checkImages (x : Region) : Nat → List Byte → List Nat → Table (List (BitVec 64)) → Table Nat → Except ImgFail (Table (List (BitVec 64)))
  | 0, _, _, out, _ => .ok out
  | n + 1, bs, seen, out, used =>
    let h := leVal (bs.take 16)
    if seen.contains (imgPos h) then .error ⟨1, failSite x h, 0, 0⟩
    else match checkImage x (bs.take (imageLen h)) none used with
      | .error f => .error f
      | .ok (_, o, used) => checkImages x n (bs.drop (imageLen h)) (imgPos h :: seen) (o.foldl (fun t p => tset t p.1 p.2) out) used

/-! ## Installing (R117) -/

/-- Entries of a list that are not zero, by their place. -/
def nonZero {w : Nat} (l : List (BitVec w)) : Table (BitVec w) :=
  (l.zipIdx.filter fun p => p.1 != 0).map fun p => (p.2, p.1)

/-- What installing words 1 to 62 of a block replaces and sets; no words give the all-zero configuration. -/
def applyConfig (e : Elem) (ws : List (BitVec 64)) : Elem :=
  let part := fun i n => (ws.drop i).take n
  { e with
    slots := nonZero (part 0 16), binds := nonZero (part 16 6),
    fmts := nonZero ((part 22 8).flatMap fun w => (upto 4).map fun j => w.extractLsb' (16 * j) 16)
    recs := nonZero ((upto 8).map fun n => BitVec.ofNat 256 (packLanes 64 ((part (30 + 4 * n) 4).map (·.toNat)))),
    preds := 0, faulty := 0, otag := [], det := [], markers := 0, seqArm := false, seqOcc := 0, spcfg := 0, installing := none,
    wave := e.wave + 1 }

/-- Installing reopens a queue; what stands in it is kept (R114, R117). -/
def reopen (q : Queue) : Queue := { q with closed := false }

/-- A channel gives back the slots that it holds at its receivers beyond what it owes. -/
def trimResv (l : List Resv) (w : Feeder) (n : Nat) : List Resv := ((l.filter (·.who == w)).take n) ++ l.filter (·.who != w)

/-- The slots that the channels of an element hold are given back before its bindings change (log 22). -/
def releaseChans (s : State) (key : Nat) : State :=
  let e := getE s key
  let r := keyRegion key
  (upto 6).foldl (fun s k =>
    let b := bindOf e k
    let w := Feeder.chan key k
    (allRoutes b).foldl (fun s j =>
      if bindKind b = 1 then
        let t := bindTarget b key j
        modE s t.1 fun y => let q := getQ y t.2; setQ y t.2 { q with resv := trimResv q.resv w (owed e key k (1, t.1, t.2)) }
      else if bindKind b = 2 then
        let n := bindPort b % 16
        modR s r fun x => let p := tget x.ports n {}
          { x with ports := tset x.ports n { p with slots := { p.slots with resv := trimResv p.slots.resv w (owed e key k (2, n, 0)) } } }
      else (upto (if bindPort b < 8 then 4 else 1)).foldl (fun s c => modR s r fun x =>
          let p := enginePort x (bindPort b) c
          setEnginePort x (bindPort b) c { p with resv := trimResv p.resv w (owed e key k (3, bindPort b, c)) }) s) s) s

/-- A pump request that is not complete names the queue as its fabric destination (R114). -/
def pumpFeeds (x : Region) (st el q : Nat) : Bool :=
  x.pumps.any fun p => p.2.active.any fun a => fabricDest a.req == some (st, el, q)

/-- Installs a configuration in an element, which enters a state. -/
def install (s : State) (key : Nat) (ws : List (BitVec 64)) (st : ElemState) : State :=
  let r := keyRegion key
  let s := releaseChans s key
  let x := getR s r
  let s := modE s key fun e =>
    let e := applyConfig e ws
    { e with st := st, reqFrom := x.cycle, busy := Nat.max e.busy (x.cycle + 1)
             queues := tmap (fun q y => { reopen y with pumpBound := y.pumpBound && pumpFeeds x (keySite key) (keyElem key) q }) e.queues }
  let s := modR s r fun x => { x with ports := tmap (fun _ p => { p with gone := p.gone.filter fun c => c.1 != key }) x.ports }
  rebind s r

/-! ## The configuration stream (R309) -/

/-- The oldest pending load that an element has not installed. -/
def nextLoad (q : Seq) (key : Nat) : Option PendLoad := q.loads.find? fun l => !l.installed.contains key

/-- Loads that every element of every enabled site has installed retire. -/
def retireLoads (s : State) (r : Nat) : State :=
  modR s r fun x =>
    let ks := elemKeys x r
    { x with seq := { x.seq with loads := x.seq.loads.filter fun l => !ks.all fun k => l.installed.contains k } }

/-- What an element installs of a load: its block when the load places a tile on its site, else the all-zero configuration in one
cycle. -/
def loadInstall (l : PendLoad) (key cycle : Nat) : Installing :=
  match tfind l.blocks (key % 320) with
  | some ws => ⟨l.id, ws, 62, 0, cycle⟩
  | none => ⟨l.id, [], 1, 0, cycle⟩

/-- CONFIGURATION_INSTALL (R309): an element whose markers are sent enters Reconfiguring; one that is Reconfiguring or Idle begins
with the oldest load that it has not installed, or goes on by one word; with none left and the end mark set it enters Idle. -/
def configStep (s : State) (r key : Nat) : State :=
  let x := getR s r
  let e := toReconf (getE s key)
  let s := setE s key e
  if !acting x then s
  else match e.installing with
    | some g =>
      if e.st = .reconfiguring ∧ g.done < g.total ∧ g.since + g.done ≤ x.cycle then
        setE s key { e with installing := some { g with done := g.done + 1 } }
      else s
    | none =>
      if e.st = .reconfiguring ∨ e.st = .idle then
        match nextLoad x.seq key with
        | some l => setE s key { e with st := .reconfiguring, installing := some (loadInstall l key x.cycle) }
        | none => if x.seq.endMark then setE s key { e with st := .idle } else s
      else s

def execConfigurationInstall (r st el : Nat) : Meaning := fun s =>
  withUnit (elemOk s r st el) s fun s => if acting (getR s r) then configStep s r (ekey r st el) else s

/-- A Stoat table takes effect, or Stoat is left idle (R338). -/
def stoatEffect (s : State) (r : Nat) (t : Option (List ActorState)) : State :=
  rebind (modR s r fun x => { x with
    stoat := { x.stoat with actors := t, grow := none, drains := [] }
    ports := tmap (fun _ p => { p with eowPassed := false }) x.ports }) r

/-- The first element to install a load brings its table into effect. -/
def stoatTake (s : State) (r load : Nat) : State :=
  let x := getR s r
  if x.seq.loads.any fun l => l.id == load && l.installed == [] then
    let t := tfind x.stoat.pending load
    stoatEffect (modR s r fun x => { x with stoat := { x.stoat with pending := terase x.stoat.pending load } }) r t
  else s

/-- INSTALL_COMPLETE: the last word is installed and the element enters Running. -/
def execInstallComplete (r st el : Nat) : Meaning := fun s => withUnit (elemOk s r st el) s fun s =>
  let key := ekey r st el
  let e := getE s key
  let x := getR s r
  match e.installing with
  | some g =>
    if acting x && e.st == .reconfiguring && g.done == g.total && decide (g.since + g.total ≤ x.cycle) then
      retireLoads (modSeq (install (stoatTake s r g.load) key g.words .running) r fun q => { q with
        loads := q.loads.map fun l => if l.id = g.load then { l with installed := key :: l.installed } else l }) r
    else s
  | none => s

/-- HALTED_TO_DRAINING. -/
def execHaltedToDraining (r st el : Nat) : Meaning := fun s => withUnit (elemOk s r st el) s fun s =>
  let key := ekey r st el
  let x := getR s r
  if acting x && (getE s key).st == .halted && ((nextLoad x.seq key).isSome || x.seq.endMark)
  then modE s key fun e => { e with st := .draining, markers := 0 } else s

/-! ## LDCFG (R305 to R307) -/

/-- Reads a tile image. -/
def seqImage (s : State) (r va : Nat) : SeqGot :=
  match seqRecord s r va 16 with
  | .ok s h => seqRecord s r va (imageLen (leVal h))
  | g => g

/-- Reads n tile images that follow one another. -/
def seqImages (r : Nat) : Nat → State → Nat → List Byte → SeqGot
  | 0, s, _, acc => .ok s acc
  | n + 1, s, va, acc => match seqImage s r va with
    | .ok s b => seqImages r n s (va + b.length) (acc ++ b)
    | g => g

/-- The elements of a site. -/
def siteKeys (r st : Nat) : List Nat := (upto 16).map fun e => ekey r st e

/-- LDCFG, the tile form: the install phase is one step (log 7). -/
def execLdcfg (a : BitVec 5) (st : BitVec 5) : Meaning := fun s => seqPriv s fun r q =>
  let va := getS q a
  let site := st.toNat
  if va.extractLsb' 0 4 ≠ 0 then seqTrap s r 0x04 va
  else if 19 < site then seqTrap s r 0x02 0
  else if !siteOk (getR s r) site then rejectImage s r ⟨7, site, 0, 0⟩
  else if (siteKeys r site).any fun k => !(match (getE s k).st with | .idle | .halted | .trapped => true | _ => false) then
    seqWait (modSeq s r fun q => { q with asked := false }) r
  else ((seqImage s r va.toNat).issued r).then r fun s bs =>
    match checkImage (getR s r) bs (some site) [] with
    | .error f => rejectImage s r f
    | .ok (_, out, _) =>
      seqNext ((siteKeys r site).foldl (fun s k => install s k (tget out (k % 320) []) .running) s) r id

/-- LDCFG in its clear form. -/
def execLdcfgClr (st : BitVec 5) : Meaning := fun s => seqPriv s fun r _ =>
  if !siteOk (getR s r) st.toNat then seqTrap s r 0x02 0
  else seqNext ((siteKeys r st.toNat).foldl (fun s k => install s k [] .idle) s) r id

/-! ## Code images (R300, R307) -/

/-- A section of an image. -/
structure Sect where
  code : Nat
  off : Nat
  size : Nat
  deriving DecidableEq, Repr, Inhabited

/-- The section table, if its header and entries pass R304. -/
def imageSects (hdr : Nat) (tab : List Byte) : Option (List Sect) :=
  let n := field hdr 63 48
  let size := field hdr 127 64
  let l := (upto n).map fun i =>
    let v := leVal ((tab.drop (16 * i)).take 16)
    (v, (⟨field v 103 96, field v 63 0, field v 95 64⟩ : Sect))
  let ok := fun (p : Nat × Sect) => field p.1 127 104 == 0 && decide (p.2.code ≤ 6)
    && p.2.off % (if p.2.code = 0 then 4096 else 16) == 0 && decide (p.2.off + p.2.size ≤ size)
  if l.all ok && decide ((l.map (·.2.code)).Nodup) then some (l.map (·.2)) else none

/-- The header passes R304. -/
def imageHeaderOk (hdr : Nat) : Bool :=
  field hdr 255 128 == 0 && field hdr 31 0 == 0x4B4D4C31 && field hdr 47 32 == 1 && decide (1 ≤ field hdr 63 48 ∧ field hdr 63 48 ≤ 7)

/-- A pool of a pool map: its offset in `seq` and its lines. -/
abbrev PoolEnt := Nat × Nat

/-- The pools of a pool map section, if the entries themselves are sound. -/
def poolMap (bs : List Byte) (seqSize : Nat) : Option (List PoolEnt) :=
  let l := (dwords (bs.length / 8) bs).map fun v => (v, ((v.extractLsb' 0 32).toNat, (v.extractLsb' 32 16).toNat))
  if l.all fun p => p.1.extractLsb' 48 16 == 0 && p.2.1 % 64 == 0 && p.2.2 != 0 && decide (p.2.1 + 64 * p.2.2 ≤ seqSize)
  then some (l.map (·.2)) else none

/-- Two pools overlap. -/
def poolsOverlap : List PoolEnt → Bool
  | [] => false
  | (o, n) :: r => (r.any fun p => decide (o < p.1 + 64 * p.2 ∧ p.1 < o + 64 * n)) || poolsOverlap r

/-- A POOL header (R88) with a given length. -/
def poolHeaderOk (w lines : Nat) : Bool :=
  field w 31 26 == 0x3F && field w 25 20 == 0 && decide (field w 19 16 ≤ 1) && field w 15 0 == lines

/-- Reads the header of each pool; `ok` is false where one does not match. -/
def poolHeaders (r base : Nat) : List PoolEnt → State → SeqGot
  | [], s => .ok s [1]
  | (o, n) :: rest, s => match seqRecord s r (base + o) 4 with
    | .ok s b => if poolHeaderOk (leVal b) n then poolHeaders r base rest s else .ok s [0]
    | g => g

/-- The code window of a section: its page-aligned range as BASE and pages. -/
def windowOf (base size : Nat) : Nat × Nat :=
  let lo := base / 4096 * 4096
  (lo, (base + size + 4095) / 4096 - lo / 4096)

/-- Window w of the other index overlaps a range. -/
def windowClash (q : Seq) (w : Nat) (v : Nat × Nat) : Bool :=
  let o := tget q.codewin (1 - w) 0
  let ob := (o.extractLsb' 12 45).toNat * 4096
  let op := (o.extractLsb' 0 8).toNat
  op != 0 && v.2 != 0 && decide (v.1 < ob + 4096 * op ∧ ob < v.1 + 4096 * v.2)

/-- Sets window w with the permits of the section's lines outside its pools; the instruction cache is invalidated. -/
def setWindow (q : Seq) (w base size : Nat) (pools : List PoolEnt) : Seq :=
  let v := windowOf base size
  let inPool := fun ln => pools.any fun p => decide (base + p.1 ≤ 64 * ln ∧ 64 * ln < base + p.1 + 64 * p.2)
  let lines := ((upto ((size + 63) / 64)).map fun i => base / 64 + i).filter fun ln => !inPool ln
  { q with codewin := tset q.codewin w (BitVec.ofNat 64 (v.1 % 2 ^ 57 + v.2)),
           permits := q.permits.filter (fun p => p.2 != w) ++ lines.map fun ln => (ln, w), icache := [] }

/-- The code image at va is loaded into window w. -/
def loadCode (s : State) (r va w : Nat) (sects : List Sect) : State :=
  let rej := fun s c => rejectImage s r ⟨c, 0, 0, 0⟩
  match sects.find? fun c => c.code == 0 with
  | none => rej s 1
  | some c =>
    let base := va + c.off
    let fin := fun s pools =>
      let v := windowOf base c.size
      if 255 < v.2 ∨ windowClash (getSeq s r) w v then rej s 8
      else seqNext s r fun q => setWindow q w base c.size pools
    match sects.find? fun c => c.code == 5 with
    | none => fin s []
    | some p =>
      if p.size % 8 ≠ 0 then rej s 8
      else ((seqRecord s r (va + p.off) p.size).issued r).then r fun s bs =>
        match poolMap bs c.size with
        | none => rej s 8
        | some pools =>
          if poolsOverlap pools then rej s 8
          else ((poolHeaders r base pools s).issued r).then r fun s ok => if ok = [1] then fin s pools else rej s 8

/-- LDCFG in its code form (R307). -/
def execLdcfgCode (a : BitVec 5) (w : BitVec 1) : Meaning := fun s => seqPriv s fun r q =>
  let va := (getS q a).toNat
  if va % 64 ≠ 0 then seqTrap s r 0x04 (getS q a)
  else ((seqRecord s r va 32).issued r).then r fun s h =>
    let hdr := leVal h
    if !imageHeaderOk hdr then rejectImage s r ⟨1, 0, 0, 0⟩
    else ((seqRecord s r (va + 32) (16 * field hdr 63 48)).issued r).then r fun s tab =>
      match imageSects hdr tab with
      | none => rejectImage s r ⟨1, 0, 0, 0⟩
      | some l => loadCode s r va w.toNat l

/-! ## RECFG (R308) -/

/-- The descriptor of a load passes REASON 1 for a team with the given L1SZ (R301, R304). -/
def loadDescOk (d : BitVec 512) (l1sz : Nat) : Bool :=
  let nt := (d.extractLsb' 112 5).toNat
  d.extractLsb' 256 256 == 0 && d.extractLsb' 160 16 == 0 && d.extractLsb' 130 7 == 0 && d.extractLsb' 123 5 == 0 && !d.getLsbD 117
    && d.extractLsb' 64 48 == 0 && decide (1 ≤ nt ∧ nt ≤ 20) && (d.extractLsb' 128 2).toNat == l1sz && d.extractLsb' 0 4 == 0

/-- RECFG, the load form. -/
def execRecfg (a : BitVec 5) : Meaning := fun s => seqDo s fun r q =>
  let va := (getS q a).toNat
  if va % 64 ≠ 0 then seqTrap s r 0x04 (getS q a)
  else if q.endMark then seqTrap s r 0x02 0
  else ((seqRecord s r va 64).issued r).then r fun s b =>
    let d : BitVec 512 := BitVec.ofNat 512 (leVal b)
    if !loadDescOk d (l1szOf (getR s r)) then rejectImage s r ⟨1, 0, 0, 0⟩
    else
      let n := (d.extractLsb' 112 5).toNat
      ((seqImages r n s (d.extractLsb' 0 64).toNat []).issued r).then r fun s bs =>
        match checkImages (getR s r) n bs [] [] [] with
        | .error f => rejectImage s r f
        | .ok blocks =>
          if 2 ≤ (getSeq s r).loads.length then seqWait (modSeq s r fun q => { q with asked := false }) r
          else seqNext s r fun q => { q with loads := q.loads ++ [⟨q.nextLoad, va, blocks, []⟩], nextLoad := q.nextLoad + 1 }

/-- RECFG in its end form. -/
def execRecfgEnd : Meaning := fun s => seqDo s fun r _ => seqNext s r fun q => { q with endMark := true }

end Sys2Proof.Machine
end

