-- ==== Sys2Proof/Machine/Engine.lean ====
section
/-!
DEFINITION. Machine/Engine.lean: reads and writes of the package's engines: the distributor, Marten, the re-stripe engine and the root
of trust (R390, R404).
-/
namespace Sys2Proof.Machine

/-- A fault of an engine's access: cause, level, address. -/
structure EngFault where
  cause : BitVec 8
  level : Nat
  va : Nat
  deriving DecidableEq, Repr, Inhabited

/-- What an engine's read or translation comes to: none while a home serves another request, or a holder cannot publish yet. -/
abbrev EngGot (α : Type) : Type := Option (State × Except EngFault α)

/-- Goes on with what was got. -/
def engThen {α β : Type} (g : EngGot α) (f : State → α → EngGot β) : EngGot β :=
  match g with
  | none => none
  | some (s, .error e) => some (s, .error e)
  | some (s, .ok a) => f s a

/-- A step of an engine on what it got: it waits, it meets a fault, or it goes on. -/
def engStep {α : Type} (s : State) (g : EngGot α) (fault : State → EngFault → State) (f : State → α → State) : State :=
  match g with
  | none => s
  | some (s, .error e) => fault s e
  | some (s, .ok a) => f s a

/-- An engine of a die reads a line by Walk: the die's cistern becomes a holder, and its TS bit and walk record are set (R366, R389). -/
def engineWalkLine (s : State) (die ln : Nat) : State × Bool :=
  let p := homeSync s ln
  if !p.2 then p
  else
    let s := setDir p.1 ln (grantOf (getDir p.1 ln) (plainReq .walk die)).2
    let s := if (cLine s die ln).isSome then s else setCLine s die ln ⟨.shared, homeLine s ln, 0, 0, 0⟩
    (modCist s die fun c => { c with walkers := if c.walkers.contains (ln, 64 + die) then c.walkers else c.walkers ++ [(ln, 64 + die)] }, true)

/-- A walk by an engine of a die, line by line; `got` lists the lines that it has read. -/
def engineWalkGo : Nat → State → Nat → List Nat → Nat → XReq → Option (State × List Nat × WalkStep)
  | 0, s, _, got, _, _ => some (s, got, .fault 0x06 0)
  | k + 1, s, die, got, va, a =>
    match walk s (fun ln => if got.contains ln then some (homeLine s ln) else none) (fun _ _ => none) va a with
    | .need ln =>
      let p := engineWalkLine s die ln
      if p.2 then engineWalkGo k p.1 die (ln :: got) va a else none
    | w => some (s, got, w)

/-- The translation of a virtual address for an engine of a die, with the lines that the walk read; the engine keeps none of them. -/
def engineWalk (s : State) (die va : Nat) (a : XReq) : EngGot (Xlat × List Nat) :=
  if 2 ^ 57 ≤ va then some (s, .error ⟨0x06, 5, va⟩)
  else match engineWalkGo 10 s die [] va a with
    | none => none
    | some (s, got, .leaf x _) => some (s, .ok (x, got))
    | some (s, _, .fault c l) => some (s, .error ⟨c, l, va⟩)
    | some (s, _, .need _) => some (s, .error ⟨0x06, 0, va⟩)

def engineXlat (s : State) (die va : Nat) (a : XReq) : EngGot Xlat :=
  engThen (engineWalk s die va a) fun s x => some (s, .ok x.1)

/-- n bytes of one line at a physical address, read at its home; a lost peer gives poisoned data, and what another peer answers is free
(log 17). -/
def engineLine (s : State) (pa va n : Nat) : EngGot (List Byte) :=
  match paClass s pa with
  | .peer dev =>
    if s.lostPeers.contains dev then some (s, .error ⟨0x0D, 0, va⟩)
    else some (s, .ok (lineBytes (Config.peerData (s.free + pa / 64)) (pa % 64) n))
  | _ =>
    let p := engineSync s pa n
    if !p.2 then none
    else match lineBad p.1 (lineNo pa) with
      | some c => some (p.1, .error ⟨c, 0, va⟩)
      | none => some (p.1, .ok (homeBytes p.1 pa n))

/-- Reads n bytes of a record line by line, translating each; `k` lines are left. -/
def engineRead (die : Nat) (a : XReq) : Nat → State → Nat → Nat → EngGot (List Byte)
  | 0, s, _, _ => some (s, .ok [])
  | k + 1, s, va, n =>
    if n = 0 then some (s, .ok [])
    else
      let m := Nat.min n (64 - va % 64)
      engThen (engineXlat s die va a) fun s x =>
        engThen (engineLine s (x.pa + (va - x.va)) va m) fun s b =>
          engThen (engineRead die a k s (va + m) (n - m)) fun s r => some (s, .ok (b ++ r))

/-- A record of n bytes, read by an engine of a die. -/
def engineRecord (s : State) (die : Nat) (a : XReq) (va n : Nat) : EngGot (List Byte) := engineRead die a (n / 64 + 2) s va n

/-- A translation fault of an engine posts its record to a region's queue (R404); an address beyond the range has none. -/
def enginePost (s : State) (r : Nat) (f : EngFault) (asid kind src func : Nat) : State :=
  if f.cause = 0x0D ∨ f.cause = 0x0E ∨ 2 ^ 57 ≤ f.va then s
  else postFault s r (faultRecord f.va 0 asid f.cause f.level kind src 0 0 func)

/-- A write of bytes of one line at sys by engine n: whether it is performed; across a lost link it is dropped and logged. -/
def engineStoreLine (s : State) (n owner : Nat) (region : Option Nat) (pa : Nat) (bs : List Byte) : State × Bool :=
  match paClass s pa with
  | .peer dev =>
    if s.lostPeers.contains dev then (logPush s 2 0x0C owner region pa dev, true)
    else if peerUp s dev then engineStore s n pa bs else (s, false)
  | _ => engineStore s n pa bs

/-- Bits [hi:lo] of a doubleword-aligned record in memory replaced in one step at its home. -/
def enginePut (s : State) (pa n hi lo v : Nat) : State :=
  engineWrite s pa (bytesOf n (putField (homeVal s pa n) hi lo v))

end Sys2Proof.Machine
end

