-- ==== Sys2Proof/Machine/Distrib.lean ====
section
/-!
DEFINITION. Machine/Distrib.lean: launch queues and dispatch records, the distributor's selection, binding and completion, the start and
the end of a team, LAUNCH and EXIT, and the operating-point table with PWRMARK (R283, R310, R312 to R328, R482, R483).
-/
namespace Sys2Proof.Machine

/-! ## Queue entries (R312, R313) -/

def qAddr (s : State) (q : Nat) : Nat := s.qTable + 64 * q + s.devid * 2 ^ 47

/-- A queue's entry as its home holds it: the stores to it that are performed at pkg (R312). -/
def qEntry (s : State) (q : Nat) : BitVec 512 := BitVec.ofNat 512 (homeVal s (qAddr s q) 64)

/-- The distributor's read of the entry, which publishes what was written before it (R322, R351). -/
def qSync (s : State) (q : Nat) : State × Bool := engineSync s (qAddr s q) 64
def qRd (e : BitVec 512) : Nat := (e.extractLsb' 224 32).toNat
def qWr (e : BitVec 512) : Nat := (e.extractLsb' 192 32).toNat
def qBase (e : BitVec 512) : Nat := (e.extractLsb' 128 52).toNat
def qAsid (e : BitVec 512) : Nat := (e.extractLsb' 112 16).toNat
def qLog2 (e : BitVec 512) : Nat := (e.extractLsb' 100 4).toNat
def qEn (e : BitVec 512) : Bool := e.getLsbD 31
def qErr (e : BitVec 512) : Bool := e.getLsbD 30
def qPrio (e : BitVec 512) : Nat := (e.extractLsb' 16 4).toNat
def qOwner (e : BitVec 512) : Nat := (e.extractLsb' 0 7).toNat

/-- The queue holds a reserved value. -/
def qBad (e : BitVec 512) : Bool := decide (qLog2 e < 4 ∨ 12 < qLog2 e) || qOwner e == 127

/-- The physical address of the ring entry with counter value c. -/
def qRing (e : BitVec 512) (c : Nat) : Nat := qBase e + 64 * (c % 2 ^ qLog2 e)

/-- A field of a queue entry is replaced in one step at the table's home; nothing is written where it holds the value. -/
def qPut (s : State) (q hi lo v : Nat) : State :=
  if field (homeVal s (qAddr s q) 64) hi lo = v then s else enginePut s (qAddr s q) 64 hi lo v

/-! ## Dispatch records (R314, R315) -/

def recCompl (d : BitVec 512) : Nat := (d.extractLsb' 448 64).toNat
def recGraph (d : BitVec 512) : Nat := (d.extractLsb' 384 64).toNat
def recRanges (d : BitVec 512) : Nat := (d.extractLsb' 256 64).toNat
def recTeams (d : BitVec 512) : Nat := (d.extractLsb' 240 16).toNat
def recDies (d : BitVec 512) : BitVec 4 := d.extractLsb' 232 4
def recDraw (d : BitVec 512) : Bool := d.getLsbD 224
def recKid (d : BitVec 512) : Nat := (d.extractLsb' 208 16).toNat

/-- A dispatch record is malformed (R314). -/
def recMalformed (d : BitVec 512) : Bool :=
  d.extractLsb' 236 4 != 0 || d.extractLsb' 225 7 != 0 || d.extractLsb' 0 208 != 0 || recTeams d == 0
    || recCompl d % 64 != 0 || recGraph d % 64 != 0 || recRanges d % 128 != 0

/-- One entry of a range table: none if it is not in use. -/
def rangeOf (v : BitVec 128) : Option Range :=
  let b := (v.extractLsb' 0 57).toNat
  if v.getLsbD 127 then some ⟨b / 256, (b + (v.extractLsb' 64 40).toNat + 255) / 256, v.getLsbD 126⟩ else none

/-- An entry of a range table is malformed. -/
def rangeBad (v : BitVec 128) : Bool :=
  let len := (v.extractLsb' 64 40).toNat
  v.extractLsb' 104 22 != 0 || v.extractLsb' 57 7 != 0
    || (v.getLsbD 127 && decide (len = 0)) || decide (2 ^ 57 < (v.extractLsb' 0 57).toNat + len)

/-- The ranges of a table, if it is well formed (R315). -/
def rangeTable (bs : List Byte) : Option (List Range) :=
  let l := (upto 8).map fun i => BitVec.ofNat 128 (leVal ((bs.drop (16 * i)).take 16))
  let rs := l.filterMap rangeOf
  let n := fun w => (rs.filter fun r => r.write == w).length
  if l.any rangeBad || decide (4 < n true ∨ 4 < n false) then none else some rs

/-- The ranges of X and Y conflict (R316); none is RANGES = 0, which declares every address written and overlaps every range. -/
def rangesClash : Option (List Range) → Option (List Range) → Bool
  | some x, some y => y.any fun b => x.any fun a => (a.write || b.write) && decide (a.lo < b.hi ∧ b.lo < a.hi)
  | none, some y => !y.isEmpty
  | some x, none => !x.isEmpty
  | none, none => true

/-! ## Heads (R317) -/

/-- A head that ends at once: REASON and CAUSE. -/
abbrev HeadEnd := Nat × BitVec 8

/-- What the distributor asks of a translation for a dispatch (R390). -/
def distReq (e : BitVec 512) (kind : Nat) : XReq := ⟨qAsid e, qOwner e, true, kind, false, false⟩

/-- A graph descriptor passes R324. -/
def graphOk (g : BitVec 512) : Bool :=
  let n := (g.extractLsb' 0 16).toNat
  g.extractLsb' 256 256 == 0 && g.extractLsb' 48 16 == 0 && g.extractLsb' 16 16 == 0 && decide (1 ≤ n ∧ n ≤ 4096)
    && decide ((g.extractLsb' 32 16).toNat < n)

/-- MINT and L1SZ of a load descriptor. -/
def loadMint (d : BitVec 512) : Nat := (d.extractLsb' 118 5).toNat
def loadL1 (d : BitVec 512) : Nat := (d.extractLsb' 128 2).toNat

/-- A first load descriptor passes R324. -/
def firstLoadOk (d : BitVec 512) : Bool :=
  let nt := (d.extractLsb' 112 5).toNat
  d.extractLsb' 256 256 == 0 && d.extractLsb' 160 16 == 0 && d.extractLsb' 130 7 == 0 && d.extractLsb' 123 5 == 0 && !d.getLsbD 117
    && d.extractLsb' 64 48 == 0 && decide (1 ≤ loadMint d ∧ loadMint d ≤ 20 ∧ 1 ≤ nt ∧ nt ≤ 20) && loadL1 d != 3

/-- Why a head ends at once, with the fault of the read. -/
abbrev HeadStop := HeadEnd × Option EngFault

/-- What reading a head comes to; none where a read waits. -/
abbrev HeadGot := Option (State × Except HeadStop Head)

/-- Goes on with a record that the distributor has read; a fault ends the head (R324). -/
def headThen (g : EngGot (List Byte)) (f : State → BitVec 1024 → HeadGot) : HeadGot :=
  match g with
  | none => none
  | some (s, .error e) => some (s, .error ((3, e.cause), some e))
  | some (s, .ok b) => f s (BitVec.ofNat 1024 (leVal b))

/-- The head with a record, once its graph, first load and ranges are read. -/
def readHead (s : State) (e d : BitVec 512) : HeadGot :=
  let rd := fun s va n => engineRecord s 0 (distReq e 0) va n
  let bad := fun (s : State) => (some (s, .error ((1, 0x02), none)) : HeadGot)
  if recMalformed d then bad s
  else headThen (rd s (recGraph d) 64) fun s g =>
    let g : BitVec 512 := g.setWidth 512
    if !graphOk g then bad s
    else headThen (rd s (recGraph d + 64 + 64 * (g.extractLsb' 32 16).toNat) 64) fun s l =>
      let l : BitVec 512 := l.setWidth 512
      let h : Head := ⟨qRd e, d, loadMint l, loadL1 l, none, none⟩
      if !firstLoadOk l then bad s
      else if recRanges d = 0 then some (s, .ok h)
      else headThen (rd s (recRanges d) 128) fun s t =>
        match rangeTable (bytesOf 128 t.toNat) with
        | none => bad s
        | some rs => some (s, .ok { h with ranges := some rs })

/-! ## Fit, priority and candidates (R30, R316 to R318) -/

/-- Region r is assigned to an owner, lies on a die of a dispatch and fits it. -/
def regionFits (s : State) (owner mint : Nat) (dies : BitVec 4) (r : Nat) : Bool :=
  let x := getR s r
  x.owner == owner && (dies == 0 || dies.getLsbD (dieOf r)) && decide (mint ≤ ((upto 20).filter (siteOk x)).length)

def headFits (s : State) (e : BitVec 512) (h : Head) (r : Nat) : Bool := regionFits s (qOwner e) h.mint (recDies h.rec_) r

/-- A region that can take a team. -/
def regionFree (s : State) (r : Nat) : Bool := (getR s r).rstate == .free && (getR s r).team.isNone

/-- EffPrio of a queue's head (R318). -/
def effPrio (s : State) (q : Nat) : Nat := Nat.min 15 (qPrio (qEntry s q) + (s.time - tget s.dist.since q s.time) / 1000000)

/-- AGE of a queue shows the priority of its head, and 0 where it has none. -/
def agePut (s : State) (q : Nat) : State := qPut s q 23 20 (if (tfind s.dist.since q).isSome then effPrio s q else 0)

def findDisp (s : State) (id : Nat) : Option Disp := s.dist.inflight.find? fun d => d.id == id
def modDisp (s : State) (id : Nat) (f : Disp → Disp) : State :=
  { s with dist := { s.dist with inflight := s.dist.inflight.map fun d => if d.id = id then f d else d } }

/-- An in-flight dispatch of the same address space has conflicting ranges (R316). -/
def headBlocked (s : State) (e : BitVec 512) (h : Head) : Bool :=
  s.dist.inflight.any fun d => !d.early && some d.id != h.disp && d.asid == qAsid e && rangesClash h.ranges d.ranges

/-- The dispatch of the head binds no further team. -/
def headStopped (s : State) (h : Head) : Bool :=
  match h.disp.bind (findDisp s) with
  | some d => d.ending.isSome
  | none => false

/-- The head of a queue, if it is a candidate (R317). -/
def candidate (s : State) (q : Nat) : Option Head :=
  let e := qEntry s q
  match tfind s.dist.heads q with
  | some h => if qEn e && !qBad e && h.ticket == qRd e && qRd e != qWr e && !headBlocked s e h && !headStopped s h
      && (upto Config.regions).any (headFits s e h) then some h else none
  | none => none

/-- With 512 dispatches in flight nothing is selected (R316). -/
def mayFly (s : State) : Bool := decide ((s.dist.inflight.filter fun d => !d.early).length < 512)

/-- The best of some queues: the highest EffPrio, then the first after Last (R318). -/
def bestQueue (s : State) (l : List (Nat × Head)) : Option (Nat × Nat) :=
  let p := (l.map fun c => effPrio s c.1).foldl Nat.max 0
  let at_ := (l.filter fun c => effPrio s c.1 == p).map (·.1)
  let last := tget s.dist.last p 0
  match (((upto 256).map fun i => (last + 1 + i) % 256).find? fun q => at_.contains q) with
  | some q => some (q, p)
  | none => none

/-- Candidates of an owner that a test accepts. -/
def candidates (s : State) (owner : Nat) (ok : Nat → Head → Bool) : List (Nat × Head) :=
  (s.dist.heads.filterMap fun p => (candidate s p.1).map fun h => (p.1, h)).filter fun c =>
    qOwner (qEntry s c.1) == owner && mayFly s && ok c.1 c.2

/-- A head is selected: its dispatch is in flight from then on. -/
def flyHead (s : State) (q : Nat) (h : Head) : State × Nat :=
  match h.disp with
  | some id => (s, id)
  | none =>
    let e := qEntry s q
    let id := s.dist.nextId
    let d : Disp := ⟨id, q, h.ticket, qAsid e, qOwner e, h.rec_, h.ranges, h.mint, h.l1sz, 0, [], none, 0, false, none, 0, []⟩
    ({ s with dist := { s.dist with nextId := id + 1, inflight := s.dist.inflight ++ [d]
                                    heads := tset s.dist.heads q { h with disp := some id } } }, id)

/-- The distributor works at all (R486, R487). -/
def distOn (s : State) : Bool := s.stage == 4 && !s.minimal

/-- Clearing EN drops a standing selection that is not yet bound; a dispatch with no bound team is no longer in flight, and its record
is read anew (R313, R321). -/
def dropStanding (s : State) (q : Nat) : State :=
  let s := { s with dist := { s.dist with standing := s.dist.standing.filter fun p => p.2 != q } }
  match tfind s.dist.heads q with
  | some h =>
    let s' := { s with dist := { s.dist with heads := terase s.dist.heads q } }
    match h.disp.bind (findDisp s) with
    | some d => if d.bound = 0 then { s' with dist := { s'.dist with inflight := s'.dist.inflight.filter fun x => x.id != d.id } } else s
    | none => s'
  | none => s

/-- The selections of queues whose EN is clear are dropped. -/
def dropDisabled (s : State) : State :=
  (s.dist.standing.filter fun p => !qEn (qEntry s p.2)).foldl (fun s p => dropStanding s p.2) s

/-- DISTRIBUTOR_SELECT (R318). -/
def distSelect (s : State) (owner : Nat) : State :=
  if !distOn s || (tfind s.dist.standing owner).isSome then s
  else match bestQueue s (candidates s owner fun _ _ => true) with
  | none => s
  | some (q, p) =>
    match candidate s q with
    | none => s
    | some h =>
      let s := (flyHead s q h).1
      { s with dist := { s.dist with last := tset s.dist.last p q, standing := tset s.dist.standing owner q } }

def execDistributorSelect (owner : Nat) : Meaning := fun s => .next (distSelect (dropDisabled s) owner)

/-! ## The operating point of a region (R482) -/

/-- The table is in use for the region's team. -/
def optUsed (s : State) (x : Region) : Bool :=
  s.optEn && !x.opFix && (match x.team with | some t => t.kid != 0 | none => false)

/-- POINT is written into the entry of the current phase. -/
def optStore (s : State) (r : Nat) : State :=
  let x := getR s r
  match x.team with
  | some t =>
    if optUsed s x then
      let k := (t.owner, t.kid, t.phase)
      let l := s.optTable.filter fun p => p.1 != k
      { s with free := s.free + 1
               optTable := (k, x.point) :: (if l.length < 1024 then l else l.eraseIdx (Config.evictChoice s.free % 1024)) }
    else s
  | none => s

/-- The point of the current phase takes effect at the next refill: the entry's, limited to PMIN to PMAX, else PMAX. -/
def optApply (s : State) (r : Nat) : State :=
  let x := getR s r
  match x.team with
  | some t =>
    if optUsed s x then
      let p := match s.optTable.find? fun p => p.1 == (t.owner, t.kid, t.phase) with
        | some (_, p) => Nat.max x.pmin (Nat.min x.pmax p)
        | none => x.pmax
      setR s r { x with pointNext := some p }
    else s
  | none => s

/-- PWRMARK (R483). -/
def execPwrmark (n : BitVec 4) : Meaning := fun s => seqDo s fun r _ =>
  let s := optStore s r
  let s := modR s r fun x => { x with team := x.team.map fun t => { t with phase := n.toNat } }
  seqNext (optApply s r) r id

/-! ## The start of a team (R283, R196, R228, R391) -/

/-- What a team's start does to an element: its L1 is invalidated, and its translations where the address space changes; where the
owner changes its scratchpad, full-empty bits and seals are cleared. -/
def startElem (newOwner newAsid : Bool) (owner : Nat) (e : Elem) : Elem :=
  let e := invalL1 { e with wave := 0 }
  let e := if newAsid then { e with tlb := e.tlb.filter fun x => pteBit x.pte 8 && x.owner == owner } else e
  if newOwner then { e with spad := [], full := [], seals := [] } else e

/-- What it does to an island: no context is valid, and accumulators are cleared where the owner changes. -/
def startIsland (newOwner : Bool) (i : Island) : Island :=
  let i := clearIsland i
  if newOwner then { i with acc := [] } else i

/-- The registers of the sequencer at a team's start. -/
def startRegs (queue ticket index : Nat) (d : BitVec 512) : Table (BitVec 64) :=
  (1, BitVec.ofNat 64 (queue * 2 ^ 32 + ticket % 2 ^ 32)) :: (2, BitVec.ofNat 64 index)
    :: (upto 8).map fun i => (3 + i, d.extractLsb' (64 * i) 64)

/-- The sequencer at a team's start: control registers keep what they hold, but for FPCTL, FPST, SQSIDE and code window 1 (log 24). -/
def startSeq (q : Seq) (regs : Table (BitVec 64)) : Seq :=
  { dropWait q with
    pc := q.rtentry &&& pcMask, sup := true, regs := regs, events := [], icache := [], dcache := [], loads := [], endMark := false,
    pending := [], permits := q.permits.filter (fun p => p.2 != 1), codewin := terase q.codewin 1, sqside := 0,
    fpctl := 0, fpst := 0, evNew := (0, 0), exiting := false, exitCause := none, stores := [], touched := [] }

/-- A team starts in a region. -/
def startTeam (s : State) (r : Nat) (t : Team) (d : BitVec 512) : State :=
  let x := getR s r
  let no := x.prevOwner != t.owner
  let na := x.prevAsid != t.asid
  let keep := fun (l : List Xlat) => if na then l.filter fun y => pteBit y.pte 8 && y.owner == t.owner else l
  let s := { s with elems := tmap (fun k e => if keyRegion k = r then startElem no na t.owner e else e) s.elems }
  let s := setR s r { x with
    team := some t, prevOwner := t.owner, prevAsid := t.asid, rstate := .running, tlb := keep x.tlb,
    walkCache := if na then [] else x.walkCache, walks := if na then [] else x.walks, islands := tmap (fun _ i => startIsland no i) x.islands,
    stoat := { x.stoat with actors := none, pending := [], frozen := false, grow := none, drains := [] },
    seq := startSeq x.seq (startRegs t.queue t.ticket t.index d) }
  optApply s r

/-! ## Binding (R319, R320, R322) -/

/-- The head is gone: RD advances, and the next dispatch, if there is one, is the head from now on. -/
def advanceHead (s : State) (q ticket : Nat) : State :=
  let s := { s with dist := { s.dist with
    since := terase s.dist.since q, heads := terase s.dist.heads q, standing := s.dist.standing.filter fun p => p.2 != q } }
  agePut (qPut s q 255 224 ((ticket + 1) % 2 ^ 32)) q

/-- Bind of R319: the lowest unbound team of the head of queue q starts in region r. -/
def bindTeam (s : State) (q r : Nat) (h : Head) : State :=
  let f := flyHead s q h
  let s := f.1
  match findDisp s f.2 with
  | none => s
  | some d =>
    let t : Team := ⟨d.id, q, d.ticket, d.bound, d.asid, d.owner, d.l1sz, recDraw d.rec_, recKid d.rec_, 0, []⟩
    let s := startTeam s r t d.rec_
    let s := modDisp s d.id fun d => { d with bound := d.bound + 1, lastDie := some (dieOf r) }
    if recTeams d.rec_ ≤ d.bound + 1 then advanceHead s q d.ticket
    else agePut { s with dist := { s.dist with
      heads := tset s.dist.heads q { h with disp := some d.id }, since := tset s.dist.since q s.time } } q

/-- TEAM_BIND (R319): the standing selection of an owner takes the next free region. -/
def teamBind (s : State) (owner : Nat) : State :=
  match tfind s.dist.standing owner with
  | none => s
  | some q =>
    match tfind s.dist.heads q with
    | none => s
    | some h =>
      let e := qEntry s q
      let l := (upto Config.regions).filter fun r => regionFree s r && headFits s e h r
      let die := (h.disp.bind (findDisp s)).bind (·.lastDie)
      let pick := match l.find? fun r => some (dieOf r) == die with | some r => some r | none => l.head?
      match pick with
      | none => s
      | some r =>
        bindTeam { s with dist := { s.dist with standing := terase s.dist.standing owner } } q r h

def execTeamBind (owner : Nat) : Meaning := fun s => .next (if distOn s then teamBind (dropDisabled s) owner else s)

/-- FREE_REGION_BIND (R320): a free region that the standing selection cannot use goes to the best other candidate. -/
def freeBind (s : State) (r : Nat) : State :=
  let owner := (getR s r).owner
  match tfind s.dist.standing owner with
  | none => s
  | some q0 =>
    let fits := fun q h => headFits s (qEntry s q) h r
    let own := match tfind s.dist.heads q0 with | some h => fits q0 h | none => true
    if !regionFree s r || own then s
    else match bestQueue s (candidates s owner fun q h => q != q0 && fits q h) with
    | none => s
    | some (q, p) => match candidate s q with
      | none => s
      | some h => bindTeam { s with dist := { s.dist with last := tset s.dist.last p q } } q r h

def execFreeRegionBind (r : Nat) : Meaning := fun s => withUnit (regionOk r) s fun s => if distOn s then freeBind (dropDisabled s) r else s

/-! ## Completion (R323 to R325) -/

/-- Bytes of the bitmap of retired teams. -/
def bitmapBytes (d : Disp) : Nat := 64 * ((recTeams d.rec_ + 511) / 512)

/-- Byte i of the bitmap. -/
def bitmapByte (d : Disp) (i : Nat) : Byte :=
  BitVec.ofNat 8 ((upto 8).foldl (fun a j => if d.retired.contains (8 * i + j) then a + 2 ^ j else a) 0)

/-- The completion record. -/
def completion (s : State) (d : Disp) (why : HeadEnd) : Nat :=
  s.time % 2 ^ 64 * 2 ^ 64 + d.retired.length % 2 ^ 16 * 2 ^ 48 + why.2.toNat * 2 ^ 32 + why.1 * 2 ^ 16 + 1

/-- Part k of the completion record: its address and its bytes. The bitmap comes first, then bytes 1 to 63, then DONE. -/
def completionPart (s : State) (d : Disp) (why : HeadEnd) (k : Nat) : Nat × List Byte :=
  let n := bitmapBytes d / 64
  let va := recCompl d.rec_
  if k < n then (va + 64 + 64 * k, (upto 64).map fun i => bitmapByte d (64 * k + i))
  else if k = n then (va + 1, (bytesOf 64 (completion s d why)).tail)
  else (va, [1])

/-- What the distributor asks of a translation for a completion record. -/
def complReq (d : Disp) : XReq := ⟨d.asid, d.owner, true, 1, false, false⟩

/-- The dispatch is no longer in flight. -/
def dropDisp (s : State) (id : Nat) : State :=
  { s with dist := { s.dist with inflight := s.dist.inflight.filter fun d => d.id != id } }

/-- A fault on the write of the completion record: posted, logged to owner 0, and the dispatch ends (R325). -/
def completionFault (s : State) (d : Disp) (f : EngFault) : State :=
  dropDisp (logPush (enginePost s 0 f d.asid 1 7 0) 3 f.cause d.owner none (recCompl d.rec_) (d.queue + d.ticket * 2 ^ 32)) d.id

/-- The lines of the record translate, all of them (R325). -/
def complCheck (d : Disp) : Nat → State → EngGot Unit
  | 0, s => some (s, .ok ())
  | k + 1, s => engThen (complCheck d k s) fun s _ => engThen (engineXlat s 0 (recCompl d.rec_ + 64 * k) (complReq d)) fun s _ => some (s, .ok ())

/-- The writing of the completion record goes on by one part. -/
def completeStep (s : State) (d : Disp) (why : HeadEnd) : State :=
  let n := bitmapBytes d / 64
  if recCompl d.rec_ = 0 ∨ recCompl d.rec_ % 64 ≠ 0 then dropDisp s d.id
  else
    let p := completionPart s d why d.stage
    engStep s (engThen (complCheck d (if d.stage = 0 then n + 1 else 0) s) fun s _ => engineXlat s 0 p.1 (complReq d))
      (fun s f => completionFault s d f) fun s x =>
        let w := engineStoreLine s (1024 + d.id) d.owner none (x.pa + (p.1 - x.va)) p.2
        if !w.2 then w.1
        else if d.stage = n + 1 then dropDisp w.1 d.id
        else modDisp w.1 d.id fun d => { d with stage := d.stage + 1 }

/-- The dispatch that has ended and whose record of queue q is being written goes on. -/
def completeQueue (s : State) (q : Nat) : Option State :=
  match s.dist.inflight.find? fun d => d.queue == q && d.ending.isSome with
  | some d => d.ending.map (completeStep s d)
  | none => none

/-! ## Reading heads (R317, R321) -/

/-- A head ends at once with a reason; RD advances. -/
def endHead (s : State) (q : Nat) (e d : BitVec 512) (why : HeadEnd) : State :=
  let id := s.dist.nextId
  let x : Disp := ⟨id, q, qRd e, qAsid e, qOwner e, d, some [], 0, 0, 0, [], none, 0, true, some why, 0, []⟩
  advanceHead { s with dist := { s.dist with nextId := id + 1, inflight := s.dist.inflight ++ [x] } } q (qRd e)

/-- The head of a queue that is not yet read. -/
def newHead (s : State) (q : Nat) (e : BitVec 512) : State :=
  let pa := qRing e (qRd e)
  match engineLine s pa 0 64 with
  | none => s
  | some (s, .error f) => advanceHead (logPush s 6 f.cause (qOwner e) none pa (q + qRd e * 2 ^ 32)) q (qRd e)
  | some (s, .ok b) =>
    let d : BitVec 512 := BitVec.ofNat 512 (leVal b)
    match readHead s e d with
    | none => s
    | some (s, .error (why, f)) => endHead (match f with | some f => enginePost s 0 f (qAsid e) 0 7 0 | none => s) q e d why
    | some (s, .ok h) => { s with dist := { s.dist with heads := tset s.dist.heads q h } }

/-- A head that is read: it ends as unplaceable while no team of it is bound and no region fits it. -/
def oldHead (s : State) (q : Nat) (e : BitVec 512) (h : Head) : State :=
  let unbound := match h.disp.bind (findDisp s) with | some d => d.bound == 0 | none => true
  if headStopped s h then advanceHead s q h.ticket
  else if unbound && !(upto Config.regions).any (headFits s e h) then
    endHead (match h.disp with | some id => dropDisp s id | none => s) q e h.rec_ (2, 0)
  else s

/-- DISPATCH_HEAD_READ. -/
def headRead (s : State) (q : Nat) : State :=
  match completeQueue s q with
  | some s => s
  | none =>
    let p := qSync s q
    if !p.2 then p.1
    else
    let s := agePut p.1 q
    let e := qEntry s q
    let s := qPut s q 30 30 (if qEn e && qBad e then 1 else 0)
    if !qEn e then dropStanding s q
    else if qBad e || qRd e == qWr e then s
    else match tfind s.dist.heads q with
      | some h => if h.ticket = qRd e then oldHead s q e h else newHead s q e
      | none => newHead s q e

def execDispatchHeadRead (q : Nat) : Meaning := fun s =>
  withUnit (decide (q < 256)) s fun s => if distOn s then headRead s q else s

/-! ## LAUNCH (R327) -/

/-- LAUNCH. The queue is checked and the record read once; then it waits. The append is one step at the table's home. -/
def execLaunch (a d : BitVec 5) (q : BitVec 8) : Meaning := fun s => seqDo s fun r u =>
  let va := (getS u a).toNat
  let n := q.toNat
  let p := qSync s n
  let s := p.1
  let e := qEntry s n
  if !p.2 then seqWait s r
  else if va % 64 ≠ 0 then seqTrap s r 0x04 (getS u a)
  else if u.lines == [] && (!distOn s || !qEn e || qErr e || qBad e || qOwner e != ownerOf (getR s r)) then seqTrap s r 0x07 0
  else ((seqRecord s r va 64).issued r).then r fun s b =>
    let s := modSeq s r fun u => { u with asked := false }
    let e := qEntry s n
    if 2 ^ qLog2 e ≤ (qWr e + 2 ^ 32 - qRd e) % 2 ^ 32 then seqWait s r
    else afterWrites (seqWait s r) r 4 fun s =>
      let w := clearSharers s (128 + r) (qRing e (qWr e)) 64
      if !w.2 then w.1
      else
      let s := engineWrite w.1 (qRing e (qWr e)) b
      seqPut (qPut s n 223 192 ((qWr e + 1) % 2 ^ 32)) r d (BitVec.ofNat 64 (qWr e))

/-! ## EXIT and the end of a team (R310, R436) -/

/-- The causes that EXIT does not record. -/
def resumeCause (c : BitVec 8) : Bool := c == 0x12 || c == 0x13 || c == 0x14

/-- The first of some causes that EXIT records. -/
def firstCause (old : Option (BitVec 8)) (l : List (BitVec 8)) : Option (BitVec 8) :=
  match old with | some c => some c | none => l.find? fun c => !resumeCause c

/-- Causes of the asynchronous traps that wait, in order: the pending ones, then the head of the element trap queue. -/
def waitingCauses (x : Region) : List (BitVec 8) :=
  x.seq.pending.map (·.cause) ++ match x.etq with | h :: _ => [BitVec.ofNat 8 (field h.toNat 39 32)] | [] => []

/-- EXIT begins: the end mark is set, POINT is written into its entry, and traps are no longer taken. -/
def exitBegin (s : State) (r : Nat) : State :=
  let s := optStore s r
  modR (seqWait s r) r fun x => { x with seq := { x.seq with
    endMark := true, exiting := true, exitCause := firstCause x.seq.exitCause (waitingCauses x), pending := [] } }

/-- EXIT: it begins, then carries the sequencer's writes on while it waits. -/
def execExit : Meaning := fun s => seqDo s fun r q => if q.exiting then seqPush s r 2 else exitBegin s r

/-- An element is done with its team: Idle, with no pending load left to install, and its accesses performed (log 24). -/
def elemDone (x : Region) (key : Nat) (e : Elem) : Bool :=
  e.st == .idle && (nextLoad x.seq key).isNone && e.accs.all (fun a => !a.live) && e.notify == [] && e.out == []

/-- The engines are done: no run, request, arrival or update is left. -/
def enginesDone (x : Region) : Bool :=
  x.islands.all (fun p => p.2.runs == [] && p.2.arrivals == [])
    && x.pumps.all fun p => !pumpBusy p.2 && p.2.updates == [] && decide (p.2.reqPort.toks.length < 4)

/-- The conditions of R310. -/
def teamDone (s : State) (r : Nat) : Bool :=
  let x := getR s r
  x.seq.exiting && acting x && (elemKeys x r).all (fun k => elemDone x k (getE s k)) && enginesDone x && seqPerformed s r 2

/-- The dispatch of a retired team: its bit, the first recorded cause, and its end with the last team. -/
def teamRetired (s : State) (t : Team) (cause : Option (BitVec 8)) : State :=
  modDisp s t.disp fun d =>
    let d := { d with retired := d.retired ++ [t.index], peers := d.peers ++ t.peers,
                      cause := if d.cause = 0 then cause.getD 0 else d.cause }
    if d.ending.isNone && decide (recTeams d.rec_ ≤ d.retired.length) then
      { d with ending := some (if d.cause = 0 then (0, 0) else (5, d.cause)) }
    else d

/-- TEAM_RETIRE: the region's buffered writes go out first, and the die publishes what it has written, which DONE releases at sys (R325,
R346); a pre-emption request that waits sets EMPTY (R449). -/
def teamRetire (s : State) (r : Nat) : State :=
  let x := getR s r
  match x.team with
  | none => s
  | some t =>
    if !teamDone s r then s
    else if x.wcb != [] then drainWcb s r
    else
      let p := publishDie s (dieOf r) s.wseq fun _ => false
      if !p.2 then p.1
      else
      let s := p.1
      let s := teamRetired s t (firstCause x.seq.exitCause (waitingCauses x))
      modR s r fun x => { x with team := none, rstate := .free, drainFrom := none, holdFrom := none
                                 empty := x.empty || x.rstate == .holding
                                 seq := { x.seq with exiting := false, exitCause := none, waitStart := none } }

def execTeamRetire (r : Nat) : Meaning := fun s => withUnit (regionOk r) s fun s => teamRetire s r

end Sys2Proof.Machine
end

