-- ==== Sys2Proof/Machine/Restripe.lean ====
section
/-!
DEFINITION. Machine/Restripe.lean: RESTRIPE and the re-stripe engine (R398 to R403).
-/
namespace Sys2Proof.Machine

/-! ## Job records (R398) -/

def rsVa (d : BitVec 512) : Nat := (d.extractLsb' 0 57).toNat
def rsPages (d : BitVec 512) : Nat := (d.extractLsb' 64 32).toNat
def rsPlc (d : BitVec 512) : Nat := (d.extractLsb' 128 4).toNat
def rsAsid (d : BitVec 512) : Nat := (d.extractLsb' 160 16).toNat
def rsLast (d : BitVec 512) : Nat := rsVa d + 4096 * rsPages d

/-- RESTRIPE refuses the record (R399). -/
def rsBad (d : BitVec 512) : Bool :=
  d.extractLsb' 57 7 != 0 || d.extractLsb' 96 32 != 0 || d.extractLsb' 132 28 != 0 || d.extractLsb' 176 208 != 0
    || d.extractLsb' 385 23 != 0 || rsPages d == 0 || rsVa d % 4096 != 0 || decide (2 ^ 57 < rsLast d)

/-- The address-space entry of an ASID, as its home holds it. -/
def asEntry (s : State) (asid : Nat) : BitVec 512 := homeLine s (lineNo (s.asTable + 64 * asid))

/-- The owner of an address space, if the space exists. -/
def asOwner (s : State) (asid : Nat) : Option Nat :=
  let e := asEntry s asid
  if asid < s.asCount && e.getLsbD 0 then some (e.extractLsb' 8 7).toNat else none

/-- RESTRIPE (R399). -/
def execRestripe (a : BitVec 5) (s : State) : Host.Outcome State Fault Refusal := seqPriv s fun r q =>
  let va := (getS q a).toNat
  if va % 64 ≠ 0 then seqTrap s r 0x04 (BitVec.ofNat 64 va)
  else ((seqRecord s r va 64).issued r).then r fun s bs =>
    let d : BitVec 512 := BitVec.ofNat 512 (leVal bs)
    let o := ownerOf (getR s r)
    let p := engineSync s (s.asTable + 64 * rsAsid d + s.devid * 2 ^ 47) 64
    let s := p.1
    if !p.2 then s
    else if rsBad d then seqTrap s r 0x02 0
    else if o ≠ 0 ∧ asOwner s (rsAsid d) ≠ some o then seqTrap s r 0x07 (BitVec.ofNat 64 va)
    else
      let s := seqWait (modSeq s r fun q => { q with asked := false }) r
      if 16 ≤ s.rsQueue.length then s
      else afterWrites s r 3 fun s =>
        match seqXlat s r va 0 with
        | .ok s x => seqNext { s with rsQueue := s.rsQueue ++ [⟨d, (viaOf x va).pa⟩] } r id
        | .wait s => s
        | .fault s c _ => seqTrap s r c (BitVec.ofNat 64 va)

/-! ## The engine's walk (R390, R400): by physical address, with no check of a leaf's permissions -/

/-- A doubleword that the engine's walker reads, as an agent of die 0 (log 27). -/
def rsRead (s : State) (pa : Nat) : Option (State × BitVec 64) :=
  let p := engineWalkLine s 0 (lineNo pa)
  if p.2 then some (p.1, lineDword (homeLine p.1 (lineNo pa)) pa) else none

/-- A leaf entry that the engine has walked to: its address, the entry and its level. -/
structure RsEntry where
  addr : Nat
  pte : BitVec 64
  lev : Nat
  deriving DecidableEq, Repr, Inhabited

/-- Size of a leaf and its first address. -/
def leafSize (lev : Nat) : Nat := 2 ^ (12 + 9 * (lev - 1))
def leafBase (va lev : Nat) : Nat := va / leafSize lev * leafSize lev

/-- A walk ends in a leaf entry or in a fault. -/
def rsTable (va : Nat) : Nat → State → Nat → EngGot RsEntry
  | 0, s, _ => some (s, .error ⟨0x06, 1, va⟩)
  | lev + 1, s, tbl =>
    let pa := tbl + 8 * vaIndex va (lev + 1)
    match rsRead s pa with
    | none => none
    | some (s, pte) =>
      if !pteBit pte 0 then some (s, .error ⟨0x06, lev + 1, va⟩)
      else if pteReserved s pte (lev + 1) then some (s, .error ⟨0x08, lev + 1, va⟩)
      else if !pteBit pte 1 then some (s, .ok ⟨pa, pte, lev + 1⟩)
      else rsTable va lev s (ptePa pte)

/-- The address of a placement descriptor of an address space. -/
def plcAddr (s : State) (asid i : Nat) : Nat := ((asEntry s asid).extractLsb' 128 52).toNat + 8 * i

/-- The walk of va with the checks of R388 that are no permissions: the leaf entry and its descriptor. A fault of the leaf itself has
the leaf's first address. -/
def rsWalk (s : State) (va asid : Nat) : EngGot (RsEntry × BitVec 64) :=
  match rsRead s (s.asTable + 64 * asid) with
  | none => none
  | some (s, _) =>
    let e := asEntry s asid
    if s.asCount ≤ asid || !e.getLsbD 0 then some (s, .error ⟨0x06, 6, va⟩)
    else if asReserved s e then some (s, .error ⟨0x08, 6, va⟩)
    else engThen (rsTable va 5 s (e.extractLsb' 64 52).toNat) fun s l =>
      let base := leafBase va l.lev
      match rsRead s (plcAddr s asid (ptePlc l.pte)) with
      | none => none
      | some (s, d) =>
        if plcReserved d then some (s, .error ⟨0x08, 0, base⟩)
        else if pteBit l.pte 10 then some (s, .error ⟨0x09, l.lev, base⟩)
        else if paClass s (ptePa l.pte) == .reserved then some (s, .error ⟨0x06, 0, base⟩)
        else some (s, .ok (l, d))

/-! ## Jobs (R400) -/

def modRun (s : State) (f : RsRun → RsRun) : State := { s with rsRun := s.rsRun.map f }

/-- End(reason, cause, FVA). -/
def rsEnd (s : State) (reason : Nat) (cause : BitVec 8) (fva : Nat) : State :=
  modRun s fun x => { x with ending := some (reason, cause, fva) }

/-- The next leaf: the walk, its checks, and the descriptors. -/
def rsLeaf (s : State) (x : RsRun) : State :=
  let d := x.job.rec_
  let asid := rsAsid d
  if rsLast d ≤ x.v then rsEnd s 0 0 0
  else engStep s (rsWalk s x.v asid)
    (fun s f => rsEnd (postFault s 0 (faultRecord x.v 0 asid f.cause f.level 0 8 0 0 0)) 2 f.cause f.va) fun s w =>
      let z := leafSize w.1.lev
      let base := leafBase x.v w.1.lev
      if base < rsVa d ∨ rsLast d < base + z then rsEnd s 1 0 base
      else if paDevice (ptePa w.1.pte) ≠ s.devid then rsEnd s 5 0 base
      else if ptePlc w.1.pte = rsPlc d then modRun s fun x => { x with donep := x.donep + z / 4096, v := base + z }
      else match rsRead s (plcAddr s asid (rsPlc d)) with
        | none => s
        | some (s, new) =>
          if plcReserved new then rsEnd s 2 0x08 base
          else modRun s fun x => { x with v := base, leaf := some ⟨w.1.addr, w.1.pte, z, w.2, new, 0, 0⟩ }

/-- Regions that have read a line as a non-leaf line (R392). -/
def nonLeafLine (s : State) (ln : Nat) : Bool :=
  s.regions.any fun p => p.2.walkRec.any fun w => w.line == ln && w.root.isSome

/-- MoveLine of R401 made whole at the old home: requests in progress end first, narrow writes are published, every copy is
recalled, and the line stands at its new home with an Invalid entry and a row of its own. None while the home is busy or a holder
cannot publish yet. -/
def moveLine (s : State) (ln : Nat) (old new : BitVec 64) : Option State :=
  let pa := 64 * ln
  if (getHome s ln).tx.isSome then none
  else if homeOf pa old = homeOf pa new then some s
  else
    let p := takeBack s ln
    let w := (homeOf pa new).1
    if !p.2 then none
    else
      let s := setDir p.1 ln {}
      some { s with wells := tset s.wells ln w, rows := if s.rows.contains (w, ln / 64) then s.rows else s.rows ++ [(w, ln / 64)] }

/-- A window closes: of the frames of the leaf each well keeps the rows of lines that are homed there under the descriptor that stands;
the others are free (R384, R400). -/
def closeWindow (s : State) (l : RsLeaf) (plc : BitVec 64) : State :=
  let b := lineNo (ptePa l.pte) / 64
  { s with rows := s.rows.filter fun w => decide (w.2 < b ∨ b + l.size / 4096 ≤ w.2)
      || (frameLines w.2).any fun ln => (homeOf (64 * ln) plc).1 == w.1 }

/-- The next line of the leaf moves, or ends the job as a line of a page table (R401). -/
def rsMove (s : State) (x : RsRun) (l : RsLeaf) : State :=
  let ln := lineNo (ptePa l.pte) + l.copied
  if (getHome s ln).tx.isSome then s
  else if (getDir s ln).ts ≠ 0 ∨ nonLeafLine s ln then rsEnd s 4 0 x.v
  else match moveLine s ln l.old l.new with
    | none => s
    | some s => modRun s fun x => { x with leaf := some { l with copied := l.copied + 1 } }

/-- The entry is swapped with an atomic at sys (R400); its acknowledgement comes once it is translation-complete. -/
def rsSwap (s : State) (x : RsRun) (l : RsLeaf) : State :=
  let tag := ReqTag.engine (2 * 2 ^ 16 + 2 ^ 15)
  match takeAck s tag with
  | some (a, s) =>
    if a.old = l.pte ∧ a.bad = none then
      modRun (closeWindow s l l.new) fun x => { x with leaf := none, donep := x.donep + l.size / 4096, v := x.v + l.size }
    else rsEnd s 3 0 x.v
  | none =>
    let new := BitVec.ofNat 64 (putField l.pte.toNat 55 52 (rsPlc x.job.rec_))
    askTagged s (lineNo l.addr) { plainReq .ath 0 with
      off := l.addr % 64, size := 1, op := 9, v := new, c := l.pte, uncached := true, tag := tag }

/-- A line that was moved before the job stopped goes back, in ascending order. -/
def rsBack (s : State) (l : RsLeaf) : State :=
  match moveLine s (lineNo (ptePa l.pte) + l.back) l.new l.old with
  | none => s
  | some s =>
    if l.back + 1 = l.copied then modRun (closeWindow s l l.old) fun x => { x with leaf := none }
    else modRun s fun x => { x with leaf := some { l with back := l.back + 1 } }

/-- RESTRIPE_JOB: the engine's next action; in minimal mode it does not work (R33). -/
def restripeStep (s : State) : State :=
  match s.rsRun with
  | none => match s.rsQueue with
    | [] => s
    | j :: rest => { s with rsQueue := rest, rsRun := some ⟨j, rsVa j.rec_, 0, none, none⟩ }
  | some x => match x.leaf, x.ending with
    | none, none => rsLeaf s x
    | some l, none => if l.copied < l.size / 64 then rsMove s x l else rsSwap s x l
    | some l, some _ => if l.copied = 0 then modRun s fun x => { x with leaf := none } else rsBack s l
    | none, some _ => s

def execRestripeJob (s : State) : Host.Outcome State Fault Refusal := .next (if s.minimal then s else restripeStep s)

/-- Bits [511:384] of the record as the engine writes them (R398). -/
def rsResult (x : RsRun) (e : Nat × BitVec 8 × Nat) : List Byte :=
  bytesOf 16 (1 + e.2.1.toNat * 2 ^ 32 + e.1 * 2 ^ 24 + x.donep % 2 ^ 24 * 2 ^ 40 + e.2.2 % 2 ^ 64 * 2 ^ 64)

/-- RESTRIPE_JOB_END: the record is written at sys. -/
def restripeEnd (s : State) : State :=
  match s.rsRun with
  | some x => match x.leaf, x.ending with
    | none, some e =>
      let w := engineStoreLine s 2 0 none (x.job.pa + 48) (rsResult x e)
      if w.2 then { w.1 with rsRun := none } else w.1
    | _, _ => s
  | none => s

def execRestripeJobEnd (s : State) : Host.Outcome State Fault Refusal := .next (if s.minimal then s else restripeEnd s)

end Sys2Proof.Machine
end

