-- ==== Sys2Proof/Machine/Marten.lean ====
section
/-!
DEFINITION. Machine/Marten.lean: CUTSEL and the cut engines (R406 to R424): job and graph records, the cut, residency, emission and the
end of a job.
-/
namespace Sys2Proof.Machine

/-! ## CUTSEL (R421) -/

def getMarten (s : State) (d : Nat) : Marten := tget s.martens d {}
def modMarten (s : State) (d : Nat) (f : Marten → Marten) : State := { s with martens := tset s.martens d (f (getMarten s d)) }

/-- CUTSEL: the job is queued for the engine of the region's die, which holds at most 8. -/
def execCutsel (a : BitVec 5) (s : State) : Host.Outcome State Fault Refusal := seqDo s fun r q =>
  let va := (getS q a).toNat
  let m := getMarten s (dieOf r)
  let x := getR s r
  if va % 128 ≠ 0 then seqTrap s r 0x04 (BitVec.ofNat 64 va)
  else if 8 ≤ (m.jobs.filter fun j => !j.written).length then seqWait s r
  else seqNext (modMarten s (dieOf r) fun m => { m with
    jobs := m.jobs ++ [{ id := m.nextId, addr := va, asid := asidOf x, owner := ownerOf x, region := r }], nextId := m.nextId + 1 }) r id

/-! ## The engine's accesses (R390, R422) -/

def mjReq (j : MJob) (kind : Nat) (probe : Bool) : XReq := ⟨j.asid, j.owner, true, kind, false, probe⟩

/-- A translation by the engine: its TLB of 256 entries, or a walk, which makes the engine a sharer of every line that it reads (R393,
R422). -/
def mjXlat (s : State) (die : Nat) (j : MJob) (va kind : Nat) : EngGot Xlat :=
  let q := mjReq j kind false
  match (getMarten s die).tlb.find? fun x => xlatHit x j.asid j.owner va with
  | some x => match xlatCheck s x va q with
    | some (c, l) => some (s, .error ⟨c, l, va⟩)
    | none => some (s, .ok x)
  | none => engThen (engineWalk s die va q) fun s w =>
    let x := { w.1 with leafLines := w.2 }
    some (modMarten { s with free := s.free + 1 } die fun m => { m with tlb := tlbAdd 256 m.tlb x s.free }, .ok x)

/-- The way from the engine's die to the home or the window of an address crosses a failed fabric (R456). -/
def mjFar (s : State) (die : Nat) (x : Xlat) (pa : Nat) : Bool :=
  match paClass s pa with
  | .gddr => dieFar s die ((homeOf pa x.plc).1 / 2)
  | .window w => dieFar s die w
  | _ => false

/-- A write of a job across a failed fabric is dropped and logged (R456). -/
def mjDropped (s : State) (j : MJob) (pa : Nat) : State := logPush s 2 0x0C j.owner none pa s.devid

/-- Reads n bytes line by line; `k` lines are left. -/
def mjReadLines (die : Nat) (j : MJob) : Nat → State → Nat → Nat → EngGot (List Byte)
  | 0, s, _, _ => some (s, .ok [])
  | k + 1, s, va, n =>
    if n = 0 then some (s, .ok [])
    else
      let m := Nat.min n (64 - va % 64)
      engThen (mjXlat s die j va 0) fun s x =>
        engThen (if mjFar s die x (x.pa + (va - x.va)) then some (s, .error ⟨0x0D, 0, va⟩)
          else engineLine s (x.pa + (va - x.va)) va m) fun s b =>
          engThen (mjReadLines die j k s (va + m) (n - m)) fun s r => some (s, .ok (b ++ r))

/-- n bytes of a record as a number. -/
def mjRead (s : State) (die : Nat) (j : MJob) (va n : Nat) : EngGot Nat :=
  engThen (mjReadLines die j (n / 64 + 2) s va n) fun s b => some (s, .ok (leVal b))

/-! ## Numbers of R412 -/

/-- A binary32 value. -/
def f32 (x : Nat) : FV := decodeF .fp32 x
/-- The value is finite. -/
def isFin : FV → Bool
  | .fin .. => true
  | _ => false
def nan32 : FV := decodeF .fp32 (canonNaN .fp32)

/-- One step, rounded once with .rn; an invalid one gives NaN. -/
def step32 (v : Option FV) : FV := match v with | some v => decodeF .fp32 (roundV .fp32 0 v).1 | none => nan32

/-- x × y, and x + y, exactly; a NaN operand gives none. -/
def mul? (x y : FV) : Option FV := if x.isNaN || y.isNaN then none else mulV x y
def add? (x y : FV) : Option FV := if x.isNaN || y.isNaN then none else sumV [x, y]

/-- FMA: a single rounding. -/
def fma32 (x y z : FV) : FV := step32 ((mul? x y).bind fun p => add? p z)

/-- The correctly rounded square root of a value that is not negative. -/
def sqrt32 : FV → FV
  | .fin neg m e => if m = 0 then .fin neg m e else let r := sqrtSticky 64 m e; step32 (some (.fin false r.1 r.2))
  | v => v

/-- What a group needs for Accept: its error and its sphere. -/
structure Grp where
  chfirst : Nat
  nch : Nat
  err : FV
  cfirst : Nat
  level : Nat
  ncl : Nat
  rad : FV
  c : List FV
  deriving DecidableEq, Repr, Inhabited

/-- An instance record (R410). -/
structure Inst where
  xform : Nat
  part : Nat
  bias : Int
  scl : FV
  o : List FV
  deriving DecidableEq, Repr, Inhabited

/-- A value times 2^n. -/
def scale2 (v : FV) (n : Int) : FV := match v with | .fin s m e => .fin s m (e + n) | v => v

/-- The distance of R412 of a group's sphere from the eye; none where it is too far to need detail. -/
def groupDist (j : BitVec 1024) (g : Grp) (n : Inst) : Option FV :=
  let eye := fun a => f32 (field j.toNat (447 + 32 * a) (416 + 32 * a))
  let d := fun a => step32 (add? (fma32 n.scl (g.c.getD a default) (n.o.getD a default)) (eye a).negate)
  let q := fma32 (d 2) (d 2) (fma32 (d 1) (d 1) (step32 (mul? (d 0) (d 0))))
  let near := f32 (field j.toNat 575 544)
  let v := step32 (add? (sqrt32 q) (step32 (mul? n.scl g.rad)).negate)
  if v.isNaN then none
  else
    let m := maxV v near
    if m.isInf then none else some m

/-- Accept of R412 on a group's own error. -/
def accept (j : BitVec 1024) (g : Grp) (n : Inst) : Bool :=
  match groupDist j g n with
  | none => true
  | some dist =>
    let k := f32 (field j.toNat 543 512)
    let tau := f32 (field j.toNat 607 576)
    match (mul? g.err n.scl).bind fun p => mul? p k, mul? (scale2 tau n.bias) dist with
    | some l, some r => leV l r
    | _, _ => true

/-! ## Records (R406 to R411, R420) -/

/-- How a job ends: reason, cause and FVA. -/
abbrev MEnd := Nat × BitVec 8 × Nat

/-- What ends a job, with the fault of the access. -/
abbrev MjStop := MEnd × Option EngFault

/-- What an engine computes from its records: it reads through the state, may wait, and may end its job. -/
abbrev MjM (α : Type) : Type := ExceptT MjStop (StateT State Option) α

/-- Runs such a computation as a step: nothing happens while it waits. -/
def mjRun {α : Type} (s : State) (m : MjM α) (stop : State → MjStop → State) (f : State → α → State) : State :=
  match m.run.run s with
  | none => s
  | some (.error e, s) => stop s e
  | some (.ok a, s) => f s a

/-- A read of a record of a job that has begun: a fault ends the job (R422). -/
def mjRec (die : Nat) (j : MJob) (va n : Nat) : MjM Nat := ExceptT.mk fun s =>
  match mjRead s die j va n with
  | none => none
  | some (s, .ok v) => some (.ok v, s)
  | some (s, .error f) => some (.error ((3, f.cause, f.va), some f), s)

def malformed {α : Type} : MjM α := throw ((2, 0, 0), none)

def gh (j : MJob) (hi lo : Nat) : Nat := field j.graph.toNat hi lo
def jf (j : MJob) (hi lo : Nat) : Nat := field j.rec_.toNat hi lo

/-- A finite value that is not negative; −0 counts as 0. -/
def finNonneg (v : FV) : Bool := isFin v && (!v.neg || v.isZero)
def finPos (v : FV) : Bool := isFin v && !v.neg && !v.isZero

/-- The job record is malformed (R420). -/
def jobBad (s : State) (j : MJob) : Bool :=
  let f := fun hi lo => f32 (jf j hi lo)
  let x := getR s j.region
  jf j 879 866 != 0 || jf j 639 632 != 0 || jf j 351 64 != 0 || jf j 19 0 != 0 || decide (2 ≤ jf j 41 40)
    || jf j 631 608 == 0 || !finNonneg (f 607 576) || !finPos (f 575 544) || !finPos (f 543 512)
    || !((upto 3).all fun a => isFin (f (447 + 32 * a) (416 + 32 * a)))
    || jf j 415 352 % 64 != 0 || jf j 703 640 % 32 != 0 || jf j 863 800 % 4 != 0
    || (if jf j 41 40 = 1 then jf j 767 704 % 16 != 0 else jf j 767 704 != 0)
    || (if jf j 63 63 = 1 then !siteOk x (jf j 62 58) else jf j 62 42 != 0)

/-- The graph header is malformed (R406, R411). -/
def headerBad (j : MJob) : Bool :=
  gh j 47 0 != 0 || gh j 191 160 == 0 || decide (65536 < gh j 191 160) || gh j 159 128 == 0 || decide (2 ^ 24 < gh j 159 128)
    || gh j 127 96 == 0 || decide (2 ^ 24 < gh j 127 96) || gh j 95 80 == 0
    || gh j 511 448 % 4 != 0 || gh j 447 384 % 4 != 0 || gh j 383 320 % 65536 != 0 || gh j 319 256 % 16 != 0 || gh j 255 192 % 32 != 0

/-- Group g (R407). -/
def readGroup (die : Nat) (j : MJob) (g : Nat) : MjM Grp :=
  if gh j 127 96 ≤ g then malformed
  else do
    let v ← mjRec die j (gh j 255 192 + 32 * g) 32
    let x : Grp := { chfirst := field v 255 224, nch := field v 223 208, err := decodeF .fp16 (field v 207 192),
                     cfirst := field v 191 160, level := field v 159 152, ncl := field v 133 128, rad := f32 (field v 127 96),
                     c := (upto 3).map fun a => f32 (field v (31 + 32 * a) (32 * a)) }
    if field v 151 134 != 0 || x.ncl == 0 || decide (32 < x.ncl) || decide (gh j 159 128 < x.cfirst + x.ncl)
        || decide (gh j 79 48 < x.chfirst + x.nch) || !finNonneg x.err || !finNonneg x.rad then malformed
    else pure x

/-- PARENT of a root cluster. -/
def noParent : Nat := 0xFFFFFFFF

/-- Cluster c: its PARENT and its PAGE (R408, R409). -/
def readCluster (die : Nat) (j : MJob) (c : Nat) : MjM (Nat × Nat) := do
  let v ← mjRec die j (gh j 319 256 + 16 * c) 16
  let p := field v 127 96
  let page := field v 95 80
  let last := 16 * field v 79 68 + 32 + 6 * (field v 60 54 + 1) + 4 * (field v 67 61 + 1)
  if field v 53 0 != 0 || (p != noParent && decide (gh j 127 96 ≤ p)) || decide (gh j 191 160 ≤ page) || decide (65536 < last) then malformed
  else pure (p, page)

/-- Instance n (R410). -/
def readInst (die : Nat) (j : MJob) (n : Nat) : MjM Inst := do
  let v ← mjRec die j (jf j 703 640 + 32 * n) 32
  let x : Inst := { xform := field v 239 224, part := field v 223 216, bias := sext 8 (field v 135 128), scl := f32 (field v 127 96),
                    o := (upto 3).map fun a => f32 (field v (31 + 32 * a) (32 * a)) }
  if field v 255 240 != 0 || field v 215 136 != 0 || decide (x.bias < -8) || decide (8 < x.bias) || !finPos x.scl || !x.o.all isFin then malformed
  else pure x

/-- Consecutive 32-bit indices from an address. -/
def readIndices (die : Nat) (j : MJob) (va n : Nat) : MjM (List Nat) := do
  let v ← mjRec die j va (4 * n)
  pure ((upto n).map fun i => laneOf 32 v i)

/-! ## The cut (R413, R416) -/

/-- Groups visited, groups still to visit, and selected clusters with their groups. -/
structure Visit where
  seen : List Nat
  todo : List Nat
  sel : List (Nat × Nat)
  deriving DecidableEq, Repr, Inhabited

/-- The clusters of an accepted group whose parent group is rejected. -/
def selectIn (die : Nat) (j : MJob) (n : Inst) (g : Nat) : List Nat → MjM (List (Nat × Nat))
  | [] => pure []
  | c :: cs => do
    let k ← readCluster die j c
    let sel ← if k.1 = noParent then pure true else do
      let p ← readGroup die j k.1
      pure (!accept j.rec_ p n)
    let r ← selectIn die j n g cs
    pure (if sel then (c, g) :: r else r)

/-- The visit of an instance; each group once, more than 2^20 of them end the job (R418). -/
def visit (die : Nat) (j : MJob) (n : Inst) : Nat → Visit → MjM (List (Nat × Nat))
  | 0, _ => throw ((4, 0, 0), none)
  | fuel + 1, v =>
    match v.todo with
    | [] => pure v.sel
    | g :: rest => do
      let x ← readGroup die j g
      let v := { v with seen := g :: v.seen, todo := rest }
      if accept j.rec_ x n then do
        let l ← selectIn die j n g ((upto x.ncl).map (x.cfirst + ·))
        visit die j n fuel { v with sel := v.sel ++ l }
      else do
        let ch ← if x.nch = 0 then pure [] else readIndices die j (gh j 447 384 + 4 * x.chfirst) x.nch
        let new := ch.eraseDups.filter fun c => !v.seen.contains c && !v.todo.contains c
        visit die j n fuel { v with todo := v.todo ++ new }

/-- The group that stands in for a cluster whose page is not resident: the nearest ancestor all of whose clusters have resident
pages (R416); at most 64 are tried. -/
def fallback (die : Nat) (j : MJob) : Nat → Nat → MjM (Option (Nat × Grp))
  | 0, _ => pure none
  | k + 1, a =>
    if a = noParent then pure none
    else do
      let g ← readGroup die j a
      let pages ← ((upto g.ncl).map (g.cfirst + ·)).mapM (readCluster die j)
      if pages.all fun p => j.resident.contains p.2 then pure (some (a, g))
      else fallback die j k (pages.headD (noParent, 0)).1

/-- What an instance emits, each cluster once: cluster, group and FALLBACK, and the pages that it requests. -/
def substitute (die : Nat) (j : MJob) (sel : List (Nat × Nat)) :
    List (Nat × Nat) → List (Nat × Nat × Bool) × List Nat → MjM (List (Nat × Nat × Bool) × List Nat)
  | [], acc => pure acc
  | (c, g) :: rest, (out, req) => do
    let k ← readCluster die j c
    if j.resident.contains k.2 then substitute die j sel rest (if out.any fun o => o.1 == c then out else out ++ [(c, g, false)], req)
    else do
      let f ← fallback die j 64 k.1
      let add := match f with
        | none => []
        | some (a, x) => ((upto x.ncl).map (x.cfirst + ·)).filterMap fun d =>
            if out.any (fun o => o.1 == d) || sel.any (fun o => o.1 == d) then none else some (d, a, true)
      substitute die j sel rest (out ++ add, if req.contains k.2 then req else req ++ [k.2])

/-- The payload of a cluster token (R419). -/
def clusterToken (x : Inst) (n c p : Nat) (g : Grp) (fb : Bool) : Nat :=
  c + n % 2 ^ 24 * 2 ^ 32 + g.level * 2 ^ 56 + x.xform * 2 ^ 64 + (if fb then 2 ^ 80 else 0)
    + (if p = noParent then 2 ^ 81 else 0) + (if g.err.isZero then 2 ^ 82 else 0)

/-- Insertion in ascending order of clusters. -/
def insertTok (x : Nat × Nat × Bool) : List (Nat × Nat × Bool) → List (Nat × Nat × Bool)
  | [] => [x]
  | y :: r => if x.1 ≤ y.1 then x :: y :: r else y :: insertTok x r

/-- The tokens of an instance, in order, with its partition, and the pages that it requests (R416 to R418). -/
def cutTokens (die : Nat) (j : MJob) (n : Nat) : MjM (List (Nat × Nat) × List Nat) := do
  let x ← readInst die j n
  let roots ← readIndices die j (gh j 511 448) (gh j 95 80)
  let sel ← visit die j x (2 ^ 20 + 1) ⟨[], roots.eraseDups, []⟩
  let r ← substitute die j sel sel ([], [])
  let out := r.1.foldl (fun l t => insertTok t l) []
  if 65536 < out.length then throw ((4, 0, 0), none)
  else do
    let toks ← out.mapM fun t => do
      let g ← readGroup die j t.2.1
      let k ← readCluster die j t.1
      pure (clusterToken x n t.1 k.1 g t.2.2, x.part)
    pure (toks, r.2)

/-! ## Jobs (R415, R421 to R423) -/

def findJob (s : State) (die id : Nat) : Option MJob := (getMarten s die).jobs.find? fun j => j.id == id
def modJob (s : State) (die id : Nat) (f : MJob → MJob) : State :=
  modMarten s die fun m => { m with jobs := m.jobs.map fun j => if j.id = id then f j else j }
def dropJob (s : State) (die id : Nat) : State := modMarten s die fun m => { m with jobs := m.jobs.filter fun j => j.id != id }

/-- A fault posts its record to the queue of the issuing region (R404). -/
def mjPost (s : State) (j : MJob) (f : Option EngFault) (kind : Nat) : State :=
  match f with
  | some f => enginePost s j.region f j.asid kind 6 0
  | none => s

/-- The job ends; after a fault it sends no token that it still held back (R422). -/
def mjEnd (s : State) (die : Nat) (j : MJob) (e : MjStop) : State :=
  modJob (mjPost s j e.2 0) die j.id fun j => { j with ending := some e.1, todo := if e.1.1 = 3 then [] else j.todo }

/-- The job record cannot be read or written: the issuing region's sequencer traps, and the job ends without a record (R422). -/
def mjLost (s : State) (die : Nat) (j : MJob) (f : EngFault) (kind : Nat) : State :=
  raiseAsync (dropJob (mjPost s j (some f) kind) die j.id) j.region 6 f.cause 5 (BitVec.ofNat 64 f.va)

/-- Residency snapshot (R415): the pages of a list whose probes end in a leaf that is resident. -/
def snapshot (die : Nat) (j : MJob) : List Nat → State → Option (State × List Nat)
  | [], s => some (s, [])
  | p :: ps, s => match engineXlat s die (gh j 383 320 + 65536 * p) (mjReq j 0 true) with
    | none => none
    | some (s, g) =>
      let ok := match g with | .ok x => !pteBit x.pte 10 | .error _ => false
      (snapshot die j ps s).map fun a => (a.1, if ok then p :: a.2 else a.2)

/-- The header of a job's graph, checked, and the snapshot. -/
def readGraph (die : Nat) (j : MJob) : MjM MJob := do
  let v ← mjRec die j (jf j 415 352) 64
  let j := { j with graph := BitVec.ofNat 512 v }
  if headerBad j then malformed
  else ExceptT.mk fun s => (snapshot die j (upto (gh j 191 160)) s).map fun a => (.ok { j with resident := a.2 }, a.1)

/-- What a job does at its start, after its record: its checks, its ring, the header and the snapshot; nothing while a read waits. -/
def beginJob (s : State) (die : Nat) (j : MJob) : State :=
  let d := ringDesc s (jobDie j) (jobRing j)
  let refuse := jf j 41 40 == 0 && (ringNcons d == 0 || ringPb d || ringOwner d != j.owner)
  let put := fun (s : State) (j : MJob) => modJob s die j.id fun _ => j
  if jobBad s j then mjEnd (put s j) die j ((1, 0, 0), none)
  else if refuse then mjEnd (put s j) die j ((5, 0, 0), none)
  else
    let ring := jf j 41 40 == 0
    let start := fun (s : State) (j : MJob) =>
      put (if ring then setRingDesc s (jobDie j) (jobRing j) (ringPut d 79 79 1) else s) { j with pb := ring }
    match (readGraph die j).run.run s with
    | none => s
    | some (.error e, s) => mjEnd (start s j) die j e
    | some (.ok k, s) => start s k

/-- MARTEN_JOB_START: the next job of the queue starts, while fewer than four run. -/
def martenStart (s : State) (die : Nat) : State :=
  let m := getMarten s die
  if 4 ≤ (m.jobs.filter fun j => j.started && !j.written).length then s
  else match m.jobs.find? fun j => !j.started with
    | none => s
    | some j => engStep s (mjRead s die j j.addr 128) (fun s f => mjLost s die j f 0) fun s v =>
        beginJob s die { j with started := true, rec_ := BitVec.ofNat 1024 v }

def execMartenJobStart (die : Nat) (s : State) : Host.Outcome State Fault Refusal :=
  withUnit (decide (die < Config.dies)) s fun s => martenStart s die

/-- Instances still to visit. -/
def moreInst (j : MJob) : Bool := j.ending.isNone && decide (j.inst < jf j 631 608)

/-- Tokens that the job must have found before it sends one: with EOW, whether a token is the last must be known. -/
def tokensAhead (j : MJob) : Nat := if jf j 41 40 = 0 ∧ jf j 39 39 = 1 then 2 else 1

/-- The ring of the job takes a token: it has room, or the token is dropped on its way (R456). -/
def ringTakes (s : State) (die : Nat) (j : MJob) : Bool :=
  dieFar s die (jobDie j) || !ringFull (ringDesc s (jobDie j) (jobRing j))

/-- The job has a token that it may send now: it is known whether the token is the last, and its ring has room. -/
def tokenReady (s : State) (die : Nat) (j : MJob) : Bool :=
  j.started && j.todo != [] && (decide (tokensAhead j ≤ j.todo.length) || !moreInst j)
    && (jf j 41 40 == 1 || ringTakes s die j)

/-- The job whose turn it is (R422): the next in number after the last that sent a token. -/
def jobTurn (s : State) (die : Nat) : Option Nat :=
  let m := getMarten s die
  let l := (m.jobs.filter (tokenReady s die)).map (·.id)
  match l.find? fun i => decide (m.lastEmit < i) with
  | some i => some i
  | none => l.head?

/-- The next instance is visited. -/
def visitNext (s : State) (die : Nat) (j : MJob) : State :=
  mjRun s (cutTokens die j j.inst) (fun s e => mjEnd s die j e) fun s w => modJob s die j.id fun j => { j with
    inst := j.inst + 1, todo := j.todo ++ w.1, requested := j.requested ++ w.2.filter fun x => !j.requested.contains x }

/-- The token has gone. -/
def sentToken (s : State) (die : Nat) (j : MJob) : State :=
  modMarten (modJob s die j.id fun j => { j with todo := j.todo.drop 1, ntok := j.ntok + 1 }) die fun m => { m with lastEmit := j.id }

/-- The check of a ring before each token (R423). -/
def ringRefused (j : MJob) (d : BitVec 512) : Bool :=
  ringNcons d == 0 || decide (8 < ringNcons d) || decide (ringLog2 d < 4) || decide (16 < ringLog2 d) || ringOwner d != j.owner

/-- The job stops: nothing more is sent. -/
def stopJob (s : State) (die : Nat) (j : MJob) (e : MEnd) (f : Option EngFault) (kind : Nat) : State :=
  modJob (mjPost s j f kind) die j.id fun j => { j with todo := [], ending := some (match j.ending with | some x => if x.1 = 0 then e else x | none => e) }

/-- A token goes to the job's ring. -/
def jobPush (s : State) (die : Nat) (j : MJob) (t : Token) : State :=
  let d := ringDesc s (jobDie j) (jobRing j)
  if dieFar s die (jobDie j) then mjDropped s j (ringEntryAddr d (ringWr d) + s.devid * 2 ^ 47) else ringPush s (jobDie j) (jobRing j) t

/-- Sends the head token to a ring. -/
def emitRing (s : State) (die : Nat) (j : MJob) (pay : Nat) : State :=
  let d := ringDesc s (jobDie j) (jobRing j)
  if ringRefused j d then stopJob s die j (5, 0, 0) none 0
  else
    let eow := jf j 39 39 == 1 && j.todo.length == 1 && !moreInst j
    sentToken (jobPush s die j ⟨mkSide 0 0 eow 0 (jf j 38 34), BitVec.ofNat 128 pay⟩) die j

/-- Number of an engine's writes by a job. -/
def jobTag (die : Nat) (j : MJob) : Nat := 2 ^ 16 * (die + 1) + j.id

/-- A write of the job (R422): what follows a fault, and what follows once it is done. -/
def jobWrite (s : State) (die : Nat) (j : MJob) (va : Nat) (bs : List Byte) (fault : State → EngFault → State) (f : State → State) : State :=
  engStep s (mjXlat s die j va 1) fault fun s x =>
    if mjFar s die x (x.pa + (va - x.va)) then f (mjDropped s j (x.pa + (va - x.va)))
    else
    let w := engineStoreLine s (jobTag die j) j.owner none (x.pa + (va - x.va)) bs
    if w.2 then f w.1 else w.1

/-- Sends the head token to its build buffer. -/
def emitBuild (s : State) (die : Nat) (j : MJob) (pay part : Nat) : State :=
  mjRun s (mjRec die j (jf j 767 704 + 16 * part) 16) (fun s e => stopJob s die j e.1 e.2 0) fun s v =>
    let k := tget j.counts part 0
    let count := fun (s : State) => modJob s die j.id fun j => { j with counts := tset j.counts part (k + 1) }
    if field v 95 64 ≤ k then sentToken (modJob (count s) die j.id fun j => { j with ovf := true }) die j
    else jobWrite s die j (field v 63 0 + 16 * k) (bytesOf 16 pay) (fun s f => stopJob s die j (3, f.cause, f.va) (some f) 1) fun s =>
      sentToken (count s) die j

/-- MARTEN_TOKEN_EMIT. -/
def martenEmit (s : State) (die id : Nat) : State :=
  match findJob s die id with
  | none => s
  | some j =>
    if !j.started then s
    else if moreInst j && decide (j.todo.length < tokensAhead j) then visitNext s die j
    else match j.todo with
      | [] => s
      | (pay, part) :: _ =>
        if jobTurn s die ≠ some id then s
        else if jf j 41 40 = 1 then emitBuild s die j pay part else emitRing s die j pay

def execMartenTokenEmit (die id : Nat) (s : State) : Host.Outcome State Fault Refusal :=
  withUnit (decide (die < Config.dies)) s fun s => martenEmit s die id

/-! ## The end of a job (R417, R423, R424) -/

/-- Insertion in ascending order. -/
def insertNat (x : Nat) : List Nat → List Nat
  | [] => [x]
  | y :: r => if x ≤ y then x :: y :: r else y :: insertNat x r

/-- The array writes of a job that has ended, in order: the feedback array, then COUNT of every partition. -/
def endWrites (j : MJob) : List (Nat × Nat) :=
  let reason := match j.ending with | some e => e.1 | none => 0
  if reason = 1 ∨ reason = 3 then []
  else
    let pages := (j.requested.foldl (fun l p => insertNat p l) []).take (jf j 799 768)
    (pages.zipIdx.map fun p => (jf j 863 800 + 4 * p.2, p.1))
      ++ (if jf j 41 40 = 1 then (upto 256).map fun p => (jf j 767 704 + 16 * p + 12, tget j.counts p 0) else [])

/-- Bits FVA to DONE of the record. -/
def jobResult (j : MJob) : List Byte :=
  let e := j.ending.getD (0, 0, 0)
  bytesOf 20 (1 + (if j.ovf then 2 else 0) + e.2.1.toNat * 2 ^ 16 + e.1 * 2 ^ 24 + j.requested.length % 2 ^ 32 * 2 ^ 32
    + j.ntok % 2 ^ 32 * 2 ^ 64 + e.2.2 % 2 ^ 64 * 2 ^ 96)

/-- The ring is given up. -/
def jobClearPb (s : State) (j : MJob) : State :=
  if j.pb then setRingDesc s (jobDie j) (jobRing j) (ringPut (ringDesc s (jobDie j) (jobRing j)) 79 79 0) else s

/-- The arrival of a job whose record is written (R424): at the port of the barrier, or dropped and logged. -/
def jobArrive (s : State) (die : Nat) (j : MJob) : State :=
  let reason := (j.ending.getD (0, 0, 0)).1
  let key := ekey j.region (jf j 62 58) (jf j 57 54)
  let off := 16 * jf j 53 42
  let gone := fun (s : State) => dropJob s die j.id
  let drop := fun (s : State) (c : BitVec 8) =>
    logPush (gone s) 4 c j.owner (some j.region) (jf j 62 58 * 2 ^ 20 + jf j 57 54 * 2 ^ 16 + off) j.addr
  let refuse := fun (s : State) => raiseAsync (drop s 0x05) j.region 6 0x05 5 0
  if jf j 63 63 = 0 ∨ reason = 1 then gone s
  else if ownerOf (getR s j.region) ≠ j.owner then drop s 0x0A
  else if spadSize (getR s j.region) ≤ off ∨ isSealed (getE s key) off then usePort s key martenPortNo refuse
  else match portUpdate s key off (.marten die j.id) martenPortNo fun e => barrierUpdate e off 1 0 with
    | .refused s => refuse s
    | .wait s => s
    | .done s => gone s

/-- The final writes one by one; a fault ends them (R422). -/
def jobWrites (s : State) (die : Nat) (j : MJob) : State :=
  match (endWrites j)[j.stage]? with
  | some w => jobWrite s die j w.1 (bytesOf 4 w.2)
      (fun s f =>
        let e := (3, f.cause, f.va)
        modJob (mjPost s j (some f) 1) die j.id fun j => { j with
          stage := 2 ^ 32, ending := some (match j.ending with | some x => if x.1 = 0 then e else x | none => e) })
      fun s => modJob s die j.id fun j => { j with stage := j.stage + 1 }
  | none => jobWrite s die j (j.addr + 108) (jobResult j) (fun s f => mjLost (jobClearPb s j) die j f 1) fun s =>
      modJob (jobClearPb s j) die j.id fun j => { j with written := true }

/-- The job writes an end-of-wave marker before it ends: EOW with no token sent, but for a job that a fault or its ring has ended
(R422, R423). -/
def wantsMarker (j : MJob) : Bool :=
  let reason := (j.ending.getD (0, 0, 0)).1
  j.pb && jf j 39 39 == 1 && j.ntok == 0 && !j.marker && reason != 3 && reason != 5

/-- MARTEN_JOB_END: a job with nothing left to visit or send ends; one without a token writes its marker first. -/
def martenEnd (s : State) (die id : Nat) : State :=
  match findJob s die id with
  | none => s
  | some j =>
    if j.written then jobArrive s die j
    else if !j.started || moreInst j || j.todo != [] then s
    else if j.ending = none then modJob s die id fun j => { j with ending := some (0, 0, 0) }
    else if wantsMarker j then
      let d := ringDesc s (jobDie j) (jobRing j)
      let mark := fun s => modJob s die id fun j => { j with marker := true }
      if ringRefused j d then mark (stopJob s die j (5, 0, 0) none 0)
      else if !ringTakes s die j then s
      else mark (jobPush s die j marker)
    else jobWrites s die j

def execMartenJobEnd (die id : Nat) (s : State) : Host.Outcome State Fault Refusal :=
  withUnit (decide (die < Config.dies)) s fun s => martenEnd s die id

end Sys2Proof.Machine
end

