-- ==== Sys2Proof/Machine/Invalidate.lean ====
section
/-!
DEFINITION. Machine/Invalidate.lean: a translation invalidation at a region or at a Marten (R276, R369, R393, R394).
-/
namespace Sys2Proof.Machine

/-- Die of a translation sharer: a region, or the Marten of die d as 64 + d. -/
def sharerDie (r : Nat) : Nat := if r < 64 then dieOf r else r - 64

/-- The removals of R393: entries of every TLB, of the walk cache and of the pumps' latches that derive from the line; a walk that has read it
reads it again. -/
def dropXlats (s : State) (r ln : Nat) : State :=
  if 64 ≤ r then
    { s with martens := tmap (fun d m => if d = r - 64 then { m with tlb := m.tlb.filter fun x => !x.leafLines.contains ln } else m) s.martens }
  else
    let x := getR s r
    let keep := fun (t : Xlat) => !xlatDerived x ln t
    let s := setR s r { x with
      tlb := x.tlb.filter keep
      walkCache := x.walkCache.filter fun w => w.line != ln && !x.walkRec.contains ⟨ln, some w.root⟩
      walks := x.walks.map fun w => { w with got := terase w.got ln, fin := false }
      pumps := tmap (fun _ p => { p with latches := p.latches.filter fun l => keep l.2 }) x.pumps }
    { s with elems := tmap (fun k e => if keyRegion k = r then { e with tlb := e.tlb.filter keep } else e) s.elems
             acks := s.acks.filter fun a => match a.tag with | .walk q .. => !(q == r && a.line == ln) | _ => true }

/-- A translation in use derives from the line and does not reach the line itself, whose access the home serves. -/
def usesOld (x : Region) (ln : Nat) (t : Option Xlat) (va : Nat) : Bool :=
  match t with
  | some t => xlatDerived x ln t && lineNo (t.pa + (va - t.va)) != ln
  | none => false

/-- An access issued under a removed translation has not finished (R393): of an element, a pump, the sequencer or an island. -/
def oldAccess (s : State) (r ln : Nat) : Bool :=
  let x := getR s r
  (s.elems.any fun p => keyRegion p.1 == r && p.2.accs.any fun a =>
      a.fault.isNone && a.lanes.any fun l => l.got.isNone && !l.skip && usesOld x ln l.xlat l.addr)
    || (x.pumps.any fun p => p.2.accs.any fun a => !a.complete && usesOld x ln a.xlat a.p.addr)
    || (x.seq.stores.any fun w => usesOld x ln (some w.xlat) (w.xlat.va + (w.pa - w.xlat.pa)))
    || (match x.seq.inUse with | some (t, va) => usesOld x ln (some t) va | none => false)
    || x.islands.any fun p => p.2.runs.any fun u => u.tiles.any fun t => match t.2.xlat with
        | some t => usesOld x ln (some t) t.va
        | none => false

/-- One past the number of the last narrow write that the region's buffer holds under a removed translation; 0 for none. -/
def oldWrites (x : Region) (ln : Nat) : Nat :=
  x.wcb.foldl (fun n w => if w.line != ln && w.via.any (viaDerived x ln) then Nat.max n (w.last + 1) else n) 0

/-- Narrow writes made under removed translations are published, and what stands dirty in the die's cistern reaches its homes (R351,
R393). Lines that await an invalidation of their own are passed over (log 8). Whether it is done. -/
def publishOld (s : State) (r ln : Nat) : State × Bool :=
  let die := sharerDie r
  let pass := fun (w : Narrow) => w.line == ln || (getDir s w.line).ts != 0
  let p := publishDie s die (oldWrites (getR s r) ln) pass
  if !p.2 then p
  else ((getCist p.1 die).lines.filter fun c => c.2.dirty != 0 && !peerLine c.1).foldl
    (fun (a : State × Bool) c => if !a.2 then a
      else
        let b := publishDie a.1 die (c.2.last + 1) fun w => pass w || inCistern c.1 w
        if b.2 then (settle (recallLine b.1 c.1) c.1, true) else b) p

/-- The region acknowledges to its cistern; the last of the die's regions lets the cistern acknowledge to the home, which
clears TS (R369). -/
def ackInvalidation (s : State) (r ln : Nat) : State :=
  let die := sharerDie r
  let s := modCist s die fun c => { c with walkers := c.walkers.filter (· != (ln, r)) }
  if (getCist s die).walkers.any fun p => p.1 == ln then s
  else
    let s := modDir s ln fun d => { d with ts := d.ts &&& ~~~ bit4 die }
    let h := getHome s ln
    match h.tx with
    | none => s
    | some t =>
      let t := { t with tinv := t.tinv.filter (· != die) }
      let s := setHome s ln { h with tx := some t }
      if t.req.kind = .recall then recallOver s ln else if t.pubs = [] then settle s ln else s

/-- TRANSLATION_INVALIDATION: the entries go at once; the acknowledgement waits for the accesses made under them. A region
that has not read the line acknowledges for a die none of whose regions has. -/
def invalidate (s : State) (r ln : Nat) : State :=
  let die := sharerDie r
  if !invalidating s die ln then s
  else
    let rec_ := (getCist s die).walkers
    if (rec_.any fun p => p.1 == ln) && !rec_.contains (ln, r) then s
    else
      let s := dropXlats s r ln
      if 64 ≤ r then ackInvalidation s r ln
      else if oldAccess s r ln then s
      else
        let p := publishOld s r ln
        if !p.2 then p.1
        else modR (ackInvalidation p.1 r ln) r fun x => { x with walkRec := x.walkRec.filter fun w => w.line != ln }

def execTranslationInvalidation (r ln : Nat) (s : State) : Host.Outcome State Fault Refusal :=
  withUnit (decide (r < 64 + Config.dies)) s fun s => invalidate s r ln

end Sys2Proof.Machine
end

