-- ==== Sys2Proof/Machine/Stoat.lean ====
section
/-!
DEFINITION. Machine/Stoat.lean: actor tables, sampling, growth and drain of instances, and PLACE (R329 to R338).
-/
namespace Sys2Proof.Machine

/-! ## Actor tables (R329, R330) -/

def actTmpl (e : BitVec 256) : Nat := (e.extractLsb' 192 64).toNat
def actPos (e : BitVec 256) : Nat := (e.extractLsb' 160 20).toNat
def actPort (e : BitVec 256) : Nat := (e.extractLsb' 148 4).toNat
def actHigh (e : BitVec 256) : Nat := (e.extractLsb' 112 16).toNat
def actLow (e : BitVec 256) : Nat := (e.extractLsb' 96 16).toNat
def actMax (e : BitVec 256) : Nat := (e.extractLsb' 85 5).toNat
def actMin (e : BitVec 256) : Nat := (e.extractLsb' 80 5).toNat

/-- An entry fails with cause 0x02. -/
def actBad (e : BitVec 256) : Bool :=
  e.extractLsb' 180 12 != 0 || e.extractLsb' 152 8 != 0 || e.extractLsb' 128 20 != 0 || e.extractLsb' 90 6 != 0 || e.extractLsb' 0 80 != 0
    || decide (actHigh e ≤ actLow e) || decide (actMax e < actMin e) || actMin e == 0 || decide (20 < actMax e)
    || decide (popCount (actPos e) 20 < actMin e ∨ actMax e < popCount (actPos e) 20)

/-- Two entries share a port or a position. -/
def actShared : List (BitVec 256) → Bool
  | [] => false
  | e :: r => (r.any fun f => actPort e == actPort f || actPos e &&& actPos f != 0) || actShared r

/-- The region as a template is checked in it: its own position, and no other, is mapped to an enabled site. -/
def tmplRegion (x : Region) (p : Nat) : Region :=
  let st := ((upto 20).find? (siteOk x)).getD 0
  { x with seq := { x.seq with cfgmap := [(p / 8, BitVec.ofNat 64 ((0x80 + st) * 2 ^ (8 * (p % 8))))] } }

/-- Check of a template (R330): the words of its elements by number. -/
def checkTmpl (x : Region) (bs : List Byte) : Except ImgFail (Table (List (BitVec 64))) :=
  match checkImage (tmplRegion x (imgPos (leVal (bs.take 16)))) bs none [] with
  | .error f => .error { f with site := 0 }
  | .ok (_, out, _) => .ok (out.map fun p => (p.1 % 16, p.2))

/-- The template's words as they are installed on a site: records that name its own position name the site. -/
def tmplWords (st : Nat) (ws : List (BitVec 64)) : List (BitVec 64) :=
  ws.zipIdx.map fun p =>
    let i := p.2
    let space2 := (ws.getD (i + 2) 0).extractLsb' 53 2 == 2
    if 30 ≤ i ∧ (i - 30) % 4 = 0 ∧ i < 62 ∧ space2 then BitVec.ofNat 64 (putField p.1.toNat 24 20 st) else p.1

/-- The actor states with which a table begins: live instances are the sites that CFGMAP gives for POS (R331). -/
def initialActor (x : Region) (e : BitVec 256) (t : Table (List (BitVec 64))) : ActorState :=
  ⟨e, t, (upto 20).filter fun st => (upto 20).any fun p => (actPos e).testBit p && cfgSite x.seq p == some st, 0, 0⟩

/-- Reads and checks the templates of the entries in order, then goes on with the actor states. -/
def placeTmpls (r : Nat) (f : State → List ActorState → State) : List (BitVec 256) → State → List ActorState → State
  | [], s, acc => f s acc
  | e :: es, s, acc =>
    if actTmpl e % 16 ≠ 0 then seqTrap s r 0x04 (BitVec.ofNat 64 (actTmpl e))
    else ((seqImage s r (actTmpl e)).issued r).then r fun s bs =>
      match checkTmpl (getR s r) bs with
      | .error f => rejectImage s r f
      | .ok t => placeTmpls r f es s (acc ++ [initialActor (getR s r) e t])

/-- Attaches a table to the newest pending load, or to the current load (R338). -/
def attachTable (s : State) (r : Nat) (t : List ActorState) : State :=
  match (getSeq s r).loads.getLast? with
  | some l =>
    if l.installed = [] then modR s r fun x => { x with stoat := { x.stoat with pending := tset x.stoat.pending l.id t } }
    else stoatEffect s r (some t)
  | none => stoatEffect s r (some t)

/-! ## PLACE (R337, R338) -/

/-- PLACE, the bind form. -/
def execPlace (a : BitVec 5) : Meaning := fun s => seqPriv s fun r q =>
  let va := (getS q a).toNat
  if va % 32 ≠ 0 then seqTrap s r 0x04 (getS q a)
  else ((seqRecord s r va 32).issued r).then r fun s h =>
    let n := leVal h
    if n = 0 ∨ 8 < n then seqTrap s r 0x02 0
    else ((seqRecord s r (va + 32) (32 * n)).issued r).then r fun s b =>
      let es := (upto n).map fun j => BitVec.ofNat 256 (leVal ((b.drop (32 * j)).take 32))
      if es.any actBad || actShared es then seqTrap s r 0x02 0
      else placeTmpls r (fun s t => seqNext (attachTable s r t) r id) es s []

def setFrozen (s : State) (r : Nat) (v : Bool) : State := modR s r fun x => { x with stoat := { x.stoat with frozen := v } }

/-- PLACE_FRZ and PLACE_THAW. -/
def execPlaceFrz : Meaning := fun s => seqPriv s fun r _ => seqNext (setFrozen s r true) r id
def execPlaceThaw : Meaning := fun s => seqPriv s fun r _ => seqNext (setFrozen s r false) r id

/-- The status of Stoat (R338). -/
def stoatStatus (t : Stoat) : Nat :=
  (if t.frozen then 2 ^ 40 else 0)
    + match t.actors with
      | none => 0
      | some l => 2 ^ 41 + packLanes 5 (l.map (·.live.length))

/-- PLACE_ST. -/
def execPlaceSt (d : BitVec 5) : Meaning := fun s => seqPriv s fun r _ => seqPut s r d (BitVec.ofNat 64 (stoatStatus (getR s r).stoat))

/-! ## Sampling (R333) -/

/-- The backlog of an actor's deal ring: WR − RDj. -/
def backlog (s : State) (r : Nat) (a : ActorState) : Nat :=
  let b := spOf s r (actPort a.entry)
  let d := ringDesc s (spDie b) (spRing b)
  if spEnabled b && !spOut b then (ringWr d + 2 ^ 32 - ringRd d (spCons b)) % 2 ^ 32 else 0

/-- One sample of an actor. -/
def sampleActor (s : State) (r : Nat) (a : ActorState) : ActorState :=
  let b := backlog s r a
  { a with high := if actHigh a.entry < b then a.high + 1 else 0, low := if b ≤ actLow a.entry then a.low + 1 else 0 }

/-! ## Growth and drain (R334, R335) -/

/-- An element of a free site. -/
def elemFree (e : Elem) : Bool :=
  e.st == .idle || (e.slots.all (fun p => !p.2.getLsbD 63) && (upto 6).all fun k => liveRoutes e k == [])

/-- A site is free: enabled, with every element Idle or empty; the sites of live and changing instances are not (log 24). -/
def siteFree (s : State) (r st : Nat) : Bool :=
  let x := getR s r
  let t := x.stoat
  siteOk x st && (siteKeys r st).all (fun k => elemFree (getE s k))
    && !(match t.actors with | some l => l.any fun a => a.live.contains st | none => false)
    && !(t.drains.any fun d => d.1 == st) && !(match t.grow with | some (_, g, _) => g == st | none => false)

/-- Sites of a region that are free. -/
def freeSites (s : State) (r : Nat) : List Nat := (upto 20).filter (siteFree s r)

/-- Actor j may grow. -/
def mayGrow (s : State) (r : Nat) (a : ActorState) : Bool :=
  let x := getR s r
  decide (2 ≤ a.high) && decide (a.live.length < actMax a.entry) && freeSites s r != [] && !x.stoat.frozen && x.stoat.grow.isNone
    && !(tget x.ports (actPort a.entry) {}).eowPassed

/-- Actor j may shrink. -/
def mayShrink (x : Region) (a : ActorState) : Bool := decide (4 ≤ a.low) && decide (actMin a.entry < a.live.length) && !x.stoat.frozen

def modActor (s : State) (r j : Nat) (f : ActorState → ActorState) : State :=
  modR s r fun x => { x with stoat := { x.stoat with actors := x.stoat.actors.map fun l => l.zipIdx.map fun p => if p.2 = j then f p.1 else p.1 } }

/-- Begins to install the template of actor j on the lowest free site. -/
def startGrow (s : State) (r j : Nat) : State :=
  match freeSites s r with
  | [] => s
  | st :: _ => modR (modActor s r j fun a => { a with high := 0 }) r fun x =>
      { x with stoat := { x.stoat with grow := some (j, st, x.cycle + 62) } }

/-- Begins to drain the live instance of actor j on the highest site: the marker of its drain is the only one that its port still
deals it (R335). -/
def startShrink (s : State) (r j : Nat) (a : ActorState) : State :=
  let st := a.live.foldl Nat.max 0
  let n := actPort a.entry
  modR (modActor s r j fun a => { a with live := a.live.filter (· != st), low := 0 }) r fun x =>
    { x with ports := tset x.ports n { tget x.ports n {} with dealLeft := (tget x.ports n {}).dealLeft.filter (· != st) }
             stoat := { x.stoat with drains := x.stoat.drains ++ [(st, n, false)] } }

/-- The first actor from number j on that qualifies changes. -/
def stoatChange (s : State) (r : Nat) : List ActorState → Nat → State
  | [], _ => s
  | a :: l, j =>
    if mayGrow s r a then startGrow s r j
    else if mayShrink (getR s r) a then startShrink s r j a
    else stoatChange s r l (j + 1)

/-- A sample and at most one change (R333, R334); neither while the region is pre-empted (R336). -/
def stoatSample (s : State) (r : Nat) : State :=
  let x := getR s r
  match x.stoat.actors with
  | none => s
  | some l =>
    if !acting x then s
    else
      let l := l.map (sampleActor s r)
      stoatChange (setR s r { x with stoat := { x.stoat with actors := some l } }) r l 0

/-- STOAT_SAMPLE: the clock of the region takes it in every 4,096th cycle. -/
def execStoatSample (r : Nat) : Meaning := fun s => withUnit (regionOk r) s fun s => stoatSample s r

/-- Ascending insertion. -/
def insertAsc (n : Nat) : List Nat → List Nat
  | [] => [n]
  | x :: l => if n < x then n :: x :: l else if n = x then x :: l else x :: insertAsc n l

/-- STOAT_GROW_COMPLETE: the template is installed and the site joins the live set. -/
def growComplete (s : State) (r : Nat) : State :=
  let x := getR s r
  match x.stoat.grow, x.stoat.actors with
  | some (j, st, c), some l =>
    if x.cycle < c ∨ !acting x then s
    else match l[j]? with
    | none => s
    | some a =>
      let s := (siteKeys r st).foldl (fun s k =>
        if elemFree (getE s k) then install s k (tmplWords st (tget a.tmpl (k % 16) [])) .running else s) s
      let s := modActor s r j fun a => { a with live := insertAsc st a.live }
      rebind (modR s r fun x => { x with stoat := { x.stoat with grow := none } }) r
  | _, _ => s

def execStoatGrowComplete (r : Nat) : Meaning := fun s => withUnit (regionOk r) s fun s => growComplete s r

/-- An element of a drained instance is at its end: Idle, or Reconfiguring with no pending load to install. -/
def elemDrained (x : Region) (key : Nat) (e : Elem) : Bool :=
  e.st == .idle || (e.st == .reconfiguring && e.installing.isNone && (nextLoad x.seq key).isNone)

/-- STOAT_DRAIN_CLEAR: the elements of a drained instance take the all-zero configuration and the site is free. -/
def drainClear (s : State) (r st : Nat) : State :=
  let x := getR s r
  if acting x && (x.stoat.drains.any fun d => d.1 == st && d.2.2) && (siteKeys r st).all fun k => elemDrained x k (getE s k) then
    let s := (siteKeys r st).foldl (fun s k => install s k [] .idle) s
    rebind (modR s r fun x => { x with stoat := { x.stoat with drains := x.stoat.drains.filter fun d => d.1 != st } }) r
  else s

def execStoatDrainClear (r st : Nat) : Meaning := fun s =>
  withUnit (regionOk r && siteOk (getR s r) st) s fun s => drainClear s r st

end Sys2Proof.Machine
end

