-- ==== Sys2Proof/Machine/Preempt.lean ====
section
/-!
DEFINITION. Machine/Preempt.lean: the stop of a region, the save area and the restore (R447 to R454, R504).
-/
namespace Sys2Proof.Machine

/-! ## Stopping (R447) -/

/-- An element is at its boundary. -/
def atBoundary (x : Region) (e : Elem) : Bool := e.st != .running || decide (e.busy ≤ x.cycle)

/-- An element that stops: what runs, drains or installs enters Frozen (R120). -/
def freeze (e : Elem) : Elem :=
  match e.st with
  | .running | .draining | .reconfiguring => { e with st := .frozen, frozen := e.st }
  | _ => e

/-- REGION_HALTED: every unit has stopped; a waiting instruction is abandoned (R282). -/
def regionHalted (s : State) (r : Nat) : State :=
  let x := getR s r
  if x.rstate = .stopping ∧ !x.seq.asked ∧ (elemKeys x r).all fun k => atBoundary x (getE s k) then
    let s := { s with elems := tmap (fun k e => if keyRegion k = r then freeze e else e) s.elems }
    modR s r fun x => { x with rstate := .saving, seq := { dropWait x.seq with exiting := false } }
  else s

def execRegionHalted (r : Nat) (s : State) : Host.Outcome State Fault Refusal := withUnit (regionOk r) s fun s => regionHalted s r

/-! ## What settles before a save (R450) -/

/-- An access that a pre-emption cancels and the restore reissues: a waiting LDF or STF, or a TSYNC. -/
def cancellable (a : Access) : Bool :=
  a.fault.isNone && match a.kind with | .ldf _ | .stf => a.parked | .tsync => true | _ => false

/-- An update that has reached its barrier's port waits there, behind another or for room in the notify queue (R215). -/
def updateStuck (s : State) (key off darr dsec : Nat) (src : UpdFrom) : Bool :=
  (getE s key).held.any (fun h => h.src == src)
    && (updAhead s key off src || match barrierUpdate (getE s key) off darr dsec with | .waits => true | _ => false)

/-- An access that fires before number n will be cancelled. -/
def waitsForCancelled (e : Elem) (n : Nat) : Bool := e.accs.any fun b => decide (b.id < n) && cancellable b

/-- An access of an element does not move any more: it will be cancelled or has failed, its arrival waits at a port, or it follows an
access that will be cancelled. -/
def accSettled (s : State) (key : Nat) (e : Elem) (a : Access) : Bool :=
  cancellable a || a.fault.isSome
    || (a.kind == .arrive && (if a.sentOff then updateStuck s a.target a.addr 1 0 (.acc key a.id) else waitsForCancelled e a.id))
    || (a.lanes.all (fun l => l.got.isSome) && e.accs.any fun b => decide (b.id < a.id) && cancellable b && b.dest == a.dest && !inBeatOrder e a)

/-- A token in the output stage stays there: it, or one before it on its channel, follows an access that will be cancelled. -/
def outStuck (e : Elem) (t : OutTok) : Bool :=
  ((e.out.takeWhile (· != t)) ++ [t]).any fun u => u.chan == t.chan && match u.wait with | some (_, n) => waitsForCancelled e n | none => false

def elemSettled (s : State) (key : Nat) : Bool :=
  let e := getE s key
  e.out.all (outStuck e) && e.accs.all (accSettled s key e)

/-- A token of a pump can not go now. -/
def tokenStuck (s : State) (r p : Nat) (a : PAcc) : Bool :=
  let u := pumpOf s r p
  let x := getR s r
  let w : BitVec 64 := BitVec.ofNat 64 a.p.addr
  let none_ := fun l => decide (usableResv l (.pump r p) x.cycle ≤ onTheWay u a.p)
  (sentAt a).isNone
    && ((u.accs.any fun b => decide (b.id < a.id) && b.p.tok.isSome && b.p.ek == a.p.ek && b.p.addr == a.p.addr && (sentAt b).isNone)
      || (if a.p.ek = 3 then
            let b := spOf s r (a.p.addr % 16)
            ringFull (ringDesc s (spDie b) (spRing b)) || !gwPasses x
          else if w.getLsbD 31 then none_ (enginePort x (w.extractLsb' 0 5).toNat (w.extractLsb' 29 2).toNat).resv
          else none_ (getQ (getE s (ekey r (w.extractLsb' 12 5).toNat (w.extractLsb' 8 4).toNat)) (w.extractLsb' 4 3).toNat).resv))

def pumpSettled (s : State) (r p : Nat) (u : Pump) : Bool :=
  (u.accs.all fun a => !a.p.write || (a.p.tok.isSome && tokenStuck s r p a))
    && u.updates.all fun v => match findActive u v.req with
      | some a => updateStuck s (ekey r (pdBsite a.req.desc) (pdBelem a.req.desc)) (pdBoff a.req.desc) v.darr v.dsec (.pump p v.id)
      | none => false

/-- The transfer pipe has finished its granule (R250), and arrivals wait at their ports. -/
def islandSettled (s : State) (r m : Nat) (i : Island) : Bool :=
  (i.runs.all fun u => u.tiles.all fun t => !t.2.moving)
    && i.arrivals.all fun a => updateStuck s (ekey r a.site a.elem) a.off 1 0 (.island m a.id)

/-- Everything that still moved has settled. -/
def settled (s : State) (r : Nat) : Bool :=
  let x := getR s r
  x.seq.stores == [] && (elemKeys x r).all (elemSettled s)
    && x.pumps.all (fun p => pumpSettled s r p.1 p.2) && x.islands.all (fun p => islandSettled s r p.1 p.2)
    && x.ports.all fun p => p.2.moves == []

/-! ## The saved team -/

/-- A saved element: cancelled accesses are recorded in firing order, and every line it wrote is at its home. -/
def saveElem (e : Elem) : Elem :=
  { e with accs := e.accs.filter fun a => !cancellable a
           cancelled := (e.accs.filter cancellable).map fun a => { a with
             lanes := a.lanes.map fun l => { l with xlat := none }, accepted := none, parked := false, asked := false }
           touched := [], l1 := [], tlb := [] }

/-- A saved pump: its reads in flight are dropped, to be issued again; its latches are not saved (R280). -/
def savePump (u : Pump) : Pump :=
  { u with latches := [], accs := u.accs.map fun a =>
      if a.p.write || a.complete then a else { a with xlat := none, done := 0, got := [], raised := [], posted := [] } }

/-- A saved island: blocks that are not staged whole from scratchpads are dropped with their fetches (R250). -/
def saveIsland (i : Island) : Island :=
  let port := fun (side : Bool) (c : Nat) => (mxOperand (((ctxOf i c).rec_).getD 0) side).port
  let keep := fun (side : Bool) (t : Table (List StageBlock)) => tmap (fun c l => l.filter fun w => w.full || port side c) t
  { i with fetches := [], stageA := keep false i.stageA, stageB := keep true i.stageB }

/-- Reads that are dropped give back the counts that they raised (R211). -/
def dropCounts (s : State) (x : Region) : State :=
  let s := x.islands.foldl (fun s p => p.2.fetches.foldl (fun s f => modE s f.key fun e => countSeal e f.raised (· - 1)) s) s
  x.pumps.foldl (fun s p => p.2.accs.foldl (fun s a =>
    if a.p.write || a.complete then s else a.raised.foldl (fun s q => modE s q.1 fun e => countSeal e q.2 (· - 1)) s) s) s

/-- What a save keeps of a region. -/
def saveRegion (x : Region) : Region :=
  { x with islands := tmap (fun _ i => saveIsland i) x.islands, pumps := tmap (fun _ u => savePump u) x.pumps
           tlb := [], walkCache := [], walkRec := [], walks := [], wcb := []
           seq := { x.seq with touched := [], icache := [], dcache := [] } }

/-! ## The save area (R450 to R452) -/

def saveSize : Nat := 0x018F0000
def saveMagic : Nat := 0x4C535631

/-- Bit s: site s is enabled. -/
def siteMap (x : Region) : Nat := (upto 20).foldl (fun a st => if siteOk x st then a + 2 ^ st else a) 0

/-- The header (R451), with VALID. -/
def saveHeader (s : State) (r : Nat) (x : Region) (t : Team) : BitVec 512 :=
  BitVec.ofNat 512 (1 + 2 ^ 16 + saveMagic * 2 ^ 32 + saveSize * 2 ^ 64 + s.time % 2 ^ 64 * 2 ^ 128 + ownerOf x * 2 ^ 193
    + x.reason.toNat * 2 ^ 200 + (if t.draw then 2 ^ 211 else 0) + t.l1sz * 2 ^ 212 + r * 2 ^ 214 + siteMap x * 2 ^ 220
    + t.asid * 2 ^ 248 + t.index * 2 ^ 264 + t.queue * 2 ^ 280 + t.ticket * 2 ^ 288)

/-- Opaque bytes of the area from an offset on (log 15). -/
def opaqueBytes (free off n : Nat) : List Byte := (upto n).map fun i => Config.opaqueByte (free + off + i)

def dwordBytes (l : List (BitVec 64)) : List Byte := l.flatMap fun v => bytesOf 8 v.toNat
def zeros (n : Nat) : List Byte := List.replicate n 0

/-- Bytes padded with zeros to a length. -/
def padTo (n : Nat) (l : List Byte) : List Byte := l ++ zeros (n - l.length)

/-- Numbers of the control registers that the sequencer's block holds after FPST. -/
def savedCsrs : List Nat :=
  [0x005, 0x006, 0x007, 0x008, 0x009, 0x00A, 0x004, 0x012, 0x014, 0x015, 0x016] ++ ((upto 16).map (0x020 + ·)) ++ ((upto 4).map (0x01C + ·)) ++ [0x01B]

/-- The sequencer's block. -/
def seqBlock (s : State) (r free : Nat) : List Byte :=
  let q := getSeq s r
  let d := dwordBytes ([q.pc, if q.sup then 1 else 0] ++ ((upto 32).map fun n => getS q (BitVec.ofNat 5 n))
    ++ [q.fpctl.setWidth 64, q.fpst.setWidth 64] ++ savedCsrs.map (csrRead s r))
  d ++ opaqueBytes free (0x1000 + d.length) (0x1000 - d.length)

/-- The region's block. -/
def regionBlock (s : State) (r free : Nat) : List Byte :=
  let x := getR s r
  let desc := fun i => match x.seq.loads[i]? with | some l => BitVec.ofNat 64 l.desc | none => 0
  padTo 0x800 (x.etq.flatMap fun v => bytesOf 128 v.toNat) ++ padTo 0x200 (dwordBytes x.seq.events)
    ++ padTo 0x200 (x.faultq.flatMap fun v => bytesOf 32 v.toNat)
    ++ padTo 0x400 (dwordBytes [csrRead s r 0x051, BitVec.ofNat 64 x.etq.length, BitVec.ofNat 64 x.seq.events.length, desc 0, desc 1,
        if x.seq.endMark then 1 else 0])
    ++ opaqueBytes free 0x3000 0xD000

/-- The full-empty bits of an element as bytes. -/
def fullBytes (e : Elem) : List Byte := bytesOf 512 (e.full.foldl (fun a g => a ||| 2 ^ g) 0)

def queueBytes (q : Queue) : List Byte :=
  padTo 0x100 (q.toks.flatMap fun t => bytesOf 32 (t.pay.toNat + t.side.toNat * 2 ^ 128))

def vecsBytes (n : Nat) (t : Table Vec) : List Byte := (upto n).flatMap fun i => bytesOf 16 (tget t i 0).toNat

/-- The context block of element n (R452). -/
def elemBlock (e : Elem) (free n : Nat) : List Byte :=
  let opq := fun off len => opaqueBytes free (0x10000 + 0x2000 * n + off) len
  dwordBytes ((upto 16).map fun i => tget e.slots i 0) ++ padTo 0x40 (dwordBytes ((upto 6).map (bindOf e)))
    ++ ((upto 32).flatMap fun i => bytesOf 2 (tget e.fmts i 0).toNat) ++ ((upto 8).flatMap fun i => bytesOf 32 (tget e.recs i 0).toNat)
    ++ vecsBytes 16 e.f ++ bytesOf 16 e.la.toNat ++ bytesOf 16 e.lb.toNat ++ vecsBytes 32 e.m ++ vecsBytes 4 e.ef ++ opq 0x560 0xA0
    ++ ((upto 6).flatMap fun j => queueBytes (getQ e j)) ++ opq 0xC00 0x280 ++ bytesOf 128 ((e.trapRec.getD 0).toNat) ++ opq 0xF00 0x300
    ++ fullBytes e ++ zeros 0xC00

/-- The accumulators of an island (R47). -/
def accBytes (i : Island) : List Byte :=
  (upto 16).flatMap fun a => (upto 4096).flatMap fun j => bytesOf 8 (tget (tget i.acc a []) j 0).toNat

/-- The sections of an area but for the header: offsets and bytes. -/
def saveSections (s : State) (r free : Nat) : List (Nat × List Byte) :=
  let x := getR s r
  [(0x1000, seqBlock s r free), (0x2000, regionBlock s r free)]
    ++ ((elemKeys x r).flatMap fun k =>
      let n := k % 320
      [(0x10000 + 0x2000 * n, elemBlock (getE s k) free n), (0x290000 + 0x10000 * n, memBytes (getE s k).spad 0 (spadSize x))])
    ++ ((upto 4).flatMap fun i =>
      let o := 0x1690000 + 0x90000 * i
      [(o, accBytes (tget x.islands i {})), (o + 0x80000, opaqueBytes free (o + 0x80000) 0x10000)])
    ++ (upto 2).map fun p => (0x18D0000 + 0x10000 * p, opaqueBytes free (0x18D0000 + 0x10000 * p) 0x10000)

/-- The lines of an area that something holds become current at their homes. -/
def areaSync (s : State) (base n : Nat) : State × Bool :=
  (heldLines s base n).foldl (fun (a : State × Bool) ln => if a.2 then homeSync a.1 ln else a) (s, true)

/-- Writes the area at pkg: the sections, then the header, VALID last of all. -/
def writeArea (s : State) (r base : Nat) (h : BitVec 512) : State :=
  let secs := saveSections s r s.free
  let s := secs.foldl (fun s p => engineWrite s (base + p.1) p.2) { s with free := s.free + saveSize }
  let s := engineWrite s base (padTo 0x1000 (bytesOf 64 (h.toNat - 1)))
  engineWrite s base [1]

/-- What the region holds once its team is saved. -/
def clearSaved (s : State) (r : Nat) : State :=
  let s := { s with elems := tmap (fun k e => if keyRegion k = r then clearElem e else e) s.elems }
  modR s r fun x => { x with
    rstate := .saved, islands := tmap (fun _ i => clearIsland i) x.islands, pumps := tmap (fun _ p => clearPump p) x.pumps,
    ports := [], held := [], etq := [], faultq := [], drainFrom := none, holdFrom := none
    seq := { dropWait x.seq with events := [], pending := [], touched := [], loads := [] } }

/-- SAVE_COMPLETE: with everything settled, what the die has written is published, and the area is written; translations that were
read from its lines are invalidated first (R369). -/
def saveComplete (s : State) (r : Nat) : State :=
  let x := getR s r
  match x.team with
  | none => s
  | some t =>
    if x.rstate ≠ .saving ∨ !settled s r then s
    else if x.wcb ≠ [] then drainWcb s r
    else
      let p := publishDie s (dieOf r) s.wseq fun _ => false
      let w := clearSharers p.1 (64 + r) x.savebase.toNat saveSize
      if !p.2 then p.1
      else if !w.2 then w.1
      else
      let s := dropCounts w.1 x
      let s := { s with elems := tmap (fun k e => if keyRegion k = r then saveElem e else e) s.elems }
      let s := modR s r saveRegion
      let h := saveHeader s r (getR s r) t
      let sv : Saved := ⟨h, r, getR s r, s.elems.filter fun p => keyRegion p.1 == r⟩
      let s := writeArea s r x.savebase.toNat h
      clearSaved { s with saves := s.saves ++ [sv] } r

def execSaveComplete (r : Nat) (s : State) : Host.Outcome State Fault Refusal := withUnit (regionOk r) s fun s => saveComplete s r

/-! ## From one region to another (R453) -/

/-- An element's number in the region that restores it. -/
def rekey (a b key : Nat) : Nat := if keyRegion key = a then key % 320 + 320 * b else key

def rekeyFeeder (a b : Nat) : Feeder → Feeder
  | .chan k n => .chan (rekey a b k) n
  | .port r n => .port (if r = a then b else r) n
  | .pump r n => .pump (if r = a then b else r) n
  | .notify k => .notify (rekey a b k)

/-- Reservations; each counts at once. -/
def rekeyResv (a b : Nat) (l : List Resv) : List Resv := l.map fun v => ⟨rekeyFeeder a b v.who, 0⟩
def rekeySlots (a b : Nat) (p : PortSlots) : PortSlots :=
  { p with resv := rekeyResv a b p.resv, toks := p.toks.map fun t => { t with key := rekey a b t.key } }

/-- Numbers of the saved team's accesses, requests and runs go on after those that the region has used: n is added to them. -/
def rekeyAcc (a b c n : Nat) (x : Access) : Access :=
  { x with id := x.id + n, target := rekey a b x.target, fired := c }

def rekeySrc (a b n : Nat) : UpdFrom → UpdFrom
  | .acc key id => .acc (rekey a b key) (id + n)
  | .pump p id => .pump p (id + n)
  | .island m id => .island m (id + n)
  | w => w

/-- An element as it resumes in cycle c of region b: times that have passed are past, an installation goes on where it stood, and
cancelled accesses are issued again in their order. -/
def landElem (a b c n : Nat) (e : Elem) : Elem :=
  let acc := rekeyAcc a b c n
  { e with
    queues := tmap (fun _ q => { q with resv := rekeyResv a b q.resv, late := [] }) e.queues
    busy := c, trapAt := 0, reqFrom := 0, spBusy := 0, seqBusy := 0, portBusy := 0, portWait := [], landing := [], waiter := none
    held := e.held.map fun h => { h with src := rekeySrc a b n h.src }
    out := e.out.map fun t => { t with sent := 0, wait := t.wait.map fun w => (w.1, w.2 + n) }
    accs := e.accs.map acc ++ e.cancelled.map acc, cancelled := [], nextAcc := e.nextAcc + n
    inbox := tmap (fun _ v => { v with at_ := 0 }) e.inbox, binbox := tmap (fun _ v => { v with at_ := 0 }) e.binbox
    xops := e.xops.map fun o => { o with fired := 0 }
    installing := e.installing.map fun g => { g with since := c - g.done }
    st := if e.st = .frozen then e.frozen else e.st }

def landPump (a b n : Nat) (u : Pump) : Pump :=
  let req := fun (q : PReq) => { q with id := q.id + n, origin := q.origin.map (rekey a b), at_ := 0 }
  { u with reqPort := rekeySlots a b u.reqPort, dataPort := rekeySlots a b u.dataPort, flagsNew := (0, 0), nextId := u.nextId + n
           queue := u.queue.map req
           active := u.active.map fun x => { x with req := req x.req }
           accs := u.accs.map fun x => { x with id := x.id + n, req := x.req + n, p := { x.p with key := rekey a b x.p.key }, issued := 0 }
           updates := u.updates.map fun x => { x with id := x.id + n, req := x.req + n, at_ := 0 } }

def landIsland (a b n credit : Nat) (i : Island) : Island :=
  let stage := tmap fun _ (l : List StageBlock) => l.map fun w => { w with run := w.run + n }
  { i with ports := tmap (fun _ p => rekeySlots a b p) i.ports, credit := credit, flagsNew := (0, 0), nextId := i.nextId + n
           runs := i.runs.map fun u => { u with id := u.id + n, tiles := tmap (fun _ t => { t with due := 0 }) u.tiles }
           stageA := stage i.stageA, stageB := stage i.stageB
           arrivals := i.arrivals.map fun x => { x with id := x.id + n, at_ := 0 } }

/-- A number beyond every number that the units of a region have given to their accesses, requests and runs. -/
def usedIds (s : State) (r : Nat) : Nat :=
  let x := getR s r
  let e := (elemKeys x r).foldl (fun n k => Nat.max n (getE s k).nextAcc) 0
  x.islands.foldl (fun n p => Nat.max n p.2.nextId) (x.pumps.foldl (fun n p => Nat.max n p.2.nextId) e)

def landWho (a b : Nat) : DetachWho → DetachWho
  | .route r st el k j => .route (if r = a then b else r) st el k j
  | w => w

/-- A team's units in the region that takes it: what belongs to the region itself stays. -/
def landRegion (a b n : Nat) (x v : Region) (t : Team) : Region :=
  { x with
    seq := { v.seq with loads := v.seq.loads.map fun l => { l with installed := l.installed.map (rekey a b) }
                        nextReq := x.seq.nextReq + 1, nextStore := x.seq.nextStore, evNew := (0, 0), evFirst := 0 }
    team := some t, prevOwner := t.owner, prevAsid := t.asid
    islands := (upto 4).map fun m => (m, landIsland a b n (tget x.islands m {}).credit (tget v.islands m {})), mruns := v.mruns
    pumps := tmap (fun _ u => landPump a b n u) v.pumps
    ports := tmap (fun _ p => { p with busy := 0, slots := rekeySlots a b p.slots, marked := p.marked.map (fun m => (rekey a b m.1, m.2)),
                                       gone := p.gone.map fun m => (rekey a b m.1, m.2) }) v.ports
    held := v.held.map fun h => (landWho a b h.1, h.2)
    stoat := { v.stoat with grow := v.stoat.grow.map fun g => (g.1, g.2.1, x.cycle + (g.2.2 - v.cycle)) }
    etq := v.etq, faultq := v.faultq, ovf := v.ovf
    tlb := [], walkCache := [], walks := [], rstate := .running, reason := x.reason, drainFrom := none, holdFrom := none }

/-! ## Reading the area (R453, R504) -/

def areaVal (s : State) (base off n : Nat) : Nat := homeVal s (base + off) n
def areaDw (s : State) (base off : Nat) : BitVec 64 := BitVec.ofNat 64 (areaVal s base off 8)

/-- A table of the entries that are not 0. -/
def tableOf {w : Nat} (l : List (BitVec w)) : Table (BitVec w) := ((l.zipIdx).filter fun p => p.1 != 0).map fun p => (p.2, p.1)

/-- Fields of TCAUSE, of CODEWIN and of the two kinds of record that the region's queues hold (R437, R307, R442, R404). -/
def tcauseMask : BitVec 64 := 0xF01FF
def codewinMask : BitVec 64 := 0x01FFFFFFFFFFF0FF
def trapMask : BitVec 1024 := ~~~ BitVec.ofNat 1024 ((2 ^ 416 - 2 ^ 42) + 3)
def faultMask : BitVec 256 := ~~~ BitVec.ofNat 256 ((2 ^ 112 - 2 ^ 64) + (2 ^ 30 - 1))

/-- The sequencer's block over a sequencer: reserved bits of its registers read as 0 whatever the area holds (R8). -/
def readSeqBlock (s : State) (base : Nat) (q : Seq) : Seq :=
  let dw := fun i => areaDw s base (0x1000 + 8 * i)
  { q with
    pc := dw 0 &&& pcMask, sup := (dw 1).getLsbD 0, regs := ((upto 31).map fun n => (n + 1, dw (3 + n)))
    fpctl := (dw 34).setWidth 32 &&& 7, fpst := (dw 35).setWidth 32 &&& 31
    tvec := dw 36 &&& pcMask, tpc := dw 37 &&& pcMask, tcause := dw 38 &&& tcauseMask, tval := dw 39, pmode := (dw 40).getLsbD 0, tscr := dw 41
    rtentry := dw 42 &&& pcMask, strmctl := dw 43 &&& 0x3FF, cfgmap := (upto 3).map fun i => (i, dw (44 + i) &&& cfgmapMask i)
    spbind := (upto 16).map fun i => (i, dw (47 + i) &&& spMask), sqbind := (upto 4).map fun i => (i, dw (63 + i) &&& sqMask)
    codewin := tset q.codewin 1 (dw 67 &&& codewinMask) }

/-- The region's block over a region. -/
def readRegionBlock (s : State) (base : Nat) (x : Region) : Region :=
  let dw := fun o => areaDw s base (0x2C00 + o)
  let nf := Nat.min 16 ((dw 0).extractLsb' 0 5).toNat
  let nt := Nat.min 16 ((dw 8).extractLsb' 0 5).toNat
  let ne := Nat.min 64 ((dw 16).extractLsb' 0 7).toNat
  { x with
    etq := (upto nt).map fun i => BitVec.ofNat 1024 (areaVal s base (0x2000 + 128 * i) 128) &&& trapMask
    faultq := (upto nf).map fun i => BitVec.ofNat 256 (areaVal s base (0x2A00 + 32 * i) 32) &&& faultMask
    ovf := (dw 0).getLsbD 8
    seq := { x.seq with
      events := (upto ne).map fun i => areaDw s base (0x2800 + 8 * i), endMark := (dw 40).getLsbD 0
      loads := (x.seq.loads.zipIdx).map fun p => { p.1 with desc := (dw (24 + 8 * p.2)).toNat } } }

/-- An element's block and scratchpad over an element. -/
def readElemBlock (s : State) (base n spad : Nat) (e : Elem) : Elem :=
  let o := 0x10000 + 0x2000 * n
  let val := fun off len => areaVal s base (o + off) len
  let slots := (upto 16).map fun i => areaDw s base (o + 8 * i)
  let vec := fun off i => BitVec.ofNat 128 (val (off + 16 * i) 16)
  let tok := fun j i : Nat => let v := val (0x600 + 0x100 * j + 32 * i) 32
    (⟨BitVec.ofNat 16 (v / 2 ^ 128), BitVec.ofNat 128 v⟩ : Token)
  let rec_ : BitVec 1024 := BitVec.ofNat 1024 (val 0xE80 128)
  let full := val 0x1200 512
  { e with
    slots := tableOf slots
    faulty := BitVec.ofNat 16 ((slots.zipIdx).foldl (fun a p => if faultyWord p.1 then a + 2 ^ p.2 else a) 0)
    binds := tableOf ((upto 6).map fun i => areaDw s base (o + 0x80 + 8 * i))
    fmts := tableOf ((upto 32).map fun i => BitVec.ofNat 16 (val (0xC0 + 2 * i) 2))
    recs := tableOf ((upto 8).map fun i => BitVec.ofNat 256 (val (0x100 + 32 * i) 32))
    f := tableOf ((upto 16).map (vec 0x200)), la := vec 0x300 0, lb := vec 0x310 0, m := tableOf ((upto 32).map (vec 0x320))
    ef := tableOf ((upto 4).map (vec 0x520))
    queues := tmap (fun j q => { q with toks := (upto q.toks.length).map (tok j) }) e.queues
    trapRec := if rec_ = 0 then none else some rec_
    full := (upto 4096).filter fun g => full.testBit g
    spad := memWrite [] 0 (homeBytes s (base + 0x290000 + 0x10000 * n) spad) }

/-- An island's accumulators over an island. -/
def readAccs (s : State) (base n : Nat) (i : Island) : Island :=
  { i with acc := (upto 16).map fun a => (a, tableOf ((upto 4096).map fun j =>
      BitVec.ofNat 40 (areaVal s base (0x1690000 + 0x90000 * n + 0x8000 * a + 8 * j) 8))) }

/-! ## Checks of a restore (R453) -/

/-- n configuration images, one after another. -/
def readImages (die : Nat) (q : XReq) : Nat → State → Nat → EngGot (List Byte)
  | 0, s, _ => some (s, .ok [])
  | k + 1, s, va =>
    engThen (engineRecord s die q va 16) fun s h =>
      engThen (engineRecord s die q va (imageLen (leVal h))) fun s b =>
        engThen (readImages die q k s (va + b.length)) fun s r => some (s, .ok (b ++ r))

/-- A pending load is read again by its sequencer's rights and checked by R304; its blocks are those now read. -/
def rereadLoad (die : Nat) (x : Region) (s : State) (l : PendLoad) : EngGot PendLoad :=
  let t := x.team.getD default
  let q : XReq := ⟨t.asid, t.owner, !x.seq.sup, 0, false, false⟩
  let bad := fun (s : State) => (some (s, .error ⟨0x0C, 0, l.desc⟩) : EngGot PendLoad)
  engThen (engineRecord s die q l.desc 64) fun s b =>
    let d : BitVec 512 := BitVec.ofNat 512 (leVal b)
    let n := (d.extractLsb' 112 5).toNat
    if !loadDescOk d t.l1sz then bad s
    else engThen (readImages die q n s (d.extractLsb' 0 64).toNat) fun s bs =>
      match checkImages x n bs [] [] [] with
      | .error _ => bad s
      | .ok blocks => some (s, .ok { l with blocks := blocks })

def rereadLoads (die : Nat) (x : Region) : State → List PendLoad → EngGot (List PendLoad)
  | s, [] => some (s, .ok [])
  | s, l :: r => engThen (rereadLoad die x s l) fun s l => engThen (rereadLoads die x s r) fun s r => some (s, .ok (l :: r))

/-- The dispatch of a saved team is in flight, and the team has not retired. -/
def teamInFlight (s : State) (t : Team) : Bool :=
  s.dist.inflight.any fun d => d.id == t.disp && d.ending.isNone && !d.retired.contains t.index

/-- The first check that fails, or the save and its pending loads as read again; none while a home serves another request. -/
def restoreCheck (s : State) (r base : Nat) : Option (State × Except (BitVec 8) (Saved × List PendLoad)) :=
  let x := getR s r
  let h : BitVec 512 := BitVec.ofNat 512 (homeVal s base 64)
  let lo := lineNo base
  let bad := fun s c => (some (s, .error c) : Option (State × Except (BitVec 8) (Saved × List PendLoad)))
  if paDevice base ≠ s.devid ∨ h.extractLsb' 32 32 ≠ BitVec.ofNat 32 saveMagic ∨ h.extractLsb' 16 16 ≠ 1
      ∨ h.extractLsb' 64 64 ≠ BitVec.ofNat 64 saveSize ∨ !h.getLsbD 0 then bad s 1
  else if (h.extractLsb' 220 20).toNat ≠ siteMap x then bad s 2
  else if (h.extractLsb' 193 7).toNat ≠ x.owner then bad s 3
  else match s.saves.find? fun v => v.header == h with
    | none => bad s 4
    | some v => match v.region.team with
      | none => bad s 4
      | some t =>
        if !teamInFlight s t then bad s 4
        else
          let y := readRegionBlock s base { v.region with seq := readSeqBlock s base v.region.seq }
          match rereadLoads (dieOf r) { y with fused := x.fused } s y.seq.loads with
          | none => none
          | some (s, .error _) => bad s 5
          | some (s, .ok ls) =>
            if (s.poison ++ s.badCheck).any fun ln => decide (lo ≤ ln ∧ ln < lo + saveSize / 64) then bad s 6
            else some (s, .ok (v, ls))

/-- Stream ports that are outbound take their rings again (R179, R502). -/
def claimRings (s : State) (r : Nat) : State :=
  (getSeq s r).spbind.foldl (fun s p =>
    if spEnabled p.2 && spOut p.2 then setRingDesc s (spDie p.2) (spRing p.2) (ringPut (ringDesc s (spDie p.2) (spRing p.2)) 79 79 1) else s) s

/-- The restore itself. -/
def restoreInto (s : State) (r base : Nat) (v : Saved) (loads : List PendLoad) : State :=
  let x := getR s r
  let t := v.region.team.getD default
  let ids := usedIds s r
  let y := readRegionBlock s base { v.region with seq := readSeqBlock s base v.region.seq }
  let y := { y with seq := { y.seq with loads := loads }, islands := (upto 4).map fun n => (n, readAccs s base n (tget y.islands n {})) }
  let reason : BitVec 8 := BitVec.ofNat 8 (areaVal s base 25 1)
  let els := (elemKeys x r).map fun k =>
    let n := k % 320
    (k, landElem v.region0 r x.cycle ids (readElemBlock s base n (spadSize y) (tget v.elems (n + 320 * v.region0) {})))
  let s := els.foldl (fun s p => setE s p.1 p.2) s
  let s := setR s r { landRegion v.region0 r ids x y t with rerr := 0 }
  let s := engineWrite s base [0]
  let s := { s with saves := s.saves.filter fun w => w.header != v.header }
  stallTimer (raiseAsync (optApply (rebind (claimRings s r) r) r) r 0 reason 6 0) r

/-- RESTORE_COMPLETE: a check that fails leaves the region Free with nothing written; else the team runs on. -/
def restoreComplete (s : State) (r : Nat) : State :=
  let x := getR s r
  let base := x.savebase.toNat
  let p := areaSync s base saveSize
  if x.rstate ≠ .restoring then s
  else if !p.2 then p.1
  else match restoreCheck p.1 r base with
    | none => s
    | some (s, .error c) =>
      let s := if x.team.isSome then clearRegion s r else s
      modR s r fun x => { x with rstate := .free, rerr := c }
    | some (s, .ok (v, ls)) =>
      let w := clearSharers s (64 + r) base 64
      if !w.2 then w.1 else restoreInto w.1 r base v ls

def execRestoreComplete (r : Nat) (s : State) : Host.Outcome State Fault Refusal := withUnit (regionOk r) s fun s => restoreComplete s r

end Sys2Proof.Machine
end

