-- ==== Sys2Proof/Machine/Links.lean ====
section
/-!
DEFINITION. Machine/Links.lean: the requests of the host and of the virtual functions (R465 to R469, R474), Swiravy ports and peers
(R470 to R473), and the loss of a link (R374, R455, R456).
-/
namespace Sys2Proof.Machine

/-! ## Host requests -/

/-- A refused request completes as unsupported and is logged (R459). -/
def hostRefuse (s : State) (fn : Nat) (write : Bool) (addr : Nat) : State :=
  { logPush s 5 0x07 fn none addr ((if write then 1 else 0) + fn * 2) with hostReplies := s.hostReplies ++ [(fn, .unsupported)] }

/-- A request by its kind, with an address in place of its own. -/
def hostKind : HostReq → Nat
  | .read .. => 0 | .write .. => 1 | .atomic .. => 2 | .bar0Read .. => 0
def hostAddr : HostReq → Nat
  | .read a _ => a | .write a _ => a | .atomic a .. => a | .bar0Read _ o => o
def hostLen : HostReq → Nat
  | .read _ n => n | .write _ d => d.length | .atomic _ z _ _ _ => atomBytes z | .bar0Read _ _ => 4

/-- The pieces of n bytes from an address on, line by line: address, position in the request, length. -/
def hostPieces (a n : Nat) : List (Nat × Nat × Nat) :=
  (upto ((a % 64 + n + 63) / 64)).map fun i =>
    let lo := if i = 0 then a else a / 64 * 64 + 64 * i
    let hi := Nat.min (a + n) (a / 64 * 64 + 64 * i + 64)
    (lo, lo - a, hi - lo)

/-- What one piece of a request does at once or asks of a home; its result, if it has one already. `i` is its number. -/
def hostPiece (s : State) (owner id i : Nat) (q : HostReq) (pa pos n : Nat) : State × Option (List Byte × Bool) :=
  let ln := lineNo pa
  let bytes := match q with | .write _ d => (d.drop pos).take n | _ => []
  let p := placeBytes (pa % 64) bytes
  let tag := ReqTag.host id i
  let base := { plainReq .rds 8 with uncached := true, tag := tag }
  let ask := fun (_ : Unit) => (postReq s (lineKey s pa) (match q with
      | .write .. => { base with kind := .wrh, data := p.1, mask := p.2 }
      | .atomic _ z o v c => { base with kind := .ath, off := pa % 64, size := z, op := o, v := v, c := c }
      | _ => base), none)
  match paClass s pa with
  | .gddr => ask ()
  | .window _ => match q with
    | .write .. => (windowStore s ln p.1 p.2, some ([], false))
    | .atomic _ z o v c =>
      let a := atomLine (memLine s.mem ln) (pa % 64) o z v.toNat c.toNat
      (windowStore s ln a.1 (BitVec.allOnes 64), some (bytesOf (atomBytes z) a.2, false))
    | _ => (s, some (lineBytes (memLine s.mem ln) (pa % 64) n, (lineBad s ln).isSome))
  | .registers => match q with
    | .write .. => (devWrite s owner (devOffset pa) bytes, some ([], false))
    | .atomic .. => (s, some (List.replicate n 0, false))
    | _ => (s, some (devBytes s (devOffset pa) n, false))
  | .peer dev =>
    if !s.lostPeers.contains dev then ask ()
    else match q with
      | .read .. | .bar0Read .. => (s, some (List.replicate n 0, true))
      | _ => (logPush s 2 0x0C owner none pa dev, some (List.replicate n 0, hostKind q == 2))
  | .reserved => (s, some ([], true))

/-- What regions wrote before they wrote to the lines of a window that a request names is published first (R351). -/
def hostSync (s : State) (ps : List (Nat × Nat × Nat)) : State × Bool :=
  ps.foldl (fun (a : State × Bool) p => if !a.2 then a else match paClass a.1 p.1 with
    | .window w => windowSync a.1 w none (lineNo p.1)
    | _ => a) (s, true)

/-- A request with translated pieces goes out; every write is posted (R468). -/
def hostIssue (s : State) (fn owner : Nat) (q : HostReq) (ps : List (Nat × Nat × Nat)) : State :=
  let y := hostSync s ps
  if !y.2 then y.1
  else
  let s := y.1
  let id := s.nextHost
  let r := (ps.zipIdx).foldl (fun (a : State × List HostPart) p =>
    let w := hostPiece a.1 owner id p.2 q p.1.1 p.1.2.1 p.1.2.2
    (w.1, a.2 ++ [⟨p.1.1, p.1.2.2, w.2⟩])) (s, [])
  { r.1 with nextHost := id + 1, hostPend := r.1.hostPend ++ [⟨id, fn, hostKind q, r.2⟩] }

/-- Takes what homes have answered to a request; once every piece is answered, the request completes. -/
def hostAnswer (s : State) (h : HostPend) : State :=
  let r := (h.parts.zipIdx).foldl (fun (a : State × List HostPart) p =>
    match p.1.got, takeAck a.1 (.host h.id p.2) with
    | none, some (k, t) =>
      let b := if h.kind = 2 then bytesOf p.1.len k.old.toNat else lineBytes k.data (p.1.pa % 64) p.1.len
      (t, a.2 ++ [{ p.1 with got := some (b, k.bad.isSome) }])
    | _, _ => (a.1, a.2 ++ [p.1])) (s, [])
  let s := r.1
  let h' := { h with parts := r.2 }
  let rest := s.hostPend.filter fun x => x.id != h.id
  if r.2.all fun p => p.got.isSome then
    let s := { s with hostPend := rest }
    if h.kind = 1 then s
    else { s with hostReplies := s.hostReplies ++
      [(h.fn, .data (r.2.flatMap fun p => (p.got.getD ([], false)).1) (r.2.any fun p => (p.got.getD ([], false)).2))] }
  else { s with hostPend := s.hostPend.map fun x => if x.id = h.id then h' else x }

/-- The requests in flight take their answers. -/
def hostStep (s : State) : State := s.hostPend.foldl hostAnswer s

/-- Region 0's queue takes the record of a host function's translation fault (R404, R468). -/
def hostFault (s : State) (fn asid kind : Nat) (f : EngFault) : State := enginePost s 0 f asid kind 5 fn

/-- VF BAR0 at offset 256q + 8 reads RD of a queue of the function (R467). -/
def doorbellRead (s : State) (fn off : Nat) : State :=
  let q := off / 256
  let y := qSync s q
  let s := y.1
  let e := qEntry s q
  if !y.2 then s else
  if fn = 0 ∨ 64 < fn ∨ !(tget s.vfcfg fn 0).getLsbD 63 ∨ off % 256 ≠ 8 ∨ 256 ≤ q ∨ qOwner e ≠ fn ∨ !qEn e ∨ s.minimal then hostRefuse s fn false off
  else { s with hostReplies := s.hostReplies ++ [(fn, .data (bytesOf 4 (qRd e)) false)] }

/-- A request of the host at physical addresses, with owner 0 (R373, R465). -/
def hostAccess (s : State) (q : HostReq) : State :=
  match q with
  | .bar0Read fn off => doorbellRead s fn off
  | _ =>
    let ps := hostPieces (hostAddr q) (hostLen q)
    let never := ps.find? fun p => match paClass s p.1 with | .peer dev => peerNever s dev | _ => false
    match never with
    | some p => hostRefuse (hostFault s 0 0 (hostKind q) ⟨0x06, 0, p.1⟩) 0 (hostKind q == 1) (hostAddr q)
    | none =>
      if ps.any fun p => paClass s p.1 == .reserved || (s.minimal && paClass s p.1 != .registers) then
        hostRefuse s 0 (hostKind q == 1) (hostAddr q)
      else hostIssue s 0 0 q ps

/-- HOST_REQUEST: through the physical function's BARs; only the bridging device's endpoint takes requests (R24, R474). -/
def hostRequest (s : State) (q : HostReq) : State := if s.bridge then hostAccess s q else s

def execHostRequest (q : HostReq) (s : State) : Host.Outcome State Fault Refusal := .next (hostRequest s q)

/-- Translates the pieces of a window request: all of them, or the first fault. -/
def windowPieces (a : XReq) : State → List (Nat × Nat × Nat) → EngGot (List (Nat × Nat × Nat))
  | s, [] => some (s, .ok [])
  | s, p :: r => engThen (engineXlat s 0 p.1 a) fun s x =>
      engThen (windowPieces a s r) fun s l => some (s, .ok ((x.pa + (p.1 - x.va), p.2.1, p.2.2) :: l))

/-- VF_WINDOW_REQUEST (R466, R468). -/
def windowRequest (s : State) (fn : Nat) (q : HostReq) : State :=
  let c := tget s.vfcfg fn 0
  let asid := (c.extractLsb' 0 16).toNat
  let len := 2 ^ (20 + Nat.min 16 (c.extractLsb' 16 5).toNat)
  let wr := hostKind q == 1
  let a := hostAddr q
  match q with
  | .bar0Read _ off => doorbellRead s fn off
  | _ =>
    if !c.getLsbD 63 ∨ len < a + hostLen q ∨ s.minimal then hostRefuse s fn wr a
    else engStep s (windowPieces ⟨asid, fn, true, hostKind q, false, false⟩ s (hostPieces a (hostLen q)))
      (fun s f => hostRefuse (hostFault s fn asid (hostKind q) f) fn wr a) fun s ps => hostIssue s fn fn q ps

def execVfWindowRequest (fn : Nat) (q : HostReq) (s : State) : Host.Outcome State Fault Refusal :=
  withUnit (decide (1 ≤ fn ∧ fn ≤ 64)) s fun s => if s.bridge then windowRequest s fn q else s

/-- DOORBELL_WRITE (R328, R467): WR of the queue is stored at sys, after the function's earlier writes. -/
def doorbellWrite (s : State) (fn off : Nat) (w : BitVec 32) : State :=
  let q := off / 256
  let y := qSync s q
  let s := y.1
  let e := qEntry s q
  if !y.2 then s
  else if !(tget s.vfcfg fn 0).getLsbD 63 ∨ off % 256 ≠ 0 ∨ 256 ≤ q ∨ qOwner e ≠ fn ∨ !qEn e ∨ s.minimal then hostRefuse s fn true off
  else if s.hostPend.any fun h => h.fn == fn && h.kind == 1 then hostStep s
  else qPut s q 223 192 w.toNat

def execDoorbellWrite (fn off : Nat) (w : BitVec 32) (s : State) : Host.Outcome State Fault Refusal :=
  withUnit (decide (1 ≤ fn ∧ fn ≤ 64)) s fun s => if s.bridge then doorbellWrite s fn off w else s

/-! ## Dispatches that end early (R455, R469) -/

/-- Regions that hold a team of a dispatch. -/
def dispRegions (s : State) (id : Nat) : List Nat :=
  (s.regions.filter fun p => match p.2.team with | some t => t.disp == id | none => false).map (·.1)

def savedOf (id : Nat) (v : Saved) : Bool := match v.region.team with | some t => t.disp == id | none => false

/-- A dispatch ends: it binds no further team, its unretired teams are cleared and its saved ones are discarded. -/
def stopDisp (s : State) (d : Disp) (reason : Nat) (cause : BitVec 8) : State :=
  let s := (dispRegions s d.id).foldl clearRegion s
  let s := modDisp { s with saves := s.saves.filter fun v => !savedOf d.id v } d.id fun d => { d with ending := some (reason, cause) }
  match tfind s.dist.heads d.queue with
  | some h => if h.disp = some d.id then advanceHead s d.queue h.ticket else s
  | none => s

/-- Every dispatch that has not ended and that a test accepts ends. -/
def stopDisps (s : State) (p : Disp → Bool) (reason : Nat) (cause : BitVec 8) : State :=
  (s.dist.inflight.filter fun d => d.ending.isNone && !d.early && p d).foldl (fun s d => stopDisp s d reason cause) s

/-- FUNCTION_LEVEL_RESET (R469). -/
def functionReset (s : State) (fn : Nat) : State :=
  let own := (upto 256).filter fun q => let e := qEntry (qSync s q).1 q; qOwner e == fn && qEn e
  let s := own.foldl (fun s q => dropStanding (qPut (qSync s q).1 q 31 31 0) q) s
  let s := stopDisps s (fun d => d.owner == fn) 5 0x07
  let mine := fun (t : ReqTag) => match t with
    | .host id _ => s.hostPend.any fun h => h.id == id && h.fn == fn
    | _ => false
  { s with
    saves := s.saves.filter fun v => match v.region.team with | some t => t.owner != fn | none => true
    homes := tmap (fun _ h => { h with reqs := h.reqs.filter fun q => !mine q.tag }) s.homes
    acks := s.acks.filter fun a => !mine a.tag, hostPend := s.hostPend.filter fun h => h.fn != fn }

def execFunctionLevelReset (fn : Nat) (s : State) : Host.Outcome State Fault Refusal :=
  withUnit (decide (1 ≤ fn ∧ fn ≤ 64)) s fun s => functionReset s fn

/-! ## Swiravy ports (R471) -/

def getPort (s : State) (p : Nat) : LinkPort := tget s.links p {}
def setPort (s : State) (p : Nat) (x : LinkPort) : State := { s with links := tset s.links p x }
def portOk (p : Nat) : Bool := decide (p < 18)

/-- The port has failed until the device is reset. -/
def portFail (s : State) (p : Nat) : State := setPort s p { getPort s p with st := .failed, lanes := 0 }

/-- A peer answers the oldest request of this device for a line: with data, or only that it is done; `wide` where a read is granted
Exclusive, or an MM request Modified. The grant waits for its acknowledgement. -/
def peerAnswered (s : State) (ln : Nat) (wide : Bool) (d : Line) (bad : Bool) : State :=
  let h := getHome s ln
  match h.tx, h.reqs with
  | none, q :: r =>
    if isWb q.kind || (q.kind == .wrh && q.tag == .none) then setHome s ln { h with reqs := r }
    else
      let shared := (upto 4).any fun c => c != q.agent && (cLine s c ln).isSome
      let st : LineState := if q.uncached then .invalid
        else if q.kind = .rds then (if wide && !shared then .exclusive else .shared)
        else if q.kind = .rdmm && !wide then .mm else .modified
      let s := if q.uncached || q.kind == .rds then s else (upto 4).foldl (fun s c => dropCLine s c ln) s
      let s := { s with poison := (s.poison.filter (· != ln)) ++ if bad && q.kind != .wrh then [ln] else [] }
      setHome s ln { reqs := r, tx := some ⟨q, [], [], [], [], some (st, d), 0⟩ }
  | _, _ => s

/-- A snoop of a peer's home, or its publication request: every cistern of this device publishes what its die wrote before the line,
and gives it up or downgrades it; what it returns leaves the device (R351, R360, R366, R370). A cistern that can not publish yet keeps
the line, and the peer's home waits. -/
def peerSnooped (s : State) (ln k : Nat) : State :=
  (upto 4).foldl (fun s c =>
    let n := if k = 2 then 0 else lastWrite s c ln
    let p := if n = 0 then (s, true) else publishDie s c n (if k = 3 then fun _ => false else inCistern ln)
    match p.2, cLine p.1 c ln with
    | true, some l =>
      if k = 0 then setCLine p.1 c ln { l with st := .shared, dirty := 0 }
      else if k = 1 ∨ (k = 2 ∧ l.st = .shared) then dropCLine p.1 c ln
      else if k = 2 then setCLine p.1 c ln { l with st := .mm }
      else p.1
    | _, _ => p.1) s

/-- What a peer sends: a request to a home of this device (R365, R373, R380), which notes the well that its placement names (R383); a
Walk, and an address without a home here, is refused (R369). A peer is another device (R360). -/
def peerServe (s : State) (d : Nat) (q : PeerReq) : State :=
  let ag := 32 + d
  let at_ := fun (pa : Nat) (plc : BitVec 64) (k : HReq) =>
    if paClass s pa = .gddr then postReq (noteWell s ⟨pa, plc, false, 0, []⟩) (lineNo pa) k else s
  if d = s.devid then s
  else match q with
  | .idle | .walk _ => s
  | .read pa plc => at_ pa plc (plainReq .rds ag)
  | .own pa plc mm => at_ pa plc (plainReq (if mm then .rdmm else .rdx) ag)
  | .writeBack pa plc x m mm => at_ pa plc { plainReq (if mm then .wbmm else .wbm) ag with data := x, mask := m }
  | .evict pa plc => at_ pa plc (plainReq .clre ag)
  | .write pa plc bs =>
    if paClass s pa = .gddr then
      (writeParts pa bs).foldl (fun s p => postReq (noteWell s ⟨s.devid * 2 ^ 47 + 64 * p.1, plc, false, 0, []⟩) p.1
        { plainReq .wrh ag with data := p.2.1, mask := p.2.2, uncached := true }) s
    else s
  | .atomic pa plc z o v c => at_ pa plc { plainReq .ath ag with off := pa % 64, size := z, op := o, v := v, c := c, uncached := true }
  | .host rq =>
    if !s.bridge && paDevice (hostAddr rq) == s.devid then (match rq with | .bar0Read .. => s | _ => hostAccess s rq) else s
  | .answer pa wide x bad => if paDevice pa = d then peerAnswered s (lineKey s pa) wide x bad else s
  | .snoop pa k => if paDevice pa = d then peerSnooped s (lineKey s pa) k else s

/-- FLIT_RECEIVE: a flit whose check field holds is acknowledged and taken; any other is asked for again. -/
def flitReceive (s : State) (p : Nat) (ok : Bool) (q : PeerReq) : State :=
  let x := getPort s p
  if x.st ≠ .up then s
  else
    let s := setPort s p { x with lastFlit := s.time, inRow := if ok then 0 else x.inRow }
    if ok && !s.lostPeers.contains x.peerDev then peerServe s x.peerDev q else s

def execFlitReceive (p : Nat) (ok : Bool) (q : PeerReq) (s : State) : Host.Outcome State Fault Refusal :=
  withUnit (portOk p) s fun s => flitReceive s p ok q

/-- FLIT_REPLAY: the port sends a flit again; one that has failed 32 replays in a row fails the port. -/
def flitReplay (s : State) (p : Nat) : State :=
  let x := getPort s p
  if x.st ≠ .up then s
  else if 32 ≤ x.inRow then portFail s p
  else setPort s p { x with inRow := x.inRow + 1, replay := (x.replay + 1) % 2 ^ 32 }

def execFlitReplay (p : Nat) (s : State) : Host.Outcome State Fault Refusal := withUnit (portOk p) s fun s => flitReplay s p

/-- PORT_RECEIVE_TIMEOUT: no flit for 100 µs. -/
def receiveTimeout (s : State) (p : Nat) : State :=
  if (getPort s p).st = .up ∧ (getPort s p).lastFlit + 100000 ≤ s.time then portFail s p else s

def execPortReceiveTimeout (p : Nat) (s : State) : Host.Outcome State Fault Refusal := withUnit (portOk p) s fun s => receiveTimeout s p

/-- PORT_RETRAIN: a port whose lanes partly fail goes on with 4; a port that is down or training comes up (log 19). -/
def portRetrain (s : State) (p : Nat) : State :=
  let x := getPort s p
  match x.st with
  | .up => setPort s p { x with lanes := 4 }
  | .down | .training =>
    let w := Config.linkPeer p
    setPort s p { x with st := .up, lanes := 8, peerDev := w % 32, peerPort := w / 32 % 18, lastFlit := s.time, inRow := 0, everUp := true }
  | .failed => s

def execPortRetrain (p : Nat) (s : State) : Host.Outcome State Fault Refusal := withUnit (portOk p) s fun s => portRetrain s p

/-! ## Lost holders (R374) -/

/-- The home treats an agent as holding nothing: what it may have written is lost, and the line is poisoned. -/
def dropAgent (s : State) (ln ag : Nat) : State :=
  let d := getDir s ln
  let had := if ag < 4 then d.cs.getLsbD ag else d.ps.getLsbD (ag - 32)
  let lost := had && (d.st == .mm || (d.st == .modified && d.own == ag))
  let s := if lost && !s.poison.contains ln then { s with poison := s.poison ++ [ln] } else s
  setDir s ln (d.dropHolder ag)

/-- Requests of a lost agent leave the queue, and one that is being served takes nothing; no answer of it is awaited. -/
def dropRequests (s : State) (ln ag : Nat) : State :=
  let h := getHome s ln
  let s := setHome s ln { reqs := h.reqs.filter fun q => q.agent != ag
                          tx := h.tx.map fun t => { t with
                            snoops := t.snoops.filter (· != ag), pubs := if ag < 4 then t.pubs.filter (· != ag) else t.pubs
                            tinv := if ag < 4 then t.tinv.filter (· != ag) else t.tinv
                            req := if t.req.agent = ag && (t.req.kind == .rds || t.req.kind == .rdx || t.req.kind == .rdmm)
                              then { t.req with kind := .rds, uncached := true } else t.req } }
  match (getHome s ln).tx with
  | some t => if t.req.kind = .recall ∧ t.snoops = [] ∧ t.tinv = [] then endRecall s ln t else settle s ln
  | none => s

/-- Every region takes the trap of the next access that meets the loss (R456). -/
def freshLoss (s : State) : State := { s with regions := tmap (fun _ x => { x with lossTold := false }) s.regions }

/-- Requests of this device to a lost peer end: the host's reads and atomics with poison; writes are dropped and logged (R456). -/
def endPeerReqs (s : State) (d ln : Nat) : State :=
  let h := getHome s ln
  let all := h.reqs ++ match h.tx with | some t => [t.req] | none => []
  let s := all.foldl (fun s q =>
    let s := if (q.kind == .wrh && (match q.tag with | .none | .host .. => true | _ => false)) || ((q.kind == .wbm || q.kind == .wbmm) && q.mask != 0)
      then logPush s 2 0x0C 0 none (lineAddr s ln) d else s
    match q.tag with
    | .host id i => { s with acks := s.acks ++ [⟨.host id i, ln, 0, 0, if q.kind = .wrh then none else some 0x0D⟩] }
    | _ => s) { s with acks := s.acks.filter fun a => a.line != ln || (match a.tag with | .host .. => true | _ => false) }
  setHome s ln {}

/-- Lines of a lost peer leave this device's cisterns; a write among them is dropped and logged (R456). -/
def dropPeerLines (s : State) (d : Nat) : State :=
  let of := fun ln => peerLine ln && lineDev ln == d
  let s := (s.homes.filter fun h => of h.1).foldl (fun s h => endPeerReqs s d h.1) s
  (upto 4).foldl (fun s c =>
    let s := ((getCist s c).lines.filter fun l => of l.1 && l.2.dirty != 0).foldl (fun s l => logPush s 2 0x0C 0 none (lineAddr s l.1) d) s
    modCist s c fun x => { x with lines := x.lines.filter (fun l => !of l.1), narrow := x.narrow.filter (fun p => !of p.1)
                                  sent := x.sent.filter fun p => !of p.1 }) s

/-- PEER_LOST (R374, R455, R473): every port to the peer is failed or down, and one has been up. -/
def peerLost (s : State) (d : Nat) : State :=
  let ps := routePorts s d
  if s.lostPeers.contains d ∨ !(ps.any (·.everUp)) ∨ ps.any (fun p => p.st == .up || p.st == .training) then s
  else
    let s := freshLoss { s with lostPeers := s.lostPeers ++ [d] }
    let s := s.dir.foldl (fun s p => dropAgent s p.1 (32 + d)) s
    let s := s.homes.foldl (fun s p => dropRequests s p.1 (32 + d)) s
    let s := dropPeerLines s d
    stopDisps s (fun x => x.peers.contains d || s.regions.any fun p => match p.2.team with
      | some t => t.disp == x.id && t.peers.contains d
      | none => false) 4 0x0C

def execPeerLost (d : Nat) (s : State) : Host.Outcome State Fault Refusal := withUnit (decide (d < 32)) s fun s => peerLost s d

/-! ## Die-to-die links (R14, R455, R456) -/

/-- Dies of the bound and saved teams of a dispatch. -/
def dispDies (s : State) (id : Nat) : List Nat :=
  (dispRegions s id).map dieOf ++ (s.saves.filter (savedOf id)).map fun v => dieOf v.region0

/-- A cistern beyond the failed fabric loses the line, whose home is at a well. -/
def cutLine (s : State) (ln well : Nat) : State :=
  (upto 4).foldl (fun s c =>
    if dieFar s c (well / 2) then
      let s := dropRequests (dropAgent s ln c) ln c
      let s := modDir (dropCLine s c ln) ln fun d => { d with ts := d.ts &&& ~~~ bit4 c, nh := d.nh &&& ~~~ bit4 c }
      modCist s c fun x => { x with walkers := x.walkers.filter (fun p => p.1 != ln), narrow := x.narrow.filter (fun p => p.1 != ln)
                                    sent := x.sent.filter fun p => p.1 != ln }
    else s) s

/-- DIE_LINK_FAIL: fabric f fails. -/
def dieLinkFail (s : State) (f : Nat) : State :=
  if s.d2dFailed.contains f then s
  else
    let s := freshLoss { s with d2dFailed := s.d2dFailed ++ [f] }
    let lines := ((s.dir.map (·.1) ++ s.homes.map (·.1)).eraseDups).filter fun ln => !peerLine ln
    let s := lines.foldl (fun s ln => cutLine s ln (wellOf s ln)) s
    stopDisps s (fun d => (dispDies s d.id).any fun a => (dispDies s d.id).any fun b => (dieRoute a b).contains f) 4 0x0C

def execDieLinkFail (f : Nat) (s : State) : Host.Outcome State Fault Refusal := withUnit (decide (f < 4)) s fun s => dieLinkFail s f

end Sys2Proof.Machine
end

