-- ==== Sys2Proof/Machine/Power.lean ====
section
/-!
DEFINITION. Machine/Power.lean: the power-token tree, its budgets and emergencies, and the operating point of a region (R475 to R481).
-/
namespace Sys2Proof.Machine

/-! ## Refills (R475, R478, R480) -/

/-- The operating point within PMIN to PMAX; FIX holds it at PMAX (R480). -/
def pointLimit (x : Region) (p : Nat) : Nat := if x.opFix then x.pmax else Nat.max x.pmin (Nat.min x.pmax p)

/-- The budget of a refill: the newest that was written before its cycle (R478). -/
def budgetNow (x : Region) : Nat × Nat :=
  match x.budNext.find? fun b => b.1 != x.cycle with
  | some b => b.2
  | none => (x.etok, x.istep)

/-- A refill: a budget and an operating point that wait take effect with it; every element gains ETOK tokens, up to 256, and every
island's step credit becomes ISTEP. -/
def powerRefill (s : State) (r : Nat) : State :=
  let x := getR s r
  let b := budgetNow x
  let s := (elemKeys x r).foldl (fun s k => modE s k fun e => { e with pow := Nat.min 256 (e.pow + b.1) }) s
  setR s r { x with
    etok := b.1, istep := b.2, budNext := x.budNext.filter fun b => b.1 == x.cycle
    point := pointLimit x (x.pointNext.getD x.point), pointNext := none
    islands := (upto 4).map fun m => (m, { tget x.islands m {} with credit := b.2 }) }

def execPowerTokenRefill (r : Nat) (s : State) : Host.Outcome State Fault Refusal := withUnit (regionOk r) s fun s => powerRefill s r

/-- PWRBUD_RECOMPUTE: once per ms the management controller sets every budget, within its limits; the values are free
(log 13). -/
def budgetRecompute (s : State) : State :=
  if s.lastBudget + 1000000 ≤ s.time then
    let s := (upto 64).foldl (fun s r => modR s r fun x => { x with
      budNext := (x.cycle, Config.budget (s.free + 2 * r) % 257, Config.budget (s.free + 2 * r + 1) % 65) :: x.budNext }) s
    { s with free := s.free + 128, lastBudget := s.time }
  else s

def execPwrbudRecompute (s : State) : Host.Outcome State Fault Refusal := .next (budgetRecompute s)

/-- Regions from a number on, then those below it. -/
def regionsFrom (n : Nat) : List Nat := (upto 64).map fun i => (n + i) % 64

/-- POWER_EMERGENCY: the next Running region in order is asked to stop, at most one every 10 µs (R479). -/
def powerEmergency (s : State) : State :=
  let due := match s.emergAt with | some t => decide (t + 10000 ≤ s.time) | none => true
  match (regionsFrom s.emergRegion).find? fun r => (getR s r).rstate == .running with
  | some r => if due then prRequest { s with emergAt := some s.time, emergRegion := (r + 1) % 64 } r 0x14 true else s
  | none => s

def execPowerEmergency (s : State) : Host.Outcome State Fault Refusal := .next (powerEmergency s)

/-! ## The back-pressure monitor (R481) -/

/-- The monitor counts: the region is not stopped. -/
def monitored (x : Region) : Bool := acting x

/-- An outbound port holds a token that its ring has no room for. -/
def portHeld (s : State) (r : Nat) (x : Region) : Bool :=
  (upto 16).any fun n =>
    let b := spOf s r n
    spEnabled b && spOut b && (tget x.ports n {}).slots.toks != [] && ringFull (ringDesc s (spDie b) (spRing b))

/-- No element fires, and no enabled inbound port has an entry waiting. -/
def starved (s : State) (r : Nat) (x : Region) : Bool :=
  x.firedAt != some x.cycle && (upto 16).all fun n =>
    let b := spOf s r n
    let d := ringDesc s (spDie b) (spRing b)
    !(spEnabled b && !spOut b) || ringRd d (spCons b) == ringWr d

/-- One cycle of the monitor. -/
def monitorCycle (s : State) (r : Nat) : State :=
  let x := getR s r
  if monitored x then
    setR s r { x with bpHeld := x.bpHeld + (if portHeld s r x then 1 else 0), bpStarve := x.bpStarve + (if starved s r x then 1 else 0) }
  else s

/-- The operating point after a window, within PMIN to PMAX. -/
def windowPoint (x : Region) : Nat :=
  let p := x.pointNext.getD x.point
  let q := if 8192 ≤ x.bpHeld ∨ 8192 ≤ x.bpStarve then p - 1 else if x.bpHeld < 2048 ∧ x.bpStarve < 2048 then p + 1 else p
  pointLimit x q

/-- BACKPRESSURE_WINDOW_END: the point moves, with the next refill, by at most one step, and the counts restart. -/
def windowEnd (s : State) (r : Nat) : State :=
  modR s r fun x => { x with pointNext := some (windowPoint x), bpHeld := 0, bpStarve := 0 }

def execBackpressureWindowEnd (r : Nat) (s : State) : Host.Outcome State Fault Refusal := withUnit (regionOk r) s fun s => windowEnd s r

end Sys2Proof.Machine
end

