-- ==== Sys2Proof/Machine/Clock.lean ====
section
/-!
DEFINITION. Machine/Clock.lean: what passes with a fabric cycle of a region and with the device time base.
-/
namespace Sys2Proof.Machine

/-- What falls at the end of certain cycles of a region: the Stoat sample (R333), the end of a back-pressure window (R481) and the
refill (R475). -/
def cycleEvents (s : State) (r : Nat) : State :=
  let c := (getR s r).cycle + 1
  let s := if c % 4096 = 0 then stoatSample s r else s
  let s := if c % 32768 = 0 then windowEnd s r else s
  if c % 512 = 0 then powerRefill s r else s

/-- A fabric cycle of a region ends. -/
def tickRegion (s : State) (r : Nat) : State :=
  if regionOk r then
    let s := monitorCycle (portGrants s r) r
    let s := requestPacket (requestPacket s r 0) r 1
    modR (cycleEvents s r) r fun x => { x with cycle := x.cycle + 1 }
  else s

/-- One ns passes on the device time base: AGE of every waiting head follows it (R318). -/
def tickTime (s : State) : State :=
  let s := s.dist.since.foldl (fun s p => if s.minimal then s else agePut s p.1) s
  hostStep (frmStep (meterBoundary ((upto 64).foldl heldTick { s with time := s.time + 1 })))

end Sys2Proof.Machine
end

