-- ==== Sys2Proof/Machine/Crypto.lean ====
section
/-!
DEFINITION. Machine/Crypto.lean: verification of an ECDSA signature over the curve P-384 (R486, R491), as FIPS 186 gives it.
-/
namespace Sys2Proof.Machine

/-! ## The curve -/

def ecP : Nat := 2 ^ 384 - 2 ^ 128 - 2 ^ 96 + 2 ^ 32 - 1
def ecB : Nat := 0xB3312FA7E23EE7E4988E056BE3F82D19181D9C6EFE8141120314088F5013875AC656398D8A2ED19D2A85C8EDD3EC2AEF
def ecN : Nat := 0xFFFFFFFFFFFFFFFFFFFFFFFFFFFFFFFFFFFFFFFFFFFFFFFFC7634D81F4372DDF581A0DB248B0A77AECEC196ACCC52973
def ecGx : Nat := 0xAA87CA22BE8B05378EB1C71EF320AD746E1D3B628BA79B9859F741E082542A385502F25DBF55296C3A545E3872760AB7
def ecGy : Nat := 0x3617DE4A96262C6F5D9E98BF9292DC29F8F41DBD289A147CE9DA3113B5F0B8C00A60B1CE1D7E819D7A431D7C90EA0E5F

/-- a to the power e modulo m, over the bits of e from k - 1 down. -/
def powMod (m a e : Nat) : Nat → Nat
  | 0 => 1 % m
  | k + 1 =>
    let h := powMod m a (e / 2) k
    let q := h * h % m
    if e % 2 = 1 then q * a % m else q

/-- The inverse modulo a prime of at most 384 bits. -/
def invMod (m a : Nat) : Nat := powMod m a (m - 2) 384

/-- A point (x : y : z) that stands for (x / z², y / z³); z = 0 is the point at infinity. -/
structure EcPoint where
  x : Nat
  y : Nat
  z : Nat
  deriving DecidableEq, Repr, Inhabited

def ecInf : EcPoint := ⟨1, 1, 0⟩

/-- Differences modulo the field prime of reduced values. -/
def subP (a b : Nat) : Nat := (a + ecP - b) % ecP

/-- Twice a point. -/
def ecDouble (a : EcPoint) : EcPoint :=
  if a.z = 0 then a
  else
    let zz := a.z * a.z % ecP
    let yy := a.y * a.y % ecP
    let m := 3 * (subP a.x zz * ((a.x + zz) % ecP) % ecP) % ecP
    let t := 4 * (a.x * yy % ecP) % ecP
    let x := subP (m * m % ecP) (2 * t % ecP)
    ⟨x, subP (m * subP t x % ecP) (8 * (yy * yy % ecP) % ecP), 2 * (a.y * a.z % ecP) % ecP⟩

/-- The sum of two points. -/
def ecAdd (a b : EcPoint) : EcPoint :=
  if a.z = 0 then b
  else if b.z = 0 then a
  else
    let za := a.z * a.z % ecP
    let zb := b.z * b.z % ecP
    let u1 := a.x * zb % ecP
    let u2 := b.x * za % ecP
    let s1 := a.y * (b.z * zb % ecP) % ecP
    let s2 := b.y * (a.z * za % ecP) % ecP
    if u1 = u2 then (if s1 = s2 then ecDouble a else ecInf)
    else
      let h := subP u2 u1
      let r := subP s2 s1
      let hh := h * h % ecP
      let hhh := h * hh % ecP
      let v := u1 * hh % ecP
      let x := subP (subP (r * r % ecP) hhh) (2 * v % ecP)
      ⟨x, subP (r * subP v x % ecP) (s1 * hhh % ecP), h * (a.z * b.z % ecP) % ecP⟩

/-- n times a point, over the bits of n from k - 1 down. -/
def ecMul (p : EcPoint) (n : Nat) : Nat → EcPoint
  | 0 => ecInf
  | k + 1 =>
    let d := ecDouble (ecMul p (n / 2) k)
    if n % 2 = 1 then ecAdd d p else d

/-- A public key lies on the curve. -/
def ecValid (x y : Nat) : Bool :=
  decide (x < ecP) && decide (y < ecP) && y * y % ecP == subP ((x * x % ecP * x + ecB) % ecP) (3 * x % ecP)

/-- The signature (r, s) of a digest e verifies under the key (x, y). -/
def ecdsaValid (e r s x y : Nat) : Bool :=
  ecValid x y && r != 0 && decide (r < ecN) && s != 0 && decide (s < ecN) &&
    let w := invMod ecN s
    let a := ecAdd (ecMul ⟨ecGx, ecGy, 1⟩ (e * w % ecN) 384) (ecMul ⟨x, y, 1⟩ (r * w % ecN) 384)
    a.z != 0 &&
      let i := invMod ecP a.z
      a.x * (i * i % ecP) % ecP % ecN == r

end Sys2Proof.Machine
end

