-- ==== Sys2Proof/Machine/Boot.lean ====
section
/-!
DEFINITION. Machine/Boot.lean: start-up and its failures (R486, R487), the root of trust's measurements (R488) and its VERIFY
queue (R489 to R491).
-/
namespace Sys2Proof.Machine

/-! ## Start-up (R486, R487) -/

/-- A start fails for a reason: FAILS counts it, and REASON keeps it. -/
def startFail (s : State) (reason : Nat) : State := { s with fails := Nat.min 3 (s.fails + 1), bootReason := reason, goodBy := none }

/-- GOOD has not been written within 10 s of stage 4. -/
def goodDue (s : State) : Bool := match s.goodBy with | some t => decide (t + 10000000000 ≤ s.time) | none => false

def execGoodTimeout (s : State) : Host.Outcome State Fault Refusal := .next (if goodDue s then startFail s 6 else s)

/-- The stage in which a start meets a reason; 4 without one. -/
def failStage (reason : Nat) : Nat := if reason = 0 then 4 else if reason ≤ 3 then 1 else if reason = 4 then 2 else 3

/-- What a reset leaves: every field at its reset value, but for FAILS and REASON, what the device fixes (its fused sites and
key hash, its ID and its capability list), and the model's own fields. -/
def cleared (s : State) : State :=
  { State.reset with
    turn := s.turn, moves := s.moves, free := s.free, focus := s.focus
    regions := tmap (fun _ x => { ({} : Region) with fused := x.fused }) s.regions
    keyhash := [(0, tget s.keyhash 0 0)], devid := s.devid, bridge := s.bridge, fails := s.fails, bootReason := s.bootReason
    qTable := s.qTable, asTable := s.asTable, asCount := s.asCount, ringOffset := s.ringOffset, moduleForm := s.moduleForm }

/-- A start that meets a reason from 1 to 5, or none (0): the third failure in a row makes the next start minimal, unless the
host requests it. -/
def startUp (s : State) (host : Bool) (reason : Nat) : State :=
  let c := cleared s
  let minimal := !host && s.fails == 3
  if reason ≠ 0 ∧ (!minimal ∨ failStage reason = 1) then { startFail c reason with stage := failStage reason }
  else if minimal then { c with stage := 1, minimal := true, goodBy := none }
  else { c with bootMeasured := bootst c }

/-- DEVICE_RESET: a start by the host's request or another, and the reason that it meets. -/
def execDeviceReset (host : Bool) (fail : Nat) (s : State) : Host.Outcome State Fault Refusal :=
  withUnit (decide (fail ≤ 5)) s fun s => startUp s host fail

/-! ## Measurements (R488) -/

/-- The responder answers. -/
def spdmAnswer (s : State) (f : Spdm → Spdm) (a : SpdmReply) : Host.Outcome State Fault Refusal :=
  .next { s with spdm := { f s.spdm with reply := some a } }

/-- n free bytes that the device's certificates, keys and the requester's nonce fix (log 16). -/
def spdmBytes (s : State) (n : Nat) : List Byte := (upto n).map fun i => Config.spdmByte (1024 + s.free + i)

/-- A request that is answered once the algorithms are settled; before that it is unexpected (log 16). -/
def spdmAfter (s : State) (a : SpdmReply) : Host.Outcome State Fault Refusal :=
  if s.spdm.algs then spdmAnswer { s with free := s.free + 1024 } id a else spdmAnswer s id .unexpectedRequest

/-- GET_VERSION: SPDM 1.3; it begins a connection. -/
def execGetVersion (s : State) : Host.Outcome State Fault Refusal :=
  spdmAnswer s (fun x => { x with version := true, caps := false, algs := false }) (.version 1 3)

/-- GET_CAPABILITIES: no secure sessions. -/
def execGetCapabilities (s : State) : Host.Outcome State Fault Refusal :=
  if s.spdm.version then spdmAnswer s (fun x => { x with caps := true }) (.capabilities true true true false)
  else spdmAnswer s id .unexpectedRequest

/-- NEGOTIATE_ALGORITHMS: ECDSA P-384 with SHA-384. -/
def execNegotiateAlgorithms (s : State) : Host.Outcome State Fault Refusal :=
  if s.spdm.caps then spdmAnswer s (fun x => { x with algs := true }) (.algorithms true true)
  else spdmAnswer s id .unexpectedRequest

def execGetDigests (s : State) : Host.Outcome State Fault Refusal := spdmAfter s (.digests (spdmBytes s 48))
def execGetCertificate (s : State) : Host.Outcome State Fault Refusal := spdmAfter s (.certificate (spdmBytes s 1024))
def execChallenge (s : State) : Host.Outcome State Fault Refusal := spdmAfter s (.challengeAuth (spdmBytes s 96))

/-- A measurement: the first four are fixed by the firmware, the ROM and the fuses of the device; the fifth is BOOTST. -/
def measured (s : State) (ix : Nat) : List Byte :=
  if ix = 5 then bytesOf 8 s.bootMeasured else (upto 48).map fun i => Config.spdmByte (48 * ix + i)

/-- GET_MEASUREMENTS of an index; another than 1 to 5 is no measurement. -/
def execGetMeasurements (ix : Nat) (s : State) : Host.Outcome State Fault Refusal :=
  spdmAfter s (if 1 ≤ ix ∧ ix ≤ 5 then .measurement ix (measured s ix) else .unexpectedRequest)

/-! ## VERIFY (R490, R491) -/

/-- VERIFY. -/
def execVerify (a d : BitVec 5) (s : State) : Host.Outcome State Fault Refusal := seqPriv s fun r q =>
  let va := getS q a
  let x := getR s r
  if va.toNat % 64 ≠ 0 then seqTrap s r 0x04 va
  else if 8 ≤ s.rotQueue.length then seqPut s r d 0
  else seqPut { s with rotQueue := s.rotQueue ++ [⟨va.toNat, asidOf x, ownerOf x, r, none⟩] } r d 1

/-- Bytes of a record from a byte on, as a big-endian integer. -/
def recInt (b : List Byte) (i n : Nat) : Nat := beVal ((b.drop i).take n)

/-- RESULT of a record that has been read. -/
def verifyResult (s : State) (b : List Byte) : Nat :=
  let v := leVal b
  let slot := v / 2 ^ 1920 % 8
  let key := bytesOf 48 (tget s.keyhash slot 0).toNat
  if v / 2 ^ 1923 % 2 ^ 61 ≠ 0 ∨ v / 2 ^ 1985 % 2 ^ 7 ≠ 0 ∨ v / 2 ^ 2000 ≠ 0 then 4
  else if leVal key = 0 then 3
  else if sha384 ((b.drop 144).take 96) != key then 2
  else if ecdsaValid (recInt b 0 48) (recInt b 48 48) (recInt b 96 48) (recInt b 144 48) (recInt b 192 48) then 0 else 1

/-- What the root of trust asks of a translation: the rights of the supervisor that issued the VERIFY. -/
def rotReq (v : VReq) (kind : Nat) : XReq := ⟨v.asid, v.owner, false, kind, false, false⟩

def setVerify (s : State) (v : VReq) : State := { s with rotQueue := v :: s.rotQueue.tail }

/-- The request at the head of the queue: its record is read and checked; then bytes 248 to 255 are written, and the request
leaves the queue. -/
def verifyStep (s : State) : State :=
  match s.rotQueue with
  | [] => s
  | v :: rest => match v.result with
    | none => engStep s (engineRecord s 0 (rotReq v 0) v.addr 256)
      (fun s f => setVerify (enginePost s 0 f v.asid 0 9 0) { v with result := some 5 })
      fun s b => setVerify s { v with result := some (verifyResult s b) }
    | some n => engStep s (engineXlat s 0 (v.addr + 248) (rotReq v 1))
      (fun s f => { enginePost s 0 f v.asid 1 9 0 with rotQueue := rest }) fun s x =>
        let w := engineStoreLine s 3 v.owner (some v.region) (x.pa + (v.addr + 248 - x.va)) [1, BitVec.ofNat 8 n, 0, 0, 0, 0, 0, 0]
        if w.2 then { w.1 with rotQueue := rest } else w.1

/-- VERIFY_SERVE. -/
def execVerifyServe (s : State) : Host.Outcome State Fault Refusal := .next (verifyStep s)

end Sys2Proof.Machine
end

