-- ==== Sys2Proof/Machine/FloatFn.lean ====
section
/-!
DEFINITION. Machine/FloatFn.lean: the special functions of R147 and R148, correctly rounded. Reciprocal and reciprocal
square root are exact to the last bit with a sticky bit. 2^x, log2, sine and cosine are enclosed in fixed point
with 256 fraction bits, closer to the exact value than any of them comes to a rounding boundary (log 12).
-/
namespace Sys2Proof.Machine

/-- Fraction bits of the fixed-point evaluation. -/
def fxBits : Nat := 256

/-- The value 1. -/
def fxOne : Nat := 2 ^ fxBits

def fxMul (a b : Nat) : Nat := a * b / 2 ^ fxBits

/-- 1/(1·2) + 1/(2·4) + …: ln 2 as the sum of 1/(k·2^k). -/
def fxLn2 : Nat := (upto 260).foldl (fun s k => s + fxOne / ((k + 1) * 2 ^ (k + 1))) 0

/-- arctan(1/n) by its series, n steps. -/
def fxAtanInv (n : Nat) : Nat :=
  let r := (upto 120).foldl (fun (a : Nat × Int) k =>
    let t := a.1 / (2 * k + 1)
    (a.1 / (n * n), if k % 2 = 0 then a.2 + t else a.2 - t)) (fxOne / n, 0)
  r.2.toNat

/-- π by Machin's formula. -/
def fxPi : Nat := 16 * fxAtanInv 5 - 4 * fxAtanInv 239

/-- exp(x) for 0 ≤ x < 1, by its series. -/
def fxExp (x : Nat) : Nat :=
  ((upto 70).foldl (fun (a : Nat × Nat) k => (fxMul a.1 x / (k + 1), a.2 + a.1)) (fxOne, 0)).2

/-- sin(x) and cos(x) for 0 ≤ x ≤ π/2, by their series. -/
def fxSin (x : Nat) : Nat :=
  let x2 := fxMul x x
  let r := (upto 40).foldl (fun (a : Nat × Int) k =>
    (fxMul a.1 x2 / ((2 * k + 2) * (2 * k + 3)), if k % 2 = 0 then a.2 + a.1 else a.2 - a.1)) (x, 0)
  r.2.toNat

def fxCos (x : Nat) : Nat :=
  let x2 := fxMul x x
  let r := (upto 40).foldl (fun (a : Nat × Int) k =>
    (fxMul a.1 x2 / ((2 * k + 1) * (2 * k + 2)), if k % 2 = 0 then a.2 + a.1 else a.2 - a.1)) (fxOne, 0)
  r.2.toNat

/-- log2(y) for 1 ≤ y < 2: 120 bits of it, by squaring, as a fixed-point value. -/
def fxLog2 (y : Nat) : Nat :=
  ((upto 120).foldl (fun (a : Nat × Nat) k =>
    let s := fxMul a.1 a.1
    if 2 * fxOne ≤ s then (s / 2, a.2 + fxOne / 2 ^ (k + 1)) else (s, a.2)) (y, 0)).2

/-- Rounds an irrational value that v approximates, in units of 2^−fxBits times 2^e; its last bit stands for the rest. The error
of every evaluation below is less than the distance of the exact value to any rounding boundary (log 12). -/
def roundNear (f : NumFmt) (neg : Bool) (v : Nat) (e : Int) : Nat × Flags :=
  roundFin f 0 neg (2 * v + 1) (e - fxBits - 1)

/-- 1 ÷ a (R147, R148). -/
def fRcp (f : NumFmt) (x : Nat) : Nat × Flags :=
  match decodeF f x with
  | .nan neg fr fb s => (convNaN f neg fr fb, if s then fNV else 0)
  | .inf n => (signCode f n, 0)
  | .fin n m e =>
    if m = 0 then (infCode f + signCode f n, fDZ)
    else let (q, k) := divSticky 160 1 0 m e; roundFin f 0 n q k

/-- 1 ÷ √a. -/
def fRsq (f : NumFmt) (x : Nat) : Nat × Flags :=
  match decodeF f x with
  | .nan neg fr fb s => (convNaN f neg fr fb, if s then fNV else 0)
  | .inf n => if n then (canonNaN f, fNV) else (0, 0)
  | .fin n m e =>
    if m = 0 then (infCode f + signCode f n, fDZ)
    else if n then (canonNaN f, fNV)
    else
      -- 1/√(m·2^e) = √(1/(m·2^e)): the root of a quotient, with a sticky bit from either
      let (m, e) := if e % 2 = 0 then (m, e) else (2 * m, e - 1)
      let p := 160 + bitLen m
      let a := 2 ^ (2 * p) / m
      let r := isqrt a
      let exact := r * r * m == 2 ^ (2 * p)
      roundFin f 0 false (2 * r + (if exact then 0 else 1)) (-(e / 2) - p - 1)

/-- 2^a. -/
def fExp2 (f : NumFmt) (x : Nat) : Nat × Flags :=
  match decodeF f x with
  | .nan neg fr fb s => (convNaN f neg fr fb, if s then fNV else 0)
  | .inf n => (if n then 0 else infCode f, 0)
  | .fin n m e =>
    -- a clamped to where every result overflows or underflows
    let big := magGt m e 600 0
    let m := if big then 600 else m
    let e := if big then 0 else e
    if 0 ≤ e || m % 2 ^ (-e).toNat = 0 then
      let k : Int := if 0 ≤ e then (m * 2 ^ e.toNat : Nat) else (m / 2 ^ (-e).toNat : Nat)
      roundFin f 0 false 1 (if n then -k else k)
    else
      let sh := (-e).toNat
      let k : Int := (m / 2 ^ sh : Nat)
      let fr := m % 2 ^ sh
      -- a = k + fr/2^sh, or −k − 1 + (1 − fr/2^sh)
      let (k, fr) := if n then (-k - 1, 2 ^ sh - fr) else (k, fr)
      let t := if sh ≤ fxBits then fr * 2 ^ (fxBits - sh) else fr / 2 ^ (sh - fxBits)
      roundNear f false (fxExp (fxMul t fxLn2)) k

/-- log2 a. -/
def fLog2 (f : NumFmt) (x : Nat) : Nat × Flags :=
  match decodeF f x with
  | .nan neg fr fb s => (convNaN f neg fr fb, if s then fNV else 0)
  | .inf n => if n then (canonNaN f, fNV) else (infCode f, 0)
  | .fin n m e =>
    if m = 0 then (infCode f + signCode f true, fDZ)
    else if n then (canonNaN f, fNV)
    else
      let l := bitLen m - 1
      let k : Int := l + e
      if m = 2 ^ l then roundFin f 0 (decide (k < 0)) k.natAbs 0
      else
        let y := fxLog2 (m * 2 ^ (fxBits - l))
        if 0 ≤ k then roundNear f false (k.toNat * fxOne + y) 0
        else roundNear f true ((-k).toNat * fxOne - y) 0

/-- sin(2π × a) for a = r/2^fxBits, 0 ≤ r < 2^fxBits, as (sign, magnitude): by quarter turns. -/
def fxSinTurn (r : Nat) : Bool × Nat :=
  let quarter := fxOne / 4
  let q := r / quarter
  let s := r % quarter
  let rad := fun t => fxMul t (2 * fxPi)
  let mag := if q % 2 = 0 then (if 8 * s ≤ fxOne then fxSin (rad s) else fxCos (rad (quarter - s)))
    else (if 8 * s ≤ fxOne then fxCos (rad s) else fxSin (rad (quarter - s)))
  (decide (2 ≤ q), mag)

/-- The fraction of a turn of m × 2^e, in units of 2^−fxBits. -/
def turnOf (neg : Bool) (m : Nat) (e : Int) : Nat :=
  let v := if 0 ≤ e then 0 else (m * 2 ^ (fxBits + e).toNat) % fxOne
  if neg && v != 0 then fxOne - v else v

/-- sin(2π × a); an exact zero takes the sign of a. -/
def fSin (f : NumFmt) (x : Nat) : Nat × Flags :=
  match decodeF f x with
  | .nan neg fr fb s => (convNaN f neg fr fb, if s then fNV else 0)
  | .inf _ => (canonNaN f, fNV)
  | .fin n m e =>
    let r := turnOf n m e
    if r % (fxOne / 2) = 0 then (signCode f n, 0)
    else if r % (fxOne / 4) = 0 then roundFin f 0 (r != fxOne / 4) 1 0
    else let (neg, v) := fxSinTurn r; roundNear f neg v 0

/-- cos(2π × a) = sin(2π × (a + ¼)); an exact zero is +0. -/
def fCos (f : NumFmt) (x : Nat) : Nat × Flags :=
  match decodeF f x with
  | .nan neg fr fb s => (convNaN f neg fr fb, if s then fNV else 0)
  | .inf _ => (canonNaN f, fNV)
  | .fin n m e =>
    let r := (turnOf n m e + fxOne / 4) % fxOne
    if r % (fxOne / 2) = 0 then (0, 0)
    else if r % (fxOne / 4) = 0 then roundFin f 0 (r != fxOne / 4) 1 0
    else let (neg, v) := fxSinTurn r; roundNear f neg v 0

end Sys2Proof.Machine
end

