-- ==== Sys2Proof/Machine/ElemFloat.lean ====
section
/-!
DEFINITION. Machine/ElemFloat.lean: the floating-point instructions of the element (R146 to R152).
-/
namespace Sys2Proof.Machine

/-! ## Lane functions: codes of a format to the code and flags of the result -/

/-- The floating-point format of the lanes of TY (R69). -/
def tyFmt (t : LaneTy) : NumFmt := (laneFmt t true).getD .fp32

/-- The first NaN among the operands, quieted, and NV where any of them signals (R38). -/
def firstNaN (f : NumFmt) (l : List FV) : Option (Nat × Flags) :=
  match l.find? FV.isNaN with
  | some (.nan neg fr fb _) => some (convNaN f neg fr fb, if l.any FV.isSig then fNV else 0)
  | _ => none

/-- A result computed from operands that are not NaNs; none stands for an invalid operation (R148). -/
def fResult (f : NumFmt) (l : List FV) (r : Option FV) : Nat × Flags :=
  match firstNaN f l with
  | some x => x
  | none => match r with
    | some v => roundV f 0 v
    | none => (canonNaN f, fNV)

def fAdd (f : NumFmt) (x y : Nat) : Nat × Flags :=
  let a := decodeF f x; let b := decodeF f y
  fResult f [a, b] (sumV [a, b])
def fSub (f : NumFmt) (x y : Nat) : Nat × Flags :=
  let a := decodeF f x; let b := decodeF f y
  fResult f [a, b] (sumV [a, b.negate])
def fMul (f : NumFmt) (x y : Nat) : Nat × Flags :=
  let a := decodeF f x; let b := decodeF f y
  fResult f [a, b] (mulV a b)
def fMa (f : NumFmt) (x y z : Nat) : Nat × Flags :=
  let a := decodeF f x; let b := decodeF f y; let c := decodeF f z
  fResult f [a, b, c] ((mulV a b).bind fun p => sumV [p, c])
def fNma (f : NumFmt) (x y z : Nat) : Nat × Flags :=
  let a := decodeF f x; let b := decodeF f y; let c := decodeF f z
  fResult f [a, b, c] ((mulV a b).bind fun p => sumV [c, p.negate])
def fMin (f : NumFmt) (x y : Nat) : Nat × Flags :=
  let a := decodeF f x; let b := decodeF f y
  fResult f [a, b] (some (minV a b))
def fMax (f : NumFmt) (x y : Nat) : Nat × Flags :=
  let a := decodeF f x; let b := decodeF f y
  fResult f [a, b] (some (maxV a b))
def fSgn (f : NumFmt) (x y : Nat) : Nat × Flags :=
  let a := decodeF f x; let b := decodeF f y
  fResult f [a, b] (some (a.withSign b.neg))

/-- A comparison: `sig` says that only a signalling NaN sets NV (R149). -/
def fCmp (f : NumFmt) (p : FV → FV → Bool) (sig : Bool) (x y : Nat) : Nat × Flags :=
  let a := decodeF f x; let b := decodeF f y
  if a.isNaN || b.isNaN then (0, if !sig || a.isSig || b.isSig then fNV else 0)
  else (if p a b then ones f.width else 0, 0)

/-- FMIN(RoundF(a + b), c) (R147). -/
def fAddmin (f : NumFmt) (x y z : Nat) : Nat × Flags :=
  let a := decodeF f x; let b := decodeF f y; let c := decodeF f z
  match firstNaN f [a, b, c] with
  | some r => r
  | none => match sumV [a, b] with
    | none => (canonNaN f, fNV)
    | some v =>
      let (r, fl) := roundV f 0 v
      ((roundV f 0 (minV (decodeF f r) c)).1, fl)

/-- An exponent beyond which every result overflows or underflows alike. -/
def clampExp (k : Int) : Int := if k < -5000 then -5000 else if k > 5000 then 5000 else k

/-- a × 2^S(b) (R147, R148). -/
def fScale (f : NumFmt) (x y : Nat) : Nat × Flags :=
  match decodeF f x with
  | .fin neg m e => roundFin f 0 neg m (e + clampExp (sext f.width y))
  | v => roundV f 0 v

def fSat (f : NumFmt) (x : Nat) : Nat × Flags :=
  let a := decodeF f x
  fResult f [a] (some (minV (maxV a (.fin false 0 0)) (.fin false 1 0)))

/-- FCLASS (R150). -/
def fClass (f : NumFmt) (x : Nat) : Nat :=
  match decodeF f x with
  | .nan _ _ _ sig => if sig then 2 ^ 8 else 2 ^ 9
  | .inf n => if n then 2 ^ 0 else 2 ^ 7
  | .fin n m _ =>
    let p := fmtParams f
    if m = 0 then (if n then 2 ^ 3 else 2 ^ 4)
    else if m < 2 ^ p.2.1 then (if n then 2 ^ 2 else 2 ^ 5)
    else (if n then 2 ^ 1 else 2 ^ 6)

/-- Rounding to an integral value in the same format (R151). -/
def fRnd (f : NumFmt) (rm : Nat) (x : Nat) : Nat × Flags :=
  match decodeF f x with
  | .fin neg m e =>
    let (n, inexact) := onGrid rm neg m e 0
    ((roundFin f 0 neg n 0).1, if inexact then fNX else 0)
  | v => roundV f 0 v

/-- One lane of FDOT2 (R152). -/
def fDot2 (f : NumFmt) (a0 a1 b0 b1 c : Nat) : Nat × Flags :=
  let va0 := decodeF f a0; let va1 := decodeF f a1; let vb0 := decodeF f b0; let vb1 := decodeF f b1
  let vc := decodeF .fp32 c
  fResult .fp32 [va0, va1, vb0, vb1, vc]
    ((mulV va0 vb0).bind fun p => (mulV va1 vb1).bind fun q => sumV [p, q, vc])

/-! ## Lane by lane, the flags of every lane together (R50) -/

def collect (w : Nat) (l : List (Nat × Flags)) : Vec × Flags :=
  (vecOf w (l.map (·.1)), l.foldl (fun a x => a ||| x.2) 0)

def fLanes1 (f : NumFmt) (g : Nat → Nat × Flags) (a : Vec) : Vec × Flags :=
  collect f.width ((lanes f.width a).map g)
def fLanes2 (f : NumFmt) (g : Nat → Nat → Nat × Flags) (a b : Vec) : Vec × Flags :=
  collect f.width (List.zipWith g (lanes f.width a) (lanes f.width b))
def fLanes3 (f : NumFmt) (g : Nat → Nat → Nat → Nat × Flags) (a b c : Vec) : Vec × Flags :=
  collect f.width (List.zipWith (fun p z => g p.1 p.2 z) (List.zip (lanes f.width a) (lanes f.width b)) (lanes f.width c))

/-- Cycles per beat: 2 in binary64 (R137). -/
def fpCycles (t : LaneTy) : Nat := if t = .d then 2 else 1

/-- Fires a floating-point instruction whose result lanes have rw bits. -/
def fireFp (i : Instr) (t : LaneTy) (rw : Nat) (g : BeatOps → Vec × Flags) (s : State) :
    Host.Outcome State Fault Refusal :=
  fire i (fpCycles t) rw noCarry (flagExe g) s

/-! ## Meanings -/

/-- FADD (R147). -/
def execFadd (h : Hdr) (d a b : Opnd) (s : State) : Host.Outcome State Fault Refusal :=
  fireFp (.fadd h d a b) h.ty h.ty.width (fun o => fLanes2 (tyFmt h.ty) (fAdd (tyFmt h.ty)) o.a o.b) s

/-- FSUB (R147). -/
def execFsub (h : Hdr) (d a b : Opnd) (s : State) : Host.Outcome State Fault Refusal :=
  fireFp (.fsub h d a b) h.ty h.ty.width (fun o => fLanes2 (tyFmt h.ty) (fSub (tyFmt h.ty)) o.a o.b) s

/-- FMUL (R147). -/
def execFmul (h : Hdr) (d a b : Opnd) (s : State) : Host.Outcome State Fault Refusal :=
  fireFp (.fmul h d a b) h.ty h.ty.width (fun o => fLanes2 (tyFmt h.ty) (fMul (tyFmt h.ty)) o.a o.b) s

/-- FMA (R147). -/
def execFma (h : Hdr) (d a b c : Opnd) (s : State) : Host.Outcome State Fault Refusal :=
  fireFp (.fma h d a b c) h.ty h.ty.width (fun o => fLanes3 (tyFmt h.ty) (fMa (tyFmt h.ty)) o.a o.b o.c) s

/-- FNMA (R147). -/
def execFnma (h : Hdr) (d a b c : Opnd) (s : State) : Host.Outcome State Fault Refusal :=
  fireFp (.fnma h d a b c) h.ty h.ty.width (fun o => fLanes3 (tyFmt h.ty) (fNma (tyFmt h.ty)) o.a o.b o.c) s

/-- FMIN (R147). -/
def execFmin (h : Hdr) (d a b : Opnd) (s : State) : Host.Outcome State Fault Refusal :=
  fireFp (.fmin h d a b) h.ty h.ty.width (fun o => fLanes2 (tyFmt h.ty) (fMin (tyFmt h.ty)) o.a o.b) s

/-- FMAX (R147). -/
def execFmax (h : Hdr) (d a b : Opnd) (s : State) : Host.Outcome State Fault Refusal :=
  fireFp (.fmax h d a b) h.ty h.ty.width (fun o => fLanes2 (tyFmt h.ty) (fMax (tyFmt h.ty)) o.a o.b) s

/-- FCMPEQ (R149). -/
def execFcmpeq (h : Hdr) (d a b : Opnd) (s : State) : Host.Outcome State Fault Refusal :=
  fireFp (.fcmpeq h d a b) h.ty h.ty.width (fun o => fLanes2 (tyFmt h.ty) (fCmp (tyFmt h.ty) (fun x y => cmpV x y == .eq) true) o.a o.b) s

/-- FCMPLT (R149). -/
def execFcmplt (h : Hdr) (d a b : Opnd) (s : State) : Host.Outcome State Fault Refusal :=
  fireFp (.fcmplt h d a b) h.ty h.ty.width (fun o => fLanes2 (tyFmt h.ty) (fCmp (tyFmt h.ty) ltV false) o.a o.b) s

/-- FCMPLE (R149). -/
def execFcmple (h : Hdr) (d a b : Opnd) (s : State) : Host.Outcome State Fault Refusal :=
  fireFp (.fcmple h d a b) h.ty h.ty.width (fun o => fLanes2 (tyFmt h.ty) (fCmp (tyFmt h.ty) leV false) o.a o.b) s

/-- FSGN (R147). -/
def execFsgn (h : Hdr) (d a b : Opnd) (s : State) : Host.Outcome State Fault Refusal :=
  fireFp (.fsgn h d a b) h.ty h.ty.width (fun o => fLanes2 (tyFmt h.ty) (fSgn (tyFmt h.ty)) o.a o.b) s

/-- FRCP (R147, R148). -/
def execFrcp (h : Hdr) (d a : Opnd) (s : State) : Host.Outcome State Fault Refusal :=
  fireFp (.frcp h d a) h.ty h.ty.width (fun o => fLanes1 (tyFmt h.ty) (fRcp (tyFmt h.ty)) o.a) s

/-- FRSQ (R147, R148). -/
def execFrsq (h : Hdr) (d a : Opnd) (s : State) : Host.Outcome State Fault Refusal :=
  fireFp (.frsq h d a) h.ty h.ty.width (fun o => fLanes1 (tyFmt h.ty) (fRsq (tyFmt h.ty)) o.a) s

/-- FEXP2 (R147, R148). -/
def execFexp2 (h : Hdr) (d a : Opnd) (s : State) : Host.Outcome State Fault Refusal :=
  fireFp (.fexp2 h d a) h.ty h.ty.width (fun o => fLanes1 (tyFmt h.ty) (fExp2 (tyFmt h.ty)) o.a) s

/-- FLOG2 (R147, R148). -/
def execFlog2 (h : Hdr) (d a : Opnd) (s : State) : Host.Outcome State Fault Refusal :=
  fireFp (.flog2 h d a) h.ty h.ty.width (fun o => fLanes1 (tyFmt h.ty) (fLog2 (tyFmt h.ty)) o.a) s

/-- FSIN (R147, R148). -/
def execFsin (h : Hdr) (d a : Opnd) (s : State) : Host.Outcome State Fault Refusal :=
  fireFp (.fsin h d a) h.ty h.ty.width (fun o => fLanes1 (tyFmt h.ty) (fSin (tyFmt h.ty)) o.a) s

/-- FCOS (R147, R148). -/
def execFcos (h : Hdr) (d a : Opnd) (s : State) : Host.Outcome State Fault Refusal :=
  fireFp (.fcos h d a) h.ty h.ty.width (fun o => fLanes1 (tyFmt h.ty) (fCos (tyFmt h.ty)) o.a) s

/-- FRND (R151): DIAG does not change it. -/
def execFrnd (h : Hdr) (d a : Opnd) (rm : BitVec 3) (s : State) : Host.Outcome State Fault Refusal :=
  fireFp (.frnd h d a rm) h.ty h.ty.width (fun o => fLanes1 (tyFmt h.ty) (fRnd (tyFmt h.ty) rm.toNat) o.a) s

/-- FDOT2 (R152): four binary32 lanes. -/
def execFdot2 (h : Hdr) (d a b c : Opnd) (s : State) : Host.Outcome State Fault Refusal :=
  fireFp (.fdot2 h d a b c) h.ty 32 (fun o => collect 32 ((upto 4).map fun j =>
    fDot2 (tyFmt h.ty) (laneOf 16 o.a.toNat (2 * j)) (laneOf 16 o.a.toNat (2 * j + 1))
      (laneOf 16 o.b.toNat (2 * j)) (laneOf 16 o.b.toNat (2 * j + 1)) (laneOf 32 o.c.toNat j))) s

/-- FADDMIN (R147). -/
def execFaddmin (h : Hdr) (d a b c : Opnd) (s : State) : Host.Outcome State Fault Refusal :=
  fireFp (.faddmin h d a b c) h.ty h.ty.width (fun o => fLanes3 (tyFmt h.ty) (fAddmin (tyFmt h.ty)) o.a o.b o.c) s

/-- FCLASS (R150). -/
def execFclass (h : Hdr) (d a : Opnd) (s : State) : Host.Outcome State Fault Refusal :=
  fireFp (.fclass h d a) h.ty h.ty.width (fun o => fLanes1 (tyFmt h.ty) (fun x => (fClass (tyFmt h.ty) x, 0)) o.a) s

/-- FSCALE (R147, R148). -/
def execFscale (h : Hdr) (d a b : Opnd) (s : State) : Host.Outcome State Fault Refusal :=
  fireFp (.fscale h d a b) h.ty h.ty.width (fun o => fLanes2 (tyFmt h.ty) (fScale (tyFmt h.ty)) o.a o.b) s

/-- FSAT (R147). -/
def execFsat (h : Hdr) (d a : Opnd) (s : State) : Host.Outcome State Fault Refusal :=
  fireFp (.fsat h d a) h.ty h.ty.width (fun o => fLanes1 (tyFmt h.ty) (fSat (tyFmt h.ty)) o.a) s

end Sys2Proof.Machine
end

