-- ==== Sys2Proof/Machine/ElemInt.lean ====
section
/-!
DEFINITION. Machine/ElemInt.lean: the integer instructions of the element (R141 to R145), on lanes of the width of TY.
-/
namespace Sys2Proof.Machine

/-! ## Lane functions: a, b and c are lanes of w bits, as unsigned numbers (R138, R141) -/

def lAdd (w a b : Nat) : Nat := wrap w ((a : Int) + b)
def lSub (w a b : Nat) : Nat := wrap w ((a : Int) - b)
def lAdds (w a b : Nat) : Nat := wrap w (satS w (sext w a + sext w b))
def lSubs (w a b : Nat) : Nat := wrap w (satS w (sext w a - sext w b))
def lAddus (w a b : Nat) : Nat := wrap w (satU w ((a : Int) + b))
def lSubus (w a b : Nat) : Nat := wrap w (satU w ((a : Int) - b))
def lMul (w a b : Nat) : Nat := wrap w (sext w a * sext w b)
def lMulh (w a b : Nat) : Nat := wrap w ((sext w a * sext w b) / ((2 ^ w : Nat) : Int))
def lMulhu (w a b : Nat) : Nat := a * b / 2 ^ w
def lMad (w a b c : Nat) : Nat := wrap w (sext w a * sext w b + sext w c)
def iMin (x y : Int) : Int := if x ≤ y then x else y
def iMax (x y : Int) : Int := if x ≤ y then y else x
def lAddmin (w a b c : Nat) : Nat := wrap w (iMin (satS w (sext w a + sext w b)) (sext w c))
def lAddmax (w a b c : Nat) : Nat := wrap w (iMax (satS w (sext w a + sext w b)) (sext w c))
def lMin (w a b : Nat) : Nat := wrap w (iMin (sext w a) (sext w b))
def lMax (w a b : Nat) : Nat := wrap w (iMax (sext w a) (sext w b))
def lMinu (a b : Nat) : Nat := if a ≤ b then a else b
def lMaxu (a b : Nat) : Nat := if a ≤ b then b else a
def lAbsd (a b : Nat) : Nat := if a ≤ b then b - a else a - b
def lAndn (w a b : Nat) : Nat := a &&& (ones w - b % 2 ^ w)
def lShl (w a s : Nat) : Nat := wrap w ((a * 2 ^ s : Nat) : Int)
def lShr (a s : Nat) : Nat := a / 2 ^ s
def lSar (w a s : Nat) : Nat := wrap w (sext w a / ((2 ^ s : Nat) : Int))
def lRol (w a s : Nat) : Nat := (a * 2 ^ s) % 2 ^ w + a / 2 ^ (w - s)
def lClz (w a : Nat) : Nat := w - (if a = 0 then 0 else a.log2 + 1)
def lMask (w : Nat) (p : Bool) : Nat := if p then ones w else 0

/-- DOT4 and SAD on one 32-bit lane (R142). -/
def lDot4 (a b c : Nat) : Nat :=
  wrap 32 ((upto 4).foldl (fun (t : Int) i => t + sext 8 (laneOf 8 a i) * sext 8 (laneOf 8 b i)) (sext 32 c))
def lSad (a b c : Nat) : Nat :=
  ((upto 4).foldl (fun t i => t + lAbsd (laneOf 8 a i) (laneOf 8 b i)) c) % 2 ^ 32

/-- EXT and INS on one lane; len1 is len − 1 (R145). -/
def lExt (a pos len1 : Nat) : Nat := field a (pos + len1) pos
def lIns (base a pos len1 : Nat) : Nat := putField base (pos + len1) pos a

/-- The immediate of the lanes that a signed imm12 stands for (R144). -/
def immLane (w : Nat) (imm : BitVec 12) : Nat := wrap w imm.toInt

/-! ## Carries: lane 0 of the operands (R143) -/

def cAdd (w : Nat) (o : BeatOps) : Bool := carryAdd w (laneOf w o.a.toNat 0) (laneOf w o.b.toNat 0)
def cSub (w : Nat) (o : BeatOps) : Bool := carrySub w (laneOf w o.a.toNat 0) (laneOf w o.b.toNat 0)
def cAdds (w : Nat) (o : BeatOps) : Bool := carrySatS w (sext w (laneOf w o.a.toNat 0) + sext w (laneOf w o.b.toNat 0))
def cSubs (w : Nat) (o : BeatOps) : Bool := carrySatS w (sext w (laneOf w o.a.toNat 0) - sext w (laneOf w o.b.toNat 0))
def cAddus (w : Nat) (o : BeatOps) : Bool := carrySatU w ((laneOf w o.a.toNat 0 : Int) + laneOf w o.b.toNat 0)
def cSubus (w : Nat) (o : BeatOps) : Bool := carrySatU w ((laneOf w o.a.toNat 0 : Int) - laneOf w o.b.toNat 0)
def cShl (w : Nat) (o : BeatOps) : Bool := carryShl w (laneOf w o.a.toNat 0) (laneOf w o.b.toNat 0 % w)
def cShr (w : Nat) (o : BeatOps) : Bool := carryShr (laneOf w o.a.toNat 0) (laneOf w o.b.toNat 0 % w)

/-! ## Meanings -/

/-- ADD (R141). -/
def execAdd (h : Hdr) (d a b : Opnd) (s : State) : Host.Outcome State Fault Refusal :=
  fireCarry (.add h d a b) h.ty.width (fun o => lanes2 h.ty.width (lAdd h.ty.width) o.a o.b) (cAdd h.ty.width) s

/-- SUB (R141). -/
def execSub (h : Hdr) (d a b : Opnd) (s : State) : Host.Outcome State Fault Refusal :=
  fireCarry (.sub h d a b) h.ty.width (fun o => lanes2 h.ty.width (lSub h.ty.width) o.a o.b) (cSub h.ty.width) s

/-- ADDS (R141). -/
def execAdds (h : Hdr) (d a b : Opnd) (s : State) : Host.Outcome State Fault Refusal :=
  fireCarry (.adds h d a b) h.ty.width (fun o => lanes2 h.ty.width (lAdds h.ty.width) o.a o.b) (cAdds h.ty.width) s

/-- SUBS (R141). -/
def execSubs (h : Hdr) (d a b : Opnd) (s : State) : Host.Outcome State Fault Refusal :=
  fireCarry (.subs h d a b) h.ty.width (fun o => lanes2 h.ty.width (lSubs h.ty.width) o.a o.b) (cSubs h.ty.width) s

/-- ADDUS (R141). -/
def execAddus (h : Hdr) (d a b : Opnd) (s : State) : Host.Outcome State Fault Refusal :=
  fireCarry (.addus h d a b) h.ty.width (fun o => lanes2 h.ty.width (lAddus h.ty.width) o.a o.b) (cAddus h.ty.width) s

/-- SUBUS (R141). -/
def execSubus (h : Hdr) (d a b : Opnd) (s : State) : Host.Outcome State Fault Refusal :=
  fireCarry (.subus h d a b) h.ty.width (fun o => lanes2 h.ty.width (lSubus h.ty.width) o.a o.b) (cSubus h.ty.width) s

/-- MUL (R141). -/
def execMul (h : Hdr) (d a b : Opnd) (s : State) : Host.Outcome State Fault Refusal :=
  fireInt (.mul h d a b) h.ty.width (fun o => lanes2 h.ty.width (lMul h.ty.width) o.a o.b) s

/-- MULH (R141). -/
def execMulh (h : Hdr) (d a b : Opnd) (s : State) : Host.Outcome State Fault Refusal :=
  fireInt (.mulh h d a b) h.ty.width (fun o => lanes2 h.ty.width (lMulh h.ty.width) o.a o.b) s

/-- MULHU (R141). -/
def execMulhu (h : Hdr) (d a b : Opnd) (s : State) : Host.Outcome State Fault Refusal :=
  fireInt (.mulhu h d a b) h.ty.width (fun o => lanes2 h.ty.width (lMulhu h.ty.width) o.a o.b) s

/-- MAD (R141). -/
def execMad (h : Hdr) (d a b c : Opnd) (s : State) : Host.Outcome State Fault Refusal :=
  fireInt (.mad h d a b c) h.ty.width (fun o => lanes3 h.ty.width (lMad h.ty.width) o.a o.b o.c) s

/-- ADDMIN (R141). -/
def execAddmin (h : Hdr) (d a b c : Opnd) (s : State) : Host.Outcome State Fault Refusal :=
  fireInt (.addmin h d a b c) h.ty.width (fun o => lanes3 h.ty.width (lAddmin h.ty.width) o.a o.b o.c) s

/-- ADDMAX (R141). -/
def execAddmax (h : Hdr) (d a b c : Opnd) (s : State) : Host.Outcome State Fault Refusal :=
  fireInt (.addmax h d a b c) h.ty.width (fun o => lanes3 h.ty.width (lAddmax h.ty.width) o.a o.b o.c) s

/-- MIN (R141). -/
def execMin (h : Hdr) (d a b : Opnd) (s : State) : Host.Outcome State Fault Refusal :=
  fireInt (.min h d a b) h.ty.width (fun o => lanes2 h.ty.width (lMin h.ty.width) o.a o.b) s

/-- MAX (R141). -/
def execMax (h : Hdr) (d a b : Opnd) (s : State) : Host.Outcome State Fault Refusal :=
  fireInt (.max h d a b) h.ty.width (fun o => lanes2 h.ty.width (lMax h.ty.width) o.a o.b) s

/-- MINU (R141). -/
def execMinu (h : Hdr) (d a b : Opnd) (s : State) : Host.Outcome State Fault Refusal :=
  fireInt (.minu h d a b) h.ty.width (fun o => lanes2 h.ty.width lMinu o.a o.b) s

/-- MAXU (R141). -/
def execMaxu (h : Hdr) (d a b : Opnd) (s : State) : Host.Outcome State Fault Refusal :=
  fireInt (.maxu h d a b) h.ty.width (fun o => lanes2 h.ty.width lMaxu o.a o.b) s

/-- ABSD (R141). -/
def execAbsd (h : Hdr) (d a b : Opnd) (s : State) : Host.Outcome State Fault Refusal :=
  fireInt (.absd h d a b) h.ty.width (fun o => lanes2 h.ty.width lAbsd o.a o.b) s

/-- AND (R141). -/
def execAnd (h : Hdr) (d a b : Opnd) (s : State) : Host.Outcome State Fault Refusal :=
  fireInt (.and h d a b) h.ty.width (fun o => lanes2 h.ty.width (fun x y => x &&& y) o.a o.b) s

/-- OR (R141). -/
def execOr (h : Hdr) (d a b : Opnd) (s : State) : Host.Outcome State Fault Refusal :=
  fireInt (.or h d a b) h.ty.width (fun o => lanes2 h.ty.width (fun x y => x ||| y) o.a o.b) s

/-- XOR (R141). -/
def execXor (h : Hdr) (d a b : Opnd) (s : State) : Host.Outcome State Fault Refusal :=
  fireInt (.xor h d a b) h.ty.width (fun o => lanes2 h.ty.width (fun x y => x ^^^ y) o.a o.b) s

/-- ANDN (R141). -/
def execAndn (h : Hdr) (d a b : Opnd) (s : State) : Host.Outcome State Fault Refusal :=
  fireInt (.andn h d a b) h.ty.width (fun o => lanes2 h.ty.width (lAndn h.ty.width) o.a o.b) s

/-- SHL (R141): the amount is the shift lane mod W. -/
def execShl (h : Hdr) (d a b : Opnd) (s : State) : Host.Outcome State Fault Refusal :=
  fireCarry (.shl h d a b) h.ty.width (fun o => lanes2 h.ty.width (fun x y => lShl h.ty.width x (y % h.ty.width)) o.a o.b) (cShl h.ty.width) s

/-- SHR (R141). -/
def execShr (h : Hdr) (d a b : Opnd) (s : State) : Host.Outcome State Fault Refusal :=
  fireCarry (.shr h d a b) h.ty.width (fun o => lanes2 h.ty.width (fun x y => lShr x (y % h.ty.width)) o.a o.b) (cShr h.ty.width) s

/-- SAR (R141). -/
def execSar (h : Hdr) (d a b : Opnd) (s : State) : Host.Outcome State Fault Refusal :=
  fireCarry (.sar h d a b) h.ty.width (fun o => lanes2 h.ty.width (fun x y => lSar h.ty.width x (y % h.ty.width)) o.a o.b) (cShr h.ty.width) s

/-- ROL (R141). -/
def execRol (h : Hdr) (d a b : Opnd) (s : State) : Host.Outcome State Fault Refusal :=
  fireInt (.rol h d a b) h.ty.width (fun o => lanes2 h.ty.width (fun x y => lRol h.ty.width x (y % h.ty.width)) o.a o.b) s

/-- POPC (R141). -/
def execPopc (h : Hdr) (d a : Opnd) (s : State) : Host.Outcome State Fault Refusal :=
  fireInt (.popc h d a) h.ty.width (fun o => lanes1 h.ty.width (fun x => popCount x h.ty.width) o.a) s

/-- CLZ (R141). -/
def execClz (h : Hdr) (d a : Opnd) (s : State) : Host.Outcome State Fault Refusal :=
  fireInt (.clz h d a) h.ty.width (fun o => lanes1 h.ty.width (lClz h.ty.width) o.a) s

/-- CMPEQ (R141). -/
def execCmpeq (h : Hdr) (d a b : Opnd) (s : State) : Host.Outcome State Fault Refusal :=
  fireInt (.cmpeq h d a b) h.ty.width (fun o => lanes2 h.ty.width (fun x y => lMask h.ty.width (x == y)) o.a o.b) s

/-- CMPLT (R141). -/
def execCmplt (h : Hdr) (d a b : Opnd) (s : State) : Host.Outcome State Fault Refusal :=
  fireInt (.cmplt h d a b) h.ty.width (fun o => lanes2 h.ty.width (fun x y => lMask h.ty.width (decide (sext h.ty.width x < sext h.ty.width y))) o.a o.b) s

/-- CMPLTU (R141). -/
def execCmpltu (h : Hdr) (d a b : Opnd) (s : State) : Host.Outcome State Fault Refusal :=
  fireInt (.cmpltu h d a b) h.ty.width (fun o => lanes2 h.ty.width (fun x y => lMask h.ty.width (decide (x < y))) o.a o.b) s

/-- DOT4 (R142). -/
def execDot4 (h : Hdr) (d a b c : Opnd) (s : State) : Host.Outcome State Fault Refusal :=
  fireInt (.dot4 h d a b c) h.ty.width (fun o => lanes3 h.ty.width lDot4 o.a o.b o.c) s

/-- SAD (R142). -/
def execSad (h : Hdr) (d a b c : Opnd) (s : State) : Host.Outcome State Fault Refusal :=
  fireInt (.sad h d a b c) h.ty.width (fun o => lanes3 h.ty.width lSad o.a o.b o.c) s

/-- ADDI (R144). -/
def execAddi (h : Hdr) (d a : Opnd) (imm : BitVec 12) (s : State) : Host.Outcome State Fault Refusal :=
  fireCarry (.addi h d a imm) h.ty.width (fun o => lanes1 h.ty.width (fun x => lAdd h.ty.width x (immLane h.ty.width imm)) o.a)
    (fun o => carryAdd h.ty.width (laneOf h.ty.width o.a.toNat 0) (immLane h.ty.width imm)) s

/-- ANDI (R144). -/
def execAndi (h : Hdr) (d a : Opnd) (imm : BitVec 12) (s : State) : Host.Outcome State Fault Refusal :=
  fireInt (.andi h d a imm) h.ty.width (fun o => lanes1 h.ty.width (fun x => x &&& (immLane h.ty.width imm)) o.a) s

/-- ORI (R144). -/
def execOri (h : Hdr) (d a : Opnd) (imm : BitVec 12) (s : State) : Host.Outcome State Fault Refusal :=
  fireInt (.ori h d a imm) h.ty.width (fun o => lanes1 h.ty.width (fun x => x ||| (immLane h.ty.width imm)) o.a) s

/-- XORI (R144). -/
def execXori (h : Hdr) (d a : Opnd) (imm : BitVec 12) (s : State) : Host.Outcome State Fault Refusal :=
  fireInt (.xori h d a imm) h.ty.width (fun o => lanes1 h.ty.width (fun x => x ^^^ (immLane h.ty.width imm)) o.a) s

/-- SHLI (R144). -/
def execShli (h : Hdr) (d a : Opnd) (imm : BitVec 12) (s : State) : Host.Outcome State Fault Refusal :=
  fireCarry (.shli h d a imm) h.ty.width (fun o => lanes1 h.ty.width (fun x => lShl h.ty.width x imm.toNat) o.a)
    (fun o => carryShl h.ty.width (laneOf h.ty.width o.a.toNat 0) imm.toNat) s

/-- SHRI (R144). -/
def execShri (h : Hdr) (d a : Opnd) (imm : BitVec 12) (s : State) : Host.Outcome State Fault Refusal :=
  fireCarry (.shri h d a imm) h.ty.width (fun o => lanes1 h.ty.width (fun x => lShr x imm.toNat) o.a)
    (fun o => carryShr (laneOf h.ty.width o.a.toNat 0) imm.toNat) s

/-- SARI (R144). -/
def execSari (h : Hdr) (d a : Opnd) (imm : BitVec 12) (s : State) : Host.Outcome State Fault Refusal :=
  fireCarry (.sari h d a imm) h.ty.width (fun o => lanes1 h.ty.width (fun x => lSar h.ty.width x imm.toNat) o.a)
    (fun o => carryShr (laneOf h.ty.width o.a.toNat 0) imm.toNat) s

/-- CMPEQI (R144). -/
def execCmpeqi (h : Hdr) (d a : Opnd) (imm : BitVec 12) (s : State) : Host.Outcome State Fault Refusal :=
  fireInt (.cmpeqi h d a imm) h.ty.width (fun o => lanes1 h.ty.width (fun x => lMask h.ty.width (x == (immLane h.ty.width imm))) o.a) s

/-- CMPLTI (R144). -/
def execCmplti (h : Hdr) (d a : Opnd) (imm : BitVec 12) (s : State) : Host.Outcome State Fault Refusal :=
  fireInt (.cmplti h d a imm) h.ty.width (fun o => lanes1 h.ty.width (fun x => lMask h.ty.width (decide (sext h.ty.width x < sext h.ty.width (immLane h.ty.width imm)))) o.a) s

/-- EXT (R145). -/
def execExt (h : Hdr) (d a : Opnd) (pos len : BitVec 6) (s : State) : Host.Outcome State Fault Refusal :=
  fireInt (.ext h d a pos len) h.ty.width (fun o => lanes1 h.ty.width (fun x => lExt x pos.toNat len.toNat) o.a) s

/-- INS (R145): D is a source too, and 0 where it names a channel. -/
def execIns (h : Hdr) (d a : Opnd) (pos len : BitVec 6) (s : State) : Host.Outcome State Fault Refusal :=
  fireInt (.ins h d a pos len) h.ty.width
    (fun o => lanes2 h.ty.width (fun x y => lIns x y pos.toNat len.toNat) o.d o.a) s

end Sys2Proof.Machine
end

