-- ==== Sys2Proof/Machine/ElemChan.lean ====
section
/-!
DEFINITION. Machine/ElemChan.lean: the token instructions (R183 to R189) and the tile exchange (R190 to R193), with the steps
that deliver the exchanged values.
-/
namespace Sys2Proof.Machine

/-- Fires a token instruction: `ctx` is the context of the tokens that it sends. -/
def fireChan (i : Instr) (ctx : Nat) (exe : Exe) (s : State) : Host.Outcome State Fault Refusal :=
  fireWith i true ctx exe (fun _ t => t) s

/-- The channel of an operand. -/
def chanOf : Opnd → Nat
  | .q j => j.val
  | _ => 0

/-- TAGS (R188). -/
def execTags (h : Hdr) (d : Opnd) (vc : BitVec 5) (ctx : BitVec 2) (s : State) : Host.Outcome State Fault Refusal :=
  fireChan (.tags h d vc ctx) 0 (elemExe fun _ e _ _ => { e with otag := tset e.otag (chanOf d) (ctx ++ vc) }) s

/-- The end-of-wave bit of beat k of n: the last beat carries it (R184). -/
def eowAt (x : Ctx) (k : Nat) (eow : Bool) : Bool := eow && k + 1 == x.form.hdr.beats.count

/-- SEND (R184). -/
def execSend (h : Hdr) (d a : Opnd) (eow : Bool) (vc : BitVec 5) (ctx : BitVec 2) (s : State) :
    Host.Outcome State Fault Refusal :=
  fireChan (.send h d a eow vc ctx) ctx.toNat (elemExe fun x e k o =>
    Machine.send e (chanOf d) ⟨mkSide 0 0 (eowAt x k eow) ctx.toNat vc.toNat, o.a⟩ (x.beatEnd k) none) s

/-- SENDO (R184): the token waits in the output stage for every access that fired before. -/
def execSendo (h : Hdr) (d a : Opnd) (eow : Bool) (vc : BitVec 5) (sc : Scope) (ctx : BitVec 2) (s : State) :
    Host.Outcome State Fault Refusal :=
  fireChan (.sendo h d a eow vc sc ctx) ctx.toNat (elemExe fun x e k o =>
    Machine.send e (chanOf d) ⟨mkSide 1 sc.code.toNat (eowAt x k eow) ctx.toNat vc.toNat, o.a⟩ (x.beatEnd k)
      (some (sc, e.nextAcc))) s

/-- DROP (R186). -/
def execDrop (h : Hdr) (a : Opnd) (s : State) : Host.Outcome State Fault Refusal :=
  fireChan (.drop h a) 0 (elemExe fun _ e _ _ => e) s

/-- RELAY (R185): the raw token, sideband and all. To an operand port the credits of all its beats are those of the head token's
context (DESIGN CHOICE, log 27). -/
def execRelay (h : Hdr) (d a : Opnd) (s : State) : Host.Outcome State Fault Refusal :=
  let ctx := match headTok (getE s (focusKey s)) (chanOf a) with | some t => t.ctx | none => 0
  fireChan (.relay h d a) ctx (elemExe fun x e k _ =>
    match queueEntry e (chanOf a) k h.dq with
    | some t => Machine.send e (chanOf d) t (x.beatEnd k) none
    | none => e) s

/-- The result of LCNT (R187). -/
def lcntValue (e : Elem) (q : Nat) : Vec :=
  vecOf 32 [avail e q, (getQ e q).toks.length, (getQ e q).shut.toNat,
    match headTok e q with | some t => t.side.toNat | none => 0xFFFFFFFF]

/-- LCNT (R187). -/
def execLcnt (h : Hdr) (d a : Opnd) (s : State) : Host.Outcome State Fault Refusal :=
  fire (.lcnt h d a) 1 h.ty.width noCarry (fun _ e _ _ _ => ⟨e, lcntValue e (chanOf a), 0, [], none⟩) s

/-- The number of an f register. -/
def regOf : Opnd → Nat
  | .f n => n.val
  | _ => 0

/-- FTSET (R189). -/
def execFtset (h : Hdr) (a : Opnd) (fmt vc : BitVec 5) (s : State) : Host.Outcome State Fault Refusal :=
  fireChan (.ftset h a fmt vc) 0 (elemExe fun _ e _ _ =>
    { e with fmts := tset e.fmts vc.toNat (BitVec.ofNat 16 (fmt.toNat * 2 ^ 9 + regOf a * 2 ^ 5)) }) s

/-- SPCFG (R189). -/
def execSpcfg (h : Hdr) (en : Bool) (qa qb : BitVec 3) (s : State) : Host.Outcome State Fault Refusal :=
  fireChan (.spcfg h en qa qb) 0 (elemExe fun _ e _ _ =>
    { e with spcfg := BitVec.ofNat 12 (en.toNat * 2 ^ 11 + qa.toNat * 2 ^ 6 + qb.toNat * 2 ^ 3) }) s

/-- One cycle of the coordinate-intersection unit: the head with the smaller coordinate leaves (R182). -/
def intersect (e : Elem) : Elem :=
  let qa := spQa e
  let qb := spQb e
  match headTok e qa, headTok e qb with
  | some a, some b =>
    if spEn e && rawAvail e qa != 0 && rawAvail e qb != 0 then
      let ca := coordOf a
      let cb := coordOf b
      if ca < cb then (if a.eow || ca == 0xFFFFFFFF then e else dequeue e qa)
      else if cb < ca then (if b.eow || cb == 0xFFFFFFFF then e else dequeue e qb)
      else e
    else e
  | _, _ => e

/-- COORDINATE_INTERSECT. -/
def execCoordinateIntersect (r st el : Nat) (s : State) : Host.Outcome State Fault Refusal :=
  withUnit (elemOk s r st el) s fun s =>
    let key := ekey r st el
    let c := (getR s r).cycle
    let e := intersect (getE s key)
    if acting (getR s r) && decide ((getE s key).spBusy ≤ c) && e.queues != (getE s key).queues then
      setE s key { e with spBusy := c + 1 }
    else s

/-! ## The tile exchange -/

/-- The number of element `el` of the same tile. -/
def mate (key el : Nat) : Nat := key / 16 * 16 + el

/-- An unfinished operation that a test accepts (R190). -/
def hasXop (e : Elem) (p : XKind → Bool) : Bool := e.xops.any fun x => p x.kind

def isTxch (m : Nat) : XKind → Bool | .txch n => n == m | _ => false
def isTbcst : XKind → Bool | .tbcst _ => true | _ => false
def isTred : XKind → Bool | .tred .. => true | _ => false

/-- Records an exchange operation and marks D pending (R190). -/
def beginX (x : Ctx) (e : Elem) (k : XKind) (d : Opnd) (a : Vec) : Elem :=
  setPend { e with xops := e.xops ++ [⟨k, regOf d, a, x.cycle, x.slot, x.word⟩] } (regOf d)

/-- TXCH (R191). -/
def execTxch (h : Hdr) (d a : Opnd) (m : BitVec 4) (s : State) : Host.Outcome State Fault Refusal :=
  let key := focusKey s
  let p := mate key (keyElem key ^^^ m.toNat)
  let unit := !hasXop (getE s key) (isTxch m.toNat) && (tfind (getE s p).inbox m.toNat).isNone
  fireWith (.txch h d a m) unit 0 (elemExe fun x e _ o => beginX x e (.txch m.toNat) d o.a)
    (fun y t => modE t p fun e =>
      { e with inbox := tset e.inbox m.toNat ⟨y.ops.a, (getR s s.focus.region).cycle⟩ }) s

/-- TBCST (R192). -/
def execTbcst (h : Hdr) (d a : Opnd) (src : BitVec 4) (s : State) : Host.Outcome State Fault Refusal :=
  let key := focusKey s
  let n := src.toNat
  let isSrc := keyElem key == n
  let free := (upto 16).all fun j => (tfind (getE s (mate key j)).binbox n).isNone
  let unit := !hasXop (getE s key) isTbcst && (!isSrc || free)
  fireWith (.tbcst h d a src) unit 0 (elemExe fun x e _ o => beginX x e (.tbcst n) d o.a)
    (fun y t => if isSrc then
        (upto 16).foldl (fun t j => modE t (mate key j) fun e =>
          { e with binbox := tset e.binbox n ⟨y.ops.a, (getR s s.focus.region).cycle⟩ }) t
      else t) s

/-- TRED (R193). -/
def execTred (h : Hdr) (d a : Opnd) (op gm : BitVec 4) (s : State) : Host.Outcome State Fault Refusal :=
  fireWith (.tred h d a op gm) (!hasXop (getE s (focusKey s)) isTred) 0
    (elemExe fun x e _ o => beginX x e (.tred op.toNat gm.toNat h.ty) d o.a) (fun _ t => t) s

/-- A delivered value is written to D, which is no longer pending (R190). -/
def deliverX (e : Elem) (d : Nat) (v : Vec) (p : XKind → Bool) : Elem :=
  clearPend { e with f := tset e.f d v, xops := removeFirst (fun x => p x.kind) e.xops } d

/-- TXCH_DELIVER (R191): the value in inbox m goes to D, from the cycle after max(te, tp) + 2. -/
def execTxchDeliver (r st el m : Nat) (s : State) : Host.Outcome State Fault Refusal :=
  withUnit (elemOk s r st el) s fun s =>
    let key := ekey r st el
    let e := getE s key
    match e.xops.find? (fun x => isTxch m x.kind), tfind e.inbox m with
    | some x, some v =>
      if Nat.max x.fired v.at_ + 2 < (getR s r).cycle && acting (getR s r) then
        setE s key { deliverX e x.d v.val (isTxch m) with inbox := terase e.inbox m }
      else s
    | _, _ => s

/-- TBCST_DELIVER (R192). -/
def execTbcstDeliver (r st el : Nat) (s : State) : Host.Outcome State Fault Refusal :=
  withUnit (elemOk s r st el) s fun s =>
    let key := ekey r st el
    let e := getE s key
    match e.xops.find? (fun x => isTbcst x.kind) with
    | some x => match x.kind with
      | .tbcst n => match tfind e.binbox n with
        | some v =>
          if Nat.max x.fired v.at_ + 2 < (getR s r).cycle && acting (getR s r) then
            setE s key { deliverX e x.d v.val isTbcst with binbox := terase e.binbox n }
          else s
        | none => s
      | _ => s
    | none => s

/-! ### TRED -/

/-- The operation, group mask, lane type and operation record of an element's unfinished TRED. -/
def tredOf (s : State) (key : Nat) : Option (Nat × Nat × LaneTy × XOp) :=
  match (getE s key).xops.find? (fun x => isTred x.kind) with
  | some x => match x.kind with
    | .tred op gm ty => some (op, gm, ty, x)
    | _ => none
  | none => none

/-- One lane of a TRED operation (R193). -/
def redLane (op : Nat) (ty : LaneTy) (a b : Nat) : Nat × Flags :=
  let w := ty.width
  if op = 0 then (lAdd w a b, 0)
  else if op = 1 then (lMin w a b, 0)
  else if op = 2 then (lMax w a b, 0)
  else if op = 3 then (lMinu a b, 0)
  else if op = 4 then (lMaxu a b, 0)
  else if op = 5 then (a &&& b, 0)
  else if op = 6 then (a ||| b, 0)
  else if op = 7 then (a ^^^ b, 0)
  else if op = 8 then fAdd (tyFmt ty) a b
  else if op = 9 then fMin (tyFmt ty) a b
  else fMax (tyFmt ty) a b

def redOp (op : Nat) (ty : LaneTy) (a b : Vec) : Vec × Flags :=
  collect ty.width (List.zipWith (redLane op ty) (lanes ty.width a) (lanes ty.width b))

/-- One step m of the reduction, over the values of the 16 elements. -/
def redStep (op : Nat) (ty : LaneTy) (m : Nat) (v : List Vec) : List (Vec × Flags) :=
  (upto 16).map fun x => redOp op ty (v.getD (Nat.min x (x ^^^ m)) 0) (v.getD (Nat.max x (x ^^^ m)) 0)

/-- The reduction of R193 over a group's members: the values of the 16 elements and the flags of every step. -/
def reduce (op gm : Nat) (ty : LaneTy) (group : List Nat) (v : List Vec) : List Vec × Flags :=
  [1, 2, 4, 8].foldl (fun (a : List Vec × Flags) m =>
    if gm &&& m = 0 then a
    else
      let r := redStep op ty m a.1
      (r.map (·.1), group.foldl (fun f x => f ||| (r.getD x (0, 0)).2) a.2)) (v, 0)

/-- The elements that agree with el in every bit outside a mask. -/
def groupOf (el mask : Nat) : List Nat := (upto 16).filter fun x => (x ^^^ el) ||| mask == mask

/-- Every element of the group of el under `mask` has a TRED with el's operation and group mask. -/
def tredAgree (s : State) (key mask : Nat) : Bool :=
  match tredOf s key with
  | none => false
  | some (op, gm, _, _) =>
    (groupOf (keyElem key) mask).all fun x =>
      match tredOf s (mate key x) with
      | some (o, g, _, _) => o == op && g == gm
      | none => false

/-- The step at which el meets a contribution whose imm12 differs, if it does (R193). -/
def tredClash (s : State) (key : Nat) : Option Nat :=
  match tredOf s key with
  | none => none
  | some (op, gm, _, _) =>
    [1, 2, 4, 8].find? fun m =>
      let p := mate key (keyElem key ^^^ m)
      gm &&& m != 0 && tredAgree s key (gm &&& (m - 1)) &&
        (match tredOf s p with
        | some (o, g, _, _) => (o != op || g != gm) && g &&& m != 0 && tredAgree s p (g &&& (m - 1))
        | none => false)

/-- The trap of a TRED: D is unchanged and no longer pending (R193). -/
def tredTrap (s : State) (key : Nat) : State :=
  match tredOf s key with
  | none => s
  | some (_, _, _, x) =>
    let s := modE s key fun e => clearPend { e with xops := removeFirst (fun y => isTred y.kind) e.xops } x.d
    elemTrap s key 0 2 0 0 x.slot x.word 0 [x.a]

/-- Delivers the result of a whole group, in the lane type of the member whose step runs: members whose imm12 agree may differ
in TY, for which the spec gives no result (DESIGN CHOICE, log 27). -/
def tredDeliver (s : State) (key op gm : Nat) (ty : LaneTy) : State :=
  let group := groupOf (keyElem key) gm
  let v := (upto 16).map fun j => match tredOf s (mate key j) with | some (_, _, _, x) => x.a | none => 0
  let r := reduce op gm ty group v
  group.foldl (fun t j =>
    match tredOf s (mate key j) with
    | some (_, _, _, x) => modE t (mate key j) fun e => setFlags (deliverX e x.d (r.1.getD j 0) isTred) r.2
    | none => t) s

/-- TRED_DELIVER (R193): the group's members receive their values, from the cycle after tlast + 2 × PopCount(GM) + 1; an
element that meets a different imm12 traps with its partner. -/
def execTredDeliver (r st el : Nat) (s : State) : Host.Outcome State Fault Refusal :=
  withUnit (elemOk s r st el) s fun s =>
    let key := ekey r st el
    if !acting (getR s r) then s
    else match tredClash s key with
      | some m => tredTrap (tredTrap s key) (mate key (el ^^^ m))
      | none => match tredOf s key with
        | none => s
        | some (op, gm, ty, _) =>
          let last := (groupOf el gm).foldl (fun a j =>
            match tredOf s (mate key j) with | some (_, _, _, x) => Nat.max a x.fired | none => a) 0
          if tredAgree s key gm && decide (last + 2 * popCount gm 4 + 1 < (getR s r).cycle) then
            tredDeliver s key op gm ty
          else s

end Sys2Proof.Machine
end

