-- ==== Sys2Proof/Machine/ElemConv.lean ====
section
/-!
DEFINITION. Machine/ElemConv.lean: lane movement (R153 to R155), conversions (R156 to R161), MX quantisation (R162 to R165) and
the residue registers (R52, R53, R166).
-/
namespace Sys2Proof.Machine

/-! ## Lane movement -/

/-- LXOR (R153). -/
def execLxor (h : Hdr) (d a : Opnd) (imm : BitVec 12) (s : State) : Host.Outcome State Fault Refusal :=
  fireInt (.lxor h d a imm) h.ty.width (fun o =>
    vecOf h.ty.width ((upto h.ty.lanes).map fun j => laneOf h.ty.width o.a.toNat (j ^^^ imm.toNat))) s

/-- LFUN (R153): lane j + n of A followed by B. -/
def execLfun (h : Hdr) (d a b : Opnd) (imm : BitVec 6) (s : State) : Host.Outcome State Fault Refusal :=
  fireInt (.lfun h d a b imm) h.ty.width (fun o =>
    vecOf h.ty.width ((upto h.ty.lanes).map fun j => laneOf h.ty.width ((o.b ++ o.a : BitVec 256).toNat) (j + imm.toNat))) s

/-- LBCST (R153). -/
def execLbcst (h : Hdr) (d a : Opnd) (imm : BitVec 12) (s : State) : Host.Outcome State Fault Refusal :=
  fireInt (.lbcst h d a imm) h.ty.width (fun o =>
    vecOf h.ty.width (List.replicate h.ty.lanes (laneOf h.ty.width o.a.toNat imm.toNat))) s

/-- LPACK (R154). -/
def execLpack (h : Hdr) (d a b : Opnd) (s : State) : Host.Outcome State Fault Refusal :=
  fireInt (.lpack h d a b) (h.ty.width / 2) (fun o =>
    vecOf (h.ty.width / 2) (lanes h.ty.width o.a ++ lanes h.ty.width o.b)) s

/-- LUNPK (R155): beat k takes half (h + k) mod 2. -/
def lunpk (w : Nat) (sx : Bool) (half : Nat) (a : Vec) : Vec :=
  let n := 128 / w / 2
  vecOf (2 * w) ((upto n).map fun j =>
    let x := laneOf w a.toNat (half * n + j)
    if sx then wrap (2 * w) (sext w x) else x)

def execLunpk (h : Hdr) (d a : Opnd) (sx : Bool) (half : Bool) (s : State) : Host.Outcome State Fault Refusal :=
  fire (.lunpk h d a sx half) 1 (2 * h.ty.width) noCarry
    (fun _ e k o _ => ⟨e, lunpk h.ty.width sx ((half.toNat + k) % 2) o.a, 0, [], none⟩) s

/-! ## Conversions -/

/-- 2 where binary64 stands on either side (R137). -/
def cvtCycles (s d : NumFmt) : Nat := if s = .fp64 ∨ d = .fp64 then 2 else 1

/-- EfNarrow of R52 on one binary32 lane with its residue: the code, the flags and the new residue. -/
def efNarrow (f : NumFmt) (x res : Nat) : Nat × Flags × Nat :=
  let r := match decodeF .fp32 res with
    | .fin n m e => FV.fin n m e
    | _ => .fin false 0 0
  match decodeF .fp32 x with
  | .fin n m e =>
    match sumV [.fin n m e, r] with
    | some (.fin sn sm se) =>
      let (y, fl) := roundFin f 0 sn sm se
      match decodeF f y with
      | .fin yn ym ye =>
        let rest := match sumV [.fin sn sm se, .fin (!yn) ym ye] with
          | some v => if v.isZero then 0 else (roundV .fp32 0 v).1
          | none => 0
        (y, fl, rest)
      | _ => (y, fl, 0)
    | _ => (0, 0, 0)
  | v => let (y, fl) := roundV f 0 v; (y, fl, 0)

/-- Conv of R159 on the lanes of one beat of CVTN: codes, flags and the residue register after it. -/
def cvtnLanes (src dst : NumFmt) (rm : Nat) (sample : BitVec 3) (ef : Vec) (a : Vec) : List Nat × Flags × Vec :=
  if rm = 4 && !sample.getLsbD 2 then
    let r := List.zipWith (efNarrow dst) (lanes 32 a) (lanes 32 ef)
    (r.map (·.1), r.foldl (fun x y => x ||| y.2.1) 0, vecOf 32 (r.map (·.2.2)))
  else
    let r := (lanes src.width a).map (conv src dst (rmOf sample rm))
    (r.map (·.1), r.foldl (fun x y => x ||| y.2) 0, ef)

/-- Formats of a conversion; a legal word names two (R158). -/
def fmtsOf (t : LaneTy) (tt : BitVec 3) (tf sf : Bool) : NumFmt × NumFmt := (cvtFmts t tt tf sf).getD (.fp32, .fp64)

/-- CVT (R160): beat k converts part (PART + k) mod g. -/
def execCvt (h : Hdr) (d a : Opnd) (tt : BitVec 3) (tf sf : Bool) (rm : BitVec 3) (part : BitVec 4) (s : State) :
    Host.Outcome State Fault Refusal :=
  let p := fmtsOf h.ty tt tf sf
  fire (.cvt h d a tt tf sf rm part) (cvtCycles p.1 p.2) p.2.width noCarry (fun x e k o _ =>
    let g := p.2.width / p.1.width
    let n := 128 / p.2.width
    let r := collect p.2.width ((upto n).map fun j =>
      conv p.1 p.2 (rmOf x.sample rm.toNat) (laneOf p.1.width o.a.toNat ((part.toNat + k) % g * n + j)))
    ⟨e, r.1, r.2, [], none⟩) s

/-- The staging value with the codes of part p placed in it (R161, R164). -/
def stagePart (wt p : Nat) (st : Vec) (codes : List Nat) : Vec :=
  let st := if p = 0 then 0 else st
  vecOf wt ((upto (128 / wt)).map fun j =>
    if p * codes.length ≤ j ∧ j < (p + 1) * codes.length then codes.getD (j - p * codes.length) 0
    else laneOf wt st.toNat j)

/-- CVTN (R161). -/
def execCvtn (h : Hdr) (d a : Opnd) (tt : BitVec 3) (tf sf : Bool) (rm : BitVec 3) (ef : BitVec 2) (s : State) :
    Host.Outcome State Fault Refusal :=
  let p := fmtsOf h.ty tt tf sf
  fire (.cvtn h d a tt tf sf rm ef) (cvtCycles p.1 p.2) p.2.width noCarry (fun x e k o held =>
    let g := p.1.width / p.2.width
    let r := cvtnLanes p.1 p.2 rm.toNat x.sample (tget e.ef ef.toNat 0) o.a
    let st := stagePart p.2.width (k % g) (held.headD 0) r.1
    let e := if rm.toNat = 4 && !x.sample.getLsbD 2 then { e with ef := tset e.ef ef.toNat r.2.2 } else e
    ⟨e, st, r.2.1, [st], none⟩) s

/-! ## MX -/

/-- The MX element format of a code (R162). -/
def mxFmt (c : BitVec 2) : NumFmt := (mxFmt? c).getD .e4m3

/-- MXQ in scale mode (R163): the scale of every lane of beats 0 to k. -/
def execMxqSc (h : Hdr) (d a : Opnd) (fmt : BitVec 2) (s : State) : Host.Outcome State Fault Refusal :=
  fire (.mxqSc h d a fmt) 1 h.ty.width noCarry (fun _ e _ o held =>
    let held := o.a :: held
    let r := mxScale (held.flatMap fun v => (lanes h.ty.width v).map (decodeF (tyFmt h.ty))) (mxFmt fmt)
    ⟨e, BitVec.ofNat 128 r.1, r.2, held, none⟩) s

/-- MXQ in element mode (R164). -/
def execMxq (h : Hdr) (d a b : Opnd) (rm : BitVec 3) (fmt : BitVec 2) (s : State) :
    Host.Outcome State Fault Refusal :=
  let f := mxFmt fmt
  fire (.mxq h d a b rm fmt) 1 f.width noCarry (fun x e k o held =>
    let g := h.ty.width / f.width
    let sc := o.b.toNat % 256
    let q := (lanes h.ty.width o.a).map fun v => mxElem (decodeF (tyFmt h.ty) v) sc f (rmOf x.sample rm.toNat)
    let st := stagePart f.width (k % g) (held.headD 0) (q.map (·.1))
    ⟨e, st, q.foldl (fun a y => a ||| y.2) 0, [st], none⟩) s

/-- MXDQ (R165). -/
def execMxdq (h : Hdr) (d a b : Opnd) (part : BitVec 3) (fmt : BitVec 2) (s : State) :
    Host.Outcome State Fault Refusal :=
  let f := mxFmt fmt
  fire (.mxdq h d a b part fmt) 1 h.ty.width noCarry (fun x e k o _ =>
    let g := h.ty.width / f.width
    let n := h.ty.lanes
    let r := collect h.ty.width ((upto n).map fun j =>
      mxDequant (laneOf f.width o.a.toNat ((part.toNat + k) % g * n + j)) f (o.b.toNat % 256) (tyFmt h.ty)
        (rmOf x.sample 0))
    ⟨e, r.1, r.2, [], none⟩) s

/-! ## Residue registers (R166) -/

/-- EFLD. -/
def execEfld (h : Hdr) (a : Opnd) (n : BitVec 2) (s : State) : Host.Outcome State Fault Refusal :=
  fire (.efld h a n) 1 h.ty.width noCarry (elemExe fun _ e _ o => { e with ef := tset e.ef n.toNat o.a }) s

/-- EFST. -/
def execEfst (h : Hdr) (d : Opnd) (n : BitVec 2) (s : State) : Host.Outcome State Fault Refusal :=
  fire (.efst h d n) 1 h.ty.width noCarry (fun _ e _ _ _ => ⟨e, tget e.ef n.toNat 0, 0, [], none⟩) s

end Sys2Proof.Machine
end

