-- ==== Sys2Proof/Machine/ElemGeom.lean ====
section
/-!
DEFINITION. Machine/ElemGeom.lean: the ray, edge and sequence instructions (R427 to R434) and the parking step of the sequence
unit.
-/
namespace Sys2Proof.Machine

/-! ## RBOX (R428) -/

/-- (x − o) × inv for finite x and o and a value inv that is not a NaN; exact. -/
def slabT (x o inv : FV) : FV :=
  match sumV [x, o.negate] with
  | some d => (mulV d inv).getD (.fin false 0 0)
  | none => .fin false 0 0

/-- O + q × s with s = 2^(E − 127), exact. -/
def boxPlane (o : FV) (q sc : Nat) : FV :=
  match sumV [o, .fin false q ((sc : Int) - 127)] with
  | some v => v
  | none => o

/-- One axis of one child: the running interval and hit. -/
def slab (t : FV × FV × Bool) (o inv org : FV) (ql qh sc : Nat) : FV × FV × Bool :=
  let (lo, hi, hit) := t
  if ql > qh then (lo, hi, false)
  else
    let l := boxPlane org ql sc
    let h := boxPlane org (qh + 1) sc
    if inv.isInf then (lo, hi, hit && !ltV o l && !ltV h o)
    else
      let t1 := slabT l o inv
      let t2 := slabT h o inv
      (maxV lo (minV t1 t2), minV hi (maxV t1 t2), hit)

/-- The entry distance of child j: rounded down, or +∞ for a miss. -/
def rboxChild (o inv : List FV) (tmin tmax : FV) (org : List FV) (sc c j : Nat) : Nat :=
  let code := fun i => field c (56 + 18 * j + 3 * i + 2) (56 + 18 * j + 3 * i)
  let t0 : FV × FV × Bool := (tmin, tmax, leV tmin tmax && o.all fun x => !x.isInf)
  let (lo, hi, hit) := (upto 3).foldl (fun t a =>
    if t.2.2 then slab t (o.getD a default) (inv.getD a default) (org.getD a default) (code (2 * a)) (code (2 * a + 1)) sc
    else t) t0
  if hit && leV lo hi then (roundV .fp32 3 lo).1 else 0x7F800000

def rbox (o : BeatOps) : Vec × Flags :=
  let l32 := fun (v : Vec) j => decodeF .fp32 (laneOf 32 v.toNat j)
  let org := (upto 3).map fun a => decodeF .bf16 (laneOf 16 o.c.toNat a)
  let sc := field o.c.toNat 55 48
  let pos := (upto 3).map (l32 o.a)
  let inv := (upto 3).map (l32 o.b)
  let all := pos ++ [l32 o.a 3] ++ inv ++ [l32 o.b 3]
  if all.any FV.isNaN || sc == 0xFF || org.any (fun v => v.isNaN || v.isInf) then
    (vecOf 32 (List.replicate 4 0x7F800000), if all.any FV.isNaN then fNV else 0)
  else (vecOf 32 ((upto 4).map (rboxChild pos inv (l32 o.a 3) (l32 o.b 3) org sc o.c.toNat)), 0)

/-- RBOX. -/
def execRbox (h : Hdr) (d a b c : Opnd) (s : State) : Host.Outcome State Fault Refusal :=
  fire (.rbox h d a b c) 1 32 noCarry (flagExe rbox) s

/-! ## RTRI (R429) -/

/-- A binary32 lane. -/
def lane32 (v : Vec) (j : Nat) : Nat := laneOf 32 v.toNat j

/-- x ÷ y rounded once to binary32: finite values; a zero divisor gives an infinity or a NaN. -/
def fDivCode (x y : Nat) : Nat :=
  match decodeF .fp32 x, decodeF .fp32 y with
  | .fin n m e, .fin p k q =>
    if k = 0 then (if m = 0 then canonNaN .fp32 else infCode .fp32 + signCode .fp32 (n != p))
    else
      let (a, t) := divSticky 200 m e k q
      if m = 0 then signCode .fp32 (n != p) else (roundFin .fp32 0 (n != p) a t).1
  | a, b =>
    if a.isNaN || b.isNaN || (a.isInf && b.isInf) then canonNaN .fp32
    else if a.isInf then infCode .fp32 + signCode .fp32 (a.neg != b.neg)
    else signCode .fp32 (a.neg != b.neg)

/-- The magnitude code of a binary32 lane: comparing codes compares magnitudes. -/
def magCode (x : Nat) : Nat := x % 2 ^ 31

/-- The axis of the largest |dir|, the lowest on a tie, and the other two in the order that its sign fixes. -/
def rtriAxes (dir : Vec) : Nat × Nat × Nat :=
  let m := fun a => magCode (lane32 dir a)
  let kz := if m 1 ≤ m 0 ∧ m 2 ≤ m 0 then 0 else if m 2 ≤ m 1 then 1 else 2
  let kx := (kz + 1) % 3
  let ky := (kx + 1) % 3
  if ltV (decodeF .fp32 (lane32 dir kz)) (.fin false 0 0) then (ky, kx, kz) else (kx, ky, kz)

/-- The shear of a direction: Sx, Sy, Sz. -/
def rtriShear (dir : Vec) : Nat × Nat × Nat :=
  let (kx, ky, kz) := rtriAxes dir
  (fDivCode (lane32 dir kx) (lane32 dir kz), fDivCode (lane32 dir ky) (lane32 dir kz), fDivCode 0x3F800000 (lane32 dir kz))

/-- One vertex, translated and sheared. -/
def rtriVertex (a dir v : Vec) : Vec :=
  let (kx, ky, kz) := rtriAxes dir
  let (sx, sy, sz) := rtriShear dir
  let p := fun j => (fSub .fp32 (lane32 v j) (lane32 a j)).1
  vecOf 32 [(fNma .fp32 sx (p kz) (p kx)).1, (fNma .fp32 sy (p kz) (p ky)).1, (fMul .fp32 sz (p kz)).1, 0]

/-- The exact value of a finite binary32 code as a signed multiple of 2^−149. -/
def exact32 (x : Nat) : Int :=
  match decodeF .fp32 x with
  | .fin n m e => scaled n m e (-149)
  | _ => 0

/-- The values that R429 requires to be finite. -/
def rtriLanes (a dir : Vec) (vs xs : List Vec) : List FV :=
  let (sx, sy, sz) := rtriShear dir
  ((upto 4).map (lane32 a) ++ (upto 4).map (lane32 dir) ++ vs.flatMap (fun v => (upto 3).map (lane32 v))
    ++ [sx, sy, sz] ++ xs.flatMap fun v => (upto 3).map (lane32 v)).map (decodeF .fp32)

/-- x ÷ y of two exact integers times 2^e, rounded once to binary32. -/
def ratio32 (x y : Int) (e : Int) : Nat :=
  let neg := decide (x < 0) != decide (y < 0)
  if x = 0 then signCode .fp32 false
  else
    let (m, t) := divSticky 200 x.natAbs e y.natAbs 0
    (roundFin .fp32 0 neg m t).1

/-- Beat 3: the hit record. -/
def rtriHit (a dir : Vec) (vs xs : List Vec) (c : Vec) : Vec :=
  let fs := rtriLanes a dir vs xs
  if fs.any (fun v => v.isNaN || v.isInf) || (upto 3).all (fun j => magCode (lane32 dir j) == 0) then c
  else
    let q := fun k j => exact32 (lane32 (xs.getD k 0) j)
    let u := q 2 0 * q 1 1 - q 2 1 * q 1 0
    let v := q 0 0 * q 2 1 - q 0 1 * q 2 0
    let w := q 1 0 * q 0 1 - q 1 1 * q 0 0
    let det := u + v + w
    let t := u * q 0 2 + v * q 1 2 + w * q 2 2
    let sg : Int := if det < 0 then -1 else 1
    let inside := (decide (0 ≤ u) && decide (0 ≤ v) && decide (0 ≤ w)) || (decide (u ≤ 0) && decide (v ≤ 0) && decide (w ≤ 0))
    -- tmin ≤ T/det ≤ tmax, both sides times |det|
    let lo := exact32 (lane32 a 3) * (sg * det)
    let hi := exact32 (lane32 dir 3) * (sg * det)
    if det != 0 && inside && decide (lo ≤ sg * t) && decide (sg * t ≤ hi) then
      let tc := ratio32 t det (-149)
      let old := decodeF .fp32 (lane32 c 0)
      if old.isNaN || ltV (decodeF .fp32 tc) old then
        vecOf 32 [tc, lane32 (vs.getD 0 0) 3, ratio32 v det 0, ratio32 w det 0]
      else c
    else c

/-- Execute of RTRI: `held` is A and B of beat 0, then the vertices and the sheared vertices in turn. -/
def rtriExe : Exe := fun _ e k o held =>
  let a := if k = 0 then o.a else held.getD 0 0
  let dir := if k = 0 then o.b else held.getD 1 0
  if k < 3 then
    let x := rtriVertex a dir o.c
    let held := (if k = 0 then [a, dir] else held) ++ [o.c, x]
    let nan := (rtriLanes a dir [o.c] [x]).any FV.isNaN
    ⟨e, x, if nan then fNV else 0, held, none⟩
  else
    let vs := [held.getD 2 0, held.getD 4 0, held.getD 6 0]
    let xs := [held.getD 3 0, held.getD 5 0, held.getD 7 0]
    ⟨e, rtriHit a dir vs xs o.c, 0, held, none⟩

/-- RTRI. -/
def execRtri (h : Hdr) (d a b c : Opnd) (s : State) : Host.Outcome State Fault Refusal :=
  fire (.rtri h d a b c) 1 32 noCarry rtriExe s

/-! ## EDGE (R430) -/

/-- Sample s is covered. -/
def edgeSample (o : BeatOps) (s : Nat) : Bool :=
  let l := fun (v : Vec) j => sext 32 (laneOf 32 v.toNat j)
  let x0 := l o.a 3
  let y0 := l o.b 3
  let p := if (laneOf 32 o.c.toNat 3) % 2 = 0 then (x0 + 16 * (s % 4 : Nat) + 8, y0 + 16 * (s / 4 : Nat) + 8)
    else (x0 + 4 * (s % 4 : Nat) + (s / 4 : Nat), y0 + 4 * (s / 4 : Nat) + (s % 4 : Nat))
  (upto 3).all fun k =>
    let a := l o.a k
    let b := l o.b k
    let e := a * p.1 + b * p.2 + l o.c k
    !(decide (e < 0) || (e == 0 && !(decide (0 < a) || (a == 0 && decide (0 < b)))))

def edge (o : BeatOps) : Vec :=
  BitVec.ofNat 128 ((upto 16).foldl (fun m s => if edgeSample o s then m + 2 ^ s else m) 0)

/-- EDGE. -/
def execEdge (h : Hdr) (d a b c : Opnd) (s : State) : Host.Outcome State Fault Refusal :=
  fireInt (.edge h d a b c) 32 edge s

/-! ## The sequence unit (R432 to R434) -/

/-- SEQ of a token's payload (R431). -/
def seqOf (t : Token) : Nat := laneOf 32 t.pay.toNat 3 % 2 ^ 24

/-- Local offset of granule n of the area. -/
def seqGranule (e : Elem) (n : Nat) : Nat := e.seqBase * 4096 + 16 * (n % 256)

/-- A granule of an element's scratchpad is sealed (R209). -/
def sealedAt (e : Elem) (off : Nat) : Bool :=
  e.seals.any fun p => p.2.sealed && decide (p.2.lo ≤ off / 16 * 16) && decide (off / 16 * 16 < p.2.hi)

/-- The queue of an operand. -/
def queueOf : Opnd → Nat
  | .q j => j.val
  | _ => 0

/-- The unit is armed on the queue that a take names, and the granule of EXPECT is occupied (SeqtParked of R102). -/
def seqtParked (e : Elem) (q : Nat) : Bool := e.seqArm && e.seqQ == q && e.seqOcc.getLsbD (e.seqExpect.toNat % 256)

/-- SEQT take on the queue's head (R433): a unit not armed on it traps. -/
def seqtHeadExe (q : Nat) : Exe := fun _ e _ o _ =>
  if e.seqArm && e.seqQ == q then ⟨{ e with seqExpect := e.seqExpect + 1 }, o.a, 0, [], none⟩
  else ⟨e, 0, 0, [], some ⟨2, 0, 0⟩⟩

/-- SEQT take of a parked granule (R433). -/
def seqtParkedExe : Exe := fun _ e _ _ _ =>
  let n := e.seqExpect.toNat
  ⟨{ e with seqExpect := e.seqExpect + 1, seqOcc := e.seqOcc &&& ~~~ BitVec.ofNat 256 (2 ^ (n % 256)) },
    BitVec.ofNat 128 (memVal e.spad (seqGranule e n) 16), 0, [], none⟩

/-- SEQT, the take (R433). A take of a parked granule does not touch the queue. -/
def execSeqt (h : Hdr) (d a : Opnd) (s : State) : Host.Outcome State Fault Refusal :=
  let e := getE s (focusKey s)
  let q := queueOf a
  match (Instr.seqt h d a).form with
  | none => .next s
  | some f =>
    if seqtParked e q then
      .next (fireForm { f with a := .unused } 1 8 true (resultCtx s f) noCarry seqtParkedExe (fun _ t => t) s)
    else
      let unit := !(e.seqArm && e.seqQ == q) ||
        (match headTok e q with | some t => seqOf t == e.seqExpect.toNat | none => false)
      .next (fireForm f 1 8 unit (resultCtx s f) noCarry (seqtHeadExe q) (fun _ t => t) s)

/-- SEQT, the reset (R434). -/
def execSeqtRst (h : Hdr) (a : Opnd) (j : BitVec 3) (base : BitVec 4) (s : State) :
    Host.Outcome State Fault Refusal :=
  fire (.seqtRst h a j base) 1 8 noCarry (fun x e _ o _ =>
    if spadSize x.region < base.toNat * 4096 + 4096 then ⟨e, 0, 0, [], some ⟨5, 0, 0⟩⟩
    else if spEn e && (spQa e == j.toNat || spQb e == j.toNat) then ⟨e, 0, 0, [], some ⟨2, 0, 0⟩⟩
    else ⟨{ e with seqArm := true, seqQ := j.toNat, seqBase := base.toNat,
                   seqExpect := BitVec.ofNat 24 (laneOf 32 o.a.toNat 0), seqOcc := 0 }, 0, 0, [], none⟩) s

/-- One step of the sequence unit's input stage (R432): a park waits for nothing, a trap until the datapath is free, as R203 gives. -/
def seqPark (s : State) (key : Nat) : State :=
  let e := getE s key
  let c := (getR s (keyRegion key)).cycle
  let trap := fun (cause : BitVec 8) (addr : Nat) => if e.busy ≤ c then elemTrap s key 1 cause 0 0 0 0 addr [] else s
  match headTok e e.seqQ with
  | none => s
  | some t =>
    if !e.seqArm || rawAvail e e.seqQ == 0 || 1 < t.kind || t.eow then s
    else
      let n := seqOf t
      let dist := (n + 2 ^ 24 - e.seqExpect.toNat) % 2 ^ 24
      if dist = 0 then s
      else if dist < 256 then
        if e.seqOcc.getLsbD (n % 256) then trap 5 0
        else if sealedAt e (seqGranule e n) then trap 7 (seqGranule e n)
        else
          let e := acquireTok e t
          setE s key (dequeue { e with
            seqBusy := c + 1
            spad := memWrite e.spad (seqGranule e n) (bytesOf 16 t.pay.toNat)
            seqOcc := e.seqOcc ||| BitVec.ofNat 256 (2 ^ (n % 256)) } e.seqQ)
      else if dist < 2 ^ 23 then s
      else trap 5 0

/-- SEQT_PARK (R432): the input stage examines the head once in a fabric cycle. -/
def execSeqtPark (r st el : Nat) (s : State) : Host.Outcome State Fault Refusal :=
  withUnit (elemOk s r st el) s fun s =>
    let e := getE s (ekey r st el)
    if acting (getR s r) && e.trapRec.isNone && decide (e.seqBusy ≤ (getR s r).cycle) then seqPark s (ekey r st el) else s

end Sys2Proof.Machine
end

