-- ==== Sys2Proof/Machine/Fetch.lean ====
section
/-!
DEFINITION. Machine/Fetch.lean: how a sequencer fetches its next instruction (R89, R285), the traps of fetch and decode
(R87, R89), and the trap that is taken at an instruction boundary (R438).
-/
namespace Sys2Proof.Machine

/-- What a fetch comes to: the instruction, or a wait for its line or translation. -/
inductive Fetched where
  | instr (i : Instr) (s : State)
  | wait (s : State)
  deriving DecidableEq, Repr

/-- Lines of the instruction cache (R281). -/
def icacheLines : Nat := 512

/-- The instruction whose bytes lie in a line at an address. -/
def lineInstr (l : Line) (pa : Nat) : Instr := decodeSeqBytes (lineBytes l (pa % 64) 4)

/-- Fetch at PC: translation, the fetch permit of the line, then decoding (R89). -/
def fetch (s : State) (r : Nat) : Fetched :=
  let va := (getSeq s r).pc.toNat
  match seqUse s r va 3 with
  | .wait s => .wait s
  | .fault s c _ => .instr (.instructionFetchFault c) s
  | .ok s x =>
    let q := getSeq s r
    let v := viaOf x va
    if !(q.permits.any fun p => p.1 == va / 64) then .instr (.instructionFetchFault 0x03) s
    else match q.icache.find? fun c => c.line == v.pa / 64 with
    | some c => .instr (lineInstr c.data v.pa) s
    | none =>
      if storePending q v.pa then .wait s
      else match readLine s r v false (seqTag s r) with
      | .wait s => .wait (seqHold s r va x)
      | .done s d _ bad =>
        let s := seqRelease s r
        match bad with
        | some c => .instr (.instructionFetchFault c) s
        | none => .instr (lineInstr d v.pa) (modSeq { s with free := s.free + 1 } r fun q =>
            { q with icache := l1Fill icacheLines q.icache ⟨v.pa / 64, d, false⟩ s.free })

/-- ILLEGAL_INSTRUCTION (R87): the word's trap, with cause 0x01 or 0x02; a POOL header word gives 0x03 (R89). -/
def execIllegalInstruction (cause : BitVec 8) : Meaning := fun s => seqDo s fun r _ => seqTrap s r cause 0

/-- INSTRUCTION_FETCH_FAULT (R89): TVAL is the fetch address, but 0 for a clear permit, which is no access fault (R437). -/
def execInstructionFetchFault (cause : BitVec 8) : Meaning := fun s => seqDo s fun r q =>
  seqTrap s r cause (if cause = 0x03 then 0 else q.pc)

/-! ## Asynchronous traps (R436, R438) -/

/-- The pending trap of the lowest class; the element trap queue stands for class 2. -/
def pendingTrap (x : Region) : Option AsyncTrap :=
  let q : List AsyncTrap := match x.etq with
    | h :: _ => [⟨2, BitVec.ofNat 8 (field h.toNat 39 32), 1, 0⟩]
    | [] => []
  (x.seq.pending ++ q).foldl (fun (a : Option AsyncTrap) t => match a with | some b => if t.cls < b.cls then some t else some b | none => some t) none

/-- ASYNC_TRAP_TAKE: at a boundary in team mode. -/
def execAsyncTrapTake (r : Nat) : Meaning := fun s => withUnit (regionOk r) s fun s =>
  let x := getR s r
  match pendingTrap x with
  | some t =>
    if x.seq.sup || x.seq.asked || x.seq.exiting then s
    else takeTrap (modSeq s r fun q => { q with pending := removeFirst (fun y => y == t) q.pending }) r t.cause t.src true t.val
  | none => s

/-- The sequencer of a region may take a step: it has a team and is not stopped, or completes a load that it has issued
(R282, R447). -/
def seqActs (x : Region) : Bool :=
  x.team.isSome && (acting x || (x.rstate == .stopping && x.seq.asked))

/-- A trap is due at this boundary. -/
def trapDue (x : Region) : Bool :=
  !x.seq.sup && !x.seq.asked && !x.seq.exiting && (pendingTrap x).isSome

end Sys2Proof.Machine
end

