-- ==== Sys2Proof/Machine/SeqTrap.lean ====
section
/-!
DEFINITION. Machine/SeqTrap.lean: TRAP, BKPT, TRET, WAITE with its timeout, and YIELD (R295, R311, R439, R440).
-/
namespace Sys2Proof.Machine

/-- TRAP and BKPT (R439). -/
def execSeqTrap (n : BitVec 11) : Meaning := fun s => seqDo s fun r _ => seqTrap s r 0x10 (n.setWidth 64)
def execSeqBkpt (n : BitVec 11) : Meaning := fun s => seqDo s fun r _ => seqTrap s r 0x11 (n.setWidth 64)

/-- TRET (R440). -/
def execTret : Meaning := fun s => seqPriv s fun r _ => returnTrap s r

/-- A WAITE has run out of time: no entry arrived in the cycles before its deadline (R295). -/
def waiteOver (x : Region) : Bool :=
  match x.seq.waite with
  | some (some t, _) => decide (t ≤ x.cycle) && (x.seq.events == [] || decide (t ≤ x.seq.evFirst))
  | _ => false

/-- WAITE (R295): the head of the event queue, once there is one; 0 where its time has run out first. -/
def execWaite (a d : BitVec 5) : Meaning := fun s => seqDo s fun r q =>
  if waiteOver (getR s r) then seqPut s r d 0
  else match q.events with
  | e :: rest => seqNext s r fun q => setS { q with events := rest } d e
  | [] =>
    if q.waite.isSome then s
    else
      let n := (getS q a).toNat
      modSeq (seqWait s r) r fun q => { q with waite := some (if n = 0 then none else some ((getR s r).cycle + n), d) }

/-- EVENT_WAIT_TIMEOUT (R295): the time of the WAITE that waits has run out; it writes 0. -/
def execEventWaitTimeout (r : Nat) : Meaning := fun s => withUnit (regionOk r) s fun s =>
  let x := getR s r
  match x.seq.waite with
  | some (_, d) => if waiteOver x ∧ acting x then seqPut s r d 0 else s
  | none => s

/-- YIELD (R311): it ends the hold of a request, with PC at the next instruction. -/
def execYield : Meaning := fun s => seqDo s fun r _ =>
  let s := seqNext s r id
  match (getR s r).rstate with
  | .holding => beginStop s r (getR s r).reason
  | _ => s

end Sys2Proof.Machine
end

