-- ==== Sys2Proof/Machine/Dispatch.lean ====
section
/-!
DEFINITION. Machine/Dispatch.lean: one arm for each row of the opcode table.
-/
namespace Sys2Proof.Machine
open Sys2Proof

def exec (i : Instr) (s : State) : Host.Outcome State Fault Refusal :=
  match i with
  | .nop h => Sys2Proof.Machine.execNop h s
  | .mov h d a => Sys2Proof.Machine.execMov h d a s
  | .movi h d imm => Sys2Proof.Machine.execMovi h d imm s
  | .movhi h d a imm => Sys2Proof.Machine.execMovhi h d a imm s
  | .sel h d a b c => Sys2Proof.Machine.execSel h d a b c s
  | .pset h a => Sys2Proof.Machine.execPset h a s
  | .tags h d vc ctx => Sys2Proof.Machine.execTags h d vc ctx s
  | .halt h => Sys2Proof.Machine.execHalt h s
  | .send h d a eow vc ctx => Sys2Proof.Machine.execSend h d a eow vc ctx s
  | .sendo h d a eow vc sc ctx => Sys2Proof.Machine.execSendo h d a eow vc sc ctx s
  | .drop h a => Sys2Proof.Machine.execDrop h a s
  | .relay h d a => Sys2Proof.Machine.execRelay h d a s
  | .lcnt h d a => Sys2Proof.Machine.execLcnt h d a s
  | .ftset h a fmt vc => Sys2Proof.Machine.execFtset h a fmt vc s
  | .arrive h a off rc ch sc => Sys2Proof.Machine.execArrive h a off rc ch sc s
  | .fevt h a => Sys2Proof.Machine.execFevt h a s
  | .add h d a b => Sys2Proof.Machine.execAdd h d a b s
  | .sub h d a b => Sys2Proof.Machine.execSub h d a b s
  | .adds h d a b => Sys2Proof.Machine.execAdds h d a b s
  | .subs h d a b => Sys2Proof.Machine.execSubs h d a b s
  | .addus h d a b => Sys2Proof.Machine.execAddus h d a b s
  | .subus h d a b => Sys2Proof.Machine.execSubus h d a b s
  | .mul h d a b => Sys2Proof.Machine.execMul h d a b s
  | .mulh h d a b => Sys2Proof.Machine.execMulh h d a b s
  | .mulhu h d a b => Sys2Proof.Machine.execMulhu h d a b s
  | .mad h d a b c => Sys2Proof.Machine.execMad h d a b c s
  | .addmin h d a b c => Sys2Proof.Machine.execAddmin h d a b c s
  | .addmax h d a b c => Sys2Proof.Machine.execAddmax h d a b c s
  | .min h d a b => Sys2Proof.Machine.execMin h d a b s
  | .max h d a b => Sys2Proof.Machine.execMax h d a b s
  | .minu h d a b => Sys2Proof.Machine.execMinu h d a b s
  | .maxu h d a b => Sys2Proof.Machine.execMaxu h d a b s
  | .absd h d a b => Sys2Proof.Machine.execAbsd h d a b s
  | .and h d a b => Sys2Proof.Machine.execAnd h d a b s
  | .or h d a b => Sys2Proof.Machine.execOr h d a b s
  | .xor h d a b => Sys2Proof.Machine.execXor h d a b s
  | .andn h d a b => Sys2Proof.Machine.execAndn h d a b s
  | .shl h d a b => Sys2Proof.Machine.execShl h d a b s
  | .shr h d a b => Sys2Proof.Machine.execShr h d a b s
  | .sar h d a b => Sys2Proof.Machine.execSar h d a b s
  | .rol h d a b => Sys2Proof.Machine.execRol h d a b s
  | .popc h d a => Sys2Proof.Machine.execPopc h d a s
  | .clz h d a => Sys2Proof.Machine.execClz h d a s
  | .cmpeq h d a b => Sys2Proof.Machine.execCmpeq h d a b s
  | .cmplt h d a b => Sys2Proof.Machine.execCmplt h d a b s
  | .cmpltu h d a b => Sys2Proof.Machine.execCmpltu h d a b s
  | .dot4 h d a b c => Sys2Proof.Machine.execDot4 h d a b c s
  | .sad h d a b c => Sys2Proof.Machine.execSad h d a b c s
  | .addi h d a imm => Sys2Proof.Machine.execAddi h d a imm s
  | .andi h d a imm => Sys2Proof.Machine.execAndi h d a imm s
  | .ori h d a imm => Sys2Proof.Machine.execOri h d a imm s
  | .xori h d a imm => Sys2Proof.Machine.execXori h d a imm s
  | .shli h d a imm => Sys2Proof.Machine.execShli h d a imm s
  | .shri h d a imm => Sys2Proof.Machine.execShri h d a imm s
  | .sari h d a imm => Sys2Proof.Machine.execSari h d a imm s
  | .cmpeqi h d a imm => Sys2Proof.Machine.execCmpeqi h d a imm s
  | .cmplti h d a imm => Sys2Proof.Machine.execCmplti h d a imm s
  | .ext h d a pos len => Sys2Proof.Machine.execExt h d a pos len s
  | .ins h d a pos len => Sys2Proof.Machine.execIns h d a pos len s
  | .lxor h d a imm => Sys2Proof.Machine.execLxor h d a imm s
  | .lfun h d a b imm => Sys2Proof.Machine.execLfun h d a b imm s
  | .lbcst h d a imm => Sys2Proof.Machine.execLbcst h d a imm s
  | .txch h d a m => Sys2Proof.Machine.execTxch h d a m s
  | .tbcst h d a src => Sys2Proof.Machine.execTbcst h d a src s
  | .tred h d a op gm => Sys2Proof.Machine.execTred h d a op gm s
  | .lpack h d a b => Sys2Proof.Machine.execLpack h d a b s
  | .lunpk h d a sx half => Sys2Proof.Machine.execLunpk h d a sx half s
  | .fadd h d a b => Sys2Proof.Machine.execFadd h d a b s
  | .fsub h d a b => Sys2Proof.Machine.execFsub h d a b s
  | .fmul h d a b => Sys2Proof.Machine.execFmul h d a b s
  | .fma h d a b c => Sys2Proof.Machine.execFma h d a b c s
  | .fnma h d a b c => Sys2Proof.Machine.execFnma h d a b c s
  | .fmin h d a b => Sys2Proof.Machine.execFmin h d a b s
  | .fmax h d a b => Sys2Proof.Machine.execFmax h d a b s
  | .fcmpeq h d a b => Sys2Proof.Machine.execFcmpeq h d a b s
  | .fcmplt h d a b => Sys2Proof.Machine.execFcmplt h d a b s
  | .fcmple h d a b => Sys2Proof.Machine.execFcmple h d a b s
  | .fsgn h d a b => Sys2Proof.Machine.execFsgn h d a b s
  | .frcp h d a => Sys2Proof.Machine.execFrcp h d a s
  | .frsq h d a => Sys2Proof.Machine.execFrsq h d a s
  | .fexp2 h d a => Sys2Proof.Machine.execFexp2 h d a s
  | .flog2 h d a => Sys2Proof.Machine.execFlog2 h d a s
  | .fsin h d a => Sys2Proof.Machine.execFsin h d a s
  | .fcos h d a => Sys2Proof.Machine.execFcos h d a s
  | .frnd h d a rm => Sys2Proof.Machine.execFrnd h d a rm s
  | .fdot2 h d a b c => Sys2Proof.Machine.execFdot2 h d a b c s
  | .faddmin h d a b c => Sys2Proof.Machine.execFaddmin h d a b c s
  | .fclass h d a => Sys2Proof.Machine.execFclass h d a s
  | .fscale h d a b => Sys2Proof.Machine.execFscale h d a b s
  | .fsat h d a => Sys2Proof.Machine.execFsat h d a s
  | .cvt h d a tt tf sf rm part => Sys2Proof.Machine.execCvt h d a tt tf sf rm part s
  | .cvtn h d a tt tf sf rm ef => Sys2Proof.Machine.execCvtn h d a tt tf sf rm ef s
  | .mxqSc h d a fmt => Sys2Proof.Machine.execMxqSc h d a fmt s
  | .mxq h d a b rm fmt => Sys2Proof.Machine.execMxq h d a b rm fmt s
  | .mxdq h d a b part fmt => Sys2Proof.Machine.execMxdq h d a b part fmt s
  | .efld h a n => Sys2Proof.Machine.execEfld h a n s
  | .efst h d n => Sys2Proof.Machine.execEfst h d n s
  | .ld h d a off rc ch sc pol => Sys2Proof.Machine.execLd h d a off rc ch sc pol s
  | .st h d a off rc ch sc pol => Sys2Proof.Machine.execSt h d a off rc ch sc pol s
  | .ldfKeep h d a off rc ch => Sys2Proof.Machine.execLdfKeep h d a off rc ch s
  | .ldfClr h d a off rc ch => Sys2Proof.Machine.execLdfClr h d a off rc ch s
  | .stf h d a off rc ch => Sys2Proof.Machine.execStf h d a off rc ch s
  | .ldg h d a off rc ch sc pol => Sys2Proof.Machine.execLdg h d a off rc ch sc pol s
  | .sts h d a off rc ch sc pol => Sys2Proof.Machine.execSts h d a off rc ch sc pol s
  | .atom h d a op size rc ch sc => Sys2Proof.Machine.execAtom h d a op size rc ch sc s
  | .fenceFull h sc => Sys2Proof.Machine.execFenceFull h sc s
  | .fenceRel h sc => Sys2Proof.Machine.execFenceRel h sc s
  | .fenceAcq h sc => Sys2Proof.Machine.execFenceAcq h sc s
  | .ldr h d a off rc ch => Sys2Proof.Machine.execLdr h d a off rc ch s
  | .seal h rc ch => Sys2Proof.Machine.execSeal h rc ch s
  | .rclaim h rc ch => Sys2Proof.Machine.execRclaim h rc ch s
  | .pref h a off rc pol => Sys2Proof.Machine.execPref h a off rc pol s
  | .invl1 h => Sys2Proof.Machine.execInvl1 h s
  | .fesetEmpty h a off rc ch => Sys2Proof.Machine.execFesetEmpty h a off rc ch s
  | .fesetFull h a off rc ch => Sys2Proof.Machine.execFesetFull h a off rc ch s
  | .brec h d a rc => Sys2Proof.Machine.execBrec h d a rc s
  | .tsync h => Sys2Proof.Machine.execTsync h s
  | .rbox h d a b c => Sys2Proof.Machine.execRbox h d a b c s
  | .rtri h d a b c => Sys2Proof.Machine.execRtri h d a b c s
  | .spcfg h en qa qb => Sys2Proof.Machine.execSpcfg h en qa qb s
  | .seqt h d a => Sys2Proof.Machine.execSeqt h d a s
  | .seqtRst h a j base => Sys2Proof.Machine.execSeqtRst h a j base s
  | .edge h d a b c => Sys2Proof.Machine.execEdge h d a b c s
  | .ctlRead h d n => Sys2Proof.Machine.execCtlRead h d n s
  | .ctlWrite h a n => Sys2Proof.Machine.execCtlWrite h a n s
  | .trap h n => Sys2Proof.Machine.execTrap h n s
  | .bkpt h n => Sys2Proof.Machine.execBkpt h n s
  | .faultySlotFire cause => Sys2Proof.Machine.execFaultySlotFire cause s
  | .seqAdd d a b => Sys2Proof.Machine.execSeqAdd d a b s
  | .seqSub d a b => Sys2Proof.Machine.execSeqSub d a b s
  | .seqAnd d a b => Sys2Proof.Machine.execSeqAnd d a b s
  | .seqOr d a b => Sys2Proof.Machine.execSeqOr d a b s
  | .seqXor d a b => Sys2Proof.Machine.execSeqXor d a b s
  | .seqShl d a b => Sys2Proof.Machine.execSeqShl d a b s
  | .seqShr d a b => Sys2Proof.Machine.execSeqShr d a b s
  | .seqSar d a b => Sys2Proof.Machine.execSeqSar d a b s
  | .seqMul d a b => Sys2Proof.Machine.execSeqMul d a b s
  | .seqMulh d a b => Sys2Proof.Machine.execSeqMulh d a b s
  | .seqMulhu d a b => Sys2Proof.Machine.execSeqMulhu d a b s
  | .div d a b => Sys2Proof.Machine.execDiv d a b s
  | .divu d a b => Sys2Proof.Machine.execDivu d a b s
  | .rem d a b => Sys2Proof.Machine.execRem d a b s
  | .remu d a b => Sys2Proof.Machine.execRemu d a b s
  | .seqMin d a b => Sys2Proof.Machine.execSeqMin d a b s
  | .seqMax d a b => Sys2Proof.Machine.execSeqMax d a b s
  | .seqMinu d a b => Sys2Proof.Machine.execSeqMinu d a b s
  | .seqMaxu d a b => Sys2Proof.Machine.execSeqMaxu d a b s
  | .slt d a b => Sys2Proof.Machine.execSlt d a b s
  | .sltu d a b => Sys2Proof.Machine.execSltu d a b s
  | .seqClz d a => Sys2Proof.Machine.execSeqClz d a s
  | .seqPopc d a => Sys2Proof.Machine.execSeqPopc d a s
  | .seqAddi d a fi => Sys2Proof.Machine.execSeqAddi d a fi s
  | .seqAndi d a fi => Sys2Proof.Machine.execSeqAndi d a fi s
  | .seqOri d a fi => Sys2Proof.Machine.execSeqOri d a fi s
  | .seqXori d a fi => Sys2Proof.Machine.execSeqXori d a fi s
  | .seqShli d a n => Sys2Proof.Machine.execSeqShli d a n s
  | .seqShri d a n => Sys2Proof.Machine.execSeqShri d a n s
  | .seqSari d a n => Sys2Proof.Machine.execSeqSari d a n s
  | .slti d a fi => Sys2Proof.Machine.execSlti d a fi s
  | .lhi d fi => Sys2Proof.Machine.execLhi d fi s
  | .ldl d fi => Sys2Proof.Machine.execLdl d fi s
  | .ldb d a fi => Sys2Proof.Machine.execLdb d a fi s
  | .ldh d a fi => Sys2Proof.Machine.execLdh d a fi s
  | .ldw d a fi => Sys2Proof.Machine.execLdw d a fi s
  | .ldd d a fi => Sys2Proof.Machine.execLdd d a fi s
  | .stb d a fi => Sys2Proof.Machine.execStb d a fi s
  | .sth d a fi => Sys2Proof.Machine.execSth d a fi s
  | .stw d a fi => Sys2Proof.Machine.execStw d a fi s
  | .std d a fi => Sys2Proof.Machine.execStd d a fi s
  | .seqAtom d a b c z o => Sys2Proof.Machine.execSeqAtom d a b c z o s
  | .seqFenceFull fs => Sys2Proof.Machine.execSeqFenceFull fs s
  | .seqFenceRel fs => Sys2Proof.Machine.execSeqFenceRel fs s
  | .seqFenceAcq fs => Sys2Proof.Machine.execSeqFenceAcq fs s
  | .beq a b o => Sys2Proof.Machine.execBeq a b o s
  | .bne a b o => Sys2Proof.Machine.execBne a b o s
  | .blt a b o => Sys2Proof.Machine.execBlt a b o s
  | .bge a b o => Sys2Proof.Machine.execBge a b o s
  | .bltu a b o => Sys2Proof.Machine.execBltu a b o s
  | .bgeu a b o => Sys2Proof.Machine.execBgeu a b o s
  | .jmp o => Sys2Proof.Machine.execJmp o s
  | .jal o => Sys2Proof.Machine.execJal o s
  | .jr d a => Sys2Proof.Machine.execJr d a s
  | .getc d n => Sys2Proof.Machine.execGetc d n s
  | .setc a n => Sys2Proof.Machine.execSetc a n s
  | .seqTrap n => Sys2Proof.Machine.execSeqTrap n s
  | .seqBkpt n => Sys2Proof.Machine.execSeqBkpt n s
  | .tret => Sys2Proof.Machine.execTret s
  | .waite a d => Sys2Proof.Machine.execWaite a d s
  | .seqTsync => Sys2Proof.Machine.execSeqTsync s
  | .mctx a m c => Sys2Proof.Machine.execMctx a m c s
  | .mctxClr m c => Sys2Proof.Machine.execMctxClr m c s
  | .mrunMma a b m c x fs => Sys2Proof.Machine.execMrunMma a b m c x fs s
  | .mrunZero a b m c x fs => Sys2Proof.Machine.execMrunZero a b m c x fs s
  | .mrunLoad a b m c x fs => Sys2Proof.Machine.execMrunLoad a b m c x fs s
  | .mrunWrite a b m c x fs => Sys2Proof.Machine.execMrunWrite a b m c x fs s
  | .pump a u => Sys2Proof.Machine.execPump a u s
  | .ldcfg a fs => Sys2Proof.Machine.execLdcfg a fs s
  | .ldcfgClr fs => Sys2Proof.Machine.execLdcfgClr fs s
  | .ldcfgCode a w => Sys2Proof.Machine.execLdcfgCode a w s
  | .recfg a => Sys2Proof.Machine.execRecfg a s
  | .recfgEnd => Sys2Proof.Machine.execRecfgEnd s
  | .qput a b p e fs c v => Sys2Proof.Machine.execQput a b p e fs c v s
  | .qget l h p => Sys2Proof.Machine.execQget l h p s
  | .tbinit a b n => Sys2Proof.Machine.execTbinit a b n s
  | .tbarr a fs => Sys2Proof.Machine.execTbarr a fs s
  | .tbwait a b fs => Sys2Proof.Machine.execTbwait a b fs s
  | .launch a d q => Sys2Proof.Machine.execLaunch a d q s
  | .exit => Sys2Proof.Machine.execExit s
  | .yield => Sys2Proof.Machine.execYield s
  | .place a => Sys2Proof.Machine.execPlace a s
  | .placeFrz => Sys2Proof.Machine.execPlaceFrz s
  | .placeThaw => Sys2Proof.Machine.execPlaceThaw s
  | .placeSt d => Sys2Proof.Machine.execPlaceSt d s
  | .cutsel a => Sys2Proof.Machine.execCutsel a s
  | .restripe a => Sys2Proof.Machine.execRestripe a s
  | .pwrmark n => Sys2Proof.Machine.execPwrmark n s
  | .verify a d => Sys2Proof.Machine.execVerify a d s
  | .asyncTrapTake r => Sys2Proof.Machine.execAsyncTrapTake r s
  | .illegalInstruction cause => Sys2Proof.Machine.execIllegalInstruction cause s
  | .instructionFetchFault cause => Sys2Proof.Machine.execInstructionFetchFault cause s
  | .slotdatWrite r w => Sys2Proof.Machine.execSlotdatWrite r w s
  | .spbindWrite r n w => Sys2Proof.Machine.execSpbindWrite r n w s
  | .sqbindWrite r n w => Sys2Proof.Machine.execSqbindWrite r n w s
  | .cfgmapWrite r n w => Sys2Proof.Machine.execCfgmapWrite r n w s
  | .retry r p => Sys2Proof.Machine.execRetry r p s
  | .clr r p => Sys2Proof.Machine.execClr r p s
  | .xfqpop r => Sys2Proof.Machine.execXfqpop r s
  | .etpop r => Sys2Proof.Machine.execEtpop r s
  | .etactResume r st el => Sys2Proof.Machine.execEtactResume r st el s
  | .etactHalt r st el => Sys2Proof.Machine.execEtactHalt r st el s
  | .enterDraining r st el => Sys2Proof.Machine.execEnterDraining r st el s
  | .endOfWaveMarkerSend r st el k => Sys2Proof.Machine.execEndOfWaveMarkerSend r st el k s
  | .configurationInstall r st el => Sys2Proof.Machine.execConfigurationInstall r st el s
  | .installComplete r st el => Sys2Proof.Machine.execInstallComplete r st el s
  | .haltedToDraining r st el => Sys2Proof.Machine.execHaltedToDraining r st el s
  | .markerReachesHead r st el q => Sys2Proof.Machine.execMarkerReachesHead r st el q s
  | .tokenDeliver r st el k j => Sys2Proof.Machine.execTokenDeliver r st el k j s
  | .creditReturn r st el q => Sys2Proof.Machine.execCreditReturn r st el q s
  | .streamDetach w => Sys2Proof.Machine.execStreamDetach w s
  | .outboundPortWrite r n => Sys2Proof.Machine.execOutboundPortWrite r n s
  | .inboundPortDeliver r n => Sys2Proof.Machine.execInboundPortDeliver r n s
  | .coordinateIntersect r st el => Sys2Proof.Machine.execCoordinateIntersect r st el s
  | .txchDeliver r st el m => Sys2Proof.Machine.execTxchDeliver r st el m s
  | .tbcstDeliver r st el => Sys2Proof.Machine.execTbcstDeliver r st el s
  | .tredDeliver r st el => Sys2Proof.Machine.execTredDeliver r st el s
  | .externalPortRequest r st el fi => Sys2Proof.Machine.execExternalPortRequest r st el fi s
  | .loadDataReturn r st el fi => Sys2Proof.Machine.execLoadDataReturn r st el fi s
  | .writePerformed r w fi => Sys2Proof.Machine.execWritePerformed r w fi s
  | .lateFault r st el fi => Sys2Proof.Machine.execLateFault r st el fi s
  | .ldfComplete r st el fi => Sys2Proof.Machine.execLdfComplete r st el fi s
  | .stfComplete r st el fi => Sys2Proof.Machine.execStfComplete r st el fi s
  | .arriveSend r st el fi => Sys2Proof.Machine.execArriveSend r st el fi s
  | .barrierUpdate r st el fi => Sys2Proof.Machine.execBarrierUpdate r st el fi s
  | .notifyTokenDeliver r st el => Sys2Proof.Machine.execNotifyTokenDeliver r st el s
  | .seqtPark r st el => Sys2Proof.Machine.execSeqtPark r st el s
  | .matrixOperandFetch r m c side vec g => Sys2Proof.Machine.execMatrixOperandFetch r m c side vec g s
  | .matrixFetchReturn r m fi => Sys2Proof.Machine.execMatrixFetchReturn r m fi s
  | .matrixOperandStage r m c side => Sys2Proof.Machine.execMatrixOperandStage r m c side s
  | .matrixBlockStep r m => Sys2Proof.Machine.execMatrixBlockStep r m s
  | .matrixZeroTile r m => Sys2Proof.Machine.execMatrixZeroTile r m s
  | .matrixLoadTile r m => Sys2Proof.Machine.execMatrixLoadTile r m s
  | .matrixWriteTile r m => Sys2Proof.Machine.execMatrixWriteTile r m s
  | .matrixTileComplete r m fi => Sys2Proof.Machine.execMatrixTileComplete r m fi s
  | .matrixArrival r m fi => Sys2Proof.Machine.execMatrixArrival r m fi s
  | .pumpRequestPacket r p => Sys2Proof.Machine.execPumpRequestPacket r p s
  | .pumpRequestStart r p => Sys2Proof.Machine.execPumpRequestStart r p s
  | .pumpIssue r p => Sys2Proof.Machine.execPumpIssue r p s
  | .pumpAccessComplete r p fi => Sys2Proof.Machine.execPumpAccessComplete r p fi s
  | .pumpBarrierUpdate r p fi => Sys2Proof.Machine.execPumpBarrierUpdate r p fi s
  | .pumpRequestComplete r p fi => Sys2Proof.Machine.execPumpRequestComplete r p fi s
  | .eventWaitTimeout r => Sys2Proof.Machine.execEventWaitTimeout r s
  | .teamRetire r => Sys2Proof.Machine.execTeamRetire r s
  | .dispatchHeadRead q => Sys2Proof.Machine.execDispatchHeadRead q s
  | .distributorSelect owner => Sys2Proof.Machine.execDistributorSelect owner s
  | .teamBind owner => Sys2Proof.Machine.execTeamBind owner s
  | .freeRegionBind r => Sys2Proof.Machine.execFreeRegionBind r s
  | .stoatSample r => Sys2Proof.Machine.execStoatSample r s
  | .stoatGrowComplete r => Sys2Proof.Machine.execStoatGrowComplete r s
  | .stoatDrainClear r st => Sys2Proof.Machine.execStoatDrainClear r st s
  | .dealPortDeliver r n => Sys2Proof.Machine.execDealPortDeliver r n s
  | .rds ln => Sys2Proof.Machine.execRds ln s
  | .walk ln => Sys2Proof.Machine.execWalk ln s
  | .rdx ln => Sys2Proof.Machine.execRdx ln s
  | .rdmm ln => Sys2Proof.Machine.execRdmm ln s
  | .wbm ln => Sys2Proof.Machine.execWbm ln s
  | .wbmm ln => Sys2Proof.Machine.execWbmm ln s
  | .wrh ln => Sys2Proof.Machine.execWrh ln s
  | .ath ln => Sys2Proof.Machine.execAth ln s
  | .clre ln => Sys2Proof.Machine.execClre ln s
  | .grantAck ln => Sys2Proof.Machine.execGrantAck ln s
  | .snps ln ag => Sys2Proof.Machine.execSnps ln ag s
  | .snpi ln ag => Sys2Proof.Machine.execSnpi ln ag s
  | .snpmm ln ag => Sys2Proof.Machine.execSnpmm ln ag s
  | .cisternEvict die ln => Sys2Proof.Machine.execCisternEvict die ln s
  | .narrowHoldNotice r ln => Sys2Proof.Machine.execNarrowHoldNotice r ln s
  | .narrowReleaseNotice die ln => Sys2Proof.Machine.execNarrowReleaseNotice die ln s
  | .publicationRequest die ln => Sys2Proof.Machine.execPublicationRequest die ln s
  | .recallInvalidate ag ln => Sys2Proof.Machine.execRecallInvalidate ag ln s
  | .translationInvalidation r ln => Sys2Proof.Machine.execTranslationInvalidation r ln s
  | .translationWalkComplete r st el fi => Sys2Proof.Machine.execTranslationWalkComplete r st el fi s
  | .restripeJob => Sys2Proof.Machine.execRestripeJob s
  | .restripeJobEnd => Sys2Proof.Machine.execRestripeJobEnd s
  | .martenJobStart die => Sys2Proof.Machine.execMartenJobStart die s
  | .martenTokenEmit die j => Sys2Proof.Machine.execMartenTokenEmit die j s
  | .martenJobEnd die j => Sys2Proof.Machine.execMartenJobEnd die j s
  | .prcmdPreempt r => Sys2Proof.Machine.execPrcmdPreempt r s
  | .prcmdRestore r => Sys2Proof.Machine.execPrcmdRestore r s
  | .prcmdRelease r => Sys2Proof.Machine.execPrcmdRelease r s
  | .prcmdReserve r => Sys2Proof.Machine.execPrcmdReserve r s
  | .drainTimerExpire r => Sys2Proof.Machine.execDrainTimerExpire r s
  | .drawlimExpire r => Sys2Proof.Machine.execDrawlimExpire r s
  | .regionHalted r => Sys2Proof.Machine.execRegionHalted r s
  | .saveComplete r => Sys2Proof.Machine.execSaveComplete r s
  | .restoreComplete r => Sys2Proof.Machine.execRestoreComplete r s
  | .elementTrapRecordQueue r st el => Sys2Proof.Machine.execElementTrapRecordQueue r st el s
  | .dieLinkFail f => Sys2Proof.Machine.execDieLinkFail f s
  | .rownWrite r w => Sys2Proof.Machine.execRownWrite r w s
  | .logRecordWrite => Sys2Proof.Machine.execLogRecordWrite s
  | .meterIntervalBoundary => Sys2Proof.Machine.execMeterIntervalBoundary s
  | .doorbellWrite fn off w => Sys2Proof.Machine.execDoorbellWrite fn off w s
  | .vfWindowRequest fn rq => Sys2Proof.Machine.execVfWindowRequest fn rq s
  | .hostRequest rq => Sys2Proof.Machine.execHostRequest rq s
  | .functionLevelReset fn => Sys2Proof.Machine.execFunctionLevelReset fn s
  | .flitReceive p ok rq => Sys2Proof.Machine.execFlitReceive p ok rq s
  | .flitReplay p => Sys2Proof.Machine.execFlitReplay p s
  | .portReceiveTimeout p => Sys2Proof.Machine.execPortReceiveTimeout p s
  | .portRetrain p => Sys2Proof.Machine.execPortRetrain p s
  | .peerLost d => Sys2Proof.Machine.execPeerLost d s
  | .powerTokenRefill r => Sys2Proof.Machine.execPowerTokenRefill r s
  | .pwrbudRecompute => Sys2Proof.Machine.execPwrbudRecompute s
  | .powerEmergency => Sys2Proof.Machine.execPowerEmergency s
  | .backpressureWindowEnd r => Sys2Proof.Machine.execBackpressureWindowEnd r s
  | .optctlClr owner => Sys2Proof.Machine.execOptctlClr owner s
  | .frmfreeWrite w => Sys2Proof.Machine.execFrmfreeWrite w s
  | .good => Sys2Proof.Machine.execGood s
  | .goodTimeout => Sys2Proof.Machine.execGoodTimeout s
  | .deviceReset host fail => Sys2Proof.Machine.execDeviceReset host fail s
  | .keylockWrite w => Sys2Proof.Machine.execKeylockWrite w s
  | .verifyServe => Sys2Proof.Machine.execVerifyServe s
  | .getVersion => Sys2Proof.Machine.execGetVersion s
  | .getCapabilities => Sys2Proof.Machine.execGetCapabilities s
  | .negotiateAlgorithms => Sys2Proof.Machine.execNegotiateAlgorithms s
  | .getDigests => Sys2Proof.Machine.execGetDigests s
  | .getCertificate => Sys2Proof.Machine.execGetCertificate s
  | .challenge => Sys2Proof.Machine.execChallenge s
  | .getMeasurements ix => Sys2Proof.Machine.execGetMeasurements ix s
  | .deviceRegisterWrite owner pa w => Sys2Proof.Machine.execDeviceRegisterWrite owner pa w s
  | .writeCombiningBufferDrain r => Sys2Proof.Machine.execWriteCombiningBufferDrain r s

end Sys2Proof.Machine
end

