-- ==== Sys2Proof/Machine/Pick.lean ====
section
/-!
DEFINITION. Machine/Pick.lean: what the step needs around the meanings: the unit in focus, the instruction of a slot, the
steps that units take of their own accord, and the placing of one instruction.
-/
namespace Sys2Proof.Machine

def focusSeq (s : State) (r : Nat) : State := { s with focus := { s.focus with region := r } }
def focusSlot (s : State) (r st el n : Nat) : State := { s with focus := ⟨r, st, el, n⟩ }

/-- The instruction of the slot in focus: none for an empty slot. -/
def slotInstr (s : State) : Option Instr := decodeElem (tget (getE s (focusKey s)).slots s.focus.slot 0)

/-- A step that a unit, the host or a link peer takes of its own accord; the other steps are parts of an instruction. -/
def isUnitStep (i : Instr) : Bool :=
  (elemWord i).isNone && (seqWord i).isNone && (match i with
    | .faultySlotFire _ | .illegalInstruction _ | .instructionFetchFault _ | .asyncTrapTake _ | .slotdatWrite .. | .spbindWrite ..
    | .sqbindWrite .. | .cfgmapWrite .. | .retry .. | .clr .. | .xfqpop _ | .etpop _ | .etactResume .. | .etactHalt ..
    | .powerTokenRefill _ | .backpressureWindowEnd _ | .stoatSample _ => false
    | _ => true)

/-- The steps of the bridge, the management controller and the root of trust, and writes of registers: what works in minimal mode
(R33, R487). -/
def worksMinimal : Instr → Bool
  | .rownWrite .. | .doorbellWrite .. | .vfWindowRequest .. | .hostRequest _ | .functionLevelReset _ | .pwrbudRecompute | .powerEmergency
  | .optctlClr _ | .frmfreeWrite _ | .good | .goodTimeout | .deviceReset .. | .keylockWrite _ | .verifyServe | .getVersion | .getCapabilities
  | .negotiateAlgorithms | .getDigests | .getCertificate | .challenge | .getMeasurements _ | .deviceRegisterWrite .. => true
  | _ => false

/-- The agent may take its step: in minimal mode few units work (R33). -/
def mayMove (s : State) : Turn → Bool
  | .event i => isUnitStep i && (!s.minimal || worksMinimal i)
  | .time => true
  | _ => !s.minimal

/-! ## Placing one instruction (log 4) -/

/-- A leaf that maps a page with every right. -/
def placeLeaf (va pa : Nat) : Xlat :=
  { va := va / 4096 * 4096, size := 4096, pa := pa, pte := 0x3D, plc := 0x407C, root := 0, asid := 0, owner := 0, leafLines := [] }

/-- The team to which an instruction of a sequencer belongs. -/
def placeTeam : Team :=
  { disp := 0, queue := 0, ticket := 0, index := 0, asid := 0, owner := 0, l1sz := 0, draw := false, kid := 0, phase := 0, peers := [] }

/-- A sequencer word at region 0's PC: the page of the PC is mapped to physical page 0, and the line is in the instruction
cache. -/
def placeSeqWord (s : State) (w : BitVec 32) : State :=
  let pc := (getSeq s 0).pc.toNat
  let pa := pc % 4096
  let s := { s with turn := .seq 0, mem := memWrite s.mem pa (bytesOf 4 w.toNat) }
  let d := memLine s.mem (pa / 64)
  modR s 0 fun x => { x with
    team := some placeTeam, rstate := .running, tlb := [placeLeaf pc 0],
    seq := { x.seq with permits := [(pc / 64, 0)], icache := [⟨pa / 64, d, false⟩], pending := [], exiting := false } }

/-- A slot word in element 0 of site 0 of region 0, which is Running with its datapath free and a full store. -/
def placeElemWord (s : State) (w : BitVec 64) : State :=
  let x := getR s 0
  let s := { s with turn := .elem 0 0 0 }
  setR (modE s 0 fun e => { e with slots := [(0, w)], faulty := if faultyWord w then 1 else 0, st := .running, busy := x.cycle, pow := 256, pend := 0, accs := [] }) 0
    { x with team := some placeTeam, rstate := .running, fused := 0 }

end Sys2Proof.Machine
end

