-- ==== Sys2Proof/Machine/Step.lean ====
section
/-!
DEFINITION. Machine/Step.lean: one step of the device. The agent that moves is named by the state; it takes its step, and the
free schedule names the next (log 3).
-/
namespace Sys2Proof.Machine

/-- The free schedule names the next agent. -/
def advance (s : State) : State := { s with turn := Config.schedule s.moves, moves := s.moves + 1 }

/-- What follows a step: the next agent's turn. -/
def thenAdvance : Host.Outcome State Fault Refusal → Host.Outcome State Fault Refusal
  | .next s => .next (advance s)
  | .fault f => .fault f
  | .refused f => .refused f

/-- The sequencer's step: a trap that is due, EXIT while it waits, or the instruction at PC. -/
def seqStep (s : State) (r : Nat) : Host.Outcome State Fault Refusal :=
  let s := focusSeq s r
  if !regionOk r || !seqActs (getR s r) then .next s
  else if trapDue (getR s r) then exec (.asyncTrapTake r) s
  else if (getSeq s r).exiting then exec .exit s
  else match fetch s r with
    | .wait s => .next s
    | .instr i s => exec i s

/-- An instruction has fired: the datapath is taken, or the element has left Running. -/
def fired (s t : State) (key : Nat) : Bool :=
  (getE t key).busy != (getE s key).busy || (getE t key).st != .running

/-- The element's pick: the lowest-numbered slot that is ready fires (R101). -/
def pick (s : State) (r st el : Nat) : List Nat → Host.Outcome State Fault Refusal
  | [] => .next s
  | n :: rest =>
    let t := focusSlot s r st el n
    match slotInstr t with
    | none => pick s r st el rest
    | some i => match exec i t with
      | .next u => if fired t u (ekey r st el) then .next u else pick s r st el rest
      | o => o

/-- The element's step. -/
def elemStep (s : State) (r st el : Nat) : Host.Outcome State Fault Refusal :=
  if elemOk s r st el && canPick s (ekey r st el) then pick s r st el (upto 16) else .next s

/-- One step. -/
def step (s : State) : Host.Outcome State Fault Refusal :=
  thenAdvance (if mayMove s s.turn then match s.turn with
    | .seq r => seqStep s r
    | .elem r st el => elemStep s r st el
    | .event i => exec i s
    | .tick r => .next (tickRegion s r)
    | .time => .next (tickTime s)
  else .next s)

/-- The state with an instruction placed where the next step runs it: a 32-bit word at the PC of region 0's sequencer, in a
team that is bound to the region, on a page that is mapped, permitted and resident; a 64-bit word in slot 0 of element 0 of
site 0, which runs (log 4). -/
def State.withFetchWord (s : State) (nbits w : Nat) : State :=
  if nbits ≤ 32 then placeSeqWord s (BitVec.ofNat 32 w) else placeElemWord s (BitVec.ofNat 64 w)

end Sys2Proof.Machine
end

