-- ==== Sys2Proof/Laws/Encoding.lean ====
section
/-!
SUPPORT. Laws/Encoding.lean: the codes of the fields of both words decode to what they encode, and the words come apart into
the fields that they were put together from. The law of each instruction is in Laws/PerInstr.lean.
-/
namespace Sys2Proof

/-! ## Fields of concatenated words -/

theorem ext_lo {m n : Nat} (x : BitVec m) (y : BitVec n) (s k : Nat) (h : s + k ≤ n) :
    (x ++ y).extractLsb' s k = y.extractLsb' s k := by
  apply BitVec.eq_of_getLsbD_eq
  intro i hi
  simp only [BitVec.getLsbD_extractLsb', BitVec.getLsbD_append]
  rw [if_pos (by omega)]

theorem ext_hi {m n : Nat} (x : BitVec m) (y : BitVec n) (s k : Nat) (h : n ≤ s) :
    (x ++ y).extractLsb' s k = x.extractLsb' (s - n) k := by
  apply BitVec.eq_of_getLsbD_eq
  intro i hi
  simp only [BitVec.getLsbD_extractLsb', BitVec.getLsbD_append]
  rw [if_neg (by omega)]
  congr 2
  omega

theorem ext_all {n : Nat} (x : BitVec n) : x.extractLsb' 0 n = x := by
  apply BitVec.eq_of_getLsbD_eq
  intro i hi
  simp [hi]

theorem ext_join {m n : Nat} (x : BitVec (m + n)) : x.extractLsb' n m ++ x.extractLsb' 0 n = x := by
  apply BitVec.eq_of_getLsbD_eq
  intro i hi
  simp only [BitVec.getLsbD_append, BitVec.getLsbD_extractLsb']
  split
  · simp_all
  · have e : n + (i - n) = i := by omega
    have l : i - n < m := by omega
    simp [e, l]

/-! ## Codes -/

theorem opnd_code (o : Opnd) : opnd? o.code = some o := by
  cases o with
  | f n => revert n; decide
  | la => rfl
  | lb => rfl
  | q n => revert n; decide
  | m n => revert n; decide

theorem power_code (p : PowerClass) : power? p.code = some p := by cases p <;> rfl
theorem ty_code (t : LaneTy) : laneTy? t.code = some t := by cases t <;> rfl
theorem beats_code (b : Beats) : beats? b.code = some b := by cases b <;> rfl
theorem scope_code (x : Scope) : scope? x.code = some x := by cases x <;> rfl
theorem policy_code (x : Policy) : policy? x.code = some x := by cases x <;> rfl
theorem isOne_bit (b : Bool) : isOne (bit b) = b := by cases b <;> rfl

theorem tag_code (q : Fin 6) (x : BitVec 5) : tagTest? (BitVec.ofNat 3 q.val) x = some (some (q, x)) := by
  have h : (BitVec.ofNat 3 q.val).toNat = q.val := by
    simp only [BitVec.toNat_ofNat]
    omega
  have e : Fin.ofNat 6 q.val = q := by
    apply Fin.ext
    simp only [Fin.ofNat]
    omega
  simp only [tagTest?, h, q.isLt, if_true, e]

theorem ps_code (h : Hdr) : psField? h.psCode = some h.ps := by
  unfold Hdr.psCode
  cases h.ps with
  | none => rfl
  | some p =>
    obtain ⟨m, p⟩ := p
    cases m <;> (revert p; decide)

/-! ## The element word -/

theorem unpack_pack (w : ElemWord) : ElemWord.unpack w.pack = w := by
  obtain ⟨v, ph, mask, val, tq, tag, pwr, op, ty, d, a, b, c, ps, dq, beats⟩ := w
  simp (disch := decide) only [ElemWord.unpack, ElemWord.pack, ext_lo, ext_hi, ext_all, Nat.reduceSub]

theorem pack_valid (w : ElemWord) : w.pack.extractLsb' 63 1 = w.v := by
  simp (disch := decide) only [ElemWord.pack, ext_hi, ext_all, Nat.reduceSub]

/-- The header of a word of classes R, I and S. -/
theorem hdr_word (h : Hdr) (op : BitVec 7) (d a b c : BitVec 6) (hm : isClassM op.toNat = false) :
    hdr? (h.word op d a b c h.psCode) = some h := by
  have hp := ps_code h
  obtain ⟨ph, mask, val, t, pwr, ty, ps, dq, beats⟩ := h
  cases t with
  | none =>
    simp only [hdr?, Hdr.word, power_code, ty_code, beats_code, hm, isOne_bit, Option.bind_some, if_false, Bool.false_eq_true]
    rw [hp]
    rfl
  | some t =>
    simp only [hdr?, Hdr.word, tag_code, power_code, ty_code, beats_code, hm, isOne_bit, Option.bind_some, if_false,
      Bool.false_eq_true]
    rw [hp]
    rfl

/-- The header of a word of class M. -/
theorem hdr_wordM (h : Hdr) (op : BitVec 7) (d a b c ps : BitVec 6) (hm : isClassM op.toNat = true) (hp : h.ps = none) :
    hdr? (h.word op d a b c ps) = some h := by
  obtain ⟨ph, mask, val, t, pwr, ty, ps', dq, beats⟩ := h
  simp only at hp
  subst hp
  cases t with
  | none =>
    simp only [hdr?, Hdr.word, power_code, ty_code, beats_code, hm, isOne_bit, Option.bind_some, if_true]
    rfl
  | some t => simp only [hdr?, Hdr.word, tag_code, power_code, ty_code, beats_code, hm, isOne_bit, Option.bind_some, if_true]

theorem hdr_wordI (h : Hdr) (op : BitVec 7) (d a : BitVec 6) (imm : BitVec 12) (hm : isClassM op.toNat = false) :
    hdr? (h.wordI op d a imm h.psCode) = some h := hdr_word _ _ _ _ _ _ hm

theorem imm_word (h : Hdr) (op : BitVec 7) (d a : BitVec 6) (imm : BitVec 12) (ps : BitVec 6) :
    (h.wordI op d a imm ps).imm = imm := ext_join (m := 6) (n := 6) imm

/-- An instruction that takes no predicate update has none where it is well formed. -/
theorem wf_ps {i : Instr} {f : Form} (hf : i.form = some f) (hp : f.ps = .never) (hw : i.wf = true) : f.hdr.ps = none := by
  simp only [Instr.wf, hf, Form.ok, hp, Bool.and_eq_true] at hw
  have h := hw.1.1.1.2
  cases hx : f.hdr.ps with
  | none => rfl
  | some p =>
    rw [hx] at h
    obtain ⟨m, q⟩ := p
    exact absurd h (by simp [PredRule.ok])

/-- A well-formed instruction has one of the types of its row. -/
theorem wf_ty {i : Instr} {f : Form} (hf : i.form = some f) (hw : i.wf = true) : f.tys.contains f.hdr.ty = true := by
  simp only [Instr.wf, hf, Form.ok, Bool.and_eq_true] at hw
  exact hw.1.1.1.1.1.1.1.1.1

/-! ## Fields of a word -/

theorem word_op (h : Hdr) (op : BitVec 7) (d a b c ps : BitVec 6) : (h.word op d a b c ps).op = op := rfl
theorem word_ty (h : Hdr) (op : BitVec 7) (d a b c ps : BitVec 6) : (h.word op d a b c ps).ty = h.ty.code := rfl
theorem word_d (h : Hdr) (op : BitVec 7) (d a b c ps : BitVec 6) : (h.word op d a b c ps).d = d := rfl
theorem word_a (h : Hdr) (op : BitVec 7) (d a b c ps : BitVec 6) : (h.word op d a b c ps).a = a := rfl
theorem word_b (h : Hdr) (op : BitVec 7) (d a b c ps : BitVec 6) : (h.word op d a b c ps).b = b := rfl
theorem word_c (h : Hdr) (op : BitVec 7) (d a b c ps : BitVec 6) : (h.word op d a b c ps).c = c := rfl
theorem word_ps (h : Hdr) (op : BitVec 7) (d a b c ps : BitVec 6) : (h.word op d a b c ps).ps = ps := rfl
theorem word_imm (h : Hdr) (op : BitVec 7) (d a b c ps : BitVec 6) : (h.word op d a b c ps).imm = b ++ c := rfl
theorem wordI_op (h : Hdr) (op : BitVec 7) (d a : BitVec 6) (imm : BitVec 12) (ps : BitVec 6) : (h.wordI op d a imm ps).op = op := rfl
theorem wordI_ty (h : Hdr) (op : BitVec 7) (d a : BitVec 6) (imm : BitVec 12) (ps : BitVec 6) : (h.wordI op d a imm ps).ty = h.ty.code := rfl
theorem wordI_d (h : Hdr) (op : BitVec 7) (d a : BitVec 6) (imm : BitVec 12) (ps : BitVec 6) : (h.wordI op d a imm ps).d = d := rfl
theorem wordI_a (h : Hdr) (op : BitVec 7) (d a : BitVec 6) (imm : BitVec 12) (ps : BitVec 6) : (h.wordI op d a imm ps).a = a := rfl
theorem wordI_ps (h : Hdr) (op : BitVec 7) (d a : BitVec 6) (imm : BitVec 12) (ps : BitVec 6) : (h.wordI op d a imm ps).ps = ps := rfl

/-! ## Opcodes by their upper bits -/

theorem parse0_of {w : ElemWord} {h : Hdr} (op : BitVec 7) (hh : hdr? w = some h) (he : w.op = op) (ho : op.toNat / 16 = 0) :
    parseElem w = parse0 w h := by
  simp only [parseElem, hh, he, ho, Option.bind_some]
theorem parse1_of {w : ElemWord} {h : Hdr} (op : BitVec 7) (hh : hdr? w = some h) (he : w.op = op) (ho : op.toNat / 16 = 1) :
    parseElem w = parse1 w h := by
  simp only [parseElem, hh, he, ho, Option.bind_some]
theorem parse2_of {w : ElemWord} {h : Hdr} (op : BitVec 7) (hh : hdr? w = some h) (he : w.op = op) (ho : op.toNat / 16 = 2) :
    parseElem w = parse2 w h := by
  simp only [parseElem, hh, he, ho, Option.bind_some]
theorem parse3_of {w : ElemWord} {h : Hdr} (op : BitVec 7) (hh : hdr? w = some h) (he : w.op = op) (ho : op.toNat / 16 = 3) :
    parseElem w = parse3 w h := by
  simp only [parseElem, hh, he, ho, Option.bind_some]
theorem parse4_of {w : ElemWord} {h : Hdr} (op : BitVec 7) (hh : hdr? w = some h) (he : w.op = op) (ho : op.toNat / 16 = 4) :
    parseElem w = parse4 w h := by
  simp only [parseElem, hh, he, ho, Option.bind_some]
theorem parse5_of {w : ElemWord} {h : Hdr} (op : BitVec 7) (hh : hdr? w = some h) (he : w.op = op) (ho : op.toNat / 16 = 5) :
    parseElem w = parse5 w h := by
  simp only [parseElem, hh, he, ho, Option.bind_some]
theorem parse6_of {w : ElemWord} {h : Hdr} (op : BitVec 7) (hh : hdr? w = some h) (he : w.op = op) (ho : op.toNat / 16 = 6) :
    parseElem w = parse6 w h := by
  simp only [parseElem, hh, he, ho, Option.bind_some]
theorem parse7_of {w : ElemWord} {h : Hdr} (op : BitVec 7) (hh : hdr? w = some h) (he : w.op = op) (ho : op.toNat / 16 = 7) :
    parseElem w = parse7 w h := by
  simp only [parseElem, hh, he, ho, Option.bind_some]

end Sys2Proof
end

