-- ==== Sys2Proof/Laws/PerInstr.lean ====
section
/-!
SUPPORT. Laws/PerInstr.lean: for each constructor of Instr, decoding its word gives it back where it is well formed; the steps
of the device's own units have no word.
-/
set_option linter.unusedSimpArgs false
namespace Sys2Proof

/-! ## The law of one instruction -/

/-- Decoding the word of a well-formed instruction gives the instruction back. -/
def Laws.Encoding.Statement (i : Instr) : Prop := i.wf = true → ∀ c, encode i = some c → decode c = some i

theorem elem_law (i : Instr) (w : ElemWord) (hs : seqWord i = none) (he : elemWord i = some w) (hv : w.v = 1#1)
    (hp : i.wf = true → parseElem w = some i) : Laws.Encoding.Statement i := by
  intro hw c hc
  simp only [encode, hs, he, Option.map_some, Option.some.injEq] at hc
  subst hc
  simp [decode, decodeElem, pack_valid, hv, legalElem, unpack_pack, hp hw, hw, he]

theorem seq_law (i : Instr) (w : BitVec 32) (hs : seqWord i = some w) (hp : i.wf = true → decodeSeq w = i) :
    Laws.Encoding.Statement i := by
  intro hw c hc
  simp only [encode, hs, Option.some.injEq] at hc
  subst hc
  simp [decode, hp hw]

theorem no_word (i : Instr) (hs : seqWord i = none) (he : elemWord i = none) : Laws.Encoding.Statement i := by
  intro _ c hc
  simp [encode, hs, he] at hc

theorem Laws.Encoding.nop (h : Hdr) : Laws.Encoding.Statement (.nop h) :=
  elem_law _ _ rfl rfl rfl fun hw => by
    rw [parse0_of 0x00#7 (hdr_word _ 0x00#7 _ _ _ _ (by decide)) rfl (by decide)]
    unfold parse0
    simp (disch := decide) only [word_op, word_ty, word_d, word_a, word_b, word_c, word_ps, word_imm, BitVec.reduceToNat, Option.bind_some, opnd_code, scope_code, policy_code, isOne_bit, ext_lo, ext_hi, ext_all, Nat.reduceSub]

theorem Laws.Encoding.mov (h : Hdr) (d : Opnd) (a : Opnd) : Laws.Encoding.Statement (.mov h d a) :=
  elem_law _ _ rfl rfl rfl fun hw => by
    rw [parse0_of 0x01#7 (hdr_word _ 0x01#7 _ _ _ _ (by decide)) rfl (by decide)]
    unfold parse0
    simp (disch := decide) only [word_op, word_ty, word_d, word_a, word_b, word_c, word_ps, word_imm, BitVec.reduceToNat, Option.bind_some, opnd_code, scope_code, policy_code, isOne_bit, ext_lo, ext_hi, ext_all, Nat.reduceSub]

theorem Laws.Encoding.movi (h : Hdr) (d : Opnd) (imm : BitVec 12) : Laws.Encoding.Statement (.movi h d imm) :=
  elem_law _ _ rfl rfl rfl fun hw => by
    rw [parse0_of 0x02#7 (hdr_wordI _ 0x02#7 _ _ _ (by decide)) rfl (by decide)]
    unfold parse0
    simp (disch := decide) only [imm_word, wordI_op, wordI_ty, wordI_d, wordI_a, wordI_ps, BitVec.reduceToNat, Option.bind_some, opnd_code, scope_code, policy_code, isOne_bit, ext_lo, ext_hi, ext_all, Nat.reduceSub]

theorem Laws.Encoding.movhi (h : Hdr) (d : Opnd) (a : Opnd) (imm : BitVec 12) : Laws.Encoding.Statement (.movhi h d a imm) :=
  elem_law _ _ rfl rfl rfl fun hw => by
    rw [parse0_of 0x03#7 (hdr_wordI _ 0x03#7 _ _ _ (by decide)) rfl (by decide)]
    unfold parse0
    simp (disch := decide) only [imm_word, wordI_op, wordI_ty, wordI_d, wordI_a, wordI_ps, BitVec.reduceToNat, Option.bind_some, opnd_code, scope_code, policy_code, isOne_bit, ext_lo, ext_hi, ext_all, Nat.reduceSub]

theorem Laws.Encoding.sel (h : Hdr) (d : Opnd) (a : Opnd) (b : Opnd) (c : Opnd) : Laws.Encoding.Statement (.sel h d a b c) :=
  elem_law _ _ rfl rfl rfl fun hw => by
    rw [parse0_of 0x04#7 (hdr_word _ 0x04#7 _ _ _ _ (by decide)) rfl (by decide)]
    unfold parse0
    simp (disch := decide) only [word_op, word_ty, word_d, word_a, word_b, word_c, word_ps, word_imm, BitVec.reduceToNat, Option.bind_some, opnd_code, scope_code, policy_code, isOne_bit, ext_lo, ext_hi, ext_all, Nat.reduceSub]

theorem Laws.Encoding.pset (h : Hdr) (a : Opnd) : Laws.Encoding.Statement (.pset h a) :=
  elem_law _ _ rfl rfl rfl fun hw => by
    rw [parse0_of 0x05#7 (hdr_word _ 0x05#7 _ _ _ _ (by decide)) rfl (by decide)]
    unfold parse0
    simp (disch := decide) only [word_op, word_ty, word_d, word_a, word_b, word_c, word_ps, word_imm, BitVec.reduceToNat, Option.bind_some, opnd_code, scope_code, policy_code, isOne_bit, ext_lo, ext_hi, ext_all, Nat.reduceSub]

theorem Laws.Encoding.tags (h : Hdr) (d : Opnd) (vc : BitVec 5) (ctx : BitVec 2) : Laws.Encoding.Statement (.tags h d vc ctx) :=
  elem_law _ _ rfl rfl rfl fun hw => by
    rw [parse0_of 0x06#7 (hdr_word _ 0x06#7 _ _ _ _ (by decide)) rfl (by decide)]
    unfold parse0
    simp (disch := decide) only [word_op, word_ty, word_d, word_a, word_b, word_c, word_ps, word_imm, BitVec.reduceToNat, Option.bind_some, opnd_code, scope_code, policy_code, isOne_bit, ext_lo, ext_hi, ext_all, Nat.reduceSub]

theorem Laws.Encoding.halt (h : Hdr) : Laws.Encoding.Statement (.halt h) :=
  elem_law _ _ rfl rfl rfl fun hw => by
    rw [parse0_of 0x07#7 (hdr_word _ 0x07#7 _ _ _ _ (by decide)) rfl (by decide)]
    unfold parse0
    simp (disch := decide) only [word_op, word_ty, word_d, word_a, word_b, word_c, word_ps, word_imm, BitVec.reduceToNat, Option.bind_some, opnd_code, scope_code, policy_code, isOne_bit, ext_lo, ext_hi, ext_all, Nat.reduceSub]

theorem Laws.Encoding.send (h : Hdr) (d : Opnd) (a : Opnd) (eow : Bool) (vc : BitVec 5) (ctx : BitVec 2) : Laws.Encoding.Statement (.send h d a eow vc ctx) :=
  elem_law _ _ rfl rfl rfl fun hw => by
    rw [parse0_of 0x08#7 (hdr_word _ 0x08#7 _ _ _ _ (by decide)) rfl (by decide)]
    unfold parse0
    simp (disch := decide) only [word_op, word_ty, word_d, word_a, word_b, word_c, word_ps, word_imm, BitVec.reduceToNat, Option.bind_some, opnd_code, scope_code, policy_code, isOne_bit, ext_lo, ext_hi, ext_all, Nat.reduceSub]

theorem Laws.Encoding.sendo (h : Hdr) (d : Opnd) (a : Opnd) (eow : Bool) (vc : BitVec 5) (sc : Scope) (ctx : BitVec 2) : Laws.Encoding.Statement (.sendo h d a eow vc sc ctx) :=
  elem_law _ _ rfl rfl rfl fun hw => by
    rw [parse0_of 0x09#7 (hdr_word _ 0x09#7 _ _ _ _ (by decide)) rfl (by decide)]
    unfold parse0
    simp (disch := decide) only [word_op, word_ty, word_d, word_a, word_b, word_c, word_ps, word_imm, BitVec.reduceToNat, Option.bind_some, opnd_code, scope_code, policy_code, isOne_bit, ext_lo, ext_hi, ext_all, Nat.reduceSub]

theorem Laws.Encoding.drop (h : Hdr) (a : Opnd) : Laws.Encoding.Statement (.drop h a) :=
  elem_law _ _ rfl rfl rfl fun hw => by
    rw [parse0_of 0x0A#7 (hdr_word _ 0x0A#7 _ _ _ _ (by decide)) rfl (by decide)]
    unfold parse0
    simp (disch := decide) only [word_op, word_ty, word_d, word_a, word_b, word_c, word_ps, word_imm, BitVec.reduceToNat, Option.bind_some, opnd_code, scope_code, policy_code, isOne_bit, ext_lo, ext_hi, ext_all, Nat.reduceSub]

theorem Laws.Encoding.relay (h : Hdr) (d : Opnd) (a : Opnd) : Laws.Encoding.Statement (.relay h d a) :=
  elem_law _ _ rfl rfl rfl fun hw => by
    rw [parse0_of 0x0B#7 (hdr_word _ 0x0B#7 _ _ _ _ (by decide)) rfl (by decide)]
    unfold parse0
    simp (disch := decide) only [word_op, word_ty, word_d, word_a, word_b, word_c, word_ps, word_imm, BitVec.reduceToNat, Option.bind_some, opnd_code, scope_code, policy_code, isOne_bit, ext_lo, ext_hi, ext_all, Nat.reduceSub]

theorem Laws.Encoding.lcnt (h : Hdr) (d : Opnd) (a : Opnd) : Laws.Encoding.Statement (.lcnt h d a) :=
  elem_law _ _ rfl rfl rfl fun hw => by
    rw [parse0_of 0x0C#7 (hdr_word _ 0x0C#7 _ _ _ _ (by decide)) rfl (by decide)]
    unfold parse0
    simp (disch := decide) only [word_op, word_ty, word_d, word_a, word_b, word_c, word_ps, word_imm, BitVec.reduceToNat, Option.bind_some, opnd_code, scope_code, policy_code, isOne_bit, ext_lo, ext_hi, ext_all, Nat.reduceSub]

theorem Laws.Encoding.ftset (h : Hdr) (a : Opnd) (fmt : BitVec 5) (vc : BitVec 5) : Laws.Encoding.Statement (.ftset h a fmt vc) :=
  elem_law _ _ rfl rfl rfl fun hw => by
    rw [parse0_of 0x0D#7 (hdr_wordI _ 0x0D#7 _ _ _ (by decide)) rfl (by decide)]
    unfold parse0
    simp (disch := decide) only [imm_word, wordI_op, wordI_ty, wordI_d, wordI_a, wordI_ps, BitVec.reduceToNat, Option.bind_some, opnd_code, scope_code, policy_code, isOne_bit, ext_lo, ext_hi, ext_all, Nat.reduceSub]

theorem Laws.Encoding.arrive (h : Hdr) (a : Opnd) (off : BitVec 6) (rc : BitVec 3) (ch : BitVec 2) (sc : Scope) : Laws.Encoding.Statement (.arrive h a off rc ch sc) :=
  elem_law _ _ rfl rfl rfl fun hw => by
    have hp := wf_ps rfl rfl hw
    rw [parse0_of 0x0E#7 (hdr_wordM _ 0x0E#7 _ _ _ _ _ (by decide) hp) rfl (by decide)]
    unfold parse0
    simp (disch := decide) only [word_op, word_ty, word_d, word_a, word_b, word_c, word_ps, word_imm, BitVec.reduceToNat, Option.bind_some, opnd_code, scope_code, policy_code, isOne_bit, ext_lo, ext_hi, ext_all, Nat.reduceSub]

theorem Laws.Encoding.fevt (h : Hdr) (a : Opnd) : Laws.Encoding.Statement (.fevt h a) :=
  elem_law _ _ rfl rfl rfl fun hw => by
    rw [parse0_of 0x0F#7 (hdr_word _ 0x0F#7 _ _ _ _ (by decide)) rfl (by decide)]
    unfold parse0
    simp (disch := decide) only [word_op, word_ty, word_d, word_a, word_b, word_c, word_ps, word_imm, BitVec.reduceToNat, Option.bind_some, opnd_code, scope_code, policy_code, isOne_bit, ext_lo, ext_hi, ext_all, Nat.reduceSub]

theorem Laws.Encoding.add (h : Hdr) (d : Opnd) (a : Opnd) (b : Opnd) : Laws.Encoding.Statement (.add h d a b) :=
  elem_law _ _ rfl rfl rfl fun hw => by
    rw [parse1_of 0x10#7 (hdr_word _ 0x10#7 _ _ _ _ (by decide)) rfl (by decide)]
    unfold parse1
    simp (disch := decide) only [word_op, word_ty, word_d, word_a, word_b, word_c, word_ps, word_imm, BitVec.reduceToNat, Option.bind_some, opnd_code, scope_code, policy_code, isOne_bit, ext_lo, ext_hi, ext_all, Nat.reduceSub]

theorem Laws.Encoding.sub (h : Hdr) (d : Opnd) (a : Opnd) (b : Opnd) : Laws.Encoding.Statement (.sub h d a b) :=
  elem_law _ _ rfl rfl rfl fun hw => by
    rw [parse1_of 0x11#7 (hdr_word _ 0x11#7 _ _ _ _ (by decide)) rfl (by decide)]
    unfold parse1
    simp (disch := decide) only [word_op, word_ty, word_d, word_a, word_b, word_c, word_ps, word_imm, BitVec.reduceToNat, Option.bind_some, opnd_code, scope_code, policy_code, isOne_bit, ext_lo, ext_hi, ext_all, Nat.reduceSub]

theorem Laws.Encoding.adds (h : Hdr) (d : Opnd) (a : Opnd) (b : Opnd) : Laws.Encoding.Statement (.adds h d a b) :=
  elem_law _ _ rfl rfl rfl fun hw => by
    rw [parse1_of 0x12#7 (hdr_word _ 0x12#7 _ _ _ _ (by decide)) rfl (by decide)]
    unfold parse1
    simp (disch := decide) only [word_op, word_ty, word_d, word_a, word_b, word_c, word_ps, word_imm, BitVec.reduceToNat, Option.bind_some, opnd_code, scope_code, policy_code, isOne_bit, ext_lo, ext_hi, ext_all, Nat.reduceSub]

theorem Laws.Encoding.subs (h : Hdr) (d : Opnd) (a : Opnd) (b : Opnd) : Laws.Encoding.Statement (.subs h d a b) :=
  elem_law _ _ rfl rfl rfl fun hw => by
    rw [parse1_of 0x13#7 (hdr_word _ 0x13#7 _ _ _ _ (by decide)) rfl (by decide)]
    unfold parse1
    simp (disch := decide) only [word_op, word_ty, word_d, word_a, word_b, word_c, word_ps, word_imm, BitVec.reduceToNat, Option.bind_some, opnd_code, scope_code, policy_code, isOne_bit, ext_lo, ext_hi, ext_all, Nat.reduceSub]

theorem Laws.Encoding.addus (h : Hdr) (d : Opnd) (a : Opnd) (b : Opnd) : Laws.Encoding.Statement (.addus h d a b) :=
  elem_law _ _ rfl rfl rfl fun hw => by
    rw [parse1_of 0x14#7 (hdr_word _ 0x14#7 _ _ _ _ (by decide)) rfl (by decide)]
    unfold parse1
    simp (disch := decide) only [word_op, word_ty, word_d, word_a, word_b, word_c, word_ps, word_imm, BitVec.reduceToNat, Option.bind_some, opnd_code, scope_code, policy_code, isOne_bit, ext_lo, ext_hi, ext_all, Nat.reduceSub]

theorem Laws.Encoding.subus (h : Hdr) (d : Opnd) (a : Opnd) (b : Opnd) : Laws.Encoding.Statement (.subus h d a b) :=
  elem_law _ _ rfl rfl rfl fun hw => by
    rw [parse1_of 0x15#7 (hdr_word _ 0x15#7 _ _ _ _ (by decide)) rfl (by decide)]
    unfold parse1
    simp (disch := decide) only [word_op, word_ty, word_d, word_a, word_b, word_c, word_ps, word_imm, BitVec.reduceToNat, Option.bind_some, opnd_code, scope_code, policy_code, isOne_bit, ext_lo, ext_hi, ext_all, Nat.reduceSub]

theorem Laws.Encoding.mul (h : Hdr) (d : Opnd) (a : Opnd) (b : Opnd) : Laws.Encoding.Statement (.mul h d a b) :=
  elem_law _ _ rfl rfl rfl fun hw => by
    rw [parse1_of 0x16#7 (hdr_word _ 0x16#7 _ _ _ _ (by decide)) rfl (by decide)]
    unfold parse1
    simp (disch := decide) only [word_op, word_ty, word_d, word_a, word_b, word_c, word_ps, word_imm, BitVec.reduceToNat, Option.bind_some, opnd_code, scope_code, policy_code, isOne_bit, ext_lo, ext_hi, ext_all, Nat.reduceSub]

theorem Laws.Encoding.mulh (h : Hdr) (d : Opnd) (a : Opnd) (b : Opnd) : Laws.Encoding.Statement (.mulh h d a b) :=
  elem_law _ _ rfl rfl rfl fun hw => by
    rw [parse1_of 0x17#7 (hdr_word _ 0x17#7 _ _ _ _ (by decide)) rfl (by decide)]
    unfold parse1
    simp (disch := decide) only [word_op, word_ty, word_d, word_a, word_b, word_c, word_ps, word_imm, BitVec.reduceToNat, Option.bind_some, opnd_code, scope_code, policy_code, isOne_bit, ext_lo, ext_hi, ext_all, Nat.reduceSub]

theorem Laws.Encoding.mulhu (h : Hdr) (d : Opnd) (a : Opnd) (b : Opnd) : Laws.Encoding.Statement (.mulhu h d a b) :=
  elem_law _ _ rfl rfl rfl fun hw => by
    rw [parse1_of 0x18#7 (hdr_word _ 0x18#7 _ _ _ _ (by decide)) rfl (by decide)]
    unfold parse1
    simp (disch := decide) only [word_op, word_ty, word_d, word_a, word_b, word_c, word_ps, word_imm, BitVec.reduceToNat, Option.bind_some, opnd_code, scope_code, policy_code, isOne_bit, ext_lo, ext_hi, ext_all, Nat.reduceSub]

theorem Laws.Encoding.mad (h : Hdr) (d : Opnd) (a : Opnd) (b : Opnd) (c : Opnd) : Laws.Encoding.Statement (.mad h d a b c) :=
  elem_law _ _ rfl rfl rfl fun hw => by
    rw [parse1_of 0x19#7 (hdr_word _ 0x19#7 _ _ _ _ (by decide)) rfl (by decide)]
    unfold parse1
    simp (disch := decide) only [word_op, word_ty, word_d, word_a, word_b, word_c, word_ps, word_imm, BitVec.reduceToNat, Option.bind_some, opnd_code, scope_code, policy_code, isOne_bit, ext_lo, ext_hi, ext_all, Nat.reduceSub]

theorem Laws.Encoding.addmin (h : Hdr) (d : Opnd) (a : Opnd) (b : Opnd) (c : Opnd) : Laws.Encoding.Statement (.addmin h d a b c) :=
  elem_law _ _ rfl rfl rfl fun hw => by
    rw [parse1_of 0x1A#7 (hdr_word _ 0x1A#7 _ _ _ _ (by decide)) rfl (by decide)]
    unfold parse1
    simp (disch := decide) only [word_op, word_ty, word_d, word_a, word_b, word_c, word_ps, word_imm, BitVec.reduceToNat, Option.bind_some, opnd_code, scope_code, policy_code, isOne_bit, ext_lo, ext_hi, ext_all, Nat.reduceSub]

theorem Laws.Encoding.addmax (h : Hdr) (d : Opnd) (a : Opnd) (b : Opnd) (c : Opnd) : Laws.Encoding.Statement (.addmax h d a b c) :=
  elem_law _ _ rfl rfl rfl fun hw => by
    rw [parse1_of 0x1B#7 (hdr_word _ 0x1B#7 _ _ _ _ (by decide)) rfl (by decide)]
    unfold parse1
    simp (disch := decide) only [word_op, word_ty, word_d, word_a, word_b, word_c, word_ps, word_imm, BitVec.reduceToNat, Option.bind_some, opnd_code, scope_code, policy_code, isOne_bit, ext_lo, ext_hi, ext_all, Nat.reduceSub]

theorem Laws.Encoding.min (h : Hdr) (d : Opnd) (a : Opnd) (b : Opnd) : Laws.Encoding.Statement (.min h d a b) :=
  elem_law _ _ rfl rfl rfl fun hw => by
    rw [parse1_of 0x1C#7 (hdr_word _ 0x1C#7 _ _ _ _ (by decide)) rfl (by decide)]
    unfold parse1
    simp (disch := decide) only [word_op, word_ty, word_d, word_a, word_b, word_c, word_ps, word_imm, BitVec.reduceToNat, Option.bind_some, opnd_code, scope_code, policy_code, isOne_bit, ext_lo, ext_hi, ext_all, Nat.reduceSub]

theorem Laws.Encoding.max (h : Hdr) (d : Opnd) (a : Opnd) (b : Opnd) : Laws.Encoding.Statement (.max h d a b) :=
  elem_law _ _ rfl rfl rfl fun hw => by
    rw [parse1_of 0x1D#7 (hdr_word _ 0x1D#7 _ _ _ _ (by decide)) rfl (by decide)]
    unfold parse1
    simp (disch := decide) only [word_op, word_ty, word_d, word_a, word_b, word_c, word_ps, word_imm, BitVec.reduceToNat, Option.bind_some, opnd_code, scope_code, policy_code, isOne_bit, ext_lo, ext_hi, ext_all, Nat.reduceSub]

theorem Laws.Encoding.minu (h : Hdr) (d : Opnd) (a : Opnd) (b : Opnd) : Laws.Encoding.Statement (.minu h d a b) :=
  elem_law _ _ rfl rfl rfl fun hw => by
    rw [parse1_of 0x1E#7 (hdr_word _ 0x1E#7 _ _ _ _ (by decide)) rfl (by decide)]
    unfold parse1
    simp (disch := decide) only [word_op, word_ty, word_d, word_a, word_b, word_c, word_ps, word_imm, BitVec.reduceToNat, Option.bind_some, opnd_code, scope_code, policy_code, isOne_bit, ext_lo, ext_hi, ext_all, Nat.reduceSub]

theorem Laws.Encoding.maxu (h : Hdr) (d : Opnd) (a : Opnd) (b : Opnd) : Laws.Encoding.Statement (.maxu h d a b) :=
  elem_law _ _ rfl rfl rfl fun hw => by
    rw [parse1_of 0x1F#7 (hdr_word _ 0x1F#7 _ _ _ _ (by decide)) rfl (by decide)]
    unfold parse1
    simp (disch := decide) only [word_op, word_ty, word_d, word_a, word_b, word_c, word_ps, word_imm, BitVec.reduceToNat, Option.bind_some, opnd_code, scope_code, policy_code, isOne_bit, ext_lo, ext_hi, ext_all, Nat.reduceSub]

theorem Laws.Encoding.absd (h : Hdr) (d : Opnd) (a : Opnd) (b : Opnd) : Laws.Encoding.Statement (.absd h d a b) :=
  elem_law _ _ rfl rfl rfl fun hw => by
    rw [parse2_of 0x20#7 (hdr_word _ 0x20#7 _ _ _ _ (by decide)) rfl (by decide)]
    unfold parse2
    simp (disch := decide) only [word_op, word_ty, word_d, word_a, word_b, word_c, word_ps, word_imm, BitVec.reduceToNat, Option.bind_some, opnd_code, scope_code, policy_code, isOne_bit, ext_lo, ext_hi, ext_all, Nat.reduceSub]

theorem Laws.Encoding.and (h : Hdr) (d : Opnd) (a : Opnd) (b : Opnd) : Laws.Encoding.Statement (.and h d a b) :=
  elem_law _ _ rfl rfl rfl fun hw => by
    rw [parse2_of 0x21#7 (hdr_word _ 0x21#7 _ _ _ _ (by decide)) rfl (by decide)]
    unfold parse2
    simp (disch := decide) only [word_op, word_ty, word_d, word_a, word_b, word_c, word_ps, word_imm, BitVec.reduceToNat, Option.bind_some, opnd_code, scope_code, policy_code, isOne_bit, ext_lo, ext_hi, ext_all, Nat.reduceSub]

theorem Laws.Encoding.or (h : Hdr) (d : Opnd) (a : Opnd) (b : Opnd) : Laws.Encoding.Statement (.or h d a b) :=
  elem_law _ _ rfl rfl rfl fun hw => by
    rw [parse2_of 0x22#7 (hdr_word _ 0x22#7 _ _ _ _ (by decide)) rfl (by decide)]
    unfold parse2
    simp (disch := decide) only [word_op, word_ty, word_d, word_a, word_b, word_c, word_ps, word_imm, BitVec.reduceToNat, Option.bind_some, opnd_code, scope_code, policy_code, isOne_bit, ext_lo, ext_hi, ext_all, Nat.reduceSub]

theorem Laws.Encoding.xor (h : Hdr) (d : Opnd) (a : Opnd) (b : Opnd) : Laws.Encoding.Statement (.xor h d a b) :=
  elem_law _ _ rfl rfl rfl fun hw => by
    rw [parse2_of 0x23#7 (hdr_word _ 0x23#7 _ _ _ _ (by decide)) rfl (by decide)]
    unfold parse2
    simp (disch := decide) only [word_op, word_ty, word_d, word_a, word_b, word_c, word_ps, word_imm, BitVec.reduceToNat, Option.bind_some, opnd_code, scope_code, policy_code, isOne_bit, ext_lo, ext_hi, ext_all, Nat.reduceSub]

theorem Laws.Encoding.andn (h : Hdr) (d : Opnd) (a : Opnd) (b : Opnd) : Laws.Encoding.Statement (.andn h d a b) :=
  elem_law _ _ rfl rfl rfl fun hw => by
    rw [parse2_of 0x24#7 (hdr_word _ 0x24#7 _ _ _ _ (by decide)) rfl (by decide)]
    unfold parse2
    simp (disch := decide) only [word_op, word_ty, word_d, word_a, word_b, word_c, word_ps, word_imm, BitVec.reduceToNat, Option.bind_some, opnd_code, scope_code, policy_code, isOne_bit, ext_lo, ext_hi, ext_all, Nat.reduceSub]

theorem Laws.Encoding.shl (h : Hdr) (d : Opnd) (a : Opnd) (b : Opnd) : Laws.Encoding.Statement (.shl h d a b) :=
  elem_law _ _ rfl rfl rfl fun hw => by
    rw [parse2_of 0x25#7 (hdr_word _ 0x25#7 _ _ _ _ (by decide)) rfl (by decide)]
    unfold parse2
    simp (disch := decide) only [word_op, word_ty, word_d, word_a, word_b, word_c, word_ps, word_imm, BitVec.reduceToNat, Option.bind_some, opnd_code, scope_code, policy_code, isOne_bit, ext_lo, ext_hi, ext_all, Nat.reduceSub]

theorem Laws.Encoding.shr (h : Hdr) (d : Opnd) (a : Opnd) (b : Opnd) : Laws.Encoding.Statement (.shr h d a b) :=
  elem_law _ _ rfl rfl rfl fun hw => by
    rw [parse2_of 0x26#7 (hdr_word _ 0x26#7 _ _ _ _ (by decide)) rfl (by decide)]
    unfold parse2
    simp (disch := decide) only [word_op, word_ty, word_d, word_a, word_b, word_c, word_ps, word_imm, BitVec.reduceToNat, Option.bind_some, opnd_code, scope_code, policy_code, isOne_bit, ext_lo, ext_hi, ext_all, Nat.reduceSub]

theorem Laws.Encoding.sar (h : Hdr) (d : Opnd) (a : Opnd) (b : Opnd) : Laws.Encoding.Statement (.sar h d a b) :=
  elem_law _ _ rfl rfl rfl fun hw => by
    rw [parse2_of 0x27#7 (hdr_word _ 0x27#7 _ _ _ _ (by decide)) rfl (by decide)]
    unfold parse2
    simp (disch := decide) only [word_op, word_ty, word_d, word_a, word_b, word_c, word_ps, word_imm, BitVec.reduceToNat, Option.bind_some, opnd_code, scope_code, policy_code, isOne_bit, ext_lo, ext_hi, ext_all, Nat.reduceSub]

theorem Laws.Encoding.rol (h : Hdr) (d : Opnd) (a : Opnd) (b : Opnd) : Laws.Encoding.Statement (.rol h d a b) :=
  elem_law _ _ rfl rfl rfl fun hw => by
    rw [parse2_of 0x28#7 (hdr_word _ 0x28#7 _ _ _ _ (by decide)) rfl (by decide)]
    unfold parse2
    simp (disch := decide) only [word_op, word_ty, word_d, word_a, word_b, word_c, word_ps, word_imm, BitVec.reduceToNat, Option.bind_some, opnd_code, scope_code, policy_code, isOne_bit, ext_lo, ext_hi, ext_all, Nat.reduceSub]

theorem Laws.Encoding.popc (h : Hdr) (d : Opnd) (a : Opnd) : Laws.Encoding.Statement (.popc h d a) :=
  elem_law _ _ rfl rfl rfl fun hw => by
    rw [parse2_of 0x29#7 (hdr_word _ 0x29#7 _ _ _ _ (by decide)) rfl (by decide)]
    unfold parse2
    simp (disch := decide) only [word_op, word_ty, word_d, word_a, word_b, word_c, word_ps, word_imm, BitVec.reduceToNat, Option.bind_some, opnd_code, scope_code, policy_code, isOne_bit, ext_lo, ext_hi, ext_all, Nat.reduceSub]

theorem Laws.Encoding.clz (h : Hdr) (d : Opnd) (a : Opnd) : Laws.Encoding.Statement (.clz h d a) :=
  elem_law _ _ rfl rfl rfl fun hw => by
    rw [parse2_of 0x2A#7 (hdr_word _ 0x2A#7 _ _ _ _ (by decide)) rfl (by decide)]
    unfold parse2
    simp (disch := decide) only [word_op, word_ty, word_d, word_a, word_b, word_c, word_ps, word_imm, BitVec.reduceToNat, Option.bind_some, opnd_code, scope_code, policy_code, isOne_bit, ext_lo, ext_hi, ext_all, Nat.reduceSub]

theorem Laws.Encoding.cmpeq (h : Hdr) (d : Opnd) (a : Opnd) (b : Opnd) : Laws.Encoding.Statement (.cmpeq h d a b) :=
  elem_law _ _ rfl rfl rfl fun hw => by
    rw [parse2_of 0x2B#7 (hdr_word _ 0x2B#7 _ _ _ _ (by decide)) rfl (by decide)]
    unfold parse2
    simp (disch := decide) only [word_op, word_ty, word_d, word_a, word_b, word_c, word_ps, word_imm, BitVec.reduceToNat, Option.bind_some, opnd_code, scope_code, policy_code, isOne_bit, ext_lo, ext_hi, ext_all, Nat.reduceSub]

theorem Laws.Encoding.cmplt (h : Hdr) (d : Opnd) (a : Opnd) (b : Opnd) : Laws.Encoding.Statement (.cmplt h d a b) :=
  elem_law _ _ rfl rfl rfl fun hw => by
    rw [parse2_of 0x2C#7 (hdr_word _ 0x2C#7 _ _ _ _ (by decide)) rfl (by decide)]
    unfold parse2
    simp (disch := decide) only [word_op, word_ty, word_d, word_a, word_b, word_c, word_ps, word_imm, BitVec.reduceToNat, Option.bind_some, opnd_code, scope_code, policy_code, isOne_bit, ext_lo, ext_hi, ext_all, Nat.reduceSub]

theorem Laws.Encoding.cmpltu (h : Hdr) (d : Opnd) (a : Opnd) (b : Opnd) : Laws.Encoding.Statement (.cmpltu h d a b) :=
  elem_law _ _ rfl rfl rfl fun hw => by
    rw [parse2_of 0x2D#7 (hdr_word _ 0x2D#7 _ _ _ _ (by decide)) rfl (by decide)]
    unfold parse2
    simp (disch := decide) only [word_op, word_ty, word_d, word_a, word_b, word_c, word_ps, word_imm, BitVec.reduceToNat, Option.bind_some, opnd_code, scope_code, policy_code, isOne_bit, ext_lo, ext_hi, ext_all, Nat.reduceSub]

theorem Laws.Encoding.dot4 (h : Hdr) (d : Opnd) (a : Opnd) (b : Opnd) (c : Opnd) : Laws.Encoding.Statement (.dot4 h d a b c) :=
  elem_law _ _ rfl rfl rfl fun hw => by
    rw [parse2_of 0x2E#7 (hdr_word _ 0x2E#7 _ _ _ _ (by decide)) rfl (by decide)]
    unfold parse2
    simp (disch := decide) only [word_op, word_ty, word_d, word_a, word_b, word_c, word_ps, word_imm, BitVec.reduceToNat, Option.bind_some, opnd_code, scope_code, policy_code, isOne_bit, ext_lo, ext_hi, ext_all, Nat.reduceSub]

theorem Laws.Encoding.sad (h : Hdr) (d : Opnd) (a : Opnd) (b : Opnd) (c : Opnd) : Laws.Encoding.Statement (.sad h d a b c) :=
  elem_law _ _ rfl rfl rfl fun hw => by
    rw [parse2_of 0x2F#7 (hdr_word _ 0x2F#7 _ _ _ _ (by decide)) rfl (by decide)]
    unfold parse2
    simp (disch := decide) only [word_op, word_ty, word_d, word_a, word_b, word_c, word_ps, word_imm, BitVec.reduceToNat, Option.bind_some, opnd_code, scope_code, policy_code, isOne_bit, ext_lo, ext_hi, ext_all, Nat.reduceSub]

theorem Laws.Encoding.addi (h : Hdr) (d : Opnd) (a : Opnd) (imm : BitVec 12) : Laws.Encoding.Statement (.addi h d a imm) :=
  elem_law _ _ rfl rfl rfl fun hw => by
    rw [parse3_of 0x30#7 (hdr_wordI _ 0x30#7 _ _ _ (by decide)) rfl (by decide)]
    unfold parse3
    simp (disch := decide) only [imm_word, wordI_op, wordI_ty, wordI_d, wordI_a, wordI_ps, BitVec.reduceToNat, Option.bind_some, opnd_code, scope_code, policy_code, isOne_bit, ext_lo, ext_hi, ext_all, Nat.reduceSub]

theorem Laws.Encoding.andi (h : Hdr) (d : Opnd) (a : Opnd) (imm : BitVec 12) : Laws.Encoding.Statement (.andi h d a imm) :=
  elem_law _ _ rfl rfl rfl fun hw => by
    rw [parse3_of 0x31#7 (hdr_wordI _ 0x31#7 _ _ _ (by decide)) rfl (by decide)]
    unfold parse3
    simp (disch := decide) only [imm_word, wordI_op, wordI_ty, wordI_d, wordI_a, wordI_ps, BitVec.reduceToNat, Option.bind_some, opnd_code, scope_code, policy_code, isOne_bit, ext_lo, ext_hi, ext_all, Nat.reduceSub]

theorem Laws.Encoding.ori (h : Hdr) (d : Opnd) (a : Opnd) (imm : BitVec 12) : Laws.Encoding.Statement (.ori h d a imm) :=
  elem_law _ _ rfl rfl rfl fun hw => by
    rw [parse3_of 0x32#7 (hdr_wordI _ 0x32#7 _ _ _ (by decide)) rfl (by decide)]
    unfold parse3
    simp (disch := decide) only [imm_word, wordI_op, wordI_ty, wordI_d, wordI_a, wordI_ps, BitVec.reduceToNat, Option.bind_some, opnd_code, scope_code, policy_code, isOne_bit, ext_lo, ext_hi, ext_all, Nat.reduceSub]

theorem Laws.Encoding.xori (h : Hdr) (d : Opnd) (a : Opnd) (imm : BitVec 12) : Laws.Encoding.Statement (.xori h d a imm) :=
  elem_law _ _ rfl rfl rfl fun hw => by
    rw [parse3_of 0x33#7 (hdr_wordI _ 0x33#7 _ _ _ (by decide)) rfl (by decide)]
    unfold parse3
    simp (disch := decide) only [imm_word, wordI_op, wordI_ty, wordI_d, wordI_a, wordI_ps, BitVec.reduceToNat, Option.bind_some, opnd_code, scope_code, policy_code, isOne_bit, ext_lo, ext_hi, ext_all, Nat.reduceSub]

theorem Laws.Encoding.shli (h : Hdr) (d : Opnd) (a : Opnd) (imm : BitVec 12) : Laws.Encoding.Statement (.shli h d a imm) :=
  elem_law _ _ rfl rfl rfl fun hw => by
    rw [parse3_of 0x34#7 (hdr_wordI _ 0x34#7 _ _ _ (by decide)) rfl (by decide)]
    unfold parse3
    simp (disch := decide) only [imm_word, wordI_op, wordI_ty, wordI_d, wordI_a, wordI_ps, BitVec.reduceToNat, Option.bind_some, opnd_code, scope_code, policy_code, isOne_bit, ext_lo, ext_hi, ext_all, Nat.reduceSub]

theorem Laws.Encoding.shri (h : Hdr) (d : Opnd) (a : Opnd) (imm : BitVec 12) : Laws.Encoding.Statement (.shri h d a imm) :=
  elem_law _ _ rfl rfl rfl fun hw => by
    rw [parse3_of 0x35#7 (hdr_wordI _ 0x35#7 _ _ _ (by decide)) rfl (by decide)]
    unfold parse3
    simp (disch := decide) only [imm_word, wordI_op, wordI_ty, wordI_d, wordI_a, wordI_ps, BitVec.reduceToNat, Option.bind_some, opnd_code, scope_code, policy_code, isOne_bit, ext_lo, ext_hi, ext_all, Nat.reduceSub]

theorem Laws.Encoding.sari (h : Hdr) (d : Opnd) (a : Opnd) (imm : BitVec 12) : Laws.Encoding.Statement (.sari h d a imm) :=
  elem_law _ _ rfl rfl rfl fun hw => by
    rw [parse3_of 0x36#7 (hdr_wordI _ 0x36#7 _ _ _ (by decide)) rfl (by decide)]
    unfold parse3
    simp (disch := decide) only [imm_word, wordI_op, wordI_ty, wordI_d, wordI_a, wordI_ps, BitVec.reduceToNat, Option.bind_some, opnd_code, scope_code, policy_code, isOne_bit, ext_lo, ext_hi, ext_all, Nat.reduceSub]

theorem Laws.Encoding.cmpeqi (h : Hdr) (d : Opnd) (a : Opnd) (imm : BitVec 12) : Laws.Encoding.Statement (.cmpeqi h d a imm) :=
  elem_law _ _ rfl rfl rfl fun hw => by
    rw [parse3_of 0x37#7 (hdr_wordI _ 0x37#7 _ _ _ (by decide)) rfl (by decide)]
    unfold parse3
    simp (disch := decide) only [imm_word, wordI_op, wordI_ty, wordI_d, wordI_a, wordI_ps, BitVec.reduceToNat, Option.bind_some, opnd_code, scope_code, policy_code, isOne_bit, ext_lo, ext_hi, ext_all, Nat.reduceSub]

theorem Laws.Encoding.cmplti (h : Hdr) (d : Opnd) (a : Opnd) (imm : BitVec 12) : Laws.Encoding.Statement (.cmplti h d a imm) :=
  elem_law _ _ rfl rfl rfl fun hw => by
    rw [parse3_of 0x38#7 (hdr_wordI _ 0x38#7 _ _ _ (by decide)) rfl (by decide)]
    unfold parse3
    simp (disch := decide) only [imm_word, wordI_op, wordI_ty, wordI_d, wordI_a, wordI_ps, BitVec.reduceToNat, Option.bind_some, opnd_code, scope_code, policy_code, isOne_bit, ext_lo, ext_hi, ext_all, Nat.reduceSub]

theorem Laws.Encoding.ext (h : Hdr) (d : Opnd) (a : Opnd) (pos : BitVec 6) (len : BitVec 6) : Laws.Encoding.Statement (.ext h d a pos len) :=
  elem_law _ _ rfl rfl rfl fun hw => by
    rw [parse3_of 0x39#7 (hdr_word _ 0x39#7 _ _ _ _ (by decide)) rfl (by decide)]
    unfold parse3
    simp (disch := decide) only [word_op, word_ty, word_d, word_a, word_b, word_c, word_ps, word_imm, BitVec.reduceToNat, Option.bind_some, opnd_code, scope_code, policy_code, isOne_bit, ext_lo, ext_hi, ext_all, Nat.reduceSub]

theorem Laws.Encoding.ins (h : Hdr) (d : Opnd) (a : Opnd) (pos : BitVec 6) (len : BitVec 6) : Laws.Encoding.Statement (.ins h d a pos len) :=
  elem_law _ _ rfl rfl rfl fun hw => by
    rw [parse3_of 0x3A#7 (hdr_word _ 0x3A#7 _ _ _ _ (by decide)) rfl (by decide)]
    unfold parse3
    simp (disch := decide) only [word_op, word_ty, word_d, word_a, word_b, word_c, word_ps, word_imm, BitVec.reduceToNat, Option.bind_some, opnd_code, scope_code, policy_code, isOne_bit, ext_lo, ext_hi, ext_all, Nat.reduceSub]

theorem Laws.Encoding.lxor (h : Hdr) (d : Opnd) (a : Opnd) (imm : BitVec 12) : Laws.Encoding.Statement (.lxor h d a imm) :=
  elem_law _ _ rfl rfl rfl fun hw => by
    rw [parse4_of 0x40#7 (hdr_wordI _ 0x40#7 _ _ _ (by decide)) rfl (by decide)]
    unfold parse4
    simp (disch := decide) only [imm_word, wordI_op, wordI_ty, wordI_d, wordI_a, wordI_ps, BitVec.reduceToNat, Option.bind_some, opnd_code, scope_code, policy_code, isOne_bit, ext_lo, ext_hi, ext_all, Nat.reduceSub]

theorem Laws.Encoding.lfun (h : Hdr) (d : Opnd) (a : Opnd) (b : Opnd) (imm : BitVec 6) : Laws.Encoding.Statement (.lfun h d a b imm) :=
  elem_law _ _ rfl rfl rfl fun hw => by
    rw [parse4_of 0x41#7 (hdr_word _ 0x41#7 _ _ _ _ (by decide)) rfl (by decide)]
    unfold parse4
    simp (disch := decide) only [word_op, word_ty, word_d, word_a, word_b, word_c, word_ps, word_imm, BitVec.reduceToNat, Option.bind_some, opnd_code, scope_code, policy_code, isOne_bit, ext_lo, ext_hi, ext_all, Nat.reduceSub]

theorem Laws.Encoding.lbcst (h : Hdr) (d : Opnd) (a : Opnd) (imm : BitVec 12) : Laws.Encoding.Statement (.lbcst h d a imm) :=
  elem_law _ _ rfl rfl rfl fun hw => by
    rw [parse4_of 0x42#7 (hdr_wordI _ 0x42#7 _ _ _ (by decide)) rfl (by decide)]
    unfold parse4
    simp (disch := decide) only [imm_word, wordI_op, wordI_ty, wordI_d, wordI_a, wordI_ps, BitVec.reduceToNat, Option.bind_some, opnd_code, scope_code, policy_code, isOne_bit, ext_lo, ext_hi, ext_all, Nat.reduceSub]

theorem Laws.Encoding.txch (h : Hdr) (d : Opnd) (a : Opnd) (m : BitVec 4) : Laws.Encoding.Statement (.txch h d a m) :=
  elem_law _ _ rfl rfl rfl fun hw => by
    rw [parse4_of 0x43#7 (hdr_wordI _ 0x43#7 _ _ _ (by decide)) rfl (by decide)]
    unfold parse4
    simp (disch := decide) only [imm_word, wordI_op, wordI_ty, wordI_d, wordI_a, wordI_ps, BitVec.reduceToNat, Option.bind_some, opnd_code, scope_code, policy_code, isOne_bit, ext_lo, ext_hi, ext_all, Nat.reduceSub]

theorem Laws.Encoding.tbcst (h : Hdr) (d : Opnd) (a : Opnd) (src : BitVec 4) : Laws.Encoding.Statement (.tbcst h d a src) :=
  elem_law _ _ rfl rfl rfl fun hw => by
    rw [parse4_of 0x44#7 (hdr_wordI _ 0x44#7 _ _ _ (by decide)) rfl (by decide)]
    unfold parse4
    simp (disch := decide) only [imm_word, wordI_op, wordI_ty, wordI_d, wordI_a, wordI_ps, BitVec.reduceToNat, Option.bind_some, opnd_code, scope_code, policy_code, isOne_bit, ext_lo, ext_hi, ext_all, Nat.reduceSub]

theorem Laws.Encoding.tred (h : Hdr) (d : Opnd) (a : Opnd) (op : BitVec 4) (gm : BitVec 4) : Laws.Encoding.Statement (.tred h d a op gm) :=
  elem_law _ _ rfl rfl rfl fun hw => by
    rw [parse4_of 0x45#7 (hdr_wordI _ 0x45#7 _ _ _ (by decide)) rfl (by decide)]
    unfold parse4
    simp (disch := decide) only [imm_word, wordI_op, wordI_ty, wordI_d, wordI_a, wordI_ps, BitVec.reduceToNat, Option.bind_some, opnd_code, scope_code, policy_code, isOne_bit, ext_lo, ext_hi, ext_all, Nat.reduceSub]

theorem Laws.Encoding.lpack (h : Hdr) (d : Opnd) (a : Opnd) (b : Opnd) : Laws.Encoding.Statement (.lpack h d a b) :=
  elem_law _ _ rfl rfl rfl fun hw => by
    rw [parse4_of 0x46#7 (hdr_word _ 0x46#7 _ _ _ _ (by decide)) rfl (by decide)]
    unfold parse4
    simp (disch := decide) only [word_op, word_ty, word_d, word_a, word_b, word_c, word_ps, word_imm, BitVec.reduceToNat, Option.bind_some, opnd_code, scope_code, policy_code, isOne_bit, ext_lo, ext_hi, ext_all, Nat.reduceSub]

theorem Laws.Encoding.lunpk (h : Hdr) (d : Opnd) (a : Opnd) (sx : Bool) (half : Bool) : Laws.Encoding.Statement (.lunpk h d a sx half) :=
  elem_law _ _ rfl rfl rfl fun hw => by
    rw [parse4_of 0x47#7 (hdr_word _ 0x47#7 _ _ _ _ (by decide)) rfl (by decide)]
    unfold parse4
    simp (disch := decide) only [word_op, word_ty, word_d, word_a, word_b, word_c, word_ps, word_imm, BitVec.reduceToNat, Option.bind_some, opnd_code, scope_code, policy_code, isOne_bit, ext_lo, ext_hi, ext_all, Nat.reduceSub]

theorem Laws.Encoding.fadd (h : Hdr) (d : Opnd) (a : Opnd) (b : Opnd) : Laws.Encoding.Statement (.fadd h d a b) :=
  elem_law _ _ rfl rfl rfl fun hw => by
    rw [parse4_of 0x48#7 (hdr_word _ 0x48#7 _ _ _ _ (by decide)) rfl (by decide)]
    unfold parse4
    simp (disch := decide) only [word_op, word_ty, word_d, word_a, word_b, word_c, word_ps, word_imm, BitVec.reduceToNat, Option.bind_some, opnd_code, scope_code, policy_code, isOne_bit, ext_lo, ext_hi, ext_all, Nat.reduceSub]

theorem Laws.Encoding.fsub (h : Hdr) (d : Opnd) (a : Opnd) (b : Opnd) : Laws.Encoding.Statement (.fsub h d a b) :=
  elem_law _ _ rfl rfl rfl fun hw => by
    rw [parse4_of 0x49#7 (hdr_word _ 0x49#7 _ _ _ _ (by decide)) rfl (by decide)]
    unfold parse4
    simp (disch := decide) only [word_op, word_ty, word_d, word_a, word_b, word_c, word_ps, word_imm, BitVec.reduceToNat, Option.bind_some, opnd_code, scope_code, policy_code, isOne_bit, ext_lo, ext_hi, ext_all, Nat.reduceSub]

theorem Laws.Encoding.fmul (h : Hdr) (d : Opnd) (a : Opnd) (b : Opnd) : Laws.Encoding.Statement (.fmul h d a b) :=
  elem_law _ _ rfl rfl rfl fun hw => by
    rw [parse4_of 0x4A#7 (hdr_word _ 0x4A#7 _ _ _ _ (by decide)) rfl (by decide)]
    unfold parse4
    simp (disch := decide) only [word_op, word_ty, word_d, word_a, word_b, word_c, word_ps, word_imm, BitVec.reduceToNat, Option.bind_some, opnd_code, scope_code, policy_code, isOne_bit, ext_lo, ext_hi, ext_all, Nat.reduceSub]

theorem Laws.Encoding.fma (h : Hdr) (d : Opnd) (a : Opnd) (b : Opnd) (c : Opnd) : Laws.Encoding.Statement (.fma h d a b c) :=
  elem_law _ _ rfl rfl rfl fun hw => by
    rw [parse4_of 0x4B#7 (hdr_word _ 0x4B#7 _ _ _ _ (by decide)) rfl (by decide)]
    unfold parse4
    simp (disch := decide) only [word_op, word_ty, word_d, word_a, word_b, word_c, word_ps, word_imm, BitVec.reduceToNat, Option.bind_some, opnd_code, scope_code, policy_code, isOne_bit, ext_lo, ext_hi, ext_all, Nat.reduceSub]

theorem Laws.Encoding.fnma (h : Hdr) (d : Opnd) (a : Opnd) (b : Opnd) (c : Opnd) : Laws.Encoding.Statement (.fnma h d a b c) :=
  elem_law _ _ rfl rfl rfl fun hw => by
    rw [parse4_of 0x4C#7 (hdr_word _ 0x4C#7 _ _ _ _ (by decide)) rfl (by decide)]
    unfold parse4
    simp (disch := decide) only [word_op, word_ty, word_d, word_a, word_b, word_c, word_ps, word_imm, BitVec.reduceToNat, Option.bind_some, opnd_code, scope_code, policy_code, isOne_bit, ext_lo, ext_hi, ext_all, Nat.reduceSub]

theorem Laws.Encoding.fmin (h : Hdr) (d : Opnd) (a : Opnd) (b : Opnd) : Laws.Encoding.Statement (.fmin h d a b) :=
  elem_law _ _ rfl rfl rfl fun hw => by
    rw [parse4_of 0x4D#7 (hdr_word _ 0x4D#7 _ _ _ _ (by decide)) rfl (by decide)]
    unfold parse4
    simp (disch := decide) only [word_op, word_ty, word_d, word_a, word_b, word_c, word_ps, word_imm, BitVec.reduceToNat, Option.bind_some, opnd_code, scope_code, policy_code, isOne_bit, ext_lo, ext_hi, ext_all, Nat.reduceSub]

theorem Laws.Encoding.fmax (h : Hdr) (d : Opnd) (a : Opnd) (b : Opnd) : Laws.Encoding.Statement (.fmax h d a b) :=
  elem_law _ _ rfl rfl rfl fun hw => by
    rw [parse4_of 0x4E#7 (hdr_word _ 0x4E#7 _ _ _ _ (by decide)) rfl (by decide)]
    unfold parse4
    simp (disch := decide) only [word_op, word_ty, word_d, word_a, word_b, word_c, word_ps, word_imm, BitVec.reduceToNat, Option.bind_some, opnd_code, scope_code, policy_code, isOne_bit, ext_lo, ext_hi, ext_all, Nat.reduceSub]

theorem Laws.Encoding.fcmpeq (h : Hdr) (d : Opnd) (a : Opnd) (b : Opnd) : Laws.Encoding.Statement (.fcmpeq h d a b) :=
  elem_law _ _ rfl rfl rfl fun hw => by
    rw [parse4_of 0x4F#7 (hdr_word _ 0x4F#7 _ _ _ _ (by decide)) rfl (by decide)]
    unfold parse4
    simp (disch := decide) only [word_op, word_ty, word_d, word_a, word_b, word_c, word_ps, word_imm, BitVec.reduceToNat, Option.bind_some, opnd_code, scope_code, policy_code, isOne_bit, ext_lo, ext_hi, ext_all, Nat.reduceSub]

theorem Laws.Encoding.fcmplt (h : Hdr) (d : Opnd) (a : Opnd) (b : Opnd) : Laws.Encoding.Statement (.fcmplt h d a b) :=
  elem_law _ _ rfl rfl rfl fun hw => by
    rw [parse5_of 0x50#7 (hdr_word _ 0x50#7 _ _ _ _ (by decide)) rfl (by decide)]
    unfold parse5
    simp (disch := decide) only [word_op, word_ty, word_d, word_a, word_b, word_c, word_ps, word_imm, BitVec.reduceToNat, Option.bind_some, opnd_code, scope_code, policy_code, isOne_bit, ext_lo, ext_hi, ext_all, Nat.reduceSub]

theorem Laws.Encoding.fcmple (h : Hdr) (d : Opnd) (a : Opnd) (b : Opnd) : Laws.Encoding.Statement (.fcmple h d a b) :=
  elem_law _ _ rfl rfl rfl fun hw => by
    rw [parse5_of 0x51#7 (hdr_word _ 0x51#7 _ _ _ _ (by decide)) rfl (by decide)]
    unfold parse5
    simp (disch := decide) only [word_op, word_ty, word_d, word_a, word_b, word_c, word_ps, word_imm, BitVec.reduceToNat, Option.bind_some, opnd_code, scope_code, policy_code, isOne_bit, ext_lo, ext_hi, ext_all, Nat.reduceSub]

theorem Laws.Encoding.fsgn (h : Hdr) (d : Opnd) (a : Opnd) (b : Opnd) : Laws.Encoding.Statement (.fsgn h d a b) :=
  elem_law _ _ rfl rfl rfl fun hw => by
    rw [parse5_of 0x52#7 (hdr_word _ 0x52#7 _ _ _ _ (by decide)) rfl (by decide)]
    unfold parse5
    simp (disch := decide) only [word_op, word_ty, word_d, word_a, word_b, word_c, word_ps, word_imm, BitVec.reduceToNat, Option.bind_some, opnd_code, scope_code, policy_code, isOne_bit, ext_lo, ext_hi, ext_all, Nat.reduceSub]

theorem Laws.Encoding.frcp (h : Hdr) (d : Opnd) (a : Opnd) : Laws.Encoding.Statement (.frcp h d a) :=
  elem_law _ _ rfl rfl rfl fun hw => by
    rw [parse5_of 0x53#7 (hdr_word _ 0x53#7 _ _ _ _ (by decide)) rfl (by decide)]
    unfold parse5
    simp (disch := decide) only [word_op, word_ty, word_d, word_a, word_b, word_c, word_ps, word_imm, BitVec.reduceToNat, Option.bind_some, opnd_code, scope_code, policy_code, isOne_bit, ext_lo, ext_hi, ext_all, Nat.reduceSub]

theorem Laws.Encoding.frsq (h : Hdr) (d : Opnd) (a : Opnd) : Laws.Encoding.Statement (.frsq h d a) :=
  elem_law _ _ rfl rfl rfl fun hw => by
    rw [parse5_of 0x54#7 (hdr_word _ 0x54#7 _ _ _ _ (by decide)) rfl (by decide)]
    unfold parse5
    simp (disch := decide) only [word_op, word_ty, word_d, word_a, word_b, word_c, word_ps, word_imm, BitVec.reduceToNat, Option.bind_some, opnd_code, scope_code, policy_code, isOne_bit, ext_lo, ext_hi, ext_all, Nat.reduceSub]

theorem Laws.Encoding.fexp2 (h : Hdr) (d : Opnd) (a : Opnd) : Laws.Encoding.Statement (.fexp2 h d a) :=
  elem_law _ _ rfl rfl rfl fun hw => by
    rw [parse5_of 0x55#7 (hdr_word _ 0x55#7 _ _ _ _ (by decide)) rfl (by decide)]
    unfold parse5
    simp (disch := decide) only [word_op, word_ty, word_d, word_a, word_b, word_c, word_ps, word_imm, BitVec.reduceToNat, Option.bind_some, opnd_code, scope_code, policy_code, isOne_bit, ext_lo, ext_hi, ext_all, Nat.reduceSub]

theorem Laws.Encoding.flog2 (h : Hdr) (d : Opnd) (a : Opnd) : Laws.Encoding.Statement (.flog2 h d a) :=
  elem_law _ _ rfl rfl rfl fun hw => by
    rw [parse5_of 0x56#7 (hdr_word _ 0x56#7 _ _ _ _ (by decide)) rfl (by decide)]
    unfold parse5
    simp (disch := decide) only [word_op, word_ty, word_d, word_a, word_b, word_c, word_ps, word_imm, BitVec.reduceToNat, Option.bind_some, opnd_code, scope_code, policy_code, isOne_bit, ext_lo, ext_hi, ext_all, Nat.reduceSub]

theorem Laws.Encoding.fsin (h : Hdr) (d : Opnd) (a : Opnd) : Laws.Encoding.Statement (.fsin h d a) :=
  elem_law _ _ rfl rfl rfl fun hw => by
    rw [parse5_of 0x57#7 (hdr_word _ 0x57#7 _ _ _ _ (by decide)) rfl (by decide)]
    unfold parse5
    simp (disch := decide) only [word_op, word_ty, word_d, word_a, word_b, word_c, word_ps, word_imm, BitVec.reduceToNat, Option.bind_some, opnd_code, scope_code, policy_code, isOne_bit, ext_lo, ext_hi, ext_all, Nat.reduceSub]

theorem Laws.Encoding.fcos (h : Hdr) (d : Opnd) (a : Opnd) : Laws.Encoding.Statement (.fcos h d a) :=
  elem_law _ _ rfl rfl rfl fun hw => by
    rw [parse5_of 0x58#7 (hdr_word _ 0x58#7 _ _ _ _ (by decide)) rfl (by decide)]
    unfold parse5
    simp (disch := decide) only [word_op, word_ty, word_d, word_a, word_b, word_c, word_ps, word_imm, BitVec.reduceToNat, Option.bind_some, opnd_code, scope_code, policy_code, isOne_bit, ext_lo, ext_hi, ext_all, Nat.reduceSub]

theorem Laws.Encoding.frnd (h : Hdr) (d : Opnd) (a : Opnd) (rm : BitVec 3) : Laws.Encoding.Statement (.frnd h d a rm) :=
  elem_law _ _ rfl rfl rfl fun hw => by
    rw [parse5_of 0x59#7 (hdr_word _ 0x59#7 _ _ _ _ (by decide)) rfl (by decide)]
    unfold parse5
    simp (disch := decide) only [word_op, word_ty, word_d, word_a, word_b, word_c, word_ps, word_imm, BitVec.reduceToNat, Option.bind_some, opnd_code, scope_code, policy_code, isOne_bit, ext_lo, ext_hi, ext_all, Nat.reduceSub]

theorem Laws.Encoding.fdot2 (h : Hdr) (d : Opnd) (a : Opnd) (b : Opnd) (c : Opnd) : Laws.Encoding.Statement (.fdot2 h d a b c) :=
  elem_law _ _ rfl rfl rfl fun hw => by
    rw [parse5_of 0x5A#7 (hdr_word _ 0x5A#7 _ _ _ _ (by decide)) rfl (by decide)]
    unfold parse5
    simp (disch := decide) only [word_op, word_ty, word_d, word_a, word_b, word_c, word_ps, word_imm, BitVec.reduceToNat, Option.bind_some, opnd_code, scope_code, policy_code, isOne_bit, ext_lo, ext_hi, ext_all, Nat.reduceSub]

theorem Laws.Encoding.faddmin (h : Hdr) (d : Opnd) (a : Opnd) (b : Opnd) (c : Opnd) : Laws.Encoding.Statement (.faddmin h d a b c) :=
  elem_law _ _ rfl rfl rfl fun hw => by
    rw [parse5_of 0x5B#7 (hdr_word _ 0x5B#7 _ _ _ _ (by decide)) rfl (by decide)]
    unfold parse5
    simp (disch := decide) only [word_op, word_ty, word_d, word_a, word_b, word_c, word_ps, word_imm, BitVec.reduceToNat, Option.bind_some, opnd_code, scope_code, policy_code, isOne_bit, ext_lo, ext_hi, ext_all, Nat.reduceSub]

theorem Laws.Encoding.fclass (h : Hdr) (d : Opnd) (a : Opnd) : Laws.Encoding.Statement (.fclass h d a) :=
  elem_law _ _ rfl rfl rfl fun hw => by
    rw [parse5_of 0x5C#7 (hdr_word _ 0x5C#7 _ _ _ _ (by decide)) rfl (by decide)]
    unfold parse5
    simp (disch := decide) only [word_op, word_ty, word_d, word_a, word_b, word_c, word_ps, word_imm, BitVec.reduceToNat, Option.bind_some, opnd_code, scope_code, policy_code, isOne_bit, ext_lo, ext_hi, ext_all, Nat.reduceSub]

theorem Laws.Encoding.fscale (h : Hdr) (d : Opnd) (a : Opnd) (b : Opnd) : Laws.Encoding.Statement (.fscale h d a b) :=
  elem_law _ _ rfl rfl rfl fun hw => by
    rw [parse5_of 0x5D#7 (hdr_word _ 0x5D#7 _ _ _ _ (by decide)) rfl (by decide)]
    unfold parse5
    simp (disch := decide) only [word_op, word_ty, word_d, word_a, word_b, word_c, word_ps, word_imm, BitVec.reduceToNat, Option.bind_some, opnd_code, scope_code, policy_code, isOne_bit, ext_lo, ext_hi, ext_all, Nat.reduceSub]

theorem Laws.Encoding.fsat (h : Hdr) (d : Opnd) (a : Opnd) : Laws.Encoding.Statement (.fsat h d a) :=
  elem_law _ _ rfl rfl rfl fun hw => by
    rw [parse5_of 0x5E#7 (hdr_word _ 0x5E#7 _ _ _ _ (by decide)) rfl (by decide)]
    unfold parse5
    simp (disch := decide) only [word_op, word_ty, word_d, word_a, word_b, word_c, word_ps, word_imm, BitVec.reduceToNat, Option.bind_some, opnd_code, scope_code, policy_code, isOne_bit, ext_lo, ext_hi, ext_all, Nat.reduceSub]

theorem Laws.Encoding.cvt (h : Hdr) (d : Opnd) (a : Opnd) (tt : BitVec 3) (tf : Bool) (sf : Bool) (rm : BitVec 3) (part : BitVec 4) : Laws.Encoding.Statement (.cvt h d a tt tf sf rm part) :=
  elem_law _ _ rfl rfl rfl fun hw => by
    rw [parse6_of 0x60#7 (hdr_wordI _ 0x60#7 _ _ _ (by decide)) rfl (by decide)]
    unfold parse6
    simp (disch := decide) only [imm_word, wordI_op, wordI_ty, wordI_d, wordI_a, wordI_ps, BitVec.reduceToNat, Option.bind_some, opnd_code, scope_code, policy_code, isOne_bit, ext_lo, ext_hi, ext_all, Nat.reduceSub]

theorem Laws.Encoding.cvtn (h : Hdr) (d : Opnd) (a : Opnd) (tt : BitVec 3) (tf : Bool) (sf : Bool) (rm : BitVec 3) (ef : BitVec 2) : Laws.Encoding.Statement (.cvtn h d a tt tf sf rm ef) :=
  elem_law _ _ rfl rfl rfl fun hw => by
    rw [parse6_of 0x61#7 (hdr_wordI _ 0x61#7 _ _ _ (by decide)) rfl (by decide)]
    unfold parse6
    simp (disch := decide) only [imm_word, wordI_op, wordI_ty, wordI_d, wordI_a, wordI_ps, BitVec.reduceToNat, Option.bind_some, opnd_code, scope_code, policy_code, isOne_bit, ext_lo, ext_hi, ext_all, Nat.reduceSub]

theorem Laws.Encoding.mxqSc (h : Hdr) (d : Opnd) (a : Opnd) (fmt : BitVec 2) : Laws.Encoding.Statement (.mxqSc h d a fmt) :=
  elem_law _ _ rfl rfl rfl fun hw => by
    rw [parse6_of 0x62#7 (hdr_word _ 0x62#7 _ _ _ _ (by decide)) rfl (by decide)]
    unfold parse6
    simp (disch := decide) only [word_op, word_ty, word_d, word_a, word_b, word_c, word_ps, word_imm, BitVec.reduceToNat, Option.bind_some, opnd_code, scope_code, policy_code, isOne_bit, ext_lo, ext_hi, ext_all, Nat.reduceSub]
    rfl

theorem Laws.Encoding.mxq (h : Hdr) (d : Opnd) (a : Opnd) (b : Opnd) (rm : BitVec 3) (fmt : BitVec 2) : Laws.Encoding.Statement (.mxq h d a b rm fmt) :=
  elem_law _ _ rfl rfl rfl fun hw => by
    rw [parse6_of 0x62#7 (hdr_word _ 0x62#7 _ _ _ _ (by decide)) rfl (by decide)]
    unfold parse6
    simp (disch := decide) only [word_op, word_ty, word_d, word_a, word_b, word_c, word_ps, word_imm, BitVec.reduceToNat, Option.bind_some, opnd_code, scope_code, policy_code, isOne_bit, ext_lo, ext_hi, ext_all, Nat.reduceSub]
    rfl

theorem Laws.Encoding.mxdq (h : Hdr) (d : Opnd) (a : Opnd) (b : Opnd) (part : BitVec 3) (fmt : BitVec 2) : Laws.Encoding.Statement (.mxdq h d a b part fmt) :=
  elem_law _ _ rfl rfl rfl fun hw => by
    rw [parse6_of 0x63#7 (hdr_word _ 0x63#7 _ _ _ _ (by decide)) rfl (by decide)]
    unfold parse6
    simp (disch := decide) only [word_op, word_ty, word_d, word_a, word_b, word_c, word_ps, word_imm, BitVec.reduceToNat, Option.bind_some, opnd_code, scope_code, policy_code, isOne_bit, ext_lo, ext_hi, ext_all, Nat.reduceSub]

theorem Laws.Encoding.efld (h : Hdr) (a : Opnd) (n : BitVec 2) : Laws.Encoding.Statement (.efld h a n) :=
  elem_law _ _ rfl rfl rfl fun hw => by
    rw [parse6_of 0x64#7 (hdr_word _ 0x64#7 _ _ _ _ (by decide)) rfl (by decide)]
    unfold parse6
    simp (disch := decide) only [word_op, word_ty, word_d, word_a, word_b, word_c, word_ps, word_imm, BitVec.reduceToNat, Option.bind_some, opnd_code, scope_code, policy_code, isOne_bit, ext_lo, ext_hi, ext_all, Nat.reduceSub]

theorem Laws.Encoding.efst (h : Hdr) (d : Opnd) (n : BitVec 2) : Laws.Encoding.Statement (.efst h d n) :=
  elem_law _ _ rfl rfl rfl fun hw => by
    rw [parse6_of 0x65#7 (hdr_word _ 0x65#7 _ _ _ _ (by decide)) rfl (by decide)]
    unfold parse6
    simp (disch := decide) only [word_op, word_ty, word_d, word_a, word_b, word_c, word_ps, word_imm, BitVec.reduceToNat, Option.bind_some, opnd_code, scope_code, policy_code, isOne_bit, ext_lo, ext_hi, ext_all, Nat.reduceSub]

theorem Laws.Encoding.ld (h : Hdr) (d : Opnd) (a : Opnd) (off : BitVec 6) (rc : BitVec 3) (ch : BitVec 2) (sc : Scope) (pol : Policy) : Laws.Encoding.Statement (.ld h d a off rc ch sc pol) :=
  elem_law _ _ rfl rfl rfl fun hw => by
    have hp := wf_ps rfl rfl hw
    rw [parse6_of 0x68#7 (hdr_wordM _ 0x68#7 _ _ _ _ _ (by decide) hp) rfl (by decide)]
    unfold parse6
    simp (disch := decide) only [word_op, word_ty, word_d, word_a, word_b, word_c, word_ps, word_imm, BitVec.reduceToNat, Option.bind_some, opnd_code, scope_code, policy_code, isOne_bit, ext_lo, ext_hi, ext_all, Nat.reduceSub]

theorem Laws.Encoding.st (h : Hdr) (d : Opnd) (a : Opnd) (off : BitVec 6) (rc : BitVec 3) (ch : BitVec 2) (sc : Scope) (pol : Policy) : Laws.Encoding.Statement (.st h d a off rc ch sc pol) :=
  elem_law _ _ rfl rfl rfl fun hw => by
    have hp := wf_ps rfl rfl hw
    rw [parse6_of 0x69#7 (hdr_wordM _ 0x69#7 _ _ _ _ _ (by decide) hp) rfl (by decide)]
    unfold parse6
    simp (disch := decide) only [word_op, word_ty, word_d, word_a, word_b, word_c, word_ps, word_imm, BitVec.reduceToNat, Option.bind_some, opnd_code, scope_code, policy_code, isOne_bit, ext_lo, ext_hi, ext_all, Nat.reduceSub]

theorem Laws.Encoding.ldfKeep (h : Hdr) (d : Opnd) (a : Opnd) (off : BitVec 6) (rc : BitVec 3) (ch : BitVec 2) : Laws.Encoding.Statement (.ldfKeep h d a off rc ch) :=
  elem_law _ _ rfl rfl rfl fun hw => by
    have hp := wf_ps rfl rfl hw
    rw [parse6_of 0x6A#7 (hdr_wordM _ 0x6A#7 _ _ _ _ _ (by decide) hp) rfl (by decide)]
    unfold parse6
    have ht : h.ty = .b := by simpa using wf_ty rfl hw
    simp (disch := decide) only [word_op, word_ty, word_d, word_a, word_b, word_c, word_ps, word_imm, BitVec.reduceToNat, Option.bind_some, opnd_code, scope_code, policy_code, isOne_bit, ext_lo, ext_hi, ext_all, Nat.reduceSub, ht, LaneTy.code]
    rfl

theorem Laws.Encoding.ldfClr (h : Hdr) (d : Opnd) (a : Opnd) (off : BitVec 6) (rc : BitVec 3) (ch : BitVec 2) : Laws.Encoding.Statement (.ldfClr h d a off rc ch) :=
  elem_law _ _ rfl rfl rfl fun hw => by
    have hp := wf_ps rfl rfl hw
    rw [parse6_of 0x6A#7 (hdr_wordM _ 0x6A#7 _ _ _ _ _ (by decide) hp) rfl (by decide)]
    unfold parse6
    have ht : h.ty = .h := by simpa using wf_ty rfl hw
    simp (disch := decide) only [word_op, word_ty, word_d, word_a, word_b, word_c, word_ps, word_imm, BitVec.reduceToNat, Option.bind_some, opnd_code, scope_code, policy_code, isOne_bit, ext_lo, ext_hi, ext_all, Nat.reduceSub, ht, LaneTy.code]
    rfl

theorem Laws.Encoding.stf (h : Hdr) (d : Opnd) (a : Opnd) (off : BitVec 6) (rc : BitVec 3) (ch : BitVec 2) : Laws.Encoding.Statement (.stf h d a off rc ch) :=
  elem_law _ _ rfl rfl rfl fun hw => by
    have hp := wf_ps rfl rfl hw
    rw [parse6_of 0x6B#7 (hdr_wordM _ 0x6B#7 _ _ _ _ _ (by decide) hp) rfl (by decide)]
    unfold parse6
    simp (disch := decide) only [word_op, word_ty, word_d, word_a, word_b, word_c, word_ps, word_imm, BitVec.reduceToNat, Option.bind_some, opnd_code, scope_code, policy_code, isOne_bit, ext_lo, ext_hi, ext_all, Nat.reduceSub]

theorem Laws.Encoding.ldg (h : Hdr) (d : Opnd) (a : Opnd) (off : BitVec 6) (rc : BitVec 3) (ch : BitVec 2) (sc : Scope) (pol : Policy) : Laws.Encoding.Statement (.ldg h d a off rc ch sc pol) :=
  elem_law _ _ rfl rfl rfl fun hw => by
    have hp := wf_ps rfl rfl hw
    rw [parse6_of 0x6C#7 (hdr_wordM _ 0x6C#7 _ _ _ _ _ (by decide) hp) rfl (by decide)]
    unfold parse6
    simp (disch := decide) only [word_op, word_ty, word_d, word_a, word_b, word_c, word_ps, word_imm, BitVec.reduceToNat, Option.bind_some, opnd_code, scope_code, policy_code, isOne_bit, ext_lo, ext_hi, ext_all, Nat.reduceSub]

theorem Laws.Encoding.sts (h : Hdr) (d : Opnd) (a : Opnd) (off : BitVec 6) (rc : BitVec 3) (ch : BitVec 2) (sc : Scope) (pol : Policy) : Laws.Encoding.Statement (.sts h d a off rc ch sc pol) :=
  elem_law _ _ rfl rfl rfl fun hw => by
    have hp := wf_ps rfl rfl hw
    rw [parse6_of 0x6D#7 (hdr_wordM _ 0x6D#7 _ _ _ _ _ (by decide) hp) rfl (by decide)]
    unfold parse6
    simp (disch := decide) only [word_op, word_ty, word_d, word_a, word_b, word_c, word_ps, word_imm, BitVec.reduceToNat, Option.bind_some, opnd_code, scope_code, policy_code, isOne_bit, ext_lo, ext_hi, ext_all, Nat.reduceSub]

theorem Laws.Encoding.atom (h : Hdr) (d : Opnd) (a : Opnd) (op : BitVec 4) (size : BitVec 2) (rc : BitVec 3) (ch : BitVec 2) (sc : Scope) : Laws.Encoding.Statement (.atom h d a op size rc ch sc) :=
  elem_law _ _ rfl rfl rfl fun hw => by
    have hp := wf_ps rfl rfl hw
    rw [parse6_of 0x6E#7 (hdr_wordM _ 0x6E#7 _ _ _ _ _ (by decide) hp) rfl (by decide)]
    unfold parse6
    simp (disch := decide) only [word_op, word_ty, word_d, word_a, word_b, word_c, word_ps, word_imm, BitVec.reduceToNat, Option.bind_some, opnd_code, scope_code, policy_code, isOne_bit, ext_lo, ext_hi, ext_all, Nat.reduceSub]

theorem Laws.Encoding.fenceFull (h : Hdr) (sc : Scope) : Laws.Encoding.Statement (.fenceFull h sc) :=
  elem_law _ _ rfl rfl rfl fun hw => by
    have hp := wf_ps rfl rfl hw
    rw [parse6_of 0x6F#7 (hdr_wordM _ 0x6F#7 _ _ _ _ _ (by decide) hp) rfl (by decide)]
    unfold parse6
    simp (disch := decide) only [word_op, word_ty, word_d, word_a, word_b, word_c, word_ps, word_imm, BitVec.reduceToNat, Option.bind_some, opnd_code, scope_code, policy_code, isOne_bit, ext_lo, ext_hi, ext_all, Nat.reduceSub]
    rfl

theorem Laws.Encoding.fenceRel (h : Hdr) (sc : Scope) : Laws.Encoding.Statement (.fenceRel h sc) :=
  elem_law _ _ rfl rfl rfl fun hw => by
    have hp := wf_ps rfl rfl hw
    rw [parse6_of 0x6F#7 (hdr_wordM _ 0x6F#7 _ _ _ _ _ (by decide) hp) rfl (by decide)]
    unfold parse6
    simp (disch := decide) only [word_op, word_ty, word_d, word_a, word_b, word_c, word_ps, word_imm, BitVec.reduceToNat, Option.bind_some, opnd_code, scope_code, policy_code, isOne_bit, ext_lo, ext_hi, ext_all, Nat.reduceSub]
    rfl

theorem Laws.Encoding.fenceAcq (h : Hdr) (sc : Scope) : Laws.Encoding.Statement (.fenceAcq h sc) :=
  elem_law _ _ rfl rfl rfl fun hw => by
    have hp := wf_ps rfl rfl hw
    rw [parse6_of 0x6F#7 (hdr_wordM _ 0x6F#7 _ _ _ _ _ (by decide) hp) rfl (by decide)]
    unfold parse6
    simp (disch := decide) only [word_op, word_ty, word_d, word_a, word_b, word_c, word_ps, word_imm, BitVec.reduceToNat, Option.bind_some, opnd_code, scope_code, policy_code, isOne_bit, ext_lo, ext_hi, ext_all, Nat.reduceSub]
    rfl

theorem Laws.Encoding.ldr (h : Hdr) (d : Opnd) (a : Opnd) (off : BitVec 6) (rc : BitVec 3) (ch : BitVec 2) : Laws.Encoding.Statement (.ldr h d a off rc ch) :=
  elem_law _ _ rfl rfl rfl fun hw => by
    have hp := wf_ps rfl rfl hw
    rw [parse7_of 0x70#7 (hdr_wordM _ 0x70#7 _ _ _ _ _ (by decide) hp) rfl (by decide)]
    unfold parse7
    simp (disch := decide) only [word_op, word_ty, word_d, word_a, word_b, word_c, word_ps, word_imm, BitVec.reduceToNat, Option.bind_some, opnd_code, scope_code, policy_code, isOne_bit, ext_lo, ext_hi, ext_all, Nat.reduceSub]

theorem Laws.Encoding.seal (h : Hdr) (rc : BitVec 3) (ch : BitVec 2) : Laws.Encoding.Statement (.seal h rc ch) :=
  elem_law _ _ rfl rfl rfl fun hw => by
    have hp := wf_ps rfl rfl hw
    rw [parse7_of 0x71#7 (hdr_wordM _ 0x71#7 _ _ _ _ _ (by decide) hp) rfl (by decide)]
    unfold parse7
    simp (disch := decide) only [word_op, word_ty, word_d, word_a, word_b, word_c, word_ps, word_imm, BitVec.reduceToNat, Option.bind_some, opnd_code, scope_code, policy_code, isOne_bit, ext_lo, ext_hi, ext_all, Nat.reduceSub]

theorem Laws.Encoding.rclaim (h : Hdr) (rc : BitVec 3) (ch : BitVec 2) : Laws.Encoding.Statement (.rclaim h rc ch) :=
  elem_law _ _ rfl rfl rfl fun hw => by
    have hp := wf_ps rfl rfl hw
    rw [parse7_of 0x72#7 (hdr_wordM _ 0x72#7 _ _ _ _ _ (by decide) hp) rfl (by decide)]
    unfold parse7
    simp (disch := decide) only [word_op, word_ty, word_d, word_a, word_b, word_c, word_ps, word_imm, BitVec.reduceToNat, Option.bind_some, opnd_code, scope_code, policy_code, isOne_bit, ext_lo, ext_hi, ext_all, Nat.reduceSub]

theorem Laws.Encoding.pref (h : Hdr) (a : Opnd) (off : BitVec 6) (rc : BitVec 3) (pol : Policy) : Laws.Encoding.Statement (.pref h a off rc pol) :=
  elem_law _ _ rfl rfl rfl fun hw => by
    have hp := wf_ps rfl rfl hw
    rw [parse7_of 0x73#7 (hdr_wordM _ 0x73#7 _ _ _ _ _ (by decide) hp) rfl (by decide)]
    unfold parse7
    simp (disch := decide) only [word_op, word_ty, word_d, word_a, word_b, word_c, word_ps, word_imm, BitVec.reduceToNat, Option.bind_some, opnd_code, scope_code, policy_code, isOne_bit, ext_lo, ext_hi, ext_all, Nat.reduceSub]

theorem Laws.Encoding.invl1 (h : Hdr) : Laws.Encoding.Statement (.invl1 h) :=
  elem_law _ _ rfl rfl rfl fun hw => by
    have hp := wf_ps rfl rfl hw
    rw [parse7_of 0x74#7 (hdr_wordM _ 0x74#7 _ _ _ _ _ (by decide) hp) rfl (by decide)]
    unfold parse7
    simp (disch := decide) only [word_op, word_ty, word_d, word_a, word_b, word_c, word_ps, word_imm, BitVec.reduceToNat, Option.bind_some, opnd_code, scope_code, policy_code, isOne_bit, ext_lo, ext_hi, ext_all, Nat.reduceSub]

theorem Laws.Encoding.fesetEmpty (h : Hdr) (a : Opnd) (off : BitVec 6) (rc : BitVec 3) (ch : BitVec 2) : Laws.Encoding.Statement (.fesetEmpty h a off rc ch) :=
  elem_law _ _ rfl rfl rfl fun hw => by
    have hp := wf_ps rfl rfl hw
    rw [parse7_of 0x75#7 (hdr_wordM _ 0x75#7 _ _ _ _ _ (by decide) hp) rfl (by decide)]
    unfold parse7
    have ht : h.ty = .b := by simpa using wf_ty rfl hw
    simp (disch := decide) only [word_op, word_ty, word_d, word_a, word_b, word_c, word_ps, word_imm, BitVec.reduceToNat, Option.bind_some, opnd_code, scope_code, policy_code, isOne_bit, ext_lo, ext_hi, ext_all, Nat.reduceSub, ht, LaneTy.code]
    rfl

theorem Laws.Encoding.fesetFull (h : Hdr) (a : Opnd) (off : BitVec 6) (rc : BitVec 3) (ch : BitVec 2) : Laws.Encoding.Statement (.fesetFull h a off rc ch) :=
  elem_law _ _ rfl rfl rfl fun hw => by
    have hp := wf_ps rfl rfl hw
    rw [parse7_of 0x75#7 (hdr_wordM _ 0x75#7 _ _ _ _ _ (by decide) hp) rfl (by decide)]
    unfold parse7
    have ht : h.ty = .h := by simpa using wf_ty rfl hw
    simp (disch := decide) only [word_op, word_ty, word_d, word_a, word_b, word_c, word_ps, word_imm, BitVec.reduceToNat, Option.bind_some, opnd_code, scope_code, policy_code, isOne_bit, ext_lo, ext_hi, ext_all, Nat.reduceSub, ht, LaneTy.code]
    rfl

theorem Laws.Encoding.brec (h : Hdr) (d : Opnd) (a : Opnd) (rc : BitVec 3) : Laws.Encoding.Statement (.brec h d a rc) :=
  elem_law _ _ rfl rfl rfl fun hw => by
    have hp := wf_ps rfl rfl hw
    rw [parse7_of 0x76#7 (hdr_wordM _ 0x76#7 _ _ _ _ _ (by decide) hp) rfl (by decide)]
    unfold parse7
    simp (disch := decide) only [word_op, word_ty, word_d, word_a, word_b, word_c, word_ps, word_imm, BitVec.reduceToNat, Option.bind_some, opnd_code, scope_code, policy_code, isOne_bit, ext_lo, ext_hi, ext_all, Nat.reduceSub]

theorem Laws.Encoding.tsync (h : Hdr) : Laws.Encoding.Statement (.tsync h) :=
  elem_law _ _ rfl rfl rfl fun hw => by
    have hp := wf_ps rfl rfl hw
    rw [parse7_of 0x77#7 (hdr_wordM _ 0x77#7 _ _ _ _ _ (by decide) hp) rfl (by decide)]
    unfold parse7
    simp (disch := decide) only [word_op, word_ty, word_d, word_a, word_b, word_c, word_ps, word_imm, BitVec.reduceToNat, Option.bind_some, opnd_code, scope_code, policy_code, isOne_bit, ext_lo, ext_hi, ext_all, Nat.reduceSub]

theorem Laws.Encoding.rbox (h : Hdr) (d : Opnd) (a : Opnd) (b : Opnd) (c : Opnd) : Laws.Encoding.Statement (.rbox h d a b c) :=
  elem_law _ _ rfl rfl rfl fun hw => by
    rw [parse7_of 0x78#7 (hdr_word _ 0x78#7 _ _ _ _ (by decide)) rfl (by decide)]
    unfold parse7
    simp (disch := decide) only [word_op, word_ty, word_d, word_a, word_b, word_c, word_ps, word_imm, BitVec.reduceToNat, Option.bind_some, opnd_code, scope_code, policy_code, isOne_bit, ext_lo, ext_hi, ext_all, Nat.reduceSub]

theorem Laws.Encoding.rtri (h : Hdr) (d : Opnd) (a : Opnd) (b : Opnd) (c : Opnd) : Laws.Encoding.Statement (.rtri h d a b c) :=
  elem_law _ _ rfl rfl rfl fun hw => by
    rw [parse7_of 0x79#7 (hdr_word _ 0x79#7 _ _ _ _ (by decide)) rfl (by decide)]
    unfold parse7
    simp (disch := decide) only [word_op, word_ty, word_d, word_a, word_b, word_c, word_ps, word_imm, BitVec.reduceToNat, Option.bind_some, opnd_code, scope_code, policy_code, isOne_bit, ext_lo, ext_hi, ext_all, Nat.reduceSub]

theorem Laws.Encoding.spcfg (h : Hdr) (en : Bool) (qa : BitVec 3) (qb : BitVec 3) : Laws.Encoding.Statement (.spcfg h en qa qb) :=
  elem_law _ _ rfl rfl rfl fun hw => by
    rw [parse7_of 0x7A#7 (hdr_wordI _ 0x7A#7 _ _ _ (by decide)) rfl (by decide)]
    unfold parse7
    simp (disch := decide) only [imm_word, wordI_op, wordI_ty, wordI_d, wordI_a, wordI_ps, BitVec.reduceToNat, Option.bind_some, opnd_code, scope_code, policy_code, isOne_bit, ext_lo, ext_hi, ext_all, Nat.reduceSub]

theorem Laws.Encoding.seqt (h : Hdr) (d : Opnd) (a : Opnd) : Laws.Encoding.Statement (.seqt h d a) :=
  elem_law _ _ rfl rfl rfl fun hw => by
    rw [parse7_of 0x7B#7 (hdr_word _ 0x7B#7 _ _ _ _ (by decide)) rfl (by decide)]
    unfold parse7
    simp (disch := decide) only [word_op, word_ty, word_d, word_a, word_b, word_c, word_ps, word_imm, BitVec.reduceToNat, Option.bind_some, opnd_code, scope_code, policy_code, isOne_bit, ext_lo, ext_hi, ext_all, Nat.reduceSub]
    rfl

theorem Laws.Encoding.seqtRst (h : Hdr) (a : Opnd) (j : BitVec 3) (base : BitVec 4) : Laws.Encoding.Statement (.seqtRst h a j base) :=
  elem_law _ _ rfl rfl rfl fun hw => by
    rw [parse7_of 0x7B#7 (hdr_wordI _ 0x7B#7 _ _ _ (by decide)) rfl (by decide)]
    unfold parse7
    simp (disch := decide) only [imm_word, wordI_op, wordI_ty, wordI_d, wordI_a, wordI_ps, BitVec.reduceToNat, Option.bind_some, opnd_code, scope_code, policy_code, isOne_bit, ext_lo, ext_hi, ext_all, Nat.reduceSub]
    rfl

theorem Laws.Encoding.edge (h : Hdr) (d : Opnd) (a : Opnd) (b : Opnd) (c : Opnd) : Laws.Encoding.Statement (.edge h d a b c) :=
  elem_law _ _ rfl rfl rfl fun hw => by
    rw [parse7_of 0x7C#7 (hdr_word _ 0x7C#7 _ _ _ _ (by decide)) rfl (by decide)]
    unfold parse7
    simp (disch := decide) only [word_op, word_ty, word_d, word_a, word_b, word_c, word_ps, word_imm, BitVec.reduceToNat, Option.bind_some, opnd_code, scope_code, policy_code, isOne_bit, ext_lo, ext_hi, ext_all, Nat.reduceSub]

theorem Laws.Encoding.ctlRead (h : Hdr) (d : Opnd) (n : BitVec 5) : Laws.Encoding.Statement (.ctlRead h d n) :=
  elem_law _ _ rfl rfl rfl fun hw => by
    rw [parse7_of 0x7D#7 (hdr_wordI _ 0x7D#7 _ _ _ (by decide)) rfl (by decide)]
    unfold parse7
    simp (disch := decide) only [imm_word, wordI_op, wordI_ty, wordI_d, wordI_a, wordI_ps, BitVec.reduceToNat, Option.bind_some, opnd_code, scope_code, policy_code, isOne_bit, ext_lo, ext_hi, ext_all, Nat.reduceSub]
    rfl

theorem Laws.Encoding.ctlWrite (h : Hdr) (a : Opnd) (n : BitVec 5) : Laws.Encoding.Statement (.ctlWrite h a n) :=
  elem_law _ _ rfl rfl rfl fun hw => by
    rw [parse7_of 0x7D#7 (hdr_wordI _ 0x7D#7 _ _ _ (by decide)) rfl (by decide)]
    unfold parse7
    simp (disch := decide) only [imm_word, wordI_op, wordI_ty, wordI_d, wordI_a, wordI_ps, BitVec.reduceToNat, Option.bind_some, opnd_code, scope_code, policy_code, isOne_bit, ext_lo, ext_hi, ext_all, Nat.reduceSub]
    rfl

theorem Laws.Encoding.trap (h : Hdr) (n : BitVec 11) : Laws.Encoding.Statement (.trap h n) :=
  elem_law _ _ rfl rfl rfl fun hw => by
    rw [parse7_of 0x7E#7 (hdr_wordI _ 0x7E#7 _ _ _ (by decide)) rfl (by decide)]
    unfold parse7
    simp (disch := decide) only [imm_word, wordI_op, wordI_ty, wordI_d, wordI_a, wordI_ps, BitVec.reduceToNat, Option.bind_some, opnd_code, scope_code, policy_code, isOne_bit, ext_lo, ext_hi, ext_all, Nat.reduceSub]
    rfl

theorem Laws.Encoding.bkpt (h : Hdr) (n : BitVec 11) : Laws.Encoding.Statement (.bkpt h n) :=
  elem_law _ _ rfl rfl rfl fun hw => by
    rw [parse7_of 0x7E#7 (hdr_wordI _ 0x7E#7 _ _ _ (by decide)) rfl (by decide)]
    unfold parse7
    simp (disch := decide) only [imm_word, wordI_op, wordI_ty, wordI_d, wordI_a, wordI_ps, BitVec.reduceToNat, Option.bind_some, opnd_code, scope_code, policy_code, isOne_bit, ext_lo, ext_hi, ext_all, Nat.reduceSub]
    rfl

theorem Laws.Encoding.faultySlotFire (cause : BitVec 8) : Laws.Encoding.Statement (.faultySlotFire cause) := no_word _ rfl rfl

theorem Laws.Encoding.seqAdd (d : BitVec 5) (a : BitVec 5) (b : BitVec 5) : Laws.Encoding.Statement (.seqAdd d a b) :=
  seq_law _ _ rfl fun hw => by
    have hm : (BitVec.extractLsb' 26 6 (0#6 ++ d ++ a ++ b ++ 0#11 : BitVec 32)).toNat = 0 := by
      simp (disch := decide) only [ext_hi, ext_lo, ext_all, Nat.reduceSub]; rfl
    unfold decodeSeq
    rw [hm]
    show decodeAlu _ = _
    have hf : (BitVec.extractLsb' 0 11 (0#6 ++ d ++ a ++ b ++ 0#11 : BitVec 32)).toNat = 0 := by
      simp (disch := decide) only [ext_hi, ext_lo, ext_all, Nat.reduceSub]; rfl
    unfold decodeAlu
    rw [hf]
    simp (disch := decide) only [ext_hi, ext_lo, ext_all, Nat.reduceSub, if_true, if_false, Bool.false_eq_true]

theorem Laws.Encoding.seqSub (d : BitVec 5) (a : BitVec 5) (b : BitVec 5) : Laws.Encoding.Statement (.seqSub d a b) :=
  seq_law _ _ rfl fun hw => by
    have hm : (BitVec.extractLsb' 26 6 (0#6 ++ d ++ a ++ b ++ 1#11 : BitVec 32)).toNat = 0 := by
      simp (disch := decide) only [ext_hi, ext_lo, ext_all, Nat.reduceSub]; rfl
    unfold decodeSeq
    rw [hm]
    show decodeAlu _ = _
    have hf : (BitVec.extractLsb' 0 11 (0#6 ++ d ++ a ++ b ++ 1#11 : BitVec 32)).toNat = 1 := by
      simp (disch := decide) only [ext_hi, ext_lo, ext_all, Nat.reduceSub]; rfl
    unfold decodeAlu
    rw [hf]
    simp (disch := decide) only [ext_hi, ext_lo, ext_all, Nat.reduceSub, if_true, if_false, Bool.false_eq_true]

theorem Laws.Encoding.seqAnd (d : BitVec 5) (a : BitVec 5) (b : BitVec 5) : Laws.Encoding.Statement (.seqAnd d a b) :=
  seq_law _ _ rfl fun hw => by
    have hm : (BitVec.extractLsb' 26 6 (0#6 ++ d ++ a ++ b ++ 2#11 : BitVec 32)).toNat = 0 := by
      simp (disch := decide) only [ext_hi, ext_lo, ext_all, Nat.reduceSub]; rfl
    unfold decodeSeq
    rw [hm]
    show decodeAlu _ = _
    have hf : (BitVec.extractLsb' 0 11 (0#6 ++ d ++ a ++ b ++ 2#11 : BitVec 32)).toNat = 2 := by
      simp (disch := decide) only [ext_hi, ext_lo, ext_all, Nat.reduceSub]; rfl
    unfold decodeAlu
    rw [hf]
    simp (disch := decide) only [ext_hi, ext_lo, ext_all, Nat.reduceSub, if_true, if_false, Bool.false_eq_true]

theorem Laws.Encoding.seqOr (d : BitVec 5) (a : BitVec 5) (b : BitVec 5) : Laws.Encoding.Statement (.seqOr d a b) :=
  seq_law _ _ rfl fun hw => by
    have hm : (BitVec.extractLsb' 26 6 (0#6 ++ d ++ a ++ b ++ 3#11 : BitVec 32)).toNat = 0 := by
      simp (disch := decide) only [ext_hi, ext_lo, ext_all, Nat.reduceSub]; rfl
    unfold decodeSeq
    rw [hm]
    show decodeAlu _ = _
    have hf : (BitVec.extractLsb' 0 11 (0#6 ++ d ++ a ++ b ++ 3#11 : BitVec 32)).toNat = 3 := by
      simp (disch := decide) only [ext_hi, ext_lo, ext_all, Nat.reduceSub]; rfl
    unfold decodeAlu
    rw [hf]
    simp (disch := decide) only [ext_hi, ext_lo, ext_all, Nat.reduceSub, if_true, if_false, Bool.false_eq_true]

theorem Laws.Encoding.seqXor (d : BitVec 5) (a : BitVec 5) (b : BitVec 5) : Laws.Encoding.Statement (.seqXor d a b) :=
  seq_law _ _ rfl fun hw => by
    have hm : (BitVec.extractLsb' 26 6 (0#6 ++ d ++ a ++ b ++ 4#11 : BitVec 32)).toNat = 0 := by
      simp (disch := decide) only [ext_hi, ext_lo, ext_all, Nat.reduceSub]; rfl
    unfold decodeSeq
    rw [hm]
    show decodeAlu _ = _
    have hf : (BitVec.extractLsb' 0 11 (0#6 ++ d ++ a ++ b ++ 4#11 : BitVec 32)).toNat = 4 := by
      simp (disch := decide) only [ext_hi, ext_lo, ext_all, Nat.reduceSub]; rfl
    unfold decodeAlu
    rw [hf]
    simp (disch := decide) only [ext_hi, ext_lo, ext_all, Nat.reduceSub, if_true, if_false, Bool.false_eq_true]

theorem Laws.Encoding.seqShl (d : BitVec 5) (a : BitVec 5) (b : BitVec 5) : Laws.Encoding.Statement (.seqShl d a b) :=
  seq_law _ _ rfl fun hw => by
    have hm : (BitVec.extractLsb' 26 6 (0#6 ++ d ++ a ++ b ++ 5#11 : BitVec 32)).toNat = 0 := by
      simp (disch := decide) only [ext_hi, ext_lo, ext_all, Nat.reduceSub]; rfl
    unfold decodeSeq
    rw [hm]
    show decodeAlu _ = _
    have hf : (BitVec.extractLsb' 0 11 (0#6 ++ d ++ a ++ b ++ 5#11 : BitVec 32)).toNat = 5 := by
      simp (disch := decide) only [ext_hi, ext_lo, ext_all, Nat.reduceSub]; rfl
    unfold decodeAlu
    rw [hf]
    simp (disch := decide) only [ext_hi, ext_lo, ext_all, Nat.reduceSub, if_true, if_false, Bool.false_eq_true]

theorem Laws.Encoding.seqShr (d : BitVec 5) (a : BitVec 5) (b : BitVec 5) : Laws.Encoding.Statement (.seqShr d a b) :=
  seq_law _ _ rfl fun hw => by
    have hm : (BitVec.extractLsb' 26 6 (0#6 ++ d ++ a ++ b ++ 6#11 : BitVec 32)).toNat = 0 := by
      simp (disch := decide) only [ext_hi, ext_lo, ext_all, Nat.reduceSub]; rfl
    unfold decodeSeq
    rw [hm]
    show decodeAlu _ = _
    have hf : (BitVec.extractLsb' 0 11 (0#6 ++ d ++ a ++ b ++ 6#11 : BitVec 32)).toNat = 6 := by
      simp (disch := decide) only [ext_hi, ext_lo, ext_all, Nat.reduceSub]; rfl
    unfold decodeAlu
    rw [hf]
    simp (disch := decide) only [ext_hi, ext_lo, ext_all, Nat.reduceSub, if_true, if_false, Bool.false_eq_true]

theorem Laws.Encoding.seqSar (d : BitVec 5) (a : BitVec 5) (b : BitVec 5) : Laws.Encoding.Statement (.seqSar d a b) :=
  seq_law _ _ rfl fun hw => by
    have hm : (BitVec.extractLsb' 26 6 (0#6 ++ d ++ a ++ b ++ 7#11 : BitVec 32)).toNat = 0 := by
      simp (disch := decide) only [ext_hi, ext_lo, ext_all, Nat.reduceSub]; rfl
    unfold decodeSeq
    rw [hm]
    show decodeAlu _ = _
    have hf : (BitVec.extractLsb' 0 11 (0#6 ++ d ++ a ++ b ++ 7#11 : BitVec 32)).toNat = 7 := by
      simp (disch := decide) only [ext_hi, ext_lo, ext_all, Nat.reduceSub]; rfl
    unfold decodeAlu
    rw [hf]
    simp (disch := decide) only [ext_hi, ext_lo, ext_all, Nat.reduceSub, if_true, if_false, Bool.false_eq_true]

theorem Laws.Encoding.seqMul (d : BitVec 5) (a : BitVec 5) (b : BitVec 5) : Laws.Encoding.Statement (.seqMul d a b) :=
  seq_law _ _ rfl fun hw => by
    have hm : (BitVec.extractLsb' 26 6 (0#6 ++ d ++ a ++ b ++ 8#11 : BitVec 32)).toNat = 0 := by
      simp (disch := decide) only [ext_hi, ext_lo, ext_all, Nat.reduceSub]; rfl
    unfold decodeSeq
    rw [hm]
    show decodeAlu _ = _
    have hf : (BitVec.extractLsb' 0 11 (0#6 ++ d ++ a ++ b ++ 8#11 : BitVec 32)).toNat = 8 := by
      simp (disch := decide) only [ext_hi, ext_lo, ext_all, Nat.reduceSub]; rfl
    unfold decodeAlu
    rw [hf]
    simp (disch := decide) only [ext_hi, ext_lo, ext_all, Nat.reduceSub, if_true, if_false, Bool.false_eq_true]

theorem Laws.Encoding.seqMulh (d : BitVec 5) (a : BitVec 5) (b : BitVec 5) : Laws.Encoding.Statement (.seqMulh d a b) :=
  seq_law _ _ rfl fun hw => by
    have hm : (BitVec.extractLsb' 26 6 (0#6 ++ d ++ a ++ b ++ 9#11 : BitVec 32)).toNat = 0 := by
      simp (disch := decide) only [ext_hi, ext_lo, ext_all, Nat.reduceSub]; rfl
    unfold decodeSeq
    rw [hm]
    show decodeAlu _ = _
    have hf : (BitVec.extractLsb' 0 11 (0#6 ++ d ++ a ++ b ++ 9#11 : BitVec 32)).toNat = 9 := by
      simp (disch := decide) only [ext_hi, ext_lo, ext_all, Nat.reduceSub]; rfl
    unfold decodeAlu
    rw [hf]
    simp (disch := decide) only [ext_hi, ext_lo, ext_all, Nat.reduceSub, if_true, if_false, Bool.false_eq_true]

theorem Laws.Encoding.seqMulhu (d : BitVec 5) (a : BitVec 5) (b : BitVec 5) : Laws.Encoding.Statement (.seqMulhu d a b) :=
  seq_law _ _ rfl fun hw => by
    have hm : (BitVec.extractLsb' 26 6 (0#6 ++ d ++ a ++ b ++ 10#11 : BitVec 32)).toNat = 0 := by
      simp (disch := decide) only [ext_hi, ext_lo, ext_all, Nat.reduceSub]; rfl
    unfold decodeSeq
    rw [hm]
    show decodeAlu _ = _
    have hf : (BitVec.extractLsb' 0 11 (0#6 ++ d ++ a ++ b ++ 10#11 : BitVec 32)).toNat = 10 := by
      simp (disch := decide) only [ext_hi, ext_lo, ext_all, Nat.reduceSub]; rfl
    unfold decodeAlu
    rw [hf]
    simp (disch := decide) only [ext_hi, ext_lo, ext_all, Nat.reduceSub, if_true, if_false, Bool.false_eq_true]

theorem Laws.Encoding.div (d : BitVec 5) (a : BitVec 5) (b : BitVec 5) : Laws.Encoding.Statement (.div d a b) :=
  seq_law _ _ rfl fun hw => by
    have hm : (BitVec.extractLsb' 26 6 (0#6 ++ d ++ a ++ b ++ 11#11 : BitVec 32)).toNat = 0 := by
      simp (disch := decide) only [ext_hi, ext_lo, ext_all, Nat.reduceSub]; rfl
    unfold decodeSeq
    rw [hm]
    show decodeAlu _ = _
    have hf : (BitVec.extractLsb' 0 11 (0#6 ++ d ++ a ++ b ++ 11#11 : BitVec 32)).toNat = 11 := by
      simp (disch := decide) only [ext_hi, ext_lo, ext_all, Nat.reduceSub]; rfl
    unfold decodeAlu
    rw [hf]
    simp (disch := decide) only [ext_hi, ext_lo, ext_all, Nat.reduceSub, if_true, if_false, Bool.false_eq_true]

theorem Laws.Encoding.divu (d : BitVec 5) (a : BitVec 5) (b : BitVec 5) : Laws.Encoding.Statement (.divu d a b) :=
  seq_law _ _ rfl fun hw => by
    have hm : (BitVec.extractLsb' 26 6 (0#6 ++ d ++ a ++ b ++ 12#11 : BitVec 32)).toNat = 0 := by
      simp (disch := decide) only [ext_hi, ext_lo, ext_all, Nat.reduceSub]; rfl
    unfold decodeSeq
    rw [hm]
    show decodeAlu _ = _
    have hf : (BitVec.extractLsb' 0 11 (0#6 ++ d ++ a ++ b ++ 12#11 : BitVec 32)).toNat = 12 := by
      simp (disch := decide) only [ext_hi, ext_lo, ext_all, Nat.reduceSub]; rfl
    unfold decodeAlu
    rw [hf]
    simp (disch := decide) only [ext_hi, ext_lo, ext_all, Nat.reduceSub, if_true, if_false, Bool.false_eq_true]

theorem Laws.Encoding.rem (d : BitVec 5) (a : BitVec 5) (b : BitVec 5) : Laws.Encoding.Statement (.rem d a b) :=
  seq_law _ _ rfl fun hw => by
    have hm : (BitVec.extractLsb' 26 6 (0#6 ++ d ++ a ++ b ++ 13#11 : BitVec 32)).toNat = 0 := by
      simp (disch := decide) only [ext_hi, ext_lo, ext_all, Nat.reduceSub]; rfl
    unfold decodeSeq
    rw [hm]
    show decodeAlu _ = _
    have hf : (BitVec.extractLsb' 0 11 (0#6 ++ d ++ a ++ b ++ 13#11 : BitVec 32)).toNat = 13 := by
      simp (disch := decide) only [ext_hi, ext_lo, ext_all, Nat.reduceSub]; rfl
    unfold decodeAlu
    rw [hf]
    simp (disch := decide) only [ext_hi, ext_lo, ext_all, Nat.reduceSub, if_true, if_false, Bool.false_eq_true]

theorem Laws.Encoding.remu (d : BitVec 5) (a : BitVec 5) (b : BitVec 5) : Laws.Encoding.Statement (.remu d a b) :=
  seq_law _ _ rfl fun hw => by
    have hm : (BitVec.extractLsb' 26 6 (0#6 ++ d ++ a ++ b ++ 14#11 : BitVec 32)).toNat = 0 := by
      simp (disch := decide) only [ext_hi, ext_lo, ext_all, Nat.reduceSub]; rfl
    unfold decodeSeq
    rw [hm]
    show decodeAlu _ = _
    have hf : (BitVec.extractLsb' 0 11 (0#6 ++ d ++ a ++ b ++ 14#11 : BitVec 32)).toNat = 14 := by
      simp (disch := decide) only [ext_hi, ext_lo, ext_all, Nat.reduceSub]; rfl
    unfold decodeAlu
    rw [hf]
    simp (disch := decide) only [ext_hi, ext_lo, ext_all, Nat.reduceSub, if_true, if_false, Bool.false_eq_true]

theorem Laws.Encoding.seqMin (d : BitVec 5) (a : BitVec 5) (b : BitVec 5) : Laws.Encoding.Statement (.seqMin d a b) :=
  seq_law _ _ rfl fun hw => by
    have hm : (BitVec.extractLsb' 26 6 (0#6 ++ d ++ a ++ b ++ 15#11 : BitVec 32)).toNat = 0 := by
      simp (disch := decide) only [ext_hi, ext_lo, ext_all, Nat.reduceSub]; rfl
    unfold decodeSeq
    rw [hm]
    show decodeAlu _ = _
    have hf : (BitVec.extractLsb' 0 11 (0#6 ++ d ++ a ++ b ++ 15#11 : BitVec 32)).toNat = 15 := by
      simp (disch := decide) only [ext_hi, ext_lo, ext_all, Nat.reduceSub]; rfl
    unfold decodeAlu
    rw [hf]
    simp (disch := decide) only [ext_hi, ext_lo, ext_all, Nat.reduceSub, if_true, if_false, Bool.false_eq_true]

theorem Laws.Encoding.seqMax (d : BitVec 5) (a : BitVec 5) (b : BitVec 5) : Laws.Encoding.Statement (.seqMax d a b) :=
  seq_law _ _ rfl fun hw => by
    have hm : (BitVec.extractLsb' 26 6 (0#6 ++ d ++ a ++ b ++ 16#11 : BitVec 32)).toNat = 0 := by
      simp (disch := decide) only [ext_hi, ext_lo, ext_all, Nat.reduceSub]; rfl
    unfold decodeSeq
    rw [hm]
    show decodeAlu _ = _
    have hf : (BitVec.extractLsb' 0 11 (0#6 ++ d ++ a ++ b ++ 16#11 : BitVec 32)).toNat = 16 := by
      simp (disch := decide) only [ext_hi, ext_lo, ext_all, Nat.reduceSub]; rfl
    unfold decodeAlu
    rw [hf]
    simp (disch := decide) only [ext_hi, ext_lo, ext_all, Nat.reduceSub, if_true, if_false, Bool.false_eq_true]

theorem Laws.Encoding.seqMinu (d : BitVec 5) (a : BitVec 5) (b : BitVec 5) : Laws.Encoding.Statement (.seqMinu d a b) :=
  seq_law _ _ rfl fun hw => by
    have hm : (BitVec.extractLsb' 26 6 (0#6 ++ d ++ a ++ b ++ 17#11 : BitVec 32)).toNat = 0 := by
      simp (disch := decide) only [ext_hi, ext_lo, ext_all, Nat.reduceSub]; rfl
    unfold decodeSeq
    rw [hm]
    show decodeAlu _ = _
    have hf : (BitVec.extractLsb' 0 11 (0#6 ++ d ++ a ++ b ++ 17#11 : BitVec 32)).toNat = 17 := by
      simp (disch := decide) only [ext_hi, ext_lo, ext_all, Nat.reduceSub]; rfl
    unfold decodeAlu
    rw [hf]
    simp (disch := decide) only [ext_hi, ext_lo, ext_all, Nat.reduceSub, if_true, if_false, Bool.false_eq_true]

theorem Laws.Encoding.seqMaxu (d : BitVec 5) (a : BitVec 5) (b : BitVec 5) : Laws.Encoding.Statement (.seqMaxu d a b) :=
  seq_law _ _ rfl fun hw => by
    have hm : (BitVec.extractLsb' 26 6 (0#6 ++ d ++ a ++ b ++ 18#11 : BitVec 32)).toNat = 0 := by
      simp (disch := decide) only [ext_hi, ext_lo, ext_all, Nat.reduceSub]; rfl
    unfold decodeSeq
    rw [hm]
    show decodeAlu _ = _
    have hf : (BitVec.extractLsb' 0 11 (0#6 ++ d ++ a ++ b ++ 18#11 : BitVec 32)).toNat = 18 := by
      simp (disch := decide) only [ext_hi, ext_lo, ext_all, Nat.reduceSub]; rfl
    unfold decodeAlu
    rw [hf]
    simp (disch := decide) only [ext_hi, ext_lo, ext_all, Nat.reduceSub, if_true, if_false, Bool.false_eq_true]

theorem Laws.Encoding.slt (d : BitVec 5) (a : BitVec 5) (b : BitVec 5) : Laws.Encoding.Statement (.slt d a b) :=
  seq_law _ _ rfl fun hw => by
    have hm : (BitVec.extractLsb' 26 6 (0#6 ++ d ++ a ++ b ++ 19#11 : BitVec 32)).toNat = 0 := by
      simp (disch := decide) only [ext_hi, ext_lo, ext_all, Nat.reduceSub]; rfl
    unfold decodeSeq
    rw [hm]
    show decodeAlu _ = _
    have hf : (BitVec.extractLsb' 0 11 (0#6 ++ d ++ a ++ b ++ 19#11 : BitVec 32)).toNat = 19 := by
      simp (disch := decide) only [ext_hi, ext_lo, ext_all, Nat.reduceSub]; rfl
    unfold decodeAlu
    rw [hf]
    simp (disch := decide) only [ext_hi, ext_lo, ext_all, Nat.reduceSub, if_true, if_false, Bool.false_eq_true]

theorem Laws.Encoding.sltu (d : BitVec 5) (a : BitVec 5) (b : BitVec 5) : Laws.Encoding.Statement (.sltu d a b) :=
  seq_law _ _ rfl fun hw => by
    have hm : (BitVec.extractLsb' 26 6 (0#6 ++ d ++ a ++ b ++ 20#11 : BitVec 32)).toNat = 0 := by
      simp (disch := decide) only [ext_hi, ext_lo, ext_all, Nat.reduceSub]; rfl
    unfold decodeSeq
    rw [hm]
    show decodeAlu _ = _
    have hf : (BitVec.extractLsb' 0 11 (0#6 ++ d ++ a ++ b ++ 20#11 : BitVec 32)).toNat = 20 := by
      simp (disch := decide) only [ext_hi, ext_lo, ext_all, Nat.reduceSub]; rfl
    unfold decodeAlu
    rw [hf]
    simp (disch := decide) only [ext_hi, ext_lo, ext_all, Nat.reduceSub, if_true, if_false, Bool.false_eq_true]

theorem Laws.Encoding.seqClz (d : BitVec 5) (a : BitVec 5) : Laws.Encoding.Statement (.seqClz d a) :=
  seq_law _ _ rfl fun hw => by
    have hm : (BitVec.extractLsb' 26 6 (0#6 ++ d ++ a ++ 21#16 : BitVec 32)).toNat = 0 := by
      simp (disch := decide) only [ext_hi, ext_lo, ext_all, Nat.reduceSub]; rfl
    unfold decodeSeq
    rw [hm]
    show decodeAlu _ = _
    have hf : (BitVec.extractLsb' 0 11 (0#6 ++ d ++ a ++ 21#16 : BitVec 32)).toNat = 21 := by
      simp (disch := decide) only [ext_lo]; rfl
    unfold decodeAlu
    rw [hf]
    have t0 : ((0#6 ++ d ++ a ++ 21#16 : BitVec 32) &&& 4227923967#32 == 21#32) = true := by
      rw [show (4227923967#32) = 63#6 ++ 0#5 ++ 0#5 ++ 65535#16 from rfl]
      rw [BitVec.and_append, BitVec.and_append, BitVec.and_append]
      simp only [BitVec.and_zero]
      decide
    simp (disch := decide) only [t0, ext_hi, ext_lo, ext_all, Nat.reduceSub, if_true, if_false, Bool.false_eq_true]

theorem Laws.Encoding.seqPopc (d : BitVec 5) (a : BitVec 5) : Laws.Encoding.Statement (.seqPopc d a) :=
  seq_law _ _ rfl fun hw => by
    have hm : (BitVec.extractLsb' 26 6 (0#6 ++ d ++ a ++ 22#16 : BitVec 32)).toNat = 0 := by
      simp (disch := decide) only [ext_hi, ext_lo, ext_all, Nat.reduceSub]; rfl
    unfold decodeSeq
    rw [hm]
    show decodeAlu _ = _
    have hf : (BitVec.extractLsb' 0 11 (0#6 ++ d ++ a ++ 22#16 : BitVec 32)).toNat = 22 := by
      simp (disch := decide) only [ext_lo]; rfl
    unfold decodeAlu
    rw [hf]
    have t0 : ((0#6 ++ d ++ a ++ 22#16 : BitVec 32) &&& 4227923967#32 == 22#32) = true := by
      rw [show (4227923967#32) = 63#6 ++ 0#5 ++ 0#5 ++ 65535#16 from rfl]
      rw [BitVec.and_append, BitVec.and_append, BitVec.and_append]
      simp only [BitVec.and_zero]
      decide
    simp (disch := decide) only [t0, ext_hi, ext_lo, ext_all, Nat.reduceSub, if_true, if_false, Bool.false_eq_true]

theorem Laws.Encoding.seqAddi (d : BitVec 5) (a : BitVec 5) (i : BitVec 16) : Laws.Encoding.Statement (.seqAddi d a i) :=
  seq_law _ _ rfl fun hw => by
    have hm : (BitVec.extractLsb' 26 6 (1#6 ++ d ++ a ++ i : BitVec 32)).toNat = 1 := by
      simp (disch := decide) only [ext_hi, ext_lo, ext_all, Nat.reduceSub]; rfl
    unfold decodeSeq
    rw [hm]
    simp (disch := decide) only [ext_hi, ext_lo, ext_all, Nat.reduceSub, if_true, if_false, Bool.false_eq_true]

theorem Laws.Encoding.seqAndi (d : BitVec 5) (a : BitVec 5) (i : BitVec 16) : Laws.Encoding.Statement (.seqAndi d a i) :=
  seq_law _ _ rfl fun hw => by
    have hm : (BitVec.extractLsb' 26 6 (2#6 ++ d ++ a ++ i : BitVec 32)).toNat = 2 := by
      simp (disch := decide) only [ext_hi, ext_lo, ext_all, Nat.reduceSub]; rfl
    unfold decodeSeq
    rw [hm]
    simp (disch := decide) only [ext_hi, ext_lo, ext_all, Nat.reduceSub, if_true, if_false, Bool.false_eq_true]

theorem Laws.Encoding.seqOri (d : BitVec 5) (a : BitVec 5) (i : BitVec 16) : Laws.Encoding.Statement (.seqOri d a i) :=
  seq_law _ _ rfl fun hw => by
    have hm : (BitVec.extractLsb' 26 6 (3#6 ++ d ++ a ++ i : BitVec 32)).toNat = 3 := by
      simp (disch := decide) only [ext_hi, ext_lo, ext_all, Nat.reduceSub]; rfl
    unfold decodeSeq
    rw [hm]
    simp (disch := decide) only [ext_hi, ext_lo, ext_all, Nat.reduceSub, if_true, if_false, Bool.false_eq_true]

theorem Laws.Encoding.seqXori (d : BitVec 5) (a : BitVec 5) (i : BitVec 16) : Laws.Encoding.Statement (.seqXori d a i) :=
  seq_law _ _ rfl fun hw => by
    have hm : (BitVec.extractLsb' 26 6 (4#6 ++ d ++ a ++ i : BitVec 32)).toNat = 4 := by
      simp (disch := decide) only [ext_hi, ext_lo, ext_all, Nat.reduceSub]; rfl
    unfold decodeSeq
    rw [hm]
    simp (disch := decide) only [ext_hi, ext_lo, ext_all, Nat.reduceSub, if_true, if_false, Bool.false_eq_true]

theorem Laws.Encoding.seqShli (d : BitVec 5) (a : BitVec 5) (n : BitVec 6) : Laws.Encoding.Statement (.seqShli d a n) :=
  seq_law _ _ rfl fun hw => by
    have hm : (BitVec.extractLsb' 26 6 (5#6 ++ d ++ a ++ 0#10 ++ n : BitVec 32)).toNat = 5 := by
      simp (disch := decide) only [ext_hi, ext_lo, ext_all, Nat.reduceSub]; rfl
    unfold decodeSeq
    rw [hm]
    have t0 : ((5#6 ++ d ++ a ++ 0#10 ++ n : BitVec 32) &&& 4227923904#32 == 335544320#32) = true := by
      rw [show (4227923904#32) = 63#6 ++ 0#5 ++ 0#5 ++ 1023#10 ++ 0#6 from rfl]
      rw [BitVec.and_append, BitVec.and_append, BitVec.and_append, BitVec.and_append]
      simp only [BitVec.and_zero]
      decide
    simp (disch := decide) only [t0, ext_hi, ext_lo, ext_all, Nat.reduceSub, if_true, if_false, Bool.false_eq_true]

theorem Laws.Encoding.seqShri (d : BitVec 5) (a : BitVec 5) (n : BitVec 6) : Laws.Encoding.Statement (.seqShri d a n) :=
  seq_law _ _ rfl fun hw => by
    have hm : (BitVec.extractLsb' 26 6 (5#6 ++ d ++ a ++ 1#10 ++ n : BitVec 32)).toNat = 5 := by
      simp (disch := decide) only [ext_hi, ext_lo, ext_all, Nat.reduceSub]; rfl
    unfold decodeSeq
    rw [hm]
    have t0 : ((5#6 ++ d ++ a ++ 1#10 ++ n : BitVec 32) &&& 4227923904#32 == 335544320#32) = false := by
      rw [show (4227923904#32) = 63#6 ++ 0#5 ++ 0#5 ++ 1023#10 ++ 0#6 from rfl]
      rw [BitVec.and_append, BitVec.and_append, BitVec.and_append, BitVec.and_append]
      simp only [BitVec.and_zero]
      decide
    have t1 : ((5#6 ++ d ++ a ++ 1#10 ++ n : BitVec 32) &&& 4227923904#32 == 335544384#32) = true := by
      rw [show (4227923904#32) = 63#6 ++ 0#5 ++ 0#5 ++ 1023#10 ++ 0#6 from rfl]
      rw [BitVec.and_append, BitVec.and_append, BitVec.and_append, BitVec.and_append]
      simp only [BitVec.and_zero]
      decide
    simp (disch := decide) only [t0, t1, ext_hi, ext_lo, ext_all, Nat.reduceSub, if_true, if_false, Bool.false_eq_true]

theorem Laws.Encoding.seqSari (d : BitVec 5) (a : BitVec 5) (n : BitVec 6) : Laws.Encoding.Statement (.seqSari d a n) :=
  seq_law _ _ rfl fun hw => by
    have hm : (BitVec.extractLsb' 26 6 (5#6 ++ d ++ a ++ 2#10 ++ n : BitVec 32)).toNat = 5 := by
      simp (disch := decide) only [ext_hi, ext_lo, ext_all, Nat.reduceSub]; rfl
    unfold decodeSeq
    rw [hm]
    have t0 : ((5#6 ++ d ++ a ++ 2#10 ++ n : BitVec 32) &&& 4227923904#32 == 335544320#32) = false := by
      rw [show (4227923904#32) = 63#6 ++ 0#5 ++ 0#5 ++ 1023#10 ++ 0#6 from rfl]
      rw [BitVec.and_append, BitVec.and_append, BitVec.and_append, BitVec.and_append]
      simp only [BitVec.and_zero]
      decide
    have t1 : ((5#6 ++ d ++ a ++ 2#10 ++ n : BitVec 32) &&& 4227923904#32 == 335544384#32) = false := by
      rw [show (4227923904#32) = 63#6 ++ 0#5 ++ 0#5 ++ 1023#10 ++ 0#6 from rfl]
      rw [BitVec.and_append, BitVec.and_append, BitVec.and_append, BitVec.and_append]
      simp only [BitVec.and_zero]
      decide
    have t2 : ((5#6 ++ d ++ a ++ 2#10 ++ n : BitVec 32) &&& 4227923904#32 == 335544448#32) = true := by
      rw [show (4227923904#32) = 63#6 ++ 0#5 ++ 0#5 ++ 1023#10 ++ 0#6 from rfl]
      rw [BitVec.and_append, BitVec.and_append, BitVec.and_append, BitVec.and_append]
      simp only [BitVec.and_zero]
      decide
    simp (disch := decide) only [t0, t1, t2, ext_hi, ext_lo, ext_all, Nat.reduceSub, if_true, if_false, Bool.false_eq_true]

theorem Laws.Encoding.slti (d : BitVec 5) (a : BitVec 5) (i : BitVec 16) : Laws.Encoding.Statement (.slti d a i) :=
  seq_law _ _ rfl fun hw => by
    have hm : (BitVec.extractLsb' 26 6 (6#6 ++ d ++ a ++ i : BitVec 32)).toNat = 6 := by
      simp (disch := decide) only [ext_hi, ext_lo, ext_all, Nat.reduceSub]; rfl
    unfold decodeSeq
    rw [hm]
    simp (disch := decide) only [ext_hi, ext_lo, ext_all, Nat.reduceSub, if_true, if_false, Bool.false_eq_true]

theorem Laws.Encoding.lhi (d : BitVec 5) (i : BitVec 16) : Laws.Encoding.Statement (.lhi d i) :=
  seq_law _ _ rfl fun hw => by
    have hm : (BitVec.extractLsb' 26 6 (7#6 ++ d ++ 0#5 ++ i : BitVec 32)).toNat = 7 := by
      simp (disch := decide) only [ext_hi, ext_lo, ext_all, Nat.reduceSub]; rfl
    unfold decodeSeq
    rw [hm]
    have t0 : ((7#6 ++ d ++ 0#5 ++ i : BitVec 32) &&& 4229890048#32 == 469762048#32) = true := by
      rw [show (4229890048#32) = 63#6 ++ 0#5 ++ 31#5 ++ 0#16 from rfl]
      rw [BitVec.and_append, BitVec.and_append, BitVec.and_append]
      simp only [BitVec.and_zero]
      decide
    simp (disch := decide) only [t0, ext_hi, ext_lo, ext_all, Nat.reduceSub, if_true, if_false, Bool.false_eq_true]

theorem Laws.Encoding.ldl (d : BitVec 5) (i : BitVec 16) : Laws.Encoding.Statement (.ldl d i) :=
  seq_law _ _ rfl fun hw => by
    have hm : (BitVec.extractLsb' 26 6 (8#6 ++ d ++ 0#5 ++ i : BitVec 32)).toNat = 8 := by
      simp (disch := decide) only [ext_hi, ext_lo, ext_all, Nat.reduceSub]; rfl
    unfold decodeSeq
    rw [hm]
    have t0 : ((8#6 ++ d ++ 0#5 ++ i : BitVec 32) &&& 4229890048#32 == 536870912#32) = true := by
      rw [show (4229890048#32) = 63#6 ++ 0#5 ++ 31#5 ++ 0#16 from rfl]
      rw [BitVec.and_append, BitVec.and_append, BitVec.and_append]
      simp only [BitVec.and_zero]
      decide
    simp (disch := decide) only [t0, ext_hi, ext_lo, ext_all, Nat.reduceSub, if_true, if_false, Bool.false_eq_true]

theorem Laws.Encoding.ldb (d : BitVec 5) (a : BitVec 5) (i : BitVec 16) : Laws.Encoding.Statement (.ldb d a i) :=
  seq_law _ _ rfl fun hw => by
    have hm : (BitVec.extractLsb' 26 6 (9#6 ++ d ++ a ++ i : BitVec 32)).toNat = 9 := by
      simp (disch := decide) only [ext_hi, ext_lo, ext_all, Nat.reduceSub]; rfl
    unfold decodeSeq
    rw [hm]
    simp (disch := decide) only [ext_hi, ext_lo, ext_all, Nat.reduceSub, if_true, if_false, Bool.false_eq_true]

theorem Laws.Encoding.ldh (d : BitVec 5) (a : BitVec 5) (i : BitVec 16) : Laws.Encoding.Statement (.ldh d a i) :=
  seq_law _ _ rfl fun hw => by
    have hm : (BitVec.extractLsb' 26 6 (10#6 ++ d ++ a ++ i : BitVec 32)).toNat = 10 := by
      simp (disch := decide) only [ext_hi, ext_lo, ext_all, Nat.reduceSub]; rfl
    unfold decodeSeq
    rw [hm]
    simp (disch := decide) only [ext_hi, ext_lo, ext_all, Nat.reduceSub, if_true, if_false, Bool.false_eq_true]

theorem Laws.Encoding.ldw (d : BitVec 5) (a : BitVec 5) (i : BitVec 16) : Laws.Encoding.Statement (.ldw d a i) :=
  seq_law _ _ rfl fun hw => by
    have hm : (BitVec.extractLsb' 26 6 (11#6 ++ d ++ a ++ i : BitVec 32)).toNat = 11 := by
      simp (disch := decide) only [ext_hi, ext_lo, ext_all, Nat.reduceSub]; rfl
    unfold decodeSeq
    rw [hm]
    simp (disch := decide) only [ext_hi, ext_lo, ext_all, Nat.reduceSub, if_true, if_false, Bool.false_eq_true]

theorem Laws.Encoding.ldd (d : BitVec 5) (a : BitVec 5) (i : BitVec 16) : Laws.Encoding.Statement (.ldd d a i) :=
  seq_law _ _ rfl fun hw => by
    have hm : (BitVec.extractLsb' 26 6 (12#6 ++ d ++ a ++ i : BitVec 32)).toNat = 12 := by
      simp (disch := decide) only [ext_hi, ext_lo, ext_all, Nat.reduceSub]; rfl
    unfold decodeSeq
    rw [hm]
    simp (disch := decide) only [ext_hi, ext_lo, ext_all, Nat.reduceSub, if_true, if_false, Bool.false_eq_true]

theorem Laws.Encoding.stb (d : BitVec 5) (a : BitVec 5) (i : BitVec 16) : Laws.Encoding.Statement (.stb d a i) :=
  seq_law _ _ rfl fun hw => by
    have hm : (BitVec.extractLsb' 26 6 (13#6 ++ d ++ a ++ i : BitVec 32)).toNat = 13 := by
      simp (disch := decide) only [ext_hi, ext_lo, ext_all, Nat.reduceSub]; rfl
    unfold decodeSeq
    rw [hm]
    simp (disch := decide) only [ext_hi, ext_lo, ext_all, Nat.reduceSub, if_true, if_false, Bool.false_eq_true]

theorem Laws.Encoding.sth (d : BitVec 5) (a : BitVec 5) (i : BitVec 16) : Laws.Encoding.Statement (.sth d a i) :=
  seq_law _ _ rfl fun hw => by
    have hm : (BitVec.extractLsb' 26 6 (14#6 ++ d ++ a ++ i : BitVec 32)).toNat = 14 := by
      simp (disch := decide) only [ext_hi, ext_lo, ext_all, Nat.reduceSub]; rfl
    unfold decodeSeq
    rw [hm]
    simp (disch := decide) only [ext_hi, ext_lo, ext_all, Nat.reduceSub, if_true, if_false, Bool.false_eq_true]

theorem Laws.Encoding.stw (d : BitVec 5) (a : BitVec 5) (i : BitVec 16) : Laws.Encoding.Statement (.stw d a i) :=
  seq_law _ _ rfl fun hw => by
    have hm : (BitVec.extractLsb' 26 6 (15#6 ++ d ++ a ++ i : BitVec 32)).toNat = 15 := by
      simp (disch := decide) only [ext_hi, ext_lo, ext_all, Nat.reduceSub]; rfl
    unfold decodeSeq
    rw [hm]
    simp (disch := decide) only [ext_hi, ext_lo, ext_all, Nat.reduceSub, if_true, if_false, Bool.false_eq_true]

theorem Laws.Encoding.std (d : BitVec 5) (a : BitVec 5) (i : BitVec 16) : Laws.Encoding.Statement (.std d a i) :=
  seq_law _ _ rfl fun hw => by
    have hm : (BitVec.extractLsb' 26 6 (16#6 ++ d ++ a ++ i : BitVec 32)).toNat = 16 := by
      simp (disch := decide) only [ext_hi, ext_lo, ext_all, Nat.reduceSub]; rfl
    unfold decodeSeq
    rw [hm]
    simp (disch := decide) only [ext_hi, ext_lo, ext_all, Nat.reduceSub, if_true, if_false, Bool.false_eq_true]

theorem Laws.Encoding.seqAtom (d : BitVec 5) (a : BitVec 5) (b : BitVec 5) (c : BitVec 3) (z : BitVec 2) (o : BitVec 4) : Laws.Encoding.Statement (.seqAtom d a b c z o) :=
  seq_law _ _ rfl fun hw => by
    have hm : (BitVec.extractLsb' 26 6 (17#6 ++ d ++ a ++ b ++ 0#2 ++ c ++ z ++ o : BitVec 32)).toNat = 17 := by
      simp (disch := decide) only [ext_hi, ext_lo, ext_all, Nat.reduceSub]; rfl
    unfold decodeSeq
    rw [hm]
    have t0 : ((17#6 ++ d ++ a ++ b ++ 0#2 ++ c ++ z ++ o : BitVec 32) &&& 4227859968#32 == 1140850688#32) = true := by
      rw [show (4227859968#32) = 63#6 ++ 0#5 ++ 0#5 ++ 0#5 ++ 3#2 ++ 0#3 ++ 0#2 ++ 0#4 from rfl]
      rw [BitVec.and_append, BitVec.and_append, BitVec.and_append, BitVec.and_append, BitVec.and_append, BitVec.and_append, BitVec.and_append]
      simp only [BitVec.and_zero]
      decide
    have ho : ¬ 10 ≤ o.toNat := by
      have := of_decide_eq_true (show decide (o.toNat ≤ 9) = true from hw)
      omega
    simp (disch := decide) only [t0, ho, ext_hi, ext_lo, ext_all, Nat.reduceSub, if_true, if_false, Bool.false_eq_true]

theorem Laws.Encoding.seqFenceFull (s : BitVec 3) : Laws.Encoding.Statement (.seqFenceFull s) :=
  seq_law _ _ rfl fun hw => by
    have hm : (BitVec.extractLsb' 26 6 (150994944#29 ++ s : BitVec 32)).toNat = 18 := by
      simp (disch := decide) only [ext_hi, ext_lo, ext_all, Nat.reduceSub]; rfl
    unfold decodeSeq
    rw [hm]
    have t0 : ((150994944#29 ++ s : BitVec 32) &&& 4294967288#32 == 1207959552#32) = true := by
      rw [show (4294967288#32) = 536870911#29 ++ 0#3 from rfl]
      rw [BitVec.and_append]
      simp only [BitVec.and_zero]
      decide
    simp (disch := decide) only [t0, ext_hi, ext_lo, ext_all, Nat.reduceSub, if_true, if_false, Bool.false_eq_true]

theorem Laws.Encoding.seqFenceRel (s : BitVec 3) : Laws.Encoding.Statement (.seqFenceRel s) :=
  seq_law _ _ rfl fun hw => by
    have hm : (BitVec.extractLsb' 26 6 (150994945#29 ++ s : BitVec 32)).toNat = 18 := by
      simp (disch := decide) only [ext_hi, ext_lo, ext_all, Nat.reduceSub]; rfl
    unfold decodeSeq
    rw [hm]
    have t0 : ((150994945#29 ++ s : BitVec 32) &&& 4294967288#32 == 1207959552#32) = false := by
      rw [show (4294967288#32) = 536870911#29 ++ 0#3 from rfl]
      rw [BitVec.and_append]
      simp only [BitVec.and_zero]
      decide
    have t1 : ((150994945#29 ++ s : BitVec 32) &&& 4294967288#32 == 1207959560#32) = true := by
      rw [show (4294967288#32) = 536870911#29 ++ 0#3 from rfl]
      rw [BitVec.and_append]
      simp only [BitVec.and_zero]
      decide
    simp (disch := decide) only [t0, t1, ext_hi, ext_lo, ext_all, Nat.reduceSub, if_true, if_false, Bool.false_eq_true]

theorem Laws.Encoding.seqFenceAcq (s : BitVec 3) : Laws.Encoding.Statement (.seqFenceAcq s) :=
  seq_law _ _ rfl fun hw => by
    have hm : (BitVec.extractLsb' 26 6 (150994946#29 ++ s : BitVec 32)).toNat = 18 := by
      simp (disch := decide) only [ext_hi, ext_lo, ext_all, Nat.reduceSub]; rfl
    unfold decodeSeq
    rw [hm]
    have t0 : ((150994946#29 ++ s : BitVec 32) &&& 4294967288#32 == 1207959552#32) = false := by
      rw [show (4294967288#32) = 536870911#29 ++ 0#3 from rfl]
      rw [BitVec.and_append]
      simp only [BitVec.and_zero]
      decide
    have t1 : ((150994946#29 ++ s : BitVec 32) &&& 4294967288#32 == 1207959560#32) = false := by
      rw [show (4294967288#32) = 536870911#29 ++ 0#3 from rfl]
      rw [BitVec.and_append]
      simp only [BitVec.and_zero]
      decide
    have t2 : ((150994946#29 ++ s : BitVec 32) &&& 4294967288#32 == 1207959568#32) = true := by
      rw [show (4294967288#32) = 536870911#29 ++ 0#3 from rfl]
      rw [BitVec.and_append]
      simp only [BitVec.and_zero]
      decide
    simp (disch := decide) only [t0, t1, t2, ext_hi, ext_lo, ext_all, Nat.reduceSub, if_true, if_false, Bool.false_eq_true]

theorem Laws.Encoding.beq (a : BitVec 5) (b : BitVec 5) (o : BitVec 16) : Laws.Encoding.Statement (.beq a b o) :=
  seq_law _ _ rfl fun hw => by
    have hm : (BitVec.extractLsb' 26 6 (19#6 ++ a ++ b ++ o : BitVec 32)).toNat = 19 := by
      simp (disch := decide) only [ext_hi, ext_lo, ext_all, Nat.reduceSub]; rfl
    unfold decodeSeq
    rw [hm]
    simp (disch := decide) only [ext_hi, ext_lo, ext_all, Nat.reduceSub, if_true, if_false, Bool.false_eq_true]

theorem Laws.Encoding.bne (a : BitVec 5) (b : BitVec 5) (o : BitVec 16) : Laws.Encoding.Statement (.bne a b o) :=
  seq_law _ _ rfl fun hw => by
    have hm : (BitVec.extractLsb' 26 6 (20#6 ++ a ++ b ++ o : BitVec 32)).toNat = 20 := by
      simp (disch := decide) only [ext_hi, ext_lo, ext_all, Nat.reduceSub]; rfl
    unfold decodeSeq
    rw [hm]
    simp (disch := decide) only [ext_hi, ext_lo, ext_all, Nat.reduceSub, if_true, if_false, Bool.false_eq_true]

theorem Laws.Encoding.blt (a : BitVec 5) (b : BitVec 5) (o : BitVec 16) : Laws.Encoding.Statement (.blt a b o) :=
  seq_law _ _ rfl fun hw => by
    have hm : (BitVec.extractLsb' 26 6 (21#6 ++ a ++ b ++ o : BitVec 32)).toNat = 21 := by
      simp (disch := decide) only [ext_hi, ext_lo, ext_all, Nat.reduceSub]; rfl
    unfold decodeSeq
    rw [hm]
    simp (disch := decide) only [ext_hi, ext_lo, ext_all, Nat.reduceSub, if_true, if_false, Bool.false_eq_true]

theorem Laws.Encoding.bge (a : BitVec 5) (b : BitVec 5) (o : BitVec 16) : Laws.Encoding.Statement (.bge a b o) :=
  seq_law _ _ rfl fun hw => by
    have hm : (BitVec.extractLsb' 26 6 (22#6 ++ a ++ b ++ o : BitVec 32)).toNat = 22 := by
      simp (disch := decide) only [ext_hi, ext_lo, ext_all, Nat.reduceSub]; rfl
    unfold decodeSeq
    rw [hm]
    simp (disch := decide) only [ext_hi, ext_lo, ext_all, Nat.reduceSub, if_true, if_false, Bool.false_eq_true]

theorem Laws.Encoding.bltu (a : BitVec 5) (b : BitVec 5) (o : BitVec 16) : Laws.Encoding.Statement (.bltu a b o) :=
  seq_law _ _ rfl fun hw => by
    have hm : (BitVec.extractLsb' 26 6 (23#6 ++ a ++ b ++ o : BitVec 32)).toNat = 23 := by
      simp (disch := decide) only [ext_hi, ext_lo, ext_all, Nat.reduceSub]; rfl
    unfold decodeSeq
    rw [hm]
    simp (disch := decide) only [ext_hi, ext_lo, ext_all, Nat.reduceSub, if_true, if_false, Bool.false_eq_true]

theorem Laws.Encoding.bgeu (a : BitVec 5) (b : BitVec 5) (o : BitVec 16) : Laws.Encoding.Statement (.bgeu a b o) :=
  seq_law _ _ rfl fun hw => by
    have hm : (BitVec.extractLsb' 26 6 (24#6 ++ a ++ b ++ o : BitVec 32)).toNat = 24 := by
      simp (disch := decide) only [ext_hi, ext_lo, ext_all, Nat.reduceSub]; rfl
    unfold decodeSeq
    rw [hm]
    simp (disch := decide) only [ext_hi, ext_lo, ext_all, Nat.reduceSub, if_true, if_false, Bool.false_eq_true]

theorem Laws.Encoding.jmp (o : BitVec 26) : Laws.Encoding.Statement (.jmp o) :=
  seq_law _ _ rfl fun hw => by
    have hm : (BitVec.extractLsb' 26 6 (25#6 ++ o : BitVec 32)).toNat = 25 := by
      simp (disch := decide) only [ext_hi, ext_lo, ext_all, Nat.reduceSub]; rfl
    unfold decodeSeq
    rw [hm]
    simp (disch := decide) only [ext_hi, ext_lo, ext_all, Nat.reduceSub, if_true, if_false, Bool.false_eq_true]

theorem Laws.Encoding.jal (o : BitVec 26) : Laws.Encoding.Statement (.jal o) :=
  seq_law _ _ rfl fun hw => by
    have hm : (BitVec.extractLsb' 26 6 (26#6 ++ o : BitVec 32)).toNat = 26 := by
      simp (disch := decide) only [ext_hi, ext_lo, ext_all, Nat.reduceSub]; rfl
    unfold decodeSeq
    rw [hm]
    simp (disch := decide) only [ext_hi, ext_lo, ext_all, Nat.reduceSub, if_true, if_false, Bool.false_eq_true]

theorem Laws.Encoding.jr (d : BitVec 5) (a : BitVec 5) : Laws.Encoding.Statement (.jr d a) :=
  seq_law _ _ rfl fun hw => by
    have hm : (BitVec.extractLsb' 26 6 (27#6 ++ d ++ a ++ 0#16 : BitVec 32)).toNat = 27 := by
      simp (disch := decide) only [ext_hi, ext_lo, ext_all, Nat.reduceSub]; rfl
    unfold decodeSeq
    rw [hm]
    have t0 : ((27#6 ++ d ++ a ++ 0#16 : BitVec 32) &&& 4227923967#32 == 1811939328#32) = true := by
      rw [show (4227923967#32) = 63#6 ++ 0#5 ++ 0#5 ++ 65535#16 from rfl]
      rw [BitVec.and_append, BitVec.and_append, BitVec.and_append]
      simp only [BitVec.and_zero]
      decide
    simp (disch := decide) only [t0, ext_hi, ext_lo, ext_all, Nat.reduceSub, if_true, if_false, Bool.false_eq_true]

theorem Laws.Encoding.getc (d : BitVec 5) (n : BitVec 12) : Laws.Encoding.Statement (.getc d n) :=
  seq_law _ _ rfl fun hw => by
    have hm : (BitVec.extractLsb' 26 6 (28#6 ++ d ++ 0#9 ++ n : BitVec 32)).toNat = 28 := by
      simp (disch := decide) only [ext_hi, ext_lo, ext_all, Nat.reduceSub]; rfl
    unfold decodeSeq
    rw [hm]
    have t0 : ((28#6 ++ d ++ 0#9 ++ n : BitVec 32) &&& 4229951488#32 == 1879048192#32) = true := by
      rw [show (4229951488#32) = 63#6 ++ 0#5 ++ 511#9 ++ 0#12 from rfl]
      rw [BitVec.and_append, BitVec.and_append, BitVec.and_append]
      simp only [BitVec.and_zero]
      decide
    simp (disch := decide) only [t0, ext_hi, ext_lo, ext_all, Nat.reduceSub, if_true, if_false, Bool.false_eq_true]

theorem Laws.Encoding.setc (a : BitVec 5) (n : BitVec 12) : Laws.Encoding.Statement (.setc a n) :=
  seq_law _ _ rfl fun hw => by
    have hm : (BitVec.extractLsb' 26 6 (928#11 ++ a ++ 0#4 ++ n : BitVec 32)).toNat = 29 := by
      simp (disch := decide) only [ext_hi, ext_lo, ext_all, Nat.reduceSub]; rfl
    unfold decodeSeq
    rw [hm]
    have t0 : ((928#11 ++ a ++ 0#4 ++ n : BitVec 32) &&& 4292931584#32 == 1946157056#32) = true := by
      rw [show (4292931584#32) = 2047#11 ++ 0#5 ++ 15#4 ++ 0#12 from rfl]
      rw [BitVec.and_append, BitVec.and_append, BitVec.and_append]
      simp only [BitVec.and_zero]
      decide
    simp (disch := decide) only [t0, ext_hi, ext_lo, ext_all, Nat.reduceSub, if_true, if_false, Bool.false_eq_true]

theorem Laws.Encoding.seqTrap (n : BitVec 11) : Laws.Encoding.Statement (.seqTrap n) :=
  seq_law _ _ rfl fun hw => by
    have hm : (BitVec.extractLsb' 26 6 (983040#21 ++ n : BitVec 32)).toNat = 30 := by
      simp (disch := decide) only [ext_hi, ext_lo, ext_all, Nat.reduceSub]; rfl
    unfold decodeSeq
    rw [hm]
    have t0 : ((983040#21 ++ n : BitVec 32) &&& 4294965248#32 == 2013265920#32) = true := by
      rw [show (4294965248#32) = 2097151#21 ++ 0#11 from rfl]
      rw [BitVec.and_append]
      simp only [BitVec.and_zero]
      decide
    simp (disch := decide) only [t0, ext_hi, ext_lo, ext_all, Nat.reduceSub, if_true, if_false, Bool.false_eq_true]

theorem Laws.Encoding.seqBkpt (n : BitVec 11) : Laws.Encoding.Statement (.seqBkpt n) :=
  seq_law _ _ rfl fun hw => by
    have hm : (BitVec.extractLsb' 26 6 (983056#21 ++ n : BitVec 32)).toNat = 30 := by
      simp (disch := decide) only [ext_hi, ext_lo, ext_all, Nat.reduceSub]; rfl
    unfold decodeSeq
    rw [hm]
    have t0 : ((983056#21 ++ n : BitVec 32) &&& 4294965248#32 == 2013265920#32) = false := by
      rw [show (4294965248#32) = 2097151#21 ++ 0#11 from rfl]
      rw [BitVec.and_append]
      simp only [BitVec.and_zero]
      decide
    have t1 : ((983056#21 ++ n : BitVec 32) &&& 4294965248#32 == 2013298688#32) = true := by
      rw [show (4294965248#32) = 2097151#21 ++ 0#11 from rfl]
      rw [BitVec.and_append]
      simp only [BitVec.and_zero]
      decide
    simp (disch := decide) only [t0, t1, ext_hi, ext_lo, ext_all, Nat.reduceSub, if_true, if_false, Bool.false_eq_true]

theorem Laws.Encoding.tret : Laws.Encoding.Statement (.tret) :=
  seq_law _ _ rfl fun hw => by
    have hm : (BitVec.extractLsb' 26 6 (2080374784#32 : BitVec 32)).toNat = 31 := by
      rfl
    unfold decodeSeq
    rw [hm]
    have t0 : ((2080374784#32 : BitVec 32) &&& 4294967295#32 == 2080374784#32) = true := by decide
    simp (disch := decide) only [t0, ext_hi, ext_lo, ext_all, Nat.reduceSub, if_true, if_false, Bool.false_eq_true]

theorem Laws.Encoding.waite (a : BitVec 5) (d : BitVec 5) : Laws.Encoding.Statement (.waite a d) :=
  seq_law _ _ rfl fun hw => by
    have hm : (BitVec.extractLsb' 26 6 (32#6 ++ a ++ d ++ 0#16 : BitVec 32)).toNat = 32 := by
      simp (disch := decide) only [ext_hi, ext_lo, ext_all, Nat.reduceSub]; rfl
    unfold decodeSeq
    rw [hm]
    have t0 : ((32#6 ++ a ++ d ++ 0#16 : BitVec 32) &&& 4227923967#32 == 2147483648#32) = true := by
      rw [show (4227923967#32) = 63#6 ++ 0#5 ++ 0#5 ++ 65535#16 from rfl]
      rw [BitVec.and_append, BitVec.and_append, BitVec.and_append]
      simp only [BitVec.and_zero]
      decide
    simp (disch := decide) only [t0, ext_hi, ext_lo, ext_all, Nat.reduceSub, if_true, if_false, Bool.false_eq_true]

theorem Laws.Encoding.seqTsync : Laws.Encoding.Statement (.seqTsync) :=
  seq_law _ _ rfl fun hw => by
    have hm : (BitVec.extractLsb' 26 6 (2214592512#32 : BitVec 32)).toNat = 33 := by
      rfl
    unfold decodeSeq
    rw [hm]
    have t0 : ((2214592512#32 : BitVec 32) &&& 4294967295#32 == 2214592512#32) = true := by decide
    simp (disch := decide) only [t0, ext_hi, ext_lo, ext_all, Nat.reduceSub, if_true, if_false, Bool.false_eq_true]

theorem Laws.Encoding.mctx (a : BitVec 5) (m : BitVec 4) (c : BitVec 2) : Laws.Encoding.Statement (.mctx a m c) :=
  seq_law _ _ rfl fun hw => by
    have hm : (BitVec.extractLsb' 26 6 (34#6 ++ a ++ 0#5 ++ m ++ c ++ 0#10 : BitVec 32)).toNat = 34 := by
      simp (disch := decide) only [ext_hi, ext_lo, ext_all, Nat.reduceSub]; rfl
    unfold decodeSeq
    rw [hm]
    have t0 : ((34#6 ++ a ++ 0#5 ++ m ++ c ++ 0#10 : BitVec 32) &&& 4229891071#32 == 2281701376#32) = true := by
      rw [show (4229891071#32) = 63#6 ++ 0#5 ++ 31#5 ++ 0#4 ++ 0#2 ++ 1023#10 from rfl]
      rw [BitVec.and_append, BitVec.and_append, BitVec.and_append, BitVec.and_append, BitVec.and_append]
      simp only [BitVec.and_zero]
      decide
    simp (disch := decide) only [t0, ext_hi, ext_lo, ext_all, Nat.reduceSub, if_true, if_false, Bool.false_eq_true]

theorem Laws.Encoding.mctxClr (m : BitVec 4) (c : BitVec 2) : Laws.Encoding.Statement (.mctxClr m c) :=
  seq_law _ _ rfl fun hw => by
    have hm : (BitVec.extractLsb' 26 6 (34816#16 ++ m ++ c ++ 512#10 : BitVec 32)).toNat = 34 := by
      simp (disch := decide) only [ext_hi, ext_lo, ext_all, Nat.reduceSub]; rfl
    unfold decodeSeq
    rw [hm]
    have t0 : ((34816#16 ++ m ++ c ++ 512#10 : BitVec 32) &&& 4229891071#32 == 2281701376#32) = false := by
      rw [show (4229891071#32) = 64543#16 ++ 0#4 ++ 0#2 ++ 1023#10 from rfl]
      rw [BitVec.and_append, BitVec.and_append, BitVec.and_append]
      simp only [BitVec.and_zero]
      decide
    have t1 : ((34816#16 ++ m ++ c ++ 512#10 : BitVec 32) &&& 4294902783#32 == 2281701888#32) = true := by
      rw [show (4294902783#32) = 65535#16 ++ 0#4 ++ 0#2 ++ 1023#10 from rfl]
      rw [BitVec.and_append, BitVec.and_append, BitVec.and_append]
      simp only [BitVec.and_zero]
      decide
    simp (disch := decide) only [t0, t1, ext_hi, ext_lo, ext_all, Nat.reduceSub, if_true, if_false, Bool.false_eq_true]

theorem Laws.Encoding.mrunMma (a : BitVec 5) (b : BitVec 5) (m : BitVec 4) (c : BitVec 2) (x : BitVec 4) (s : BitVec 4) : Laws.Encoding.Statement (.mrunMma a b m c x s) :=
  seq_law _ _ rfl fun hw => by
    have hm : (BitVec.extractLsb' 26 6 (35#6 ++ a ++ b ++ m ++ c ++ 0#2 ++ x ++ s : BitVec 32)).toNat = 35 := by
      simp (disch := decide) only [ext_hi, ext_lo, ext_all, Nat.reduceSub]; rfl
    unfold decodeSeq
    rw [hm]
    have t0 : ((35#6 ++ a ++ b ++ m ++ c ++ 0#2 ++ x ++ s : BitVec 32) &&& 4227859200#32 == 2348810240#32) = true := by
      rw [show (4227859200#32) = 63#6 ++ 0#5 ++ 0#5 ++ 0#4 ++ 0#2 ++ 3#2 ++ 0#4 ++ 0#4 from rfl]
      rw [BitVec.and_append, BitVec.and_append, BitVec.and_append, BitVec.and_append, BitVec.and_append, BitVec.and_append, BitVec.and_append]
      simp only [BitVec.and_zero]
      decide
    simp (disch := decide) only [t0, ext_hi, ext_lo, ext_all, Nat.reduceSub, if_true, if_false, Bool.false_eq_true]

theorem Laws.Encoding.mrunZero (a : BitVec 5) (b : BitVec 5) (m : BitVec 4) (c : BitVec 2) (x : BitVec 4) (s : BitVec 4) : Laws.Encoding.Statement (.mrunZero a b m c x s) :=
  seq_law _ _ rfl fun hw => by
    have hm : (BitVec.extractLsb' 26 6 (35#6 ++ a ++ b ++ m ++ c ++ 1#2 ++ x ++ s : BitVec 32)).toNat = 35 := by
      simp (disch := decide) only [ext_hi, ext_lo, ext_all, Nat.reduceSub]; rfl
    unfold decodeSeq
    rw [hm]
    have t0 : ((35#6 ++ a ++ b ++ m ++ c ++ 1#2 ++ x ++ s : BitVec 32) &&& 4227859200#32 == 2348810240#32) = false := by
      rw [show (4227859200#32) = 63#6 ++ 0#5 ++ 0#5 ++ 0#4 ++ 0#2 ++ 3#2 ++ 0#4 ++ 0#4 from rfl]
      rw [BitVec.and_append, BitVec.and_append, BitVec.and_append, BitVec.and_append, BitVec.and_append, BitVec.and_append, BitVec.and_append]
      simp only [BitVec.and_zero]
      decide
    have t1 : ((35#6 ++ a ++ b ++ m ++ c ++ 1#2 ++ x ++ s : BitVec 32) &&& 4227859200#32 == 2348810496#32) = true := by
      rw [show (4227859200#32) = 63#6 ++ 0#5 ++ 0#5 ++ 0#4 ++ 0#2 ++ 3#2 ++ 0#4 ++ 0#4 from rfl]
      rw [BitVec.and_append, BitVec.and_append, BitVec.and_append, BitVec.and_append, BitVec.and_append, BitVec.and_append, BitVec.and_append]
      simp only [BitVec.and_zero]
      decide
    simp (disch := decide) only [t0, t1, ext_hi, ext_lo, ext_all, Nat.reduceSub, if_true, if_false, Bool.false_eq_true]

theorem Laws.Encoding.mrunLoad (a : BitVec 5) (b : BitVec 5) (m : BitVec 4) (c : BitVec 2) (x : BitVec 4) (s : BitVec 4) : Laws.Encoding.Statement (.mrunLoad a b m c x s) :=
  seq_law _ _ rfl fun hw => by
    have hm : (BitVec.extractLsb' 26 6 (35#6 ++ a ++ b ++ m ++ c ++ 2#2 ++ x ++ s : BitVec 32)).toNat = 35 := by
      simp (disch := decide) only [ext_hi, ext_lo, ext_all, Nat.reduceSub]; rfl
    unfold decodeSeq
    rw [hm]
    have t0 : ((35#6 ++ a ++ b ++ m ++ c ++ 2#2 ++ x ++ s : BitVec 32) &&& 4227859200#32 == 2348810240#32) = false := by
      rw [show (4227859200#32) = 63#6 ++ 0#5 ++ 0#5 ++ 0#4 ++ 0#2 ++ 3#2 ++ 0#4 ++ 0#4 from rfl]
      rw [BitVec.and_append, BitVec.and_append, BitVec.and_append, BitVec.and_append, BitVec.and_append, BitVec.and_append, BitVec.and_append]
      simp only [BitVec.and_zero]
      decide
    have t1 : ((35#6 ++ a ++ b ++ m ++ c ++ 2#2 ++ x ++ s : BitVec 32) &&& 4227859200#32 == 2348810496#32) = false := by
      rw [show (4227859200#32) = 63#6 ++ 0#5 ++ 0#5 ++ 0#4 ++ 0#2 ++ 3#2 ++ 0#4 ++ 0#4 from rfl]
      rw [BitVec.and_append, BitVec.and_append, BitVec.and_append, BitVec.and_append, BitVec.and_append, BitVec.and_append, BitVec.and_append]
      simp only [BitVec.and_zero]
      decide
    have t2 : ((35#6 ++ a ++ b ++ m ++ c ++ 2#2 ++ x ++ s : BitVec 32) &&& 4227859200#32 == 2348810752#32) = true := by
      rw [show (4227859200#32) = 63#6 ++ 0#5 ++ 0#5 ++ 0#4 ++ 0#2 ++ 3#2 ++ 0#4 ++ 0#4 from rfl]
      rw [BitVec.and_append, BitVec.and_append, BitVec.and_append, BitVec.and_append, BitVec.and_append, BitVec.and_append, BitVec.and_append]
      simp only [BitVec.and_zero]
      decide
    simp (disch := decide) only [t0, t1, t2, ext_hi, ext_lo, ext_all, Nat.reduceSub, if_true, if_false, Bool.false_eq_true]

theorem Laws.Encoding.mrunWrite (a : BitVec 5) (b : BitVec 5) (m : BitVec 4) (c : BitVec 2) (x : BitVec 4) (s : BitVec 4) : Laws.Encoding.Statement (.mrunWrite a b m c x s) :=
  seq_law _ _ rfl fun hw => by
    have hm : (BitVec.extractLsb' 26 6 (35#6 ++ a ++ b ++ m ++ c ++ 3#2 ++ x ++ s : BitVec 32)).toNat = 35 := by
      simp (disch := decide) only [ext_hi, ext_lo, ext_all, Nat.reduceSub]; rfl
    unfold decodeSeq
    rw [hm]
    have t0 : ((35#6 ++ a ++ b ++ m ++ c ++ 3#2 ++ x ++ s : BitVec 32) &&& 4227859200#32 == 2348810240#32) = false := by
      rw [show (4227859200#32) = 63#6 ++ 0#5 ++ 0#5 ++ 0#4 ++ 0#2 ++ 3#2 ++ 0#4 ++ 0#4 from rfl]
      rw [BitVec.and_append, BitVec.and_append, BitVec.and_append, BitVec.and_append, BitVec.and_append, BitVec.and_append, BitVec.and_append]
      simp only [BitVec.and_zero]
      decide
    have t1 : ((35#6 ++ a ++ b ++ m ++ c ++ 3#2 ++ x ++ s : BitVec 32) &&& 4227859200#32 == 2348810496#32) = false := by
      rw [show (4227859200#32) = 63#6 ++ 0#5 ++ 0#5 ++ 0#4 ++ 0#2 ++ 3#2 ++ 0#4 ++ 0#4 from rfl]
      rw [BitVec.and_append, BitVec.and_append, BitVec.and_append, BitVec.and_append, BitVec.and_append, BitVec.and_append, BitVec.and_append]
      simp only [BitVec.and_zero]
      decide
    have t2 : ((35#6 ++ a ++ b ++ m ++ c ++ 3#2 ++ x ++ s : BitVec 32) &&& 4227859200#32 == 2348810752#32) = false := by
      rw [show (4227859200#32) = 63#6 ++ 0#5 ++ 0#5 ++ 0#4 ++ 0#2 ++ 3#2 ++ 0#4 ++ 0#4 from rfl]
      rw [BitVec.and_append, BitVec.and_append, BitVec.and_append, BitVec.and_append, BitVec.and_append, BitVec.and_append, BitVec.and_append]
      simp only [BitVec.and_zero]
      decide
    have t3 : ((35#6 ++ a ++ b ++ m ++ c ++ 3#2 ++ x ++ s : BitVec 32) &&& 4227859200#32 == 2348811008#32) = true := by
      rw [show (4227859200#32) = 63#6 ++ 0#5 ++ 0#5 ++ 0#4 ++ 0#2 ++ 3#2 ++ 0#4 ++ 0#4 from rfl]
      rw [BitVec.and_append, BitVec.and_append, BitVec.and_append, BitVec.and_append, BitVec.and_append, BitVec.and_append, BitVec.and_append]
      simp only [BitVec.and_zero]
      decide
    simp (disch := decide) only [t0, t1, t2, t3, ext_hi, ext_lo, ext_all, Nat.reduceSub, if_true, if_false, Bool.false_eq_true]

theorem Laws.Encoding.pump (a : BitVec 5) (u : BitVec 1) : Laws.Encoding.Statement (.pump a u) :=
  seq_law _ _ rfl fun hw => by
    have hm : (BitVec.extractLsb' 26 6 (36#6 ++ a ++ 0#8 ++ u ++ 0#12 : BitVec 32)).toNat = 36 := by
      simp (disch := decide) only [ext_hi, ext_lo, ext_all, Nat.reduceSub]; rfl
    unfold decodeSeq
    rw [hm]
    have t0 : ((36#6 ++ a ++ 0#8 ++ u ++ 0#12 : BitVec 32) &&& 4229951487#32 == 2415919104#32) = true := by
      rw [show (4229951487#32) = 63#6 ++ 0#5 ++ 255#8 ++ 0#1 ++ 4095#12 from rfl]
      rw [BitVec.and_append, BitVec.and_append, BitVec.and_append, BitVec.and_append]
      simp only [BitVec.and_zero]
      decide
    simp (disch := decide) only [t0, ext_hi, ext_lo, ext_all, Nat.reduceSub, if_true, if_false, Bool.false_eq_true]

theorem Laws.Encoding.ldcfg (a : BitVec 5) (s : BitVec 5) : Laws.Encoding.Statement (.ldcfg a s) :=
  seq_law _ _ rfl fun hw => by
    have hm : (BitVec.extractLsb' 26 6 (37#6 ++ a ++ 0#16 ++ s : BitVec 32)).toNat = 37 := by
      simp (disch := decide) only [ext_hi, ext_lo, ext_all, Nat.reduceSub]; rfl
    unfold decodeSeq
    rw [hm]
    have t0 : ((37#6 ++ a ++ 0#16 ++ s : BitVec 32) &&& 4229955552#32 == 2483027968#32) = true := by
      rw [show (4229955552#32) = 63#6 ++ 0#5 ++ 65535#16 ++ 0#5 from rfl]
      rw [BitVec.and_append, BitVec.and_append, BitVec.and_append]
      simp only [BitVec.and_zero]
      decide
    simp (disch := decide) only [t0, ext_hi, ext_lo, ext_all, Nat.reduceSub, if_true, if_false, Bool.false_eq_true]

theorem Laws.Encoding.ldcfgClr (s : BitVec 5) : Laws.Encoding.Statement (.ldcfgClr s) :=
  seq_law _ _ rfl fun hw => by
    have hm : (BitVec.extractLsb' 26 6 (77594752#27 ++ s : BitVec 32)).toNat = 37 := by
      simp (disch := decide) only [ext_hi, ext_lo, ext_all, Nat.reduceSub]; rfl
    unfold decodeSeq
    rw [hm]
    have t0 : ((77594752#27 ++ s : BitVec 32) &&& 4229955552#32 == 2483027968#32) = false := by
      rw [show (4229955552#32) = 132186111#27 ++ 0#5 from rfl]
      rw [BitVec.and_append]
      simp only [BitVec.and_zero]
      decide
    have t1 : ((77594752#27 ++ s : BitVec 32) &&& 4294967264#32 == 2483032064#32) = true := by
      rw [show (4294967264#32) = 134217727#27 ++ 0#5 from rfl]
      rw [BitVec.and_append]
      simp only [BitVec.and_zero]
      decide
    simp (disch := decide) only [t0, t1, ext_hi, ext_lo, ext_all, Nat.reduceSub, if_true, if_false, Bool.false_eq_true]

theorem Laws.Encoding.ldcfgCode (a : BitVec 5) (w : BitVec 1) : Laws.Encoding.Statement (.ldcfgCode a w) :=
  seq_law _ _ rfl fun hw => by
    have hm : (BitVec.extractLsb' 26 6 (37#6 ++ a ++ 4096#20 ++ w : BitVec 32)).toNat = 37 := by
      simp (disch := decide) only [ext_hi, ext_lo, ext_all, Nat.reduceSub]; rfl
    unfold decodeSeq
    rw [hm]
    have t0 : ((37#6 ++ a ++ 4096#20 ++ w : BitVec 32) &&& 4229955552#32 == 2483027968#32) = false := by
      rw [show (4229955552#32) = 63#6 ++ 0#5 ++ 1048560#20 ++ 0#1 from rfl]
      rw [BitVec.and_append, BitVec.and_append, BitVec.and_append]
      simp only [BitVec.and_zero]
      decide
    have t1 : ((37#6 ++ a ++ 4096#20 ++ w : BitVec 32) &&& 4294967264#32 == 2483032064#32) = false := by
      rw [beq_eq_false_iff_ne]
      intro e
      have e2 := congrArg (BitVec.extractLsb' 1 20) e
      rw [BitVec.extractLsb'_and] at e2
      simp (disch := decide) only [ext_hi, ext_lo, ext_all, Nat.reduceSub] at e2
      exact absurd e2 (by decide)
    have t2 : ((37#6 ++ a ++ 4096#20 ++ w : BitVec 32) &&& 4229955582#32 == 2483036160#32) = true := by
      rw [show (4229955582#32) = 63#6 ++ 0#5 ++ 1048575#20 ++ 0#1 from rfl]
      rw [BitVec.and_append, BitVec.and_append, BitVec.and_append]
      simp only [BitVec.and_zero]
      decide
    simp (disch := decide) only [t0, t1, t2, ext_hi, ext_lo, ext_all, Nat.reduceSub, if_true, if_false, Bool.false_eq_true]

theorem Laws.Encoding.recfg (a : BitVec 5) : Laws.Encoding.Statement (.recfg a) :=
  seq_law _ _ rfl fun hw => by
    have hm : (BitVec.extractLsb' 26 6 (38#6 ++ a ++ 0#21 : BitVec 32)).toNat = 38 := by
      simp (disch := decide) only [ext_hi, ext_lo, ext_all, Nat.reduceSub]; rfl
    unfold decodeSeq
    rw [hm]
    have t0 : ((38#6 ++ a ++ 0#21 : BitVec 32) &&& 4229955583#32 == 2550136832#32) = true := by
      rw [show (4229955583#32) = 63#6 ++ 0#5 ++ 2097151#21 from rfl]
      rw [BitVec.and_append, BitVec.and_append]
      simp only [BitVec.and_zero]
      decide
    simp (disch := decide) only [t0, ext_hi, ext_lo, ext_all, Nat.reduceSub, if_true, if_false, Bool.false_eq_true]

theorem Laws.Encoding.recfgEnd : Laws.Encoding.Statement (.recfgEnd) :=
  seq_law _ _ rfl fun hw => by
    have hm : (BitVec.extractLsb' 26 6 (2550140928#32 : BitVec 32)).toNat = 38 := by
      rfl
    unfold decodeSeq
    rw [hm]
    have t0 : ((2550140928#32 : BitVec 32) &&& 4229955583#32 == 2550136832#32) = false := by decide
    have t1 : ((2550140928#32 : BitVec 32) &&& 4294967295#32 == 2550140928#32) = true := by decide
    simp (disch := decide) only [t0, t1, ext_hi, ext_lo, ext_all, Nat.reduceSub, if_true, if_false, Bool.false_eq_true]

theorem Laws.Encoding.qput (a : BitVec 5) (b : BitVec 5) (p : BitVec 2) (e : BitVec 1) (s : BitVec 3) (c : BitVec 2) (v : BitVec 5) : Laws.Encoding.Statement (.qput a b p e s c v) :=
  seq_law _ _ rfl fun hw => by
    have hm : (BitVec.extractLsb' 26 6 (39#6 ++ a ++ b ++ 0#2 ++ p ++ e ++ s ++ 0#1 ++ c ++ v : BitVec 32)).toNat = 39 := by
      simp (disch := decide) only [ext_hi, ext_lo, ext_all, Nat.reduceSub]; rfl
    unfold decodeSeq
    rw [hm]
    have t0 : ((39#6 ++ a ++ b ++ 0#2 ++ p ++ e ++ s ++ 0#1 ++ c ++ v : BitVec 32) &&& 4227907712#32 == 2617245696#32) = true := by
      rw [show (4227907712#32) = 63#6 ++ 0#5 ++ 0#5 ++ 3#2 ++ 0#2 ++ 0#1 ++ 0#3 ++ 1#1 ++ 0#2 ++ 0#5 from rfl]
      rw [BitVec.and_append, BitVec.and_append, BitVec.and_append, BitVec.and_append, BitVec.and_append, BitVec.and_append, BitVec.and_append, BitVec.and_append, BitVec.and_append]
      simp only [BitVec.and_zero]
      decide
    simp (disch := decide) only [t0, ext_hi, ext_lo, ext_all, Nat.reduceSub, if_true, if_false, Bool.false_eq_true]

theorem Laws.Encoding.qget (l : BitVec 5) (h : BitVec 5) (p : BitVec 2) : Laws.Encoding.Statement (.qget l h p) :=
  seq_law _ _ rfl fun hw => by
    have hm : (BitVec.extractLsb' 26 6 (40#6 ++ l ++ h ++ 0#2 ++ p ++ 0#12 : BitVec 32)).toNat = 40 := by
      simp (disch := decide) only [ext_hi, ext_lo, ext_all, Nat.reduceSub]; rfl
    unfold decodeSeq
    rw [hm]
    have t0 : ((40#6 ++ l ++ h ++ 0#2 ++ p ++ 0#12 : BitVec 32) &&& 4227911679#32 == 2684354560#32) = true := by
      rw [show (4227911679#32) = 63#6 ++ 0#5 ++ 0#5 ++ 3#2 ++ 0#2 ++ 4095#12 from rfl]
      rw [BitVec.and_append, BitVec.and_append, BitVec.and_append, BitVec.and_append, BitVec.and_append]
      simp only [BitVec.and_zero]
      decide
    simp (disch := decide) only [t0, ext_hi, ext_lo, ext_all, Nat.reduceSub, if_true, if_false, Bool.false_eq_true]

theorem Laws.Encoding.tbinit (a : BitVec 5) (b : BitVec 5) (n : BitVec 16) : Laws.Encoding.Statement (.tbinit a b n) :=
  seq_law _ _ rfl fun hw => by
    have hm : (BitVec.extractLsb' 26 6 (41#6 ++ a ++ b ++ n : BitVec 32)).toNat = 41 := by
      simp (disch := decide) only [ext_hi, ext_lo, ext_all, Nat.reduceSub]; rfl
    unfold decodeSeq
    rw [hm]
    simp (disch := decide) only [ext_hi, ext_lo, ext_all, Nat.reduceSub, if_true, if_false, Bool.false_eq_true]

theorem Laws.Encoding.tbarr (a : BitVec 5) (s : BitVec 3) : Laws.Encoding.Statement (.tbarr a s) :=
  seq_law _ _ rfl fun hw => by
    have hm : (BitVec.extractLsb' 26 6 (42#6 ++ a ++ 0#18 ++ s : BitVec 32)).toNat = 42 := by
      simp (disch := decide) only [ext_hi, ext_lo, ext_all, Nat.reduceSub]; rfl
    unfold decodeSeq
    rw [hm]
    have t0 : ((42#6 ++ a ++ 0#18 ++ s : BitVec 32) &&& 4229955576#32 == 2818572288#32) = true := by
      rw [show (4229955576#32) = 63#6 ++ 0#5 ++ 262143#18 ++ 0#3 from rfl]
      rw [BitVec.and_append, BitVec.and_append, BitVec.and_append]
      simp only [BitVec.and_zero]
      decide
    simp (disch := decide) only [t0, ext_hi, ext_lo, ext_all, Nat.reduceSub, if_true, if_false, Bool.false_eq_true]

theorem Laws.Encoding.tbwait (a : BitVec 5) (b : BitVec 5) (s : BitVec 3) : Laws.Encoding.Statement (.tbwait a b s) :=
  seq_law _ _ rfl fun hw => by
    have hm : (BitVec.extractLsb' 26 6 (43#6 ++ a ++ b ++ 0#13 ++ s : BitVec 32)).toNat = 43 := by
      simp (disch := decide) only [ext_hi, ext_lo, ext_all, Nat.reduceSub]; rfl
    unfold decodeSeq
    rw [hm]
    have t0 : ((43#6 ++ a ++ b ++ 0#13 ++ s : BitVec 32) &&& 4227923960#32 == 2885681152#32) = true := by
      rw [show (4227923960#32) = 63#6 ++ 0#5 ++ 0#5 ++ 8191#13 ++ 0#3 from rfl]
      rw [BitVec.and_append, BitVec.and_append, BitVec.and_append, BitVec.and_append]
      simp only [BitVec.and_zero]
      decide
    simp (disch := decide) only [t0, ext_hi, ext_lo, ext_all, Nat.reduceSub, if_true, if_false, Bool.false_eq_true]

theorem Laws.Encoding.launch (a : BitVec 5) (d : BitVec 5) (q : BitVec 8) : Laws.Encoding.Statement (.launch a d q) :=
  seq_law _ _ rfl fun hw => by
    have hm : (BitVec.extractLsb' 26 6 (44#6 ++ a ++ d ++ 0#8 ++ q : BitVec 32)).toNat = 44 := by
      simp (disch := decide) only [ext_hi, ext_lo, ext_all, Nat.reduceSub]; rfl
    unfold decodeSeq
    rw [hm]
    have t0 : ((44#6 ++ a ++ d ++ 0#8 ++ q : BitVec 32) &&& 4227923712#32 == 2952790016#32) = true := by
      rw [show (4227923712#32) = 63#6 ++ 0#5 ++ 0#5 ++ 255#8 ++ 0#8 from rfl]
      rw [BitVec.and_append, BitVec.and_append, BitVec.and_append, BitVec.and_append]
      simp only [BitVec.and_zero]
      decide
    simp (disch := decide) only [t0, ext_hi, ext_lo, ext_all, Nat.reduceSub, if_true, if_false, Bool.false_eq_true]

theorem Laws.Encoding.exit : Laws.Encoding.Statement (.exit) :=
  seq_law _ _ rfl fun hw => by
    have hm : (BitVec.extractLsb' 26 6 (3019898880#32 : BitVec 32)).toNat = 45 := by
      rfl
    unfold decodeSeq
    rw [hm]
    have t0 : ((3019898880#32 : BitVec 32) &&& 4294967295#32 == 3019898880#32) = true := by decide
    simp (disch := decide) only [t0, ext_hi, ext_lo, ext_all, Nat.reduceSub, if_true, if_false, Bool.false_eq_true]

theorem Laws.Encoding.yield : Laws.Encoding.Statement (.yield) :=
  seq_law _ _ rfl fun hw => by
    have hm : (BitVec.extractLsb' 26 6 (3087007744#32 : BitVec 32)).toNat = 46 := by
      rfl
    unfold decodeSeq
    rw [hm]
    have t0 : ((3087007744#32 : BitVec 32) &&& 4294967295#32 == 3087007744#32) = true := by decide
    simp (disch := decide) only [t0, ext_hi, ext_lo, ext_all, Nat.reduceSub, if_true, if_false, Bool.false_eq_true]

theorem Laws.Encoding.place (a : BitVec 5) : Laws.Encoding.Statement (.place a) :=
  seq_law _ _ rfl fun hw => by
    have hm : (BitVec.extractLsb' 26 6 (47#6 ++ a ++ 0#21 : BitVec 32)).toNat = 47 := by
      simp (disch := decide) only [ext_hi, ext_lo, ext_all, Nat.reduceSub]; rfl
    unfold decodeSeq
    rw [hm]
    have t0 : ((47#6 ++ a ++ 0#21 : BitVec 32) &&& 4229955583#32 == 3154116608#32) = true := by
      rw [show (4229955583#32) = 63#6 ++ 0#5 ++ 2097151#21 from rfl]
      rw [BitVec.and_append, BitVec.and_append]
      simp only [BitVec.and_zero]
      decide
    simp (disch := decide) only [t0, ext_hi, ext_lo, ext_all, Nat.reduceSub, if_true, if_false, Bool.false_eq_true]

theorem Laws.Encoding.placeFrz : Laws.Encoding.Statement (.placeFrz) :=
  seq_law _ _ rfl fun hw => by
    have hm : (BitVec.extractLsb' 26 6 (3154120704#32 : BitVec 32)).toNat = 47 := by
      rfl
    unfold decodeSeq
    rw [hm]
    have t0 : ((3154120704#32 : BitVec 32) &&& 4229955583#32 == 3154116608#32) = false := by decide
    have t1 : ((3154120704#32 : BitVec 32) &&& 4294967295#32 == 3154120704#32) = true := by decide
    simp (disch := decide) only [t0, t1, ext_hi, ext_lo, ext_all, Nat.reduceSub, if_true, if_false, Bool.false_eq_true]

theorem Laws.Encoding.placeThaw : Laws.Encoding.Statement (.placeThaw) :=
  seq_law _ _ rfl fun hw => by
    have hm : (BitVec.extractLsb' 26 6 (3154124800#32 : BitVec 32)).toNat = 47 := by
      rfl
    unfold decodeSeq
    rw [hm]
    have t0 : ((3154124800#32 : BitVec 32) &&& 4229955583#32 == 3154116608#32) = false := by decide
    have t1 : ((3154124800#32 : BitVec 32) &&& 4294967295#32 == 3154120704#32) = false := by decide
    have t2 : ((3154124800#32 : BitVec 32) &&& 4294967295#32 == 3154124800#32) = true := by decide
    simp (disch := decide) only [t0, t1, t2, ext_hi, ext_lo, ext_all, Nat.reduceSub, if_true, if_false, Bool.false_eq_true]

theorem Laws.Encoding.placeSt (d : BitVec 5) : Laws.Encoding.Statement (.placeSt d) :=
  seq_law _ _ rfl fun hw => by
    have hm : (BitVec.extractLsb' 26 6 (1504#11 ++ d ++ 12288#16 : BitVec 32)).toNat = 47 := by
      simp (disch := decide) only [ext_hi, ext_lo, ext_all, Nat.reduceSub]; rfl
    unfold decodeSeq
    rw [hm]
    have t0 : ((1504#11 ++ d ++ 12288#16 : BitVec 32) &&& 4229955583#32 == 3154116608#32) = false := by
      rw [beq_eq_false_iff_ne]
      intro e
      have e2 := congrArg (BitVec.extractLsb' 0 16) e
      rw [BitVec.extractLsb'_and] at e2
      simp (disch := decide) only [ext_hi, ext_lo, ext_all, Nat.reduceSub] at e2
      exact absurd e2 (by decide)
    have t1 : ((1504#11 ++ d ++ 12288#16 : BitVec 32) &&& 4294967295#32 == 3154120704#32) = false := by
      rw [beq_eq_false_iff_ne]
      intro e
      have e2 := congrArg (BitVec.extractLsb' 0 16) e
      rw [BitVec.extractLsb'_and] at e2
      simp (disch := decide) only [ext_hi, ext_lo, ext_all, Nat.reduceSub] at e2
      exact absurd e2 (by decide)
    have t2 : ((1504#11 ++ d ++ 12288#16 : BitVec 32) &&& 4294967295#32 == 3154124800#32) = false := by
      rw [beq_eq_false_iff_ne]
      intro e
      have e2 := congrArg (BitVec.extractLsb' 0 16) e
      rw [BitVec.extractLsb'_and] at e2
      simp (disch := decide) only [ext_hi, ext_lo, ext_all, Nat.reduceSub] at e2
      exact absurd e2 (by decide)
    have t3 : ((1504#11 ++ d ++ 12288#16 : BitVec 32) &&& 4292935679#32 == 3154128896#32) = true := by
      rw [show (4292935679#32) = 2047#11 ++ 0#5 ++ 65535#16 from rfl]
      rw [BitVec.and_append, BitVec.and_append]
      simp only [BitVec.and_zero]
      decide
    simp (disch := decide) only [t0, t1, t2, t3, ext_hi, ext_lo, ext_all, Nat.reduceSub, if_true, if_false, Bool.false_eq_true]

theorem Laws.Encoding.cutsel (a : BitVec 5) : Laws.Encoding.Statement (.cutsel a) :=
  seq_law _ _ rfl fun hw => by
    have hm : (BitVec.extractLsb' 26 6 (48#6 ++ a ++ 0#21 : BitVec 32)).toNat = 48 := by
      simp (disch := decide) only [ext_hi, ext_lo, ext_all, Nat.reduceSub]; rfl
    unfold decodeSeq
    rw [hm]
    have t0 : ((48#6 ++ a ++ 0#21 : BitVec 32) &&& 4229955583#32 == 3221225472#32) = true := by
      rw [show (4229955583#32) = 63#6 ++ 0#5 ++ 2097151#21 from rfl]
      rw [BitVec.and_append, BitVec.and_append]
      simp only [BitVec.and_zero]
      decide
    simp (disch := decide) only [t0, ext_hi, ext_lo, ext_all, Nat.reduceSub, if_true, if_false, Bool.false_eq_true]

theorem Laws.Encoding.restripe (a : BitVec 5) : Laws.Encoding.Statement (.restripe a) :=
  seq_law _ _ rfl fun hw => by
    have hm : (BitVec.extractLsb' 26 6 (49#6 ++ a ++ 0#21 : BitVec 32)).toNat = 49 := by
      simp (disch := decide) only [ext_hi, ext_lo, ext_all, Nat.reduceSub]; rfl
    unfold decodeSeq
    rw [hm]
    have t0 : ((49#6 ++ a ++ 0#21 : BitVec 32) &&& 4229955583#32 == 3288334336#32) = true := by
      rw [show (4229955583#32) = 63#6 ++ 0#5 ++ 2097151#21 from rfl]
      rw [BitVec.and_append, BitVec.and_append]
      simp only [BitVec.and_zero]
      decide
    simp (disch := decide) only [t0, ext_hi, ext_lo, ext_all, Nat.reduceSub, if_true, if_false, Bool.false_eq_true]

theorem Laws.Encoding.pwrmark (n : BitVec 4) : Laws.Encoding.Statement (.pwrmark n) :=
  seq_law _ _ rfl fun hw => by
    have hm : (BitVec.extractLsb' 26 6 (209715200#28 ++ n : BitVec 32)).toNat = 50 := by
      simp (disch := decide) only [ext_hi, ext_lo, ext_all, Nat.reduceSub]; rfl
    unfold decodeSeq
    rw [hm]
    have t0 : ((209715200#28 ++ n : BitVec 32) &&& 4294967280#32 == 3355443200#32) = true := by
      rw [show (4294967280#32) = 268435455#28 ++ 0#4 from rfl]
      rw [BitVec.and_append]
      simp only [BitVec.and_zero]
      decide
    simp (disch := decide) only [t0, ext_hi, ext_lo, ext_all, Nat.reduceSub, if_true, if_false, Bool.false_eq_true]

theorem Laws.Encoding.verify (a : BitVec 5) (d : BitVec 5) : Laws.Encoding.Statement (.verify a d) :=
  seq_law _ _ rfl fun hw => by
    have hm : (BitVec.extractLsb' 26 6 (51#6 ++ a ++ d ++ 0#16 : BitVec 32)).toNat = 51 := by
      simp (disch := decide) only [ext_hi, ext_lo, ext_all, Nat.reduceSub]; rfl
    unfold decodeSeq
    rw [hm]
    have t0 : ((51#6 ++ a ++ d ++ 0#16 : BitVec 32) &&& 4227923967#32 == 3422552064#32) = true := by
      rw [show (4227923967#32) = 63#6 ++ 0#5 ++ 0#5 ++ 65535#16 from rfl]
      rw [BitVec.and_append, BitVec.and_append, BitVec.and_append]
      simp only [BitVec.and_zero]
      decide
    simp (disch := decide) only [t0, ext_hi, ext_lo, ext_all, Nat.reduceSub, if_true, if_false, Bool.false_eq_true]

theorem Laws.Encoding.asyncTrapTake (r : Nat) : Laws.Encoding.Statement (.asyncTrapTake r) := no_word _ rfl rfl

theorem Laws.Encoding.illegalInstruction (cause : BitVec 8) : Laws.Encoding.Statement (.illegalInstruction cause) := no_word _ rfl rfl

theorem Laws.Encoding.instructionFetchFault (cause : BitVec 8) : Laws.Encoding.Statement (.instructionFetchFault cause) := no_word _ rfl rfl

theorem Laws.Encoding.slotdatWrite (r : Nat) (w : BitVec 64) : Laws.Encoding.Statement (.slotdatWrite r w) := no_word _ rfl rfl

theorem Laws.Encoding.spbindWrite (r : Nat) (n : Nat) (w : BitVec 64) : Laws.Encoding.Statement (.spbindWrite r n w) := no_word _ rfl rfl

theorem Laws.Encoding.sqbindWrite (r : Nat) (n : Nat) (w : BitVec 64) : Laws.Encoding.Statement (.sqbindWrite r n w) := no_word _ rfl rfl

theorem Laws.Encoding.cfgmapWrite (r : Nat) (n : Nat) (w : BitVec 64) : Laws.Encoding.Statement (.cfgmapWrite r n w) := no_word _ rfl rfl

theorem Laws.Encoding.retry (r : Nat) (p : Nat) : Laws.Encoding.Statement (.retry r p) := no_word _ rfl rfl

theorem Laws.Encoding.clr (r : Nat) (p : Nat) : Laws.Encoding.Statement (.clr r p) := no_word _ rfl rfl

theorem Laws.Encoding.xfqpop (r : Nat) : Laws.Encoding.Statement (.xfqpop r) := no_word _ rfl rfl

theorem Laws.Encoding.etpop (r : Nat) : Laws.Encoding.Statement (.etpop r) := no_word _ rfl rfl

theorem Laws.Encoding.etactResume (r : Nat) (st : Nat) (el : Nat) : Laws.Encoding.Statement (.etactResume r st el) := no_word _ rfl rfl

theorem Laws.Encoding.etactHalt (r : Nat) (st : Nat) (el : Nat) : Laws.Encoding.Statement (.etactHalt r st el) := no_word _ rfl rfl

theorem Laws.Encoding.enterDraining (r : Nat) (st : Nat) (el : Nat) : Laws.Encoding.Statement (.enterDraining r st el) := no_word _ rfl rfl

theorem Laws.Encoding.endOfWaveMarkerSend (r : Nat) (st : Nat) (el : Nat) (k : Nat) : Laws.Encoding.Statement (.endOfWaveMarkerSend r st el k) := no_word _ rfl rfl

theorem Laws.Encoding.configurationInstall (r : Nat) (st : Nat) (el : Nat) : Laws.Encoding.Statement (.configurationInstall r st el) := no_word _ rfl rfl

theorem Laws.Encoding.installComplete (r : Nat) (st : Nat) (el : Nat) : Laws.Encoding.Statement (.installComplete r st el) := no_word _ rfl rfl

theorem Laws.Encoding.haltedToDraining (r : Nat) (st : Nat) (el : Nat) : Laws.Encoding.Statement (.haltedToDraining r st el) := no_word _ rfl rfl

theorem Laws.Encoding.markerReachesHead (r : Nat) (st : Nat) (el : Nat) (q : Nat) : Laws.Encoding.Statement (.markerReachesHead r st el q) := no_word _ rfl rfl

theorem Laws.Encoding.tokenDeliver (r : Nat) (st : Nat) (el : Nat) (k : Nat) (j : Nat) : Laws.Encoding.Statement (.tokenDeliver r st el k j) := no_word _ rfl rfl

theorem Laws.Encoding.creditReturn (r : Nat) (st : Nat) (el : Nat) (q : Nat) : Laws.Encoding.Statement (.creditReturn r st el q) := no_word _ rfl rfl

theorem Laws.Encoding.streamDetach (w : DetachWho) : Laws.Encoding.Statement (.streamDetach w) := no_word _ rfl rfl

theorem Laws.Encoding.outboundPortWrite (r : Nat) (n : Nat) : Laws.Encoding.Statement (.outboundPortWrite r n) := no_word _ rfl rfl

theorem Laws.Encoding.inboundPortDeliver (r : Nat) (n : Nat) : Laws.Encoding.Statement (.inboundPortDeliver r n) := no_word _ rfl rfl

theorem Laws.Encoding.coordinateIntersect (r : Nat) (st : Nat) (el : Nat) : Laws.Encoding.Statement (.coordinateIntersect r st el) := no_word _ rfl rfl

theorem Laws.Encoding.txchDeliver (r : Nat) (st : Nat) (el : Nat) (m : Nat) : Laws.Encoding.Statement (.txchDeliver r st el m) := no_word _ rfl rfl

theorem Laws.Encoding.tbcstDeliver (r : Nat) (st : Nat) (el : Nat) : Laws.Encoding.Statement (.tbcstDeliver r st el) := no_word _ rfl rfl

theorem Laws.Encoding.tredDeliver (r : Nat) (st : Nat) (el : Nat) : Laws.Encoding.Statement (.tredDeliver r st el) := no_word _ rfl rfl

theorem Laws.Encoding.externalPortRequest (r : Nat) (st : Nat) (el : Nat) (i : Nat) : Laws.Encoding.Statement (.externalPortRequest r st el i) := no_word _ rfl rfl

theorem Laws.Encoding.loadDataReturn (r : Nat) (st : Nat) (el : Nat) (i : Nat) : Laws.Encoding.Statement (.loadDataReturn r st el i) := no_word _ rfl rfl

theorem Laws.Encoding.writePerformed (r : Nat) (w : Actor) (i : Nat) : Laws.Encoding.Statement (.writePerformed r w i) := no_word _ rfl rfl

theorem Laws.Encoding.lateFault (r : Nat) (st : Nat) (el : Nat) (i : Nat) : Laws.Encoding.Statement (.lateFault r st el i) := no_word _ rfl rfl

theorem Laws.Encoding.ldfComplete (r : Nat) (st : Nat) (el : Nat) (i : Nat) : Laws.Encoding.Statement (.ldfComplete r st el i) := no_word _ rfl rfl

theorem Laws.Encoding.stfComplete (r : Nat) (st : Nat) (el : Nat) (i : Nat) : Laws.Encoding.Statement (.stfComplete r st el i) := no_word _ rfl rfl

theorem Laws.Encoding.arriveSend (r : Nat) (st : Nat) (el : Nat) (i : Nat) : Laws.Encoding.Statement (.arriveSend r st el i) := no_word _ rfl rfl

theorem Laws.Encoding.barrierUpdate (r : Nat) (st : Nat) (el : Nat) (i : Nat) : Laws.Encoding.Statement (.barrierUpdate r st el i) := no_word _ rfl rfl

theorem Laws.Encoding.notifyTokenDeliver (r : Nat) (st : Nat) (el : Nat) : Laws.Encoding.Statement (.notifyTokenDeliver r st el) := no_word _ rfl rfl

theorem Laws.Encoding.seqtPark (r : Nat) (st : Nat) (el : Nat) : Laws.Encoding.Statement (.seqtPark r st el) := no_word _ rfl rfl

theorem Laws.Encoding.matrixOperandFetch (r : Nat) (m : Nat) (c : Nat) (side : Bool) (vec : Nat) (g : Nat) : Laws.Encoding.Statement (.matrixOperandFetch r m c side vec g) := no_word _ rfl rfl

theorem Laws.Encoding.matrixFetchReturn (r : Nat) (m : Nat) (i : Nat) : Laws.Encoding.Statement (.matrixFetchReturn r m i) := no_word _ rfl rfl

theorem Laws.Encoding.matrixOperandStage (r : Nat) (m : Nat) (c : Nat) (side : Bool) : Laws.Encoding.Statement (.matrixOperandStage r m c side) := no_word _ rfl rfl

theorem Laws.Encoding.matrixBlockStep (r : Nat) (m : Nat) : Laws.Encoding.Statement (.matrixBlockStep r m) := no_word _ rfl rfl

theorem Laws.Encoding.matrixZeroTile (r : Nat) (m : Nat) : Laws.Encoding.Statement (.matrixZeroTile r m) := no_word _ rfl rfl

theorem Laws.Encoding.matrixLoadTile (r : Nat) (m : Nat) : Laws.Encoding.Statement (.matrixLoadTile r m) := no_word _ rfl rfl

theorem Laws.Encoding.matrixWriteTile (r : Nat) (m : Nat) : Laws.Encoding.Statement (.matrixWriteTile r m) := no_word _ rfl rfl

theorem Laws.Encoding.matrixTileComplete (r : Nat) (m : Nat) (i : Nat) : Laws.Encoding.Statement (.matrixTileComplete r m i) := no_word _ rfl rfl

theorem Laws.Encoding.matrixArrival (r : Nat) (m : Nat) (i : Nat) : Laws.Encoding.Statement (.matrixArrival r m i) := no_word _ rfl rfl

theorem Laws.Encoding.pumpRequestPacket (r : Nat) (p : Nat) : Laws.Encoding.Statement (.pumpRequestPacket r p) := no_word _ rfl rfl

theorem Laws.Encoding.pumpRequestStart (r : Nat) (p : Nat) : Laws.Encoding.Statement (.pumpRequestStart r p) := no_word _ rfl rfl

theorem Laws.Encoding.pumpIssue (r : Nat) (p : Nat) : Laws.Encoding.Statement (.pumpIssue r p) := no_word _ rfl rfl

theorem Laws.Encoding.pumpAccessComplete (r : Nat) (p : Nat) (i : Nat) : Laws.Encoding.Statement (.pumpAccessComplete r p i) := no_word _ rfl rfl

theorem Laws.Encoding.pumpBarrierUpdate (r : Nat) (p : Nat) (i : Nat) : Laws.Encoding.Statement (.pumpBarrierUpdate r p i) := no_word _ rfl rfl

theorem Laws.Encoding.pumpRequestComplete (r : Nat) (p : Nat) (i : Nat) : Laws.Encoding.Statement (.pumpRequestComplete r p i) := no_word _ rfl rfl

theorem Laws.Encoding.eventWaitTimeout (r : Nat) : Laws.Encoding.Statement (.eventWaitTimeout r) := no_word _ rfl rfl

theorem Laws.Encoding.teamRetire (r : Nat) : Laws.Encoding.Statement (.teamRetire r) := no_word _ rfl rfl

theorem Laws.Encoding.dispatchHeadRead (q : Nat) : Laws.Encoding.Statement (.dispatchHeadRead q) := no_word _ rfl rfl

theorem Laws.Encoding.distributorSelect (owner : Nat) : Laws.Encoding.Statement (.distributorSelect owner) := no_word _ rfl rfl

theorem Laws.Encoding.teamBind (owner : Nat) : Laws.Encoding.Statement (.teamBind owner) := no_word _ rfl rfl

theorem Laws.Encoding.freeRegionBind (r : Nat) : Laws.Encoding.Statement (.freeRegionBind r) := no_word _ rfl rfl

theorem Laws.Encoding.stoatSample (r : Nat) : Laws.Encoding.Statement (.stoatSample r) := no_word _ rfl rfl

theorem Laws.Encoding.stoatGrowComplete (r : Nat) : Laws.Encoding.Statement (.stoatGrowComplete r) := no_word _ rfl rfl

theorem Laws.Encoding.stoatDrainClear (r : Nat) (st : Nat) : Laws.Encoding.Statement (.stoatDrainClear r st) := no_word _ rfl rfl

theorem Laws.Encoding.dealPortDeliver (r : Nat) (n : Nat) : Laws.Encoding.Statement (.dealPortDeliver r n) := no_word _ rfl rfl

theorem Laws.Encoding.rds (ln : Nat) : Laws.Encoding.Statement (.rds ln) := no_word _ rfl rfl

theorem Laws.Encoding.walk (ln : Nat) : Laws.Encoding.Statement (.walk ln) := no_word _ rfl rfl

theorem Laws.Encoding.rdx (ln : Nat) : Laws.Encoding.Statement (.rdx ln) := no_word _ rfl rfl

theorem Laws.Encoding.rdmm (ln : Nat) : Laws.Encoding.Statement (.rdmm ln) := no_word _ rfl rfl

theorem Laws.Encoding.wbm (ln : Nat) : Laws.Encoding.Statement (.wbm ln) := no_word _ rfl rfl

theorem Laws.Encoding.wbmm (ln : Nat) : Laws.Encoding.Statement (.wbmm ln) := no_word _ rfl rfl

theorem Laws.Encoding.wrh (ln : Nat) : Laws.Encoding.Statement (.wrh ln) := no_word _ rfl rfl

theorem Laws.Encoding.ath (ln : Nat) : Laws.Encoding.Statement (.ath ln) := no_word _ rfl rfl

theorem Laws.Encoding.clre (ln : Nat) : Laws.Encoding.Statement (.clre ln) := no_word _ rfl rfl

theorem Laws.Encoding.grantAck (ln : Nat) : Laws.Encoding.Statement (.grantAck ln) := no_word _ rfl rfl

theorem Laws.Encoding.snps (ln : Nat) (ag : Nat) : Laws.Encoding.Statement (.snps ln ag) := no_word _ rfl rfl

theorem Laws.Encoding.snpi (ln : Nat) (ag : Nat) : Laws.Encoding.Statement (.snpi ln ag) := no_word _ rfl rfl

theorem Laws.Encoding.snpmm (ln : Nat) (ag : Nat) : Laws.Encoding.Statement (.snpmm ln ag) := no_word _ rfl rfl

theorem Laws.Encoding.cisternEvict (die : Nat) (ln : Nat) : Laws.Encoding.Statement (.cisternEvict die ln) := no_word _ rfl rfl

theorem Laws.Encoding.narrowHoldNotice (r : Nat) (ln : Nat) : Laws.Encoding.Statement (.narrowHoldNotice r ln) := no_word _ rfl rfl

theorem Laws.Encoding.narrowReleaseNotice (die : Nat) (ln : Nat) : Laws.Encoding.Statement (.narrowReleaseNotice die ln) := no_word _ rfl rfl

theorem Laws.Encoding.publicationRequest (die : Nat) (ln : Nat) : Laws.Encoding.Statement (.publicationRequest die ln) := no_word _ rfl rfl

theorem Laws.Encoding.recallInvalidate (ag : Nat) (ln : Nat) : Laws.Encoding.Statement (.recallInvalidate ag ln) := no_word _ rfl rfl

theorem Laws.Encoding.translationInvalidation (r : Nat) (ln : Nat) : Laws.Encoding.Statement (.translationInvalidation r ln) := no_word _ rfl rfl

theorem Laws.Encoding.translationWalkComplete (r : Nat) (st : Nat) (el : Nat) (i : Nat) : Laws.Encoding.Statement (.translationWalkComplete r st el i) := no_word _ rfl rfl

theorem Laws.Encoding.restripeJob : Laws.Encoding.Statement (.restripeJob) := no_word _ rfl rfl

theorem Laws.Encoding.restripeJobEnd : Laws.Encoding.Statement (.restripeJobEnd) := no_word _ rfl rfl

theorem Laws.Encoding.martenJobStart (die : Nat) : Laws.Encoding.Statement (.martenJobStart die) := no_word _ rfl rfl

theorem Laws.Encoding.martenTokenEmit (die : Nat) (j : Nat) : Laws.Encoding.Statement (.martenTokenEmit die j) := no_word _ rfl rfl

theorem Laws.Encoding.martenJobEnd (die : Nat) (j : Nat) : Laws.Encoding.Statement (.martenJobEnd die j) := no_word _ rfl rfl

theorem Laws.Encoding.prcmdPreempt (r : Nat) : Laws.Encoding.Statement (.prcmdPreempt r) := no_word _ rfl rfl

theorem Laws.Encoding.prcmdRestore (r : Nat) : Laws.Encoding.Statement (.prcmdRestore r) := no_word _ rfl rfl

theorem Laws.Encoding.prcmdRelease (r : Nat) : Laws.Encoding.Statement (.prcmdRelease r) := no_word _ rfl rfl

theorem Laws.Encoding.prcmdReserve (r : Nat) : Laws.Encoding.Statement (.prcmdReserve r) := no_word _ rfl rfl

theorem Laws.Encoding.drainTimerExpire (r : Nat) : Laws.Encoding.Statement (.drainTimerExpire r) := no_word _ rfl rfl

theorem Laws.Encoding.drawlimExpire (r : Nat) : Laws.Encoding.Statement (.drawlimExpire r) := no_word _ rfl rfl

theorem Laws.Encoding.regionHalted (r : Nat) : Laws.Encoding.Statement (.regionHalted r) := no_word _ rfl rfl

theorem Laws.Encoding.saveComplete (r : Nat) : Laws.Encoding.Statement (.saveComplete r) := no_word _ rfl rfl

theorem Laws.Encoding.restoreComplete (r : Nat) : Laws.Encoding.Statement (.restoreComplete r) := no_word _ rfl rfl

theorem Laws.Encoding.elementTrapRecordQueue (r : Nat) (st : Nat) (el : Nat) : Laws.Encoding.Statement (.elementTrapRecordQueue r st el) := no_word _ rfl rfl

theorem Laws.Encoding.dieLinkFail (f : Nat) : Laws.Encoding.Statement (.dieLinkFail f) := no_word _ rfl rfl

theorem Laws.Encoding.rownWrite (r : Nat) (w : BitVec 64) : Laws.Encoding.Statement (.rownWrite r w) := no_word _ rfl rfl

theorem Laws.Encoding.logRecordWrite : Laws.Encoding.Statement (.logRecordWrite) := no_word _ rfl rfl

theorem Laws.Encoding.meterIntervalBoundary : Laws.Encoding.Statement (.meterIntervalBoundary) := no_word _ rfl rfl

theorem Laws.Encoding.doorbellWrite (fn : Nat) (off : Nat) (w : BitVec 32) : Laws.Encoding.Statement (.doorbellWrite fn off w) := no_word _ rfl rfl

theorem Laws.Encoding.vfWindowRequest (fn : Nat) (rq : HostReq) : Laws.Encoding.Statement (.vfWindowRequest fn rq) := no_word _ rfl rfl

theorem Laws.Encoding.hostRequest (rq : HostReq) : Laws.Encoding.Statement (.hostRequest rq) := no_word _ rfl rfl

theorem Laws.Encoding.functionLevelReset (fn : Nat) : Laws.Encoding.Statement (.functionLevelReset fn) := no_word _ rfl rfl

theorem Laws.Encoding.flitReceive (p : Nat) (ok : Bool) (rq : PeerReq) : Laws.Encoding.Statement (.flitReceive p ok rq) := no_word _ rfl rfl

theorem Laws.Encoding.flitReplay (p : Nat) : Laws.Encoding.Statement (.flitReplay p) := no_word _ rfl rfl

theorem Laws.Encoding.portReceiveTimeout (p : Nat) : Laws.Encoding.Statement (.portReceiveTimeout p) := no_word _ rfl rfl

theorem Laws.Encoding.portRetrain (p : Nat) : Laws.Encoding.Statement (.portRetrain p) := no_word _ rfl rfl

theorem Laws.Encoding.peerLost (d : Nat) : Laws.Encoding.Statement (.peerLost d) := no_word _ rfl rfl

theorem Laws.Encoding.powerTokenRefill (r : Nat) : Laws.Encoding.Statement (.powerTokenRefill r) := no_word _ rfl rfl

theorem Laws.Encoding.pwrbudRecompute : Laws.Encoding.Statement (.pwrbudRecompute) := no_word _ rfl rfl

theorem Laws.Encoding.powerEmergency : Laws.Encoding.Statement (.powerEmergency) := no_word _ rfl rfl

theorem Laws.Encoding.backpressureWindowEnd (r : Nat) : Laws.Encoding.Statement (.backpressureWindowEnd r) := no_word _ rfl rfl

theorem Laws.Encoding.optctlClr (owner : Nat) : Laws.Encoding.Statement (.optctlClr owner) := no_word _ rfl rfl

theorem Laws.Encoding.frmfreeWrite (w : BitVec 64) : Laws.Encoding.Statement (.frmfreeWrite w) := no_word _ rfl rfl

theorem Laws.Encoding.good : Laws.Encoding.Statement (.good) := no_word _ rfl rfl

theorem Laws.Encoding.goodTimeout : Laws.Encoding.Statement (.goodTimeout) := no_word _ rfl rfl

theorem Laws.Encoding.deviceReset (host : Bool) (fail : Nat) : Laws.Encoding.Statement (.deviceReset host fail) := no_word _ rfl rfl

theorem Laws.Encoding.keylockWrite (w : BitVec 64) : Laws.Encoding.Statement (.keylockWrite w) := no_word _ rfl rfl

theorem Laws.Encoding.verifyServe : Laws.Encoding.Statement (.verifyServe) := no_word _ rfl rfl

theorem Laws.Encoding.getVersion : Laws.Encoding.Statement (.getVersion) := no_word _ rfl rfl

theorem Laws.Encoding.getCapabilities : Laws.Encoding.Statement (.getCapabilities) := no_word _ rfl rfl

theorem Laws.Encoding.negotiateAlgorithms : Laws.Encoding.Statement (.negotiateAlgorithms) := no_word _ rfl rfl

theorem Laws.Encoding.getDigests : Laws.Encoding.Statement (.getDigests) := no_word _ rfl rfl

theorem Laws.Encoding.getCertificate : Laws.Encoding.Statement (.getCertificate) := no_word _ rfl rfl

theorem Laws.Encoding.challenge : Laws.Encoding.Statement (.challenge) := no_word _ rfl rfl

theorem Laws.Encoding.getMeasurements (ix : Nat) : Laws.Encoding.Statement (.getMeasurements ix) := no_word _ rfl rfl

theorem Laws.Encoding.deviceRegisterWrite (owner : Nat) (pa : Nat) (w : BitVec 64) : Laws.Encoding.Statement (.deviceRegisterWrite owner pa w) := no_word _ rfl rfl

theorem Laws.Encoding.writeCombiningBufferDrain (r : Nat) : Laws.Encoding.Statement (.writeCombiningBufferDrain r) := no_word _ rfl rfl

end Sys2Proof
end

