-- ==== Sys2Proof/Safety.lean ====
section
/-!
DEFINITION. Safety.lean: what counts as a safe run: no step of it stops, and the memory keeps its canonical form.
-/
namespace Sys2Proof.Machine

/-- The byte memory is in its canonical form. -/
def State.MemOk (s : State) : Prop := Memory.wf s.mem = true

/-- A step answers a next state. -/
def Completes (o : Host.Outcome State Fault Refusal) : Prop := ∃ t, o = .next t

/-- k steps from a state all answer a next state, and the memory is canonical after them. -/
def SafeRun (k : Nat) (s : State) : Prop := ∃ t, core.run k s = .next t ∧ t.MemOk

end Sys2Proof.Machine
end

