-- ==== Sys2Proof/Certificates/Slice0/Obligations.lean ====
section
/-!
DEFINITION. Certificates/Slice0/Obligations.lean: the statements about the device, from the numbered rules of the spec. The
vocabulary that they share comes first: what a step leaves as it was, and what a sequencer or an element does when an
instruction of it completes. `memGet` is the model's read of one byte of memory.
-/
namespace Sys2Proof.Claims
open Sys2Proof.Machine

/-! ## What a step leaves as it was -/

/-- Every byte of memory reads as before. -/
def SameMem (s t : State) : Prop := ∀ a, memGet t.mem a = memGet s.mem a

/-- Every element is as before; every element but one is. -/
def SameElems (s t : State) : Prop := ∀ k, getE t k = getE s k
def OtherElems (key : Nat) (s t : State) : Prop := ∀ k, k ≠ key → getE t k = getE s k

/-- Every region is as before; every region but one is. -/
def SameRegions (s t : State) : Prop := ∀ r, getR t r = getR s r
def OtherRegions (r : Nat) (s t : State) : Prop := ∀ q, q ≠ r → getR t q = getR s q

/-- The units of the package, and what the model keeps for its schedule, are as before. -/
def SameDevice (s t : State) : Prop := { t with regions := s.regions, elems := s.elems, mem := s.mem } = s

/-- Nothing has changed but in region r, and there nothing but its sequencer. -/
structure OnlySeq (r : Nat) (s t : State) : Prop where
  region : { getR t r with seq := getSeq s r } = getR s r
  regions : OtherRegions r s t
  elems : SameElems s t
  mem : SameMem s t
  device : SameDevice s t

/-- Nothing has changed but in region r and its elements. -/
structure OnlyRegion (r : Nat) (s t : State) : Prop where
  regions : OtherRegions r s t
  elems : ∀ k, keyRegion k ≠ r → getE t k = getE s k
  mem : SameMem s t
  device : SameDevice s t

/-! ## The sequencer -/

/-- The sequencer of the region in focus, whose instruction `exec` runs, and that region. -/
def here (s : State) : Nat := s.focus.region
def hereSeq (s : State) : Seq := getSeq s s.focus.region

/-- The value that an instruction reads of register n (R81). -/
def reg (s : State) (n : BitVec 5) : BitVec 64 := getS (hereSeq s) n

/-- An address with the bits that PC holds at 0 cleared: [1:0] and [63:57] (R281). -/
def pcOf (v : BitVec 64) : BitVec 64 := v &&& 0x01FFFFFFFFFFFFFC

/-- The address of the next instruction. -/
def nextPcOf (s : State) : BitVec 64 := pcOf ((hereSeq s).pc + 4)

/-- The registers of a sequencer but for s0 to s31, PC, and what the model keeps of an instruction that waits. -/
def SeqRest (q q' : Seq) : Prop :=
  { q' with regs := q.regs, pc := q.pc, waitStart := q.waitStart, waite := q.waite, asked := q.asked, bar := q.bar, lines := q.lines,
            qputWait := q.qputWait, inUse := q.inUse, nextReq := q.nextReq } = q

/-- The instruction completes and goes to p; no register has changed, and nothing outside the sequencer. -/
structure Goes (p : BitVec 64) (s t : State) : Prop where
  pc : (getSeq t (here s)).pc = p
  regs : ∀ n, getS (getSeq t (here s)) n = reg s n
  rest : SeqRest (hereSeq s) (getSeq t (here s))
  frame : OnlySeq (here s) s t

/-- The instruction completes, writes v to register d and goes to p: a write of s0 is discarded, every other register is
unchanged, and nothing has changed outside the sequencer. -/
structure Writes (d : BitVec 5) (v p : BitVec 64) (s t : State) : Prop where
  dest : getS (getSeq t (here s)) d = if d = 0 then 0 else v
  regs : ∀ n, n ≠ d → getS (getSeq t (here s)) n = reg s n
  pc : (getSeq t (here s)).pc = p
  rest : SeqRest (hereSeq s) (getSeq t (here s))
  frame : OnlySeq (here s) s t

/-- Sequencer r takes a trap (R438): the pc goes to TPC, the cause to TCAUSE (SRC in [19:16], ASYNC in [8]), the value to TVAL and the
mode to TSTAT.PMODE; supervisor mode is entered at TVEC; no other register has changed. -/
structure TakesTrap (r : Nat) (cause : BitVec 8) (src : Nat) (async : Bool) (val : BitVec 64) (s t : State) : Prop where
  tpc : (getSeq t r).tpc = (getSeq s r).pc
  cause : (getSeq t r).tcause = BitVec.ofNat 64 (src * 65536 + (if async then 256 else 0) + cause.toNat)
  value : (getSeq t r).tval = val
  pmode : (getSeq t r).pmode = (getSeq s r).sup
  mode : (getSeq t r).sup = true
  pc : (getSeq t r).pc = (getSeq s r).tvec
  regs : ∀ n, getS (getSeq t r) n = getS (getSeq s r) n
  rest : { getSeq t r with
      tpc := (getSeq s r).tpc, tcause := (getSeq s r).tcause, tval := (getSeq s r).tval, pmode := (getSeq s r).pmode,
      sup := (getSeq s r).sup, pc := (getSeq s r).pc, waitStart := (getSeq s r).waitStart,
      waite := (getSeq s r).waite, asked := (getSeq s r).asked, bar := (getSeq s r).bar, lines := (getSeq s r).lines,
      qputWait := (getSeq s r).qputWait, inUse := (getSeq s r).inUse, nextReq := (getSeq s r).nextReq } = getSeq s r
  frame : OnlySeq r s t

/-- The instruction takes a synchronous trap. -/
def Traps (cause : BitVec 8) (val : BitVec 64) (s t : State) : Prop := TakesTrap (here s) cause 0 false val s t

/-! ### Results of the ALU group and of the immediate forms (R288, R289) -/

/-- Two-operand instructions and their results. -/
def alu2Results : List ((BitVec 5 → BitVec 5 → BitVec 5 → Instr) × (BitVec 64 → BitVec 64 → BitVec 64)) :=
  [(.seqAdd, fun a b => a + b), (.seqSub, fun a b => a - b),
   (.seqAnd, fun a b => a &&& b), (.seqOr, fun a b => a ||| b), (.seqXor, fun a b => a ^^^ b),
   (.seqShl, fun a b => a <<< (b.toNat % 64)), (.seqShr, fun a b => a >>> (b.toNat % 64)),
   (.seqSar, fun a b => a.sshiftRight (b.toNat % 64)),
   (.seqMul, fun a b => a * b),
   (.seqMulh, fun a b => (a.signExtend 128 * b.signExtend 128).extractLsb' 64 64),
   (.seqMulhu, fun a b => (a.setWidth 128 * b.setWidth 128).extractLsb' 64 64),
   (.div, fun a b => if b = 0 then -1 else a.sdiv b), (.divu, fun a b => if b = 0 then -1 else a / b),
   (.rem, fun a b => if b = 0 then a else a.srem b), (.remu, fun a b => if b = 0 then a else a % b),
   (.seqMin, fun a b => if a.slt b then a else b), (.seqMax, fun a b => if a.slt b then b else a),
   (.seqMinu, fun a b => if a.ult b then a else b), (.seqMaxu, fun a b => if a.ult b then b else a),
   (.slt, fun a b => if a.slt b then 1 else 0), (.sltu, fun a b => if a.ult b then 1 else 0)]

/-- One-operand instructions. -/
def alu1Results : List ((BitVec 5 → BitVec 5 → Instr) × (BitVec 64 → BitVec 64)) :=
  [(.seqClz, fun a => a.clz), (.seqPopc, fun a => a.cpop)]

/-- Instructions with a 16-bit immediate, and the shifts by a 6-bit immediate. -/
def immResults : List ((BitVec 5 → BitVec 5 → BitVec 16 → Instr) × (BitVec 64 → BitVec 16 → BitVec 64)) :=
  [(.seqAddi, fun a i => a + i.signExtend 64), (.seqAndi, fun a i => a &&& i.setWidth 64),
   (.seqOri, fun a i => a ||| i.setWidth 64), (.seqXori, fun a i => a ^^^ i.setWidth 64),
   (.slti, fun a i => if a.slt (i.signExtend 64) then 1 else 0)]

def shiftResults : List ((BitVec 5 → BitVec 5 → BitVec 6 → Instr) × (BitVec 64 → BitVec 6 → BitVec 64)) :=
  [(.seqShli, fun a n => a <<< n.toNat), (.seqShri, fun a n => a >>> n.toNat), (.seqSari, fun a n => a.sshiftRight n.toNat)]

/-- The conditions of the branches (R292). -/
def branchConditions : List ((BitVec 5 → BitVec 5 → BitVec 16 → Instr) × (BitVec 64 → BitVec 64 → Bool)) :=
  [(.beq, fun a b => a == b), (.bne, fun a b => a != b), (.blt, fun a b => a.slt b), (.bge, fun a b => !a.slt b),
   (.bltu, fun a b => a.ult b), (.bgeu, fun a b => !a.ult b)]

end Sys2Proof.Claims

open Sys2Proof Sys2Proof.Machine Sys2Proof.Claims

/-! # The sequencer -/

/-- R288: each instruction of the ALU group completes with its result in sd; none traps, and nothing else changes. R289: the immediate
forms, and LHI, which writes its sign-extended immediate times 2^16 (R83). -/
def Obligations.SequencerAlu : Prop :=
  ((∀ p ∈ alu2Results, ∀ d a b s, ∃ t, exec (p.1 d a b) s = .next t ∧ Writes d (p.2 (reg s a) (reg s b)) (nextPcOf s) s t) ∧
   (∀ p ∈ alu1Results, ∀ d a s, ∃ t, exec (p.1 d a) s = .next t ∧ Writes d (p.2 (reg s a)) (nextPcOf s) s t)) ∧
  ((∀ p ∈ immResults, ∀ d a i s, ∃ t, exec (p.1 d a i) s = .next t ∧ Writes d (p.2 (reg s a) i) (nextPcOf s) s t) ∧
   (∀ p ∈ shiftResults, ∀ d a n s, ∃ t, exec (p.1 d a n) s = .next t ∧ Writes d (p.2 (reg s a) n) (nextPcOf s) s t) ∧
   (∀ d i s, ∃ t, exec (.lhi d i) s = .next t ∧ Writes d (i.signExtend 64 * 65536) (nextPcOf s) s t))

/-- R84, R292: where branches and jumps go. R84: a JR to an address with bits [1:0] ≠ 0 traps with cause 0x04 and writes no register. -/
def Obligations.SequencerBranches : Prop :=
  ((∀ p ∈ branchConditions, ∀ a b o s, ∃ t, exec (p.1 a b o) s = .next t ∧
     Goes (if p.2 (reg s a) (reg s b) then pcOf ((hereSeq s).pc + 4 * o.signExtend 64) else nextPcOf s) s t) ∧
   (∀ o s, ∃ t, exec (.jmp o) s = .next t ∧ Goes (pcOf ((hereSeq s).pc + 4 * o.signExtend 64)) s t) ∧
   (∀ o s, ∃ t, exec (.jal o) s = .next t ∧
     Writes 31 ((hereSeq s).pc + 4) (pcOf ((hereSeq s).pc + 4 * o.signExtend 64)) s t) ∧
   (∀ d a s, (reg s a).extractLsb' 0 2 = 0 →
     ∃ t, exec (.jr d a) s = .next t ∧ Writes d ((hereSeq s).pc + 4) (pcOf (reg s a)) s t)) ∧
  (∀ d a s, (reg s a).extractLsb' 0 2 ≠ 0 → ∃ t, exec (.jr d a) s = .next t ∧ Traps 0x04 (reg s a) s t)

namespace Sys2Proof.Claims
open Sys2Proof.Machine

/-! ### The sequencer and memory (R284, R290, R291, R356) -/

/-- The region's TLB maps an address of its sequencer to x, which permits the access (kind 0 read, 1 write, 2 atomic), leads to
memory of this device and keeps the place within a line; no request of an access of the instruction is on its way yet. -/
structure Maps (s : State) (va kind : Nat) (x : Xlat) : Prop where
  range : va < 2 ^ 57
  hit : (getR s (here s)).tlb.find? (fun y => xlatHit y (asidOf (getR s (here s))) (ownerOf (getR s (here s))) va) = some x
  right : permitted x.pte (seqReq s (here s) kind) = true
  memory : paClass s (x.pa + (va - x.va)) = .gddr
  place : (x.pa + (va - x.va)) % 64 = va % 64
  begins : (hereSeq s).inUse = none

/-- The physical address. -/
def paOf (x : Xlat) (va : Nat) : Nat := x.pa + (va - x.va)

/-- n bytes of a line from the place of an address on. -/
def lineAtPa (d : Line) (pa n : Nat) : BitVec (8 * n) := d.extractLsb' (8 * (pa % 64)) (8 * n)

/-- The line with n bytes of v at the place of an address. -/
def lineWith (d : Line) (pa n : Nat) (v : BitVec 64) : Line :=
  let m : Line := ((BitVec.allOnes (8 * n)).setWidth 512) <<< (8 * (pa % 64))
  (d &&& ~~~ m) ||| (((v.extractLsb' 0 (8 * n)).setWidth 512) <<< (8 * (pa % 64)))

/-- Loads and stores, with their sizes in bytes. -/
def loadForms : List ((BitVec 5 → BitVec 5 → BitVec 16 → Instr) × Nat) := [(.ldb, 1), (.ldh, 2), (.ldw, 4), (.ldd, 8)]
def storeForms : List ((BitVec 5 → BitVec 5 → BitVec 16 → Instr) × Nat) := [(.stb, 1), (.sth, 2), (.stw, 4), (.std, 8)]

/-- The address of a load or store: exact, with the register read as unsigned (R290). -/
def addressOf (s : State) (a : BitVec 5) (i : BitVec 16) : Int := (reg s a).toNat + i.toInt

/-- A store completes (R282, R284): the bytes wait to be performed, a copy of the line in the data cache is updated, or goes where the
page is of another memory type than 0 (R385), no register and no byte of memory changes yet. -/
structure Stored (n va : Nat) (x : Xlat) (v : BitVec 64) (s t : State) : Prop where
  pc : (getSeq t (here s)).pc = nextPcOf s
  regs : ∀ m, getS (getSeq t (here s)) m = reg s m
  store : ∃ w, (getSeq t (here s)).stores = (hereSeq s).stores ++ [w] ∧ w.pa = paOf x va ∧ w.xlat = x ∧ w.scope = .die ∧
    w.asked = false ∧ w.id = (hereSeq s).nextStore ∧ w.data.length = n ∧ ∀ j < n, w.data[j]? = some (v.extractLsb' (8 * j) 8)
  cache : (getSeq t (here s)).dcache = if pteMt x.pte = 0 then
      (hereSeq s).dcache.map fun c => if c.line = paOf x va / 64 then { c with data := lineWith c.data (paOf x va) n v } else c
    else (hereSeq s).dcache.filter fun c => c.line != paOf x va / 64
  rest : SeqRest (hereSeq s) { getSeq t (here s) with
    stores := (hereSeq s).stores, nextStore := (hereSeq s).nextStore, dcache := (hereSeq s).dcache }
  frame : OnlySeq (here s) s t

/-- The ten atomic operations on values of w bits (R86, R220). -/
def atomicResult (o : BitVec 4) {w : Nat} (old v c : BitVec w) : BitVec w :=
  match o.toNat with
  | 0 => old + v | 1 => old &&& v | 2 => old ||| v | 3 => old ^^^ v
  | 4 => if old.sle v then old else v | 5 => if old.sle v then v else old
  | 6 => if old.ule v then old else v | 7 => if old.ule v then v else old
  | 8 => v | _ => if old = c then v else old

/-- The die's cistern holds a line that it may write alone, no write-combining buffer of a region of the die does, the line reads well,
and the page's placement lets the die cache it. -/
structure Owned (s : State) (r : Nat) (x : Xlat) (pa : Nat) (c : CLine) : Prop where
  held : cLine s (dieOf r) (lineNo pa) = some c
  state : c.st = .exclusive ∨ c.st = .modified
  buffer : wcbHas (getR s r) (lineNo pa) = false
  buffers : otherHolder s r (lineNo pa) = none
  well : lineBad s (lineNo pa) = none
  cached : pteMt x.pte = 0
  die : dieCaches x.plc (dieOf r) = true

/-- Only one line of one die's cistern has changed of what the units of the package hold, by one narrow write (the model counts
them). -/
structure OnlyCistern (die ln : Nat) (s t : State) : Prop where
  lines : ∀ d l, (d ≠ die ∨ l ≠ ln) → cLine t d l = cLine s d l
  walkers : ∀ d, (getCist t d).walkers = (getCist s d).walkers ∧ (getCist t d).narrow = (getCist s d).narrow ∧
    (getCist t d).sent = (getCist s d).sent
  writes : t.wseq = s.wseq + 1
  device : { t with regions := s.regions, elems := s.elems, mem := s.mem, cisterns := s.cisterns, wseq := s.wseq } = s

/-- An ATOM of n bytes is done at the die's cistern (R291); bits of a launch-queue entry or a ring descriptor that no access writes
stay (R7, R8). -/
structure AtomicDone (n : Nat) (d : BitVec 5) (old : BitVec (8 * n)) (new : BitVec (8 * n)) (pa : Nat) (c : CLine) (s t : State) : Prop where
  dest : getS (getSeq t (here s)) d = if d = 0 then 0 else old.setWidth 64
  regs : ∀ m, m ≠ d → getS (getSeq t (here s)) m = reg s m
  pc : (getSeq t (here s)).pc = nextPcOf s
  line : ∃ c', cLine t (dieOf (here s)) (lineNo pa) = some c' ∧ c'.st = .modified ∧
    c'.data = keepRo s (lineNo pa) c.data (lineWith c.data pa n (new.setWidth 64))
  cache : (getSeq t (here s)).dcache = (hereSeq s).dcache.filter fun c => c.line != pa / 64
  rest : SeqRest (hereSeq s) { getSeq t (here s) with dcache := (hereSeq s).dcache, touched := (hereSeq s).touched }
  region : { getR t (here s) with seq := hereSeq s } = getR s (here s)
  regions : OtherRegions (here s) s t
  elems : SameElems s t
  mem : SameMem s t
  others : OnlyCistern (dieOf (here s)) (lineNo pa) s t

/-- A fence completes: an acquire empties the data cache; the list of lines that earlier writes may still have to reach further is
the model's own. -/
structure Fenced (acquire : Bool) (s t : State) : Prop where
  pc : (getSeq t (here s)).pc = nextPcOf s
  regs : ∀ n, getS (getSeq t (here s)) n = reg s n
  cache : (getSeq t (here s)).dcache = if acquire then [] else (hereSeq s).dcache
  rest : SeqRest (hereSeq s) { getSeq t (here s) with dcache := (hereSeq s).dcache, touched := (hereSeq s).touched }
  frame : OnlySeq (here s) s t

end Sys2Proof.Claims

/-- R284, R290: a load of a page of memory type 0 that hits the data cache writes the bytes at its address, sign-extended, to sd, and changes nothing else; LDL
(R90) reads the doubleword at its own address, rounded down to 8, plus 8 times its immediate. R282, R284, R290: a store completes
once it is translated, and is performed later. -/
def Obligations.SequencerLoadsAndStores : Prop :=
  ((∀ p ∈ loadForms, ∀ d a i s va x c, addressOf s a i = (va : Nat) → va % p.2 = 0 → Maps s va 0 x →
     pteMt x.pte = 0 → storePending (hereSeq s) (paOf x va) = false → (hereSeq s).dcache.find? (fun l => l.line == paOf x va / 64) = some c →
     ∃ t, exec (p.1 d a i) s = .next t ∧ Writes d ((lineAtPa c.data (paOf x va) p.2).signExtend 64) (nextPcOf s) s t) ∧
   (∀ d i s va x c, (((hereSeq s).pc.toNat / 8 * 8 : Nat) : Int) + 8 * i.toInt = (va : Nat) → Maps s va 0 x →
     pteMt x.pte = 0 → storePending (hereSeq s) (paOf x va) = false → (hereSeq s).dcache.find? (fun l => l.line == paOf x va / 64) = some c →
     ∃ t, exec (.ldl d i) s = .next t ∧ Writes d (lineAtPa c.data (paOf x va) 8) (nextPcOf s) s t)) ∧
  (∀ p ∈ storeForms, ∀ d a i s va x, addressOf s a i = (va : Nat) → va % p.2 = 0 → Maps s va 1 x →
     ∃ t, exec (p.1 d a i) s = .next t ∧ Stored p.2 va x (reg s d) s t)

/-- R86, R291: an ATOM at scope reg or die on a line that the die owns: the old value goes to sd, zero-extended, and Apply's result to
the line; one at a wider scope is done at the home (HomeRequests states that). R284, R356, R397: a fence at a scope of 1 to 4
completes once the sequencer's earlier writes are performed there; the acquiring forms empty the data cache. TSYNC completes once
they are translation-complete. -/
def Obligations.SequencerAtomicsAndFences : Prop :=
  (∀ d a b (sc : BitVec 3) (z : BitVec 2) (o : BitVec 4) s x c, (sc = 1 ∨ sc = 2) → z.toNat < 2 → o.toNat < 10 →
     let n := if z = 0 then 4 else 8
     let va := (reg s a).toNat
     let pa := paOf x va
     let old := lineAtPa c.data pa n
     va % n = 0 → Maps s va 2 x → storePending (hereSeq s) pa = false → Owned s (here s) x pa c →
     ∃ t, exec (.seqAtom d a b sc z o) s = .next t ∧
       AtomicDone n d old (atomicResult o old ((reg s b).setWidth (8 * n)) ((reg s d).setWidth (8 * n))) pa c s t) ∧
  ((∀ (c : BitVec 3) s, 1 ≤ c.toNat → c.toNat ≤ 4 → seqPerformed s (here s) c.toNat = true →
     (∃ t, exec (.seqFenceFull c) s = .next t ∧ Fenced true s t) ∧
     (∃ t, exec (.seqFenceRel c) s = .next t ∧ Fenced false s t)) ∧
   (∀ (c : BitVec 3) s, 1 ≤ c.toNat → c.toNat ≤ 4 → ∃ t, exec (.seqFenceAcq c) s = .next t ∧ Fenced true s t) ∧
   (∀ s, seqPerformed s (here s) 2 = true → ∃ t, exec .seqTsync s = .next t ∧ Fenced false s t))

namespace Sys2Proof.Claims
open Sys2Proof.Machine

/-! ### Control registers (R286, R287, R437) -/

/-- A control register number is assigned, and the mode may reach it. -/
def MayRead (s : State) (n : BitVec 12) : Prop := csrAssigned n.toNat = true ∧ (csrSuper n.toNat = true → (hereSeq s).sup = true)
def MayWrite (s : State) (n : BitVec 12) : Prop := MayRead s n ∧ csrWritable n.toNat = true

/-- What some registers read as. -/
def readValues : List (BitVec 12 × (Region → BitVec 64)) :=
  [(0x000, fun x => x.seq.fpctl.setWidth 64), (0x001, fun x => x.seq.fpst.setWidth 64), (0x003, fun x => BitVec.ofNat 64 x.cycle),
   (0x004, fun x => x.seq.rtentry), (0x005, fun x => x.seq.tvec), (0x006, fun x => x.seq.tpc), (0x007, fun x => x.seq.tcause),
   (0x008, fun x => x.seq.tval), (0x00A, fun x => x.seq.tscr), (0x010, fun x => x.seq.slotadr), (0x011, fun _ => 0),
   (0x012, fun x => x.seq.strmctl), (0x013, fun x => x.seq.cfgerr), (0x018, fun x => x.seq.sqside),
   (0x014, fun x => tget x.seq.cfgmap 0 0), (0x015, fun x => tget x.seq.cfgmap 1 0), (0x016, fun x => tget x.seq.cfgmap 2 0),
   (0x01A, fun x => tget x.seq.codewin 0 0), (0x01B, fun x => tget x.seq.codewin 1 0),
   (0x01C, fun x => tget x.seq.sqbind 0 0), (0x01F, fun x => tget x.seq.sqbind 3 0),
   (0x020, fun x => tget x.seq.spbind 0 0), (0x02F, fun x => tget x.seq.spbind 15 0)]

/-- What a write of some registers does to the sequencer (R54, R55, R122, R177, R287, R437). -/
def writeEffects : List (BitVec 12 × (BitVec 64 → Seq → Seq)) :=
  [(0x000, fun w q => { q with fpctl := w.setWidth 32 &&& 7 }),
   (0x001, fun w q => { q with fpst := q.fpst &&& ~~~ (w.setWidth 32 &&& 31) }),
   (0x004, fun w q => { q with rtentry := pcOf w }), (0x005, fun w q => { q with tvec := pcOf w }),
   (0x006, fun w q => { q with tpc := pcOf w }), (0x009, fun w q => { q with pmode := w.getLsbD 0 }),
   (0x00A, fun w q => { q with tscr := w }), (0x010, fun w q => { q with slotadr := w &&& 0x1FFF }),
   (0x012, fun w q => { q with strmctl := w &&& 0x3FF })]

/-- The writes that are steps of units of their own, with the value that a SETC of the register carries for them. -/
def registerSteps (r : Nat) : List (BitVec 12 × (BitVec 64 → Prop) × (BitVec 64 → Instr)) :=
  [(0x00C, fun w => w.getLsbD 0 = true, fun _ => .etpop r), (0x056, fun w => w.getLsbD 0 = true, fun _ => .xfqpop r),
   (0x00D, fun w => w.extractLsb' 11 2 = 1, fun w => .etactResume r (w.extractLsb' 6 5).toNat (w.extractLsb' 2 4).toNat),
   (0x00D, fun w => w.extractLsb' 11 2 = 2, fun w => .etactHalt r (w.extractLsb' 6 5).toNat (w.extractLsb' 2 4).toNat),
   (0x011, fun _ => True, fun w => .slotdatWrite r w),
   (0x014, fun _ => True, fun w => .cfgmapWrite r 0 w), (0x016, fun _ => True, fun w => .cfgmapWrite r 2 w),
   (0x01C, fun _ => True, fun w => .sqbindWrite r 0 w), (0x01F, fun _ => True, fun w => .sqbindWrite r 3 w),
   (0x020, fun _ => True, fun w => .spbindWrite r 0 w), (0x02F, fun _ => True, fun w => .spbindWrite r 15 w),
   (0x070, fun w => w.extractLsb' 0 2 = 2, fun _ => .retry r 0), (0x090, fun w => w.extractLsb' 0 2 = 1, fun _ => .clr r 1)]

/-- The instruction moves on to the next one from a state in which its effect stands. -/
def MovesOn (s u t : State) : Prop := t = modSeq u (here s) fun q => { dropWait q with pc := pcOf (q.pc + 4) }

/-! ### Traps and modes -/

/-- The privileged instructions, with the operands that a supervisor could give them (R82). -/
def privileged (a d : BitVec 5) (w : BitVec 1) : List Instr :=
  [.tret, .ldcfg a d, .ldcfgClr d, .ldcfgCode a w, .place a, .placeFrz, .placeThaw, .placeSt d, .restripe a, .verify a d]

end Sys2Proof.Claims

/-- R286, R287: GETC of an assigned register that the mode may reach writes its value to sd; a read that finds an engine
idle also empties the data cache (R354). An unassigned number traps with cause 0x02, a supervisor register in team mode with 0x07. -/
def Obligations.ControlRegisterReads : Prop :=
  (∀ p ∈ readValues, ∀ d s, MayRead s p.1 → ∃ t, exec (.getc d p.1) s = .next t ∧ Writes d (p.2 (getR s (here s))) (nextPcOf s) s t) ∧
  (∀ d n s, MayRead s n → csrAcquires s (here s) n.toNat = false →
    ∃ t, exec (.getc d n) s = .next t ∧ Writes d (csrRead s (here s) n.toNat) (nextPcOf s) s t) ∧
  (∀ d n s, MayRead s n → csrAcquires s (here s) n.toNat = true → ∃ t u, exec (.getc d n) s = .next t ∧
    Writes d (csrRead s (here s) n.toNat) (nextPcOf s) s u ∧ t = modSeq u (here s) fun q => { q with dcache := [] }) ∧
  (∀ d n s, csrAssigned n.toNat = false → ∃ t, exec (.getc d n) s = .next t ∧ Traps 0x02 0 s t) ∧
  (∀ d n s, csrAssigned n.toNat = true → csrSuper n.toNat = true → (hereSeq s).sup = false →
    ∃ t, exec (.getc d n) s = .next t ∧ Traps 0x07 0 s t)

/-- R286, R287, R437: SETC writes the writable fields of a register before the next instruction; the writes that are steps of other
units have the effect of those steps. A number that is unassigned or has no writable field traps with cause 0x02, and then a
supervisor register in team mode with 0x07. -/
def Obligations.ControlRegisterWrites : Prop :=
  (∀ p ∈ writeEffects, ∀ a s, MayWrite s p.1 → ∃ t, exec (.setc a p.1) s = .next t ∧
    MovesOn s (modSeq s (here s) (p.2 (reg s a))) t) ∧
  (∀ a s, regionOk (here s) = true → ∀ p ∈ registerSteps (here s), MayWrite s p.1 → p.2.1 (reg s a) →
    ∀ u, csrWrite s (here s) p.1.toNat (reg s a) = .ok u →
      exec (p.2.2 (reg s a)) s = .next u ∧ ∃ t, exec (.setc a p.1) s = .next t ∧ MovesOn s u t) ∧
  (∀ a n s c, MayWrite s n → csrWrite s (here s) n.toNat (reg s a) = .trap c →
    ∃ t, exec (.setc a n) s = .next t ∧ Traps c 0 s t) ∧
  (∀ a n s, csrAssigned n.toNat = false ∨ csrWritable n.toNat = false → ∃ t, exec (.setc a n) s = .next t ∧ Traps 0x02 0 s t) ∧
  (∀ a n s, csrAssigned n.toNat = true → csrWritable n.toNat = true → csrSuper n.toNat = true → (hereSeq s).sup = false →
    ∃ t, exec (.setc a n) s = .next t ∧ Traps 0x07 0 s t)

/-- R87, R89, R439: TRAP, BKPT, an illegal word and a fetch fault take the trap with their cause. R436, R438: in team mode the pending
asynchronous trap of the lowest class is taken, with the pc of the next instruction in TPC; a pending one leaves the list, and class
2 stands for the head of the element trap queue. -/
def Obligations.SequencerTraps : Prop :=
  ((∀ n s, ∃ t, exec (.seqTrap n) s = .next t ∧ Traps 0x10 (n.setWidth 64) s t) ∧
   (∀ n s, ∃ t, exec (.seqBkpt n) s = .next t ∧ Traps 0x11 (n.setWidth 64) s t) ∧
   (∀ c s, ∃ t, exec (.illegalInstruction c) s = .next t ∧ Traps c 0 s t) ∧
   (∀ c s, ∃ t, exec (.instructionFetchFault c) s = .next t ∧ Traps c (if c = 0x03 then 0 else (hereSeq s).pc) s t)) ∧
  (∀ r s, regionOk r = true → (getSeq s r).sup = false → (getSeq s r).asked = false → (getSeq s r).exiting = false →
     ((getSeq s r).pending ≠ [] ∨ (getR s r).etq ≠ []) →
     ∃ p t u, exec (.asyncTrapTake r) s = .next t ∧ TakesTrap r p.cause p.src true p.val u t ∧
       u = modSeq s r (fun q => { q with pending := removeFirst (fun y => y == p) q.pending }) ∧
       (p ∈ (getSeq s r).pending ∨ ∃ h l, (getR s r).etq = h :: l ∧ p = ⟨2, h.extractLsb' 32 8, 1, 0⟩) ∧
       (∀ y ∈ (getSeq s r).pending, p.cls ≤ y.cls) ∧ ((getR s r).etq ≠ [] → p.cls ≤ 2))

/-- R290: an address below 0 or at or above 2^57 traps with cause 0x06, one that is no multiple of the size with 0x04; TVAL is the
address. R82, R87: a privileged instruction in team mode traps with cause 0x07. R86, R87, R294: reserved field values trap with
cause 0x02 and a reserved ATOM operation with 0x01, before any effect. -/
def Obligations.InstructionTraps : Prop :=
  ((∀ p ∈ loadForms ++ storeForms, ∀ d a i s, (addressOf s a i < 0 ∨ 2 ^ 57 ≤ addressOf s a i) →
     ∃ t, exec (p.1 d a i) s = .next t ∧ Traps 0x06 (BitVec.ofInt 64 (addressOf s a i)) s t) ∧
   (∀ p ∈ loadForms ++ storeForms, ∀ d a i s va, addressOf s a i = (va : Nat) → va < 2 ^ 57 → va % p.2 ≠ 0 →
     ∃ t, exec (p.1 d a i) s = .next t ∧ Traps 0x04 (BitVec.ofNat 64 va) s t)) ∧
  (∀ a d w s, (hereSeq s).sup = false → ∀ i ∈ privileged a d w, ∃ t, exec i s = .next t ∧ Traps 0x07 0 s t) ∧
  ((∀ (c : BitVec 3) s, (c = 0 ∨ 5 ≤ c.toNat) → ∀ i ∈ [Instr.seqFenceFull c, .seqFenceRel c, .seqFenceAcq c],
     ∃ t, exec i s = .next t ∧ Traps 0x02 0 s t) ∧
   (∀ d a b (c : BitVec 3) (z : BitVec 2) (o : BitVec 4) s, 10 ≤ o.toNat →
     ∃ t, exec (.seqAtom d a b c z o) s = .next t ∧ Traps 0x01 0 s t) ∧
   (∀ d a b (c : BitVec 3) (z : BitVec 2) (o : BitVec 4) s, o.toNat < 10 → (c = 0 ∨ 5 ≤ c.toNat ∨ 2 ≤ z.toNat) →
     ∃ t, exec (.seqAtom d a b c z o) s = .next t ∧ Traps 0x02 0 s t) ∧
   (∀ a b p e (c : BitVec 3) x v s, 5 ≤ c.toNat → ∃ t, exec (.qput a b p e c x v) s = .next t ∧ Traps 0x02 0 s t) ∧
   (∀ a b (c : BitVec 3) s, 5 ≤ c.toNat → ∀ i ∈ [Instr.tbarr a c, .tbwait a b c], ∃ t, exec i s = .next t ∧ Traps 0x02 0 s t))

/-- R440: TRET sets PC to TPC and MODE to PMODE and changes nothing else. R311: YIELD only moves on, unless a request is held at the
draw boundary; then the region also begins to stop. R295: WAITE takes the head of the event queue, and writes 0 when its time has passed
before an entry came. R310: EXIT sets the end mark and waits from then on. R482: it also writes POINT in the operating-point table where that
is in use.
The model's own readings and choices in it: log 23. -/
def Obligations.ReturnYieldWaitExit : Prop :=
  (∀ s, (hereSeq s).sup = true → ∃ t, exec .tret s = .next t ∧
    t = modSeq s (here s) fun q => { q with pc := q.tpc, sup := q.pmode }) ∧
  (∀ s, (getR s (here s)).rstate ≠ .holding → ∃ t, exec .yield s = .next t ∧ Goes (nextPcOf s) s t) ∧
  (∀ s, (getR s (here s)).rstate = .holding → ∃ t u, exec .yield s = .next t ∧ Goes (nextPcOf s) s u ∧
    t = modR u (here s) fun x => { x with rstate := .stopping, empty := false, holdFrom := none, drainFrom := none }) ∧
  (∀ a d e l s, (hereSeq s).events = e :: l →
    (∀ n d', (hereSeq s).waite = some (some n, d') → (getR s (here s)).cycle < n ∨ (hereSeq s).evFirst < n) →
    ∃ t u, exec (.waite a d) s = .next t ∧ Writes d e (nextPcOf s) s u ∧ t = modSeq u (here s) fun q => { q with events := l }) ∧
  (∀ a d s n d', (hereSeq s).waite = some (some n, d') → ((hereSeq s).events = [] ∨ n ≤ (hereSeq s).evFirst) → n ≤ (getR s (here s)).cycle →
    ∃ t, exec (.waite a d) s = .next t ∧ Writes d 0 (nextPcOf s) s t) ∧
  (∀ r s n d, regionOk r = true → (getSeq s r).waite = some (some n, d) → ((getSeq s r).events = [] ∨ n ≤ (getSeq s r).evFirst) →
    n ≤ (getR s r).cycle → acting (getR s r) = true → ∃ t u, exec (.eventWaitTimeout r) s = .next t ∧ u = { s with focus := { s.focus with region := r } } ∧
      Writes d 0 (nextPcOf u) u { t with focus := u.focus }) ∧
  (∀ s, (hereSeq s).exiting = false → ∃ t u, exec .exit s = .next t ∧ u = { s with optTable := t.optTable, free := t.free } ∧
    (getSeq t (here s)).endMark = true ∧ (getSeq t (here s)).exiting = true ∧ (getSeq t (here s)).pending = [] ∧
    (getSeq t (here s)).pc = (hereSeq s).pc ∧ (∀ n, getS (getSeq t (here s)) n = reg s n) ∧ OnlySeq (here s) u t ∧
    (optUsed s (getR s (here s)) = false → u = s) ∧
    ∀ m, (getR s (here s)).team = some m → optUsed s (getR s (here s)) = true → ∃ l, (∀ p ∈ l, p ∈ s.optTable) ∧
      t.optTable = ((m.owner, m.kid, m.phase), (getR s (here s)).point) :: l)

namespace Sys2Proof.Claims
open Sys2Proof.Machine

/-! ### Instructions of the sequencer that command the region's engines -/

/-- A state that differs at most in the lines of records that the instruction of the sequencer has read so far. -/
def ReadBy (s u : State) : Prop := ∃ l, u = modSeq s (here s) fun q => { q with lines := l }

/-- The sequencer's read of a record of n bytes is at hand: mapped, permitted, with no write of its own in the way, and its lines in the
data cache or read already; u is the state after the read. -/
def Readable (s : State) (va n : Nat) (u : State) (bs : List Byte) : Prop := seqRecord s (here s) va n = .ok u bs ∧ ReadBy s u

/-- A tile image at hand. -/
def ReadableImage (s : State) (va : Nat) (u : State) (bs : List Byte) : Prop := seqImage s (here s) va = .ok u bs ∧ ReadBy s u

/-- The instruction has completed, and outside its sequencer only island state of the region has changed (and the model's count of
MRUNs). -/
structure IslandsChanged (m : BitVec 4) (s t : State) : Prop where
  pc : (getSeq t (here s)).pc = nextPcOf s
  regs : ∀ n, getS (getSeq t (here s)) n = reg s n
  rest : SeqRest (hereSeq s) (getSeq t (here s))
  others : ∀ i, (4 ≤ i ∨ m.getLsbD i = false) → getM t (here s) i = getM s (here s) i
  region : { getR t (here s) with seq := hereSeq s, islands := (getR s (here s)).islands, mruns := (getR s (here s)).mruns } = getR s (here s)
  regions : OtherRegions (here s) s t
  elems : SameElems s t
  mem : SameMem s t
  device : SameDevice s t

/-- Context c of an island holds a record or none, with its slots emptied; its other contexts, its accumulators and its runs stay. -/
structure ContextSet (c : Nat) (v : Option (BitVec 1024)) (i j : Island) : Prop where
  ctx : ctxOf j c = { rec_ := v, fault := false }
  others : ∀ d, d ≠ c → ctxOf j d = ctxOf i d
  slotsA : (tget j.ports (2 * c) {}).toks = []
  slotsB : (tget j.ports (2 * c + 1) {}).toks = []
  flt : j.mxflt = 0
  acc : j.acc = i.acc
  runs : j.runs = i.runs
  flags : j.flags = i.flags

/-- The four kinds of MRUN. -/
def mrunForms : List ((BitVec 5 → BitVec 5 → BitVec 4 → BitVec 2 → BitVec 4 → BitVec 4 → Instr) × TileKind) :=
  [(.mrunMma, .mma), (.mrunZero, .zero), (.mrunLoad, .load), (.mrunWrite, .write)]

/-- The run that MRUN arms (R239, R252): TCNT in sa[15:0], KEXT in sa[31:16], the first tile in sb. -/
def armedRun (s : State) (k : TileKind) (va vb : BitVec 64) (c : BitVec 2) (acc st : BitVec 4) (id : Nat) : Run where
  id := id
  group := (getR s (here s)).mruns
  dead := false
  ctx := c.toNat
  kind := k
  acc := acc.toNat
  astep := st.toNat
  t0 := vb.toInt
  tcnt := (va.extractLsb' 0 16).toNat
  kext := (va.extractLsb' 16 16).toNat
  sample := (hereSeq s).fpctl.extractLsb' 0 3
  tiles := []

/-- What installing words of a block does to an element: what the image replaces, and what stays (R117). -/
structure Installed (ws : List (BitVec 64)) (st : ElemState) (e e' : Elem) : Prop where
  state : e'.st = st
  wave : e'.wave = e.wave + 1
  slots : ∀ n, n < 16 → tget e'.slots n 0 = ws.getD n 0
  binds : ∀ k, k < 6 → tget e'.binds k 0 = ws.getD (16 + k) 0
  preds : e'.preds = 0
  faulty : e'.faulty = 0
  f : e'.f = e.f
  m : e'.m = e.m
  la : e'.la = e.la
  lb : e'.lb = e.lb
  ef : e'.ef = e.ef
  pend : e'.pend = e.pend
  spad : e'.spad = e.spad
  intersect : e'.spcfg = 0
  tokens : ∀ q, (getQ e' q).toks = (getQ e q).toks

/-- The pools of a code image at va, as its pool map section lists them. -/
def PoolsAre (s : State) (va : Nat) (sects : List Sect) (c : Sect) (pools : List PoolEnt) : Prop :=
  (sects.find? (fun p => p.code == 5) = none ∧ pools = []) ∨
  ∃ p bs u v, sects.find? (fun p => p.code == 5) = some p ∧ p.size % 8 = 0 ∧ Readable s (va + p.off) p.size u bs ∧
    poolMap bs c.size = some pools ∧ poolsOverlap pools = false ∧ poolHeaders (here s) (va + c.off) pools u = .ok v [1] ∧ ReadBy u v

/-- A barrier before and after an update by darr arrivals and dsec sectors (R213, R214): PHASE [3:0], ARR [23:4], its reload value [47:24],
SEC [79:48]. -/
def BarrierStep (darr dsec : Nat) (b b' : BitVec 128) : Prop :=
  let arr := (b.extractLsb' 4 20).toNat - darr
  let sec := (b.extractLsb' 48 32).toNat - dsec
  (b'.extractLsb' 48 32).toNat = sec ∧
  (if arr = 0 ∧ sec = 0 then b'.extractLsb' 0 4 = b.extractLsb' 0 4 + 1 ∧ b'.extractLsb' 4 20 = b.extractLsb' 24 20
    else b'.extractLsb' 0 4 = b.extractLsb' 0 4 ∧ (b'.extractLsb' 4 20).toNat = arr) ∧
  b'.extractLsb' 24 24 = b.extractLsb' 24 24 ∧ b'.extractLsb' 80 48 = b.extractLsb' 80 48

/-- The barrier of 16 bytes at a local offset. -/
def barrierAt (e : Elem) (off : Nat) : BitVec 128 := BitVec.ofNat 128 (memVal e.spad off 16)

/-- The actor states of the entries of a table whose templates are at hand and pass their checks (R329, R330); v is the state after their
reads. -/
def TemplatesAre : State → List (BitVec 256) → List ActorState → State → Prop
  | s, [], l, v => l = [] ∧ v = s
  | s, e :: es, l, v => ∃ u bs t l', actTmpl e % 16 = 0 ∧ ReadableImage s (actTmpl e) u bs ∧ checkTmpl (getR u (here s)) bs = .ok t ∧
      l = initialActor (getR u (here s)) e t :: l' ∧ TemplatesAre u es l' v

/-- No cistern, write-combining buffer or directory entry holds a line: every line's newest value stands at its home. -/
def NoCopies (s : State) : Prop := s.cisterns = [] ∧ s.dir = [] ∧ s.homes = [] ∧ ∀ p ∈ s.regions, p.2.wcb = []

/-- The homes of n bytes at a physical address hold their newest values: an engine that reads them makes nothing of the device change. -/
def AtHome (s : State) (pa n : Nat) : Prop := engineSync s pa n = (s, true)

/-- Some bytes of memory are given, and every other is unchanged. -/
def MemIs (f : Nat → Option Byte) (s t : State) : Prop := ∀ a, memGet t.mem a = (f a).getD (memGet s.mem a)

/-- The bytes of a list placed from an address on. -/
def bytesAt (a : Nat) (bs : List Byte) (x : Nat) : Option Byte := if a ≤ x then bs[x - a]? else none

/-- The four little-endian bytes of a number. -/
def word4 (v : Nat) : List Byte := [BitVec.ofNat 8 v, BitVec.ofNat 8 (v / 256), BitVec.ofNat 8 (v / 65536), BitVec.ofNat 8 (v / 16777216)]

/-- The queue port n of the sequencer is usable in a direction, its ring belongs to the region's owner, no failed fabric lies on the way to
it, and the gateway passes units. -/
structure PortReady (s : State) (n : Nat) (out : Bool) (d : BitVec 512) : Prop where
  desc : ringDesc s (spDie (sqOf s (here s) n)) (spRing (sqOf s (here s) n)) = d
  usable : sqUsable s (here s) n out = true
  owner : ringOwner d = ownerOf (getR s (here s))
  gate : gwPasses (getR s (here s)) = true
  near : dieFar s (dieOf (here s)) (spDie (sqOf s (here s) n)) = false
  aligned : s.ringOffset % 64 = 0

/-- What the gateway of a region has counted once a unit has crossed: its count stands while the region is stopped (R464). -/
def gwNext (x : Region) : Nat := if acting x then x.gwCount + 1 else x.gwCount

/-- The local address of the descriptor of a queue port's ring. -/
def portDescAddr (s : State) (n : Nat) : Nat := ringAddr s (spDie (sqOf s (here s) n)) (spRing (sqOf s (here s) n))

end Sys2Proof.Claims

/-- R251: MCTX loads its record as a context of every island of the mask once no run of it is armed there; its clear form leaves the
context invalid. R252, R253: MRUN arms one run in every island of the mask, with FPCTL as R58 samples it. R269, R270: PUMP puts the
descriptor at its address, which holds no reserved value, in the pump's queue, behind what entered before it; in one cycle a PUMP's
request enters before a packet's (R271). -/
def Obligations.EngineInstructions : Prop :=
  ((∀ a (m : BitVec 4) (c : BitVec 2) s u bs, m ≠ 0 → (∀ i ∈ maskIslands m, ctxBusy (getM s (here s) i) c.toNat = false) →
     (reg s a).toNat % 128 = 0 → (reg s a).toNat < 2 ^ 57 → Readable s (reg s a).toNat 128 u bs →
     mxReserved (getR u (here s)) (BitVec.ofNat 1024 (leVal bs)) = false →
     ∃ t, exec (.mctx a m c) s = .next t ∧ IslandsChanged m s t ∧
       ∀ i ∈ maskIslands m, ContextSet c.toNat (some (BitVec.ofNat 1024 (leVal bs))) (getM s (here s) i) (getM t (here s) i)) ∧
   (∀ (m : BitVec 4) (c : BitVec 2) s, m ≠ 0 → (∀ i ∈ maskIslands m, ctxBusy (getM s (here s) i) c.toNat = false) →
     ∃ t, exec (.mctxClr m c) s = .next t ∧ IslandsChanged m s t ∧
       ∀ i ∈ maskIslands m, ContextSet c.toNat none (getM s (here s) i) (getM t (here s) i)) ∧
   (∀ p ∈ mrunForms, ∀ a b (m : BitVec 4) (c : BitVec 2) x st s,
     mrunReserved p.2 (reg s a) (reg s b) m = false → mrunContext s (here s) p.2 m c.toNat = false →
     (∀ i ∈ maskIslands m, (getM s (here s) i).runs.length < 8) →
     ∃ t, exec (p.1 a b m c x st) s = .next t ∧ IslandsChanged m s t ∧
       ∀ i ∈ maskIslands m, let j := getM s (here s) i
         getM t (here s) i = { j with runs := j.runs ++ [armedRun s p.2 (reg s a) (reg s b) c x st j.nextId], nextId := j.nextId + 1 })) ∧
  (∀ a (u : BitVec 1) s v bs, (reg s a).toNat % 64 = 0 → (reg s a).toNat < 2 ^ 57 → Readable s (reg s a).toNat 64 v bs →
     let now := (getR s (here s)).cycle
     let q : PReq := { id := 0, desc := BitVec.ofNat 512 (leVal bs), sample := (hereSeq s).fpctl.extractLsb' 0 3, origin := none,
                       srcRec := none, dstRec := none, at_ := 0 }
     let p := pumpOf s (here s) u.toNat
     let before : PReq → Bool := fun w => !(w.origin.isSome && w.at_ == now)
     pumpReserved (getR v (here s)) (here s) q = false → p.queue.length < pumpDepth →
     ∃ t, exec (.pump a u) s = .next t ∧
       MovesOn s (modR s (here s) fun x => { x with pumps := tset x.pumps u.toNat { p with
         queue := p.queue.takeWhile before ++ [{ q with id := p.nextId, at_ := now }] ++ p.queue.dropWhile before
         nextId := p.nextId + 1 } }) t)

/-- R305 to R309: LDCFG installs its image, or the all-zero configuration, in every element of its site; the code form sets a code
window and the permits of its lines outside the pools; RECFG appends a checked load to the configuration stream, or sets the end mark.
The model's own readings and choices in it: logs 7 and 22. -/
def Obligations.ConfigurationInstructions : Prop :=
  (∀ a (st : BitVec 5) s u bs p out used, (hereSeq s).sup = true → (reg s a).extractLsb' 0 4 = 0 → st.toNat < 20 →
    siteOk (getR s (here s)) st.toNat = true → (∀ k ∈ siteKeys (here s) st.toNat, (getE s k).st = .idle ∨ (getE s k).st = .halted ∨ (getE s k).st = .trapped) →
    ReadableImage s (reg s a).toNat u bs → checkImage (getR u (here s)) bs (some st.toNat) [] = .ok (p, out, used) →
    ∃ t, exec (.ldcfg a st) s = .next t ∧ (getSeq t (here s)).pc = nextPcOf s ∧ (∀ n, getS (getSeq t (here s)) n = reg s n) ∧
      OnlyRegion (here s) s t ∧
      ∀ k ∈ siteKeys (here s) st.toNat, Installed (tget out (k % 320) []) .running (getE s k) (getE t k)) ∧
  (∀ (st : BitVec 5) s, (hereSeq s).sup = true → siteOk (getR s (here s)) st.toNat = true →
    ∃ t, exec (.ldcfgClr st) s = .next t ∧ (getSeq t (here s)).pc = nextPcOf s ∧ (∀ n, getS (getSeq t (here s)) n = reg s n) ∧
      OnlyRegion (here s) s t ∧ ∀ k ∈ siteKeys (here s) st.toNat, Installed [] .idle (getE s k) (getE t k)) ∧
  (∀ a (w : BitVec 1) s u v hdr tab sects c pools, (hereSeq s).sup = true → (reg s a).toNat % 64 = 0 →
    Readable s (reg s a).toNat 32 u hdr → imageHeaderOk (leVal hdr) = true →
    Readable u ((reg s a).toNat + 32) (16 * field (leVal hdr) 63 48) v tab → imageSects (leVal hdr) tab = some sects →
    sects.find? (fun c => c.code == 0) = some c → PoolsAre v (reg s a).toNat sects c pools →
    let base := (reg s a).toNat + c.off
    (windowOf base c.size).2 ≤ 255 → windowClash (hereSeq s) w.toNat (windowOf base c.size) = false →
    ∃ t, exec (.ldcfgCode a w) s = .next t ∧ (getSeq t (here s)).pc = nextPcOf s ∧ (∀ n, getS (getSeq t (here s)) n = reg s n) ∧
      OnlySeq (here s) s t ∧ (getSeq t (here s)).icache = [] ∧
      tget (getSeq t (here s)).codewin w.toNat 0 = BitVec.ofNat 64 ((windowOf base c.size).1 % 2 ^ 57 + (windowOf base c.size).2) ∧
      (∀ v, v ≠ w.toNat → tget (getSeq t (here s)).codewin v 0 = tget (hereSeq s).codewin v 0) ∧
      ∀ ln v, (ln, v) ∈ (getSeq t (here s)).permits ↔
        if v = w.toNat then base / 64 ≤ ln ∧ ln < base / 64 + (c.size + 63) / 64 ∧
          ∀ p ∈ pools, ¬ (base + p.1 ≤ 64 * ln ∧ 64 * ln < base + p.1 + 64 * p.2)
        else (ln, v) ∈ (hereSeq s).permits) ∧
  (∀ a s u v db ib blocks, (reg s a).toNat % 64 = 0 → (hereSeq s).endMark = false → Readable s (reg s a).toNat 64 u db →
    let d : BitVec 512 := BitVec.ofNat 512 (leVal db)
    let n := (d.extractLsb' 112 5).toNat
    loadDescOk d (l1szOf (getR s (here s))) = true → seqImages (here s) n u (d.extractLsb' 0 64).toNat [] = .ok v ib → ReadBy u v →
    checkImages (getR v (here s)) n ib [] [] [] = .ok blocks → (hereSeq s).loads.length < 2 →
    ∃ t, exec (.recfg a) s = .next t ∧ MovesOn s (modSeq s (here s) fun q => { q with
      loads := q.loads ++ [{ id := q.nextLoad, desc := (reg s a).toNat, blocks := blocks, installed := [] }],
      nextLoad := q.nextLoad + 1 }) t) ∧
  (∀ s, ∃ t, exec .recfgEnd s = .next t ∧ MovesOn s (modSeq s (here s) fun q => { q with endMark := true }) t)

/-- R178, R296: QPUT writes its token in the entry at WR and increments WR; QGET takes the entry at RDj to its registers and SQSIDE and
increments RDj, once what the token's writer wrote before is published (R348); the gateway counts each unless the region is stopped, and every other byte of memory is
unchanged (the model notes who wrote the entry).
The model's own readings and choices in it: log 7. -/
def Obligations.QueuePorts : Prop :=
  (∀ a b (p : BitVec 2) (e : BitVec 1) (sc : BitVec 3) (c : BitVec 2) (v : BitVec 5) s d, sc.toNat < 5 → PortReady s p.toNat true d →
    ringFull d = false → (sc = 0 ∨ seqPerformed s (here s) sc.toNat = true) →
    ∃ t, exec (.qput a b p e sc c v) s = .next t ∧ (getSeq t (here s)).pc = nextPcOf s ∧
      (∀ n, getS (getSeq t (here s)) n = reg s n) ∧ (getR t (here s)).gwCount = gwNext (getR s (here s)) ∧
      OtherRegions (here s) s t ∧ SameElems s t ∧ SameDevice s { t with windowBy := s.windowBy } ∧
      MemIs (fun x =>
        let da := portDescAddr s p.toNat
        if da ≤ x ∧ x < da + 64 then bytesAt (da + 12) (word4 (ringWr d + 1)) x
        else bytesAt (ringEntryAddr d (ringWr d)) (bytesOf 32 ((reg s a).toNat + (reg s b).toNat * 2 ^ 64 +
          (v.toNat + c.toNat * 2 ^ 8 + e.toNat * 2 ^ 10 + sc.toNat * 2 ^ 11 + (if sc = 0 then 0 else 2 ^ 14)) * 2 ^ 128)) x) s t) ∧
  (∀ l h (p : BitVec 2) s d, PortReady s p.toNat false d → ringRd d (spCons (sqOf s (here s) p.toNat)) ≠ ringWr d →
    let j := spCons (sqOf s (here s) p.toNat)
    let b := sqOf s (here s) p.toNat
    let k := ringRead s d (ringRd d j)
    ringSync s (here s) (spDie b) (spRing b) j = (s, true) →
    let pay : BitVec 128 := if k.kind = 2 then 0 else k.pay
    ∃ t, exec (.qget l h p) s = .next t ∧ (getSeq t (here s)).pc = nextPcOf s ∧
      (∀ n, getS (getSeq t (here s)) n =
        if n = 0 then 0 else if n = h then pay.extractLsb' 64 64 else if n = l then pay.extractLsb' 0 64 else reg s n) ∧
      (getSeq t (here s)).sqside = k.side.setWidth 64 ||| 0x10000 ∧
      (getSeq t (here s)).dcache = (if k.kind = 1 ∧ 1 ≤ k.scope then [] else (hereSeq s).dcache) ∧
      (getR t (here s)).gwCount = gwNext (getR s (here s)) ∧ OtherRegions (here s) s t ∧ SameElems s t ∧ SameDevice s t ∧
      MemIs (bytesAt (portDescAddr s p.toNat + 16 + 4 * j) (word4 (ringRd d j + 1))) s t)

namespace Sys2Proof.Claims
open Sys2Proof.Machine

/-! ### Barrier instructions: from their sending to their reply (R297 to R299, R501) -/

/-- A barrier instruction waits: what the model keeps of it is w, no register has changed, and nothing outside the sequencer but
elements. -/
structure BarrierWaits (w : BarWait) (s t : State) : Prop where
  bar : (getSeq t (here s)).bar = w
  rest : { getSeq t (here s) with bar := (hereSeq s).bar, asked := (hereSeq s).asked, waitStart := (hereSeq s).waitStart,
                                  touched := (hereSeq s).touched } = hereSeq s
  region : { getR t (here s) with seq := hereSeq s } = getR s (here s)
  regions : OtherRegions (here s) s t
  mem : SameMem s t
  device : SameDevice s t

/-- An element whose external port has served a request is otherwise e. -/
def PortServed (e e' : Elem) : Prop := { e' with portBusy := e.portBusy, portRr := e.portRr, portWait := e.portWait, held := e.held } = e

/-- The state after the reply of a port has set out: it carries a cause, or 0, and reaches the sequencer 2 + h cycles later. -/
def Replied (key : Nat) (cause : BitVec 8) (s t : State) : Prop :=
  BarrierWaits { (hereSeq s).bar with reply := some ((getR s (here s)).cycle + 2 + keySite key % 5, cause) } s t ∧ OtherElems key s t

/-- The request leaves the sequencer; once the reply has come, the instruction completes, or traps with the cause that it carries and
its operand as TVAL. -/
def BarrierTravels (i : Instr) (va : BitVec 64) (done : State → State → Prop) (s : State) : Prop :=
  let w := (hereSeq s).bar
  let now := (getR s (here s)).cycle
  (w.reply = none → w.sent = none → ∃ t, exec i s = .next t ∧ BarrierWaits { w with sent := some now } s t ∧ SameElems s t) ∧
  (∀ n, w.sent ≠ none → w.reply = some (n, 0) → n ≤ now → ∃ t, exec i s = .next t ∧ done s t) ∧
  (∀ n c, w.sent ≠ none → w.reply = some (n, c) → c ≠ 0 → n ≤ now → ∃ t, exec i s = .next t ∧ Traps c va s t)

/-- The request has reached the port of an element, 1 + h cycles after it left, and the port takes it. -/
structure AtPort (key : Nat) (s : State) : Prop where
  waits : (hereSeq s).bar.reply = none
  sent : ∃ n, (hereSeq s).bar.sent = some n ∧ n + 1 + keySite key % 5 ≤ (getR s (here s)).cycle
  free : portFree s key seqPortNo = true

end Sys2Proof.Claims

/-- R213 to R215, R297 to R299: at the port of its barrier TBINIT writes the barrier, TBARR updates it by one arrival, and TBWAIT replies
where the phase differs from its operand; else it is registered there, and a phase change releases it. A sealed granule refuses TBINIT and
TBARR with cause 0x07, and a barrier an arrival that it does not expect with 0x05. With the reply each completes, and TBWAIT acquires.
The model's own readings and choices in it: logs 7 and 18. -/
def Obligations.SequencerBarriers : Prop :=
  (∀ a b (n : BitVec 16) s, let v := reg s b
    let key := barrierKey (here s) (reg s a)
    let off := barrierOff (reg s a)
    barrierCause (getR s (here s)) (reg s a) = none → v.extractLsb' 0 20 ≠ 0 → v.extractLsb' 20 4 = 0 → v.extractLsb' 56 8 = 0 →
    notifyBad (getR s (here s)) n = false →
    BarrierTravels (.tbinit a b n) (reg s a) (fun s t => Goes (nextPcOf s) s t) s ∧
    (AtPort key s → isSealed (getE s key) off = true →
      ∃ t, exec (.tbinit a b n) s = .next t ∧ Replied key 0x07 s t ∧ PortServed (getE s key) (getE t key)) ∧
    (AtPort key s → isSealed (getE s key) off = false → updAhead s key off .seq = false →
      ∃ t, exec (.tbinit a b n) s = .next t ∧ Replied key 0 s t ∧
        (∀ x, memGet (getE t key).spad x = (bytesAt off (bytesOf 16 (((v.extractLsb' 0 20).toNat * 2 ^ 4 + (v.extractLsb' 0 20).toNat * 2 ^ 24 +
          (v.extractLsb' 24 32).toNat * 2 ^ 48 + n.toNat * 2 ^ 112))) x).getD (memGet (getE s key).spad x)) ∧
        PortServed (getE s key) { getE t key with spad := (getE s key).spad })) ∧
  (∀ a (sc : BitVec 3) s, let key := barrierKey (here s) (reg s a)
    let off := barrierOff (reg s a)
    sc.toNat < 5 → barrierCause (getR s (here s)) (reg s a) = none →
    (seqPerformed s (here s) sc.toNat = true → BarrierTravels (.tbarr a sc) (reg s a) (fun s t => Goes (nextPcOf s) s t) s) ∧
    (AtPort key s → isSealed (getE s key) off = true →
      ∃ t, exec (.tbarr a sc) s = .next t ∧ Replied key 0x07 s t ∧ PortServed (getE s key) (getE t key)) ∧
    (AtPort key s → isSealed (getE s key) off = false → updAhead s key off .seq = false → barrierUpdate (getE s key) off 1 0 = .refused →
      ∃ t, exec (.tbarr a sc) s = .next t ∧ Replied key 0x05 s t ∧ PortServed (getE s key) (getE t key)) ∧
    (∀ e', AtPort key s → isSealed (getE s key) off = false → updAhead s key off .seq = false →
      barrierUpdate (getE s key) off 1 0 = .applied e' →
      ∃ t, exec (.tbarr a sc) s = .next t ∧ Replied key 0 s t ∧ PortServed e' (getE t key))) ∧
  (∀ a b (sc : BitVec 3) s, let key := barrierKey (here s) (reg s a)
    let off := barrierOff (reg s a)
    let bar := (hereSeq s).bar
    sc.toNat < 5 → (reg s b).extractLsb' 4 60 = 0 → barrierCause (getR s (here s)) (reg s a) = none →
    BarrierTravels (.tbwait a b sc) (reg s a) (fun s t => Fenced (decide (1 ≤ sc.toNat)) s t) s ∧
    (AtPort key s → bar.waits = false → (barrierAt (getE s key) off).extractLsb' 0 4 ≠ (reg s b).extractLsb' 0 4 →
      ∃ t, exec (.tbwait a b sc) s = .next t ∧ Replied key 0 s t ∧ PortServed (getE s key) (getE t key)) ∧
    (AtPort key s → bar.waits = false → (barrierAt (getE s key) off).extractLsb' 0 4 = (reg s b).extractLsb' 0 4 →
      ∃ t, exec (.tbwait a b sc) s = .next t ∧ BarrierWaits { bar with waits := true } s t ∧ OtherElems key s t ∧
        PortServed { getE s key with waiter := some (off, false) } (getE t key)) ∧
    (AtPort key s → bar.waits = true → (getE s key).waiter = some (off, true) →
      ∃ t, exec (.tbwait a b sc) s = .next t ∧ Replied key 0 s t ∧ getE t key = getE s key)) ∧
  (∀ e off darr dsec e', barrierUpdate e off darr dsec = .applied e' → BarrierStep darr dsec (barrierAt e off) (barrierAt e' off) ∧
    (∀ x, (x < off ∨ off + 16 ≤ x) → memGet e'.spad x = memGet e.spad x) ∧
    (∀ v, (barrierAt e' off).extractLsb' 0 4 ≠ (barrierAt e off).extractLsb' 0 4 → e.waiter = some (off, v) → e'.waiter = some (off, true)))

/-- R327, R337, R338, R399, R421, R483, R490: the instructions that hand work to the package's engines complete by queueing it; PWRMARK
writes the phase.
The model's own readings and choices in it: log 7. -/
def Obligations.EngineCommands : Prop :=
  (∀ a d (q : BitVec 8) s u bs, let va := (reg s a).toNat
    let e := qEntry s q.toNat
    let ea := paLocal (qAddr s q.toNat)
    let ra := paLocal (qRing e (qWr e))
    va % 64 = 0 → distOn s = true → qEn e = true → qErr e = false → qBad e = false → qOwner e = ownerOf (getR s (here s)) →
    Readable s va 64 u bs → bs.length = 64 → (qWr e + 2 ^ 32 - qRd e) % 2 ^ 32 < 2 ^ qLog2 e → seqPerformed s (here s) 4 = true →
    AtHome s (qAddr s q.toNat) 64 → NoCopies s → ea % 64 = 0 → ra % 64 = 0 → (ra + 64 ≤ ea ∨ ea + 64 ≤ ra) →
    ∃ t, exec (.launch a d q) s = .next t ∧ (getSeq t (here s)).pc = nextPcOf s ∧
      getS (getSeq t (here s)) d = (if d = 0 then 0 else BitVec.ofNat 64 (qWr e)) ∧
      (∀ n, n ≠ d → getS (getSeq t (here s)) n = reg s n) ∧ SameElems s t ∧ OtherRegions (here s) s t ∧
      MemIs (fun x => match bytesAt (ea + 24) (word4 (qWr e + 1)) x with
        | some y => some y
        | none => bytesAt ra bs x) s t) ∧
  (∀ a s u v w hb tb l, let va := (reg s a).toNat
    let n := leVal hb
    let es := (upto n).map fun j => BitVec.ofNat 256 (leVal ((tb.drop (32 * j)).take 32))
    (hereSeq s).sup = true → va % 32 = 0 → Readable s va 32 u hb → 1 ≤ n → n ≤ 8 → Readable u (va + 32) (32 * n) v tb →
    es.any actBad = false → actShared es = false → TemplatesAre v es l w →
    ∃ t, exec (.place a) s = .next t ∧ MovesOn s (attachTable w (here s) l) t) ∧
  (∀ p ∈ [(Instr.placeFrz, true), (.placeThaw, false)], ∀ s, (hereSeq s).sup = true → ∃ t, exec p.1 s = .next t ∧
    MovesOn s (modR s (here s) fun x => { x with stoat := { x.stoat with frozen := p.2 } }) t) ∧
  (∀ d s, (hereSeq s).sup = true → ∃ t, exec (.placeSt d) s = .next t ∧
    Writes d (BitVec.ofNat 64 (stoatStatus (getR s (here s)).stoat)) (nextPcOf s) s t) ∧
  (∀ a s, let m := getMarten s (dieOf (here s))
    (reg s a).toNat % 128 = 0 → (m.jobs.filter fun j => !j.written).length < 8 → ∃ t, exec (.cutsel a) s = .next t ∧
      MovesOn s { s with martens := tset s.martens (dieOf (here s)) { m with
        jobs := m.jobs ++ [{ id := m.nextId, addr := (reg s a).toNat, asid := asidOf (getR s (here s)), owner := ownerOf (getR s (here s)),
                             region := here s }]
        nextId := m.nextId + 1 } } t) ∧
  (∀ a s u bs x, let va := (reg s a).toNat
    let d : BitVec 512 := BitVec.ofNat 512 (leVal bs)
    let o := ownerOf (getR s (here s))
    (hereSeq s).sup = true → va % 64 = 0 → Readable s va 64 u bs →
    AtHome u (s.asTable + 64 * rsAsid d + s.devid * 2 ^ 47) 64 → rsBad d = false → (o = 0 ∨ asOwner s (rsAsid d) = some o) →
    s.rsQueue.length < 16 → seqPerformed s (here s) 3 = true → Maps s va 0 x →
    ∃ t, exec (.restripe a) s = .next t ∧ (getSeq t (here s)).pc = nextPcOf s ∧ (∀ n, getS (getSeq t (here s)) n = reg s n) ∧
      t.rsQueue = s.rsQueue ++ [⟨d, paOf x va⟩] ∧ OnlySeq (here s) s { t with rsQueue := s.rsQueue }) ∧
  (∀ a d s, (hereSeq s).sup = true → (reg s a).toNat % 64 = 0 → s.rotQueue.length < 8 → ∃ t, exec (.verify a d) s = .next t ∧
    t.rotQueue = s.rotQueue ++ [{ addr := (reg s a).toNat, asid := asidOf (getR s (here s)), owner := ownerOf (getR s (here s)),
                                  region := here s, result := none }] ∧
    Writes d 1 (nextPcOf s) s { t with rotQueue := s.rotQueue }) ∧
  (∀ (n : BitVec 4) s x, (getR s (here s)).team = some x → optUsed s (getR s (here s)) = false → ∃ t, exec (.pwrmark n) s = .next t ∧
    MovesOn s (modR s (here s) fun g => { g with team := some { x with phase := n.toNat } }) t) ∧
  (∀ (n : BitVec 4) s x, (getR s (here s)).team = some x → optUsed s (getR s (here s)) = true → ∃ t, exec (.pwrmark n) s = .next t ∧
    (getSeq t (here s)).pc = nextPcOf s ∧ (getR t (here s)).team = some { x with phase := n.toNat } ∧
    t.optTable.find? (fun p => p.1 == (x.owner, x.kid, x.phase)) = some ((x.owner, x.kid, x.phase), (getR s (here s)).point) ∧
    (getR t (here s)).pointNext = some (match t.optTable.find? (fun p => p.1 == (x.owner, x.kid, n.toNat)) with
      | some p => Nat.max (getR s (here s)).pmin (Nat.min (getR s (here s)).pmax p.2)
      | none => (getR s (here s)).pmax) ∧
    SameElems s t ∧ SameMem s t ∧ OtherRegions (here s) s t)

namespace Sys2Proof.Claims
open Sys2Proof.Machine

/-! ## Elements: firing (R101, R102, R106, R110, R112) -/

/-- The element in focus, whose instruction `exec` runs, lies on the grid. -/
def OnGrid (s : State) : Prop := s.focus.site < 20 ∧ s.focus.elem < 16 ∧ s.focus.slot < 16

/-- The element in focus, its region's cycle, and FPCTL[2:0] as a firing samples it (R58). -/
def elem (s : State) : Elem := getE s (focusKey s)
def nowAt (s : State) : Nat := (getR s s.focus.region).cycle
def fpSample (s : State) : BitVec 3 := (elem s).fpctl.extractLsb' 0 3

/-- Ready of R102 for an element that the picker evaluates (R101), but for UnitReady; ctx is the context of the tokens sent. -/
structure Ready (s : State) (f : Form) (ctx : Nat) : Prop where
  running : (elem s).st = .running
  free : (elem s).busy ≤ nowAt s
  acts : acting (getR s s.focus.region) = true
  guard : ∀ j < 4, f.hdr.mask.getLsbD j = true → (elem s).preds.getLsbD (4 * f.hdr.ph.toNat + j) = f.hdr.val.getLsbD j
  tag : ∀ q v, f.hdr.tagTest = some (q, v) → avail (elem s) q ≠ 0 ∧ ∃ t, headTok (elem s) q = some t ∧ t.side.extractLsb' 0 5 = v
  tokens : ∀ q ∈ f.queues, f.hdr.beats.count ≤ avail (elem s) q ∧ scalePending (elem s) q f.hdr.beats.count = false
  credit : ∀ k, f.chan = some k → f.hdr.beats.count ≤ credits s (focusKey s) k ctx
  settled : ∀ u ∈ [f.d, f.a, f.b, f.c], ∀ o j, u.opnd = some o → pendBit o = some j → (elem s).pend.getLsbD j = false
  power : f.hdr.beats.count * f.hdr.pwr.cost ≤ (elem s).pow

/-- The registers and the channel that a result goes to. -/
def destF (f : Form) (n : Nat) : Bool :=
  f.result && match f.d with | .dst (.f m) | .dstMain (.f m) => m.val == n | _ => false
def destM (f : Form) (n : Nat) : Bool :=
  f.result && match f.d with | .dstMain (.m m) => m.val == n | _ => false
def destO (f : Form) : Option Nat :=
  if f.result then match f.d with | .dst (.q j) | .dstMain (.q j) => some j.val | _ => none else none

/-- A queue without its head: a token that ends its wave closes it (R114). -/
def popped (q : Queue) : Queue :=
  match q.toks with
  | [] => q
  | t :: r => { q with toks := r, closed := q.closed || t.side.getLsbD 10 }

/-- A queue whose head has left in cycle c of a firing of cycle `now`: the slot counts as empty from c on (R172). -/
def leftAt (now c : Nat) (q : Queue) : Queue :=
  let p := popped q
  if c = now then p else { p with late := c :: p.late.filter (now < ·) }

/-- A token has joined the output stage (R109): it carries the channel's binding and its routes, the cycle of its sending, and the records
and FPCTL that a pump request packet samples (R258). -/
structure Sent (k : Nat) (pay : Vec) (side : BitVec 16) (cycle : Nat) (wait : Option (Scope × Nat)) (e : Elem) (o : OutTok) : Prop where
  chan : o.chan = k
  pay : o.tok.pay = pay
  side : o.tok.side = side
  bind : o.bind = bindOf e k
  pend : o.pend = liveRoutes e k
  sent : o.sent = cycle
  wait : o.wait = wait
  sampled : o.recs = e.recs ∧ o.sample = e.fpctl.extractLsb' 0 3

/-- The sideband of a result: KIND 0, CTX and VC of the channel's tag register (R168). -/
def resultSide (e : Elem) (k : Nat) : BitVec 16 :=
  0#6 ++ (otag e k).extractLsb' 5 2 ++ 0#3 ++ (otag e k).extractLsb' 0 5

/-- What a beat does beside the instruction's own effects, which r holds: the result goes to D, la and lb, the flags stick, and with
DQ the heads of the queues leave. -/
structure Beat (f : Form) (x : Ctx) (k : Nat) (fl : Flags) (r : BeatRes) (e : Elem) : Prop where
  freg : ∀ n, tget e.f n 0 = if destF f n then r.res else tget r.elem.f n 0
  mreg : ∀ n, tget e.m n 0 = if destM f n then r.res else tget r.elem.m n 0
  la : e.la = if f.result then r.res else r.elem.la
  lb : e.lb = if f.result then r.elem.la else r.elem.lb
  flags : e.fpst = r.elem.fpst ||| (fl ||| r.flags).setWidth 32
  out : match destO f with
    | none => e.out = r.elem.out
    | some k' => ∃ o, e.out = r.elem.out ++ [o] ∧ Sent k' r.res (resultSide r.elem k') (x.cycle + (k + 1) * x.cpb - 1) none r.elem o
  queues : ∀ q, getQ e q = if f.hdr.dq = true ∧ q ∈ f.queues.map Fin.val then leftAt x.cycle (x.cycle + k * x.cpb) (getQ r.elem q)
    else getQ r.elem q
  rest : { e with
    f := r.elem.f, m := r.elem.m, la := r.elem.la, lb := r.elem.lb, fpst := r.elem.fpst, out := r.elem.out,
    queues := r.elem.queues } = r.elem

/-- What an instruction's own effects are in beat k: the element after them, the result, the flags, what it holds for its later beats. -/
abbrev Effects := Ctx → Elem → Nat → BeatOps → List Vec → BeatRes → Prop

/-- Every lane of a result is zero (R110). -/
def zeroLanes (fp : Bool) (w : Nat) (v : Vec) : Bool :=
  (List.range (128 / w)).all fun j => v.extractLsb' (w * j) (if fp then w - 1 else w) == 0

/-- The predicate's new value (R110). -/
def newPred (m : PredMode) (fp : Bool) (w n : Nat) (res : Nat → Vec) (carry old : Bool) : Bool :=
  match m with
  | .clear => false
  | .set => true
  | .zero => zeroLanes fp w (res (n - 1))
  | .sign => (res (n - 1)).getLsbD (w - 1)
  | .carry => carry
  | .toggle => !old
  | .any => (List.range n).any fun k => !zeroLanes fp w (res k)

/-- The firing of a row of the encoding tables, by the element in focus, gives the element e: it pays, runs its beats in order (no beat
traps), updates its predicate from lanes of rw bits, and occupies the datapath for cpb cycles per beat. -/
def Ran (f : Form) (cpb rw : Nat) (carry : BeatOps → Bool) (eff : Effects) (s : State) (e : Elem) : Prop :=
  ∃ (es : Nat → Elem) (rs : Nat → BeatRes),
    let n := f.hdr.beats.count
    let x := fireCtx s f cpb
    let held : Nat → List Vec := fun k => if k = 0 then [] else (rs (k - 1)).held
    let ops := fun k => readOps (es k) (fpSample s) f k
    es 0 = { elem s with pow := (elem s).pow - n * f.hdr.pwr.cost } ∧
    (∀ k < n, eff x (acquireOps (es k) f k) k (ops k).1 (held k) (rs k) ∧ (rs k).trap = none ∧ Beat f x k (ops k).2 (rs k) (es (k + 1))) ∧
    (∀ j < 8, e.preds.getLsbD j =
      match f.hdr.ps with
      | some (m, p) => if p.val = j then newPred m f.fpLanes rw n (fun k => (rs k).res) (carry (ops (n - 1)).1) ((es n).preds.getLsbD j)
          else (es n).preds.getLsbD j
      | none => (es n).preds.getLsbD j) ∧
    e.busy = nowAt s + n * cpb ∧
    { e with preds := (es n).preds, busy := (es n).busy } = es n

/-- Nothing has changed but one element, and in its region that it fired in this cycle. -/
structure OnlyElem (s t : State) : Prop where
  region : { getR t (here s) with firedAt := (getR s (here s)).firedAt } = getR s (here s)
  fired : (getR t (here s)).firedAt = some (nowAt s)
  regions : OtherRegions (here s) s t
  elems : OtherElems (focusKey s) s t
  mem : SameMem s t
  device : SameDevice s t

/-- The context of the tokens that D's channel sends as results (R168). -/
def fieldCtx (s : State) (f : Form) : Nat :=
  match f.chan with | some k => ((otag (elem s) k).extractLsb' 5 2).toNat | none => 0

/-- An instruction completes where it is ready (and the condition `unit` of its own holds), with these effects, and changes nothing
outside its element. -/
def FiresIf (unit : Form → Prop) (ctx : Form → Nat) (i : Instr) (cpb rw : Nat) (carry : BeatOps → Bool) (eff : Effects) (s : State) : Prop :=
  ∃ f, i.form = some f ∧ (OnGrid s → Ready s f (ctx f) → unit f →
    ∃ t, exec i s = .next t ∧ OnlyElem s t ∧ Ran f cpb rw carry eff s (getE t (focusKey s)))

def Fires (i : Instr) (cpb rw : Nat) (carry : BeatOps → Bool) (eff : Effects) (s : State) : Prop :=
  FiresIf (fun _ => True) (fieldCtx s) i cpb rw carry eff s

/-- An instruction without a carry, one cycle per beat. -/
def FiresPlain (i : Instr) (rw : Nat) (eff : Effects) (s : State) : Prop := Fires i 1 rw (fun _ => false) eff s

/-! ### Lanes -/

def lane (w : Nat) (v : Vec) (j : Nat) : BitVec w := v.extractLsb' (w * j) w

/-- Effects that are a result alone, and a change of the element alone. -/
def result (p : BeatOps → Vec → Prop) : Effects := fun _ e _ o _ r => p o r.res ∧ r.elem = e ∧ r.flags = 0
def change (g : Ctx → Elem → Nat → BeatOps → Elem → Prop) : Effects := fun x e k o _ r => g x e k o r.elem ∧ r.res = 0 ∧ r.flags = 0

/-- Results lane by lane. -/
def each1 (w : Nat) (g : BitVec w → BitVec w) : Effects :=
  result fun o v => ∀ j < 128 / w, lane w v j = g (lane w o.a j)
def each2 (w : Nat) (g : BitVec w → BitVec w → BitVec w) : Effects :=
  result fun o v => ∀ j < 128 / w, lane w v j = g (lane w o.a j) (lane w o.b j)
def each3 (w : Nat) (g : BitVec w → BitVec w → BitVec w → BitVec w) : Effects :=
  result fun o v => ∀ j < 128 / w, lane w v j = g (lane w o.a j) (lane w o.b j) (lane w o.c j)

/-! ### Integer results (R141 to R145) -/

def saturate (w : Nat) (v : Int) : BitVec w := BitVec.ofInt w (max (-2 ^ (w - 1)) (min v (2 ^ (w - 1) - 1)))
def saturateU (w : Nat) (v : Int) : BitVec w := BitVec.ofInt w (max 0 (min v (2 ^ w - 1)))
def outside (w : Nat) (v : Int) : Bool := decide (v < -2 ^ (w - 1) ∨ 2 ^ (w - 1) ≤ v)
def outsideU (w : Nat) (v : Int) : Bool := decide (v < 0 ∨ 2 ^ w ≤ v)
def maskIf (w : Nat) (b : Bool) : BitVec w := if b then BitVec.allOnes w else 0

abbrev Fn1 := (w : Nat) → BitVec w → BitVec w
abbrev Fn2 := (w : Nat) → BitVec w → BitVec w → BitVec w
abbrev Fn3 := (w : Nat) → BitVec w → BitVec w → BitVec w → BitVec w
abbrev Carry2 := (w : Nat) → BitVec w → BitVec w → Bool

/-- The carry out of a shift left and right by n (R143). -/
def outLeft {w : Nat} (a : BitVec w) (n : Nat) : Bool := n != 0 && a.getLsbD (w - n)
def outRight {w : Nat} (a : BitVec w) (n : Nat) : Bool := n != 0 && a.getLsbD (n - 1)

def int2Forms : List ((Hdr → Opnd → Opnd → Opnd → Instr) × Fn2 × Carry2) :=
  [(.add, fun _ a b => a + b, fun w a b => decide (2 ^ w ≤ a.toNat + b.toNat)),
   (.sub, fun _ a b => a - b, fun _ a b => a.ult b),
   (.adds, fun w a b => saturate w (a.toInt + b.toInt), fun w a b => outside w (a.toInt + b.toInt)),
   (.subs, fun w a b => saturate w (a.toInt - b.toInt), fun w a b => outside w (a.toInt - b.toInt)),
   (.addus, fun w a b => saturateU w (a.toNat + b.toNat), fun w a b => outsideU w (a.toNat + b.toNat)),
   (.subus, fun w a b => saturateU w (a.toNat - b.toNat : Int), fun w a b => outsideU w (a.toNat - b.toNat : Int)),
   (.shl, fun w a b => a <<< (b.toNat % w), fun w a b => outLeft a (b.toNat % w)),
   (.shr, fun w a b => a >>> (b.toNat % w), fun w a b => outRight a (b.toNat % w)),
   (.sar, fun w a b => a.sshiftRight (b.toNat % w), fun w a b => outRight a (b.toNat % w))]

/-- The two-operand instructions that define no carry. -/
def int2Plain : List ((Hdr → Opnd → Opnd → Opnd → Instr) × Fn2) :=
  [(.mul, fun _ a b => a * b),
   (.mulh, fun w a b => (a.signExtend (2 * w) * b.signExtend (2 * w)).extractLsb' w w),
   (.mulhu, fun w a b => (a.setWidth (2 * w) * b.setWidth (2 * w)).extractLsb' w w),
   (.min, fun _ a b => if a.sle b then a else b), (.max, fun _ a b => if a.sle b then b else a),
   (.minu, fun _ a b => if a.ule b then a else b), (.maxu, fun _ a b => if a.ule b then b else a),
   (.absd, fun _ a b => if a.ule b then b - a else a - b),
   (.and, fun _ a b => a &&& b), (.or, fun _ a b => a ||| b), (.xor, fun _ a b => a ^^^ b), (.andn, fun _ a b => a &&& ~~~ b),
   (.rol, fun w a b => a.rotateLeft (b.toNat % w)),
   (.cmpeq, fun w a b => maskIf w (a == b)), (.cmplt, fun w a b => maskIf w (a.slt b)), (.cmpltu, fun w a b => maskIf w (a.ult b))]

def int3Plain : List ((Hdr → Opnd → Opnd → Opnd → Opnd → Instr) × Fn3) :=
  [(.mad, fun _ a b c => a * b + c),
   (.addmin, fun w a b c => let x := saturate w (a.toInt + b.toInt); if x.sle c then x else c),
   (.addmax, fun w a b c => let x := saturate w (a.toInt + b.toInt); if x.sle c then c else x)]

def int1Plain : List ((Hdr → Opnd → Opnd → Instr) × Fn1) :=
  [(.popc, fun _ a => a.cpop), (.clz, fun _ a => a.clz)]

/-- DOT4 and SAD on one 32-bit lane, over its four bytes (R142). -/
def dot4 (a b c : BitVec 32) : BitVec 32 :=
  let p := fun i => (a.extractLsb' (8 * i) 8).signExtend 32 * (b.extractLsb' (8 * i) 8).signExtend 32
  c + p 0 + p 1 + p 2 + p 3
def sad (a b c : BitVec 32) : BitVec 32 :=
  let p := fun i => let x := (a.extractLsb' (8 * i) 8).setWidth 32; let y := (b.extractLsb' (8 * i) 8).setWidth 32
    if x.ule y then y - x else x - y
  c + p 0 + p 1 + p 2 + p 3

/-- The immediate forms (R144): the immediate stands in for every lane of B. -/
def immForms : List ((Hdr → Opnd → Opnd → BitVec 12 → Instr) × ((w : Nat) → BitVec w → BitVec 12 → BitVec w) ×
    ((w : Nat) → BitVec w → BitVec 12 → Bool)) :=
  [(.addi, fun w a i => a + i.signExtend w, fun w a i => decide (2 ^ w ≤ a.toNat + (i.signExtend w).toNat)),
   (.shli, fun _ a i => a <<< i.toNat, fun _ a i => outLeft a i.toNat),
   (.shri, fun _ a i => a >>> i.toNat, fun _ a i => outRight a i.toNat),
   (.sari, fun _ a i => a.sshiftRight i.toNat, fun _ a i => outRight a i.toNat)]

def immPlain : List ((Hdr → Opnd → Opnd → BitVec 12 → Instr) × ((w : Nat) → BitVec w → BitVec 12 → BitVec w)) :=
  [(.andi, fun w a i => a &&& i.signExtend w), (.ori, fun w a i => a ||| i.signExtend w), (.xori, fun w a i => a ^^^ i.signExtend w),
   (.cmpeqi, fun w a i => maskIf w (a == i.signExtend w)), (.cmplti, fun w a i => maskIf w (a.slt (i.signExtend w)))]

/-- len bits from bit pos on. -/
def bitMask (w pos len : Nat) : BitVec w := BitVec.ofNat w (2 ^ len - 1) <<< pos

end Sys2Proof.Claims

/-! # Elements -/

/-- R102, R127: an instruction of an element (other than SEQT's take, whose queue check R433 waives) that is not ready does nothing. -/
def Obligations.NotReadyDoesNothing : Prop :=
  ∀ i f s, i.form = some f → (∀ h d a, i ≠ .seqt h d a) → OnGrid s →
    (∀ ctx, ¬ Ready s f ctx) → exec i s = .next s

/-- R141, R142, R143: the integer instructions complete, with their results lane by lane. R143, R144, R145: the immediate forms, EXT and
INS. -/
def Obligations.ElementInteger : Prop :=
  ((∀ p ∈ int2Forms, ∀ h d a b s, let w := h.ty.width
     Fires (p.1 h d a b) 1 w (fun o => p.2.2 w (lane w o.a 0) (lane w o.b 0)) (each2 w (p.2.1 w)) s) ∧
   (∀ p ∈ int2Plain, ∀ h d a b s, FiresPlain (p.1 h d a b) h.ty.width (each2 h.ty.width (p.2 h.ty.width)) s) ∧
   (∀ p ∈ int3Plain, ∀ h d a b c s, FiresPlain (p.1 h d a b c) h.ty.width (each3 h.ty.width (p.2 h.ty.width)) s) ∧
   (∀ p ∈ int1Plain, ∀ h d a s, FiresPlain (p.1 h d a) h.ty.width (each1 h.ty.width (p.2 h.ty.width)) s) ∧
   (∀ h d a b c s, h.ty = .w → FiresPlain (.dot4 h d a b c) 32 (each3 32 dot4) s ∧ FiresPlain (.sad h d a b c) 32 (each3 32 sad) s)) ∧
  ((∀ p ∈ immForms, ∀ h d a i s, let w := h.ty.width
     Fires (p.1 h d a i) 1 w (fun o => p.2.2 w (lane w o.a 0) i) (each1 w fun x => p.2.1 w x i) s) ∧
   (∀ p ∈ immPlain, ∀ h d a i s, FiresPlain (p.1 h d a i) h.ty.width (each1 h.ty.width fun x => p.2 h.ty.width x i) s) ∧
   (∀ h d a (pos len : BitVec 6) s, let w := h.ty.width
     pos.toNat + len.toNat + 1 ≤ w →
     FiresPlain (.ext h d a pos len) w (each1 w fun x => (x >>> pos.toNat) &&& bitMask w 0 (len.toNat + 1)) s ∧
     FiresPlain (.ins h d a pos len) w (result fun o v => ∀ j < 128 / w, lane w v j =
       (lane w o.d j &&& ~~~ bitMask w pos.toNat (len.toNat + 1)) ||| ((lane w o.a j <<< pos.toNat) &&& bitMask w pos.toNat (len.toNat + 1))) s))

/-- R128 to R131, R153 to R155: moves, selection and lane movement. -/
def Obligations.ElementMoves : Prop :=
  (∀ h d a s, FiresPlain (.mov h d a) h.ty.width (result fun o v => v = o.a) s) ∧
  (∀ h d (i : BitVec 12) s, FiresPlain (.movi h d i) h.ty.width
    (result fun _ v => ∀ j < h.ty.lanes, lane h.ty.width v j = i.signExtend h.ty.width) s) ∧
  (∀ h d a (i : BitVec 12) s, FiresPlain (.movhi h d a i) h.ty.width (each1 h.ty.width fun x => (x <<< 12) + i.setWidth h.ty.width) s) ∧
  (∀ h d a b c s, FiresPlain (.sel h d a b c) h.ty.width (each3 h.ty.width fun x y z => if z ≠ 0 then x else y) s) ∧
  (∀ h d a (i : BitVec 12) s, i.toNat < h.ty.lanes →
    FiresPlain (.lxor h d a i) h.ty.width (result fun o v => ∀ j < h.ty.lanes, lane h.ty.width v j = lane h.ty.width o.a (j ^^^ i.toNat)) s ∧
    FiresPlain (.lbcst h d a i) h.ty.width (result fun o v => ∀ j < h.ty.lanes, lane h.ty.width v j = lane h.ty.width o.a i.toNat) s) ∧
  (∀ h d a b (i : BitVec 6) s, i.toNat ≤ h.ty.lanes → FiresPlain (.lfun h d a b i) h.ty.width
    (result fun o v => ∀ j < h.ty.lanes, lane h.ty.width v j =
      if j + i.toNat < h.ty.lanes then lane h.ty.width o.a (j + i.toNat) else lane h.ty.width o.b (j + i.toNat - h.ty.lanes)) s) ∧
  (∀ h d a b s, let w := h.ty.width / 2
    FiresPlain (.lpack h d a b) w (result fun o v => ∀ j < h.ty.lanes,
      lane w v j = (lane h.ty.width o.a j).setWidth w ∧ lane w v (h.ty.lanes + j) = (lane h.ty.width o.b j).setWidth w) s) ∧
  (∀ h d a (sx half : Bool) s, let w := h.ty.width
    FiresPlain (.lunpk h d a sx half) (2 * w) (fun _ e k o _ r => r.elem = e ∧ r.flags = 0 ∧ ∀ j < h.ty.lanes / 2,
      let x := lane w o.a ((half.toNat + k) % 2 * (h.ty.lanes / 2) + j)
      lane (2 * w) r.res j = if sx then x.signExtend (2 * w) else x.setWidth (2 * w)) s)

namespace Sys2Proof.Claims
open Sys2Proof.Machine

/-! ### Floating-point results (R146 to R152) -/

/-- Lanes of n bits that a function of codes gives, and the flags of every lane together (R50). -/
def fpLanes (w : Nat) (g : BeatOps → Nat → Nat × Flags) : Effects := fun _ e _ o _ r =>
  (∀ j < 128 / w, lane w r.res j = BitVec.ofNat w (g o j).1) ∧
  (∀ i, r.flags.getLsbD i = (List.range (128 / w)).any fun j => (g o j).2.getLsbD i) ∧ r.elem = e

/-- The code of lane j of an operand. -/
def codeAt (w : Nat) (v : Vec) (j : Nat) : Nat := (lane w v j).toNat

/-- What R147 gives for operands of a format: the first NaN among them, quieted (R38), or the exact value rounded once; none stands for
an invalid operation. -/
def exactly (f : NumFmt) (xs : List FV) (v : Option FV) : Nat × Flags := fResult f xs v

/-- Exact values of two- and three-operand instructions. -/
def fp2Forms : List ((Hdr → Opnd → Opnd → Opnd → Instr) × (FV → FV → Option FV)) :=
  [(.fadd, fun a b => sumV [a, b]), (.fsub, fun a b => sumV [a, b.negate]), (.fmul, mulV),
   (.fmin, fun a b => some (minV a b)), (.fmax, fun a b => some (maxV a b)), (.fsgn, fun a b => some (a.withSign b.neg))]

def fp3Forms : List ((Hdr → Opnd → Opnd → Opnd → Opnd → Instr) × (FV → FV → FV → Option FV)) :=
  [(.fma, fun a b c => (mulV a b).bind fun p => sumV [p, c]), (.fnma, fun a b c => (mulV a b).bind fun p => sumV [c, p.negate])]

/-- Comparisons: whether they hold of two values that are not NaNs, and whether a quiet NaN sets NV (R149). -/
def fpCompares : List ((Hdr → Opnd → Opnd → Opnd → Instr) × (FV → FV → Bool) × Bool) :=
  [(.fcmpeq, fun a b => cmpV a b == .eq, false), (.fcmplt, ltV, true), (.fcmple, leV, true)]

/-- The special functions (R147, R148) and FSAT, on codes. -/
def fp1Forms : List ((Hdr → Opnd → Opnd → Instr) × (NumFmt → Nat → Nat × Flags)) :=
  [(.frcp, fRcp), (.frsq, fRsq), (.fexp2, fExp2), (.flog2, fLog2), (.fsin, fSin), (.fcos, fCos), (.fsat, fSat),
   (.fclass, fun f x => (fClass f x, 0))]

/-- Cycles per beat (R137). -/
def fpBeat (h : Hdr) : Nat := if h.ty = .d then 2 else 1

/-- A floating-point instruction completes, with lanes of the format of TY. -/
def FiresFp (i : Instr) (h : Hdr) (g : BeatOps → Nat → Nat × Flags) (s : State) : Prop :=
  Fires i (fpBeat h) h.ty.width (fun _ => false) (fpLanes h.ty.width g) s

/-! ### Conversions (R156 to R166) -/

/-- The rounding mode of a narrowing operation: DIAG replaces it (R57). -/
def modeOf (x : Ctx) (rm : BitVec 3) : Nat := if x.sample.getLsbD 2 then (x.sample.extractLsb' 0 2).toNat else rm.toNat

/-- Codes of beat k placed in part k mod g of a staging value, whose other lanes are those of the beat before (R161, R164). -/
def staged (w g k : Nat) (codes : List Nat) (held : List Vec) (v : Vec) : Prop :=
  let p := k % g
  let before : Vec := if p = 0 then 0 else held.headD 0
  ∀ j < 128 / w, lane w v j =
    if p * codes.length ≤ j ∧ j < (p + 1) * codes.length then BitVec.ofNat w (codes.getD (j - p * codes.length) 0) else lane w before j

def codesOf (w : Nat) (v : Vec) : List Nat := (List.range (128 / w)).map (codeAt w v)

/-- Flags of every code. -/
def flagsOf (l : List (Nat × Flags)) (fl : Flags) : Prop := ∀ i, fl.getLsbD i = l.any fun x => x.2.getLsbD i

/-! ### Control registers (R125, R194, R226) -/

/-- The value of a control register that CTL reads, in an element that has paid for the CTL. -/
def ctlBits (s : State) (x : Ctx) (e : Elem) (n : Nat) : BitVec 32 :=
  match n with
  | 0 => e.fpctl
  | 1 => e.fpst
  | 2 => BitVec.ofNat 10 0 ++ BitVec.ofFnLE (fun j : Fin 6 => (getQ e j.val).shut) ++ e.wave ++ BitVec.ofNat 4 0
      ++ BitVec.ofNat 4 (match e.st with
        | .idle => 0 | .running => 1 | .draining => 2 | .reconfiguring => 3 | .halted => 4 | .trapped => 5 | .frozen => 6)
  | 3 => BitVec.ofNat 10 0 ++ BitVec.ofNat 6 s.focus.region ++ BitVec.ofNat 3 0 ++ BitVec.ofNat 5 s.focus.site ++ BitVec.ofNat 4 0
      ++ BitVec.ofNat 4 s.focus.elem
  | 4 => e.preds.setWidth 32
  | 5 => BitVec.ofNat 32 e.pow
  | 6 => BitVec.ofNat 32 x.cycle
  | 7 => e.cychi
  | 8 => BitVec.ofNat 32 (qstat e)
  | 9 => BitVec.ofNat 32 (crstat s x.key)
  | 10 => BitVec.ofNat 32 (xstat e)
  | 11 => e.spcfg.setWidth 32
  | 12 => BitVec.ofNat 32 (l1szOf x.region)
  | 13 => BitVec.ofNat 32 (sealst e)
  | 14 => BitVec.ofNat 32 (memst e)
  | _ => 0

/-- 16 × SITE + ELEM of an event-queue entry (R293). -/
def entryNo (v : BitVec 64) : Nat := 16 * (v.extractLsb' 16 5).toNat + (v.extractLsb' 12 4).toNat

/-! ### Element traps (R107, R441, R442) -/

/-- The trap record of an element holds these values; its last words are the sidebands of the queues' heads. -/
structure Recorded (key origin : Nat) (cause : BitVec 8) (code beat slot : Nat) (word addr : BitVec 64) (a b c : Vec) (e : Elem)
    (r : BitVec 1024) : Prop where
  elem : r.extractLsb' 2 4 = BitVec.ofNat 4 (keyElem key)
  site : r.extractLsb' 6 5 = BitVec.ofNat 5 (keySite key)
  slot : r.extractLsb' 11 4 = BitVec.ofNat 4 slot
  beat : r.extractLsb' 15 6 = BitVec.ofNat 6 beat
  code : r.extractLsb' 21 11 = BitVec.ofNat 11 code
  cause : r.extractLsb' 32 8 = cause
  origin : r.extractLsb' 40 2 = BitVec.ofNat 2 origin
  word : r.extractLsb' 416 64 = word
  addr : r.extractLsb' 480 64 = addr
  opA : r.extractLsb' 544 128 = a
  opB : r.extractLsb' 672 128 = b
  opC : r.extractLsb' 800 128 = c
  heads : ∀ j < 6, r.extractLsb' (928 + 16 * j) 16 = match (getQ e j).toks with | t :: _ => t.side | [] => 0

/-- The instruction in focus has trapped in its first beat, which reads a, b and c: it has paid, and of its effects only the acquires
of the tokens that it read stand, in the element e. -/
structure ElemTraps (f : Form) (cause : BitVec 8) (code : Nat) (addr : BitVec 64) (a b c : Vec) (e : Elem) (s t : State) : Prop where
  state : (getE t (focusKey s)).st = .trapped
  record : ∃ r, (getE t (focusKey s)).trapRec = some r ∧
    Recorded (focusKey s) 0 cause code 0 s.focus.slot (tget (elem s).slots s.focus.slot 0) addr a b c (elem s) r
  since : (getE t (focusKey s)).trapAt = nowAt s
  busy : (getE t (focusKey s)).busy = nowAt s + 1
  power : (getE t (focusKey s)).pow = (elem s).pow - f.hdr.beats.count * f.hdr.pwr.cost
  rest : { getE t (focusKey s) with
    st := e.st, trapRec := e.trapRec, trapAt := e.trapAt, busy := e.busy, pow := e.pow } = e
  frame : OnlyElem s t

end Sys2Proof.Claims

/-- R137, R147 to R152: the floating-point instructions complete, with exact values rounded once.
The model's own readings and choices in it: log 12. -/
def Obligations.ElementFloat : Prop :=
  (∀ p ∈ fp2Forms, ∀ h d a b s, let f := tyFmt h.ty
    FiresFp (p.1 h d a b) h (fun o j => let x := decodeF f (codeAt h.ty.width o.a j); let y := decodeF f (codeAt h.ty.width o.b j)
      exactly f [x, y] (p.2 x y)) s) ∧
  (∀ p ∈ fp3Forms, ∀ h d a b c s, let f := tyFmt h.ty
    FiresFp (p.1 h d a b c) h (fun o j => let x := decodeF f (codeAt h.ty.width o.a j); let y := decodeF f (codeAt h.ty.width o.b j)
      let z := decodeF f (codeAt h.ty.width o.c j)
      exactly f [x, y, z] (p.2 x y z)) s) ∧
  (∀ p ∈ fpCompares, ∀ h d a b s, let f := tyFmt h.ty
    FiresFp (p.1 h d a b) h (fun o j => let x := decodeF f (codeAt h.ty.width o.a j); let y := decodeF f (codeAt h.ty.width o.b j)
      if x.isNaN || y.isNaN then (0, if p.2.2 || x.isSig || y.isSig then fNV else 0)
      else (if p.2.1 x y then 2 ^ h.ty.width - 1 else 0, 0)) s) ∧
  (∀ p ∈ fp1Forms, ∀ h d a s, FiresFp (p.1 h d a) h (fun o j => p.2 (tyFmt h.ty) (codeAt h.ty.width o.a j)) s) ∧
  (∀ h d a (rm : BitVec 3) s, FiresFp (.frnd h d a rm) h (fun o j => fRnd (tyFmt h.ty) rm.toNat (codeAt h.ty.width o.a j)) s) ∧
  (∀ h d a b c s, FiresFp (.faddmin h d a b c) h (fun o j =>
    fAddmin (tyFmt h.ty) (codeAt h.ty.width o.a j) (codeAt h.ty.width o.b j) (codeAt h.ty.width o.c j)) s) ∧
  (∀ h d a b s, FiresFp (.fscale h d a b) h (fun o j =>
    match decodeF (tyFmt h.ty) (codeAt h.ty.width o.a j) with
    | .fin n m e => roundFin (tyFmt h.ty) 0 n m (e + clampExp (lane h.ty.width o.b j).toInt)
    | v => roundV (tyFmt h.ty) 0 v) s) ∧
  (∀ h d a b c s, h.ty = .h ∨ h.ty = .bf → Fires (.fdot2 h d a b c) 1 32 (fun _ => false) (fpLanes 32 fun o j =>
    let f := tyFmt h.ty
    let a0 := decodeF f (codeAt 16 o.a (2 * j)); let a1 := decodeF f (codeAt 16 o.a (2 * j + 1))
    let b0 := decodeF f (codeAt 16 o.b (2 * j)); let b1 := decodeF f (codeAt 16 o.b (2 * j + 1))
    let c := decodeF .fp32 (codeAt 32 o.c j)
    exactly .fp32 [a0, a1, b0, b1, c] ((mulV a0 b0).bind fun p => (mulV a1 b1).bind fun q => sumV [p, q, c])) s)

/-- R159 to R166: conversions, MX quantisation and the residue registers. -/
def Obligations.ElementConversions : Prop :=
  (∀ h d a (tt : BitVec 3) (tf sf : Bool) (rm : BitVec 3) (part : BitVec 4) src dst s, cvtFmts h.ty tt tf sf = some (src, dst) →
    Fires (.cvt h d a tt tf sf rm part) (if src = .fp64 ∨ dst = .fp64 then 2 else 1) dst.width (fun _ => false)
      (fun x e k o held r => fpLanes dst.width (fun o j => conv src dst (modeOf x rm)
        (codeAt src.width o.a ((part.toNat + k) % (dst.width / src.width) * (128 / dst.width) + j))) x e k o held r) s) ∧
  (∀ h d a (tt : BitVec 3) (tf sf : Bool) (rm : BitVec 3) (ef : BitVec 2) src dst s, cvtFmts h.ty tt tf sf = some (src, dst) →
    Fires (.cvtn h d a tt tf sf rm ef) (if src = .fp64 ∨ dst = .fp64 then 2 else 1) dst.width (fun _ => false)
      (fun x e k o held r =>
        r.held = [r.res] ∧
        if rm = 4 ∧ x.sample.getLsbD 2 = false then
          let q := List.zipWith (efNarrow dst) (codesOf 32 o.a) (codesOf 32 (tget e.ef ef.toNat 0))
          staged dst.width (src.width / dst.width) k (q.map (·.1)) held r.res ∧ flagsOf (q.map fun y => (y.1, y.2.1)) r.flags ∧
          ∃ v, r.elem = { e with ef := tset e.ef ef.toNat v } ∧ ∀ j < 4, lane 32 v j = BitVec.ofNat 32 (q.getD j default).2.2
        else
          let q := (codesOf src.width o.a).map (conv src dst (modeOf x rm))
          staged dst.width (src.width / dst.width) k (q.map (·.1)) held r.res ∧ flagsOf q r.flags ∧ r.elem = e) s) ∧
  (∀ h d a (fmt : BitVec 2) s, FiresPlain (.mxqSc h d a fmt) h.ty.width (fun _ e _ o held r =>
    r.held = o.a :: held ∧ r.elem = e ∧
    let q := mxScale (r.held.flatMap fun v => (codesOf h.ty.width v).map (decodeF (tyFmt h.ty))) (mxFmt fmt)
    r.res = BitVec.ofNat 128 q.1 ∧ r.flags = q.2) s) ∧
  (∀ h d a b (rm : BitVec 3) (fmt : BitVec 2) s, FiresPlain (.mxq h d a b rm fmt) (mxFmt fmt).width (fun x e k o held r =>
    let q := (codesOf h.ty.width o.a).map fun v =>
      mxElem (decodeF (tyFmt h.ty) v) (o.b.extractLsb' 0 8).toNat (mxFmt fmt) (modeOf x rm)
    r.held = [r.res] ∧ r.elem = e ∧ staged (mxFmt fmt).width (h.ty.width / (mxFmt fmt).width) k (q.map (·.1)) held r.res ∧
    flagsOf q r.flags) s) ∧
  (∀ h d a b (part : BitVec 3) (fmt : BitVec 2) s, FiresPlain (.mxdq h d a b part fmt) h.ty.width (fun x e k o held r =>
    fpLanes h.ty.width (fun o j => mxDequant (codeAt (mxFmt fmt).width o.a
      ((part.toNat + k) % (h.ty.width / (mxFmt fmt).width) * h.ty.lanes + j)) (mxFmt fmt) (o.b.extractLsb' 0 8).toNat (tyFmt h.ty)
      (modeOf x 0)) x e k o held r) s) ∧
  (∀ h a (n : BitVec 2) s, FiresPlain (.efld h a n) h.ty.width (change fun _ e _ o e' => e' = { e with ef := tset e.ef n.toNat o.a }) s) ∧
  (∀ h d (n : BitVec 2) s, FiresPlain (.efst h d n) h.ty.width (fun _ e _ _ _ r => r.res = tget e.ef n.toNat 0 ∧ r.elem = e ∧ r.flags = 0) s)

/-- R127, R132, R133, R135, R54, R55: NOP, PSET, HALT and CTL. The model's own readings and choices in it: log 26. R134, R293: FEVT
places its entry in the event queue where there is room: behind the entries of earlier cycles, and among those of its own cycle in
ascending 16 × SITE + ELEM. A read of FPST waits for a TRED of the element (log 27). -/
def Obligations.ElementControl : Prop :=
  ((∀ h s, FiresPlain (.nop h) h.ty.width (change fun _ e _ _ e' => e' = e) s) ∧
   (∀ h a s, FiresPlain (.pset h a) h.ty.width (change fun _ e _ o e' => ∃ p, e' = { e with preds := p } ∧
     ∀ j < 8, p.getLsbD j = if (lane 32 o.a 0).getLsbD (8 + j) then (lane 32 o.a 0).getLsbD j else e.preds.getLsbD j) s) ∧
   (∀ h s, FiresPlain (.halt h) h.ty.width (change fun _ e _ _ e' => e' = { e with st := .halted }) s) ∧
   (∀ h d (n : BitVec 5) s, s.focus.region < 64 → FiresIf (fun _ => n = 1 → ∀ x ∈ (elem s).xops, ∀ o g ty, x.kind ≠ .tred o g ty)
       (fieldCtx s) (.ctlRead h d n) 1 h.ty.width (fun _ => false) (fun x e _ _ _ r =>
     r.elem = (if n = 6 then { e with cychi := BitVec.ofNat 32 (x.cycle / 2 ^ 32) } else e) ∧ r.flags = 0 ∧
     r.res.extractLsb' 0 32 = ctlBits s x e n.toNat ∧
     (n.toNat < 8 → e.pow ≤ 256 → r.res.extractLsb' 32 96 = 0)) s) ∧
   (∀ h a (n : BitVec 5) s, FiresPlain (.ctlWrite h a n) h.ty.width (change fun _ e _ o e' =>
     e' = if n = 0 then { e with fpctl := lane 32 o.a 0 &&& 7 }
       else if n = 1 then { e with fpst := e.fpst &&& ~~~ (lane 32 o.a 0 &&& 31) } else e) s)) ∧
  (∀ h a f s, (Instr.fevt h a).form = some f → h.beats = .x1 → OnGrid s → Ready s f 0 → (hereSeq s).events.length < 64 →
     ∃ t, exec (.fevt h a) s = .next t ∧
       (∃ v, let l := (hereSeq s).events
         let n := if (hereSeq s).evNew.1 = nowAt s then min (hereSeq s).evNew.2 l.length else 0
         let new := l.drop (l.length - n)
         (getSeq t (here s)).events =
           l.take (l.length - n) ++ new.filter (entryNo · ≤ entryNo v) ++ [v] ++ new.filter (entryNo v < entryNo ·) ∧
         (getSeq t (here s)).evNew = (nowAt s, n + 1) ∧ (l = [] → (getSeq t (here s)).evFirst = nowAt s) ∧
         (l ≠ [] → (getSeq t (here s)).evFirst = (hereSeq s).evFirst) ∧ v.getLsbD 0 = true ∧ v.extractLsb' 1 11 = 0 ∧
         v.extractLsb' 12 4 = BitVec.ofNat 4 s.focus.elem ∧ v.extractLsb' 16 5 = BitVec.ofNat 5 s.focus.site ∧ v.extractLsb' 21 3 = 0 ∧
         v.extractLsb' 24 8 = (elem s).wave ∧
         v.extractLsb' 32 32 = lane 32 (readOpnd (elem s) (fpSample s) 0 false a).1 0) ∧
       Ran f 1 f.hdr.ty.width (fun _ => false) (change fun _ e _ _ e' => e' = e) s (getE t (focusKey s)) ∧
       OnlyElem s (modSeq t (here s) fun q => { q with
         events := (hereSeq s).events, evNew := (hereSeq s).evNew, evFirst := (hereSeq s).evFirst }))

/-- R184 to R189: the token instructions. -/
def Obligations.ElementTokens : Prop :=
  (∀ h d a (j : Fin 6) (eow : Bool) (vc : BitVec 5) (ctx : BitVec 2) s, d = .q j →
    FiresIf (fun _ => True) (fun _ => ctx.toNat) (.send h d a eow vc ctx) 1 h.ty.width (fun _ => false)
      (change fun x e k o e' => ∃ t, e' = { e with out := e.out ++ [t] } ∧
        Sent j.val o.a (0#5 ++ BitVec.ofBool (eow && decide (k + 1 = h.beats.count)) ++ ctx ++ 0#3 ++ vc) (x.cycle + k) none e t) s) ∧
  (∀ h d a (j : Fin 6) (eow : Bool) (vc : BitVec 5) (sc : Scope) (ctx : BitVec 2) s, d = .q j →
    FiresIf (fun _ => True) (fun _ => ctx.toNat) (.sendo h d a eow vc sc ctx) 1 h.ty.width (fun _ => false)
      (change fun x e k o e' => ∃ t, e' = { e with out := e.out ++ [t] } ∧
        Sent j.val o.a (1#2 ++ sc.code ++ BitVec.ofBool (eow && decide (k + 1 = h.beats.count)) ++ ctx ++ 0#3 ++ vc) (x.cycle + k)
          (some (sc, e.nextAcc)) e t) s) ∧
  (∀ h d a (j q : Fin 6) s, d = .q j → a = .q q →
    FiresIf (fun _ => True) (fun _ => match headTok (elem s) q with | some t => (t.side.extractLsb' 8 2).toNat | none => 0)
      (.relay h d a) 1 h.ty.width (fun _ => false)
      (change fun x e k _ e' => ∃ tk t, (getQ e q).toks[if h.dq then 0 else k]? = some tk ∧ e' = { e with out := e.out ++ [t] } ∧
        Sent j.val tk.pay tk.side (x.cycle + k) none e t) s) ∧
  (∀ h a s, FiresPlain (.drop h a) h.ty.width (change fun _ e _ _ e' => e' = e) s) ∧
  (∀ h d a (q : Fin 6) s, a = .q q → FiresPlain (.lcnt h d a) h.ty.width (fun _ e _ _ _ r => r.elem = e ∧ r.flags = 0 ∧
    lane 32 r.res 0 = BitVec.ofNat 32 (avail e q) ∧ lane 32 r.res 1 = BitVec.ofNat 32 (getQ e q).toks.length ∧
    lane 32 r.res 2 = (if (getQ e q).shut then 1 else 0) ∧
    lane 32 r.res 3 = (match (getQ e q).toks with | t :: _ => t.side.setWidth 32 | [] => 0xFFFFFFFF)) s) ∧
  (∀ h d (j : Fin 6) (vc : BitVec 5) (ctx : BitVec 2) s, d = .q j → FiresPlain (.tags h d vc ctx) h.ty.width
    (change fun _ e _ _ e' => e' = { e with otag := tset e.otag j (ctx ++ vc) }) s) ∧
  (∀ h a (n : Fin 16) (fmt vc : BitVec 5) s, a = .f n → FiresPlain (.ftset h a fmt vc) h.ty.width
    (change fun _ e _ _ e' => e' = { e with fmts := tset e.fmts vc.toNat (0#2 ++ fmt ++ BitVec.ofNat 4 n ++ 0#5) }) s) ∧
  (∀ h (en : Bool) (qa qb : BitVec 3) s, FiresPlain (.spcfg h en qa qb) h.ty.width
    (change fun _ e _ _ e' => e' = { e with spcfg := BitVec.ofBool en ++ 0#2 ++ qa ++ qb ++ 0#3 }) s)

namespace Sys2Proof.Claims
open Sys2Proof.Machine

/-! ### Memory instructions of the element (R200 to R225) -/

/-- The value that operand o gives to beat k of an instruction that fires now; a queue gives its k-th token, whether or not the beats
dequeue (R106). -/
def opndAt (s : State) (k : Nat) (o : Opnd) : Vec := (readOpnd (elem s) (fpSample s) k false o).1

/-- A buffer record of the element in focus. -/
def recAt (s : State) (n : Nat) : BitVec 256 := tget (elem s).recs n 0

/-- Where an address that has passed the bounds check leads (R202). -/
def placed (x : Region) (key : Nat) (b : BitVec 256) (size a : Nat) : AddrRes :=
  if a % size ≠ 0 then .trap 4 a
  else if recSpace b = 0 then (if 2 ^ 57 ≤ a then .trap 6 a else .at_ a)
  else if spadSize x ≤ a ∨ siteOk x (keySite (recTarget key b)) = false then .trap 5 a
  else .at_ a

/-- BASE of a record as its space reads it (R200). -/
def baseOf (b : BitVec 256) : Nat := if recSpace b = 0 then (b.extractLsb' 0 57).toNat else (b.extractLsb' 0 16).toNat

/-- Entries, chains and TSYNC (R204, R205, R396). -/
structure MemFree (e : Elem) (m : MemOp) (n : Nat) : Prop where
  loads : takesLoad m.kind = true → loadsUsed e + n ≤ 32
  stores : takesStore m.kind = true → storesUsed e + n ≤ 16
  write : ∀ c, m.chain = some (c, true) → chainBusy e c = false
  read : ∀ c, m.chain = some (c, false) → chainWriteBusy e c = false
  tsync : ∀ a ∈ e.accs, a.kind ≠ .tsync

/-- The granule of an address lies in a sealed range (R209). -/
def inSeal (e : Elem) (a : Nat) : Prop := ∃ p ∈ e.seals, p.2.sealed = true ∧ p.2.lo ≤ a / 16 * 16 ∧ a / 16 * 16 < p.2.hi

/-- An address may be accessed: MemAddr does not trap, and an own write does not meet a seal (R202, R210). -/
def Passes (s : State) (m : MemOp) (o : Int) : Prop :=
  let b := recAt s m.rec_
  (∀ c a, memAddr (getR s (here s)) (focusKey s) b m.spaces o m.size ≠ .trap c a) ∧
  ∀ a, memAddr (getR s (here s)) (focusKey s) b m.spaces o m.size = .at_ a → recSpace b = 1 → takesStore m.kind = true → ¬ inSeal (elem s) a

/-- An access as it is left outstanding by its beat. -/
structure Outstanding (x : Ctx) (e : Elem) (m : MemOp) (k : Nat) (b : BitVec 256) (o : BeatOps) (data : Vec) (a : Access) : Prop where
  id : a.id = e.nextAcc
  what : a.kind = m.kind ∧ a.dest = m.dest ∧ a.chain = m.chain ∧ a.scope = m.scope ∧ a.policy = m.policy ∧ a.size = m.size
  place : a.space = recSpace b ∧ a.target = recTarget x.key b
  data : a.data = data
  slot : a.slot = x.slot ∧ a.beat = k ∧ a.word = x.word ∧ a.ops = [o.a, o.b, o.c] ∧ a.fired = x.cycle + k
  fresh : a.cur = 0 ∧ a.accepted = none ∧ a.raised = [] ∧ a.sentOff = false ∧ a.asked = false ∧ a.fault = none ∧ a.noAlloc = false ∧ a.barred = [] ∧
    a.parked = false
  sends : ∀ j, m.dest = .chan j → a.bind = bindOf e j ∧ a.tag = otag e j ∧ a.recs = e.recs ∧ a.sample = x.sample

/-- A beat leaves one access outstanding, with these addresses; a register that it loads becomes pending (R111, R204). -/
def Issues (x : Ctx) (e : Elem) (m : MemOp) (k : Nat) (b : BitVec 256) (o : BeatOps) (data : Vec) (p : List AccLane → Prop) (e' : Elem) :
    Prop :=
  (∃ a, Outstanding x e m k b o data a ∧ p a.lanes ∧ e'.accs = e.accs ++ [a]) ∧ e'.nextAcc = e.nextAcc + 1 ∧
  (∀ j < 64, e'.pend.getLsbD j = (e.pend.getLsbD j || decide (m.dest = .reg j))) ∧
  { e' with accs := e.accs, nextAcc := e.nextAcc, pend := e.pend } = e

/-- One address of an access: a plain load in space 0 looks up the L1 as it fires, and is served by it (R207, R358); a skipped one
delivers zero (R202). -/
def LaneAt (x : Ctx) (e : Elem) (m : MemOp) (b : BitVec 256) (j : Nat) (w : AddrRes) (l : AccLane) : Prop :=
  l.lane = j ∧ l.xlat = none ∧
  match w with
  | .at_ a => l.addr = a ∧ l.skip = false ∧ (l.looked, l.got) = if recSpace b = 0 then l1Serve x e m a m.size else (true, none)
  | .skip => l.skip = true ∧ l.got = some 0
  | .trap _ _ => False

/-- Effects of an instruction with one address per beat. -/
def memEffects (m : MemOp) (imm : Int) (step : Nat) (data : BeatOps → Vec) : Effects := fun x e k o _ r =>
  let b := tget e.recs m.rec_ 0
  let w := memAddr x.region x.key b m.spaces (recOffset b o.a imm k step) m.size
  r.res = 0 ∧ r.flags = 0 ∧
  if w = .skip ∧ takesLoad m.kind = false then r.elem = e
  else Issues x e m k b o (data o) (fun l => ∃ y, l = [y] ∧ LaneAt x e m b 0 w y) r.elem

/-- A physical line leaves the L1, and no access in flight allocates it (R207, R352). -/
def lineBarred (ln : Nat) (e : Elem) : Elem :=
  { e with l1 := e.l1.filter fun c => c.line != ln, accs := e.accs.map fun a => { a with barred := ln :: a.barred } }

/-- Effects of an ATOM: its own line leaves the L1 as it fires, where the L1 TLB gives the line; else once it is translated (R207). -/
def atomEffects (m : MemOp) : Effects := fun x e k o held r =>
  let b := tget e.recs m.rec_ 0
  ∃ r', memEffects m 0 0 (fun o => o.d) x e k o held r' ∧
    r = match memAddr x.region x.key b m.spaces (recOffset b o.a 0 k 0) m.size with
      | .at_ a => if recSpace b = 0 then
          match l1Xlat x e a with | some t => { r' with elem := lineBarred ((t.pa + (a - t.va)) / 64) r'.elem } | none => r'
        else r'
      | _ => r'

/-- Effects of LDG and STS: one address per lane. -/
def laneEffects (m : MemOp) (w : Nat) (imm : Int) (data : BeatOps → Vec) : Effects := fun x e k o _ r =>
  let b := tget e.recs m.rec_ 0
  r.res = 0 ∧ r.flags = 0 ∧
  Issues x e m k b o (data o) (fun l => l.length = 128 / w ∧ ∀ j < 128 / w, ∃ y, l[j]? = some y ∧
    LaneAt x e m b j (memAddr x.region x.key b m.spaces ((lane w o.a j).toInt * recStride1 b + imm) m.size) y) r.elem

/-- The instructions of R217, R218 and R223 with what R216 says of each: kind, chain mode, spaces, size, and step; whether operand D is
its data. -/
def memForms (h : Hdr) (d a : Opnd) (off : BitVec 6) (rc : BitVec 3) (ch : BitVec 2) (sc : Scope) (pol : Policy) :
    List (Instr × MemOp × Nat × Bool) :=
  [(.ld h d a off rc ch sc pol, ⟨.ld, rc.toNat, some (ch.toNat, false), sc, pol, [0, 1], 16, destOf d⟩, 16, false),
   (.st h d a off rc ch sc pol, ⟨.st, rc.toNat, some (ch.toNat, true), sc, pol, [0, 1, 2], 16, .none⟩, 16, true),
   (.ldfKeep h d a off rc ch, ⟨.ldf false, rc.toNat, some (ch.toNat, false), .e, .dflt, [1], 16, destOf d⟩, 0, false),
   (.ldfClr h d a off rc ch, ⟨.ldf true, rc.toNat, some (ch.toNat, false), .e, .dflt, [1], 16, destOf d⟩, 0, false),
   (.stf h d a off rc ch, ⟨.stf, rc.toNat, some (ch.toNat, true), .e, .dflt, [1, 2], 16, .none⟩, 16, true),
   (.ldr h d a off rc ch, ⟨.ldr, rc.toNat, some (ch.toNat, false), .e, .dflt, [2], 16, destOf d⟩, 16, false),
   (.fesetEmpty h a off rc ch, ⟨.feset false, rc.toNat, some (ch.toNat, true), .e, .dflt, [1, 2], 16, .none⟩, 16, false),
   (.fesetFull h a off rc ch, ⟨.feset true, rc.toNat, some (ch.toNat, true), .e, .dflt, [1, 2], 16, .none⟩, 16, false)]

def gatherForms (h : Hdr) (d a : Opnd) (off : BitVec 6) (rc : BitVec 3) (ch : BitVec 2) (sc : Scope) (pol : Policy) :
    List (Instr × MemOp × Bool) :=
  [(.ldg h d a off rc ch sc pol, ⟨.ldg, rc.toNat, some (ch.toNat, false), sc, pol, [0, 1], h.ty.width / 8, destOf d⟩, false),
   (.sts h d a off rc ch sc pol, ⟨.sts, rc.toNat, some (ch.toNat, true), sc, pol, [0, 1], h.ty.width / 8, .none⟩, true)]

/-- ATOM (R220): no offset, 4 or 8 bytes. -/
def atomOp (d : Opnd) (op : BitVec 4) (size : BitVec 2) (rc : BitVec 3) (ch : BitVec 2) (sc : Scope) : MemOp :=
  ⟨.atom op.toNat size.toNat, rc.toNat, some (ch.toNat, true), sc, .dflt, [0, 1], if size = 0 then 4 else 8, destOf d⟩

/-- The instruction completes where it is ready and `unit` holds. -/
def Completes (i : Instr) (f : Form) (eff : Effects) (s : State) : Prop :=
  ∃ t, exec i s = .next t ∧ OnlyElem s t ∧ Ran f 1 f.hdr.ty.width (fun _ => false) eff s (getE t (focusKey s))

/-- The operand of a beat's data. -/
def dataOf (d : Bool) (o : BeatOps) : Vec := if d then o.d else 0

/-- Barrier fields after an update (R213, R214): whether it is refused, else the barrier and whether its phase changes. -/
def barrierAfter (b : BitVec 128) (darr dsec : Nat) : Option (BitVec 128 × Bool) :=
  let arr := b.extractLsb' 4 20
  let sec := b.extractLsb' 48 32
  if arr.toNat < darr ∨ sec.toNat < dsec then none
  else if arr.toNat = darr ∧ sec.toNat = dsec then
    some (b.extractLsb' 80 48 ++ 0#32 ++ b.extractLsb' 24 24 ++ b.extractLsb' 24 20 ++ (b.extractLsb' 0 4 + 1), true)
  else some (b.extractLsb' 80 48 ++ (sec - BitVec.ofNat 32 dsec) ++ b.extractLsb' 24 24 ++ (arr - BitVec.ofNat 20 darr) ++ b.extractLsb' 0 4, false)

/-- A TBWAIT registered at the barrier of an offset is released (R214). -/
def released (off : Nat) : Option (Nat × Bool) → Option (Nat × Bool)
  | some (o, v) => some (o, if o = off then true else v)
  | none => none

/-- The notify token of a phase change (R215). -/
structure NotifyToken (b : BitVec 128) (off : Nat) (n : Notify) : Prop where
  site : n.site = (b.extractLsb' 122 5).toNat
  elem : n.elem = (b.extractLsb' 118 4).toNat
  queue : n.queue = (b.extractLsb' 115 3).toNat
  phase : lane 32 n.tok.pay 0 = (b.extractLsb' 0 4).setWidth 32 + 1 &&& 15
  offset : lane 32 n.tok.pay 1 = BitVec.ofNat 32 off
  zero : lane 32 n.tok.pay 2 = 0 ∧ lane 32 n.tok.pay 3 = 0
  side : n.tok.side = (if b.extractLsb' 112 3 = 0 then 0#2 else 1#2) ++ b.extractLsb' 112 3 ++ 0#6 ++ 31#5

end Sys2Proof.Claims

/-- R202: the offset of a beat, and where MemAddr leads. R202, R204, R205, R217 to R220, R223: a memory instruction whose addresses pass
leaves one access outstanding for each beat; an ATOM also invalidates its line in the L1 (R207). The model's own readings and choices in it: log 7. -/
def Obligations.ElementMemory : Prop :=
  ((∀ b a imm k u, recOffset b a imm k u = (lane 32 a 0).toInt * (b.extractLsb' 104 32).toInt
     + (lane 32 a 1).toInt * (b.extractLsb' 136 32).toInt + (lane 32 a 2).toInt + imm + (u * k : Nat)) ∧
   ∀ x key b spaces (o : Int) size, 0 < size →
     let ext := (b.extractLsb' 64 40).toNat
     let goes := fun o => memAddr x key b spaces o size
     (recSpace b ∉ spaces → goes o = .trap 2 0) ∧
     (recSpace b ∈ spaces → 0 ≤ o → o + size ≤ ext → goes o = placed x key b size (baseOf b + o.toNat)) ∧
     (recSpace b ∈ spaces → (o < 0 ∨ (ext : Int) < o + size) → recBounds b = 0 → ∃ a, goes o = .trap 5 a) ∧
     (recSpace b ∈ spaces → (o < 0 ∨ (ext : Int) < o + size) → recBounds b ≠ 0 → (recBounds b = 2 ∨ ext < size) → goes o = .skip) ∧
     (recSpace b ∈ spaces → (o < 0 ∨ (ext : Int) < o + size) → recBounds b ≠ 0 → recBounds b ≠ 2 → size ≤ ext →
       goes o = placed x key b size (baseOf b + (max 0 (min o (ext - size))).toNat))) ∧
  ((∀ h d a off rc ch sc pol s, ∀ p ∈ memForms h d a off rc ch sc pol, ∀ f, p.1.form = some f → OnGrid s → Ready s f (fieldCtx s f) →
     MemFree (elem s) p.2.1 f.hdr.beats.count →
     (∀ k < f.hdr.beats.count, Passes s p.2.1 (recOffset (recAt s rc.toNat) (opndAt s k a) (16 * off.toInt) k p.2.2.1)) →
     Completes p.1 f (memEffects p.2.1 (16 * off.toInt) p.2.2.1 (dataOf p.2.2.2)) s) ∧
   (∀ h d a off rc ch sc pol s, ∀ p ∈ gatherForms h d a off rc ch sc pol, ∀ f, p.1.form = some f → OnGrid s → Ready s f (fieldCtx s f) →
     MemFree (elem s) p.2.1 f.hdr.beats.count →
     (∀ k < f.hdr.beats.count, ∀ j < 128 / h.ty.width,
       Passes s p.2.1 ((lane h.ty.width (opndAt s k a) j).toInt * recStride1 (recAt s rc.toNat) + 16 * off.toInt)) →
     Completes p.1 f (laneEffects p.2.1 h.ty.width (16 * off.toInt) (dataOf p.2.2)) s) ∧
   (∀ h d a op size rc ch sc s f, (Instr.atom h d a op size rc ch sc).form = some f → size.toNat < 2 → OnGrid s → Ready s f (fieldCtx s f) →
     MemFree (elem s) (atomOp d op size rc ch sc) f.hdr.beats.count →
     (∀ k < f.hdr.beats.count, Passes s (atomOp d op size rc ch sc) (recOffset (recAt s rc.toNat) (opndAt s k a) 0 k 0)) →
     Completes (.atom h d a op size rc ch sc) f (atomEffects (atomOp d op size rc ch sc)) s))

/-- R77, R107, R136: TRAP and BKPT pay and then trap; a faulty slot traps without paying, on its predicate test alone. The model's own
readings and choices in it: log 23. R107, R202, R210: a memory instruction whose first address traps takes that trap with none of
its effects; an own write to a sealed granule traps with cause 0x07. -/
def Obligations.ElementTraps : Prop :=
  ((∀ h (n : BitVec 11) f s, (Instr.trap h n).form = some f → OnGrid s → Ready s f 0 →
     ∃ t, exec (.trap h n) s = .next t ∧ ElemTraps f 0x10 n.toNat 0 0 0 0 (elem s) s t) ∧
   (∀ h (n : BitVec 11) f s, (Instr.bkpt h n).form = some f → OnGrid s → Ready s f 0 →
     ∃ t, exec (.bkpt h n) s = .next t ∧ ElemTraps f 0x11 n.toNat 0 0 0 0 (elem s) s t) ∧
   (∀ cause s, let w := tget (elem s).slots s.focus.slot 0
     OnGrid s → (elem s).st = .running → (elem s).busy ≤ nowAt s → acting (getR s (here s)) = true → (elem s).faulty.getLsbD s.focus.slot = true →
     (∀ j < 4, w.getLsbD (58 + j) = true → (elem s).preds.getLsbD (4 * (w.extractLsb' 62 1).toNat + j) = w.getLsbD (54 + j)) →
     ∃ t r, exec (.faultySlotFire cause) s = .next t ∧
       getE t (focusKey s) = { elem s with st := .trapped, trapAt := nowAt s, trapRec := some r } ∧
       Recorded (focusKey s) 0 cause 0 0 s.focus.slot w 0 0 0 0 (elem s) r ∧
       OtherElems (focusKey s) s t ∧ SameRegions s t ∧ SameMem s t ∧ SameDevice s t)) ∧
  (∀ h d a off rc ch sc pol s, ∀ p ∈ memForms h d a off rc ch sc pol, ∀ f, p.1.form = some f → OnGrid s → Ready s f (fieldCtx s f) →
     MemFree (elem s) p.2.1 f.hdr.beats.count →
     let b := recAt s rc.toNat
     let o := (readOps (elem s) (fpSample s) f 0).1
     let goes := memAddr (getR s (here s)) (focusKey s) b p.2.1.spaces (recOffset b o.a (16 * off.toInt) 0 p.2.2.1) p.2.1.size
     (∀ c ad, goes = .trap c ad → ∃ t, exec p.1 s = .next t ∧
       ElemTraps f c 0 (BitVec.ofNat 64 ad) o.a o.b o.c (acquireOps (elem s) f 0) s t) ∧
     (∀ ad, goes = .at_ ad → recSpace b = 1 → takesStore p.2.1.kind = true → inSeal (elem s) ad → ∃ t, exec p.1 s = .next t ∧
       ElemTraps f 7 0 (BitVec.ofNat 64 ad) o.a o.b o.c (acquireOps (elem s) f 0) s t))

/-- R213, R214, R215: an update of a barrier is refused, waits for the notify queue, or is made whole; a change of its phase releases the
TBWAIT that is registered there. -/
def Obligations.BarrierUpdates : Prop :=
  ∀ e off darr dsec, let b := barrierAt e off
    match barrierAfter b darr dsec with
    | none => barrierUpdate e off darr dsec = .refused
    | some (b', changed) =>
      let made : Elem := { e with spad := memWrite e.spad off (bytesOf 16 b'.toNat), waiter := if changed then released off e.waiter else e.waiter }
      if changed = true ∧ b.getLsbD 127 = true then
        (8 ≤ e.notify.length → barrierUpdate e off darr dsec = .waits) ∧
        (e.notify.length < 8 → ∃ n, NotifyToken b off n ∧ barrierUpdate e off darr dsec = .applied { made with notify := e.notify ++ [n] })
      else barrierUpdate e off darr dsec = .applied made

/-- R208, R221, R222, R224, R225, R355, R396: ARRIVE (which updates a barrier of its own element as it fires, or takes its place among the
updates that wait there; a refused one traps with cause 0x05), PREF, SEAL, RCLAIM, INVL1, BREC, the fences and TSYNC. -/
def Obligations.ElementLocalMemory : Prop :=
  (∀ h a off rc ch sc s f, (Instr.arrive h a off rc ch sc).form = some f → h.beats = .x1 → OnGrid s → Ready s f 0 →
    let m : MemOp := ⟨.arrive, rc.toNat, some (ch.toNat, true), sc, .dflt, [1, 2], 16, .none⟩
    let b := recAt s rc.toNat
    let o := recOffset b (opndAt s 0 a) (16 * off.toInt) 0 0
    MemFree (elem s) m 1 → Passes s m o →
    ((recSpace b ≠ 1 ∨ memAddr (getR s (here s)) (focusKey s) b [1, 2] o 16 = .skip ∨ performedNow s (elem s) (here s) sc.code.toNat = false) →
      Completes (.arrive h a off rc ch sc) f (memEffects m (16 * off.toInt) 0 (fun _ => 0)) s) ∧
    (∀ ad, memAddr (getR s (here s)) (focusKey s) b [1, 2] o 16 = .at_ ad → recSpace b = 1 →
      performedNow s (elem s) (here s) sc.code.toNat = true →
      let ahead := updAhead s (focusKey s) ad (.acc (focusKey s) (elem s).nextAcc)
      let ops := (readOps (elem s) (fpSample s) f 0).1
      (∀ e', ahead = false → barrierUpdate (elem s) ad 1 0 = .applied e' →
        Completes (.arrive h a off rc ch sc) f (change fun x e _ _ e1 =>
          e1 = { e with spad := e'.spad, notify := e'.notify, waiter := e'.waiter, portBusy := max e.portBusy (x.cycle + 1) }) s) ∧
      ((ahead = true ∨ barrierUpdate (elem s) ad 1 0 = .waits) →
        Completes (.arrive h a off rc ch sc) f (fun x e k o held r => ∃ r', memEffects m (16 * off.toInt) 0 (fun _ => 0) x e k o held r' ∧
          r = { r' with elem := { r'.elem with held := e.held ++ [⟨ad, .acc x.key e.nextAcc⟩] } }) s) ∧
      (ahead = false → barrierUpdate (elem s) ad 1 0 = .refused → ∃ t, exec (.arrive h a off rc ch sc) s = .next t ∧
        ElemTraps f 5 0 (BitVec.ofNat 64 ad) ops.a ops.b ops.c (acquireOps (elem s) f 0) s t))) ∧
  (∀ h a off rc pol s f, (Instr.pref h a off rc pol).form = some f → h.beats = .x1 → OnGrid s → Ready s f 0 →
    let m : MemOp := ⟨.pref, rc.toNat, none, .die, pol, [0], 64, .none⟩
    let b := recAt s rc.toNat
    let o := recOffset b (opndAt s 0 a) (16 * off.toInt) 0 0
    MemFree (elem s) m 1 →
    ((recSpace b ≠ 0 ∨ pol = .cg ∨ pol = .noal) → Completes (.pref h a off rc pol) f (change fun _ e _ _ e' => e' = e) s) ∧
    (recSpace b = 0 → (pol = .dflt ∨ pol = .strm) → 0 ≤ o → o + 64 ≤ recExtent b → (recBase b : Int) + o < 2 ^ 57 →
      Completes (.pref h a off rc pol) f (change fun x e k ops e' => Issues x e m k b ops 0
        (fun l => ∃ y, l = [y] ∧ y.addr = (recBase b + o.toNat) / 64 * 64 ∧ y.skip = false) e') s)) ∧
  (∀ h (rc : BitVec 3) (ch : BitVec 2) s f, (Instr.seal h rc ch).form = some f → h.beats = .x1 → OnGrid s → Ready s f 0 →
    MemFree (elem s) (noEntry rc.toNat (some (ch.toNat, true)) .e) 1 →
    let b := recAt s rc.toNat
    let q := tget (elem s).seals rc.toNat {}
    let lo := baseOf b / 16 * 16
    let hi := (baseOf b + recExtent b + 15) / 16 * 16
    recSpace b = 1 →
    (q.sealed = false → Completes (.seal h rc ch) f (change fun _ e _ _ e' =>
      e' = { e with seals := tset e.seals rc.toNat { q with sealed := true, lo := lo, hi := hi } }) s) ∧
    (q.sealed = true → q.lo = lo → q.hi = hi → Completes (.seal h rc ch) f (change fun _ e _ _ e' => e' = e) s) ∧
    (q.sealed = true → (q.lo ≠ lo ∨ q.hi ≠ hi) → ∃ t, exec (.seal h rc ch) s = .next t ∧
      ElemTraps f 7 0 (BitVec.ofNat 64 (baseOf b)) 0 0 0 (elem s) s t)) ∧
  (∀ h (rc : BitVec 3) (ch : BitVec 2) s f, (Instr.rclaim h rc ch).form = some f → h.beats = .x1 → OnGrid s → Ready s f 0 →
    MemFree (elem s) (noEntry rc.toNat (some (ch.toNat, true)) .e) 1 →
    let q := tget (elem s).seals rc.toNat {}
    (recSpace (recAt s rc.toNat) = 1 → q.count = 0 → Completes (.rclaim h rc ch) f (change fun _ e _ _ e' =>
      e' = { e with seals := tset e.seals rc.toNat { q with sealed := false } }) s) ∧
    (q.count ≠ 0 → exec (.rclaim h rc ch) s = .next s)) ∧
  (∀ h s f, (Instr.invl1 h).form = some f → OnGrid s → Ready s f 0 → MemFree (elem s) (noEntry 0 none .e) f.hdr.beats.count →
    Completes (.invl1 h) f (change fun _ e _ _ e' =>
      e' = { e with l1 := [], accs := e.accs.map fun a => { a with noAlloc := true } }) s) ∧
  (∀ h d a (rc : BitVec 3) s f, (Instr.brec h d a rc).form = some f → h.beats = .x1 → OnGrid s → Ready s f 0 →
    MemFree (elem s) (noEntry rc.toNat none .e) 1 →
    (recReserved (getR s (here s)) (opndAt s 0 d ++ opndAt s 0 a) = false → Completes (.brec h d a rc) f (change fun _ e _ o e' =>
      e' = { e with recs := tset e.recs rc.toNat (o.d ++ o.a) }) s) ∧
    (recReserved (getR s (here s)) (opndAt s 0 d ++ opndAt s 0 a) = true → ∃ t, exec (.brec h d a rc) s = .next t ∧
      ElemTraps f 2 0 0 (opndAt s 0 a) 0 0 (acquireOps (elem s) f 0) s t)) ∧
  (∀ h (sc : Scope) s f, (Instr.fenceFull h sc).form = some f → OnGrid s → Ready s f 0 → (∀ a ∈ (elem s).accs, a.kind ≠ .tsync) →
    let inval := fun (e : Elem) => if sc = .e then e else { e with l1 := [], accs := e.accs.map fun a => { a with noAlloc := true } }
    let done := fun (i : Instr) (g : Elem → Elem) => ∃ t, exec i s = .next t ∧ OnlyElem s t ∧
      Ran f 1 f.hdr.ty.width (fun _ => false) (change fun _ e _ _ e' => e' = g e) s { getE t (focusKey s) with touched := (elem s).touched }
    (performedNow s (elem s) (here s) sc.code.toNat = true →
      done (.fenceFull h sc) inval ∧ done (.fenceRel h sc) id) ∧
    ((∀ a ∈ (elem s).accs, a.live = true → takesLoad a.kind = false) → done (.fenceAcq h sc) inval)) ∧
  (∀ h s f, (Instr.tsync h).form = some f → h.beats = .x1 → OnGrid s → Ready s f 0 → (∀ a ∈ (elem s).accs, a.live = false) →
    storesUsed (elem s) < 16 → Completes (.tsync h) f (change fun x e k o e' =>
      Issues x e ⟨.tsync, 0, none, .die, .dflt, [], 16, .none⟩ k 0 o 0 (fun l => l = []) e') s)

namespace Sys2Proof.Claims
open Sys2Proof.Machine

/-! ### The tile exchange (R190 to R193) -/

/-- An exchange operation begins: it stays unfinished, and D is pending. -/
def Begins (x : Ctx) (e : Elem) (kind : XKind) (d : Nat) (a : Vec) (e' : Elem) : Prop :=
  e'.xops = e.xops ++ [⟨kind, d, a, x.cycle, x.slot, x.word⟩] ∧ (∀ j < 64, e'.pend.getLsbD j = (e.pend.getLsbD j || decide (j = d))) ∧
  { e' with xops := e.xops, pend := e.pend } = e

/-- An exchange operation ends: its value is written to D, which is no longer pending. -/
structure Delivered (e : Elem) (x : XOp) (v : Vec) (e' : Elem) : Prop where
  dest : ∀ n, tget e'.f n 0 = if n = x.d then v else tget e.f n 0
  pend : ∀ j < 64, e'.pend.getLsbD j = (e.pend.getLsbD j && decide (j ≠ x.d))
  ops : e'.xops = e.xops.erase x
  rest : { e' with f := e.f, pend := e.pend, xops := e.xops } = e

/-- Only elements of one region have changed, and of those only the ones that a test names. -/
structure OnlyElems (p : Nat → Prop) (s t : State) : Prop where
  elems : ∀ k, ¬ p k → getE t k = getE s k
  regions : SameRegions s t
  mem : SameMem s t
  device : SameDevice s t

end Sys2Proof.Claims

/-- R190 to R193: TXCH, TBCST and TRED begin; TXCH fills its partner's inbox, and the source of a TBCST fills an inbox of every element
of the tile. R191, R192, R193: a delivery happens from the second cycle after both sides have fired (of a TRED, 2 × PopCount(GM) + 1
after its last member): the value of the inbox goes to D and the inbox empties; every member of a TRED's group takes its value of
the reduction. -/
def Obligations.TileExchange : Prop :=
  ((∀ h d a (n : Fin 16) (m : BitVec 4) f s, d = .f n → m ≠ 0 → (Instr.txch h d a m).form = some f → h.beats = .x1 → OnGrid s →
     Ready s f 0 → (∀ x ∈ (elem s).xops, x.kind ≠ .txch m.toNat) →
     let p := ekey s.focus.region s.focus.site (s.focus.elem ^^^ m.toNat)
     tfind (getE s p).inbox m.toNat = none →
     ∃ t, exec (.txch h d a m) s = .next t ∧
       getE t p = { getE s p with inbox := tset (getE s p).inbox m.toNat ⟨opndAt s 0 a, nowAt s⟩ } ∧
       Ran f 1 f.hdr.ty.width (fun _ => false) (change fun x e _ o e' => Begins x e (.txch m.toNat) n o.a e') s (getE t (focusKey s)) ∧
       OnlyElem s (setE t p (getE s p))) ∧
   (∀ h d a (n : Fin 16) (src : BitVec 4) f s, d = .f n → (Instr.tbcst h d a src).form = some f → h.beats = .x1 → OnGrid s → Ready s f 0 →
     (∀ x ∈ (elem s).xops, ∀ j, x.kind ≠ .tbcst j) →
     let mate := fun j => ekey s.focus.region s.focus.site j
     let begun := Ran f 1 f.hdr.ty.width (fun _ => false) (change fun x e _ o e' => Begins x e (.tbcst src.toNat) n o.a e') s
     (s.focus.elem ≠ src.toNat → ∃ t, exec (.tbcst h d a src) s = .next t ∧ begun (getE t (focusKey s)) ∧ OnlyElem s t) ∧
     (s.focus.elem = src.toNat → (∀ j < 16, tfind (getE s (mate j)).binbox src.toNat = none) →
       ∃ t, exec (.tbcst h d a src) s = .next t ∧
         begun { getE t (focusKey s) with binbox := (elem s).binbox } ∧
         (∀ j < 16, (getE t (mate j)).binbox = tset (getE s (mate j)).binbox src.toNat ⟨opndAt s 0 a, nowAt s⟩) ∧
         (∀ j < 16, j ≠ s.focus.elem → { getE t (mate j) with binbox := (getE s (mate j)).binbox } = getE s (mate j)) ∧
         (∀ k, (∀ j < 16, k ≠ mate j) → getE t k = getE s k) ∧ OnlyElem s { t with elems := tset s.elems (focusKey s) (getE t (focusKey s)) })) ∧
   (∀ h d a (n : Fin 16) (op gm : BitVec 4) s, d = .f n →
     FiresIf (fun _ => ∀ x ∈ (elem s).xops, ∀ o g ty, x.kind ≠ .tred o g ty) (fun _ => 0) (.tred h d a op gm) 1 h.ty.width (fun _ => false)
       (change fun x e _ o e' => Begins x e (.tred op.toNat gm.toNat h.ty) n o.a e') s)) ∧
  ((∀ r st el m s x v, elemOk s r st el = true → acting (getR s r) = true →
     let key := ekey r st el
     let e := getE s key
     e.xops.find? (fun y => y.kind == .txch m) = some x → tfind e.inbox m = some v →
     (max x.fired v.at_ + 2 < (getR s r).cycle → ∃ t, exec (.txchDeliver r st el m) s = .next t ∧
       (getE t key).inbox = terase e.inbox m ∧ Delivered e x v.val { getE t key with inbox := e.inbox } ∧ OnlyElems (· = key) s t) ∧
     ((getR s r).cycle ≤ max x.fired v.at_ + 2 → exec (.txchDeliver r st el m) s = .next s)) ∧
   (∀ r st el n s x v, elemOk s r st el = true → acting (getR s r) = true →
     let key := ekey r st el
     let e := getE s key
     e.xops.find? (fun y => isTbcst y.kind) = some x → x.kind = .tbcst n → tfind e.binbox n = some v →
     (max x.fired v.at_ + 2 < (getR s r).cycle → ∃ t, exec (.tbcstDeliver r st el) s = .next t ∧
       (getE t key).binbox = terase e.binbox n ∧ Delivered e x v.val { getE t key with binbox := e.binbox } ∧ OnlyElems (· = key) s t) ∧
     ((getR s r).cycle ≤ max x.fired v.at_ + 2 → exec (.tbcstDeliver r st el) s = .next s)) ∧
   (∀ r st el op gm ty x0 s, elemOk s r st el = true → acting (getR s r) = true →
     let key := ekey r st el
     let group := groupOf el gm
     tredOf s key = some (op, gm, ty, x0) → tredClash s key = none → tredAgree s key gm = true →
     (∀ j ∈ group, ∀ o g y x, tredOf s (mate key j) = some (o, g, y, x) → x.fired + 2 * popCount gm 4 + 1 < (getR s r).cycle) →
     let v := (upto 16).map fun j => match tredOf s (mate key j) with | some (_, _, _, x) => x.a | none => 0
     let red := reduce op gm ty group v
     ∃ t, exec (.tredDeliver r st el) s = .next t ∧ OnlyElems (fun k => ∃ j ∈ group, k = mate key j) s t ∧
       ∀ j ∈ group, ∀ o g y x, tredOf s (mate key j) = some (o, g, y, x) →
         let e := getE s (mate key j)
         (getE t (mate key j)).fpst = e.fpst ||| red.2.setWidth 32 ∧
         Delivered e x (red.1.getD j 0) { getE t (mate key j) with fpst := e.fpst }))

/-- R428 to R430: RBOX, RTRI and EDGE; a sample of EDGE is covered when it lies on the inner side of all three edges, or on an edge that
the tie rule gives it. -/
def Obligations.Geometry : Prop :=
  (∀ h d a b c s, FiresPlain (.rbox h d a b c) 32 (fun _ e _ o _ r => r.res = (rbox o).1 ∧ r.flags = (rbox o).2 ∧ r.elem = e) s) ∧
  (∀ h d a b c s, FiresPlain (.rtri h d a b c) 32 (fun _ e k o held r =>
    let p := if k = 0 then o.a else held.getD 0 0
    let q := if k = 0 then o.b else held.getD 1 0
    r.elem = e ∧
    if k < 3 then
      r.res = rtriVertex p q o.c ∧ r.held = (if k = 0 then [p, q] else held) ++ [o.c, r.res] ∧
      r.flags = if (rtriLanes p q [o.c] [r.res]).any FV.isNaN then fNV else 0
    else r.res = rtriHit p q [held.getD 2 0, held.getD 4 0, held.getD 6 0] [held.getD 3 0, held.getD 5 0, held.getD 7 0] o.c ∧ r.flags = 0) s) ∧
  (∀ h d a b c s, FiresPlain (.edge h d a b c) 32 (result fun o v =>
    v.extractLsb' 16 112 = 0 ∧ ∀ i < 16, v.getLsbD i = decide (∀ k < 3,
      let x0 := (lane 32 o.a 3).toInt
      let y0 := (lane 32 o.b 3).toInt
      let x := if o.c.getLsbD 96 then x0 + 4 * (i % 4 : Nat) + (i / 4 : Nat) else x0 + 16 * (i % 4 : Nat) + 8
      let y := if o.c.getLsbD 96 then y0 + 4 * (i / 4 : Nat) + (i % 4 : Nat) else y0 + 16 * (i / 4 : Nat) + 8
      let e := (lane 32 o.a k).toInt * x + (lane 32 o.b k).toInt * y + (lane 32 o.c k).toInt
      0 < e ∨ (e = 0 ∧ (0 < (lane 32 o.a k).toInt ∨ ((lane 32 o.a k).toInt = 0 ∧ 0 < (lane 32 o.b k).toInt))))) s)

/-- R432, R433, R434: the sequence unit. A take returns a parked granule, or the head of its queue with the expected number; a take of
a unit that is not armed on the queue traps; the reset arms it; the input stage parks a token that is ahead. -/
def Obligations.SequenceUnit : Prop :=
  (∀ h d (q : Fin 6) f s, (Instr.seqt h d (.q q)).form = some f → h.beats = .x1 → h.ty = .b → OnGrid s →
    let e0 := elem s
    let n := e0.seqExpect.toNat % 256
    let f' : Form := { f with a := .unused }
    (e0.seqArm = true → e0.seqQ = q → e0.seqOcc.getLsbD n = true → Ready s f' (fieldCtx s f) →
      ∃ t, exec (.seqt h d (.q q)) s = .next t ∧ OnlyElem s t ∧
        Ran f' 1 8 (fun _ => false) (fun _ e _ _ _ r =>
          r.res = BitVec.ofNat 128 (memVal e.spad (e.seqBase * 4096 + 16 * n) 16) ∧ r.flags = 0 ∧
          (∀ j < 256, r.elem.seqOcc.getLsbD j = (e.seqOcc.getLsbD j && decide (j ≠ n))) ∧
          r.elem = { e with seqExpect := e.seqExpect + 1, seqOcc := r.elem.seqOcc }) s (getE t (focusKey s))) ∧
    (e0.seqArm = true → e0.seqQ = q → e0.seqOcc.getLsbD n = false → Ready s f (fieldCtx s f) →
      (∃ t, headTok e0 q = some t ∧ t.pay.extractLsb' 96 24 = e0.seqExpect) →
      ∃ t, exec (.seqt h d (.q q)) s = .next t ∧ OnlyElem s t ∧
        Ran f 1 8 (fun _ => false) (fun _ e _ o _ r => r.res = o.a ∧ r.flags = 0 ∧ r.elem = { e with seqExpect := e.seqExpect + 1 }) s
          (getE t (focusKey s))) ∧
    ((e0.seqArm = false ∨ e0.seqQ ≠ q) → Ready s f (fieldCtx s f) →
      ∃ t, exec (.seqt h d (.q q)) s = .next t ∧ ElemTraps f 2 0 0 (opndAt s 0 (.q q)) 0 0 (acquireOps e0 f 0) s t)) ∧
  (∀ h a (j : BitVec 3) (base : BitVec 4) f s, (Instr.seqtRst h a j base).form = some f → h.beats = .x1 → OnGrid s → Ready s f 0 →
    let e0 := elem s
    let named := spEn e0 = true ∧ (spQa e0 = j.toNat ∨ spQb e0 = j.toNat)
    let fits := base.toNat * 4096 + 4096 ≤ spadSize (getR s (here s))
    (fits → ¬ named → ∃ t, exec (.seqtRst h a j base) s = .next t ∧ OnlyElem s t ∧
      Ran f 1 8 (fun _ => false) (change fun _ e _ o e' => e' = { e with
        seqArm := true, seqQ := j.toNat, seqBase := base.toNat, seqExpect := o.a.extractLsb' 0 24, seqOcc := 0 }) s (getE t (focusKey s))) ∧
    (¬ fits → ∃ t, exec (.seqtRst h a j base) s = .next t ∧ ElemTraps f 5 0 0 (opndAt s 0 a) 0 0 (acquireOps e0 f 0) s t) ∧
    (fits → named → ∃ t, exec (.seqtRst h a j base) s = .next t ∧ ElemTraps f 2 0 0 (opndAt s 0 a) 0 0 (acquireOps e0 f 0) s t)) ∧
  (∀ r st el s tk rest, elemOk s r st el = true → acting (getR s r) = true →
    let key := ekey r st el
    let e := getE s key
    let q := getQ e e.seqQ
    let seq := tk.pay.extractLsb' 96 24
    let dist := (seq - e.seqExpect).toNat
    let n := seq.toNat % 256
    let off := e.seqBase * 4096 + 16 * n
    q.toks = tk :: rest → rawAvail e e.seqQ ≠ 0 → e.seqArm = true → tk.side.extractLsb' 14 2 ≤ 1 → tk.side.getLsbD 10 = false →
    e.trapRec = none → e.seqBusy ≤ (getR s r).cycle →
    ((dist = 0 ∨ (256 ≤ dist ∧ dist < 2 ^ 23)) → exec (.seqtPark r st el) s = .next s) ∧
    (1 ≤ dist → dist < 256 → e.seqOcc.getLsbD n = false → ¬ inSeal e off →
      ∃ t, exec (.seqtPark r st el) s = .next t ∧ OnlyElems (· = key) s t ∧
        ∃ occ, (∀ j < 256, occ.getLsbD j = (e.seqOcc.getLsbD j || decide (j = n))) ∧
          getE t key = { acquireTok e tk with
            spad := memWrite e.spad off (bytesOf 16 tk.pay.toNat), seqOcc := occ, seqBusy := (getR s r).cycle + 1,
            queues := tset e.queues e.seqQ { q with toks := rest } }) ∧
    ((1 ≤ dist ∧ dist < 256 ∧ e.seqOcc.getLsbD n = true) ∨ 2 ^ 23 ≤ dist → (getR s r).cycle < e.busy →
      exec (.seqtPark r st el) s = .next s) ∧
    ((1 ≤ dist ∧ dist < 256 ∧ e.seqOcc.getLsbD n = true) ∨ 2 ^ 23 ≤ dist → e.st ≠ .trapped → e.busy ≤ (getR s r).cycle →
      ∃ t rec, exec (.seqtPark r st el) s = .next t ∧ OnlyElems (· = key) s t ∧
        getE t key = { e with st := .trapped, trapAt := (getR s r).cycle, trapRec := some rec } ∧
        Recorded key 1 5 0 0 0 0 0 0 0 0 e rec))

namespace Sys2Proof.Claims
open Sys2Proof.Machine

/-! ## Steps of the device's units -/

/-- Only one element has changed. -/
def OneElem (key : Nat) (e : Elem) (s t : State) : Prop := getE t key = e ∧ OnlyElems (· = key) s t

/-- Only one region has changed, and in it nothing but what `r'` says; no element, no memory. -/
structure OneRegion (r : Nat) (r' : Region) (s t : State) : Prop where
  region : getR t r = r'
  regions : OtherRegions r s t
  elems : SameElems s t
  mem : SameMem s t
  device : SameDevice s t

/-- The marker that ends a wave: KIND 2 with EOW (R167). -/
def markerSide : BitVec 16 := 0x8400

end Sys2Proof.Claims

/-! # The steps of registers -/

/-- R122, R123, R287, R437, R441, R443: the writes of SLOTDAT, CFGMAP, XFQPOP, ETPOP and ETACT, and a trap record that joins its queue.
R179, R296: the writes of SPBIND and SQBIND bind a port that was disabled, or disable it; an outbound binding sets PB of its ring. -/
def Obligations.RegionRegisterSteps : Prop :=
  ((∀ r w s, r < 64 →
     let a := (getSeq s r).slotadr
     let st := (a.extractLsb' 8 5).toNat
     let n := (a.extractLsb' 0 4).toNat
     let key := ekey r st (a.extractLsb' 4 4).toNat
     let e := getE s key
     siteOk (getR s r) st = true → e.st ≠ .draining → e.st ≠ .reconfiguring → e.st ≠ .frozen →
     ∃ t, exec (.slotdatWrite r w) s = .next t ∧
       (∃ flt, getE t key = { e with slots := tset e.slots n w, faulty := flt, busy := max e.busy ((getR s r).cycle + 1) } ∧
         ∀ j < 16, flt.getLsbD j = if j = n then w.getLsbD 63 && (legalElem w).isNone else e.faulty.getLsbD j) ∧
       (∃ a', getR t r = { getR s r with seq := { getSeq s r with slotadr := a' } } ∧ a'.extractLsb' 4 60 = (a &&& 0x1FF0).extractLsb' 4 60 ∧
         a'.extractLsb' 0 4 = a.extractLsb' 0 4 + 1) ∧
       OtherElems key s t ∧ OtherRegions r s t ∧ SameMem s t ∧ SameDevice s t) ∧
   (∀ r n w s, r < 64 → n < 3 →
     let v := w &&& if n = 2 then 0x000000009F9F9F9F else 0x9F9F9F9F9F9F9F9F
     (∀ j < 8, v.getLsbD (8 * j + 7) = true → (v.extractLsb' (8 * j) 5).toNat ≤ 19) →
     ∃ t, exec (.cfgmapWrite r n w) s = .next t ∧
       OneRegion r { getR s r with seq := { getSeq s r with cfgmap := tset (getSeq s r).cfgmap n v } } s t) ∧
   (∀ r s, r < 64 → ∃ t, exec (.xfqpop r) s = .next t ∧ OneRegion r { getR s r with faultq := (getR s r).faultq.tail } s t) ∧
   (∀ r s, r < 64 → ∃ t, exec (.etpop r) s = .next t ∧ OneRegion r { getR s r with etq := (getR s r).etq.tail } s t) ∧
   (∀ r st el s, elemOk s r st el = true → let key := ekey r st el
     (getE s key).st = .trapped →
     (∃ t, exec (.etactResume r st el) s = .next t ∧
       OneElem key { getE s key with st := .running, busy := max (getE s key).busy ((getR s r).cycle + 1) } s t) ∧
     (∃ t, exec (.etactHalt r st el) s = .next t ∧ OneElem key { getE s key with st := .halted } s t)) ∧
   (∀ r st el s rec, elemOk s r st el = true → let key := ekey r st el
     (getE s key).trapRec = some rec → (getR s r).etq.length < 16 → (getE s key).trapAt < (getR s r).cycle →
     (∀ p ∈ s.elems, keyRegion p.1 = r → p.2.trapRec ≠ none →
       (getE s key).trapAt < p.2.trapAt ∨ ((getE s key).trapAt = p.2.trapAt ∧ key ≤ p.1)) →
     ∃ t, exec (.elementTrapRecordQueue r st el) s = .next t ∧ getE t key = { getE s key with trapRec := none } ∧
       getR t r = { getR s r with
         etq := (getR s r).etq ++ [rec],
         seq := if (getSeq s r).exiting then { getSeq s r with exitCause := some ((getSeq s r).exitCause.getD (rec.extractLsb' 32 8)) }
           else getSeq s r } ∧ OtherElems key s t ∧ OtherRegions r s t ∧ SameMem s t ∧ SameDevice s t)) ∧
  ((∀ r n w s, r < 64 → n < 4 →
     let v := w &&& 0xF83FFF0000000000
     let old := sqOf s r n
     (spEnabled old = false ∨ spOut old = false) → (spEnabled v = true → bindBad s (getR s r) false old v = false) →
     let after := modSeq s r fun q => { q with sqbind := tset q.sqbind n v }
     ((spEnabled v = false ∨ spOut v = false) → exec (.sqbindWrite r n w) s = .next after) ∧
     (spEnabled v = true → spOut v = true → s.ringOffset % 64 = 0 →
       ∃ t, exec (.sqbindWrite r n w) s = .next t ∧ { t with mem := s.mem } = after ∧
         MemIs (bytesAt (ringAddr s (spDie v) (spRing v) + 9) [BitVec.ofBool true ++ (ringDesc s (spDie v) (spRing v)).extractLsb' 72 7]) s t)) ∧
   (∀ r n w s, r < 64 → n < 16 →
     let v := w &&& 0xF83FFF000001FF70
     let old := spOf s r n
     spEnabled old = false → (spEnabled v = true → bindBad s (getR s r) true old v = false) →
     ((spEnabled v = false ∨ spOut v = false) →
       ∃ t, exec (.spbindWrite r n w) s = .next t ∧ SameMem s t ∧ spOf t r n = v ∧ (∀ m, m ≠ n → spOf t r m = spOf s r m) ∧ OtherRegions r s t ∧
         SameDevice s t ∧
         (spEnabled v = true → dealSites (getR s r) n = none → spQueue v < 6 →
           (getQ (getE t (ekey r (spSite v) (spElem v))) (spQueue v)).bound = true)) ∧
     (spEnabled v = true → spOut v = true → s.ringOffset % 64 = 0 →
       ∃ t, exec (.spbindWrite r n w) s = .next t ∧ spOf t r n = v ∧ (∀ m, m ≠ n → spOf t r m = spOf s r m) ∧ OtherRegions r s t ∧ SameDevice s t ∧
         MemIs (bytesAt (ringAddr s (spDie v) (spRing v) + 9) [BitVec.ofBool true ++ (ringDesc s (spDie v) (spRing v)).extractLsb' 72 7]) s t)))

/-- R457 to R464, R482, R485, R486, R489: the device's own registers: ROWN, the log, the meters, the optimiser's table, a frame that is
freed, GOOD, KEYLOCK, and the register range, which owners 0 and 127 reach.
The model's own readings and choices in it: logs 5 and 9. -/
def Obligations.DeviceRegisterSteps : Prop :=
  (∀ r (w : BitVec 64) s, r < 64 → let o := (w.extractLsb' 0 7).toNat
    ∃ t, exec (.rownWrite r w) s = .next t ∧ OneRegion r (if 64 < o ∨ (getR s r).rstate ≠ .free then { getR s r with ownerRej := true }
      else { getR s r with owner := o, ownerRej := (getR s r).ownerRej && !w.getLsbD 8 }) s t) ∧
  (∀ owner s, exec (.optctlClr owner) s = .next { s with optTable := s.optTable.filter fun p => p.1.1 != owner }) ∧
  (∀ s, exec .good s = .next { s with fails := 0, goodBy := none }) ∧
  (∀ w s, ∃ k : BitVec 8, exec (.keylockWrite w) s = .next { s with keylock := k } ∧
    ∀ j < 8, k.getLsbD j = (s.keylock.getLsbD j || (decide (1 ≤ j) && w.getLsbD j))) ∧
  (∀ (w : BitVec 64) s, let pa := (w.extractLsb' 12 40).toNat * 4096
    s.frmBusy = none →
    (paClass s pa ≠ .gddr ∨ s.minimal = true → exec (.frmfreeWrite w) s = .next s) ∧
    (paClass s pa = .gddr → s.minimal = false → ∃ t, exec (.frmfreeWrite w) s = .next t ∧ t.frmBusy = some (paLocal pa / 4096) ∧ SameElems s t ∧ SameRegions s t ∧
      SameMem s t)) ∧
  (∀ owner pa w s, paClass s pa = .registers →
    ((owner = 0 ∨ owner = 127) → ∀ r < 64, paLocal pa = 0x600000020000 + 8 * r →
      exec (.deviceRegisterWrite owner pa w) s = exec (.rownWrite r w) s) ∧
    ((owner = 0 ∨ owner = 127) → paLocal pa = 0x600000020200 → 1 ≤ (w.extractLsb' 0 10).toNat → (w.extractLsb' 0 10).toNat ≤ 1000 →
      exec (.deviceRegisterWrite owner pa w) s = .next { s with gwint := (w.extractLsb' 0 10).toNat }) ∧
    (owner = 0 → paLocal pa = 0x600000031200 → exec (.deviceRegisterWrite owner pa w) s = exec (.keylockWrite w) s) ∧
    (owner = 127 → paLocal pa = 0x600000031200 → exec (.deviceRegisterWrite owner pa w) s = .next s) ∧
    (owner ≠ 0 → owner ≠ 127 → exec (.deviceRegisterWrite owner pa w) s = .next (logPush s 5 0x07 owner none pa 1))) ∧
  (∀ s rec rest, s.logQueue = rec :: rest →
    (s.logcfg.getLsbD 63 = false → exec .logRecordWrite s = .next { s with logQueue := rest, logcfg := s.logcfg ||| 0x4000000000000000 }) ∧
    (s.logcfg.getLsbD 63 = true → (s.logWr - s.logRd).toNat = 2 ^ (s.logcfg.extractLsb' 52 5).toNat →
      exec .logRecordWrite s = .next { s with logQueue := rest, logcfg := s.logcfg ||| 0x4000000000000000 }) ∧
    (s.logcfg.getLsbD 63 = true → let n := (s.logcfg.extractLsb' 52 5).toNat
      4 ≤ n → n ≤ 16 → (s.logWr - s.logRd).toNat ≠ 2 ^ n →
      ∀ w, let pa := (s.logcfg.extractLsb' 9 43).toNat * 512 + 32 * (s.logWr.toNat % 2 ^ n)
      paClass s pa = .window w → roBits s (paLocal pa / 64) = 0 → ∃ t, exec .logRecordWrite s = .next t ∧
        MemIs (bytesAt (paLocal pa) (bytesOf 32 rec.toNat)) s t ∧
        { t with mem := s.mem } = { s with logQueue := rest, logWr := s.logWr + 1, msix := if s.logWr = s.logRd then s.msix + 1 else s.msix })) ∧
  (∀ s, let next := (s.lastMeter / (s.gwEff * 1000) + 1) * (s.gwEff * 1000)
    (s.time < next → exec .meterIntervalBoundary s = .next s) ∧
    (next ≤ s.time → ∃ t, exec .meterIntervalBoundary s = .next t ∧ t.lastMeter = next ∧ t.gwEff = s.gwint ∧
      (∀ r < 64, getR t r = { getR s r with gwCount := 0, gwBudget := tget s.meters (getR s r).owner 0 }) ∧
      (∀ r, 64 ≤ r → getR t r = getR s r) ∧ { t with regions := s.regions, lastMeter := s.lastMeter, gwEff := s.gwEff } = s))

/-! # Reconfiguration -/

/-- R113 to R118, R309: a wave of a configuration ends, its markers leave, the next configuration is installed.
The model's own readings and choices in it: logs 7 and 22. -/
def Obligations.ReconfigurationSteps : Prop :=
  (∀ r st el s, elemOk s r st el = true → acting (getR s r) = true → let key := ekey r st el
    let e := getE s key
    e.st = .running → (∀ q < 6, (getQ e q).shut = true) → e.busy ≤ (getR s r).cycle → e.pend = 0 → (∀ p ∈ e.slots, slotLive e p.2 = false) →
    ∃ t, exec (.enterDraining r st el) s = .next t ∧ OneElem key { e with st := .draining, markers := 0 } s t) ∧
  (∀ r st el k s, elemOk s r st el = true → acting (getR s r) = true → k < 6 → let key := ekey r st el
    let e := getE s key
    e.st = .draining → liveRoutes e k ≠ [] → e.markers.getLsbD k = false → 1 ≤ credits s key k 0 →
    ∃ t o m, exec (.endOfWaveMarkerSend r st el k) s = .next t ∧ Sent k 0 markerSide (getR s r).cycle none e o ∧
      (∀ j < 6, m.getLsbD j = (e.markers.getLsbD j || decide (j = k))) ∧
      OneElem key { e with
        out := e.out ++ [o], markers := m,
        st := if ∀ j < 6, liveRoutes e j ≠ [] → m.getLsbD j = true then .reconfiguring else .draining } s t) ∧
  (∀ r st el q s tk rest, elemOk s r st el = true → q < 6 → let key := ekey r st el
    let e := getE s key
    (getQ e q).toks = tk :: rest →
    let stays := tk.side.extractLsb' 14 2 ≠ 2 ∨ (getQ e q).shut = true ∨ (e.seqArm = true ∧ e.seqQ = q ∧ e.seqOcc ≠ 0)
    (¬ stays → ∃ t, exec (.markerReachesHead r st el q) s = .next t ∧
      OneElem key { e with queues := tset e.queues q { getQ e q with toks := rest, closed := true } } s t) ∧
    (stays → ∃ t, exec (.markerReachesHead r st el q) s = .next t ∧ OneElem key e s t)) ∧
  (∀ r st el s, elemOk s r st el = true → acting (getR s r) = true → let key := ekey r st el
    (getE s key).st = .halted → ((∃ l ∈ (getSeq s r).loads, key ∉ l.installed) ∨ (getSeq s r).endMark = true) →
    ∃ t, exec (.haltedToDraining r st el) s = .next t ∧ OneElem key { getE s key with st := .draining, markers := 0 } s t) ∧
  (∀ r st el s, elemOk s r st el = true → acting (getR s r) = true → let key := ekey r st el
    let e := getE s key
    let c := (getR s r).cycle
    (e.st = .reconfiguring ∨ e.st = .idle) →
    (∀ l, e.installing = none → (getSeq s r).loads.find? (fun l => !l.installed.contains key) = some l →
      ∃ t g, exec (.configurationInstall r st el) s = .next t ∧ OneElem key { e with st := .reconfiguring, installing := some g } s t ∧
        g.load = l.id ∧ g.done = 0 ∧ g.since = c ∧
        match tfind l.blocks (key % 320) with
        | some ws => g.words = ws ∧ g.total = 62
        | none => g.words = [] ∧ g.total = 1) ∧
    (e.installing = none → (∀ l ∈ (getSeq s r).loads, key ∈ l.installed) → (getSeq s r).endMark = true →
      ∃ t, exec (.configurationInstall r st el) s = .next t ∧ OneElem key { e with st := .idle } s t) ∧
    (∀ g, e.installing = some g → e.st = .reconfiguring → g.done < g.total → g.since + g.done ≤ c →
      ∃ t, exec (.configurationInstall r st el) s = .next t ∧ OneElem key { e with installing := some { g with done := g.done + 1 } } s t)) ∧
  (∀ r st el s g, elemOk s r st el = true → acting (getR s r) = true → let key := ekey r st el
    let e := getE s key
    e.installing = some g → e.st = .reconfiguring → g.done = g.total → g.since + g.total ≤ (getR s r).cycle →
    ∃ t, exec (.installComplete r st el) s = .next t ∧ Installed g.words .running e (getE t key) ∧
      (∀ l ∈ (getSeq s r).loads, l.id = g.load →
        (∃ l' ∈ (getSeq t r).loads, l'.id = l.id ∧ key ∈ l'.installed) ∨ ∀ k ∈ elemKeys (getR s r) r, k = key ∨ k ∈ l.installed) ∧
      OtherRegions r s t ∧ SameMem s t ∧ SameDevice s t)

namespace Sys2Proof.Claims
open Sys2Proof.Machine

/-! ### Homes and cisterns (R360 to R378) -/

/-- Of homes and directories only one line's have changed, and no element, no region. -/
structure LineHome (ln : Nat) (s t : State) : Prop where
  homes : ∀ l, l ≠ ln → getHome t l = getHome s l ∧ getDir t l = getDir s l
  elems : SameElems s t
  regions : SameRegions s t

def SameCisterns (s t : State) : Prop := ∀ d, getCist t d = getCist s d

/-- The home of a line is on this device and idle, a request is at the head of its queue, no write-back is behind it, no other die has
narrow writes to the line, and the die of a write or an atomic has none from before it. -/
structure Asked (s : State) (ln : Nat) (q : HReq) (rest : List HReq) : Prop where
  here : peerLine ln = false
  home : getHome s ln = ⟨q :: rest, none⟩
  rest : ∀ x ∈ rest, isWb x.kind = false
  narrow : ∀ c < 4, (c ≠ q.agent ∨ Machine.outside q = true) → dieNarrow s c ln = false
  own : (q.kind = .wrh ∨ q.kind = .ath) → ∀ w ∈ narrowWrites s q.agent, q.stamp ≤ w.first

/-- The narrow writes of a die that a publication would have to perform pass a test, and none of its writes is on its way to a peer. -/
structure Published (s : State) (die : Nat) (pass : Narrow → Prop) : Prop where
  writes : ∀ w ∈ narrowWrites s die, pass w
  peers : ∀ h ∈ s.homes, peerLine h.1 = true → ∀ q ∈ h.2.reqs, peerWrite die q = false

/-- All that a die holds back are the writes that stand in its cistern for a line. -/
def OnlyThere (s : State) (die ln : Nat) : Prop := Published s die fun w => w.region = none ∧ w.line = ln

/-- The home has granted a request, and waits for its requester. -/
def Granted (ln : Nat) (q : HReq) (rest : List HReq) (st : LineState) (out : Line) (t : State) : Prop :=
  getHome t ln = ⟨rest, some { req := q, pubs := [], tinv := [], snoops := [], answers := [], granted := some (st, out), entry := 0 }⟩

/-- The home waits for one holder's answer. -/
def AwaitsOne (ln ag : Nat) (q : HReq) (rest : List HReq) (s : State) : Prop :=
  getHome s ln = ⟨rest, some { req := q, pubs := [], tinv := [], snoops := [ag], answers := [], granted := none, entry := 0 }⟩

/-- The entry with a requesting die among its holders. -/
def withDie (d : Dir) (ag : Nat) (st : LineState) (own : Nat) : Dir := { d with st := st, own := own, cs := d.cs ||| BitVec.ofNat 4 (2 ^ ag) }
def onlyDie (d : Dir) (ag : Nat) : Dir := { d with st := .modified, own := ag, cs := BitVec.ofNat 4 (2 ^ ag), ps := 0 }

/-- The bytes of a line that a mask names. -/
def maskedLine (ln : Nat) (d : Line) (m : BitVec 64) (x : Nat) : Option Byte :=
  if x / 64 = ln ∧ m.getLsbD (x % 64) = true then some (d.extractLsb' (8 * (x % 64)) 8) else none

end Sys2Proof.Claims

/-- R366: what the home of a line grants to a request that it can answer at once, and what its entry becomes; a request for a line that
a die owns first waits for that die. The model's own readings and choices in it: log 8. R366, R375: a write and an atomic at the
home of a line that no agent holds. -/
def Obligations.HomeRequests : Prop :=
  (∀ ln q rest s, Asked s ln q rest → q.agent < 4 →
     let d := getDir s ln
     let out := memLine s.mem ln
     (q.kind = .rds → q.uncached = false → d.st = .invalid → ∃ t, exec (.rds ln) s = .next t ∧ Granted ln q rest .exclusive out t ∧
       getDir t ln = withDie d q.agent .exclusive q.agent ∧ LineHome ln s t ∧ SameCisterns s t ∧ SameMem s t) ∧
     (q.kind = .rds → q.uncached = false → d.st = .shared → ∃ t, exec (.rds ln) s = .next t ∧ Granted ln q rest .shared out t ∧
       getDir t ln = withDie d q.agent .shared 0 ∧ LineHome ln s t ∧ SameCisterns s t ∧ SameMem s t) ∧
     (q.kind = .rds → q.uncached = true → (d.st = .invalid ∨ d.st = .shared) → ∃ t, exec (.rds ln) s = .next t ∧
       Granted ln q rest .invalid out t ∧ getDir t ln = d ∧ LineHome ln s t ∧ SameCisterns s t ∧ SameMem s t) ∧
     (q.kind = .rds → (d.st = .exclusive ∨ d.st = .modified) → ∃ t, exec (.rds ln) s = .next t ∧ AwaitsOne ln d.own q rest t ∧
       getDir t ln = d ∧ LineHome ln s t ∧ SameCisterns s t ∧ SameMem s t) ∧
     (q.kind = .walk → (d.st = .invalid ∨ d.st = .shared) → ∃ t, exec (.walk ln) s = .next t ∧ Granted ln q rest .shared out t ∧
       getDir t ln = { withDie d q.agent .shared 0 with ts := d.ts ||| BitVec.ofNat 4 (2 ^ q.agent) } ∧ LineHome ln s t ∧ SameCisterns s t ∧
       SameMem s t) ∧
     (q.kind = .rdx → d.ts = 0 → (d.st = .invalid ∨ (d.st = .shared ∧ ∀ h ∈ holders d, h = q.agent)) →
       ∃ t, exec (.rdx ln) s = .next t ∧ Granted ln q rest .modified out t ∧ getDir t ln = onlyDie d q.agent ∧ LineHome ln s t ∧
         SameCisterns s t ∧ SameMem s t) ∧
     (q.kind = .rdmm → d.ts = 0 → d.st = .invalid → ∃ t, exec (.rdmm ln) s = .next t ∧ Granted ln q rest .modified out t ∧
       getDir t ln = onlyDie d q.agent ∧ LineHome ln s t ∧ SameCisterns s t ∧ SameMem s t) ∧
     (q.kind = .rdmm → d.ts = 0 → d.st = .mm → ∃ t, exec (.rdmm ln) s = .next t ∧ Granted ln q rest .mm out t ∧
       getDir t ln = withDie d q.agent .mm d.own ∧ LineHome ln s t ∧ SameCisterns s t ∧ SameMem s t)) ∧
  (∀ ln q rest s, Asked s ln q rest →
     let d := getDir s ln
     let out := memLine s.mem ln
     holders d = [] → d.ts = 0 →
     (q.kind = .wrh → ∃ t, exec (.wrh ln) s = .next t ∧ Granted ln q rest .invalid out t ∧
       MemIs (maskedLine ln (keepRo s ln out q.data) q.mask) s t ∧
       getDir t ln = { d with st := .invalid, own := 0, cs := 0, ps := 0 } ∧ LineHome ln s t ∧ SameCisterns s t) ∧
     (q.kind = .ath → q.op < 10 → q.size < 2 → lineBad s ln = none →
       let n := if q.size = 0 then 4 else 8
       let old := lineAtPa out q.off n
       let new := atomicResult (BitVec.ofNat 4 q.op) old (q.v.setWidth (8 * n)) (q.c.setWidth (8 * n))
       q.off + n ≤ 64 →
       ∃ t, exec (.ath ln) s = .next t ∧ Granted ln q rest .invalid (old.setWidth 512) t ∧
         MemIs (maskedLine ln (keepRo s ln out (lineWith out q.off n (new.setWidth 64))) (BitVec.allOnes 64)) s t ∧
         getDir t ln = { d with st := .invalid, own := 0, cs := 0, ps := 0 } ∧ LineHome ln s t ∧ SameCisterns s t))

/-- R364, R366, R367, R372: the answer of the one holder that a home waits for, write-backs, and the requester's acknowledgement.
The model's own readings and choices in it: logs 8 and 10. -/
def Obligations.HomeAnswers : Prop :=
  (∀ ln ag q rest s c, AwaitsOne ln ag q rest s → peerLine ln = false → ag < 4 → q.agent < 4 → (∀ x ∈ rest, isWb x.kind = false) →
    cLine s ag ln = some c → (c.dirty = 0 ∨ OnlyThere s ag ln) →
    let d := getDir s ln
    let back := maskedLine ln (keepRo s ln (memLine s.mem ln) c.data) c.dirty
    (d.st = .exclusive ∨ d.st = .modified) → d.own = ag →
    (q.kind = .rds → q.uncached = false → ∃ t, exec (.snps ln ag) s = .next t ∧ MemIs back s t ∧
      cLine t ag ln = some { c with st := .shared, dirty := 0 } ∧ getDir t ln = withDie d q.agent .shared 0 ∧
      Granted ln q rest .shared (memLine t.mem ln) t ∧ LineHome ln s t) ∧
    (q.kind = .rdx → ∃ t, exec (.snpi ln ag) s = .next t ∧ MemIs back s t ∧
      cLine t ag ln = none ∧ getDir t ln = onlyDie d q.agent ∧ Granted ln q rest .modified (memLine t.mem ln) t ∧ LineHome ln s t) ∧
    (q.kind = .rdmm → c.st ≠ .shared → ∃ t, exec (.snpmm ln ag) s = .next t ∧ SameMem s t ∧
      cLine t ag ln = some { c with st := .mm } ∧ getDir t ln = withDie d q.agent .mm 0 ∧ Granted ln q rest .mm (memLine t.mem ln) t ∧
      LineHome ln s t) ∧
    (q.kind = .rdmm → c.st = .shared → ∃ t, exec (.snpmm ln ag) s = .next t ∧ SameMem s t ∧
      cLine t ag ln = none ∧ getDir t ln = onlyDie d q.agent ∧ Granted ln q rest .modified (memLine t.mem ln) t ∧ LineHome ln s t)) ∧
  (∀ ln q rest s, getHome s ln = ⟨q :: rest, none⟩ → peerLine ln = false →
    (∀ p ∈ [(ReqKind.wbm, Instr.wbm ln), (.wbmm, .wbmm ln)], q.kind = p.1 → ∃ t, exec p.2 s = .next t ∧ getHome t ln = ⟨rest, none⟩ ∧
      getDir t ln = (getDir s ln).dropHolder q.agent ∧
      MemIs (maskedLine ln (keepRo s ln (memLine s.mem ln) q.data) q.mask) s t ∧ LineHome ln s t ∧ SameCisterns s t) ∧
    (q.kind = .clre → ∃ t, exec (.clre ln) s = .next t ∧ getHome t ln = ⟨rest, none⟩ ∧ getDir t ln = (getDir s ln).dropHolder q.agent ∧
      SameMem s t ∧ LineHome ln s t ∧ SameCisterns s t)) ∧
  (∀ ln q rest s st out, Granted ln q rest st out s →
    (q.agent < 4 → q.uncached = false → (cLine s q.agent ln).isSome = true ∨ (getCist s q.agent).lines.length < 2 ^ 20) →
    ∃ t, exec (.grantAck ln) s = .next t ∧ getHome t ln = ⟨rest, none⟩ ∧
    SameMem s t ∧ LineHome ln s t ∧
    (q.agent < 4 → q.uncached = false → st ≠ .invalid → cLine t q.agent ln = some ⟨st, out, 0, 0, 0⟩) ∧
    ((4 ≤ q.agent ∨ q.uncached = true ∨ st = .invalid) → ∀ d l, cLine t d l = cLine s d l) ∧
    (q.kind = .walk → (ln, q.region) ∈ (getCist t q.agent).walkers) ∧
    (q.tag = .none ∨ staleTag s q.tag = true → t.acks = s.acks) ∧
    (q.tag ≠ .none → staleTag s q.tag = false → t.acks = s.acks ++ [⟨q.tag, ln, out, if q.kind = .ath then out.setWidth 64 else 0, lineBad s ln⟩]))

/-- R341, R351, R364, R365, R370, R376: what leaves a cistern, the narrow writes of a region, and a recall.
The model's own readings and choices in it: log 8. -/
def Obligations.CisternSteps : Prop :=
  (∀ die ln s c, die < 4 → cLine s die ln = some c → (c.dirty = 0 ∨ OnlyThere s die ln) → ∃ t, exec (.cisternEvict die ln) s = .next t ∧ cLine t die ln = none ∧
    (∀ e l, (e ≠ die ∨ l ≠ ln) → cLine t e l = cLine s e l) ∧ SameMem s t ∧ SameElems s t ∧ SameRegions s t ∧
    (c.st = .shared ∨ c.st = .invalid → getHome t ln = getHome s ln) ∧
    (c.st ≠ .shared → c.st ≠ .invalid → ∃ q, getHome t ln = { getHome s ln with reqs := (getHome s ln).reqs ++ [q] } ∧ q.agent = die ∧
      (c.st = .exclusive → q.kind = .clre) ∧ (c.st = .modified → q.kind = .wbm ∧ q.data = c.data ∧ q.mask = BitVec.allOnes 64) ∧
      (c.st = .mm → q.kind = .wbmm ∧ q.data = c.data ∧ q.mask = c.dirty))) ∧
  (∀ r ln s, r < 64 → (∃ w ∈ (getR s r).wcb, w.line = ln ∧ w.noticed = false) → ∃ t, exec (.narrowHoldNotice r ln) s = .next t ∧
    (peerLine ln = false → (getDir t ln).nh.getLsbD (r / 16) = true) ∧ (ln, r) ∈ (getCist t (r / 16)).narrow ∧
    getR t r = { getR s r with wcb := (getR s r).wcb.map fun w => if w.line = ln then { w with noticed := true } else w } ∧
    OtherRegions r s t ∧ SameElems s t ∧ SameMem s t) ∧
  (∀ die ln s, die < 4 → (∀ j < 16, wcbHas (getR s (16 * die + j)) ln = false) → ∃ t, exec (.narrowReleaseNotice die ln) s = .next t ∧
    (peerLine ln = false → (getDir t ln).nh.getLsbD die = false) ∧ (∀ r, (ln, r) ∉ (getCist t die).narrow) ∧ SameRegions s t ∧ SameElems s t ∧ SameMem s t) ∧
  (∀ die ln s tx rest, die < 4 → getHome s ln = ⟨rest, some tx⟩ → die ∈ tx.pubs → (∃ c ∈ tx.pubs, c ≠ die) → tx.tinv = [] →
    tx.req.kind ≠ .recall → (die ≠ tx.req.agent ∨ Machine.outside tx.req = true) → (getDir s ln).ts = 0 →
    (∀ p ∈ s.regions, dieOf p.1 = die → wcbHas p.2 ln = false) → (∀ c, cLine s die ln = some c → c.dirty = 0) → Published s die (fun _ => True) →
    ∃ t, exec (.publicationRequest die ln) s = .next t ∧ getHome t ln = ⟨rest, some { tx with pubs := tx.pubs.filter (· != die) }⟩ ∧
      (getDir t ln).nh.getLsbD die = false ∧ SameRegions s t ∧ SameElems s t ∧ SameMem s t) ∧
  (∀ r s w rest c, r < 64 → (getR s r).wcb = w :: rest → w.asked = false → dieCaches w.plc (r / 16) = true → s.poison.contains w.line = false →
    s.d2dFailed = [] → (peerLine w.line = true → s.lostPeers.contains (lineDev w.line) = false) → cLine s (r / 16) w.line = some c → (c.st = .exclusive ∨ c.st = .modified ∨ c.st = .mm) →
    ∃ t, exec (.writeCombiningBufferDrain r) s = .next t ∧ getR t r = { getR s r with wcb := rest } ∧ OtherRegions r s t ∧ SameElems s t ∧
      SameMem s t ∧ ∃ c', cLine t (r / 16) w.line = some c' ∧ c'.st = (if c.st = .exclusive then .modified else c.st) ∧
        c'.dirty = c.dirty ||| w.mask ∧
        ∃ d, c'.data = keepRo s w.line c.data d ∧
          ∀ j < 64, d.extractLsb' (8 * j) 8 = if w.mask.getLsbD j then w.data.extractLsb' (8 * j) 8 else c.data.extractLsb' (8 * j) 8) ∧
  (∀ ag ln s, ag < 4 → peerLine ln = false → (getHome s ln).tx = none → wbPending s ln ag = false → Published s ag (fun w => w.line = ln) →
    ∃ t tx, exec (.recallInvalidate ag ln) s = .next t ∧ (getHome t ln).tx = some tx ∧
    tx.req.kind = .recall ∧ (∀ c < 4, c ∈ tx.snoops ↔ c ≠ ag) ∧ tx.answers = [recallData s ag ln] ∧ cLine t ag ln = none ∧
    (∀ j < 16, ∀ w ∈ (getR t (16 * ag + j)).wcb, w.line = ln → w.asked = true) ∧ SameElems s t ∧ SameMem s t)

namespace Sys2Proof.Claims
open Sys2Proof.Machine

/-! ### Tokens on their way -/

/-- Route j of channel k has taken the channel's first token from the output stage: the token stays there for its other routes. -/
structure Took (k j : Nat) (tk : OutTok) (rest out out' : List OutTok) : Prop where
  before : out.filter (fun t => t.chan == k) = tk :: rest
  after : out'.filter (fun t => t.chan == k) =
    if tk.pend.filter (· != j) = [] then rest else { tk with pend := tk.pend.filter (· != j) } :: rest
  others : out'.filter (fun t => t.chan != k) = out.filter (fun t => t.chan != k)

/-- A queue, and the slots of a port, that a token enters in a slot that its feeder holds. -/
def entered (q : Queue) (w : Feeder) (t : Token) : Queue := { q with toks := q.toks ++ [t], resv := removeFirst (fun v => v.who == w) q.resv }
def portEntered (p : PortSlots) (w : Feeder) (t : PortTok) : PortSlots :=
  { p with toks := p.toks ++ [t], resv := removeFirst (fun v => v.who == w) p.resv }

/-- Only queue q of an element has changed. -/
def OneQueue (key q : Nat) (x : Queue) (s t : State) : Prop :=
  getE t key = { getE s key with queues := tset (getE s key).queues q x } ∧ OtherElems key s t

/-- A token written to a ring: its entry of 32 bytes, then WR. -/
def ringPushed (s : State) (die n : Nat) (t : Token) (x : Nat) : Option Byte :=
  let d := ringDesc s die n
  let da := ringAddr s die n
  if da ≤ x ∧ x < da + 64 then bytesAt (da + 12) (word4 (ringWr d + 1)) x
  else bytesAt (ringEntryAddr d (ringWr d)) (bytesOf 32 (t.pay.toNat + t.side.toNat * 2 ^ 128)) x

/-- Port n of region r is enabled in a direction, its ring passes R502 and lies on a way that no failed fabric cuts, its gateway passes
units, and it has taken no token in this cycle. -/
structure PortLive (s : State) (r n : Nat) (out : Bool) : Prop where
  enabled : spEnabled (spOf s r n) = true
  direction : spOut (spOf s r n) = out
  ring : ringOk (ringDesc s (spDie (spOf s r n)) (spRing (spOf s r n))) (if out then none else some (spCons (spOf s r n))) = true
  gate : gwPasses (getR s r) = true
  near : dieFar s (dieOf r) (spDie (spOf s r n)) = false
  free : (tget (getR s r).ports n {}).busy ≤ (getR s r).cycle
  aligned : s.ringOffset % 64 = 0

/-- No token on its way from a port has arrived at its queue, 2 cycles and the hops after it left (R172, R501). -/
def NoArrival (s : State) (r n : Nat) : Prop :=
  ∀ m ∈ (tget (getR s r).ports n {}).moves, (getR s r).cycle < m.sent + 2 + m.key / 16 % 20 % 5

/-- A port holds a slot in a queue for one more token than it has sent there. -/
def HasSlot (s : State) (r n key q : Nat) : Prop :=
  ((tget (getR s r).ports n {}).moves.filter fun m => m.key == key && m.queue == q).length <
    usableResv (getQ (getE s key) q).resv (.port r n) (getR s r).cycle

/-- A port that has sent a token to a queue in a cycle. -/
def portSent (p : StreamPort) (key q : Nat) (t : Token) (c : Nat) : StreamPort := { p with moves := p.moves ++ [⟨key, q, t, c⟩], busy := c + 1 }

/-- The entry that waits at an inbound port; what its writers wrote before it is published. -/
structure Waiting (s : State) (r n : Nat) (t : Token) : Prop where
  live : PortLive s r n false
  published : ringSync s r (spDie (spOf s r n)) (spRing (spOf s r n)) (spCons (spOf s r n)) = (s, true)
  entry : ringRd (ringDesc s (spDie (spOf s r n)) (spRing (spOf s r n))) (spCons (spOf s r n)) ≠
    ringWr (ringDesc s (spDie (spOf s r n)) (spRing (spOf s r n)))
  token : t = ringRead s (ringDesc s (spDie (spOf s r n)) (spRing (spOf s r n)))
    (ringRd (ringDesc s (spDie (spOf s r n)) (spRing (spOf s r n))) (spCons (spOf s r n)))

/-- The consumer's counter of an inbound port's ring has moved past the entry. -/
def RingPopped (s : State) (r n : Nat) (t : State) : Prop :=
  let b := spOf s r n
  MemIs (bytesAt (ringAddr s (spDie b) (spRing b) + 16 + 4 * spCons b) (word4 (ringRd (ringDesc s (spDie b) (spRing b)) (spCons b) + 1))) s t

end Sys2Proof.Claims

/-! # Tokens on their way, and accesses -/

/-- R170 to R173, R182, R500: a token enters the queue or the port of its route from 2 cycles plus the hops after its sending on; an
arbiter grants every empty slot of a queue while a requester holds fewer than 8; the intersection unit drops the smaller coordinate.
The model's own readings and choices in it: logs 7 and 18. -/
def Obligations.TokenTransport : Prop :=
  (∀ r st el k j s tk rest, elemOk s r st el = true → k < 6 → j < 4 → let key := ekey r st el
    let e := getE s key
    let c := (getR s r).cycle
    e.out.filter (fun t => t.chan == k) = tk :: rest → tk.wait = none → j ∈ tk.pend →
    let p : PortTok := ⟨key, k, tk.tok, tk.recs, tk.sample⟩
    (bindKind tk.bind = 1 → let d := bindTarget tk.bind key j
      (c < tk.sent + 2 + hops st (keySite d.1) → exec (.tokenDeliver r st el k j) s = .next s) ∧
      (tk.sent + 2 + hops st (keySite d.1) ≤ c → ∃ t out, exec (.tokenDeliver r st el k j) s = .next t ∧ Took k j tk rest e.out out ∧
        let u := setE s key { e with out := out }
        OneQueue d.1 d.2 (entered (getQ (getE u d.1) d.2) (.chan key k) tk.tok) u t ∧ SameRegions s t ∧ SameMem s t ∧ SameDevice s t)) ∧
    (bindKind tk.bind = 2 → tk.sent + 2 + st % 5 ≤ c → ∃ t out, exec (.tokenDeliver r st el k j) s = .next t ∧ Took k j tk rest e.out out ∧
      getE t key = { e with out := out } ∧ OtherElems key s t ∧ OtherRegions r s t ∧ SameMem s t ∧ SameDevice s t ∧
      let n := bindPort tk.bind % 16
      let q := tget (getR s r).ports n {}
      getR t r = { getR s r with ports := tset (getR s r).ports n { q with slots := portEntered q.slots (.chan key k) p } }) ∧
    (bindKind tk.bind = 3 → let n := bindPort tk.bind
      let away := if n < 4 then st / 5 else if n < 8 then 3 - st / 5 else 4 - st % 5
      tk.sent + 2 + away ≤ c → ∃ t out, exec (.tokenDeliver r st el k j) s = .next t ∧ Took k j tk rest e.out out ∧
      getE t key = { e with out := out } ∧ OtherElems key s t ∧ OtherRegions r s t ∧ SameMem s t ∧ SameDevice s t ∧
      let x := tk.tok.ctx
      getR t r = setEnginePort (getR s r) n x (portEntered (enginePort (getR s r) n x) (.chan key k) p))) ∧
  (∀ r st el q s, elemOk s r st el = true → q < 6 → let key := ekey r st el
    let x := getQ (getE s key) q
    let free := 8 - x.toks.length - x.resv.length - (x.late.filter ((getR s r).cycle < ·)).length
    ∃ t g rr, exec (.creditReturn r st el q) s = .next t ∧ OneQueue key q { x with resv := x.resv ++ g, rr := rr } s t ∧
      SameRegions s t ∧ SameMem s t ∧ SameDevice s t ∧ g.length ≤ free ∧
      (∀ v ∈ g, ∃ w ∈ requesters s key q, v.who = w.1 ∧ v.usable = (getR s r).cycle + 2 + w.2) ∧
      (∀ v ∈ g, holds (x.resv ++ g) v.who ≤ 8) ∧
      (g.length < free → ∀ w ∈ requesters s key q, 8 ≤ holds (x.resv ++ g) w.1)) ∧
  (∀ r st el s a b, elemOk s r st el = true → acting (getR s r) = true → let key := ekey r st el
    let e := getE s key
    let drops := fun q => exec (.coordinateIntersect r st el) s =
      .next (setE s key { e with queues := tset e.queues q (popped (getQ e q)), spBusy := (getR s r).cycle + 1 })
    let ca := lane 32 a.pay 0
    let cb := lane 32 b.pay 0
    spEn e = true → e.spBusy ≤ (getR s r).cycle → headTok e (spQa e) = some a → headTok e (spQb e) = some b → rawAvail e (spQa e) ≠ 0 → rawAvail e (spQb e) ≠ 0 →
    (ca.ult cb = true → a.side.getLsbD 10 = false → drops (spQa e)) ∧
    (cb.ult ca = true → b.side.getLsbD 10 = false → drops (spQb e)) ∧
    (ca = cb → ∃ t, exec (.coordinateIntersect r st el) s = .next t ∧ OneElem key e s t))

/-- R177, R180, R181, R331, R332, R335: the stream ports write to rings and deliver from them; the gateway drops what crosses owners; a
deal port deals data round-robin and a marker to every live site; a consumer that held its stream back for the detach time is detached.
The model's own readings and choices in it: logs 21 and 22. -/
def Obligations.StreamPorts : Prop :=
  (∀ r n s tk rest, r < 64 → n < 16 → PortLive s r n true → let b := spOf s r n
    let d := ringDesc s (spDie b) (spRing b)
    let p := tget (getR s r).ports n {}
    let p' : StreamPort := { p with slots := { p.slots with toks := rest }, busy := (getR s r).cycle + 1 }
    p.slots.toks = tk :: rest → ringFull d = false →
    (ringOwner d = ownerOf (getR s r) → tk.tok.side.extractLsb' 14 2 ≠ 2 → ∃ t, exec (.outboundPortWrite r n) s = .next t ∧
      getR t r = { getR s r with ports := tset (getR s r).ports n p', gwCount := gwNext (getR s r) } ∧ OtherRegions r s t ∧ SameElems s t ∧
      SameDevice s { t with windowBy := s.windowBy } ∧ MemIs (ringPushed s (spDie b) (spRing b) tk.tok) s t) ∧
    (ringOwner d ≠ ownerOf (getR s r) → (getE s tk.key).st ≠ .trapped → ∃ t rec l, exec (.outboundPortWrite r n) s = .next t ∧
      getR t r = { getR s r with ports := tset (getR s r).ports n p' } ∧ OtherRegions r s t ∧ OtherElems tk.key s t ∧ SameMem s t ∧
      getE t tk.key = { getE s tk.key with st := .trapped, trapAt := (getR s (keyRegion tk.key)).cycle, trapRec := some rec } ∧
      rec.extractLsb' 32 8 = 0x0A ∧ rec.extractLsb' 40 2 = 2 ∧
      { t with regions := s.regions, elems := s.elems, mem := s.mem } = { s with logQueue := s.logQueue ++ [l] })) ∧
  (∀ r n s tk, r < 64 → n < 16 → Waiting s r n tk → NoArrival s r n → let b := spOf s r n
    dealSites (getR s r) n = none → pumpSource (getR s r) n = false → acting (getR s r) = true →
    let key := ekey r (spSite b) (spElem b)
    let p := tget (getR s r).ports n {}
    let owner := ringOwner (ringDesc s (spDie b) (spRing b))
    (owner = ownerOf (getR s r) → HasSlot s r n key (spQueue b) → ∃ t, exec (.inboundPortDeliver r n) s = .next t ∧ SameElems s t ∧
      getR t r = { getR s r with
        ports := tset (getR s r).ports n (portSent p key (spQueue b) tk (getR s r).cycle), gwCount := (getR s r).gwCount + 1 } ∧
      OtherRegions r s t ∧ SameDevice s t ∧ RingPopped s r n t) ∧
    (owner = ownerOf (getR s r) → ¬ HasSlot s r n key (spQueue b) → exec (.inboundPortDeliver r n) s = .next s) ∧
    (owner ≠ ownerOf (getR s r) → (getSeq s r).exiting = false → ∃ t, exec (.inboundPortDeliver r n) s = .next t ∧
      spEnabled (spOf t r n) = false ∧ (getSeq t r).pending = (getSeq s r).pending ++ [⟨5, 0x0A, 4, 0⟩] ∧
      t.logQueue.length = s.logQueue.length + 1 ∧ OtherRegions r s t ∧ SameMem s t)) ∧
  (∀ r n s before m after, r < 64 → n < 16 → let p := tget (getR s r).ports n {}
    p.moves = before ++ m :: after → (∀ x ∈ before, (getR s r).cycle < x.sent + 2 + x.key / 16 % 20 % 5) →
    m.sent + 2 + m.key / 16 % 20 % 5 ≤ (getR s r).cycle →
    ∀ i ∈ [Instr.inboundPortDeliver r n, .dealPortDeliver r n], ∃ t, exec i s = .next t ∧
      OneQueue m.key m.queue (entered (getQ (getE s m.key) m.queue) (.port r n) m.tok) s t ∧
      getR t r = { getR s r with ports := tset (getR s r).ports n { p with moves := before ++ after } } ∧
      OtherRegions r s t ∧ SameMem s t ∧ SameDevice s t) ∧
  (∀ r n s live, r < 64 → n < 16 → dealSites (getR s r) n = some live → acting (getR s r) = true → spEnabled (spOf s r n) = true →
    NoArrival s r n → let b := spOf s r n
    let p := tget (getR s r).ports n {}
    let key := fun st => ekey r st (spElem b)
    let slot := fun st => HasSlot s r n (key st) (spQueue b)
    let deals := fun (p : StreamPort) st tk => portSent p (key st) (spQueue b) tk (getR s r).cycle
    p.busy ≤ (getR s r).cycle →
    (∀ st rest, p.dealLeft = st :: rest → slot st → ∃ t, exec (.dealPortDeliver r n) s = .next t ∧ SameElems s t ∧
      getR t r = { getR s r with ports := tset (getR s r).ports n (deals { p with dealLeft := rest } st ⟨markerSide, 0⟩) } ∧
      OtherRegions r s t ∧ SameMem s t ∧ SameDevice s t) ∧
    (∀ tk, p.dealLeft = [] → (getR s r).stoat.drains = [] → Waiting s r n tk →
      ringOwner (ringDesc s (spDie b) (spRing b)) = ownerOf (getR s r) →
      (tk.side.extractLsb' 14 2 = 2 → ∃ t, exec (.dealPortDeliver r n) s = .next t ∧ RingPopped s r n t ∧
        getR t r = { getR s r with ports := tset (getR s r).ports n { p with dealLeft := live, eowPassed := true },
                                   gwCount := (getR s r).gwCount + 1 } ∧
        OtherRegions r s t ∧ SameElems s t ∧ SameDevice s t) ∧
      (tk.side.extractLsb' 14 2 ≠ 2 → ∀ (i st : Nat), let order : List Nat := live.filter (p.lastDeal < ·) ++ live.filter (· ≤ p.lastDeal)
        order[i]? = some st → slot st → (∀ j < i, ∀ u, order[j]? = some u → ¬ slot u) →
        ∃ t, exec (.dealPortDeliver r n) s = .next t ∧ RingPopped s r n t ∧ SameElems s t ∧
          getR t r = { getR s r with ports := tset (getR s r).ports n (deals { p with
                                      lastDeal := st, eowPassed := p.eowPassed || tk.side.getLsbD 10,
                                      dealLeft := if tk.side.getLsbD 10 then live.filter (· != st) else [] } st tk),
                                     gwCount := (getR s r).gwCount + 1 } ∧
          OtherRegions r s t ∧ SameDevice s t))) ∧
  (∀ r st el k j s, elemOk s r st el = true → let key := ekey r st el
    let w := DetachWho.route r st el k j
    let n := ((getSeq s r).strmctl.extractLsb' 0 10).toNat * 1000
    n ≠ 0 → (∃ p ∈ (getR s r).held, p.1 = w ∧ n ≤ p.2) → (getSeq s r).exiting = false →
    ∃ t, exec (.streamDetach w) s = .next t ∧
      (getE t key).det = tset (getE s key).det k (tget (getE s key).det k 0 ||| BitVec.ofNat 4 (2 ^ j)) ∧
      (getSeq t r).pending = (getSeq s r).pending ++ [⟨5, 0x0B, 4, 0⟩] ∧ (getR t r).held = (getR s r).held.filter (fun p => p.1 != w) ∧
      (∀ a q, (getQ (getE t a) q).toks = (getQ (getE s a) q).toks) ∧ OtherRegions r s t ∧ SameMem s t ∧ SameDevice s t) ∧
  (∀ die ring c r n s, s.ringOffset % 64 = 0 → c < 8 → let w := DetachWho.ring die ring c
    (ringConsumers s die ring c).find? (fun p => heldOut s p.1 w) = some (r, n) →
    (n < 16 → spEnabled (spOf s r n) = true ∧ spOut (spOf s r n) = false) → (getSeq s r).exiting = false →
    ∃ t, exec (.streamDetach w) s = .next t ∧
      MemIs (bytesAt (ringAddr s die ring + 48) [(ringDesc s die ring).extractLsb' 384 8 ||| 1 <<< c]) s t ∧
      (n < 16 → spEnabled (spOf t r n) = false) ∧ (16 ≤ n → spEnabled (sqOf t r (n - 16)) = false) ∧
      (getSeq t r).pending = (getSeq s r).pending ++ [⟨5, 0x0B, 4, 0⟩] ∧ OtherRegions r s t)

namespace Sys2Proof.Claims
open Sys2Proof.Machine

/-! ### Accesses on their way -/

/-- The instruction answers a next state, which is u in every element, region, byte of memory and unit. -/
def Into (i : Instr) (s u : State) : Prop := ∃ t, exec i s = .next t ∧ SameElems u t ∧ SameRegions u t ∧ SameMem u t ∧ SameDevice u t

/-- Access i of an element, on its way: nothing has failed. -/
structure OnWay (s : State) (r st el i : Nat) (a : Access) : Prop where
  unit : elemOk s r st el = true
  here : a ∈ (getE s (ekey r st el)).accs
  only : ∀ x ∈ (getE s (ekey r st el)).accs, x.id = i ↔ x = a
  sound : a.fault = none

/-- The access leaves its entry; it becomes another; a pending bit falls. -/
def without (i : Nat) (e : Elem) : Elem := { e with accs := e.accs.filter fun x => x.id != i }
def becomes (i : Nat) (a : Access) (e : Elem) : Elem := { e with accs := e.accs.map fun x => if x.id = i then a else x }
def unpend (n : Nat) (e : Elem) : Elem := { e with pend := e.pend &&& ~~~ (1#64 <<< n) }

/-- An access of one address that no earlier access of its element precedes. -/
def Oldest (e : Elem) (i : Nat) (a : Access) (l : AccLane) : Prop := a.lanes = [l] ∧ a.cur = 0 ∧ ∀ b ∈ e.accs, i ≤ b.id

/-- The first cycle of a load's delivery (R198), with its hops to another element; a load of no address takes its own scratchpad's time
(R202). -/
def dueFrom (st : Nat) (a : Access) : Nat :=
  if a.live = false ∨ a.space = 1 then a.fired + 3 else if a.space = 0 then a.fired + 5 else a.fired + 4 + 2 * hops st (keySite a.target)

/-- n bytes of a line at byte j replaced by the low bytes of v. -/
def lineSet (d : Line) (j n : Nat) (v : Vec) : Line :=
  let m : Line := ((BitVec.allOnes (8 * n)).setWidth 512) <<< (8 * j)
  (d &&& ~~~ m) ||| (((v.extractLsb' 0 (8 * n)).setWidth 512) <<< (8 * j))

/-- A granule becomes full or empty. -/
def FullBit (g : Nat) (v : Bool) (l l' : List Nat) : Prop := ∀ x, x ∈ l' ↔ if x = g then v = true else x ∈ l

/-- A remote access of an element arrives at the external port of its target, which takes it (R197). -/
structure ArrivesAt (s : State) (r st : Nat) (key : Nat) (a : Access) : Prop where
  space : a.space = 2
  first : a.accepted = none
  live : a.live = true
  region : keyRegion a.target = r
  arrived : a.fired + 1 + hops st (keySite a.target) ≤ (getR s r).cycle
  free : portFree s a.target (elemPortNo key) = true

/-- The write of an access that a port accepted in an earlier cycle is the next to be written there; the owner's own accesses have gone
first (R197, R198). -/
structure Lands (s : State) (r key : Nat) (a : Access) (l : AccLane) : Prop where
  space : a.space = 2
  region : keyRegion a.target = r
  accepted : ∃ n, a.accepted = some n ∧ n + 2 ≤ (getR s r).cycle
  owner : ownServed (getE s a.target) (getR s r).cycle = true
  first : ∃ x rest, landings s a.target = x :: rest ∧ x.src = .acc key a.id ∧ x.addr = l.addr

/-- The write leaves those that the port has still to write. -/
def landedOff (key i addr : Nat) (e : Elem) : Elem := { e with landing := e.landing.filter fun l => !(l.src == .acc key i && l.addr == addr) }

/-- The source stands at the port with an update that waits there (R215). -/
def HeldAt (src : UpdFrom) (e : Elem) : Prop := ∃ h ∈ e.held, h.src = src

/-- No other region of the die buffers a write to a line. -/
def NoneElse (s : State) (r ln : Nat) : Prop := ∀ p ∈ s.regions, p.1 ≠ r → dieOf p.1 = dieOf r → wcbHas p.2 ln = false

end Sys2Proof.Claims

/-- R197: reading the byte memory of the device or of a scratchpad after a write gives the bytes written where they were written, and
what stood there before everywhere else. -/
def Obligations.ReadAfterWrite : Prop :=
  ∀ m a bs x, memGet (memWrite m a bs) x = (bytesAt a bs x).getD (memGet m x) ∧
    (∀ n, memBytes m a n = (List.range n).map fun j => memGet m (a + j)) ∧
    (Memory.wf m = true → Memory.wf (memWrite m a bs) = true)

/-- R198, R206, R207, R211, R218, R219, R388, R391: an access is translated; a load takes its data from its scratchpad, the L1 or the
cistern, and delivers it to its register or its channel from its first cycle on; LDF takes a full granule.
The model's own readings and choices in it: logs 7 and 11. -/
def Obligations.AccessReturns : Prop :=
  (∀ r st el i s a l x, OnWay s r st el i a → let key := ekey r st el
    let e := getE s key
    let q := accReq (getR s r) a.kind
    a.space = 0 → a.lanes = [l] → a.cur = 0 → l.xlat = none → l.got = none →
    e.tlb.find? (fun y => xlatHit y q.asid q.owner l.addr) = some x → permitted x.pte q = true → paClass s (x.pa + (l.addr - x.va)) = .gddr →
    Into (.translationWalkComplete r st el i) s (modE s key (becomes i { a with lanes := [{ l with xlat := some x }] }))) ∧
  (∀ r st el i s a l, OnWay s r st el i a → let key := ekey r st el
    let e := getE s key
    a.kind = .ld → a.space = 1 → Oldest e i a l → l.got = none → a.fired + 2 ≤ (getR s r).cycle →
    Into (.loadDataReturn r st el i) s (modE s key (becomes i { a with
      lanes := [{ l with got := some (BitVec.ofNat 128 (memVal e.spad l.addr a.size)) }] }))) ∧
  (∀ r st el i s a l x d, OnWay s r st el i a → let key := ekey r st el
    let e := getE s key
    let pa := x.pa + (l.addr - x.va)
    let gets := fun (d : Line) => Into (.loadDataReturn r st el i) s (modE s key (becomes i { a with
      lanes := [{ l with looked := true, got := some ((d.extractLsb' (8 * (pa % 64)) (8 * a.size)).setWidth 128) }], cur := 1, asked := false }))
    a.kind = .ld → a.space = 0 → a.lanes = [l] → a.cur = 0 → l.got = none → l.xlat = some x → paClass s pa = .gddr → a.size = 16 → pa % 64 ≤ 48 →
    (l.looked = false → pteMt x.pte = 0 → e.l1.find? (fun c => c.line == pa / 64) = some d → gets d.data) ∧
    (∀ c, a.policy = .cg → l.looked = true → a.fired + 20 ≤ (getR s r).cycle → pteMt x.pte = 0 → dieCaches x.plc (r / 16) = true →
      cLine s (r / 16) (paLocal pa / 64) = some c → c.st ≠ .mm → (getR s r).wcb = [] → NoneElse s r (paLocal pa / 64) →
      lineBad s (paLocal pa / 64) = none → gets c.data)) ∧
  (∀ r st el i s a l v, OnWay s r st el i a → let key := ekey r st el
    let e := getE s key
    (a.kind = .ld ∨ a.kind = .ldr ∨ ∃ o z, a.kind = .atom o z) → a.lanes = [l] → l.got = some v → a.raised = [] → dueFrom st a ≤ (getR s r).cycle →
    (∀ n, a.dest = .reg n → Into (.loadDataReturn r st el i) s
      (modE s key fun e => unpend n { without i e with f := tset e.f n v })) ∧
    (∀ k, a.dest = .chan k → (∀ b ∈ e.accs, b.dest = .chan k → i ≤ b.id) →
      ∃ o, Into (.loadDataReturn r st el i) s (modE s key fun e => { without i e with out := e.out ++ [o] }) ∧
        o.chan = k ∧ o.tok.pay = v ∧ o.tok.side = 0#6 ++ a.tag.extractLsb' 5 2 ++ 0#3 ++ a.tag.extractLsb' 0 5 ∧ o.bind = a.bind ∧
        o.sent = (getR s r).cycle - 1 ∧ o.wait = none ∧ o.recs = a.recs ∧ o.sample = a.sample)) ∧
  (∀ r st el i s (a : Access) n (v : Nat → Vec), OnWay s r st el i a → let key := ekey r st el
    a.kind = .ldg → a.dest = .reg n → a.size ∈ [1, 2, 4, 8] → a.lanes.length = 16 / a.size → (∀ (j : Nat) (l : AccLane), a.lanes[j]? = some l → l.lane = j ∧ l.got = some (v j)) →
    a.raised = [] → dueFrom st a ≤ (getR s r).cycle →
    ∃ w, Into (.loadDataReturn r st el i) s (modE s key fun e => unpend n { without i e with f := tset e.f n w }) ∧
      ∀ j < 16 / a.size, lane (8 * a.size) w j = lane (8 * a.size) (v j) 0) ∧
  (∀ r st el i s a l n b, OnWay s r st el i a → let key := ekey r st el
    let y := getE s a.target
    a.kind = .ldr → a.lanes = [l] → l.got.isSome = true → a.raised = [n] → a.dest = .reg b → dueFrom st a ≤ (getR s r).cycle → a.target ≠ key →
    ∃ t, exec (.loadDataReturn r st el i) s = .next t ∧
      getE t a.target = { y with seals := tset y.seals n { tget y.seals n {} with count := (tget y.seals n {}).count - 1 } }) ∧
  (∀ r st el i s a l clr n, OnWay s r st el i a → let key := ekey r st el
    let e := getE s key
    a.kind = .ldf clr → a.space = 1 → Oldest e i a l → l.skip = false → a.raised = [] → a.dest = .reg n → a.fired + 3 ≤ (getR s r).cycle →
    (l.addr / 16 ∈ e.full → ∃ fl, FullBit (l.addr / 16) (!clr) e.full fl ∧ Into (.ldfComplete r st el i) s
      (modE s key fun e => unpend n { without i e with f := tset e.f n (BitVec.ofNat 128 (memVal e.spad l.addr 16)), full := fl })) ∧
    (l.addr / 16 ∉ e.full → Into (.ldfComplete r st el i) s (modE s key (becomes i { a with parked := true }))))

/-- R197 to R199, R207, R218, R220, R282, R341, R395, R396: a store is performed: in its scratchpad, in the region's write-combining
buffer, or in the die's cistern; FESET, ATOM and STF act on their granule; TSYNC ends.
The model's own readings and choices in it: log 7. -/
def Obligations.AccessWrites : Prop :=
  (∀ r st el i s a l, OnWay s r st el i a → let key := ekey r st el
    let e := getE s key
    let ev := Instr.writePerformed r (.elem key) i
    a.space = 1 → Oldest e i a l → l.skip = false → a.fired + 2 ≤ (getR s r).cycle →
    (a.kind = .st → a.size = 16 → Into ev s (modE s key fun e => { without i e with spad := memWrite e.spad l.addr (bytesOf 16 a.data.toNat) })) ∧
    (∀ v, a.kind = .feset v → ∃ fl, FullBit (l.addr / 16) v e.full fl ∧ Into ev s (modE s key fun e => { without i e with full := fl })) ∧
    (∀ o z, a.kind = .atom o z → o < 10 → z < 2 → l.got = none → let n := if z = 0 then 4 else 8
      a.size = n → let old := BitVec.ofNat (8 * n) (memVal e.spad l.addr n)
      let new := atomicResult (BitVec.ofNat 4 o) old (lane (8 * n) a.data 0) (lane (8 * n) a.data 1)
      Into ev s (modE s key fun e => { becomes i { a with lanes := [{ l with got := some (old.setWidth 128) }] } e with
        spad := memWrite e.spad l.addr (bytesOf n new.toNat) }))) ∧
  (∀ r st el i s a, OnWay s r st el i a → let key := ekey r st el
    let ev := Instr.writePerformed r (.elem key) i
    (∀ l, a.lanes = [l] → a.cur = 0 → l.skip = false → Lands s r key a l →
      let off := landedOff key i l.addr
      (a.kind = .st → a.size = 16 → Into ev s (modE (modE s a.target fun e =>
        { off e with spad := memWrite e.spad l.addr (bytesOf 16 a.data.toNat) }) key (without i))) ∧
      (∀ v, a.kind = .feset v → ∃ fl, FullBit (l.addr / 16) v (getE s a.target).full fl ∧
        Into ev s (modE (modE s a.target fun e => { off e with full := fl }) key (without i))) ∧
      (a.kind = .stf → (∀ b ∈ (getE s key).accs, i ≤ b.id) → a.parked = false → l.addr / 16 ∉ (getE s a.target).full →
        ∃ fl, FullBit (l.addr / 16) true (getE s a.target).full fl ∧ Into (.stfComplete r st el i) s (modE (modE s a.target fun e =>
          { off e with spad := memWrite e.spad l.addr (bytesOf 16 a.data.toNat), full := fl }) key (without i)))) ∧
    (a.kind = .tsync → (∀ ln ∈ (getE s key).touched, lineAt s r ln 2 = true) → a.fired + 20 ≤ (getR s r).cycle →
      Into ev s (modE s key (without i)))) ∧
  (∀ r st el i s a l x, OnWay s r st el i a → let key := ekey r st el
    let e := getE s key
    let pa := x.pa + (l.addr - x.va)
    let ln := paLocal pa / 64
    a.kind = .st → a.size = 16 → a.space = 0 → a.lanes = [l] → a.cur = 0 → l.skip = false → l.xlat = some x → paClass s pa = .gddr → pa % 64 ≤ 48 →
    (a.scope = .e ∨ a.scope = .reg) → (∀ w ∈ (getR s r).wcb, w.line = ln → w.asked = false) → NoneElse s r ln → a.fired + 20 ≤ (getR s r).cycle →
    ∃ t, exec (.writePerformed r (.elem key) i) s = .next t ∧ OtherElems key s t ∧ OtherRegions r s t ∧ SameMem s t ∧
      t.wseq = s.wseq + 1 ∧ SameDevice s { t with wseq := s.wseq } ∧
      { getR t r with wcb := (getR s r).wcb } = getR s r ∧
      (∀ k d, overlay (getR t r) k d = if k = ln then lineSet (overlay (getR s r) k d) (pa % 64) 16 a.data else overlay (getR s r) k d) ∧
      wcbHas (getR t r) ln = true ∧
      ∃ tc, (∀ k, k ∈ tc ↔ k = ln ∨ k ∈ e.touched) ∧ getE t key = { without i e with
        touched := tc,
        l1 := if a.policy = .cg ∨ pteMt x.pte ≠ 0 then e.l1.filter (fun c => c.line != pa / 64)
          else e.l1.map fun c => if c.line = pa / 64 then { c with data := lineSet c.data (pa % 64) 16 a.data } else c }) ∧
  (∀ r i s w c, r < 64 → w ∈ (getSeq s r).stores → (∀ v ∈ (getSeq s r).stores, (v.id = i ↔ v = w) ∧ (v.id < i → v.pa / 64 ≠ w.pa / 64)) →
    let ln := paLocal w.pa / 64
    let n := w.data.length
    w.pa % 64 + n ≤ 64 → paClass s w.pa = .gddr → w.scope = .die → pteMt w.xlat.pte = 0 → dieCaches w.xlat.plc (r / 16) = true → ln ∉ s.poison →
    wcbHas (getR s r) ln = false → NoneElse s r ln → cLine s (r / 16) ln = some c → (c.st = .exclusive ∨ c.st = .modified ∨ c.st = .mm) →
    ∃ t c', exec (.writePerformed r (.seq r) i) s = .next t ∧ cLine t (r / 16) ln = some c' ∧ c'.st = (if c.st = .exclusive then .modified else c.st) ∧
      (∃ d, c'.data = keepRo s ln c.data d ∧ ∀ j < 64, let hit := decide (w.pa % 64 ≤ j ∧ j < w.pa % 64 + n)
        c'.dirty.getLsbD j = (c.dirty.getLsbD j || hit) ∧
        d.extractLsb' (8 * j) 8 = if hit then w.data.getD (j - w.pa % 64) 0 else c.data.extractLsb' (8 * j) 8) ∧
      (getSeq t r).stores = (getSeq s r).stores.filter (fun v => v.id != i) ∧ (∀ d k, (d ≠ r / 16 ∨ k ≠ ln) → cLine t d k = cLine s d k) ∧
      OtherRegions r s t ∧ SameElems s t ∧ SameMem s t) ∧
  (∀ r st el i s a l, OnWay s r st el i a → let key := ekey r st el
    let e := getE s key
    let off := landedOff key i l.addr
    a.kind = .stf → a.space = 1 → a.target = key → Oldest e i a l → l.skip = false → a.fired + 2 ≤ (getR s r).cycle →
    (l.addr / 16 ∈ e.full → a.parked = false → Into (.stfComplete r st el i) s (modE s key fun e => becomes i { a with parked := true } (off e))) ∧
    (l.addr / 16 ∈ e.full → a.parked = true → exec (.stfComplete r st el i) s = .next s) ∧
    (l.addr / 16 ∉ e.full → (a.parked = false ∨ ¬ inSeal e l.addr) → ∃ fl, FullBit (l.addr / 16) true e.full fl ∧ Into (.stfComplete r st el i) s
      (modE s key fun e => { without i (off e) with spad := memWrite e.spad l.addr (bytesOf 16 a.data.toNat), full := fl })))

/-- R197, R203, R209 to R211, R214, R215, R225, R393: the external port takes a remote access of another element or refuses it; an
arrival is sent, applied and notified; a late fault traps; an invalidation drops the translations of a line.
The model's own readings and choices in it: logs 7 and 8. -/
def Obligations.AccessPorts : Prop :=
  (∀ r st el i s a l, OnWay s r st el i a → let key := ekey r st el
    ArrivesAt s r st key a →
    let ev := Instr.externalPortRequest r st el i
    let y := getE s a.target
    let c := (getR s r).cycle
    let takes := fun e => portTake e (elemPortNo key) c
    let accepted := modE (modE s a.target fun e => { takes e with landing := e.landing ++ [⟨.acc key i, l.addr, c⟩] }) key
      (becomes i { a with accepted := some c })
    let refused := modE (modE s a.target takes) key (becomes i { a with fault := some (0x07, l.addr) })
    a.lanes = [l] → a.cur = 0 → a.target ≠ key →
    (∀ v, (a.kind = .st ∨ a.kind = .feset v ∨ a.kind = .stf) → ¬ inSeal y l.addr → Into ev s accepted) ∧
    (∀ v, (a.kind = .st ∨ a.kind = .feset v ∨ a.kind = .stf) → inSeal y l.addr → Into ev s refused) ∧
    (a.kind = .ldr → (∀ w ∈ landings s a.target, w.addr / 16 ≠ l.addr / 16) →
      (¬ inSeal y l.addr → Into ev s refused) ∧
      (∀ n, sealsOver y l.addr = [n] → (tget y.seals n {}).count < 1023 → Into ev s
        (modE (modE s a.target fun e => { takes e with seals := tset e.seals n { tget e.seals n {} with count := (tget e.seals n {}).count + 1 } })
          key (becomes i { a with
            accepted := some c, raised := [n], lanes := [{ l with got := some (BitVec.ofNat 128 (memVal y.spad l.addr 16)) }] }))))) ∧
  (∀ r st el i s a, OnWay s r st el i a → let key := ekey r st el
    a.kind = .arrive → a.sentOff = false → (∀ b ∈ (getE s key).accs, i ≤ b.id) →
    (∀ ln ∈ (getE s key).touched, lineAt s r ln a.scope.code.toNat = true) →
    Into (.arriveSend r st el i) s (modE s key (becomes i { a with sentOff := true }))) ∧
  (∀ r st el i s a l, OnWay s r st el i a → let key := ekey r st el
    let ev := Instr.barrierUpdate r st el i
    let y := getE s a.target
    a.kind = .arrive → a.sentOff = true → a.lanes = [l] → a.cur = 0 →
    (a.space = 1 ∨ a.fired + 1 + hops st (keySite a.target) ≤ (getR s r).cycle) →
    (inSeal y l.addr → Into ev s (modE s key (becomes i { a with fault := some (0x07, l.addr) }))) ∧
    (¬ inSeal y l.addr → portFree s a.target (elemPortNo key) = true → updAhead s a.target l.addr (.acc key i) = false →
      (∀ z, barrierUpdate y l.addr 1 0 = .applied z → ∃ z', PortServed z z' ∧ Into ev s (modE (setE s a.target z') key (without i))) ∧
      (barrierUpdate y l.addr 1 0 = .refused →
        ∃ y', PortServed y y' ∧ Into ev s (modE (setE s a.target y') key (becomes i { a with fault := some (0x05, l.addr) }))) ∧
      (barrierUpdate y l.addr 1 0 = .waits → ∃ y', PortServed y y' ∧ HeldAt (.acc key i) y' ∧ Into ev s (setE s a.target y')))) ∧
  (∀ r st el s n rest, elemOk s r st el = true → let key := ekey r st el
    (getE s key).notify = n :: rest → siteOk (getR s r) n.site = true → n.queue < 6 → portFree s key notifyPortNo = true →
    let to_ := ekey r n.site n.elem
    1 ≤ usableResv (getQ (getE s to_) n.queue).resv (.notify key) (getR s r).cycle →
    Into (.notifyTokenDeliver r st el) s
      (modE (modE s key fun e => { portTake e notifyPortNo (getR s r).cycle with notify := rest }) to_ fun e =>
        { e with queues := tset e.queues n.queue (entered (getQ e n.queue) (.notify key) n.tok) })) ∧
  (∀ r st el i s a c ad, elemOk s r st el = true → let key := ekey r st el
    let e := getE s key
    a ∈ e.accs → (∀ x ∈ e.accs, x.id = i ↔ x = a) → a.fault = some (c, ad) → a.ops.length = 3 → a.slot < 16 → a.beat < 64 → ad < 2 ^ 64 → e.busy ≤ (getR s r).cycle →
    e.trapRec = none → e.st ≠ .trapped → e.st ≠ .frozen →
    ∃ rec, Recorded key 0 c 0 a.beat a.slot a.word (BitVec.ofNat 64 ad) (a.ops.getD 0 0) (a.ops.getD 1 0) (a.ops.getD 2 0) e rec ∧
      Into (.lateFault r st el i) s (modE s key fun e =>
        let e' := { without i e with st := .trapped, trapAt := (getR s r).cycle, trapRec := some rec }
        match a.dest with | .reg n => unpend n e' | _ => e')) ∧
  (∀ r ln s, r < 64 → let w := (getCist s (r / 16)).walkers
    let others := ∃ q, q ≠ r ∧ (ln, q) ∈ w
    invalidating s (r / 16) ln = true → (ln, r) ∈ w → oldAccess (dropXlats s r ln) r ln = false →
    (getR s r).wcb = [] → (∀ p ∈ (getCist s (r / 16)).lines, p.2.dirty = 0) → Published s (r / 16) (fun _ => True) →
    (others ∨ ∃ tx, (getHome s ln).tx = some tx ∧ ∃ d ∈ tx.tinv, d ≠ r / 16) →
    ∃ t, exec (.translationInvalidation r ln) s = .next t ∧ (ln, r) ∉ (getCist t (r / 16)).walkers ∧ OtherRegions r s t ∧ SameMem s t ∧
      (∀ x ∈ (getR t r).tlb, x.leafLines.contains ln = false) ∧
      (getR t r).walkRec = (getR s r).walkRec.filter (fun w => w.line != ln) ∧
      (∀ st el, ∀ x ∈ (getE t (ekey r (st % 20) (el % 16))).tlb, x.leafLines.contains ln = false) ∧
      (¬ others → (getDir t ln).ts.getLsbD (r / 16) = false) ∧ (others → getDir t ln = getDir s ln))

namespace Sys2Proof.Claims
open Sys2Proof.Machine

/-! ### Matrix islands (08) -/

/-- A tile of run id has done one more step. -/
def stepped (id t : Nat) (i : Island) : Island :=
  { i with runs := i.runs.map fun u => if u.id = id then
      { u with tiles := tset u.tiles t { tileProg u t with steps := (tileProg u t).steps + 1 } } else u }

/-- Only accumulator tile a has changed, in these elements. -/
def AccIs (a : Nat) (f : Nat → Nat → Option Nat) (i j : Island) : Prop :=
  (∀ r n, r < 64 → n < 64 → getAcc j a r n = (f r n).getD (getAcc i a r n)) ∧ ∀ b, b ≠ a → tget j.acc b [] = tget i.acc b []

/-- The island but for its accumulators and flags. -/
def SameRest (i j : Island) : Prop := { j with acc := i.acc, flags := i.flags, flagsNew := i.flagsNew } = i

/-- The granule in progress of a tile of run id is done. -/
def pieceMoved (id t : Nat) (due : Option Nat) (i : Island) : Island :=
  { i with runs := i.runs.map fun u => if u.id = id then
      { u with tiles := tset u.tiles t { tileProg u t with
          steps := (tileProg u t).steps + 1, started := true, posted := (tileProg u t).posted.tail, xlat := none,
          due := due.getD (tileProg u t).due } } else u }

/-- Context c has faulted, with a cause and a detail: it is invalid, what is left of its runs is a granule under way, MXFLT holds the first
fault, and the sequencer will trap. -/
structure CtxFaulted (s : State) (r m c : Nat) (cause : BitVec 8) (detail : Nat) (t : State) : Prop where
  invalid : (ctxOf (getM t r m) c).rec_ = none ∧ (ctxOf (getM t r m) c).fault = true
  stopped : ∀ v ∈ (getM t r m).runs, v.ctx = c → v.dead = true ∧ ∃ p ∈ v.tiles, p.2.moving = true
  others : (getM t r m).runs.filter (fun v => v.ctx != c && !v.dead) = (getM s r m).runs.filter (fun v => v.ctx != c && !v.dead)
  first : (getM s r m).mxflt ≠ 0 → (getM t r m).mxflt = (getM s r m).mxflt
  held : (getM s r m).mxflt = 0 → ((getM t r m).mxflt).extractLsb' 48 8 = cause ∧ ((getM t r m).mxflt).extractLsb' 24 8 = BitVec.ofNat 8 detail
  trap : (getSeq t r).pending = (getSeq s r).pending ++ [⟨3, 0x16, 2, BitVec.ofNat 64 m⟩]
  mem : SameMem s t
  regions : OtherRegions r s t

/-- Only island m of region r has changed. -/
structure OneIsland (r m : Nat) (j : Island) (s t : State) : Prop where
  island : getM t r m = j
  others : ∀ n, n ≠ m → getM t r n = getM s r n
  region : { getR t r with islands := (getR s r).islands } = getR s r
  regions : OtherRegions r s t
  mem : SameMem s t
  device : SameDevice s t

end Sys2Proof.Claims

/-! # Matrix islands -/

/-- R227, R232 to R236, R248, R249: operand fetches read sealed granules at the owner's port, once for the islands whose fetches are
merged, and reach staging; tokens of the operand
ports enter staging; a fetch of a granule that is not sealed faults the context.
The model's own readings and choices in it: logs 20 and 27. -/
def Obligations.MatrixOperands : Prop :=
  (∀ r m c side vec g s cr w w' u el off soff, r < 64 → m < 4 → c < 4 → vec < 64 → g < 8 → let x := getR s r
    let i := getM s r m
    let o := mxOperand cr side
    let addr := if g = 7 then soff else (off / 16 + g) * 16
    let key := ekey r ((o.rec_.extractLsb' 20 5).toNat) el
    let y := getE s key
    acting x = true → (ctxOf i c).rec_ = some cr → o.port = false → stageOf i side c = [w, w'] → w.full = false → w'.full = true →
    g ∈ blockPieces x i side c w vec → tfind w.data (8 * vec + g) = none → i.fetches = [] → findRun i w.run = some u →
    (∀ v ∈ i.runs, v.id = u.id → v = u) → u.ctx = c → u.dead = false → blockSite x i side w vec = .at_ el off soff → keyRegion key = r →
    behindTokens i side c w = false → (∀ z ∈ landings s key, z.addr / 16 ≠ addr / 16) → portFree s key (islandPortNo m) = true →
    let takes := fun e => portTake e (islandPortNo m) x.cycle
    let v := BitVec.ofNat 128 (memVal y.spad (addr / 16 * 16) 16)
    let d := if g = 7 then (v.extractLsb' (8 * (soff % 16)) 8).setWidth 128 else v
    let fetched := fun n (i : Island) side (w : StageBlock) slot => { i with
      nextId := i.nextId + 1, fetches := i.fetches ++ [⟨i.nextId, c, side, w.run, w.tile, w.block, slot, key, d, [n], x.cycle, false⟩] }
    let counted := fun n k e => { takes e with seals := tset e.seals n { tget e.seals n {} with count := (tget e.seals n {}).count + k } }
    (∀ n, sharers x r m c u w (key, addr) = [] → sealsOver y addr = [n] → (tget y.seals n {}).count < 1023 →
      Into (.matrixOperandFetch r m c side vec g) s (modM (modE s key (counted n 1)) r m fun i => fetched n i side w (8 * vec + g))) ∧
    (∀ n f, sharers x r m c u w (key, addr) = [f] → sealsOver y addr = [n] → (tget y.seals n {}).count < 1022 →
      Into (.matrixOperandFetch r m c side vec g) s (modM (modM (modE s key (counted n 2)) r m fun i => fetched n i side w (8 * vec + g)) r f.m
        fun i => fetched n i f.side f.w (8 * f.v + f.g))) ∧
    (sharers x r m c u w (key, addr) = [] → ¬ inSeal y addr → (getSeq s r).exiting = false →
      ∃ t, exec (.matrixOperandFetch r m c side vec g) s = .next t ∧ CtxFaulted s r m c 0x16 2 t ∧ OtherElems key s t ∧ getE t key = takes y)) ∧
  (∀ r m n s f, r < 64 → m < 4 → let x := getR s r
    let i := getM s r m
    i.fetches.find? (fun f => f.id == n) = some f → f.at_ + 3 + islandHops m f.key ≤ x.cycle →
    let kept := { i with fetches := i.fetches.filter fun f => f.id != n }
    let base := modE s f.key fun e => countSeal e f.raised (· - 1)
    (f.dropped = true → Into (.matrixFetchReturn r m n) s (modM base r m fun _ => kept)) ∧
    (f.dropped = false → Into (.matrixFetchReturn r m n) s (modM base r m fun _ => setStage kept f.side f.ctx
      ((stageOf i f.side f.ctx).map fun w =>
        let w' := if w.run = f.run ∧ w.tile = f.tile ∧ w.block = f.block then { w with data := tset w.data f.slot f.data } else w
        { w' with full := w'.full || blockReady x i f.side f.ctx w' })))) ∧
  (∀ r m c side s tk rest, r < 64 → m < 4 → c < 4 → let x := getR s r
    let i := getM s r m
    let n := 2 * m + side.toNat
    let p := enginePort x n c
    let pop := modR s r fun x => setEnginePort x n c { p with toks := rest }
    let o := mxOperand (((ctxOf i c).rec_).getD 0) side
    let per := (mxBlockBytes (recFmt o.rec_) + 15) / 16
    p.toks = tk :: rest →
    (tk.tok.side.extractLsb' 14 2 = 2 → Into (.matrixOperandStage r m c side) s pop) ∧
    (∀ w w', tk.tok.side.extractLsb' 14 2 ≠ 2 → acting x = true → o.port = true → stageOf i side c = [w, w'] → w.full = false → w ≠ w' →
      ∃ d, (w.count < 64 * per → d = tset w.data (8 * (w.count / per) + w.count % per) tk.tok.pay) ∧
        (64 * per ≤ w.count → ∀ j < 16, tget d (8 * (16 * (w.count - 64 * per) + j) + 7) 0 = (lane 8 tk.tok.pay j).setWidth 128) ∧
        (64 * per ≤ w.count → ∀ k, (∀ j < 16, k ≠ 8 * (16 * (w.count - 64 * per) + j) + 7) → tget d k 0 = tget w.data k 0) ∧
        Into (.matrixOperandStage r m c side) s (modM pop r m fun j => setStage j side c [{ w with
          data := d, count := w.count + 1,
          full := w.count + 1 == 64 * per + if mxScaled (recFmt o.rec_) then 4 else 0 }, w'])))

/-- R239 to R246: block steps fold a staged block into an accumulator tile; ZERO, LOAD and WRITE tiles move; a tile and a run complete
and send their arrivals.
The model's own readings and choices in it: log 20. -/
def Obligations.MatrixTiles : Prop :=
  (∀ r m s u t wa wb, r < 64 → m < 4 → let x := getR s r
    let i := getM s r m
    let b := (tileProg u t).steps
    let a := tileAcc u t
    computeTile i = some (u, t) → u.kind = .mma → (∀ v ∈ i.runs, v.id = u.id → v = u) → acting x = true → (x.istep = 0 ∨ 0 < i.credit) →
    (stageOf i false u.ctx).find? (fun w => isBlock w u.id t b) = some wa → (stageOf i true u.ctx).find? (fun w => isBlock w u.id t b) = some wb →
    let va := fun v => stagedVector x i false u.ctx u.kext wa v
    let vb := fun v => stagedVector x i true u.ctx u.kext wb v
    let int := recFmt (mxOperand (((ctxOf i u.ctx).rec_).getD 0) false).rec_ == 0x01
    let out := fun row col => mxBlockStep int (getAcc i a row col) (va row).1 (vb col).1 (va row).2 (vb col).2
    ∃ t' j, exec (.matrixBlockStep r m) s = .next t' ∧ OneIsland r m j s t' ∧ SameElems s t' ∧
      AccIs a (fun row col => some ((out row col).1 % 2 ^ 40)) i j ∧
      (∀ k < 6, j.flags.getLsbD k = true ↔ (i.flags.getLsbD k = true ∨ ∃ row < 64, ∃ col < 64,
        if k = 5 then (out row col).2.2 = true else (out row col).2.1.getLsbD k = true)) ∧
      SameRest { setStage (setStage (stepped u.id t i) false u.ctx ((stageOf i false u.ctx).filter fun w => !isBlock w u.id t b)) true u.ctx
        ((stageOf i true u.ctx).filter fun w => !isBlock w u.id t b) with credit := if x.istep = 0 then i.credit else i.credit - 1 } j) ∧
  (∀ r m s u t, r < 64 → m < 4 → let i := getM s r m
    computeTile i = some (u, t) → u.kind = .zero → (∀ v ∈ i.runs, v.id = u.id → v = u) → (tileProg u t).steps = 0 → acting (getR s r) = true →
    ∃ t' j, exec (.matrixZeroTile r m) s = .next t' ∧ OneIsland r m j s t' ∧ SameElems s t' ∧
      (∀ row col, getAcc j (tileAcc u t) row col = 0) ∧ (∀ b, b ≠ tileAcc u t → tget j.acc b [] = tget i.acc b []) ∧
      { j with acc := i.acc } = stepped u.id t i) ∧
  (∀ r m s u t p el addr, r < 64 → m < 4 → let x := getR s r
    let i := getM s r m
    let c := runRec i u
    let f := recFmt (mxCRec c)
    let z := mxCSize f
    let key := ekey r ((mxCRec c).extractLsb' 20 5).toNat el
    let y := getE s key
    (mxCPieces c (tileIndex u t))[(tileProg u t).steps]? = some p → mxCSite x c p = .at_ el addr 0 → recSpace (mxCRec c) = 2 → acting x = true →
    keyRegion key = r → (∀ v ∈ i.runs, v.dead = false ∧ (v.id = u.id → v = u)) → transferTile x m i = some (u, t) →
    (u.kind = .load → p.col + p.n ≤ 64 → p.row < 64 → p.n * z ≤ 16 → portFree s key (islandPortNo m) = true →
      (∀ w ∈ landings s key, w.addr / 16 ≠ addr / 16) →
      let got := fun j => mxLoad f (memVal y.spad (addr + j * z) z)
      ∃ t' j, exec (.matrixLoadTile r m) s = .next t' ∧ OneIsland r m j s t' ∧ OtherElems key s t' ∧ getE t' key = portTake y (islandPortNo m) x.cycle ∧
        AccIs (tileAcc u t) (fun row col => if row = p.row ∧ p.col ≤ col ∧ col < p.col + p.n then some ((got (col - p.col)).1 % 2 ^ 40) else none) i j ∧
        (∀ k < 5, j.flags.getLsbD k = true ↔ (i.flags.getLsbD k = true ∨ ∃ n < p.n, (got n).2.getLsbD k = true)) ∧
        SameRest (pieceMoved u.id t (some (x.cycle + 3 + islandHops m key)) i) j) ∧
    (u.kind = .write → (tileProg u t).posted = [] → portFree s key (islandPortNo m) = true →
      (¬ inSeal y addr → Into (.matrixWriteTile r m) s (modM (modE s key fun e => { portTake e (islandPortNo m) x.cycle with
          landing := e.landing ++ [⟨tileSrc m u t, addr, x.cycle⟩] }) r m fun i => { i with
        runs := i.runs.map fun v => if v.id = u.id then
          { v with tiles := tset v.tiles t { tileProg v t with started := true, posted := [((tileProg u t).steps, x.cycle)] } } else v })) ∧
      (inSeal y addr → u.ctx < 4 → (getSeq s r).exiting = false → ∃ t', exec (.matrixWriteTile r m) s = .next t' ∧ CtxFaulted s r m u.ctx 0x16 5 t')) ∧
    (∀ k n rest, u.kind = .write → (tileProg u t).posted = (k, n) :: rest → mayLand s key (tileSrc m u t) addr n = true →
      let out := fun n => mxWrite f (rmOf u.sample (mxRm c)) (getAcc i (tileAcc u t) p.row (p.col + n))
      ∃ t' j fl, exec (.matrixWriteTile r m) s = .next t' ∧ OneIsland r m j s t' ∧ OtherElems key s t' ∧ FullBit (addr / 16) true y.full fl ∧
        getE t' key = { y with
          spad := (getE t' key).spad, full := fl, landing := y.landing.filter fun l => !(l.src == tileSrc m u t && l.addr == addr) } ∧
        (∀ a, (a < addr ∨ addr + p.n * z ≤ a) → memGet (getE t' key).spad a = memGet y.spad a) ∧
        (∀ n < p.n, memVal (getE t' key).spad (addr + n * z) z = (out n).1 % 2 ^ (8 * z)) ∧
        (∀ k < 5, j.flags.getLsbD k = true ↔ (i.flags.getLsbD k = true ∨ ∃ n < p.n, (out n).2.getLsbD k = true)) ∧
        SameRest (pieceMoved u.id t none i) j)) ∧
  (∀ r m n s u t, r < 64 → m < 4 → acting (getR s r) = true → let i := getM s r m
    let c := runRec i u
    u ∈ i.runs → (∀ v ∈ i.runs, v.id = n ↔ v = u) → u.dead = false → (tileProg u t).due ≤ (getR s r).cycle → t < u.tcnt → (∀ t' < t, (tileProg u t').complete = true) → (tileProg u t).complete = false →
    (tileProg u t).steps = tileSteps i u t →
    let last := decide (∀ t' < u.tcnt, t' = t ∨ (tileProg u t').complete = true)
    let arr := decide ((mxBmode c = 1 ∧ u.kind = .write) ∨ (mxBmode c = 2 ∧ last = true))
    Into (.matrixTileComplete r m n) s (modM s r m fun i => { i with
      runs := if last then i.runs.filter (fun v => v.id != n)
        else i.runs.map fun v => if v.id = n then { v with tiles := tset v.tiles t { tileProg v t with complete := true } } else v,
      nextId := if arr then i.nextId + 1 else i.nextId,
      arrivals := if arr then i.arrivals ++ [⟨i.nextId, u.ctx, u.kind, tileAcc u t, t, (tileProg u t).steps, mxBsite c, mxBelem c, mxBoff c,
          (getR s r).cycle⟩]
        else i.arrivals })) ∧
  (∀ r m n s a y, r < 64 → m < 4 → let x := getR s r
    let i := getM s r m
    let key := ekey r a.site a.elem
    i.arrivals.find? (fun a => a.id == n) = some a → acting x = true → a.at_ + 1 + islandHops m key ≤ x.cycle → a.off < spadSize x →
    ¬ inSeal (getE s key) a.off → portFree s key (islandPortNo m) = true → updAhead s key a.off (.island m n) = false →
    barrierUpdate (getE s key) a.off 1 0 = .applied y →
    ∃ y', PortServed y y' ∧ Into (.matrixArrival r m n) s (modM (setE s key y') r m fun i =>
      { i with arrivals := i.arrivals.filter fun b => b.id != n }))

namespace Sys2Proof.Claims
open Sys2Proof.Machine

/-! ### Pumps (09) -/

/-- An access or token of a pump that is on its way, before which none has been issued that is not done. -/
structure InFlight (s : State) (r p i : Nat) (a : PAcc) : Prop where
  region : r < 64
  pump : p < 2
  there : a ∈ (pumpOf s r p).accs
  only : ∀ b ∈ (pumpOf s r p).accs, b.id = i ↔ b = a
  first : ∀ b ∈ (pumpOf s r p).accs, i ≤ b.id
  going : a.complete = false
  moves : a.p.write = true ∨ acting (getR s r) = true

def accBecomes (i : Nat) (a : PAcc) (u : Pump) : Pump := { u with accs := u.accs.map fun b => if b.id = i then a else b }
def accLeaves (i : Nat) (u : Pump) : Pump := { u with accs := u.accs.filter fun b => b.id != i }

/-- The active request that the issue engine of a pump works on; the pump is not stalled. -/
structure Issuing (s : State) (r p : Nat) (a : PActive) : Prop where
  region : r < 64
  pump : p < 2
  acts : acting (getR s r) = true
  free : (pumpOf s r p).stall = false
  this : issuing (pumpOf s r p) = some a
  only : ∀ b ∈ (pumpOf s r p).active, b.req.id = a.req.id → b = a

def activeBecomes (a : PActive) (u : Pump) : Pump := { u with active := u.active.map fun b => if b.req.id = a.req.id then a else b }

/-- The issue engine issues the first piece of its work, in cycle c. -/
def issued (a : PActive) (w : PPiece) (rest : List PPiece) (x : Option Xlat) (c : Nat) (u : Pump) : Pump :=
  activeBecomes { a with work := rest } { u with
    accs := u.accs ++ [⟨u.nextId, a.req.id, w, x, c, 0, [], [], false, false, []⟩], nextId := u.nextId + 1 }

/-- A write of request b has been performed in cycle c: with BEN, a piece of its destination sends a sector update (R275). -/
def written (i : Nat) (a : PAcc) (b : PActive) (c : Nat) (u : Pump) : Pump :=
  let u := accLeaves i u
  if a.p.place = 1 ∧ a.p.tok = none ∧ b.req.desc.getLsbD 30 = true ∧ a.refused = false then
    { u with updates := u.updates ++ [⟨u.nextId, a.req, 0, 1, c⟩], nextId := u.nextId + 1 }
  else u

/-- A piece in a scratchpad of this region reaches its owner's port, none of its granules is next to be written, and the port takes it. -/
structure PumpAtPort (s : State) (r p i : Nat) (a : PAcc) : Prop where
  plain : a.p.tok = none ∧ a.xlat = none ∧ a.p.skip = false ∧ a.p.ek = 2
  region : keyRegion a.p.key = r
  more : a.done < a.p.size
  arrived : a.issued + 1 + pumpHops a.p.key ≤ (getR s r).cycle
  none : ∀ o n rest, a.posted = (o, n) :: rest → mayLand s a.p.key (.pump p i) (a.p.addr + o) n = false
  free : portFree s a.p.key (pumpPortNo p) = true

end Sys2Proof.Claims

/-! # Pumps -/

/-- R257 to R259, R271, R272, R275, R278: a packet enters the request queue, or is discarded with a trap; requests start in order; a
barrier update is applied; a request sends its arrival and is complete; RETRY and CLR.
The model's own readings and choices in it: log 21. -/
def Obligations.PumpRequests : Prop :=
  (∀ r p s t0 t1 t2 t3, r < 64 → p < 2 → let u := pumpOf s r p
    let d : BitVec 512 := t3.tok.pay ++ t2.tok.pay ++ t1.tok.pay ++ t0.tok.pay
    let recOf := fun (w : BitVec 64) => if w.extractLsb' 61 3 = 5 then some (tget t0.recs (w.extractLsb' 0 3).toNat 0) else none
    let q : PReq := ⟨0, d, t0.sample, some t0.key, recOf (d.extractLsb' 128 64), recOf (d.extractLsb' 192 64),
      (getR s r).cycle⟩
    u.reqPort.toks = [t0, t1, t2, t3] → (∀ t ∈ [t0, t1, t2, t3], t.tok.side.extractLsb' 14 2 ≠ 2 ∧ t.key = t0.key ∧ t.chan = t0.chan) →
    u.queue.length < 8 → acting (getR s r) = true →
    (pumpReserved (getR s r) r q = false → Into (.pumpRequestPacket r p) s (modPump s r p fun u => { u with
      reqPort := { u.reqPort with toks := [] }, queue := u.queue ++ [{ q with id := u.nextId }], nextId := u.nextId + 1 })) ∧
    (pumpReserved (getR s r) r q = true → (getSeq s r).exiting = false → ∃ t, exec (.pumpRequestPacket r p) s = .next t ∧
      (pumpOf t r p).reqPort.toks = [] ∧ (pumpOf t r p).queue = u.queue ∧
      (u.pmflt0 = 0 → (pumpOf t r p).pmflt0.extractLsb' 56 8 = 0x17 ∧ (pumpOf t r p).pmflt0.extractLsb' 48 8 = 1) ∧
      (getSeq t r).pending = (getSeq s r).pending ++ [⟨4, 0x17, 3, BitVec.ofNat 64 p⟩] ∧ SameElems s t ∧ OtherRegions r s t ∧ SameMem s t)) ∧
  (∀ r p s q rest, r < 64 → p < 2 → let u := pumpOf s r p
    let d := q.desc
    u.queue = q :: rest → issuing u = none → u.stall = false → (d.getLsbD 8 = true → u.active = []) → acting (getR s r) = true →
    (q.origin = none ∨ q.at_ < (getR s r).cycle) →
    d.extractLsb' 60 4 ≠ 5 → (∀ st el n, fabricDest q = some (st, el, n) → st < 20 ∨ 32 ≤ st) →
    let base := modPump s r p fun u => { u with
      queue := rest, active := u.active ++ [{ req := q }], latches := [],
      bound := match fabricDest q with | some d => u.bound ++ [d] | none => u.bound }
    Into (.pumpRequestStart r p) s (match fabricDest q with
      | some (st, el, n) => if st < 20 then modE base (ekey r st el) fun e =>
          { e with queues := tset e.queues n { getQ e n with pumpBound := true } } else base
      | none => base)) ∧
  (∀ r p i s v a y, r < 64 → p < 2 → let u := pumpOf s r p
    let x := getR s r
    let d := a.req.desc
    let key := ekey r (d.extractLsb' 25 5).toNat (d.extractLsb' 21 4).toNat
    let off := 16 * (d.extractLsb' 9 12).toNat
    u.updates.find? (fun v => v.id == i) = some v → findActive u v.req = some a → settling x = true → v.at_ + 1 + pumpHops key ≤ x.cycle →
    off < spadSize x → ¬ inSeal (getE s key) off → portFree s key (pumpPortNo p) = true → updAhead s key off (.pump p i) = false →
    barrierUpdate (getE s key) off v.darr v.dsec = .applied y →
    ∃ y', PortServed y y' ∧ Into (.pumpBarrierUpdate r p i) s (modPump (setE s key y') r p fun u =>
      { u with updates := u.updates.filter fun w => w.id != i })) ∧
  (∀ r p i s a, r < 64 → p < 2 → let u := pumpOf s r p
    findActive u i = some a → (∀ b ∈ u.active, b.req.id = i → b = a) → acting (getR s r) = true → a.stage = 3 → a.work = [] → a.dead = false →
    (∀ c ∈ u.accs, c.req ≠ i) → (∀ v ∈ u.updates, v.req ≠ i) →
    (a.req.desc.getLsbD 30 = true → a.arrSent = false → Into (.pumpRequestComplete r p i) s (modPump s r p fun u =>
      activeBecomes { a with arrSent := true } { u with updates := u.updates ++ [⟨u.nextId, i, 1, 0, (getR s r).cycle⟩], nextId := u.nextId + 1 })) ∧
    ((a.req.desc.getLsbD 30 = false ∨ a.arrSent = true) → fabricDest a.req = none → Into (.pumpRequestComplete r p i) s
      (modPump s r p fun u => { u with active := u.active.filter fun b => b.req.id != i }))) ∧
  (∀ r p s, r < 64 → p < 2 →
    Into (.clr r p) s (modPump s r p fun u => { u with fault := false, pmflt0 := 0, pmflt1 := 0, pmflt2 := 0, pmdsc := 0 }) ∧
    ∃ t, exec (.retry r p) s = .next t ∧ pumpOf t r p = { pumpOf s r p with stall := false } ∧ (∀ n, n ≠ p → pumpOf t r n = pumpOf s r n) ∧
      ((∀ n, (pumpOf t r n).stall = false) → (∀ q ∈ (getR t r).pumps, q.2.stall = false) → (getR t r).drainFrom = none) ∧
      { getR t r with pumps := (getR s r).pumps, drainFrom := (getR s r).drainFrom } = getR s r ∧ OtherRegions r s t ∧ SameElems s t ∧ SameMem s t)

/-- R260: the iterations of a request and their offsets. R262 to R264, R273 to R276: its accesses are checked, issued and done; a copy
moves the bytes of an iteration from its source to its destination.
The model's own readings and choices in it: log 21. -/
def Obligations.PumpTransfers : Prop :=
  (∀ d q, let n := fun (i : Nat) => (d.extractLsb' (256 + 16 * i) 16).toNat + 1
    let st := fun (i : Nat) => (d.extractLsb' (384 + 32 * i) 32).toInt
    pdQ d = n 0 * n 1 * n 2 * n 3 ∧
    pdOffset d q = (q % n 0 : Nat) * st 0 + (q / n 0 % n 1 : Nat) * st 1 + (q / n 0 / n 1 % n 2 : Nat) * st 2 + (q / n 0 / n 1 / n 2 % n 3 : Nat) * st 3) ∧
  (∀ x sd (o : Int) n iter place write data past, 0 < n →
    let goes := pumpAccess x sd o n iter place write data past
    let out := o < 0 ∨ (sd.ext ≠ 0 ∧ (sd.ext : Int) < o + n) ∨ past = true
    let al := if n % 16 = 0 then 16 else if n % 8 = 0 then 8 else if n % 4 = 0 then 4 else if n % 2 = 0 then 2 else 1
    (out → sd.bounds ≠ 2 → ∃ f, goes = .flt f ∧ f.cause = 0x17 ∧ f.detail = 3) ∧
    (out → sd.bounds = 2 → ∃ l, goes = .ok l ∧ (l.map (·.size)).sum = n ∧ ∀ w ∈ l, w.skip = true) ∧
    (¬ out → (sd.base + o) % al ≠ 0 → ∃ f, goes = .flt f ∧ f.cause = 0x17 ∧ f.detail = 4) ∧
    (¬ out → (sd.base + o) % al = 0 → sd.ek = 0 → 2 ^ 57 ≤ sd.base + o + n - 1 → ∃ f, goes = .flt f ∧ f.cause = 0x06 ∧ f.detail = 6) ∧
    (¬ out → (sd.base + o) % al = 0 → sd.ek = 2 → spadSize x ≤ sd.base + o + n - 1 → ∃ f, goes = .flt f ∧ f.cause = 0x17 ∧ f.detail = 3) ∧
    (¬ out → 0 ≤ sd.base + o → (sd.base + o) % al = 0 → (sd.ek = 0 → sd.base + o + n - 1 < 2 ^ 57) → (sd.ek = 2 → sd.base + o + n - 1 < spadSize x) →
      ∃ l, goes = .ok l ∧ (l.map (·.size)).sum = n ∧ (∀ w ∈ l, w.skip = false ∧ 0 < w.size ∧ w.addr % 64 + w.size ≤ 64) ∧
        (∃ w, l.head? = some w ∧ (w.addr : Int) = sd.base + o))) ∧
  (∀ r p s a w rest, Issuing s r p a → a.work = w :: rest →
    ((w.ek ≠ 0 ∨ w.skip = true ∨ w.tok.isSome = true) → Into (.pumpIssue r p) s (modPump s r p (issued a w rest none (getR s r).cycle))) ∧
    (∀ k x, w.ek = 0 → w.skip = false → w.tok = none → let q := pumpReq (getR s r) w.write
      (pumpOf s r p).latches.find? (fun y => xlatHit y.2 q.asid q.owner w.addr) = some (k, x) → permitted x.pte q = true →
      paClass s (x.pa + (w.addr - x.va)) = .gddr → Into (.pumpIssue r p) s (modPump s r p (issued a w rest (some x) (getR s r).cycle)))) ∧
  (∀ r p s a l, Issuing s r p a → let x := getR s r
    let d := a.req.desc
    let u := (d.extractLsb' 31 6).toNat + 1
    let now := fun (u : Pump) => { u with flagsNew := newFlags u.flagsNew x.cycle 0 }
    let off := fun side => if d.getLsbD 46 = side then pdOffset d a.q else ((a.q * u : Nat) : Int)
    a.work = [] → a.stage = 1 → d.extractLsb' 60 4 = 0 → a.q < pdQ d → (∀ c ∈ (pumpOf s r p).accs, c.req ≠ a.req.id) →
    isMem (srcSide r a.req).ek = true → isMem (dstSide r a.req).ek = true →
    (a.src.length < u → pumpAccess x (srcSide r a.req) (off false) u a.q 0 false [] false = .ok l →
      Into (.pumpIssue r p) s (modPump s r p fun v => activeBecomes { a with work := l, srcPos := a.srcPos + u } (now v))) ∧
    (u ≤ a.src.length → pumpAccess x (dstSide r a.req) (off true) u a.q 1 true (a.src.take u) false = .ok l →
      Into (.pumpIssue r p) s (modPump s r p fun v => activeBecomes { a with
        q := a.q + 1, src := a.src.drop u, work := l, aux := [], auxAsked := false } (now v)))) ∧
  (∀ r p i s a, InFlight s r p i a → let ev := Instr.pumpAccessComplete r p i
    let x := getR s r
    let y := getE s a.p.key
    let ad := a.p.addr + a.done
    let n := min (a.p.size - a.done) (16 - ad % 16)
    (a.p.tok = none → a.xlat = none → a.p.skip = true → a.p.write = false →
      Into ev s (modPump s r p (accBecomes i { a with got := List.replicate a.p.size 0, complete := true }))) ∧
    (PumpAtPort s r p i a → a.p.write = true → ¬ inSeal y ad →
      Into ev s (modPump (modE s a.p.key fun e => { portTake e (pumpPortNo p) x.cycle with
        landing := e.landing ++ [⟨.pump p i, ad, x.cycle⟩] }) r p
        (accBecomes i { a with posted := a.posted ++ [(a.done, x.cycle)], done := a.done + n }))) ∧
    (∀ b o m rest, a.p.tok = none → a.xlat = none → a.p.skip = false → a.p.ek = 2 → a.posted = (o, m) :: rest →
      mayLand s a.p.key (.pump p i) (a.p.addr + o) m = true → findActive (pumpOf s r p) a.req = some b →
      ∃ fl, FullBit ((a.p.addr + o) / 16) true y.full fl ∧
        let wrote := modE s a.p.key fun e => { e with
          spad := memWrite e.spad (a.p.addr + o) ((a.p.data.drop o).take (min (a.p.size - o) (16 - (a.p.addr + o) % 16))), full := fl,
          landing := e.landing.filter fun l => !(l.src == .pump p i && l.addr == a.p.addr + o) }
        ((a.done < a.p.size ∨ rest ≠ []) → Into ev s (modPump wrote r p (accBecomes i { a with posted := rest }))) ∧
        (a.p.size ≤ a.done → rest = [] → Into ev s (modPump wrote r p (written i a b x.cycle)))) ∧
    (∀ m, PumpAtPort s r p i a → a.p.write = false → (∀ w ∈ landings s a.p.key, w.addr / 16 ≠ ad / 16) →
      sealsOver y ad = [m] → (tget y.seals m {}).count < 1023 →
      Into ev s (modPump (modE s a.p.key fun e => { portTake e (pumpPortNo p) x.cycle with
        seals := tset e.seals m { tget e.seals m {} with count := (tget e.seals m {}).count + 1 } }) r p
        (accBecomes i { a with
          done := a.done + n, got := a.got ++ memBytes y.spad ad n, raised := a.raised ++ [(a.p.key, [m])], posted := [(0, x.cycle)] }))) ∧
    (∀ k m o c rest, a.p.tok = none → a.xlat = none → a.p.skip = false → a.p.ek = 2 → a.p.write = false → a.p.size ≤ a.done → a.raised = [(k, [m])] →
      a.posted = (o, c) :: rest → mayLand s a.p.key (.pump p i) (a.p.addr + o) c = false → c + 3 + pumpHops a.p.key ≤ x.cycle →
      Into ev s (modPump (modE s k fun e => { e with
        seals := tset e.seals m { tget e.seals m {} with count := (tget e.seals m {}).count - 1 } }) r p
        (accBecomes i { a with raised := [], posted := [], complete := true }))) ∧
    (∀ v c, a.p.tok = none → a.xlat = some v → a.p.write = false → let pa := v.pa + (a.p.addr - v.va)
      let ln := paLocal pa / 64
      paClass s pa = .gddr → pteMt v.pte = 0 → dieCaches v.plc (r / 16) = true → cLine s (r / 16) ln = some c → c.st ≠ .mm → x.wcb = [] → NoneElse s r ln →
      lineBad s ln = none → Into ev s (modPump s r p (accBecomes i { a with got := lineBytes c.data (pa % 64) a.p.size, complete := true }))) ∧
    (∀ t b, a.p.tok = some t → a.p.ek = 4 → let w : BitVec 64 := BitVec.ofNat 64 a.p.addr
      let key := ekey r (w.extractLsb' 12 5).toNat (w.extractLsb' 8 4).toNat
      let q := (w.extractLsb' 4 3).toNat
      w.getLsbD 31 = false → findActive (pumpOf s r p) a.req = some b →
      (a.posted = [] → onTheWay (pumpOf s r p) a.p < usableResv (getQ (getE s key) q).resv (.pump r p) x.cycle →
        Into ev s (modPump s r p (accBecomes i { a with posted := [(0, x.cycle)] }))) ∧
      (∀ o c rest, a.posted = (o, c) :: rest → c + 2 + pumpHops key ≤ x.cycle →
        Into ev s (modPump (modE s key fun e => { e with queues := tset e.queues q (entered (getQ e q) (.pump r p) t) }) r p
          (written i a b x.cycle)))))

namespace Sys2Proof.Claims
open Sys2Proof.Machine

/-! ### The distributor and Stoat (11) -/

/-- The dispatch of a head of queue q as it is selected: nothing is bound. -/
def selected (s : State) (q : Nat) (h : Head) : Disp where
  id := s.dist.nextId
  queue := q
  ticket := h.ticket
  asid := ((qEntry s q).extractLsb' 112 16).toNat
  owner := ((qEntry s q).extractLsb' 0 7).toNat
  rec_ := h.rec_
  ranges := h.ranges
  mint := h.mint
  l1sz := h.l1sz
  bound := 0
  retired := []
  lastDie := none
  cause := 0
  early := false
  ending := none
  stage := 0
  peers := []

/-- Team number index of dispatch d starts in region r (R283): the sequencer begins in supervisor mode at RTENTRY, with the queue and
ticket in s1, its index in s2 and the parameters in s3 to s10; L1s are empty, contexts invalid, and what another owner left is cleared. -/
structure TeamStarts (r : Nat) (d : Disp) (s t : State) : Prop where
  team : ∃ m, (getR t r).team = some m ∧ m.disp = d.id ∧ m.queue = d.queue ∧ m.ticket = d.ticket ∧ m.index = d.bound ∧ m.asid = d.asid ∧
    m.owner = d.owner ∧ m.l1sz = d.l1sz ∧ m.phase = 0
  state : (getR t r).rstate = .running
  pc : (getSeq t r).pc = pcOf (getSeq s r).rtentry
  sup : (getSeq t r).sup = true
  s1 : getS (getSeq t r) 1 = BitVec.ofNat 64 (d.queue * 2 ^ 32 + d.ticket % 2 ^ 32)
  s2 : getS (getSeq t r) 2 = BitVec.ofNat 64 d.bound
  params : ∀ i, i < 8 → getS (getSeq t r) (BitVec.ofNat 5 (3 + i)) = d.rec_.extractLsb' (64 * i) 64
  zero : ∀ n, 11 ≤ n → n < 32 → getS (getSeq t r) (BitVec.ofNat 5 n) = 0
  elems : ∀ st el, st < 20 → el < 16 → let e := getE s (ekey r st el)
    let e' := getE t (ekey r st el)
    e'.l1 = [] ∧ e'.wave = 0 ∧ e'.f = e.f ∧ e'.m = e.m ∧ e'.spad = (if (getR s r).prevOwner = d.owner then e.spad else []) ∧
    e'.full = if (getR s r).prevOwner = d.owner then e.full else []
  contexts : ∀ m c, ctxOf (getM t r m) c = { rec_ := none, fault := false }
  regions : OtherRegions r s t
  dist : ∃ d', d' ∈ t.dist.inflight ∧ d'.id = d.id ∧ d'.bound = d.bound + 1 ∧ d'.lastDie = some (r / 16)

/-- A region can take a team of the head of queue q. -/
def CanTake (s : State) (q : Nat) (h : Head) (r : Nat) : Prop :=
  (getR s r).rstate = .free ∧ (getR s r).team = none ∧ headFits s (qEntry s q) h r = true

/-- The queue table is aligned and lies in the device's memory. -/
def TableInMem (s : State) : Prop := s.qTable % 64 = 0 ∧ s.qTable + 64 * 256 ≤ 2 ^ 47

/-- Every selection that stands is of an enabled queue. -/
def StandsEnabled (s : State) : Prop := ∀ p ∈ s.dist.standing, (qEntry s p.2).getLsbD 31 = true

/-- Queue q holds its head, and nothing holds a copy of its entry. -/
structure HoldsHead (s : State) (q : Nat) (h : Head) (d : Disp) : Prop where
  number : q < 256
  table : TableInMem s
  alone : heldLines s (qAddr s q) 64 = []
  waits : (qEntry s q).extractLsb' 224 32 ≠ (qEntry s q).extractLsb' 192 32
  flies : h.disp = some d.id
  disp : findDisp s d.id = some d
  queue : d.queue = q
  more : d.bound + 1 < (d.rec_.extractLsb' 240 16).toNat

/-- A team of a head that has more has been bound: the head waits anew, and AGE of the queue's entry shows its PRIO (R318, R319). -/
structure BoundOne (r q : Nat) (h : Head) (d : Disp) (s t : State) : Prop where
  starts : TeamStarts r d s t
  head : tfind t.dist.heads q = some h
  since : tfind t.dist.since q = some s.time
  age : MemIs (bytesAt (s.qTable + 64 * q + 2) [BitVec.ofNat 8 (17 * ((qEntry s q).extractLsb' 16 4).toNat)]) s t

end Sys2Proof.Claims

/-! # The distributor, Stoat -/

/-- R283, R310, R314, R317 to R320, R323: the head of a queue is read; a candidate is selected; a team is bound and starts; a team
retires.
The model's own readings and choices in it: log 24. -/
def Obligations.Dispatching : Prop :=
  (∀ q s b, q < 256 → distOn s = true → (∀ d ∈ s.dist.inflight, d.queue = q → d.ending = none) → AtHome s (qAddr s q) 64 → let e := qEntry s q
    let d : BitVec 512 := BitVec.ofNat 512 (leVal b)
    let rd := (e.extractLsb' 224 32).toNat
    let log2 := (e.extractLsb' 100 4).toNat
    (e.extractLsb' 20 4).toNat = (if (tfind s.dist.since q).isSome then effPrio s q else 0) →
    e.getLsbD 31 = true → e.getLsbD 30 = false → 4 ≤ log2 → log2 ≤ 12 → e.extractLsb' 0 7 ≠ 127 → e.extractLsb' 224 32 ≠ e.extractLsb' 192 32 →
    (∀ h, tfind s.dist.heads q = some h → h.ticket ≠ rd) →
    engineLine s ((e.extractLsb' 128 52).toNat + 64 * (rd % 2 ^ log2)) 0 64 = some (s, .ok b) →
    (∀ gb u lb v, recMalformed d = false → engineRecord s 0 (distReq e 0) (d.extractLsb' 384 64).toNat 64 = some (u, .ok gb) →
      let g : BitVec 512 := BitVec.ofNat 512 (leVal gb)
      graphOk g = true →
      engineRecord u 0 (distReq e 0) ((d.extractLsb' 384 64).toNat + 64 + 64 * (g.extractLsb' 32 16).toNat) 64 = some (v, .ok lb) →
      let l : BitVec 512 := BitVec.ofNat 512 (leVal lb)
      let found := fun (w : State) (rs : Option (List Range)) => exec (.dispatchHeadRead q) s = .next { w with
        dist := { w.dist with heads := tset w.dist.heads q ⟨rd, d, (l.extractLsb' 118 5).toNat, (l.extractLsb' 128 2).toNat, rs, none⟩ } }
      firstLoadOk l = true →
      (d.extractLsb' 256 64 = 0 → found v none) ∧
      (∀ w tb rs, d.extractLsb' 256 64 ≠ 0 → engineRecord v 0 (distReq e 0) (d.extractLsb' 256 64).toNat 128 = some (w, .ok tb) →
        rangeTable (bytesOf 128 (leVal tb % 2 ^ 1024)) = some rs → found w (some rs))) ∧
    (recMalformed d = true → ∃ t x, exec (.dispatchHeadRead q) s = .next t ∧ t.dist.inflight = s.dist.inflight ++ [x] ∧ x.queue = q ∧
      x.ending = some (1, 0x02) ∧ x.early = true ∧ x.rec_ = d ∧ tfind t.dist.heads q = none)) ∧
  (∀ owner q h s, distOn s = true → StandsEnabled s → tfind s.dist.standing owner = none → q < 256 → h.disp = none →
    let cs := candidates s owner fun _ _ => true
    let prio := fun (c : Nat × Head) => effPrio s c.1
    (q, h) ∈ cs → (∀ c ∈ cs, c ≠ (q, h) → prio c < prio (q, h)) →
    exec (.distributorSelect owner) s = .next { s with
      dist := { s.dist with
        nextId := s.dist.nextId + 1, inflight := s.dist.inflight ++ [selected s q h],
        heads := tset s.dist.heads q { h with disp := some s.dist.nextId },
        last := tset s.dist.last (prio (q, h)) q, standing := tset s.dist.standing owner q } }) ∧
  (∀ owner q h d r s, distOn s = true → StandsEnabled s → tfind s.dist.standing owner = some q → tfind s.dist.heads q = some h →
    HoldsHead s q h d → r < 64 → CanTake s q h r → (∀ r' < 64, r' ≠ r → ¬ CanTake s q h r') →
    ∃ t, exec (.teamBind owner) s = .next t ∧ BoundOne r q h d s t ∧ tfind t.dist.standing owner = none) ∧
  (∀ r q0 h0 q h d s, r < 64 → distOn s = true → StandsEnabled s → tfind s.dist.standing (getR s r).owner = some q0 →
    tfind s.dist.heads q0 = some h0 → headFits s (qEntry s q0) h0 r = false → CanTake s q h r → HoldsHead s q h d →
    candidates s (getR s r).owner (fun q h => q != q0 && headFits s (qEntry s q) h r) = [(q, h)] →
    ∃ t, exec (.freeRegionBind r) s = .next t ∧ BoundOne r q h d s t ∧ t.dist.standing = s.dist.standing) ∧
  (∀ r s m d, r < 64 → let x := getR s r
    x.team = some m → teamDone s r = true → x.wcb = [] → Published s (dieOf r) (fun _ => False) → findDisp s m.disp = some d →
    (∀ y ∈ s.dist.inflight, y.id = m.disp → y = d) →
    let cause := if d.cause = 0 then (firstCause x.seq.exitCause (waitingCauses x)).getD 0 else d.cause
    let last := decide ((d.rec_.extractLsb' 240 16).toNat ≤ d.retired.length + 1)
    let d' := { d with
      retired := d.retired ++ [m.index], peers := d.peers ++ m.peers, cause := cause,
      ending := if d.ending.isNone && last then some (if cause = 0 then (0, 0) else (5, cause)) else d.ending }
    ∃ t, exec (.teamRetire r) s = .next t ∧ findDisp t m.disp = some d' ∧ (getR t r).team = none ∧ (getR t r).rstate = .free ∧
      (getSeq t r).exiting = false ∧ (∀ k, (getE t k) = getE s k) ∧ OtherRegions r s t ∧ SameMem s t)

/-- R331, R333 to R335: Stoat samples its actors' backlogs; a template is installed on a site, which joins the live set; a drained
instance's site is cleared.
The model's own readings and choices in it: log 24. -/
def Obligations.StoatSteps : Prop :=
  (∀ r s l, r < 64 → let x := getR s r
    x.stoat.actors = some l → acting x = true →
    let b := fun (a : ActorState) =>
      let p := spOf s r ((a.entry.extractLsb' 148 4).toNat)
      let d := ringDesc s (spDie p) (spRing p)
      if spEnabled p = true ∧ spOut p = false then (d.extractLsb' 96 32 - BitVec.ofNat 32 (ringRd d (spCons p))).toNat else 0
    let l' := l.map fun a => { a with
      high := if (a.entry.extractLsb' 112 16).toNat < b a then a.high + 1 else 0,
      low := if b a ≤ (a.entry.extractLsb' 96 16).toNat then a.low + 1 else 0 }
    let counted := setR s r { x with stoat := { x.stoat with actors := some l' } }
    ((∀ a ∈ l', mayGrow counted r a = false ∧ mayShrink (getR counted r) a = false) → Into (.stoatSample r) s counted) ∧
    (∀ a rest st, l' = a :: rest → mayGrow counted r a = true → (freeSites counted r).head? = some st →
      Into (.stoatSample r) s (setR s r { x with
        stoat := { x.stoat with actors := some ({ a with high := 0 } :: rest), grow := some (0, st, x.cycle + 62) } })) ∧
    (∀ a rest, l' = a :: rest → mayGrow counted r a = false → mayShrink (getR counted r) a = true →
      let st := a.live.foldl Nat.max 0
      let n := (a.entry.extractLsb' 148 4).toNat
      let p := tget x.ports n {}
      Into (.stoatSample r) s (setR s r { x with
        ports := tset x.ports n { p with dealLeft := p.dealLeft.filter (· != st) }
        stoat := { x.stoat with
          actors := some ({ a with live := a.live.filter (· != st), low := 0 } :: rest),
          drains := x.stoat.drains ++ [(st, n, false)] } }))) ∧
  (∀ r s j st c l a, r < 64 → st < 20 → let x := getR s r
    x.stoat.grow = some (j, st, c) → x.stoat.actors = some l → l[j]? = some a → c ≤ x.cycle → acting x = true →
    (∀ el < 16, elemFree (getE s (ekey r st el)) = true) →
    ∃ t l', exec (.stoatGrowComplete r) s = .next t ∧ (getR t r).stoat.grow = none ∧ (getR t r).stoat.actors = some l' ∧ l'.length = l.length ∧
      (∀ i, i ≠ j → l'[i]? = l[i]?) ∧ (∃ a', l'[j]? = some a' ∧ ∀ n, n ∈ a'.live ↔ n = st ∨ n ∈ a.live) ∧
      (∀ el < 16, Installed (tmplWords st (tget a.tmpl el [])) .running (getE s (ekey r st el)) (getE t (ekey r st el))) ∧
      OtherRegions r s t ∧ SameMem s t ∧ SameDevice s t) ∧
  (∀ r st s, r < 64 → siteOk (getR s r) st = true → let x := getR s r
    acting x = true → (∃ d ∈ x.stoat.drains, d.1 = st ∧ d.2.2 = true) → (∀ el < 16, elemDrained x (ekey r st el) (getE s (ekey r st el)) = true) →
    ∃ t, exec (.stoatDrainClear r st) s = .next t ∧ (getR t r).stoat.drains = x.stoat.drains.filter (fun d => d.1 != st) ∧
      (∀ el < 16, Installed [] .idle (getE s (ekey r st el)) (getE t (ekey r st el))) ∧ OtherRegions r s t ∧ SameMem s t ∧ SameDevice s t)

namespace Sys2Proof.Claims
open Sys2Proof.Machine

/-! ### Re-striping, cut engines, pre-emption, links, the host, power and start-up -/

/-- The re-stripe engine's job becomes x; nothing else changes. -/
def runs (x : RsRun) (s : State) : State := { s with rsRun := some x }

/-- The step of a unit of region r changes that region only, which becomes x. -/
def RegionBecomes (i : Instr) (r : Nat) (s : State) (x : Region) : Prop := Into i s (setR s r x)

/-- The region begins to stop for a reason (R446, R447). -/
def stopping (x : Region) (reason : BitVec 8) : Region :=
  { x with rstate := .stopping, reason := reason, empty := false, holdFrom := none, drainFrom := none }

/-- SAVEBASE names this device, and the team that runs is not held to its draw boundary. -/
def CanStop (s : State) (x : Region) : Prop :=
  paDevice x.savebase.toNat = s.devid ∧ ((∀ m, x.team = some m → m.draw = false) ∨ x.drawlim = 0)

/-- No agent holds a copy of a line, and its home has nothing to do. -/
structure Uncopied (s : State) (ln : Nat) : Prop where
  lines : ∀ c ∈ s.cisterns, ∀ p ∈ c.2.lines, p.1 ≠ ln
  narrow : ∀ x ∈ s.regions, ∀ w ∈ x.2.wcb, w.line ≠ ln
  entry : ∀ p ∈ s.dir, p.1 ≠ ln
  home : getHome s ln = ⟨[], none⟩

/-- No translation has been read from the lines of an area that engine n writes. -/
def NoSharers (s : State) (n pa len : Nat) : Prop := clearSharers s n pa len = (s, true)

/-- Of the frames of a leaf a well keeps the rows of lines that have their home there under a descriptor (R384, R400). -/
def keptRows (s : State) (l : RsLeaf) (d : BitVec 64) : List (Nat × Nat) :=
  let b := lineNo (ptePa l.pte) / 64
  s.rows.filter fun w => decide (w.2 < b ∨ b + l.size / 4096 ≤ w.2) || (frameLines w.2).any fun ln => (homeOf (64 * ln) d).1 == w.1

/-- n bytes at an address lie in one line, which has no field that no access writes. -/
def Plain (s : State) (pa n : Nat) : Prop := pa % 64 + n ≤ 64 ∧ roBits s (lineNo pa) = 0

/-- A dispatch that can still be ended. -/
def Stoppable (d : Disp) : Prop := d.ending = none ∧ d.early = false

/-- A dispatch has ended for a reason and a cause (R323). -/
def Ended (t : State) (d : Disp) (reason : Nat) (cause : BitVec 8) : Prop :=
  ∃ d', findDisp t d.id = some d' ∧ d'.ending = some (reason, cause)

/-- Every region takes the trap of the next loss that it meets (R456). -/
def LossUntold (s t : State) : Prop := ∀ r, getR t r = { getR s r with lossTold := false }

/-- A request of the host that is answered as it goes out. -/
def answered (s : State) (fn kind pa : Nat) (bs : List Byte) (len : Nat) : State :=
  { s with
    nextHost := s.nextHost + 1
    hostPend := s.hostPend ++ [⟨s.nextHost, fn, kind, [⟨pa, len, some (bs, kind = 0 && (lineBad s (lineNo pa)).isSome)⟩]⟩] }

/-- What a request of one line does in a cistern window at a physical address: a read answers the bytes, a write stores them, an atomic
answers the old value and stores the new one (R465, R466, R474). -/
def WindowServed (i : Instr) (fn pa : Nat) (q : HostReq) (u s : State) : Prop :=
  let d := memLine u.mem (lineNo pa)
  (∀ a n, q = .read a n → 1 ≤ n → pa % 64 + n ≤ 64 → exec i s = .next (answered u fn 0 pa (lineBytes d (pa % 64) n) n)) ∧
  (∀ a bs, q = .write a bs → bs ≠ [] → Plain u pa bs.length →
    ∃ t, exec i s = .next t ∧ MemIs (bytesAt (paLocal pa) bs) u t ∧ { t with mem := u.mem } = answered u fn 1 pa [] bs.length) ∧
  (∀ a z o v c, q = .atomic a z o v c → Plain u pa (atomBytes z) → let x := atomLine d (pa % 64) o z v.toNat c.toNat
    ∃ t, exec i s = .next t ∧ MemIs (maskedLine (lineNo pa) x.1 (BitVec.allOnes 64)) u t ∧
      { t with mem := u.mem } = answered u fn 2 pa (bytesOf (atomBytes z) x.2) (atomBytes z))

/-- The responder answers, and has reached a stage of its connection. -/
def replied (s : State) (v c a : Bool) (x : SpdmReply) : State := { s with spdm := ⟨v, c, a, some x⟩ }

/-- RESULT of VERIFY (R490) for a record of 256 bytes: KEYSLOT is [1922:1920]. -/
def verifyCode (s : State) (b : List Byte) : Nat :=
  let v := leVal b
  let big := fun i => beVal ((b.drop i).take 48)
  let hash := bytesOf 48 (tget s.keyhash (v / 2 ^ 1920 % 8) 0).toNat
  if v / 2 ^ 1923 % 2 ^ 61 ≠ 0 ∨ v / 2 ^ 1985 % 2 ^ 7 ≠ 0 ∨ v / 2 ^ 2000 ≠ 0 then 4
  else if leVal hash = 0 then 3
  else if sha384 ((b.drop 144).take 96) ≠ hash then 2
  else if ecdsaValid (big 0) (big 48) (big 96) (big 144) (big 192) = true then 0 else 1

end Sys2Proof.Claims

/-! # Engines of the package, pre-emption, links, the host, power, start-up -/

/-- R398, R400, R401: the re-stripe engine takes a job, walks its pages, moves a leaf's lines to their new homes, swaps the entry, and
writes the record.
The model's own readings and choices in it: log 24. -/
def Obligations.Restriping : Prop :=
  (∀ s j rest, s.minimal = false → s.rsRun = none → s.rsQueue = j :: rest →
    exec .restripeJob s = .next { s with rsQueue := rest, rsRun := some ⟨j, (j.rec_.extractLsb' 0 57).toNat, 0, none, none⟩ }) ∧
  (∀ s x, s.minimal = false → s.rsRun = some x → x.leaf = none → x.ending = none →
    let d := x.job.rec_
    let va := (d.extractLsb' 0 57).toNat
    let last := va + 4096 * (d.extractLsb' 64 32).toNat
    let asid := (d.extractLsb' 160 16).toNat
    let plc := (d.extractLsb' 128 4).toNat
    let gives := fun u => exec .restripeJob s = .next u
    (last ≤ x.v → gives (runs { x with ending := some (0, 0, 0) } s)) ∧
    (∀ u f, x.v < last → rsWalk s x.v asid = some (u, .error f) →
      ∃ t, gives t ∧ t.rsRun = some { x with ending := some (2, f.cause, f.va) } ∧ SameMem u t ∧ SameElems u t) ∧
    (∀ u l old, x.v < last → rsWalk s x.v asid = some (u, .ok (l, old)) →
      let z := 2 ^ (12 + 9 * (l.lev - 1))
      let base := x.v / z * z
      (base < va ∨ last < base + z → gives (runs { x with ending := some (1, 0, base) } u)) ∧
      (va ≤ base → base + z ≤ last → paDevice (ptePa l.pte) ≠ u.devid → gives (runs { x with ending := some (5, 0, base) } u)) ∧
      (va ≤ base → base + z ≤ last → paDevice (ptePa l.pte) = u.devid → ptePlc l.pte = plc →
        gives (runs { x with donep := x.donep + z / 4096, v := base + z } u)) ∧
      (∀ w new, va ≤ base → base + z ≤ last → paDevice (ptePa l.pte) = u.devid → ptePlc l.pte ≠ plc →
        rsRead u (plcAddr u asid plc) = some (w, new) →
        (plcReserved new = true → gives (runs { x with ending := some (2, 0x08, base) } w)) ∧
        (plcReserved new = false → gives (runs { x with v := base, leaf := some ⟨l.addr, l.pte, z, old, new, 0, 0⟩ } w))))) ∧
  (∀ s x l, s.minimal = false → s.rsRun = some x → x.leaf = some l → x.ending = none → l.copied < l.size / 64 →
    let ln := lineNo (ptePa l.pte) + l.copied
    let page := (getDir s ln).ts ≠ 0 ∨ nonLeafLine s ln = true
    (getHome s ln).tx = none →
    (page → exec .restripeJob s = .next (runs { x with ending := some (4, 0, x.v) } s)) ∧
    (¬ page → homeOf (64 * ln) l.old = homeOf (64 * ln) l.new →
      exec .restripeJob s = .next (runs { x with leaf := some { l with copied := l.copied + 1 } } s)) ∧
    (¬ page → homeOf (64 * ln) l.old ≠ homeOf (64 * ln) l.new → Uncopied s ln →
      ∃ t, exec .restripeJob s = .next t ∧ t.rsRun = some { x with leaf := some { l with copied := l.copied + 1 } } ∧
        tget t.wells ln 0 = (homeOf (64 * ln) l.new).1 ∧ ((homeOf (64 * ln) l.new).1, ln / 64) ∈ t.rows ∧ getDir t ln = {} ∧
        (∀ c < 4, cLine t c ln = none) ∧ SameMem s t ∧ SameElems s t ∧ SameRegions s t)) ∧
  (∀ s x l k rest, s.minimal = false → s.rsRun = some x → x.leaf = some l → x.ending = none → l.copied = l.size / 64 →
    s.acks = k :: rest → k.tag = .engine (2 * 2 ^ 16 + 2 ^ 15) →
    (k.old = l.pte → k.bad = none → exec .restripeJob s = .next { s with
      acks := rest, rows := keptRows s l l.new
      rsRun := some { x with leaf := none, donep := x.donep + l.size / 4096, v := x.v + l.size } }) ∧
    (k.old ≠ l.pte ∨ k.bad ≠ none → exec .restripeJob s = .next { s with acks := rest, rsRun := some { x with ending := some (3, 0, x.v) } })) ∧
  (∀ s x reason cause fva w, s.minimal = false → s.rsRun = some x → x.leaf = none → x.ending = some (reason, cause, fva) →
    paClass s (x.job.pa + 48) = .window w → Plain s (x.job.pa + 48) 16 →
    ∃ t, exec .restripeJobEnd s = .next t ∧ { t with mem := s.mem } = { s with rsRun := none } ∧
      MemIs (bytesAt (paLocal (x.job.pa + 48))
        (bytesOf 16 (1 + cause.toNat * 2 ^ 32 + reason * 2 ^ 24 + x.donep % 2 ^ 24 * 2 ^ 40 + fva % 2 ^ 64 * 2 ^ 64))) s t)

/-- R413, R415 to R417, R420 to R424: a job of a cut engine starts with its checks; an instance is cut; a token goes to its ring; a job with
nothing left ends, writes its arrays and then its record, and leaves.
The model's own readings and choices in it: log 24. -/
def Obligations.CutJobs : Prop :=
  (∀ die s j rest u v, die < 4 → let m := getMarten s die
    m.jobs = j :: rest → j.started = false → (∀ k ∈ rest, k.started = false ∧ k.id ≠ j.id) → mjRead s die j j.addr 128 = some (u, .ok v) →
    let j' := { j with started := true, rec_ := BitVec.ofNat 1024 v }
    let f := j'.rec_
    let becomes := fun (w : State) (k : MJob) => ∃ t, exec (.martenJobStart die) s = .next t ∧
      getMarten t die = { getMarten w die with jobs := k :: rest } ∧ { t with martens := w.martens } = w
    let ring := ringDesc u (f.extractLsb' 32 2).toNat (f.extractLsb' 20 12).toNat
    (jobBad u j' = true → becomes u { j' with ending := some (1, 0, 0) }) ∧
    (jobBad u j' = false → f.extractLsb' 40 2 = 0 → ringNcons ring = 0 ∨ ringPb ring = true ∨ ringOwner ring ≠ j.owner →
      becomes u { j' with ending := some (5, 0, 0) }) ∧
    (∀ w g, jobBad u j' = false → f.extractLsb' 40 2 = 1 → mjRead u die j' (f.extractLsb' 352 64).toNat 64 = some (w, .ok g) →
      let k := { j' with graph := BitVec.ofNat 512 g, pb := false }
      (headerBad k = true → becomes w { j' with pb := false, ending := some (2, 0, 0) }) ∧
      (∀ z pages, headerBad k = false → snapshot die { k with pb := j.pb } (List.range (k.graph.extractLsb' 160 32).toNat) w = some (z, pages) →
        becomes z { k with resident := pages }))) ∧
  (∀ die s id j u toks pages, die < 4 → findJob s die id = some j → j.started = true → j.ending = none →
    j.inst < (j.rec_.extractLsb' 608 24).toNat →
    j.todo.length < (if j.rec_.extractLsb' 40 2 = 0 ∧ j.rec_.getLsbD 39 = true then 2 else 1) →
    (cutTokens die j j.inst).run.run s = some (.ok (toks, pages), u) →
    exec (.martenTokenEmit die id) s = .next (modJob u die j.id fun k => { k with
      inst := k.inst + 1, todo := k.todo ++ toks, requested := k.requested ++ pages.filter fun p => !k.requested.contains p })) ∧
  (∀ die s id j pay part rest, die < 4 → findJob s die id = some j → j.started = true → j.todo = (pay, part) :: rest →
    (moreInst j = true → j.rec_.getLsbD 39 = true → rest ≠ []) →
    jobTurn s die = some id → j.rec_.extractLsb' 40 2 = 0 →
    let rd := (j.rec_.extractLsb' 32 2).toNat
    let ring := (j.rec_.extractLsb' 20 12).toNat
    ringRefused j (ringDesc s rd ring) = false → dieFar s die rd = false → s.ringOffset % 64 = 0 →
    let eow := j.rec_.getLsbD 39 && rest == [] && !moreInst j
    let tok : Token := ⟨mkSide 0 0 eow 0 (j.rec_.extractLsb' 34 5).toNat, BitVec.ofNat 128 pay⟩
    ∃ t, exec (.martenTokenEmit die id) s = .next t ∧ MemIs (ringPushed s rd ring tok) s t ∧
      { t with mem := s.mem, martens := s.martens } = s ∧ (∀ d, d ≠ die → getMarten t d = getMarten s d) ∧
      getMarten t die = { getMarten s die with
        lastEmit := id
        jobs := (getMarten s die).jobs.map fun k => if k.id = id then { k with todo := k.todo.drop 1, ntok := k.ntok + 1 } else k }) ∧
  (∀ die s id j, die < 4 → findJob s die id = some j → let becomes := fun (u t : State) (f : MJob → MJob) =>
      { t with mem := u.mem, martens := u.martens } = u ∧ getMarten t die = { getMarten u die with
        jobs := (getMarten u die).jobs.map fun k => if k.id = id then f k else k }
    let key := ekey j.region (j.rec_.extractLsb' 58 5).toNat (j.rec_.extractLsb' 54 4).toNat
    let off := 16 * (j.rec_.extractLsb' 42 12).toNat
    (j.written = false → j.started = true → moreInst j = false → j.todo = [] →
      (j.ending = none → exec (.martenJobEnd die id) s = .next (modJob s die id fun k => { k with ending := some (0, 0, 0) })) ∧
      (∀ u x w pa, j.ending ≠ none → j.pb = false → u.d2dFailed = [] → paClass u pa = .window w →
        (∀ a v, (endWrites j)[j.stage]? = some (a, v) → mjXlat s die j a 1 = some (u, .ok x) → x.pa + (a - x.va) = pa → Plain u pa 4 →
          ∃ t, exec (.martenJobEnd die id) s = .next t ∧ MemIs (bytesAt (paLocal pa) (bytesOf 4 v)) u t ∧
            becomes u t fun k => { k with stage := k.stage + 1 }) ∧
        ((endWrites j).length ≤ j.stage → mjXlat s die j (j.addr + 108) 1 = some (u, .ok x) → x.pa + (j.addr + 108 - x.va) = pa → Plain u pa 20 →
          ∃ t, exec (.martenJobEnd die id) s = .next t ∧ MemIs (bytesAt (paLocal pa) (jobResult j)) u t ∧
            becomes u t fun k => { k with written := true }))) ∧
    (j.written = true → j.rec_.getLsbD 63 = false → exec (.martenJobEnd die id) s = .next (dropJob s die j.id)) ∧
    (j.written = true → j.rec_.getLsbD 63 = true → (∀ e, j.ending = some e → e.1 ≠ 1) → ownerOf (getR s j.region) = j.owner →
      off < spadSize (getR s j.region) → ¬ inSeal (getE s key) off → portFree s key martenPortNo = true →
      updAhead s key off (.marten die j.id) = false → ∀ z, barrierUpdate (getE s key) off 1 0 = .applied z →
      ∃ z', PortServed z z' ∧ exec (.martenJobEnd die id) s = .next (dropJob (setE s key z') die j.id)))

/-- R444 to R447, R449, R479: the commands of PRCMD, and what else asks a region to stop.
The model's own readings and choices in it: log 23. -/
def Obligations.PreemptionRequests : Prop :=
  (∀ r s, r < 64 → let x := getR s r
    (x.rstate = .free → paDevice x.savebase.toNat = s.devid → RegionBecomes (.prcmdPreempt r) r s { x with empty := true }) ∧
    (x.rstate = .running → CanStop s x → RegionBecomes (.prcmdPreempt r) r s (stopping x 0x12)) ∧
    (x.rstate = .running → paDevice x.savebase.toNat = s.devid → (∃ m, x.team = some m ∧ m.draw = true) → x.drawlim ≠ 0 →
      RegionBecomes (.prcmdPreempt r) r s { x with rstate := .holding, reason := 0x12, empty := false, holdFrom := some s.time }) ∧
    ((x.rstate ≠ .free ∧ x.rstate ≠ .running) ∨ paDevice x.savebase.toNat ≠ s.devid → RegionBecomes (.prcmdPreempt r) r s { x with rej := true }) ∧
    (x.rstate = .free ∨ x.rstate = .saved ∨ x.rstate = .reserved → RegionBecomes (.prcmdRestore r) r s { x with rstate := .restoring }) ∧
    (x.rstate ≠ .free → x.rstate ≠ .saved → x.rstate ≠ .reserved → RegionBecomes (.prcmdRestore r) r s { x with rej := true }) ∧
    (x.rstate = .saved → ∃ t, exec (.prcmdRelease r) s = .next t ∧ (getR t r).rstate = .free ∧ (getR t r).team = none ∧ OtherRegions r s t ∧
      ∀ st el, st < 20 → el < 16 → (getE t (ekey r st el)).st = .idle ∧ (getE t (ekey r st el)).slots = [] ∧ (getE t (ekey r st el)).queues = []) ∧
    (x.rstate = .reserved → RegionBecomes (.prcmdRelease r) r s { x with rstate := .free }) ∧
    (x.rstate ≠ .saved → x.rstate ≠ .reserved → RegionBecomes (.prcmdRelease r) r s { x with rej := true }) ∧
    (x.rstate = .free → RegionBecomes (.prcmdReserve r) r s { x with rstate := .reserved }) ∧
    (x.rstate ≠ .free → RegionBecomes (.prcmdReserve r) r s { x with rej := true }) ∧
    (∀ t0, x.drainFrom = some t0 → t0 + x.drainlim * 1000 ≤ s.time → (x.rstate = .running ∨ x.rstate = .holding) →
      paDevice x.savebase.toNat = s.devid → RegionBecomes (.drainTimerExpire r) r s (stopping x 0x13)) ∧
    (∀ t0, x.rstate = .holding → x.holdFrom = some t0 → t0 + x.drawlim * 1000 ≤ s.time →
      RegionBecomes (.drawlimExpire r) r s (stopping x x.reason))) ∧
  (∀ s k, k < 64 → let r := (s.emergRegion + k) % 64
    (∀ i < k, (getR s ((s.emergRegion + i) % 64)).rstate ≠ .running) → (getR s r).rstate = .running → CanStop s (getR s r) →
    ((∀ t0, s.emergAt = some t0 → t0 + 10000 ≤ s.time) →
      Into .powerEmergency s (setR { s with emergAt := some s.time, emergRegion := (r + 1) % 64 } r (stopping (getR s r) 0x14))) ∧
    (∀ t0, s.emergAt = some t0 → s.time < t0 + 10000 → exec .powerEmergency s = .next s))

/-- R120, R447, R450, R451, R453: a region whose units have stopped is saved, and a saved team is restored.
The model's own readings and choices in it: logs 15 and 23. -/
def Obligations.SaveAndRestore : Prop :=
  (∀ r s, r < 64 → let x := getR s r
    x.rstate = .stopping → x.seq.asked = false →
    (∀ st el, siteOk x st = true → el < 16 → (getE s (ekey r st el)).st ≠ .running ∨ (getE s (ekey r st el)).busy ≤ x.cycle) →
    ∃ t, exec (.regionHalted r) s = .next t ∧ SameMem s t ∧ SameDevice s t ∧ OtherRegions r s t ∧
      getR t r = { x with rstate := .saving, seq := { dropWait x.seq with exiting := false } } ∧
      ∀ k, let e := getE s k
        getE t k = if keyRegion k = r ∧ (e.st = .running ∨ e.st = .draining ∨ e.st = .reconfiguring) then { e with st := .frozen, frozen := e.st } else e) ∧
  (∀ r s m, r < 64 → (getR s r).rstate = .saving → (getR s r).team = some m → settled s r = true → (getR s r).wcb = [] →
    Published s (r / 16) (fun _ => False) → NoSharers s (64 + r) (getR s r).savebase.toNat 0x018F0000 →
    ∃ t v, exec (.saveComplete r) s = .next t ∧ t.saves = s.saves ++ [v] ∧ v.region0 = r ∧ v.region.team = some m ∧
      v.header.extractLsb' 0 192 = BitVec.ofNat 192 (1 + 2 ^ 16 + 0x4C535631 * 2 ^ 32 + 0x018F0000 * 2 ^ 64 + s.time % 2 ^ 64 * 2 ^ 128) ∧
      (getR t r).rstate = .saved ∧ (getR t r).team = some m ∧ (getR t r).ports = [] ∧
      ∀ st el, st < 20 → el < 16 → (getE t (ekey r st el)).st = .idle ∧ (getE t (ekey r st el)).slots = [] ∧ (getE t (ekey r st el)).queues = []) ∧
  (∀ r s u c, r < 64 → (getR s r).rstate = .restoring → (getR s r).team = none → let base := (getR s r).savebase.toNat
    areaSync s base 0x018F0000 = (s, true) → restoreCheck s r base = some (u, .error c) →
    Into (.restoreComplete r) s (setR u r { getR u r with rstate := .free, rerr := c })) ∧
  (∀ r s u v loads, r < 64 → (getR s r).rstate = .restoring → let base := (getR s r).savebase.toNat
    areaSync s base 0x018F0000 = (s, true) → restoreCheck s r base = some (u, .ok (v, loads)) → NoSharers u (64 + r) base 64 →
    let dw := fun i => BitVec.ofNat 64 (homeVal u (base + 0x1000 + 8 * i) 8)
    ∃ t, exec (.restoreComplete r) s = .next t ∧ (getR t r).rstate = .running ∧ (getR t r).rerr = 0 ∧ (getR t r).team = v.region.team ∧
      (getSeq t r).pc = pcOf (dw 0) ∧ (getSeq t r).sup = (dw 1).getLsbD 0 ∧
      (∀ n, 1 ≤ n → n < 32 → getS (getSeq t r) (BitVec.ofNat 5 n) = dw (2 + n)) ∧
      t.saves = u.saves.filter fun w => w.header != v.header)

/-- R374, R455, R456, R470, R471, R473: flits, replays, time-outs and retraining of a Swiravy port; a peer that is lost; a die-to-die fabric
that fails.
The model's own readings and choices in it: logs 17, 19 and 25. -/
def Obligations.LinkSteps : Prop :=
  (∀ p s, p < 18 → let x := tget s.links p {}
    let becomes := fun y => { s with links := tset s.links p y }
    (x.st ≠ .up → ∀ ok q, exec (.flitReceive p ok q) s = .next s) ∧
    (x.st = .up → ∀ q, exec (.flitReceive p false q) s = .next (becomes { x with lastFlit := s.time })) ∧
    (x.st = .up → exec (.flitReceive p true .idle) s = .next (becomes { x with lastFlit := s.time, inRow := 0 })) ∧
    (x.st = .up → s.lostPeers.contains x.peerDev = false → x.peerDev ≠ s.devid → ∀ pa plc, paClass s pa = .gddr →
      ∃ t q, exec (.flitReceive p true (.read pa plc)) s = .next t ∧ getHome t (lineNo pa) = { getHome s (lineNo pa) with
        reqs := (getHome s (lineNo pa)).reqs ++ [q] } ∧ q.kind = .rds ∧ q.agent = 32 + x.peerDev ∧ q.uncached = false ∧ SameMem s t ∧
        (inWindow s (lineNo pa) = false → tfind t.wells (lineNo pa) = some (homeOf pa plc).1)) ∧
    (x.st = .up → x.inRow < 32 → exec (.flitReplay p) s = .next (becomes { x with inRow := x.inRow + 1, replay := (x.replay + 1) % 2 ^ 32 })) ∧
    (x.st = .up → 32 ≤ x.inRow → exec (.flitReplay p) s = .next (becomes { x with st := .failed, lanes := 0 })) ∧
    (exec (.portReceiveTimeout p) s =
      .next (if x.st = .up ∧ x.lastFlit + 100000 ≤ s.time then becomes { x with st := .failed, lanes := 0 } else s)) ∧
    (x.st = .up → exec (.portRetrain p) s = .next (becomes { x with lanes := 4 })) ∧
    (x.st = .down ∨ x.st = .training → ∃ d n, d < 32 ∧ n < 18 ∧ exec (.portRetrain p) s = .next (becomes { x with
      st := .up, lanes := 8, peerDev := d, peerPort := n, lastFlit := s.time, inRow := 0, everUp := true }))) ∧
  (∀ d s, d < 32 → s.lostPeers.contains d = false → (∃ x ∈ routePorts s d, x.everUp = true) →
    (∀ x ∈ routePorts s d, x.st = .down ∨ x.st = .failed) →
    ((∀ ln, getHome s ln = ⟨[], none⟩) → (∀ x ∈ s.dist.inflight, ¬ Stoppable x) →
      ∃ t, exec (.peerLost d) s = .next t ∧ t.lostPeers = s.lostPeers ++ [d] ∧ LossUntold s t ∧ SameElems s t ∧ SameMem s t ∧
        (∀ ln, getDir t ln = (getDir s ln).dropHolder (32 + d) ∨ (getDir s ln).ps.getLsbD d = false) ∧
        (∀ ln, (getDir s ln).ps.getLsbD d = true → (getDir s ln).st = .modified → (getDir s ln).own = 32 + d → ln ∈ t.poison)) ∧
    (∃ t, exec (.peerLost d) s = .next t ∧ ∀ x ∈ s.dist.inflight, Stoppable x → x.peers.contains d = true → Ended t x 4 0x0C)) ∧
  (∀ f s, f < 4 → s.d2dFailed.contains f = false → ∃ t, exec (.dieLinkFail f) s = .next t ∧ t.d2dFailed = s.d2dFailed ++ [f] ∧
    (∀ x a b m n, x ∈ s.dist.inflight → Stoppable x → (getR s a).team = some m → (getR s b).team = some n → m.disp = x.id → n.disp = x.id →
      (dieRoute (a / 16) (b / 16)).contains f = true → Ended t x 4 0x0C) ∧
    ((∀ ln, getHome s ln = ⟨[], none⟩) → (∀ x ∈ s.dist.inflight, ¬ Stoppable x) → LossUntold s t ∧ SameElems s t ∧ SameMem s t ∧
      ∀ p ∈ s.dir, peerLine p.1 = false → ∀ c < 4, dieFar t c (wellOf s p.1 / 2) = true → cLine t c p.1 = none))

/-- R24, R465 to R469, R474: what the host and the virtual functions ask of the device that bridges to the host; other devices' endpoints
take nothing. The model's own readings and choices in it: logs 7 and 25. -/
def Obligations.HostSteps : Prop :=
  (∀ s fn, s.bridge = false → (∀ q, exec (.hostRequest q) s = .next s) ∧
    (1 ≤ fn → fn ≤ 64 → (∀ q, exec (.vfWindowRequest fn q) s = .next s) ∧ ∀ off w, exec (.doorbellWrite fn off w) s = .next s)) ∧
  (∀ fn q w s, s.bridge = true → 1 ≤ fn → fn ≤ 64 → q < 256 → AtHome s (qAddr s q) 64 → let e := qEntry s q
    (tget s.vfcfg fn 0).getLsbD 63 = true → e.extractLsb' 0 7 = BitVec.ofNat 7 fn → e.getLsbD 31 = true → s.minimal = false →
    (TableInMem s → heldLines s (qAddr s q) 64 = [] → (∀ h ∈ s.hostPend, h.fn = fn → h.kind ≠ 1) →
      ∃ t, exec (.doorbellWrite fn (256 * q) w) s = .next t ∧ MemIs (bytesAt (s.qTable + 64 * q + 24) (word4 w.toNat)) s t ∧
        SameElems s t ∧ SameRegions s t) ∧
    exec (.vfWindowRequest fn (.bar0Read fn (256 * q + 8))) s =
      .next { s with hostReplies := s.hostReplies ++ [(fn, .data (bytesOf 4 (e.extractLsb' 224 32).toNat) false)] }) ∧
  (∀ fn off w s, s.bridge = true → 1 ≤ fn → fn ≤ 64 → ((tget s.vfcfg fn 0).getLsbD 63 = false ∨ off % 256 ≠ 0 ∨ 65536 ≤ off) →
    AtHome s (qAddr s (off / 256)) 64 → exec (.doorbellWrite fn off w) s = .next (hostRefuse s fn true off)) ∧
  (∀ fn s q, s.bridge = true → 1 ≤ fn → fn ≤ 64 → (∀ f o, q ≠ .bar0Read f o) → let c := tget s.vfcfg fn 0
    let len := 2 ^ (20 + Nat.min 16 (c.extractLsb' 16 5).toNat)
    let a := hostAddr q
    (c.getLsbD 63 = false ∨ len < a + hostLen q → exec (.vfWindowRequest fn q) s = .next (hostRefuse s fn (hostKind q == 1) a)) ∧
    (∀ u x w, c.getLsbD 63 = true → s.minimal = false → a + hostLen q ≤ len → a % 64 + hostLen q ≤ 64 →
      engineXlat s 0 a ⟨(c.extractLsb' 0 16).toNat, fn, true, hostKind q, false, false⟩ = some (u, .ok x) →
      let pa := x.pa + (a - x.va)
      paClass u pa = .window w → pa % 64 = a % 64 → AtHome u pa (hostLen q) → WindowServed (.vfWindowRequest fn q) fn pa q u s)) ∧
  (∀ s q w, s.bridge = true → s.minimal = false → (∀ f o, q ≠ .bar0Read f o) → hostAddr q % 64 + hostLen q ≤ 64 →
    paClass s (hostAddr q) = .window w → AtHome s (hostAddr q) (hostLen q) → WindowServed (.hostRequest q) 0 (hostAddr q) q s s) ∧
  (∀ s a n, s.bridge = true → 1 ≤ n → a % 64 + n ≤ 64 → paClass s a = .reserved →
    exec (.hostRequest (.read a n)) s = .next (hostRefuse s 0 false a)) ∧
  (∀ s fn, 1 ≤ fn → fn ≤ 64 → ∃ t, exec (.functionLevelReset fn) s = .next t ∧
    (∀ h, h ∈ t.hostPend ↔ h ∈ s.hostPend ∧ h.fn ≠ fn) ∧ (∀ v ∈ t.saves, ∀ m, v.region.team = some m → m.owner ≠ fn) ∧
    ((∀ q < 256, AtHome s (qAddr s q) 64 ∧ qOwner (qEntry s q) ≠ fn) → ∀ d ∈ s.dist.inflight, Stoppable d → d.owner = fn → Ended t d 5 0x07) ∧
    (s.cisterns = [] → s.dir = [] → s.homes = [] → (∀ p ∈ s.regions, p.2.wcb = []) → s.dist.inflight = [] → s.dist.standing = [] → TableInMem s →
      ∀ q < 256, qEntry t q = if qOwner (qEntry s q) = fn then qEntry s q &&& ~~~ ((1 : BitVec 512) <<< 31) else qEntry s q))

/-- R475, R478, R480, R481: refills, budgets, and the back-pressure monitor's window.
The model's own readings and choices in it: log 13. -/
def Obligations.PowerSteps : Prop :=
  (∀ r s etok istep, r < 64 → let x := getR s r
    ((∃ c, c ≠ x.cycle ∧ x.budNext.head? = some (c, etok, istep)) ∨ (x.budNext = [] ∧ etok = x.etok ∧ istep = x.istep)) →
    ∃ t, exec (.powerTokenRefill r) s = .next t ∧ SameMem s t ∧ SameDevice s t ∧ OtherRegions r s t ∧
      (getR t r).etok = etok ∧ (getR t r).istep = istep ∧ (∀ m < 4, (getM t r m) = { getM s r m with credit := istep }) ∧
      (getR t r).point = (let p := x.pointNext.getD x.point; if x.opFix then x.pmax else max x.pmin (min x.pmax p)) ∧
      (getR t r).pointNext = none ∧ (getR t r).seq = x.seq ∧
      (∀ st el, siteOk x st = true → el < 16 → getE t (ekey r st el) =
        { getE s (ekey r st el) with pow := min 256 ((getE s (ekey r st el)).pow + etok) }) ∧
      (∀ k, keyRegion k ≠ r → getE t k = getE s k)) ∧
  (∀ s, (s.lastBudget + 1000000 ≤ s.time → ∃ t, exec .pwrbudRecompute s = .next t ∧ t.lastBudget = s.time ∧ SameMem s t ∧ SameElems s t ∧
      ∀ r < 64, ∃ e i, e ≤ 256 ∧ i ≤ 64 ∧ getR t r = { getR s r with budNext := ((getR s r).cycle, e, i) :: (getR s r).budNext }) ∧
    (s.time < s.lastBudget + 1000000 → exec .pwrbudRecompute s = .next s)) ∧
  (∀ r s, r < 64 → let x := getR s r
    let p := x.pointNext.getD x.point
    let q := if 8192 ≤ x.bpHeld ∨ 8192 ≤ x.bpStarve then p - 1 else if x.bpHeld < 2048 ∧ x.bpStarve < 2048 then p + 1 else p
    RegionBecomes (.backpressureWindowEnd r) r s
      { x with pointNext := some (if x.opFix then x.pmax else max x.pmin (min x.pmax q)), bpHeld := 0, bpStarve := 0 })

/-- R486 to R491: a start, its failures, the root of trust's VERIFY, and the SPDM responder.
The model's own readings and choices in it: logs 2, 16 and 26. -/
def Obligations.StartAndTrust : Prop :=
  (∀ s t0, s.goodBy = some t0 → exec .goodTimeout s = .next (if t0 + 10000000000 ≤ s.time then
    { s with fails := min 3 (s.fails + 1), bootReason := 6, goodBy := none } else s)) ∧
  (∀ s host reason, reason ≤ 5 → ∃ t, exec (.deviceReset host reason) s = .next t ∧ t.mem = [] ∧ (∀ k, getE t k = {}) ∧
    (∀ r, getR t r = { ({} : Region) with fused := (getR s r).fused }) ∧ t.saves = [] ∧ t.logWr = 0 ∧ t.dist = {} ∧ t.lostPeers = [] ∧
    t.d2dFailed = [] ∧ t.vfcfg = [] ∧ t.devid = s.devid ∧ tget t.keyhash 0 0 = tget s.keyhash 0 0 ∧
    let minimal := host = false ∧ s.fails = 3
    (reason = 0 → ¬ minimal → t.stage = 4 ∧ t.minimal = false ∧ t.fails = s.fails ∧ t.bootReason = s.bootReason ∧ t.goodBy = some 0) ∧
    (reason ≠ 0 → ¬ minimal → t.stage = (if reason ≤ 3 then 1 else if reason = 4 then 2 else 3) ∧ t.fails = min 3 (s.fails + 1) ∧
      t.bootReason = reason ∧ t.goodBy = none) ∧
    (minimal → (reason = 0 ∨ 3 < reason) → t.stage = 1 ∧ t.minimal = true ∧ t.goodBy = none ∧ t.fails = 3)) ∧
  (∀ s v rest, s.rotQueue = v :: rest →
    (∀ u b, v.result = none → engineRecord s 0 ⟨v.asid, v.owner, false, 0, false, false⟩ v.addr 256 = some (u, .ok b) →
      exec .verifyServe s = .next { u with rotQueue := { v with result := some (verifyCode u b) } :: rest }) ∧
    (∀ u f, v.result = none → engineRecord s 0 ⟨v.asid, v.owner, false, 0, false, false⟩ v.addr 256 = some (u, .error f) →
      ∃ t, exec .verifyServe s = .next t ∧ t.rotQueue = { v with result := some 5 } :: rest ∧ SameMem u t ∧ SameElems u t) ∧
    (∀ n u x w, v.result = some n → engineXlat s 0 (v.addr + 248) ⟨v.asid, v.owner, false, 1, false, false⟩ = some (u, .ok x) →
      let pa := x.pa + (v.addr + 248 - x.va)
      paClass u pa = .window w → Plain u pa 8 → ∃ t, exec .verifyServe s = .next t ∧ { t with mem := u.mem } = { u with rotQueue := rest } ∧
        MemIs (bytesAt (paLocal pa) [1, BitVec.ofNat 8 n, 0, 0, 0, 0, 0, 0]) u t)) ∧
  (∀ s, let x := s.spdm
    exec .getVersion s = .next (replied s true false false (.version 1 3)) ∧
    (exec .getCapabilities s = .next (if x.version then replied s true true x.algs (.capabilities true true true false)
      else replied s false x.caps x.algs .unexpectedRequest)) ∧
    (exec .negotiateAlgorithms s = .next (if x.caps then replied s x.version true true (.algorithms true true)
      else replied s x.version false x.algs .unexpectedRequest)) ∧
    (x.algs = true → ∃ t, exec .getDigests s = .next t ∧ (∃ b, t.spdm = { x with reply := some (.digests b) } ∧ b.length = 48) ∧ { t with spdm := x, free := s.free } = s) ∧
    (x.algs = true → ∃ t, exec .getCertificate s = .next t ∧ (∃ b, t.spdm = { x with reply := some (.certificate b) }) ∧ { t with spdm := x, free := s.free } = s) ∧
    (x.algs = true → ∃ t, exec .challenge s = .next t ∧ (∃ b, t.spdm = { x with reply := some (.challengeAuth b) }) ∧ { t with spdm := x, free := s.free } = s) ∧
    (∀ i, x.algs = true → ∃ t, exec (.getMeasurements i) s = .next t ∧ { t with spdm := x, free := s.free } = s ∧
      (1 ≤ i → i ≤ 4 → ∃ b, t.spdm = { x with reply := some (.measurement i b) } ∧ b.length = 48) ∧
      (i = 5 → t.spdm = { x with reply := some (.measurement 5 (bytesOf 8 s.bootMeasured)) }) ∧
      (i = 0 ∨ 5 < i → t.spdm = { x with reply := some .unexpectedRequest })) ∧
    (x.algs = false → ∀ i ∈ [Instr.getDigests, .getCertificate, .challenge, .getMeasurements 5],
      exec i s = .next { s with spdm := { x with reply := some .unexpectedRequest } }))

namespace Sys2Proof.Claims
open Sys2Proof.Machine

/-! ### Steps, decoding and invariants -/

/-- The word at PC of sequencer r is in its instruction cache, in a permitted line of a page whose translation is at hand, and decodes
to i; no trap is due. -/
structure Resident (s : State) (r : Nat) (i : Instr) : Prop where
  turn : s.turn = .seq r
  full : s.minimal = false
  region : r < 64
  acts : seqActs (getR s r) = true
  quiet : trapDue (getR s r) = false
  live : (getSeq s r).exiting = false
  permit : ∃ p ∈ (getSeq s r).permits, p.1 = (getSeq s r).pc.toNat / 64
  word : ∃ x c, seqUse (focusSeq s r) r (getSeq s r).pc.toNat 3 = .ok (focusSeq s r) x ∧
    (getSeq s r).icache.find? (fun c => c.line == (x.pa + ((getSeq s r).pc.toNat - x.va)) / 64) = some c ∧
    i = decodeSeqBytes (lineBytes c.data ((x.pa + ((getSeq s r).pc.toNat - x.va)) % 64) 4)

/-- The element may fire; slot n holds a word that decodes to i, and every lower slot is empty. -/
structure Picks (s : State) (r st el n : Nat) (i : Instr) : Prop where
  turn : s.turn = .elem r st el
  full : s.minimal = false
  unit : elemOk s r st el = true
  pick : canPick s (ekey r st el) = true
  slot : n < 16
  word : decodeElem (tget (getE s (ekey r st el)).slots n 0) = some i
  lower : ∀ m, m < n → (tget (getE s (ekey r st el)).slots m 0).getLsbD 63 = false

/-- Bits [1:0] and [63:57] of an address are 0. -/
def PcBits (v : BitVec 64) : Prop := v.extractLsb' 0 2 = 0 ∧ v.extractLsb' 57 7 = 0

/-- PC, TPC, TVEC and RTENTRY of every sequencer hold 0 in bits [1:0] and [63:57]. -/
def PcOk (s : State) : Prop :=
  ∀ r, PcBits (getSeq s r).pc ∧ PcBits (getSeq s r).tpc ∧ PcBits (getSeq s r).tvec ∧ PcBits (getSeq s r).rtentry

/-- The byte memory and every scratchpad are in the canonical form. -/
def MemoriesOk (s : State) : Prop := s.MemOk ∧ ∀ k, Memory.wf (getE s k).spad = true

/-- Words of the spec's examples and of its encoding tables, with their instructions. -/
def seqWords : List (BitVec 32 × Instr) :=
  [(0x00642800, .seqAdd 3 4 5), (0x5020FFFD, .bne 1 0 (-3)), (0x0464FFF8, .seqAddi 3 4 (-8)), (0x7C000000, .tret),
   (0x78000005, .seqTrap 5), (0x78008003, .seqBkpt 3), (0x4800000B, .seqFenceRel 3), (0x48000011, .seqFenceAcq 1),
   (0xD0000000, .illegalInstruction 0x01), (0xFC000001, .instructionFetchFault 0x03)]

/-- The header with the default guard and class, one beat. -/
def plainHdr (ty : LaneTy) : Hdr := ⟨0, 0, 0, none, .normal, ty, none, false, .x1⟩

/-- Slot words of the spec's examples. -/
def slotWords : List (BitVec 64 × Instr) :=
  [(0x803810E000000000, .halt (plainHdr .b)), (0x8038182451031C00, .lfun (plainHdr .h) (.f 5) (.f 4) (.f 3) 7),
   (0x80381DE000010180, .fenceRel (plainHdr .b) .pkg), (0x80381DE000020080, .fenceAcq (plainHdr .b) .reg),
   (0x80381DE000000180, .fenceFull (plainHdr .b) .pkg)]

end Sys2Proof.Claims

/-! # The whole device -/

/-- R89, R101, R102, R285: a step of a sequencer runs the instruction whose bytes lie at PC; a step of an element fires the ready slot of the
lowest number; a step of a unit runs that unit; after each, the free schedule (log 3) names the next agent. R33: in minimal mode only time
moves and the bridge, the management controller and the root of trust act (log 26). -/
def Obligations.StepRuns : Prop :=
  (∀ s r i, Resident s r i → step s = thenAdvance (exec i (focusSeq s r))) ∧
  (∀ s r st el n i u, Picks s r st el n i → exec i (focusSlot s r st el n) = .next u →
    ((getE u (ekey r st el)).busy ≠ (getE s (ekey r st el)).busy ∨ (getE u (ekey r st el)).st ≠ .running) → step s = .next (advance u)) ∧
  (∀ s i, s.turn = .event i → isUnitStep i = true → (s.minimal = false ∨ worksMinimal i = true) → step s = thenAdvance (exec i s)) ∧
  (∀ s r, s.turn = .seq r → seqActs (getR s r) = false → ∃ t, step s = .next t ∧ SameElems s t ∧ SameRegions s t ∧ SameMem s t) ∧
  (∀ s, s.minimal = true → s.turn ≠ .time → (∀ i, s.turn = .event i → worksMinimal i = false) → step s = .next (advance s)) ∧
  (∀ t, thenAdvance (.next t) = .next { t with turn := Config.schedule t.moves, moves := t.moves + 1 })

/-- R7, R120, R444, R446, R449, R463, R475, R478, R480, R486: what reset leaves where the spec gives a value, and the invariants hold there.
The model's own readings and choices in it: logs 1 and 2. -/
def Obligations.ResetState : Prop :=
  let s := State.reset
  (∀ r, (getR s r).rstate = .free ∧ (getR s r).team = none ∧ (getR s r).owner = 0 ∧ (getR s r).drainlim = 100 ∧ (getR s r).drawlim = 2000 ∧
    (getR s r).etok = 256 ∧ (getR s r).pmax = 15 ∧ (getR s r).pmin = 3 ∧ (getR s r).point = 15 ∧ (getR s r).etq = [] ∧ (getR s r).faultq = []) ∧
  (∀ k, (getE s k).st = .idle ∧ (getE s k).slots = [] ∧ (getE s k).trapRec = none) ∧
  (∀ ln, getDir s ln = {} ∧ getHome s ln = ⟨[], none⟩) ∧ s.stage = 4 ∧ s.fails = 0 ∧ s.bootReason = 0 ∧ s.minimal = false ∧ s.keylock = 0 ∧
  s.logcfg = 0 ∧ s.logWr = 0 ∧ s.logRd = 0 ∧ s.gwint = 10 ∧ s.lostPeers = [] ∧ s.d2dFailed = [] ∧ PcOk s ∧ MemoriesOk s

/-- R75 to R91: words of the spec's examples decode to the instructions that they stand for. -/
def Obligations.DecodeWords : Prop :=
  (∀ p ∈ seqWords, decode (.seq p.1) = some p.2) ∧ (∀ p ∈ slotWords, decode (.elem p.1) = some p.2) ∧ decode (.elem 0) = none

/-- R63, R65 to R75, R80 to R91: decoding the word of a well-formed instruction gives it back, with every operand; a slot word that
decodes to an instruction is that instruction's word, so that no bit of it is dropped. -/
def Obligations.EncodeThenDecode : Prop :=
  (∀ i c, i.wf = true → encode i = some c → decode c = some i) ∧
  (∀ w i, decode (.elem w) = some i → (∃ c, i = .faultySlotFire c) ∨ (i.wf = true ∧ encode i = some (.elem w)))

/-- R281: every step keeps bits [1:0] and [63:57] of PC, and of what PC is loaded from, at 0. -/
def Obligations.PcInvariant : Prop := ∀ s t, PcOk s → step s = .next t → PcOk t

/-- The canonical form of the byte memory and of every scratchpad is kept by every step (the model's own form of memory: no rule).
The model's own readings and choices in it: log 2. -/
def Obligations.MemoryInvariant : Prop := ∀ s t, MemoriesOk s → step s = .next t → MemoriesOk t
end

