-- ==== Sys2Proof/Laws/Dispatch.lean ====
section
/-!
SUPPORT. Laws/Dispatch.lean: what `exec` calls for each instruction, one equation for each constructor, so that no proof unfolds
the dispatch.
-/
namespace Sys2Proof.Machine

theorem exec_nop (h : Hdr) (σ : State) : exec (.nop h) σ = execNop h σ := rfl
theorem exec_mov (h : Hdr) (d : Opnd) (a : Opnd) (σ : State) : exec (.mov h d a) σ = execMov h d a σ := rfl
theorem exec_movi (h : Hdr) (d : Opnd) (imm : BitVec 12) (σ : State) : exec (.movi h d imm) σ = execMovi h d imm σ := rfl
theorem exec_movhi (h : Hdr) (d : Opnd) (a : Opnd) (imm : BitVec 12) (σ : State) : exec (.movhi h d a imm) σ = execMovhi h d a imm σ := rfl
theorem exec_sel (h : Hdr) (d : Opnd) (a : Opnd) (b : Opnd) (c : Opnd) (σ : State) : exec (.sel h d a b c) σ = execSel h d a b c σ := rfl
theorem exec_pset (h : Hdr) (a : Opnd) (σ : State) : exec (.pset h a) σ = execPset h a σ := rfl
theorem exec_tags (h : Hdr) (d : Opnd) (vc : BitVec 5) (ctx : BitVec 2) (σ : State) : exec (.tags h d vc ctx) σ = execTags h d vc ctx σ := rfl
theorem exec_halt (h : Hdr) (σ : State) : exec (.halt h) σ = execHalt h σ := rfl
theorem exec_send (h : Hdr) (d : Opnd) (a : Opnd) (eow : Bool) (vc : BitVec 5) (ctx : BitVec 2) (σ : State) : exec (.send h d a eow vc ctx) σ = execSend h d a eow vc ctx σ := rfl
theorem exec_sendo (h : Hdr) (d : Opnd) (a : Opnd) (eow : Bool) (vc : BitVec 5) (sc : Scope) (ctx : BitVec 2) (σ : State) : exec (.sendo h d a eow vc sc ctx) σ = execSendo h d a eow vc sc ctx σ := rfl
theorem exec_drop (h : Hdr) (a : Opnd) (σ : State) : exec (.drop h a) σ = execDrop h a σ := rfl
theorem exec_relay (h : Hdr) (d : Opnd) (a : Opnd) (σ : State) : exec (.relay h d a) σ = execRelay h d a σ := rfl
theorem exec_lcnt (h : Hdr) (d : Opnd) (a : Opnd) (σ : State) : exec (.lcnt h d a) σ = execLcnt h d a σ := rfl
theorem exec_ftset (h : Hdr) (a : Opnd) (fmt : BitVec 5) (vc : BitVec 5) (σ : State) : exec (.ftset h a fmt vc) σ = execFtset h a fmt vc σ := rfl
theorem exec_arrive (h : Hdr) (a : Opnd) (off : BitVec 6) (rc : BitVec 3) (ch : BitVec 2) (sc : Scope) (σ : State) : exec (.arrive h a off rc ch sc) σ = execArrive h a off rc ch sc σ := rfl
theorem exec_fevt (h : Hdr) (a : Opnd) (σ : State) : exec (.fevt h a) σ = execFevt h a σ := rfl
theorem exec_add (h : Hdr) (d : Opnd) (a : Opnd) (b : Opnd) (σ : State) : exec (.add h d a b) σ = execAdd h d a b σ := rfl
theorem exec_sub (h : Hdr) (d : Opnd) (a : Opnd) (b : Opnd) (σ : State) : exec (.sub h d a b) σ = execSub h d a b σ := rfl
theorem exec_adds (h : Hdr) (d : Opnd) (a : Opnd) (b : Opnd) (σ : State) : exec (.adds h d a b) σ = execAdds h d a b σ := rfl
theorem exec_subs (h : Hdr) (d : Opnd) (a : Opnd) (b : Opnd) (σ : State) : exec (.subs h d a b) σ = execSubs h d a b σ := rfl
theorem exec_addus (h : Hdr) (d : Opnd) (a : Opnd) (b : Opnd) (σ : State) : exec (.addus h d a b) σ = execAddus h d a b σ := rfl
theorem exec_subus (h : Hdr) (d : Opnd) (a : Opnd) (b : Opnd) (σ : State) : exec (.subus h d a b) σ = execSubus h d a b σ := rfl
theorem exec_mul (h : Hdr) (d : Opnd) (a : Opnd) (b : Opnd) (σ : State) : exec (.mul h d a b) σ = execMul h d a b σ := rfl
theorem exec_mulh (h : Hdr) (d : Opnd) (a : Opnd) (b : Opnd) (σ : State) : exec (.mulh h d a b) σ = execMulh h d a b σ := rfl
theorem exec_mulhu (h : Hdr) (d : Opnd) (a : Opnd) (b : Opnd) (σ : State) : exec (.mulhu h d a b) σ = execMulhu h d a b σ := rfl
theorem exec_mad (h : Hdr) (d : Opnd) (a : Opnd) (b : Opnd) (c : Opnd) (σ : State) : exec (.mad h d a b c) σ = execMad h d a b c σ := rfl
theorem exec_addmin (h : Hdr) (d : Opnd) (a : Opnd) (b : Opnd) (c : Opnd) (σ : State) : exec (.addmin h d a b c) σ = execAddmin h d a b c σ := rfl
theorem exec_addmax (h : Hdr) (d : Opnd) (a : Opnd) (b : Opnd) (c : Opnd) (σ : State) : exec (.addmax h d a b c) σ = execAddmax h d a b c σ := rfl
theorem exec_min (h : Hdr) (d : Opnd) (a : Opnd) (b : Opnd) (σ : State) : exec (.min h d a b) σ = execMin h d a b σ := rfl
theorem exec_max (h : Hdr) (d : Opnd) (a : Opnd) (b : Opnd) (σ : State) : exec (.max h d a b) σ = execMax h d a b σ := rfl
theorem exec_minu (h : Hdr) (d : Opnd) (a : Opnd) (b : Opnd) (σ : State) : exec (.minu h d a b) σ = execMinu h d a b σ := rfl
theorem exec_maxu (h : Hdr) (d : Opnd) (a : Opnd) (b : Opnd) (σ : State) : exec (.maxu h d a b) σ = execMaxu h d a b σ := rfl
theorem exec_absd (h : Hdr) (d : Opnd) (a : Opnd) (b : Opnd) (σ : State) : exec (.absd h d a b) σ = execAbsd h d a b σ := rfl
theorem exec_and (h : Hdr) (d : Opnd) (a : Opnd) (b : Opnd) (σ : State) : exec (.and h d a b) σ = execAnd h d a b σ := rfl
theorem exec_or (h : Hdr) (d : Opnd) (a : Opnd) (b : Opnd) (σ : State) : exec (.or h d a b) σ = execOr h d a b σ := rfl
theorem exec_xor (h : Hdr) (d : Opnd) (a : Opnd) (b : Opnd) (σ : State) : exec (.xor h d a b) σ = execXor h d a b σ := rfl
theorem exec_andn (h : Hdr) (d : Opnd) (a : Opnd) (b : Opnd) (σ : State) : exec (.andn h d a b) σ = execAndn h d a b σ := rfl
theorem exec_shl (h : Hdr) (d : Opnd) (a : Opnd) (b : Opnd) (σ : State) : exec (.shl h d a b) σ = execShl h d a b σ := rfl
theorem exec_shr (h : Hdr) (d : Opnd) (a : Opnd) (b : Opnd) (σ : State) : exec (.shr h d a b) σ = execShr h d a b σ := rfl
theorem exec_sar (h : Hdr) (d : Opnd) (a : Opnd) (b : Opnd) (σ : State) : exec (.sar h d a b) σ = execSar h d a b σ := rfl
theorem exec_rol (h : Hdr) (d : Opnd) (a : Opnd) (b : Opnd) (σ : State) : exec (.rol h d a b) σ = execRol h d a b σ := rfl
theorem exec_popc (h : Hdr) (d : Opnd) (a : Opnd) (σ : State) : exec (.popc h d a) σ = execPopc h d a σ := rfl
theorem exec_clz (h : Hdr) (d : Opnd) (a : Opnd) (σ : State) : exec (.clz h d a) σ = execClz h d a σ := rfl
theorem exec_cmpeq (h : Hdr) (d : Opnd) (a : Opnd) (b : Opnd) (σ : State) : exec (.cmpeq h d a b) σ = execCmpeq h d a b σ := rfl
theorem exec_cmplt (h : Hdr) (d : Opnd) (a : Opnd) (b : Opnd) (σ : State) : exec (.cmplt h d a b) σ = execCmplt h d a b σ := rfl
theorem exec_cmpltu (h : Hdr) (d : Opnd) (a : Opnd) (b : Opnd) (σ : State) : exec (.cmpltu h d a b) σ = execCmpltu h d a b σ := rfl
theorem exec_dot4 (h : Hdr) (d : Opnd) (a : Opnd) (b : Opnd) (c : Opnd) (σ : State) : exec (.dot4 h d a b c) σ = execDot4 h d a b c σ := rfl
theorem exec_sad (h : Hdr) (d : Opnd) (a : Opnd) (b : Opnd) (c : Opnd) (σ : State) : exec (.sad h d a b c) σ = execSad h d a b c σ := rfl
theorem exec_addi (h : Hdr) (d : Opnd) (a : Opnd) (imm : BitVec 12) (σ : State) : exec (.addi h d a imm) σ = execAddi h d a imm σ := rfl
theorem exec_andi (h : Hdr) (d : Opnd) (a : Opnd) (imm : BitVec 12) (σ : State) : exec (.andi h d a imm) σ = execAndi h d a imm σ := rfl
theorem exec_ori (h : Hdr) (d : Opnd) (a : Opnd) (imm : BitVec 12) (σ : State) : exec (.ori h d a imm) σ = execOri h d a imm σ := rfl
theorem exec_xori (h : Hdr) (d : Opnd) (a : Opnd) (imm : BitVec 12) (σ : State) : exec (.xori h d a imm) σ = execXori h d a imm σ := rfl
theorem exec_shli (h : Hdr) (d : Opnd) (a : Opnd) (imm : BitVec 12) (σ : State) : exec (.shli h d a imm) σ = execShli h d a imm σ := rfl
theorem exec_shri (h : Hdr) (d : Opnd) (a : Opnd) (imm : BitVec 12) (σ : State) : exec (.shri h d a imm) σ = execShri h d a imm σ := rfl
theorem exec_sari (h : Hdr) (d : Opnd) (a : Opnd) (imm : BitVec 12) (σ : State) : exec (.sari h d a imm) σ = execSari h d a imm σ := rfl
theorem exec_cmpeqi (h : Hdr) (d : Opnd) (a : Opnd) (imm : BitVec 12) (σ : State) : exec (.cmpeqi h d a imm) σ = execCmpeqi h d a imm σ := rfl
theorem exec_cmplti (h : Hdr) (d : Opnd) (a : Opnd) (imm : BitVec 12) (σ : State) : exec (.cmplti h d a imm) σ = execCmplti h d a imm σ := rfl
theorem exec_ext (h : Hdr) (d : Opnd) (a : Opnd) (pos : BitVec 6) (len : BitVec 6) (σ : State) : exec (.ext h d a pos len) σ = execExt h d a pos len σ := rfl
theorem exec_ins (h : Hdr) (d : Opnd) (a : Opnd) (pos : BitVec 6) (len : BitVec 6) (σ : State) : exec (.ins h d a pos len) σ = execIns h d a pos len σ := rfl
theorem exec_lxor (h : Hdr) (d : Opnd) (a : Opnd) (imm : BitVec 12) (σ : State) : exec (.lxor h d a imm) σ = execLxor h d a imm σ := rfl
theorem exec_lfun (h : Hdr) (d : Opnd) (a : Opnd) (b : Opnd) (imm : BitVec 6) (σ : State) : exec (.lfun h d a b imm) σ = execLfun h d a b imm σ := rfl
theorem exec_lbcst (h : Hdr) (d : Opnd) (a : Opnd) (imm : BitVec 12) (σ : State) : exec (.lbcst h d a imm) σ = execLbcst h d a imm σ := rfl
theorem exec_txch (h : Hdr) (d : Opnd) (a : Opnd) (m : BitVec 4) (σ : State) : exec (.txch h d a m) σ = execTxch h d a m σ := rfl
theorem exec_tbcst (h : Hdr) (d : Opnd) (a : Opnd) (src : BitVec 4) (σ : State) : exec (.tbcst h d a src) σ = execTbcst h d a src σ := rfl
theorem exec_tred (h : Hdr) (d : Opnd) (a : Opnd) (op : BitVec 4) (gm : BitVec 4) (σ : State) : exec (.tred h d a op gm) σ = execTred h d a op gm σ := rfl
theorem exec_lpack (h : Hdr) (d : Opnd) (a : Opnd) (b : Opnd) (σ : State) : exec (.lpack h d a b) σ = execLpack h d a b σ := rfl
theorem exec_lunpk (h : Hdr) (d : Opnd) (a : Opnd) (sx : Bool) (half : Bool) (σ : State) : exec (.lunpk h d a sx half) σ = execLunpk h d a sx half σ := rfl
theorem exec_fadd (h : Hdr) (d : Opnd) (a : Opnd) (b : Opnd) (σ : State) : exec (.fadd h d a b) σ = execFadd h d a b σ := rfl
theorem exec_fsub (h : Hdr) (d : Opnd) (a : Opnd) (b : Opnd) (σ : State) : exec (.fsub h d a b) σ = execFsub h d a b σ := rfl
theorem exec_fmul (h : Hdr) (d : Opnd) (a : Opnd) (b : Opnd) (σ : State) : exec (.fmul h d a b) σ = execFmul h d a b σ := rfl
theorem exec_fma (h : Hdr) (d : Opnd) (a : Opnd) (b : Opnd) (c : Opnd) (σ : State) : exec (.fma h d a b c) σ = execFma h d a b c σ := rfl
theorem exec_fnma (h : Hdr) (d : Opnd) (a : Opnd) (b : Opnd) (c : Opnd) (σ : State) : exec (.fnma h d a b c) σ = execFnma h d a b c σ := rfl
theorem exec_fmin (h : Hdr) (d : Opnd) (a : Opnd) (b : Opnd) (σ : State) : exec (.fmin h d a b) σ = execFmin h d a b σ := rfl
theorem exec_fmax (h : Hdr) (d : Opnd) (a : Opnd) (b : Opnd) (σ : State) : exec (.fmax h d a b) σ = execFmax h d a b σ := rfl
theorem exec_fcmpeq (h : Hdr) (d : Opnd) (a : Opnd) (b : Opnd) (σ : State) : exec (.fcmpeq h d a b) σ = execFcmpeq h d a b σ := rfl
theorem exec_fcmplt (h : Hdr) (d : Opnd) (a : Opnd) (b : Opnd) (σ : State) : exec (.fcmplt h d a b) σ = execFcmplt h d a b σ := rfl
theorem exec_fcmple (h : Hdr) (d : Opnd) (a : Opnd) (b : Opnd) (σ : State) : exec (.fcmple h d a b) σ = execFcmple h d a b σ := rfl
theorem exec_fsgn (h : Hdr) (d : Opnd) (a : Opnd) (b : Opnd) (σ : State) : exec (.fsgn h d a b) σ = execFsgn h d a b σ := rfl
theorem exec_frcp (h : Hdr) (d : Opnd) (a : Opnd) (σ : State) : exec (.frcp h d a) σ = execFrcp h d a σ := rfl
theorem exec_frsq (h : Hdr) (d : Opnd) (a : Opnd) (σ : State) : exec (.frsq h d a) σ = execFrsq h d a σ := rfl
theorem exec_fexp2 (h : Hdr) (d : Opnd) (a : Opnd) (σ : State) : exec (.fexp2 h d a) σ = execFexp2 h d a σ := rfl
theorem exec_flog2 (h : Hdr) (d : Opnd) (a : Opnd) (σ : State) : exec (.flog2 h d a) σ = execFlog2 h d a σ := rfl
theorem exec_fsin (h : Hdr) (d : Opnd) (a : Opnd) (σ : State) : exec (.fsin h d a) σ = execFsin h d a σ := rfl
theorem exec_fcos (h : Hdr) (d : Opnd) (a : Opnd) (σ : State) : exec (.fcos h d a) σ = execFcos h d a σ := rfl
theorem exec_frnd (h : Hdr) (d : Opnd) (a : Opnd) (rm : BitVec 3) (σ : State) : exec (.frnd h d a rm) σ = execFrnd h d a rm σ := rfl
theorem exec_fdot2 (h : Hdr) (d : Opnd) (a : Opnd) (b : Opnd) (c : Opnd) (σ : State) : exec (.fdot2 h d a b c) σ = execFdot2 h d a b c σ := rfl
theorem exec_faddmin (h : Hdr) (d : Opnd) (a : Opnd) (b : Opnd) (c : Opnd) (σ : State) : exec (.faddmin h d a b c) σ = execFaddmin h d a b c σ := rfl
theorem exec_fclass (h : Hdr) (d : Opnd) (a : Opnd) (σ : State) : exec (.fclass h d a) σ = execFclass h d a σ := rfl
theorem exec_fscale (h : Hdr) (d : Opnd) (a : Opnd) (b : Opnd) (σ : State) : exec (.fscale h d a b) σ = execFscale h d a b σ := rfl
theorem exec_fsat (h : Hdr) (d : Opnd) (a : Opnd) (σ : State) : exec (.fsat h d a) σ = execFsat h d a σ := rfl
theorem exec_cvt (h : Hdr) (d : Opnd) (a : Opnd) (tt : BitVec 3) (tf : Bool) (sf : Bool) (rm : BitVec 3) (part : BitVec 4) (σ : State) : exec (.cvt h d a tt tf sf rm part) σ = execCvt h d a tt tf sf rm part σ := rfl
theorem exec_cvtn (h : Hdr) (d : Opnd) (a : Opnd) (tt : BitVec 3) (tf : Bool) (sf : Bool) (rm : BitVec 3) (ef : BitVec 2) (σ : State) : exec (.cvtn h d a tt tf sf rm ef) σ = execCvtn h d a tt tf sf rm ef σ := rfl
theorem exec_mxqSc (h : Hdr) (d : Opnd) (a : Opnd) (fmt : BitVec 2) (σ : State) : exec (.mxqSc h d a fmt) σ = execMxqSc h d a fmt σ := rfl
theorem exec_mxq (h : Hdr) (d : Opnd) (a : Opnd) (b : Opnd) (rm : BitVec 3) (fmt : BitVec 2) (σ : State) : exec (.mxq h d a b rm fmt) σ = execMxq h d a b rm fmt σ := rfl
theorem exec_mxdq (h : Hdr) (d : Opnd) (a : Opnd) (b : Opnd) (part : BitVec 3) (fmt : BitVec 2) (σ : State) : exec (.mxdq h d a b part fmt) σ = execMxdq h d a b part fmt σ := rfl
theorem exec_efld (h : Hdr) (a : Opnd) (n : BitVec 2) (σ : State) : exec (.efld h a n) σ = execEfld h a n σ := rfl
theorem exec_efst (h : Hdr) (d : Opnd) (n : BitVec 2) (σ : State) : exec (.efst h d n) σ = execEfst h d n σ := rfl
theorem exec_ld (h : Hdr) (d : Opnd) (a : Opnd) (off : BitVec 6) (rc : BitVec 3) (ch : BitVec 2) (sc : Scope) (pol : Policy) (σ : State) : exec (.ld h d a off rc ch sc pol) σ = execLd h d a off rc ch sc pol σ := rfl
theorem exec_st (h : Hdr) (d : Opnd) (a : Opnd) (off : BitVec 6) (rc : BitVec 3) (ch : BitVec 2) (sc : Scope) (pol : Policy) (σ : State) : exec (.st h d a off rc ch sc pol) σ = execSt h d a off rc ch sc pol σ := rfl
theorem exec_ldfKeep (h : Hdr) (d : Opnd) (a : Opnd) (off : BitVec 6) (rc : BitVec 3) (ch : BitVec 2) (σ : State) : exec (.ldfKeep h d a off rc ch) σ = execLdfKeep h d a off rc ch σ := rfl
theorem exec_ldfClr (h : Hdr) (d : Opnd) (a : Opnd) (off : BitVec 6) (rc : BitVec 3) (ch : BitVec 2) (σ : State) : exec (.ldfClr h d a off rc ch) σ = execLdfClr h d a off rc ch σ := rfl
theorem exec_stf (h : Hdr) (d : Opnd) (a : Opnd) (off : BitVec 6) (rc : BitVec 3) (ch : BitVec 2) (σ : State) : exec (.stf h d a off rc ch) σ = execStf h d a off rc ch σ := rfl
theorem exec_ldg (h : Hdr) (d : Opnd) (a : Opnd) (off : BitVec 6) (rc : BitVec 3) (ch : BitVec 2) (sc : Scope) (pol : Policy) (σ : State) : exec (.ldg h d a off rc ch sc pol) σ = execLdg h d a off rc ch sc pol σ := rfl
theorem exec_sts (h : Hdr) (d : Opnd) (a : Opnd) (off : BitVec 6) (rc : BitVec 3) (ch : BitVec 2) (sc : Scope) (pol : Policy) (σ : State) : exec (.sts h d a off rc ch sc pol) σ = execSts h d a off rc ch sc pol σ := rfl
theorem exec_atom (h : Hdr) (d : Opnd) (a : Opnd) (op : BitVec 4) (size : BitVec 2) (rc : BitVec 3) (ch : BitVec 2) (sc : Scope) (σ : State) : exec (.atom h d a op size rc ch sc) σ = execAtom h d a op size rc ch sc σ := rfl
theorem exec_fenceFull (h : Hdr) (sc : Scope) (σ : State) : exec (.fenceFull h sc) σ = execFenceFull h sc σ := rfl
theorem exec_fenceRel (h : Hdr) (sc : Scope) (σ : State) : exec (.fenceRel h sc) σ = execFenceRel h sc σ := rfl
theorem exec_fenceAcq (h : Hdr) (sc : Scope) (σ : State) : exec (.fenceAcq h sc) σ = execFenceAcq h sc σ := rfl
theorem exec_ldr (h : Hdr) (d : Opnd) (a : Opnd) (off : BitVec 6) (rc : BitVec 3) (ch : BitVec 2) (σ : State) : exec (.ldr h d a off rc ch) σ = execLdr h d a off rc ch σ := rfl
theorem exec_seal (h : Hdr) (rc : BitVec 3) (ch : BitVec 2) (σ : State) : exec (.seal h rc ch) σ = execSeal h rc ch σ := rfl
theorem exec_rclaim (h : Hdr) (rc : BitVec 3) (ch : BitVec 2) (σ : State) : exec (.rclaim h rc ch) σ = execRclaim h rc ch σ := rfl
theorem exec_pref (h : Hdr) (a : Opnd) (off : BitVec 6) (rc : BitVec 3) (pol : Policy) (σ : State) : exec (.pref h a off rc pol) σ = execPref h a off rc pol σ := rfl
theorem exec_invl1 (h : Hdr) (σ : State) : exec (.invl1 h) σ = execInvl1 h σ := rfl
theorem exec_fesetEmpty (h : Hdr) (a : Opnd) (off : BitVec 6) (rc : BitVec 3) (ch : BitVec 2) (σ : State) : exec (.fesetEmpty h a off rc ch) σ = execFesetEmpty h a off rc ch σ := rfl
theorem exec_fesetFull (h : Hdr) (a : Opnd) (off : BitVec 6) (rc : BitVec 3) (ch : BitVec 2) (σ : State) : exec (.fesetFull h a off rc ch) σ = execFesetFull h a off rc ch σ := rfl
theorem exec_brec (h : Hdr) (d : Opnd) (a : Opnd) (rc : BitVec 3) (σ : State) : exec (.brec h d a rc) σ = execBrec h d a rc σ := rfl
theorem exec_tsync (h : Hdr) (σ : State) : exec (.tsync h) σ = execTsync h σ := rfl
theorem exec_rbox (h : Hdr) (d : Opnd) (a : Opnd) (b : Opnd) (c : Opnd) (σ : State) : exec (.rbox h d a b c) σ = execRbox h d a b c σ := rfl
theorem exec_rtri (h : Hdr) (d : Opnd) (a : Opnd) (b : Opnd) (c : Opnd) (σ : State) : exec (.rtri h d a b c) σ = execRtri h d a b c σ := rfl
theorem exec_spcfg (h : Hdr) (en : Bool) (qa : BitVec 3) (qb : BitVec 3) (σ : State) : exec (.spcfg h en qa qb) σ = execSpcfg h en qa qb σ := rfl
theorem exec_seqt (h : Hdr) (d : Opnd) (a : Opnd) (σ : State) : exec (.seqt h d a) σ = execSeqt h d a σ := rfl
theorem exec_seqtRst (h : Hdr) (a : Opnd) (j : BitVec 3) (base : BitVec 4) (σ : State) : exec (.seqtRst h a j base) σ = execSeqtRst h a j base σ := rfl
theorem exec_edge (h : Hdr) (d : Opnd) (a : Opnd) (b : Opnd) (c : Opnd) (σ : State) : exec (.edge h d a b c) σ = execEdge h d a b c σ := rfl
theorem exec_ctlRead (h : Hdr) (d : Opnd) (n : BitVec 5) (σ : State) : exec (.ctlRead h d n) σ = execCtlRead h d n σ := rfl
theorem exec_ctlWrite (h : Hdr) (a : Opnd) (n : BitVec 5) (σ : State) : exec (.ctlWrite h a n) σ = execCtlWrite h a n σ := rfl
theorem exec_trap (h : Hdr) (n : BitVec 11) (σ : State) : exec (.trap h n) σ = execTrap h n σ := rfl
theorem exec_bkpt (h : Hdr) (n : BitVec 11) (σ : State) : exec (.bkpt h n) σ = execBkpt h n σ := rfl
theorem exec_faultySlotFire (cause : BitVec 8) (σ : State) : exec (.faultySlotFire cause) σ = execFaultySlotFire cause σ := rfl
theorem exec_seqAdd (d : BitVec 5) (a : BitVec 5) (b : BitVec 5) (σ : State) : exec (.seqAdd d a b) σ = execSeqAdd d a b σ := rfl
theorem exec_seqSub (d : BitVec 5) (a : BitVec 5) (b : BitVec 5) (σ : State) : exec (.seqSub d a b) σ = execSeqSub d a b σ := rfl
theorem exec_seqAnd (d : BitVec 5) (a : BitVec 5) (b : BitVec 5) (σ : State) : exec (.seqAnd d a b) σ = execSeqAnd d a b σ := rfl
theorem exec_seqOr (d : BitVec 5) (a : BitVec 5) (b : BitVec 5) (σ : State) : exec (.seqOr d a b) σ = execSeqOr d a b σ := rfl
theorem exec_seqXor (d : BitVec 5) (a : BitVec 5) (b : BitVec 5) (σ : State) : exec (.seqXor d a b) σ = execSeqXor d a b σ := rfl
theorem exec_seqShl (d : BitVec 5) (a : BitVec 5) (b : BitVec 5) (σ : State) : exec (.seqShl d a b) σ = execSeqShl d a b σ := rfl
theorem exec_seqShr (d : BitVec 5) (a : BitVec 5) (b : BitVec 5) (σ : State) : exec (.seqShr d a b) σ = execSeqShr d a b σ := rfl
theorem exec_seqSar (d : BitVec 5) (a : BitVec 5) (b : BitVec 5) (σ : State) : exec (.seqSar d a b) σ = execSeqSar d a b σ := rfl
theorem exec_seqMul (d : BitVec 5) (a : BitVec 5) (b : BitVec 5) (σ : State) : exec (.seqMul d a b) σ = execSeqMul d a b σ := rfl
theorem exec_seqMulh (d : BitVec 5) (a : BitVec 5) (b : BitVec 5) (σ : State) : exec (.seqMulh d a b) σ = execSeqMulh d a b σ := rfl
theorem exec_seqMulhu (d : BitVec 5) (a : BitVec 5) (b : BitVec 5) (σ : State) : exec (.seqMulhu d a b) σ = execSeqMulhu d a b σ := rfl
theorem exec_div (d : BitVec 5) (a : BitVec 5) (b : BitVec 5) (σ : State) : exec (.div d a b) σ = execDiv d a b σ := rfl
theorem exec_divu (d : BitVec 5) (a : BitVec 5) (b : BitVec 5) (σ : State) : exec (.divu d a b) σ = execDivu d a b σ := rfl
theorem exec_rem (d : BitVec 5) (a : BitVec 5) (b : BitVec 5) (σ : State) : exec (.rem d a b) σ = execRem d a b σ := rfl
theorem exec_remu (d : BitVec 5) (a : BitVec 5) (b : BitVec 5) (σ : State) : exec (.remu d a b) σ = execRemu d a b σ := rfl
theorem exec_seqMin (d : BitVec 5) (a : BitVec 5) (b : BitVec 5) (σ : State) : exec (.seqMin d a b) σ = execSeqMin d a b σ := rfl
theorem exec_seqMax (d : BitVec 5) (a : BitVec 5) (b : BitVec 5) (σ : State) : exec (.seqMax d a b) σ = execSeqMax d a b σ := rfl
theorem exec_seqMinu (d : BitVec 5) (a : BitVec 5) (b : BitVec 5) (σ : State) : exec (.seqMinu d a b) σ = execSeqMinu d a b σ := rfl
theorem exec_seqMaxu (d : BitVec 5) (a : BitVec 5) (b : BitVec 5) (σ : State) : exec (.seqMaxu d a b) σ = execSeqMaxu d a b σ := rfl
theorem exec_slt (d : BitVec 5) (a : BitVec 5) (b : BitVec 5) (σ : State) : exec (.slt d a b) σ = execSlt d a b σ := rfl
theorem exec_sltu (d : BitVec 5) (a : BitVec 5) (b : BitVec 5) (σ : State) : exec (.sltu d a b) σ = execSltu d a b σ := rfl
theorem exec_seqClz (d : BitVec 5) (a : BitVec 5) (σ : State) : exec (.seqClz d a) σ = execSeqClz d a σ := rfl
theorem exec_seqPopc (d : BitVec 5) (a : BitVec 5) (σ : State) : exec (.seqPopc d a) σ = execSeqPopc d a σ := rfl
theorem exec_seqAddi (d : BitVec 5) (a : BitVec 5) (i : BitVec 16) (σ : State) : exec (.seqAddi d a i) σ = execSeqAddi d a i σ := rfl
theorem exec_seqAndi (d : BitVec 5) (a : BitVec 5) (i : BitVec 16) (σ : State) : exec (.seqAndi d a i) σ = execSeqAndi d a i σ := rfl
theorem exec_seqOri (d : BitVec 5) (a : BitVec 5) (i : BitVec 16) (σ : State) : exec (.seqOri d a i) σ = execSeqOri d a i σ := rfl
theorem exec_seqXori (d : BitVec 5) (a : BitVec 5) (i : BitVec 16) (σ : State) : exec (.seqXori d a i) σ = execSeqXori d a i σ := rfl
theorem exec_seqShli (d : BitVec 5) (a : BitVec 5) (n : BitVec 6) (σ : State) : exec (.seqShli d a n) σ = execSeqShli d a n σ := rfl
theorem exec_seqShri (d : BitVec 5) (a : BitVec 5) (n : BitVec 6) (σ : State) : exec (.seqShri d a n) σ = execSeqShri d a n σ := rfl
theorem exec_seqSari (d : BitVec 5) (a : BitVec 5) (n : BitVec 6) (σ : State) : exec (.seqSari d a n) σ = execSeqSari d a n σ := rfl
theorem exec_slti (d : BitVec 5) (a : BitVec 5) (i : BitVec 16) (σ : State) : exec (.slti d a i) σ = execSlti d a i σ := rfl
theorem exec_lhi (d : BitVec 5) (i : BitVec 16) (σ : State) : exec (.lhi d i) σ = execLhi d i σ := rfl
theorem exec_ldl (d : BitVec 5) (i : BitVec 16) (σ : State) : exec (.ldl d i) σ = execLdl d i σ := rfl
theorem exec_ldb (d : BitVec 5) (a : BitVec 5) (i : BitVec 16) (σ : State) : exec (.ldb d a i) σ = execLdb d a i σ := rfl
theorem exec_ldh (d : BitVec 5) (a : BitVec 5) (i : BitVec 16) (σ : State) : exec (.ldh d a i) σ = execLdh d a i σ := rfl
theorem exec_ldw (d : BitVec 5) (a : BitVec 5) (i : BitVec 16) (σ : State) : exec (.ldw d a i) σ = execLdw d a i σ := rfl
theorem exec_ldd (d : BitVec 5) (a : BitVec 5) (i : BitVec 16) (σ : State) : exec (.ldd d a i) σ = execLdd d a i σ := rfl
theorem exec_stb (d : BitVec 5) (a : BitVec 5) (i : BitVec 16) (σ : State) : exec (.stb d a i) σ = execStb d a i σ := rfl
theorem exec_sth (d : BitVec 5) (a : BitVec 5) (i : BitVec 16) (σ : State) : exec (.sth d a i) σ = execSth d a i σ := rfl
theorem exec_stw (d : BitVec 5) (a : BitVec 5) (i : BitVec 16) (σ : State) : exec (.stw d a i) σ = execStw d a i σ := rfl
theorem exec_std (d : BitVec 5) (a : BitVec 5) (i : BitVec 16) (σ : State) : exec (.std d a i) σ = execStd d a i σ := rfl
theorem exec_seqAtom (d : BitVec 5) (a : BitVec 5) (b : BitVec 5) (c : BitVec 3) (z : BitVec 2) (o : BitVec 4) (σ : State) : exec (.seqAtom d a b c z o) σ = execSeqAtom d a b c z o σ := rfl
theorem exec_seqFenceFull (s : BitVec 3) (σ : State) : exec (.seqFenceFull s) σ = execSeqFenceFull s σ := rfl
theorem exec_seqFenceRel (s : BitVec 3) (σ : State) : exec (.seqFenceRel s) σ = execSeqFenceRel s σ := rfl
theorem exec_seqFenceAcq (s : BitVec 3) (σ : State) : exec (.seqFenceAcq s) σ = execSeqFenceAcq s σ := rfl
theorem exec_beq (a : BitVec 5) (b : BitVec 5) (o : BitVec 16) (σ : State) : exec (.beq a b o) σ = execBeq a b o σ := rfl
theorem exec_bne (a : BitVec 5) (b : BitVec 5) (o : BitVec 16) (σ : State) : exec (.bne a b o) σ = execBne a b o σ := rfl
theorem exec_blt (a : BitVec 5) (b : BitVec 5) (o : BitVec 16) (σ : State) : exec (.blt a b o) σ = execBlt a b o σ := rfl
theorem exec_bge (a : BitVec 5) (b : BitVec 5) (o : BitVec 16) (σ : State) : exec (.bge a b o) σ = execBge a b o σ := rfl
theorem exec_bltu (a : BitVec 5) (b : BitVec 5) (o : BitVec 16) (σ : State) : exec (.bltu a b o) σ = execBltu a b o σ := rfl
theorem exec_bgeu (a : BitVec 5) (b : BitVec 5) (o : BitVec 16) (σ : State) : exec (.bgeu a b o) σ = execBgeu a b o σ := rfl
theorem exec_jmp (o : BitVec 26) (σ : State) : exec (.jmp o) σ = execJmp o σ := rfl
theorem exec_jal (o : BitVec 26) (σ : State) : exec (.jal o) σ = execJal o σ := rfl
theorem exec_jr (d : BitVec 5) (a : BitVec 5) (σ : State) : exec (.jr d a) σ = execJr d a σ := rfl
theorem exec_getc (d : BitVec 5) (n : BitVec 12) (σ : State) : exec (.getc d n) σ = execGetc d n σ := rfl
theorem exec_setc (a : BitVec 5) (n : BitVec 12) (σ : State) : exec (.setc a n) σ = execSetc a n σ := rfl
theorem exec_seqTrap (n : BitVec 11) (σ : State) : exec (.seqTrap n) σ = execSeqTrap n σ := rfl
theorem exec_seqBkpt (n : BitVec 11) (σ : State) : exec (.seqBkpt n) σ = execSeqBkpt n σ := rfl
theorem exec_tret (σ : State) : exec (.tret) σ = execTret σ := rfl
theorem exec_waite (a : BitVec 5) (d : BitVec 5) (σ : State) : exec (.waite a d) σ = execWaite a d σ := rfl
theorem exec_seqTsync (σ : State) : exec (.seqTsync) σ = execSeqTsync σ := rfl
theorem exec_mctx (a : BitVec 5) (m : BitVec 4) (c : BitVec 2) (σ : State) : exec (.mctx a m c) σ = execMctx a m c σ := rfl
theorem exec_mctxClr (m : BitVec 4) (c : BitVec 2) (σ : State) : exec (.mctxClr m c) σ = execMctxClr m c σ := rfl
theorem exec_mrunMma (a : BitVec 5) (b : BitVec 5) (m : BitVec 4) (c : BitVec 2) (x : BitVec 4) (s : BitVec 4) (σ : State) : exec (.mrunMma a b m c x s) σ = execMrunMma a b m c x s σ := rfl
theorem exec_mrunZero (a : BitVec 5) (b : BitVec 5) (m : BitVec 4) (c : BitVec 2) (x : BitVec 4) (s : BitVec 4) (σ : State) : exec (.mrunZero a b m c x s) σ = execMrunZero a b m c x s σ := rfl
theorem exec_mrunLoad (a : BitVec 5) (b : BitVec 5) (m : BitVec 4) (c : BitVec 2) (x : BitVec 4) (s : BitVec 4) (σ : State) : exec (.mrunLoad a b m c x s) σ = execMrunLoad a b m c x s σ := rfl
theorem exec_mrunWrite (a : BitVec 5) (b : BitVec 5) (m : BitVec 4) (c : BitVec 2) (x : BitVec 4) (s : BitVec 4) (σ : State) : exec (.mrunWrite a b m c x s) σ = execMrunWrite a b m c x s σ := rfl
theorem exec_pump (a : BitVec 5) (u : BitVec 1) (σ : State) : exec (.pump a u) σ = execPump a u σ := rfl
theorem exec_ldcfg (a : BitVec 5) (s : BitVec 5) (σ : State) : exec (.ldcfg a s) σ = execLdcfg a s σ := rfl
theorem exec_ldcfgClr (s : BitVec 5) (σ : State) : exec (.ldcfgClr s) σ = execLdcfgClr s σ := rfl
theorem exec_ldcfgCode (a : BitVec 5) (w : BitVec 1) (σ : State) : exec (.ldcfgCode a w) σ = execLdcfgCode a w σ := rfl
theorem exec_recfg (a : BitVec 5) (σ : State) : exec (.recfg a) σ = execRecfg a σ := rfl
theorem exec_recfgEnd (σ : State) : exec (.recfgEnd) σ = execRecfgEnd σ := rfl
theorem exec_qput (a : BitVec 5) (b : BitVec 5) (p : BitVec 2) (e : BitVec 1) (s : BitVec 3) (c : BitVec 2) (v : BitVec 5) (σ : State) : exec (.qput a b p e s c v) σ = execQput a b p e s c v σ := rfl
theorem exec_qget (l : BitVec 5) (h : BitVec 5) (p : BitVec 2) (σ : State) : exec (.qget l h p) σ = execQget l h p σ := rfl
theorem exec_tbinit (a : BitVec 5) (b : BitVec 5) (n : BitVec 16) (σ : State) : exec (.tbinit a b n) σ = execTbinit a b n σ := rfl
theorem exec_tbarr (a : BitVec 5) (s : BitVec 3) (σ : State) : exec (.tbarr a s) σ = execTbarr a s σ := rfl
theorem exec_tbwait (a : BitVec 5) (b : BitVec 5) (s : BitVec 3) (σ : State) : exec (.tbwait a b s) σ = execTbwait a b s σ := rfl
theorem exec_launch (a : BitVec 5) (d : BitVec 5) (q : BitVec 8) (σ : State) : exec (.launch a d q) σ = execLaunch a d q σ := rfl
theorem exec_exit (σ : State) : exec (.exit) σ = execExit σ := rfl
theorem exec_yield (σ : State) : exec (.yield) σ = execYield σ := rfl
theorem exec_place (a : BitVec 5) (σ : State) : exec (.place a) σ = execPlace a σ := rfl
theorem exec_placeFrz (σ : State) : exec (.placeFrz) σ = execPlaceFrz σ := rfl
theorem exec_placeThaw (σ : State) : exec (.placeThaw) σ = execPlaceThaw σ := rfl
theorem exec_placeSt (d : BitVec 5) (σ : State) : exec (.placeSt d) σ = execPlaceSt d σ := rfl
theorem exec_cutsel (a : BitVec 5) (σ : State) : exec (.cutsel a) σ = execCutsel a σ := rfl
theorem exec_restripe (a : BitVec 5) (σ : State) : exec (.restripe a) σ = execRestripe a σ := rfl
theorem exec_pwrmark (n : BitVec 4) (σ : State) : exec (.pwrmark n) σ = execPwrmark n σ := rfl
theorem exec_verify (a : BitVec 5) (d : BitVec 5) (σ : State) : exec (.verify a d) σ = execVerify a d σ := rfl
theorem exec_asyncTrapTake (r : Nat) (σ : State) : exec (.asyncTrapTake r) σ = execAsyncTrapTake r σ := rfl
theorem exec_illegalInstruction (cause : BitVec 8) (σ : State) : exec (.illegalInstruction cause) σ = execIllegalInstruction cause σ := rfl
theorem exec_instructionFetchFault (cause : BitVec 8) (σ : State) : exec (.instructionFetchFault cause) σ = execInstructionFetchFault cause σ := rfl
theorem exec_slotdatWrite (r : Nat) (w : BitVec 64) (σ : State) : exec (.slotdatWrite r w) σ = execSlotdatWrite r w σ := rfl
theorem exec_spbindWrite (r : Nat) (n : Nat) (w : BitVec 64) (σ : State) : exec (.spbindWrite r n w) σ = execSpbindWrite r n w σ := rfl
theorem exec_sqbindWrite (r : Nat) (n : Nat) (w : BitVec 64) (σ : State) : exec (.sqbindWrite r n w) σ = execSqbindWrite r n w σ := rfl
theorem exec_cfgmapWrite (r : Nat) (n : Nat) (w : BitVec 64) (σ : State) : exec (.cfgmapWrite r n w) σ = execCfgmapWrite r n w σ := rfl
theorem exec_retry (r : Nat) (p : Nat) (σ : State) : exec (.retry r p) σ = execRetry r p σ := rfl
theorem exec_clr (r : Nat) (p : Nat) (σ : State) : exec (.clr r p) σ = execClr r p σ := rfl
theorem exec_xfqpop (r : Nat) (σ : State) : exec (.xfqpop r) σ = execXfqpop r σ := rfl
theorem exec_etpop (r : Nat) (σ : State) : exec (.etpop r) σ = execEtpop r σ := rfl
theorem exec_etactResume (r : Nat) (st : Nat) (el : Nat) (σ : State) : exec (.etactResume r st el) σ = execEtactResume r st el σ := rfl
theorem exec_etactHalt (r : Nat) (st : Nat) (el : Nat) (σ : State) : exec (.etactHalt r st el) σ = execEtactHalt r st el σ := rfl
theorem exec_enterDraining (r : Nat) (st : Nat) (el : Nat) (σ : State) : exec (.enterDraining r st el) σ = execEnterDraining r st el σ := rfl
theorem exec_endOfWaveMarkerSend (r : Nat) (st : Nat) (el : Nat) (k : Nat) (σ : State) : exec (.endOfWaveMarkerSend r st el k) σ = execEndOfWaveMarkerSend r st el k σ := rfl
theorem exec_configurationInstall (r : Nat) (st : Nat) (el : Nat) (σ : State) : exec (.configurationInstall r st el) σ = execConfigurationInstall r st el σ := rfl
theorem exec_installComplete (r : Nat) (st : Nat) (el : Nat) (σ : State) : exec (.installComplete r st el) σ = execInstallComplete r st el σ := rfl
theorem exec_haltedToDraining (r : Nat) (st : Nat) (el : Nat) (σ : State) : exec (.haltedToDraining r st el) σ = execHaltedToDraining r st el σ := rfl
theorem exec_markerReachesHead (r : Nat) (st : Nat) (el : Nat) (q : Nat) (σ : State) : exec (.markerReachesHead r st el q) σ = execMarkerReachesHead r st el q σ := rfl
theorem exec_tokenDeliver (r : Nat) (st : Nat) (el : Nat) (k : Nat) (j : Nat) (σ : State) : exec (.tokenDeliver r st el k j) σ = execTokenDeliver r st el k j σ := rfl
theorem exec_creditReturn (r : Nat) (st : Nat) (el : Nat) (q : Nat) (σ : State) : exec (.creditReturn r st el q) σ = execCreditReturn r st el q σ := rfl
theorem exec_streamDetach (w : DetachWho) (σ : State) : exec (.streamDetach w) σ = execStreamDetach w σ := rfl
theorem exec_outboundPortWrite (r : Nat) (n : Nat) (σ : State) : exec (.outboundPortWrite r n) σ = execOutboundPortWrite r n σ := rfl
theorem exec_inboundPortDeliver (r : Nat) (n : Nat) (σ : State) : exec (.inboundPortDeliver r n) σ = execInboundPortDeliver r n σ := rfl
theorem exec_coordinateIntersect (r : Nat) (st : Nat) (el : Nat) (σ : State) : exec (.coordinateIntersect r st el) σ = execCoordinateIntersect r st el σ := rfl
theorem exec_txchDeliver (r : Nat) (st : Nat) (el : Nat) (m : Nat) (σ : State) : exec (.txchDeliver r st el m) σ = execTxchDeliver r st el m σ := rfl
theorem exec_tbcstDeliver (r : Nat) (st : Nat) (el : Nat) (σ : State) : exec (.tbcstDeliver r st el) σ = execTbcstDeliver r st el σ := rfl
theorem exec_tredDeliver (r : Nat) (st : Nat) (el : Nat) (σ : State) : exec (.tredDeliver r st el) σ = execTredDeliver r st el σ := rfl
theorem exec_externalPortRequest (r : Nat) (st : Nat) (el : Nat) (i : Nat) (σ : State) : exec (.externalPortRequest r st el i) σ = execExternalPortRequest r st el i σ := rfl
theorem exec_loadDataReturn (r : Nat) (st : Nat) (el : Nat) (i : Nat) (σ : State) : exec (.loadDataReturn r st el i) σ = execLoadDataReturn r st el i σ := rfl
theorem exec_writePerformed (r : Nat) (w : Actor) (i : Nat) (σ : State) : exec (.writePerformed r w i) σ = execWritePerformed r w i σ := rfl
theorem exec_lateFault (r : Nat) (st : Nat) (el : Nat) (i : Nat) (σ : State) : exec (.lateFault r st el i) σ = execLateFault r st el i σ := rfl
theorem exec_ldfComplete (r : Nat) (st : Nat) (el : Nat) (i : Nat) (σ : State) : exec (.ldfComplete r st el i) σ = execLdfComplete r st el i σ := rfl
theorem exec_stfComplete (r : Nat) (st : Nat) (el : Nat) (i : Nat) (σ : State) : exec (.stfComplete r st el i) σ = execStfComplete r st el i σ := rfl
theorem exec_arriveSend (r : Nat) (st : Nat) (el : Nat) (i : Nat) (σ : State) : exec (.arriveSend r st el i) σ = execArriveSend r st el i σ := rfl
theorem exec_barrierUpdate (r : Nat) (st : Nat) (el : Nat) (i : Nat) (σ : State) : exec (.barrierUpdate r st el i) σ = execBarrierUpdate r st el i σ := rfl
theorem exec_notifyTokenDeliver (r : Nat) (st : Nat) (el : Nat) (σ : State) : exec (.notifyTokenDeliver r st el) σ = execNotifyTokenDeliver r st el σ := rfl
theorem exec_seqtPark (r : Nat) (st : Nat) (el : Nat) (σ : State) : exec (.seqtPark r st el) σ = execSeqtPark r st el σ := rfl
theorem exec_matrixOperandFetch (r : Nat) (m : Nat) (c : Nat) (side : Bool) (vec : Nat) (g : Nat) (σ : State) : exec (.matrixOperandFetch r m c side vec g) σ = execMatrixOperandFetch r m c side vec g σ := rfl
theorem exec_matrixFetchReturn (r : Nat) (m : Nat) (i : Nat) (σ : State) : exec (.matrixFetchReturn r m i) σ = execMatrixFetchReturn r m i σ := rfl
theorem exec_matrixOperandStage (r : Nat) (m : Nat) (c : Nat) (side : Bool) (σ : State) : exec (.matrixOperandStage r m c side) σ = execMatrixOperandStage r m c side σ := rfl
theorem exec_matrixBlockStep (r : Nat) (m : Nat) (σ : State) : exec (.matrixBlockStep r m) σ = execMatrixBlockStep r m σ := rfl
theorem exec_matrixZeroTile (r : Nat) (m : Nat) (σ : State) : exec (.matrixZeroTile r m) σ = execMatrixZeroTile r m σ := rfl
theorem exec_matrixLoadTile (r : Nat) (m : Nat) (σ : State) : exec (.matrixLoadTile r m) σ = execMatrixLoadTile r m σ := rfl
theorem exec_matrixWriteTile (r : Nat) (m : Nat) (σ : State) : exec (.matrixWriteTile r m) σ = execMatrixWriteTile r m σ := rfl
theorem exec_matrixTileComplete (r : Nat) (m : Nat) (i : Nat) (σ : State) : exec (.matrixTileComplete r m i) σ = execMatrixTileComplete r m i σ := rfl
theorem exec_matrixArrival (r : Nat) (m : Nat) (i : Nat) (σ : State) : exec (.matrixArrival r m i) σ = execMatrixArrival r m i σ := rfl
theorem exec_pumpRequestPacket (r : Nat) (p : Nat) (σ : State) : exec (.pumpRequestPacket r p) σ = execPumpRequestPacket r p σ := rfl
theorem exec_pumpRequestStart (r : Nat) (p : Nat) (σ : State) : exec (.pumpRequestStart r p) σ = execPumpRequestStart r p σ := rfl
theorem exec_pumpIssue (r : Nat) (p : Nat) (σ : State) : exec (.pumpIssue r p) σ = execPumpIssue r p σ := rfl
theorem exec_pumpAccessComplete (r : Nat) (p : Nat) (i : Nat) (σ : State) : exec (.pumpAccessComplete r p i) σ = execPumpAccessComplete r p i σ := rfl
theorem exec_pumpBarrierUpdate (r : Nat) (p : Nat) (i : Nat) (σ : State) : exec (.pumpBarrierUpdate r p i) σ = execPumpBarrierUpdate r p i σ := rfl
theorem exec_pumpRequestComplete (r : Nat) (p : Nat) (i : Nat) (σ : State) : exec (.pumpRequestComplete r p i) σ = execPumpRequestComplete r p i σ := rfl
theorem exec_eventWaitTimeout (r : Nat) (σ : State) : exec (.eventWaitTimeout r) σ = execEventWaitTimeout r σ := rfl
theorem exec_teamRetire (r : Nat) (σ : State) : exec (.teamRetire r) σ = execTeamRetire r σ := rfl
theorem exec_dispatchHeadRead (q : Nat) (σ : State) : exec (.dispatchHeadRead q) σ = execDispatchHeadRead q σ := rfl
theorem exec_distributorSelect (owner : Nat) (σ : State) : exec (.distributorSelect owner) σ = execDistributorSelect owner σ := rfl
theorem exec_teamBind (owner : Nat) (σ : State) : exec (.teamBind owner) σ = execTeamBind owner σ := rfl
theorem exec_freeRegionBind (r : Nat) (σ : State) : exec (.freeRegionBind r) σ = execFreeRegionBind r σ := rfl
theorem exec_stoatSample (r : Nat) (σ : State) : exec (.stoatSample r) σ = execStoatSample r σ := rfl
theorem exec_stoatGrowComplete (r : Nat) (σ : State) : exec (.stoatGrowComplete r) σ = execStoatGrowComplete r σ := rfl
theorem exec_stoatDrainClear (r : Nat) (st : Nat) (σ : State) : exec (.stoatDrainClear r st) σ = execStoatDrainClear r st σ := rfl
theorem exec_dealPortDeliver (r : Nat) (n : Nat) (σ : State) : exec (.dealPortDeliver r n) σ = execDealPortDeliver r n σ := rfl
theorem exec_rds (ln : Nat) (σ : State) : exec (.rds ln) σ = execRds ln σ := rfl
theorem exec_walk (ln : Nat) (σ : State) : exec (.walk ln) σ = execWalk ln σ := rfl
theorem exec_rdx (ln : Nat) (σ : State) : exec (.rdx ln) σ = execRdx ln σ := rfl
theorem exec_rdmm (ln : Nat) (σ : State) : exec (.rdmm ln) σ = execRdmm ln σ := rfl
theorem exec_wbm (ln : Nat) (σ : State) : exec (.wbm ln) σ = execWbm ln σ := rfl
theorem exec_wbmm (ln : Nat) (σ : State) : exec (.wbmm ln) σ = execWbmm ln σ := rfl
theorem exec_wrh (ln : Nat) (σ : State) : exec (.wrh ln) σ = execWrh ln σ := rfl
theorem exec_ath (ln : Nat) (σ : State) : exec (.ath ln) σ = execAth ln σ := rfl
theorem exec_clre (ln : Nat) (σ : State) : exec (.clre ln) σ = execClre ln σ := rfl
theorem exec_grantAck (ln : Nat) (σ : State) : exec (.grantAck ln) σ = execGrantAck ln σ := rfl
theorem exec_snps (ln : Nat) (ag : Nat) (σ : State) : exec (.snps ln ag) σ = execSnps ln ag σ := rfl
theorem exec_snpi (ln : Nat) (ag : Nat) (σ : State) : exec (.snpi ln ag) σ = execSnpi ln ag σ := rfl
theorem exec_snpmm (ln : Nat) (ag : Nat) (σ : State) : exec (.snpmm ln ag) σ = execSnpmm ln ag σ := rfl
theorem exec_cisternEvict (die : Nat) (ln : Nat) (σ : State) : exec (.cisternEvict die ln) σ = execCisternEvict die ln σ := rfl
theorem exec_narrowHoldNotice (r : Nat) (ln : Nat) (σ : State) : exec (.narrowHoldNotice r ln) σ = execNarrowHoldNotice r ln σ := rfl
theorem exec_narrowReleaseNotice (die : Nat) (ln : Nat) (σ : State) : exec (.narrowReleaseNotice die ln) σ = execNarrowReleaseNotice die ln σ := rfl
theorem exec_publicationRequest (die : Nat) (ln : Nat) (σ : State) : exec (.publicationRequest die ln) σ = execPublicationRequest die ln σ := rfl
theorem exec_recallInvalidate (ag : Nat) (ln : Nat) (σ : State) : exec (.recallInvalidate ag ln) σ = execRecallInvalidate ag ln σ := rfl
theorem exec_translationInvalidation (r : Nat) (ln : Nat) (σ : State) : exec (.translationInvalidation r ln) σ = execTranslationInvalidation r ln σ := rfl
theorem exec_translationWalkComplete (r : Nat) (st : Nat) (el : Nat) (i : Nat) (σ : State) : exec (.translationWalkComplete r st el i) σ = execTranslationWalkComplete r st el i σ := rfl
theorem exec_restripeJob (σ : State) : exec (.restripeJob) σ = execRestripeJob σ := rfl
theorem exec_restripeJobEnd (σ : State) : exec (.restripeJobEnd) σ = execRestripeJobEnd σ := rfl
theorem exec_martenJobStart (die : Nat) (σ : State) : exec (.martenJobStart die) σ = execMartenJobStart die σ := rfl
theorem exec_martenTokenEmit (die : Nat) (j : Nat) (σ : State) : exec (.martenTokenEmit die j) σ = execMartenTokenEmit die j σ := rfl
theorem exec_martenJobEnd (die : Nat) (j : Nat) (σ : State) : exec (.martenJobEnd die j) σ = execMartenJobEnd die j σ := rfl
theorem exec_prcmdPreempt (r : Nat) (σ : State) : exec (.prcmdPreempt r) σ = execPrcmdPreempt r σ := rfl
theorem exec_prcmdRestore (r : Nat) (σ : State) : exec (.prcmdRestore r) σ = execPrcmdRestore r σ := rfl
theorem exec_prcmdRelease (r : Nat) (σ : State) : exec (.prcmdRelease r) σ = execPrcmdRelease r σ := rfl
theorem exec_prcmdReserve (r : Nat) (σ : State) : exec (.prcmdReserve r) σ = execPrcmdReserve r σ := rfl
theorem exec_drainTimerExpire (r : Nat) (σ : State) : exec (.drainTimerExpire r) σ = execDrainTimerExpire r σ := rfl
theorem exec_drawlimExpire (r : Nat) (σ : State) : exec (.drawlimExpire r) σ = execDrawlimExpire r σ := rfl
theorem exec_regionHalted (r : Nat) (σ : State) : exec (.regionHalted r) σ = execRegionHalted r σ := rfl
theorem exec_saveComplete (r : Nat) (σ : State) : exec (.saveComplete r) σ = execSaveComplete r σ := rfl
theorem exec_restoreComplete (r : Nat) (σ : State) : exec (.restoreComplete r) σ = execRestoreComplete r σ := rfl
theorem exec_elementTrapRecordQueue (r : Nat) (st : Nat) (el : Nat) (σ : State) : exec (.elementTrapRecordQueue r st el) σ = execElementTrapRecordQueue r st el σ := rfl
theorem exec_dieLinkFail (f : Nat) (σ : State) : exec (.dieLinkFail f) σ = execDieLinkFail f σ := rfl
theorem exec_rownWrite (r : Nat) (w : BitVec 64) (σ : State) : exec (.rownWrite r w) σ = execRownWrite r w σ := rfl
theorem exec_logRecordWrite (σ : State) : exec (.logRecordWrite) σ = execLogRecordWrite σ := rfl
theorem exec_meterIntervalBoundary (σ : State) : exec (.meterIntervalBoundary) σ = execMeterIntervalBoundary σ := rfl
theorem exec_doorbellWrite (fn : Nat) (off : Nat) (w : BitVec 32) (σ : State) : exec (.doorbellWrite fn off w) σ = execDoorbellWrite fn off w σ := rfl
theorem exec_vfWindowRequest (fn : Nat) (rq : HostReq) (σ : State) : exec (.vfWindowRequest fn rq) σ = execVfWindowRequest fn rq σ := rfl
theorem exec_hostRequest (rq : HostReq) (σ : State) : exec (.hostRequest rq) σ = execHostRequest rq σ := rfl
theorem exec_functionLevelReset (fn : Nat) (σ : State) : exec (.functionLevelReset fn) σ = execFunctionLevelReset fn σ := rfl
theorem exec_flitReceive (p : Nat) (ok : Bool) (rq : PeerReq) (σ : State) : exec (.flitReceive p ok rq) σ = execFlitReceive p ok rq σ := rfl
theorem exec_flitReplay (p : Nat) (σ : State) : exec (.flitReplay p) σ = execFlitReplay p σ := rfl
theorem exec_portReceiveTimeout (p : Nat) (σ : State) : exec (.portReceiveTimeout p) σ = execPortReceiveTimeout p σ := rfl
theorem exec_portRetrain (p : Nat) (σ : State) : exec (.portRetrain p) σ = execPortRetrain p σ := rfl
theorem exec_peerLost (d : Nat) (σ : State) : exec (.peerLost d) σ = execPeerLost d σ := rfl
theorem exec_powerTokenRefill (r : Nat) (σ : State) : exec (.powerTokenRefill r) σ = execPowerTokenRefill r σ := rfl
theorem exec_pwrbudRecompute (σ : State) : exec (.pwrbudRecompute) σ = execPwrbudRecompute σ := rfl
theorem exec_powerEmergency (σ : State) : exec (.powerEmergency) σ = execPowerEmergency σ := rfl
theorem exec_backpressureWindowEnd (r : Nat) (σ : State) : exec (.backpressureWindowEnd r) σ = execBackpressureWindowEnd r σ := rfl
theorem exec_optctlClr (owner : Nat) (σ : State) : exec (.optctlClr owner) σ = execOptctlClr owner σ := rfl
theorem exec_frmfreeWrite (w : BitVec 64) (σ : State) : exec (.frmfreeWrite w) σ = execFrmfreeWrite w σ := rfl
theorem exec_good (σ : State) : exec (.good) σ = execGood σ := rfl
theorem exec_goodTimeout (σ : State) : exec (.goodTimeout) σ = execGoodTimeout σ := rfl
theorem exec_deviceReset (host : Bool) (fail : Nat) (σ : State) : exec (.deviceReset host fail) σ = execDeviceReset host fail σ := rfl
theorem exec_keylockWrite (w : BitVec 64) (σ : State) : exec (.keylockWrite w) σ = execKeylockWrite w σ := rfl
theorem exec_verifyServe (σ : State) : exec (.verifyServe) σ = execVerifyServe σ := rfl
theorem exec_getVersion (σ : State) : exec (.getVersion) σ = execGetVersion σ := rfl
theorem exec_getCapabilities (σ : State) : exec (.getCapabilities) σ = execGetCapabilities σ := rfl
theorem exec_negotiateAlgorithms (σ : State) : exec (.negotiateAlgorithms) σ = execNegotiateAlgorithms σ := rfl
theorem exec_getDigests (σ : State) : exec (.getDigests) σ = execGetDigests σ := rfl
theorem exec_getCertificate (σ : State) : exec (.getCertificate) σ = execGetCertificate σ := rfl
theorem exec_challenge (σ : State) : exec (.challenge) σ = execChallenge σ := rfl
theorem exec_getMeasurements (ix : Nat) (σ : State) : exec (.getMeasurements ix) σ = execGetMeasurements ix σ := rfl
theorem exec_deviceRegisterWrite (owner : Nat) (pa : Nat) (w : BitVec 64) (σ : State) : exec (.deviceRegisterWrite owner pa w) σ = execDeviceRegisterWrite owner pa w σ := rfl
theorem exec_writeCombiningBufferDrain (r : Nat) (σ : State) : exec (.writeCombiningBufferDrain r) σ = execWriteCombiningBufferDrain r σ := rfl

end Sys2Proof.Machine
end

