-- ==== Sys2Proof/Laws/Memory.lean ====
section
/-!
SUPPORT. Laws/Memory.lean: the byte memory: every write keeps the canonical form, a read after a write gives the bytes
written, and every other byte reads as before.
-/
namespace Sys2Proof.Machine

/-- The canonical form says that no cell holds the unwritten value and that addresses rise strictly. -/
theorem wf_iff (m : List Host.Cell) :
    Memory.wf m = true ↔ (∀ c ∈ m, c.2 ≠ unwritten) ∧ m.Pairwise (fun x y => x.1 < y.1) := by
  induction m with
  | nil => simp [Memory.wf]
  | cons c r ih =>
    obtain ⟨i, b⟩ := c
    cases r with
    | nil => simp [Memory.wf]
    | cons d r =>
      obtain ⟨j, e⟩ := d
      simp only [Memory.wf, Bool.and_eq_true, bne_iff_ne, decide_eq_true_eq, ih]
      constructor
      · rintro ⟨⟨hb, hij⟩, hv, hp⟩
        refine ⟨?_, ?_⟩
        · intro c hc
          rcases List.mem_cons.1 hc with h | h
          · subst h; exact hb
          · exact hv c h
        · refine List.pairwise_cons.2 ⟨?_, hp⟩
          intro y hy
          rcases List.mem_cons.1 hy with h | h
          · subst h; exact hij
          · exact Nat.lt_trans hij ((List.pairwise_cons.1 hp).1 y h)
      · rintro ⟨hv, hp⟩
        have h2 := List.pairwise_cons.1 hp
        exact ⟨⟨hv _ (List.mem_cons_self ..), h2.1 _ (List.mem_cons_self ..)⟩, fun c hc => hv c (List.mem_cons_of_mem _ hc), h2.2⟩

/-- A cell of a canonical memory is what its address reads as. -/
theorem memGet_of_mem {m : List Host.Cell} (h : Memory.wf m = true) {a : Nat} {b : Byte} (hm : (a, b) ∈ m) :
    memGet m a = b := by
  have hp := ((wf_iff m).1 h).2
  clear h
  induction m with
  | nil => cases hm
  | cons c r ih =>
    obtain ⟨j, e⟩ := c
    have h2 := List.pairwise_cons.1 hp
    rcases List.mem_cons.1 hm with h | h
    · obtain ⟨rfl, rfl⟩ := Prod.mk.inj h
      simp [memGet]
    · have hj : j < a := h2.1 _ h
      simp only [memGet]
      rw [if_neg (by omega), if_neg (by omega)]
      exact ih h h2.2

/-- An address that no cell lists reads as an unwritten byte. -/
theorem memGet_of_not_mem (m : List Host.Cell) {a : Nat} (hm : ∀ b, (a, b) ∉ m) : memGet m a = unwritten := by
  induction m with
  | nil => rfl
  | cons c r ih =>
    obtain ⟨j, e⟩ := c
    simp only [memGet]
    split
    · rename_i h
      subst h
      exact absurd (List.mem_cons_self ..) (hm e)
    · split
      · rfl
      · exact ih fun b hb => hm b (List.mem_cons_of_mem _ hb)

theorem memGet_ne_unwritten {m : List Host.Cell} {a : Nat} (h : memGet m a ≠ unwritten) : (a, memGet m a) ∈ m := by
  induction m with
  | nil => exact absurd rfl h
  | cons c r ih =>
    obtain ⟨j, e⟩ := c
    simp only [memGet] at h ⊢
    split
    · rename_i hj; subst hj; exact List.mem_cons_self ..
    · rename_i hj
      rw [if_neg hj] at h
      split
      · rename_i hl; rw [if_pos hl] at h; exact absurd rfl h
      · rename_i hl
        rw [if_neg hl] at h
        exact List.mem_cons_of_mem _ (ih h)

theorem mem_cellsFrom {a : Nat} {bs : List Byte} {c : Host.Cell} :
    c ∈ cellsFrom a bs ↔ c.2 ≠ unwritten ∧ ∃ i, bs[i]? = some c.2 ∧ c.1 = a + i := by
  induction bs generalizing a with
  | nil => simp [cellsFrom]
  | cons b r ih =>
    have key : (∃ i, (b :: r)[i]? = some c.2 ∧ c.1 = a + i) ↔
        (b = c.2 ∧ c.1 = a) ∨ ∃ i, r[i]? = some c.2 ∧ c.1 = a + 1 + i := by
      constructor
      · rintro ⟨i, hi, he⟩
        cases i with
        | zero => exact .inl ⟨by simpa using hi, by simpa using he⟩
        | succ n => exact .inr ⟨n, by simpa using hi, by omega⟩
      · rintro (⟨rfl, he⟩ | ⟨i, hi, he⟩)
        · exact ⟨0, by simp, by simpa using he⟩
        · exact ⟨i + 1, by simpa using hi, by omega⟩
    simp only [cellsFrom]
    split
    · rename_i h
      rw [ih, key]
      constructor
      · rintro ⟨h1, h2⟩; exact ⟨h1, .inr h2⟩
      · rintro ⟨h1, h2 | h2⟩
        · exact absurd (h2.1.symm.trans h) h1
        · exact ⟨h1, h2⟩
    · rename_i h
      rw [List.mem_cons, ih, key]
      constructor
      · rintro (rfl | ⟨h1, h2⟩)
        · exact ⟨h, .inl ⟨rfl, rfl⟩⟩
        · exact ⟨h1, .inr h2⟩
      · rintro ⟨h1, ⟨h2, h3⟩ | h2⟩
        · left; obtain ⟨x, y⟩ := c; simp_all
        · exact .inr ⟨h1, h2⟩

theorem cellsFrom_bounds {a : Nat} {bs : List Byte} {c : Host.Cell} (h : c ∈ cellsFrom a bs) :
    a ≤ c.1 ∧ c.1 < a + bs.length := by
  obtain ⟨-, i, hi, he⟩ := mem_cellsFrom.1 h
  have : i < bs.length := (List.getElem?_eq_some_iff.1 hi).1
  omega

theorem cellsFrom_pairwise (a : Nat) (bs : List Byte) : (cellsFrom a bs).Pairwise (fun x y => x.1 < y.1) := by
  induction bs generalizing a with
  | nil => exact List.Pairwise.nil
  | cons b r ih =>
    simp only [cellsFrom]
    split
    · exact ih _
    · exact List.pairwise_cons.2 ⟨fun y hy => (cellsFrom_bounds hy).1, ih _⟩

theorem mem_takeWhile_lt {m : List Host.Cell} {a : Nat} {c : Host.Cell}
    (h : c ∈ m.takeWhile fun c => decide (c.1 < a)) : c ∈ m ∧ c.1 < a := by
  induction m with
  | nil => cases h
  | cons d r ih =>
    rw [List.takeWhile_cons] at h
    split at h
    · rename_i hd
      rcases List.mem_cons.1 h with rfl | h1
      · exact ⟨List.mem_cons_self .., by simpa using hd⟩
      · exact ⟨List.mem_cons_of_mem _ (ih h1).1, (ih h1).2⟩
    · cases h

theorem mem_dropWhile_ge {m : List Host.Cell} (hp : m.Pairwise (fun x y => x.1 < y.1)) {a : Nat} {c : Host.Cell} :
    (c ∈ m.dropWhile fun c => decide (c.1 < a)) ↔ c ∈ m ∧ a ≤ c.1 := by
  induction m with
  | nil => simp
  | cons d r ih =>
    have h2 := List.pairwise_cons.1 hp
    simp only [List.dropWhile]
    split
    · rename_i h
      have h : d.1 < a := by simpa using h
      rw [ih h2.2, List.mem_cons]
      constructor
      · rintro ⟨h1, h3⟩; exact ⟨.inr h1, h3⟩
      · rintro ⟨rfl | h1, h3⟩
        · omega
        · exact ⟨h1, h3⟩
    · rename_i h
      have h : a ≤ d.1 := by simpa using h
      constructor
      · intro hc
        refine ⟨hc, ?_⟩
        rcases List.mem_cons.1 hc with rfl | h1
        · exact h
        · exact Nat.le_trans h (Nat.le_of_lt (h2.1 _ h1))
      · exact fun hc => hc.1

theorem mem_takeWhile_iff {m : List Host.Cell} (hp : m.Pairwise (fun x y => x.1 < y.1)) {a : Nat} {c : Host.Cell} :
    (c ∈ m.takeWhile fun c => decide (c.1 < a)) ↔ c ∈ m ∧ c.1 < a := by
  refine ⟨mem_takeWhile_lt, ?_⟩
  induction m with
  | nil => simp
  | cons d r ih =>
    have h2 := List.pairwise_cons.1 hp
    rintro ⟨hc, hl⟩
    have hd : d.1 < a := by
      rcases List.mem_cons.1 hc with rfl | h1
      · exact hl
      · exact Nat.lt_trans (h2.1 _ h1) hl
    rw [List.takeWhile_cons, if_pos (by simpa using hd)]
    rcases List.mem_cons.1 hc with rfl | h1
    · exact List.mem_cons_self ..
    · exact List.mem_cons_of_mem _ (ih h2.2 ⟨h1, hl⟩)

theorem mem_memWrite {m : List Host.Cell} (h : Memory.wf m = true) {a : Nat} {bs : List Byte} {c : Host.Cell} :
    c ∈ memWrite m a bs ↔ (c ∈ m ∧ c.1 < a) ∨ c ∈ cellsFrom a bs ∨ (c ∈ m ∧ a + bs.length ≤ c.1) := by
  have hp := ((wf_iff m).1 h).2
  simp only [memWrite, List.mem_append, mem_takeWhile_iff hp, mem_dropWhile_ge hp, or_assoc]

/-- A write keeps the canonical form. -/
theorem memWrite_wf {m : List Host.Cell} (h : Memory.wf m = true) (a : Nat) (bs : List Byte) :
    Memory.wf (memWrite m a bs) = true := by
  have hw := (wf_iff m).1 h
  refine (wf_iff _).2 ⟨?_, ?_⟩
  · intro c hc
    rcases (mem_memWrite h).1 hc with h1 | h1 | h1
    · exact hw.1 c h1.1
    · exact (mem_cellsFrom.1 h1).1
    · exact hw.1 c h1.1
  · unfold memWrite
    refine List.pairwise_append.2 ⟨List.pairwise_append.2 ⟨?_, cellsFrom_pairwise a bs, ?_⟩, ?_, ?_⟩
    · exact hw.2.sublist (List.takeWhile_sublist _)
    · intro x hx y hy
      exact Nat.lt_of_lt_of_le (mem_takeWhile_lt hx).2 (cellsFrom_bounds hy).1
    · exact hw.2.sublist (List.dropWhile_sublist _)
    · intro x hx y hy
      have hy2 := ((mem_dropWhile_ge hw.2).1 hy).2
      rcases List.mem_append.1 hx with h1 | h1
      · have := (mem_takeWhile_lt h1).2; omega
      · have := (cellsFrom_bounds h1).2; omega

/-- Reading from an address on is not changed by leaving out the cells before it. -/
theorem memGet_dropWhile (m : List Host.Cell) {a x : Nat} (h : a ≤ x) :
    memGet (m.dropWhile fun c => decide (c.1 < a)) x = memGet m x := by
  induction m with
  | nil => rfl
  | cons c m ih =>
    by_cases hc : c.1 < a
    · simp only [List.dropWhile_cons, hc, decide_true, if_true, ih, memGet]
      rw [if_neg (by omega), if_neg (by omega)]
    · simp [hc]

/-- Cells from an address on say nothing of a byte before it. -/
theorem memGet_dropWhile_lt (m : List Host.Cell) {a x : Nat} (h : x < a) :
    memGet (m.dropWhile fun c => decide (c.1 < a)) x = unwritten := by
  induction m with
  | nil => rfl
  | cons c m ih =>
    by_cases hc : c.1 < a
    · simpa [List.dropWhile_cons, hc] using ih
    · simp only [List.dropWhile_cons, hc, decide_false, Bool.false_eq_true, if_false, memGet]
      rw [if_neg (by omega), if_pos (by omega)]

/-- The cells before an address decide the bytes before it. -/
theorem memGet_takeWhile_lt (m l : List Host.Cell) {a x : Nat} (h : x < a) (hl : memGet l x = unwritten) :
    memGet (m.takeWhile (fun c => decide (c.1 < a)) ++ l) x = memGet m x := by
  induction m with
  | nil => simpa [memGet] using hl
  | cons c m ih =>
    by_cases hc : c.1 < a
    · simp [hc, memGet, ih]
    · simp only [List.takeWhile_cons, hc, decide_false, Bool.false_eq_true, if_false, List.nil_append, memGet, hl]
      rw [if_neg (by omega), if_pos (by omega)]

/-- The cells before an address say nothing of a byte from it on. -/
theorem memGet_takeWhile_ge (m l : List Host.Cell) {a x : Nat} (h : a ≤ x) :
    memGet (m.takeWhile (fun c => decide (c.1 < a)) ++ l) x = memGet l x := by
  induction m with
  | nil => rfl
  | cons c m ih =>
    by_cases hc : c.1 < a
    · simp only [List.takeWhile_cons, hc, decide_true, if_true, List.cons_append, memGet, ih]
      rw [if_neg (by omega), if_neg (by omega)]
    · simp [hc]

/-- The cells of a list of bytes. -/
theorem memGet_cellsFrom (a : Nat) (bs : List Byte) (l : List Host.Cell) (x : Nat) (hl : x < a + bs.length → memGet l x = unwritten) :
    memGet (cellsFrom a bs ++ l) x = if a ≤ x ∧ x < a + bs.length then bs.getD (x - a) unwritten else memGet l x := by
  induction bs generalizing a with
  | nil => simp only [cellsFrom, List.nil_append, List.length_nil]; rw [if_neg (by omega)]
  | cons b bs ih =>
    have ih := ih (a + 1) (fun h => hl (by simp only [List.length_cons]; omega))
    unfold cellsFrom
    rcases Nat.lt_trichotomy x a with h | h | h
    · have h2 := hl (by omega)
      split
      · rw [ih, if_neg (by omega), if_neg (by omega)]
      · simp only [List.cons_append, memGet]; rw [if_neg (by omega), if_pos h, if_neg (by omega), h2]
    · subst h
      have h2 := hl (by simp)
      split
      · rename_i hb; rw [ih, if_neg (by omega), if_pos (by simp), h2]; simp [hb]
      · simp [memGet]
    · have e : x - a = (x - (a + 1)) + 1 := by omega
      have : (a ≤ x ∧ x < a + (b :: bs).length) ↔ (a + 1 ≤ x ∧ x < a + 1 + bs.length) := by simp only [List.length_cons]; omega
      split
      · rw [ih]; simp only [this, e, List.getD_cons_succ]
      · simp only [List.cons_append, memGet]; rw [if_neg (by omega), if_neg (by omega), ih]; simp only [this, e, List.getD_cons_succ]

/-- Reading after a write: the bytes written where they were written, and what stood there before everywhere else. -/
theorem memGet_memWrite (m : List Host.Cell) (a : Nat) (bs : List Byte) (x : Nat) :
    memGet (memWrite m a bs) x = if a ≤ x ∧ x < a + bs.length then bs.getD (x - a) unwritten else memGet m x := by
  have hc := memGet_cellsFrom a bs (m.dropWhile fun c => decide (c.1 < a + bs.length)) x (memGet_dropWhile_lt m)
  unfold memWrite
  rw [List.append_assoc]
  by_cases h : x < a
  · rw [if_neg (by omega)] at hc ⊢
    exact memGet_takeWhile_lt m _ h (hc.trans (memGet_dropWhile_lt m (by omega)))
  · rw [memGet_takeWhile_ge m _ (by omega), hc]
    split
    · rfl
    · exact memGet_dropWhile m (by omega)

/-- A read of bytes reads each of them. -/
theorem memBytes_eq (m : List Host.Cell) (a n : Nat) : memBytes m a n = (upto n).map fun i => memGet m (a + i) := by
  simp [memBytes, memGet_dropWhile]

/-- A masked write of a line keeps the canonical form. -/
theorem memWriteMask_wf {m : List Host.Cell} (h : Memory.wf m = true) (l : Nat) (d : Line) (k : BitVec 64) :
    Memory.wf (memWriteMask m l d k) = true := memWrite_wf h _ _

/-- A masked write of a line changes no byte outside it. -/
theorem memGet_memWriteMask_other (m : List Host.Cell) (l : Nat) (d : Line) (k : BitVec 64) (x : Nat)
    (hx : x / 64 ≠ l) : memGet (memWriteMask m l d k) x = memGet m x := by
  unfold memWriteMask
  rw [memGet_memWrite, if_neg]
  simp only [List.length_map, upto, List.length_range]
  omega

/-- A masked write of a line writes the bytes that the mask names and keeps the others. -/
theorem memGet_memWriteMask (m : List Host.Cell) (l : Nat) (d : Line) (k : BitVec 64) (j : Nat)
    (hj : j < 64) :
    memGet (memWriteMask m l d k) (64 * l + j) = if k.getLsbD j then lineByte d j else memGet m (64 * l + j) := by
  unfold memWriteMask
  rw [memGet_memWrite, if_pos ⟨by omega, by simp only [List.length_map, upto, List.length_range]; omega⟩]
  have e : 64 * l + j - 64 * l = j := by omega
  rw [e, memBytes_eq]
  simp [upto, List.getD_eq_getElem?_getD, hj]

end Sys2Proof.Machine
end

