-- ==== Sys2Proof/Laws/Table.lean ====
section
/-!
SUPPORT. Laws/Table.lean: reading a table after writing one entry, and through the accessors of the units.
-/
namespace Sys2Proof.Machine

theorem tfind_tset_same {α : Type} (t : Table α) (k : Nat) (v : α) : tfind (tset t k v) k = some v := by
  induction t with
  | nil => simp [tset, tfind]
  | cons p r ih =>
    obtain ⟨j, w⟩ := p
    simp only [tset]
    split
    · simp [tfind]
    · split
      · simp [tfind]
      · rename_i h1 h2
        simp [tfind, h1, h2, ih]

theorem tfind_tset_other {α : Type} (t : Table α) (k n : Nat) (v : α) (h : n ≠ k) : tfind (tset t k v) n = tfind t n := by
  induction t with
  | nil =>
    simp only [tset, tfind]
    rw [if_neg (fun e => h e.symm)]
    split <;> rfl
  | cons p r ih =>
    obtain ⟨j, w⟩ := p
    simp only [tset]
    split
    · rename_i e
      subst e
      simp only [tfind]
      have e : ¬ j = n := fun e => h e.symm
      simp only [e, if_false]
    · split
      · rename_i h1 h2
        simp only [tfind]
        by_cases e : k = n
        · exact absurd e.symm h
        · rw [if_neg e]
          by_cases l : n < k
          · rw [if_pos l, if_neg (by omega), if_pos (by omega)]
          · rw [if_neg l]
      · simp only [tfind, ih]

@[simp] theorem tget_tset_same {α : Type} (t : Table α) (k : Nat) (v d : α) : tget (tset t k v) k d = v := by
  simp [tget, tfind_tset_same]

theorem tget_tset_other {α : Type} (t : Table α) (k n : Nat) (v d : α) (h : n ≠ k) : tget (tset t k v) n d = tget t n d := by
  simp [tget, tfind_tset_other t k n v h]

theorem tget_tset {α : Type} (t : Table α) (k n : Nat) (v d : α) : tget (tset t k v) n d = if n = k then v else tget t n d := by
  by_cases h : n = k
  · simp [h]
  · simp [h, tget_tset_other t k n v d h]

theorem tfind_dropWhile_le {α : Type} (t : Table α) {k n : Nat} (h : k < n) :
    tfind (t.dropWhile fun c => decide (c.1 ≤ k)) n = tfind t n := by
  induction t with
  | nil => rfl
  | cons c t ih =>
    by_cases hc : c.1 ≤ k
    · simp only [List.dropWhile_cons, hc, decide_true, if_true, ih, tfind]
      rw [if_neg (by omega), if_neg (by omega)]
    · simp [hc]

theorem tfind_dropWhile_ge {α : Type} (t : Table α) {k n : Nat} (h : n ≤ k) :
    tfind (t.dropWhile fun c => decide (c.1 ≤ k)) n = none := by
  induction t with
  | nil => rfl
  | cons c t ih =>
    by_cases hc : c.1 ≤ k
    · simpa [hc] using ih
    · simp only [List.dropWhile_cons, hc, decide_false, Bool.false_eq_true, if_false, tfind]
      rw [if_neg (by omega), if_pos (by omega)]

/-- An entry that has been removed is not listed, and every other is as before. -/
theorem tfind_terase {α : Type} (t : Table α) (k n : Nat) : tfind (terase t k) n = if n = k then none else tfind t n := by
  induction t with
  | nil => simp [terase, tfind]
  | cons c t ih =>
    obtain ⟨j, w⟩ := c
    simp only [terase]
    split
    · rename_i e
      subst e
      rcases Nat.lt_trichotomy n j with l | l | l
      · rw [tfind_dropWhile_ge t (by omega), if_neg (by omega), tfind, if_neg (by omega), if_pos l]
      · rw [tfind_dropWhile_ge t (by omega), if_pos l]
      · rw [tfind_dropWhile_le t l, if_neg (by omega), tfind, if_neg (by omega), if_neg (by omega)]
    · split
      · rename_i h1 h2
        split
        · rename_i e; subst e; simp [tfind, h1, h2]
        · rfl
      · rename_i h1 h2
        simp only [tfind, ih]
        split
        · rename_i e; rw [if_neg (by omega)]
        · split
          · rename_i l; rw [if_neg (by omega)]
          · rfl

@[simp] theorem tget_terase {α : Type} (t : Table α) (k n : Nat) (d : α) : tget (terase t k) n d = if n = k then d else tget t n d := by
  simp only [tget, tfind_terase]; split <;> rfl

@[simp] theorem getR_setR (s : State) (r : Nat) (x : Region) : getR (setR s r x) r = x := by simp [getR, setR]
@[simp] theorem getR_modR (s : State) (r : Nat) (f : Region → Region) : getR (modR s r f) r = f (getR s r) := by simp [modR]
@[simp] theorem getE_setE (s : State) (k : Nat) (x : Elem) : getE (setE s k x) k = x := by simp [getE, setE]
@[simp] theorem getE_modE (s : State) (k : Nat) (f : Elem → Elem) : getE (modE s k f) k = f (getE s k) := by simp [modE]
@[simp] theorem getSeq_modSeq (s : State) (r : Nat) (f : Seq → Seq) : getSeq (modSeq s r f) r = f (getSeq s r) := by
  simp [getSeq, modSeq]

theorem getR_setR_other (s : State) (r n : Nat) (x : Region) (h : n ≠ r) : getR (setR s r x) n = getR s n := by
  simp [getR, setR, tget_tset_other _ _ _ _ _ h]
theorem getR_modR_other (s : State) (r n : Nat) (f : Region → Region) (h : n ≠ r) : getR (modR s r f) n = getR s n :=
  getR_setR_other s r n _ h
theorem getE_setE_other (s : State) (k n : Nat) (x : Elem) (h : n ≠ k) : getE (setE s k x) n = getE s n := by
  simp [getE, setE, tget_tset_other _ _ _ _ _ h]
theorem getE_modE_other (s : State) (k n : Nat) (f : Elem → Elem) (h : n ≠ k) : getE (modE s k f) n = getE s n :=
  getE_setE_other s k n _ h
theorem getSeq_modSeq_other (s : State) (r n : Nat) (f : Seq → Seq) (h : n ≠ r) : getSeq (modSeq s r f) n = getSeq s n := by
  simp [getSeq, modSeq, getR_modR_other _ _ _ _ h]

/-- What a change of a sequencer leaves of its region. -/
theorem getR_modSeq (s : State) (r : Nat) (f : Seq → Seq) : getR (modSeq s r f) r = { getR s r with seq := f (getSeq s r) } := by
  simp [modSeq, getSeq]

@[simp] theorem getE_setR (s : State) (r k : Nat) (x : Region) : getE (setR s r x) k = getE s k := rfl
@[simp] theorem getE_modR (s : State) (r k : Nat) (f : Region → Region) : getE (modR s r f) k = getE s k := rfl
@[simp] theorem getE_modSeq (s : State) (r k : Nat) (f : Seq → Seq) : getE (modSeq s r f) k = getE s k := rfl
@[simp] theorem getR_setE (s : State) (r k : Nat) (x : Elem) : getR (setE s k x) r = getR s r := rfl
@[simp] theorem getR_modE (s : State) (r k : Nat) (f : Elem → Elem) : getR (modE s k f) r = getR s r := rfl
@[simp] theorem getSeq_setE (s : State) (r k : Nat) (x : Elem) : getSeq (setE s k x) r = getSeq s r := rfl
@[simp] theorem getSeq_modE (s : State) (r k : Nat) (f : Elem → Elem) : getSeq (modE s k f) r = getSeq s r := rfl

/-! ## Sequencer registers (R81) -/

@[simp] theorem getS_zero (q : Seq) : getS q 0 = 0 := by simp [getS]

/-- Reading a register after writing one: a write to s0 is discarded. -/
theorem getS_setS (q : Seq) (d n : BitVec 5) (v : BitVec 64) :
    getS (setS q d v) n = if n = d ∧ d ≠ 0 then v else getS q n := by
  by_cases hd : d = 0
  · simp [setS, hd]
  · by_cases hn : n = d
    · subst hn
      unfold setS getS
      rw [if_neg hd, if_neg hd, if_pos ⟨rfl, hd⟩, tget_tset_same]
    · have : n.toNat ≠ d.toNat := fun e => hn (BitVec.eq_of_toNat_eq e)
      unfold setS getS
      simp only [hd, hn, false_and, if_false, tget_tset_other _ _ _ _ _ this]

@[simp] theorem getS_nextPc (q : Seq) (n : BitVec 5) : getS (nextPc q) n = getS q n := rfl
@[simp] theorem getS_setPc (q : Seq) (n : BitVec 5) (v : BitVec 64) : getS (setPc q v) n = getS q n := rfl
@[simp] theorem setS_pc (q : Seq) (d : BitVec 5) (v : BitVec 64) : (setS q d v).pc = q.pc := by unfold setS; split <;> rfl
@[simp] theorem setPc_pc (q : Seq) (v : BitVec 64) : (setPc q v).pc = v &&& pcMask := rfl
@[simp] theorem nextPc_pc (q : Seq) : (nextPc q).pc = (q.pc + 4) &&& pcMask := rfl

end Sys2Proof.Machine
end

