-- ==== Sys2Proof/Laws/State.lean ====
section
/-!
SUPPORT. Laws/State.lean: what each update of a unit leaves of every field of the state, one lemma for each field and update.
-/
namespace Sys2Proof.Machine

/-! ## setR -/

@[simp] theorem setR_turn (s : State) (r : Nat) (x : Region) : (setR s r x).turn = s.turn := rfl
@[simp] theorem setR_moves (s : State) (r : Nat) (x : Region) : (setR s r x).moves = s.moves := rfl
@[simp] theorem setR_free (s : State) (r : Nat) (x : Region) : (setR s r x).free = s.free := rfl
@[simp] theorem setR_focus (s : State) (r : Nat) (x : Region) : (setR s r x).focus = s.focus := rfl
@[simp] theorem setR_elems (s : State) (r : Nat) (x : Region) : (setR s r x).elems = s.elems := rfl
@[simp] theorem setR_cisterns (s : State) (r : Nat) (x : Region) : (setR s r x).cisterns = s.cisterns := rfl
@[simp] theorem setR_martens (s : State) (r : Nat) (x : Region) : (setR s r x).martens = s.martens := rfl
@[simp] theorem setR_mem (s : State) (r : Nat) (x : Region) : (setR s r x).mem = s.mem := rfl
@[simp] theorem setR_poison (s : State) (r : Nat) (x : Region) : (setR s r x).poison = s.poison := rfl
@[simp] theorem setR_badCheck (s : State) (r : Nat) (x : Region) : (setR s r x).badCheck = s.badCheck := rfl
@[simp] theorem setR_wells (s : State) (r : Nat) (x : Region) : (setR s r x).wells = s.wells := rfl
@[simp] theorem setR_dir (s : State) (r : Nat) (x : Region) : (setR s r x).dir = s.dir := rfl
@[simp] theorem setR_homes (s : State) (r : Nat) (x : Region) : (setR s r x).homes = s.homes := rfl
@[simp] theorem setR_acks (s : State) (r : Nat) (x : Region) : (setR s r x).acks = s.acks := rfl
@[simp] theorem setR_rows (s : State) (r : Nat) (x : Region) : (setR s r x).rows = s.rows := rfl
@[simp] theorem setR_wseq (s : State) (r : Nat) (x : Region) : (setR s r x).wseq = s.wseq := rfl
@[simp] theorem setR_windowBy (s : State) (r : Nat) (x : Region) : (setR s r x).windowBy = s.windowBy := rfl
@[simp] theorem setR_dist (s : State) (r : Nat) (x : Region) : (setR s r x).dist = s.dist := rfl
@[simp] theorem setR_rsQueue (s : State) (r : Nat) (x : Region) : (setR s r x).rsQueue = s.rsQueue := rfl
@[simp] theorem setR_rsRun (s : State) (r : Nat) (x : Region) : (setR s r x).rsRun = s.rsRun := rfl
@[simp] theorem setR_rotQueue (s : State) (r : Nat) (x : Region) : (setR s r x).rotQueue = s.rotQueue := rfl
@[simp] theorem setR_spdm (s : State) (r : Nat) (x : Region) : (setR s r x).spdm = s.spdm := rfl
@[simp] theorem setR_saves (s : State) (r : Nat) (x : Region) : (setR s r x).saves = s.saves := rfl
@[simp] theorem setR_time (s : State) (r : Nat) (x : Region) : (setR s r x).time = s.time := rfl
@[simp] theorem setR_gwint (s : State) (r : Nat) (x : Region) : (setR s r x).gwint = s.gwint := rfl
@[simp] theorem setR_gwEff (s : State) (r : Nat) (x : Region) : (setR s r x).gwEff = s.gwEff := rfl
@[simp] theorem setR_meters (s : State) (r : Nat) (x : Region) : (setR s r x).meters = s.meters := rfl
@[simp] theorem setR_logcfg (s : State) (r : Nat) (x : Region) : (setR s r x).logcfg = s.logcfg := rfl
@[simp] theorem setR_logWr (s : State) (r : Nat) (x : Region) : (setR s r x).logWr = s.logWr := rfl
@[simp] theorem setR_logRd (s : State) (r : Nat) (x : Region) : (setR s r x).logRd = s.logRd := rfl
@[simp] theorem setR_logQueue (s : State) (r : Nat) (x : Region) : (setR s r x).logQueue = s.logQueue := rfl
@[simp] theorem setR_msix (s : State) (r : Nat) (x : Region) : (setR s r x).msix = s.msix := rfl
@[simp] theorem setR_vfcfg (s : State) (r : Nat) (x : Region) : (setR s r x).vfcfg = s.vfcfg := rfl
@[simp] theorem setR_devid (s : State) (r : Nat) (x : Region) : (setR s r x).devid = s.devid := rfl
@[simp] theorem setR_bridge (s : State) (r : Nat) (x : Region) : (setR s r x).bridge = s.bridge := rfl
@[simp] theorem setR_links (s : State) (r : Nat) (x : Region) : (setR s r x).links = s.links := rfl
@[simp] theorem setR_routes (s : State) (r : Nat) (x : Region) : (setR s r x).routes = s.routes := rfl
@[simp] theorem setR_lostPeers (s : State) (r : Nat) (x : Region) : (setR s r x).lostPeers = s.lostPeers := rfl
@[simp] theorem setR_d2dFailed (s : State) (r : Nat) (x : Region) : (setR s r x).d2dFailed = s.d2dFailed := rfl
@[simp] theorem setR_watts (s : State) (r : Nat) (x : Region) : (setR s r x).watts = s.watts := rfl
@[simp] theorem setR_optEn (s : State) (r : Nat) (x : Region) : (setR s r x).optEn = s.optEn := rfl
@[simp] theorem setR_optOwner (s : State) (r : Nat) (x : Region) : (setR s r x).optOwner = s.optOwner := rfl
@[simp] theorem setR_optTable (s : State) (r : Nat) (x : Region) : (setR s r x).optTable = s.optTable := rfl
@[simp] theorem setR_frmBusy (s : State) (r : Nat) (x : Region) : (setR s r x).frmBusy = s.frmBusy := rfl
@[simp] theorem setR_frmWait (s : State) (r : Nat) (x : Region) : (setR s r x).frmWait = s.frmWait := rfl
@[simp] theorem setR_lastMeter (s : State) (r : Nat) (x : Region) : (setR s r x).lastMeter = s.lastMeter := rfl
@[simp] theorem setR_lastBudget (s : State) (r : Nat) (x : Region) : (setR s r x).lastBudget = s.lastBudget := rfl
@[simp] theorem setR_emergAt (s : State) (r : Nat) (x : Region) : (setR s r x).emergAt = s.emergAt := rfl
@[simp] theorem setR_emergRegion (s : State) (r : Nat) (x : Region) : (setR s r x).emergRegion = s.emergRegion := rfl
@[simp] theorem setR_stage (s : State) (r : Nat) (x : Region) : (setR s r x).stage = s.stage := rfl
@[simp] theorem setR_fails (s : State) (r : Nat) (x : Region) : (setR s r x).fails = s.fails := rfl
@[simp] theorem setR_bootReason (s : State) (r : Nat) (x : Region) : (setR s r x).bootReason = s.bootReason := rfl
@[simp] theorem setR_minimal (s : State) (r : Nat) (x : Region) : (setR s r x).minimal = s.minimal := rfl
@[simp] theorem setR_goodBy (s : State) (r : Nat) (x : Region) : (setR s r x).goodBy = s.goodBy := rfl
@[simp] theorem setR_keyhash (s : State) (r : Nat) (x : Region) : (setR s r x).keyhash = s.keyhash := rfl
@[simp] theorem setR_keylock (s : State) (r : Nat) (x : Region) : (setR s r x).keylock = s.keylock := rfl
@[simp] theorem setR_bootMeasured (s : State) (r : Nat) (x : Region) : (setR s r x).bootMeasured = s.bootMeasured := rfl
@[simp] theorem setR_hostReplies (s : State) (r : Nat) (x : Region) : (setR s r x).hostReplies = s.hostReplies := rfl
@[simp] theorem setR_hostPend (s : State) (r : Nat) (x : Region) : (setR s r x).hostPend = s.hostPend := rfl
@[simp] theorem setR_nextHost (s : State) (r : Nat) (x : Region) : (setR s r x).nextHost = s.nextHost := rfl
@[simp] theorem setR_qTable (s : State) (r : Nat) (x : Region) : (setR s r x).qTable = s.qTable := rfl
@[simp] theorem setR_asTable (s : State) (r : Nat) (x : Region) : (setR s r x).asTable = s.asTable := rfl
@[simp] theorem setR_asCount (s : State) (r : Nat) (x : Region) : (setR s r x).asCount = s.asCount := rfl
@[simp] theorem setR_ringOffset (s : State) (r : Nat) (x : Region) : (setR s r x).ringOffset = s.ringOffset := rfl
@[simp] theorem setR_moduleForm (s : State) (r : Nat) (x : Region) : (setR s r x).moduleForm = s.moduleForm := rfl

/-! ## modR -/

@[simp] theorem modR_turn (s : State) (r : Nat) (f : Region → Region) : (modR s r f).turn = s.turn := rfl
@[simp] theorem modR_moves (s : State) (r : Nat) (f : Region → Region) : (modR s r f).moves = s.moves := rfl
@[simp] theorem modR_free (s : State) (r : Nat) (f : Region → Region) : (modR s r f).free = s.free := rfl
@[simp] theorem modR_focus (s : State) (r : Nat) (f : Region → Region) : (modR s r f).focus = s.focus := rfl
@[simp] theorem modR_elems (s : State) (r : Nat) (f : Region → Region) : (modR s r f).elems = s.elems := rfl
@[simp] theorem modR_cisterns (s : State) (r : Nat) (f : Region → Region) : (modR s r f).cisterns = s.cisterns := rfl
@[simp] theorem modR_martens (s : State) (r : Nat) (f : Region → Region) : (modR s r f).martens = s.martens := rfl
@[simp] theorem modR_mem (s : State) (r : Nat) (f : Region → Region) : (modR s r f).mem = s.mem := rfl
@[simp] theorem modR_poison (s : State) (r : Nat) (f : Region → Region) : (modR s r f).poison = s.poison := rfl
@[simp] theorem modR_badCheck (s : State) (r : Nat) (f : Region → Region) : (modR s r f).badCheck = s.badCheck := rfl
@[simp] theorem modR_wells (s : State) (r : Nat) (f : Region → Region) : (modR s r f).wells = s.wells := rfl
@[simp] theorem modR_dir (s : State) (r : Nat) (f : Region → Region) : (modR s r f).dir = s.dir := rfl
@[simp] theorem modR_homes (s : State) (r : Nat) (f : Region → Region) : (modR s r f).homes = s.homes := rfl
@[simp] theorem modR_acks (s : State) (r : Nat) (f : Region → Region) : (modR s r f).acks = s.acks := rfl
@[simp] theorem modR_rows (s : State) (r : Nat) (f : Region → Region) : (modR s r f).rows = s.rows := rfl
@[simp] theorem modR_wseq (s : State) (r : Nat) (f : Region → Region) : (modR s r f).wseq = s.wseq := rfl
@[simp] theorem modR_windowBy (s : State) (r : Nat) (f : Region → Region) : (modR s r f).windowBy = s.windowBy := rfl
@[simp] theorem modR_dist (s : State) (r : Nat) (f : Region → Region) : (modR s r f).dist = s.dist := rfl
@[simp] theorem modR_rsQueue (s : State) (r : Nat) (f : Region → Region) : (modR s r f).rsQueue = s.rsQueue := rfl
@[simp] theorem modR_rsRun (s : State) (r : Nat) (f : Region → Region) : (modR s r f).rsRun = s.rsRun := rfl
@[simp] theorem modR_rotQueue (s : State) (r : Nat) (f : Region → Region) : (modR s r f).rotQueue = s.rotQueue := rfl
@[simp] theorem modR_spdm (s : State) (r : Nat) (f : Region → Region) : (modR s r f).spdm = s.spdm := rfl
@[simp] theorem modR_saves (s : State) (r : Nat) (f : Region → Region) : (modR s r f).saves = s.saves := rfl
@[simp] theorem modR_time (s : State) (r : Nat) (f : Region → Region) : (modR s r f).time = s.time := rfl
@[simp] theorem modR_gwint (s : State) (r : Nat) (f : Region → Region) : (modR s r f).gwint = s.gwint := rfl
@[simp] theorem modR_gwEff (s : State) (r : Nat) (f : Region → Region) : (modR s r f).gwEff = s.gwEff := rfl
@[simp] theorem modR_meters (s : State) (r : Nat) (f : Region → Region) : (modR s r f).meters = s.meters := rfl
@[simp] theorem modR_logcfg (s : State) (r : Nat) (f : Region → Region) : (modR s r f).logcfg = s.logcfg := rfl
@[simp] theorem modR_logWr (s : State) (r : Nat) (f : Region → Region) : (modR s r f).logWr = s.logWr := rfl
@[simp] theorem modR_logRd (s : State) (r : Nat) (f : Region → Region) : (modR s r f).logRd = s.logRd := rfl
@[simp] theorem modR_logQueue (s : State) (r : Nat) (f : Region → Region) : (modR s r f).logQueue = s.logQueue := rfl
@[simp] theorem modR_msix (s : State) (r : Nat) (f : Region → Region) : (modR s r f).msix = s.msix := rfl
@[simp] theorem modR_vfcfg (s : State) (r : Nat) (f : Region → Region) : (modR s r f).vfcfg = s.vfcfg := rfl
@[simp] theorem modR_devid (s : State) (r : Nat) (f : Region → Region) : (modR s r f).devid = s.devid := rfl
@[simp] theorem modR_bridge (s : State) (r : Nat) (f : Region → Region) : (modR s r f).bridge = s.bridge := rfl
@[simp] theorem modR_links (s : State) (r : Nat) (f : Region → Region) : (modR s r f).links = s.links := rfl
@[simp] theorem modR_routes (s : State) (r : Nat) (f : Region → Region) : (modR s r f).routes = s.routes := rfl
@[simp] theorem modR_lostPeers (s : State) (r : Nat) (f : Region → Region) : (modR s r f).lostPeers = s.lostPeers := rfl
@[simp] theorem modR_d2dFailed (s : State) (r : Nat) (f : Region → Region) : (modR s r f).d2dFailed = s.d2dFailed := rfl
@[simp] theorem modR_watts (s : State) (r : Nat) (f : Region → Region) : (modR s r f).watts = s.watts := rfl
@[simp] theorem modR_optEn (s : State) (r : Nat) (f : Region → Region) : (modR s r f).optEn = s.optEn := rfl
@[simp] theorem modR_optOwner (s : State) (r : Nat) (f : Region → Region) : (modR s r f).optOwner = s.optOwner := rfl
@[simp] theorem modR_optTable (s : State) (r : Nat) (f : Region → Region) : (modR s r f).optTable = s.optTable := rfl
@[simp] theorem modR_frmBusy (s : State) (r : Nat) (f : Region → Region) : (modR s r f).frmBusy = s.frmBusy := rfl
@[simp] theorem modR_frmWait (s : State) (r : Nat) (f : Region → Region) : (modR s r f).frmWait = s.frmWait := rfl
@[simp] theorem modR_lastMeter (s : State) (r : Nat) (f : Region → Region) : (modR s r f).lastMeter = s.lastMeter := rfl
@[simp] theorem modR_lastBudget (s : State) (r : Nat) (f : Region → Region) : (modR s r f).lastBudget = s.lastBudget := rfl
@[simp] theorem modR_emergAt (s : State) (r : Nat) (f : Region → Region) : (modR s r f).emergAt = s.emergAt := rfl
@[simp] theorem modR_emergRegion (s : State) (r : Nat) (f : Region → Region) : (modR s r f).emergRegion = s.emergRegion := rfl
@[simp] theorem modR_stage (s : State) (r : Nat) (f : Region → Region) : (modR s r f).stage = s.stage := rfl
@[simp] theorem modR_fails (s : State) (r : Nat) (f : Region → Region) : (modR s r f).fails = s.fails := rfl
@[simp] theorem modR_bootReason (s : State) (r : Nat) (f : Region → Region) : (modR s r f).bootReason = s.bootReason := rfl
@[simp] theorem modR_minimal (s : State) (r : Nat) (f : Region → Region) : (modR s r f).minimal = s.minimal := rfl
@[simp] theorem modR_goodBy (s : State) (r : Nat) (f : Region → Region) : (modR s r f).goodBy = s.goodBy := rfl
@[simp] theorem modR_keyhash (s : State) (r : Nat) (f : Region → Region) : (modR s r f).keyhash = s.keyhash := rfl
@[simp] theorem modR_keylock (s : State) (r : Nat) (f : Region → Region) : (modR s r f).keylock = s.keylock := rfl
@[simp] theorem modR_bootMeasured (s : State) (r : Nat) (f : Region → Region) : (modR s r f).bootMeasured = s.bootMeasured := rfl
@[simp] theorem modR_hostReplies (s : State) (r : Nat) (f : Region → Region) : (modR s r f).hostReplies = s.hostReplies := rfl
@[simp] theorem modR_hostPend (s : State) (r : Nat) (f : Region → Region) : (modR s r f).hostPend = s.hostPend := rfl
@[simp] theorem modR_nextHost (s : State) (r : Nat) (f : Region → Region) : (modR s r f).nextHost = s.nextHost := rfl
@[simp] theorem modR_qTable (s : State) (r : Nat) (f : Region → Region) : (modR s r f).qTable = s.qTable := rfl
@[simp] theorem modR_asTable (s : State) (r : Nat) (f : Region → Region) : (modR s r f).asTable = s.asTable := rfl
@[simp] theorem modR_asCount (s : State) (r : Nat) (f : Region → Region) : (modR s r f).asCount = s.asCount := rfl
@[simp] theorem modR_ringOffset (s : State) (r : Nat) (f : Region → Region) : (modR s r f).ringOffset = s.ringOffset := rfl
@[simp] theorem modR_moduleForm (s : State) (r : Nat) (f : Region → Region) : (modR s r f).moduleForm = s.moduleForm := rfl

/-! ## modSeq -/

@[simp] theorem modSeq_turn (s : State) (r : Nat) (f : Seq → Seq) : (modSeq s r f).turn = s.turn := rfl
@[simp] theorem modSeq_moves (s : State) (r : Nat) (f : Seq → Seq) : (modSeq s r f).moves = s.moves := rfl
@[simp] theorem modSeq_free (s : State) (r : Nat) (f : Seq → Seq) : (modSeq s r f).free = s.free := rfl
@[simp] theorem modSeq_focus (s : State) (r : Nat) (f : Seq → Seq) : (modSeq s r f).focus = s.focus := rfl
@[simp] theorem modSeq_elems (s : State) (r : Nat) (f : Seq → Seq) : (modSeq s r f).elems = s.elems := rfl
@[simp] theorem modSeq_cisterns (s : State) (r : Nat) (f : Seq → Seq) : (modSeq s r f).cisterns = s.cisterns := rfl
@[simp] theorem modSeq_martens (s : State) (r : Nat) (f : Seq → Seq) : (modSeq s r f).martens = s.martens := rfl
@[simp] theorem modSeq_mem (s : State) (r : Nat) (f : Seq → Seq) : (modSeq s r f).mem = s.mem := rfl
@[simp] theorem modSeq_poison (s : State) (r : Nat) (f : Seq → Seq) : (modSeq s r f).poison = s.poison := rfl
@[simp] theorem modSeq_badCheck (s : State) (r : Nat) (f : Seq → Seq) : (modSeq s r f).badCheck = s.badCheck := rfl
@[simp] theorem modSeq_wells (s : State) (r : Nat) (f : Seq → Seq) : (modSeq s r f).wells = s.wells := rfl
@[simp] theorem modSeq_dir (s : State) (r : Nat) (f : Seq → Seq) : (modSeq s r f).dir = s.dir := rfl
@[simp] theorem modSeq_homes (s : State) (r : Nat) (f : Seq → Seq) : (modSeq s r f).homes = s.homes := rfl
@[simp] theorem modSeq_acks (s : State) (r : Nat) (f : Seq → Seq) : (modSeq s r f).acks = s.acks := rfl
@[simp] theorem modSeq_rows (s : State) (r : Nat) (f : Seq → Seq) : (modSeq s r f).rows = s.rows := rfl
@[simp] theorem modSeq_wseq (s : State) (r : Nat) (f : Seq → Seq) : (modSeq s r f).wseq = s.wseq := rfl
@[simp] theorem modSeq_windowBy (s : State) (r : Nat) (f : Seq → Seq) : (modSeq s r f).windowBy = s.windowBy := rfl
@[simp] theorem modSeq_dist (s : State) (r : Nat) (f : Seq → Seq) : (modSeq s r f).dist = s.dist := rfl
@[simp] theorem modSeq_rsQueue (s : State) (r : Nat) (f : Seq → Seq) : (modSeq s r f).rsQueue = s.rsQueue := rfl
@[simp] theorem modSeq_rsRun (s : State) (r : Nat) (f : Seq → Seq) : (modSeq s r f).rsRun = s.rsRun := rfl
@[simp] theorem modSeq_rotQueue (s : State) (r : Nat) (f : Seq → Seq) : (modSeq s r f).rotQueue = s.rotQueue := rfl
@[simp] theorem modSeq_spdm (s : State) (r : Nat) (f : Seq → Seq) : (modSeq s r f).spdm = s.spdm := rfl
@[simp] theorem modSeq_saves (s : State) (r : Nat) (f : Seq → Seq) : (modSeq s r f).saves = s.saves := rfl
@[simp] theorem modSeq_time (s : State) (r : Nat) (f : Seq → Seq) : (modSeq s r f).time = s.time := rfl
@[simp] theorem modSeq_gwint (s : State) (r : Nat) (f : Seq → Seq) : (modSeq s r f).gwint = s.gwint := rfl
@[simp] theorem modSeq_gwEff (s : State) (r : Nat) (f : Seq → Seq) : (modSeq s r f).gwEff = s.gwEff := rfl
@[simp] theorem modSeq_meters (s : State) (r : Nat) (f : Seq → Seq) : (modSeq s r f).meters = s.meters := rfl
@[simp] theorem modSeq_logcfg (s : State) (r : Nat) (f : Seq → Seq) : (modSeq s r f).logcfg = s.logcfg := rfl
@[simp] theorem modSeq_logWr (s : State) (r : Nat) (f : Seq → Seq) : (modSeq s r f).logWr = s.logWr := rfl
@[simp] theorem modSeq_logRd (s : State) (r : Nat) (f : Seq → Seq) : (modSeq s r f).logRd = s.logRd := rfl
@[simp] theorem modSeq_logQueue (s : State) (r : Nat) (f : Seq → Seq) : (modSeq s r f).logQueue = s.logQueue := rfl
@[simp] theorem modSeq_msix (s : State) (r : Nat) (f : Seq → Seq) : (modSeq s r f).msix = s.msix := rfl
@[simp] theorem modSeq_vfcfg (s : State) (r : Nat) (f : Seq → Seq) : (modSeq s r f).vfcfg = s.vfcfg := rfl
@[simp] theorem modSeq_devid (s : State) (r : Nat) (f : Seq → Seq) : (modSeq s r f).devid = s.devid := rfl
@[simp] theorem modSeq_bridge (s : State) (r : Nat) (f : Seq → Seq) : (modSeq s r f).bridge = s.bridge := rfl
@[simp] theorem modSeq_links (s : State) (r : Nat) (f : Seq → Seq) : (modSeq s r f).links = s.links := rfl
@[simp] theorem modSeq_routes (s : State) (r : Nat) (f : Seq → Seq) : (modSeq s r f).routes = s.routes := rfl
@[simp] theorem modSeq_lostPeers (s : State) (r : Nat) (f : Seq → Seq) : (modSeq s r f).lostPeers = s.lostPeers := rfl
@[simp] theorem modSeq_d2dFailed (s : State) (r : Nat) (f : Seq → Seq) : (modSeq s r f).d2dFailed = s.d2dFailed := rfl
@[simp] theorem modSeq_watts (s : State) (r : Nat) (f : Seq → Seq) : (modSeq s r f).watts = s.watts := rfl
@[simp] theorem modSeq_optEn (s : State) (r : Nat) (f : Seq → Seq) : (modSeq s r f).optEn = s.optEn := rfl
@[simp] theorem modSeq_optOwner (s : State) (r : Nat) (f : Seq → Seq) : (modSeq s r f).optOwner = s.optOwner := rfl
@[simp] theorem modSeq_optTable (s : State) (r : Nat) (f : Seq → Seq) : (modSeq s r f).optTable = s.optTable := rfl
@[simp] theorem modSeq_frmBusy (s : State) (r : Nat) (f : Seq → Seq) : (modSeq s r f).frmBusy = s.frmBusy := rfl
@[simp] theorem modSeq_frmWait (s : State) (r : Nat) (f : Seq → Seq) : (modSeq s r f).frmWait = s.frmWait := rfl
@[simp] theorem modSeq_lastMeter (s : State) (r : Nat) (f : Seq → Seq) : (modSeq s r f).lastMeter = s.lastMeter := rfl
@[simp] theorem modSeq_lastBudget (s : State) (r : Nat) (f : Seq → Seq) : (modSeq s r f).lastBudget = s.lastBudget := rfl
@[simp] theorem modSeq_emergAt (s : State) (r : Nat) (f : Seq → Seq) : (modSeq s r f).emergAt = s.emergAt := rfl
@[simp] theorem modSeq_emergRegion (s : State) (r : Nat) (f : Seq → Seq) : (modSeq s r f).emergRegion = s.emergRegion := rfl
@[simp] theorem modSeq_stage (s : State) (r : Nat) (f : Seq → Seq) : (modSeq s r f).stage = s.stage := rfl
@[simp] theorem modSeq_fails (s : State) (r : Nat) (f : Seq → Seq) : (modSeq s r f).fails = s.fails := rfl
@[simp] theorem modSeq_bootReason (s : State) (r : Nat) (f : Seq → Seq) : (modSeq s r f).bootReason = s.bootReason := rfl
@[simp] theorem modSeq_minimal (s : State) (r : Nat) (f : Seq → Seq) : (modSeq s r f).minimal = s.minimal := rfl
@[simp] theorem modSeq_goodBy (s : State) (r : Nat) (f : Seq → Seq) : (modSeq s r f).goodBy = s.goodBy := rfl
@[simp] theorem modSeq_keyhash (s : State) (r : Nat) (f : Seq → Seq) : (modSeq s r f).keyhash = s.keyhash := rfl
@[simp] theorem modSeq_keylock (s : State) (r : Nat) (f : Seq → Seq) : (modSeq s r f).keylock = s.keylock := rfl
@[simp] theorem modSeq_bootMeasured (s : State) (r : Nat) (f : Seq → Seq) : (modSeq s r f).bootMeasured = s.bootMeasured := rfl
@[simp] theorem modSeq_hostReplies (s : State) (r : Nat) (f : Seq → Seq) : (modSeq s r f).hostReplies = s.hostReplies := rfl
@[simp] theorem modSeq_hostPend (s : State) (r : Nat) (f : Seq → Seq) : (modSeq s r f).hostPend = s.hostPend := rfl
@[simp] theorem modSeq_nextHost (s : State) (r : Nat) (f : Seq → Seq) : (modSeq s r f).nextHost = s.nextHost := rfl
@[simp] theorem modSeq_qTable (s : State) (r : Nat) (f : Seq → Seq) : (modSeq s r f).qTable = s.qTable := rfl
@[simp] theorem modSeq_asTable (s : State) (r : Nat) (f : Seq → Seq) : (modSeq s r f).asTable = s.asTable := rfl
@[simp] theorem modSeq_asCount (s : State) (r : Nat) (f : Seq → Seq) : (modSeq s r f).asCount = s.asCount := rfl
@[simp] theorem modSeq_ringOffset (s : State) (r : Nat) (f : Seq → Seq) : (modSeq s r f).ringOffset = s.ringOffset := rfl
@[simp] theorem modSeq_moduleForm (s : State) (r : Nat) (f : Seq → Seq) : (modSeq s r f).moduleForm = s.moduleForm := rfl

/-! ## setE -/

@[simp] theorem setE_turn (s : State) (k : Nat) (x : Elem) : (setE s k x).turn = s.turn := rfl
@[simp] theorem setE_moves (s : State) (k : Nat) (x : Elem) : (setE s k x).moves = s.moves := rfl
@[simp] theorem setE_free (s : State) (k : Nat) (x : Elem) : (setE s k x).free = s.free := rfl
@[simp] theorem setE_focus (s : State) (k : Nat) (x : Elem) : (setE s k x).focus = s.focus := rfl
@[simp] theorem setE_regions (s : State) (k : Nat) (x : Elem) : (setE s k x).regions = s.regions := rfl
@[simp] theorem setE_cisterns (s : State) (k : Nat) (x : Elem) : (setE s k x).cisterns = s.cisterns := rfl
@[simp] theorem setE_martens (s : State) (k : Nat) (x : Elem) : (setE s k x).martens = s.martens := rfl
@[simp] theorem setE_mem (s : State) (k : Nat) (x : Elem) : (setE s k x).mem = s.mem := rfl
@[simp] theorem setE_poison (s : State) (k : Nat) (x : Elem) : (setE s k x).poison = s.poison := rfl
@[simp] theorem setE_badCheck (s : State) (k : Nat) (x : Elem) : (setE s k x).badCheck = s.badCheck := rfl
@[simp] theorem setE_wells (s : State) (k : Nat) (x : Elem) : (setE s k x).wells = s.wells := rfl
@[simp] theorem setE_dir (s : State) (k : Nat) (x : Elem) : (setE s k x).dir = s.dir := rfl
@[simp] theorem setE_homes (s : State) (k : Nat) (x : Elem) : (setE s k x).homes = s.homes := rfl
@[simp] theorem setE_acks (s : State) (k : Nat) (x : Elem) : (setE s k x).acks = s.acks := rfl
@[simp] theorem setE_rows (s : State) (k : Nat) (x : Elem) : (setE s k x).rows = s.rows := rfl
@[simp] theorem setE_wseq (s : State) (k : Nat) (x : Elem) : (setE s k x).wseq = s.wseq := rfl
@[simp] theorem setE_windowBy (s : State) (k : Nat) (x : Elem) : (setE s k x).windowBy = s.windowBy := rfl
@[simp] theorem setE_dist (s : State) (k : Nat) (x : Elem) : (setE s k x).dist = s.dist := rfl
@[simp] theorem setE_rsQueue (s : State) (k : Nat) (x : Elem) : (setE s k x).rsQueue = s.rsQueue := rfl
@[simp] theorem setE_rsRun (s : State) (k : Nat) (x : Elem) : (setE s k x).rsRun = s.rsRun := rfl
@[simp] theorem setE_rotQueue (s : State) (k : Nat) (x : Elem) : (setE s k x).rotQueue = s.rotQueue := rfl
@[simp] theorem setE_spdm (s : State) (k : Nat) (x : Elem) : (setE s k x).spdm = s.spdm := rfl
@[simp] theorem setE_saves (s : State) (k : Nat) (x : Elem) : (setE s k x).saves = s.saves := rfl
@[simp] theorem setE_time (s : State) (k : Nat) (x : Elem) : (setE s k x).time = s.time := rfl
@[simp] theorem setE_gwint (s : State) (k : Nat) (x : Elem) : (setE s k x).gwint = s.gwint := rfl
@[simp] theorem setE_gwEff (s : State) (k : Nat) (x : Elem) : (setE s k x).gwEff = s.gwEff := rfl
@[simp] theorem setE_meters (s : State) (k : Nat) (x : Elem) : (setE s k x).meters = s.meters := rfl
@[simp] theorem setE_logcfg (s : State) (k : Nat) (x : Elem) : (setE s k x).logcfg = s.logcfg := rfl
@[simp] theorem setE_logWr (s : State) (k : Nat) (x : Elem) : (setE s k x).logWr = s.logWr := rfl
@[simp] theorem setE_logRd (s : State) (k : Nat) (x : Elem) : (setE s k x).logRd = s.logRd := rfl
@[simp] theorem setE_logQueue (s : State) (k : Nat) (x : Elem) : (setE s k x).logQueue = s.logQueue := rfl
@[simp] theorem setE_msix (s : State) (k : Nat) (x : Elem) : (setE s k x).msix = s.msix := rfl
@[simp] theorem setE_vfcfg (s : State) (k : Nat) (x : Elem) : (setE s k x).vfcfg = s.vfcfg := rfl
@[simp] theorem setE_devid (s : State) (k : Nat) (x : Elem) : (setE s k x).devid = s.devid := rfl
@[simp] theorem setE_bridge (s : State) (k : Nat) (x : Elem) : (setE s k x).bridge = s.bridge := rfl
@[simp] theorem setE_links (s : State) (k : Nat) (x : Elem) : (setE s k x).links = s.links := rfl
@[simp] theorem setE_routes (s : State) (k : Nat) (x : Elem) : (setE s k x).routes = s.routes := rfl
@[simp] theorem setE_lostPeers (s : State) (k : Nat) (x : Elem) : (setE s k x).lostPeers = s.lostPeers := rfl
@[simp] theorem setE_d2dFailed (s : State) (k : Nat) (x : Elem) : (setE s k x).d2dFailed = s.d2dFailed := rfl
@[simp] theorem setE_watts (s : State) (k : Nat) (x : Elem) : (setE s k x).watts = s.watts := rfl
@[simp] theorem setE_optEn (s : State) (k : Nat) (x : Elem) : (setE s k x).optEn = s.optEn := rfl
@[simp] theorem setE_optOwner (s : State) (k : Nat) (x : Elem) : (setE s k x).optOwner = s.optOwner := rfl
@[simp] theorem setE_optTable (s : State) (k : Nat) (x : Elem) : (setE s k x).optTable = s.optTable := rfl
@[simp] theorem setE_frmBusy (s : State) (k : Nat) (x : Elem) : (setE s k x).frmBusy = s.frmBusy := rfl
@[simp] theorem setE_frmWait (s : State) (k : Nat) (x : Elem) : (setE s k x).frmWait = s.frmWait := rfl
@[simp] theorem setE_lastMeter (s : State) (k : Nat) (x : Elem) : (setE s k x).lastMeter = s.lastMeter := rfl
@[simp] theorem setE_lastBudget (s : State) (k : Nat) (x : Elem) : (setE s k x).lastBudget = s.lastBudget := rfl
@[simp] theorem setE_emergAt (s : State) (k : Nat) (x : Elem) : (setE s k x).emergAt = s.emergAt := rfl
@[simp] theorem setE_emergRegion (s : State) (k : Nat) (x : Elem) : (setE s k x).emergRegion = s.emergRegion := rfl
@[simp] theorem setE_stage (s : State) (k : Nat) (x : Elem) : (setE s k x).stage = s.stage := rfl
@[simp] theorem setE_fails (s : State) (k : Nat) (x : Elem) : (setE s k x).fails = s.fails := rfl
@[simp] theorem setE_bootReason (s : State) (k : Nat) (x : Elem) : (setE s k x).bootReason = s.bootReason := rfl
@[simp] theorem setE_minimal (s : State) (k : Nat) (x : Elem) : (setE s k x).minimal = s.minimal := rfl
@[simp] theorem setE_goodBy (s : State) (k : Nat) (x : Elem) : (setE s k x).goodBy = s.goodBy := rfl
@[simp] theorem setE_keyhash (s : State) (k : Nat) (x : Elem) : (setE s k x).keyhash = s.keyhash := rfl
@[simp] theorem setE_keylock (s : State) (k : Nat) (x : Elem) : (setE s k x).keylock = s.keylock := rfl
@[simp] theorem setE_bootMeasured (s : State) (k : Nat) (x : Elem) : (setE s k x).bootMeasured = s.bootMeasured := rfl
@[simp] theorem setE_hostReplies (s : State) (k : Nat) (x : Elem) : (setE s k x).hostReplies = s.hostReplies := rfl
@[simp] theorem setE_hostPend (s : State) (k : Nat) (x : Elem) : (setE s k x).hostPend = s.hostPend := rfl
@[simp] theorem setE_nextHost (s : State) (k : Nat) (x : Elem) : (setE s k x).nextHost = s.nextHost := rfl
@[simp] theorem setE_qTable (s : State) (k : Nat) (x : Elem) : (setE s k x).qTable = s.qTable := rfl
@[simp] theorem setE_asTable (s : State) (k : Nat) (x : Elem) : (setE s k x).asTable = s.asTable := rfl
@[simp] theorem setE_asCount (s : State) (k : Nat) (x : Elem) : (setE s k x).asCount = s.asCount := rfl
@[simp] theorem setE_ringOffset (s : State) (k : Nat) (x : Elem) : (setE s k x).ringOffset = s.ringOffset := rfl
@[simp] theorem setE_moduleForm (s : State) (k : Nat) (x : Elem) : (setE s k x).moduleForm = s.moduleForm := rfl

/-! ## modE -/

@[simp] theorem modE_turn (s : State) (k : Nat) (f : Elem → Elem) : (modE s k f).turn = s.turn := rfl
@[simp] theorem modE_moves (s : State) (k : Nat) (f : Elem → Elem) : (modE s k f).moves = s.moves := rfl
@[simp] theorem modE_free (s : State) (k : Nat) (f : Elem → Elem) : (modE s k f).free = s.free := rfl
@[simp] theorem modE_focus (s : State) (k : Nat) (f : Elem → Elem) : (modE s k f).focus = s.focus := rfl
@[simp] theorem modE_regions (s : State) (k : Nat) (f : Elem → Elem) : (modE s k f).regions = s.regions := rfl
@[simp] theorem modE_cisterns (s : State) (k : Nat) (f : Elem → Elem) : (modE s k f).cisterns = s.cisterns := rfl
@[simp] theorem modE_martens (s : State) (k : Nat) (f : Elem → Elem) : (modE s k f).martens = s.martens := rfl
@[simp] theorem modE_mem (s : State) (k : Nat) (f : Elem → Elem) : (modE s k f).mem = s.mem := rfl
@[simp] theorem modE_poison (s : State) (k : Nat) (f : Elem → Elem) : (modE s k f).poison = s.poison := rfl
@[simp] theorem modE_badCheck (s : State) (k : Nat) (f : Elem → Elem) : (modE s k f).badCheck = s.badCheck := rfl
@[simp] theorem modE_wells (s : State) (k : Nat) (f : Elem → Elem) : (modE s k f).wells = s.wells := rfl
@[simp] theorem modE_dir (s : State) (k : Nat) (f : Elem → Elem) : (modE s k f).dir = s.dir := rfl
@[simp] theorem modE_homes (s : State) (k : Nat) (f : Elem → Elem) : (modE s k f).homes = s.homes := rfl
@[simp] theorem modE_acks (s : State) (k : Nat) (f : Elem → Elem) : (modE s k f).acks = s.acks := rfl
@[simp] theorem modE_rows (s : State) (k : Nat) (f : Elem → Elem) : (modE s k f).rows = s.rows := rfl
@[simp] theorem modE_wseq (s : State) (k : Nat) (f : Elem → Elem) : (modE s k f).wseq = s.wseq := rfl
@[simp] theorem modE_windowBy (s : State) (k : Nat) (f : Elem → Elem) : (modE s k f).windowBy = s.windowBy := rfl
@[simp] theorem modE_dist (s : State) (k : Nat) (f : Elem → Elem) : (modE s k f).dist = s.dist := rfl
@[simp] theorem modE_rsQueue (s : State) (k : Nat) (f : Elem → Elem) : (modE s k f).rsQueue = s.rsQueue := rfl
@[simp] theorem modE_rsRun (s : State) (k : Nat) (f : Elem → Elem) : (modE s k f).rsRun = s.rsRun := rfl
@[simp] theorem modE_rotQueue (s : State) (k : Nat) (f : Elem → Elem) : (modE s k f).rotQueue = s.rotQueue := rfl
@[simp] theorem modE_spdm (s : State) (k : Nat) (f : Elem → Elem) : (modE s k f).spdm = s.spdm := rfl
@[simp] theorem modE_saves (s : State) (k : Nat) (f : Elem → Elem) : (modE s k f).saves = s.saves := rfl
@[simp] theorem modE_time (s : State) (k : Nat) (f : Elem → Elem) : (modE s k f).time = s.time := rfl
@[simp] theorem modE_gwint (s : State) (k : Nat) (f : Elem → Elem) : (modE s k f).gwint = s.gwint := rfl
@[simp] theorem modE_gwEff (s : State) (k : Nat) (f : Elem → Elem) : (modE s k f).gwEff = s.gwEff := rfl
@[simp] theorem modE_meters (s : State) (k : Nat) (f : Elem → Elem) : (modE s k f).meters = s.meters := rfl
@[simp] theorem modE_logcfg (s : State) (k : Nat) (f : Elem → Elem) : (modE s k f).logcfg = s.logcfg := rfl
@[simp] theorem modE_logWr (s : State) (k : Nat) (f : Elem → Elem) : (modE s k f).logWr = s.logWr := rfl
@[simp] theorem modE_logRd (s : State) (k : Nat) (f : Elem → Elem) : (modE s k f).logRd = s.logRd := rfl
@[simp] theorem modE_logQueue (s : State) (k : Nat) (f : Elem → Elem) : (modE s k f).logQueue = s.logQueue := rfl
@[simp] theorem modE_msix (s : State) (k : Nat) (f : Elem → Elem) : (modE s k f).msix = s.msix := rfl
@[simp] theorem modE_vfcfg (s : State) (k : Nat) (f : Elem → Elem) : (modE s k f).vfcfg = s.vfcfg := rfl
@[simp] theorem modE_devid (s : State) (k : Nat) (f : Elem → Elem) : (modE s k f).devid = s.devid := rfl
@[simp] theorem modE_bridge (s : State) (k : Nat) (f : Elem → Elem) : (modE s k f).bridge = s.bridge := rfl
@[simp] theorem modE_links (s : State) (k : Nat) (f : Elem → Elem) : (modE s k f).links = s.links := rfl
@[simp] theorem modE_routes (s : State) (k : Nat) (f : Elem → Elem) : (modE s k f).routes = s.routes := rfl
@[simp] theorem modE_lostPeers (s : State) (k : Nat) (f : Elem → Elem) : (modE s k f).lostPeers = s.lostPeers := rfl
@[simp] theorem modE_d2dFailed (s : State) (k : Nat) (f : Elem → Elem) : (modE s k f).d2dFailed = s.d2dFailed := rfl
@[simp] theorem modE_watts (s : State) (k : Nat) (f : Elem → Elem) : (modE s k f).watts = s.watts := rfl
@[simp] theorem modE_optEn (s : State) (k : Nat) (f : Elem → Elem) : (modE s k f).optEn = s.optEn := rfl
@[simp] theorem modE_optOwner (s : State) (k : Nat) (f : Elem → Elem) : (modE s k f).optOwner = s.optOwner := rfl
@[simp] theorem modE_optTable (s : State) (k : Nat) (f : Elem → Elem) : (modE s k f).optTable = s.optTable := rfl
@[simp] theorem modE_frmBusy (s : State) (k : Nat) (f : Elem → Elem) : (modE s k f).frmBusy = s.frmBusy := rfl
@[simp] theorem modE_frmWait (s : State) (k : Nat) (f : Elem → Elem) : (modE s k f).frmWait = s.frmWait := rfl
@[simp] theorem modE_lastMeter (s : State) (k : Nat) (f : Elem → Elem) : (modE s k f).lastMeter = s.lastMeter := rfl
@[simp] theorem modE_lastBudget (s : State) (k : Nat) (f : Elem → Elem) : (modE s k f).lastBudget = s.lastBudget := rfl
@[simp] theorem modE_emergAt (s : State) (k : Nat) (f : Elem → Elem) : (modE s k f).emergAt = s.emergAt := rfl
@[simp] theorem modE_emergRegion (s : State) (k : Nat) (f : Elem → Elem) : (modE s k f).emergRegion = s.emergRegion := rfl
@[simp] theorem modE_stage (s : State) (k : Nat) (f : Elem → Elem) : (modE s k f).stage = s.stage := rfl
@[simp] theorem modE_fails (s : State) (k : Nat) (f : Elem → Elem) : (modE s k f).fails = s.fails := rfl
@[simp] theorem modE_bootReason (s : State) (k : Nat) (f : Elem → Elem) : (modE s k f).bootReason = s.bootReason := rfl
@[simp] theorem modE_minimal (s : State) (k : Nat) (f : Elem → Elem) : (modE s k f).minimal = s.minimal := rfl
@[simp] theorem modE_goodBy (s : State) (k : Nat) (f : Elem → Elem) : (modE s k f).goodBy = s.goodBy := rfl
@[simp] theorem modE_keyhash (s : State) (k : Nat) (f : Elem → Elem) : (modE s k f).keyhash = s.keyhash := rfl
@[simp] theorem modE_keylock (s : State) (k : Nat) (f : Elem → Elem) : (modE s k f).keylock = s.keylock := rfl
@[simp] theorem modE_bootMeasured (s : State) (k : Nat) (f : Elem → Elem) : (modE s k f).bootMeasured = s.bootMeasured := rfl
@[simp] theorem modE_hostReplies (s : State) (k : Nat) (f : Elem → Elem) : (modE s k f).hostReplies = s.hostReplies := rfl
@[simp] theorem modE_hostPend (s : State) (k : Nat) (f : Elem → Elem) : (modE s k f).hostPend = s.hostPend := rfl
@[simp] theorem modE_nextHost (s : State) (k : Nat) (f : Elem → Elem) : (modE s k f).nextHost = s.nextHost := rfl
@[simp] theorem modE_qTable (s : State) (k : Nat) (f : Elem → Elem) : (modE s k f).qTable = s.qTable := rfl
@[simp] theorem modE_asTable (s : State) (k : Nat) (f : Elem → Elem) : (modE s k f).asTable = s.asTable := rfl
@[simp] theorem modE_asCount (s : State) (k : Nat) (f : Elem → Elem) : (modE s k f).asCount = s.asCount := rfl
@[simp] theorem modE_ringOffset (s : State) (k : Nat) (f : Elem → Elem) : (modE s k f).ringOffset = s.ringOffset := rfl
@[simp] theorem modE_moduleForm (s : State) (k : Nat) (f : Elem → Elem) : (modE s k f).moduleForm = s.moduleForm := rfl

/-! ## The program counter, and the end of a wait -/

@[simp] theorem dropWait_pc (q : Seq) : (dropWait q).pc = q.pc := rfl
@[simp] theorem dropWait_sup (q : Seq) : (dropWait q).sup = q.sup := rfl
@[simp] theorem setPc_sup (q : Seq) (v : BitVec 64) : (setPc q v).sup = q.sup := rfl
@[simp] theorem nextPc_sup (q : Seq) : (nextPc q).sup = q.sup := rfl
@[simp] theorem dropWait_regs (q : Seq) : (dropWait q).regs = q.regs := rfl
@[simp] theorem setPc_regs (q : Seq) (v : BitVec 64) : (setPc q v).regs = q.regs := rfl
@[simp] theorem nextPc_regs (q : Seq) : (nextPc q).regs = q.regs := rfl
@[simp] theorem dropWait_fpctl (q : Seq) : (dropWait q).fpctl = q.fpctl := rfl
@[simp] theorem setPc_fpctl (q : Seq) (v : BitVec 64) : (setPc q v).fpctl = q.fpctl := rfl
@[simp] theorem nextPc_fpctl (q : Seq) : (nextPc q).fpctl = q.fpctl := rfl
@[simp] theorem dropWait_fpst (q : Seq) : (dropWait q).fpst = q.fpst := rfl
@[simp] theorem setPc_fpst (q : Seq) (v : BitVec 64) : (setPc q v).fpst = q.fpst := rfl
@[simp] theorem nextPc_fpst (q : Seq) : (nextPc q).fpst = q.fpst := rfl
@[simp] theorem dropWait_rtentry (q : Seq) : (dropWait q).rtentry = q.rtentry := rfl
@[simp] theorem setPc_rtentry (q : Seq) (v : BitVec 64) : (setPc q v).rtentry = q.rtentry := rfl
@[simp] theorem nextPc_rtentry (q : Seq) : (nextPc q).rtentry = q.rtentry := rfl
@[simp] theorem dropWait_tvec (q : Seq) : (dropWait q).tvec = q.tvec := rfl
@[simp] theorem setPc_tvec (q : Seq) (v : BitVec 64) : (setPc q v).tvec = q.tvec := rfl
@[simp] theorem nextPc_tvec (q : Seq) : (nextPc q).tvec = q.tvec := rfl
@[simp] theorem dropWait_tpc (q : Seq) : (dropWait q).tpc = q.tpc := rfl
@[simp] theorem setPc_tpc (q : Seq) (v : BitVec 64) : (setPc q v).tpc = q.tpc := rfl
@[simp] theorem nextPc_tpc (q : Seq) : (nextPc q).tpc = q.tpc := rfl
@[simp] theorem dropWait_tcause (q : Seq) : (dropWait q).tcause = q.tcause := rfl
@[simp] theorem setPc_tcause (q : Seq) (v : BitVec 64) : (setPc q v).tcause = q.tcause := rfl
@[simp] theorem nextPc_tcause (q : Seq) : (nextPc q).tcause = q.tcause := rfl
@[simp] theorem dropWait_tval (q : Seq) : (dropWait q).tval = q.tval := rfl
@[simp] theorem setPc_tval (q : Seq) (v : BitVec 64) : (setPc q v).tval = q.tval := rfl
@[simp] theorem nextPc_tval (q : Seq) : (nextPc q).tval = q.tval := rfl
@[simp] theorem dropWait_pmode (q : Seq) : (dropWait q).pmode = q.pmode := rfl
@[simp] theorem setPc_pmode (q : Seq) (v : BitVec 64) : (setPc q v).pmode = q.pmode := rfl
@[simp] theorem nextPc_pmode (q : Seq) : (nextPc q).pmode = q.pmode := rfl
@[simp] theorem dropWait_tscr (q : Seq) : (dropWait q).tscr = q.tscr := rfl
@[simp] theorem setPc_tscr (q : Seq) (v : BitVec 64) : (setPc q v).tscr = q.tscr := rfl
@[simp] theorem nextPc_tscr (q : Seq) : (nextPc q).tscr = q.tscr := rfl
@[simp] theorem dropWait_strmctl (q : Seq) : (dropWait q).strmctl = q.strmctl := rfl
@[simp] theorem setPc_strmctl (q : Seq) (v : BitVec 64) : (setPc q v).strmctl = q.strmctl := rfl
@[simp] theorem nextPc_strmctl (q : Seq) : (nextPc q).strmctl = q.strmctl := rfl
@[simp] theorem dropWait_slotadr (q : Seq) : (dropWait q).slotadr = q.slotadr := rfl
@[simp] theorem setPc_slotadr (q : Seq) (v : BitVec 64) : (setPc q v).slotadr = q.slotadr := rfl
@[simp] theorem nextPc_slotadr (q : Seq) : (nextPc q).slotadr = q.slotadr := rfl
@[simp] theorem dropWait_cfgerr (q : Seq) : (dropWait q).cfgerr = q.cfgerr := rfl
@[simp] theorem setPc_cfgerr (q : Seq) (v : BitVec 64) : (setPc q v).cfgerr = q.cfgerr := rfl
@[simp] theorem nextPc_cfgerr (q : Seq) : (nextPc q).cfgerr = q.cfgerr := rfl
@[simp] theorem dropWait_cfgmap (q : Seq) : (dropWait q).cfgmap = q.cfgmap := rfl
@[simp] theorem setPc_cfgmap (q : Seq) (v : BitVec 64) : (setPc q v).cfgmap = q.cfgmap := rfl
@[simp] theorem nextPc_cfgmap (q : Seq) : (nextPc q).cfgmap = q.cfgmap := rfl
@[simp] theorem dropWait_codewin (q : Seq) : (dropWait q).codewin = q.codewin := rfl
@[simp] theorem setPc_codewin (q : Seq) (v : BitVec 64) : (setPc q v).codewin = q.codewin := rfl
@[simp] theorem nextPc_codewin (q : Seq) : (nextPc q).codewin = q.codewin := rfl
@[simp] theorem dropWait_sqbind (q : Seq) : (dropWait q).sqbind = q.sqbind := rfl
@[simp] theorem setPc_sqbind (q : Seq) (v : BitVec 64) : (setPc q v).sqbind = q.sqbind := rfl
@[simp] theorem nextPc_sqbind (q : Seq) : (nextPc q).sqbind = q.sqbind := rfl
@[simp] theorem dropWait_spbind (q : Seq) : (dropWait q).spbind = q.spbind := rfl
@[simp] theorem setPc_spbind (q : Seq) (v : BitVec 64) : (setPc q v).spbind = q.spbind := rfl
@[simp] theorem nextPc_spbind (q : Seq) : (nextPc q).spbind = q.spbind := rfl
@[simp] theorem dropWait_sqside (q : Seq) : (dropWait q).sqside = q.sqside := rfl
@[simp] theorem setPc_sqside (q : Seq) (v : BitVec 64) : (setPc q v).sqside = q.sqside := rfl
@[simp] theorem nextPc_sqside (q : Seq) : (nextPc q).sqside = q.sqside := rfl
@[simp] theorem dropWait_pending (q : Seq) : (dropWait q).pending = q.pending := rfl
@[simp] theorem setPc_pending (q : Seq) (v : BitVec 64) : (setPc q v).pending = q.pending := rfl
@[simp] theorem nextPc_pending (q : Seq) : (nextPc q).pending = q.pending := rfl
@[simp] theorem dropWait_permits (q : Seq) : (dropWait q).permits = q.permits := rfl
@[simp] theorem setPc_permits (q : Seq) (v : BitVec 64) : (setPc q v).permits = q.permits := rfl
@[simp] theorem nextPc_permits (q : Seq) : (nextPc q).permits = q.permits := rfl
@[simp] theorem dropWait_icache (q : Seq) : (dropWait q).icache = q.icache := rfl
@[simp] theorem setPc_icache (q : Seq) (v : BitVec 64) : (setPc q v).icache = q.icache := rfl
@[simp] theorem nextPc_icache (q : Seq) : (nextPc q).icache = q.icache := rfl
@[simp] theorem dropWait_dcache (q : Seq) : (dropWait q).dcache = q.dcache := rfl
@[simp] theorem setPc_dcache (q : Seq) (v : BitVec 64) : (setPc q v).dcache = q.dcache := rfl
@[simp] theorem nextPc_dcache (q : Seq) : (nextPc q).dcache = q.dcache := rfl
@[simp] theorem dropWait_events (q : Seq) : (dropWait q).events = q.events := rfl
@[simp] theorem setPc_events (q : Seq) (v : BitVec 64) : (setPc q v).events = q.events := rfl
@[simp] theorem nextPc_events (q : Seq) : (nextPc q).events = q.events := rfl
@[simp] theorem dropWait_evNew (q : Seq) : (dropWait q).evNew = q.evNew := rfl
@[simp] theorem setPc_evNew (q : Seq) (v : BitVec 64) : (setPc q v).evNew = q.evNew := rfl
@[simp] theorem nextPc_evNew (q : Seq) : (nextPc q).evNew = q.evNew := rfl
@[simp] theorem dropWait_evFirst (q : Seq) : (dropWait q).evFirst = q.evFirst := rfl
@[simp] theorem setPc_evFirst (q : Seq) (v : BitVec 64) : (setPc q v).evFirst = q.evFirst := rfl
@[simp] theorem nextPc_evFirst (q : Seq) : (nextPc q).evFirst = q.evFirst := rfl
@[simp] theorem dropWait_stores (q : Seq) : (dropWait q).stores = q.stores := rfl
@[simp] theorem setPc_stores (q : Seq) (v : BitVec 64) : (setPc q v).stores = q.stores := rfl
@[simp] theorem nextPc_stores (q : Seq) : (nextPc q).stores = q.stores := rfl
@[simp] theorem dropWait_nextStore (q : Seq) : (dropWait q).nextStore = q.nextStore := rfl
@[simp] theorem setPc_nextStore (q : Seq) (v : BitVec 64) : (setPc q v).nextStore = q.nextStore := rfl
@[simp] theorem nextPc_nextStore (q : Seq) : (nextPc q).nextStore = q.nextStore := rfl
@[simp] theorem dropWait_touched (q : Seq) : (dropWait q).touched = q.touched := rfl
@[simp] theorem setPc_touched (q : Seq) (v : BitVec 64) : (setPc q v).touched = q.touched := rfl
@[simp] theorem nextPc_touched (q : Seq) : (nextPc q).touched = q.touched := rfl
@[simp] theorem dropWait_waitStart (q : Seq) : (dropWait q).waitStart = none := rfl
@[simp] theorem setPc_waitStart (q : Seq) (v : BitVec 64) : (setPc q v).waitStart = none := rfl
@[simp] theorem nextPc_waitStart (q : Seq) : (nextPc q).waitStart = none := rfl
@[simp] theorem dropWait_waite (q : Seq) : (dropWait q).waite = none := rfl
@[simp] theorem setPc_waite (q : Seq) (v : BitVec 64) : (setPc q v).waite = none := rfl
@[simp] theorem nextPc_waite (q : Seq) : (nextPc q).waite = none := rfl
@[simp] theorem dropWait_exiting (q : Seq) : (dropWait q).exiting = q.exiting := rfl
@[simp] theorem setPc_exiting (q : Seq) (v : BitVec 64) : (setPc q v).exiting = q.exiting := rfl
@[simp] theorem nextPc_exiting (q : Seq) : (nextPc q).exiting = q.exiting := rfl
@[simp] theorem dropWait_exitCause (q : Seq) : (dropWait q).exitCause = q.exitCause := rfl
@[simp] theorem setPc_exitCause (q : Seq) (v : BitVec 64) : (setPc q v).exitCause = q.exitCause := rfl
@[simp] theorem nextPc_exitCause (q : Seq) : (nextPc q).exitCause = q.exitCause := rfl
@[simp] theorem dropWait_loads (q : Seq) : (dropWait q).loads = q.loads := rfl
@[simp] theorem setPc_loads (q : Seq) (v : BitVec 64) : (setPc q v).loads = q.loads := rfl
@[simp] theorem nextPc_loads (q : Seq) : (nextPc q).loads = q.loads := rfl
@[simp] theorem dropWait_nextLoad (q : Seq) : (dropWait q).nextLoad = q.nextLoad := rfl
@[simp] theorem setPc_nextLoad (q : Seq) (v : BitVec 64) : (setPc q v).nextLoad = q.nextLoad := rfl
@[simp] theorem nextPc_nextLoad (q : Seq) : (nextPc q).nextLoad = q.nextLoad := rfl
@[simp] theorem dropWait_endMark (q : Seq) : (dropWait q).endMark = q.endMark := rfl
@[simp] theorem setPc_endMark (q : Seq) (v : BitVec 64) : (setPc q v).endMark = q.endMark := rfl
@[simp] theorem nextPc_endMark (q : Seq) : (nextPc q).endMark = q.endMark := rfl
@[simp] theorem dropWait_asked (q : Seq) : (dropWait q).asked = false := rfl
@[simp] theorem setPc_asked (q : Seq) (v : BitVec 64) : (setPc q v).asked = false := rfl
@[simp] theorem nextPc_asked (q : Seq) : (nextPc q).asked = false := rfl
@[simp] theorem dropWait_bar (q : Seq) : (dropWait q).bar = {} := rfl
@[simp] theorem setPc_bar (q : Seq) (v : BitVec 64) : (setPc q v).bar = {} := rfl
@[simp] theorem nextPc_bar (q : Seq) : (nextPc q).bar = {} := rfl
@[simp] theorem dropWait_lines (q : Seq) : (dropWait q).lines = [] := rfl
@[simp] theorem setPc_lines (q : Seq) (v : BitVec 64) : (setPc q v).lines = [] := rfl
@[simp] theorem nextPc_lines (q : Seq) : (nextPc q).lines = [] := rfl
@[simp] theorem dropWait_inUse (q : Seq) : (dropWait q).inUse = none := rfl
@[simp] theorem setPc_inUse (q : Seq) (v : BitVec 64) : (setPc q v).inUse = none := rfl
@[simp] theorem nextPc_inUse (q : Seq) : (nextPc q).inUse = none := rfl
@[simp] theorem dropWait_nextReq (q : Seq) : (dropWait q).nextReq = q.nextReq + 1 := rfl
@[simp] theorem setPc_nextReq (q : Seq) (v : BitVec 64) : (setPc q v).nextReq = q.nextReq + 1 := rfl
@[simp] theorem nextPc_nextReq (q : Seq) : (nextPc q).nextReq = q.nextReq + 1 := rfl
@[simp] theorem dropWait_qputWait (q : Seq) : (dropWait q).qputWait = none := rfl
@[simp] theorem setPc_qputWait (q : Seq) (v : BitVec 64) : (setPc q v).qputWait = none := rfl
@[simp] theorem nextPc_qputWait (q : Seq) : (nextPc q).qputWait = none := rfl

/-! ## Writing a register of the sequencer -/

@[simp] theorem setS_sup (q : Seq) (d : BitVec 5) (v : BitVec 64) : (setS q d v).sup = q.sup := by unfold setS; split <;> rfl
@[simp] theorem setS_fpctl (q : Seq) (d : BitVec 5) (v : BitVec 64) : (setS q d v).fpctl = q.fpctl := by unfold setS; split <;> rfl
@[simp] theorem setS_fpst (q : Seq) (d : BitVec 5) (v : BitVec 64) : (setS q d v).fpst = q.fpst := by unfold setS; split <;> rfl
@[simp] theorem setS_rtentry (q : Seq) (d : BitVec 5) (v : BitVec 64) : (setS q d v).rtentry = q.rtentry := by unfold setS; split <;> rfl
@[simp] theorem setS_tvec (q : Seq) (d : BitVec 5) (v : BitVec 64) : (setS q d v).tvec = q.tvec := by unfold setS; split <;> rfl
@[simp] theorem setS_tpc (q : Seq) (d : BitVec 5) (v : BitVec 64) : (setS q d v).tpc = q.tpc := by unfold setS; split <;> rfl
@[simp] theorem setS_tcause (q : Seq) (d : BitVec 5) (v : BitVec 64) : (setS q d v).tcause = q.tcause := by unfold setS; split <;> rfl
@[simp] theorem setS_tval (q : Seq) (d : BitVec 5) (v : BitVec 64) : (setS q d v).tval = q.tval := by unfold setS; split <;> rfl
@[simp] theorem setS_pmode (q : Seq) (d : BitVec 5) (v : BitVec 64) : (setS q d v).pmode = q.pmode := by unfold setS; split <;> rfl
@[simp] theorem setS_tscr (q : Seq) (d : BitVec 5) (v : BitVec 64) : (setS q d v).tscr = q.tscr := by unfold setS; split <;> rfl
@[simp] theorem setS_strmctl (q : Seq) (d : BitVec 5) (v : BitVec 64) : (setS q d v).strmctl = q.strmctl := by unfold setS; split <;> rfl
@[simp] theorem setS_slotadr (q : Seq) (d : BitVec 5) (v : BitVec 64) : (setS q d v).slotadr = q.slotadr := by unfold setS; split <;> rfl
@[simp] theorem setS_cfgerr (q : Seq) (d : BitVec 5) (v : BitVec 64) : (setS q d v).cfgerr = q.cfgerr := by unfold setS; split <;> rfl
@[simp] theorem setS_cfgmap (q : Seq) (d : BitVec 5) (v : BitVec 64) : (setS q d v).cfgmap = q.cfgmap := by unfold setS; split <;> rfl
@[simp] theorem setS_codewin (q : Seq) (d : BitVec 5) (v : BitVec 64) : (setS q d v).codewin = q.codewin := by unfold setS; split <;> rfl
@[simp] theorem setS_sqbind (q : Seq) (d : BitVec 5) (v : BitVec 64) : (setS q d v).sqbind = q.sqbind := by unfold setS; split <;> rfl
@[simp] theorem setS_spbind (q : Seq) (d : BitVec 5) (v : BitVec 64) : (setS q d v).spbind = q.spbind := by unfold setS; split <;> rfl
@[simp] theorem setS_sqside (q : Seq) (d : BitVec 5) (v : BitVec 64) : (setS q d v).sqside = q.sqside := by unfold setS; split <;> rfl
@[simp] theorem setS_pending (q : Seq) (d : BitVec 5) (v : BitVec 64) : (setS q d v).pending = q.pending := by unfold setS; split <;> rfl
@[simp] theorem setS_permits (q : Seq) (d : BitVec 5) (v : BitVec 64) : (setS q d v).permits = q.permits := by unfold setS; split <;> rfl
@[simp] theorem setS_icache (q : Seq) (d : BitVec 5) (v : BitVec 64) : (setS q d v).icache = q.icache := by unfold setS; split <;> rfl
@[simp] theorem setS_dcache (q : Seq) (d : BitVec 5) (v : BitVec 64) : (setS q d v).dcache = q.dcache := by unfold setS; split <;> rfl
@[simp] theorem setS_events (q : Seq) (d : BitVec 5) (v : BitVec 64) : (setS q d v).events = q.events := by unfold setS; split <;> rfl
@[simp] theorem setS_evNew (q : Seq) (d : BitVec 5) (v : BitVec 64) : (setS q d v).evNew = q.evNew := by unfold setS; split <;> rfl
@[simp] theorem setS_evFirst (q : Seq) (d : BitVec 5) (v : BitVec 64) : (setS q d v).evFirst = q.evFirst := by unfold setS; split <;> rfl
@[simp] theorem setS_stores (q : Seq) (d : BitVec 5) (v : BitVec 64) : (setS q d v).stores = q.stores := by unfold setS; split <;> rfl
@[simp] theorem setS_nextStore (q : Seq) (d : BitVec 5) (v : BitVec 64) : (setS q d v).nextStore = q.nextStore := by unfold setS; split <;> rfl
@[simp] theorem setS_touched (q : Seq) (d : BitVec 5) (v : BitVec 64) : (setS q d v).touched = q.touched := by unfold setS; split <;> rfl
@[simp] theorem setS_waitStart (q : Seq) (d : BitVec 5) (v : BitVec 64) : (setS q d v).waitStart = q.waitStart := by unfold setS; split <;> rfl
@[simp] theorem setS_waite (q : Seq) (d : BitVec 5) (v : BitVec 64) : (setS q d v).waite = q.waite := by unfold setS; split <;> rfl
@[simp] theorem setS_exiting (q : Seq) (d : BitVec 5) (v : BitVec 64) : (setS q d v).exiting = q.exiting := by unfold setS; split <;> rfl
@[simp] theorem setS_exitCause (q : Seq) (d : BitVec 5) (v : BitVec 64) : (setS q d v).exitCause = q.exitCause := by unfold setS; split <;> rfl
@[simp] theorem setS_loads (q : Seq) (d : BitVec 5) (v : BitVec 64) : (setS q d v).loads = q.loads := by unfold setS; split <;> rfl
@[simp] theorem setS_nextLoad (q : Seq) (d : BitVec 5) (v : BitVec 64) : (setS q d v).nextLoad = q.nextLoad := by unfold setS; split <;> rfl
@[simp] theorem setS_endMark (q : Seq) (d : BitVec 5) (v : BitVec 64) : (setS q d v).endMark = q.endMark := by unfold setS; split <;> rfl
@[simp] theorem setS_asked (q : Seq) (d : BitVec 5) (v : BitVec 64) : (setS q d v).asked = q.asked := by unfold setS; split <;> rfl
@[simp] theorem setS_bar (q : Seq) (d : BitVec 5) (v : BitVec 64) : (setS q d v).bar = q.bar := by unfold setS; split <;> rfl
@[simp] theorem setS_lines (q : Seq) (d : BitVec 5) (v : BitVec 64) : (setS q d v).lines = q.lines := by unfold setS; split <;> rfl
@[simp] theorem setS_inUse (q : Seq) (d : BitVec 5) (v : BitVec 64) : (setS q d v).inUse = q.inUse := by unfold setS; split <;> rfl
@[simp] theorem setS_nextReq (q : Seq) (d : BitVec 5) (v : BitVec 64) : (setS q d v).nextReq = q.nextReq := by unfold setS; split <;> rfl
@[simp] theorem setS_qputWait (q : Seq) (d : BitVec 5) (v : BitVec 64) : (setS q d v).qputWait = q.qputWait := by unfold setS; split <;> rfl

/-! ## Queues of an element -/

@[simp] theorem setQ_slots (e : Elem) (q : Nat) (x : Queue) : (setQ e q x).slots = e.slots := rfl
@[simp] theorem setQ_faulty (e : Elem) (q : Nat) (x : Queue) : (setQ e q x).faulty = e.faulty := rfl
@[simp] theorem setQ_preds (e : Elem) (q : Nat) (x : Queue) : (setQ e q x).preds = e.preds := rfl
@[simp] theorem setQ_f (e : Elem) (q : Nat) (x : Queue) : (setQ e q x).f = e.f := rfl
@[simp] theorem setQ_m (e : Elem) (q : Nat) (x : Queue) : (setQ e q x).m = e.m := rfl
@[simp] theorem setQ_la (e : Elem) (q : Nat) (x : Queue) : (setQ e q x).la = e.la := rfl
@[simp] theorem setQ_lb (e : Elem) (q : Nat) (x : Queue) : (setQ e q x).lb = e.lb := rfl
@[simp] theorem setQ_pend (e : Elem) (q : Nat) (x : Queue) : (setQ e q x).pend = e.pend := rfl
@[simp] theorem setQ_ef (e : Elem) (q : Nat) (x : Queue) : (setQ e q x).ef = e.ef := rfl
@[simp] theorem setQ_fpctl (e : Elem) (q : Nat) (x : Queue) : (setQ e q x).fpctl = e.fpctl := rfl
@[simp] theorem setQ_fpst (e : Elem) (q : Nat) (x : Queue) : (setQ e q x).fpst = e.fpst := rfl
@[simp] theorem setQ_cychi (e : Elem) (q : Nat) (x : Queue) : (setQ e q x).cychi = e.cychi := rfl
@[simp] theorem setQ_pow (e : Elem) (q : Nat) (x : Queue) : (setQ e q x).pow = e.pow := rfl
@[simp] theorem setQ_st (e : Elem) (q : Nat) (x : Queue) : (setQ e q x).st = e.st := rfl
@[simp] theorem setQ_wave (e : Elem) (q : Nat) (x : Queue) : (setQ e q x).wave = e.wave := rfl
@[simp] theorem setQ_busy (e : Elem) (q : Nat) (x : Queue) : (setQ e q x).busy = e.busy := rfl
@[simp] theorem setQ_binds (e : Elem) (q : Nat) (x : Queue) : (setQ e q x).binds = e.binds := rfl
@[simp] theorem setQ_det (e : Elem) (q : Nat) (x : Queue) : (setQ e q x).det = e.det := rfl
@[simp] theorem setQ_reqFrom (e : Elem) (q : Nat) (x : Queue) : (setQ e q x).reqFrom = e.reqFrom := rfl
@[simp] theorem setQ_otag (e : Elem) (q : Nat) (x : Queue) : (setQ e q x).otag = e.otag := rfl
@[simp] theorem setQ_out (e : Elem) (q : Nat) (x : Queue) : (setQ e q x).out = e.out := rfl
@[simp] theorem setQ_fmts (e : Elem) (q : Nat) (x : Queue) : (setQ e q x).fmts = e.fmts := rfl
@[simp] theorem setQ_spcfg (e : Elem) (q : Nat) (x : Queue) : (setQ e q x).spcfg = e.spcfg := rfl
@[simp] theorem setQ_spBusy (e : Elem) (q : Nat) (x : Queue) : (setQ e q x).spBusy = e.spBusy := rfl
@[simp] theorem setQ_seqBusy (e : Elem) (q : Nat) (x : Queue) : (setQ e q x).seqBusy = e.seqBusy := rfl
@[simp] theorem setQ_recs (e : Elem) (q : Nat) (x : Queue) : (setQ e q x).recs = e.recs := rfl
@[simp] theorem setQ_seals (e : Elem) (q : Nat) (x : Queue) : (setQ e q x).seals = e.seals := rfl
@[simp] theorem setQ_spad (e : Elem) (q : Nat) (x : Queue) : (setQ e q x).spad = e.spad := rfl
@[simp] theorem setQ_full (e : Elem) (q : Nat) (x : Queue) : (setQ e q x).full = e.full := rfl
@[simp] theorem setQ_l1 (e : Elem) (q : Nat) (x : Queue) : (setQ e q x).l1 = e.l1 := rfl
@[simp] theorem setQ_tlb (e : Elem) (q : Nat) (x : Queue) : (setQ e q x).tlb = e.tlb := rfl
@[simp] theorem setQ_accs (e : Elem) (q : Nat) (x : Queue) : (setQ e q x).accs = e.accs := rfl
@[simp] theorem setQ_nextAcc (e : Elem) (q : Nat) (x : Queue) : (setQ e q x).nextAcc = e.nextAcc := rfl
@[simp] theorem setQ_touched (e : Elem) (q : Nat) (x : Queue) : (setQ e q x).touched = e.touched := rfl
@[simp] theorem setQ_cancelled (e : Elem) (q : Nat) (x : Queue) : (setQ e q x).cancelled = e.cancelled := rfl
@[simp] theorem setQ_portBusy (e : Elem) (q : Nat) (x : Queue) : (setQ e q x).portBusy = e.portBusy := rfl
@[simp] theorem setQ_portRr (e : Elem) (q : Nat) (x : Queue) : (setQ e q x).portRr = e.portRr := rfl
@[simp] theorem setQ_portWait (e : Elem) (q : Nat) (x : Queue) : (setQ e q x).portWait = e.portWait := rfl
@[simp] theorem setQ_landing (e : Elem) (q : Nat) (x : Queue) : (setQ e q x).landing = e.landing := rfl
@[simp] theorem setQ_held (e : Elem) (q : Nat) (x : Queue) : (setQ e q x).held = e.held := rfl
@[simp] theorem setQ_waiter (e : Elem) (q : Nat) (x : Queue) : (setQ e q x).waiter = e.waiter := rfl
@[simp] theorem setQ_notify (e : Elem) (q : Nat) (x : Queue) : (setQ e q x).notify = e.notify := rfl
@[simp] theorem setQ_inbox (e : Elem) (q : Nat) (x : Queue) : (setQ e q x).inbox = e.inbox := rfl
@[simp] theorem setQ_binbox (e : Elem) (q : Nat) (x : Queue) : (setQ e q x).binbox = e.binbox := rfl
@[simp] theorem setQ_xops (e : Elem) (q : Nat) (x : Queue) : (setQ e q x).xops = e.xops := rfl
@[simp] theorem setQ_seqArm (e : Elem) (q : Nat) (x : Queue) : (setQ e q x).seqArm = e.seqArm := rfl
@[simp] theorem setQ_seqQ (e : Elem) (q : Nat) (x : Queue) : (setQ e q x).seqQ = e.seqQ := rfl
@[simp] theorem setQ_seqBase (e : Elem) (q : Nat) (x : Queue) : (setQ e q x).seqBase = e.seqBase := rfl
@[simp] theorem setQ_seqExpect (e : Elem) (q : Nat) (x : Queue) : (setQ e q x).seqExpect = e.seqExpect := rfl
@[simp] theorem setQ_seqOcc (e : Elem) (q : Nat) (x : Queue) : (setQ e q x).seqOcc = e.seqOcc := rfl
@[simp] theorem setQ_markers (e : Elem) (q : Nat) (x : Queue) : (setQ e q x).markers = e.markers := rfl
@[simp] theorem setQ_installing (e : Elem) (q : Nat) (x : Queue) : (setQ e q x).installing = e.installing := rfl
@[simp] theorem setQ_trapRec (e : Elem) (q : Nat) (x : Queue) : (setQ e q x).trapRec = e.trapRec := rfl
@[simp] theorem setQ_trapAt (e : Elem) (q : Nat) (x : Queue) : (setQ e q x).trapAt = e.trapAt := rfl
@[simp] theorem setQ_frozen (e : Elem) (q : Nat) (x : Queue) : (setQ e q x).frozen = e.frozen := rfl

end Sys2Proof.Machine
end

