-- ==== Sys2Proof/Laws/Ops.lean ====
section
/-!
SUPPORT. Laws/Ops.lean: for each operation that the meanings share, what it can do, said once: a unit's step, the completion and the
traps of a sequencer's instruction, an element's trap, a dequeue, a store of an element's firing, and a sequencer's translation and load.
-/
namespace Sys2Proof.Machine

/-! ## Unit steps -/

theorem withUnit_of_ok {ok : Bool} (h : ok = true) (s : State) (f : State → State) : withUnit ok s f = .next (f s) := by
  simp [withUnit, h]

theorem withUnit_of_not {ok : Bool} (h : ok = false) (s : State) (f : State → State) : withUnit ok s f = .fault .noSuchUnit := by
  simp [withUnit, h]

/-- A unit's step answers a next state for units that exist only, and is never refused. -/
theorem withUnit_cases (ok : Bool) (s : State) (f : State → State) :
    (ok = true ∧ withUnit ok s f = .next (f s)) ∨ (ok = false ∧ withUnit ok s f = .fault .noSuchUnit) := by
  cases ok <;> simp [withUnit]

/-! ## The sequencer's state -/

/-- A change of a sequencer changes nothing else. -/
theorem modSeq_spec (s : State) (r : Nat) (f : Seq → Seq) :
    getR (modSeq s r f) r = { getR s r with seq := f (getSeq s r) } ∧ (∀ q, q ≠ r → getR (modSeq s r f) q = getR s q) ∧
      { modSeq s r f with regions := s.regions } = s :=
  ⟨by simp [modSeq, getSeq], fun q h => by simp [modSeq, getR_modR_other _ _ _ _ h], rfl⟩

theorem seqDo_eq {s : State} {f : Nat → Seq → State} {t : State} (h : f s.focus.region (getSeq s s.focus.region) = t) :
    seqDo s f = .next t := by subst h; rfl

/-- An instruction that completes: the registers change by f, PC moves on, and no wait is left. -/
theorem seqNext_spec (s : State) (r : Nat) (f : Seq → Seq) :
    getSeq (seqNext s r f) r = nextPc (f (getSeq s r)) ∧ (∀ q, q ≠ r → getR (seqNext s r f) q = getR s q) ∧
      { seqNext s r f with regions := s.regions } = s :=
  ⟨by simp [seqNext], (modSeq_spec s r _).2.1, rfl⟩

/-- sd is written (s0 stays 0), PC moves on, and every other register stays. -/
theorem seqPut_spec (s : State) (r : Nat) (d : BitVec 5) (v : BitVec 64) :
    (∀ n, getS (getSeq (seqPut s r d v) r) n = if n = d ∧ d ≠ 0 then v else getS (getSeq s r) n) ∧
      (getSeq (seqPut s r d v) r).pc = ((getSeq s r).pc + 4) &&& pcMask ∧
      (∀ q, q ≠ r → getR (seqPut s r d v) q = getR s q) ∧ { seqPut s r d v with regions := s.regions } = s :=
  ⟨fun n => by simp [seqPut, seqNext, getS_setS], by simp [seqPut, seqNext, nextPc, setPc], (modSeq_spec s r _).2.1, rfl⟩

/-! ## Taking a trap and returning from it (R438, R440) -/

/-- TakeTrap: the return address, the cause, the value and the mode are saved; supervisor mode is entered at TVEC; the registers stay. -/
theorem takeTrap_spec (s : State) (r : Nat) (c : BitVec 8) (src : Nat) (as : Bool) (val : BitVec 64) :
    getSeq (takeTrap s r c src as val) r = { dropWait (getSeq s r) with
      tpc := (getSeq s r).pc, tcause := mkTcause src as c, tval := val, pmode := (getSeq s r).sup, sup := true
      pc := (getSeq s r).tvec } ∧
      (∀ n, getS (getSeq (takeTrap s r c src as val) r) n = getS (getSeq s r) n) ∧
      (∀ q, q ≠ r → getR (takeTrap s r c src as val) q = getR s q) ∧ { takeTrap s r c src as val with regions := s.regions } = s :=
  ⟨by simp [takeTrap], fun n => by simp only [takeTrap, getSeq_modSeq]; rfl, (modSeq_spec s r _).2.1, rfl⟩

theorem returnTrap_spec (s : State) (r : Nat) :
    getSeq (returnTrap s r) r = { getSeq s r with pc := (getSeq s r).tpc, sup := (getSeq s r).pmode } ∧
      (∀ q, q ≠ r → getR (returnTrap s r) q = getR s q) ∧ { returnTrap s r with regions := s.regions } = s :=
  ⟨by simp [returnTrap], (modSeq_spec s r _).2.1, rfl⟩

/-- A privileged instruction in supervisor mode has its effect; in team mode it takes the trap with cause 0x07. -/
theorem seqPriv_supervisor {s : State} (h : (getSeq s s.focus.region).sup = true) (f : Nat → Seq → State) :
    seqPriv s f = .next (f s.focus.region (getSeq s s.focus.region)) := by
  simp [seqPriv, seqDo, h]
theorem seqPriv_team {s : State} (h : (getSeq s s.focus.region).sup = false) (f : Nat → Seq → State) :
    seqPriv s f = .next (seqTrap s s.focus.region 0x07 0) := by
  simp [seqPriv, seqDo, h]

/-- A trap that becomes pending, or the cause that a waiting EXIT keeps (R436). -/
theorem raiseAsync_spec (s : State) (r cls : Nat) (c : BitVec 8) (src : Nat) (val : BitVec 64) :
    (getSeq s r).exiting = false →
      getSeq (raiseAsync s r cls c src val) r = { getSeq s r with pending := (getSeq s r).pending ++ [⟨cls, c, src, val⟩] } := by
  intro h; simp [raiseAsync, h]

/-! ## The sequencer's addresses, translations and loads (R284, R290) -/

theorem withAddr_inside (s : State) (r va : Nat) (h : va < 2 ^ 57) (f : Nat → State) : withAddr s r va f = f va := by
  unfold withAddr
  rw [if_neg (by omega)]
  simp

theorem withAddr_outside (s : State) (r : Nat) (va : Int) (h : va < 0 ∨ 2 ^ 57 ≤ va) (f : Nat → State) :
    withAddr s r va f = seqTrap s r 0x06 (BitVec.ofNat 64 (wrap 64 va)) := by
  unfold withAddr
  rw [if_pos (by omega)]

/-- A translation that hits the region's TLB and permits the access leaves the state as it is. -/
theorem seqXlat_hit {s : State} {r va k : Nat} {x : Xlat} (hv : va < 2 ^ 57)
    (hit : (getR s r).tlb.find? (fun y => xlatHit y (asidOf (getR s r)) (ownerOf (getR s r)) va) = some x)
    (ok : xlatCheck s x va (seqReq s r k) = none) : seqXlat s r va k = .ok s x := by
  have e : translate s r va (seqReq s r k) = .ok s x := by
    unfold translate
    rw [if_neg (by omega)]
    simp only [seqReq] at ok ⊢
    rw [hit]
    simp only [ok]
  unfold seqXlat
  simp only [e]

/-- A load that hits the data cache, on a page of normal memory, reads the bytes of its line. -/
theorem seqLoad_hit {s : State} {r va n : Nat} {x : Xlat} {c : CacheLine} (hv : va < 2 ^ 57) (hn : va % n = 0)
    (hx : seqUse s r va 0 = .ok s x) (hm : paClass s (viaOf x va).pa = .gddr) (hs : storePending (getSeq s r) (viaOf x va).pa = false)
    (ht : pteMt x.pte = 0) (hc : (getSeq s r).dcache.find? (fun l => l.line == (viaOf x va).pa / 64) = some c) :
    seqLoad s r va n = .ok s (((lineBytes c.data 0 64).drop (va % 64)).take n) := by
  unfold seqLoad seqLoadLine
  rw [if_neg (by omega), if_neg (by simpa using hn), hx]
  simp only [hs, hm, ht, hc, if_true]
  rfl

/-- What waits for the sequencer's earlier writes goes on once they are performed. -/
theorem afterWrites_performed {s : State} {r c : Nat} (h : seqPerformed s r c = true) (f : State → State) :
    afterWrites s r c f = f (modSeq s r fun q => { q with touched := q.touched.filter fun ln => !lineAt s r ln 4 }) := by
  simp [afterWrites, h]
theorem afterWrites_waits {s : State} {r c : Nat} (h : seqPerformed s r c = false) (f : State → State) :
    afterWrites s r c f = seqPush s r c := by
  simp [afterWrites, h]

/-! ## Elements -/

/-- An element's trap: the record, Trapped, and nothing else; one that is Trapped already takes no other. -/
theorem elemTrap_spec (s : State) (k o : Nat) (c : BitVec 8) (code beat slot : Nat) (w : BitVec 64) (ad : Nat) (ops : List Vec) :
    getE (elemTrap s k o c code beat slot w ad ops) k =
      (if (getE s k).st = .trapped then getE s k else { getE s k with
        st := .trapped, trapAt := (getR s (keyRegion k)).cycle, trapRec := some (trapRecord (getE s k) k o c code beat slot w ad ops) }) ∧
      (∀ j, j ≠ k → getE (elemTrap s k o c code beat slot w ad ops) j = getE s j) ∧
      { elemTrap s k o c code beat slot w ad ops with elems := s.elems } = s :=
  ⟨by simp [elemTrap, modE, getE, setE], fun j h => by simp [elemTrap, modE, getE, setE, tget_tset, h], rfl⟩

theorem getQ_setQ (e : Elem) (q n : Nat) (x : Queue) : getQ (setQ e q x) n = if n = q then x else getQ e n := by
  simp [getQ, setQ, tget_tset]

/-- A dequeue takes the head of one queue, and closes it behind a token that ends the wave. -/
theorem getQ_dequeue (e : Elem) (q n : Nat) : getQ (dequeue e q) n = if n = q then
    (match (getQ e q).toks with | [] => getQ e q | t :: l => { getQ e q with toks := l, closed := (getQ e q).closed || t.eow }) else getQ e n := by
  by_cases h : n = q
  · subst h
    rw [if_pos rfl]
    unfold dequeue
    cases ht : (getQ e n).toks <;> simp [ht, getQ_setQ]
  · rw [if_neg h]
    unfold dequeue
    cases ht : (getQ e q).toks <;> simp [ht, getQ_setQ, h]

/-- Apart from its queues a dequeue leaves the element as it is. -/
theorem dequeue_rest (e : Elem) (q : Nat) : { dequeue e q with queues := e.queues } = e := by
  unfold dequeue
  cases ht : (getQ e q).toks <;> simp [ht, setQ]

/-! ## Firing (R102, R107) -/

/-- A form that is not ready, or whose unit is not, does nothing. -/
theorem fireForm_waits (f : Form) (cpb rw : Nat) (unit : Bool) (ctx : Nat) (carry : BeatOps → Bool) (exe : Exe)
    (after : Firing → State → State) (s : State) (h : (ready s (focusKey s) f ctx && unit) = false) :
    fireForm f cpb rw unit ctx carry exe after s = s := by
  unfold fireForm; rw [h]; rfl

/-- A form that is ready runs its beats; what follows happens where no beat traps. -/
theorem fireForm_runs (f : Form) (cpb rw : Nat) (unit : Bool) (ctx : Nat) (carry : BeatOps → Bool) (exe : Exe)
    (after : Firing → State → State) (s : State) (h : (ready s (focusKey s) f ctx && unit) = true) :
    fireForm f cpb rw unit ctx carry exe after s =
      (let x := fireCtx s f cpb
       let y := runBeats s x exe rw
       if y.trap.isNone then after y (finish s x rw carry y) else finish s x rw carry y) := by
  unfold fireForm; rw [h]; rfl

/-- What a firing leaves: every other element and every other region as they were, and memory untouched. -/
theorem finish_frame (s : State) (x : Ctx) (rw : Nat) (carry : BeatOps → Bool) (y : Firing) :
    (∀ j, j ≠ x.key → getE (finish s x rw carry y) j = getE s j) ∧
      (∀ r, r ≠ keyRegion x.key → getR (finish s x rw carry y) r = getR s r) ∧
      { finish s x rw carry y with regions := s.regions, elems := s.elems } = s := by
  unfold finish
  cases y.trap with
  | none =>
    exact ⟨fun j h => by simp [getE, setE, tget_tset, h], fun r h => by simp [getR_modR_other _ _ _ _ h], rfl⟩
  | some t =>
    exact ⟨fun j h => by simp [elemTrap, modE, getE, setE, tget_tset, h], fun r h => by simp [elemTrap, getR_modR_other _ _ _ _ h], rfl⟩

end Sys2Proof.Machine
end

