-- ==== Sys2Proof/Tests/Slice0.lean ====
section
/-!
SUPPORT. Tests/Slice0.lean: small tests of the model, each on one step, with expected values worked out by hand from the rules that
are named, or taken from the spec's examples; and for each statement states that meet its hypotheses.
-/
set_option linter.unusedSimpArgs false
namespace Sys2Proof.Tests
set_option Elab.async false
open Sys2Proof.Machine Sys2Proof.Claims

/-! ## Small states -/

/-- A header with the default guard: a type, a number of beats. -/
def hd (ty : LaneTy) (b : Beats := .x1) : Hdr := ⟨0, 0, 0, none, .normal, ty, none, false, b⟩

/-- An element that runs, with its tokens of power. -/
def el0 : Elem := { st := .running, pow := 256 }

/-- Region 0 runs a team in cycle 10; element 0 of site 0 is given. -/
def reg0 : Region := { team := some placeTeam, rstate := .running, cycle := 10 }
def atElem (e : Elem) : State := { State.reset with regions := [(0, reg0)], elems := [(0, e)] }

/-- What a step's next state shows; none where it stops. -/
def look {α : Type} (f : State → α) : Host.Outcome State Fault Refusal → Option α
  | .next s => some (f s)
  | .fault _ => none
  | .refused _ => none

/-- Register f n of element 0 after an instruction in focus. -/
def fAfter (e : Elem) (n : Nat) (i : Instr) : Option Vec := look (fun t => tget (getE t 0).f n 0) (exec i (atElem e))

/-! ## Well-formed instructions: an ill-formed term for each check (R63 to R75, R87) -/

theorem test_wf_ok : (Instr.add (hd .w) (.f 1) (.f 2) (.f 3)).wf = true := by decide
theorem test_wf_type : (Instr.add (hd .bf) (.f 1) (.f 2) (.f 3)).wf = false := by decide
theorem test_wf_beats : (Instr.halt (hd .b .x2)).wf = false := by decide
theorem test_wf_queue_beats : (Instr.add (hd .w .x16) (.f 1) (.q 0) (.f 3)).wf = false := by decide
theorem test_wf_dest : (Instr.add (hd .w) (.la) (.f 2) (.f 3)).wf = false := by decide
theorem test_wf_source : (Instr.add (hd .w) (.f 1) (.m 2) (.f 3)).wf = false := by decide
theorem test_wf_predicate : (Instr.cmpeq { hd .w with ps := some (.carry, 0) } (.f 1) (.f 2) (.f 3)).wf = false := by decide
theorem test_wf_power : (Instr.mul { hd .w with pwr := .light } (.f 1) (.f 2) (.f 3)).wf = false := by decide
theorem test_wf_dq : (Instr.drop (hd .b) (.q 0)).wf = false := by decide
theorem test_wf_immediate : (Instr.addi (hd .b) (.f 1) (.f 2) 200).wf = false := by decide
theorem test_wf_shift : (Instr.shli (hd .w) (.f 1) (.f 2) 32).wf = false := by decide
theorem test_wf_field : (Instr.ext (hd .h) (.f 1) (.f 2) 8 8).wf = false := by decide
theorem test_wf_lane : (Instr.lbcst (hd .w) (.f 1) (.f 2) 4).wf = false := by decide
theorem test_wf_lfun : (Instr.lfun (hd .w) (.f 1) (.f 2) (.f 3) 5).wf = false := by decide
theorem test_wf_txch : (Instr.txch (hd .b) (.f 1) (.f 2) 0).wf = false := by decide
theorem test_wf_tred : (Instr.tred (hd .w) (.f 1) (.f 2) 15 3).wf = false := by decide
theorem test_wf_ftset : (Instr.ftset (hd .b) (.f 1) 0x14 0).wf = false := by decide
theorem test_wf_scope : (Instr.sendo (hd .w) (.q 0) (.f 1) false 0 .e 0).wf = false := by decide
theorem test_wf_spcfg : (Instr.spcfg (hd .b) true 2 2).wf = false := by decide
theorem test_wf_seqt : (Instr.seqtRst (hd .b) (.f 1) 6 0).wf = false := by decide
theorem test_wf_ctl : (Instr.ctlWrite (hd .w) (.f 1) 2).wf = false := by decide
theorem test_wf_round : (Instr.frnd (hd .w) (.f 1) (.f 2) 5).wf = false := by decide
theorem test_wf_cvt : (Instr.cvt (hd .w) (.f 1) (.f 2) 2 false false 0 0).wf = false := by decide
theorem test_wf_mxq : (Instr.mxq (hd .w) (.f 1) (.f 2) (.f 3) 4 0).wf = false := by decide
theorem test_wf_atom : (Instr.atom (hd .w) (.f 1) (.f 2) 10 0 0 0 .reg).wf = false := by decide
theorem test_wf_seqAtom : (Instr.seqAtom 1 2 3 1 0 10).wf = false := by decide

/-! ## Decoding: words of the spec's examples, and words written out from its tables -/

theorem test_decode_words : Obligations.DecodeWords := ⟨by decide +kernel, by decide +kernel, by decide +kernel⟩

/-- R63 to R69: fadd.w f2, f0, f1 in slot form: V 1, TQ 7, PWR 1, OP 0x48, TY 2, D 2, A 0, B 1. -/
theorem test_decode_float : decode (.elem (0x8038100000000000 ||| (0x48 <<< 37) ||| (2 <<< 34) ||| (2 <<< 28) ||| (1 <<< 16))) =
    some (.fadd (hd .w) (.f 2) (.f 0) (.f 1)) := by decide +kernel

/-- R77: an opcode that is reserved makes the slot faulty with cause 1; bit 63 clear makes it empty. -/
theorem test_decode_reserved : decode (.elem (0x8038100000000000 ||| (0x3B <<< 37))) = some (.faultySlotFire 1) ∧
    decode (.elem 0x0038100000000000) = none := by decide +kernel

/-- R80, R82: one word of each other family of sequencer instructions. -/
theorem test_decode_sequencer :
    [(0x1C200087, Instr.lhi 1 0x87), (0x20400005, .ldl 2 5), (0x0C218500, .seqOri 1 1 0x8500), (0x14210020, .seqShli 1 1 32),
     (0x74010014, .setc 1 0x014), (0x94C00005, .ldcfg 6 5)].all (fun p => decode (.seq p.1) == some p.2) = true := by decide +kernel

/-- R85: CLZ with a non-zero sb field is a reserved field value. -/
theorem test_decode_alu_reserved : decode (.seq 0x00640815) = some (.illegalInstruction 0x02) := by decide +kernel

/-! ## Elements: the operands of a firing that is ready -/

/-- The model's test of readiness gives what Ready states. -/
theorem ready_of {s : State} {f : Form} {ctx : Nat} (hg : OnGrid s) (h : ready s (focusKey s) f ctx = true) : Ready s f ctx := by
  obtain ⟨hs, he, _⟩ := hg
  have hk : keyRegion (focusKey s) = s.focus.region := by simp only [keyRegion, focusKey, ekey]; omega
  simp only [ready, canPick, hk, Bool.and_eq_true, beq_iff_eq, decide_eq_true_eq, Bool.not_eq_true', Bool.or_eq_false_iff, List.all_eq_true] at h
  obtain ⟨⟨⟨⟨⟨⟨⟨⟨h1, h2⟩, h3⟩, h4⟩, h5⟩, h6⟩, h7⟩, h8⟩, h9⟩ := h
  refine ⟨h1, h2, h3, ?_, ?_, ?_, ?_, ?_, h9⟩
  · intro j hj hm
    have hb := congrArg (fun x => x.getLsbD j) (by simpa [predTest] using h4 :
      ((getE s (focusKey s)).preds.extractLsb' (4 * f.hdr.ph.toNat) 4 ^^^ f.hdr.val) &&& f.hdr.mask = 0)
    have hm' : f.hdr.mask[j] = true := by simpa [BitVec.getLsbD_eq_getElem hj] using hm
    simpa [hm', hj, elem] using hb
  · intro q v hq
    rw [hq] at h5
    simp only [tagOk, Bool.and_eq_true, bne_iff_ne] at h5
    refine ⟨h5.1, ?_⟩
    cases ht : headTok (elem s) q with
    | none => simp only [elem] at ht; simp [ht] at h5
    | some t =>
      refine ⟨t, rfl, ?_⟩
      simp only [elem] at ht
      have hv : t.vc = v.toNat := by simpa [ht] using h5.2
      exact BitVec.eq_of_toNat_eq hv
  · intro q hq; have := h6 q hq; simpa [elem] using this
  · intro k hk; rw [hk] at h7; simpa using h7
  · intro u hu o j ho hp
    have key : fieldPending (elem s) u = false := by
      simp only [List.mem_cons, List.not_mem_nil, or_false] at hu
      rcases hu with rfl | rfl | rfl | rfl <;> simp_all [elem]
    simpa [fieldPending, ho, hp] using key

/-! ### Integer instructions (R141 to R145, R153 to R155) -/

def intEl : Elem := { el0 with
  f := [(0, 0x80000000_00000005_FFFFFFFF_00000010), (1, 0x80000000_00000007_00000001_00000003), (3, 0x00000001_00000001_00000001_00000001)] }

theorem test_integer_w :
    [(Instr.add (hd .w) (.f 2) (.f 0) (.f 1), 0x00000000_0000000C_00000000_00000013),
     (.sub (hd .w) (.f 2) (.f 0) (.f 1), 0x00000000_FFFFFFFE_FFFFFFFE_0000000D),
     (.adds (hd .w) (.f 2) (.f 0) (.f 1), 0x80000000_0000000C_00000000_00000013),
     (.addus (hd .w) (.f 2) (.f 0) (.f 1), 0xFFFFFFFF_0000000C_FFFFFFFF_00000013),
     (.subus (hd .w) (.f 2) (.f 0) (.f 1), 0x00000000_00000000_FFFFFFFE_0000000D),
     (.subs (hd .w) (.f 2) (.f 0) (.f 1), 0x00000000_FFFFFFFE_FFFFFFFE_0000000D),
     (.mul (hd .w) (.f 2) (.f 0) (.f 1), 0x00000000_00000023_FFFFFFFF_00000030),
     (.mulh (hd .w) (.f 2) (.f 0) (.f 1), 0x40000000_00000000_FFFFFFFF_00000000),
     (.mulhu (hd .w) (.f 2) (.f 0) (.f 1), 0x40000000_00000000_00000000_00000000)].all
      (fun p => fAfter intEl 2 p.1 == some p.2) = true := by decide +kernel

theorem test_compare_w :
    [(Instr.min (hd .w) (.f 2) (.f 0) (.f 1), 0x80000000_00000005_FFFFFFFF_00000003),
     (.max (hd .w) (.f 2) (.f 0) (.f 1), 0x80000000_00000007_00000001_00000010),
     (.minu (hd .w) (.f 2) (.f 0) (.f 1), 0x80000000_00000005_00000001_00000003),
     (.maxu (hd .w) (.f 2) (.f 0) (.f 1), 0x80000000_00000007_FFFFFFFF_00000010),
     (.absd (hd .w) (.f 2) (.f 0) (.f 1), 0x00000000_00000002_FFFFFFFE_0000000D),
     (.cmpeq (hd .w) (.f 2) (.f 0) (.f 1), 0xFFFFFFFF_00000000_00000000_00000000),
     (.cmplt (hd .w) (.f 2) (.f 0) (.f 1), 0x00000000_FFFFFFFF_FFFFFFFF_00000000),
     (.cmpltu (hd .w) (.f 2) (.f 0) (.f 1), 0x00000000_FFFFFFFF_00000000_00000000)].all
      (fun p => fAfter intEl 2 p.1 == some p.2) = true := by decide +kernel

theorem test_bits_w :
    [(Instr.and (hd .w) (.f 2) (.f 0) (.f 1), 0x80000000_00000005_00000001_00000000),
     (.or (hd .w) (.f 2) (.f 0) (.f 1), 0x80000000_00000007_FFFFFFFF_00000013),
     (.xor (hd .w) (.f 2) (.f 0) (.f 1), 0x00000000_00000002_FFFFFFFE_00000013),
     (.andn (hd .w) (.f 2) (.f 0) (.f 1), 0x00000000_00000000_FFFFFFFE_00000010),
     (.shl (hd .w) (.f 2) (.f 0) (.f 1), 0x80000000_00000280_FFFFFFFE_00000080),
     (.shr (hd .w) (.f 2) (.f 0) (.f 1), 0x80000000_00000000_7FFFFFFF_00000002),
     (.sar (hd .w) (.f 2) (.f 0) (.f 1), 0x80000000_00000000_FFFFFFFF_00000002),
     (.rol (hd .w) (.f 2) (.f 0) (.f 1), 0x80000000_00000280_FFFFFFFF_00000080),
     (.popc (hd .w) (.f 2) (.f 0), 0x00000001_00000002_00000020_00000001),
     (.clz (hd .w) (.f 2) (.f 0), 0x00000000_0000001D_00000000_0000001B)].all
      (fun p => fAfter intEl 2 p.1 == some p.2) = true := by decide +kernel

theorem test_three_operands :
    [(Instr.mad (hd .w) (.f 2) (.f 0) (.f 1) (.f 3), 0x00000001_00000024_00000000_00000031),
     (.addmin (hd .w) (.f 2) (.f 0) (.f 1) (.f 3), 0x80000000_00000001_00000000_00000001),
     (.addmax (hd .w) (.f 2) (.f 0) (.f 1) (.f 3), 0x00000001_0000000C_00000001_00000013),
     (.dot4 (hd .w) (.f 2) (.f 0) (.f 1) (.f 3), 0x00004001_00000024_00000000_00000031),
     (.sad (hd .w) (.f 2) (.f 0) (.f 1) (.f 3), 0x00000001_00000003_000003FC_0000000E),
     (.sel (hd .w) (.f 2) (.f 0) (.f 1) (.f 3), 0x80000000_00000005_FFFFFFFF_00000010)].all
      (fun p => fAfter intEl 2 p.1 == some p.2) = true := by decide +kernel

theorem test_immediates :
    [(Instr.addi (hd .w) (.f 2) (.f 0) 0xFFF, 0x7FFFFFFF_00000004_FFFFFFFE_0000000F),
     (.andi (hd .w) (.f 2) (.f 0) 0x014, 0x00000000_00000004_00000014_00000010),
     (.ori (hd .w) (.f 2) (.f 0) 0x001, 0x80000001_00000005_FFFFFFFF_00000011),
     (.xori (hd .w) (.f 2) (.f 0) 0xFFF, 0x7FFFFFFF_FFFFFFFA_00000000_FFFFFFEF),
     (.shli (hd .w) (.f 2) (.f 0) 4, 0x00000000_00000050_FFFFFFF0_00000100),
     (.shri (hd .w) (.f 2) (.f 0) 4, 0x08000000_00000000_0FFFFFFF_00000001),
     (.sari (hd .w) (.f 2) (.f 0) 4, 0xF8000000_00000000_FFFFFFFF_00000001),
     (.cmpeqi (hd .w) (.f 2) (.f 0) 0xFFF, 0x00000000_00000000_FFFFFFFF_00000000),
     (.cmplti (hd .w) (.f 2) (.f 0) 5, 0xFFFFFFFF_00000000_FFFFFFFF_00000000),
     (.ext (hd .w) (.f 2) (.f 0) 4 3, 0x00000000_00000000_0000000F_00000001)].all
      (fun p => fAfter intEl 2 p.1 == some p.2) = true := by decide +kernel

theorem test_moves :
    [(Instr.mov (hd .w) (.f 2) (.f 0), 0x80000000_00000005_FFFFFFFF_00000010),
     (.movi (hd .w) (.f 2) 0x012, 0x00000012_00000012_00000012_00000012),
     (.movhi (hd .w) (.f 2) (.f 3) 0x345, 0x00001345_00001345_00001345_00001345),
     (.ins (hd .w) (.f 2) (.f 0) 8 7, 0x00000000_00000500_0000FF00_00001000),
     (.lxor (hd .w) (.f 2) (.f 0) 1, 0x00000005_80000000_00000010_FFFFFFFF),
     (.lbcst (hd .w) (.f 2) (.f 0) 2, 0x00000005_00000005_00000005_00000005),
     (.lfun (hd .w) (.f 2) (.f 0) (.f 1) 3, 0x00000007_00000001_00000003_80000000),
     (.lpack (hd .w) (.f 2) (.f 0) (.f 1), 0x00000007_00010003_00000005_FFFF0010),
     (.lunpk (hd .h) (.f 2) (.f 0) true false, 0xFFFFFFFF_FFFFFFFF_00000000_00000010)].all
      (fun p => fAfter intEl 2 p.1 == some p.2) = true := by decide +kernel

/-- R155: the example of LFUN. -/
theorem test_lfun_example : fAfter { el0 with f := [(3, 0x001B_001A_0019_0018_0017_0016_0015_0014), (4, 0x0011_0010_000F_000E_000D_000C_000B_000A)] } 5
    (.lfun (hd .h) (.f 5) (.f 4) (.f 3) 7) = some 0x001A_0019_0018_0017_0016_0015_0014_0011 := by decide +kernel

/-- R110, R143: ADD with mode 5 writes the carry of lane 0; the firing pays two tokens and takes the datapath for a cycle. -/
theorem test_add_carry :
    look (fun t => ((getE t 0).preds, (getE t 0).pow, (getE t 0).busy, (getE t 0).la, (getR t 0).firedAt))
      (exec (.add { hd .w with ps := some (.carry, 3) } (.f 2) (.f 0) (.f 1)) (atElem { el0 with f := [(0, 0xFFFFFFFF), (1, 2)] })) =
    some (8, 254, 11, 1, some 10) := by decide +kernel

/-! ### Witnesses: states in which the element instructions fire -/

/-- An instruction of the element in focus is ready; tokens that it sends have context ctx. -/
def Fireable (i : Instr) (s : State) (ctx : Nat) : Prop := ∃ f, i.form = some f ∧ OnGrid s ∧ Ready s f ctx

def fireable (i : Instr) (s : State) (ctx : Nat) : Bool :=
  match i.form with
  | some f => decide (s.focus.site < 20) && decide (s.focus.elem < 16) && decide (s.focus.slot < 16) && ready s (focusKey s) f ctx
  | none => false

theorem fireable_iff {i : Instr} {s : State} {ctx : Nat} (h : fireable i s ctx = true) : Fireable i s ctx := by
  unfold fireable at h
  cases hf : i.form with
  | none => simp [hf] at h
  | some f =>
    simp only [hf, Bool.and_eq_true, decide_eq_true_eq] at h
    exact ⟨f, hf, ⟨h.1.1.1, h.1.1.2, h.1.2⟩, ready_of ⟨h.1.1.1, h.1.1.2, h.1.2⟩ h.2⟩

/-- The integer instructions, moves and immediates fire with registers, and with a token, a channel, a guard and a tag test. -/
theorem witness_integer : Fireable (.add (hd .w) (.f 2) (.f 0) (.f 1)) (atElem intEl) 0 ∧ Fireable (.mul (hd .w) (.f 2) (.f 0) (.f 1)) (atElem intEl) 0 ∧
    Fireable (.mad (hd .w) (.f 2) (.f 0) (.f 1) (.f 3)) (atElem intEl) 0 ∧ Fireable (.popc (hd .w) (.f 2) (.f 0)) (atElem intEl) 0 ∧
    Fireable (.dot4 (hd .w) (.f 2) (.f 0) (.f 1) (.f 3)) (atElem intEl) 0 ∧ Fireable (.addi (hd .w) (.f 2) (.f 0) 1) (atElem intEl) 0 ∧
    Fireable (.andi (hd .w) (.f 2) (.f 0) 1) (atElem intEl) 0 ∧ Fireable (.ext (hd .w) (.f 2) (.f 0) 31 0) (atElem intEl) 0 :=
  ⟨fireable_iff (by decide +kernel), fireable_iff (by decide +kernel), fireable_iff (by decide +kernel), fireable_iff (by decide +kernel),
   fireable_iff (by decide +kernel), fireable_iff (by decide +kernel), fireable_iff (by decide +kernel), fireable_iff (by decide +kernel)⟩

/-- Queue 0 holds two tokens; channel 0 goes to queue 1, where it holds two slots; predicate 0 is 1. -/
def tokEl : Elem := { el0 with
  preds := 1, queues := [(0, { bound := true, toks := [⟨0x0003, 7⟩, ⟨0x0404, 8⟩] }), (1, { bound := true, resv := [⟨.chan 0 0, 0⟩, ⟨.chan 0 0, 0⟩] })],
  binds := [(0, 0x4000000000000001)], f := [(0, 0x11), (1, 0x0101)] }

/-- A guard on predicate 0, and a tag test of VC 3 on queue 0. -/
def guarded (ty : LaneTy) (dq : Bool := false) : Hdr := { hd ty with mask := 1, val := 1, tagTest := some (0, 3), dq := dq }

/-- R184, R185: a token of a channel; DQ removes the head that is relayed. -/
theorem test_send : look (fun t => ((getE t 0).out.map fun o => (o.chan, o.tok.pay, o.tok.side, o.sent), (getE t 0).f))
    (exec (.send (hd .w) (.q 0) (.f 0) true 5 2) (atElem tokEl)) = some ([(0, 0x11, 0x0605, 10)], tokEl.f) := by decide +kernel
theorem test_relay : look (fun t => ((getE t 0).out.map fun o => (o.tok.pay, o.tok.side), (getQ (getE t 0) 0).toks.length))
    (exec (.relay (guarded .b true) (.q 0) (.q 0)) (atElem tokEl)) = some ([(7, 0x0003)], 1) := by decide +kernel
theorem test_sendo : look (fun t => ((getE t 0).out.map fun o => (o.tok.side, o.wait)))
    (exec (.sendo (hd .w) (.q 0) (.f 0) false 5 .pkg 0) (atElem tokEl)) = some [(0x5805, some (.pkg, 0))] := by decide +kernel
/-- R114, R186: dropping two tokens, the second with EOW, closes the queue. -/
theorem test_drop : look (fun t => ((getQ (getE t 0) 0).toks, (getQ (getE t 0) 0).closed))
    (exec (.drop { hd .b .x2 with dq := true } (.q 0)) (atElem tokEl)) = some ([], true) := by decide +kernel
/-- R187: queue 0 has two tokens, is open, and its head's sideband is 3. -/
theorem test_lcnt : fAfter tokEl 2 (.lcnt (hd .w) (.f 2) (.q 0)) = some 0x00000003_00000000_00000002_00000002 := by decide +kernel
theorem test_tags : look (fun t => tget (getE t 0).otag 0 0) (exec (.tags (hd .b) (.q 0) 9 2) (atElem tokEl)) = some 0x49 := by decide +kernel
/-- R97, R189: format 3 with register 2 in entry 7: FMT at [13:9], SREG at [8:5]. -/
theorem test_ftset : look (fun t => tget (getE t 0).fmts 7 0) (exec (.ftset (hd .b) (.f 2) 3 7) (atElem tokEl)) = some (3 * 512 + 2 * 32) := by
  decide +kernel
theorem test_spcfg : look (fun t => (getE t 0).spcfg) (exec (.spcfg (hd .b) true 1 2) (atElem tokEl)) =
    look (fun t => (getE t 0).spcfg) (exec (.spcfg (hd .b) true 1 2) (atElem el0)) := by decide +kernel

theorem witness_tokens : Fireable (.send (hd .w) (.q 0) (.f 0) false 5 0) (atElem tokEl) 0 ∧
    Fireable (.sendo (hd .w .x2) (.q 0) (.f 0) false 5 .sys 0) (atElem tokEl) 0 ∧ Fireable (.relay (guarded .b) (.q 0) (.q 0)) (atElem tokEl) 0 ∧
    Fireable (.drop { hd .b .x2 with dq := true } (.q 0)) (atElem tokEl) 0 ∧ Fireable (.lcnt (hd .w) (.f 2) (.q 5)) (atElem tokEl) 0 ∧
    Fireable (.tags (hd .b) (.q 5) 31 3) (atElem tokEl) 0 ∧ Fireable (.ftset (hd .b) (.f 15) 0x13 31) (atElem tokEl) 0 ∧
    Fireable (.spcfg (hd .b) false 0 0) (atElem tokEl) 0 ∧ Fireable (.add (guarded .w true) (.q 0) (.q 0) (.f 1)) (atElem tokEl) 0 :=
  ⟨fireable_iff (by decide +kernel), fireable_iff (by decide +kernel), fireable_iff (by decide +kernel), fireable_iff (by decide +kernel),
   fireable_iff (by decide +kernel), fireable_iff (by decide +kernel), fireable_iff (by decide +kernel), fireable_iff (by decide +kernel),
   fireable_iff (by decide +kernel)⟩

/-- R102: with too few tokens, no credit, or the guard false, an instruction does nothing. -/
theorem test_not_ready :
    [(Instr.add (hd .w .x4) (.f 2) (.q 0) (.f 1), tokEl), (.send (hd .w .x4) (.q 0) (.f 0) false 5 0, tokEl),
     (.nop { hd .b with mask := 1, val := 0 }, tokEl), (.nop (hd .b), { tokEl with pow := 1 })].all
      (fun p => look (fun t => decide (t = atElem p.2)) (exec p.1 (atElem p.2)) == some true) = true := by decide +kernel

/-- An instruction without power is not ready, whatever the context. -/
theorem witness_not_ready : OnGrid (atElem { el0 with pow := 1 }) ∧
    ∀ ctx, ¬ Ready (atElem { el0 with pow := 1 }) ⟨hd .b, [.b], .long, .unused, .unused, .unused, .unused, .plain, none, 0, false, false⟩ ctx :=
  ⟨⟨by decide, by decide, by decide⟩, fun ctx h => absurd h.power (by decide +kernel)⟩

/-! ### Floating point (R146 to R166): 1.0 is 0x3F800000, 2.0 is 0x40000000, 3.0 is 0x40400000 -/

def fpEl : Elem := { el0 with f := [(0, 0x3F800000_40000000_7F800000_7FC00001), (1, 0x40000000_40400000_3F800000_3F800000), (3, 0x3F800000_3F800000_3F800000_3F800000)] }

theorem test_float :
    [(Instr.fadd (hd .w) (.f 2) (.f 0) (.f 1), 0x40400000_40A00000_7F800000_7FC00001),
     (.fsub (hd .w) (.f 2) (.f 0) (.f 1), 0xBF800000_BF800000_7F800000_7FC00001),
     (.fmul (hd .w) (.f 2) (.f 0) (.f 1), 0x40000000_40C00000_7F800000_7FC00001),
     (.fma (hd .w) (.f 2) (.f 0) (.f 1) (.f 3), 0x40400000_40E00000_7F800000_7FC00001),
     (.fnma (hd .w) (.f 2) (.f 0) (.f 1) (.f 3), 0xBF800000_C0A00000_FF800000_7FC00001),
     (.fcmpeq (hd .w) (.f 2) (.f 0) (.f 1), 0),
     (.fcmplt (hd .w) (.f 2) (.f 0) (.f 1), 0xFFFFFFFF_FFFFFFFF_00000000_00000000),
     (.fcmple (hd .w) (.f 2) (.f 3) (.f 1), 0xFFFFFFFF_FFFFFFFF_FFFFFFFF_FFFFFFFF),
     (.fsgn (hd .w) (.f 2) (.f 3) (.f 1), 0x3F800000_3F800000_3F800000_3F800000)].all
      (fun p => fAfter fpEl 2 p.1 == some p.2) = true := by decide +kernel

/-- R147, R148: exact cases of the special functions: 1/2, 2^2, log2 4, 1/√4. -/
theorem test_special :
    [(Instr.frcp (hd .w) (.f 2) (.f 0), 0x3F000000_3F000000_3F000000_3F000000), (.fexp2 (hd .w) (.f 2) (.f 0), 0x40800000_40800000_40800000_40800000),
     (.flog2 (hd .w) (.f 2) (.f 1), 0x40000000_40000000_40000000_40000000), (.frsq (hd .w) (.f 2) (.f 1), 0x3F000000_3F000000_3F000000_3F000000)].all
      (fun p => fAfter { el0 with f := [(0, 0x40000000_40000000_40000000_40000000), (1, 0x40800000_40800000_40800000_40800000)] } 2 p.1 == some p.2) = true := by
  decide +kernel

/-- R148: the reciprocal of 0 sets DZ. -/
theorem test_flags : look (fun t => (getE t 0).fpst) (exec (.frcp (hd .w) (.f 2) (.f 0)) (atElem { el0 with f := [(0, 0)] })) = some 8 := by decide +kernel

theorem witness_float : Fireable (.fadd (hd .w) (.f 2) (.f 0) (.f 1)) (atElem fpEl) 0 ∧ Fireable (.fma (hd .d) (.f 2) (.f 0) (.f 1) (.f 3)) (atElem fpEl) 0 ∧
    Fireable (.fcmplt (hd .bf) (.f 2) (.f 0) (.f 1)) (atElem fpEl) 0 ∧ Fireable (.frcp (hd .w) (.f 2) (.f 0)) (atElem fpEl) 0 ∧
    Fireable (.frnd (hd .w) (.f 2) (.f 0) 3) (atElem fpEl) 0 ∧ Fireable (.faddmin (hd .w) (.f 2) (.f 0) (.f 1) (.f 3)) (atElem fpEl) 0 ∧
    Fireable (.fscale (hd .w) (.f 2) (.f 0) (.f 1)) (atElem fpEl) 0 ∧ Fireable (.fdot2 (hd .h) (.f 2) (.f 0) (.f 1) (.f 3)) (atElem fpEl) 0 :=
  ⟨fireable_iff (by decide +kernel), fireable_iff (by decide +kernel), fireable_iff (by decide +kernel), fireable_iff (by decide +kernel),
   fireable_iff (by decide +kernel), fireable_iff (by decide +kernel), fireable_iff (by decide +kernel), fireable_iff (by decide +kernel)⟩

/-- The conversions of the spec's example words fire: their formats exist. -/
theorem witness_conversions : Fireable (.cvt (hd .w) (.f 2) (.f 0) 1 true true 0 0) (atElem fpEl) 0 ∧ (cvtFmts .w 1 true true).isSome = true ∧
    Fireable (.cvtn (hd .w) (.f 2) (.f 0) 1 true true 0 0) (atElem fpEl) 0 ∧ Fireable (.mxqSc (hd .w) (.f 2) (.f 0) 2) (atElem fpEl) 0 ∧
    Fireable (.mxq (hd .w) (.f 2) (.f 0) (.f 1) 3 0) (atElem fpEl) 0 ∧ Fireable (.mxdq (hd .w) (.f 2) (.f 0) (.f 1) 3 0) (atElem fpEl) 0 ∧
    Fireable (.efld (hd .w) (.f 0) 3) (atElem fpEl) 0 ∧ Fireable (.efst (hd .w) (.f 2) 3) (atElem fpEl) 0 :=
  ⟨fireable_iff (by decide +kernel), by decide, fireable_iff (by decide +kernel), fireable_iff (by decide +kernel),
   fireable_iff (by decide +kernel), fireable_iff (by decide +kernel), fireable_iff (by decide +kernel), fireable_iff (by decide +kernel)⟩

/-- R226: EFLD and EFST move a residue register. -/
theorem test_residue : look (fun t => tget (getE t 0).ef 3 0) (exec (.efld (hd .w) (.f 0) 3) (atElem fpEl)) = some 0x3F800000_40000000_7F800000_7FC00001 ∧
    fAfter { fpEl with ef := [(3, 5)] } 2 (.efst (hd .w) (.f 2) 3) = some 5 := by decide +kernel

/-! ### Control, events, traps (R127 to R136, R77, R107) -/

theorem test_halt : look (fun t => ((getE t 0).st, (getE t 0).busy)) (exec (.halt (hd .b)) (atElem el0)) = some (.halted, 11) := by decide +kernel
theorem test_pset : look (fun t => (getE t 0).preds) (exec (.pset (hd .w) (.f 0)) (atElem { el0 with preds := 0x08, f := [(0, 0xFFFF_1891)] })) = some 0x10 := by
  decide +kernel
/-- R125: CTL reads SITE and ELEM. -/
theorem test_ctl_id : fAfter el0 2 (.ctlRead (hd .w) (.f 2) 3) = some 0 ∧ fAfter { el0 with pow := 100 } 2 (.ctlRead (hd .w) (.f 2) 5) = some 98 ∧
    fAfter el0 2 (.ctlRead (hd .w) (.f 2) 6) = some 10 := by decide +kernel
theorem test_ctl_write : look (fun t => (getE t 0).fpctl) (exec (.ctlWrite (hd .w) (.f 0) 0) (atElem { el0 with f := [(0, 0xFF)] })) = some 7 := by decide +kernel
/-- R134, R293: the entry of FEVT. -/
theorem test_fevt : look (fun t => (getSeq t 0).events) (exec (.fevt (hd .w) (.f 0)) (atElem { el0 with wave := 6, f := [(0, 0x1234)] })) =
    some [0x0000123406000001] := by decide +kernel
/-- R136: TRAP pays and traps with cause 0x10. -/
theorem test_trap : look (fun t => ((getE t 0).st, (getE t 0).pow, ((getE t 0).trapRec.map fun r => (r.extractLsb' 32 8, r.extractLsb' 21 11))))
    (exec (.trap (hd .b) 1234) (atElem el0)) = some (.trapped, 254, some (0x10, 1234)) := by decide +kernel
/-- R77: a faulty slot traps without paying. -/
theorem test_faulty : look (fun t => ((getE t 0).st, (getE t 0).pow, ((getE t 0).trapRec.map fun r => r.extractLsb' 32 8)))
    (exec (.faultySlotFire 2) (atElem { el0 with faulty := 1, slots := [(0, 0x803817A000000000)] })) = some (.trapped, 256, some 0x02) := by decide +kernel

theorem witness_control : Fireable (.nop (hd .b .x64)) (atElem el0) 0 ∧ Fireable (.pset (hd .w) (.f 0)) (atElem el0) 0 ∧ Fireable (.halt (hd .b)) (atElem el0) 0 ∧
    Fireable (.ctlRead (hd .w) (.f 2) 14) (atElem el0) 0 ∧ Fireable (.ctlWrite (hd .w) (.f 2) 1) (atElem el0) 0 ∧
    (Fireable (.fevt (hd .w) (.f 0)) (atElem el0) 0 ∧ (hereSeq (atElem el0)).events.length < 64) ∧ Fireable (.trap (hd .b) 2047) (atElem el0) 0 ∧
    Fireable (.bkpt (hd .b) 0) (atElem el0) 0 :=
  ⟨fireable_iff (by decide +kernel), fireable_iff (by decide +kernel), fireable_iff (by decide +kernel), fireable_iff (by decide +kernel),
   fireable_iff (by decide +kernel), ⟨fireable_iff (by decide +kernel), by decide⟩, fireable_iff (by decide +kernel), fireable_iff (by decide +kernel)⟩

/-! ## The sequencer -/

/-- A page at 0 with every right, that every die may cache; region 0 has its translation. -/
def page : Xlat := { va := 0, size := 4096, pa := 0, pte := 0x3D, plc := 0x3C, root := 0, asid := 0, owner := 0, leafLines := [] }
def atSeq (q : Seq) : State := { State.reset with regions := [(0, { reg0 with seq := q, tlb := [page] })] }

/-- Register n and PC of the sequencer after an instruction. -/
def sAfter (q : Seq) (n : BitVec 5) (i : Instr) : Option (BitVec 64 × BitVec 64) := look (fun t => (getS (getSeq t 0) n, (getSeq t 0).pc)) (exec i (atSeq q))
/-- What a trap leaves: TCAUSE, TVAL, TPC, PC, the mode. -/
def sTrap (q : Seq) (i : Instr) : Option (List Nat) :=
  look (fun t => let x := getSeq t 0; [x.tcause.toNat, x.tval.toNat, x.tpc.toNat, x.pc.toNat, x.sup.toNat, x.pmode.toNat]) (exec i (atSeq q))

/-- s1 is 7, s2 is −3, s3 is 2^63; a program at 0x100. -/
def seq0 : Seq := { pc := 0x100, tvec := 0x800, regs := [(1, 7), (2, 0xFFFFFFFFFFFFFFFD), (3, 0x8000000000000000)] }

theorem test_alu :
    [(Instr.seqAdd 4 1 2, 4), (.seqSub 4 1 2, 10), (.seqAnd 4 1 2, 5), (.seqOr 4 1 2, 0xFFFFFFFFFFFFFFFF), (.seqXor 4 1 2, 0xFFFFFFFFFFFFFFFA),
     (.seqShl 4 1 1, 896), (.seqShr 4 2 1, 0x01FFFFFFFFFFFFFF), (.seqSar 4 3 1, 0xFF00000000000000), (.seqMul 4 1 2, 0xFFFFFFFFFFFFFFEB),
     (.seqMulh 4 1 2, 0xFFFFFFFFFFFFFFFF), (.seqMulhu 4 1 2, 6), (.div 4 2 1, 0), (.div 4 1 2, 0xFFFFFFFFFFFFFFFE), (.rem 4 1 2, 1),
     (.divu 4 3 1, 0x1249249249249249), (.remu 4 3 1, 1), (.div 4 1 0, 0xFFFFFFFFFFFFFFFF), (.rem 4 1 0, 7), (.seqMin 4 1 2, 0xFFFFFFFFFFFFFFFD),
     (.seqMax 4 1 2, 7), (.seqMinu 4 1 2, 7), (.seqMaxu 4 1 2, 0xFFFFFFFFFFFFFFFD), (.slt 4 2 1, 1), (.sltu 4 2 1, 0), (.seqClz 4 1, 61),
     (.seqPopc 4 2, 63), (.seqAddi 4 1 0xFFFF, 6), (.seqAndi 4 2 0xFFF0, 0xFFF0), (.seqOri 4 1 0x100, 0x107), (.seqXori 4 1 1, 6),
     (.seqShli 4 1 60, 0x7000000000000000), (.seqShri 4 3 63, 1), (.seqSari 4 3 63, 0xFFFFFFFFFFFFFFFF), (.slti 4 2 0xFFFE, 1),
     (.lhi 4 0x8001, 0xFFFFFFFF80010000)].all (fun p => sAfter seq0 4 p.1 == some (p.2, 0x104)) = true := by decide +kernel

/-- s0 discards what is written to it. -/
theorem test_s0 : sAfter seq0 0 (.seqAdd 0 1 1) = some (0, 0x104) := by decide +kernel

theorem test_branches :
    [(Instr.beq 1 1 0x10, 0x140), (.bne 1 1 0x10, 0x104), (.blt 2 1 0xFFFF, 0xFC), (.bge 1 2 2, 0x108), (.bltu 1 2 2, 0x108), (.bgeu 1 2 2, 0x104),
     (.jmp 0x3FFFFFF, 0xFC)].all (fun p => sAfter seq0 1 p.1 == some (7, p.2)) = true := by decide +kernel
theorem test_jumps : sAfter seq0 31 (.jal 4) = some (0x104, 0x110) ∧ sAfter { seq0 with regs := [(1, 0x200)] } 1 (.jr 1 1) = some (0x104, 0x200) ∧
    sTrap seq0 (.jr 1 1) = some [0x04, 7, 0x100, 0x800, 1, 1] := by decide +kernel

/-- R84 has both cases: an aligned target and one that is not. -/
theorem witness_branches : (reg (atSeq seq0) 3).extractLsb' 0 2 = 0 ∧ (reg (atSeq seq0) 1).extractLsb' 0 2 ≠ 0 := by decide +kernel

/-! ### Memory -/

/-- Line 0 is in the data cache: byte n holds 0x80 + n. -/
def line0 : Line := BitVec.ofNat 512 (leVal ((upto 64).map fun n => BitVec.ofNat 8 (0x80 + n)))
def seqM : Seq := { seq0 with dcache := [{ line := 0, data := line0, first := false }] }

theorem test_loads :
    [(Instr.ldb 4 0 3, 0xFFFFFFFFFFFFFF83), (.ldh 4 0 2, 0xFFFFFFFFFFFF8382), (.ldw 4 0 4, 0xFFFFFFFF87868584), (.ldd 4 0 56, 0xBFBEBDBCBBBAB9B8),
     (.ldd 4 1 0xFFF9, 0x8786858483828180)].all (fun p => sAfter seqM 4 p.1 == some (p.2, 0x104)) = true := by decide +kernel
/-- R90: LDL 31 words back from PC 0x104. -/
theorem test_ldl : sAfter { seqM with pc := 0x104 } 4 (.ldl 4 0x7FFE1) = some (0x8F8E8D8C8B8A8988, 0x108) := by decide +kernel
theorem test_store : look (fun t => ((getSeq t 0).stores.map fun w => (w.pa, w.data), (getSeq t 0).dcache.map fun c => c.data.extractLsb' 0 64))
    (exec (.sth 1 0 2) (atSeq seqM)) = some ([(2, [7, 0])], [0x8786858400078180]) := by decide +kernel
theorem test_address_traps : sTrap seqM (.ldw 4 0 2) = some [0x04, 2, 0x100, 0x800, 1, 1] ∧
    sTrap seqM (.stb 4 0 0xFFFF) = some [0x06, 0xFFFFFFFFFFFFFFFF, 0x100, 0x800, 1, 1] ∧
    sTrap seqM (.ldd 4 3 0) = some [0x06, 0x8000000000000000, 0x100, 0x800, 1, 1] := by decide +kernel

theorem witness_loads : addressOf (atSeq seqM) 0 56 = (56 : Nat) ∧ Maps (atSeq seqM) 56 0 page ∧ storePending (hereSeq (atSeq seqM)) (paOf page 56) = false ∧
    ((hereSeq (atSeq seqM)).dcache.find? fun l => l.line == paOf page 56 / 64) = some { line := 0, data := line0, first := false } :=
  ⟨by decide +kernel, ⟨by decide +kernel, by decide +kernel, by decide +kernel, by decide +kernel, by decide +kernel, by decide +kernel⟩, by decide +kernel, by decide +kernel⟩
theorem witness_stores : addressOf (atSeq seqM) 1 0xFFFF = (6 : Nat) ∧ 6 % 2 = 0 ∧ Maps (atSeq seqM) 6 1 page ∧ Maps (atSeq seqM) 4095 1 page :=
  ⟨by decide +kernel, by decide +kernel, ⟨by decide +kernel, by decide +kernel, by decide +kernel, by decide +kernel, by decide +kernel, by decide +kernel⟩,
   ⟨by decide +kernel, by decide +kernel, by decide +kernel, by decide +kernel, by decide +kernel, by decide +kernel⟩⟩
theorem witness_address_traps : addressOf (atSeq seqM) 0 0xFFFF < 0 ∧ 2 ^ 57 ≤ addressOf (atSeq seqM) 3 0 ∧ addressOf (atSeq seqM) 0 2 = (2 : Nat) ∧ 2 % 4 ≠ 0 := by
  decide

/-- Die 0's cistern owns line 0, whose doubleword at 8 is 5. -/
def ownSt : State := { atSeq { seq0 with regs := [(1, 8), (2, 3), (4, 5)] } with cisterns := [(0, { lines := [(0, { st := .exclusive, data := 5 <<< 64, dirty := 0, first := 0, last := 0 })] })] }

theorem test_atom :
    [(Instr.seqAtom 4 1 2 1 1 0, 8), (.seqAtom 4 1 2 2 1 1, 1), (.seqAtom 4 1 2 1 1 3, 6), (.seqAtom 4 1 2 1 0 5, 5), (.seqAtom 4 1 2 1 1 6, 3),
     (.seqAtom 4 1 2 1 1 8, 3), (.seqAtom 4 1 2 1 1 9, 3)].all
      (fun p => look (fun t => (getS (getSeq t 0) 4, (cLine t 0 0).map fun c => (c.st, c.data.extractLsb' 64 64))) (exec p.1 ownSt) ==
        some ((5 : BitVec 64), some (LineState.modified, (p.2 : BitVec 64)))) = true := by decide +kernel
theorem test_atom_traps : sTrap seq0 (.seqAtom 4 0 2 1 1 10) = some [0x01, 0, 0x100, 0x800, 1, 1] ∧
    sTrap seq0 (.seqAtom 4 0 2 5 1 0) = some [0x02, 0, 0x100, 0x800, 1, 1] := by decide +kernel
theorem witness_atom : Maps ownSt 8 2 page ∧ storePending (hereSeq ownSt) 8 = false ∧
    Owned ownSt 0 page 8 { st := .exclusive, data := 5 <<< 64, dirty := 0, first := 0, last := 0 } :=
  ⟨⟨by decide +kernel, by decide +kernel, by decide +kernel, by decide +kernel, by decide +kernel, by decide +kernel⟩, by decide +kernel,
   ⟨by decide +kernel, .inl (by decide +kernel), by decide +kernel, by decide +kernel, by decide +kernel, by decide +kernel, by decide +kernel⟩⟩

theorem test_fences : look (fun t => (getSeq t 0).dcache) (exec (.seqFenceAcq 4) (atSeq seqM)) = some [] ∧
    look (fun t => (getSeq t 0).dcache.length) (exec (.seqFenceRel 1) (atSeq seqM)) = some 1 ∧
    look (fun t => (getSeq t 0).dcache) (exec (.seqFenceFull 2) (atSeq seqM)) = some [] ∧
    sAfter seqM 1 .seqTsync = some (7, 0x104) := by decide +kernel
theorem witness_fences : seqPerformed (atSeq seqM) 0 1 = true ∧ seqPerformed (atSeq seqM) 0 4 = true := by decide +kernel

/-! ### Control registers and traps -/

theorem test_getc : sAfter { seq0 with sqside := 5 } 4 (.getc 4 0x018) = some (5, 0x104) ∧ sAfter seq0 4 (.getc 4 0x003) = some (10, 0x104) ∧
    sAfter seq0 4 (.getc 4 0x005) = some (0x800, 0x104) ∧ sTrap seq0 (.getc 4 0xFFF) = some [0x02, 0, 0x100, 0x800, 1, 1] ∧
    sTrap { seq0 with sup := false } (.getc 4 0x005) = some [0x07, 0, 0x100, 0x800, 1, 0] := by decide +kernel
/-- R287, R437: TPC holds 0 in bits [1:0] and [63:57]; TSTAT writes PMODE; FPST clears the flags that are 1. -/
theorem test_setc : look (fun t => ((getSeq t 0).tpc, (getSeq t 0).pc)) (exec (.setc 2 0x006) (atSeq seq0)) = some (0x01FFFFFFFFFFFFFC, 0x104) ∧
    look (fun t => (getSeq t 0).pmode) (exec (.setc 1 0x009) (atSeq seq0)) = some true ∧
    look (fun t => (getSeq t 0).fpst) (exec (.setc 1 0x001) (atSeq { seq0 with fpst := 0x1F })) = some 0x18 ∧
    sTrap seq0 (.setc 4 0x003) = some [0x02, 0, 0x100, 0x800, 1, 1] := by decide +kernel
theorem witness_control_registers :
    (∀ p ∈ readValues, csrAssigned p.1.toNat = true) ∧ (hereSeq (atSeq seq0)).sup = true ∧ (∀ p ∈ writeEffects, csrAssigned p.1.toNat = true ∧ csrWritable p.1.toNat = true) ∧
    csrAcquires (atSeq seq0) 0 0x040 = true ∧ csrAcquires (atSeq seq0) 0 0x003 = false ∧ csrAssigned 0xFFF = false ∧ csrSuper 0x005 = true ∧
    csrWritable 0x003 = false := by decide +kernel
/-- A SETC that is a step of another unit: POP of the element trap queue with a 1 in its bit 0. -/
theorem witness_register_step : (MayWrite (atSeq seq0) 0x00C ∧ (reg (atSeq seq0) 1).getLsbD 0 = true) ∧
    ∃ u, csrWrite (atSeq seq0) 0 0x00C (reg (atSeq seq0) 1) = .ok u := ⟨⟨⟨⟨by decide +kernel, fun _ => by decide +kernel⟩, by decide +kernel⟩, by decide +kernel⟩, ⟨_, rfl⟩⟩

theorem test_traps : sTrap seq0 (.seqTrap 0x123) = some [0x10, 0x123, 0x100, 0x800, 1, 1] ∧
    sTrap { seq0 with sup := false } (.seqBkpt 9) = some [0x11, 9, 0x100, 0x800, 1, 0] ∧
    sTrap seq0 (.illegalInstruction 0x01) = some [0x01, 0, 0x100, 0x800, 1, 1] ∧
    sTrap seq0 (.instructionFetchFault 0x0C) = some [0x0C, 0x100, 0x100, 0x800, 1, 1] ∧
    sTrap { seq0 with sup := false } .placeFrz = some [0x07, 0, 0x100, 0x800, 1, 0] := by decide +kernel
/-- R436, R438: of two pending traps the lower class is taken: ASYNC and SRC stand in TCAUSE. -/
theorem test_async : sTrap { seq0 with sup := false, pending := [⟨6, 0x20, 2, 0⟩, ⟨3, 0x0A, 4, 9⟩] } (.asyncTrapTake 0) =
    some [0x4010A, 9, 0x100, 0x800, 1, 0] := by decide +kernel
theorem witness_async : let s := atSeq { seq0 with sup := false, pending := [⟨6, 0x20, 2, 0⟩, ⟨3, 0x0A, 4, 9⟩] }
    regionOk 0 = true ∧ (getSeq s 0).sup = false ∧ (getSeq s 0).asked = false ∧ (getSeq s 0).exiting = false ∧ (getSeq s 0).pending ≠ [] := by decide +kernel
theorem witness_instruction_traps : (hereSeq (atSeq { seq0 with sup := false })).sup = false ∧ (10 : BitVec 4).toNat ≥ 10 ∧ (5 : BitVec 3).toNat ≥ 5 := by decide +kernel

theorem test_tret : sTrap { seq0 with tpc := 0x40, pmode := false } .tret = some [0, 0, 0x40, 0x40, 0, 0] := by decide +kernel
theorem test_yield : sAfter seq0 1 .yield = some (7, 0x104) := by decide +kernel
theorem test_waite : look (fun t => (getS (getSeq t 0) 4, (getSeq t 0).events)) (exec (.waite 0 4) (atSeq { seq0 with events := [5, 6] })) = some (5, [6]) := by
  decide +kernel
theorem test_exit : look (fun t => ((getSeq t 0).endMark, (getSeq t 0).exiting, (getSeq t 0).pc)) (exec .exit (atSeq seq0)) = some (true, true, 0x100) := by
  decide +kernel
theorem witness_waits : let s := atSeq { seq0 with waite := some (some 10, 4) }
    (getSeq s 0).events = [] ∧ (getSeq s 0).waite = some (some 10, 4) ∧ 10 ≤ (getR s 0).cycle ∧ acting (getR s 0) = true ∧ (getR s 0).rstate ≠ .holding ∧
    (hereSeq s).exiting = false ∧ optUsed s (getR s 0) = false := by decide +kernel
/-- An entry that came in time, and one that came in the cycle of the deadline. -/
theorem witness_waite : (let s := atSeq { seq0 with events := [5], waite := some (some 11, 4) };
      (hereSeq s).events = [5] ∧ ∀ n d, (hereSeq s).waite = some (some n, d) → (getR s 0).cycle < n ∨ (hereSeq s).evFirst < n) ∧
    (let s := atSeq { seq0 with events := [5], waite := some (some 10, 4), evFirst := 10 };
      (hereSeq s).waite = some (some 10, 4) ∧ 10 ≤ (hereSeq s).evFirst ∧ 10 ≤ (getR s 0).cycle) :=
  ⟨⟨rfl, fun n d h => by simp only [hereSeq, getSeq, getR, atSeq, tget, tfind] at h; cases h; exact .inl (by decide)⟩, by decide +kernel⟩
theorem test_waite_timeout : look (fun t => (getS (getSeq t 0) 4, (getSeq t 0).pc)) (exec (.eventWaitTimeout 0) (atSeq { seq0 with regs := [(4, 9)], waite := some (some 10, 4) })) =
    some (0, 0x104) := by decide +kernel

/-! ### Instructions of the sequencer that reach other units -/

/-- Values of n bytes written to the device's memory. -/
def withMem (s : State) (l : List (Nat × Nat × Nat)) : State := { s with mem := l.foldl (fun m p => memWrite m p.1 (bytesOf p.2.1 p.2.2)) s.mem }

/-- Lines of records that the instruction has read by now. -/
def atHand (s : State) (l : List Nat) : State := modSeq s 0 fun q => { q with lines := l.map fun n => (n, memLine s.mem n) }

/-- A record that the model's read gives, with nothing changed, is at hand. -/
theorem readable {s : State} {va n : Nat} {bs : List Byte} (h : seqRecord s (here s) va n = .ok s bs)
    (k : s = modSeq s (here s) fun q => { q with lines := (hereSeq s).lines }) : Readable s va n s bs := ⟨h, _, k⟩
theorem readable_image {s : State} {va : Nat} {bs : List Byte} (h : seqImage s (here s) va = .ok s bs)
    (k : s = modSeq s (here s) fun q => { q with lines := (hereSeq s).lines }) : ReadableImage s va s bs := ⟨h, _, k⟩

/-- s1 to s3 given. -/
def seqR (a b c : BitVec 64) : Seq := { seq0 with regs := [(1, a), (2, b), (3, c)] }

/-- A matrix context whose operands are FP8 tokens of the ports (R229, R235), at 0x200; a pump's request of zeros at 0x280. -/
def mxCtx : Nat := 0x0A * 2 ^ 168 + 0x0A * 2 ^ 424 + 2 ^ 963 + 2 ^ 964
def engSt : State := atHand (withMem (atSeq (seqR 0x200 5 0x280)) [(0x200, 128, mxCtx)]) [8, 9, 10]
/-- The context is valid in islands 0 and 1. -/
def ctxIsl : Island := { ctxs := [(0, { rec_ := some (BitVec.ofNat 1024 mxCtx) })] }
def mrunSt (a : BitVec 64) : State := { State.reset with regions := [(0, { reg0 with seq := seqR a 5 0x280, tlb := [page], islands := [(0, ctxIsl), (1, ctxIsl)] })] }

theorem test_mctx : look (fun t => (upto 4).map fun i => ((ctxOf (getM t 0 i) 2).rec_.map (·.toNat))) (exec (.mctx 1 5 2) engSt) =
    some [some mxCtx, none, some mxCtx, none] := by decide +kernel
theorem test_mctx_clr : look (fun t => (upto 2).map fun i => (ctxOf (getM t 0 i) 0).rec_.isSome) (exec (.mctxClr 1 0) (mrunSt 2)) = some [false, true] := by decide +kernel
theorem test_mrun : look (fun t => (getM t 0 1).runs.map fun x => [x.ctx, x.acc, x.astep, x.tcnt, x.kext, x.t0.toNat]) (exec (.mrunMma 1 2 3 0 4 1) (mrunSt 0x400002)) =
    some [[0, 4, 1, 2, 64, 5]] := by decide +kernel
theorem test_mrun_kinds : [Instr.mrunZero 1 2 3 0 4 1, .mrunLoad 1 2 3 0 4 1, .mrunWrite 1 2 3 0 4 1].map
      (fun i => look (fun t => ((getM t 0 0).runs.length, (getSeq t 0).tcause.toNat)) (exec i (mrunSt 2))) = [some (1, 0), some (0, 0x16), some (0, 0x16)] := by decide +kernel
theorem test_pump : look (fun t => ((pumpOf t 0 1).queue.map (·.desc), (getSeq t 0).pc)) (exec (.pump 3 1) engSt) = some ([0], 0x104) := by decide +kernel
theorem witness_engines : (∃ bs, Readable engSt 0x200 128 engSt bs ∧ mxReserved (getR engSt 0) (BitVec.ofNat 1024 (leVal bs)) = false) ∧
    (∀ i ∈ maskIslands 5, ctxBusy (getM engSt 0 i) 2 = false) ∧
    (mrunReserved .mma 0x400002 5 3 = false ∧ mrunContext (mrunSt 0x400002) 0 .mma 3 0 = false) ∧
    (∃ bs, Readable engSt 0x280 64 engSt bs ∧ pumpReserved (getR engSt 0) 0 { id := 0, desc := BitVec.ofNat 512 (leVal bs), sample := 0, origin := none, srcRec := none, dstRec := none, at_ := 0 } = false) ∧
    (pumpOf engSt 0 1).queue.length < pumpDepth :=
  ⟨⟨bytesOf 128 mxCtx, readable (by decide +kernel) (by decide +kernel), by decide +kernel⟩, by decide +kernel, by decide +kernel,
   ⟨bytesOf 64 0, readable (by decide +kernel) (by decide +kernel), by decide +kernel⟩, by decide +kernel⟩

/-! LDCFG, RECFG (R303 to R309): position 0 of the map is site 3, and an image of zeros has no blocks; a load descriptor at 0x240 names
one such image at 0x200; an image with code of 64 bytes at 0x1000 of it, at 0x300. -/

def cfgSeq : Seq := { seqR 0x200 0x240 0x300 with cfgmap := [(0, 0x83)] }
def cfgSt : State := atHand (withMem (atSeq cfgSeq)
  [(0x240, 64, 0x200 + 2 ^ 112), (0x300, 32, 0x4B4D4C31 + 2 ^ 32 + 2 ^ 48 + 0x2000 * 2 ^ 64), (0x320, 16, 0x1000 + 64 * 2 ^ 64)]) [8, 9, 12]
def idleSite : State := { cfgSt with elems := (upto 16).map fun e => (48 + e, { f := [(0, 9)], slots := [(0, 0x803817A000000000)] }) }

theorem test_ldcfg : look (fun t => ((getE t 48).slots, (getE t 48).st, (getE t 48).f)) (exec (.ldcfg 1 3) idleSite) = some ([], .running, [(0, 9)]) := by decide +kernel
theorem test_ldcfg_clr : look (fun t => ((getE t 63).slots, (getE t 63).st)) (exec (.ldcfgClr 3) idleSite) = some ([], .idle) := by decide +kernel
theorem test_ldcfg_code : look (fun t => (tget (getSeq t 0).codewin 1 0, (getSeq t 0).permits)) (exec (.ldcfgCode 3 1) cfgSt) = some (0x1001, [(0x4C, 1)]) := by decide +kernel
theorem test_recfg : look (fun t => ((getSeq t 0).loads.map fun l => (l.desc, l.blocks.map (·.1)), (getSeq t 0).endMark)) (exec (.recfg 2) cfgSt) =
    some ([(0x240, (upto 16).map (48 + ·))], false) := by decide +kernel
theorem test_recfg_end : look (fun t => (getSeq t 0).endMark) (exec .recfgEnd cfgSt) = some true := by decide +kernel
theorem witness_ldcfg : (hereSeq idleSite).sup = true ∧ (reg idleSite 1).extractLsb' 0 4 = 0 ∧ siteOk (getR idleSite 0) 3 = true ∧
    (∀ k ∈ siteKeys 0 3, (getE idleSite k).st = .idle) ∧
    ∃ bs p out used, ReadableImage idleSite 0x200 idleSite bs ∧ checkImage (getR idleSite 0) bs (some 3) [] = .ok (p, out, used) :=
  ⟨by decide +kernel, by decide +kernel, by decide +kernel, by decide +kernel, ⟨bytesOf 16 0, _, _, _, readable_image (by decide +kernel) (by decide +kernel), rfl⟩⟩
theorem witness_recfg : (hereSeq cfgSt).endMark = false ∧ (hereSeq cfgSt).loads.length < 2 ∧
    ∃ db ib blocks, Readable cfgSt 0x240 64 cfgSt db ∧ loadDescOk (BitVec.ofNat 512 (leVal db)) 0 = true ∧
      seqImages 0 1 cfgSt 0x200 [] = .ok cfgSt ib ∧ checkImages (getR cfgSt 0) 1 ib [] [] [] = .ok blocks :=
  ⟨by decide +kernel, by decide +kernel,
   ⟨bytesOf 64 (0x200 + 2 ^ 112), bytesOf 16 0, _, readable (by decide +kernel) (by decide +kernel), by decide +kernel, by decide +kernel, rfl⟩⟩
theorem witness_code : ∃ hdr tab sects c, Readable cfgSt 0x300 32 cfgSt hdr ∧ imageHeaderOk (leVal hdr) = true ∧
    Readable cfgSt 0x320 (16 * field (leVal hdr) 63 48) cfgSt tab ∧ imageSects (leVal hdr) tab = some sects ∧ sects.find? (fun c => c.code == 0) = some c ∧
    PoolsAre cfgSt 0x300 sects c [] ∧ windowClash (hereSeq cfgSt) 1 (windowOf (0x300 + c.off) c.size) = false :=
  ⟨bytesOf 32 (0x4B4D4C31 + 2 ^ 32 + 2 ^ 48 + 0x2000 * 2 ^ 64), bytesOf 16 (0x1000 + 64 * 2 ^ 64), [⟨0, 0x1000, 64⟩], ⟨0, 0x1000, 64⟩,
   readable (by decide +kernel) (by decide +kernel), by decide +kernel, readable (by decide +kernel) (by decide +kernel), by decide +kernel,
   by decide +kernel, .inl ⟨by decide +kernel, rfl⟩, by decide +kernel⟩

/-! Queue ports (R178, R296): ring 0 of die 0 has one consumer, 16 entries at 0x2000 and one token; its port 0 sends, port 1 receives. -/

def ringVal : Nat := 0x2000 + 4 * 2 ^ 64 + 1 * 2 ^ 80 + 1 * 2 ^ 96
def ringSt : State := withMem (atSeq { seqR 0x11 0x22 0 with sqbind := [(0, 0xC000000000000000), (1, 0x8000000000000000)] })
  [(0x400000000000, 64, ringVal), (0x2000, 32, 0x77 + 3 * 2 ^ 128)]

theorem test_qput : look (fun t => (memVal t.mem 0x2020 32, ringWr (ringDesc t 0 0), (getSeq t 0).pc)) (exec (.qput 1 2 0 1 0 2 5) ringSt) =
    some (0x11 + 0x22 * 2 ^ 64 + (5 + 2 * 2 ^ 8 + 2 ^ 10) * 2 ^ 128, 2, 0x104) := by decide +kernel
theorem test_qget : look (fun t => (getS (getSeq t 0) 1, (getSeq t 0).sqside, ringRd (ringDesc t 0 0) 0)) (exec (.qget 1 2 1) ringSt) = some (0x77, 0x10003, 1) := by decide +kernel
theorem witness_ports : PortReady ringSt 0 true (BitVec.ofNat 512 ringVal) ∧ PortReady ringSt 1 false (BitVec.ofNat 512 ringVal) ∧
    ringFull (BitVec.ofNat 512 ringVal) = false ∧ ringRd (BitVec.ofNat 512 ringVal) 0 ≠ ringWr (BitVec.ofNat 512 ringVal) ∧ ringSync ringSt 0 0 0 0 = (ringSt, true) :=
  ⟨⟨by decide +kernel, by decide +kernel, by decide +kernel, by decide +kernel, by decide +kernel, by decide +kernel⟩,
   ⟨by decide +kernel, by decide +kernel, by decide +kernel, by decide +kernel, by decide +kernel, by decide +kernel⟩, by decide +kernel, by decide +kernel, by decide +kernel⟩

/-! Barriers (R213 to R215, R297 to R299): the barrier of element 0 of site 0 at 0x40 expects 2 arrivals. -/

def barSt (b : Nat) (w : BarWait := { sent := some 1 }) (e : Elem := el0) : State :=
  { atSeq { seqR 0x40 2 0 with bar := w } with elems := [(0, { e with spad := memWrite [] 0x40 (bytesOf 16 b) })] }

theorem test_tbinit : look (fun t => (memVal (getE t 0).spad 0x40 16, (getSeq t 0).bar.reply)) (exec (.tbinit 1 2 0) (barSt 0)) =
    some (2 * 2 ^ 4 + 2 * 2 ^ 24, some (12, 0)) := by decide +kernel
theorem test_tbarr : look (fun t => memVal (getE t 0).spad 0x40 16) (exec (.tbarr 1 0) (barSt (1 * 2 ^ 4 + 2 * 2 ^ 24))) = some (1 + 2 * 2 ^ 4 + 2 * 2 ^ 24) ∧
    look (fun t => memVal (getE t 0).spad 0x40 16) (exec (.tbarr 1 0) (barSt (2 * 2 ^ 4 + 2 * 2 ^ 24))) = some (1 * 2 ^ 4 + 2 * 2 ^ 24) := by decide +kernel
/-- The phase of 1 differs from sb, 0, and the reply sets out; an equal one registers the waiter. -/
theorem test_tbwait : look (fun t => (getSeq t 0).bar.reply) (exec (.tbwait 1 3 0) (barSt 1)) = some (some (12, 0)) ∧
    look (fun t => ((getSeq t 0).pc, (getE t 0).waiter)) (exec (.tbwait 1 3 0) (barSt 0)) = some (0x100, some (0x40, false)) := by decide +kernel
theorem test_barrier_replies : look (fun t => (getSeq t 0).pc) (exec (.tbarr 1 0) (barSt 0 { sent := some 1, reply := some (10, 0) })) = some 0x104 ∧
    sTrap { seqR 0x40 2 0 with bar := { sent := some 1, reply := some (10, 0x05) } } (.tbarr 1 0) = some [0x05, 0x40, 0x100, 0x800, 1, 1] := by
  decide +kernel

/-- Its granule is sealed; its waiter is released. -/
def sealedEl : Elem := { el0 with seals := [(0, { sealed := true, lo := 0x40, hi := 0x50 })] }
theorem at_port (b : Nat) (e : Elem) (h : portFree (barSt b {sent := some 1} e) 0 seqPortNo = true) : AtPort 0 (barSt b { sent := some 1 } e) :=
  ⟨rfl, ⟨1, rfl, by show 1 + 1 + _ ≤ 10; decide⟩, h⟩
theorem witness_barriers : (barrierCause (getR (barSt 0) 0) 0x40 = none ∧ notifyBad (getR (barSt 0) 0) 0 = false ∧ seqPerformed (barSt 0) 0 4 = true ∧
      (2 : BitVec 64).extractLsb' 0 20 ≠ 0 ∧ (2 : BitVec 64).extractLsb' 20 4 = 0 ∧ (2 : BitVec 64).extractLsb' 56 8 = 0 ∧
      barrierKey 0 0x40 = 0 ∧ barrierOff 0x40 = 0x40) ∧
    ((hereSeq (barSt 0 {})).bar.reply = none ∧ (hereSeq (barSt 0 {})).bar.sent = none) ∧
    (AtPort 0 (barSt 0) ∧ isSealed (getE (barSt 0) 0) 0x40 = false ∧ updAhead (barSt 0) 0 0x40 .seq = false) ∧
    (AtPort 0 (barSt 0 {sent := some 1} sealedEl) ∧ isSealed (getE (barSt 0 {sent := some 1} sealedEl) 0) 0x40 = true) ∧
    ((barrierAt (getE (barSt 1) 0) 0x40).extractLsb' 0 4 ≠ (0 : BitVec 4) ∧ barrierUpdate (getE (barSt 0) 0) 0x40 1 0 = .refused ∧
      ∃ e, barrierUpdate (getE (barSt (1 * 2 ^ 4 + 2 * 2 ^ 24)) 0) 0x40 1 0 = .applied e) :=
  ⟨by decide +kernel, by decide +kernel, ⟨at_port 0 el0 (by decide +kernel), by decide +kernel, by decide +kernel⟩,
   ⟨at_port 0 sealedEl (by decide +kernel), by decide +kernel⟩, by decide +kernel, by decide +kernel, ⟨_, rfl⟩⟩
/-- A waiter that a phase change has released. -/
theorem witness_released : let s := barSt 0 { sent := some 1, waits := true } { el0 with waiter := some (0x40, true) }
    AtPort 0 s ∧ (hereSeq s).bar.waits = true ∧ (getE s 0).waiter = some (0x40, true) :=
  ⟨⟨rfl, ⟨1, rfl, by show 1 + 1 + _ ≤ 10; decide⟩, by decide +kernel⟩, rfl, rfl⟩

/-! Commands (R314, R327 to R338, R399, R421, R483, R490): queue 0 is enabled with a ring of 16 entries at 0x1000; a table of one actor at
0x400, whose template at 0x600 has no blocks; a re-stripe record of one page at 0x440. -/

def qVal : Nat := 2 ^ 31 + 4 * 2 ^ 100 + 0x1000 * 2 ^ 128
def actVal : Nat := 0x600 * 2 ^ 192 + 2 ^ 160 + 2 * 2 ^ 112 + 2 ^ 96 + 2 ^ 85 + 2 ^ 80
def cmdSt : State := atHand (withMem (atSeq (seqR 0x200 0x400 0x440))
  [(0x03000000, 64, qVal), (0x200, 64, 0xABC), (0x400, 32, 1), (0x420, 32, actVal), (0x440, 64, 2 ^ 64)]) [8, 16, 17, 24]

theorem test_launch : look (fun t => (getS (getSeq t 0) 4, qWr (qEntry t 0), memVal t.mem 0x1000 64, (getSeq t 0).pc)) (exec (.launch 1 4 0) cmdSt) =
    some (0, 1, 0xABC, 0x104) := by decide +kernel
theorem test_place : look (fun t => ((getR t 0).stoat.actors.map (·.length), (getSeq t 0).pc)) (exec (.place 2) cmdSt) = some (some 1, 0x104) := by decide +kernel
theorem test_place_frz : look (fun t => (getR t 0).stoat.frozen) (exec .placeFrz cmdSt) = some true ∧
    look (fun t => (getR t 0).stoat.frozen) (exec .placeThaw cmdSt) = some false := by decide +kernel
theorem test_place_st : look (fun t => getS (getSeq t 0) 4) (exec (.placeSt 4) cmdSt) = some (BitVec.ofNat 64 (stoatStatus {})) := by decide +kernel
theorem test_cutsel : look (fun t => (getMarten t 0).jobs.map fun j => [j.id, j.addr, j.region]) (exec (.cutsel 1) cmdSt) = some [[0, 0x200, 0]] := by decide +kernel
theorem test_restripe : look (fun t => (t.rsQueue.map fun j => (j.rec_.toNat, j.pa), (getSeq t 0).pc)) (exec (.restripe 3) cmdSt) = some ([(2 ^ 64, 0x440)], 0x104) := by
  decide +kernel
theorem test_verify : look (fun t => (t.rotQueue.map fun j => j.addr, getS (getSeq t 0) 4)) (exec (.verify 1 4) cmdSt) = some ([0x200], 1) := by decide +kernel
theorem test_pwrmark : look (fun t => ((getR t 0).team.map (·.phase), (getSeq t 0).pc)) (exec (.pwrmark 3) cmdSt) = some (some 3, 0x104) := by decide +kernel
theorem witness_launch : (distOn cmdSt = true ∧ qEn (qEntry cmdSt 0) = true ∧ qErr (qEntry cmdSt 0) = false ∧ qBad (qEntry cmdSt 0) = false) ∧
    qOwner (qEntry cmdSt 0) = ownerOf (getR cmdSt 0) ∧ Readable cmdSt 0x200 64 cmdSt (bytesOf 64 0xABC) ∧ seqPerformed cmdSt 0 4 = true ∧
    AtHome cmdSt (qAddr cmdSt 0) 64 ∧ NoCopies cmdSt ∧ qRing (qEntry cmdSt 0) 0 = 0x1000 ∧ qAddr cmdSt 0 = 0x03000000 :=
  ⟨by decide +kernel, by decide +kernel, readable (by decide +kernel) (by decide +kernel), by decide +kernel, by unfold AtHome; decide +kernel,
   ⟨by decide +kernel, by decide +kernel, by decide +kernel, by decide +kernel⟩, by decide +kernel, by decide +kernel⟩
theorem witness_place : Readable cmdSt 0x400 32 cmdSt (bytesOf 32 1) ∧ Readable cmdSt 0x420 32 cmdSt (bytesOf 32 actVal) ∧
    actBad (BitVec.ofNat 256 actVal) = false ∧ ∃ l, TemplatesAre cmdSt [BitVec.ofNat 256 actVal] l cmdSt :=
  ⟨readable (by decide +kernel) (by decide +kernel), readable (by decide +kernel) (by decide +kernel), by decide +kernel,
   ⟨_, cmdSt, bytesOf 16 0, _, [], by decide +kernel, readable_image (by decide +kernel) (by decide +kernel), rfl, rfl, rfl, rfl⟩⟩
theorem witness_restripe : Readable cmdSt 0x440 64 cmdSt (bytesOf 64 (2 ^ 64)) ∧ rsBad (BitVec.ofNat 512 (2 ^ 64)) = false ∧ Maps cmdSt 0x440 0 page ∧
    AtHome cmdSt (cmdSt.asTable + cmdSt.devid * 2 ^ 47) 64 ∧ ownerOf (getR cmdSt 0) = 0 ∧ seqPerformed cmdSt 0 3 = true :=
  ⟨readable (by decide +kernel) (by decide +kernel), by decide +kernel, ⟨by decide +kernel, by decide +kernel, by decide +kernel, by decide +kernel, by decide +kernel, by decide +kernel⟩, by unfold AtHome; decide +kernel,
   by decide +kernel, by decide +kernel⟩
/-- R483: with a kernel's number the optimiser is in use. -/
theorem witness_pwrmark : optUsed cmdSt (getR cmdSt 0) = false ∧
    optUsed { State.reset with regions := [(0, { reg0 with team := some { placeTeam with kid := 1 } })] } { reg0 with team := some { placeTeam with kid := 1 } } = true := by
  decide +kernel

/-! ## Elements and memory -/

/-- A record of a space at a base, with an extent of 256 bytes and a stride of 1 on both axes (R200). -/
def rec0 (space base : Nat) : BitVec 256 := BitVec.ofNat 256 (base + 256 * 2 ^ 64 + 2 ^ 104 + 2 ^ 136 + space * 2 ^ 181)
/-- Record 0 is memory at 0x1000, record 1 the own scratchpad at 0x100, record 2 the scratchpad of element 1 of site 0 at 0x100,
record 3 the own scratchpad with an extent of 8, record 4 skips what lies outside. -/
def memEl : Elem := { el0 with
  recs := [(0, rec0 0 0x1000), (1, rec0 1 0x100), (2, rec0 2 0x10100), (3, BitVec.ofNat 256 (0x100 + 8 * 2 ^ 64 + 1 * 2 ^ 181)),
    (4, BitVec.ofNat 256 (0x100 + 8 * 2 ^ 64 + 2 * 2 ^ 173 + 1 * 2 ^ 181))]
  f := [(0, 0x00000000_00000000_00000000_00000010), (1, 0x0000000C_00000008_00000004_00000000), (3, 0x11)], spad := memWrite [] 0x110 (bytesOf 16 0x55) }

/-- What an instruction leaves outstanding: for each access, its addresses, data and space. -/
def accsAfter (e : Elem) (i : Instr) : Option (List (List (Nat × Bool) × Vec × Nat)) :=
  look (fun t => (getE t 0).accs.map fun a => (a.lanes.map fun l => (l.addr, l.skip), a.data, a.space)) (exec i (atElem e))

/-- R202, R217: beats of 16 bytes from BASE + offset + 16. -/
theorem test_ld : accsAfter memEl (.ld (hd .b .x2) (.f 2) (.f 0) 1 0 0 .e .dflt) = some [([(0x1020, false)], 0, 0), ([(0x1030, false)], 0, 0)] ∧
    look (fun t => ((getE t 0).pend, (getE t 0).nextAcc)) (exec (.ld (hd .b) (.f 2) (.f 0) 1 0 0 .e .dflt) (atElem memEl)) = some (4, 1) := by decide +kernel
theorem test_st : accsAfter memEl (.st (hd .b) (.f 3) (.f 0) 0 1 0 .e .dflt) = some [([(0x110, false)], 0x11, 1)] := by decide +kernel
/-- R219: a lane each. -/
theorem test_ldg : accsAfter memEl (.ldg (hd .w) (.f 2) (.f 1) 0 0 0 .e .dflt) =
    some [([(0x1000, false), (0x1004, false), (0x1008, false), (0x100C, false)], 0, 0)] := by decide +kernel
theorem test_sts : accsAfter memEl (.sts (hd .w) (.f 3) (.f 1) 0 1 0 .e .dflt) =
    some [([(0x100, false), (0x104, false), (0x108, false), (0x10C, false)], 0x11, 1)] := by decide +kernel
theorem test_atom_elem : accsAfter memEl (.atom (hd .w) (.f 2) (.f 0) 0 1 0 0 .die) = some [([(0x1010, false)], tget memEl.f 2 0, 0)] := by decide +kernel
theorem test_full_empty : [Instr.ldfKeep (hd .b) (.f 2) (.f 0) 0 1 0, .ldfClr (hd .b) (.f 2) (.f 0) 0 1 0, .fesetEmpty (hd .b) (.f 0) 0 1 0, .fesetFull (hd .b) (.f 0) 0 1 0,
      .stf (hd .b) (.f 2) (.f 0) 0 1 0].all (fun i => accsAfter memEl i == some [([(0x110, false)], 0, 1)]) = true ∧
    accsAfter memEl (.ldr (hd .b) (.f 2) (.f 0) 0 2 0) = some [([(0x110, false)], 0, 2)] := by decide +kernel

/-- What a trap leaves: the state, the cause and the address. -/
def eTrap (e : Elem) (i : Instr) : Option (ElemState × Option (Nat × Nat)) :=
  look (fun t => ((getE t 0).st, (getE t 0).trapRec.map fun r => ((r.extractLsb' 32 8).toNat, (r.extractLsb' 128 64).toNat))) (exec i (atElem e))
/-- R202: outside the extent, or a space that the instruction does not take; SKIP issues nothing. R210: a sealed granule. -/
theorem test_mem_traps : (eTrap memEl (.st (hd .b) (.f 3) (.f 0) 0 3 0 .e .dflt)).map (·.1) = some .trapped ∧
    (eTrap memEl (.ldr (hd .b) (.f 2) (.f 0) 0 0 0)).map (fun p => (p.1, p.2.map (·.1))) = some (.trapped, some 2) ∧
    accsAfter memEl (.st (hd .b) (.f 3) (.f 0) 0 4 0 .e .dflt) = some [] ∧
    (eTrap { memEl with seals := [(5, { sealed := true, lo := 0x100, hi := 0x120 })] } (.st (hd .b) (.f 3) (.f 0) 0 1 0 .e .dflt)).map (fun p => p.2.map (·.1)) =
      some (some 7) := by decide +kernel

theorem onGrid_ready {s : State} {f : Form} {ctx : Nat} (h : (decide (s.focus.site < 20) && decide (s.focus.elem < 16) && decide (s.focus.slot < 16) && ready s (focusKey s) f ctx) = true) : OnGrid s ∧ Ready s f ctx := by
  simp only [Bool.and_eq_true, decide_eq_true_eq] at h
  exact ⟨⟨h.1.1.1, h.1.1.2, h.1.2⟩, ready_of ⟨h.1.1.1, h.1.1.2, h.1.2⟩ h.2⟩

/-- An element without accesses, chains or seals may issue any instruction, and its addresses pass where they lead to a place. -/
theorem memFree_of (m : MemOp) (n : Nat) (hn : n ≤ 16) (h : memEl.accs = []) : MemFree memEl m n := by
  refine ⟨fun _ => ?_, fun _ => ?_, fun c _ => ?_, fun c _ => ?_, fun a ha => ?_⟩
  · have : loadsUsed memEl = 0 := by decide +kernel
    omega
  · have : storesUsed memEl = 0 := by decide +kernel
    omega
  · rfl
  · rfl
  · rw [h] at ha; cases ha

theorem passes_of {m : MemOp} {o : Int} {a : Nat} (h : memAddr (getR (atElem memEl) 0) 0 (tget memEl.recs m.rec_ 0) m.spaces o m.size = .at_ a) :
    Passes (atElem memEl) m o := by
  have e : memAddr (getR (atElem memEl) (here (atElem memEl))) (focusKey (atElem memEl)) (recAt (atElem memEl) m.rec_) m.spaces o m.size = .at_ a := h
  refine ⟨fun c b hb => by rw [e] at hb; simp at hb, fun b _ _ _ => ?_⟩
  rintro ⟨p, hp, _⟩
  rw [show (elem (atElem memEl)).seals = [] by decide +kernel] at hp; cases hp

/-- Forms of every shape fire: loads, stores, lanes, an atomic. -/
theorem witness_memory : (∃ f, (Instr.ld (hd .b .x2) (.f 2) (.f 0) 1 0 0 .e .dflt).form = some f ∧ OnGrid (atElem memEl) ∧ Ready (atElem memEl) f (fieldCtx (atElem memEl) f)) ∧
    (∃ f, (Instr.stf (hd .b) (.f 2) (.f 0) 0 1 0).form = some f ∧ OnGrid (atElem memEl) ∧ Ready (atElem memEl) f (fieldCtx (atElem memEl) f)) ∧
    (∃ f, (Instr.sts (hd .w) (.f 3) (.f 1) 0 1 0 .e .dflt).form = some f ∧ OnGrid (atElem memEl) ∧ Ready (atElem memEl) f (fieldCtx (atElem memEl) f)) ∧
    (∃ f, (Instr.atom (hd .w) (.f 2) (.f 0) 0 1 0 0 .die).form = some f ∧ OnGrid (atElem memEl) ∧ Ready (atElem memEl) f (fieldCtx (atElem memEl) f)) ∧
    MemFree memEl ⟨.ld, 0, some (0, false), .e, .dflt, [0, 1], 16, .reg 2⟩ 2 ∧
    Passes (atElem memEl) ⟨.ld, 0, some (0, false), .e, .dflt, [0, 1], 16, .reg 2⟩ 32 ∧ Passes (atElem memEl) ⟨.sts, 1, some (0, true), .e, .dflt, [0, 1], 4, .none⟩ 12 ∧
    Passes (atElem memEl) (atomOp (.f 2) 0 1 0 0 .die) 16 :=
  ⟨⟨_, rfl, onGrid_ready (by decide +kernel)⟩, ⟨_, rfl, onGrid_ready (by decide +kernel)⟩, ⟨_, rfl, onGrid_ready (by decide +kernel)⟩,
   ⟨_, rfl, onGrid_ready (by decide +kernel)⟩, memFree_of _ _ (by decide) rfl, passes_of (a := 0x1020) (by decide +kernel), passes_of (a := 0x10C) (by decide +kernel),
   passes_of (a := 0x1010) (by decide +kernel)⟩
/-- R202 at the ends of an extent of 256 bytes, in each mode of bounds. -/
theorem witness_addresses : let x := getR (atElem memEl) 0
    memAddr x 0 (rec0 1 0x100) [0, 1] 240 16 = .at_ 0x1F0 ∧ memAddr x 0 (rec0 1 0x100) [0, 1] 241 16 = .trap 5 0x1F1 ∧ memAddr x 0 (rec0 1 0x100) [0] 0 16 = .trap 2 0 ∧
    memAddr x 0 (rec0 1 0x100 ||| 2 <<< 173) [1] 256 16 = .skip ∧ memAddr x 0 (rec0 1 0x100 ||| 1 <<< 173) [1] 300 16 = .at_ 0x1F0 :=
  by decide +kernel
theorem witness_mem_traps : memAddr (getR (atElem memEl) 0) 0 (recAt (atElem memEl) 3) [0, 1, 2] 16 16 = .trap 5 0x110 ∧
    inSeal { memEl with seals := [(5, { sealed := true, lo := 0x100, hi := 0x120 })] } 0x110 := ⟨by decide +kernel, ⟨_, List.mem_singleton.2 rfl, by decide⟩⟩

/-! Barriers, seals, fences (R213, R214, R221 to R225) -/

/-- An arrival of the last of 2, and a change of phase with NEN that waits or notifies. -/
theorem test_barrier : (match barrierUpdate { memEl with spad := memWrite [] 0x100 (bytesOf 16 (1 * 2 ^ 4 + 2 * 2 ^ 24)) } 0x100 1 0 with
      | .applied e => some (memVal e.spad 0x100 16) | _ => none) = some (1 + 2 * 2 ^ 4 + 2 * 2 ^ 24) ∧
    barrierUpdate memEl 0x100 1 0 = .refused ∧
    (match barrierUpdate { memEl with spad := memWrite [] 0x100 (bytesOf 16 (1 * 2 ^ 4 + 2 * 2 ^ 24 + 2 ^ 127 + 3 * 2 ^ 118)) } 0x100 1 0 with
      | .applied e => some (e.notify.map fun n => (n.elem, n.tok.pay)) | _ => none) = some [(3, 0x100_00000001)] := by decide +kernel
theorem test_arrive : look (fun t => memVal (getE t 0).spad 0x110 16)
    (exec (.arrive (hd .b) (.f 0) 0 1 0 .e) (atElem { memEl with spad := memWrite [] 0x110 (bytesOf 16 (2 * 2 ^ 4)) })) = some (1 * 2 ^ 4) := by decide +kernel
theorem test_pref : [(0, 1), (1, 0)].all (fun p => (accsAfter memEl (.pref (hd .b) (.f 0) 0 p.1 .dflt)).map (·.length) == some p.2) = true := by decide +kernel
theorem test_seal : look (fun t => (tget (getE t 0).seals 1 {}).sealed) (exec (.seal (hd .b) 1 0) (atElem memEl)) = some true ∧
    look (fun t => tget (getE t 0).seals 1 {}) (exec (.rclaim (hd .b) 1 0) (atElem { memEl with seals := [(1, { sealed := true, lo := 0x100, hi := 0x200 })] })) =
      some { sealed := false, lo := 0x100, hi := 0x200 } ∧
    look (fun t => (tget (getE t 0).seals 1 {}).sealed) (exec (.rclaim (hd .b) 1 0) (atElem { memEl with seals := [(1, { sealed := true, count := 1 })] })) = some true := by
  decide +kernel
theorem test_invl1 : look (fun t => (getE t 0).l1) (exec (.invl1 (hd .b)) (atElem { memEl with l1 := [⟨3, 0, false⟩] })) = some [] ∧
    look (fun t => (getE t 0).l1) (exec (.fenceAcq (hd .b) .die) (atElem { memEl with l1 := [⟨3, 0, false⟩] })) = some [] ∧
    look (fun t => (getE t 0).l1.length) (exec (.fenceRel (hd .b) .die) (atElem { memEl with l1 := [⟨3, 0, false⟩] })) = some 1 ∧
    look (fun t => (getE t 0).l1) (exec (.fenceFull (hd .b) .e) (atElem { memEl with l1 := [⟨3, 0, false⟩] })) = some [⟨3, 0, false⟩] := by decide +kernel
/-- R223: the halves of a record; a reserved space traps. -/
theorem test_brec : look (fun t => tget (getE t 0).recs 7 0) (exec (.brec (hd .b) (.f 3) (.f 0) 7) (atElem memEl)) = some (0x11 * 2 ^ 128 + 0x10) ∧
    (eTrap { memEl with f := [(3, 3 <<< 53)] } (.brec (hd .b) (.f 3) (.f 0) 7)).map (fun p => p.2.map (·.1)) = some (some 2) := by decide +kernel
theorem test_tsync : look (fun t => (getE t 0).accs.map (·.kind)) (exec (.tsync (hd .b)) (atElem memEl)) = some [.tsync] := by decide +kernel

theorem witness_local : Fireable (.arrive (hd .b) (.f 0) 0 1 0 .e) (atElem memEl) 0 ∧ Fireable (.pref (hd .b) (.f 0) 0 0 .dflt) (atElem memEl) 0 ∧ Fireable (.seal (hd .b) 1 0) (atElem memEl) 0 ∧
    Fireable (.rclaim (hd .b) 1 0) (atElem memEl) 0 ∧ Fireable (.invl1 (hd .b)) (atElem memEl) 0 ∧ Fireable (.brec (hd .b) (.f 3) (.f 0) 7) (atElem memEl) 0 ∧
    Fireable (.fenceFull (hd .b) .sys) (atElem memEl) 0 ∧ Fireable (.tsync (hd .b)) (atElem memEl) 0 ∧ performedNow (atElem memEl) memEl 0 4 = true ∧
    updAhead (atElem memEl) 0 0x110 (.acc 0 0) = false :=
  ⟨fireable_iff (by decide +kernel), fireable_iff (by decide +kernel), fireable_iff (by decide +kernel), fireable_iff (by decide +kernel), fireable_iff (by decide +kernel),
   fireable_iff (by decide +kernel), fireable_iff (by decide +kernel), fireable_iff (by decide +kernel), by decide +kernel⟩

/-! The tile exchange (R190 to R193), geometry (R428 to R430), the sequence unit (R432 to R434) -/

theorem test_txch : look (fun t => ((getE t 5).inbox.map fun p => (p.1, p.2.val), (getE t 0).pend)) (exec (.txch (hd .b) (.f 2) (.f 0) 5) (atElem memEl)) =
    some ([(5, tget memEl.f 0 0)], 4) := by decide +kernel
theorem test_tbcst : look (fun t => (upto 16).all fun j => (tget (getE t j).binbox 0 default).val == tget memEl.f 0 0) (exec (.tbcst (hd .b) (.f 2) (.f 0) 0) (atElem memEl)) =
    some true := by decide +kernel
theorem test_tred : look (fun t => (getE t 0).xops.map (·.kind)) (exec (.tred (hd .w) (.f 2) (.f 0) 0 1) (atElem memEl)) = some [.tred 0 1 .w] := by decide +kernel
/-- Element 0 has a TXCH with element 1, a TBCST from element 1 and, with element 1, a TRED that adds; all fired in cycle 1. -/
def xSt : State := { State.reset with regions := [(0, reg0)], elems :=
  [(0, { el0 with xops := [⟨.txch 1, 2, 7, 1, 0, 0⟩, ⟨.tbcst 1, 3, 0, 1, 0, 0⟩, ⟨.tred 0 1 .w, 4, 5, 1, 0, 0⟩], inbox := [(1, ⟨9, 1⟩)], binbox := [(1, ⟨8, 1⟩)] }),
   (1, { el0 with xops := [⟨.tred 0 1 .w, 4, 6, 1, 0, 0⟩] })] }
theorem test_deliver : look (fun t => tget (getE t 0).f 2 0) (exec (.txchDeliver 0 0 0 1) xSt) = some 9 ∧ look (fun t => tget (getE t 0).f 3 0) (exec (.tbcstDeliver 0 0 0) xSt) = some 8 ∧
    look (fun t => [tget (getE t 0).f 4 0, tget (getE t 1).f 4 0]) (exec (.tredDeliver 0 0 0) xSt) = some [11, 11] := by decide +kernel
theorem witness_exchange : Fireable (.txch (hd .b) (.f 2) (.f 0) 5) (atElem memEl) 0 ∧ Fireable (.tbcst (hd .b) (.f 2) (.f 0) 15) (atElem memEl) 0 ∧
    Fireable (.tred (hd .w) (.f 2) (.f 0) 0 1) (atElem memEl) 0 ∧ elemOk xSt 0 0 0 = true ∧ acting (getR xSt 0) = true ∧
    tredOf xSt 0 = some (0, 1, .w, ⟨.tred 0 1 .w, 4, 5, 1, 0, 0⟩) ∧ tredClash xSt 0 = none ∧ tredAgree xSt 0 1 = true ∧ groupOf 0 1 = [0, 1] ∧
    1 + 2 * popCount 1 4 + 1 < (getR xSt 0).cycle :=
  ⟨fireable_iff (by decide +kernel), fireable_iff (by decide +kernel), fireable_iff (by decide +kernel), by decide +kernel, by decide +kernel, by decide +kernel, by decide +kernel,
   by decide +kernel, by decide +kernel, by decide +kernel⟩

/-- R430: C is 1 on all edges: every sample is inside; on zero edges, which are on no tie side, none is. -/
theorem test_edge : fAfter { el0 with f := [(3, 0x00000001_00000001_00000001)] } 2 (.edge (hd .w) (.f 2) (.f 0) (.f 1) (.f 3)) = some 0xFFFF ∧
    fAfter el0 2 (.edge (hd .w) (.f 2) (.f 0) (.f 1) (.f 3)) = some 0 := by decide +kernel
/-- R428: a NaN in A misses every box. -/
theorem test_rbox : fAfter { el0 with f := [(0, 0x7FC00000)] } 2 (.rbox (hd .w) (.f 2) (.f 0) (.f 1) (.f 3)) = some 0x7F800000_7F800000_7F800000_7F800000 := by decide +kernel
theorem witness_geometry : Fireable (.edge (hd .w) (.f 2) (.f 0) (.f 1) (.f 3)) (atElem memEl) 0 ∧ Fireable (.rbox (hd .w) (.f 2) (.f 0) (.f 1) (.f 3)) (atElem memEl) 0 ∧
    Fireable (.rtri (hd .w .x4) (.f 2) (.f 0) (.f 1) (.f 3)) (atElem memEl) 0 := ⟨fireable_iff (by decide +kernel), fireable_iff (by decide +kernel), fireable_iff (by decide +kernel)⟩

/-- The unit is armed on queue 0 and expects 5; the head has number 5; granule 5 at 0x1050 may be parked. -/
def sqEl (occ : BitVec 256) (n : Nat) : Elem := { el0 with
  seqArm := true, seqBase := 1, seqExpect := 5, seqOcc := occ, spad := memWrite [] 0x1050 (bytesOf 16 0x66),
  queues := [(0, { bound := true, toks := [⟨0, BitVec.ofNat 128 (n * 2 ^ 96)⟩] })] }
theorem test_seqt : fAfter (sqEl 0x20 9) 2 (.seqt (hd .b) (.f 2) (.q 0)) = some 0x66 ∧ fAfter (sqEl 0 5) 2 (.seqt (hd .b) (.f 2) (.q 0)) = some (5 * 2 ^ 96) ∧
    (eTrap { sqEl 0 5 with seqArm := false } (.seqt (hd .b) (.f 2) (.q 0))).map (fun p => p.2.map (·.1)) = some (some 2) := by decide +kernel
theorem test_seqt_rst : look (fun t => ((getE t 0).seqArm, (getE t 0).seqQ, (getE t 0).seqBase, (getE t 0).seqExpect)) (exec (.seqtRst (hd .b) (.f 3) 2 15) (atElem memEl)) =
    some (true, 2, 15, 0x11) := by decide +kernel
theorem test_park : look (fun t => (memVal (getE t 0).spad 0x1070 16, (getE t 0).seqOcc, (getQ (getE t 0) 0).toks)) (exec (.seqtPark 0 0 0) (atElem (sqEl 0 7))) =
    some (7 * 2 ^ 96, 0x80, []) := by decide +kernel
/-- The datapath is busy: a park goes on, and a trap waits (R432). -/
theorem test_park_busy : look (fun t => ((getE t 0).seqOcc, (getE t 0).seqBusy)) (exec (.seqtPark 0 0 0) (atElem { sqEl 0 7 with busy := 64 })) = some (0x80, 11) ∧
    look (fun t => (getE t 0).st) (exec (.seqtPark 0 0 0) (atElem { sqEl 0x80 7 with busy := 64 })) = some .running ∧
    look (fun t => (getE t 0).st) (exec (.seqtPark 0 0 0) (atElem (sqEl 0x80 7))) = some .trapped := by decide +kernel
theorem witness_sequence_unit : Fireable (.seqtRst (hd .b) (.f 3) 2 15) (atElem memEl) 0 ∧ Fireable (.seqt (hd .b) (.f 2) (.q 0)) (atElem (sqEl 0 5)) 0 ∧
    (∃ t, headTok (sqEl 0 5) 0 = some t ∧ t.pay.extractLsb' 96 24 = (sqEl 0 5).seqExpect) ∧ elemOk (atElem (sqEl 0 7)) 0 0 0 = true ∧
    rawAvail (sqEl 0 7) 0 ≠ 0 ∧ (sqEl 0 7).trapRec = none ∧ (sqEl 0 7).seqBusy ≤ 10 ∧ (sqEl 0 7).busy ≤ 10 ∧
    10 < ({ sqEl 0x80 7 with busy := 64 } : Elem).busy :=
  ⟨fireable_iff (by decide +kernel), fireable_iff (by decide +kernel), ⟨_, rfl, by decide +kernel⟩, by decide +kernel, by decide +kernel, rfl, by decide, by decide,
    by decide⟩

/-! # Steps of the other units -/

/-- Region 0 given. -/
def atRegion (x : Region) : State := { State.reset with regions := [(0, x)] }

/-! ## Registers (R122, R179, R287, R296, R441 to R443, R457 to R464, R482 to R489) -/

/-- SLOTADR names slot 5 of element 2 of site 1. -/
def regSt : State := { atRegion { reg0 with
    seq := { seq0 with slotadr := 0x125, cfgmap := [(1, 1)] }, faultq := [1, 2], etq := [3, 4] } with elems := [(0, { st := .trapped, trapRec := some 7, trapAt := 9 }), (18, { st := .halted })] }

theorem test_slotdat : look (fun t => (tget (getE t 18).slots 5 0, (getE t 18).faulty, (getSeq t 0).slotadr)) (exec (.slotdatWrite 0 0x8038190820010000) regSt) =
    some (0x8038190820010000, 0, 0x126) := by decide +kernel
theorem test_cfgmap : look (fun t => tget (getSeq t 0).cfgmap 0 0) (exec (.cfgmapWrite 0 0 0xFF93) regSt) = some 0 ∧
    look (fun t => tget (getSeq t 0).cfgmap 2 0) (exec (.cfgmapWrite 0 2 0x0000000100009381) regSt) = some 0x9381 := by decide +kernel
theorem test_pops : look (fun t => (getR t 0).faultq) (exec (.xfqpop 0) regSt) = some [2] ∧ look (fun t => (getR t 0).etq) (exec (.etpop 0) regSt) = some [4] := by decide +kernel
theorem test_etact : look (fun t => ((getE t 0).st, (getE t 0).busy)) (exec (.etactResume 0 0 0) regSt) = some (.running, 11) ∧
    look (fun t => (getE t 0).st) (exec (.etactHalt 0 0 0) regSt) = some .halted := by decide +kernel
theorem test_etq : look (fun t => ((getR t 0).etq, (getE t 0).trapRec)) (exec (.elementTrapRecordQueue 0 0 0) regSt) = some ([3, 4, 7], none) := by decide +kernel
theorem witness_registers : siteOk (getR regSt 0) 1 = true ∧ (getE regSt 18).st = .halted ∧ elemOk regSt 0 0 0 = true ∧ (getE regSt 0).st = .trapped ∧
    (getE regSt 0).trapRec = some 7 ∧ (getE regSt 0).trapAt < (getR regSt 0).cycle ∧ (getR regSt 0).etq.length < 16 ∧
    (∀ j < 8, (0x0000000000009381 : BitVec 64).getLsbD (8 * j + 7) = true → ((0x0000000000009381 : BitVec 64).extractLsb' (8 * j) 5).toNat ≤ 19) := by decide +kernel

/-- SQBIND and SPBIND of an outbound port on ring 0 set PB of the ring; disabling a port clears nothing else. -/
def bindSt : State := withMem (atSeq seq0) [(0x400000000000, 64, ringVal)]
theorem test_sqbind : look (fun t => (ringPb (ringDesc t 0 0), sqOf t 0 2)) (exec (.sqbindWrite 0 2 0xC000000000000000) bindSt) = some (true, 0xC000000000000000) ∧
    look (fun t => (ringPb (ringDesc t 0 0), sqOf t 0 2)) (exec (.sqbindWrite 0 2 0) bindSt) = some (false, 0) := by decide +kernel
theorem test_spbind : look (fun t => (ringPb (ringDesc t 0 0), spOf t 0 3)) (exec (.spbindWrite 0 3 0xC000000000000000) bindSt) = some (true, 0xC000000000000000) ∧
    look (fun t => (spOf t 0 3, (getQ (getE t 17) 2).bound)) (exec (.spbindWrite 0 3 0x8000000000001120) bindSt) = some (0x8000000000001120, true) := by decide +kernel
theorem witness_bindings : bindBad bindSt (getR bindSt 0) false 0 0xC000000000000000 = false ∧ bindBad bindSt (getR bindSt 0) true 0 0xC000000000000000 = false ∧
    bindBad bindSt (getR bindSt 0) true 0 0x8000000000001120 = false ∧ spEnabled (sqOf bindSt 0 2) = false ∧ bindSt.ringOffset % 64 = 0 ∧
    dealSites (getR bindSt 0) 3 = none := by decide +kernel

theorem test_rown : look (fun t => ((getR t 3).owner, (getR t 3).ownerRej)) (exec (.rownWrite 3 5) State.reset) = some (5, false) ∧
    look (fun t => ((getR t 3).owner, (getR t 3).ownerRej)) (exec (.rownWrite 3 65) State.reset) = some (0, true) := by decide +kernel
theorem test_device_registers : look (fun t => t.gwint) (exec (.deviceRegisterWrite 0 0x600000020200 7) State.reset) = some 7 ∧
    look (fun t => t.keylock) (exec (.deviceRegisterWrite 0 0x600000031200 0xFF) State.reset) = some 0xFE ∧
    look (fun t => t.keylock) (exec (.deviceRegisterWrite 127 0x600000031200 0xFF) State.reset) = some 0 ∧
    look (fun t => ((getR t 2).owner, t.logQueue.length)) (exec (.deviceRegisterWrite 9 0x600000020010 4) State.reset) = some (0, 1) := by decide +kernel
theorem test_good : look (fun t => (t.fails, t.goodBy)) (exec .good { State.reset with fails := 2 }) = some (0, none) ∧
    look (fun t => t.keylock) (exec (.keylockWrite 3) { State.reset with keylock := 4 }) = some 6 ∧
    look (fun t => t.optTable) (exec (.optctlClr 1) { State.reset with optTable := [((1, 2, 3), 4), ((2, 2, 3), 4)] }) = some [((2, 2, 3), 4)] ∧
    look (fun t => t.frmBusy) (exec (.frmfreeWrite 0x5000) State.reset) = some (some 5) := by decide +kernel
/-- R459: a record of the log goes to its ring; the first one that waits raises an interrupt. -/
def logSt : State := { State.reset with logQueue := [0x77], logcfg := 0x8040400000000000 }
theorem test_log : look (fun t => (t.logQueue, t.logWr, t.msix)) (exec .logRecordWrite logSt) = some ([], 1, 1) ∧
    look (fun t => (t.logQueue, t.logcfg.getLsbD 62)) (exec .logRecordWrite { logSt with logcfg := 0 }) = some ([], true) := by decide +kernel
theorem test_meter : look (fun t => (t.lastMeter, (getR t 5).gwCount)) (exec .meterIntervalBoundary { State.reset with regions := [(5, { gwCount := 9 })], gwEff := 7, time := 8000 }) =
    some (7000, 0) := by decide +kernel
theorem witness_device_registers : paClass State.reset 0x600000020010 = .registers ∧ paClass State.reset 0x5000 = .gddr ∧ paClass State.reset 0x400000000000 = .window 0 ∧
    State.reset.frmBusy = none ∧ (∃ w, paClass logSt ((logSt.logcfg.extractLsb' 9 43).toNat * 512) = .window w) ∧
    (State.reset.lastMeter / (State.reset.gwEff * 1000) + 1) * (State.reset.gwEff * 1000) ≤ 100000000 ∧
    State.reset.time < (State.reset.lastMeter / (State.reset.gwEff * 1000) + 1) * (State.reset.gwEff * 1000) :=
  ⟨by decide +kernel, by decide +kernel, by decide +kernel, by decide +kernel, ⟨0, by decide +kernel⟩, by decide +kernel, by decide +kernel⟩

/-! ## Reconfiguration (R113 to R118, R309) -/

def closedQs : Table Queue := (upto 6).map fun q => (q, { bound := true, closed := true })
def drainEl : Elem := { el0 with st := .draining, binds := [(0, 0x4000000000000001)], queues := [(1, { bound := true, resv := [⟨.chan 0 0, 0⟩] })] }

theorem test_draining : look (fun t => (getE t 0).st) (exec (.enterDraining 0 0 0) (atElem { el0 with queues := closedQs })) = some .draining := by decide +kernel
theorem test_marker : look (fun t => ((getE t 0).out.map (·.tok.side), (getE t 0).st)) (exec (.endOfWaveMarkerSend 0 0 0 0) (atElem drainEl)) = some ([0x8400], .reconfiguring) ∧
    look (fun t => ((getQ (getE t 0) 2).toks, (getQ (getE t 0) 2).closed)) (exec (.markerReachesHead 0 0 0 2) (atElem { el0 with queues := [(2, { bound := true, toks := [⟨0x8400, 0⟩] })] })) =
      some ([], true) := by decide +kernel
/-- Load 4 gives element 0 a block whose word 0 is 9. -/
def loadSt (e : Elem) : State := { atElem e with regions := [(0, { reg0 with seq := { seq0 with loads := [{ id := 4, desc := 0, blocks := [(0, 9 :: List.replicate 61 0)], installed := [] }] } })] }
def doneEl : Elem := { el0 with st := .reconfiguring, installing := some { load := 4, words := 9 :: List.replicate 61 0, total := 0, done := 0, since := 5 } }
theorem test_install : look (fun t => ((getE t 0).st, (getE t 0).installing.map fun g => (g.load, g.total))) (exec (.configurationInstall 0 0 0) (loadSt { el0 with st := .idle })) =
      some (.reconfiguring, some (4, 62)) ∧
    look (fun t => (getE t 0).st) (exec (.haltedToDraining 0 0 0) (loadSt { el0 with st := .halted })) = some .draining ∧
    look (fun t => ((getE t 0).st, (getE t 0).slots, (getE t 0).wave)) (exec (.installComplete 0 0 0) (loadSt doneEl)) = some (.running, [(0, 9)], 1) := by decide +kernel
theorem witness_reconfiguration : elemOk (atElem el0) 0 0 0 = true ∧ (∀ q < 6, (getQ { el0 with queues := closedQs } q).shut = true) ∧ liveRoutes drainEl 0 ≠ [] ∧
    1 ≤ credits (atElem drainEl) 0 0 0 ∧ (∃ l ∈ (getSeq (loadSt el0) 0).loads, 0 ∉ l.installed) ∧ doneEl.installing.isSome = true ∧
    ((getSeq (loadSt el0) 0).loads.find? fun l => !l.installed.contains 0).isSome = true ∧ acting (getR (loadSt el0) 0) = true :=
  ⟨by decide +kernel, by decide +kernel, by decide +kernel, by decide +kernel, ⟨_, List.mem_singleton.2 rfl, by decide⟩, by decide +kernel, by decide +kernel, by decide +kernel⟩

/-! ## Homes and cisterns (R341, R351, R364 to R378) -/

def req (k : ReqKind) (m : BitVec 64 := 0) : HReq := { kind := k, agent := 0, region := 0, uncached := false, data := 0x55, mask := m, off := 8, size := 1, op := 0, v := 3, c := 0, tag := .none, stamp := 0 }
/-- Line 4 has a request at its home, and an entry. -/
def homeSt (q : HReq) (d : Dir) : State := { State.reset with homes := [(4, ⟨[q], none⟩)], dir := [(4, d)] }
def homeLook (q : HReq) (d : Dir) (i : Instr) : Option (Option LineState × LineState × Nat × BitVec 4) :=
  look (fun t => (((getHome t 4).tx.bind (·.granted)).map (·.1), (getDir t 4).st, (getDir t 4).own, (getDir t 4).cs)) (exec i (homeSt q d))

theorem test_rds : homeLook (req .rds) {} (.rds 4) = some (some .exclusive, .exclusive, 0, 1) ∧ homeLook (req .rds) { st := .shared, cs := 2 } (.rds 4) = some (some .shared, .shared, 0, 3) ∧
    homeLook (req .rds) { st := .modified, own := 1, cs := 2 } (.rds 4) = some (none, .modified, 1, 2) := by decide +kernel
theorem test_home_requests : homeLook (req .walk) {} (.walk 4) = some (some .shared, .shared, 0, 1) ∧ homeLook (req .rdx) {} (.rdx 4) = some (some .modified, .modified, 0, 1) := by decide +kernel
theorem test_home_requests_mm : homeLook (req .rdmm) {} (.rdmm 4) = some (some .modified, .modified, 0, 1) ∧ homeLook (req .rdmm) { st := .mm, cs := 2 } (.rdmm 4) = some (some .mm, .mm, 0, 3) := by decide +kernel
theorem test_home_writes : look (fun t => memVal t.mem 256 2) (exec (.wrh 4) (homeSt (req .wrh 1) {})) = some 0x55 ∧ look (fun t => memVal t.mem 264 8) (exec (.ath 4) (homeSt (req .ath) {})) = some 3 ∧
    look (fun t => (memVal t.mem 256 2, (getDir t 4).cs)) (exec (.wbm 4) (homeSt (req .wbm 1) { st := .modified, cs := 1 })) = some (0x55, 0) ∧
    look (fun t => (memVal t.mem 256 2, (getDir t 4).cs)) (exec (.wbmm 4) (homeSt (req .wbmm 2) { st := .mm, cs := 3 })) = some (0, 2) ∧
    look (fun t => (memVal t.mem 256 2, (getDir t 4).cs)) (exec (.clre 4) (homeSt (req .clre 1) { st := .exclusive, cs := 1 })) = some (0, 0) := by decide +kernel
theorem witness_homes : Asked (homeSt (req .rds) {}) 4 (req .rds) [] ∧ holders (getDir (homeSt (req .wrh) {}) 4) = [] ∧ lineBad (homeSt (req .ath) {}) 4 = none :=
  ⟨⟨by decide +kernel, by decide +kernel, by decide, by decide +kernel, by decide +kernel⟩, by decide +kernel, by decide +kernel⟩
theorem witness_home_writes : Asked (homeSt (req .wrh 1) {}) 4 (req .wrh 1) [] ∧ holders (getDir (homeSt (req .wrh 1) {}) 4) = [] :=
  ⟨⟨by decide +kernel, by decide +kernel, by decide, by decide +kernel, by decide +kernel⟩, by decide +kernel⟩

/-- Die 1 owns line 4, of which byte 0 is dirty; a request of die 0 waits for it. -/
def snoopSt (k : ReqKind) : State := { State.reset with
  homes := [(4, ⟨[], some { req := req k, pubs := [], tinv := [], snoops := [1], answers := [], granted := none, entry := 0 }⟩)], dir := [(4, { st := .modified, own := 1, cs := 2 })],
  cisterns := [(1, { lines := [(4, { st := .modified, data := 0x77, dirty := 1, first := 1, last := 1 })] })] }
def snoopLook (k : ReqKind) (i : Instr) : Option (Option LineState × LineState × BitVec 4) :=
  look (fun t => ((cLine t 1 4).map (·.st), (getDir t 4).st, (getDir t 4).cs)) (exec i (snoopSt k))
theorem test_snoops : snoopLook .rds (.snps 4 1) = some (some .shared, .shared, 3) ∧ snoopLook .rdx (.snpi 4 1) = some (none, .modified, 1) ∧
    snoopLook .rdmm (.snpmm 4 1) = some (some .mm, .mm, 3) := by decide +kernel
/-- R367: an exclusive grant reaches the requester's cistern. -/
def grantSt : State := { State.reset with homes := [(4, ⟨[], some { req := req .rds, pubs := [], tinv := [], snoops := [], answers := [], granted := some (.exclusive, 0x99), entry := 0 }⟩)] }
theorem test_grant : look (fun t => (cLine t 0 4, getHome t 4)) (exec (.grantAck 4) grantSt) = some (some ⟨.exclusive, 0x99, 0, 0, 0⟩, ⟨[], none⟩) := by decide +kernel
theorem witness_answers : AwaitsOne 4 1 (req .rds) [] (snoopSt .rds) ∧ cLine (snoopSt .rds) 1 4 = some { st := .modified, data := 0x77, dirty := 1, first := 1, last := 1 } ∧
    OnlyThere (snoopSt .rds) 1 4 ∧ (getDir (snoopSt .rds) 4).own = 1 ∧ getHome (homeSt (req .wbm) {}) 4 = ⟨[req .wbm], none⟩ ∧
    Granted 4 (req .rds) [] .exclusive 0x99 grantSt := ⟨rfl, by decide +kernel, ⟨by decide +kernel, by decide +kernel⟩, by decide +kernel, by decide +kernel, rfl⟩

def wcb0 : WcbEntry := { line := 4, data := 0x22, mask := 1, plc := 0x3C, noticed := false, asked := false, via := [], first := 2, last := 2 }
def wcbSt : State := { State.reset with regions := [(0, { reg0 with wcb := [wcb0] })], cisterns := [(0, { lines := [(4, { st := .exclusive, data := 0x7711, dirty := 0, first := 0, last := 0 })] })] }
theorem test_evict : look (fun t => ((cLine t 1 4).isNone, (getHome t 4).reqs.map fun q => (q.kind, q.mask == BitVec.allOnes 64))) (exec (.cisternEvict 1 4) { snoopSt .rds with homes := [] }) =
    some (true, [(.wbm, true)]) := by decide +kernel
theorem test_narrow : look (fun t => ((getDir t 4).nh, (getCist t 0).narrow)) (exec (.narrowHoldNotice 0 4) wcbSt) = some (1, [(4, 0)]) ∧
    look (fun t => (getDir t 4).nh) (exec (.narrowReleaseNotice 0 4) { State.reset with dir := [(4, { nh := 3 })] }) = some 2 := by decide +kernel
theorem test_wcb_drain : look (fun t => ((getR t 0).wcb, (cLine t 0 4).map fun c => (c.st, c.data, c.dirty))) (exec (.writeCombiningBufferDrain 0) wcbSt) =
    some ([], some (.modified, 0x7722, 1)) := by decide +kernel
/-- Die 0 holds line 4 Multi-modified with a narrow write, and nothing else. -/
def mmSt : State := { State.reset with cisterns := [(0, { lines := [(4, { st := .mm, data := 0x77, dirty := 1, first := 2, last := 2 })] })] }
def pubSt : State := { snoopSt .rds with
  homes := [(4, ⟨[], some { req := req .rdx, pubs := [1, 2], tinv := [], snoops := [], answers := [], granted := none, entry := 0 }⟩)], dir := [(4, { nh := 6 })] }
theorem test_publication : look (fun t => ((getHome t 4).tx.map (·.pubs), (getDir t 4).nh))
    (exec (.publicationRequest 2 4) pubSt) =
    some (some [1], 2) := by decide +kernel
theorem test_recall : look (fun t => ((getHome t 4).tx.map fun x => (x.req.kind, x.snoops), (cLine t 0 4).isNone)) (exec (.recallInvalidate 0 4) wcbSt) =
    some (some (.recall, [1, 2, 3]), true) := by decide +kernel
theorem witness_cisterns : cLine (snoopSt .rds) 1 4 = some { st := .modified, data := 0x77, dirty := 1, first := 1, last := 1 } ∧
    OnlyThere mmSt 0 4 ∧ (∃ w ∈ (getR wcbSt 0).wcb, w.line = 4 ∧ w.noticed = false) ∧
    dieCaches wcb0.plc 0 = true ∧ (getHome wcbSt 4).tx = none ∧ wcbSt.d2dFailed = [] ∧ wcbHas (getR State.reset 17) 4 = false ∧
    peerLine 4 = false ∧ Published pubSt 2 (fun _ => True) ∧ cLine pubSt 2 4 = none ∧ wbPending wcbSt 4 0 = false ∧ Published wcbSt 0 (fun w => w.line = 4) :=
  ⟨by decide +kernel, ⟨by decide +kernel, by decide +kernel⟩, ⟨wcb0, List.mem_singleton.2 rfl, rfl, rfl⟩, by decide +kernel, by decide +kernel, by decide +kernel,
   by decide +kernel, by decide +kernel, ⟨fun _ _ => trivial, by decide +kernel⟩, by decide +kernel, by decide +kernel, ⟨by decide +kernel, by decide +kernel⟩⟩

/-! ## Tokens and stream ports (R170 to R182, R331, R332, R500) -/

/-- A token of channel 0 of element 0 for queue 1 of the same element, sent in cycle 1. -/
def out0 (b : BitVec 64) : OutTok := { chan := 0, tok := ⟨0x0003, 0x77⟩, bind := b, pend := [0], sent := 1, wait := none, recs := [], sample := 0 }
def outEl (b : BitVec 64) : Elem := { el0 with out := [out0 b], queues := [(1, { bound := true, resv := [⟨.chan 0 0, 0⟩] })] }
def kindBind (k : BitVec 2) (n : BitVec 64) : BitVec 64 := k.setWidth 64 <<< 62 ||| n

theorem test_token_queue : look (fun t => ((getE t 0).out.length, (getQ (getE t 0) 1).toks, (getQ (getE t 0) 1).resv)) (exec (.tokenDeliver 0 0 0 0 0) (atElem (outEl 0x4000000000000001))) =
    some (0, [⟨0x0003, 0x77⟩], []) := by decide +kernel
theorem test_token_early : look (fun t => (getE t 0).out.length) (exec (.tokenDeliver 0 0 0 0 0)
    { atElem (outEl 0x4000000000000001) with regions := [(0, { reg0 with cycle := 2 })] }) = some 1 := by decide +kernel
theorem test_credit : look (fun t => (getQ (getE t 0) 1).resv.length) (exec (.creditReturn 0 0 0 1) (atElem { el0 with binds := [(0, 0x4000000000000001)], queues := [(1, { bound := true })] })) =
    some 8 := by decide +kernel
/-- R182: the intersection unit on queues 0 and 1 drops the smaller coordinate. -/
def crossEl : Elem := { el0 with spcfg := 0x808, queues := [(0, { bound := true, toks := [⟨0, 4⟩] }), (1, { bound := true, toks := [⟨0, 9⟩] })] }
theorem test_intersect : look (fun t => ((getQ (getE t 0) 0).toks.length, (getQ (getE t 0) 1).toks.length)) (exec (.coordinateIntersect 0 0 0) (atElem crossEl)) = some (0, 1) := by decide +kernel
theorem witness_transport : elemOk (atElem el0) 0 0 0 = true ∧ (bindKind 0x4000000000000001 = 1 ∧ bindTarget 0x4000000000000001 0 0 = (0, 1)) ∧
    1 + 2 + hops 0 0 ≤ (getR (atElem el0) 0).cycle ∧ bindKind 0x8000000000000000 = 2 ∧ bindKind 0xC000000000000000 = 3 ∧ spEn crossEl = true ∧ spQa crossEl = 0 ∧ spQb crossEl = 1 ∧
    rawAvail crossEl 0 ≠ 0 ∧ rawAvail crossEl 1 ≠ 0 := by decide +kernel

/-- Ring 0 of die 0 as for the queue ports; port 3 sends to it, port 4 takes from it for queue 2 of element 1 of site 1. -/
def portSt (ports : Table StreamPort) (owner : Nat) : State := { withMem State.reset [(0x400000000000, 64, ringVal + owner * 2 ^ 72), (0x2000, 32, 0x77 + 3 * 2 ^ 128)] with
  regions := [(0, { reg0 with seq := { seq0 with spbind := [(3, 0xC000000000000000), (4, 0x8000000000001120)] }, ports := ports })]
  elems := [(0, el0), (17, { el0 with queues := [(2, { bound := true, resv := [⟨.port 0 4, 0⟩] })] })] }
def outPort : Table StreamPort := [(3, { slots := { toks := [{ key := 0, chan := 0, tok := ⟨5, 0x99⟩, recs := [], sample := 0 }] } })]

theorem test_outbound : look (fun t => (memVal t.mem 0x2020 32, ringWr (ringDesc t 0 0), (getR t 0).gwCount)) (exec (.outboundPortWrite 0 3) (portSt outPort 0)) =
    some (0x99 + 5 * 2 ^ 128, 2, 1) := by decide +kernel
/-- R464: a unit that crosses while the region is saved is not counted. -/
theorem test_meter_stopped : (gwUnit (atRegion { reg0 with rstate := .saving, gwCount := 4 }) 0).regions.map (·.2.gwCount) = [4] := by decide +kernel
/-- R181: a ring of another owner: the sender traps with cause 0x0A, and the token is dropped. -/
theorem test_gateway : look (fun t => ((getE t 0).st, (getE t 0).trapRec.map (·.extractLsb' 32 8), t.logQueue.length)) (exec (.outboundPortWrite 0 3) (portSt outPort 9)) =
    some (.trapped, some 0x0A, 1) := by decide +kernel
theorem test_inbound : look (fun t => ((tget (getR t 0).ports 4 {}).moves, ringRd (ringDesc t 0 0) 0)) (exec (.inboundPortDeliver 0 4) (portSt [] 0)) =
      some ([⟨17, 2, ⟨3, 0x77⟩, 10⟩], 1) ∧
    look (fun t => ((getQ (getE t 17) 2).toks, (getQ (getE t 17) 2).resv)) (exec (.inboundPortDeliver 0 4) (portSt [(4, { moves := [⟨17, 2, ⟨3, 0x77⟩, 7⟩] })] 0)) =
      some ([⟨3, 0x77⟩], []) ∧
    look (fun t => (spEnabled (spOf t 0 4), (getSeq t 0).pending.map (·.cause))) (exec (.inboundPortDeliver 0 4) (portSt [] 9)) = some (false, [0x0A]) := by decide +kernel
theorem portLive_of {s : State} {r n : Nat} {out : Bool} (h : (spEnabled (spOf s r n) && (spOut (spOf s r n) == out) &&
    ringOk (ringDesc s (spDie (spOf s r n)) (spRing (spOf s r n))) (if out then none else some (spCons (spOf s r n))) && gwPasses (getR s r) &&
    !dieFar s (dieOf r) (spDie (spOf s r n)) && decide ((tget (getR s r).ports n {}).busy ≤ (getR s r).cycle) && decide (s.ringOffset % 64 = 0)) = true) :
    PortLive s r n out := by
  simp only [Bool.and_eq_true, beq_iff_eq, decide_eq_true_eq, Bool.not_eq_true'] at h
  exact ⟨h.1.1.1.1.1.1, h.1.1.1.1.1.2, h.1.1.1.1.2, h.1.1.1.2, h.1.1.2, h.1.2, h.2⟩
theorem witness_ports_live : PortLive (portSt outPort 0) 0 3 true ∧ Waiting (portSt [] 0) 0 4 ⟨3, 0x77⟩ ∧ NoArrival (portSt [] 0) 0 4 ∧ HasSlot (portSt [] 0) 0 4 17 2 ∧
    ringFull (ringDesc (portSt outPort 0) 0 0) = false ∧ dealSites (getR (portSt [] 0) 0) 4 = none ∧ pumpSource (getR (portSt [] 0) 0) 4 = false ∧
    7 + 2 + 17 / 16 % 20 % 5 ≤ (getR (portSt [] 0) 0).cycle :=
  ⟨portLive_of (by decide +kernel), ⟨portLive_of (by decide +kernel), by decide +kernel, by decide +kernel, by decide +kernel⟩, by unfold NoArrival; decide +kernel,
   by unfold HasSlot; decide +kernel, by decide +kernel, by decide +kernel, by decide +kernel, by decide +kernel⟩
/-- The port deals for an actor whose live sites are 1 and 2. -/
def dealSt : State := let s := portSt [] 0
  { s with regions := s.regions.map fun p => (p.1, { p.2 with stoat := { actors := some [{ entry := 4 <<< 148, tmpl := [], live := [1, 2], high := 0, low := 0 }] } }) }
theorem test_deal : look (fun t => ((tget (getR t 0).ports 4 {}).moves.map (·.key), (tget (getR t 0).ports 4 {}).lastDeal)) (exec (.dealPortDeliver 0 4) dealSt) = some ([17], 1) := by
  decide +kernel
theorem witness_deal : dealSites (getR dealSt 0) 4 = some [1, 2] ∧ Waiting dealSt 0 4 ⟨3, 0x77⟩ ∧ (getR dealSt 0).stoat.drains = [] ∧ NoArrival dealSt 0 4 ∧ HasSlot dealSt 0 4 17 2 :=
  ⟨by decide +kernel, ⟨portLive_of (by decide +kernel), by decide +kernel, by decide +kernel, by decide +kernel⟩, by decide +kernel, by unfold NoArrival; decide +kernel,
   by unfold HasSlot; decide +kernel⟩
/-- A consumer that held its stream for the detach time of 64 µs leaves it. -/
def detachSt : State := let s := portSt [] 0
  { s with regions := s.regions.map fun p => (p.1, { p.2 with held := [(.ring 0 0 0, 64000), (.route 0 0 0 0 1, 64000)] }) }
theorem test_detach : look (fun t => (spEnabled (spOf t 0 4), (ringDesc t 0 0).extractLsb' 384 8, (getSeq t 0).pending.map (·.cause))) (exec (.streamDetach (.ring 0 0 0)) detachSt) =
      some (false, 1, [0x0B]) ∧
    look (fun t => tget (getE t 0).det 0 0) (exec (.streamDetach (.route 0 0 0 0 1)) detachSt) = some 2 := by decide +kernel
theorem witness_detach : (ringConsumers detachSt 0 0 0).find? (fun p => heldOut detachSt p.1 (.ring 0 0 0)) = some (0, 4) ∧ detachSt.ringOffset % 64 = 0 ∧
    (∃ p ∈ (getR detachSt 0).held, p.1 = .route 0 0 0 0 1 ∧ 64000 ≤ p.2) := ⟨by decide +kernel, by decide +kernel, ⟨(.route 0 0 0 0 1, 64000), by decide +kernel, rfl, by decide⟩⟩

/-! ## Accesses (R197 to R220, R225, R282, R391, R393) -/

theorem test_read_after_write : memVal (memWrite (memWrite [] 4 [1, 2, 3]) 5 [0, 9]) 4 4 = 0x00090001 ∧ memWrite [] 4 [0] = [] := by decide +kernel

/-- An access of one address, fired in cycle 1. -/
def acc (k : AccKind) (sp tgt : Nat) (l : AccLane) (dest : AccDest := .none) (v : Vec := 0) : Access :=
  { id := 0, kind := k, slot := 0, beat := 0, word := 0, ops := [0, 0, 0], dest := dest, chain := none, scope := .e, policy := .dflt, space := sp, target := tgt, size := 16,
    data := v, fired := 1, lanes := [l], cur := 0, accepted := none, raised := [], sentOff := false, asked := false, noAlloc := false,
    barred := [], parked := false, bind := 0, tag := 0, recs := [], sample := 0, fault := none }
def lane0 (a : Nat) : AccLane := { lane := 0, addr := a, skip := false, xlat := none, got := none, looked := false }
/-- Element 0 has one access; element 1's scratchpad is free. -/
def accSt (a : Access) (tlb : List Xlat := []) : State := { State.reset with regions := [(0, { reg0 with cycle := 50 })], elems := [(0, { memEl with accs := [a], tlb := tlb, pend := 4 })] }

theorem onWay_of {a : Access} {t : List Xlat} (h : (a.id == 0 && a.fault.isNone) = true) : OnWay (accSt a t) 0 0 0 0 a := by
  simp only [Bool.and_eq_true, beq_iff_eq, Option.isNone_iff_eq_none] at h
  refine ⟨(show elemOk (accSt a t) 0 0 0 = elemOk (accSt (acc .ld 0 0 (lane0 0)) []) 0 0 0 from rfl).trans (by decide +kernel), ?_, ?_, h.2⟩
  · exact List.mem_singleton.2 rfl
  · intro x hx; rw [List.mem_singleton.1 (show x ∈ [a] from hx)]; simp [h.1]

theorem test_translate : look (fun t => (getE t 0).accs.map fun a => a.lanes.map fun l => l.xlat) (exec (.translationWalkComplete 0 0 0 0) (accSt (acc .ld 0 0 (lane0 0x40)) [page])) =
    some [[some page]] := by decide +kernel
theorem test_load_data : look (fun t => (getE t 0).accs.map fun a => a.lanes.map fun l => l.got) (exec (.loadDataReturn 0 0 0 0) (accSt (acc .ld 1 0 (lane0 0x110)))) = some [[some 0x55]] := by
  decide +kernel
theorem test_load_deliver : look (fun t => (tget (getE t 0).f 2 0, (getE t 0).accs, (getE t 0).pend)) (exec (.loadDataReturn 0 0 0 0) (accSt (acc .ld 1 0 { lane0 0x110 with got := some 9 } (.reg 2)))) =
    some (9, [], 0) := by decide +kernel
theorem test_ldf_complete : look (fun t => (tget (getE t 0).f 2 0, (getE t 0).full)) (exec (.ldfComplete 0 0 0 0) { accSt (acc (.ldf true) 1 0 (lane0 0x110) (.reg 2)) with
      elems := [(0, { memEl with accs := [acc (.ldf true) 1 0 (lane0 0x110) (.reg 2)], full := [17] })] }) = some (0x55, []) ∧
    look (fun t => (getE t 0).accs.length) (exec (.ldfComplete 0 0 0 0) (accSt (acc (.ldf true) 1 0 (lane0 0x110) (.reg 2)))) = some 1 := by decide +kernel
theorem test_store_own : look (fun t => (memVal (getE t 0).spad 0x120 16, (getE t 0).accs)) (exec (.writePerformed 0 (.elem 0) 0) (accSt (acc .st 1 0 (lane0 0x120) .none 0x88))) = some (0x88, []) ∧
    look (fun t => (getE t 0).full) (exec (.writePerformed 0 (.elem 0) 0) (accSt (acc (.feset true) 1 0 (lane0 0x120)))) = some [18] ∧
    look (fun t => (memVal (getE t 0).spad 0x120 16, (getE t 0).full)) (exec (.stfComplete 0 0 0 0) (accSt (acc .stf 1 0 (lane0 0x120) .none 0x88))) = some (0x88, [18]) := by decide +kernel
theorem test_store_memory : look (fun t => ((getR t 0).wcb.map fun w => (w.line, w.mask, w.data), (getE t 0).touched))
    (exec (.writePerformed 0 (.elem 0) 0) (accSt (acc .st 0 0 { lane0 0x50 with xlat := some page } .none 0x88))) = some ([(1, 0xFFFF0000, BitVec.ofNat 512 (0x88 * 2 ^ 128))], [1]) := by decide +kernel
theorem test_store_remote : look (fun t => ((getE t 1).landing, (getE t 1).portBusy)) (exec (.externalPortRequest 0 0 0 0) (accSt (acc .st 2 1 (lane0 0x120) .none 0x88))) =
      some ([⟨.acc 0 0, 0x120, 50⟩], 51) ∧
    look (fun t => (getE t 0).accs.map (·.fault)) (exec (.externalPortRequest 0 0 0 0) (accSt (acc .ldr 2 1 (lane0 0x120) (.reg 2)))) = some [some (0x07, 0x120)] := by decide +kernel
/-- Element 1's port took the store of element 0 in cycle 40. -/
def landAcc : Access := { acc .st 2 1 (lane0 0x120) .none 0x88 with accepted := some 40 }
def landSt : State := let s := accSt landAcc
  { s with elems := s.elems ++ [(1, { el0 with landing := [⟨.acc 0 0, 0x120, 40⟩] })] }
theorem test_land : look (fun t => (memVal (getE t 1).spad 0x120 16, (getE t 1).landing, (getE t 0).accs)) (exec (.writePerformed 0 (.elem 0) 0) landSt) = some (0x88, [], []) := by
  decide +kernel
theorem test_late_fault : look (fun t => ((getE t 0).st, (getE t 0).accs, (getE t 0).pend)) (exec (.lateFault 0 0 0 0) (accSt { acc .ldr 2 1 (lane0 0x120) (.reg 2) with fault := some (0x07, 0x120) })) =
    some (.trapped, [], 0) := by decide +kernel
theorem test_arrival : look (fun t => (getE t 0).accs.map (·.sentOff)) (exec (.arriveSend 0 0 0 0) (accSt (acc .arrive 1 0 (lane0 0x110)))) = some [true] ∧
    look (fun t => (memVal (getE t 0).spad 0x110 16, (getE t 0).accs)) (exec (.barrierUpdate 0 0 0 0) (accSt { acc .arrive 1 0 (lane0 0x110) with sentOff := true })) = some (0x45, []) := by decide +kernel
def notifySt : State := { State.reset with regions := [(0, reg0)], elems :=
  [(0, { el0 with notify := [{ site := 0, elem := 1, queue := 3, tok := ⟨0x1F, 1⟩ }] }), (1, { el0 with queues := [(3, { bound := true, resv := [⟨.notify 0, 0⟩] })] })] }
theorem test_notify : look (fun t => ((getE t 0).notify, (getQ (getE t 1) 3).toks)) (exec (.notifyTokenDeliver 0 0 0) notifySt) = some ([], [⟨0x1F, 1⟩]) := by decide +kernel
/-- A store of the sequencer to a line that the die owns. -/
def storeSt : State := { atSeq { seq0 with stores := [{ id := 3, scope := .die, xlat := page, pa := 0x102, data := [0xAA, 0xBB], asked := false }] } with
  cisterns := [(0, { lines := [(4, { st := .exclusive, data := 0x11, dirty := 0, first := 0, last := 0 })] })] }
theorem test_store_seq : look (fun t => ((getSeq t 0).stores, (cLine t 0 4).map fun c => (c.st, c.data, c.dirty))) (exec (.writePerformed 0 (.seq 0) 3) storeSt) =
    some ([], some (.modified, 0xBBAA0011, 0xC)) := by decide +kernel
theorem witness_accesses : OnWay (accSt (acc .ld 0 0 (lane0 0x40)) [page]) 0 0 0 0 (acc .ld 0 0 (lane0 0x40)) ∧
    (let q := accReq (getR (accSt (acc .ld 0 0 (lane0 0x40)) [page]) 0) .ld
     xlatHit page q.asid q.owner 0x40 = true ∧ permitted page.pte q = true ∧ paClass State.reset 0x40 = .gddr) ∧
    Oldest (getE (accSt (acc .ld 1 0 (lane0 0x110))) 0) 0 (acc .ld 1 0 (lane0 0x110)) (lane0 0x110) ∧
    dueFrom 0 (acc .ld 1 0 (lane0 0x110)) ≤ 50 ∧ ArrivesAt (accSt (acc .st 2 1 (lane0 0x120))) 0 0 0 (acc .st 2 1 (lane0 0x120)) ∧
    Lands landSt 0 0 landAcc (lane0 0x120) ∧ dieCaches page.plc 0 = true ∧ pteMt page.pte = 0 :=
  ⟨onWay_of rfl, by decide +kernel, ⟨rfl, rfl, by decide +kernel⟩, by decide +kernel,
   ⟨rfl, rfl, by decide +kernel, by decide +kernel, by decide +kernel, by decide +kernel⟩,
   ⟨rfl, by decide +kernel, ⟨40, rfl, by decide +kernel⟩, by decide +kernel, ⟨⟨.acc 0 0, 0x120, 40⟩, [], by decide +kernel, rfl, rfl⟩⟩, by decide +kernel, by decide +kernel⟩
/-- Of two arrivals at one barrier the one that came later waits behind the other. -/
def updHeldSt : State := { accSt { acc .arrive 1 0 (lane0 0x110) with id := 8, sentOff := true } with
  elems := [(0, { memEl with accs := [{ acc .arrive 1 0 (lane0 0x110) with id := 7 }, { acc .arrive 1 0 (lane0 0x110) with id := 8 }], held := [⟨0x110, .acc 0 7⟩, ⟨0x110, .acc 0 8⟩] })] }
theorem witness_updates : updAhead updHeldSt 0 0x110 (.acc 0 8) = true ∧ updAhead updHeldSt 0 0x110 (.acc 0 7) = false ∧ HeldAt (.acc 0 8) (getE updHeldSt 0) :=
  ⟨by decide +kernel, by decide +kernel, ⟨⟨0x110, .acc 0 8⟩, by decide +kernel, rfl⟩⟩
theorem witness_access_events : 1 ≤ usableResv (getQ (getE notifySt 1) 3).resv (.notify 0) 10 ∧ siteOk (getR notifySt 0) 0 = true ∧
    (∃ y, barrierUpdate (getE (accSt (acc .arrive 1 0 (lane0 0x110))) 0) 0x110 1 0 = .applied y) ∧ wcbHas (getR storeSt 0) 4 = false ∧
    (∀ ln ∈ (getE (accSt (acc .tsync 0 0 (lane0 0))) 0).touched, lineAt (accSt (acc .tsync 0 0 (lane0 0))) 0 ln 2 = true) :=
  ⟨by decide +kernel, by decide +kernel, ⟨_, rfl⟩, by decide +kernel, by decide +kernel⟩
/-- R393: two regions of die 0 have translations of line 9, which is being changed. -/
def invSt : State := { State.reset with
  regions := [(0, { reg0 with tlb := [{ page with leafLines := [9] }] }), (1, reg0)], cisterns := [(0, { walkers := [(9, 0), (9, 1)] })]
  homes := [(9, ⟨[], some { req := req .rdx, pubs := [], tinv := [0], snoops := [], answers := [], granted := none, entry := 0 }⟩)], dir := [(9, { ts := 1 })] }
theorem test_invalidation : look (fun t => ((getR t 0).tlb, (getCist t 0).walkers, (getDir t 9).ts)) (exec (.translationInvalidation 0 9) invSt) = some ([], [(9, 1)], 1) := by decide +kernel
theorem witness_invalidation : invalidating invSt 0 9 = true ∧ (9, 0) ∈ (getCist invSt 0).walkers ∧ oldAccess (dropXlats invSt 0 9) 0 9 = false ∧
    (getR invSt 0).wcb = [] ∧ (∀ p ∈ (getCist invSt 0).lines, p.2.dirty = 0) ∧ Published invSt 0 (fun _ => True) :=
  ⟨by decide +kernel, by decide +kernel, by decide +kernel, by decide +kernel, by decide +kernel, ⟨fun _ _ => trivial, by decide +kernel⟩⟩

/-! ## Matrix islands (R232 to R249) -/

/-- A lies in the scratchpad of element 1 of site 0 at 0x100 with rows of 64 bytes, B comes from its port, C is FP32 in element 2. -/
def mxCtx2 : Nat := (0x10100 + 0x4000 * 2 ^ 64 + 64 * 2 ^ 104 + 0x0A * 2 ^ 168 + 2 * 2 ^ 181) + 0x0A * 2 ^ 424 + 2 ^ 964
  + (0x20100 + 0x4000 * 2 ^ 64 + 256 * 2 ^ 104 + 0x08 * 2 ^ 168 + 2 * 2 ^ 181) * 2 ^ 512
def run0 (k : TileKind) (steps : Nat := 0) : Run :=
  { id := 0, group := 0, dead := false, ctx := 0, kind := k, acc := 3, astep := 1, t0 := 0, tcnt := 1, kext := if k = .mma then 32 else 0, sample := 0, tiles := [(0, { steps := steps })] }
def blk (n : Nat) (full : Bool) : StageBlock := { run := 0, tile := 0, block := n, data := [], count := 0, full := full }
/-- Island 0 runs a run; the scratchpads of elements 1 and 2 hold data, element 1's is sealed. -/
def mxSt (u : Run) (i : Island) : State := { State.reset with
  regions := [(0, { reg0 with islands := [(0, { i with ctxs := [(0, { rec_ := some (BitVec.ofNat 1024 mxCtx2) })], runs := [u], nextId := 1 })] })]
  elems := [(1, { el0 with spad := memWrite [] 0x100 (bytesOf 16 0x3839), seals := [(5, { sealed := true, lo := 0x100, hi := 0x4100 })] }),
    (2, { el0 with spad := memWrite [] 0x100 (bytesOf 16 0x40000000_3F800000) })] }
def fetchSt : State := mxSt (run0 .mma) { stageA := [(0, [blk 0 false, blk 1 true])] }

theorem test_fetch : look (fun t => ((getM t 0 0).fetches.map fun f => (f.slot, f.key, f.data), (tget (getE t 1).seals 5 {}).count)) (exec (.matrixOperandFetch 0 0 0 false 0 0) fetchSt) =
    some ([(0, 1, 0x3839)], 1) := by decide +kernel
/-- R234: islands 0 and 1 want the same granule: the port takes it once, for both. -/
def mergeSt : State := let i : Island := { stageA := [(0, [blk 0 false, blk 1 true])], ctxs := [(0, { rec_ := some (BitVec.ofNat 1024 mxCtx2) })], runs := [run0 .mma], nextId := 1 }
  { fetchSt with regions := [(0, { reg0 with islands := [(0, i), (1, i)] })] }
theorem test_fetch_merged : look (fun t => ([0, 1].map fun m => (getM t 0 m).fetches.map fun f => (f.slot, f.data), (tget (getE t 1).seals 5 {}).count)) (exec (.matrixOperandFetch 0 0 0 false 0 0) mergeSt) =
      some ([[(0, 0x3839)], [(0, 0x3839)]], 2) ∧
    sharers (getR mergeSt 0) 0 0 0 (run0 .mma) (blk 0 false) (1, 0x100) = [⟨1, false, blk 0 false, 0, 0⟩] ∧ sharers (getR fetchSt 0) 0 0 0 (run0 .mma) (blk 0 false) (1, 0x100) = [] := by
  decide +kernel
/-- R248: a granule that is not sealed faults the context with DETAIL 2. -/
theorem test_fetch_unsealed : look (fun t => ((ctxOf (getM t 0 0) 0).fault, (getM t 0 0).mxflt.extractLsb' 24 8, (getM t 0 0).runs.length)) (exec (.matrixOperandFetch 0 0 0 false 0 0)
    { fetchSt with elems := [(1, el0)] }) = some (true, 2, 0) := by decide +kernel
def returnSt : State := mxSt (run0 .mma) { stageA := [(0, [blk 0 false, blk 1 true])], fetches := [{ id := 7, ctx := 0, side := false, run := 0, tile := 0, block := 0, slot := 0, key := 1, data := 5, raised := [], at_ := 0, dropped := false }] }
theorem test_fetch_return : look (fun t => ((getM t 0 0).fetches, (stageOf (getM t 0 0) false 0).map fun w => tget w.data 0 0)) (exec (.matrixFetchReturn 0 0 7) returnSt) = some ([], [5, 0]) := by
  decide +kernel
def stageSt : State := mxSt (run0 .mma) { stageB := [(0, [blk 0 false, blk 1 true])], ports := [(1, { toks := [{ key := 0, chan := 0, tok := ⟨0, 0x77⟩, recs := [], sample := 0 }] })] }
theorem test_stage : look (fun t => (stageOf (getM t 0 0) true 0).map fun w => (w.count, tget w.data 0 0)) (exec (.matrixOperandStage 0 0 0 true) stageSt) = some [(1, 0x77), (0, 0)] := by decide +kernel
theorem witness_operands : blockSite (getR fetchSt 0) (getM fetchSt 0 0) false (blk 0 false) 0 = .at_ 1 0x100 0x100 ∧ 0 ∈ blockPieces (getR fetchSt 0) (getM fetchSt 0 0) false 0 (blk 0 false) 0 ∧
    sealsOver (getE fetchSt 1) 0x100 = [5] ∧ acting (getR fetchSt 0) = true ∧ findRun (getM fetchSt 0 0) 0 = some (run0 .mma) ∧
    (mxOperand (BitVec.ofNat 1024 mxCtx2) true).port = true ∧ (mxOperand (BitVec.ofNat 1024 mxCtx2) false).port = false ∧
    behindTokens (getM fetchSt 0 0) false 0 (blk 0 false) = false ∧ landings fetchSt 1 = [] ∧ portFree fetchSt 1 (islandPortNo 0) = true := by decide +kernel

/-- R241: 1.0 × 2.0 onto 3.0 in FA40; 0x38 and 0x40 are 1.0 and 2.0 of E4M3. -/
theorem test_block_step : decodeF .fa40 (mxBlockStep false (roundV .fa40 0 (.fin false 3 0)).1 [decodeF .e4m3 0x38] [decodeF .e4m3 0x40] 127 127).1 = decodeF .fa40 (roundV .fa40 0 (.fin false 5 0)).1 := by
  decide +kernel
theorem test_zero_tile : look (fun t => (getAcc (getM t 0 0) 3 0 0, getAcc (getM t 0 0) 4 0 0)) (exec (.matrixZeroTile 0 0) (mxSt (run0 .zero) { acc := [(3, [(0, 9)]), (4, [(0, 8)])] })) = some (0, 8) := by
  decide +kernel
theorem test_load_tile : look (fun t => (upto 3).map fun n => getAcc (getM t 0 0) 3 0 n) (exec (.matrixLoadTile 0 0) (mxSt (run0 .load) {})) =
    some ([0x3F800000, 0x40000000, 0].map fun v => (roundV .fa40 0 (decodeF .fp32 v)).1) := by decide +kernel
def wrMx : Island := { acc := [(3, [(0, BitVec.ofNat 40 (roundV .fa40 0 (decodeF .fp32 0x40400000)).1)])] }
/-- The port has taken the first granule of the tile in cycle 5. -/
def wrRun : Run := { run0 .write with tiles := [(0, { started := true, posted := [(0, 5)] })] }
def wrSt : State := let s := mxSt wrRun wrMx
  { s with elems := [(2, { el0 with landing := [⟨tileSrc 0 wrRun 0, 0x100, 5⟩] })] }
theorem test_write_tile : look (fun t => ((getE t 2).landing, (getM t 0 0).runs.map fun u => (tileProg u 0).posted)) (exec (.matrixWriteTile 0 0) (mxSt (run0 .write) wrMx)) =
      some ([⟨tileSrc 0 (run0 .write) 0, 0x100, 10⟩], [[(0, 10)]]) ∧
    look (fun t => memVal (getE t 2).spad 0x100 16) (exec (.matrixWriteTile 0 0) wrSt) = some 0x40400000 := by decide +kernel
theorem test_tile_complete : look (fun t => (getM t 0 0).runs) (exec (.matrixTileComplete 0 0 0) (mxSt (run0 .mma 1) {})) = some [] := by decide +kernel
def arrMx : State := mxSt (run0 .zero) { arrivals := [{ id := 4, ctx := 0, kind := .write, acc := 0, tile := 0, steps := 1, site := 0, elem := 1, off := 0x100, at_ := 2 }] }
theorem test_matrix_arrival : look (fun t => (memVal (getE t 1).spad 0x100 16, (getM t 0 0).arrivals)) (exec (.matrixArrival 0 0 4) { arrMx with elems := [(1, { el0 with spad := memWrite [] 0x100 (bytesOf 16 0x3830) })] }) =
    some (0x3820, []) := by decide +kernel
theorem witness_tiles : computeTile (getM (mxSt (run0 .zero) {}) 0 0) = some (run0 .zero, 0) ∧ transferTile reg0 0 (getM (mxSt (run0 .load) {}) 0 0) = some (run0 .load, 0) ∧
    transferTile reg0 0 (getM wrSt 0 0) = some (wrRun, 0) ∧ mayLand wrSt 2 (tileSrc 0 wrRun 0) 0x100 5 = true ∧
    ((mxCPieces (BitVec.ofNat 1024 mxCtx2) 0)[0]?.map fun p => (mxCSite (getR fetchSt 0) (BitVec.ofNat 1024 mxCtx2) p, p.row, p.col, p.n)) = some (.at_ 2 0x100 0, 0, 0, 4) ∧
    tileSteps (getM (mxSt (run0 .mma 1) {}) 0 0) (run0 .mma 1) 0 = 1 ∧
    computeTile (getM (mxSt (run0 .mma) { stageA := [(0, [blk 0 true])], stageB := [(0, [blk 0 true])] }) 0 0) = some (run0 .mma, 0) :=
  ⟨by decide +kernel, by decide +kernel, by decide +kernel, by decide +kernel, by decide +kernel, by decide +kernel, by decide +kernel⟩

/-! ## Pumps (R257 to R278) -/

/-- Four tokens of one channel give a request of zeros, and one that holds a reserved value. -/
def packTok (v : Vec) : PortTok := { key := 0, chan := 0, tok := ⟨0, v⟩, recs := [], sample := 0 }
def pumpSt (u : Pump) : State := { State.reset with
  regions := [(0, { reg0 with cycle := 50, pumps := [(0, u)] })]
  elems := [(0, { memEl with seals := [(6, { sealed := true, lo := 0x110, hi := 0x120 })] })] }
theorem test_packet : look (fun t => ((pumpOf t 0 0).queue.map fun q => (q.id, q.desc, q.origin), (pumpOf t 0 0).reqPort.toks)) (exec (.pumpRequestPacket 0 0) (pumpSt { reqPort := { toks := List.replicate 4 (packTok 0) }, nextId := 3 })) =
    some ([(3, 0, some 0)], []) := by decide +kernel
theorem test_packet_reserved : look (fun t => ((pumpOf t 0 0).queue, (pumpOf t 0 0).pmflt0.extractLsb' 48 16, (getSeq t 0).pending.map (·.cause)))
    (exec (.pumpRequestPacket 0 0) (pumpSt { reqPort := { toks := List.replicate 4 (packTok 1) } })) = some ([], 0x1701, [0x17]) := by decide +kernel
/-- A request of kind COPY: 16 bytes from the scratchpad at 0x110 to 0x130 of element 0. -/
def copyReq : PReq := { id := 2, desc := BitVec.ofNat 512 ((15 * 2 ^ 31) + (2 * 2 ^ 61 + 0x110) * 2 ^ 128 + (2 * 2 ^ 61 + 0x130) * 2 ^ 192), sample := 0, origin := none, srcRec := none, dstRec := none, at_ := 0 }
def act0 (a : PActive) : Pump := { active := [a], nextId := 9 }
theorem test_pump_start : look (fun t => ((pumpOf t 0 0).queue, (pumpOf t 0 0).active.map fun a => (a.req.id, a.stage))) (exec (.pumpRequestStart 0 0) (pumpSt { queue := [copyReq] })) = some ([], [(2, 0)]) := by
  decide +kernel
/-- R260, R262: the first iteration reads 16 bytes at 0x110. -/
theorem test_pump_read : look (fun t => (pumpOf t 0 0).active.map fun a => a.work.map fun w => (w.write, w.ek, w.addr, w.size)) (exec (.pumpIssue 0 0) (pumpSt (act0 { req := copyReq, stage := 1 }))) =
    some [[(false, 2, 0x110, 16)]] := by decide +kernel
theorem test_pump_write : look (fun t => (pumpOf t 0 0).active.map fun a => (a.q, a.work.map fun w => (w.write, w.addr, w.data.length))) (exec (.pumpIssue 0 0) (pumpSt (act0 { req := copyReq, stage := 1, src := bytesOf 16 7 }))) =
    some [(1, [(true, 0x130, 16)])] := by decide +kernel
def piece (write : Bool) (a : Nat) (d : List Byte) : PPiece := { iter := 0, place := if write then 1 else 0, write := write, ek := 2, key := 0, addr := a, size := 16, scope := 0, data := d, skip := false, tok := none }
def pacc (p : PPiece) : PAcc := { id := 4, req := 2, p := p, xlat := none, issued := 1, done := 0, got := [], posted := [], complete := false, refused := false, raised := [] }
theorem test_pump_issue : look (fun t => (pumpOf t 0 0).accs.map fun a => (a.id, a.req, a.p.addr)) (exec (.pumpIssue 0 0) (pumpSt (act0 { req := copyReq, stage := 1, work := [piece false 0x110 []] }))) =
    some [(9, 2, 0x110)] := by decide +kernel
theorem test_pump_access : look (fun t => (pumpOf t 0 0).accs.map fun a => leVal a.got) (exec (.pumpAccessComplete 0 0 4) (pumpSt { act0 { req := copyReq, stage := 1 } with accs := [pacc (piece false 0x110 [])] })) = some [0x55] ∧
    look (fun t => ((getE t 0).landing, (pumpOf t 0 0).accs.map fun a => (a.done, a.posted))) (exec (.pumpAccessComplete 0 0 4) (pumpSt { act0 { req := copyReq, stage := 1 } with accs := [pacc (piece true 0x130 (bytesOf 16 7))] })) =
      some ([⟨.pump 0 4, 0x130, 50⟩], [(16, [(0, 50)])]) := by decide +kernel
/-- The port has taken the granule in cycle 40. -/
def postedPacc : PAcc := { pacc (piece true 0x130 (bytesOf 16 7)) with done := 16, posted := [(0, 40)] }
def postedSt : State := let s := pumpSt { act0 { req := copyReq, stage := 1 } with accs := [postedPacc] }
  { s with elems := [(0, { memEl with landing := [⟨.pump 0 4, 0x130, 40⟩] })] }
theorem test_pump_land : look (fun t => (memVal (getE t 0).spad 0x130 16, (getE t 0).full, (pumpOf t 0 0).accs.length)) (exec (.pumpAccessComplete 0 0 4) postedSt) = some (7, [19], 0) := by
  decide +kernel
theorem test_pump_complete : look (fun t => (pumpOf t 0 0).active.length) (exec (.pumpRequestComplete 0 0 2) (pumpSt (act0 { req := copyReq, stage := 3, q := 1 }))) = some 0 ∧
    look (fun t => ((pumpOf t 0 0).fault, (pumpOf t 0 0).pmflt0)) (exec (.clr 0 0) (pumpSt { fault := true, pmflt0 := 9 })) = some (false, 0) ∧
    look (fun t => (pumpOf t 0 0).stall) (exec (.retry 0 0) (pumpSt { stall := true })) = some false := by decide +kernel
/-- R275: an update of a request's barrier, 0x140 of element 0. -/
def benReq : PReq := { copyReq with desc := copyReq.desc ||| BitVec.ofNat 512 (2 ^ 30 + 0x14 * 2 ^ 9) }
def updSt : State := let s := pumpSt { act0 { req := benReq, stage := 3 } with updates := [{ id := 5, req := 2, darr := 1, dsec := 0, at_ := 1 }] }
  { s with elems := [(0, { memEl with spad := memWrite [] 0x140 (bytesOf 16 0x20) })] }
theorem test_pump_update : look (fun t => (memVal (getE t 0).spad 0x140 16, (pumpOf t 0 0).updates)) (exec (.pumpBarrierUpdate 0 0 5) updSt) = some (0x10, []) := by decide +kernel
theorem witness_pumps : pumpReserved (getR (pumpSt {}) 0) 0 ⟨0, 0, 0, some 0, none, none, 0⟩ = false ∧ pumpReserved (getR (pumpSt {}) 0) 0 ⟨0, 1, 0, some 0, none, none, 0⟩ = true ∧
    issuing (pumpOf (pumpSt { queue := [copyReq] }) 0 0) = none ∧ fabricDest copyReq = none ∧ copyReq.desc.extractLsb' 60 4 ≠ 5 ∧
    (∃ y, barrierUpdate (getE updSt 0) 0x140 1 0 = .applied y) ∧ Issuing (pumpSt (act0 { req := copyReq, stage := 1 })) 0 0 { req := copyReq, stage := 1 } ∧ pdQ copyReq.desc = 1 :=
  ⟨by decide +kernel, by decide +kernel, by decide +kernel, by decide +kernel, by decide +kernel, ⟨_, rfl⟩,
   ⟨by decide, by decide, by decide +kernel, by decide +kernel, by decide +kernel, by decide +kernel⟩, by decide +kernel⟩
theorem inFlight_of {u : Pump} {a : PAcc} (h : (decide (a ∈ (pumpOf (pumpSt u) 0 0).accs) && (pumpOf (pumpSt u) 0 0).accs == [a] && a.id == 4 && !a.complete) = true) : InFlight (pumpSt u) 0 0 4 a := by
  simp only [Bool.and_eq_true, decide_eq_true_eq, beq_iff_eq, Bool.not_eq_true'] at h
  refine ⟨by decide, by decide, h.1.1.1, ?_, ?_, h.2, .inr ?_⟩
  · rw [h.1.1.2]; intro b hb; rw [List.mem_singleton.1 hb]; simp [h.1.2]
  · rw [h.1.1.2]; intro b hb; rw [List.mem_singleton.1 hb, h.1.2]
  · exact (show acting (getR (pumpSt u) 0) = acting reg0 from rfl).trans (by decide +kernel)
theorem witness_pump_access : InFlight (pumpSt { act0 { req := copyReq, stage := 1 } with accs := [pacc (piece false 0x110 [])] }) 0 0 4 (pacc (piece false 0x110 [])) ∧
    PumpAtPort (pumpSt { act0 { req := copyReq, stage := 1 } with accs := [pacc (piece false 0x110 [])] }) 0 0 4 (pacc (piece false 0x110 [])) ∧
    mayLand postedSt 0 (.pump 0 4) 0x130 40 = true ∧ landings (pumpSt {}) 0 = [] ∧ sealsOver (getE (pumpSt {}) 0) 0x110 = [6] ∧ ¬ inSeal (getE (pumpSt {}) 0) 0x130 ∧
    (match pumpAccess (getR (pumpSt {}) 0) (srcSide 0 copyReq) 0 16 0 0 false [] false with | .ok l => l.map (·.size) == [16] | _ => false) = true := by
  refine ⟨inFlight_of (by decide +kernel), ⟨by decide, rfl, by decide, by decide +kernel, ?_, by decide +kernel⟩, by decide +kernel, by decide +kernel, by decide +kernel, ?_, by decide +kernel⟩
  · intro o n rest h; cases h
  rintro ⟨p, hp, _, h1, h2⟩
  rw [show (getE (pumpSt {}) 0).seals = [(6, { sealed := true, lo := 0x110, hi := 0x120 })] by decide +kernel] at hp
  rw [List.mem_singleton.1 hp] at h2; simp at h2

/-! ## The distributor (R283, R310, R314 to R323) -/

/-- Address space 0 of owner 0: root 0x8000, placements at 0xB000, and one page of 2^30 bytes at 0. -/
def vmMem : List (Nat × Nat × Nat) :=
  [(0x02000000, 64, 1 + 0x8000 * 2 ^ 64 + 0xB000 * 2 ^ 128), (0x8000, 8, 0x9003), (0x9000, 8, 0xA003), (0xA000, 8, 0x3D), (0xB000, 8, 0x407C)]
/-- Queue 0 with one record, of four teams; its graph at 0x4000 has one load. -/
def dispRec : Nat := 0x4000 * 2 ^ 384 + 4 * 2 ^ 240
def loadRec : Nat := 2 ^ 118 + 2 ^ 112
def distMem : State := withMem State.reset (vmMem ++ [(0x03000000, 64, qVal + 2 ^ 192), (0x03000040, 64, qVal + 2 ^ 192), (0x1000, 64, dispRec), (0x4000, 64, 1), (0x4040, 64, loadRec)])
def head0 (d : Option Nat) : Head := { ticket := 0, rec_ := BitVec.ofNat 512 dispRec, mint := 1, l1sz := 0, ranges := none, disp := d }
def disp0 : Disp := {
  id := 1, queue := 0, ticket := 0, asid := 0, owner := 0, rec_ := BitVec.ofNat 512 dispRec, ranges := none, mint := 1, l1sz := 0, bound := 1, retired := []
  lastDie := none, cause := 0, early := false, ending := none, stage := 0, peers := [] }
/-- Only region 0 is free. -/
def oneFree : Table Region := (0, { seq := { rtentry := 0x700 } }) :: (upto 63).map fun i => (i + 1, { rstate := .reserved })
def bindDist : State := { distMem with regions := oneFree, dist := { nextId := 2, heads := [(0, head0 (some 1))], standing := [(0, 0)], inflight := [disp0] } }

theorem test_head_read : look (fun t => (tfind t.dist.heads 0).map fun h => (h.ticket, h.mint, h.disp)) (exec (.dispatchHeadRead 0) distMem) = some (some (0, 1, none)) := by decide +kernel
theorem test_head_malformed : look (fun t => t.dist.inflight.map fun d => (d.early, d.ending)) (exec (.dispatchHeadRead 0) (withMem distMem [(0x1000, 64, dispRec + 1)])) =
    some [(true, some (1, 0x02))] := by decide +kernel
def selDist : State := { distMem with dist := { heads := [(0, head0 none)] } }
theorem test_select : look (fun t => (t.dist.inflight.map (·.id), tfind t.dist.standing 0, t.dist.nextId)) (exec (.distributorSelect 0) selDist) = some ([1], some 0, 2) := by decide +kernel
theorem test_bind : look (fun t => ((getR t 0).team.map fun m => [m.disp, m.index], (getSeq t 0).pc, (getS (getSeq t 0) 2).toNat, t.dist.standing)) (exec (.teamBind 0) bindDist) =
    some (some [1, 1], 0x700, 1, []) := by decide +kernel
/-- Queue 1's head fits region 0, which queue 0's does not. -/
def freeDist : State := { bindDist with dist := { nextId := 2, heads := [(0, { head0 none with mint := 21 }), (1, head0 (some 1))], standing := [(0, 0)], inflight := [{ disp0 with queue := 1 }] } }
theorem test_free_bind : look (fun t => ((getR t 0).team.map (·.queue), t.dist.standing)) (exec (.freeRegionBind 0) freeDist) = some (some 1, [(0, 0)]) := by decide +kernel
def retireSt : State := { State.reset with
  regions := [(0, { reg0 with team := some { placeTeam with disp := 1 }, seq := { exiting := true, exitCause := some 0x0A } })], dist := { inflight := [{ disp0 with retired := [1, 2, 3] }] } }
theorem test_retire : look (fun t => ((getR t 0).team.isSome, (getR t 0).rstate, (findDisp t 1).map (·.ending))) (exec (.teamRetire 0) retireSt) = some (false, .free, some (some (5, 0x0A))) := by
  decide +kernel
/-- What an engine's read gives, and the state after it. -/
def engVal {ε α : Type} (x : Option (State × Except ε α)) : Option α := x.bind fun p => p.2.toOption
def engState {ε α : Type} (x : Option (State × Except ε α)) : State := match x with | some p => p.1 | none => State.reset
theorem eng_of {ε α : Type} {x : Option (State × Except ε α)} {b : α} (h : engVal x = some b) : x = some (engState x, .ok b) := by
  match x with
  | none => cases h
  | some (s, .error e) => cases h
  | some (s, .ok a) => cases h; rfl
theorem engErr_of {ε α : Type} {x : Option (State × Except ε α)} {c : ε} (h : (x.bind fun p => match p.2 with | .error e => some e | .ok _ => none) = some c) : x = some (engState x, .error c) := by
  match x with
  | none => cases h
  | some (s, .ok a) => cases h
  | some (s, .error e) => cases h; rfl
theorem witness_heads : (distOn distMem = true ∧ AtHome distMem (qAddr distMem 0) 64 ∧ (tfind distMem.dist.since 0).isSome = false ∧ ((qEntry distMem 0).extractLsb' 20 4).toNat = 0) ∧
    (∃ u v, engineLine distMem 0x1000 0 64 = some (distMem, .ok (bytesOf 64 dispRec)) ∧
      engineRecord distMem 0 (distReq (qEntry distMem 0) 0) 0x4000 64 = some (u, .ok (bytesOf 64 1)) ∧
      engineRecord u 0 (distReq (qEntry distMem 0) 0) 0x4040 64 = some (v, .ok (bytesOf 64 loadRec))) ∧
    recMalformed (BitVec.ofNat 512 dispRec) = false ∧ graphOk 1 = true ∧ firstLoadOk (BitVec.ofNat 512 loadRec) = true ∧ recMalformed (BitVec.ofNat 512 (dispRec + 1)) = true :=
  ⟨⟨by decide +kernel, by unfold AtHome; decide +kernel, by decide +kernel, by decide +kernel⟩,
   ⟨_, _, (eng_of (by decide +kernel)).trans (congrArg (fun s => some (s, Except.ok _)) (by decide +kernel)), eng_of (by decide +kernel), eng_of (by decide +kernel)⟩,
   by decide +kernel, by decide +kernel, by decide +kernel, by decide +kernel⟩
theorem witness_dispatching : candidates selDist 0 (fun _ _ => true) = [(0, head0 none)] ∧ (CanTake bindDist 0 (head0 (some 1)) 0 ∧ ∀ r < 64, r ≠ 0 → (getR bindDist r).rstate ≠ .free) ∧
    disp0.bound + 1 < (disp0.rec_.extractLsb' 240 16).toNat ∧ headFits freeDist (qEntry freeDist 0) { head0 none with mint := 21 } 0 = false ∧
    candidates freeDist 0 (fun q h => q != 0 && headFits freeDist (qEntry freeDist q) h 0) = [(1, head0 (some 1))] ∧ teamDone retireSt 0 = true ∧
    findDisp retireSt 1 = some { disp0 with retired := [1, 2, 3] } ∧ StandsEnabled bindDist ∧ HoldsHead bindDist 0 (head0 (some 1)) disp0 ∧
    Published retireSt 0 (fun _ => False) ∧ (getR retireSt 0).wcb = [] :=
  ⟨by decide +kernel, ⟨⟨by decide +kernel, by decide +kernel, by decide +kernel⟩, by decide +kernel⟩, by decide +kernel, by decide +kernel, by decide +kernel, by decide +kernel, by decide +kernel,
   by unfold StandsEnabled; decide +kernel,
   ⟨by decide, by unfold TableInMem; decide +kernel, by decide +kernel, by decide +kernel, rfl, by decide +kernel, rfl, by decide +kernel⟩,
   ⟨by decide +kernel, by decide +kernel⟩, by decide +kernel⟩

/-! ## Stoat (R331 to R335) -/

/-- The actor of port 4 has one token waiting; it lives on site 1, may have 1 to 2 sites, and grows over a backlog of 0. -/
def stoatSt (high low : Nat) (live : List Nat) (lowMark : Nat) : State := let s := portSt [] 0
  { s with regions := s.regions.map fun p => (p.1, { p.2 with
      stoat := { actors := some [{ entry := BitVec.ofNat 256 (4 * 2 ^ 148 + (if lowMark = 0 then 0 else 5) * 2 ^ 112 + lowMark * 2 ^ 96 + 2 * 2 ^ 85 + 2 ^ 80), tmpl := [(0, 9 :: List.replicate 61 0)], live := live, high := high, low := low }] } }) }
def stoatLook (t : State) : Option (List (List Nat)) × Option (Nat × Nat × Nat) := ((getR t 0).stoat.actors.map fun l => l.map fun a => a.high :: a.low :: a.live, (getR t 0).stoat.grow)
theorem test_sample : look stoatLook (exec (.stoatSample 0) (stoatSt 0 0 [1] 0)) = some (some [[1, 0, 1]], none) := by decide +kernel
theorem test_sample_grows : look stoatLook (exec (.stoatSample 0) (stoatSt 1 0 [1] 0)) = some (some [[0, 0, 1]], some (0, 0, 72)) := by decide +kernel
theorem test_sample_shrinks : look stoatLook (exec (.stoatSample 0) (stoatSt 0 3 [1, 2] 3)) = some (some [[0, 0, 1]], none) := by decide +kernel
def growSt : State := let s := stoatSt 0 0 [1] 0
  { s with regions := s.regions.map fun p => (p.1, { p.2 with stoat := { p.2.stoat with grow := some (0, 2, 5) } }) }
theorem test_grow : look stoatLook (exec (.stoatGrowComplete 0) growSt) = some (some [[0, 0, 1, 2]], none) ∧
    look (fun t => ((getE t 32).slots, (getE t 32).st)) (exec (.stoatGrowComplete 0) growSt) = some ([(0, 9)], .running) := by decide +kernel
def drainSt : State := atRegion { reg0 with stoat := { drains := [(3, 4, true)] } }
theorem test_drain_clear : look (fun t => (getR t 0).stoat.drains) (exec (.stoatDrainClear 0 3) drainSt) = some [] := by decide +kernel
theorem witness_stoat : acting (getR growSt 0) = true ∧ (∀ el < 16, elemFree (getE growSt (ekey 0 2 el)) = true) ∧ siteOk (getR drainSt 0) 3 = true ∧
    (∀ el < 16, elemDrained (getR drainSt 0) (ekey 0 3 el) (getE drainSt (ekey 0 3 el)) = true) ∧ (freeSites (stoatSt 1 0 [1] 0) 0).head? = some 0 := by decide +kernel

/-! ## The re-stripe engine (R398 to R401) -/

/-- A job over the one page of 2^30 bytes at 0, to placement 1, which has another home. -/
def rsJob : RsJob := ⟨BitVec.ofNat 512 (2 ^ 18 * 2 ^ 64 + 2 ^ 128), 0x400000100000⟩
def rsRun0 : RsRun := ⟨rsJob, 0, 0, none, none⟩
def rsLeaf0 (n : Nat) : RsLeaf := ⟨0xA000, 0x3D, 2 ^ 30, 0x407C, 0x40BC, n, 0⟩
def rsSt (x : RsRun) : State := { withMem State.reset (vmMem ++ [(0xB008, 8, 0x40BC)]) with rsRun := some x }

theorem test_restripe_walk : look (·.rsRun) (exec .restripeJob (rsSt rsRun0)) = some (some { rsRun0 with leaf := some (rsLeaf0 0) }) := by decide +kernel
theorem test_restripe_unmapped : look (fun t => t.rsRun.map (·.ending)) (exec .restripeJob (rsSt { rsRun0 with v := 2 ^ 30, job := ⟨rsJob.rec_ + 2 ^ 82, 0⟩ })) =
    some (some (some (2, 0x06, 2 ^ 30))) := by decide +kernel
theorem test_restripe_move : look (fun t => (t.rsRun.map (·.leaf), tget t.wells 0 0)) (exec .restripeJob (rsSt { rsRun0 with leaf := some (rsLeaf0 0) })) =
    some (some (some (rsLeaf0 1)), 1) := by decide +kernel
/-- Every line is copied, and the swap of the entry is answered. -/
def rsAck : State := { rsSt { rsRun0 with leaf := some (rsLeaf0 (2 ^ 24)) } with acks := [⟨.engine (2 * 2 ^ 16 + 2 ^ 15), 0x280, 0, 0x3D, none⟩] }
theorem test_restripe_swapped : look (fun t => t.rsRun.map fun x => (x.v, x.donep, x.leaf)) (exec .restripeJob rsAck) = some (some (2 ^ 30, 2 ^ 18, none)) := by
  decide +kernel
theorem test_restripe_end : look (fun t => (t.rsRun, memVal t.mem 0x400000100030 16)) (exec .restripeJobEnd (rsSt { rsRun0 with donep := 7, ending := some (1, 0, 64) })) =
    some (none, 1 + 2 ^ 24 + 7 * 2 ^ 40 + 64 * 2 ^ 64) := by decide +kernel
theorem witness_restriping : (∃ u, rsWalk (rsSt rsRun0) 0 0 = some (u, .ok (⟨0xA000, 0x3D, 3⟩, 0x407C)) ∧ (rsRead u (plcAddr u 0 1)).map (·.2) = some 0x40BC) ∧
    (∃ u, rsWalk (rsSt rsRun0) (2 ^ 30) 0 = some (u, .error ⟨0x06, 3, 2 ^ 30⟩)) ∧ plcReserved 0x40BC = false ∧
    (getDir (rsSt rsRun0) 0).ts = 0 ∧ nonLeafLine (rsSt rsRun0) 0 = false ∧ homeOf 0 0x407C = (0, 0) ∧ homeOf 0 0x40BC = (1, 4) ∧ Uncopied (rsSt rsRun0) 0 ∧
    paClass (rsSt rsRun0) (rsJob.pa + 48) = .window 0 ∧ Plain (rsSt rsRun0) (rsJob.pa + 48) 16 :=
  ⟨⟨_, eng_of (by decide +kernel), by decide +kernel⟩, ⟨_, engErr_of (by decide +kernel)⟩, by decide +kernel, by decide +kernel, by decide +kernel, by decide +kernel, by decide +kernel,
    ⟨fun _ h => (List.not_mem_nil h).elim, fun _ h => (List.not_mem_nil h).elim, fun _ h => (List.not_mem_nil h).elim, by decide +kernel⟩, by decide +kernel, by unfold Plain; decide +kernel⟩

/-! ## The cut engines (R406 to R424) -/

/-- A job record in the window: MODE 1, one instance, an eye at 0, numbers of 1.0, a graph at 0x4000 and an instance at 0x5000. -/
def cutRec : Nat := 2 ^ 40 + 2 ^ 608 + 0x3F800000 * (2 ^ 576 + 2 ^ 544 + 2 ^ 512) + 0x4000 * 2 ^ 352 + 0x5000 * 2 ^ 640
/-- A graph of one root group with one cluster, whose page is resident: roots at 0x6000, groups at 0x7000, clusters at 0x7800, pages at 0x10000. -/
def cutGraph : Nat := 0x6000 * 2 ^ 448 + 0x6800 * 2 ^ 384 + 0x10000 * 2 ^ 320 + 0x7800 * 2 ^ 256 + 0x7000 * 2 ^ 192 + 2 ^ 160 + 2 ^ 128 + 2 ^ 96 + 2 ^ 80
def cutJob : MJob := { id := 1, addr := 0x3000, asid := 0, owner := 0, region := 0 }
def cutXlat : Xlat := { va := 0, size := 2 ^ 30, pa := 0, pte := 0x3D, plc := 0x407C, root := 0x8000, asid := 0, owner := 0, leafLines := [] }
/-- Memory for a cut; the engine of die 0 holds the translation. -/
def cutSt (js : List MJob) : State := { withMem State.reset (vmMem ++ [(0x3000, 128, cutRec), (0x4000, 64, cutGraph), (0x5000, 32, 0x3F800000 * 2 ^ 96),
    (0x6000, 4, 0), (0x7000, 32, 2 ^ 128), (0x7800, 16, 0xFFFFFFFF * 2 ^ 96)]) with martens := [(0, { jobs := js, nextId := 2, tlb := [cutXlat] })] }
def cutRun : MJob := { cutJob with started := true, rec_ := BitVec.ofNat 1024 cutRec, graph := BitVec.ofNat 512 cutGraph, resident := [0] }
/-- The same job with MODE 0, for ring 0. -/
def cutRing : MJob := { cutRun with rec_ := cutRun.rec_ - 2 ^ 40 }

theorem test_cut_start : look (fun t => (getMarten t 0).jobs) (exec (.martenJobStart 0) (cutSt [cutJob])) = some [cutRun] := by decide +kernel
theorem test_cut_bad : look (fun t => (getMarten t 0).jobs.map (·.ending)) (exec (.martenJobStart 0) (withMem (cutSt [cutJob]) [(0x3000, 1, 1)])) =
    some [some (1, 0, 0)] := by decide +kernel
theorem test_cut_instance : look (fun t => (getMarten t 0).jobs.map fun j => (j.inst, j.todo)) (exec (.martenTokenEmit 0 1) (cutSt [cutRun])) =
    some [(1, [(2 ^ 81 + 2 ^ 82, 0)])] := by decide +kernel
theorem test_cut_done : look (fun t => (getMarten t 0).jobs.map (·.ending)) (exec (.martenJobEnd 0 1) (cutSt [{ cutRun with inst := 1 }])) =
    some [some (0, 0, 0)] := by decide +kernel
theorem test_cut_emit : look (fun t => ((getMarten t 0).jobs.map fun j => (j.todo, j.ntok), (getMarten t 0).lastEmit, memVal t.mem 0x2020 16, ringWr (ringDesc t 0 0)))
    (exec (.martenTokenEmit 0 1) (withMem (cutSt [{ cutRing with inst := 1, todo := [(0x99, 0)] }]) [(0x400000000000, 64, ringVal)])) =
    some ([([], 1)], 1, 0x99, 2) := by decide +kernel
/-- The job's record and its array of pages lie in the window; it has asked for page 5. -/
def cutLast (stage : Nat) : MJob := { cutRing with
  inst := 1, addr := 2 ^ 30 + 0x100000, ending := some (0, 0, 0), requested := [5], stage := stage, ntok := 3
  rec_ := cutRing.rec_ ||| (1#1024 <<< 768) ||| (BitVec.ofNat 1024 (2 ^ 30 + 0x100800) <<< 800) }
def cutEnd (stage : Nat) : State := { cutSt [] with
  martens := [(0, { jobs := [cutLast stage], tlb := [{ cutXlat with va := 2 ^ 30, pa := 0x400000000000, pte := 0x40000000003D }] })] }
theorem test_cut_array : look (fun t => ((getMarten t 0).jobs.map (·.stage), memVal t.mem 0x400000100800 4)) (exec (.martenJobEnd 0 1) (cutEnd 0)) = some ([1], 5) := by
  decide +kernel
theorem test_cut_record : look (fun t => ((getMarten t 0).jobs.map (·.written), memVal t.mem 0x40000010006C 20)) (exec (.martenJobEnd 0 1) (cutEnd 1)) =
      some ([true], 1 + 2 ^ 32 + 3 * 2 ^ 64) ∧
    look (fun t => (getMarten t 0).jobs) (exec (.martenJobEnd 0 1) { cutEnd 1 with martens := [(0, { jobs := [{ cutLast 1 with written := true }] })] }) = some [] := by decide +kernel
theorem witness_cut_start : (∃ u, mjRead (cutSt [cutJob]) 0 cutJob 0x3000 128 = some (u, .ok cutRec)) ∧
    jobBad (cutSt [cutJob]) { cutJob with started := true, rec_ := BitVec.ofNat 1024 cutRec } = false ∧
    jobBad (cutSt [cutJob]) { cutJob with started := true, rec_ := BitVec.ofNat 1024 (cutRec + 1) } = true ∧
    (∃ u, mjRead (cutSt [cutJob]) 0 { cutJob with started := true, rec_ := BitVec.ofNat 1024 cutRec } 0x4000 64 = some (u, .ok cutGraph)) ∧
    headerBad cutRun = false ∧ headerBad { cutRun with graph := 0 } = true ∧ (snapshot 0 { cutRun with resident := [] } [0] (cutSt [cutJob])).map (·.2) = some [0] ∧
    ((cutTokens 0 cutRun 0).run.run (cutSt [cutRun])).bind (fun p => p.1.toOption) = some ([(2 ^ 81 + 2 ^ 82, 0)], []) :=
  ⟨⟨_, eng_of (by decide +kernel)⟩, by decide +kernel, by decide +kernel, ⟨_, eng_of (by decide +kernel)⟩, by decide +kernel, by decide +kernel, by decide +kernel,
    by decide +kernel⟩
def emitSt : State := withMem (cutSt [{ cutRing with inst := 1, todo := [(0x99, 0)] }]) [(0x400000000000, 64, ringVal)]
theorem witness_cut_end : jobTurn emitSt 0 = some 1 ∧ ringRefused cutRing (ringDesc emitSt 0 0) = false ∧ (endWrites (cutLast 0))[0]? = some (2 ^ 30 + 0x100800, 5) ∧
    (engVal (mjXlat (cutEnd 0) 0 (cutLast 0) (2 ^ 30 + 0x100800) 1)).map (·.pa) = some 0x400000000000 ∧
    paClass (cutEnd 0) 0x400000100800 = .window 0 ∧ Plain (cutEnd 0) 0x400000100800 4 ∧ Plain (cutEnd 1) 0x40000010006C 20 ∧ (endWrites (cutLast 1)).length ≤ 1 ∧
    (cutLast 0).rec_.getLsbD 63 = false ∧ (cutEnd 0).d2dFailed = [] ∧ dieFar emitSt 0 (jobDie cutRing) = false := by unfold Plain; decide +kernel
/-- R456: the ring of die 1 is beyond the failed fabric: the token is dropped and logged. -/
theorem test_cut_far : look (fun t => ((getMarten t 0).jobs.map (·.ntok), t.logQueue.length)) (exec (.martenTokenEmit 0 1)
      { withMem emitSt [(0x400004000000, 64, ringVal)] with
        d2dFailed := [0]
        martens := [(0, { jobs := [{ cutRing with inst := 1, todo := [(0x99, 0)], rec_ := cutRing.rec_ ||| 0x100000000 }] })] }) =
    some ([1], 1) := by decide +kernel

/-! ## Pre-emption (R444 to R453, R479) -/

def rstates : List RegionState := [.free, .running, .holding, .stopping, .saving, .saved, .restoring, .reserved]
/-- What a command of PRCMD makes of each state, and whether it is refused. -/
def commands (i : Instr) : List (Option (RegionState × Bool)) :=
  rstates.map fun st => look (fun t => ((getR t 0).rstate, (getR t 0).rej)) (exec i (atRegion { reg0 with rstate := st }))
theorem test_preempt : commands (.prcmdPreempt 0) = [some (.free, false), some (.stopping, false), some (.holding, true), some (.stopping, true),
    some (.saving, true), some (.saved, true), some (.restoring, true), some (.reserved, true)] := by decide +kernel
theorem test_restore : commands (.prcmdRestore 0) = [some (.restoring, false), some (.running, true), some (.holding, true), some (.stopping, true),
    some (.saving, true), some (.restoring, false), some (.restoring, true), some (.restoring, false)] := by decide +kernel
theorem test_release : commands (.prcmdRelease 0) = [some (.free, true), some (.running, true), some (.holding, true), some (.stopping, true),
    some (.saving, true), some (.free, false), some (.restoring, true), some (.free, false)] := by decide +kernel
theorem test_reserve : commands (.prcmdReserve 0) = [some (.reserved, false), some (.running, true), some (.holding, true), some (.stopping, true),
    some (.saving, true), some (.saved, true), some (.restoring, true), some (.reserved, true)] := by decide +kernel
/-- A team that is held to its draw boundary. -/
def drawReg : Region := { reg0 with team := some { placeTeam with draw := true } }
theorem test_hold : look (fun t => ((getR t 0).rstate, (getR t 0).reason, (getR t 0).holdFrom)) (exec (.prcmdPreempt 0) (atRegion drawReg)) = some (.holding, 0x12, some 0) := by decide +kernel
def drainSt2 : State := { atRegion { reg0 with drainFrom := some 0 } with time := 100000 }
theorem test_drain_timer : look (fun t => ((getR t 0).rstate, (getR t 0).reason)) (exec (.drainTimerExpire 0) drainSt2) = some (.stopping, 0x13) ∧
    look (fun t => (getR t 0).rstate) (exec (.drainTimerExpire 0) { drainSt2 with time := 99999 }) = some .running := by decide +kernel
def heldSt : State := { atRegion { drawReg with rstate := .holding, reason := 0x12, holdFrom := some 0 } with time := 2000000 }
theorem test_draw_limit : look (fun t => ((getR t 0).rstate, (getR t 0).reason)) (exec (.drawlimExpire 0) heldSt) = some (.stopping, 0x12) := by decide +kernel
def emergSt (at_ : Nat) : State := { State.reset with regions := [(5, reg0)], emergRegion := 6, emergAt := some 0, time := at_ }
theorem test_emergency : look (fun t => ((getR t 5).rstate, (getR t 5).reason, t.emergRegion, t.emergAt)) (exec .powerEmergency (emergSt 10000)) = some (.stopping, 0x14, 6, some 10000) ∧
    look (fun t => (getR t 5).rstate) (exec .powerEmergency (emergSt 9999)) = some .running := by decide +kernel
theorem witness_preemption : CanStop (atRegion reg0) reg0 ∧ ((getR (atRegion drawReg) 0).drawlim ≠ 0 ∧ paDevice (getR (atRegion drawReg) 0).savebase.toNat = State.reset.devid) ∧
    (∀ i < 63, (getR (emergSt 10000) ((6 + i) % 64)).rstate ≠ .running) ∧ (getR (emergSt 10000) ((6 + 63) % 64)).rstate = .running := by
  refine ⟨⟨by decide +kernel, .inl ?_⟩, by decide +kernel, by decide +kernel, by decide +kernel⟩
  rintro m ⟨⟩
  rfl

/-- A region that stops, with one element that runs; and one that has stopped. -/
def stopSt : State := { State.reset with regions := [(0, { reg0 with rstate := .stopping })], elems := [(0, el0)] }
theorem test_halted : look (fun t => ((getR t 0).rstate, (getE t 0).st, (getE t 0).frozen)) (exec (.regionHalted 0) stopSt) = some (.saving, .frozen, .running) ∧
    look (fun t => (getR t 0).rstate) (exec (.regionHalted 0) { stopSt with elems := [(0, { el0 with busy := 11 })] }) = some .stopping := by decide +kernel
def savingSt : State := { stopSt with regions := [(0, { reg0 with rstate := .saving })], elems := [(0, { el0 with st := .frozen, frozen := .running })] }
/-- Header of a save area of region 0's team, with all 20 sites. -/
def areaHdr : Nat := 1 + 2 ^ 16 + 0x4C535631 * 2 ^ 32 + 0x018F0000 * 2 ^ 64 + (2 ^ 20 - 1) * 2 ^ 220
def savedTeam : Saved := ⟨BitVec.ofNat 512 areaHdr, 0, { reg0 with rstate := .saving }, []⟩
def restoreSt : State := { withMem State.reset [(0x400000, 64, areaHdr)] with
  regions := [(0, { rstate := .restoring, savebase := 0x400000 })], saves := [savedTeam], dist := { inflight := [{ disp0 with id := placeTeam.disp }] } }
theorem test_restore_fails : look (fun t => ((getR t 0).rstate, (getR t 0).rerr)) (exec (.restoreComplete 0) { restoreSt with mem := [] }) = some (.free, 1) ∧
    look (fun t => ((getR t 0).rstate, (getR t 0).rerr)) (exec (.restoreComplete 0) { restoreSt with dist := {} }) = some (.free, 4) := by decide +kernel
theorem witness_save : settled savingSt 0 = true ∧ (getR savingSt 0).wcb = [] ∧ (getR savingSt 0).team = some placeTeam ∧
    Published savingSt 0 (fun _ => False) ∧ NoSharers savingSt 64 0 0x018F0000 ∧ areaSync restoreSt 0x400000 0x018F0000 = (restoreSt, true) ∧
    (∃ u, restoreCheck restoreSt 0 0x400000 = some (u, .ok (savedTeam, [])) ∧ NoSharers u 64 0x400000 64) ∧
    ∃ u, restoreCheck { restoreSt with mem := [] } 0 0x400000 = some (u, .error 1) :=
  ⟨by decide +kernel, rfl, rfl, ⟨by decide +kernel, by decide +kernel⟩, by unfold NoSharers; decide +kernel, by decide +kernel,
   ⟨_, eng_of (by decide +kernel), by unfold NoSharers; decide +kernel⟩, ⟨_, engErr_of (by decide +kernel)⟩⟩

/-! ## Links, the host and power (R374, R455 to R481) -/

/-- Port 3 is up and reaches peer 9, which holds line 4. -/
def linkSt (x : LinkPort) : State := { State.reset with
  links := [(3, { x with peerDev := 9, everUp := true, lanes := 8 })], time := 100000, routes := [(9, 8)]
  dir := [(4, { st := .modified, own := 41, ps := 2 ^ 9 })] }
def linkLook (t : State) : PortState × Nat × Nat × Nat := let x := tget t.links 3 {}; (x.st, x.lanes, x.inRow, x.replay)
theorem test_flit : look linkLook (exec (.flitReceive 3 true .idle) (linkSt { st := .up, inRow := 5 })) = some (.up, 8, 0, 0) ∧
    look (fun t => (getHome t 4).reqs.map fun q => (q.kind, q.agent)) (exec (.flitReceive 3 true (.read 0x110 0x407C)) (linkSt { st := .up })) = some [(.rds, 41)] := by decide +kernel
theorem test_replay : look linkLook (exec (.flitReplay 3) (linkSt { st := .up, inRow := 31 })) = some (.up, 8, 32, 1) ∧
    look linkLook (exec (.flitReplay 3) (linkSt { st := .up, inRow := 32 })) = some (.failed, 0, 32, 0) := by decide +kernel
theorem test_timeout : look linkLook (exec (.portReceiveTimeout 3) (linkSt { st := .up })) = some (.failed, 0, 0, 0) ∧
    look linkLook (exec (.portReceiveTimeout 3) (linkSt { st := .up, lastFlit := 1 })) = some (.up, 8, 0, 0) := by decide +kernel
theorem test_retrain : look linkLook (exec (.portRetrain 3) (linkSt { st := .up })) = some (.up, 4, 0, 0) ∧
    look linkLook (exec (.portRetrain 3) (linkSt { st := .failed })) = some (.failed, 8, 0, 0) := by decide +kernel
theorem test_peer_lost : look (fun t => (t.lostPeers, t.poison, getDir t 4)) (exec (.peerLost 9) (linkSt { st := .failed })) = some ([9], [4], {}) := by decide +kernel
theorem test_peer_stays : look (·.lostPeers) (exec (.peerLost 9) (linkSt { st := .up })) = some [] := by decide +kernel
/-- Die 1 holds line 4 of well 0. -/
def cutLinkSt : State := { State.reset with wells := [(4, 0)], dir := [(4, { st := .shared, cs := 2 })], cisterns := [(1, { lines := [(4, { st := .shared, data := 0, dirty := 0, first := 0, last := 0 })] })] }
theorem test_die_link : (upto 4).map (fun f => look (fun t => (t.d2dFailed, (cLine t 1 4).isSome, (getDir t 4).cs)) (exec (.dieLinkFail f) cutLinkSt)) =
    [some ([0], false, 0), some ([1], true, 2), some ([2], true, 2), some ([3], true, 2)] := by decide +kernel
def linkDisp : State := { linkSt { st := .failed } with dist := { inflight := [{ disp0 with peers := [9] }] } }
theorem test_lost_dispatch : look (fun t => t.dist.inflight.map (·.ending)) (exec (.peerLost 9) linkDisp) = some [some (4, 0x0C)] := by decide +kernel
theorem witness_links : (tget (linkSt { st := .up }).links 3 {}).st = .up ∧ paClass State.reset 0x110 = .gddr ∧
    (∃ x ∈ routePorts (linkSt { st := .failed }) 9, x.everUp = true) ∧ (∀ x ∈ routePorts (linkSt { st := .failed }) 9, x.st = .down ∨ x.st = .failed) ∧
    Stoppable disp0 ∧ (getDir (linkSt { st := .failed }) 4).ps.getLsbD 9 = true ∧ cutLinkSt.d2dFailed.contains 0 = false := by
  refine ⟨by decide +kernel, by decide +kernel, ?_, by decide +kernel, ⟨by decide +kernel, by decide +kernel⟩, by decide +kernel, by decide +kernel⟩
  exact ⟨{ st := .failed, peerDev := 9, everUp := true, lanes := 8 }, by decide +kernel, rfl⟩

/-- Function 2 has a window of 2^20 bytes over address space 0, which is its own, and queue 3. -/
def vfMem : List (Nat × Nat × Nat) :=
  [(0x02000000, 64, 1 + 2 * 2 ^ 8 + 0x8000 * 2 ^ 64 + 0xB000 * 2 ^ 128), (0x8000, 8, 0x9003), (0x9000, 8, 0xA003), (0xA000, 8, 0x40000000003D), (0xB000, 8, 0x407C),
   (0x030000C0, 64, qVal + 2), (0x400000080048, 8, 0x1122334455667788)]
def vfSt : State := { withMem State.reset vfMem with vfcfg := [(2, 0x8000000000000000)] }
theorem test_doorbell : look (fun t => qWr (qEntry t 3)) (exec (.doorbellWrite 2 0x300 9) vfSt) = some 9 ∧
    look (·.hostReplies) (exec (.doorbellWrite 1 0x300 9) vfSt) = some [(1, .unsupported)] := by decide +kernel
theorem test_window : look (fun t => t.hostPend.map fun h => (h.fn, h.kind, h.parts)) (exec (.vfWindowRequest 2 (.read 0x80048 4)) vfSt) =
    some [(2, 0, [⟨0x400000080048, 4, some ([0x88, 0x77, 0x66, 0x55], false)⟩])] := by decide +kernel
theorem test_window_end : look (fun t => (t.hostReplies, t.hostPend)) (exec (.vfWindowRequest 2 (.read 0xFFFFE 4)) vfSt) = some ([(2, .unsupported)], []) := by decide +kernel
theorem test_host_write : look (fun t => memVal t.mem 0x400000080048 8) (exec (.hostRequest (.write 0x400000080049 [1, 2])) vfSt) = some 0x1122334455020188 := by decide +kernel
theorem test_function_reset : look (fun t => (t.hostPend, t.dist.inflight.map (·.ending), qEn (qEntry t 3)))
    (exec (.functionLevelReset 2) { vfSt with hostPend := [⟨0, 2, 0, []⟩], dist := { inflight := [{ disp0 with owner := 2 }] } }) = some ([], [some (5, 0x07)], false) := by decide +kernel
theorem witness_host : (tget vfSt.vfcfg 2 0).getLsbD 63 = true ∧ (qEntry vfSt 3).extractLsb' 0 7 = 2 ∧ (qEntry vfSt 3).getLsbD 31 = true ∧
    vfSt.bridge = true ∧ vfSt.minimal = false ∧ AtHome vfSt (qAddr vfSt 3) 64 ∧ heldLines vfSt (qAddr vfSt 3) 64 = [] ∧ TableInMem vfSt ∧
    (∃ u x, engineXlat vfSt 0 0x80048 ⟨0, 2, true, 0, false, false⟩ = some (u, .ok x) ∧ x.pa = 0x400000000000 ∧ AtHome u 0x400000080048 8 ∧ Plain u 0x400000080048 8) ∧
    paClass vfSt 0x400000080048 = .window 0 ∧ paClass vfSt 0x500000000000 = .reserved ∧ AtHome vfSt 0x400000080048 8 :=
  ⟨by decide +kernel, by decide +kernel, by decide +kernel, by decide, by decide, by unfold AtHome; decide +kernel, by decide +kernel, by unfold TableInMem; decide +kernel,
    ⟨_, (engVal (engineXlat vfSt 0 0x80048 ⟨0, 2, true, 0, false, false⟩)).getD ⟨0, 0, 0, 0, 0, 0, 0, 0, []⟩, eng_of (by decide +kernel), by decide +kernel, by unfold AtHome; decide +kernel, by unfold Plain; decide +kernel⟩,
    by decide +kernel, by decide +kernel, by unfold AtHome; decide +kernel⟩

def powSt : State := { State.reset with regions := [(0, { reg0 with etok := 100, istep := 7, budNext := [(10, 1, 1), (9, 20, 3)], pointNext := some 2 })], elems := [(0, { el0 with pow := 240 }), (1, { el0 with pow := 0 })] }
theorem test_refill : look (fun t => ((getE t 0).pow, (getE t 1).pow, (getM t 0 3).credit)) (exec (.powerTokenRefill 0) powSt) = some (256, 20, 3) ∧
    look (fun t => ((getR t 0).etok, (getR t 0).point, (getR t 0).budNext)) (exec (.powerTokenRefill 0) powSt) = some (20, 3, [(10, 1, 1)]) := by decide +kernel
theorem test_budgets_early : look (·.lastBudget) (exec .pwrbudRecompute { State.reset with time := 999999 }) = some 0 := by decide +kernel
theorem test_budgets : look (·.lastBudget) (exec .pwrbudRecompute { State.reset with time := 1000000 }) = some 1000000 := rfl
theorem test_back_pressure : [(8192, 0, 9), (0, 8192, 9), (2047, 2047, 9), (2048, 0, 9), (8192, 0, 3), (0, 0, 15)].map (fun (p : Nat × Nat × Nat) =>
      look (fun t => (getR t 0).pointNext) (exec (.backpressureWindowEnd 0) (atRegion { reg0 with bpHeld := p.1, bpStarve := p.2.1, point := p.2.2 }))) =
    [some (some 8), some (some 8), some (some 10), some (some 9), some (some 3), some (some 15)] := by decide +kernel
theorem witness_power : (∃ c, c ≠ (getR powSt 0).cycle ∧ (((getR powSt 0).budNext.tail).head? = some (c, 20, 3))) ∧
    ((getR State.reset 0).budNext = [] ∧ 256 = (getR State.reset 0).etok ∧ 0 = (getR State.reset 0).istep) := ⟨⟨9, by decide +kernel, by decide +kernel⟩, by decide +kernel⟩
theorem witness_budget_now : ∃ c, c ≠ reg0.cycle ∧ ({ reg0 with budNext := [(9, 20, 3)] } : Region).budNext.head? = some (c, 20, 3) := ⟨9, by decide +kernel, rfl⟩

/-! ## Start-up and the root of trust (R486 to R491) -/

theorem test_good_timeout : look (fun t => (t.fails, t.bootReason, t.goodBy)) (exec .goodTimeout { State.reset with time := 10000000000 }) = some (1, 6, none) ∧
    look (fun t => (t.fails, t.goodBy)) (exec .goodTimeout { State.reset with time := 9999999999 }) = some (0, some 0) := by decide +kernel
def startLook (t : State) : List Nat × Bool × Option Nat := ([t.stage, t.fails, t.bootReason], t.minimal, t.goodBy)
def failedSt (n : Nat) : State := { State.reset with fails := n, devid := 4, time := 77 }
theorem test_start : (upto 6).map (fun n => look startLook (exec (.deviceReset false n) (failedSt 1))) = [some ([4, 1, 0], false, some 0), some ([1, 2, 1], false, none),
    some ([1, 2, 2], false, none), some ([1, 2, 3], false, none), some ([2, 2, 4], false, none), some ([3, 2, 5], false, none)] := by decide +kernel
theorem test_start_minimal : [look startLook (exec (.deviceReset false 0) (failedSt 3)), look startLook (exec (.deviceReset true 0) (failedSt 3))] =
    [some ([1, 3, 0], true, none), some ([4, 3, 0], false, some 0)] := by decide +kernel
def vReq : VReq := ⟨0, 0, 0, 0, none⟩
def verSt (b : Nat) : State := { withMem State.reset (vmMem ++ [(0xC000, 256, b)]) with rotQueue := [{ vReq with addr := 0xC000 }] }
theorem test_verify_reserved : look (fun t => t.rotQueue.map (·.result)) (exec .verifyServe (verSt (2 ^ 1923))) = some [some 4] := by decide +kernel
theorem test_verify_no_key : look (fun t => t.rotQueue.map (·.result)) (exec .verifyServe (verSt (3 * 2 ^ 1920))) = some [some 3] := by decide +kernel
theorem test_verify_unread : look (fun t => t.rotQueue.map (·.result)) (exec .verifyServe { State.reset with rotQueue := [vReq] }) = some [some 5] := by decide +kernel
def verEnd : State := { withMem State.reset [(0x02000000, 64, 1 + 0x8000 * 2 ^ 64 + 0xB000 * 2 ^ 128), (0x8000, 8, 0x9003), (0x9000, 8, 0xA003), (0xA000, 8, 0x40000000003D), (0xB000, 8, 0x407C)] with
  rotQueue := [{ vReq with addr := 0x80000, result := some 3 }] }
theorem test_verify_end : look (fun t => (t.rotQueue, memVal t.mem 0x4000000800F8 8)) (exec .verifyServe verEnd) = some ([], 0x301) := by decide +kernel
theorem test_spdm_order : look (fun t => t.spdm.reply) (exec .getCapabilities State.reset) = some (some .unexpectedRequest) ∧
    look (fun t => t.spdm) (exec .negotiateAlgorithms { State.reset with spdm := ⟨true, true, false, none⟩ }) = some ⟨true, true, true, some (.algorithms true true)⟩ := by decide +kernel
theorem witness_trust : (engVal (engineRecord (verSt 0) 0 ⟨0, 0, false, 0, false, false⟩ 0xC000 256)).isSome = true ∧
    (∃ u, engineRecord State.reset 0 ⟨0, 0, false, 0, false, false⟩ 0 256 = some (u, .error ⟨6, 6, 0⟩)) ∧
    (engVal (engineXlat verEnd 0 0x800F8 ⟨0, 0, false, 1, false, false⟩)).map (·.pa) = some 0x400000000000 ∧ paClass verEnd 0x4000000800F8 = .window 0 ∧
    Plain (engState (engineXlat verEnd 0 0x800F8 ⟨0, 0, false, 1, false, false⟩)) 0x4000000800F8 8 :=
  ⟨by decide +kernel, ⟨_, engErr_of (by decide +kernel)⟩, by decide +kernel, by decide +kernel, by unfold Plain; decide +kernel⟩

/-! ## Steps and invariants (R89, R101, R285) -/

/-- `add s3, s4, s5` where region 0's sequencer fetches next. -/
def addSt : State := State.reset.withFetchWord 32 0x00642800
theorem witness_resident : Resident addSt 0 (.seqAdd 3 4 5) :=
  { turn := rfl, full := rfl, region := by decide, acts := by decide +kernel, quiet := by decide +kernel, live := by decide +kernel
    permit := ⟨(0, 0), by decide +kernel, by decide +kernel⟩
    word := ⟨placeLeaf 0 0, ⟨0, memLine addSt.mem 0, false⟩, by decide +kernel, by decide +kernel, by decide +kernel⟩ }
/-- HALT in slot 0 of element 0. -/
def haltSt : State := State.reset.withFetchWord 64 0x803810E000000000
theorem witness_picks : Picks haltSt 0 0 0 0 (.halt (plainHdr .b)) ∧
    look (fun u => (getE u 0).st) (exec (.halt (plainHdr .b)) (focusSlot haltSt 0 0 0 0)) = some .halted :=
  ⟨{ turn := rfl, full := rfl, unit := by decide +kernel, pick := by decide +kernel, slot := by decide, word := by decide +kernel
     lower := fun _ h => (Nat.not_lt_zero _ h).elim }, by decide +kernel⟩
theorem witness_schedule : isUnitStep .goodTimeout = true ∧ seqActs (getR State.reset 0) = false := by decide +kernel
theorem zero_bits : PcBits 0 := ⟨by decide, by decide⟩
theorem reset_pc_ok : PcOk State.reset := fun _ =>
  ⟨zero_bits, zero_bits, zero_bits, zero_bits⟩
theorem reset_memories_ok : MemoriesOk State.reset := ⟨rfl, fun _ => rfl⟩
theorem witness_encoding : (Instr.seqAdd 3 4 5).wf = true ∧ encode (.seqAdd 3 4 5) = some (.seq 0x00642800) ∧
    decode (.elem 0x803810E000000000) = some (.halt (plainHdr .b)) := by decide +kernel

end Sys2Proof.Tests
end

section
/-!
# The device at reset

At reset every table of units is empty, so that each unit reads as a fresh record; what the registers hold and the two
invariants follow from that.
-/
namespace Sys2Proof.Machine

@[simp] theorem tget_nil {α : Type} (k : Nat) (d : α) : tget ([] : Table α) k d = d := rfl

/-! ## Each unit is a fresh record -/

@[simp] theorem getR_reset (r : Nat) : getR State.reset r = {} := tget_nil r _
@[simp] theorem getE_reset (k : Nat) : getE State.reset k = {} := tget_nil k _
@[simp] theorem getDir_reset (ln : Nat) : getDir State.reset ln = {} := tget_nil ln _
@[simp] theorem getHome_reset (ln : Nat) : getHome State.reset ln = {} := tget_nil ln _

@[simp] theorem getSeq_reset (r : Nat) : getSeq State.reset r = {} :=
  congrArg Region.seq (getR_reset r)

@[simp] theorem Memory.wf_nil : Memory.wf [] = true := rfl

end Sys2Proof.Machine

namespace Sys2Proof.Claims
open Sys2Proof.Machine

/-! ## The invariants at reset -/

theorem pcBits_zero : PcBits 0 := ⟨by decide, by decide⟩

/-- Each address that the invariant speaks of is 0 in a fresh sequencer (R281). -/
theorem pcOk_reset : PcOk State.reset := by
  intro r
  rw [getSeq_reset]
  exact ⟨pcBits_zero, pcBits_zero, pcBits_zero, pcBits_zero⟩

/-- Memory and every scratchpad are empty (log 2), and the empty memory is in the canonical form. -/
theorem memoriesOk_reset : MemoriesOk State.reset := by
  refine ⟨Memory.wf_nil, fun k => ?_⟩
  rw [getE_reset]
  exact Memory.wf_nil

/-! ## The registers at reset -/

/-- Settles O56: each unit is a fresh record, the device's registers are the defaults of the state, and the invariants hold. -/
theorem resetState : Obligations.ResetState := by
  unfold Obligations.ResetState
  refine ⟨fun r => ?regions, fun k => ?elements, fun ln => ?lines, rfl, rfl, rfl, rfl, rfl, rfl, rfl, rfl, rfl, rfl, rfl,
    pcOk_reset, memoriesOk_reset⟩
  case regions =>
    rw [getR_reset]
    exact ⟨rfl, rfl, rfl, rfl, rfl, rfl, rfl, rfl, rfl, rfl, rfl⟩
  case elements =>
    rw [getE_reset]
    exact ⟨rfl, rfl, rfl⟩
  case lines => exact ⟨getDir_reset ln, getHome_reset ln⟩

end Sys2Proof.Claims
end

section
/-!
# What the homes' operations leave

Publication, recalls, snoops and the engines' accesses of homes change memory, homes, directory, cisterns and the buffers of
regions. Everything else of the device is as before: `beyondHomes` blanks what they may change, and each operation keeps it.
-/
namespace Sys2Proof.Machine

/-- The state without what the service of lines at their homes may change. -/
def beyondHomes (s : State) : State :=
  { s with mem := [], rows := [], poison := [], badCheck := [], dir := [], homes := [], cisterns := [], acks := [], regions := []
           free := 0, dist := { s.dist with since := [] } }

/-- Folding a step that keeps an observation keeps it. -/
theorem foldl_keeps {σ α β : Type} (v : σ → β) (f : σ → α → σ) (h : ∀ a x, v (f a x) = v a) (l : List α) (a : σ) :
    v (l.foldl f a) = v a := by
  induction l generalizing a with
  | nil => rfl
  | cons x l ih => rw [List.foldl_cons, ih, h]

/-! ## Updates of one table -/

@[simp] theorem beyondHomes_modR (s : State) (r : Nat) (f : Region → Region) : beyondHomes (modR s r f) = beyondHomes s := rfl
@[simp] theorem beyondHomes_modCist (s : State) (d : Nat) (f : Cistern → Cistern) : beyondHomes (modCist s d f) = beyondHomes s := rfl
@[simp] theorem beyondHomes_setCLine (s : State) (d ln : Nat) (c : CLine) : beyondHomes (setCLine s d ln c) = beyondHomes s := rfl
@[simp] theorem beyondHomes_dropCLine (s : State) (d ln : Nat) : beyondHomes (dropCLine s d ln) = beyondHomes s := rfl
@[simp] theorem beyondHomes_setDir (s : State) (ln : Nat) (d : Dir) : beyondHomes (setDir s ln d) = beyondHomes s := rfl
@[simp] theorem beyondHomes_modDir (s : State) (ln : Nat) (f : Dir → Dir) : beyondHomes (modDir s ln f) = beyondHomes s := rfl
@[simp] theorem beyondHomes_setHome (s : State) (ln : Nat) (h : HomeQ) : beyondHomes (setHome s ln h) = beyondHomes s := rfl
@[simp] theorem beyondHomes_postReq (s : State) (ln : Nat) (q : HReq) : beyondHomes (postReq s ln q) = beyondHomes s := rfl
@[simp] theorem beyondHomes_dropEntry (s : State) (r : Nat) (e : WcbEntry) : beyondHomes (dropEntry s r e) = beyondHomes s := rfl
@[simp] theorem beyondHomes_free (s : State) (n : Nat) : beyondHomes { s with free := n } = beyondHomes s := rfl
@[simp] theorem beyondHomes_acks (s : State) (l : List Ack) : beyondHomes { s with acks := l } = beyondHomes s := rfl
@[simp] theorem beyondHomes_cisterns (s : State) (t : Table Cistern) : beyondHomes { s with cisterns := t } = beyondHomes s := rfl

theorem beyondHomes_takeAck {s t : State} {tag : ReqTag} {a : Ack} (h : takeAck s tag = some (a, t)) :
    beyondHomes t = beyondHomes s := by
  unfold takeAck at h
  split at h
  · obtain ⟨-, rfl⟩ := Prod.mk.inj (Option.some.inj h)
    rfl
  · cases h

/-! ## Stores at a home -/

/-- A queue's entry changes since when its head waits, and nothing else. -/
theorem noteHead_eq (s : State) (ln : Nat) : ∃ t, noteHead s ln = { s with dist := { s.dist with since := t } } := by
  unfold noteHead
  split
  · dsimp only
    split
    · exact ⟨_, rfl⟩
    · split
      · exact ⟨s.dist.since, rfl⟩
      · exact ⟨_, rfl⟩
  · exact ⟨s.dist.since, rfl⟩

@[simp] theorem beyondHomes_noteHead (s : State) (ln : Nat) : beyondHomes (noteHead s ln) = beyondHomes s := by
  obtain ⟨t, ht⟩ := noteHead_eq s ln
  rw [ht]
  rfl

@[simp] theorem beyondHomes_storeHome (s : State) (ln : Nat) (d : Line) (m : BitVec 64) :
    beyondHomes (storeHome s ln d m) = beyondHomes s :=
  beyondHomes_noteHead ..

@[simp] theorem beyondHomes_putHome (s : State) (ln : Nat) (d : Line) (m : BitVec 64) :
    beyondHomes (putHome s ln d m) = beyondHomes s :=
  beyondHomes_storeHome ..

@[simp] theorem beyondHomes_mergeAnswers (s : State) (ln : Nat) (l : List (Line × BitVec 64)) :
    beyondHomes (mergeAnswers s ln l) = beyondHomes s := by
  unfold mergeAnswers
  dsimp only
  split
  · rfl
  · rw [beyondHomes_free, beyondHomes_storeHome]

/-! ## Write-backs, grants and recalls -/

@[simp] theorem beyondHomes_applyWb (s : State) (ln : Nat) (q : HReq) : beyondHomes (applyWb s ln q) = beyondHomes s := by
  unfold applyWb
  dsimp only
  split
  · split
    · rfl
    · rw [beyondHomes_setHome, beyondHomes_modDir]
      split
      · rfl
      · exact beyondHomes_putHome ..
  · rw [beyondHomes_modDir]
    split
    · rfl
    · exact beyondHomes_putHome ..

@[simp] theorem beyondHomes_drainWb (s : State) (ln : Nat) : beyondHomes (drainWb s ln) = beyondHomes s :=
  (foldl_keeps beyondHomes _ (fun a q => beyondHomes_applyWb a ln q) _ _).trans (beyondHomes_setHome ..)

@[simp] theorem beyondHomes_grantAck (s : State) (ln : Nat) : beyondHomes (grantAck s ln) = beyondHomes s := by
  unfold grantAck
  dsimp only
  split
  · split
    · split
      · split <;> split <;> rfl
      · rw [beyondHomes_acks]
        split <;> split <;> rfl
    · rfl
  · rfl

@[simp] theorem beyondHomes_recallLine (s : State) (ln : Nat) : beyondHomes (recallLine s ln) = beyondHomes s := by
  have drop : ∀ t : State, beyondHomes ((upto 4).foldl (fun s c => dropCLine s c ln) t) = beyondHomes t := fun t =>
    foldl_keeps beyondHomes _ (fun a c => beyondHomes_dropCLine a c ln) _ t
  unfold recallLine
  dsimp only
  split <;> simp [drop]

@[simp] theorem beyondHomes_concludeTx (s : State) (ln : Nat) (t : HTx) : beyondHomes (concludeTx s ln t) = beyondHomes s := by
  unfold concludeTx
  dsimp only
  rw [beyondHomes_setHome, beyondHomes_setDir]
  split
  · simp
  · split <;> simp

@[simp] theorem beyondHomes_settle (s : State) (ln : Nat) : beyondHomes (settle s ln) = beyondHomes s := by
  unfold settle
  split
  · split
    · exact beyondHomes_concludeTx ..
    · rfl
  · rfl

/-! ## Publication -/

/-- A publication step keeps what lies beyond the homes. -/
def KeepsBeyond (pub : State → Nat → Nat → (Narrow → Bool) → State × Bool) : Prop :=
  ∀ s die n pass, beyondHomes (pub s die n pass).1 = beyondHomes s

theorem beyondHomes_recallWith {pub : State → Nat → Nat → (Narrow → Bool) → State × Bool} (hp : KeepsBeyond pub) (s : State) (ln : Nat) :
    beyondHomes (recallWith pub s ln).1 = beyondHomes s := by
  have go : beyondHomes (recallWith.go pub s ln).1 = beyondHomes s := by
    unfold recallWith.go
    dsimp only
    generalize ha : List.foldl _ _ (upto 4) = a
    have published : beyondHomes a.1 = beyondHomes s := by
      rw [← ha]
      refine foldl_keeps (fun a : State × Bool => beyondHomes a.1) _ (fun a c => ?_) _ _
      split
      · exact hp ..
      · rfl
    split
    · simpa using published
    · exact published
  unfold recallWith
  split
  · split
    · rfl
    · exact go
  · exact go

theorem beyondHomes_performNarrow {pub : State → Nat → Nat → (Narrow → Bool) → State × Bool} (hp : KeepsBeyond pub) (s : State)
    (die : Nat) (w : Narrow) : beyondHomes (performNarrow pub s die w).1 = beyondHomes s := by
  have perform : ∀ (t : State) (e : WcbEntry), beyondHomes t = beyondHomes s →
      beyondHomes (match recallWith pub t w.line with
        | (u, true) => (settle (putHome u w.line e.data e.mask) w.line, true)
        | (_, false) => (s, false)).1 = beyondHomes s := by
    intro t e ht
    have hr := beyondHomes_recallWith hp t w.line
    split
    · rename_i u hu
      rw [hu] at hr
      simp only [beyondHomes_settle, beyondHomes_putHome]
      exact hr.trans ht
    · rfl
  unfold performNarrow
  dsimp only
  split
  · split
    · split
      · rfl
      · exact beyondHomes_recallWith hp ..
    · split
      · exact beyondHomes_recallWith hp ..
      · rfl
  · split
    · rfl
    · split
      · split
        · rename_i a t ht
          exact (beyondHomes_dropEntry ..).trans (beyondHomes_takeAck ht)
        · split
          · exact perform _ _ rfl
          · rfl
      · split
        · rfl
        · split
          · rfl
          · exact perform _ _ rfl

theorem keepsBeyond_publishWithin (k : Nat) : KeepsBeyond (publishWithin k) := by
  induction k with
  | zero => exact fun _ _ _ _ => rfl
  | succ k ih =>
    intro s die n pass
    refine foldl_keeps (fun a : State × Bool => beyondHomes a.1) _ (fun a w => ?_) _ _
    split
    · exact beyondHomes_performNarrow ih ..
    · rfl

@[simp] theorem beyondHomes_publishDie (s : State) (die n : Nat) (pass : Narrow → Bool) :
    beyondHomes (publishDie s die n pass).1 = beyondHomes s :=
  keepsBeyond_publishWithin 6 s die n pass

@[simp] theorem beyondHomes_takeBack (s : State) (ln : Nat) : beyondHomes (takeBack s ln).1 = beyondHomes s :=
  beyondHomes_recallWith (keepsBeyond_publishWithin 6) s ln

/-! ## The accesses of engines -/

@[simp] theorem beyondHomes_homeSync (s : State) (ln : Nat) : beyondHomes (homeSync s ln).1 = beyondHomes s := by
  unfold homeSync
  dsimp only
  generalize hp : List.foldl _ _ (upto 4) = p
  have keep : beyondHomes p.1 = beyondHomes s := by
    rw [← hp]
    refine (foldl_keeps (fun a : State × Bool => beyondHomes a.1) _ (fun a c => ?_) _ _).trans ?_
    · split
      · exact beyondHomes_publishDie ..
      · rfl
    · simp
  split
  · exact beyondHomes_grantAck ..
  · split
    · exact keep
    · split
      · simpa using keep
      · split
        · rw [beyondHomes_setDir]
          split
          · simpa using keep
          · exact keep
        · split
          · split
            · simpa using keep
            · exact keep
          · exact keep

/-- What the host's or an engine's read of a window publishes. -/
@[simp] theorem beyondHomes_windowSync (s : State) (die ln : Nat) : beyondHomes (windowSync s die none ln).1 = beyondHomes s := by
  refine foldl_keeps (fun a : State × Bool => beyondHomes a.1) _ (fun a w => ?_) _ _
  split
  · rfl
  · split
    · rename_i h
      exact absurd h.2 (by simp)
    · exact beyondHomes_publishDie ..

@[simp] theorem beyondHomes_engineSync (s : State) (pa n : Nat) : beyondHomes (engineSync s pa n).1 = beyondHomes s := by
  refine foldl_keeps (fun a : State × Bool => beyondHomes a.1) _ (fun a i => ?_) _ _
  split
  · rfl
  · split
    · exact beyondHomes_homeSync ..
    · exact beyondHomes_windowSync ..
    · rfl

@[simp] theorem beyondHomes_engineWrite (s : State) (pa : Nat) (bs : List Byte) : beyondHomes (engineWrite s pa bs) = beyondHomes s := by
  refine (beyondHomes_noteHead ..).trans ?_
  refine foldl_keeps beyondHomes _ (fun a ln => ?_) _ s
  simp

/-! ## The entries of launch queues -/

@[simp] theorem beyondHomes_qSync (s : State) (q : Nat) : beyondHomes (qSync s q).1 = beyondHomes s := beyondHomes_engineSync ..

@[simp] theorem beyondHomes_qPut (s : State) (q hi lo v : Nat) : beyondHomes (qPut s q hi lo v) = beyondHomes s := by
  unfold qPut
  split
  · rfl
  · exact beyondHomes_engineWrite ..

@[simp] theorem beyondHomes_agePut (s : State) (q : Nat) : beyondHomes (agePut s q) = beyondHomes s := beyondHomes_qPut ..

/-- Equal beyond the homes: the same requests of the host, and the same dispatches in flight. -/
theorem hostPend_of_beyondHomes {s t : State} (h : beyondHomes t = beyondHomes s) : t.hostPend = s.hostPend :=
  show (beyondHomes t).hostPend = (beyondHomes s).hostPend from congrArg (fun x : State => x.hostPend) h
theorem inflight_of_beyondHomes {s t : State} (h : beyondHomes t = beyondHomes s) : t.dist.inflight = s.dist.inflight :=
  show (beyondHomes t).dist.inflight = (beyondHomes s).dist.inflight from congrArg (fun x : State => x.dist.inflight) h

end Sys2Proof.Machine
end

section
/-!
# Dispatches that end, and queues that are disabled

Clearing a region changes regions, elements and the ring descriptors in memory (R455); the end of a dispatch marks it and keeps every
other dispatch in flight.
-/
namespace Sys2Proof.Machine

/-- The state without regions, elements and memory. -/
def beyondUnits (s : State) : State := { s with regions := [], elems := [], mem := [] }

theorem beyondUnits_rebind (s : State) (r : Nat) : beyondUnits (rebind s r) = beyondUnits s :=
  foldl_keeps beyondUnits (fun (s : State) (t : Nat × Nat) => modE s t.1 fun e => setQ e t.2 { getQ e t.2 with bound := true })
    (fun _ _ => rfl) _ s

theorem beyondUnits_disablePort (s : State) (r n : Nat) : beyondUnits (disablePort s r n) = beyondUnits s := by
  unfold disablePort
  dsimp only
  split
  · rfl
  · refine (beyondUnits_rebind ..).trans ?_
    split <;> rfl

theorem beyondUnits_clearRegion (s : State) (r : Nat) : beyondUnits (clearRegion s r) = beyondUnits s :=
  foldl_keeps beyondUnits (fun s n => disablePort s r n) (fun a n => beyondUnits_disablePort a r n) _ s

@[simp] theorem hostPend_clearRegion (s : State) (r : Nat) : (clearRegion s r).hostPend = s.hostPend :=
  show (beyondUnits _).hostPend = (beyondUnits _).hostPend from congrArg (fun x : State => x.hostPend) (beyondUnits_clearRegion s r)
@[simp] theorem dist_clearRegion (s : State) (r : Nat) : (clearRegion s r).dist = s.dist :=
  show (beyondUnits _).dist = (beyondUnits _).dist from congrArg (fun x : State => x.dist) (beyondUnits_clearRegion s r)

/-! ## The head of a queue -/

@[simp] theorem hostPend_advanceHead (s : State) (q n : Nat) : (advanceHead s q n).hostPend = s.hostPend := by
  unfold advanceHead
  rw [hostPend_of_beyondHomes ((beyondHomes_agePut ..).trans (beyondHomes_qPut ..))]
@[simp] theorem inflight_advanceHead (s : State) (q n : Nat) : (advanceHead s q n).dist.inflight = s.dist.inflight := by
  unfold advanceHead
  rw [inflight_of_beyondHomes ((beyondHomes_agePut ..).trans (beyondHomes_qPut ..))]

/-- Dropping a selection changes the distributor only, and removes dispatches from flight at most. -/
theorem dropStanding_eq (s : State) (q : Nat) :
    ∃ d, dropStanding s q = { s with dist := d } ∧ d.inflight ⊆ s.dist.inflight := by
  unfold dropStanding
  dsimp only
  split
  · split
    · split
      · exact ⟨_, rfl, List.filter_sublist.subset⟩
      · exact ⟨_, rfl, List.Subset.refl _⟩
    · exact ⟨_, rfl, List.Subset.refl _⟩
  · exact ⟨_, rfl, List.Subset.refl _⟩

@[simp] theorem hostPend_dropStanding (s : State) (q : Nat) : (dropStanding s q).hostPend = s.hostPend := by
  obtain ⟨d, hd, -⟩ := dropStanding_eq s q
  rw [hd]

/-! ## The end of a dispatch (R323, R455) -/

/-- A dispatch that is marked as ended. -/
def endDisp (id reason : Nat) (cause : BitVec 8) (x : Disp) : Disp := if x.id = id then { x with ending := some (reason, cause) } else x

/-- The end of a dispatch marks it and keeps every other in flight; the host's requests are as before. -/
theorem stopDisp_spec (s : State) (d : Disp) (reason : Nat) (cause : BitVec 8) :
    (stopDisp s d reason cause).hostPend = s.hostPend ∧
      (stopDisp s d reason cause).dist.inflight = s.dist.inflight.map (endDisp d.id reason cause) := by
  have cleared := foldl_keeps (fun x : State => (x.hostPend, x.dist)) clearRegion
    (fun a r => by simp) (dispRegions s d.id) s
  obtain ⟨hp, hd⟩ := Prod.mk.inj cleared
  have marked : ∀ x : State, x.dist = s.dist →
      x.dist.inflight.map (fun y => if y.id = d.id then { y with ending := some (reason, cause) } else y) =
        s.dist.inflight.map (endDisp d.id reason cause) := fun x hx => by rw [hx]; rfl
  unfold stopDisp
  dsimp only
  split
  · split
    · rw [hostPend_advanceHead, inflight_advanceHead]
      exact ⟨hp, marked _ hd⟩
    · exact ⟨hp, marked _ hd⟩
  · exact ⟨hp, marked _ hd⟩

theorem hostPend_stopDisps (s : State) (p : Disp → Bool) (reason : Nat) (cause : BitVec 8) :
    (stopDisps s p reason cause).hostPend = s.hostPend :=
  foldl_keeps (fun x : State => x.hostPend) _ (fun a d => (stopDisp_spec a d reason cause).1) _ s

/-- With no dispatch in flight none ends. -/
theorem stopDisps_of_no_inflight {s : State} (h : s.dist.inflight = []) (p : Disp → Bool) (reason : Nat) (cause : BitVec 8) :
    stopDisps s p reason cause = s := by
  unfold stopDisps
  rw [h]
  rfl

/-- Dispatch number id is in flight, and has ended for a reason and a cause. -/
def EndedId (s : State) (id reason : Nat) (cause : BitVec 8) : Prop :=
  (∃ x ∈ s.dist.inflight, x.id = id) ∧ ∀ x ∈ s.dist.inflight, x.id = id → x.ending = some (reason, cause)

theorem EndedId.findDisp {s : State} {id reason : Nat} {cause : BitVec 8} (h : EndedId s id reason cause) :
    ∃ x, findDisp s id = some x ∧ x.ending = some (reason, cause) := by
  obtain ⟨⟨y, hy, hid⟩, all⟩ := h
  unfold Sys2Proof.Machine.findDisp
  cases hf : s.dist.inflight.find? fun d => d.id == id with
  | none => exact absurd (beq_iff_eq.2 hid) (by simpa using List.find?_eq_none.1 hf y hy)
  | some x => exact ⟨x, rfl, all x (List.mem_of_find?_eq_some hf) (by simpa using List.find?_some hf)⟩

@[simp] theorem endDisp_id (id reason : Nat) (cause : BitVec 8) (x : Disp) : (endDisp id reason cause x).id = x.id := by
  unfold endDisp
  split <;> rfl

/-- The end of one dispatch leaves another that has ended so as it is. -/
theorem EndedId.stopDisp {s : State} {id reason : Nat} {cause : BitVec 8} (h : EndedId s id reason cause) (d : Disp) :
    EndedId (stopDisp s d reason cause) id reason cause := by
  obtain ⟨⟨y, hy, hid⟩, all⟩ := h
  unfold EndedId
  rw [(stopDisp_spec s d reason cause).2]
  refine ⟨⟨_, List.mem_map_of_mem hy, by simpa using hid⟩, fun x hx hxi => ?_⟩
  obtain ⟨z, hz, rfl⟩ := List.mem_map.1 hx
  have hz' := all z hz (by simpa using hxi)
  unfold endDisp
  split
  · rfl
  · exact hz'

/-- A dispatch that is stopped while it is in flight has ended. -/
theorem endedId_stopDisp {s : State} {d : Disp} (hd : ∃ x ∈ s.dist.inflight, x.id = d.id) (reason : Nat) (cause : BitVec 8) :
    EndedId (Machine.stopDisp s d reason cause) d.id reason cause := by
  obtain ⟨y, hy, hid⟩ := hd
  unfold EndedId
  rw [(stopDisp_spec s d reason cause).2]
  refine ⟨⟨_, List.mem_map_of_mem hy, by simpa using hid⟩, fun x hx hxi => ?_⟩
  obtain ⟨z, -, rfl⟩ := List.mem_map.1 hx
  unfold endDisp
  rw [if_pos (by simpa using hxi)]

/-- Every dispatch of a list that is stopped in turn has ended at the end. -/
theorem endedId_foldl_stopDisp (l : List Disp) (s : State) (reason : Nat) (cause : BitVec 8) (id : Nat)
    (h : EndedId s id reason cause ∨ (∃ x ∈ s.dist.inflight, x.id = id) ∧ ∃ d ∈ l, d.id = id) :
    EndedId (l.foldl (fun s d => Machine.stopDisp s d reason cause) s) id reason cause := by
  induction l generalizing s with
  | nil =>
    rcases h with h | ⟨-, d, hd, -⟩
    · exact h
    · cases hd
  | cons d l ih =>
    apply ih
    rcases h with h | ⟨hx, e, he, hid⟩
    · exact .inl (h.stopDisp d)
    · by_cases hd : d.id = id
      · subst hd
        exact .inl (endedId_stopDisp hx reason cause)
      · have hl : e ∈ l := (List.mem_cons.1 he).resolve_left fun h => hd (h ▸ hid)
        obtain ⟨y, hy, hyi⟩ := hx
        refine .inr ⟨⟨endDisp d.id reason cause y, ?_, by simpa using hyi⟩, e, hl, hid⟩
        rw [(stopDisp_spec s d reason cause).2]
        exact List.mem_map_of_mem hy

/-- A dispatch in flight that a test accepts, and that had not ended, ends. -/
theorem endedId_stopDisps {s : State} {p : Disp → Bool} {d : Disp} (hd : d ∈ s.dist.inflight) (he : d.ending = none)
    (hn : d.early = false) (hp : p d = true) (reason : Nat) (cause : BitVec 8) :
    EndedId (stopDisps s p reason cause) d.id reason cause :=
  endedId_foldl_stopDisp _ s reason cause d.id
    (.inr ⟨⟨d, hd, rfl⟩, d, List.mem_filter.2 ⟨hd, by simp [he, hn, hp]⟩, rfl⟩)

end Sys2Proof.Machine
end

section
/-!
# Bytes of numbers, lines and memory

The byte of a number at a place, of a number with a field replaced, and of a line that holds placed bytes; what a masked store of placed
bytes leaves in memory (R5, R11).
-/
namespace Sys2Proof.Machine

/-- Byte i of a number. -/
def byteAt (v i : Nat) : Byte := BitVec.ofNat 8 (v / 256 ^ i)

theorem getLsbD_byteAt (v i k : Nat) : (byteAt v i).getLsbD k = (decide (k < 8) && v.testBit (8 * i + k)) := by
  have e : 256 ^ i = 2 ^ (8 * i) := (Nat.pow_mul 2 8 i).symm
  rw [byteAt, BitVec.getLsbD_ofNat, e, Nat.testBit_div_two_pow, Nat.add_comm k]

@[simp] theorem length_bytesOf (n v : Nat) : (bytesOf n v).length = n := by
  induction n generalizing v with
  | zero => rfl
  | succ n ih => rw [bytesOf, List.length_cons, ih]

theorem getElem?_bytesOf {n i : Nat} (h : i < n) (v : Nat) : (bytesOf n v)[i]? = some (byteAt v i) := by
  induction n generalizing v i with
  | zero => omega
  | succ n ih =>
    cases i with
    | zero => simp [bytesOf, byteAt]
    | succ i =>
      rw [bytesOf, List.getElem?_cons_succ, ih (by omega), byteAt, byteAt, Nat.div_div_eq_div_mul, ← Nat.pow_succ']

theorem leVal_bytesOf (n v : Nat) : leVal (bytesOf n v) = v % 2 ^ (8 * n) := by
  induction n generalizing v with
  | zero => simp [bytesOf, leVal, Nat.mod_one]
  | succ n ih =>
    have e : 2 ^ (8 * (n + 1)) = 256 * 2 ^ (8 * n) := by rw [Nat.mul_succ, Nat.pow_add, Nat.mul_comm]
    rw [bytesOf, leVal, ih, e, Nat.mod_mul, BitVec.toNat_ofNat]

/-- Byte i of the number of a list of bytes is byte i of the list. -/
theorem byteAt_leVal (bs : List Byte) (i : Nat) : byteAt (leVal bs) i = bs.getD i 0 := by
  induction bs generalizing i with
  | nil => simp [leVal, byteAt]
  | cons b bs ih =>
    have hb : b.toNat < 256 := b.isLt
    cases i with
    | zero =>
      apply BitVec.eq_of_toNat_eq
      simp only [byteAt, leVal, Nat.pow_zero, Nat.div_one, BitVec.toNat_ofNat, List.getD_cons_zero]
      omega
    | succ i =>
      have e : (b.toNat + 256 * leVal bs) / 256 = leVal bs := by omega
      rw [List.getD_cons_succ, ← ih, byteAt, byteAt, leVal, Nat.pow_succ', ← Nat.div_div_eq_div_mul, e]

/-! ## Fields -/

theorem putField_eq {hi lo : Nat} (h : lo ≤ hi + 1) (n v : Nat) :
    putField n hi lo v = 2 ^ (hi + 1) * (n / 2 ^ (hi + 1)) + (2 ^ lo * (v % 2 ^ (hi + 1 - lo)) + n % 2 ^ lo) := by
  have e : 2 ^ (hi + 1) = 2 ^ lo * 2 ^ (hi + 1 - lo) := by rw [← Nat.pow_add]; congr 1; omega
  have h1 := Nat.div_add_mod n (2 ^ lo)
  have h2 := Nat.div_add_mod (n / 2 ^ lo) (2 ^ (hi + 1 - lo))
  rw [Nat.div_div_eq_div_mul, ← e] at h2
  have h3 : n = 2 ^ (hi + 1) * (n / 2 ^ (hi + 1)) + 2 ^ lo * (n / 2 ^ lo % 2 ^ (hi + 1 - lo)) + n % 2 ^ lo := by
    conv_lhs => rw [← h1, ← h2, Nat.mul_add, ← Nat.mul_assoc, ← e]
  unfold putField field
  rw [Nat.mul_comm _ (2 ^ lo), Nat.mul_comm _ (2 ^ lo)]
  omega

/-- The bits of a number with a field replaced. -/
theorem testBit_putField {hi lo : Nat} (h : lo ≤ hi + 1) (n v i : Nat) :
    (putField n hi lo v).testBit i = if lo ≤ i ∧ i ≤ hi then v.testBit (i - lo) else n.testBit i := by
  have h2 : n % 2 ^ lo < 2 ^ lo := Nat.mod_lt _ (Nat.two_pow_pos lo)
  have h1 : 2 ^ lo * (v % 2 ^ (hi + 1 - lo)) + n % 2 ^ lo < 2 ^ (hi + 1) := by
    have e : 2 ^ (hi + 1) = 2 ^ lo * 2 ^ (hi + 1 - lo) := by rw [← Nat.pow_add]; congr 1; omega
    have hv : v % 2 ^ (hi + 1 - lo) + 1 ≤ 2 ^ (hi + 1 - lo) := Nat.mod_lt _ (Nat.two_pow_pos _)
    have := Nat.mul_le_mul_left (2 ^ lo) hv
    rw [Nat.mul_add] at this
    omega
  rw [putField_eq h, Nat.testBit_two_pow_mul_add _ h1]
  split
  · rw [Nat.testBit_two_pow_mul_add _ h2]
    split
    · rw [if_neg (by omega), Nat.testBit_mod_two_pow]
      simp [*]
    · rw [if_pos (by omega), Nat.testBit_mod_two_pow]
      simp only [Bool.and_eq_right_iff_imp, decide_eq_true_eq]
      omega
  · rw [if_neg (by omega), Nat.testBit_div_two_pow]
    congr 1
    omega

theorem testBit_field (n hi lo i : Nat) : (field n hi lo).testBit i = (decide (i < hi + 1 - lo) && n.testBit (i + lo)) := by
  rw [field, Nat.testBit_mod_two_pow, Nat.testBit_div_two_pow]

/-- A field that is replaced by its own value. -/
theorem putField_field {hi lo : Nat} (h : lo ≤ hi + 1) (n : Nat) : putField n hi lo (field n hi lo) = n := by
  apply Nat.eq_of_testBit_eq
  intro i
  rw [testBit_putField h, testBit_field]
  split
  · have e : i - lo + lo = i := by omega
    simp only [e, Bool.and_eq_right_iff_imp, decide_eq_true_eq]
    omega
  · rfl

/-- The bytes of a number in which k whole bytes from byte j on are replaced. -/
theorem byteAt_putField {j k : Nat} (hk : 0 < k) (n v i : Nat) :
    byteAt (putField n (8 * (j + k) - 1) (8 * j) v) i = if j ≤ i ∧ i < j + k then byteAt v (i - j) else byteAt n i := by
  apply BitVec.eq_of_getLsbD_eq
  intro b hb
  rw [getLsbD_byteAt, testBit_putField (by omega)]
  split
  · rw [if_pos (by omega), getLsbD_byteAt]
    congr 2
    omega
  · rw [if_neg (by omega), getLsbD_byteAt]

/-- Clearing one bit of a number of 512 bits. -/
theorem ofNat_putField_zero {j : Nat} (hj : j < 512) (n : Nat) :
    BitVec.ofNat 512 (putField n j j 0) = BitVec.ofNat 512 n &&& ~~~((1 : BitVec 512) <<< j) := by
  apply BitVec.eq_of_getLsbD_eq
  intro i hi
  simp only [BitVec.getLsbD_ofNat, testBit_putField (Nat.le_succ j), BitVec.getLsbD_and, BitVec.getLsbD_not, BitVec.getLsbD_shiftLeft,
    hi, decide_true, Bool.true_and, Nat.zero_testBit]
  by_cases e : i = j
  · subst e
    simp
  · rw [if_neg (by omega)]
    by_cases l : i < j
    · simp [l]
    · have : i - j ≠ 0 := by omega
      simp [this]

/-! ## Lines -/

theorem lineByte_ofNat {v j : Nat} (hj : j < 64) : lineByte (BitVec.ofNat 512 v) j = byteAt v j := by
  apply BitVec.eq_of_getLsbD_eq
  intro k hk
  rw [lineByte, BitVec.getLsbD_extractLsb', BitVec.getLsbD_ofNat, getLsbD_byteAt, decide_eq_true (show 8 * j + k < 512 by omega),
    Bool.true_and]

/-- The bytes of a line that holds bytes from byte j on. -/
theorem lineByte_placeBytes {j k : Nat} (bs : List Byte) (hj : j ≤ k) (hk : k < 64) :
    lineByte (placeBytes j bs).1 k = bs.getD (k - j) 0 := by
  have e : leVal bs * 2 ^ (8 * j) / 256 ^ k = leVal bs / 256 ^ (k - j) := by
    have hp : 256 ^ k = 256 ^ (k - j) * 256 ^ j := by rw [← Nat.pow_add]; congr 1; omega
    rw [Nat.pow_mul, hp]
    exact Nat.mul_div_mul_right _ _ (Nat.pow_pos (by omega))
  rw [placeBytes, lineByte_ofNat hk, byteAt, e]
  exact byteAt_leVal bs (k - j)

/-- The mask of bytes placed from byte j on. -/
theorem getLsbD_placeBytes (j : Nat) (bs : List Byte) {k : Nat} (hk : k < 64) :
    (placeBytes j bs).2.getLsbD k = decide (j ≤ k ∧ k < j + bs.length) := by
  simp only [placeBytes, ones, BitVec.getLsbD_ofNat, Nat.testBit_mul_two_pow, Nat.testBit_two_pow_sub_one, hk, decide_true, Bool.true_and,
    ← Bool.decide_and]
  congr 1
  apply propext
  omega

/-! ## Memory -/

/-- A byte of the number of n bytes of memory. -/
theorem byteAt_memVal (m : List Host.Cell) (a : Nat) {n i : Nat} (hi : i < n) : byteAt (memVal m a n) i = memGet m (a + i) := by
  rw [memVal, byteAt_leVal, memBytes_eq, List.getD_eq_getElem?_getD]
  simp [upto, hi]

theorem memBytes_eq_bytesOf {m : List Host.Cell} {a n v : Nat} (h : ∀ i, i < n → memGet m (a + i) = byteAt v i) :
    memBytes m a n = bytesOf n v := by
  rw [memBytes_eq]
  apply List.ext_getElem?
  intro i
  by_cases hi : i < n
  · rw [getElem?_bytesOf hi]
    simp [upto, hi, h i hi]
  · rw [List.getElem?_eq_none (by simpa [upto] using hi), List.getElem?_eq_none (by simpa using hi)]

theorem memBytes_congr {m m' : List Host.Cell} {a n : Nat} (h : ∀ i, i < n → memGet m' (a + i) = memGet m (a + i)) :
    memBytes m' a n = memBytes m a n := by
  rw [memBytes_eq, memBytes_eq]
  exact List.map_congr_left fun i hi => h i (List.mem_range.1 hi)

end Sys2Proof.Machine

namespace Sys2Proof.Claims
open Sys2Proof.Machine

/-- What a masked store of a line leaves of every byte. -/
theorem memGet_memWriteMask_line (m : List Host.Cell) (ln : Nat) (d : Line) (k : BitVec 64) (x : Nat) :
    memGet (memWriteMask m ln d k) x = (maskedLine ln d k x).getD (memGet m x) := by
  unfold maskedLine
  by_cases hx : x / 64 = ln
  · have e : x = 64 * ln + x % 64 := by omega
    have hl : x % 64 < 64 := Nat.mod_lt _ (by decide)
    conv_lhs => rw [e, memGet_memWriteMask m ln d k (x % 64) hl, ← e]
    cases hk : k.getLsbD (x % 64) <;> simp [hx, lineByte]
  · rw [memGet_memWriteMask_other m ln d k x hx, if_neg fun h => hx h.1, Option.getD_none]

/-- Bytes that lie in one line, placed in it: the masked line holds them and nothing else. -/
theorem maskedLine_placeBytes {a : Nat} {bs : List Byte} (h : a % 64 + bs.length ≤ 64) :
    maskedLine (a / 64) (placeBytes (a % 64) bs).1 (placeBytes (a % 64) bs).2 = bytesAt a bs := by
  funext x
  have hl : x % 64 < 64 := Nat.mod_lt _ (by decide)
  unfold maskedLine bytesAt
  simp only [getLsbD_placeBytes _ _ hl, decide_eq_true_eq]
  by_cases hx : a ≤ x ∧ x - a < bs.length
  · have e : x % 64 - a % 64 = x - a := by omega
    rw [if_pos (by omega), if_pos hx.1]
    change some (lineByte _ _) = _
    rw [lineByte_placeBytes bs (by omega) hl, e, List.getD_eq_getElem?_getD, List.getElem?_eq_getElem hx.2, Option.getD_some]
  · rw [if_neg (by omega)]
    split
    · rw [List.getElem?_eq_none (by omega)]
    · rfl

end Sys2Proof.Claims
end

section
/-!
# Launch queues, where no agent holds a copy of an entry

With no copies anywhere a line's home is current, so that an engine's read changes nothing; and a write to an entry that nothing holds
changes the bytes of that entry only (R312, R322, R351).
-/
namespace Sys2Proof.Claims
open Sys2Proof.Machine

/-! ## With no copies every line is at its home -/

theorem NoCopies.narrowWrites {s : State} (h : NoCopies s) (die : Nat) : narrowWrites s die = [] := by
  obtain ⟨hc, -, -, hw⟩ := h
  have hg : getCist s die = {} := by rw [getCist, hc]; rfl
  unfold Machine.narrowWrites
  rw [hg]
  simp only [List.filterMap_nil, List.map_nil, List.append_nil, List.flatMap_eq_nil_iff]
  intro p hp
  rw [hw p hp]
  split <;> rfl

theorem NoCopies.publishDie {s : State} (h : NoCopies s) (die n : Nat) (pass : Narrow → Bool) : publishDie s die n pass = (s, true) := by
  have ho : olderWrites s die n pass = [] := by rw [olderWrites, h.narrowWrites]; rfl
  obtain ⟨-, -, hh, -⟩ := h
  unfold Machine.publishDie publishWithin
  dsimp only
  rw [ho, List.foldl_nil, hh]
  rfl

/-- A home without requests is served nothing. -/
theorem NoCopies.getHome {s : State} (h : NoCopies s) (ln : Nat) : getHome s ln = {} := by
  obtain ⟨-, -, hh, -⟩ := h
  rw [Machine.getHome, hh]
  rfl

theorem NoCopies.drainWb {s : State} (h : NoCopies s) (ln : Nat) : drainWb s ln = s := by
  unfold Machine.drainWb
  rw [h.getHome]
  obtain ⟨-, -, hh, -⟩ := h
  have ht : terase s.homes ln = s.homes := by rw [hh]; rfl
  simp [setHome, ht]

theorem NoCopies.grantAck {s : State} (h : NoCopies s) (ln : Nat) : grantAck s ln = s := by
  unfold Machine.grantAck
  rw [h.getHome]

theorem NoCopies.homeSync {s : State} (h : NoCopies s) (ln : Nat) : homeSync s ln = (s, true) := by
  have pub : (upto 4).foldl (fun (a : State × Bool) c =>
      let n := lastWrite a.1 c ln
      if a.2 && n != 0 then Machine.publishDie a.1 c n (inCistern ln) else a) (s, true) = (s, true) := by
    apply List.foldlRecOn (motive := fun a => a = (s, true)) _ _ rfl
    rintro _ rfl c -
    dsimp only
    split
    · exact h.publishDie ..
    · rfl
  have hd : getDir s ln = {} := by rw [getDir, h.2.1]; rfl
  unfold Machine.homeSync
  dsimp only at pub ⊢
  rw [h.grantAck, h.getHome, h.drainWb, pub]
  simp [hd]

theorem NoCopies.windowSync {s : State} (h : NoCopies s) (die ln : Nat) : windowSync s die none ln = (s, true) := by
  apply List.foldlRecOn (motive := fun a => a = (s, true)) _ _ rfl
  rintro _ rfl w -
  simp [h.publishDie]

theorem NoCopies.atHome {s : State} (h : NoCopies s) (pa n : Nat) : AtHome s pa n := by
  apply List.foldlRecOn (motive := fun a => a = (s, true)) _ _ rfl
  rintro _ rfl i -
  dsimp only
  rw [if_neg (by decide)]
  split
  · exact h.homeSync _
  · exact h.windowSync ..
  · rfl

theorem NoCopies.heldLines {s : State} (h : NoCopies s) (pa n : Nat) : heldLines s pa n = [] := by
  obtain ⟨hc, hd, hh, hw⟩ := h
  have hr : (s.regions.flatMap fun x => x.2.wcb.map (·.line)) = [] :=
    List.flatMap_eq_nil_iff.2 fun p hp => by rw [hw p hp]; rfl
  unfold Machine.heldLines
  dsimp only
  rw [hc, hd, hh, hr]
  rfl

/-! ## A field of an entry is replaced -/

theorem paLocal_qAddr {s : State} (h : TableInMem s) {q : Nat} (hq : q < 256) : paLocal (qAddr s q) = s.qTable + 64 * q := by
  obtain ⟨-, hb⟩ := h
  rw [paLocal, qAddr, Nat.add_mul_mod_self_right, Nat.mod_eq_of_lt (by omega)]

/-- A write of bytes that nothing holds changes memory, and what the home notes of a written line. -/
theorem engineWrite_of_unheld {s : State} {pa : Nat} {bs : List Byte} (h : heldLines s pa bs.length = []) :
    ∃ rows poison bad since, engineWrite s pa bs =
      { s with mem := memWrite s.mem (paLocal pa) bs, rows := rows, poison := poison, badCheck := bad
               dist := { s.dist with since := since } } := by
  unfold engineWrite
  rw [h, List.foldl_nil]
  obtain ⟨t, ht⟩ := noteHead_eq _ _
  exact ⟨_, _, _, t, ht⟩

/-- A field of an entry that nothing holds: the entry's bytes are those of the value with the field replaced, every other byte is as
before, and so is every unit. -/
theorem qPut_spec {s : State} {q hi lo : Nat} (v : Nat) (ho : lo ≤ hi + 1) (h : heldLines s (qAddr s q) 64 = []) :
    ∃ m rows poison bad since,
      qPut s q hi lo v = { s with mem := m, rows := rows, poison := poison, badCheck := bad, dist := { s.dist with since := since } } ∧
      let a := paLocal (qAddr s q)
      ∀ x, memGet m x =
        if a ≤ x ∧ x < a + 64 then byteAt (putField (homeVal s (qAddr s q) 64) hi lo v) (x - a) else memGet s.mem x := by
  unfold qPut
  split
  next he =>
    refine ⟨s.mem, s.rows, s.poison, s.badCheck, s.dist.since, rfl, fun x => ?_⟩
    rw [← he, putField_field ho]
    split
    next hx =>
      have e : paLocal (qAddr s q) + (x - paLocal (qAddr s q)) = x := by omega
      exact (congrArg (memGet s.mem) e).symm.trans (byteAt_memVal s.mem (paLocal (qAddr s q)) (n := 64) (by omega)).symm
    next => rfl
  next =>
    obtain ⟨rows, poison, bad, since, he⟩ := engineWrite_of_unheld (s := s) (pa := qAddr s q)
      (bs := bytesOf 64 (putField (homeVal s (qAddr s q) 64) hi lo v)) (by rwa [length_bytesOf])
    refine ⟨_, rows, poison, bad, since, he, fun x => ?_⟩
    rw [memGet_memWrite, length_bytesOf]
    split
    next hx => rw [List.getD_eq_getElem?_getD, getElem?_bytesOf (by omega), Option.getD_some]
    next => rfl

theorem ofNat_leVal_bytesOf (v : Nat) : BitVec.ofNat 512 (leVal (bytesOf 64 v)) = BitVec.ofNat 512 v := by
  apply BitVec.eq_of_getLsbD_eq
  intro i hi
  simp only [leVal_bytesOf, BitVec.getLsbD_ofNat, Nat.testBit_mod_two_pow, hi, decide_true, Bool.true_and]

/-- Of the entries, the one whose field is replaced changes. -/
theorem qEntry_qPut {s : State} {q hi lo : Nat} (v : Nat) (ho : lo ≤ hi + 1) (h : heldLines s (qAddr s q) 64 = []) (ht : TableInMem s)
    (hq : q < 256) {p : Nat} (hp : p < 256) :
    qEntry (qPut s q hi lo v) p =
      if p = q then BitVec.ofNat 512 (putField (homeVal s (qAddr s q) 64) hi lo v) else qEntry s p := by
  obtain ⟨m, rows, poison, bad, since, he, hm⟩ := qPut_spec v ho h
  rw [he]
  rw [paLocal_qAddr ht hq] at hm
  change BitVec.ofNat 512 (leVal (memBytes m (paLocal (qAddr s p)) 64)) = _
  rw [paLocal_qAddr ht hp]
  split
  next e =>
    subst e
    rw [memBytes_eq_bytesOf fun i hi => ?_]
    · exact ofNat_leVal_bytesOf _
    · rw [hm, if_pos (by omega), Nat.add_sub_cancel_left]
  next e =>
    rw [memBytes_congr (m := s.mem) fun i hi => ?_]
    · exact congrArg (fun a => BitVec.ofNat 512 (leVal (memBytes s.mem a 64))) (paLocal_qAddr ht hp).symm
    · rw [hm, if_neg (by omega)]

end Sys2Proof.Claims
end

section
/-!
# What the host and the virtual functions ask

Doorbells and their reads (R467), requests to a cistern window through the physical function and through a virtual function's window
(R465, R466, R468, R474), and a function-level reset (R469).
-/
namespace Sys2Proof.Claims
open Sys2Proof.Machine

/-! ## Steps of the host's units -/

theorem exec_vfWindowRequest_of_fn {fn : Nat} (h1 : 1 ≤ fn) (h2 : fn ≤ 64) (q : HostReq) (s : State) :
    exec (.vfWindowRequest fn q) s = .next (if s.bridge then windowRequest s fn q else s) :=
  withUnit_of_ok (decide_eq_true ⟨h1, h2⟩) s _

theorem exec_doorbellWrite_of_fn {fn : Nat} (h1 : 1 ≤ fn) (h2 : fn ≤ 64) (off : Nat) (w : BitVec 32) (s : State) :
    exec (.doorbellWrite fn off w) s = .next (if s.bridge then doorbellWrite s fn off w else s) :=
  withUnit_of_ok (decide_eq_true ⟨h1, h2⟩) s _

theorem exec_functionLevelReset_of_fn {fn : Nat} (h1 : 1 ≤ fn) (h2 : fn ≤ 64) (s : State) :
    exec (.functionLevelReset fn) s = .next (functionReset s fn) := by
  rw [exec_functionLevelReset, execFunctionLevelReset, withUnit_of_ok (decide_eq_true ⟨h1, h2⟩)]

theorem exec_hostRequest_of_bridge {s : State} (h : s.bridge = true) (q : HostReq) :
    exec (.hostRequest q) s = .next (hostAccess s q) := by
  rw [exec_hostRequest, execHostRequest, hostRequest, if_pos h]

/-- The endpoint of a device that does not bridge to the host takes nothing (R24). -/
theorem host_endpoint_idle {s : State} (h : s.bridge = false) (fn : Nat) :
    (∀ q, exec (.hostRequest q) s = .next s) ∧
      (1 ≤ fn → fn ≤ 64 → (∀ q, exec (.vfWindowRequest fn q) s = .next s) ∧ ∀ off w, exec (.doorbellWrite fn off w) s = .next s) := by
  refine ⟨fun q => ?_, fun h1 h2 => ⟨fun q => ?_, fun off w => ?_⟩⟩
  · rw [exec_hostRequest, execHostRequest, hostRequest, h]; rfl
  · rw [exec_vfWindowRequest_of_fn h1 h2, h]; rfl
  · rw [exec_doorbellWrite_of_fn h1 h2, h]; rfl

/-! ## Doorbells (R467) -/

/-- Queue q is enabled and belongs to function fn, whose window is enabled. -/
structure OwnsQueue (s : State) (fn q : Nat) : Prop where
  number : q < 256
  window : (tget s.vfcfg fn 0).getLsbD 63 = true
  owner : qOwner (qEntry s q) = fn
  enabled : qEn (qEntry s q) = true
  full : s.minimal = false

theorem qOwner_of_field {e : BitVec 512} {fn : Nat} (h2 : fn ≤ 64) (h : e.extractLsb' 0 7 = BitVec.ofNat 7 fn) : qOwner e = fn := by
  rw [qOwner, h, BitVec.toNat_ofNat, Nat.mod_eq_of_lt (by omega)]

theorem doorbellRead_of_owns {s : State} {fn q : Nat} (h1 : 1 ≤ fn) (h2 : fn ≤ 64) (hat : AtHome s (qAddr s q) 64) (h : OwnsQueue s fn q) :
    doorbellRead s fn (256 * q + 8) =
      { s with hostReplies := s.hostReplies ++ [(fn, .data (bytesOf 4 (qRd (qEntry s q))) false)] } := by
  obtain ⟨hq, hw, ho, he, hm⟩ := h
  have hy : qSync s q = (s, true) := hat
  have hd : (256 * q + 8) / 256 = q := by omega
  have ht : ¬ (fn = 0 ∨ 64 < fn ∨ (!true) = true ∨ (256 * q + 8) % 256 ≠ 8 ∨ 256 ≤ q ∨ fn ≠ fn ∨ (!true) = true ∨ false = true) := by
    simp only [Bool.not_true, Bool.false_eq_true, ne_eq, not_true_eq_false, or_false, false_or]
    omega
  unfold doorbellRead
  dsimp only
  rw [hd, hy]
  dsimp only
  rw [hw, ho, he, hm, if_neg ht]
  rfl

/-- Without a write of the function on its way, the doorbell's value becomes WR. -/
theorem doorbellWrite_of_owns {s : State} {fn q : Nat} (hat : AtHome s (qAddr s q) 64) (h : OwnsQueue s fn q)
    (hp : ∀ x ∈ s.hostPend, x.fn = fn → x.kind ≠ 1) (w : BitVec 32) :
    doorbellWrite s fn (256 * q) w = qPut s q 223 192 w.toNat := by
  obtain ⟨hq, hw, ho, he, hm⟩ := h
  have hy : qSync s q = (s, true) := hat
  have hd : 256 * q / 256 = q := by omega
  have hpend : (s.hostPend.any fun x => x.fn == fn && x.kind == 1) = false := by
    simpa using hp
  have ht : ¬ ((!true) = true ∨ 256 * q % 256 ≠ 0 ∨ 256 ≤ q ∨ fn ≠ fn ∨ (!true) = true ∨ false = true) := by
    simp only [Bool.not_true, Bool.false_eq_true, ne_eq, not_true_eq_false, or_false, false_or]
    omega
  unfold doorbellWrite
  dsimp only
  rw [hd, hy]
  dsimp only
  rw [hw, ho, he, hm, if_neg ht, hpend]
  rfl

/-- A doorbell of a function whose window is disabled, or at an offset that is no queue's, is refused. -/
theorem doorbellWrite_refused {s : State} {fn off : Nat}
    (h : (tget s.vfcfg fn 0).getLsbD 63 = false ∨ off % 256 ≠ 0 ∨ 65536 ≤ off) (hat : AtHome s (qAddr s (off / 256)) 64) (w : BitVec 32) :
    doorbellWrite s fn off w = hostRefuse s fn true off := by
  have hy : qSync s (off / 256) = (s, true) := hat
  unfold doorbellWrite
  dsimp only
  rw [hy]
  dsimp only
  rw [if_neg (by decide), if_pos]
  rcases h with h | h | h
  · exact .inl (by rw [h]; rfl)
  · exact .inr (.inl h)
  · exact .inr (.inr (.inl (by omega)))

theorem getElem?_word4 {i : Nat} (hi : i < 4) (v : Nat) : (word4 v)[i]? = some (byteAt v i) := by
  have e : word4 v = bytesOf 4 v := by simp [word4, bytesOf, Nat.div_div_eq_div_mul]
  rw [e, getElem?_bytesOf hi]

/-- WR of an entry that nothing holds: its four bytes change, and no unit does. -/
theorem qPut_wr {s : State} {q : Nat} (ht : TableInMem s) (hq : q < 256) (h : heldLines s (qAddr s q) 64 = []) (w : Nat) :
    MemIs (bytesAt (s.qTable + 64 * q + 24) (word4 w)) s (qPut s q 223 192 w) ∧ SameElems s (qPut s q 223 192 w) ∧
      SameRegions s (qPut s q 223 192 w) := by
  obtain ⟨m, rows, poison, bad, since, he, hm⟩ := qPut_spec (hi := 223) (lo := 192) w (by decide) h
  rw [he]
  refine ⟨fun x => ?_, fun _ => rfl, fun _ => rfl⟩
  rw [paLocal_qAddr ht hq] at hm
  change memGet m x = _
  rw [hm, bytesAt]
  by_cases hx : s.qTable + 64 * q ≤ x ∧ x < s.qTable + 64 * q + 64
  · rw [if_pos hx, byteAt_putField (j := 24) (k := 4) (by decide)]
    by_cases hw : s.qTable + 64 * q + 24 ≤ x ∧ x < s.qTable + 64 * q + 28
    · have e : x - (s.qTable + 64 * q + 24) = x - (s.qTable + 64 * q) - 24 := by omega
      rw [if_pos (by omega), if_pos hw.1, e, getElem?_word4 (by omega), Option.getD_some]
    · have hv : byteAt (homeVal s (qAddr s q) 64) (x - (s.qTable + 64 * q)) = memGet s.mem x := by
        have e : paLocal (qAddr s q) + (x - (s.qTable + 64 * q)) = x := by rw [paLocal_qAddr ht hq]; omega
        exact (byteAt_memVal s.mem (paLocal (qAddr s q)) (n := 64) (by omega)).trans (congrArg (memGet s.mem) e)
      rw [if_neg (by omega), hv]
      split
      · rw [List.getElem?_eq_none (by simp only [word4, List.length_cons, List.length_nil]; omega), Option.getD_none]
      · rfl
  · rw [if_neg hx]
    split
    · rw [List.getElem?_eq_none (by simp only [word4, List.length_cons, List.length_nil]; omega), Option.getD_none]
    · rfl

/-! ## Requests to a cistern window (R465, R466, R468) -/

/-- Bytes of one line are one piece. -/
theorem hostPieces_of_line {a n : Nat} (h1 : 1 ≤ n) (h : a % 64 + n ≤ 64) : hostPieces a n = [(a, 0, n)] := by
  have hc : (a % 64 + n + 63) / 64 = 1 := by omega
  have hm : Nat.min (a + n) (a / 64 * 64 + 64 * 0 + 64) = a + n := Nat.min_eq_left (by omega)
  unfold hostPieces
  rw [hc]
  simp only [upto, List.range_one, List.map_cons, List.map_nil, if_true, hm, Nat.sub_self, Nat.add_sub_cancel_left]

theorem windowStore_of_plain {s : State} {ln : Nat} (h : roBits s ln = 0) (d : Line) (m : BitVec 64) :
    windowStore s ln d m = { s with mem := memWriteMask s.mem ln d m } := by
  have hk : keepRo s ln (memLine s.mem ln) d = d := if_pos h
  rw [windowStore, hk]

/-- A read of a line of a window that is at its home makes nothing of the device change. -/
theorem windowSync_of_atHome {s : State} {pa n w : Nat} (hw : paClass s pa = .window w) (h1 : 1 ≤ n) (hl : pa % 64 + n ≤ 64)
    (h : AtHome s pa n) : windowSync s w none (lineNo pa) = (s, true) := by
  have hc : (pa % 64 + n + 63) / 64 = 1 := by omega
  unfold AtHome engineSync at h
  rw [hc] at h
  simpa [upto, hw] using h

/-- A request of one piece in a window goes out and is answered at once. -/
theorem hostIssue_of_window {s : State} {pa n w : Nat} (hw : paClass s pa = .window w) (h1 : 1 ≤ n) (hl : pa % 64 + n ≤ 64)
    (h : AtHome s pa n) (fn owner : Nat) (q : HostReq) :
    hostIssue s fn owner q [(pa, 0, n)] =
      let r := hostPiece s owner s.nextHost 0 q pa 0 n
      { r.1 with nextHost := s.nextHost + 1, hostPend := r.1.hostPend ++ [⟨s.nextHost, fn, hostKind q, [⟨pa, n, r.2⟩]⟩] } := by
  have hy : hostSync s [(pa, 0, n)] = (s, true) := by
    unfold hostSync
    simp [hw, windowSync_of_atHome hw h1 hl h]
  unfold hostIssue
  rw [hy]
  rfl

theorem lineNo_eq (pa : Nat) : lineNo pa = paLocal pa / 64 := rfl

theorem paLocal_mod_line (pa : Nat) : paLocal pa % 64 = pa % 64 := by
  unfold paLocal
  omega

/-- A step that sends a request of one line of a window, which is at its home, serves it. -/
theorem windowServed_of_issue {i : Instr} {fn owner pa w : Nat} {q : HostReq} {u s : State}
    (hi : 1 ≤ hostLen q → exec i s = .next (hostIssue u fn owner q [(pa, 0, hostLen q)]))
    (hw : paClass u pa = .window w) (hl : pa % 64 + hostLen q ≤ 64) (h : AtHome u pa (hostLen q)) : WindowServed i fn pa q u s := by
  have issue : ∀ h1 : 1 ≤ hostLen q, exec i s = .next (let r := hostPiece u owner u.nextHost 0 q pa 0 (hostLen q)
      { r.1 with nextHost := u.nextHost + 1, hostPend := r.1.hostPend ++ [⟨u.nextHost, fn, hostKind q, [⟨pa, hostLen q, r.2⟩]⟩] }) :=
    fun h1 => by rw [hi h1, hostIssue_of_window hw h1 hl h]
  refine ⟨?read, ?write, ?atomic⟩
  case read =>
    rintro a n rfl h1 -
    rw [issue h1]
    simp only [hostPiece, hw, hostKind, hostLen, answered]
    rfl
  case write =>
    rintro a bs rfl hne ⟨-, hro⟩
    have h1 : 1 ≤ bs.length := List.length_pos_iff.2 hne
    have hb : (bs.drop 0).take bs.length = bs := by rw [List.drop_zero, List.take_length]
    refine ⟨_, issue h1, fun x => ?_, ?_⟩
    · simp only [hostPiece, hw, hostLen, hb, windowStore_of_plain hro]
      rw [memGet_memWriteMask_line, lineNo_eq, ← paLocal_mod_line, maskedLine_placeBytes]
      rw [paLocal_mod_line]
      exact hl
    · simp only [hostPiece, hw, hostKind, hostLen, hb, windowStore_of_plain hro, answered]
      rfl
  case atomic =>
    rintro a z o v c rfl ⟨-, hro⟩
    have h1 : 1 ≤ atomBytes z := by unfold atomBytes; split <;> decide
    refine ⟨_, issue h1, fun x => ?_, ?_⟩
    · simp only [hostPiece, hw, windowStore_of_plain hro]
      exact memGet_memWriteMask_line ..
    · simp only [hostPiece, hw, hostKind, hostLen, windowStore_of_plain hro, answered]
      rfl

/-- A function's request is refused where its window is disabled or ends before it. -/
theorem windowRequest_refused {s : State} {fn : Nat} {q : HostReq} (hq : ∀ f o, q ≠ .bar0Read f o)
    (h : (tget s.vfcfg fn 0).getLsbD 63 = false ∨
      2 ^ (20 + Nat.min 16 ((tget s.vfcfg fn 0).extractLsb' 16 5).toNat) < hostAddr q + hostLen q) :
    windowRequest s fn q = hostRefuse s fn (hostKind q == 1) (hostAddr q) := by
  have ht : (!(tget s.vfcfg fn 0).getLsbD 63) = true ∨
      2 ^ (20 + Nat.min 16 ((tget s.vfcfg fn 0).extractLsb' 16 5).toNat) < hostAddr q + hostLen q ∨ s.minimal = true := by
    rcases h with h | h
    · exact .inl (by rw [h]; rfl)
    · exact .inr (.inl h)
  unfold windowRequest
  cases q with
  | bar0Read f o => exact absurd rfl (hq f o)
  | read a n => exact if_pos ht
  | write a d => exact if_pos ht
  | atomic a z o v c => exact if_pos ht

theorem windowPieces_single {s u : State} {a n : Nat} {x : Xlat} {r : XReq} (h : engineXlat s 0 a r = some (u, .ok x)) :
    windowPieces r s [(a, 0, n)] = some (u, .ok [(x.pa + (a - x.va), 0, n)]) := by
  simp only [windowPieces, h, engThen]

/-- A function's request of one line within its window goes to the translated address. -/
theorem windowRequest_translated {s u : State} {fn : Nat} {q : HostReq} {x : Xlat} (hq : ∀ f o, q ≠ .bar0Read f o)
    (hc : (tget s.vfcfg fn 0).getLsbD 63 = true) (hm : s.minimal = false) (h1 : 1 ≤ hostLen q)
    (hin : hostAddr q + hostLen q ≤ 2 ^ (20 + Nat.min 16 ((tget s.vfcfg fn 0).extractLsb' 16 5).toNat))
    (hl : hostAddr q % 64 + hostLen q ≤ 64)
    (hx : engineXlat s 0 (hostAddr q) ⟨((tget s.vfcfg fn 0).extractLsb' 0 16).toNat, fn, true, hostKind q, false, false⟩ =
      some (u, .ok x)) :
    windowRequest s fn q = hostIssue u fn fn q [(x.pa + (hostAddr q - x.va), 0, hostLen q)] := by
  have ht : ¬ ((!(tget s.vfcfg fn 0).getLsbD 63) = true ∨
      2 ^ (20 + Nat.min 16 ((tget s.vfcfg fn 0).extractLsb' 16 5).toNat) < hostAddr q + hostLen q ∨ s.minimal = true) := by
    rw [hc, hm]
    simp only [Bool.not_true, Bool.false_eq_true, or_false, false_or]
    omega
  have hp := windowPieces_single (n := hostLen q) hx
  rw [← hostPieces_of_line h1 hl] at hp
  unfold windowRequest
  cases q with
  | bar0Read f o => exact absurd rfl (hq f o)
  | read a n => exact (if_neg ht).trans (by rw [hp]; rfl)
  | write a d => exact (if_neg ht).trans (by rw [hp]; rfl)
  | atomic a z o v c => exact (if_neg ht).trans (by rw [hp]; rfl)

/-- The host's request of one line of a window goes out at its physical address. -/
theorem hostAccess_of_window {s : State} {q : HostReq} {w : Nat} (hq : ∀ f o, q ≠ .bar0Read f o) (hm : s.minimal = false)
    (h1 : 1 ≤ hostLen q) (hl : hostAddr q % 64 + hostLen q ≤ 64) (hw : paClass s (hostAddr q) = .window w) :
    hostAccess s q = hostIssue s 0 0 q [(hostAddr q, 0, hostLen q)] := by
  unfold hostAccess
  cases q with
  | bar0Read f o => exact absurd rfl (hq f o)
  | read a n => simp [hostPieces_of_line h1 hl, hw, hm]
  | write a d => simp [hostPieces_of_line h1 hl, hw, hm]
  | atomic a z o v c => simp [hostPieces_of_line h1 hl, hw, hm]

theorem hostAccess_reserved {s : State} {a n : Nat} (h1 : 1 ≤ n) (hl : a % 64 + n ≤ 64) (h : paClass s a = .reserved) :
    hostAccess s (.read a n) = hostRefuse s 0 false a := by
  unfold hostAccess
  simp [hostAddr, hostLen, hostKind, hostPieces_of_line h1 hl, h]

/-! ## Function-level reset (R469) -/

/-- A queue of the function is disabled, and its selection is dropped. -/
def disableQueue (s : State) (q : Nat) : State := dropStanding (qPut (qSync s q).1 q 31 31 0) q

/-- The enabled queues of a function. -/
def ownQueues (s : State) (fn : Nat) : List Nat :=
  (upto 256).filter fun q => qOwner (qEntry (qSync s q).1 q) == fn && qEn (qEntry (qSync s q).1 q)

/-- The function's queues are disabled and its dispatches end. -/
def functionStopped (s : State) (fn : Nat) : State :=
  stopDisps ((ownQueues s fn).foldl disableQueue s) (fun d => d.owner == fn) 5 0x07

/-- Beyond that, a reset drops the function's saved teams and its requests. -/
theorem functionReset_eq (s : State) (fn : Nat) :
    ∃ saves homes acks, functionReset s fn = { functionStopped s fn with
        saves := saves, homes := homes, acks := acks, hostPend := (functionStopped s fn).hostPend.filter fun h => h.fn != fn } ∧
      ∀ v ∈ saves, ∀ m, v.region.team = some m → m.owner ≠ fn := by
  have stages : stopDisps (((upto 256).filter fun q => qOwner (qEntry (qSync s q).1 q) == fn && qEn (qEntry (qSync s q).1 q)).foldl
      (fun s q => dropStanding (qPut (qSync s q).1 q 31 31 0) q) s) (fun d => d.owner == fn) 5 0x07 = functionStopped s fn := rfl
  unfold functionReset
  dsimp only
  rw [stages]
  refine ⟨_, _, _, rfl, fun v hv m hm => ?_⟩
  have ho := (List.mem_filter.1 hv).2
  rw [hm] at ho
  exact bne_iff_ne.1 ho

/-- Saved teams, requests at homes and the host's requests are no part of the distributor or of a queue's entry. -/
theorem fields_of_dropped {t u : State} {saves homes acks pend}
    (h : t = { u with saves := saves, homes := homes, acks := acks, hostPend := pend }) :
    t.saves = saves ∧ t.hostPend = pend ∧ t.dist = u.dist ∧ ∀ q, qEntry t q = qEntry u q := by
  subst h
  exact ⟨rfl, rfl, rfl, fun _ => rfl⟩

theorem functionReset_spec (s : State) (fn : Nat) :
    (∀ v ∈ (functionReset s fn).saves, ∀ m, v.region.team = some m → m.owner ≠ fn) ∧
      (functionReset s fn).hostPend = ((functionStopped s fn).hostPend.filter fun h => h.fn != fn) ∧
      (functionReset s fn).dist = (functionStopped s fn).dist ∧
      ∀ q, qEntry (functionReset s fn) q = qEntry (functionStopped s fn) q := by
  obtain ⟨saves, homes, acks, he, none_owned⟩ := functionReset_eq s fn
  obtain ⟨hs, rest⟩ := fields_of_dropped he
  exact ⟨hs.symm ▸ none_owned, rest⟩

@[simp] theorem hostPend_disableQueue (s : State) (q : Nat) : (disableQueue s q).hostPend = s.hostPend := by
  rw [disableQueue, hostPend_dropStanding, hostPend_of_beyondHomes ((beyondHomes_qPut ..).trans (beyondHomes_qSync ..))]

theorem hostPend_functionStopped (s : State) (fn : Nat) : (functionStopped s fn).hostPend = s.hostPend :=
  (hostPend_stopDisps ..).trans (foldl_keeps (fun x : State => x.hostPend) disableQueue hostPend_disableQueue _ s)

/-- The requests of the function are dropped, and every other stays. -/
theorem mem_hostPend_functionReset (s : State) (fn : Nat) (h : HostPend) :
    h ∈ (functionReset s fn).hostPend ↔ h ∈ s.hostPend ∧ h.fn ≠ fn := by
  obtain ⟨-, hp, -⟩ := functionReset_spec s fn
  rw [hp, hostPend_functionStopped, List.mem_filter, bne_iff_ne]

/-- A function that owns no queue has none to disable. -/
theorem ownQueues_eq_nil {s : State} {fn : Nat} (h : ∀ q < 256, AtHome s (qAddr s q) 64 ∧ qOwner (qEntry s q) ≠ fn) :
    ownQueues s fn = [] := by
  refine List.filter_eq_nil_iff.2 fun q hq => ?_
  obtain ⟨hat, ho⟩ := h q (List.mem_range.1 hq)
  have hy : qSync s q = (s, true) := hat
  rw [hy]
  simp [ho]

/-- No copies, and no dispatch in flight: an entry that is written changes itself only. -/
structure Still (s : State) : Prop where
  copies : NoCopies s
  flights : s.dist.inflight = []
  table : TableInMem s

/-- Disabling a queue clears EN of its entry, and leaves every other entry. -/
theorem Still.disableQueue {s : State} (h : Still s) {q : Nat} (hq : q < 256) :
    Still (disableQueue s q) ∧ ∀ p < 256, qEntry (Claims.disableQueue s q) p =
      if p = q then qEntry s p &&& ~~~((1 : BitVec 512) <<< 31) else qEntry s p := by
  obtain ⟨hc, hf, ht⟩ := h
  have hy : qSync s q = (s, true) := hc.atHome ..
  have hh := hc.heldLines (qAddr s q) 64
  obtain ⟨d, hd, hdf⟩ := dropStanding_eq (qPut s q 31 31 0) q
  obtain ⟨m, rows, poison, bad, since, he, -⟩ := qPut_spec (hi := 31) (lo := 31) 0 (by decide) hh
  have hs : Claims.disableQueue s q = { qPut s q 31 31 0 with dist := d } := by rw [Claims.disableQueue, hy, hd]
  have hi : d.inflight = [] := by
    rw [he, hf] at hdf
    exact List.subset_nil.1 hdf
  refine ⟨?_, fun p hp => ?_⟩
  · rw [hs, he]
    exact ⟨hc, hi, ht⟩
  · rw [hs]
    change qEntry (qPut s q 31 31 0) p = _
    rw [qEntry_qPut 0 (by decide) hh ht hq hp]
    split
    next e => rw [e, ofNat_putField_zero (by decide)]; rfl
    next => rfl

/-- Disabling queues in turn clears EN of each, and leaves every other entry. -/
theorem Still.foldl_disableQueue {s : State} (h : Still s) (l : List Nat) (hl : ∀ q ∈ l, q < 256) :
    Still (l.foldl Claims.disableQueue s) ∧ ∀ p < 256, qEntry (l.foldl Claims.disableQueue s) p =
      if p ∈ l then qEntry s p &&& ~~~((1 : BitVec 512) <<< 31) else qEntry s p := by
  induction l generalizing s with
  | nil => exact ⟨h, fun p _ => by simp⟩
  | cons q l ih =>
    obtain ⟨h', he⟩ := h.disableQueue (hl q (List.mem_cons_self ..))
    obtain ⟨hs, hent⟩ := ih h' fun p hp => hl p (List.mem_cons_of_mem _ hp)
    refine ⟨hs, fun p hp => ?_⟩
    rw [List.foldl_cons, hent p hp, he p hp]
    by_cases e : p = q
    · subst e
      simp [BitVec.and_assoc]
    · simp [e]

/-- An entry whose EN is clear stays as it is when EN is cleared. -/
theorem clear_en_of_disabled {e : BitVec 512} (h : qEn e = false) : e &&& ~~~((1 : BitVec 512) <<< 31) = e := by
  have h31 : e.getLsbD 31 = false := h
  apply BitVec.eq_of_getLsbD_eq
  intro i hi
  rw [BitVec.getLsbD_and, BitVec.getLsbD_not, BitVec.getLsbD_shiftLeft]
  by_cases e31 : i = 31
  · subst e31
    rw [h31, Bool.false_and]
  · by_cases l : i < 31
    · simp [hi, l]
    · have : i - 31 ≠ 0 := by omega
      simp [hi, this]

/-- With nothing in flight and no copies, a reset disables the function's queues and leaves the others. -/
theorem Still.qEntry_functionStopped {s : State} (h : Still s) (fn : Nat) {q : Nat} (hq : q < 256) :
    qEntry (functionStopped s fn) q =
      if qOwner (qEntry s q) = fn then qEntry s q &&& ~~~((1 : BitVec 512) <<< 31) else qEntry s q := by
  obtain ⟨hs, hent⟩ := h.foldl_disableQueue (ownQueues s fn) fun p hp => List.mem_range.1 (List.mem_of_mem_filter hp)
  have hy : qSync s q = (s, true) := h.copies.atHome ..
  have hown : q ∈ ownQueues s fn ↔ qOwner (qEntry s q) = fn ∧ qEn (qEntry s q) = true := by
    rw [ownQueues, List.mem_filter, hy]
    simp [upto, hq]
  rw [functionStopped, stopDisps_of_no_inflight hs.flights, hent q hq]
  by_cases ho : qOwner (qEntry s q) = fn
  · rw [if_pos ho]
    split
    next => rfl
    next hn => exact (clear_en_of_disabled (by simpa [hown, ho] using hn)).symm
  · rw [if_neg ho, if_neg fun hm => ho (hown.1 hm).1]

/-! ## The statement -/

/-- Settles O52: each request of the host by its own lemma; a function-level reset by what its stages keep. -/
theorem hostSteps : Obligations.HostSteps := by
  unfold Obligations.HostSteps
  refine ⟨fun s fn hb => host_endpoint_idle hb fn, ?doorbell, ?refused, ?window, ?host, ?reserved, ?reset⟩
  case doorbell =>
    intro fn q w s hb h1 h2 hq hat e hc ho hen hm
    have owns : OwnsQueue s fn q := ⟨hq, hc, qOwner_of_field h2 ho, hen, hm⟩
    refine ⟨fun ht hh hp => ⟨_, ?_, qPut_wr ht hq hh w.toNat⟩, ?_⟩
    · rw [exec_doorbellWrite_of_fn h1 h2, if_pos hb, doorbellWrite_of_owns hat owns hp]
    · rw [exec_vfWindowRequest_of_fn h1 h2, if_pos hb]
      exact congrArg _ (doorbellRead_of_owns h1 h2 hat owns)
  case refused =>
    intro fn off w s hb h1 h2 h hat
    rw [exec_doorbellWrite_of_fn h1 h2, if_pos hb, doorbellWrite_refused h hat]
  case window =>
    intro fn s q hb h1 h2 hq c len a
    refine ⟨fun h => ?_, fun u x w hc hm hin hl hx => ?_⟩
    · rw [exec_vfWindowRequest_of_fn h1 h2, if_pos hb, windowRequest_refused hq h]
    · intro pa hw hpa hat
      refine windowServed_of_issue (owner := fn) (fun hn => ?_) hw (by rw [hpa]; exact hl) hat
      rw [exec_vfWindowRequest_of_fn h1 h2, if_pos hb, windowRequest_translated hq hc hm hn hin hl hx]
  case host =>
    intro s q w hb hm hq hl hw hat
    refine windowServed_of_issue (owner := 0) (fun hn => ?_) hw hl hat
    rw [exec_hostRequest_of_bridge hb, hostAccess_of_window hq hm hn hl hw]
  case reserved =>
    intro s a n hb h1 hl h
    rw [exec_hostRequest_of_bridge hb, hostAccess_reserved h1 hl h]
  case reset =>
    intro s fn h1 h2
    obtain ⟨hsaves, -, hdist, hent⟩ := functionReset_spec s fn
    refine ⟨functionReset s fn, exec_functionLevelReset_of_fn h1 h2 s, mem_hostPend_functionReset s fn,
      hsaves, fun hq d hd hs ho => ?ended, fun hc hdir hh hw hf _ ht q hq => ?entries⟩
    case ended =>
      obtain ⟨hn, hearly⟩ := hs
      obtain ⟨x, hx, he⟩ := (endedId_stopDisps (p := fun d => d.owner == fn) hd hn hearly (beq_iff_eq.2 ho) 5 0x07).findDisp
      refine ⟨x, ?_, he⟩
      rw [findDisp, hdist, functionStopped, ownQueues_eq_nil hq]
      exact hx
    case entries =>
      rw [hent]
      exact Still.qEntry_functionStopped ⟨⟨hc, hdir, hh, hw⟩, hf, ht⟩ fn hq

end Sys2Proof.Claims
end

section
/-!
# The encoding of instructions

Each half of the statement goes through one fact: every constructor has its encoding law (R74, R82), and a slot word is put
together from its fields (R64), so that a word whose fields are those of an instruction is that instruction's word.
-/
namespace Sys2Proof

/-! ## Every instruction -/

/-- The law of each constructor that has a word; the steps of the device's units have none. -/
theorem Laws.Encoding.decode_encode (i : Instr) : Laws.Encoding.Statement i := by
  cases i with
  -- element instructions (R74)
  | nop => apply nop | mov => apply mov | movi => apply movi | movhi => apply movhi | sel => apply sel | pset => apply pset
  | tags => apply tags | halt => apply halt | send => apply send | sendo => apply sendo | drop => apply drop
  | relay => apply relay | lcnt => apply lcnt | ftset => apply ftset | arrive => apply arrive | fevt => apply fevt
  | add => apply add | sub => apply sub | adds => apply adds | subs => apply subs | addus => apply addus | subus => apply subus
  | mul => apply mul | mulh => apply mulh | mulhu => apply mulhu | mad => apply mad | addmin => apply addmin
  | addmax => apply addmax | min => apply min | max => apply max | minu => apply minu | maxu => apply maxu | absd => apply absd
  | and => apply and | or => apply or | xor => apply xor | andn => apply andn | shl => apply shl | shr => apply shr
  | sar => apply sar | rol => apply rol | popc => apply popc | clz => apply clz | cmpeq => apply cmpeq | cmplt => apply cmplt
  | cmpltu => apply cmpltu | dot4 => apply dot4 | sad => apply sad | addi => apply addi | andi => apply andi | ori => apply ori
  | xori => apply xori | shli => apply shli | shri => apply shri | sari => apply sari | cmpeqi => apply cmpeqi
  | cmplti => apply cmplti | ext => apply ext | ins => apply ins | lxor => apply lxor | lfun => apply lfun
  | lbcst => apply lbcst | txch => apply txch | tbcst => apply tbcst | tred => apply tred | lpack => apply lpack
  | lunpk => apply lunpk | fadd => apply fadd | fsub => apply fsub | fmul => apply fmul | fma => apply fma | fnma => apply fnma
  | fmin => apply fmin | fmax => apply fmax | fcmpeq => apply fcmpeq | fcmplt => apply fcmplt | fcmple => apply fcmple
  | fsgn => apply fsgn | frcp => apply frcp | frsq => apply frsq | fexp2 => apply fexp2 | flog2 => apply flog2
  | fsin => apply fsin | fcos => apply fcos | frnd => apply frnd | fdot2 => apply fdot2 | faddmin => apply faddmin
  | fclass => apply fclass | fscale => apply fscale | fsat => apply fsat | cvt => apply cvt | cvtn => apply cvtn
  | mxqSc => apply mxqSc | mxq => apply mxq | mxdq => apply mxdq | efld => apply efld | efst => apply efst | ld => apply ld
  | st => apply st | ldfKeep => apply ldfKeep | ldfClr => apply ldfClr | stf => apply stf | ldg => apply ldg | sts => apply sts
  | atom => apply atom | fenceFull => apply fenceFull | fenceRel => apply fenceRel | fenceAcq => apply fenceAcq
  | ldr => apply ldr | rclaim => apply rclaim | pref => apply pref | invl1 => apply invl1
  | fesetEmpty => apply fesetEmpty | fesetFull => apply fesetFull | brec => apply brec | tsync => apply tsync
  | rbox => apply rbox | rtri => apply rtri | spcfg => apply spcfg | seqt => apply seqt | seqtRst => apply seqtRst
  | edge => apply edge | ctlRead => apply ctlRead | ctlWrite => apply ctlWrite | trap => apply trap | bkpt => apply bkpt
  -- sequencer instructions (R82)
  | seqAdd => apply seqAdd | seqSub => apply seqSub | seqAnd => apply seqAnd | seqOr => apply seqOr | seqXor => apply seqXor
  | seqShl => apply seqShl | seqShr => apply seqShr | seqSar => apply seqSar | seqMul => apply seqMul | seqMulh => apply seqMulh
  | seqMulhu => apply seqMulhu | div => apply div | divu => apply divu | rem => apply rem | remu => apply remu
  | seqMin => apply seqMin | seqMax => apply seqMax | seqMinu => apply seqMinu | seqMaxu => apply seqMaxu | slt => apply slt
  | sltu => apply sltu | seqClz => apply seqClz | seqPopc => apply seqPopc | seqAddi => apply seqAddi | seqAndi => apply seqAndi
  | seqOri => apply seqOri | seqXori => apply seqXori | seqShli => apply seqShli | seqShri => apply seqShri
  | seqSari => apply seqSari | slti => apply slti | lhi => apply lhi | ldl => apply ldl | ldb => apply ldb | ldh => apply ldh
  | ldw => apply ldw | ldd => apply ldd | stb => apply stb | sth => apply sth | stw => apply stw | std => apply std
  | seqAtom => apply seqAtom | seqFenceFull => apply seqFenceFull | seqFenceRel => apply seqFenceRel
  | seqFenceAcq => apply seqFenceAcq | beq => apply beq | bne => apply bne | blt => apply blt | bge => apply bge
  | bltu => apply bltu | bgeu => apply bgeu | jmp => apply jmp | jal => apply jal | jr => apply jr | getc => apply getc
  | setc => apply setc | seqTrap => apply seqTrap | seqBkpt => apply seqBkpt | tret => apply tret | waite => apply waite
  | seqTsync => apply seqTsync | mctx => apply mctx | mctxClr => apply mctxClr | mrunMma => apply mrunMma
  | mrunZero => apply mrunZero | mrunLoad => apply mrunLoad | mrunWrite => apply mrunWrite | pump => apply pump
  | ldcfg => apply ldcfg | ldcfgClr => apply ldcfgClr | ldcfgCode => apply ldcfgCode | recfg => apply recfg
  | recfgEnd => apply recfgEnd | qput => apply qput | qget => apply qget | tbinit => apply tbinit | tbarr => apply tbarr
  | tbwait => apply tbwait | launch => apply launch | exit => apply exit | yield => apply yield | place => apply place
  | placeFrz => apply placeFrz | placeThaw => apply placeThaw | placeSt => apply placeSt | cutsel => apply cutsel
  | restripe => apply restripe | pwrmark => apply pwrmark | verify => apply verify
  | _ => ?_
  · apply Laws.Encoding.seal -- SEAL: its case has no plain name, since the word is a keyword of Lean
  all_goals exact no_word _ rfl rfl

/-! ## The two kinds of words -/

/-- No instruction has both a slot word and a sequencer word. -/
theorem not_elemWord_and_seqWord (i : Instr) : ((elemWord i).isSome && (seqWord i).isSome) = false := by
  cases i <;> rfl

theorem seqWord_of_elemWord {i : Instr} {w : ElemWord} (h : elemWord i = some w) : seqWord i = none := by
  simpa [h] using not_elemWord_and_seqWord i

theorem encode_of_elemWord {i : Instr} {w : ElemWord} (h : elemWord i = some w) : encode i = some (.elem w.pack) := by
  simp [encode, seqWord_of_elemWord h, h]

/-! ## The fields of a slot word -/

/-- Two neighbouring fields of a word are one field. -/
theorem extractLsb'_append {n : Nat} (x : BitVec n) (s m k t : Nat) (h : t = s + m) :
    x.extractLsb' t k ++ x.extractLsb' s m = x.extractLsb' s (k + m) := by
  subst h
  rw [BitVec.extractLsb'_append_extractLsb'_eq_extractLsb' rfl]

theorem pack_unpack (x : BitVec 64) : (ElemWord.unpack x).pack = x := by
  simp (disch := decide) only [ElemWord.pack, ElemWord.unpack, extractLsb'_append]
  exact ext_all x

/-! ## The decoder of slot words -/

/-- A legal word is the word of the well-formed instruction that it decodes to (R75). -/
theorem legalElem_eq_some {x : BitVec 64} {i : Instr} (h : legalElem x = some i) :
    i.wf = true ∧ elemWord i = some (ElemWord.unpack x) := by
  unfold legalElem at h
  split at h
  next =>
    split at h
    next hc => cases h; simpa using hc
    next => cases h
  next => cases h

/-- A slot word that is not empty is legal, or it fires as a faulty slot (R77). -/
theorem decodeElem_eq_some {x : BitVec 64} {i : Instr} (h : decodeElem x = some i) :
    i = .faultySlotFire (faultyCause x) ∨ legalElem x = some i := by
  unfold decodeElem at h
  split at h
  next => cases h
  next =>
    split at h
    next hl => exact .inr (hl.trans h)
    next => cases h; exact .inl rfl

end Sys2Proof

namespace Sys2Proof.Claims

/-- Settles O58: well-formed instructions by the law of each constructor; a slot word that is no faulty slot passed the decoder's
own comparison with its instruction's fields, and the fields give the word back. -/
theorem encodeThenDecode : Obligations.EncodeThenDecode := by
  unfold Obligations.EncodeThenDecode
  refine ⟨fun i c hw hc => Laws.Encoding.decode_encode i hw c hc, fun x i hd => ?_⟩
  rcases decodeElem_eq_some hd with hf | hl
  · exact .inl ⟨_, hf⟩
  · obtain ⟨hw, he⟩ := legalElem_eq_some hl
    exact .inr ⟨hw, by rw [encode_of_elemWord he, pack_unpack]⟩

end Sys2Proof.Claims
end

section
/-!
# What an instruction of the sequencer leaves

A sequencer's instruction that completes goes on with `setPc`, one that traps with `takeTrap`; both change nothing outside the
sequencer (R281, R438).
-/
namespace Sys2Proof.Claims
open Sys2Proof.Machine

/-! ## Frames -/

/-- A change of a sequencer alone. -/
theorem onlySeq_modSeq (s : State) (r : Nat) (f : Seq → Seq) : OnlySeq r s (modSeq s r f) where
  region := by rw [getR_modSeq]; rfl
  regions _ h := getR_modR_other _ _ _ _ h
  elems _ := rfl
  mem _ := rfl
  device := rfl

/-- PC's mask keeps bits [56:2] (R281). -/
theorem setPc_pc_eq_pcOf (q : Seq) (p : BitVec 64) : (setPc q p).pc = pcOf p := rfl

theorem seqRest_setPc_setS (q : Seq) (d : BitVec 5) (v p : BitVec 64) : SeqRest q (setPc (setS q d v) p) := by
  unfold SeqRest setPc setS dropWait
  split <;> rfl

/-! ## Completion -/

/-- The sequencer goes to an address and nothing else changes. -/
theorem goes_modSeq {s : State} {f : Seq → Seq} {p : BitVec 64} (hf : f (hereSeq s) = setPc (hereSeq s) p) :
    Goes (pcOf p) s (modSeq s (here s) f) := by
  have hq : getSeq (modSeq s (here s) f) (here s) = setPc (hereSeq s) p := (getSeq_modSeq ..).trans hf
  exact
    { pc := by rw [hq, setPc_pc_eq_pcOf]
      regs := fun n => by rw [hq, getS_setPc, reg]
      rest := by rw [hq]; rfl
      frame := onlySeq_modSeq .. }

/-- The sequencer writes a register and goes to an address, and nothing else changes. -/
theorem writes_modSeq {s : State} {f : Seq → Seq} {d : BitVec 5} {v p : BitVec 64}
    (hf : f (hereSeq s) = setPc (setS (hereSeq s) d v) p) : Writes d v (pcOf p) s (modSeq s (here s) f) := by
  have hq : getSeq (modSeq s (here s) f) (here s) = setPc (setS (hereSeq s) d v) p := (getSeq_modSeq ..).trans hf
  exact
    { dest := by
        rw [hq, getS_setPc]
        by_cases hd : d = 0
        · rw [hd, getS_zero, if_pos rfl]
        · rw [getS_setS, if_pos ⟨rfl, hd⟩, if_neg hd]
      regs := fun n hn => by rw [hq, getS_setPc, getS_setS, if_neg fun h => hn h.1, reg]
      pc := by rw [hq, setPc_pc_eq_pcOf]
      rest := by rw [hq]; exact seqRest_setPc_setS ..
      frame := onlySeq_modSeq .. }

/-! ## Traps (R438) -/

theorem takesTrap_takeTrap (s : State) (r : Nat) (cause : BitVec 8) (src : Nat) (async : Bool) (val : BitVec 64) :
    TakesTrap r cause src async val s (takeTrap s r cause src async val) := by
  obtain ⟨hq, hregs, -, -⟩ := takeTrap_spec s r cause src async val
  exact
    { tpc := by rw [hq]
      cause := by rw [hq]; rfl
      value := by rw [hq]
      pmode := by rw [hq]
      mode := by rw [hq]
      pc := by rw [hq]
      regs := hregs
      rest := by rw [hq]; rfl
      frame := onlySeq_modSeq .. }

/-- An instruction that takes a synchronous trap. -/
theorem traps_seqTrap (s : State) (cause : BitVec 8) (val : BitVec 64) : Traps cause val s (seqTrap s (here s) cause val) :=
  takesTrap_takeTrap ..

end Sys2Proof.Claims
end

section
/-!
# Branches and jumps of the sequencer

Each branch is one operation with a condition of its own; the model's conditions compare numbers, the statement's compare words
(R84, R292).
-/
namespace Sys2Proof.Claims
open Sys2Proof.Machine

/-! ## Conditions -/

theorem sext_toNat {w : Nat} (x : BitVec w) (hw : 0 < w) : sext w x.toNat = x.toInt := by
  obtain ⟨n, rfl⟩ : ∃ n, w = n + 1 := ⟨w - 1, by omega⟩
  have hp : 2 ^ (n + 1) = 2 * 2 ^ n := Nat.pow_succ'
  rw [sext, BitVec.toInt_eq_toNat_cond, Nat.mod_eq_of_lt x.isLt, Nat.add_sub_cancel]
  split <;> split <;> omega

theorem aluSigned_eq_toInt (x : BitVec 64) : aluSigned x = x.toInt := sext_toNat x (by decide)

theorem decide_aluSigned_lt (x y : BitVec 64) : decide (aluSigned x < aluSigned y) = x.slt y := by
  rw [aluSigned_eq_toInt, aluSigned_eq_toInt, BitVec.slt]

theorem decide_aluSigned_le (x y : BitVec 64) : decide (aluSigned y ≤ aluSigned x) = !x.slt y := by
  simp only [aluSigned_eq_toInt, BitVec.slt, ← decide_not, Int.not_lt]

theorem decide_toNat_lt (x y : BitVec 64) : decide (x.toNat < y.toNat) = x.ult y := rfl

theorem decide_toNat_le (x y : BitVec 64) : decide (y.toNat ≤ x.toNat) = !x.ult y := by
  simp only [BitVec.ult, ← decide_not, Nat.not_lt]

/-! ## Targets -/

/-- The target of a branch is PC plus four times its offset (R84). -/
theorem pcTarget_eq (pc : BitVec 64) {w : Nat} (o : BitVec w) : pc + (o.signExtend 64 <<< 2) = pc + 4 * o.signExtend 64 := by
  rw [BitVec.shiftLeft_eq_mul_twoPow, BitVec.mul_comm]
  rfl

/-- A branch goes to its target where its condition holds, and on to the next instruction where it does not. -/
theorem branch_goes (a b : BitVec 5) (o : BitVec 16) (c c' : BitVec 64 → BitVec 64 → Bool) (hc : ∀ x y, c x y = c' x y) (s : State) :
    ∃ t, branch a b o c s = .next t ∧
      Goes (if c' (reg s a) (reg s b) then pcOf ((hereSeq s).pc + 4 * o.signExtend 64) else nextPcOf s) s t := by
  refine ⟨_, rfl, ?_⟩
  rw [← hc, ← pcTarget_eq]
  cases h : c (reg s a) (reg s b) with
  | true => exact goes_modSeq (if_pos h)
  | false => exact goes_modSeq (if_neg (Bool.not_eq_true _ ▸ h))

/-- JAL links and jumps. -/
theorem exec_jal_writes (o : BitVec 26) (s : State) : ∃ t, exec (.jal o) s = .next t ∧
    Writes 31 ((hereSeq s).pc + 4) (pcOf ((hereSeq s).pc + 4 * o.signExtend 64)) s t := by
  rw [exec_jal, ← pcTarget_eq]
  exact ⟨_, rfl, writes_modSeq rfl⟩

theorem exec_jmp_goes (o : BitVec 26) (s : State) : ∃ t, exec (.jmp o) s = .next t ∧
    Goes (pcOf ((hereSeq s).pc + 4 * o.signExtend 64)) s t := by
  rw [exec_jmp, ← pcTarget_eq]
  exact ⟨_, rfl, goes_modSeq rfl⟩

/-! ## The statement -/

/-- Settles O2: the six branches are one operation, and JR divides on bits [1:0] of its target (R84). -/
theorem sequencerBranches : Obligations.SequencerBranches := by
  unfold Obligations.SequencerBranches
  refine ⟨⟨fun p hp a b o s => ?branches, exec_jmp_goes, exec_jal_writes, fun d a s h => ?aligned⟩, fun d a s h => ?misaligned⟩
  case branches =>
    simp only [branchConditions, List.mem_cons, List.not_mem_nil, or_false] at hp
    rcases hp with rfl | rfl | rfl | rfl | rfl | rfl
    · exact branch_goes a b o _ _ (fun _ _ => rfl) s
    · exact branch_goes a b o _ _ (fun _ _ => rfl) s
    · exact branch_goes a b o _ _ decide_aluSigned_lt s
    · exact branch_goes a b o _ _ decide_aluSigned_le s
    · exact branch_goes a b o _ _ decide_toNat_lt s
    · exact branch_goes a b o _ _ decide_toNat_le s
  case aligned =>
    rw [exec_jr]
    refine ⟨_, congrArg Host.Outcome.next (if_neg (not_not.2 h)), writes_modSeq rfl⟩
  case misaligned =>
    rw [exec_jr]
    exact ⟨_, congrArg Host.Outcome.next (if_pos h), traps_seqTrap ..⟩

end Sys2Proof.Claims
end

section
/-!
# Traps of the sequencer

The instructions that only trap, and the choice among the asynchronous traps: a fold over the pending ones and the head of the element
trap queue keeps one of the lowest class (R436, R438).
-/
namespace Sys2Proof.Claims
open Sys2Proof.Machine

/-! ## The pending trap of the lowest class -/

/-- The element trap queue as a pending trap: its head, of class 2, with the cause of the record (R436, R442). -/
def queueTraps (x : Region) : List AsyncTrap := x.etq.head?.toList.map fun h => ⟨2, h.extractLsb' 32 8, 1, 0⟩

/-- The traps among which a boundary chooses. -/
def dueTraps (x : Region) : List AsyncTrap := x.seq.pending ++ queueTraps x

/-- Of two traps the one of the lower class, and of one class the first. -/
def lowerTrap (a : Option AsyncTrap) (t : AsyncTrap) : Option AsyncTrap :=
  match a with
  | none => some t
  | some b => if t.cls < b.cls then some t else some b

theorem ofNat_field_39_32 (h : BitVec 1024) : BitVec.ofNat 8 (field h.toNat 39 32) = h.extractLsb' 32 8 := by
  apply BitVec.eq_of_toNat_eq
  rw [BitVec.toNat_ofNat, BitVec.extractLsb'_toNat, field, Nat.shiftRight_eq_div_pow, Nat.mod_mod]

theorem pendingTrap_eq_foldl (x : Region) : pendingTrap x = (dueTraps x).foldl lowerTrap none := by
  have hstep : (fun (a : Option AsyncTrap) (t : AsyncTrap) =>
      match a with | some b => if t.cls < b.cls then some t else some b | none => some t) = lowerTrap := by
    funext a t
    cases a <;> rfl
  unfold pendingTrap dueTraps queueTraps
  refine (congrArg (fun f => List.foldl f none _) hstep).trans (congrArg (fun l => List.foldl lowerTrap none (x.seq.pending ++ l)) ?_)
  cases x.etq with
  | nil => rfl
  | cons r l => exact congrArg (fun c => [(⟨2, c, 1, 0⟩ : AsyncTrap)]) (ofNat_field_39_32 r)

/-- From one trap on, the fold keeps a trap of the list or that one, and none is of a lower class. -/
theorem foldl_lowerTrap_some (l : List AsyncTrap) (b : AsyncTrap) :
    ∃ p, l.foldl lowerTrap (some b) = some p ∧ (p = b ∨ p ∈ l) ∧ ∀ y ∈ b :: l, p.cls ≤ y.cls := by
  induction l generalizing b with
  | nil => exact ⟨b, rfl, .inl rfl, fun y hy => (List.mem_singleton.1 hy ▸ Nat.le_refl _)⟩
  | cons t l ih =>
    rw [List.foldl_cons, lowerTrap]
    split
    next ht =>
      obtain ⟨p, hp, hmem, hmin⟩ := ih t
      have hpt := hmin t List.mem_cons_self
      refine ⟨p, hp, .inr (List.mem_cons.2 hmem), fun y hy => ?_⟩
      rcases List.mem_cons.1 hy with rfl | hy
      · omega
      · exact hmin y hy
    next ht =>
      obtain ⟨p, hp, hmem, hmin⟩ := ih b
      have hpb := hmin b List.mem_cons_self
      refine ⟨p, hp, hmem.imp_right (List.mem_cons_of_mem t), fun y hy => ?_⟩
      rcases List.mem_cons.1 hy with rfl | hy
      · exact hpb
      · rcases List.mem_cons.1 hy with rfl | hy
        · omega
        · exact hmin y (List.mem_cons_of_mem b hy)

/-- Where traps are due, one of the lowest class is chosen. -/
theorem pendingTrap_lowest {x : Region} (h : dueTraps x ≠ []) :
    ∃ p, pendingTrap x = some p ∧ p ∈ dueTraps x ∧ ∀ y ∈ dueTraps x, p.cls ≤ y.cls := by
  rw [pendingTrap_eq_foldl]
  cases hl : dueTraps x with
  | nil => exact absurd hl h
  | cons b l =>
    obtain ⟨p, hp, hmem, hmin⟩ := foldl_lowerTrap_some l b
    exact ⟨p, hp, List.mem_cons.2 hmem, hmin⟩

theorem mem_queueTraps {x : Region} {p : AsyncTrap} :
    p ∈ queueTraps x ↔ ∃ h l, x.etq = h :: l ∧ p = ⟨2, h.extractLsb' 32 8, 1, 0⟩ := by
  unfold queueTraps
  cases x.etq with
  | nil => simp
  | cons h l => simp

theorem queueTraps_eq_nil {x : Region} : queueTraps x = [] ↔ x.etq = [] := by
  unfold queueTraps
  cases x.etq <;> simp

/-! ## Taking it -/

/-- At a boundary in team mode the chosen trap leaves the list and is taken. -/
theorem exec_asyncTrapTake_of_pending {r : Nat} {s : State} {p : AsyncTrap} (hr : regionOk r = true) (hsup : (getSeq s r).sup = false)
    (hasked : (getSeq s r).asked = false) (hexit : (getSeq s r).exiting = false) (hp : pendingTrap (getR s r) = some p) :
    exec (.asyncTrapTake r) s =
      .next (takeTrap (modSeq s r fun q => { q with pending := removeFirst (fun y => y == p) q.pending }) r p.cause p.src true p.val) := by
  have hbusy : ((getSeq s r).sup || (getSeq s r).asked || (getSeq s r).exiting) = false := by rw [hsup, hasked, hexit]; rfl
  rw [exec_asyncTrapTake, execAsyncTrapTake, withUnit_of_ok hr]
  dsimp only
  rw [hp]
  exact congrArg Host.Outcome.next (if_neg (Bool.eq_false_iff.1 hbusy))

/-! ## The statement -/

/-- Settles O7: the trapping instructions are `seqTrap`, and the asynchronous trap that is taken is the fold's choice. -/
theorem sequencerTraps : Obligations.SequencerTraps := by
  unfold Obligations.SequencerTraps
  refine ⟨⟨fun n s => ⟨_, exec_seqTrap n s, traps_seqTrap ..⟩, fun n s => ⟨_, exec_seqBkpt n s, traps_seqTrap ..⟩,
    fun c s => ⟨_, exec_illegalInstruction c s, traps_seqTrap ..⟩,
    fun c s => ⟨_, exec_instructionFetchFault c s, traps_seqTrap ..⟩⟩, fun r s hr hsup hasked hexit hdue => ?_⟩
  have hne : dueTraps (getR s r) ≠ [] := by
    rw [dueTraps, Ne, List.append_eq_nil_iff, queueTraps_eq_nil, not_and_or]
    exact hdue
  obtain ⟨p, hp, hmem, hmin⟩ := pendingTrap_lowest hne
  refine ⟨p, _, _, exec_asyncTrapTake_of_pending hr hsup hasked hexit hp, takesTrap_takeTrap .., rfl, ?_,
    fun y hy => hmin y (List.mem_append_left _ hy), fun hq => ?_⟩
  · exact (List.mem_append.1 hmem).imp_right mem_queueTraps.1
  · obtain ⟨h, l, hl⟩ := List.exists_cons_of_ne_nil hq
    exact hmin ⟨2, h.extractLsb' 32 8, 1, 0⟩ (List.mem_append_right _ (mem_queueTraps.2 ⟨h, l, hl, rfl⟩))

end Sys2Proof.Claims
end

section
/-!
# Steps of the device

What `step` comes to for each kind of agent: a sequencer with its instruction resident in the instruction cache, an element that fires
the slot that it picks, a unit, and an agent that does not move (R33, R89, R101, R285).
-/
namespace Sys2Proof.Claims
open Sys2Proof.Machine

/-! ## The agent whose turn it is -/

theorem mayMove_seq (s : State) (r : Nat) : mayMove s (.seq r) = !s.minimal := rfl
theorem mayMove_elem (s : State) (r st el : Nat) : mayMove s (.elem r st el) = !s.minimal := rfl
theorem mayMove_tick (s : State) (r : Nat) : mayMove s (.tick r) = !s.minimal := rfl
theorem mayMove_event (s : State) (i : Instr) : mayMove s (.event i) = (isUnitStep i && (!s.minimal || worksMinimal i)) := rfl

theorem step_of_not_mayMove {s : State} (h : mayMove s s.turn = false) : step s = .next (advance s) := by
  unfold step
  rw [h]
  rfl

theorem step_seq {s : State} {r : Nat} (ht : s.turn = .seq r) (hf : s.minimal = false) : step s = thenAdvance (seqStep s r) := by
  unfold step
  rw [ht, mayMove_seq, hf]
  rfl

theorem step_elem {s : State} {r st el : Nat} (ht : s.turn = .elem r st el) (hf : s.minimal = false) :
    step s = thenAdvance (elemStep s r st el) := by
  unfold step
  rw [ht, mayMove_elem, hf]
  rfl

theorem step_event {s : State} {i : Instr} (ht : s.turn = .event i) (hi : isUnitStep i = true)
    (hm : s.minimal = false ∨ worksMinimal i = true) : step s = thenAdvance (exec i s) := by
  have h : mayMove s (.event i) = true := by rcases hm with h | h <;> simp [mayMove_event, hi, h]
  unfold step
  rw [ht, h]
  rfl

/-- In minimal mode only time and the steps that work in it move (R33). -/
theorem mayMove_minimal {s : State} (hm : s.minimal = true) (ht : s.turn ≠ .time)
    (hi : ∀ i, s.turn = .event i → worksMinimal i = false) : mayMove s s.turn = false := by
  cases h : s.turn with
  | seq r => rw [mayMove_seq, hm, Bool.not_true]
  | elem r st el => rw [mayMove_elem, hm, Bool.not_true]
  | event i => rw [mayMove_event, hm, hi i h, Bool.not_true, Bool.or_self, Bool.and_false]
  | tick r => rw [mayMove_tick, hm, Bool.not_true]
  | time => exact absurd h ht

/-! ## Sequencers -/

/-- A permitted line in the instruction cache gives the instruction whose bytes lie in it (R89). -/
theorem fetch_hit {s : State} {r : Nat} {x : Xlat} {c : CacheLine} (hx : seqUse s r (getSeq s r).pc.toNat 3 = .ok s x)
    (hp : ∃ p ∈ (getSeq s r).permits, p.1 = (getSeq s r).pc.toNat / 64)
    (hc : (getSeq s r).icache.find? (fun c => c.line == (viaOf x (getSeq s r).pc.toNat).pa / 64) = some c) :
    fetch s r = .instr (lineInstr c.data (viaOf x (getSeq s r).pc.toNat).pa) s := by
  obtain ⟨p, hmem, hline⟩ := hp
  have hpermit : ((getSeq s r).permits.any fun p => p.1 == (getSeq s r).pc.toNat / 64) = true :=
    List.any_eq_true.2 ⟨p, hmem, by rw [hline, beq_self_eq_true]⟩
  unfold fetch
  dsimp only
  rw [hx]
  dsimp only
  rw [hpermit, hc]
  rfl

theorem fetch_of_resident {s : State} {r : Nat} {i : Instr} (h : Resident s r i) :
    fetch (focusSeq s r) r = .instr i (focusSeq s r) := by
  obtain ⟨x, c, hx, hc, rfl⟩ := h.word
  exact fetch_hit (s := focusSeq s r) hx h.permit hc

theorem seqStep_of_resident {s : State} {r : Nat} {i : Instr} (h : Resident s r i) :
    seqStep s r = exec i (focusSeq s r) := by
  have hstops : (!regionOk r || !seqActs (getR (focusSeq s r) r)) = false := by
    rw [show regionOk r = true from decide_eq_true h.region, show seqActs (getR (focusSeq s r) r) = true from h.acts]
    rfl
  unfold seqStep
  dsimp only
  rw [hstops, show trapDue (getR (focusSeq s r) r) = false from h.quiet,
    show (getSeq (focusSeq s r) r).exiting = false from h.live, fetch_of_resident h]
  rfl

/-- A sequencer that does not act leaves everything but the focus. -/
theorem seqStep_of_not_seqActs {s : State} {r : Nat} (h : seqActs (getR s r) = false) : seqStep s r = .next (focusSeq s r) := by
  unfold seqStep
  dsimp only
  rw [show seqActs (getR (focusSeq s r) r) = false from h, Bool.not_false, Bool.or_true]
  rfl

/-! ## Elements -/

/-- A slot word with V = 0 is no instruction (R65). -/
theorem decodeElem_of_empty {w : BitVec 64} (h : w.getLsbD 63 = false) : decodeElem w = none := by
  have hv : (w.extractLsb' 63 1 == 0#1) = true := by
    rw [beq_iff_eq]
    apply BitVec.eq_of_getLsbD_eq
    intro i hi
    obtain rfl : i = 0 := by omega
    simpa using h
  rw [decodeElem, hv]
  rfl

theorem slotInstr_focusSlot (s : State) (r st el n : Nat) :
    slotInstr (focusSlot s r st el n) = decodeElem (tget (getE s (ekey r st el)).slots n 0) := rfl

/-- An empty slot is passed over. -/
theorem pick_cons_of_empty {s : State} {r st el n : Nat} (l : List Nat)
    (h : (tget (getE s (ekey r st el)).slots n 0).getLsbD 63 = false) : pick s r st el (n :: l) = pick s r st el l := by
  rw [pick, slotInstr_focusSlot, decodeElem_of_empty h]

theorem pick_append_of_empty {s : State} {r st el : Nat} (l l' : List Nat)
    (h : ∀ m ∈ l, (tget (getE s (ekey r st el)).slots m 0).getLsbD 63 = false) : pick s r st el (l ++ l') = pick s r st el l' := by
  induction l with
  | nil => rfl
  | cons m l ih =>
    rw [List.cons_append, pick_cons_of_empty _ (h m List.mem_cons_self)]
    exact ih fun k hk => h k (List.mem_cons_of_mem m hk)

/-- A slot that fires ends the pick. -/
theorem pick_cons_of_fired {s u : State} {r st el n : Nat} {i : Instr} (l : List Nat)
    (hi : decodeElem (tget (getE s (ekey r st el)).slots n 0) = some i) (hu : exec i (focusSlot s r st el n) = .next u)
    (hf : fired (focusSlot s r st el n) u (ekey r st el) = true) : pick s r st el (n :: l) = .next u := by
  rw [pick, slotInstr_focusSlot, hi]
  dsimp only
  rw [hu]
  exact if_pos hf

/-- The slots below n, then n, then the others. -/
theorem upto_split {n k : Nat} (h : n < k) : ∃ l, upto k = List.range n ++ n :: l := by
  obtain ⟨d, rfl⟩ := Nat.exists_eq_add_of_lt h
  refine ⟨(List.range d).map fun j => n + 1 + j, ?_⟩
  rw [upto, Nat.add_right_comm, List.range_add, List.range_succ, List.append_assoc, List.singleton_append]

theorem elemStep_of_picks {s u : State} {r st el n : Nat} {i : Instr} (h : Picks s r st el n i)
    (hu : exec i (focusSlot s r st el n) = .next u) (hf : fired (focusSlot s r st el n) u (ekey r st el) = true) :
    elemStep s r st el = .next u := by
  obtain ⟨l, hl⟩ := upto_split h.slot
  rw [elemStep, h.unit, h.pick, Bool.and_self, if_pos rfl, hl,
    pick_append_of_empty _ _ fun m hm => h.lower m (List.mem_range.1 hm), pick_cons_of_fired l h.word hu hf]

/-! ## The statement -/

/-- Settles O55: `step` for each kind of agent, and no more than the focus changes where a sequencer does not act. -/
theorem stepRuns : Obligations.StepRuns := by
  unfold Obligations.StepRuns
  refine ⟨fun s r i h => ?sequencer, fun s r st el n i u h hu hf => ?element, fun s i => step_event, fun s r ht ha => ?idle,
    fun s hm ht hi => step_of_not_mayMove (mayMove_minimal hm ht hi), fun t => rfl⟩
  case sequencer => rw [step_seq h.turn h.full, seqStep_of_resident h]
  case element =>
    have hfired : fired (focusSlot s r st el n) u (ekey r st el) = true := by
      rw [fired, Bool.or_eq_true, bne_iff_ne, bne_iff_ne]
      exact hf
    rw [step_elem h.turn h.full, elemStep_of_picks h hu hfired]
    rfl
  case idle =>
    cases hm : s.minimal with
    | true =>
      exact ⟨_, step_of_not_mayMove (by rw [ht, mayMove_seq, hm, Bool.not_true]), fun _ => rfl, fun _ => rfl, fun _ => rfl⟩
    | false =>
      rw [step_seq ht hm, seqStep_of_not_seqActs ha]
      exact ⟨_, rfl, fun _ => rfl, fun _ => rfl, fun _ => rfl⟩

end Sys2Proof.Claims
end

section
/-!
# Words of the spec's examples

A word of the spec's tables stands for the instruction whose word it is; the two words without an instruction give the traps of R87
and R89.
-/
namespace Sys2Proof.Claims
open Sys2Proof.Machine

/-- Settles O57: the examples are the words of their instructions, and a well-formed instruction's word decodes to it. -/
theorem decodeWords : Obligations.DecodeWords := by
  unfold Obligations.DecodeWords
  obtain ⟨decode_of_encode, -⟩ := encodeThenDecode
  have seqExamples : ∀ p ∈ seqWords.take 8, p.2.wf = true ∧ encode p.2 = some (.seq p.1) := by decide +kernel
  have seqTraps : ∀ p ∈ seqWords.drop 8, decode (.seq p.1) = some p.2 := by decide +kernel
  have slotExamples : ∀ p ∈ slotWords, p.2.wf = true ∧ encode p.2 = some (.elem p.1) := by decide +kernel
  refine ⟨fun p hp => ?_, fun p hp => decode_of_encode _ _ (slotExamples p hp).1 (slotExamples p hp).2, by decide +kernel⟩
  rw [← List.take_append_drop 8 seqWords] at hp
  rcases List.mem_append.1 hp with h | h
  · exact decode_of_encode _ _ (seqExamples p h).1 (seqExamples p h).2
  · exact seqTraps p h

end Sys2Proof.Claims
end

section
/-!
# Bytes of a line as fields of it

The model reads and writes a line byte by byte, with a mask of one bit for each byte; the statements speak of the field of 8·n bits from
a byte on (R5).
-/
namespace Sys2Proof.Machine

/-! ## Reading -/

theorem lineBytes_succ (l : Line) (j n : Nat) : lineBytes l j (n + 1) = lineByte l j :: lineBytes l (j + 1) n := by
  simp only [lineBytes, upto, List.range_succ_eq_map, List.map_cons, List.map_map, Nat.add_zero]
  congr 1
  exact List.map_congr_left fun i _ => congrArg (lineByte l) (show j + (i + 1) = j + 1 + i by omega)

/-- The number of n bytes of a line is the field that they fill. -/
theorem leVal_lineBytes (l : Line) (j n : Nat) : leVal (lineBytes l j n) = (l.extractLsb' (8 * j) (8 * n)).toNat := by
  induction n generalizing j with
  | zero => simp [lineBytes, upto, leVal, Nat.mod_one]
  | succ n ih =>
    have hpow : 2 ^ (8 * (n + 1)) = 256 * 2 ^ (8 * n) := by rw [Nat.mul_succ, Nat.pow_add, Nat.mul_comm]
    have hdiv : l.toNat / 2 ^ (8 * (j + 1)) = l.toNat / 2 ^ (8 * j) / 256 := by
      rw [Nat.div_div_eq_div_mul, Nat.mul_succ, Nat.pow_add]
    rw [lineBytes_succ, leVal, ih, lineByte]
    simp only [BitVec.extractLsb'_toNat, Nat.shiftRight_eq_div_pow]
    rw [hdiv, hpow, Nat.mod_mul]

/-! ## Masks -/

/-- The masks of the lowest n bytes, as the bits of a line. -/
theorem testBit_foldl_maskBits (m : BitVec 64) (n i : Nat) :
    (((List.range n).foldl (fun a j => if m.getLsbD j then a + 255 * 2 ^ (8 * j) else a) 0).testBit i =
      (decide (i < 8 * n) && m.getLsbD (i / 8))) ∧
    (List.range n).foldl (fun a j => if m.getLsbD j then a + 255 * 2 ^ (8 * j) else a) 0 < 2 ^ (8 * n) := by
  induction n with
  | zero => simp
  | succ n ih =>
    obtain ⟨hbit, hlt⟩ := ih
    have hpow : 2 ^ (8 * (n + 1)) = 256 * 2 ^ (8 * n) := by rw [Nat.mul_succ, Nat.pow_add, Nat.mul_comm]
    rw [List.range_succ, List.foldl_append, List.foldl_cons, List.foldl_nil]
    split
    next hm =>
      refine ⟨?_, by omega⟩
      rw [Nat.add_comm, Nat.mul_comm 255, Nat.testBit_two_pow_mul_add _ hlt, hbit,
        show (255 : Nat) = 2 ^ 8 - 1 from rfl, Nat.testBit_two_pow_sub_one]
      by_cases h : i < 8 * n
      · simp [h, show i < 8 * (n + 1) by omega]
      · by_cases h' : i < 8 * (n + 1)
        · simp [h, h', show i - 8 * n < 8 by omega, show i / 8 = n by omega, hm]
        · simp [h, h', show ¬ i - 8 * n < 8 by omega]
    next hm =>
      refine ⟨?_, by omega⟩
      rw [hbit]
      by_cases h : i < 8 * n
      · simp [h, show i < 8 * (n + 1) by omega]
      · by_cases h' : i < 8 * (n + 1)
        · simp [h, h', show i / 8 = n by omega, hm]
        · simp [h, h']

/-- A byte's mask bit stands for its eight bits. -/
theorem getLsbD_maskBits (m : BitVec 64) {i : Nat} (hi : i < 512) : (maskBits m).getLsbD i = m.getLsbD (i / 8) := by
  rw [maskBits, BitVec.getLsbD_ofNat, upto, (testBit_foldl_maskBits m 64 i).1, decide_eq_true hi,
    Bool.true_and, Bool.true_and]

theorem getLsbD_mergeLine (old new : Line) (m : BitVec 64) {i : Nat} (hi : i < 512) :
    (mergeLine old new m).getLsbD i = if m.getLsbD (i / 8) then new.getLsbD i else old.getLsbD i := by
  simp only [mergeLine, BitVec.getLsbD_or, BitVec.getLsbD_and, BitVec.getLsbD_not, getLsbD_maskBits m hi, hi, decide_true,
    Bool.true_and]
  cases m.getLsbD (i / 8) <;> simp

/-- Merging what has been merged already changes nothing. -/
theorem mergeLine_mergeLine (old new : Line) (m : BitVec 64) : mergeLine old (mergeLine old new m) m = mergeLine old new m := by
  apply BitVec.eq_of_getLsbD_eq
  intro i hi
  rw [getLsbD_mergeLine _ _ _ hi, getLsbD_mergeLine _ _ _ hi]
  split <;> rfl

/-- The mask of placed bytes depends on their number alone. -/
theorem placeBytes_mask_congr {j : Nat} {bs bs' : List Byte} (h : bs.length = bs'.length) :
    (placeBytes j bs).2 = (placeBytes j bs').2 := by
  rw [placeBytes, placeBytes, h]

/-! ## Writing -/

/-- The bits of a line that holds the bytes of a number from byte j on. -/
theorem getLsbD_placeBytes_bytesOf (j n v : Nat) {i : Nat} (hi : i < 512) :
    (placeBytes j (bytesOf n v)).1.getLsbD i = (decide (8 * j ≤ i ∧ i < 8 * j + 8 * n) && v.testBit (i - 8 * j)) := by
  rw [placeBytes, leVal_bytesOf, BitVec.getLsbD_ofNat, Nat.testBit_mul_two_pow, Nat.testBit_mod_two_pow, decide_eq_true hi,
    Bool.true_and, ← Bool.and_assoc, ← Bool.decide_and]
  congr 2
  apply propext
  omega

end Sys2Proof.Machine

namespace Sys2Proof.Claims
open Sys2Proof.Machine

theorem getLsbD_lineWith (d : Line) (pa n : Nat) (v : BitVec 64) {i : Nat} (hi : i < 512) :
    (lineWith d pa n v).getLsbD i =
      if 8 * (pa % 64) ≤ i ∧ i < 8 * (pa % 64) + 8 * n then v.getLsbD (i - 8 * (pa % 64)) else d.getLsbD i := by
  simp only [lineWith, BitVec.getLsbD_or, BitVec.getLsbD_and, BitVec.getLsbD_not, BitVec.getLsbD_shiftLeft, BitVec.getLsbD_setWidth,
    BitVec.getLsbD_allOnes, BitVec.getLsbD_extractLsb', hi, decide_true, Bool.true_and, Nat.zero_add]
  by_cases h : 8 * (pa % 64) ≤ i
  · have hl : i - 8 * (pa % 64) < 512 := by omega
    by_cases h' : i < 8 * (pa % 64) + 8 * n
    · simp [h, h', hl, Nat.not_lt.2 h, show i - 8 * (pa % 64) < 8 * n by omega]
    · simp [h, h', hl, Nat.not_lt.2 h, show ¬ i - 8 * (pa % 64) < 8 * n by omega]
  · simp [h, Nat.lt_of_not_le h]

/-- A masked write of the bytes of a number is the line with that field replaced. -/
theorem mergeLine_placeBytes (d : Line) (pa n : Nat) (v : BitVec 64) :
    mergeLine d (placeBytes (pa % 64) (bytesOf n v.toNat)).1 (placeBytes (pa % 64) (bytesOf n v.toNat)).2 = lineWith d pa n v := by
  apply BitVec.eq_of_getLsbD_eq
  intro i hi
  have hplace : (pa % 64 ≤ i / 8 ∧ i / 8 < pa % 64 + n) ↔ (8 * (pa % 64) ≤ i ∧ i < 8 * (pa % 64) + 8 * n) := by omega
  rw [getLsbD_mergeLine _ _ _ hi, getLsbD_placeBytes _ _ (by omega), length_bytesOf, getLsbD_lineWith _ _ _ _ hi]
  simp only [decide_eq_true_eq, hplace]
  split
  next h => rw [getLsbD_placeBytes_bytesOf _ _ _ hi, decide_eq_true h, Bool.true_and, BitVec.testBit_toNat]
  next => rfl

end Sys2Proof.Claims
end

section
/-!
# Atomics of the sequencer on a line that its die owns

The value of an atomic as words of 8·n bits (R86), the line that it leaves in the die's cistern (R291), and the sequencer's own step.
-/
namespace Sys2Proof.Claims
open Sys2Proof.Machine

/-! ## Values -/

theorem sext_le_sext {w : Nat} (hw : 0 < w) (a b : BitVec w) : (sext w a.toNat ≤ sext w b.toNat) = (a.sle b = true) := by
  rw [sext_toNat a hw, sext_toNat b hw, BitVec.sle, decide_eq_true_eq]

theorem toNat_le_eq_ule {w : Nat} (a b : BitVec w) : (a.toNat ≤ b.toNat) = (a.ule b = true) := by
  rw [BitVec.ule, decide_eq_true_eq]

/-- The model's atomic on numbers is the statement's on words. -/
theorem atomApply_eq {w size : Nat} (hw : w = if size = 0 then 32 else 64) (o : BitVec 4) (a v c : BitVec w) {n m : Nat}
    (hv : n % 2 ^ w = v.toNat) (hc : m % 2 ^ w = c.toNat) : atomApply o.toNat size a.toNat n m = (atomicResult o a v c).toNat := by
  have hpos : 0 < w := by rw [hw]; split <;> decide
  unfold atomApply atomicResult
  dsimp only
  rw [← hw, hv, hc, Nat.mod_eq_of_lt a.isLt]
  simp only [sext_le_sext hpos, toNat_le_eq_ule, BitVec.toNat_inj]
  generalize o.toNat = k
  match k with
  | 0 => exact (BitVec.toNat_add a v).symm
  | 1 => exact (BitVec.toNat_and ..).symm
  | 2 => exact (BitVec.toNat_or ..).symm
  | 3 => exact (BitVec.toNat_xor ..).symm
  | 4 | 5 | 6 | 7 => exact (apply_ite BitVec.toNat _ _ _).symm
  | 8 => rfl
  | k + 9 => exact (apply_ite BitVec.toNat _ _ _).symm

/-! ## The translated address -/

theorem Maps.xlatCheck_eq {s : State} {va kind : Nat} {x : Xlat} (h : Maps s va kind x) :
    xlatCheck s x va (seqReq s (here s) kind) = none := by
  unfold xlatCheck
  rw [h.right, h.memory]
  rfl

/-- A mapped address is translated without a wait, and no request of the instruction is on its way. -/
theorem Maps.seqUse_eq {s : State} {va kind : Nat} {x : Xlat} (h : Maps s va kind x) : seqUse s (here s) va kind = .ok s x := by
  have hbegin : (getSeq s (here s)).inUse = none := h.begins
  unfold seqUse
  rw [hbegin]
  exact seqXlat_hit h.range h.hit h.xlatCheck_eq

/-- Memory of this device has its local line numbers (R380). -/
theorem lineKey_of_gddr {s : State} {pa : Nat} (h : paClass s pa = .gddr) : lineKey s pa = lineNo pa := by
  have hdev : paDevice pa = s.devid := by
    unfold paClass at h
    dsimp only at h
    split at h
    next => split at h <;> cases h
    next hd => simpa using hd
  rw [lineKey, if_pos hdev]

/-! ## The line in the die's cistern -/

theorem find?_tset_of_not {α : Type} {p : Nat × α → Bool} {k : Nat} (hp : ∀ w, p (k, w) = false) (t : Table α) (v : α) :
    (tset t k v).find? p = t.find? p := by
  induction t with
  | nil => rw [tset, List.find?_cons, hp]
  | cons e t ih =>
    obtain ⟨j, w⟩ := e
    rw [tset]
    split
    next hj => subst hj; simp only [List.find?_cons, hp]
    next =>
      split
      · rw [List.find?_cons, hp]
      · rw [List.find?_cons, List.find?_cons, ih]

/-- What other regions hold does not depend on the region itself. -/
theorem otherHolder_modSeq (s : State) (r ln : Nat) (f : Seq → Seq) : otherHolder (modSeq s r f) r ln = otherHolder s r ln :=
  congrArg (Option.map Prod.fst) (find?_tset_of_not (fun w => by simp) s.regions _)

theorem cLine_setCLine (s : State) (die ln : Nat) (c : CLine) (d l : Nat) :
    cLine (setCLine s die ln c) d l = if d = die ∧ l = ln then some c else cLine s d l := by
  unfold cLine setCLine modCist getCist
  rw [tget_tset]
  by_cases hd : d = die
  · subst hd
    by_cases hl : l = ln
    · subst hl; simp [tfind_tset_same]
    · simp [hl, tfind_tset_other _ _ _ _ hl]
  · simp [hd]

/-- A cistern keeps everything but its lines. -/
theorem getCist_setCLine (s : State) (die ln : Nat) (c : CLine) (d : Nat) :
    (getCist (setCLine s die ln c) d).walkers = (getCist s d).walkers ∧
      (getCist (setCLine s die ln c) d).narrow = (getCist s d).narrow ∧
      (getCist (setCLine s die ln c) d).sent = (getCist s d).sent := by
  unfold setCLine modCist getCist
  rw [tget_tset]
  by_cases hd : d = die
  · subst hd
    rw [if_pos rfl]
    exact ⟨rfl, rfl, rfl⟩
  · rw [if_neg hd]
    exact ⟨rfl, rfl, rfl⟩

theorem getR_writeCLine (s : State) (n die ln : Nat) (c : CLine) (d : Line) (m : BitVec 64) (i j r : Nat) :
    getR (writeCLine { s with wseq := n } die ln c d m i j) r = getR s r := rfl
theorem getSeq_writeCLine (s : State) (n die ln : Nat) (c : CLine) (d : Line) (m : BitVec 64) (i j r : Nat) :
    getSeq (writeCLine { s with wseq := n } die ln c d m i j) r = getSeq s r := rfl

/-- What a region's change of its sequencer leaves of a line that the die owns. -/
theorem Owned.modSeq {s : State} {r pa : Nat} {x : Xlat} {c : CLine} (h : Owned s r x pa c) (f : Seq → Seq) :
    Owned (modSeq s r f) r x pa c where
  held := h.held
  state := h.state
  buffer := by rw [getR_modSeq]; exact h.buffer
  buffers := (otherHolder_modSeq ..).trans h.buffers
  well := h.well
  cached := h.cached
  die := h.die

theorem Owned.not_poisoned {s : State} {r pa : Nat} {x : Xlat} {c : CLine} (h : Owned s r x pa c) :
    s.poison.contains (lineNo pa) = false := by
  have hw := h.well
  unfold lineBad at hw
  split at hw
  next => cases hw
  next hp => exact Bool.eq_false_iff.2 hp

/-- An atomic at a scope up to die is done in the cistern of the die that owns the line (R291, R341). -/
theorem atomicLine_owned {s : State} {r va scope off op size vv cc : Nat} {x : Xlat} {c : CLine} {tag : ReqTag}
    (h : Owned s r x (paOf x va) c) (hm : paClass s (paOf x va) = .gddr) (hs : scope < 3) :
    atomicLine s r (viaOf x va) scope off op size vv cc tag =
      .done (writeCLine { s with wseq := s.wseq + 1 } (dieOf r) (lineNo (paOf x va)) c (atomLine c.data off op size vv cc).1
        (placeBytes off (bytesOf (atomBytes size) 0)).2 s.wseq s.wseq) 0 (atomLine c.data off op size vv cc).2 none := by
  have hpa : (viaOf x va).pa = paOf x va := rfl
  have hunc : (viaOf x va).uncached = false := by simp [viaOf, h.cached]
  have hplc : dieCaches (viaOf x va).plc (dieOf r) = true := h.die
  have hhome : (decide (3 ≤ scope) || false || !true || false) = false := by simpa using hs
  unfold atomicLine
  rw [hpa, hm]
  dsimp only
  unfold atomicShared
  dsimp only
  rw [hpa, lineKey_of_gddr hm, h.buffers]
  dsimp only
  rw [h.buffer, if_neg Bool.false_ne_true, hunc, hplc, h.not_poisoned, hhome, if_neg Bool.false_ne_true, h.held]
  dsimp only
  rw [if_pos h.state, h.well]

/-! ## The line that an atomic leaves -/

/-- The atomic on a line: the field of its bytes is read, and replaced by the result. -/
theorem atomLine_eq {n size : Nat} (hn : n = atomBytes size) (l : Line) (pa : Nat) (o : BitVec 4) (v c : BitVec (8 * n)) {vv cc : Nat}
    (hv : vv % 2 ^ (8 * n) = v.toNat) (hc : cc % 2 ^ (8 * n) = c.toNat) :
    atomLine l (pa % 64) o.toNat size vv cc =
      (lineWith l pa n ((atomicResult o (lineAtPa l pa n) v c).setWidth 64), (lineAtPa l pa n).toNat) := by
  have hw : 8 * n = if size = 0 then 32 else 64 := by rw [hn, atomBytes]; split <;> rfl
  have hw64 : 8 * n ≤ 64 := by rw [hw]; split <;> decide
  have hold : leVal (lineBytes l (pa % 64) n) = (lineAtPa l pa n).toNat := leVal_lineBytes ..
  have hnew : atomApply o.toNat size (lineAtPa l pa n).toNat vv cc =
      ((atomicResult o (lineAtPa l pa n) v c).setWidth 64).toNat := by
    rw [atomApply_eq hw o _ v c hv hc, BitVec.toNat_setWidth_of_le hw64]
  unfold atomLine
  dsimp only
  rw [← hn, hold, hnew, mergeLine_placeBytes]

/-! ## The sequencer's step -/

/-- The sequencer after an ATOM of its instruction: its copy of the line is gone, the line is among those that its writes have reached,
and sd holds the old value. -/
def atomSeq (d : BitVec 5) (pa old : Nat) (q : Seq) : Seq :=
  nextPc (setS { q with dcache := q.dcache.filter fun c => c.line != pa / 64
                        touched := if q.touched.contains (lineNo pa) then q.touched else lineNo pa :: q.touched }
    d (BitVec.ofNat 64 old))

/-- The state after an ATOM that leaves a line in the cistern of the sequencer's die. -/
def atomEnd (s : State) (d : BitVec 5) (pa : Nat) (c : CLine) (data : Line) (mask : BitVec 64) (old : Nat) : State :=
  let t := modSeq s (here s) fun q => { q with dcache := q.dcache.filter fun c => c.line != pa / 64 }
  seqNext (writeCLine { t with wseq := t.wseq + 1 } (dieOf (here s)) (lineNo pa) c data mask t.wseq t.wseq) (here s) fun q =>
    setS { q with touched := if q.touched.contains (lineNo pa) then q.touched else lineNo pa :: q.touched } d (BitVec.ofNat 64 old)

/-- An ATOM on a line that the die owns runs to its end (R86, R291). -/
theorem exec_seqAtom_owned {s : State} {d a b : BitVec 5} {sc : BitVec 3} {z : BitVec 2} {o : BitVec 4} {x : Xlat} {c : CLine}
    (hsc : sc = 1 ∨ sc = 2) (hz : z.toNat < 2) (ho : o.toNat < 10) (halign : (reg s a).toNat % atomBytes z.toNat = 0)
    (hmap : Maps s (reg s a).toNat 2 x) (hstore : storePending (hereSeq s) (paOf x (reg s a).toNat) = false)
    (hown : Owned s (here s) x (paOf x (reg s a).toNat) c) :
    exec (.seqAtom d a b sc z o) s = .next (
      let p := atomLine c.data (paOf x (reg s a).toNat % 64) o.toNat z.toNat (reg s b).toNat (reg s d).toNat
      atomEnd s d (paOf x (reg s a).toNat) c p.1 (placeBytes (paOf x (reg s a).toNat % 64) (bytesOf (atomBytes z.toNat) 0)).2 p.2) := by
  have hscope : sc.toNat < 3 ∧ ¬ (sc.toNat = 0 ∨ 5 ≤ sc.toNat ∨ 2 ≤ z.toNat) := by
    rcases hsc with rfl | rfl <;> exact ⟨by decide, by simp; omega⟩
  have hva : (getS (getSeq s s.focus.region) a).toNat = (reg s a).toNat := rfl
  have hpa : (viaOf x (reg s a).toNat).pa = paOf x (reg s a).toNat := rfl
  have hhere : s.focus.region = here s := rfl
  have hclear : storePending (getSeq s (here s)) (paOf x (reg s a).toNat) = false := hstore
  have hgddr : paClass s (paOf x (reg s a).toNat) = .gddr := hmap.memory
  rw [exec_seqAtom]
  unfold execSeqAtom seqDo
  dsimp only
  rw [if_neg (by omega), if_neg hscope.2, hva, withAddr_inside _ _ _ hmap.range, if_neg (not_not.2 halign), hhere, hmap.seqUse_eq]
  dsimp only
  rw [hpa, hclear, if_neg Bool.false_ne_true, hgddr]
  dsimp only
  rw [atomicLine_owned (hown.modSeq _) hgddr hscope.1, lineKey_of_gddr hgddr]
  rfl

/-! ## What the ATOM leaves -/

theorem getSeq_atomEnd (s : State) (d : BitVec 5) (pa : Nat) (c : CLine) (data : Line) (mask : BitVec 64) (old : Nat) :
    getSeq (atomEnd s d pa c data mask old) (here s) = atomSeq d pa old (hereSeq s) := by
  unfold atomEnd
  dsimp only
  rw [seqNext, getSeq_modSeq, getSeq_writeCLine, getSeq_modSeq]
  rfl

theorem getR_atomEnd (s : State) (d : BitVec 5) (pa : Nat) (c : CLine) (data : Line) (mask : BitVec 64) (old : Nat) :
    { getR (atomEnd s d pa c data mask old) (here s) with seq := hereSeq s } = getR s (here s) := by
  unfold atomEnd
  dsimp only
  rw [seqNext, getR_modSeq, getR_writeCLine, getR_modSeq]
  rfl

theorem otherRegions_atomEnd (s : State) (d : BitVec 5) (pa : Nat) (c : CLine) (data : Line) (mask : BitVec 64) (old : Nat) :
    OtherRegions (here s) s (atomEnd s d pa c data mask old) := by
  intro q hq
  unfold atomEnd
  dsimp only
  rw [seqNext, modSeq, getR_modR_other _ _ _ _ hq, getR_writeCLine, modSeq, getR_modR_other _ _ _ _ hq]

/-- Apart from the registers, the data cache and the lines that its writes have reached, the ATOM leaves the sequencer as it is. -/
theorem seqRest_atomSeq (d : BitVec 5) (pa old : Nat) (q : Seq) :
    SeqRest q { atomSeq d pa old q with dcache := q.dcache, touched := q.touched } := by
  unfold SeqRest atomSeq nextPc setPc setS dropWait
  split <;> rfl

theorem atomSeq_dcache (d : BitVec 5) (pa old : Nat) (q : Seq) :
    (atomSeq d pa old q).dcache = q.dcache.filter fun c => c.line != pa / 64 := by
  unfold atomSeq nextPc setPc setS dropWait
  split <;> rfl

theorem getS_atomSeq (d : BitVec 5) (pa old : Nat) (q : Seq) (n : BitVec 5) :
    getS (atomSeq d pa old q) n = if n = d ∧ d ≠ 0 then BitVec.ofNat 64 old else getS q n := by
  rw [atomSeq, getS_nextPc, getS_setS]
  rfl

/-- Only the line at the die's cistern changes of what the units of the package hold. -/
theorem onlyCistern_atomEnd (s : State) (d : BitVec 5) (pa : Nat) (c : CLine) (data : Line) (mask : BitVec 64) (old : Nat) :
    OnlyCistern (dieOf (here s)) (lineNo pa) s (atomEnd s d pa c data mask old) where
  lines _ _ h := (cLine_setCLine ..).trans (if_neg (not_and_or.2 h))
  walkers k := getCist_setCLine _ _ _ _ k
  writes := rfl
  device := rfl

theorem atomicDone_atomEnd {s : State} {d : BitVec 5} {pa n : Nat} {c : CLine} {old new : BitVec (8 * n)} {data : Line} {mask : BitVec 64}
    (hst : c.st = .exclusive ∨ c.st = .modified)
    (hdata : mergeLine c.data data mask = lineWith c.data pa n (new.setWidth 64)) :
    AtomicDone n d old new pa c s (atomEnd s d pa c data mask old.toNat) where
  dest := by
    rw [getSeq_atomEnd, getS_atomSeq]
    by_cases hd : d = 0
    · rw [if_neg fun h => h.2 hd, if_pos hd, hd, getS_zero]
    · rw [if_pos ⟨rfl, hd⟩, if_neg hd, BitVec.ofNat_toNat]
  regs m hm := by rw [getSeq_atomEnd, getS_atomSeq, if_neg fun h => hm h.1, reg]
  pc := by rw [getSeq_atomEnd, atomSeq, nextPc_pc, setS_pc]; rfl
  line := by
    refine ⟨_, (cLine_setCLine ..).trans (if_pos ⟨rfl, rfl⟩), ?_, congrArg (keepRo s (lineNo pa) c.data) hdata⟩
    rcases hst with h | h <;> simp [h]
  cache := by rw [getSeq_atomEnd, atomSeq_dcache]
  rest := by rw [getSeq_atomEnd]; exact seqRest_atomSeq ..
  region := getR_atomEnd ..
  regions := otherRegions_atomEnd s d pa c data mask old.toNat
  elems _ := rfl
  mem _ := rfl
  others := onlyCistern_atomEnd ..

/-- An ATOM on a line that the die owns: the old value goes to sd and the result to the line. -/
theorem atomicDone_of_owned {s : State} {d a b : BitVec 5} {sc : BitVec 3} {z : BitVec 2} {o : BitVec 4} {x : Xlat} {c : CLine} {n : Nat}
    (hn : n = atomBytes z.toNat) (hsc : sc = 1 ∨ sc = 2) (hz : z.toNat < 2) (ho : o.toNat < 10) (halign : (reg s a).toNat % n = 0)
    (hmap : Maps s (reg s a).toNat 2 x) (hstore : storePending (hereSeq s) (paOf x (reg s a).toNat) = false)
    (hown : Owned s (here s) x (paOf x (reg s a).toNat) c) :
    ∃ t, exec (.seqAtom d a b sc z o) s = .next t ∧
      AtomicDone n d (lineAtPa c.data (paOf x (reg s a).toNat) n)
        (atomicResult o (lineAtPa c.data (paOf x (reg s a).toNat) n) ((reg s b).setWidth (8 * n)) ((reg s d).setWidth (8 * n)))
        (paOf x (reg s a).toNat) c s t := by
  have hline := atomLine_eq hn c.data (paOf x (reg s a).toNat) o _ _ (BitVec.toNat_setWidth (8 * n) (reg s b)).symm
    (BitVec.toNat_setWidth (8 * n) (reg s d)).symm
  have hmask := fun v => placeBytes_mask_congr (j := paOf x (reg s a).toNat % 64)
    ((length_bytesOf n 0).trans (length_bytesOf n (BitVec.toNat (w := 64) v)).symm)
  refine ⟨_, exec_seqAtom_owned hsc hz ho (hn ▸ halign) hmap hstore hown, ?_⟩
  rw [← hn, hline]
  refine atomicDone_atomEnd hown.state ?_
  dsimp only
  rw [hmask, ← mergeLine_placeBytes, mergeLine_mergeLine]

end Sys2Proof.Claims
end

section
/-!
# Fences and TSYNC of the sequencer

A fence at a scope of 1 to 4 waits for the earlier writes of the sequencer where it releases, and empties the data cache where it
acquires (R284, R356); TSYNC only waits (R397).
-/
namespace Sys2Proof.Claims
open Sys2Proof.Machine

/-- Two changes of a sequencer that leave everything else. -/
theorem OnlySeq.trans {r : Nat} {s t u : State} (h : OnlySeq r s t) (k : OnlySeq r t u) : OnlySeq r s u where
  region :=
    calc { getR u r with seq := getSeq s r }
      _ = { { getR u r with seq := getSeq t r } with seq := getSeq s r } := rfl
      _ = { getR t r with seq := getSeq s r } := by rw [k.region]
      _ = getR s r := h.region
  regions q hq := (k.regions q hq).trans (h.regions q hq)
  elems n := (k.elems n).trans (h.elems n)
  mem n := (k.mem n).trans (h.mem n)
  device := by
    have hst : { t with regions := s.regions, elems := s.elems, mem := s.mem } = s := h.device
    have htu : { u with regions := t.regions, elems := t.elems, mem := t.mem } = t := k.device
    calc { u with regions := s.regions, elems := s.elems, mem := s.mem }
      _ = { { u with regions := t.regions, elems := t.elems, mem := t.mem } with regions := s.regions, elems := s.elems, mem := s.mem } := rfl
      _ = { t with regions := s.regions, elems := s.elems, mem := s.mem } := by rw [htu]
      _ = s := hst

/-- The sequencer moves on, from a state in which it has changed nothing but the list of the lines that its writes have reached. -/
theorem fenced_seqNext {s t : State} {acquire : Bool} {l : List Nat} {f : Seq → Seq} (ht : OnlySeq (here s) s t)
    (hq : getSeq t (here s) = { hereSeq s with touched := l })
    (hf : f { hereSeq s with touched := l } = { hereSeq s with touched := l, dcache := if acquire then [] else (hereSeq s).dcache }) :
    Fenced acquire s (seqNext t (here s) f) := by
  have hend : getSeq (seqNext t (here s) f) (here s)
      = nextPc { hereSeq s with touched := l, dcache := if acquire then [] else (hereSeq s).dcache } := by
    rw [seqNext, getSeq_modSeq, hq, hf]
  exact
    { pc := by rw [hend]; rfl
      regs := fun n => by rw [hend]; rfl
      cache := by rw [hend]; rfl
      rest := by rw [hend]; rfl
      frame := ht.trans (onlySeq_modSeq ..) }

theorem OnlySeq.refl (r : Nat) (s : State) : OnlySeq r s s := ⟨rfl, fun _ _ => rfl, fun _ => rfl, fun _ => rfl, rfl⟩

/-- An instruction that waits for the earlier writes, once they are performed. -/
theorem fenced_afterWrites {s : State} {scope : Nat} {acquire : Bool} {f : Seq → Seq} (h : seqPerformed s (here s) scope = true)
    (hf : ∀ q, f q = { q with dcache := if acquire then [] else q.dcache }) :
    Fenced acquire s (afterWrites s (here s) scope fun s => seqNext s (here s) f) := by
  rw [afterWrites_performed h]
  exact fenced_seqNext (onlySeq_modSeq ..) (getSeq_modSeq ..) (hf _)

theorem seqAcquire_of_pos {scope : Nat} (h : 1 ≤ scope) (q : Seq) : seqAcquire q scope = { q with dcache := [] } := if_pos h

/-! ## The statement -/

/-- Settles O4: an ATOM by what it leaves at the die's cistern, fences and TSYNC by their wait for the earlier writes. -/
theorem sequencerAtomicsAndFences : Obligations.SequencerAtomicsAndFences := by
  unfold Obligations.SequencerAtomicsAndFences
  refine ⟨fun d a b sc z o s x c hsc hz ho halign hmap hstore hown => ?atom,
    fun c s hlo hhi h => ⟨?full, ?release⟩, fun c s hlo hhi => ?acquire, fun s h => ?tsync⟩
  case atom =>
    refine atomicDone_of_owned ?_ hsc hz ho halign hmap hstore hown
    by_cases h : z = 0
    · subst h
      rfl
    · have hsize : z.toNat ≠ 0 := fun e => h (BitVec.eq_of_toNat_eq e)
      rw [if_neg h, atomBytes, if_neg hsize]
  case full =>
    rw [exec_seqFenceFull]
    refine ⟨_, congrArg Host.Outcome.next (if_neg (by omega)), ?_⟩
    exact fenced_afterWrites h (fun q => seqAcquire_of_pos hlo q)
  case release =>
    rw [exec_seqFenceRel]
    refine ⟨_, congrArg Host.Outcome.next (if_neg (by omega)), ?_⟩
    exact fenced_afterWrites h (fun q => rfl)
  case acquire =>
    rw [exec_seqFenceAcq]
    refine ⟨_, congrArg Host.Outcome.next (if_neg (by omega)), ?_⟩
    exact fenced_seqNext (l := (hereSeq s).touched) (OnlySeq.refl ..) rfl (seqAcquire_of_pos hlo _)
  case tsync =>
    rw [exec_seqTsync]
    exact ⟨_, rfl, fenced_afterWrites h (fun q => rfl)⟩

end Sys2Proof.Claims
end

section
/-!
# Readiness of an element's instruction

The statements' `Ready` as the test that the firing makes (R101, R102, R112), and likewise `MemFree` for the tables of outstanding
accesses (R204, R205, R396).
-/
namespace Sys2Proof.Claims
open Sys2Proof.Machine

/-! ## The element in focus -/

theorem keyRegion_ekey {r st el : Nat} (hs : st < 20) (he : el < 16) : keyRegion (ekey r st el) = r := by
  unfold keyRegion ekey
  omega

theorem OnGrid.keyRegion_focusKey {s : State} (h : OnGrid s) : keyRegion (focusKey s) = here s := by
  obtain ⟨hsite, helem, -⟩ := h
  exact keyRegion_ekey hsite helem

theorem OnGrid.slot_lt {s : State} (h : OnGrid s) : s.focus.slot < 2 ^ 4 := by
  obtain ⟨-, -, hslot⟩ := h
  exact hslot

/-! ## The conditions of R102 -/

/-- A predicate test passes where each tested predicate has the value asked for (R65). -/
theorem predTest_of_bits {e : Elem} {ph : BitVec 1} {mask val : BitVec 4}
    (h : ∀ j < 4, mask.getLsbD j = true → e.preds.getLsbD (4 * ph.toNat + j) = val.getLsbD j) : predTest e ph mask val = true := by
  rw [predTest, beq_iff_eq]
  apply BitVec.eq_of_getLsbD_eq
  intro j hj
  rw [BitVec.getLsbD_and, BitVec.getLsbD_xor, BitVec.getLsbD_extractLsb', decide_eq_true hj, Bool.true_and]
  cases hm : mask.getLsbD j with
  | false => simp
  | true => simp [h j hj hm]

theorem tagOk_of_head {e : Elem} {t : Option (Fin 6 × BitVec 5)}
    (h : ∀ q v, t = some (q, v) → avail e q ≠ 0 ∧ ∃ t, headTok e q = some t ∧ t.side.extractLsb' 0 5 = v) : tagOk e t = true := by
  cases t with
  | none => rfl
  | some p =>
    obtain ⟨q, v⟩ := p
    obtain ⟨ha, tok, htok, hv⟩ := h q v rfl
    rw [tagOk, htok, bne_iff_ne.2 ha, ← hv]
    exact beq_self_eq_true _

theorem fieldPending_of_settled {e : Elem} {u : FieldUse}
    (h : ∀ o j, u.opnd = some o → pendBit o = some j → e.pend.getLsbD j = false) : fieldPending e u = false := by
  unfold fieldPending
  split
  next o ho =>
    split
    next j hj => exact h o j ho hj
    next => rfl
  next => rfl

/-- An element that the picker evaluates (R101). -/
theorem canPick_focus {s : State} (hg : OnGrid s) (hrun : (elem s).st = .running) (hfree : (elem s).busy ≤ nowAt s)
    (hact : acting (getR s (here s)) = true) : canPick s (focusKey s) = true := by
  have hrun' : (getE s (focusKey s)).st = .running := hrun
  have hfree' : (getE s (focusKey s)).busy ≤ (getR s (here s)).cycle := hfree
  unfold canPick
  dsimp only
  rw [hg.keyRegion_focusKey, hact, hrun', decide_eq_true hfree']
  rfl

theorem Ready.ready_eq {s : State} {f : Form} {ctx : Nat} (h : Ready s f ctx) (hg : OnGrid s) : ready s (focusKey s) f ctx = true := by
  have hpick : canPick s (focusKey s) = true := canPick_focus hg h.running h.free h.acts
  have htokens : (f.queues.all fun q => decide (f.hdr.beats.count ≤ avail (elem s) q.val) &&
      !scalePending (elem s) q.val f.hdr.beats.count) = true := by
    rw [List.all_eq_true]
    intro q hq
    obtain ⟨ha, hs⟩ := h.tokens q hq
    rw [decide_eq_true ha, hs]
    rfl
  have hpend : ∀ u ∈ [f.d, f.a, f.b, f.c], fieldPending (elem s) u = false := fun u hu => fieldPending_of_settled (h.settled u hu)
  unfold ready
  dsimp only
  change (_ && predTest (elem s) _ _ _ && tagOk (elem s) _ && (f.queues.all fun q => decide (_ ≤ avail (elem s) q.val) &&
    !scalePending (elem s) q.val _) && _ && !(fieldPending (elem s) _ || fieldPending (elem s) _ || fieldPending (elem s) _ ||
    fieldPending (elem s) _) && decide (_ ≤ (elem s).pow)) = true
  rw [hpick, predTest_of_bits h.guard, tagOk_of_head h.tag, htokens, hpend f.d (by simp), hpend f.a (by simp), hpend f.b (by simp),
    hpend f.c (by simp), decide_eq_true h.power]
  have hcredit := h.credit
  cases hc : f.chan with
  | none => rfl
  | some k => exact (Bool.and_true _).trans ((Bool.and_true _).trans (decide_eq_true (hcredit k hc)))

/-- The tables of outstanding accesses have room, and the chain is free. -/
theorem MemFree.memReady_eq {e : Elem} {m : MemOp} {n : Nat} (h : MemFree e m n) : memReady e m n = true := by
  have hloads : (!takesLoad m.kind || decide (loadsUsed e + n ≤ 32)) = true := by
    cases hk : takesLoad m.kind with
    | false => rfl
    | true => exact decide_eq_true (h.loads hk)
  have hstores : (!takesStore m.kind || decide (storesUsed e + n ≤ 16)) = true := by
    cases hk : takesStore m.kind with
    | false => rfl
    | true => exact decide_eq_true (h.stores hk)
  have htsync : (e.accs.all fun a => a.kind != .tsync) = true :=
    List.all_eq_true.2 fun a ha => bne_iff_ne.2 (h.tsync a ha)
  unfold memReady
  rw [hloads, hstores, htsync]
  split
  next c hc => rw [h.write c hc]; rfl
  next c hc => rw [h.read c hc]; rfl
  next => rfl

end Sys2Proof.Claims
end

section
/-!
# The trap record

The record is a sum of fields at fixed places (R442); written as the fields one behind the other, each of a number of bits, a field is
read at the bits that it fills.
-/
namespace Sys2Proof.Machine

/-! ## Words made of fields -/

/-- Values one behind the other from digit 0 up, each of a number of digits to base b. -/
def packFields (b : Nat) : List Nat → (Nat → Nat) → Nat
  | [], _ => 0
  | w :: ws, v => v 0 + b ^ w * packFields b ws fun i => v (i + 1)

/-- Behind the bits of the first fields stand the other fields. -/
theorem packFields_div (ws : List Nat) (v : Nat → Nat) (i : Nat) (hv : ∀ j w, ws[j]? = some w → v j < 2 ^ w) :
    packFields 2 ws v / 2 ^ (ws.take i).sum = packFields 2 (ws.drop i) fun j => v (i + j) := by
  induction i generalizing ws v with
  | zero => simp
  | succ i ih =>
    cases ws with
    | nil => simp [packFields]
    | cons w ws =>
      have hshift : (fun j => v (i + 1 + j)) = fun j => v (i + j + 1) := by funext j; congr 1; omega
      rw [List.take_succ_cons, List.sum_cons, Nat.pow_add, ← Nat.div_div_eq_div_mul, packFields,
        Nat.add_mul_div_left _ _ (Nat.two_pow_pos w), Nat.div_eq_of_lt (hv 0 w rfl), Nat.zero_add,
        ih ws _ fun j u hj => hv (j + 1) u hj, List.drop_succ_cons, hshift]

/-- A field is read at the bits that it fills. -/
theorem extractLsb'_packFields {ws : List Nat} {v : Nat → Nat} (hv : ∀ j w, ws[j]? = some w → v j < 2 ^ w) (n i : Nat) {p w : Nat}
    (hw : ws[i]? = some w) (hp : (ws.take i).sum = p) (hn : p + w ≤ n) :
    (BitVec.ofNat n (packFields 2 ws v)).extractLsb' p w = BitVec.ofNat w (v i) := by
  have hfield : packFields 2 ws v / 2 ^ p % 2 ^ w = v i := by
    rw [← hp, packFields_div ws v i hv, List.drop_eq_getElem?_toList_append, hw]
    exact (Nat.add_mul_mod_self_left ..).trans (Nat.mod_eq_of_lt (hv i w hw))
  apply BitVec.eq_of_getLsbD_eq
  intro j hj
  rw [BitVec.getLsbD_extractLsb', BitVec.getLsbD_ofNat, BitVec.getLsbD_ofNat, ← hfield, Nat.testBit_mod_two_pow,
    Nat.testBit_div_two_pow, decide_eq_true hj, decide_eq_true (show p + j < n by omega), Bool.true_and, Bool.true_and, Bool.true_and,
    Nat.add_comm, Bool.true_and]

/-! ## The record as fields -/

/-- The sideband of the head of a queue, 0 where the queue is empty (R442). -/
def headSide (e : Elem) (j : Nat) : Nat := match headTok e j with | some t => t.side.toNat | none => 0

theorem headSide_lt (e : Elem) (j : Nat) : headSide e j < 2 ^ 16 := by
  unfold headSide
  split
  next t _ => exact t.side.isLt
  next => decide

theorem ofNat_headSide (e : Elem) (j : Nat) :
    BitVec.ofNat 16 (headSide e j) = match (getQ e j).toks with | t :: _ => t.side | [] => 0 := by
  unfold headSide headTok
  cases (getQ e j).toks with
  | nil => rfl
  | cons t l => exact BitVec.ofNat_toNat ..

/-- Bits of the record's fields (R442): a reserved one, element, site, slot, beat, CODE, cause, origin, a reserved one, the word, the
address, three operands, and the sidebands of six heads. -/
def recordWidths : List Nat := [2, 4, 5, 4, 6, 11, 8, 2, 374, 64, 64, 128, 128, 128, 16, 16, 16, 16, 16, 16]

/-- The record's sum of fields, to any base. -/
theorem packFields_recordWidths (b : Nat) (v : Nat → Nat) (h0 : v 0 = 0) (h8 : v 8 = 0) :
    packFields b recordWidths v = v 1 * b ^ 2 + v 2 * b ^ 6 + v 3 * b ^ 11 + v 4 * b ^ 15 + v 5 * b ^ 21 + v 6 * b ^ 32 + v 7 * b ^ 40
      + v 9 * b ^ 416 + v 10 * b ^ 480 + (v 11 + b ^ 128 * (v 12 + b ^ 128 * (v 13 + b ^ 128 * 0))) * b ^ 544
      + ((((((0 + v 14 * b ^ (16 * 0)) + v 15 * b ^ (16 * 1)) + v 16 * b ^ (16 * 2)) + v 17 * b ^ (16 * 3)) + v 18 * b ^ (16 * 4))
        + v 19 * b ^ (16 * 5)) * b ^ 928 := by
  simp only [recordWidths, packFields, h0, h8]
  ring

/-- What an element's record holds: the values of its fields. -/
def recordValue (e : Elem) (key : Nat) (cause : BitVec 8) (code slot : Nat) (word : BitVec 64) (addr : Nat) (a b c : Vec) : Nat → Nat
  | 1 => keyElem key | 2 => keySite key | 3 => slot | 5 => code | 6 => cause.toNat | 9 => word.toNat | 10 => addr
  | 11 => a.toNat | 12 => b.toNat | 13 => c.toNat | n + 14 => headSide e n
  | _ => 0

/-- Each value fits its field. -/
theorem recordValue_lt (e : Elem) (key : Nat) (cause : BitVec 8) {code slot addr : Nat} (word : BitVec 64) (a b c : Vec)
    (hcode : code < 2 ^ 11) (hslot : slot < 2 ^ 4) (haddr : addr < 2 ^ 64) (j w : Nat) (hw : recordWidths[j]? = some w) :
    recordValue e key cause code slot word addr a b c j < 2 ^ w := by
  match j with
  | 1 => cases hw; exact Nat.mod_lt _ (by decide)
  | 2 => cases hw; exact Nat.lt_trans (Nat.mod_lt _ (by decide)) (by decide : 20 < 2 ^ 5)
  | 3 => cases hw; exact hslot
  | 5 => cases hw; exact hcode
  | 6 => cases hw; exact cause.isLt
  | 9 => cases hw; exact word.isLt
  | 10 => cases hw; exact haddr
  | 11 => cases hw; exact a.isLt
  | 12 => cases hw; exact b.isLt
  | 13 => cases hw; exact c.isLt
  | 0 | 4 | 7 | 8 => exact Nat.two_pow_pos w
  | 14 | 15 | 16 | 17 | 18 | 19 => cases hw; exact headSide_lt ..
  | n + 20 => cases hw

/-- A sum over six places, one behind the other. -/
theorem foldl_upto_six (g : Nat → Nat) :
    (upto 6).foldl (fun a j => a + g j) 0 = (((((0 + g 0) + g 1) + g 2) + g 3) + g 4) + g 5 := rfl

/-- The record of a trap at beat 0 of the element's own instruction is made of these fields. -/
theorem trapRecord_eq_packFields (e : Elem) (key : Nat) (cause : BitVec 8) (code slot : Nat) (word : BitVec 64) (addr : Nat)
    (a b c : Vec) :
    trapRecord e key 0 cause code 0 slot word addr [a, b, c] =
      BitVec.ofNat 1024 (packFields 2 recordWidths (recordValue e key cause code slot word addr a b c)) := by
  have hops : packLanes 128 [a.toNat, b.toNat, c.toNat] = a.toNat + 2 ^ 128 * (b.toNat + 2 ^ 128 * (c.toNat + 2 ^ 128 * 0)) := by
    simp only [packLanes, Nat.mod_eq_of_lt (BitVec.isLt _)]
  rw [packFields_recordWidths 2 _ rfl rfl]
  unfold trapRecord
  refine congrArg (BitVec.ofNat 1024) (congrArg₂ (· + ·) ?_ (congrArg (· * 2 ^ 928) (foldl_upto_six fun j => headSide e j * 2 ^ (16 * j))))
  simp only [List.map, hops, recordValue]

/-- A record without operands holds 0 in their places. -/
theorem trapRecord_nil (e : Elem) (key origin : Nat) (cause : BitVec 8) (code beat slot : Nat) (word : BitVec 64) (addr : Nat) :
    trapRecord e key origin cause code beat slot word addr [] = trapRecord e key origin cause code beat slot word addr [0, 0, 0] := by
  have hnil : packLanes 128 (([] : List Vec).map (·.toNat)) = packLanes 128 (([0, 0, 0] : List Vec).map (·.toNat)) := by decide
  unfold trapRecord
  rw [hnil]

end Sys2Proof.Machine

namespace Sys2Proof.Claims
open Sys2Proof.Machine

/-- The record of a trap at beat 0 holds what R442 says. -/
theorem recorded_trapRecord (e : Elem) (key : Nat) (cause : BitVec 8) {code slot addr : Nat} (word : BitVec 64) (a b c : Vec)
    (hcode : code < 2 ^ 11) (hslot : slot < 2 ^ 4) (haddr : addr < 2 ^ 64) :
    Recorded key 0 cause code 0 slot word (BitVec.ofNat 64 addr) a b c e (trapRecord e key 0 cause code 0 slot word addr [a, b, c]) := by
  have field {i p w : Nat} := extractLsb'_packFields (i := i) (p := p) (w := w)
    (recordValue_lt e key cause word a b c hcode hslot haddr) 1024
  rw [trapRecord_eq_packFields]
  exact
    { elem := field (i := 1) rfl rfl (by decide)
      site := field (i := 2) rfl rfl (by decide)
      slot := field (i := 3) rfl rfl (by decide)
      beat := field (i := 4) rfl rfl (by decide)
      code := field (i := 5) rfl rfl (by decide)
      cause := (field (i := 6) rfl rfl (by decide)).trans (BitVec.ofNat_toNat ..)
      origin := field (i := 7) rfl rfl (by decide)
      word := (field (i := 9) rfl rfl (by decide)).trans (BitVec.ofNat_toNat ..)
      addr := field (i := 10) rfl rfl (by decide)
      opA := (field (i := 11) rfl rfl (by decide)).trans (BitVec.ofNat_toNat ..)
      opB := (field (i := 12) rfl rfl (by decide)).trans (BitVec.ofNat_toNat ..)
      opC := (field (i := 13) rfl rfl (by decide)).trans (BitVec.ofNat_toNat ..)
      heads := fun j hj => by
        refine Eq.trans ?_ (ofNat_headSide e j)
        match j, hj with
        | 0, _ => exact field (i := 14) rfl rfl (by decide)
        | 1, _ => exact field (i := 15) rfl rfl (by decide)
        | 2, _ => exact field (i := 16) rfl rfl (by decide)
        | 3, _ => exact field (i := 17) rfl rfl (by decide)
        | 4, _ => exact field (i := 18) rfl rfl (by decide)
        | 5, _ => exact field (i := 19) rfl rfl (by decide) }

end Sys2Proof.Claims
end

section
/-!
# Firings that trap in their first beat

Such a firing pays, reads the operands of its first beat, makes the acquires of the tokens that it read, and leaves the element Trapped
with its record (R107, R441).
-/
namespace Sys2Proof.Machine

/-! ## Acquires -/

@[simp] theorem invalL1_invalL1 (e : Elem) : invalL1 (invalL1 e) = invalL1 e := by
  simp [invalL1, Function.comp_def]

theorem queueEntry_congr {e e' : Elem} (h : e'.queues = e.queues) (q k : Nat) (dq : Bool) :
    queueEntry e' q k dq = queueEntry e q k dq := by
  unfold queueEntry getQ
  rw [h]

/-- An acquire invalidates the L1 or does nothing, as the element's queues decide. -/
def AcquireOf (e : Elem) (g : Elem → Elem) : Prop := ∃ c : Bool, ∀ e', e'.queues = e.queues → g e' = if c then invalL1 e' else e'

theorem acquireOf_id (e : Elem) : AcquireOf e fun e => e := ⟨false, fun _ _ => rfl⟩

theorem AcquireOf.comp {e : Elem} {g h : Elem → Elem} (hg : AcquireOf e g) (hh : AcquireOf e h) : AcquireOf e fun e => h (g e) := by
  obtain ⟨c, hg⟩ := hg
  obtain ⟨d, hh⟩ := hh
  refine ⟨c || d, fun e' he => ?_⟩
  dsimp only
  rw [hg e' he]
  cases c with
  | false => exact hh e' he
  | true =>
    rw [if_pos rfl, hh (invalL1 e') he]
    cases d <;> simp

theorem acquireOf_acquireTok (e : Elem) (t : Token) : AcquireOf e fun e => acquireTok e t :=
  ⟨decide (t.kind = 1 ∧ 1 ≤ t.scope), fun e' _ => by simp [acquireTok]⟩

theorem acquireOf_acquireField (e : Elem) (k : Nat) (dq : Bool) (u : FieldUse) : AcquireOf e fun e => acquireField e k dq u := by
  have token : ∀ j : Fin 6, AcquireOf e fun e => acquireField e k dq (.src (.q j)) := by
    intro j
    cases ht : queueEntry e j.val k dq with
    | none => exact ⟨false, fun e' he => by simp only [acquireField, queueEntry_congr he, ht]; rfl⟩
    | some t =>
      obtain ⟨c, hc⟩ := acquireOf_acquireTok e t
      exact ⟨c, fun e' he => by simp only [acquireField, queueEntry_congr he, ht]; exact hc e' he⟩
  cases u with
  | src o | srcMain o | data o | queue o | dropQueue o =>
    cases o with
    | q j => exact token j
    | _ => exact acquireOf_id e
  | _ => exact acquireOf_id e

/-- The acquires of a beat invalidate the L1 or do nothing, as the element's queues decide. -/
theorem acquireOps_cases (e : Elem) (f : Form) (k : Nat) :
    ∃ c : Bool, ∀ e', e'.queues = e.queues → acquireOps e' f k = if c then invalL1 e' else e' :=
  (((acquireOf_acquireField e k f.hdr.dq f.d).comp (acquireOf_acquireField e k f.hdr.dq f.a)).comp
    (acquireOf_acquireField e k f.hdr.dq f.b)).comp (acquireOf_acquireField e k f.hdr.dq f.c)

/-- They leave what the rest of the beat looks at. -/
theorem acquireOps_keeps (e : Elem) (f : Form) (k : Nat) : (acquireOps e f k).st = e.st ∧ (acquireOps e f k).queues = e.queues ∧
    (acquireOps e f k).recs = e.recs ∧ (acquireOps e f k).seals = e.seals := by
  obtain ⟨c, h⟩ := acquireOps_cases e f k
  rw [h e rfl]
  cases c <;> exact ⟨rfl, rfl, rfl, rfl⟩

/-- They do not depend on what the element has to pay with. -/
theorem acquireOps_pow (e : Elem) (p : Nat) (f : Form) (k : Nat) :
    acquireOps { e with pow := p } f k = { acquireOps e f k with pow := p } := by
  obtain ⟨c, h⟩ := acquireOps_cases e f k
  rw [h e rfl, h { e with pow := p } rfl]
  cases c <;> rfl

theorem readOps_pow (e : Elem) (p : Nat) (sample : BitVec 3) (f : Form) (k : Nat) :
    readOps { e with pow := p } sample f k = readOps e sample f k := rfl

/-! ## Beats -/

/-- After a trap no beat runs. -/
theorem beats_of_trap (x : Ctx) (exe : Exe) (lw n : Nat) {y : Firing} {t : BeatTrap} (h : y.trap = some t) : beats x exe lw n y = y := by
  induction n with
  | zero => rfl
  | succ n ih =>
    have hb : beat x exe lw y = y := by unfold beat; rw [h]
    rw [beats, hb, ih]

theorem beats_count_pos (b : Beats) : 0 < b.count := by cases b <;> decide

/-- A first beat that traps ends the beats. -/
theorem beats_of_first_trap {x : Ctx} {exe : Exe} {n : Nat} (lw : Nat) {e e' : Elem} {res : Vec} {fl : Flags} {held : List Vec}
    {t : BeatTrap} (hn : 0 < n)
    (h : exe x (acquireOps e x.form 0) 0 (readOps e x.sample x.form 0).1 [] = ⟨e', res, fl, held, some t⟩) :
    beats x exe lw n ⟨e, default, 0, false, [], 0, none⟩ = ⟨e', (readOps e x.sample x.form 0).1, 0, false, [], 0, some t⟩ := by
  obtain ⟨n, rfl⟩ : ∃ m, n = m + 1 := ⟨n - 1, by omega⟩
  have hb : beat x exe lw ⟨e, default, 0, false, [], 0, none⟩ =
      ⟨e', (readOps e x.sample x.form 0).1, 0, false, [], 0, some t⟩ := by
    unfold beat
    dsimp only
    rw [h]
  rw [beats, hb]
  exact beats_of_trap _ _ _ _ rfl

/-- What a firing whose beats trap leaves: the record, and the datapath taken until the trapping beat is over (R107, R441). -/
theorem finish_of_trap {s : State} {x : Ctx} (lw : Nat) (carry : BeatOps → Bool) {y : Firing} {t : BeatTrap} (h : y.trap = some t)
    (hst : y.elem.st ≠ .trapped) :
    getE (finish s x lw carry y) x.key = { y.elem with
        busy := x.cycle + (y.done + 1) * x.cpb, st := .trapped, trapAt := x.cycle + y.done * x.cpb
        trapRec := some (trapRecord y.elem x.key 0 t.cause t.code y.done x.slot x.word t.addr [y.ops.a, y.ops.b, y.ops.c]) } ∧
      getR (finish s x lw carry y) (keyRegion x.key) = { getR s (keyRegion x.key) with firedAt := some x.cycle } := by
  unfold finish
  rw [h]
  dsimp only
  refine ⟨?_, by simp [elemTrap]⟩
  rw [getE_modE, (elemTrap_spec ..).1, getE_setE, if_neg hst]
  rfl

end Sys2Proof.Machine

namespace Sys2Proof.Claims
open Sys2Proof.Machine

/-! ## The firing -/

/-- Of the element a record holds the heads of the queues alone. -/
theorem Recorded.of_queues {key origin code beat slot : Nat} {cause : BitVec 8} {word addr : BitVec 64} {a b c : Vec} {e e' : Elem}
    {r : BitVec 1024} (h : Recorded key origin cause code beat slot word addr a b c e r) (hq : e.queues = e'.queues) :
    Recorded key origin cause code beat slot word addr a b c e' r :=
  { h with
    heads := fun j hj => by
      have hget : getQ e j = getQ e' j := by unfold getQ; rw [hq]
      rw [← hget]
      exact h.heads j hj }

/-- The element in focus when it has paid for a firing (R112). -/
def paid (s : State) (f : Form) : Elem := { elem s with pow := (elem s).pow - f.hdr.beats.count * f.hdr.pwr.cost }

/-- The operands of the first beat. -/
def firstOps (s : State) (f : Form) : BeatOps := (readOps (elem s) (fpSample s) f 0).1

/-- The beats of a firing that traps in the first of them with no effect but its acquires. -/
def trapFiring (s : State) (f : Form) (t : BeatTrap) : Firing := ⟨acquireOps (paid s f) f 0, firstOps s f, 0, false, [], 0, some t⟩

/-- The first beat traps with no effect but its acquires. -/
def TrapsFirst (s : State) (f : Form) (exe : Exe) (t : BeatTrap) : Prop :=
  exe (fireCtx s f 1) (acquireOps (paid s f) f 0) 0 (firstOps s f) [] = ⟨acquireOps (paid s f) f 0, 0, 0, [], some t⟩

/-- A firing that is ready and traps in its first beat. -/
theorem elemTraps_fireForm {s : State} {f : Form} {ctx : Nat} (hg : OnGrid s) (hr : Ready s f ctx) {unit : Bool} (hu : unit = true)
    {exe : Exe} {t : BeatTrap} (ht : TrapsFirst s f exe t) (hcode : t.code < 2 ^ 11) (haddr : t.addr < 2 ^ 64)
    (lw : Nat) (carry : BeatOps → Bool) (after : Firing → State → State) :
    ElemTraps f t.cause t.code (BitVec.ofNat 64 t.addr) (firstOps s f).a (firstOps s f).b (firstOps s f).c (acquireOps (elem s) f 0) s
      (fireForm f 1 lw unit ctx carry exe after s) := by
  have hfires : (ready s (focusKey s) f ctx && unit) = true := by rw [hr.ready_eq hg, hu]; rfl
  have hbeats : runBeats s (fireCtx s f 1) exe lw = trapFiring s f t :=
    beats_of_first_trap (e := paid s f) lw (beats_count_pos _) ht
  obtain ⟨hst, hqueues, -, -⟩ := acquireOps_keeps (elem s) f 0
  have helem : (trapFiring s f t).elem = { acquireOps (elem s) f 0 with pow := (paid s f).pow } := acquireOps_pow ..
  have hrun : (trapFiring s f t).elem.st ≠ .trapped := by
    rw [helem]
    dsimp only
    rw [hst, hr.running]
    decide
  rw [fireForm_runs _ _ _ _ _ _ _ _ _ hfires]
  dsimp only
  rw [hbeats]
  change ElemTraps _ _ _ _ _ _ _ _ _ (finish s (fireCtx s f 1) lw carry (trapFiring s f t))
  obtain ⟨hE, hR⟩ := finish_of_trap (s := s) (x := fireCtx s f 1) lw carry (y := trapFiring s f t) rfl hrun
  obtain ⟨hotherE, hotherR, -⟩ := finish_frame s (fireCtx s f 1) lw carry (trapFiring s f t)
  have hkey : (fireCtx s f 1).key = focusKey s := rfl
  rw [hkey] at hE hR hotherE hotherR
  rw [hg.keyRegion_focusKey] at hR hotherR
  have hrec := recorded_trapRecord (trapFiring s f t).elem (focusKey s) t.cause (tget (elem s).slots s.focus.slot 0) (firstOps s f).a
    (firstOps s f).b (firstOps s f).c hcode hg.slot_lt haddr
  exact
    { state := by rw [hE]
      record := ⟨_, by rw [hE]; rfl, hrec.of_queues (by rw [helem]; exact hqueues)⟩
      since := by rw [hE]; rfl
      busy := by rw [hE]; rfl
      power := by rw [hE, helem]; rfl
      rest := by rw [hE, helem]
      frame :=
        { region := by rw [hR]
          fired := by rw [hR]; rfl
          regions := hotherR
          elems := hotherE
          mem := fun _ => rfl
          device := rfl } }

end Sys2Proof.Claims
end

section
/-!
# Traps of an element's instructions

TRAP and BKPT trap in their first beat (R136); so does a memory instruction whose first address traps or lies in a sealed granule that
it would write (R202, R210); a faulty slot traps on its predicate test alone (R77).
-/
namespace Sys2Proof.Claims
open Sys2Proof.Machine

/-! ## TRAP and BKPT -/

/-- A row of the encoding tables without operands. -/
def NoOperands (f : Form) : Prop := f.d = .unused ∧ f.a = .unused ∧ f.b = .unused ∧ f.c = .unused

theorem NoOperands.acquireOps_eq {f : Form} (h : NoOperands f) (e : Elem) (k : Nat) : acquireOps e f k = e := by
  obtain ⟨hd, ha, hb, hc⟩ := h
  unfold acquireOps
  rw [hd, ha, hb, hc]
  rfl

theorem NoOperands.firstOps_eq {f : Form} (h : NoOperands f) (s : State) : firstOps s f = ⟨0, 0, 0, 0⟩ := by
  obtain ⟨hd, ha, hb, hc⟩ := h
  unfold firstOps readOps
  rw [hd, ha, hb, hc]
  rfl

theorem NoOperands.chan_eq {f : Form} (h : NoOperands f) : f.chan = none := by
  rw [Form.chan, h.1]
  rfl

/-- An instruction without operands that only traps. -/
theorem elemTraps_fire {i : Instr} {f : Form} {s : State} (hi : i.form = some f) (hf : NoOperands f) (hg : OnGrid s) (hr : Ready s f 0)
    (cause : BitVec 8) (n : BitVec 11) :
    ∃ t, fire i 1 f.hdr.ty.width noCarry (trapExe cause n.toNat) s = .next t ∧ ElemTraps f cause n.toNat 0 0 0 0 (elem s) s t := by
  have hctx : resultCtx s f = 0 := by rw [resultCtx, hf.chan_eq]
  have h := elemTraps_fireForm hg hr rfl (exe := trapExe cause n.toNat) (t := ⟨cause, n.toNat, 0⟩) rfl n.isLt (Nat.two_pow_pos 64)
    f.hdr.ty.width noCarry fun _ t => t
  rw [hf.firstOps_eq, hf.acquireOps_eq] at h
  refine ⟨_, ?_, h⟩
  rw [fire, hi]
  dsimp only
  rw [hctx]

/-! ## Faulty slots -/

/-- A faulty slot whose predicate test passes traps, and pays nothing (R77). -/
theorem exec_faultySlotFire_traps {s : State} (cause : BitVec 8) (hpick : canPick s (focusKey s) = true)
    (hfaulty : (elem s).faulty.getLsbD s.focus.slot = true)
    (htest : wordPredTest (elem s) (tget (elem s).slots s.focus.slot 0) = true) :
    exec (.faultySlotFire cause) s = .next (elemTrap s (focusKey s) 0 cause 0 0 s.focus.slot (tget (elem s).slots s.focus.slot 0) 0 []) := by
  have hfires : (canPick s (focusKey s) && (getE s (focusKey s)).faulty.getLsbD s.focus.slot &&
      wordPredTest (getE s (focusKey s)) (tget (getE s (focusKey s)).slots s.focus.slot 0)) = true := by
    rw [hpick, show (getE s (focusKey s)).faulty.getLsbD s.focus.slot = true from hfaulty,
      show wordPredTest (getE s (focusKey s)) (tget (getE s (focusKey s)).slots s.focus.slot 0) = true from htest]
    rfl
  rw [exec_faultySlotFire]
  exact if_pos hfires

/-! ## Addresses that trap -/

/-- An address of a memory instruction fits a record's field of 64 bits. -/
def Fits : AddrRes → Prop
  | .trap _ a | .at_ a => a < 2 ^ 64
  | .skip => True

/-- The model's checks of an address within the bounds are those of `placed` (R202). -/
theorem placed_eq (x : Region) (key : Nat) (b : BitVec 256) (size a : Nat) :
    (if a % size ≠ 0 then AddrRes.trap 4 a
      else if recSpace b = 0 && decide (2 ^ 57 ≤ a) then .trap 6 a
      else if recSpace b ≠ 0 && (decide (spadSize x ≤ a) || !siteOk x (keySite (recTarget key b))) then .trap 5 a
      else .at_ a) = placed x key b size a := by
  unfold placed
  by_cases hs : recSpace b = 0 <;> simp [hs]

theorem fits_placed {x : Region} {key : Nat} {b : BitVec 256} {size a : Nat} (h : a < 2 ^ 64) : Fits (placed x key b size a) := by
  unfold placed
  repeat' split
  all_goals exact h

/-- A base has 57 bits and an extent 40, so that the faulting address of MemAddr has 64 (R200, R202). -/
theorem fits_memAddr (x : Region) (key : Nat) (b : BitVec 256) (spaces : List Nat) (o : Int) (size : Nat) :
    Fits (memAddr x key b spaces o size) := by
  have hbase : (if recSpace b = 0 then recBase b else recBase b % 2 ^ 16) < 2 ^ 57 := by
    have : recBase b < 2 ^ 57 := (b.extractLsb' 0 57).isLt
    split <;> omega
  have hext : recExtent b < 2 ^ 40 := (b.extractLsb' 64 40).isLt
  have hclamp : (if o < 0 then 0 else recExtent b - size) < 2 ^ 40 := by split <;> omega
  have hwrap : ∀ v : Int, wrap 64 v < 2 ^ 64 := fun v => by unfold wrap; omega
  unfold memAddr
  dsimp only
  split
  next => exact Nat.two_pow_pos 64
  next =>
    split
    next =>
      split
      next => exact hwrap _
      next =>
        split
        next => trivial
        next =>
          rw [placed_eq]
          exact fits_placed (by omega)
    next =>
      rw [placed_eq]
      exact fits_placed (by omega)

/-- A first address that traps. -/
theorem trapsFirst_of_memAddr_trap {s : State} {f : Form} {m : MemOp} {u : Nat} {imm : Int} {c : BitVec 8} {ad : Nat}
    (h : memAddr (getR s (here s)) (focusKey s) (recAt s m.rec_) m.spaces (recOffset (recAt s m.rec_) (firstOps s f).a imm 0 u) m.size =
      .trap c ad) (data : BeatOps → Vec) : TrapsFirst s f (fun x e k o _ => memBeat x e m k u imm o (data o)) ⟨c, 0, ad⟩ := by
  obtain ⟨-, -, hrecs, -⟩ := acquireOps_keeps (paid s f) f 0
  have hrec : tget (acquireOps (paid s f) f 0).recs m.rec_ 0 = recAt s m.rec_ := by rw [hrecs]; rfl
  unfold TrapsFirst memBeat
  dsimp only
  rw [hrec, show memAddr (fireCtx s f 1).region (fireCtx s f 1).key (recAt s m.rec_) m.spaces
    (recOffset (recAt s m.rec_) (firstOps s f).a imm 0 u) m.size = .trap c ad from h]

/-- An own write whose first address lies in a sealed granule (R210). -/
theorem trapsFirst_of_inSeal {s : State} {f : Form} {m : MemOp} {u : Nat} {imm : Int} {ad : Nat}
    (h : memAddr (getR s (here s)) (focusKey s) (recAt s m.rec_) m.spaces (recOffset (recAt s m.rec_) (firstOps s f).a imm 0 u) m.size =
      .at_ ad) (hspace : recSpace (recAt s m.rec_) = 1) (hstore : takesStore m.kind = true) (hseal : inSeal (elem s) ad)
    (data : BeatOps → Vec) : TrapsFirst s f (fun x e k o _ => memBeat x e m k u imm o (data o)) ⟨7, 0, ad⟩ := by
  obtain ⟨-, -, hrecs, hseals⟩ := acquireOps_keeps (paid s f) f 0
  have hrec : tget (acquireOps (paid s f) f 0).recs m.rec_ 0 = recAt s m.rec_ := by rw [hrecs]; rfl
  have hsealed : (recSpace (recAt s m.rec_) = 1 && takesStore m.kind && ((acquireOps (paid s f) f 0).seals.any fun p =>
      p.2.sealed && decide (p.2.lo ≤ ad / 16 * 16 ∧ ad / 16 * 16 < p.2.hi))) = true := by
    obtain ⟨p, hp, hs, hlo, hhi⟩ := hseal
    rw [hseals, hstore, decide_eq_true hspace]
    exact List.any_eq_true.2 ⟨p, hp, by rw [hs, decide_eq_true ⟨hlo, hhi⟩]; rfl⟩
  unfold TrapsFirst memBeat
  dsimp only
  rw [hrec, show memAddr (fireCtx s f 1).region (fireCtx s f 1).key (recAt s m.rec_) m.spaces
    (recOffset (recAt s m.rec_) (firstOps s f).a imm 0 u) m.size = .at_ ad from h]
  exact if_pos hsealed

/-! ## Memory instructions -/

theorem fireMem_eq {i : Instr} {f : Form} (hi : i.form = some f) (m : MemOp) (exe : Exe) (s : State) :
    fireMem i m exe s = .next (fireForm f 1 f.hdr.ty.width (memReady (elem s) m f.hdr.beats.count) (fieldCtx s f) noCarry exe
      (fun _ t => t) s) := by
  unfold fireMem
  rw [hi]
  rfl

/-- Each of these instructions fires `memBeat` with its own kind, step and data. -/
theorem exec_memForms {h : Hdr} {d a : Opnd} {off : BitVec 6} {rc : BitVec 3} {ch : BitVec 2} {sc : Scope} {pol : Policy}
    {p : Instr × MemOp × Nat × Bool} (hp : p ∈ memForms h d a off rc ch sc pol) (s : State) :
    p.2.1.rec_ = rc.toNat ∧ ∃ data : BeatOps → Vec,
      exec p.1 s = fireMem p.1 p.2.1 (fun x e k o _ => memBeat x e p.2.1 k p.2.2.1 (16 * off.toInt) o (data o)) s := by
  simp only [memForms, List.mem_cons, List.not_mem_nil, or_false] at hp
  rcases hp with rfl | rfl | rfl | rfl | rfl | rfl | rfl | rfl <;> exact ⟨rfl, _, rfl⟩

/-- A memory instruction whose first beat traps. -/
theorem elemTraps_memForms {h : Hdr} {d a : Opnd} {off : BitVec 6} {rc : BitVec 3} {ch : BitVec 2} {sc : Scope} {pol : Policy} {s : State}
    {p : Instr × MemOp × Nat × Bool} (hp : p ∈ memForms h d a off rc ch sc pol) {f : Form} (hf : p.1.form = some f) (hg : OnGrid s)
    (hr : Ready s f (fieldCtx s f)) (hm : MemFree (elem s) p.2.1 f.hdr.beats.count) {c : BitVec 8} {ad : Nat} (had : ad < 2 ^ 64)
    (ht : ∀ data : BeatOps → Vec,
      TrapsFirst s f (fun x e k o _ => memBeat x e p.2.1 k p.2.2.1 (16 * off.toInt) o (data o)) ⟨c, 0, ad⟩) :
    ∃ t, exec p.1 s = .next t ∧ ElemTraps f c 0 (BitVec.ofNat 64 ad) (firstOps s f).a (firstOps s f).b (firstOps s f).c
      (acquireOps (elem s) f 0) s t := by
  obtain ⟨-, data, hexec⟩ := exec_memForms hp s
  rw [hexec, fireMem_eq hf]
  exact ⟨_, rfl, elemTraps_fireForm hg hr hm.memReady_eq (ht data) (Nat.two_pow_pos 11) had _ _ _⟩

/-! ## The statement -/

/-- Settles O23: each case is a firing whose first beat traps, but for the faulty slot, which does not fire. -/
theorem elementTraps : Obligations.ElementTraps := by
  unfold Obligations.ElementTraps
  refine ⟨⟨fun h n f s hf hg hr => ?trap, fun h n f s hf hg hr => ?bkpt, fun cause s hg hrun hfree hact hfaulty htest => ?faulty⟩,
    fun h d a off rc ch sc pol s p hp f hf hg hr hm => ⟨fun c ad hgo => ?address, fun ad hgo hspace hstore hseal => ?sealed⟩⟩
  case trap =>
    cases hf
    exact elemTraps_fire (i := .trap h n) rfl ⟨rfl, rfl, rfl, rfl⟩ hg hr 0x10 n
  case bkpt =>
    cases hf
    exact elemTraps_fire (i := .bkpt h n) rfl ⟨rfl, rfl, rfl, rfl⟩ hg hr 0x11 n
  case faulty =>
    have htest' : wordPredTest (elem s) (tget (elem s).slots s.focus.slot 0) = true := predTest_of_bits fun j hj hmask => by
      rw [BitVec.getLsbD_extractLsb', decide_eq_true hj, Bool.true_and] at hmask ⊢
      exact htest j hj hmask
    obtain ⟨helem, hother, -⟩ := elemTrap_spec s (focusKey s) 0 cause 0 0 s.focus.slot (tget (elem s).slots s.focus.slot 0) 0 []
    have hrun' : (getE s (focusKey s)).st ≠ .trapped := fun e => by
      rw [show (getE s (focusKey s)).st = .running from hrun] at e
      cases e
    rw [if_neg hrun', hg.keyRegion_focusKey, trapRecord_nil] at helem
    exact ⟨_, _, exec_faultySlotFire_traps cause (canPick_focus hg hrun hfree hact) hfaulty htest', helem,
      recorded_trapRecord (elem s) (focusKey s) cause _ 0 0 0 (Nat.two_pow_pos 11) hg.slot_lt (Nat.two_pow_pos 64), hother,
      fun _ => rfl, fun _ => rfl, rfl⟩
  case address =>
    rw [← (exec_memForms hp s).1] at hgo
    exact elemTraps_memForms hp hf hg hr hm (show Fits (.trap c ad) from hgo ▸ fits_memAddr ..) (trapsFirst_of_memAddr_trap hgo)
  case sealed =>
    rw [← (exec_memForms hp s).1] at hgo hspace
    exact elemTraps_memForms hp hf hg hr hm (show Fits (.at_ ad) from hgo ▸ fits_memAddr ..) (trapsFirst_of_inSeal hgo hspace hstore hseal)

end Sys2Proof.Claims
end

section
/-!
# Firings that complete

A firing none of whose beats traps: each beat leaves what `Beat` says of it, the predicate update looks at the results of all of them, and
nothing outside the element changes (R106, R110).
-/
namespace Sys2Proof.Claims
open Sys2Proof.Machine

/-! ## Queues that lose their heads (R106, R172) -/

/-- One distinct queue of a firing loses its head. -/
def dropHead (now c : Nat) (e : Elem) (q : Fin 6) : Elem := freeLate (dequeue e q.val) q.val now c

/-- Its head leaves as `leftAt` has it, and every other queue stays. -/
theorem getQ_dropHead (now c : Nat) (e : Elem) (q : Fin 6) (n : Nat) :
    getQ (dropHead now c e q) n = if n = q.val then leftAt now c (getQ e n) else getQ e n := by
  have hpop : ∀ m, getQ (dequeue e q.val) m = if m = q.val then popped (getQ e m) else getQ e m := fun m => by
    rw [getQ_dequeue]
    split
    next h => subst h; unfold popped; cases (getQ e q.val).toks <;> rfl
    next => rfl
  unfold dropHead freeLate leftAt
  by_cases hc : c = now
  · rw [if_pos hc, hpop]
    simp only [if_pos hc]
  · rw [if_neg hc]
    dsimp only
    rw [getQ_setQ, hpop, hpop, if_pos rfl]
    simp only [if_neg hc]
    split
    next h => rw [h]
    next => rfl

theorem dropHead_rest (now c : Nat) (e : Elem) (q : Fin 6) : { dropHead now c e q with queues := e.queues } = e := by
  have h := dequeue_rest e q.val
  unfold dropHead freeLate
  split
  · exact h
  · exact h

/-- A fold over distinct queues takes the head of each queue that is listed. -/
theorem getQ_dequeueAll (now c : Nat) (qs : List (Fin 6)) (e : Elem) (n : Nat) :
    getQ (dequeueAll e now c qs) n = if n ∈ qs.map Fin.val then leftAt now c (getQ e n) else getQ e n := by
  induction hk : qs.length using Nat.strong_induction_on generalizing qs e with
  | _ k ih =>
    cases qs with
    | nil => simp [dequeueAll]
    | cons q qs =>
      have hlen : (qs.filter fun p => !p == q).length < k := by
        rw [← hk, List.length_cons]
        exact Nat.lt_succ_of_le (List.length_filter_le ..)
      have hcons : dequeueAll e now c (q :: qs) = dequeueAll (dropHead now c e q) now c (qs.filter fun p => !p == q) := by
        rw [dequeueAll, List.eraseDups_cons, List.foldl_cons]
        rfl
      rw [hcons, ih _ hlen _ _ rfl, getQ_dropHead]
      by_cases hn : n = q.val
      · subst hn
        simp [Fin.val_inj]
      · have hmem : n ∈ (qs.filter fun p => !p == q).map Fin.val ↔ n ∈ qs.map Fin.val := by
          simp only [List.mem_map, List.mem_filter]
          refine ⟨fun ⟨p, hp, hv⟩ => ⟨p, hp.1, hv⟩, fun ⟨p, hp, hv⟩ => ⟨p, ⟨hp, ?_⟩, hv⟩⟩
          have : p ≠ q := fun e => hn (by rw [← hv, e])
          simpa using this
        simp [hn, hmem]

/-- Apart from its queues the element stays as it is. -/
theorem dequeueAll_rest (now c : Nat) (qs : List (Fin 6)) (e : Elem) : { dequeueAll e now c qs with queues := e.queues } = e := by
  have fold : ∀ (l : List (Fin 6)) (a : Elem), { l.foldl (dropHead now c) a with queues := e.queues } = { a with queues := e.queues } := by
    intro l
    induction l with
    | nil => exact fun _ => rfl
    | cons q l ih =>
      intro a
      rw [List.foldl_cons, ih]
      exact congrArg (fun b : Elem => { b with queues := e.queues }) (dropHead_rest now c a q)
  exact fold qs.eraseDups e

/-! ## Results (R106, R109, R168) -/

/-- A sideband of KIND 0 without a scope or an end of wave, as its fields (R167). -/
theorem mkSide_eq_fields (c : BitVec 2) (v : BitVec 5) : mkSide 0 0 false c.toNat v.toNat = 0#6 ++ c ++ 0#3 ++ v := by
  have hc := c.isLt
  have hv := v.isLt
  apply BitVec.eq_of_toNat_eq
  simp only [mkSide, BitVec.toNat_append, BitVec.toNat_ofNat, Bool.false_eq_true, if_false]
  rw [← Nat.shiftLeft_add_eq_or_of_lt hv, ← Nat.shiftLeft_add_eq_or_of_lt (by decide : 0 % 2 ^ 3 < 2 ^ 3),
    ← Nat.shiftLeft_add_eq_or_of_lt hc]
  simp only [Nat.shiftLeft_eq]
  omega

/-- A register file after a write, with the statements' comparison of numbers. -/
theorem tget_tset_beq {α : Type} (t : Table α) (k n : Nat) (v d : α) :
    tget (tset t k v) n d = if (k == n) = true then v else tget t n d := by
  rw [tget_tset]
  by_cases h : n = k
  · rw [if_pos h, if_pos (beq_iff_eq.2 h.symm)]
  · rw [if_neg h, if_neg fun e => h (beq_iff_eq.1 e).symm]

/-- WriteDest and the shift of la and lb, for a row that has a result. -/
def putResult (x : Ctx) (k : Nat) (v : Vec) (e : Elem) : Elem :=
  if x.form.result then { writeDest x e k v x.form.d with lb := (writeDest x e k v x.form.d).la, la := v } else e

/-- A result changes the registers, the channels and the implicit registers, and nothing else. -/
theorem putResult_rest (x : Ctx) (k : Nat) (v : Vec) (e : Elem) :
    { putResult x k v e with f := e.f, m := e.m, la := e.la, lb := e.lb, out := e.out } = e := by
  unfold putResult
  split
  · cases x.form.d with
    | dst o | dstMain o => cases o <;> rfl
    | _ => rfl
  · rfl

theorem putResult_f (x : Ctx) (k : Nat) (v : Vec) (e : Elem) (n : Nat) :
    tget (putResult x k v e).f n 0 = if destF x.form n then v else tget e.f n 0 := by
  unfold putResult destF
  cases x.form.result with
  | false => rfl
  | true =>
    cases x.form.d with
    | dst o | dstMain o =>
      cases o with
      | f m => exact tget_tset_beq ..
      | _ => rfl
    | _ => rfl

theorem putResult_m (x : Ctx) (k : Nat) (v : Vec) (e : Elem) (n : Nat) :
    tget (putResult x k v e).m n 0 = if destM x.form n then v else tget e.m n 0 := by
  unfold putResult destM
  cases x.form.result with
  | false => rfl
  | true =>
    cases x.form.d with
    | dst o => cases o <;> rfl
    | dstMain o =>
      cases o with
      | m j => exact tget_tset_beq ..
      | _ => rfl
    | _ => rfl

theorem putResult_la (x : Ctx) (k : Nat) (v : Vec) (e : Elem) : (putResult x k v e).la = if x.form.result then v else e.la := by
  unfold putResult
  split <;> rfl

theorem putResult_lb (x : Ctx) (k : Nat) (v : Vec) (e : Elem) : (putResult x k v e).lb = if x.form.result then e.la else e.lb := by
  unfold putResult
  split
  · cases x.form.d with
    | dst o | dstMain o => cases o <;> rfl
    | _ => rfl
  · rfl

/-- A result that goes to a channel joins the output stage as a token of the channel's tag. -/
theorem putResult_out (x : Ctx) (k : Nat) (v : Vec) (e : Elem) :
    match destO x.form with
    | none => (putResult x k v e).out = e.out
    | some c => ∃ o, (putResult x k v e).out = e.out ++ [o] ∧
        Sent c v (resultSide e c) (x.cycle + (k + 1) * x.cpb - 1) none e o := by
  unfold putResult destO
  cases x.form.result with
  | false => rfl
  | true =>
    cases x.form.d with
    | dst o | dstMain o =>
      cases o with
      | q j => exact ⟨_, rfl, ⟨rfl, rfl, mkSide_eq_fields _ _, rfl, rfl, rfl, rfl, rfl, rfl⟩⟩
      | _ => rfl
    | _ => rfl

/-! ## One beat (R106) -/

/-- The element after a beat that does not trap, whose operands set the flags fl. -/
def beatElem (x : Ctx) (k : Nat) (fl : Flags) (r : BeatRes) : Elem :=
  let e := putResult x k r.res (setFlags r.elem (fl ||| r.flags))
  if x.form.hdr.dq then dequeueAll e x.cycle (x.cycle + k * x.cpb) x.form.queues else e

/-- The operands of beat k, and what Execute gives for it. -/
def beatOps (x : Ctx) (k : Nat) (y : Firing) : BeatOps × Flags := readOps y.elem x.sample x.form k
def beatRes (x : Ctx) (exe : Exe) (k : Nat) (y : Firing) : BeatRes :=
  exe x (acquireOps y.elem x.form k) k (beatOps x k y).1 y.held

/-- A beat that does not trap. -/
theorem beat_of_no_trap {x : Ctx} {exe : Exe} {k : Nat} {y : Firing} (rw : Nat) (hy : y.trap = none) (hk : y.done = k)
    (hr : (beatRes x exe k y).trap = none) :
    beat x exe rw y = ⟨beatElem x k (beatOps x k y).2 (beatRes x exe k y), (beatOps x k y).1, (beatRes x exe k y).res,
      y.any || !allZero x.form.fpLanes rw (beatRes x exe k y).res, (beatRes x exe k y).held, k + 1, none⟩ := by
  subst hk
  unfold beatRes beatOps at hr
  unfold beat
  rw [hy]
  dsimp only
  rw [hr]
  rfl

/-- A beat changes what its result changes, the flags and the queues. -/
theorem beatElem_eq (x : Ctx) (k : Nat) (fl : Flags) (r : BeatRes) :
    beatElem x k fl r = { putResult x k r.res (setFlags r.elem (fl ||| r.flags)) with queues := (beatElem x k fl r).queues } := by
  unfold beatElem
  dsimp only
  split
  · exact congrArg (fun e : Elem => { e with queues := (dequeueAll (putResult x k r.res (setFlags r.elem (fl ||| r.flags))) x.cycle
      (x.cycle + k * x.cpb) x.form.queues).queues }) (dequeueAll_rest x.cycle (x.cycle + k * x.cpb) x.form.queues _)
  · rfl

theorem getQ_beatElem (x : Ctx) (k : Nat) (fl : Flags) (r : BeatRes) (q : Nat) :
    getQ (beatElem x k fl r) q = if x.form.hdr.dq = true ∧ q ∈ x.form.queues.map Fin.val
      then leftAt x.cycle (x.cycle + k * x.cpb) (getQ r.elem q) else getQ r.elem q := by
  have hrest := putResult_rest x k r.res (setFlags r.elem (fl ||| r.flags))
  have hq : getQ (putResult x k r.res (setFlags r.elem (fl ||| r.flags))) q = getQ r.elem q := by
    have h := congrArg (fun e => getQ e q) hrest
    exact h
  unfold beatElem
  dsimp only
  split
  next hdq => rw [getQ_dequeueAll, hq]; simp [hdq]
  next hdq => rw [hq, if_neg fun h => hdq h.1]

/-- The element after a beat is what the statements say of it. -/
theorem beat_beatElem (x : Ctx) (k : Nat) (fl : Flags) (r : BeatRes) : Beat x.form x k fl r (beatElem x k fl r) := by
  have hrest := putResult_rest x k r.res (setFlags r.elem (fl ||| r.flags))
  have hout := putResult_out x k r.res (setFlags r.elem (fl ||| r.flags))
  refine { freg := fun n => ?freg, mreg := fun n => ?mreg, la := ?la, lb := ?lb, flags := ?flags, out := ?out,
           queues := getQ_beatElem x k fl r, rest := ?rest }
  case freg => rw [beatElem_eq]; exact putResult_f ..
  case mreg => rw [beatElem_eq]; exact putResult_m ..
  case la => rw [beatElem_eq]; exact putResult_la ..
  case lb => rw [beatElem_eq]; exact putResult_lb ..
  case flags =>
    rw [beatElem_eq]
    exact congrArg Elem.fpst hrest
  case out =>
    rw [beatElem_eq]
    cases hd : destO x.form with
    | none => rw [hd] at hout; exact hout
    | some c =>
      rw [hd] at hout
      obtain ⟨o, ho, hsent⟩ := hout
      exact ⟨o, ho, { hsent with }⟩
  case rest =>
    rw [beatElem_eq]
    exact congrArg (fun e : Elem => { e with fpst := r.elem.fpst, queues := r.elem.queues }) hrest

/-! ## Zero lanes and the predicate update (R110) -/

theorem toNat_extractLsb'_mod {n : Nat} (v : BitVec n) (s m : Nat) : (v.extractLsb' s m).toNat = v.toNat / 2 ^ s % 2 ^ m := by
  rw [BitVec.extractLsb'_toNat, Nat.shiftRight_eq_div_pow]

/-- A lane of the model is the number of the lane's bits. -/
theorem laneOf_toNat (w : Nat) (v : Vec) (j : Nat) : laneOf w v.toNat j = (lane w v j).toNat :=
  (toNat_extractLsb'_mod ..).symm

theorem allZero_eq_zeroLanes (fp : Bool) (w : Nat) (v : Vec) : allZero fp w v = zeroLanes fp w v := by
  have hbits : ∀ j, laneZero fp w (laneOf w v.toNat j) = (v.extractLsb' (w * j) (if fp then w - 1 else w) == 0) := fun j => by
    rw [Bool.eq_iff_iff, beq_iff_eq, ← BitVec.toNat_inj, toNat_extractLsb'_mod]
    cases fp with
    | false => simp [laneZero, laneOf]
    | true => simp [laneZero, laneOf, Nat.mod_mod_of_dvd _ (Nat.pow_dvd_pow 2 (Nat.sub_le w 1))]
  unfold allZero lanes zeroLanes upto
  rw [List.all_map]
  exact congrArg (List.all (List.range (128 / w))) (funext hbits)

theorem getLsbD_preds_setP (e : Elem) (p : Nat) (v : Bool) {j : Nat} (hj : j < 8) :
    (setP e p v).preds.getLsbD j = if p = j then v else e.preds.getLsbD j := by
  have hbit : (BitVec.ofNat 8 (2 ^ p)).getLsbD j = decide (p = j) := by
    rw [BitVec.getLsbD_ofNat, decide_eq_true hj, Bool.true_and, Nat.testBit_two_pow]
  have hnew : (if v then BitVec.ofNat 8 (2 ^ p) else 0).getLsbD j = (v && decide (p = j)) := by
    cases v with
    | false => exact BitVec.getLsbD_zero
    | true => exact hbit
  unfold setP
  dsimp only
  rw [BitVec.getLsbD_or, BitVec.getLsbD_and, BitVec.getLsbD_not, hbit, hnew]
  by_cases h : p = j <;> simp [h, hj]

/-- The predicate that PS names takes the value of its mode, and every other predicate stays. -/
theorem getLsbD_preds_predUpdate (e : Elem) (ps : Option (PredMode × Fin 8)) (fp : Bool) {w : Nat} (hw : 0 < w) (n : Nat)
    (res : Nat → Vec) (carry : Bool) {j : Nat} (hj : j < 8) :
    (predUpdate e ps fp w (res (n - 1)) carry ((List.range n).any fun k => !zeroLanes fp w (res k))).preds.getLsbD j =
      match ps with
      | some (m, p) => if p.val = j then newPred m fp w n res carry (e.preds.getLsbD j) else e.preds.getLsbD j
      | none => e.preds.getLsbD j := by
  cases ps with
  | none => rfl
  | some mp =>
    obtain ⟨m, p⟩ := mp
    have hsign : (laneOf w (res (n - 1)).toNat 0).testBit (w - 1) = (res (n - 1)).getLsbD (w - 1) := by
      rw [laneOf_toNat, lane, Nat.mul_zero, BitVec.testBit_toNat, BitVec.getLsbD_extractLsb', decide_eq_true (by omega : w - 1 < w),
        Nat.zero_add, Bool.true_and]
    refine (getLsbD_preds_setP e p.val _ hj).trans ?_
    dsimp only
    split
    next h =>
      subst h
      cases m with
      | zero => exact allZero_eq_zeroLanes ..
      | sign => exact hsign
      | _ => rfl
    next => rfl

/-- It changes nothing but the predicates. -/
theorem predUpdate_rest (e : Elem) (ps : Option (PredMode × Fin 8)) (fp : Bool) (w : Nat) (res : Vec) (carry any : Bool) :
    { predUpdate e ps fp w res carry any with preds := e.preds, busy := e.busy } = e := by
  cases ps <;> rfl

/-! ## The beats of a firing -/

/-- Beats in order are the iterates of one beat. -/
theorem beats_eq_iterate (x : Ctx) (exe : Exe) (rw n : Nat) (y : Firing) : beats x exe rw n y = (beat x exe rw)^[n] y := by
  induction n generalizing y with
  | zero => rfl
  | succ n ih => rw [beats, ih, Function.iterate_succ_apply]

/-- A firing before its beats, of an element that has paid. -/
def atFirst (e : Elem) : Firing := ⟨e, default, 0, false, [], 0, none⟩

/-- A firing after k beats. -/
def afterBeats (x : Ctx) (exe : Exe) (rw : Nat) (e : Elem) (k : Nat) : Firing := (beat x exe rw)^[k] (atFirst e)

/-- No beat of the first n traps. -/
def NoTrap (x : Ctx) (exe : Exe) (n : Nat) : Prop := ∀ k < n, ∀ e o held, (exe x e k o held).trap = none

theorem afterBeats_progress {x : Ctx} {exe : Exe} {n : Nat} (rw : Nat) (e : Elem) (h : NoTrap x exe n) {k : Nat} (hk : k ≤ n) :
    (afterBeats x exe rw e k).trap = none ∧ (afterBeats x exe rw e k).done = k := by
  induction k with
  | zero => exact ⟨rfl, rfl⟩
  | succ k ih =>
    obtain ⟨htrap, hdone⟩ := ih (by omega)
    rw [afterBeats, Function.iterate_succ_apply', ← afterBeats,
      beat_of_no_trap rw htrap hdone (h k (by omega) _ _ _)]
    exact ⟨rfl, rfl⟩

theorem afterBeats_succ {x : Ctx} {exe : Exe} {n : Nat} (rw : Nat) (e : Elem) (h : NoTrap x exe n) {k : Nat} (hk : k < n) :
    let y := afterBeats x exe rw e k
    afterBeats x exe rw e (k + 1) = ⟨beatElem x k (beatOps x k y).2 (beatRes x exe k y), (beatOps x k y).1, (beatRes x exe k y).res,
      y.any || !allZero x.form.fpLanes rw (beatRes x exe k y).res, (beatRes x exe k y).held, k + 1, none⟩ := by
  obtain ⟨htrap, hdone⟩ := afterBeats_progress rw e h (Nat.le_of_lt hk)
  dsimp only
  rw [afterBeats, Function.iterate_succ_apply', ← afterBeats]
  exact beat_of_no_trap rw htrap hdone (h k hk _ _ _)

/-- What Execute gives for beat k of a firing. -/
def resOf (x : Ctx) (exe : Exe) (rw : Nat) (e : Elem) (k : Nat) : BeatRes := beatRes x exe k (afterBeats x exe rw e k)

theorem afterBeats_held {x : Ctx} {exe : Exe} {n : Nat} (rw : Nat) (e : Elem) (h : NoTrap x exe n) {k : Nat} (hk : k < n) :
    (afterBeats x exe rw e k).held = if k = 0 then [] else (resOf x exe rw e (k - 1)).held := by
  cases k with
  | zero => rfl
  | succ k => rw [afterBeats_succ rw e h (by omega)]; rfl

theorem afterBeats_any {x : Ctx} {exe : Exe} {n : Nat} (rw : Nat) (e : Elem) (h : NoTrap x exe n) {k : Nat} (hk : k ≤ n) :
    (afterBeats x exe rw e k).any = (List.range k).any fun j => !zeroLanes x.form.fpLanes rw (resOf x exe rw e j).res := by
  induction k with
  | zero => rfl
  | succ k ih =>
    rw [afterBeats_succ rw e h (by omega), List.range_succ, List.any_append, ← ih (by omega), List.any_cons, List.any_nil, Bool.or_false,
      ← allZero_eq_zeroLanes]
    rfl

theorem afterBeats_last {x : Ctx} {exe : Exe} {n : Nat} (rw : Nat) (e : Elem) (h : NoTrap x exe n) (hn : 0 < n) :
    (afterBeats x exe rw e n).ops = (beatOps x (n - 1) (afterBeats x exe rw e (n - 1))).1 ∧
      (afterBeats x exe rw e n).res = (resOf x exe rw e (n - 1)).res := by
  obtain ⟨m, rfl⟩ : ∃ m, n = m + 1 := ⟨n - 1, by omega⟩
  rw [afterBeats_succ rw e h (by omega)]
  exact ⟨rfl, rfl⟩

/-- Each beat has its effects, in the element that the beats before it leave, and leaves the element of the next. -/
theorem afterBeats_beat {x : Ctx} {exe : Exe} {n : Nat} {eff : Effects} (rw : Nat) (e : Elem) (h : NoTrap x exe n)
    (heff : ∀ k < n, ∀ e o held, eff x e k o held (exe x e k o held)) {k : Nat} (hk : k < n) :
    let y := afterBeats x exe rw e k
    eff x (acquireOps y.elem x.form k) k (beatOps x k y).1 (if k = 0 then [] else (resOf x exe rw e (k - 1)).held) (resOf x exe rw e k) ∧
      Beat x.form x k (beatOps x k y).2 (resOf x exe rw e k) (afterBeats x exe rw e (k + 1)).elem := by
  dsimp only
  rw [← afterBeats_held rw e h hk, afterBeats_succ rw e h hk]
  exact ⟨heff k hk _ _ _, beat_beatElem ..⟩

/-! ## The firing -/

/-- What a firing whose beats do not trap leaves in its element and its region. -/
theorem finish_of_no_trap (s : State) (x : Ctx) (rw : Nat) (carry : BeatOps → Bool) {y : Firing} (h : y.trap = none) :
    getE (finish s x rw carry y) x.key =
        { predUpdate y.elem x.form.hdr.ps x.form.fpLanes rw y.res (carry y.ops) y.any with busy := x.cycle + y.done * x.cpb } ∧
      getR (finish s x rw carry y) (keyRegion x.key) = { getR s (keyRegion x.key) with firedAt := some x.cycle } := by
  unfold finish
  rw [h]
  exact ⟨getE_setE .., (getR_setE ..).trans (getR_modR ..)⟩

/-- The beats of a firing start from the element that has paid (R112). -/
theorem runBeats_eq_afterBeats (s : State) (f : Form) (cpb rw : Nat) (exe : Exe) :
    runBeats s (fireCtx s f cpb) exe rw = afterBeats (fireCtx s f cpb) exe rw (paid s f) f.hdr.beats.count :=
  beats_eq_iterate ..

/-- The beats of a firing in the statements' words: the element before each beat, and what Execute gives for it. -/
theorem ran_of_no_trap {s : State} {f : Form} {cpb rw : Nat} {exe : Exe} {eff : Effects} (carry : BeatOps → Bool) (hw : 0 < rw)
    (htrap : NoTrap (fireCtx s f cpb) exe f.hdr.beats.count)
    (heff : ∀ k < f.hdr.beats.count, ∀ e o held, eff (fireCtx s f cpb) e k o held (exe (fireCtx s f cpb) e k o held)) :
    Ran f cpb rw carry eff s (getE (finish s (fireCtx s f cpb) rw carry (runBeats s (fireCtx s f cpb) exe rw)) (focusKey s)) := by
  obtain ⟨hnone, hdone⟩ := afterBeats_progress rw (paid s f) htrap (Nat.le_refl _)
  obtain ⟨hops, hres⟩ := afterBeats_last rw (paid s f) htrap (beats_count_pos _)
  obtain ⟨hE, -⟩ := finish_of_no_trap s (fireCtx s f cpb) rw carry hnone
  rw [hdone, hops, hres, afterBeats_any rw (paid s f) htrap (Nat.le_refl _)] at hE
  rw [runBeats_eq_afterBeats, show focusKey s = (fireCtx s f cpb).key from rfl, hE]
  refine ⟨fun k => (afterBeats (fireCtx s f cpb) exe rw (paid s f) k).elem, resOf (fireCtx s f cpb) exe rw (paid s f), rfl,
    fun k hk => ?beat, fun j hj => ?preds, rfl, ?rest⟩
  case beat =>
    obtain ⟨heffect, hbeat⟩ := afterBeats_beat rw (paid s f) htrap heff hk
    exact ⟨heffect, htrap k hk _ _ _, hbeat⟩
  case preds => exact getLsbD_preds_predUpdate _ _ _ hw _ (fun k => (resOf (fireCtx s f cpb) exe rw (paid s f) k).res) _ hj
  case rest => exact predUpdate_rest ..

/-- A firing that is ready and does not trap changes nothing outside its element (R102, R106). -/
theorem fireForm_completes {s : State} {f : Form} {ctx cpb rw : Nat} {unit : Bool} {exe : Exe} {eff : Effects} (hg : OnGrid s)
    (hr : Ready s f ctx) (hu : unit = true) (carry : BeatOps → Bool) (hw : 0 < rw)
    (htrap : NoTrap (fireCtx s f cpb) exe f.hdr.beats.count)
    (heff : ∀ k < f.hdr.beats.count, ∀ e o held, eff (fireCtx s f cpb) e k o held (exe (fireCtx s f cpb) e k o held)) :
    let t := fireForm f cpb rw unit ctx carry exe (fun _ t => t) s
    OnlyElem s t ∧ Ran f cpb rw carry eff s (getE t (focusKey s)) := by
  have hfires : (ready s (focusKey s) f ctx && unit) = true := by rw [hr.ready_eq hg, hu]; rfl
  have hnone : (runBeats s (fireCtx s f cpb) exe rw).trap = none := by
    rw [runBeats_eq_afterBeats]
    exact (afterBeats_progress rw (paid s f) htrap (Nat.le_refl _)).1
  obtain ⟨-, hR⟩ := finish_of_no_trap s (fireCtx s f cpb) rw carry hnone
  obtain ⟨hotherE, hotherR, -⟩ := finish_frame s (fireCtx s f cpb) rw carry (runBeats s (fireCtx s f cpb) exe rw)
  rw [show (fireCtx s f cpb).key = focusKey s from rfl] at hR hotherE hotherR
  rw [hg.keyRegion_focusKey] at hR hotherR
  dsimp only
  rw [fireForm_runs _ _ _ _ _ _ _ _ _ hfires]
  dsimp only
  rw [ite_self]
  refine ⟨?_, ran_of_no_trap carry hw htrap heff⟩
  exact
    { region := by rw [hR]
      fired := by rw [hR]; rfl
      regions := hotherR
      elems := hotherE
      mem := fun _ => by unfold finish; rw [hnone]; rfl
      device := by unfold finish; rw [hnone]; rfl }

/-- An instruction that is fired, with no further condition and no effect beyond the element, completes with the effects of its
Execute. -/
theorem fires_of_exec {i : Instr} {f : Form} {s : State} {cpb rw : Nat} {carry : BeatOps → Bool} {exe : Exe} {eff : Effects}
    (hf : i.form = some f) (hi : exec i s = fire i cpb rw carry exe s) (hw : 0 < rw)
    (htrap : ∀ x e k o held, (exe x e k o held).trap = none) (heff : ∀ x e k o held, eff x e k o held (exe x e k o held)) :
    Fires i cpb rw carry eff s := by
  refine ⟨f, hf, fun hg hr _ => ⟨_, hi.trans ?_,
    fireForm_completes hg hr rfl carry hw (fun k _ e => htrap _ e k) fun k _ e => heff _ e k⟩⟩
  rw [fire, hf]
  rfl

end Sys2Proof.Claims
end

section
/-!
# Lanes

What a lane is of a value whose lanes are listed, and of a lane-by-lane function of one, two or three operands (R5, R69); likewise the
flags of every lane together (R50).
-/
namespace Sys2Proof

/-- No lane is empty (R69). -/
theorem LaneTy.width_pos (t : LaneTy) : 0 < t.width := by cases t <;> decide

end Sys2Proof

namespace Sys2Proof.Claims
open Sys2Proof.Machine

/-! ## Packed lanes -/

/-- A list of lanes holds each lane at its bits. -/
theorem packLanes_div_mod (w : Nat) (l : List Nat) (j : Nat) : packLanes w l / 2 ^ (w * j) % 2 ^ w = l.getD j 0 % 2 ^ w := by
  induction l generalizing j with
  | nil => simp [packLanes]
  | cons x xs ih =>
    cases j with
    | zero => simp [packLanes]
    | succ j =>
      rw [packLanes, Nat.mul_succ, Nat.add_comm (w * j), Nat.pow_add, ← Nat.div_div_eq_div_mul,
        Nat.add_mul_div_left _ _ (Nat.two_pow_pos w), Nat.div_eq_of_lt (Nat.mod_lt _ (Nat.two_pow_pos w)), Nat.zero_add, ih,
        List.getD_cons_succ]

/-- A lane lies inside the operand. -/
theorem lane_end_le {w j : Nat} (hj : j < 128 / w) : w * j + w ≤ 128 :=
  calc w * j + w = w * (j + 1) := (Nat.mul_succ w j).symm
    _ ≤ w * (128 / w) := Nat.mul_le_mul_left w hj
    _ ≤ 128 := Nat.mul_div_le 128 w

theorem lane_vecOf (w : Nat) (l : List Nat) {j : Nat} (hj : j < 128 / w) : lane w (vecOf w l) j = BitVec.ofNat w (l.getD j 0) := by
  have hend := lane_end_le hj
  apply BitVec.eq_of_toNat_eq
  rw [← laneOf_toNat, laneOf, vecOf, BitVec.toNat_ofNat, BitVec.toNat_ofNat, ← packLanes_div_mod,
    show (2 : Nat) ^ 128 = 2 ^ (w * j) * (2 ^ w * 2 ^ (128 - (w * j + w))) by rw [← Nat.pow_add, ← Nat.pow_add]; congr 1; omega,
    Nat.mod_mul_right_div_self, Nat.mod_mul_right_mod]

/-- A lane of a value that is given lane by lane. -/
theorem lane_vecOf_map (w : Nat) (g : Nat → Nat) {j : Nat} (hj : j < 128 / w) :
    lane w (vecOf w ((upto (128 / w)).map g)) j = BitVec.ofNat w (g j) := by
  rw [lane_vecOf w _ hj, List.getD_eq_getElem?_getD, List.getElem?_map, upto, List.getElem?_range hj]
  rfl

/-! ## Lane by lane -/

theorem lane_lanes1 (w : Nat) (g : Nat → Nat) (a : Vec) {j : Nat} (hj : j < 128 / w) :
    lane w (lanes1 w g a) j = BitVec.ofNat w (g (lane w a j).toNat) := by
  rw [lanes1, lanes, List.map_map, lane_vecOf_map w _ hj, Function.comp, laneOf_toNat]

theorem lane_lanes2 (w : Nat) (g : Nat → Nat → Nat) (a b : Vec) {j : Nat} (hj : j < 128 / w) :
    lane w (lanes2 w g a b) j = BitVec.ofNat w (g (lane w a j).toNat (lane w b j).toNat) := by
  rw [lanes2, lanes, lanes, List.zipWith_map, List.zipWith_self, lane_vecOf_map w _ hj, laneOf_toNat, laneOf_toNat]

theorem lane_lanes3 (w : Nat) (g : Nat → Nat → Nat → Nat) (a b c : Vec) {j : Nat} (hj : j < 128 / w) :
    lane w (lanes3 w g a b c) j = BitVec.ofNat w (g (lane w a j).toNat (lane w b j).toNat (lane w c j).toNat) := by
  rw [lanes3, lanes, lanes, lanes, List.zip_map, List.zip, List.zipWith_self, List.map_map, List.zipWith_map, List.zipWith_self,
    lane_vecOf_map w _ hj, laneOf_toNat]
  simp [laneOf_toNat]

/-! ## Flags (R50) -/

/-- A flag of many is set where one of them sets it. -/
theorem getLsbD_foldl_or {α : Type} (h : α → Flags) (l : List α) (a : Flags) (i : Nat) :
    (l.foldl (fun a x => a ||| h x) a).getLsbD i = (a.getLsbD i || l.any fun x => (h x).getLsbD i) := by
  induction l generalizing a with
  | nil => simp
  | cons x l ih => rw [List.foldl_cons, ih, BitVec.getLsbD_or, List.any_cons, Bool.or_assoc]

theorem getLsbD_foldl_or_zero {α : Type} (h : α → Flags) (l : List α) (i : Nat) :
    (l.foldl (fun a x => a ||| h x) 0).getLsbD i = l.any fun x => (h x).getLsbD i :=
  (getLsbD_foldl_or h l 0 i).trans (by rw [show (0 : Flags).getLsbD i = false from BitVec.getLsbD_zero, Bool.false_or])

/-- Codes and flags given lane by lane are those of `fpLanes`. -/
theorem fpLanes_collect (w : Nat) (g : BeatOps → Nat → Nat × Flags) (x : Ctx) (e : Elem) (k : Nat) (o : BeatOps) (held later : List Vec) :
    let r := collect w ((upto (128 / w)).map (g o))
    fpLanes w g x e k o held ⟨e, r.1, r.2, later, none⟩ := by
  refine ⟨fun j hj => ?lane, fun i => ?flag, rfl⟩
  case lane =>
    change lane w (vecOf w (((upto (128 / w)).map (g o)).map (·.1))) j = _
    rw [List.map_map, lane_vecOf_map w _ hj]
    rfl
  case flag =>
    change (((upto (128 / w)).map (g o)).foldl (fun (a : Flags) (x : Nat × Flags) => a ||| x.2) 0).getLsbD i = _
    rw [getLsbD_foldl_or_zero, List.any_map]
    rfl

end Sys2Proof.Claims
end

section
/-!
# Integer lanes

The model computes on lanes as numbers, the statements on lanes as words: each function and each carry of R141 to R145, for every width.
-/
namespace Sys2Proof.Claims
open Sys2Proof.Machine

/-! ## Words of integers -/

theorem ofNat_wrap (w : Nat) (v : Int) : BitVec.ofNat w (wrap w v) = BitVec.ofInt w v := by
  apply BitVec.eq_of_toNat_eq
  have hpos : (0 : Int) < ((2 ^ w : Nat) : Int) := Int.natCast_pos.2 (Nat.two_pow_pos w)
  have hnonneg := Int.emod_nonneg v (Int.ne_of_gt hpos)
  have hlt := Int.emod_lt_of_pos v hpos
  rw [BitVec.toNat_ofNat, BitVec.toNat_ofInt, wrap, Nat.mod_eq_of_lt (by omega)]

theorem ofInt_sub {w : Nat} (v u : Int) : BitVec.ofInt w (v - u) = BitVec.ofInt w v - BitVec.ofInt w u := by
  rw [Int.sub_eq_add_neg, BitVec.ofInt_add, BitVec.ofInt_neg, BitVec.sub_eq_add_neg]

theorem ofInt_toNat {w : Nat} (x : BitVec w) : BitVec.ofInt w x.toNat = x := by
  rw [BitVec.ofInt_natCast, BitVec.ofNat_toNat, BitVec.setWidth_eq]

section widths
variable {w : Nat} (x y z : BitVec w)

/-! ## Sums and products (R141) -/

theorem ofNat_lAdd : BitVec.ofNat w (lAdd w x.toNat y.toNat) = x + y := by
  rw [lAdd, ofNat_wrap, BitVec.ofInt_add, ofInt_toNat, ofInt_toNat]

theorem ofNat_lSub : BitVec.ofNat w (lSub w x.toNat y.toNat) = x - y := by
  rw [lSub, ofNat_wrap, ofInt_sub, ofInt_toNat, ofInt_toNat]

theorem satS_eq_clamp (w : Nat) (v : Int) : satS w v = max (-2 ^ (w - 1)) (min v (2 ^ (w - 1) - 1)) := by
  have hpow : ((2 ^ (w - 1) : Nat) : Int) = 2 ^ (w - 1) := Int.natCast_pow 2 _
  have hpos := Nat.two_pow_pos (w - 1)
  unfold satS
  rw [← hpow]
  omega

theorem satU_eq_clamp (w : Nat) (v : Int) : satU w v = max 0 (min v (2 ^ w - 1)) := by
  have hpow : ((2 ^ w : Nat) : Int) = 2 ^ w := Int.natCast_pow 2 _
  have hpos := Nat.two_pow_pos w
  unfold satU
  rw [← hpow]
  omega

theorem ofNat_wrap_satS (w : Nat) (v : Int) : BitVec.ofNat w (wrap w (satS w v)) = saturate w v := by
  rw [ofNat_wrap, satS_eq_clamp, saturate]

theorem ofNat_wrap_satU (w : Nat) (v : Int) : BitVec.ofNat w (wrap w (satU w v)) = saturateU w v := by
  rw [ofNat_wrap, satU_eq_clamp, saturateU]

theorem ofNat_lAdds (hw : 0 < w) : BitVec.ofNat w (lAdds w x.toNat y.toNat) = saturate w (x.toInt + y.toInt) := by
  rw [lAdds, ofNat_wrap_satS, sext_toNat x hw, sext_toNat y hw]

theorem ofNat_lSubs (hw : 0 < w) : BitVec.ofNat w (lSubs w x.toNat y.toNat) = saturate w (x.toInt - y.toInt) := by
  rw [lSubs, ofNat_wrap_satS, sext_toNat x hw, sext_toNat y hw]

theorem ofNat_lAddus : BitVec.ofNat w (lAddus w x.toNat y.toNat) = saturateU w (x.toNat + y.toNat) := ofNat_wrap_satU ..

theorem ofNat_lSubus : BitVec.ofNat w (lSubus w x.toNat y.toNat) = saturateU w (x.toNat - y.toNat : Int) := ofNat_wrap_satU ..

theorem ofNat_lMad (hw : 0 < w) : BitVec.ofNat w (lMad w x.toNat y.toNat z.toNat) = x * y + z := by
  rw [lMad, ofNat_wrap, sext_toNat x hw, sext_toNat y hw, sext_toNat z hw, BitVec.ofInt_add, BitVec.ofInt_mul, BitVec.ofInt_toInt,
    BitVec.ofInt_toInt, BitVec.ofInt_toInt]

theorem ofNat_lMul (hw : 0 < w) : BitVec.ofNat w (lMul w x.toNat y.toNat) = x * y := by
  rw [lMul, ofNat_wrap, sext_toNat x hw, sext_toNat y hw, BitVec.ofInt_mul, BitVec.ofInt_toInt, BitVec.ofInt_toInt]

/-- The upper half of a word of twice the width. -/
theorem extractLsb'_ofInt (w : Nat) (v : Int) : (BitVec.ofInt (2 * w) v).extractLsb' w w = BitVec.ofInt w (v / ((2 ^ w : Nat) : Int)) := by
  have hpos : (0 : Int) < ((2 ^ w : Nat) : Int) := Int.natCast_pos.2 (Nat.two_pow_pos w)
  have hsquare : ((2 ^ (2 * w) : Nat) : Int) = ((2 ^ w : Nat) : Int) * ((2 ^ w : Nat) : Int) := by
    rw [Nat.two_mul, Nat.pow_add, Int.natCast_mul]
  obtain ⟨r, hr⟩ : ∃ r : Nat, v % ((2 ^ (2 * w) : Nat) : Int) = r :=
    Int.eq_ofNat_of_zero_le (Int.emod_nonneg v (by rw [hsquare]; exact (Int.mul_pos hpos hpos).ne'))
  have hdiv : v / ((2 ^ w : Nat) : Int) % ((2 ^ w : Nat) : Int) = ((r / 2 ^ w % 2 ^ w : Nat) : Int) := by
    have hv := Int.emod_add_mul_ediv v ((2 ^ (2 * w) : Nat) : Int)
    rw [hr, hsquare, Int.mul_assoc] at hv
    rw [← hv, Int.add_mul_ediv_left _ _ hpos.ne', Int.add_mul_emod_self_left]
    rfl
  apply BitVec.eq_of_toNat_eq
  rw [toNat_extractLsb'_mod, BitVec.toNat_ofInt, BitVec.toNat_ofInt, hr, hdiv, Int.toNat_natCast, Int.toNat_natCast]

theorem ofNat_lMulh (hw : 0 < w) :
    BitVec.ofNat w (lMulh w x.toNat y.toNat) = (x.signExtend (2 * w) * y.signExtend (2 * w)).extractLsb' w w := by
  rw [lMulh, ofNat_wrap, sext_toNat x hw, sext_toNat y hw, BitVec.signExtend, BitVec.signExtend, ← BitVec.ofInt_mul, extractLsb'_ofInt]

theorem ofNat_lMulhu : BitVec.ofNat w (lMulhu w x.toNat y.toNat) = (x.setWidth (2 * w) * y.setWidth (2 * w)).extractLsb' w w := by
  have hx := x.isLt
  have hy := y.isLt
  have hpow : 2 ^ (2 * w) = 2 ^ w * 2 ^ w := by rw [Nat.two_mul, Nat.pow_add]
  have hprod : x.toNat * y.toNat < 2 ^ (2 * w) := hpow ▸ Nat.mul_lt_mul'' hx hy
  apply BitVec.eq_of_toNat_eq
  rw [toNat_extractLsb'_mod, BitVec.toNat_mul, BitVec.toNat_setWidth_of_le (by omega), BitVec.toNat_setWidth_of_le (by omega),
    Nat.mod_eq_of_lt hprod, BitVec.toNat_ofNat, lMulhu]

/-! ## Order (R141) -/

theorem ofNat_lMin (hw : 0 < w) : BitVec.ofNat w (lMin w x.toNat y.toNat) = if x.sle y then x else y := by
  rw [lMin, ofNat_wrap, sext_toNat x hw, sext_toNat y hw, iMin, apply_ite (BitVec.ofInt w), BitVec.ofInt_toInt, BitVec.ofInt_toInt,
    BitVec.sle]
  simp only [decide_eq_true_eq]

theorem ofNat_lMax (hw : 0 < w) : BitVec.ofNat w (lMax w x.toNat y.toNat) = if x.sle y then y else x := by
  rw [lMax, ofNat_wrap, sext_toNat x hw, sext_toNat y hw, iMax, apply_ite (BitVec.ofInt w), BitVec.ofInt_toInt, BitVec.ofInt_toInt,
    BitVec.sle]
  simp only [decide_eq_true_eq]

theorem ofNat_lMinu : BitVec.ofNat w (lMinu x.toNat y.toNat) = if x.ule y then x else y := by
  rw [lMinu, apply_ite (BitVec.ofNat w), BitVec.ofNat_toNat, BitVec.ofNat_toNat, BitVec.setWidth_eq, BitVec.setWidth_eq, BitVec.ule]
  simp only [decide_eq_true_eq]

theorem ofNat_lMaxu : BitVec.ofNat w (lMaxu x.toNat y.toNat) = if x.ule y then y else x := by
  rw [lMaxu, apply_ite (BitVec.ofNat w), BitVec.ofNat_toNat, BitVec.ofNat_toNat, BitVec.setWidth_eq, BitVec.setWidth_eq, BitVec.ule]
  simp only [decide_eq_true_eq]

theorem ofNat_lAbsd : BitVec.ofNat w (lAbsd x.toNat y.toNat) = if x.ule y then y - x else x - y := by
  have hsub : ∀ a b : BitVec w, a.toNat ≤ b.toNat → BitVec.ofNat w (b.toNat - a.toNat) = b - a := fun a b h => by
    rw [← BitVec.ofInt_natCast, Int.natCast_sub h, ofInt_sub, ofInt_toNat, ofInt_toNat]
  unfold lAbsd BitVec.ule
  simp only [decide_eq_true_eq]
  split
  next h => exact hsub x y h
  next h => exact hsub y x (by omega)

theorem ofNat_lMask (p : Bool) : BitVec.ofNat w (lMask w p) = maskIf w p := by
  cases p with
  | false => rfl
  | true =>
    apply BitVec.eq_of_toNat_eq
    rw [BitVec.toNat_ofNat, lMask, maskIf, if_pos rfl, if_pos rfl, BitVec.toNat_allOnes, ones,
      Nat.mod_eq_of_lt (Nat.sub_lt (Nat.two_pow_pos w) Nat.one_pos)]

theorem beq_toNat : (x.toNat == y.toNat) = (x == y) := by
  rw [Bool.eq_iff_iff, beq_iff_eq, beq_iff_eq, BitVec.toNat_inj]

theorem decide_sext_lt (hw : 0 < w) : decide (sext w x.toNat < sext w y.toNat) = x.slt y := by
  rw [sext_toNat x hw, sext_toNat y hw, BitVec.slt]

/-- Saturated sums compared with a third operand. -/
theorem toInt_saturate (hw : 0 < w) (v : Int) : (saturate w v).toInt = satS w v := by
  have hpow : ((2 ^ (w - 1) : Nat) : Int) = 2 ^ (w - 1) := Int.natCast_pow 2 _
  have hpos := Nat.two_pow_pos (w - 1)
  rw [saturate, ← satS_eq_clamp]
  apply BitVec.toInt_ofInt_eq_self hw
  · rw [satS_eq_clamp, ← hpow]; omega
  · rw [satS_eq_clamp, ← hpow]; omega

theorem ofNat_lAddmin (hw : 0 < w) : BitVec.ofNat w (lAddmin w x.toNat y.toNat z.toNat) =
    if (saturate w (x.toInt + y.toInt)).sle z then saturate w (x.toInt + y.toInt) else z := by
  rw [lAddmin, ofNat_wrap, sext_toNat x hw, sext_toNat y hw, sext_toNat z hw, ← toInt_saturate hw, iMin, apply_ite (BitVec.ofInt w),
    BitVec.ofInt_toInt, BitVec.ofInt_toInt, BitVec.sle]
  simp only [decide_eq_true_eq]

theorem ofNat_lAddmax (hw : 0 < w) : BitVec.ofNat w (lAddmax w x.toNat y.toNat z.toNat) =
    if (saturate w (x.toInt + y.toInt)).sle z then z else saturate w (x.toInt + y.toInt) := by
  rw [lAddmax, ofNat_wrap, sext_toNat x hw, sext_toNat y hw, sext_toNat z hw, ← toInt_saturate hw, iMax, apply_ite (BitVec.ofInt w),
    BitVec.ofInt_toInt, BitVec.ofInt_toInt, BitVec.sle]
  simp only [decide_eq_true_eq]

/-! ## Bits, shifts and counts (R141) -/

theorem ofNat_and_toNat : BitVec.ofNat w (x.toNat &&& y.toNat) = x &&& y := by
  rw [← BitVec.toNat_and, BitVec.ofNat_toNat, BitVec.setWidth_eq]

theorem ofNat_or_toNat : BitVec.ofNat w (x.toNat ||| y.toNat) = x ||| y := by
  rw [← BitVec.toNat_or, BitVec.ofNat_toNat, BitVec.setWidth_eq]

theorem ofNat_xor_toNat : BitVec.ofNat w (x.toNat ^^^ y.toNat) = x ^^^ y := by
  rw [← BitVec.toNat_xor, BitVec.ofNat_toNat, BitVec.setWidth_eq]

theorem ofNat_lAndn : BitVec.ofNat w (lAndn w x.toNat y.toNat) = x &&& ~~~ y := by
  apply BitVec.eq_of_toNat_eq
  rw [lAndn, ones, Nat.mod_eq_of_lt y.isLt, ← BitVec.toNat_not, ← BitVec.toNat_and, BitVec.toNat_ofNat, Nat.mod_eq_of_lt (BitVec.isLt _)]

theorem ofNat_lShl (n : Nat) : BitVec.ofNat w (lShl w x.toNat n) = x <<< n := by
  apply BitVec.eq_of_toNat_eq
  rw [lShl, ofNat_wrap, BitVec.ofInt_natCast, BitVec.toNat_ofNat, BitVec.toNat_shiftLeft, Nat.shiftLeft_eq]

theorem ofNat_lShr (n : Nat) : BitVec.ofNat w (lShr x.toNat n) = x >>> n := by
  apply BitVec.eq_of_toNat_eq
  rw [lShr, BitVec.toNat_ofNat, BitVec.toNat_ushiftRight, Nat.shiftRight_eq_div_pow, Nat.mod_eq_of_lt]
  exact Nat.lt_of_le_of_lt (Nat.div_le_self ..) x.isLt

theorem ofNat_lSar (hw : 0 < w) (n : Nat) : BitVec.ofNat w (lSar w x.toNat n) = x.sshiftRight n := by
  rw [lSar, ofNat_wrap, sext_toNat x hw, BitVec.sshiftRight, Int.shiftRight_eq_div_pow]

theorem ofNat_lRol (hw : 0 < w) (n : Nat) : BitVec.ofNat w (lRol w x.toNat (n % w)) = x.rotateLeft (n % w) := by
  have hlt : n % w < w := Nat.mod_lt n hw
  have hpow : 2 ^ w = 2 ^ (w - n % w) * 2 ^ (n % w) := by rw [← Nat.pow_add]; congr 1; omega
  have hlow : x.toNat / 2 ^ (w - n % w) < 2 ^ (n % w) :=
    Nat.div_lt_of_lt_mul (by rw [← hpow]; exact x.isLt)
  have hsum : lRol w x.toNat (n % w) = (x.rotateLeft (n % w)).toNat := by
    rw [BitVec.toNat_rotateLeft, Nat.mod_mod, Nat.shiftRight_eq_div_pow, Nat.shiftLeft_eq, lRol, hpow, Nat.mul_mod_mul_right,
      ← Nat.shiftLeft_eq, Nat.shiftLeft_add_eq_or_of_lt hlow]
  rw [hsum, BitVec.ofNat_toNat, BitVec.setWidth_eq]

theorem ofNat_popCount : BitVec.ofNat w (popCount x.toNat w) = x.cpop := by
  have hcount : ∀ n, x.cpopNatRec n 0 = popCount x.toNat n := fun n => by
    induction n with
    | zero => rfl
    | succ n ih =>
      rw [BitVec.cpopNatRec_succ, popCount, upto, List.range_succ, List.filter_append, List.length_append, ← upto, ← popCount, ← ih,
        BitVec.cpopNatRec_eq, Nat.zero_add]
      cases hb : x.getLsbD n <;> simp [BitVec.testBit_toNat, hb]
  rw [BitVec.cpop, hcount]

theorem ofNat_lClz (hw : 0 < w) : BitVec.ofNat w (lClz w x.toNat) = x.clz := by
  apply BitVec.eq_of_toNat_eq
  rw [BitVec.toNat_ofNat, lClz, Nat.mod_eq_of_lt (Nat.lt_of_le_of_lt (Nat.sub_le ..) Nat.lt_two_pow_self)]
  by_cases hx : x = 0#w
  · rw [BitVec.clz_eq_iff_eq_zero.2 hx, hx]
    simp [Nat.mod_eq_of_lt Nat.lt_two_pow_self]
  · have hlt : x.clz.toNat < w := by
      have h := BitVec.clz_lt_iff_ne_zero.2 hx
      rw [BitVec.lt_def] at h
      simpa [Nat.mod_eq_of_lt Nat.lt_two_pow_self] using h
    have hne : x.toNat ≠ 0 := fun h => hx (BitVec.eq_of_toNat_eq h)
    have hlog : x.toNat.log2 = w - 1 - x.clz.toNat := (Nat.log2_eq_iff hne).2
      ⟨BitVec.two_pow_sub_clz_le_toNat_of_ne_zero hw hx, by
        rw [show w - 1 - x.clz.toNat + 1 = w - x.clz.toNat by omega]
        exact BitVec.toNat_lt_two_pow_sub_clz⟩
    rw [if_neg hne, hlog]
    omega

/-! ## Carries (R143) -/

theorem carryAdd_toNat : carryAdd w x.toNat y.toNat = decide (2 ^ w ≤ x.toNat + y.toNat) := by
  rw [carryAdd, Nat.mod_eq_of_lt x.isLt, Nat.mod_eq_of_lt y.isLt]

theorem carrySub_toNat : carrySub w x.toNat y.toNat = x.ult y := by
  rw [carrySub, Nat.mod_eq_of_lt x.isLt, Nat.mod_eq_of_lt y.isLt, BitVec.ult]

theorem carrySatS_eq (v : Int) : carrySatS w v = outside w v := by
  have hpow : ((2 ^ (w - 1) : Nat) : Int) = 2 ^ (w - 1) := Int.natCast_pow 2 _
  have hpos := Nat.two_pow_pos (w - 1)
  rw [carrySatS, outside, Bool.eq_iff_iff, bne_iff_ne, decide_eq_true_eq, satS_eq_clamp, ← hpow]
  omega

theorem carrySatU_eq (v : Int) : carrySatU w v = outsideU w v := by
  have hpow : ((2 ^ w : Nat) : Int) = 2 ^ w := Int.natCast_pow 2 _
  have hpos := Nat.two_pow_pos w
  rw [carrySatU, outsideU, Bool.eq_iff_iff, bne_iff_ne, decide_eq_true_eq, satU_eq_clamp, ← hpow]
  omega


/-! ## Immediates (R144) -/

theorem immLane_eq (w : Nat) (i : BitVec 12) : immLane w i = (i.signExtend w).toNat := by
  rw [BitVec.signExtend, ← ofNat_wrap, BitVec.toNat_ofNat, immLane, wrap]
  have hpos : (0 : Int) < ((2 ^ w : Nat) : Int) := Int.natCast_pos.2 (Nat.two_pow_pos w)
  have hlt := Int.emod_lt_of_pos i.toInt hpos
  have hnonneg := Int.emod_nonneg i.toInt (Int.ne_of_gt hpos)
  exact (Nat.mod_eq_of_lt (by omega)).symm

/-! ## Fields of a lane (R145) -/

theorem getLsbD_bitMask (w pos len i : Nat) : (bitMask w pos len).getLsbD i = (decide (i < w) && decide (pos ≤ i ∧ i < pos + len)) := by
  rw [bitMask, BitVec.getLsbD_shiftLeft, BitVec.getLsbD_ofNat, Nat.testBit_two_pow_sub_one]
  by_cases hi : i < w
  · by_cases hp : pos ≤ i
    · simp [hi, hp, Nat.not_lt.2 hp, show i - pos < w by omega, show (i - pos < len) = (i < pos + len) by apply propext; omega]
    · simp [hi, hp, Nat.lt_of_not_le hp]
  · simp [hi]

theorem ofNat_lExt (pos len1 : Nat) : BitVec.ofNat w (lExt x.toNat pos len1) = (x >>> pos) &&& bitMask w 0 (len1 + 1) := by
  apply BitVec.eq_of_getLsbD_eq
  intro i hi
  rw [BitVec.getLsbD_ofNat, lExt, testBit_field, BitVec.getLsbD_and, BitVec.getLsbD_ushiftRight, getLsbD_bitMask, BitVec.testBit_toNat,
    Nat.add_comm i pos]
  simp [hi, Bool.and_comm, show pos + len1 + 1 - pos = len1 + 1 by omega]

theorem ofNat_lIns {pos len1 : Nat} : BitVec.ofNat w (lIns x.toNat y.toNat pos len1) =
    (x &&& ~~~ bitMask w pos (len1 + 1)) ||| ((y <<< pos) &&& bitMask w pos (len1 + 1)) := by
  apply BitVec.eq_of_getLsbD_eq
  intro i hi
  rw [BitVec.getLsbD_ofNat, lIns, testBit_putField (by omega), BitVec.getLsbD_or, BitVec.getLsbD_and, BitVec.getLsbD_and, BitVec.getLsbD_not,
    BitVec.getLsbD_shiftLeft, getLsbD_bitMask, BitVec.testBit_toNat, BitVec.testBit_toNat]
  by_cases h : pos ≤ i ∧ i ≤ pos + len1
  · simp [h, hi, Nat.not_lt.2 h.1, show i < pos + (len1 + 1) by omega]
  · rw [if_neg h]
    simp [hi, show ¬ (pos ≤ i ∧ i < pos + (len1 + 1)) by omega]

end widths

section operands
variable (w : Nat) (o : BeatOps)

theorem cAdd_eq : cAdd w o = decide (2 ^ w ≤ (lane w o.a 0).toNat + (lane w o.b 0).toNat) := by
  rw [cAdd, laneOf_toNat, laneOf_toNat, carryAdd_toNat]

theorem cSub_eq : cSub w o = (lane w o.a 0).ult (lane w o.b 0) := by rw [cSub, laneOf_toNat, laneOf_toNat, carrySub_toNat]

theorem cAdds_eq (hw : 0 < w) : cAdds w o = outside w ((lane w o.a 0).toInt + (lane w o.b 0).toInt) := by
  rw [cAdds, laneOf_toNat, laneOf_toNat, sext_toNat _ hw, sext_toNat _ hw, carrySatS_eq]

theorem cSubs_eq (hw : 0 < w) : cSubs w o = outside w ((lane w o.a 0).toInt - (lane w o.b 0).toInt) := by
  rw [cSubs, laneOf_toNat, laneOf_toNat, sext_toNat _ hw, sext_toNat _ hw, carrySatS_eq]

theorem cAddus_eq : cAddus w o = outsideU w ((lane w o.a 0).toNat + (lane w o.b 0).toNat) := by
  rw [cAddus, laneOf_toNat, laneOf_toNat, carrySatU_eq]

theorem cSubus_eq : cSubus w o = outsideU w ((lane w o.a 0).toNat - (lane w o.b 0).toNat : Int) := by
  rw [cSubus, laneOf_toNat, laneOf_toNat, carrySatU_eq]

theorem cShl_eq : cShl w o = outLeft (lane w o.a 0) ((lane w o.b 0).toNat % w) := by
  rw [cShl, laneOf_toNat, laneOf_toNat]
  rfl

theorem cShr_eq : cShr w o = outRight (lane w o.a 0) ((lane w o.b 0).toNat % w) := by
  rw [cShr, laneOf_toNat, laneOf_toNat]
  rfl

end operands

/-! ## Bytes of a lane (R142) -/

theorem laneOf_byte (x : BitVec 32) (i : Nat) : laneOf 8 x.toNat i = (x.extractLsb' (8 * i) 8).toNat :=
  (toNat_extractLsb'_mod ..).symm

theorem ofNat_lDot4 (x y z : BitVec 32) : BitVec.ofNat 32 (lDot4 x.toNat y.toNat z.toNat) = dot4 x y z := by
  have hfold : ∀ (p : Nat → Int) (c : Int), (upto 4).foldl (fun t i => t + p i) c = c + p 0 + p 1 + p 2 + p 3 := fun _ _ => rfl
  have hprod : ∀ i, BitVec.ofInt 32 (sext 8 (laneOf 8 x.toNat i) * sext 8 (laneOf 8 y.toNat i)) =
      (x.extractLsb' (8 * i) 8).signExtend 32 * (y.extractLsb' (8 * i) 8).signExtend 32 := fun i => by
    rw [laneOf_byte, laneOf_byte, sext_toNat _ (by decide), sext_toNat _ (by decide), BitVec.ofInt_mul]
    rfl
  rw [lDot4, ofNat_wrap, hfold, BitVec.ofInt_add, BitVec.ofInt_add, BitVec.ofInt_add, BitVec.ofInt_add, hprod, hprod, hprod, hprod,
    sext_toNat z (by decide), BitVec.ofInt_toInt]
  rfl

theorem ofNat_lSad (x y z : BitVec 32) : BitVec.ofNat 32 (lSad x.toNat y.toNat z.toNat) = sad x y z := by
  have hfold : ∀ (p : Nat → Nat) (c : Nat), (upto 4).foldl (fun t i => t + p i) c = c + p 0 + p 1 + p 2 + p 3 := fun _ _ => rfl
  have hdiff : ∀ i, BitVec.ofNat 32 (lAbsd (laneOf 8 x.toNat i) (laneOf 8 y.toNat i)) =
      let a := (x.extractLsb' (8 * i) 8).setWidth 32
      let b := (y.extractLsb' (8 * i) 8).setWidth 32
      if a.ule b then b - a else a - b := fun i => by
    rw [laneOf_byte, laneOf_byte, ← BitVec.toNat_setWidth_of_le (by decide : 8 ≤ 32), ← BitVec.toNat_setWidth_of_le (by decide : 8 ≤ 32)]
    exact ofNat_lAbsd ..
  have hmod : ∀ n, BitVec.ofNat 32 (n % 2 ^ 32) = BitVec.ofNat 32 n := fun n => BitVec.eq_of_toNat_eq (by
    rw [BitVec.toNat_ofNat, BitVec.toNat_ofNat, Nat.mod_mod])
  rw [lSad, hfold, hmod, BitVec.ofNat_add, BitVec.ofNat_add, BitVec.ofNat_add, BitVec.ofNat_add, hdiff, hdiff, hdiff,
    hdiff, BitVec.ofNat_toNat, BitVec.setWidth_eq]
  rfl

end Sys2Proof.Claims
end

section
/-!
# Integer instructions of an element

Each is a firing of a lane-by-lane function, whose lanes and whose carry are those of the statement (R141 to R145).
-/
namespace Sys2Proof.Claims
open Sys2Proof.Machine

/-! ## Firings of lane-by-lane functions -/

/-- A firing whose Execute is a result of its operands. -/
theorem fires_result {i : Instr} {f : Form} {s : State} {rw : Nat} {g : BeatOps → Vec} {carry carry' : BeatOps → Bool}
    {p : BeatOps → Vec → Prop} (hf : i.form = some f) (hi : exec i s = fireCarry i rw g carry s) (hw : 0 < rw) (hc : ∀ o, carry o = carry' o)
    (hp : ∀ o, p o (g o)) : Fires i 1 rw carry' (result p) s := by
  obtain rfl : carry = carry' := funext hc
  exact fires_of_exec hf hi hw (fun _ _ _ _ _ => rfl) fun _ _ _ o _ => ⟨hp o, rfl, rfl⟩

section lanes
variable {i : Instr} {f : Form} {s : State} {w : Nat}

theorem fires_each1 {g : Nat → Nat} {g' : BitVec w → BitVec w} {carry carry' : BeatOps → Bool} (hf : i.form = some f)
    (hi : exec i s = fireCarry i w (fun o => lanes1 w g o.a) carry s) (hw : 0 < w) (hc : ∀ o, carry o = carry' o)
    (hg : ∀ x, BitVec.ofNat w (g x.toNat) = g' x) : Fires i 1 w carry' (each1 w g') s :=
  fires_result hf hi hw hc fun o _ hj => (lane_lanes1 w g o.a hj).trans (hg _)

theorem fires_each2 {g : Nat → Nat → Nat} {g' : BitVec w → BitVec w → BitVec w} {carry carry' : BeatOps → Bool} (hf : i.form = some f)
    (hi : exec i s = fireCarry i w (fun o => lanes2 w g o.a o.b) carry s) (hw : 0 < w) (hc : ∀ o, carry o = carry' o)
    (hg : ∀ x y, BitVec.ofNat w (g x.toNat y.toNat) = g' x y) : Fires i 1 w carry' (each2 w g') s :=
  fires_result hf hi hw hc fun o _ hj => (lane_lanes2 w g o.a o.b hj).trans (hg _ _)

theorem fires_each3 {g : Nat → Nat → Nat → Nat} {g' : BitVec w → BitVec w → BitVec w → BitVec w} (hf : i.form = some f)
    (hi : exec i s = fireInt i w (fun o => lanes3 w g o.a o.b o.c) s) (hw : 0 < w)
    (hg : ∀ x y z, BitVec.ofNat w (g x.toNat y.toNat z.toNat) = g' x y z) : FiresPlain i w (each3 w g') s :=
  fires_result hf hi hw (fun _ => rfl) fun o _ hj => (lane_lanes3 w g o.a o.b o.c hj).trans (hg _ _ _)

end lanes

/-! ## The instructions -/

theorem fires_int2Forms {p : (Hdr → Opnd → Opnd → Opnd → Instr) × Fn2 × Carry2} (hp : p ∈ int2Forms) (h : Hdr) (d a b : Opnd) (s : State) :
    Fires (p.1 h d a b) 1 h.ty.width (fun o => p.2.2 h.ty.width (lane h.ty.width o.a 0) (lane h.ty.width o.b 0))
      (each2 h.ty.width (p.2.1 h.ty.width)) s := by
  have hw := h.ty.width_pos
  simp only [int2Forms, List.mem_cons, List.not_mem_nil, or_false] at hp
  rcases hp with rfl | rfl | rfl | rfl | rfl | rfl | rfl | rfl | rfl
  · exact fires_each2 rfl (exec_add ..) hw (cAdd_eq _) ofNat_lAdd
  · exact fires_each2 rfl (exec_sub ..) hw (cSub_eq _) ofNat_lSub
  · exact fires_each2 rfl (exec_adds ..) hw (cAdds_eq _ · hw) (ofNat_lAdds · · hw)
  · exact fires_each2 rfl (exec_subs ..) hw (cSubs_eq _ · hw) (ofNat_lSubs · · hw)
  · exact fires_each2 rfl (exec_addus ..) hw (cAddus_eq _) ofNat_lAddus
  · exact fires_each2 rfl (exec_subus ..) hw (cSubus_eq _) ofNat_lSubus
  · exact fires_each2 rfl (exec_shl ..) hw (cShl_eq _) fun x y => ofNat_lShl x _
  · exact fires_each2 rfl (exec_shr ..) hw (cShr_eq _) fun x y => ofNat_lShr x _
  · exact fires_each2 rfl (exec_sar ..) hw (cShr_eq _) fun x y => ofNat_lSar x hw _

theorem fires_int2Plain {p : (Hdr → Opnd → Opnd → Opnd → Instr) × Fn2} (hp : p ∈ int2Plain) (h : Hdr) (d a b : Opnd) (s : State) :
    FiresPlain (p.1 h d a b) h.ty.width (each2 h.ty.width (p.2 h.ty.width)) s := by
  have hw := h.ty.width_pos
  have hc : ∀ o, noCarry o = false := fun _ => rfl
  simp only [int2Plain, List.mem_cons, List.not_mem_nil, or_false] at hp
  rcases hp with rfl | rfl | rfl | rfl | rfl | rfl | rfl | rfl | rfl | rfl | rfl | rfl | rfl | rfl | rfl | rfl
  · exact fires_each2 rfl (exec_mul ..) hw hc (ofNat_lMul · · hw)
  · exact fires_each2 rfl (exec_mulh ..) hw hc (ofNat_lMulh · · hw)
  · exact fires_each2 rfl (exec_mulhu ..) hw hc ofNat_lMulhu
  · exact fires_each2 rfl (exec_min ..) hw hc (ofNat_lMin · · hw)
  · exact fires_each2 rfl (exec_max ..) hw hc (ofNat_lMax · · hw)
  · exact fires_each2 rfl (exec_minu ..) hw hc ofNat_lMinu
  · exact fires_each2 rfl (exec_maxu ..) hw hc ofNat_lMaxu
  · exact fires_each2 rfl (exec_absd ..) hw hc ofNat_lAbsd
  · exact fires_each2 rfl (exec_and ..) hw hc ofNat_and_toNat
  · exact fires_each2 rfl (exec_or ..) hw hc ofNat_or_toNat
  · exact fires_each2 rfl (exec_xor ..) hw hc ofNat_xor_toNat
  · exact fires_each2 rfl (exec_andn ..) hw hc ofNat_lAndn
  · exact fires_each2 rfl (exec_rol ..) hw hc fun x y => ofNat_lRol x hw y.toNat
  · exact fires_each2 rfl (exec_cmpeq ..) hw hc fun x y => by rw [ofNat_lMask, beq_toNat]
  · exact fires_each2 rfl (exec_cmplt ..) hw hc fun x y => by rw [ofNat_lMask, decide_sext_lt x y hw]
  · exact fires_each2 rfl (exec_cmpltu ..) hw hc fun x y => ofNat_lMask _

theorem fires_int3Plain {p : (Hdr → Opnd → Opnd → Opnd → Opnd → Instr) × Fn3} (hp : p ∈ int3Plain) (h : Hdr) (d a b c : Opnd) (s : State) :
    FiresPlain (p.1 h d a b c) h.ty.width (each3 h.ty.width (p.2 h.ty.width)) s := by
  have hw := h.ty.width_pos
  simp only [int3Plain, List.mem_cons, List.not_mem_nil, or_false] at hp
  rcases hp with rfl | rfl | rfl
  · exact fires_each3 rfl (exec_mad ..) hw (ofNat_lMad · · · hw)
  · exact fires_each3 rfl (exec_addmin ..) hw (ofNat_lAddmin · · · hw)
  · exact fires_each3 rfl (exec_addmax ..) hw (ofNat_lAddmax · · · hw)

theorem fires_int1Plain {p : (Hdr → Opnd → Opnd → Instr) × Fn1} (hp : p ∈ int1Plain) (h : Hdr) (d a : Opnd) (s : State) :
    FiresPlain (p.1 h d a) h.ty.width (each1 h.ty.width (p.2 h.ty.width)) s := by
  have hw := h.ty.width_pos
  simp only [int1Plain, List.mem_cons, List.not_mem_nil, or_false] at hp
  rcases hp with rfl | rfl
  · exact fires_each1 rfl (exec_popc ..) hw (fun _ => rfl) ofNat_popCount
  · exact fires_each1 rfl (exec_clz ..) hw (fun _ => rfl) (ofNat_lClz · hw)

theorem fires_immForms {p : (Hdr → Opnd → Opnd → BitVec 12 → Instr) × ((w : Nat) → BitVec w → BitVec 12 → BitVec w) ×
      ((w : Nat) → BitVec w → BitVec 12 → Bool)} (hp : p ∈ immForms) (h : Hdr) (d a : Opnd) (i : BitVec 12) (s : State) :
    Fires (p.1 h d a i) 1 h.ty.width (fun o => p.2.2 h.ty.width (lane h.ty.width o.a 0) i)
      (each1 h.ty.width fun x => p.2.1 h.ty.width x i) s := by
  have hw := h.ty.width_pos
  simp only [immForms, List.mem_cons, List.not_mem_nil, or_false] at hp
  rcases hp with rfl | rfl | rfl | rfl
  · exact fires_each1 rfl (exec_addi ..) hw (fun o => by rw [laneOf_toNat, immLane_eq, carryAdd_toNat]) fun x => by
      rw [immLane_eq, ofNat_lAdd]
  · exact fires_each1 rfl (exec_shli ..) hw (fun o => by rw [laneOf_toNat]; rfl) (ofNat_lShl · _)
  · exact fires_each1 rfl (exec_shri ..) hw (fun o => by rw [laneOf_toNat]; rfl) (ofNat_lShr · _)
  · exact fires_each1 rfl (exec_sari ..) hw (fun o => by rw [laneOf_toNat]; rfl) (ofNat_lSar · hw _)

theorem fires_immPlain {p : (Hdr → Opnd → Opnd → BitVec 12 → Instr) × ((w : Nat) → BitVec w → BitVec 12 → BitVec w)} (hp : p ∈ immPlain)
    (h : Hdr) (d a : Opnd) (i : BitVec 12) (s : State) :
    FiresPlain (p.1 h d a i) h.ty.width (each1 h.ty.width fun x => p.2 h.ty.width x i) s := by
  have hw := h.ty.width_pos
  have hc : ∀ o, noCarry o = false := fun _ => rfl
  simp only [immPlain, List.mem_cons, List.not_mem_nil, or_false] at hp
  rcases hp with rfl | rfl | rfl | rfl | rfl
  · exact fires_each1 rfl (exec_andi ..) hw hc fun x => by rw [immLane_eq, ofNat_and_toNat]
  · exact fires_each1 rfl (exec_ori ..) hw hc fun x => by rw [immLane_eq, ofNat_or_toNat]
  · exact fires_each1 rfl (exec_xori ..) hw hc fun x => by rw [immLane_eq, ofNat_xor_toNat]
  · exact fires_each1 rfl (exec_cmpeqi ..) hw hc fun x => by rw [immLane_eq, ofNat_lMask, beq_toNat]
  · exact fires_each1 rfl (exec_cmplti ..) hw hc fun x => by rw [immLane_eq, ofNat_lMask, decide_sext_lt x _ hw]

/-! ## The statement -/

/-- Settles O16: each row fires a lane-by-lane function, and the function on numbers is the one on words. -/
theorem elementInteger : Obligations.ElementInteger := by
  unfold Obligations.ElementInteger
  refine ⟨⟨fun p hp => fires_int2Forms hp, fun p hp => fires_int2Plain hp, fun p hp => fires_int3Plain hp, fun p hp => fires_int1Plain hp,
    fun h d a b c s hty => ?bytes⟩, fun p hp => fires_immForms hp, fun p hp => fires_immPlain hp, fun h d a pos len s _ => ?fields⟩
  case bytes =>
    have hwidth : h.ty.width = 32 := by rw [hty]; rfl
    have hdot := exec_dot4 h d a b c s
    have hsad := exec_sad h d a b c s
    unfold execDot4 at hdot
    unfold execSad at hsad
    rw [hwidth] at hdot hsad
    exact ⟨fires_each3 rfl hdot (by decide) ofNat_lDot4, fires_each3 rfl hsad (by decide) ofNat_lSad⟩
  case fields =>
    have hw := h.ty.width_pos
    refine ⟨fires_each1 rfl (exec_ext ..) hw (fun _ => rfl) (ofNat_lExt · _ _), ?_⟩
    exact fires_result rfl (exec_ins ..) hw (fun _ => rfl) fun o _ hj => (lane_lanes2 _ _ o.d o.a hj).trans (ofNat_lIns ..)

end Sys2Proof.Claims
end

section
/-!
# Floating-point instructions of an element

Each is a firing of a function of codes, lane by lane, with the flags of every lane together; the function is the statement's by the
equation of its definition (R137, R147 to R152).
-/
namespace Sys2Proof.Claims
open Sys2Proof.Machine

/-- The lanes of TY have the width of its floating-point format (R69, R157). -/
@[simp] theorem width_tyFmt (t : LaneTy) : (tyFmt t).width = t.width := by cases t <;> rfl

/-! ## Firings of functions of codes -/

/-- A firing whose Execute is a result and flags, given lane by lane. -/
theorem fires_collect {i : Instr} {f : Form} {s : State} {t : LaneTy} {w : Nat} {g : BeatOps → Vec × Flags}
    {g' : BeatOps → Nat → Nat × Flags} (hf : i.form = some f) (hi : exec i s = fireFp i t w g s) (hw : 0 < w)
    (hg : ∀ o, g o = collect w ((upto (128 / w)).map (g' o))) :
    Fires i (fpCycles t) w (fun _ => false) (fpLanes w g') s :=
  fires_of_exec hf hi hw (fun _ _ _ _ _ => rfl) fun x e k o held => by
    unfold flagExe
    rw [hg]
    exact fpLanes_collect w g' x e k o held []

theorem fLanes1_eq (t : LaneTy) (g : Nat → Nat × Flags) (a : Vec) :
    fLanes1 (tyFmt t) g a = collect t.width ((upto (128 / t.width)).map fun j => g (codeAt t.width a j)) := by
  rw [fLanes1, width_tyFmt, lanes, List.map_map]
  simp only [Function.comp_def, laneOf_toNat]
  rfl

theorem fLanes2_eq (t : LaneTy) (g : Nat → Nat → Nat × Flags) (a b : Vec) :
    fLanes2 (tyFmt t) g a b = collect t.width ((upto (128 / t.width)).map fun j => g (codeAt t.width a j) (codeAt t.width b j)) := by
  rw [fLanes2, width_tyFmt, lanes, lanes, List.zipWith_map, List.zipWith_self]
  simp only [laneOf_toNat]
  rfl

theorem fLanes3_eq (t : LaneTy) (g : Nat → Nat → Nat → Nat × Flags) (a b c : Vec) :
    fLanes3 (tyFmt t) g a b c =
      collect t.width ((upto (128 / t.width)).map fun j => g (codeAt t.width a j) (codeAt t.width b j) (codeAt t.width c j)) := by
  rw [fLanes3, width_tyFmt, lanes, lanes, lanes, List.zip_map, List.zip, List.zipWith_self, List.map_map, List.zipWith_map,
    List.zipWith_self]
  simp only [Function.comp_def, Prod.map_fst, Prod.map_snd, laneOf_toNat]
  rfl

section lanes
variable {i : Instr} {f : Form} {s : State} {h : Hdr}

theorem firesFp_of_fLanes1 {g : Nat → Nat × Flags} (hf : i.form = some f)
    (hi : exec i s = fireFp i h.ty h.ty.width (fun o => fLanes1 (tyFmt h.ty) g o.a) s) :
    FiresFp i h (fun o j => g (codeAt h.ty.width o.a j)) s :=
  fires_collect hf hi h.ty.width_pos fun _ => fLanes1_eq ..

theorem firesFp_of_fLanes2 {g : Nat → Nat → Nat × Flags} (hf : i.form = some f)
    (hi : exec i s = fireFp i h.ty h.ty.width (fun o => fLanes2 (tyFmt h.ty) g o.a o.b) s) :
    FiresFp i h (fun o j => g (codeAt h.ty.width o.a j) (codeAt h.ty.width o.b j)) s :=
  fires_collect hf hi h.ty.width_pos fun _ => fLanes2_eq ..

theorem firesFp_of_fLanes3 {g : Nat → Nat → Nat → Nat × Flags} (hf : i.form = some f)
    (hi : exec i s = fireFp i h.ty h.ty.width (fun o => fLanes3 (tyFmt h.ty) g o.a o.b o.c) s) :
    FiresFp i h (fun o j => g (codeAt h.ty.width o.a j) (codeAt h.ty.width o.b j) (codeAt h.ty.width o.c j)) s :=
  fires_collect hf hi h.ty.width_pos fun _ => fLanes3_eq ..

end lanes

/-! ## Comparisons and scaling -/

/-- A comparison gives all ones or zero, and NV for a NaN as R149 has it: for a quiet one where `quiet` says so. -/
theorem firesFp_of_fCmp {i : Instr} {f : Form} {s : State} {h : Hdr} {p : FV → FV → Bool} {sig quiet : Bool} (hq : quiet = !sig)
    (hf : i.form = some f) (hi : exec i s = fireFp i h.ty h.ty.width (fun o => fLanes2 (tyFmt h.ty) (fCmp (tyFmt h.ty) p sig) o.a o.b) s) :
    FiresFp i h (fun o j =>
      let x := decodeF (tyFmt h.ty) (codeAt h.ty.width o.a j); let y := decodeF (tyFmt h.ty) (codeAt h.ty.width o.b j)
      if x.isNaN || y.isNaN then (0, if quiet || x.isSig || y.isSig then fNV else 0)
      else (if p x y then 2 ^ h.ty.width - 1 else 0, 0)) s := by
  subst hq
  have hfire := firesFp_of_fLanes2 hf hi
  simp only [fCmp, ones, width_tyFmt] at hfire
  exact hfire

/-- FSCALE adds the signed lane of B, clamped, to the exponent of a finite value (R147, R148). -/
theorem fScale_eq (t : LaneTy) (x : Nat) (y : BitVec t.width) :
    fScale (tyFmt t) x y.toNat = match decodeF (tyFmt t) x with
      | .fin n m e => roundFin (tyFmt t) 0 n m (e + clampExp y.toInt)
      | v => roundV (tyFmt t) 0 v := by
  cases hx : decodeF (tyFmt t) x <;> simp only [fScale, hx, width_tyFmt, sext_toNat y t.width_pos]

theorem firesFp_fscale (h : Hdr) (d a b : Opnd) (s : State) :
    FiresFp (.fscale h d a b) h (fun o j => match decodeF (tyFmt h.ty) (codeAt h.ty.width o.a j) with
      | .fin n m e => roundFin (tyFmt h.ty) 0 n m (e + clampExp (lane h.ty.width o.b j).toInt)
      | v => roundV (tyFmt h.ty) 0 v) s := by
  have hfire := firesFp_of_fLanes2 (h := h) (i := .fscale h d a b) rfl (exec_fscale h d a b s)
  simp only [codeAt, fScale_eq] at hfire
  exact hfire

/-! ## The instructions -/

theorem firesFp_fp2Forms {p : (Hdr → Opnd → Opnd → Opnd → Instr) × (FV → FV → Option FV)} (hp : p ∈ fp2Forms) (h : Hdr) (d a b : Opnd)
    (s : State) :
    let f := tyFmt h.ty
    FiresFp (p.1 h d a b) h (fun o j => let x := decodeF f (codeAt h.ty.width o.a j); let y := decodeF f (codeAt h.ty.width o.b j)
      exactly f [x, y] (p.2 x y)) s := by
  simp only [fp2Forms, List.mem_cons, List.not_mem_nil, or_false] at hp
  rcases hp with rfl | rfl | rfl | rfl | rfl | rfl
  · exact firesFp_of_fLanes2 rfl (exec_fadd ..)
  · exact firesFp_of_fLanes2 rfl (exec_fsub ..)
  · exact firesFp_of_fLanes2 rfl (exec_fmul ..)
  · exact firesFp_of_fLanes2 rfl (exec_fmin ..)
  · exact firesFp_of_fLanes2 rfl (exec_fmax ..)
  · exact firesFp_of_fLanes2 rfl (exec_fsgn ..)

theorem firesFp_fp3Forms {p : (Hdr → Opnd → Opnd → Opnd → Opnd → Instr) × (FV → FV → FV → Option FV)} (hp : p ∈ fp3Forms) (h : Hdr)
    (d a b c : Opnd) (s : State) :
    let f := tyFmt h.ty
    FiresFp (p.1 h d a b c) h (fun o j => let x := decodeF f (codeAt h.ty.width o.a j); let y := decodeF f (codeAt h.ty.width o.b j)
      let z := decodeF f (codeAt h.ty.width o.c j)
      exactly f [x, y, z] (p.2 x y z)) s := by
  simp only [fp3Forms, List.mem_cons, List.not_mem_nil, or_false] at hp
  rcases hp with rfl | rfl
  · exact firesFp_of_fLanes3 rfl (exec_fma ..)
  · exact firesFp_of_fLanes3 rfl (exec_fnma ..)

theorem firesFp_fpCompares {p : (Hdr → Opnd → Opnd → Opnd → Instr) × (FV → FV → Bool) × Bool} (hp : p ∈ fpCompares) (h : Hdr)
    (d a b : Opnd) (s : State) :
    let f := tyFmt h.ty
    FiresFp (p.1 h d a b) h (fun o j => let x := decodeF f (codeAt h.ty.width o.a j); let y := decodeF f (codeAt h.ty.width o.b j)
      if x.isNaN || y.isNaN then (0, if p.2.2 || x.isSig || y.isSig then fNV else 0)
      else (if p.2.1 x y then 2 ^ h.ty.width - 1 else 0, 0)) s := by
  simp only [fpCompares, List.mem_cons, List.not_mem_nil, or_false] at hp
  rcases hp with rfl | rfl | rfl
  · exact firesFp_of_fCmp rfl rfl (exec_fcmpeq ..)
  · exact firesFp_of_fCmp rfl rfl (exec_fcmplt ..)
  · exact firesFp_of_fCmp rfl rfl (exec_fcmple ..)

theorem firesFp_fp1Forms {p : (Hdr → Opnd → Opnd → Instr) × (NumFmt → Nat → Nat × Flags)} (hp : p ∈ fp1Forms) (h : Hdr) (d a : Opnd)
    (s : State) : FiresFp (p.1 h d a) h (fun o j => p.2 (tyFmt h.ty) (codeAt h.ty.width o.a j)) s := by
  simp only [fp1Forms, List.mem_cons, List.not_mem_nil, or_false] at hp
  rcases hp with rfl | rfl | rfl | rfl | rfl | rfl | rfl | rfl
  · exact firesFp_of_fLanes1 rfl (exec_frcp ..)
  · exact firesFp_of_fLanes1 rfl (exec_frsq ..)
  · exact firesFp_of_fLanes1 rfl (exec_fexp2 ..)
  · exact firesFp_of_fLanes1 rfl (exec_flog2 ..)
  · exact firesFp_of_fLanes1 rfl (exec_fsin ..)
  · exact firesFp_of_fLanes1 rfl (exec_fcos ..)
  · exact firesFp_of_fLanes1 rfl (exec_fsat ..)
  · exact firesFp_of_fLanes1 rfl (exec_fclass ..)

/-- FDOT2 sums two products of halves with a binary32 lane (R152). -/
theorem fires_fdot2 (h : Hdr) (d a b c : Opnd) (s : State) (hty : h.ty = .h ∨ h.ty = .bf) :
    Fires (.fdot2 h d a b c) 1 32 (fun _ => false) (fpLanes 32 fun o j =>
      fDot2 (tyFmt h.ty) (codeAt 16 o.a (2 * j)) (codeAt 16 o.a (2 * j + 1)) (codeAt 16 o.b (2 * j)) (codeAt 16 o.b (2 * j + 1))
        (codeAt 32 o.c j)) s := by
  have hcycles : fpCycles h.ty = 1 := by rcases hty with e | e <;> rw [e] <;> rfl
  have hfire := fires_collect (i := .fdot2 h d a b c) (s := s) (t := h.ty) (w := 32) rfl (exec_fdot2 ..) (by decide) fun o => by
    simp only [laneOf_toNat]
    rfl
  rw [hcycles] at hfire
  exact hfire

/-! ## The statement -/

/-- Settles O18: each row fires a function of codes lane by lane, and the function is the statement's. -/
theorem elementFloat : Obligations.ElementFloat := by
  unfold Obligations.ElementFloat
  exact ⟨fun p hp => firesFp_fp2Forms hp, fun p hp => firesFp_fp3Forms hp, fun p hp => firesFp_fpCompares hp,
    fun p hp => firesFp_fp1Forms hp, fun h d a rm s => firesFp_of_fLanes1 rfl (exec_frnd ..),
    fun h d a b c s => firesFp_of_fLanes3 rfl (exec_faddmin ..), firesFp_fscale, fires_fdot2⟩

end Sys2Proof.Claims
end

section
/-!
# Conversions, MX quantisation and residue registers of an element

CVT and MXDQ give lanes of codes; CVTN and MXQ place the codes of a beat in a staging value that they hold for their later beats; the
scale mode of MXQ holds the operands of the beats before (R159 to R166).
-/
namespace Sys2Proof

/-- No format is empty (R34, R39). -/
theorem NumFmt.width_pos (f : NumFmt) : 0 < f.width := by cases f <;> decide

end Sys2Proof

namespace Sys2Proof.Claims
open Sys2Proof.Machine

/-! ## Codes, staging values and flags (R50, R161, R164) -/

theorem lanes_eq_codesOf (w : Nat) (v : Vec) : lanes w v = codesOf w v := by
  unfold lanes codesOf codeAt
  simp only [laneOf_toNat]
  rfl

/-- Part k mod g of a staging value holds the codes of beat k, and its other lanes are those of the beat before. -/
theorem staged_stagePart (w g k : Nat) (codes : List Nat) (held : List Vec) :
    staged w g k codes held (stagePart w (k % g) (held.headD 0) codes) := by
  intro j hj
  unfold stagePart
  dsimp only
  rw [lane_vecOf_map w _ hj]
  split
  next => rfl
  next => rw [laneOf_toNat, BitVec.ofNat_toNat, BitVec.setWidth_eq]

theorem flagsOf_foldl (l : List (Nat × Flags)) : flagsOf l (l.foldl (fun a x => a ||| x.2) 0) :=
  getLsbD_foldl_or_zero Prod.snd l

/-! ## CVT and CVTN (R159 to R161) -/

theorem fmtsOf_eq {t : LaneTy} {tt : BitVec 3} {tf sf : Bool} {src dst : NumFmt} (h : cvtFmts t tt tf sf = some (src, dst)) :
    fmtsOf t tt tf sf = (src, dst) := by rw [fmtsOf, h]; rfl

/-- Rounding with the residue register is asked for, and DIAG does not replace it (R52, R57). -/
theorem residue_mode_iff (rm : BitVec 3) (b : Bool) : (decide (rm.toNat = 4) && !b) = true ↔ rm = 4 ∧ b = false := by
  rw [Bool.and_eq_true, decide_eq_true_eq, Bool.not_eq_true', ← BitVec.toNat_inj]
  rfl

/-- One beat of CVT. -/
def cvtExe (src dst : NumFmt) (rm : BitVec 3) (part : BitVec 4) : Exe := fun x e k o _ =>
  let r := collect dst.width ((upto (128 / dst.width)).map fun j => conv src dst (rmOf x.sample rm.toNat)
    (laneOf src.width o.a.toNat ((part.toNat + k) % (dst.width / src.width) * (128 / dst.width) + j)))
  ⟨e, r.1, r.2, [], none⟩

theorem fires_cvt {h : Hdr} {d a : Opnd} {tt : BitVec 3} {tf sf : Bool} {rm : BitVec 3} {part : BitVec 4} {src dst : NumFmt} {s : State}
    (hfmt : cvtFmts h.ty tt tf sf = some (src, dst)) :
    Fires (.cvt h d a tt tf sf rm part) (cvtCycles src dst) dst.width (fun _ => false)
      (fun x e k o held r => fpLanes dst.width (fun o j => conv src dst (modeOf x rm)
        (codeAt src.width o.a ((part.toNat + k) % (dst.width / src.width) * (128 / dst.width) + j))) x e k o held r) s := by
  refine fires_of_exec (exe := cvtExe src dst rm part) rfl (by rw [exec_cvt, execCvt, fmtsOf_eq hfmt]; rfl) dst.width_pos
    (fun _ _ _ _ _ => rfl) fun x e k o held => ?_
  simp only [cvtExe, laneOf_toNat]
  exact fpLanes_collect dst.width (fun o j => conv src dst (modeOf x rm)
    (codeAt src.width o.a ((part.toNat + k) % (dst.width / src.width) * (128 / dst.width) + j))) x e k o held []

/-- The residues of EfNarrow are lanes of binary32 (R52). -/
theorem lane_residues (dst : NumFmt) (a ef : Vec) {j : Nat} (hj : j < 4) :
    let q := List.zipWith (efNarrow dst) (codesOf 32 a) (codesOf 32 ef)
    lane 32 (vecOf 32 (q.map (·.2.2))) j = BitVec.ofNat 32 (q.getD j default).2.2 := by
  dsimp only
  rw [lane_vecOf 32 _ (show j < 128 / 32 from hj), List.getD_eq_getElem?_getD, List.getD_eq_getElem?_getD, List.getElem?_map]
  cases (List.zipWith (efNarrow dst) (codesOf 32 a) (codesOf 32 ef))[j]? <;> rfl

/-- One beat of CVTN. -/
def cvtnExe (src dst : NumFmt) (rm : BitVec 3) (ef : BitVec 2) : Exe := fun x e k o held =>
  let r := cvtnLanes src dst rm.toNat x.sample (tget e.ef ef.toNat 0) o.a
  let st := stagePart dst.width (k % (src.width / dst.width)) (held.headD 0) r.1
  ⟨if rm.toNat = 4 && !x.sample.getLsbD 2 then { e with ef := tset e.ef ef.toNat r.2.2 } else e, st, r.2.1, [st], none⟩

theorem fires_cvtn {h : Hdr} {d a : Opnd} {tt : BitVec 3} {tf sf : Bool} {rm : BitVec 3} {ef : BitVec 2} {src dst : NumFmt} {s : State}
    (hfmt : cvtFmts h.ty tt tf sf = some (src, dst)) :
    Fires (.cvtn h d a tt tf sf rm ef) (cvtCycles src dst) dst.width (fun _ => false)
      (fun x e k o held r =>
        r.held = [r.res] ∧
        if rm = 4 ∧ x.sample.getLsbD 2 = false then
          let q := List.zipWith (efNarrow dst) (codesOf 32 o.a) (codesOf 32 (tget e.ef ef.toNat 0))
          staged dst.width (src.width / dst.width) k (q.map (·.1)) held r.res ∧ flagsOf (q.map fun y => (y.1, y.2.1)) r.flags ∧
          ∃ v, r.elem = { e with ef := tset e.ef ef.toNat v } ∧ ∀ j < 4, lane 32 v j = BitVec.ofNat 32 (q.getD j default).2.2
        else
          let q := (codesOf src.width o.a).map (conv src dst (modeOf x rm))
          staged dst.width (src.width / dst.width) k (q.map (·.1)) held r.res ∧ flagsOf q r.flags ∧ r.elem = e) s := by
  refine fires_of_exec (exe := cvtnExe src dst rm ef) rfl (by rw [exec_cvtn, execCvtn, fmtsOf_eq hfmt]; rfl) dst.width_pos
    (fun _ _ _ _ _ => rfl) fun x e k o held => ⟨rfl, ?_⟩
  unfold cvtnExe cvtnLanes
  split
  next hmode =>
    rw [(residue_mode_iff ..).2 hmode]
    simp only [if_true, lanes_eq_codesOf]
    refine ⟨staged_stagePart _ _ _ _ _, fun i => ?_, _, rfl, fun j hj => lane_residues dst _ _ hj⟩
    rw [getLsbD_foldl_or_zero (fun y : Nat × Flags × Nat => y.2.1), List.any_map]
    rfl
  next hmode =>
    rw [Bool.eq_false_iff.2 fun h => hmode ((residue_mode_iff ..).1 h)]
    simp only [Bool.false_eq_true, if_false, lanes_eq_codesOf]
    exact ⟨staged_stagePart _ _ _ _ _, flagsOf_foldl _, trivial⟩

/-! ## MX (R163 to R165) -/

theorem fires_mxqSc (h : Hdr) (d a : Opnd) (fmt : BitVec 2) (s : State) :
    FiresPlain (.mxqSc h d a fmt) h.ty.width (fun _ e _ o held r =>
      r.held = o.a :: held ∧ r.elem = e ∧
      let q := mxScale (r.held.flatMap fun v => (codesOf h.ty.width v).map (decodeF (tyFmt h.ty))) (mxFmt fmt)
      r.res = BitVec.ofNat 128 q.1 ∧ r.flags = q.2) s :=
  fires_of_exec rfl (exec_mxqSc ..) h.ty.width_pos (fun _ _ _ _ _ => rfl) fun x e k o held => by
    refine ⟨rfl, rfl, ?_⟩
    simp only [lanes_eq_codesOf]
    exact ⟨trivial, trivial⟩

/-- The scale of an MX block is the low byte of its operand. -/
theorem low_byte (v : Vec) : v.toNat % 256 = (v.extractLsb' 0 8).toNat := by
  rw [toNat_extractLsb'_mod, Nat.pow_zero, Nat.div_one]
  rfl

theorem fires_mxq (h : Hdr) (d a b : Opnd) (rm : BitVec 3) (fmt : BitVec 2) (s : State) :
    FiresPlain (.mxq h d a b rm fmt) (mxFmt fmt).width (fun x e k o held r =>
      let q := (codesOf h.ty.width o.a).map fun v =>
        mxElem (decodeF (tyFmt h.ty) v) (o.b.extractLsb' 0 8).toNat (mxFmt fmt) (modeOf x rm)
      r.held = [r.res] ∧ r.elem = e ∧ staged (mxFmt fmt).width (h.ty.width / (mxFmt fmt).width) k (q.map (·.1)) held r.res ∧
      flagsOf q r.flags) s :=
  fires_of_exec rfl (exec_mxq ..) (mxFmt fmt).width_pos (fun _ _ _ _ _ => rfl) fun x e k o held => by
    refine ⟨rfl, rfl, ?_⟩
    simp only [lanes_eq_codesOf, low_byte]
    exact ⟨staged_stagePart _ _ _ _ _, flagsOf_foldl _⟩

theorem fires_mxdq (h : Hdr) (d a b : Opnd) (part : BitVec 3) (fmt : BitVec 2) (s : State) :
    FiresPlain (.mxdq h d a b part fmt) h.ty.width (fun x e k o held r =>
      fpLanes h.ty.width (fun o j => mxDequant (codeAt (mxFmt fmt).width o.a
        ((part.toNat + k) % (h.ty.width / (mxFmt fmt).width) * h.ty.lanes + j)) (mxFmt fmt) (o.b.extractLsb' 0 8).toNat (tyFmt h.ty)
        (modeOf x 0)) x e k o held r) s :=
  fires_of_exec rfl (exec_mxdq ..) h.ty.width_pos (fun _ _ _ _ _ => rfl) fun x e k o held => by
    simp only [laneOf_toNat, low_byte]
    exact fpLanes_collect h.ty.width (fun o j => mxDequant (codeAt (mxFmt fmt).width o.a
      ((part.toNat + k) % (h.ty.width / (mxFmt fmt).width) * h.ty.lanes + j)) (mxFmt fmt) (o.b.extractLsb' 0 8).toNat (tyFmt h.ty)
      (modeOf x 0)) x e k o held []

/-! ## The statement -/

/-- Settles O19: each conversion by what a beat of it gives and holds; EFLD and EFST move the residue register (R166). -/
theorem elementConversions : Obligations.ElementConversions := by
  unfold Obligations.ElementConversions
  exact ⟨fun h d a tt tf sf rm part src dst s => fires_cvt, fun h d a tt tf sf rm ef src dst s => fires_cvtn, fires_mxqSc, fires_mxq,
    fires_mxdq,
    fun h a n s => fires_of_exec rfl (exec_efld ..) h.ty.width_pos (fun _ _ _ _ _ => rfl) fun _ _ _ _ _ => ⟨rfl, rfl, rfl⟩,
    fun h d n s => fires_of_exec rfl (exec_efst ..) h.ty.width_pos (fun _ _ _ _ _ => rfl) fun _ _ _ _ _ => ⟨rfl, rfl, rfl⟩⟩

end Sys2Proof.Claims
end

section
/-!
# Ring descriptors and ring entries in memory

What a step of a ring leaves in memory, byte by byte: a change of whole bytes of a descriptor, a token written at WR, a consumer that
moves past an entry (R178). A descriptor stands at the start of a line.
-/
namespace Sys2Proof.Claims
open Sys2Proof.Machine

/-! ## Bytes of a descriptor -/

theorem word4_eq_bytesOf (v : Nat) : word4 v = bytesOf 4 v := by
  simp only [word4, bytesOf, Nat.div_div_eq_div_mul]

/-- A list of bytes placed in memory, as a write of it leaves every byte. -/
theorem memGet_memWrite_bytesAt (m : List Host.Cell) (a : Nat) (bs : List Byte) (x : Nat) :
    memGet (memWrite m a bs) x = (bytesAt a bs x).getD (memGet m x) := by
  rw [memGet_memWrite, bytesAt]
  by_cases h : a ≤ x ∧ x < a + bs.length
  · rw [if_pos h, if_pos h.1, List.getD_eq_getElem?_getD, List.getElem?_eq_getElem (by omega)]
    rfl
  · rw [if_neg h]
    split
    next hx => rw [List.getElem?_eq_none (by omega)]; rfl
    next => rfl

theorem ringAddr_line {s : State} (h : s.ringOffset % 64 = 0) (die n : Nat) : 64 * (ringAddr s die n / 64) = ringAddr s die n := by
  unfold ringAddr
  omega

theorem byteAt_toNat_ofNat (v : Nat) {i : Nat} (hi : i < 64) : byteAt (BitVec.ofNat 512 v).toNat i = byteAt v i := by
  apply BitVec.eq_of_getLsbD_eq
  intro k hk
  rw [getLsbD_byteAt, getLsbD_byteAt, BitVec.testBit_toNat, BitVec.getLsbD_ofNat, decide_eq_true (show 8 * i + k < 512 by omega),
    Bool.true_and]

/-- The bytes of a descriptor stand in memory. -/
theorem byteAt_ringDesc {s : State} (h : s.ringOffset % 64 = 0) (die n : Nat) {i : Nat} (hi : i < 64) :
    byteAt (ringDesc s die n).toNat i = memGet s.mem (ringAddr s die n + i) := by
  rw [ringDesc, memLine, ringAddr_line h, byteAt_toNat_ofNat _ hi, byteAt_memVal _ _ hi]

/-- A descriptor of which k whole bytes from byte j on are replaced is written over what stands in a memory m. -/
theorem memGet_descWrite {s : State} (h : s.ringOffset % 64 = 0) (m : List Host.Cell) (die n : Nat) {j k : Nat} (hk : 0 < k)
    (v x : Nat) :
    memGet (memWrite m (ringAddr s die n) (bytesOf 64 (ringPut (ringDesc s die n) (8 * (j + k) - 1) (8 * j) v).toNat)) x =
      (if ringAddr s die n ≤ x ∧ x < ringAddr s die n + 64
        then some ((bytesAt (ringAddr s die n + j) (bytesOf k v) x).getD (memGet s.mem x)) else none).getD (memGet m x) := by
  rw [memGet_memWrite_bytesAt, bytesAt]
  split
  next hx =>
    by_cases hl : x < ringAddr s die n + 64
    · have he : ringAddr s die n + (x - ringAddr s die n) = x := by omega
      rw [if_pos ⟨hx, hl⟩, getElem?_bytesOf (by omega), ringPut, byteAt_toNat_ofNat _ (by omega), byteAt_putField hk,
        byteAt_ringDesc h _ _ (by omega), he, bytesAt]
      by_cases hf : j ≤ x - ringAddr s die n ∧ x - ringAddr s die n < j + k
      · rw [if_pos hf, if_pos (by omega), getElem?_bytesOf (by omega), Nat.sub_add_eq]
        simp only [Option.getD_some]
      · rw [if_neg hf]
        split
        next => rw [List.getElem?_eq_none (by rw [length_bytesOf]; omega)]; rfl
        next => rfl
    · rw [if_neg (fun c => hl c.2), List.getElem?_eq_none (by rw [length_bytesOf]; omega)]
  next hx => rw [if_neg fun c => hx c.1]

theorem mem_setRingDesc (s : State) (die n : Nat) (d : BitVec 512) :
    (setRingDesc s die n d).mem = memWrite s.mem (ringAddr s die n) (bytesOf 64 d.toNat) := rfl

theorem mem_ringWrite (s : State) (d : BitVec 512) (c : Nat) (t : Token) :
    (ringWrite s d c t).mem = memWrite s.mem (ringEntryAddr d c) (bytesOf 32 (t.pay.toNat + t.side.toNat * 2 ^ 128)) := rfl

/-- Whole bytes of a descriptor are replaced, and every other byte of memory stays. -/
theorem memIs_setRingDesc {s : State} (h : s.ringOffset % 64 = 0) (die n : Nat) {j k : Nat} (hk : 0 < k) (hjk : j + k ≤ 64) (v : Nat) :
    MemIs (bytesAt (ringAddr s die n + j) (bytesOf k v)) s
      (setRingDesc s die n (ringPut (ringDesc s die n) (8 * (j + k) - 1) (8 * j) v)) := by
  intro x
  rw [mem_setRingDesc, memGet_descWrite h s.mem die n hk v x]
  split
  next => exact Option.getD_some ..
  next hx =>
    have hout : bytesAt (ringAddr s die n + j) (bytesOf k v) x = none := by
      unfold bytesAt
      split
      next => exact List.getElem?_eq_none (by rw [length_bytesOf]; omega)
      next => rfl
    rw [hout]

/-- Consumer j moves past its entry. -/
theorem memIs_ringPop {s : State} (h : s.ringOffset % 64 = 0) (die n : Nat) {j : Nat} (hj : j < 8) :
    MemIs (bytesAt (ringAddr s die n + 16 + 4 * j) (word4 (ringRd (ringDesc s die n) j + 1))) s (ringPop s die n j) := by
  have hmem := memIs_setRingDesc h die n (j := 16 + 4 * j) (k := 4) (by omega) (by omega) (ringRd (ringDesc s die n) j + 1)
  rw [word4_eq_bytesOf, Nat.add_assoc]
  unfold ringPop
  rwa [show 8 * (16 + 4 * j + 4) - 1 = 159 + 32 * j by omega, show 8 * (16 + 4 * j) = 128 + 32 * j by omega] at hmem

/-- A token enters its entry, and WR moves past it. -/
theorem memIs_ringPush {s : State} (h : s.ringOffset % 64 = 0) (die n : Nat) (t : Token) :
    MemIs (ringPushed s die n t) s (ringPush s die n t) := by
  intro x
  have hdesc := memGet_descWrite h (ringWrite s (ringDesc s die n) (ringWr (ringDesc s die n)) t).mem die n (j := 12) (k := 4)
    (by decide) (ringWr (ringDesc s die n) + 1) x
  rw [← word4_eq_bytesOf] at hdesc
  refine hdesc.trans ?_
  rw [mem_ringWrite, memGet_memWrite_bytesAt]
  unfold ringPushed
  dsimp only
  split
  next => rw [Option.getD_some]
  next => rw [Option.getD_none]

/-- The bit of a consumer in DET, as the byte that holds it. -/
theorem ringPut_det (d : BitVec 512) {c : Nat} (hc : c < 8) :
    ringPut d (384 + c) (384 + c) 1 = ringPut d 391 384 (d.extractLsb' 384 8 ||| (1 : BitVec 8) <<< c).toNat := by
  apply BitVec.eq_of_getLsbD_eq
  intro i hi
  simp only [ringPut, BitVec.getLsbD_ofNat, testBit_putField (show 384 + c ≤ 384 + c + 1 by omega),
    testBit_putField (show 384 ≤ 391 + 1 by omega), hi, decide_true, Bool.true_and, BitVec.testBit_toNat]
  by_cases hb : 384 ≤ i ∧ i ≤ 391
  · rw [if_pos hb, BitVec.getLsbD_or, BitVec.getLsbD_extractLsb', BitVec.getLsbD_shiftLeft, show 384 + (i - 384) = i by omega,
      decide_eq_true (show i - 384 < 8 by omega)]
    by_cases he : i = 384 + c
    · subst he
      simp
    · rw [if_neg (by omega)]
      by_cases hl : i - 384 < c
      · simp [hl]
      · simp [hl, show ¬ i - 384 - c = 0 by omega]
  · rw [if_neg hb, if_neg (by omega)]

end Sys2Proof.Claims
end

section
/-!
# Queue ports of the sequencer

QPUT and QGET on a port that is ready: a token enters the ring at WR, or leaves it at the consumer's RD, and the gateway counts it (R178,
R296, R464).
-/
namespace Sys2Proof.Claims
open Sys2Proof.Machine

/-! ## The gateway's count (R464) -/

theorem getR_gwUnit (s : State) (r : Nat) : getR (gwUnit s r) r = { getR s r with gwCount := gwNext (getR s r) } := by
  rw [gwUnit, getR_modR, gwNext]
  split <;> rfl

/-! ## QPUT -/

/-- The token of a QPUT (R296). -/
def qputToken (s : State) (a b : BitVec 5) (e : BitVec 1) (sc : BitVec 3) (c : BitVec 2) (v : BitVec 5) : Token :=
  ⟨mkSide (if sc = 0 then 0 else 1) sc.toNat (e == 1) c.toNat v.toNat, BitVec.ofNat 128 ((reg s a).toNat + (reg s b).toNat * 2 ^ 64)⟩

/-- The token as the number that its entry holds. -/
theorem qputToken_value (s : State) (a b : BitVec 5) (e : BitVec 1) {sc : BitVec 3} (hsc : sc.toNat < 5) (c : BitVec 2) (v : BitVec 5) :
    (qputToken s a b e sc c v).pay.toNat + (qputToken s a b e sc c v).side.toNat * 2 ^ 128 =
      (reg s a).toNat + (reg s b).toNat * 2 ^ 64 +
        (v.toNat + c.toNat * 2 ^ 8 + e.toNat * 2 ^ 10 + sc.toNat * 2 ^ 11 + (if sc = 0 then 0 else 2 ^ 14)) * 2 ^ 128 := by
  have ha := (reg s a).isLt
  have hb := (reg s b).isLt
  have hc := c.isLt
  have hv := v.isLt
  have heow : (if (e == 1) = true then 2 ^ 10 else 0) = e.toNat * 2 ^ 10 := by
    rcases BitVec.eq_zero_or_eq_one e with rfl | rfl <;> rfl
  have he := e.isLt
  have hpay : (qputToken s a b e sc c v).pay.toNat = (reg s a).toNat + (reg s b).toNat * 2 ^ 64 :=
    (BitVec.toNat_ofNat ..).trans (Nat.mod_eq_of_lt (by omega))
  have hside : (qputToken s a b e sc c v).side.toNat =
      v.toNat + c.toNat * 2 ^ 8 + e.toNat * 2 ^ 10 + sc.toNat * 2 ^ 11 + (if sc = 0 then 0 else 2 ^ 14) := by
    unfold qputToken mkSide
    dsimp only
    rw [heow, BitVec.toNat_ofNat]
    split <;> omega
  rw [hpay, hside]

/-- The sequencer in focus has forgotten at most when it began to wait and lines that its writes have reached. -/
structure Forgets (s : State) (R : Table Region) : Prop where
  own : ∃ w l, tget R (here s) {} = { getR s (here s) with seq := { hereSeq s with waitStart := w, touched := l } }
  others : ∀ q, q ≠ here s → tget R q {} = getR s q

theorem lineAt_modSeq (s : State) (r ln scope : Nat) (f : Seq → Seq) : lineAt (modSeq s r f) r ln scope = lineAt s r ln scope := by
  unfold lineAt
  rw [getR_modSeq]
  rfl

/-- What the sequencer waits for does not depend on when it began to wait. -/
theorem seqPerformed_seqWait (s : State) (r scope : Nat) : seqPerformed (seqWait s r) r scope = seqPerformed s r scope := by
  unfold seqPerformed seqWait
  simp only [lineAt_modSeq, getSeq_modSeq]

theorem forgets_seqWait (s : State) (p : Nat → Bool) :
    Forgets s (modSeq (seqWait s (here s)) (here s) fun q => { q with touched := q.touched.filter p }).regions where
  own := by
    refine ⟨some ((hereSeq s).waitStart.getD (getR s (here s)).cycle), (hereSeq s).touched.filter p, (getR_modSeq ..).trans ?_⟩
    rw [seqWait, getSeq_modSeq, getR_modSeq]
    rfl
  others _ hq := (getR_modR_other _ _ _ _ hq).trans (getR_modR_other _ _ _ _ hq)

/-- An instruction that waits for the earlier writes of the sequencer, once they are performed. -/
theorem afterWrites_seqWait {s : State} {scope : Nat} (h : seqPerformed s (here s) scope = true) (f : State → State) :
    ∃ R, Forgets s R ∧ afterWrites (seqWait s (here s)) (here s) scope f = f { s with regions := R } := by
  rw [afterWrites_performed ((seqPerformed_seqWait ..).trans h)]
  exact ⟨_, forgets_seqWait .., rfl⟩

/-- A QPUT pushes its token; one with a scope has waited for the earlier writes of its sequencer. -/
theorem exec_qput_ready {s : State} (a b : BitVec 5) {p : BitVec 2} (e : BitVec 1) {sc : BitVec 3} (c : BitVec 2) (v : BitVec 5)
    {d : BitVec 512} (hsc : sc.toNat < 5) (h : PortReady s p.toNat true d) (hfull : ringFull d = false)
    (hperf : sc = 0 ∨ seqPerformed s (here s) sc.toNat = true) :
    ∃ R, Forgets s R ∧ exec (.qput a b p e sc c v) s = .next (seqNext (gwUnit (ringPushBy { s with regions := R } (here s)
      (spDie (sqOf s (here s) p.toNat)) (spRing (sqOf s (here s) p.toNat)) (qputToken s a b e sc c v)) (here s)) (here s) id) := by
  obtain ⟨rfl, husable, howner, hgate, hnear, -⟩ := h
  have hhere : s.focus.region = here s := rfl
  rw [exec_qput]
  unfold execQput seqDo
  dsimp only
  rw [hhere, if_neg (by omega), husable, hnear, hfull, hgate, if_neg (by simp), if_neg (not_not.2 howner), if_neg (by simp),
    if_neg (by simp), if_neg (by simp)]
  by_cases hz : sc = 0
  · rw [if_pos hz]
    exact ⟨s.regions, ⟨⟨_, _, rfl⟩, fun _ _ => rfl⟩, rfl⟩
  · rw [if_neg hz]
    obtain ⟨R, hR, hrun⟩ := afterWrites_seqWait (hperf.resolve_left hz) _
    exact ⟨R, hR, congrArg Host.Outcome.next hrun⟩

/-- What a QPUT leaves of its region. -/
theorem getR_qput {s : State} {R : Table Region} (h : Forgets s R) (die n : Nat) (t : Token) :
    ∃ l, getR (seqNext (gwUnit (ringPushBy { s with regions := R } (here s) die n t) (here s)) (here s) id) (here s) =
      { getR s (here s) with seq := nextPc { hereSeq s with touched := l }, gwCount := gwNext (getR s (here s)) } := by
  obtain ⟨w, l, hown⟩ := h.own
  have hpush : getR (ringPushBy { s with regions := R } (here s) die n t) (here s) = tget R (here s) {} := rfl
  refine ⟨l, ?_⟩
  rw [seqNext, getR_modSeq, getSeq, getR_gwUnit, hpush, hown]
  rfl

/-! ## QGET -/

/-- The payload that a QGET gives: a marker's is 0. -/
def qgetPay (t : Token) : Nat := if t.isMarker then 0 else t.pay.toNat

/-- What a QGET leaves of its sequencer: the payload in two registers, the sideband in SQSIDE, and the acquire of a KIND 1 token. -/
def qgetSeq (l h : BitVec 5) (t : Token) (q : Seq) : Seq :=
  { setS (setS q l (BitVec.ofNat 64 (qgetPay t))) h (BitVec.ofNat 64 (qgetPay t / 2 ^ 64)) with
    sqside := t.side.setWidth 64 ||| 0x10000, dcache := if t.kind = 1 ∧ 1 ≤ t.scope then [] else q.dcache }

/-- The acquire of a token whose fields stand in the sequencer already (R347). -/
theorem seqAcquire_qget (l h : BitVec 5) (t : Token) (q : Seq) :
    (let q := { setS (setS q l (BitVec.ofNat 64 (qgetPay t))) h (BitVec.ofNat 64 (qgetPay t / 2 ^ 64)) with
      sqside := t.side.setWidth 64 ||| 0x10000 }
    if t.kind = 1 then seqAcquire q t.scope else q) = qgetSeq l h t q := by
  have hkeep : (setS (setS q l (BitVec.ofNat 64 (qgetPay t))) h (BitVec.ofNat 64 (qgetPay t / 2 ^ 64))).dcache = q.dcache := by
    rw [setS_dcache, setS_dcache]
  unfold qgetSeq seqAcquire
  dsimp only
  by_cases hk : t.kind = 1
  · rw [if_pos hk]
    by_cases hs : 1 ≤ t.scope
    · rw [if_pos hs, if_pos ⟨hk, hs⟩]
    · rw [if_neg hs, if_neg fun c : t.kind = 1 ∧ 1 ≤ t.scope => hs c.2, ← hkeep]
  · rw [if_neg hk, if_neg fun c : t.kind = 1 ∧ 1 ≤ t.scope => hk c.1, ← hkeep]

/-- A QGET takes the entry at the RD of its consumer. -/
theorem exec_qget_ready {s : State} (l h : BitVec 5) {p : BitVec 2} {d : BitVec 512} (hp : PortReady s p.toNat false d)
    (hwait : ringRd d (spCons (sqOf s (here s) p.toNat)) ≠ ringWr d)
    (hsync : ringSync s (here s) (spDie (sqOf s (here s) p.toNat)) (spRing (sqOf s (here s) p.toNat))
      (spCons (sqOf s (here s) p.toNat)) = (s, true)) :
    exec (.qget l h p) s = .next (seqNext (gwUnit (ringPop s (spDie (sqOf s (here s) p.toNat)) (spRing (sqOf s (here s) p.toNat))
      (spCons (sqOf s (here s) p.toNat))) (here s)) (here s)
      (qgetSeq l h (ringRead s d (ringRd d (spCons (sqOf s (here s) p.toNat)))))) := by
  obtain ⟨rfl, husable, howner, hgate, hnear, -⟩ := hp
  have hhere : s.focus.region = here s := rfl
  rw [exec_qget]
  unfold execQget seqDo
  dsimp only
  rw [hhere, husable, hnear, hgate, hsync, if_neg (by simp), if_neg (not_not.2 howner), if_neg (by simp),
    if_neg (by simp [hwait]), if_neg (by simp)]
  exact congrArg (fun g => Host.Outcome.next (seqNext _ _ g)) (funext fun q => seqAcquire_qget ..)

theorem isMarker_iff (t : Token) : t.isMarker = true ↔ t.kind = 2 := beq_iff_eq

theorem getS_qgetSeq (l h : BitVec 5) (t : Token) (q : Seq) (n : BitVec 5) :
    let pay : BitVec 128 := if t.kind = 2 then 0 else t.pay
    getS (qgetSeq l h t q) n =
      if n = 0 then 0 else if n = h then pay.extractLsb' 64 64 else if n = l then pay.extractLsb' 0 64 else getS q n := by
  have hpay : qgetPay t = (if t.kind = 2 then 0 else t.pay : BitVec 128).toNat := by
    unfold qgetPay
    simp only [isMarker_iff]
    split <;> rfl
  have hregs : getS (qgetSeq l h t q) n =
      getS (setS (setS q l (BitVec.ofNat 64 (qgetPay t))) h (BitVec.ofNat 64 (qgetPay t / 2 ^ 64))) n := rfl
  rw [hregs, hpay, getS_setS, getS_setS]
  dsimp only
  generalize (if t.kind = 2 then 0 else t.pay : BitVec 128) = pay
  have hhi : BitVec.ofNat 64 (pay.toNat / 2 ^ 64) = pay.extractLsb' 64 64 := by
    apply BitVec.eq_of_toNat_eq
    rw [BitVec.toNat_ofNat, toNat_extractLsb'_mod]
  have hlo : BitVec.ofNat 64 pay.toNat = pay.extractLsb' 0 64 := by
    apply BitVec.eq_of_toNat_eq
    rw [BitVec.toNat_ofNat, toNat_extractLsb'_mod, Nat.pow_zero, Nat.div_one]
  rw [hhi, hlo]
  by_cases hn : n = 0
  · subst hn
    rw [if_neg (fun e => e.2 e.1.symm), if_neg (fun e => e.2 e.1.symm), getS_zero, if_pos rfl]
  · have hne : ∀ m, (n = m ∧ m ≠ 0) ↔ n = m := fun m => ⟨fun e => e.1, fun e => ⟨e, e ▸ hn⟩⟩
    simp only [hne, if_neg hn]

theorem qgetSeq_pc (l h : BitVec 5) (t : Token) (q : Seq) : (qgetSeq l h t q).pc = q.pc :=
  (setS_pc ..).trans (setS_pc ..)

/-! ## What stays -/

/-- A push changes memory, and the model notes who wrote the entry. -/
theorem ringPushBy_eq (s : State) (r die n : Nat) (t : Token) :
    ∃ m w, ringPushBy s r die n t = { s with mem := m, windowBy := w } := ⟨_, _, rfl⟩

theorem spCons_lt (b : BitVec 64) : spCons b < 8 := BitVec.isLt _

/-! ## The statement -/

/-- Settles O12: the token enters or leaves the ring in memory, and the region's own record moves on by one unit and one instruction. -/
theorem queuePorts : Obligations.QueuePorts := by
  unfold Obligations.QueuePorts
  refine ⟨fun a b p e sc c v s d hsc hp hfull hperf => ?put, fun l h p s d hp hwait hsync => ?get⟩
  case put =>
    obtain ⟨R, hR, hrun⟩ := exec_qput_ready a b e c v hsc hp hfull hperf
    obtain ⟨l, hown⟩ := getR_qput hR (spDie (sqOf s (here s) p.toNat)) (spRing (sqOf s (here s) p.toNat)) (qputToken s a b e sc c v)
    refine ⟨_, hrun, ?pc, fun n => ?regs, ?count, fun q hq => ?others, fun k => ?elems, ?device, ?mem⟩
    case pc => rw [getSeq, hown]; rfl
    case regs => rw [getSeq, hown]; rfl
    case count => rw [hown]
    case others =>
      rw [seqNext, modSeq, getR_modR_other _ _ _ _ hq, gwUnit, getR_modR_other _ _ _ _ hq]
      exact hR.others q hq
    case elems => rw [seqNext, getE_modSeq, gwUnit, getE_modR]; rfl
    case device =>
      obtain ⟨m, w, hpush⟩ := ringPushBy_eq { s with regions := R } (here s) (spDie (sqOf s (here s) p.toNat))
        (spRing (sqOf s (here s) p.toNat)) (qputToken s a b e sc c v)
      rw [hpush]
      rfl
    case mem =>
      have hmem := memIs_ringPush hp.aligned (spDie (sqOf s (here s) p.toNat)) (spRing (sqOf s (here s) p.toNat)) (qputToken s a b e sc c v)
      unfold ringPushed at hmem
      rw [qputToken_value s a b e hsc, hp.desc] at hmem
      exact hmem
  case get =>
    have hown : ∀ u : State, getR u (here s) = getR s (here s) → ∀ f, getR (seqNext (gwUnit u (here s)) (here s) f) (here s) =
        { getR s (here s) with seq := nextPc (f (hereSeq s)), gwCount := gwNext (getR s (here s)) } := fun u hu f => by
      rw [seqNext, getR_modSeq, getSeq, getR_gwUnit, hu]
      rfl
    have hend := hown (ringPop s (spDie (sqOf s (here s) p.toNat)) (spRing (sqOf s (here s) p.toNat)) (spCons (sqOf s (here s) p.toNat))) rfl
      (qgetSeq l h (ringRead s d (ringRd d (spCons (sqOf s (here s) p.toNat)))))
    refine ⟨_, exec_qget_ready l h hp hwait hsync, ?pc, fun n => ?regs, ?side, ?cache, ?count, fun q hq => ?others, fun k => ?elems,
      ?device, ?mem⟩
    case pc => rw [getSeq, hend, nextPc_pc, qgetSeq_pc]; rfl
    case regs => rw [getSeq, hend, getS_nextPc]; exact getS_qgetSeq ..
    case side => rw [getSeq, hend]; rfl
    case cache => rw [getSeq, hend]; rfl
    case count => rw [hend]
    case others => rw [seqNext, modSeq, getR_modR_other _ _ _ _ hq, gwUnit, getR_modR_other _ _ _ _ hq]; rfl
    case elems => rw [seqNext, getE_modSeq, gwUnit, getE_modR]; rfl
    case device => rfl
    case mem =>
      have hmem := memIs_ringPop hp.aligned (spDie (sqOf s (here s) p.toNat)) (spRing (sqOf s (here s) p.toNat))
        (spCons_lt (sqOf s (here s) p.toNat))
      rw [hp.desc] at hmem
      exact hmem

end Sys2Proof.Claims
end

section
/-!
# Firings with a condition and an effect of their own

A firing whose row asks for more than R102, or does something beyond its element: it completes where that holds too, and what it does
beyond the element comes last. What its beats do may lean on what the beats before them have left.
-/
namespace Sys2Proof.Claims
open Sys2Proof.Machine

/-- What a firing without a trap does beyond its element follows what it does there. -/
theorem fireForm_after {s : State} {f : Form} {ctx cpb rw : Nat} {unit : Bool} {exe : Exe} {carry : BeatOps → Bool} (hg : OnGrid s)
    (hr : Ready s f ctx) (hu : unit = true) (htrap : NoTrap (fireCtx s f cpb) exe f.hdr.beats.count)
    (after : Firing → State → State) :
    fireForm f cpb rw unit ctx carry exe after s =
      after (runBeats s (fireCtx s f cpb) exe rw) (fireForm f cpb rw unit ctx carry exe (fun _ t => t) s) := by
  have hfires : (ready s (focusKey s) f ctx && unit) = true := by rw [hr.ready_eq hg, hu]; rfl
  have hnone : (runBeats s (fireCtx s f cpb) exe rw).trap = none := by
    rw [runBeats_eq_afterBeats]
    exact (afterBeats_progress rw (paid s f) htrap (Nat.le_refl _)).1
  rw [fireForm_runs _ _ _ _ _ _ _ _ _ hfires, fireForm_runs _ _ _ _ _ _ _ _ _ hfires]
  dsimp only
  rw [hnone]
  rfl

/-- The operands of a firing of one beat. -/
theorem runBeats_ops {s : State} {f : Form} {cpb rw : Nat} {exe : Exe} (h1 : f.hdr.beats.count = 1)
    (htrap : NoTrap (fireCtx s f cpb) exe f.hdr.beats.count) : (runBeats s (fireCtx s f cpb) exe rw).ops = firstOps s f := by
  rw [runBeats_eq_afterBeats, (afterBeats_last rw (paid s f) htrap (beats_count_pos _)).1, h1]
  exact congrArg Prod.fst (readOps_pow ..)

/-- An instruction with a condition of its own completes where it is ready and that condition holds. -/
theorem firesIf_of_exec {i : Instr} {f : Form} {s : State} {unit : Form → Prop} {ctx : Form → Nat} {ready : Bool} {n : Nat} {exe : Exe}
    {eff : Effects} (hf : i.form = some f) (hi : exec i s = fireWith i ready n exe (fun _ t => t) s) (hn : n = ctx f)
    (hu : unit f → ready = true) (htrap : ∀ x e k o held, (exe x e k o held).trap = none)
    (heff : ∀ e k o held, eff (fireCtx s f 1) e k o held (exe (fireCtx s f 1) e k o held)) :
    FiresIf unit ctx i 1 f.hdr.ty.width (fun _ => false) eff s := by
  refine ⟨f, hf, fun hg hr hunit => ⟨_, hi.trans ?_, fireForm_completes hg (hn ▸ hr) (hu hunit) (fun _ => false)
    f.hdr.ty.width_pos (fun k _ e => htrap _ e k) fun k _ e => heff e k⟩⟩
  rw [fireWith, hf]

/-- An instruction that sends nothing and asks for nothing beyond R102. -/
theorem firesPlain_of_exec {i : Instr} {f : Form} {s : State} {exe : Exe} {eff : Effects} (hf : i.form = some f)
    (hi : exec i s = fireWith i true 0 exe (fun _ t => t) s) (hchan : f.chan = none) (htrap : ∀ x e k o held, (exe x e k o held).trap = none)
    (heff : ∀ e k o held, eff (fireCtx s f 1) e k o held (exe (fireCtx s f 1) e k o held)) :
    FiresPlain i f.hdr.ty.width eff s :=
  firesIf_of_exec hf hi (by rw [fieldCtx, hchan]) (fun _ => rfl) htrap heff

/-- A property P that the beats of a firing keep holds of the element before each of them, and after the last. -/
theorem Ran.invariant {f : Form} {cpb rw : Nat} {carry : BeatOps → Bool} {eff : Effects} {s : State} {e : Elem}
    (h : Ran f cpb rw carry eff s e) (P : Nat → Elem → Prop) (hfirst : P 0 (paid s f))
    (hnext : ∀ k e o held r fl e', P k e → eff (fireCtx s f cpb) (acquireOps e f k) k o held r → Beat f (fireCtx s f cpb) k fl r e' →
      P (k + 1) e') :
    Ran f cpb rw carry (fun x e k o held r => eff x e k o held r ∧ ∃ e₀, e = acquireOps e₀ f k ∧ P k e₀) s e ∧
      ∃ e', P f.hdr.beats.count e' ∧ { e with preds := e'.preds, busy := e'.busy } = e' := by
  obtain ⟨es, rs, hstart, hbeats, hpreds, hbusy, hend⟩ := h
  have hP : ∀ k ≤ f.hdr.beats.count, P k (es k) := by
    intro k hk
    induction k with
    | zero => rw [hstart]; exact hfirst
    | succ k ih =>
      obtain ⟨heffect, -, hbeat⟩ := hbeats k hk
      exact hnext k _ _ _ _ _ _ (ih (by omega)) heffect hbeat
  refine ⟨⟨es, rs, hstart, fun k hk => ?_, hpreds, hbusy, hend⟩, _, hP _ (Nat.le_refl _), hend⟩
  obtain ⟨heffect, htrap, hbeat⟩ := hbeats k hk
  exact ⟨⟨heffect, _, rfl, hP k (by omega)⟩, htrap, hbeat⟩

/-- Effects of the beats that follow from others. -/
theorem Ran.mono {f : Form} {cpb rw : Nat} {carry : BeatOps → Bool} {eff eff' : Effects} {s : State} {e : Elem}
    (h : Ran f cpb rw carry eff s e) (heff : ∀ k < f.hdr.beats.count, ∀ e o held r, eff (fireCtx s f cpb) e k o held r →
      eff' (fireCtx s f cpb) e k o held r) : Ran f cpb rw carry eff' s e := by
  obtain ⟨es, rs, hstart, hbeats, hend⟩ := h
  refine ⟨es, rs, hstart, fun k hk => ?_, hend⟩
  obtain ⟨heffect, htrap, hbeat⟩ := hbeats k hk
  exact ⟨heff k hk _ _ _ _ heffect, htrap, hbeat⟩

/-- A change of the element by an Execute without a result. -/
theorem change_elemExe {g : Ctx → Elem → Nat → BeatOps → Elem → Prop} {x : Ctx} {e : Elem} {k : Nat} {o : BeatOps} {held : List Vec}
    {step : Ctx → Elem → Nat → BeatOps → Elem} (h : g x e k o (step x e k o)) : change g x e k o held (elemExe step x e k o held) :=
  ⟨h, rfl, rfl⟩

end Sys2Proof.Claims
end

section
/-!
# Token instructions of an element

SEND, SENDO and RELAY put one token for each beat in the output stage (R184, R185); DROP, LCNT, TAGS, FTSET and SPCFG change or read the
element alone (R186 to R189).
-/
namespace Sys2Proof.Claims
open Sys2Proof.Machine

/-! ## Sidebands (R167) -/

/-- Fields one behind the other, as a number. -/
theorem toNat_append_eq_add {n w : Nat} (x : BitVec n) (y : BitVec w) : (x ++ y).toNat = x.toNat * 2 ^ w + y.toNat := by
  rw [BitVec.toNat_append, ← Nat.shiftLeft_add_eq_or_of_lt y.isLt, Nat.shiftLeft_eq]

/-- A sideband is its fields one behind the other. -/
theorem mkSide_fields (kind : BitVec 2) (scope : BitVec 3) (eow : Bool) (ctx : BitVec 2) (vc : BitVec 5) :
    mkSide kind.toNat scope.toNat eow ctx.toNat vc.toNat = kind ++ scope ++ BitVec.ofBool eow ++ ctx ++ 0#3 ++ vc := by
  have he : (if eow = true then 2 ^ 10 else 0) = (BitVec.ofBool eow).toNat * 2 ^ 10 := by cases eow <;> rfl
  have hfit := (kind ++ scope ++ BitVec.ofBool eow ++ ctx ++ 0#3 ++ vc).isLt
  apply BitVec.eq_of_toNat_eq
  simp only [mkSide, he, toNat_append_eq_add, BitVec.toNat_ofNat] at hfit ⊢
  omega

/-- A token put in the output stage by beat k of a firing of one cycle per beat. -/
theorem sent_send {s : State} {f : Form} (e : Elem) (j k : Nat) (t : Token) (wait : Option (Scope × Nat)) :
    ∃ o, Machine.send e j t ((fireCtx s f 1).beatEnd k) wait = { e with out := e.out ++ [o] } ∧
      Sent j t.pay t.side ((fireCtx s f 1).cycle + k) wait e o := by
  have hend : (fireCtx s f 1).beatEnd k = (fireCtx s f 1).cycle + k := by
    unfold Ctx.beatEnd
    rw [show (fireCtx s f 1).cpb = 1 from rfl]
    omega
  rw [hend]
  exact ⟨_, rfl, ⟨rfl, rfl, rfl, rfl, rfl, rfl, rfl, rfl, rfl⟩⟩

/-! ## SEND and SENDO (R184) -/

theorem firesIf_send (h : Hdr) (a : Opnd) (j : Fin 6) (eow : Bool) (vc : BitVec 5) (ctx : BitVec 2) (s : State) :
    FiresIf (fun _ => True) (fun _ => ctx.toNat) (.send h (.q j) a eow vc ctx) 1 h.ty.width (fun _ => false)
      (change fun x e k o e' => ∃ t, e' = { e with out := e.out ++ [t] } ∧
        Sent j.val o.a (0#5 ++ BitVec.ofBool (eow && decide (k + 1 = h.beats.count)) ++ ctx ++ 0#3 ++ vc) (x.cycle + k) none e t) s :=
  firesIf_of_exec rfl (exec_send ..) rfl (fun _ => rfl) (fun _ _ _ _ _ => rfl) fun e k o held => change_elemExe <| by
    rw [show (0#5 : BitVec 5) = 0#2 ++ 0#3 from rfl]
    rw [← mkSide_fields]
    exact sent_send e j.val k ⟨mkSide 0 0 (eow && decide (k + 1 = h.beats.count)) ctx.toNat vc.toNat, o.a⟩ none

theorem firesIf_sendo (h : Hdr) (a : Opnd) (j : Fin 6) (eow : Bool) (vc : BitVec 5) (sc : Scope) (ctx : BitVec 2) (s : State) :
    FiresIf (fun _ => True) (fun _ => ctx.toNat) (.sendo h (.q j) a eow vc sc ctx) 1 h.ty.width (fun _ => false)
      (change fun x e k o e' => ∃ t, e' = { e with out := e.out ++ [t] } ∧
        Sent j.val o.a (1#2 ++ sc.code ++ BitVec.ofBool (eow && decide (k + 1 = h.beats.count)) ++ ctx ++ 0#3 ++ vc) (x.cycle + k)
          (some (sc, e.nextAcc)) e t) s :=
  firesIf_of_exec rfl (exec_sendo ..) rfl (fun _ => rfl) (fun _ _ _ _ _ => rfl) fun e k o held => change_elemExe <| by
    rw [← mkSide_fields]
    exact sent_send e j.val k ⟨mkSide 1 sc.code.toNat (eow && decide (k + 1 = h.beats.count)) ctx.toNat vc.toNat, o.a⟩ _

/-! ## RELAY (R185) -/

theorem waveLen_le (l : List Token) : waveLen l ≤ l.length := by
  induction l with
  | nil => exact Nat.le_refl _
  | cons t l ih =>
    rw [waveLen, List.length_cons]
    split
    next => omega
    next => split <;> omega

/-- No more tokens of a queue are available than it holds. -/
theorem avail_le (e : Elem) (q : Nat) : avail e q ≤ (getQ e q).toks.length := by
  have hraw : rawAvail e q ≤ (getQ e q).toks.length := by
    unfold rawAvail
    split
    next => exact Nat.zero_le _
    next => exact waveLen_le _
  have hmatched : spMatched e = true → (getQ e (spQa e)).toks ≠ [] ∧ (getQ e (spQb e)).toks ≠ [] := by
    intro hm
    unfold spMatched at hm
    split at hm
    next ha hb => rw [ha, hb]; exact ⟨List.cons_ne_nil _ _, List.cons_ne_nil _ _⟩
    next => cases hm
  unfold avail
  split
  next hsp =>
    split
    next hm =>
      obtain ⟨ha, hb⟩ := hmatched hm
      rw [Bool.and_eq_true, Bool.or_eq_true, beq_iff_eq, beq_iff_eq] at hsp
      rcases hsp.2 with rfl | rfl
      · exact List.length_pos_of_ne_nil ha
      · exact List.length_pos_of_ne_nil hb
    next => exact Nat.zero_le _
  next => exact hraw

/-- One beat of RELAY, whether or not a token stands where it reads. -/
def relayEffect (h : Hdr) (j q : Nat) (x : Ctx) (e : Elem) (k : Nat) (e' : Elem) : Prop :=
  match (getQ e q).toks[if h.dq then 0 else k]? with
  | some tk => ∃ t, e' = { e with out := e.out ++ [t] } ∧ Sent j tk.pay tk.side (x.cycle + k) none e t
  | none => e' = e

theorem relayEffect_queues {h : Hdr} {j q : Nat} {x : Ctx} {e : Elem} {k : Nat} {e' : Elem} (hr : relayEffect h j q x e k e') :
    e'.queues = e.queues := by
  unfold relayEffect at hr
  split at hr
  next => obtain ⟨t, rfl, -⟩ := hr; rfl
  next => rw [hr]

/-- The form of RELAY. -/
def relayForm (h : Hdr) (j q : Fin 6) : Form :=
  ⟨h, [.b], .short, .chan (.q j), .rawQueue (.q q), .unused, .unused, .plain, none, 0, false, false⟩

/-- The queue of RELAY holds a token for each beat that is still to run. -/
def RelayHas (h : Hdr) (q k : Nat) (e : Elem) : Prop := h.beats.count ≤ (getQ e q).toks.length + (if h.dq then k else 0)

theorem relayHas_next {h : Hdr} {j q : Fin 6} {x : Ctx} {e e' : Elem} {k : Nat} {o : BeatOps} {held : List Vec} {r : BeatRes} {fl : Flags}
    (hP : RelayHas h q k e) (heff : change (fun x e k _ e' => relayEffect h j q x e k e') x (acquireOps e (relayForm h j q) k) k o held r)
    (hbeat : Beat (relayForm h j q) x k fl r e') : RelayHas h q (k + 1) e' := by
  have hq : getQ r.elem q = getQ e q := by
    unfold getQ
    rw [relayEffect_queues heff.1, (acquireOps_keeps e (relayForm h j q) k).2.1]
  have hlen : ∀ x : Queue, x.toks.length ≤ (popped x).toks.length + 1 := fun x => by
    unfold popped
    split
    next hx => omega
    next hx => rw [hx]; exact Nat.le_refl _
  have hqueue := hbeat.queues q
  rw [hq] at hqueue
  unfold RelayHas at hP ⊢
  rw [hqueue]
  cases hdq : h.dq with
  | false =>
    rw [if_neg (fun c => Bool.false_ne_true (hdq.symm.trans c.1))]
    rw [hdq] at hP
    exact hP
  | true =>
    rw [if_pos ⟨hdq, List.mem_singleton.2 rfl⟩]
    rw [hdq] at hP
    have hleft : (leftAt x.cycle (x.cycle + k * x.cpb) (getQ e q)).toks = (popped (getQ e q)).toks := by
      unfold leftAt
      dsimp only
      split <;> rfl
    rw [hleft]
    have := hlen (getQ e q)
    simp only [if_true] at hP ⊢
    omega

/-- The token that a beat of RELAY reads is there. -/
theorem relayHas_index {h : Hdr} {j q : Fin 6} {e : Elem} {k : Nat} (hk : k < h.beats.count) (hP : RelayHas h q k e) :
    (if h.dq then 0 else k) < (getQ (acquireOps e (relayForm h j q) k) q).toks.length := by
  have hq : getQ (acquireOps e (relayForm h j q) k) q = getQ e q := by
    unfold getQ
    rw [(acquireOps_keeps e (relayForm h j q) k).2.1]
  rw [hq]
  unfold RelayHas at hP
  split at hP
  next hdq => rw [if_pos hdq]; omega
  next hdq => rw [if_neg hdq]; omega

theorem firesIf_relay (h : Hdr) (j q : Fin 6) (s : State) :
    FiresIf (fun _ => True) (fun _ => match headTok (elem s) q with | some t => (t.side.extractLsb' 8 2).toNat | none => 0)
      (.relay h (.q j) (.q q)) 1 h.ty.width (fun _ => false)
      (change fun x e k _ e' => ∃ tk t, (getQ e q).toks[if h.dq then 0 else k]? = some tk ∧ e' = { e with out := e.out ++ [t] } ∧
        Sent j.val tk.pay tk.side (x.cycle + k) none e t) s := by
  have hweak : FiresIf (fun _ => True) (fun _ => match headTok (elem s) q with | some t => (t.side.extractLsb' 8 2).toNat | none => 0)
      (.relay h (.q j) (.q q)) 1 h.ty.width (fun _ => false) (change fun x e k _ e' => relayEffect h j q x e k e') s :=
    firesIf_of_exec rfl (exec_relay ..) rfl (fun _ => rfl) (fun _ _ _ _ _ => rfl) fun e k o held => change_elemExe <| by
      change relayEffect h j q _ e k (match (getQ e q).toks[if h.dq then 0 else k]? with
        | some t => Machine.send e j t ((fireCtx s (relayForm h j q) 1).beatEnd k) none
        | none => e)
      unfold relayEffect
      cases (getQ e q).toks[if h.dq then 0 else k]? with
      | none => rfl
      | some tk => exact sent_send e j.val k tk none
  obtain ⟨f, hf, hrun⟩ := hweak
  obtain rfl : relayForm h j q = f := Option.some.inj hf
  refine ⟨_, rfl, fun hg hr hu => ?_⟩
  obtain ⟨t, hexec, honly, hran⟩ := hrun hg hr hu
  have hfirst : RelayHas h q 0 (paid s (relayForm h j q)) := by
    have htok := (hr.tokens q (List.mem_singleton.2 rfl)).1
    exact Nat.le_trans (Nat.le_trans htok (avail_le (elem s) q)) (Nat.le_add_right ..)
  obtain ⟨hheld, -⟩ := hran.invariant (RelayHas h q) hfirst fun _ _ _ _ _ _ _ hP he hb => relayHas_next hP he hb
  refine ⟨t, hexec, honly, hheld.mono fun k hk e o held r heff => ?_⟩
  obtain ⟨⟨helem, hres, hflags⟩, e₀, he, hP⟩ := heff
  have hlt := he ▸ relayHas_index (j := j) (h := h) hk hP
  unfold relayEffect at helem
  rw [List.getElem?_eq_getElem hlt] at helem
  obtain ⟨t, ht, hsent⟩ := helem
  exact ⟨⟨_, t, List.getElem?_eq_getElem hlt, ht, hsent⟩, hres, hflags⟩

/-! ## DROP, LCNT, TAGS, FTSET and SPCFG (R186 to R189) -/

theorem firesPlain_drop (h : Hdr) (a : Opnd) (s : State) :
    FiresPlain (.drop h a) h.ty.width (change fun _ e _ _ e' => e' = e) s :=
  firesPlain_of_exec rfl (exec_drop ..) rfl (fun _ _ _ _ _ => rfl) fun _ _ _ _ => change_elemExe rfl

theorem firesPlain_lcnt (h : Hdr) (d : Opnd) (q : Fin 6) (s : State) :
    FiresPlain (.lcnt h d (.q q)) h.ty.width (fun _ e _ _ _ r => r.elem = e ∧ r.flags = 0 ∧
      lane 32 r.res 0 = BitVec.ofNat 32 (avail e q) ∧ lane 32 r.res 1 = BitVec.ofNat 32 (getQ e q).toks.length ∧
      lane 32 r.res 2 = (if (getQ e q).shut then 1 else 0) ∧
      lane 32 r.res 3 = (match (getQ e q).toks with | t :: _ => t.side.setWidth 32 | [] => 0xFFFFFFFF)) s :=
  fires_of_exec rfl (exec_lcnt ..) h.ty.width_pos (fun _ _ _ _ _ => rfl) fun _ e _ _ _ => by
    refine ⟨rfl, rfl, lane_vecOf 32 _ (by decide), lane_vecOf 32 _ (by decide), (lane_vecOf 32 _ (by decide)).trans ?shut,
      (lane_vecOf 32 _ (by decide)).trans ?head⟩
    case shut =>
      change BitVec.ofNat 32 (getQ e q).shut.toNat = _
      cases (getQ e q).shut <;> rfl
    case head =>
      change BitVec.ofNat 32 (match headTok e q with | some t => t.side.toNat | none => 0xFFFFFFFF) = _
      unfold headTok
      cases (getQ e q).toks with
      | nil => rfl
      | cons t l => exact BitVec.eq_of_toNat_eq ((BitVec.toNat_ofNat ..).trans (BitVec.toNat_setWidth ..).symm)

theorem firesPlain_tags (h : Hdr) (j : Fin 6) (vc : BitVec 5) (ctx : BitVec 2) (s : State) :
    FiresPlain (.tags h (.q j) vc ctx) h.ty.width (change fun _ e _ _ e' => e' = { e with otag := tset e.otag j (ctx ++ vc) }) s :=
  firesPlain_of_exec rfl (exec_tags ..) rfl (fun _ _ _ _ _ => rfl) fun _ _ _ _ => change_elemExe rfl

/-- The word of an FTSET: FMT in [13:9], SREG in [8:5] (R174). -/
theorem ofNat_ftset (fmt : BitVec 5) (n : Fin 16) :
    BitVec.ofNat 16 (fmt.toNat * 2 ^ 9 + n.val * 2 ^ 5) = 0#2 ++ fmt ++ BitVec.ofNat 4 n ++ 0#5 := by
  have hn := n.isLt
  have hfit := (0#2 ++ fmt ++ BitVec.ofNat 4 n ++ 0#5).isLt
  apply BitVec.eq_of_toNat_eq
  simp only [toNat_append_eq_add, BitVec.toNat_ofNat] at hfit ⊢
  omega

theorem firesPlain_ftset (h : Hdr) (n : Fin 16) (fmt vc : BitVec 5) (s : State) :
    FiresPlain (.ftset h (.f n) fmt vc) h.ty.width
      (change fun _ e _ _ e' => e' = { e with fmts := tset e.fmts vc.toNat (0#2 ++ fmt ++ BitVec.ofNat 4 n ++ 0#5) }) s :=
  firesPlain_of_exec rfl (exec_ftset ..) rfl (fun _ _ _ _ _ => rfl) fun _ _ _ _ => change_elemExe <| by
    rw [← ofNat_ftset]
    rfl

/-- The word of an SPCFG: EN in [11], QA in [8:6], QB in [5:3] (R189). -/
theorem ofNat_spcfg (en : Bool) (qa qb : BitVec 3) :
    BitVec.ofNat 12 (en.toNat * 2 ^ 11 + qa.toNat * 2 ^ 6 + qb.toNat * 2 ^ 3) = BitVec.ofBool en ++ 0#2 ++ qa ++ qb ++ 0#3 := by
  have hfit := (BitVec.ofBool en ++ 0#2 ++ qa ++ qb ++ 0#3).isLt
  apply BitVec.eq_of_toNat_eq
  simp only [toNat_append_eq_add, BitVec.toNat_ofNat, BitVec.toNat_ofBool] at hfit ⊢
  omega

theorem firesPlain_spcfg (h : Hdr) (en : Bool) (qa qb : BitVec 3) (s : State) :
    FiresPlain (.spcfg h en qa qb) h.ty.width
      (change fun _ e _ _ e' => e' = { e with spcfg := BitVec.ofBool en ++ 0#2 ++ qa ++ qb ++ 0#3 }) s :=
  firesPlain_of_exec rfl (exec_spcfg ..) rfl (fun _ _ _ _ _ => rfl) fun _ _ _ _ => change_elemExe <| by
    rw [← ofNat_spcfg]

/-! ## The statement -/

/-- Settles O21: each token instruction by what one beat of it does; RELAY finds a token for each beat, since the queue had as many. -/
theorem elementTokens : Obligations.ElementTokens := by
  unfold Obligations.ElementTokens
  refine ⟨fun h d a j eow vc ctx s hd => ?send, fun h d a j eow vc sc ctx s hd => ?sendo, fun h d a j q s hd ha => ?relay,
    fun h a s => ?drop, fun h d a q s ha => ?lcnt, fun h d j vc ctx s hd => ?tags, fun h a n fmt vc s ha => ?ftset, firesPlain_spcfg⟩
  case send => subst hd; exact firesIf_send ..
  case sendo => subst hd; exact firesIf_sendo ..
  case relay => subst hd ha; exact firesIf_relay ..
  case drop => exact firesPlain_drop ..
  case lcnt => subst ha; exact firesPlain_lcnt ..
  case tags => subst hd; exact firesPlain_tags ..
  case ftset => subst ha; exact firesPlain_ftset ..

end Sys2Proof.Claims
end

section
/-!
# The tile exchange begins

TXCH, TBCST and TRED stay unfinished in their element, with D pending (R190); TXCH fills an inbox of its partner (R191), the source of a
TBCST one of every element of the tile (R192).
-/
namespace Sys2Proof.Claims
open Sys2Proof.Machine

/-! ## The elements of a tile -/

theorem mate_ekey {r st el : Nat} (he : el < 16) (j : Nat) : mate (ekey r st el) j = ekey r st j := by
  unfold mate ekey
  omega

theorem keyElem_ekey {r st el : Nat} (he : el < 16) : keyElem (ekey r st el) = el := by
  unfold keyElem ekey
  omega

theorem elemOk_lt {s : State} {r st el : Nat} (h : elemOk s r st el = true) : st < 20 ∧ el < 16 := by
  unfold elemOk siteOk at h
  simp only [Bool.and_eq_true, decide_eq_true_eq] at h
  obtain ⟨⟨-, hsite, -⟩, helem⟩ := h
  exact ⟨hsite, helem⟩

theorem mate_inj {key i j : Nat} (h : mate key i = mate key j) : i = j := by
  unfold mate at h
  omega

theorem OnGrid.mate_focusKey {s : State} (hg : OnGrid s) (j : Nat) : mate (focusKey s) j = ekey s.focus.region s.focus.site j := by
  obtain ⟨-, helem, -⟩ := hg
  exact mate_ekey helem j

theorem OnGrid.keyElem_focusKey {s : State} (hg : OnGrid s) : keyElem (focusKey s) = s.focus.elem := by
  obtain ⟨-, helem, -⟩ := hg
  exact keyElem_ekey helem

/-- Changes of distinct elements one after another: each of those has its own change, and nothing else has changed. -/
theorem foldl_modE {f : State → Nat → State} (key : Nat → Nat) (g : Nat → Elem → Elem) {l : List Nat} (hl : (l.map key).Nodup)
    (hf : ∀ j ∈ l, ∀ t, f t j = modE t (key j) (g j)) (s : State) :
    (∀ j ∈ l, getE (l.foldl f s) (key j) = g j (getE s (key j))) ∧ (∀ k, (∀ j ∈ l, k ≠ key j) → getE (l.foldl f s) k = getE s k) ∧
      ∃ E, l.foldl f s = { s with elems := E } := by
  induction l generalizing s with
  | nil => exact ⟨fun _ h => absurd h List.not_mem_nil, fun _ _ => rfl, s.elems, rfl⟩
  | cons i l ih =>
    obtain ⟨hi, hl⟩ := List.nodup_cons.1 hl
    have hne : ∀ j ∈ l, key i ≠ key j := fun j hj he => hi (he ▸ List.mem_map_of_mem hj)
    obtain ⟨hin, hout, E, hE⟩ := ih hl (fun j hj => hf j (List.mem_cons_of_mem _ hj)) (modE s (key i) (g i))
    rw [List.foldl_cons, hf i List.mem_cons_self]
    refine ⟨fun j hj => ?_, fun k hk => ?_, E, hE⟩
    · rcases List.mem_cons.1 hj with rfl | hj
      · rw [hout _ hne, getE_modE]
      · rw [hin j hj, getE_modE_other _ _ _ _ (hne j hj).symm]
    · rw [hout k fun j hj => hk j (List.mem_cons_of_mem _ hj), getE_modE_other _ _ _ _ (hk i List.mem_cons_self)]

/-! ## Beginning (R190) -/

theorem getLsbD_ofNat_two_pow {j n : Nat} (hj : j < 64) : (BitVec.ofNat 64 (2 ^ n)).getLsbD j = decide (j = n) := by
  rw [BitVec.getLsbD_ofNat, decide_eq_true hj, Bool.true_and, Nat.testBit_two_pow]
  exact decide_eq_decide.2 eq_comm

theorem begins_beginX (x : Ctx) (e : Elem) (kind : XKind) (n : Fin 16) (a : Vec) : Begins x e kind n a (beginX x e kind (.f n) a) :=
  ⟨rfl, fun j hj => (BitVec.getLsbD_or ..).trans (by rw [getLsbD_ofNat_two_pow hj]; rfl), rfl⟩

theorem Begins.binbox {x : Ctx} {e e' : Elem} {kind : XKind} {d : Nat} {a : Vec} (h : Begins x e kind d a e') : e'.binbox = e.binbox := by
  obtain ⟨-, -, hrest⟩ := h
  have hbox := congrArg Elem.binbox hrest
  exact hbox

theorem acquireOps_binbox (e : Elem) (f : Form) (k : Nat) : (acquireOps e f k).binbox = e.binbox := by
  obtain ⟨c, h⟩ := acquireOps_cases e f k
  rw [h e rfl]
  cases c <;> rfl

theorem Beat.binbox {f : Form} {x : Ctx} {k : Nat} {fl : Flags} {r : BeatRes} {e : Elem} (h : Beat f x k fl r e) :
    e.binbox = r.elem.binbox := by
  have hbox := congrArg Elem.binbox h.rest
  exact hbox

/-- A firing whose beats only begin exchange operations leaves the inboxes of its element. -/
theorem Ran.binbox_of_begins {f : Form} {cpb rw : Nat} {carry : BeatOps → Bool} {s : State} {e : Elem} {kind : XKind} {d : Nat}
    (h : Ran f cpb rw carry (change fun x e _ o e' => Begins x e kind d o.a e') s e) : e.binbox = (elem s).binbox := by
  obtain ⟨-, e', hkept, hlast⟩ := h.invariant (fun _ e => e.binbox = (elem s).binbox) rfl
    fun _ _ _ _ _ _ _ hP heff hbeat => by
      obtain ⟨hbegins, -, -⟩ := heff
      rw [hbeat.binbox, hbegins.binbox, acquireOps_binbox, hP]
  have hbox := congrArg Elem.binbox hlast
  exact hbox.trans hkept

theorem hasXop_eq_false {e : Elem} {p : XKind → Bool} (h : ∀ x ∈ e.xops, p x.kind = false) : hasXop e p = false :=
  List.any_eq_false.2 fun x hx => by rw [h x hx]; exact Bool.false_ne_true

theorem isTxch_eq_beq (m : Nat) (k : XKind) : isTxch m k = (k == .txch m) := by
  cases k with
  | txch n => rw [isTxch, Bool.eq_iff_iff, beq_iff_eq, beq_iff_eq, XKind.txch.injEq]
  | _ => rfl

theorem isTbcst_eq_false {k : XKind} (h : ∀ j, k ≠ .tbcst j) : isTbcst k = false := by
  cases k with
  | tbcst n => exact absurd rfl (h n)
  | _ => rfl

theorem isTred_eq_false {k : XKind} (h : ∀ o g ty, k ≠ .tred o g ty) : isTred k = false := by
  cases k with
  | tred o g ty => exact absurd rfl (h o g ty)
  | _ => rfl

/-- The operand A of the only beat. -/
theorem opndAt_firstOps {s : State} {f : Form} {a : Opnd} (h : f.a = .src a) : (firstOps s f).a = opndAt s 0 a := by
  have hread : (firstOps s f).a = (readOpnd (elem s) (fpSample s) 0 f.hdr.dq a).1 := by
    change (readField (elem s) (fpSample s) 0 f.hdr.dq f.a).1 = _
    rw [h]
    rfl
  rw [hread]
  cases a with
  | q j => cases f.hdr.dq <;> rfl
  | _ => rfl

/-- An exchange operation of one beat that is ready begins in its element; what it does beyond the element follows. -/
theorem exec_begins {i : Instr} {f : Form} {s : State} {ready : Bool} {kind : XKind} {n : Fin 16} {a : Opnd}
    {after : Firing → State → State} (hf : i.form = some f)
    (hi : exec i s = fireWith i ready 0 (elemExe fun x e _ o => beginX x e kind (.f n) o.a) after s) (h1 : f.hdr.beats = .x1)
    (ha : f.a = .src a) (hg : OnGrid s) (hr : Ready s f 0) (hu : ready = true) :
    ∃ y t, exec i s = .next (after y t) ∧ y.ops.a = opndAt s 0 a ∧ OnlyElem s t ∧
      Ran f 1 f.hdr.ty.width (fun _ => false) (change fun x e _ o e' => Begins x e kind n o.a e') s (getE t (focusKey s)) := by
  have htrap : NoTrap (fireCtx s f 1) (elemExe fun x e _ o => beginX x e kind (.f n) o.a) f.hdr.beats.count := fun _ _ _ _ _ => rfl
  obtain ⟨honly, hran⟩ := fireForm_completes (eff := change fun x e _ o e' => Begins x e kind n o.a e') hg hr hu (fun _ => false)
    f.hdr.ty.width_pos htrap fun _ _ _ _ _ => change_elemExe (begins_beginX ..)
  have hcount : f.hdr.beats.count = 1 := by rw [h1]; rfl
  refine ⟨runBeats s (fireCtx s f 1) (elemExe fun x e _ o => beginX x e kind (.f n) o.a) f.hdr.ty.width, _, hi.trans ?_, ?_, honly, hran⟩
  · rw [fireWith, hf]
    exact congrArg Host.Outcome.next (fireForm_after hg hr hu htrap after)
  · rw [runBeats_ops hcount htrap, opndAt_firstOps ha]

/-! ## TXCH (R191) -/

/-- An element's changes, seen from a state in which another element is put back. -/
theorem OnlyElem.setE_back {s t : State} (h : OnlyElem s t) (p : Nat) (g : Elem → Elem) : OnlyElem s (setE (modE t p g) p (getE s p)) where
  region := h.region
  fired := h.fired
  regions := h.regions
  elems := fun k hk => by
    by_cases hp : k = p
    · rw [hp, getE_setE]
    · rw [getE_setE_other _ _ _ _ hp, getE_modE_other _ _ _ _ hp, h.elems k hk]
  mem := h.mem
  device := h.device

theorem xor_ne_self {a b : Nat} (h : b ≠ 0) : a ^^^ b ≠ a := fun he => h <| by
  have := congrArg (a ^^^ ·) he
  rwa [← Nat.xor_assoc, Nat.xor_self, Nat.zero_xor] at this

theorem exec_txch_of_ready {h : Hdr} {a : Opnd} {n : Fin 16} {m : BitVec 4} {f : Form} {s : State} (hm : m ≠ 0)
    (hf : (Instr.txch h (.f n) a m).form = some f) (h1 : h.beats = .x1) (hg : OnGrid s) (hr : Ready s f 0)
    (hfree : ∀ x ∈ (elem s).xops, x.kind ≠ .txch m.toNat)
    (hbox : tfind (getE s (ekey s.focus.region s.focus.site (s.focus.elem ^^^ m.toNat))).inbox m.toNat = none) :
    let p := ekey s.focus.region s.focus.site (s.focus.elem ^^^ m.toNat)
    ∃ t, exec (.txch h (.f n) a m) s = .next t ∧
      getE t p = { getE s p with inbox := tset (getE s p).inbox m.toNat ⟨opndAt s 0 a, nowAt s⟩ } ∧
      Ran f 1 f.hdr.ty.width (fun _ => false) (change fun x e _ o e' => Begins x e (.txch m.toNat) n o.a e') s (getE t (focusKey s)) ∧
      OnlyElem s (setE t p (getE s p)) := by
  obtain rfl := Option.some.inj hf
  have hp : mate (focusKey s) (keyElem (focusKey s) ^^^ m.toNat) = ekey s.focus.region s.focus.site (s.focus.elem ^^^ m.toNat) := by
    rw [hg.keyElem_focusKey, hg.mate_focusKey]
  have hne : ekey s.focus.region s.focus.site (s.focus.elem ^^^ m.toNat) ≠ focusKey s := fun he => by
    refine xor_ne_self (a := s.focus.elem) (b := m.toNat) (fun h0 => hm (BitVec.eq_of_toNat_eq h0)) ?_
    unfold focusKey ekey at he
    omega
  have hu : (!hasXop (getE s (focusKey s)) (isTxch m.toNat) &&
      (tfind (getE s (mate (focusKey s) (keyElem (focusKey s) ^^^ m.toNat))).inbox m.toNat).isNone) = true := by
    rw [hp, hbox, hasXop_eq_false fun x hx => by rw [isTxch_eq_beq]; exact beq_eq_false_iff_ne.2 (hfree x hx)]
    rfl
  obtain ⟨y, t, hexec, hy, honly, hran⟩ := exec_begins rfl (exec_txch ..) h1 rfl hg hr hu
  dsimp only
  rw [hp, hy] at hexec
  refine ⟨_, hexec, ?_, ?_, honly.setE_back _ _⟩
  · rw [getE_modE, honly.elems _ hne]
    rfl
  · rw [getE_modE_other _ _ _ _ hne.symm]
    exact hran

/-! ## TBCST (R192) -/

theorem exec_tbcst_of_ready {h : Hdr} {a : Opnd} {n : Fin 16} {src : BitVec 4} {f : Form} {s : State}
    (hf : (Instr.tbcst h (.f n) a src).form = some f) (h1 : h.beats = .x1) (hg : OnGrid s) (hr : Ready s f 0)
    (hfree : ∀ x ∈ (elem s).xops, ∀ j, x.kind ≠ .tbcst j) (hne : s.focus.elem ≠ src.toNat) :
    ∃ t, exec (.tbcst h (.f n) a src) s = .next t ∧
      Ran f 1 f.hdr.ty.width (fun _ => false) (change fun x e _ o e' => Begins x e (.tbcst src.toNat) n o.a e') s (getE t (focusKey s)) ∧
      OnlyElem s t := by
  obtain rfl := Option.some.inj hf
  have hsrc : (keyElem (focusKey s) == src.toNat) = false := by rw [hg.keyElem_focusKey]; exact beq_eq_false_iff_ne.2 hne
  have hnot := hasXop_eq_false (e := elem s) (p := isTbcst) fun x hx => isTbcst_eq_false (hfree x hx)
  obtain ⟨y, t, hexec, -, honly, hran⟩ := exec_begins rfl (exec_tbcst ..) h1 rfl hg hr (by
    rw [show getE s (focusKey s) = elem s from rfl, hnot, hsrc]; rfl)
  rw [if_neg (by rw [hsrc]; exact Bool.false_ne_true)] at hexec
  exact ⟨t, hexec, hran, honly⟩

/-- The source's value in an inbox of every element of a tile. -/
def fillBinboxes (key src : Nat) (v : Inbox) (s : State) : State :=
  (upto 16).foldl (fun t j => modE t (mate key j) fun e => { e with binbox := tset e.binbox src v }) s

theorem fillBinboxes_spec (key src : Nat) (v : Inbox) (s : State) :
    (∀ j < 16, getE (fillBinboxes key src v s) (mate key j) =
      { getE s (mate key j) with binbox := tset (getE s (mate key j)).binbox src v }) ∧
    (∀ k, (∀ j < 16, k ≠ mate key j) → getE (fillBinboxes key src v s) k = getE s k) ∧
    ∃ E, fillBinboxes key src v s = { s with elems := E } := by
  obtain ⟨hin, hout, hE⟩ := foldl_modE (mate key) (fun _ e => { e with binbox := tset e.binbox src v })
    (List.nodup_range.map fun _ _ => mate_inj) (fun _ _ _ => rfl) s
  exact ⟨fun j hj => hin j (List.mem_range.2 hj), fun k hk => hout k fun j hj => hk j (List.mem_range.1 hj), hE⟩

theorem exec_tbcst_of_source {h : Hdr} {a : Opnd} {n : Fin 16} {src : BitVec 4} {f : Form} {s : State}
    (hf : (Instr.tbcst h (.f n) a src).form = some f) (h1 : h.beats = .x1) (hg : OnGrid s) (hr : Ready s f 0)
    (hfree : ∀ x ∈ (elem s).xops, ∀ j, x.kind ≠ .tbcst j) (heq : s.focus.elem = src.toNat)
    (hbox : ∀ j < 16, tfind (getE s (ekey s.focus.region s.focus.site j)).binbox src.toNat = none) :
    let mate := fun j => ekey s.focus.region s.focus.site j
    ∃ t, exec (.tbcst h (.f n) a src) s = .next t ∧
      Ran f 1 f.hdr.ty.width (fun _ => false) (change fun x e _ o e' => Begins x e (.tbcst src.toNat) n o.a e') s
        { getE t (focusKey s) with binbox := (elem s).binbox } ∧
      (∀ j < 16, (getE t (mate j)).binbox = tset (getE s (mate j)).binbox src.toNat ⟨opndAt s 0 a, nowAt s⟩) ∧
      (∀ j < 16, j ≠ s.focus.elem → { getE t (mate j) with binbox := (getE s (mate j)).binbox } = getE s (mate j)) ∧
      (∀ k, (∀ j < 16, k ≠ mate j) → getE t k = getE s k) ∧
      OnlyElem s { t with elems := tset s.elems (focusKey s) (getE t (focusKey s)) } := by
  obtain rfl := Option.some.inj hf
  have hsrc : (keyElem (focusKey s) == src.toNat) = true := by rw [hg.keyElem_focusKey]; exact beq_iff_eq.2 heq
  have hnot := hasXop_eq_false (e := elem s) (p := isTbcst) fun x hx => isTbcst_eq_false (hfree x hx)
  have hall : ((upto 16).all fun j => (tfind (getE s (mate (focusKey s) j)).binbox src.toNat).isNone) = true :=
    List.all_eq_true.2 fun j hj => by rw [hg.mate_focusKey, hbox j (List.mem_range.1 hj)]; rfl
  obtain ⟨y, t₀, hexec, hy, honly, hran⟩ := exec_begins rfl (exec_tbcst ..) h1 rfl hg hr (by
    rw [show getE s (focusKey s) = elem s from rfl, hnot, hsrc, hall]; rfl)
  rw [if_pos hsrc, hy] at hexec
  obtain ⟨hin, hout, E, hE⟩ := fillBinboxes_spec (focusKey s) src.toNat ⟨opndAt s 0 a, nowAt s⟩ t₀
  simp only [hg.mate_focusKey] at hin hout
  have hself : s.focus.elem < 16 := by obtain ⟨-, helem, -⟩ := hg; exact helem
  have hother : ∀ j, j ≠ s.focus.elem → getE t₀ (ekey s.focus.region s.focus.site j) = getE s (ekey s.focus.region s.focus.site j) :=
    fun j hj => honly.elems _ fun he => hj <| by unfold focusKey ekey at he; omega
  have hkept := hran.binbox_of_begins
  have hfocus := hin s.focus.elem hself
  rw [show ekey s.focus.region s.focus.site s.focus.elem = focusKey s from rfl] at hfocus
  refine ⟨fillBinboxes (focusKey s) src.toNat ⟨opndAt s 0 a, nowAt s⟩ t₀, hexec, ?fired, fun j hj => ?boxes,
    fun j hj hne => ?others, fun k hk => ?outside, ?frame⟩
  case fired =>
    rw [hfocus, ← hkept]
    exact hran
  case boxes =>
    rw [hin j hj]
    by_cases hself : j = s.focus.elem
    · subst hself
      exact congrArg (fun b => tset b src.toNat (⟨opndAt s 0 a, nowAt s⟩ : Inbox)) hkept
    · rw [hother j hself]
  case others => rw [hin j hj, hother j hne]
  case outside =>
    rw [hout k hk]
    exact honly.elems k (hk _ hself)
  case frame =>
    rw [hE]
    exact { region := honly.region, fired := honly.fired, regions := honly.regions,
            elems := fun k hk => tget_tset_other _ _ _ _ _ hk, mem := honly.mem, device := honly.device }

theorem firesIf_tred (h : Hdr) (a : Opnd) (n : Fin 16) (op gm : BitVec 4) (s : State) :
    FiresIf (fun _ => ∀ x ∈ (elem s).xops, ∀ o g ty, x.kind ≠ .tred o g ty) (fun _ => 0) (.tred h (.f n) a op gm) 1 h.ty.width
      (fun _ => false) (change fun x e _ o e' => Begins x e (.tred op.toNat gm.toNat h.ty) n o.a e') s :=
  firesIf_of_exec rfl (exec_tred ..) rfl
    (fun hfree => by
      rw [show getE s (focusKey s) = elem s from rfl, hasXop_eq_false fun x hx => isTred_eq_false (hfree x hx)]
      rfl)
    (fun _ _ _ _ _ => rfl) fun _ _ _ _ => change_elemExe (begins_beginX ..)

end Sys2Proof.Claims
end

section
/-!
# The tile exchange delivers

A delivery takes its operation from its element and writes the value to D (R190): of an inbox (R191, R192), or of the reduction over the
group of a TRED (R193).
-/
namespace Sys2Proof.Claims
open Sys2Proof.Machine

/-! ## One delivery (R190) -/

/-- The first element that a test accepts is also the first that equals it. -/
theorem removeFirst_eq_erase {α : Type} [DecidableEq α] {p : α → Bool} {l : List α} {x : α} (h : l.find? p = some x) :
    removeFirst p l = l.erase x := by
  induction l with
  | nil => cases h
  | cons y l ih =>
    unfold removeFirst at ih ⊢
    rw [replaceFirst]
    cases hy : p y with
    | true =>
      rw [List.find?_cons_of_pos hy] at h
      cases h
      rw [List.erase_cons_head, if_pos rfl]
      rfl
    | false =>
      rw [List.find?_cons_of_neg (by simp [hy])] at h
      have hne : y ≠ x := fun he => by rw [he, List.find?_some h] at hy; cases hy
      rw [List.erase_cons_tail (by simpa using hne), if_neg Bool.false_ne_true, ih h]

theorem delivered_deliverX {e : Elem} {p : XKind → Bool} {x : XOp} (v : Vec) (h : e.xops.find? (fun y => p y.kind) = some x) :
    Delivered e x v (deliverX e x.d v p) where
  dest n := tget_tset ..
  pend j hj := by
    refine (BitVec.getLsbD_and ..).trans ?_
    rw [BitVec.getLsbD_not, getLsbD_ofNat_two_pow hj, decide_eq_true hj, Bool.true_and, decide_not]
  ops := removeFirst_eq_erase h
  rest := rfl

/-- A step of one element changes that element. -/
theorem onlyElems_setE (s : State) (key : Nat) (e : Elem) : OnlyElems (· = key) s (setE s key e) where
  elems _ hk := getE_setE_other _ _ _ _ hk
  regions _ := rfl
  mem _ := rfl
  device := rfl

/-! ## TXCH and TBCST (R191, R192) -/

theorem find?_isTxch (l : List XOp) (m : Nat) : l.find? (fun y => isTxch m y.kind) = l.find? (fun y => y.kind == .txch m) :=
  congrArg (fun p => l.find? p) (funext fun y => isTxch_eq_beq m y.kind)

theorem exec_txchDeliver_spec {r st el m : Nat} {s : State} {x : XOp} {v : Inbox} (hok : elemOk s r st el = true)
    (hact : acting (getR s r) = true) (hx : (getE s (ekey r st el)).xops.find? (fun y => y.kind == .txch m) = some x)
    (hv : tfind (getE s (ekey r st el)).inbox m = some v) :
    exec (.txchDeliver r st el m) s = .next (if max x.fired v.at_ + 2 < (getR s r).cycle then
      setE s (ekey r st el) { deliverX (getE s (ekey r st el)) x.d v.val (isTxch m) with
        inbox := terase (getE s (ekey r st el)).inbox m } else s) := by
  rw [exec_txchDeliver, execTxchDeliver, withUnit_of_ok hok]
  dsimp only
  rw [find?_isTxch, hx, hv, hact]
  simp only [Bool.and_true, decide_eq_true_eq]

theorem exec_tbcstDeliver_spec {r st el n : Nat} {s : State} {x : XOp} {v : Inbox} (hok : elemOk s r st el = true)
    (hact : acting (getR s r) = true) (hx : (getE s (ekey r st el)).xops.find? (fun y => isTbcst y.kind) = some x)
    (hn : x.kind = .tbcst n) (hv : tfind (getE s (ekey r st el)).binbox n = some v) :
    exec (.tbcstDeliver r st el) s = .next (if max x.fired v.at_ + 2 < (getR s r).cycle then
      setE s (ekey r st el) { deliverX (getE s (ekey r st el)) x.d v.val isTbcst with
        binbox := terase (getE s (ekey r st el)).binbox n } else s) := by
  rw [exec_tbcstDeliver, execTbcstDeliver, withUnit_of_ok hok]
  dsimp only
  rw [hx]
  dsimp only
  rw [hn]
  dsimp only
  rw [hv, hact]
  simp only [Bool.and_true, decide_eq_true_eq]

/-! ## TRED (R193) -/

theorem find?_of_tredOf {s : State} {key o g : Nat} {ty : LaneTy} {x : XOp} (h : tredOf s key = some (o, g, ty, x)) :
    (getE s key).xops.find? (fun y => isTred y.kind) = some x := by
  unfold tredOf at h
  split at h
  next y hy =>
    split at h
    next => cases h; exact hy
    next => cases h
  next => cases h

/-- The element that steps belongs to its group. -/
theorem mem_groupOf_self {el : Nat} (h : el < 16) (gm : Nat) : el ∈ groupOf el gm :=
  List.mem_filter.2 ⟨List.mem_range.2 h, by rw [Nat.xor_self, Nat.zero_or]; exact beq_self_eq_true _⟩

theorem nodup_mates_groupOf (key el gm : Nat) : ((groupOf el gm).map (mate key)).Nodup :=
  (List.nodup_range.filter _).map fun _ _ => mate_inj

theorem tredOf_of_tredAgree {s : State} {key gm j : Nat} (h : tredAgree s key gm = true) (hj : j ∈ groupOf (keyElem key) gm) :
    ∃ o g ty x, tredOf s (mate key j) = some (o, g, ty, x) := by
  unfold tredAgree at h
  split at h
  next => cases h
  next =>
    have hmember := List.all_eq_true.1 h j hj
    split at hmember
    next o g ty x hx => exact ⟨o, g, ty, x, hx⟩
    next => cases hmember

/-- The last member's firing, under a bound that every member keeps. -/
theorem foldl_max_lt {s : State} {key c n : Nat} {l : List Nat} {a : Nat} (ha : a + c < n)
    (h : ∀ j ∈ l, ∀ o g ty x, tredOf s (mate key j) = some (o, g, ty, x) → x.fired + c < n) :
    l.foldl (fun a j => match tredOf s (mate key j) with | some (_, _, _, x) => Nat.max a x.fired | none => a) a + c < n := by
  induction l generalizing a with
  | nil => exact ha
  | cons j l ih =>
    refine ih ?_ fun i hi => h i (List.mem_cons_of_mem _ hi)
    dsimp only
    split
    next x hx =>
      have hfired := h j List.mem_cons_self _ _ _ _ hx
      rcases Nat.le_total a x.fired with hle | hle
      · rwa [show Nat.max a x.fired = x.fired from Nat.max_eq_right hle]
      · rwa [show Nat.max a x.fired = a from Nat.max_eq_left hle]
    next => exact ha

/-- What a member of a group receives. -/
def tredReceive (s : State) (key : Nat) (r : List Vec × Flags) (j : Nat) (e : Elem) : Elem :=
  match tredOf s (mate key j) with
  | some (_, _, _, x) => setFlags (deliverX e x.d (r.1.getD j 0) isTred) r.2
  | none => e

theorem tredReceive_spec {s : State} {key j o g : Nat} {ty : LaneTy} {x : XOp} (r : List Vec × Flags)
    (hx : tredOf s (mate key j) = some (o, g, ty, x)) :
    let e := getE s (mate key j)
    (tredReceive s key r j e).fpst = e.fpst ||| r.2.setWidth 32 ∧
      Delivered e x (r.1.getD j 0) { tredReceive s key r j e with fpst := e.fpst } := by
  dsimp only
  rw [tredReceive, hx]
  exact ⟨rfl, delivered_deliverX _ (find?_of_tredOf hx)⟩

/-- The values that the members of a group bring. -/
def tredValues (s : State) (key : Nat) : List Vec :=
  (upto 16).map fun j => match tredOf s (mate key j) with | some (_, _, _, x) => x.a | none => 0

/-- The delivery to one member. -/
def tredStep (s : State) (key : Nat) (r : List Vec × Flags) (t : State) (j : Nat) : State :=
  match tredOf s (mate key j) with
  | some (_, _, _, x) => modE t (mate key j) fun e => setFlags (deliverX e x.d (r.1.getD j 0) isTred) r.2
  | none => t

theorem tredDeliver_eq (s : State) (key op gm : Nat) (ty : LaneTy) : tredDeliver s key op gm ty =
    (groupOf (keyElem key) gm).foldl (tredStep s key (reduce op gm ty (groupOf (keyElem key) gm) (tredValues s key))) s := rfl

theorem tredStep_of_tredAgree {s : State} {key gm j : Nat} (r : List Vec × Flags) (t : State) (h : tredAgree s key gm = true)
    (hj : j ∈ groupOf (keyElem key) gm) : tredStep s key r t j = modE t (mate key j) (tredReceive s key r j) := by
  obtain ⟨o, g, y, x, hx⟩ := tredOf_of_tredAgree h hj
  unfold tredStep tredReceive
  rw [hx]

/-- The whole group receives: each member its value, and nothing else has changed. -/
theorem tredDeliver_spec {s : State} {key op gm : Nat} {ty : LaneTy} (h : tredAgree s key gm = true) :
    OnlyElems (fun k => ∃ j ∈ groupOf (keyElem key) gm, k = mate key j) s (tredDeliver s key op gm ty) ∧
      ∀ j ∈ groupOf (keyElem key) gm, getE (tredDeliver s key op gm ty) (mate key j) =
        tredReceive s key (reduce op gm ty (groupOf (keyElem key) gm) (tredValues s key)) j (getE s (mate key j)) := by
  rw [tredDeliver_eq]
  obtain ⟨hin, hout, E, hE⟩ := foldl_modE (mate key) (tredReceive s key (reduce op gm ty (groupOf (keyElem key) gm) (tredValues s key)))
    (nodup_mates_groupOf ..) (fun j hj t => tredStep_of_tredAgree _ t h hj) s
  refine ⟨?_, hin⟩
  rw [hE] at hout ⊢
  exact { elems := fun k hk => hout k fun j hj he => hk ⟨j, hj, he⟩, regions := fun _ => rfl, mem := fun _ => rfl, device := rfl }

theorem exec_tredDeliver_spec {r st el op gm : Nat} {ty : LaneTy} {x₀ : XOp} {s : State} (hok : elemOk s r st el = true)
    (hact : acting (getR s r) = true) (hx : tredOf s (ekey r st el) = some (op, gm, ty, x₀)) (hclash : tredClash s (ekey r st el) = none)
    (hagree : tredAgree s (ekey r st el) gm = true)
    (hlast : ∀ j ∈ groupOf el gm, ∀ o g y x, tredOf s (mate (ekey r st el) j) = some (o, g, y, x) →
      x.fired + 2 * popCount gm 4 + 1 < (getR s r).cycle) :
    exec (.tredDeliver r st el) s = .next (tredDeliver s (ekey r st el) op gm ty) := by
  have hel : el < 16 := (elemOk_lt hok).2
  have hself := hlast el (mem_groupOf_self hel gm) _ _ _ _ (by rw [mate_ekey hel]; exact hx)
  have hbound := foldl_max_lt (s := s) (key := ekey r st el) (c := 2 * popCount gm 4 + 1) (l := groupOf el gm) (a := 0)
    (by omega : 0 + (2 * popCount gm 4 + 1) < (getR s r).cycle) fun j hj o g y x hx => hlast j hj o g y x hx
  rw [exec_tredDeliver, execTredDeliver, withUnit_of_ok hok]
  dsimp only
  rw [hact, hclash, hx]
  refine congrArg Host.Outcome.next ((if_neg (by decide)).trans (if_pos ?_))
  rw [Bool.and_eq_true]
  exact ⟨hagree, decide_eq_true hbound⟩

/-! ## The statement -/

/-- Settles O26: each operation begins in its own element and fills inboxes of others after it; each delivery changes its elements alone. -/
theorem tileExchange : Obligations.TileExchange := by
  unfold Obligations.TileExchange
  refine ⟨⟨?txch, ?tbcst, ?tred⟩, ?txchDeliver, ?tbcstDeliver, ?tredDeliver⟩
  case txch =>
    rintro h d a n m f s rfl hm hf h1 hg hr hfree
    exact exec_txch_of_ready hm hf h1 hg hr hfree
  case tbcst =>
    rintro h d a n src f s rfl hf h1 hg hr hfree
    exact ⟨exec_tbcst_of_ready hf h1 hg hr hfree, exec_tbcst_of_source hf h1 hg hr hfree⟩
  case tred =>
    rintro h d a n op gm s rfl
    exact firesIf_tred ..
  case txchDeliver =>
    intro r st el m s x v hok hact key e hx hv
    rw [exec_txchDeliver_spec hok hact hx hv]
    refine ⟨fun hlt => ⟨_, congrArg _ (if_pos hlt), ?_⟩, fun hle => congrArg _ (if_neg (by omega))⟩
    rw [getE_setE]
    exact ⟨rfl, delivered_deliverX v.val (find?_isTxch .. ▸ hx), onlyElems_setE ..⟩
  case tbcstDeliver =>
    intro r st el n s x v hok hact key e hx hn hv
    rw [exec_tbcstDeliver_spec hok hact hx hn hv]
    refine ⟨fun hlt => ⟨_, congrArg _ (if_pos hlt), ?_⟩, fun hle => congrArg _ (if_neg (by omega))⟩
    rw [getE_setE]
    exact ⟨rfl, delivered_deliverX v.val hx, onlyElems_setE ..⟩
  case tredDeliver =>
    intro r st el op gm ty x₀ s hok hact key group hx hclash hagree hlast v red
    obtain ⟨-, hel⟩ := elemOk_lt hok
    obtain ⟨honly, hmembers⟩ := tredDeliver_spec (op := op) (ty := ty) hagree
    rw [show keyElem key = el from keyElem_ekey hel] at honly hmembers
    refine ⟨_, exec_tredDeliver_spec hok hact hx hclash hagree hlast, honly, fun j hj o g y x hx => ?_⟩
    rw [hmembers j hj]
    exact tredReceive_spec _ hx

end Sys2Proof.Claims
end

section
/-!
# Tokens travel, slots are granted, coordinates are intersected

A token leaves the output stage for each of its routes and enters a queue or a port (R172, R173); the arbiter of a queue grants its empty
slots (R170, R171); the intersection unit drops the head of the smaller coordinate (R182).
-/
namespace Sys2Proof.Claims
open Sys2Proof.Machine

theorem keySite_ekey {r st el : Nat} (hs : st < 20) (he : el < 16) : keySite (ekey r st el) = st := by
  unfold keySite ekey
  omega

/-! ## The output stage (R173, R184) -/

/-- The first token of a channel goes next on every route that it still has to take, if it waits for nothing. -/
theorem nextOut_of_first {s : State} {key k j : Nat} {tk : OutTok} {rest : List OutTok}
    (hfirst : (getE s key).out.filter (fun t => t.chan == k) = tk :: rest) (hwait : tk.wait = none) (hj : j ∈ tk.pend) :
    nextOut s key k j = some tk := by
  have hheld : tokenHeld s key tk = false := by rw [tokenHeld, hwait]
  unfold nextOut
  dsimp only
  rw [hfirst, List.takeWhile_cons, hheld]
  exact List.find?_cons_of_pos (List.contains_iff_mem.2 hj)

/-- Taking a route off: the channel's first token loses it, and leaves with its last; every other token stays. -/
theorem took_outTaken {e : Elem} {k j : Nat} {tk : OutTok} {rest : List OutTok}
    (hfirst : e.out.filter (fun t => t.chan == k) = tk :: rest) (hj : j ∈ tk.pend) : Took k j tk rest e.out (outTaken e k j).out := by
  suffices h : ∀ l : List OutTok, l.filter (fun t => t.chan == k) = tk :: rest →
      let l' := replaceFirst (fun t => t.chan == k && t.pend.contains j)
        (fun t => if t.pend.filter (· != j) = [] then [] else [{ t with pend := t.pend.filter (· != j) }]) l
      l'.filter (fun t => t.chan == k) =
          (if tk.pend.filter (· != j) = [] then rest else { tk with pend := tk.pend.filter (· != j) } :: rest) ∧
        l'.filter (fun t => t.chan != k) = l.filter (fun t => t.chan != k) by
    obtain ⟨hafter, hothers⟩ := h e.out hfirst
    exact ⟨hfirst, hafter, hothers⟩
  intro l hl
  induction l with
  | nil => cases hl
  | cons t l ih =>
    by_cases ht : t.chan = k
    · rw [List.filter_cons_of_pos (by simpa using ht), List.cons.injEq] at hl
      obtain ⟨rfl, rfl⟩ := hl
      have hp : (t.chan == k && t.pend.contains j) = true := by rw [ht, beq_self_eq_true, List.contains_iff_mem.2 hj]; rfl
      dsimp only
      rw [replaceFirst, if_pos hp]
      split
      · simp [ht]
      · simp [ht]
    · rw [List.filter_cons_of_neg (by simpa using ht)] at hl
      have hp : ¬ (t.chan == k && t.pend.contains j) = true := by simp [ht]
      obtain ⟨hafter, hothers⟩ := ih hl
      dsimp only
      rw [replaceFirst, if_neg hp]
      refine ⟨?_, ?_⟩
      · rw [List.filter_cons_of_neg (by simpa using ht)]
        exact hafter
      · rw [List.filter_cons_of_pos (by simpa using ht), List.filter_cons_of_pos (by simpa using ht), hothers]

/-! ## TOKEN_DELIVER (R172, R173) -/

theorem exec_tokenDeliver_of_first {r st el k j : Nat} {s : State} {tk : OutTok} {rest : List OutTok} (hok : elemOk s r st el = true)
    (hk : k < 6) (hj : j < 4) (hfirst : (getE s (ekey r st el)).out.filter (fun t => t.chan == k) = tk :: rest) (hwait : tk.wait = none)
    (hpend : j ∈ tk.pend) :
    let key := ekey r st el
    let c := (getR s r).cycle
    let u := modE s key fun e => outTaken e k j
    let pt : PortTok := ⟨key, k, tk.tok, tk.recs, tk.sample⟩
    exec (.tokenDeliver r st el k j) s = .next
      (if bindKind tk.bind = 1 then
        let d := bindTarget tk.bind key j
        if c < tk.sent + 2 + hops st (keySite d.1) then s else enqueue u d.1 d.2 (.chan key k) tk.tok
      else if bindKind tk.bind = 2 then
        if c < tk.sent + 2 + hopsWest st then s
        else modR u r fun x =>
          let n := bindPort tk.bind % 16
          let p := tget x.ports n {}
          { x with ports := tset x.ports n { p with slots := portEnqueue p.slots (.chan key k) pt } }
      else if bindKind tk.bind = 3 then
        let n := bindPort tk.bind
        if c < tk.sent + 2 + hopsPort n st then s
        else modR u r fun x => setEnginePort x n tk.tok.ctx (portEnqueue (enginePort x n tk.tok.ctx) (.chan key k) pt)
      else s) := by
  obtain ⟨hst, hel⟩ := elemOk_lt hok
  have hunit : (elemOk s r st el && decide (k < 6 ∧ j < 4)) = true := by rw [hok, decide_eq_true ⟨hk, hj⟩]; rfl
  rw [exec_tokenDeliver, execTokenDeliver, withUnit_of_ok hunit]
  unfold tokenDeliver
  rw [nextOut_of_first hfirst hwait hpend, keyRegion_ekey hst hel, keySite_ekey hst hel]

theorem getE_modR_setE (s : State) (r key : Nat) (e : Elem) (f : Region → Region) : getE (modR (setE s key e) r f) key = e :=
  getE_setE ..

/-- A token that goes to a port of its region. -/
theorem port_entered {s : State} {r st el k j : Nat} {tk : OutTok} {rest : List OutTok} {f : Region → Region}
    (hfirst : (getE s (ekey r st el)).out.filter (fun t => t.chan == k) = tk :: rest) (hpend : j ∈ tk.pend) :
    let key := ekey r st el
    let t := modR (modE s key fun e => outTaken e k j) r f
    ∃ out, Took k j tk rest (getE s key).out out ∧ getE t key = { getE s key with out := out } ∧ OtherElems key s t ∧
      OtherRegions r s t ∧ SameMem s t ∧ SameDevice s t ∧ getR t r = f (getR s r) :=
  ⟨_, took_outTaken hfirst hpend, getE_modR_setE .., fun _ hk => getE_setE_other _ _ _ _ hk, fun _ hq => getR_modR_other _ _ _ _ hq,
    fun _ => rfl, rfl, getR_modR ..⟩

/-! ## CREDIT_RETURN (R170, R171) -/

/-- Of two requesters the one with the lower number. -/
def lowerFeeder (a : Option (Feeder × Nat)) (w : Feeder × Nat) : Option (Feeder × Nat) :=
  match a with
  | some b => if feederNo w.1 < feederNo b.1 then some w else some b
  | none => some w

theorem lowerFeeder_spec (a : Option (Feeder × Nat)) (w : Feeder × Nat) :
    lowerFeeder a w ≠ none ∧ ∀ x, lowerFeeder a w = some x → a = some x ∨ x = w := by
  cases a with
  | none => exact ⟨Option.some_ne_none _, fun x h => .inr (Option.some.inj h).symm⟩
  | some b =>
    rw [lowerFeeder]
    split
    · exact ⟨Option.some_ne_none _, fun x h => .inr (Option.some.inj h).symm⟩
    · exact ⟨Option.some_ne_none _, fun x h => .inl h⟩

/-- The lowest of a list is none only for the empty list, and stands in it. -/
theorem foldl_lowerFeeder (l : List (Feeder × Nat)) (a : Option (Feeder × Nat)) :
    (l.foldl lowerFeeder a = none → l = []) ∧ ∀ x, l.foldl lowerFeeder a = some x → a = some x ∨ x ∈ l := by
  induction l generalizing a with
  | nil => exact ⟨fun _ => rfl, fun x h => .inl h⟩
  | cons w l ih =>
    obtain ⟨hnone, hsome⟩ := ih (lowerFeeder a w)
    obtain ⟨hne, hor⟩ := lowerFeeder_spec a w
    rw [List.foldl_cons]
    refine ⟨fun h => ?_, fun x h => ?_⟩
    · rw [hnone h] at h
      exact absurd h hne
    · rcases hsome x h with h | h
      · exact (hor x h).imp_right fun hx => List.mem_cons.2 (.inl hx)
      · exact .inr (List.mem_cons_of_mem _ h)

theorem nextFeeder_eq (n : Nat) (l : List (Feeder × Nat)) :
    nextFeeder n l = ((l.filter fun w => decide (n ≤ feederNo w.1)).foldl lowerFeeder none).or (l.foldl lowerFeeder none) := by
  change (match (l.filter fun w => decide (n ≤ feederNo w.1)).foldl lowerFeeder none with
    | some w => some w
    | none => l.foldl lowerFeeder none) = _
  cases (l.filter fun w => decide (n ≤ feederNo w.1)).foldl lowerFeeder none <;> rfl

/-- The arbiter finds a requester if there is one. -/
theorem nextFeeder_spec (n : Nat) (l : List (Feeder × Nat)) :
    (nextFeeder n l = none → l = []) ∧ ∀ w, nextFeeder n l = some w → w ∈ l := by
  obtain ⟨hnone, hsome⟩ := foldl_lowerFeeder l none
  obtain ⟨-, hfilter⟩ := foldl_lowerFeeder (l.filter fun w => decide (n ≤ feederNo w.1)) none
  rw [nextFeeder_eq]
  refine ⟨fun h => hnone (Option.or_eq_none_iff.1 h).2, fun w h => ?_⟩
  rcases Option.or_eq_some_iff.1 h with h | ⟨-, h⟩
  · exact (List.mem_filter.1 ((hfilter w h).resolve_left (Option.some_ne_none w).symm)).1
  · exact (hsome w h).resolve_left (Option.some_ne_none w).symm

theorem holds_append (l g : List Resv) (w : Feeder) : holds (l ++ g) w = holds l w + holds g w := by
  unfold holds
  rw [List.filter_append, List.length_append]

/-- What an arbiter has granted, of n empty slots, to the feeders that request them. -/
structure Grants (cycle : Nat) (reqs : List (Feeder × Nat)) (n : Nat) (l g : List Resv) : Prop where
  length : g.length ≤ n
  who : ∀ v ∈ g, ∃ w ∈ reqs, v.who = w.1 ∧ v.usable = cycle + 2 + w.2
  most : ∀ v ∈ g, holds (l ++ g) v.who ≤ 8
  all : g.length < n → ∀ w ∈ reqs, 8 ≤ holds (l ++ g) w.1

theorem grants_grantSlots (cycle : Nat) (reqs : List (Feeder × Nat)) (n : Nat) (l : List Resv) (rr : Nat) :
    ∃ g, (grantSlots cycle reqs n l rr).1 = l ++ g ∧ Grants cycle reqs n l g := by
  induction n generalizing l rr with
  | zero =>
    exact ⟨[], (List.append_nil l).symm, ⟨Nat.le_refl _, fun v h => absurd h List.not_mem_nil, fun v h => absurd h List.not_mem_nil,
      fun h => absurd h (Nat.lt_irrefl _)⟩⟩
  | succ n ih =>
    obtain ⟨hnone, hsome⟩ := nextFeeder_spec rr (reqs.filter fun w => decide (holds l w.1 < 8))
    rw [grantSlots]
    split
    next hn =>
      refine ⟨[], (List.append_nil l).symm, ⟨Nat.zero_le _, fun v h => absurd h List.not_mem_nil, fun v h => absurd h List.not_mem_nil,
        fun _ w hw => ?_⟩⟩
      have hfew := List.filter_eq_nil_iff.1 (hnone hn) w hw
      rw [List.append_nil]
      simpa using hfew
    next w hn =>
      obtain ⟨hw, hfew⟩ := List.mem_filter.1 (hsome w hn)
      rw [decide_eq_true_eq] at hfew
      obtain ⟨g, hg, hgrants⟩ := ih (l ++ [⟨w.1, cycle + 2 + w.2⟩]) (feederNo w.1 + 1)
      have hjoin : l ++ [(⟨w.1, cycle + 2 + w.2⟩ : Resv)] ++ g = l ++ ⟨w.1, cycle + 2 + w.2⟩ :: g := List.append_cons .. |>.symm
      have hmost := hgrants.most
      have hall := hgrants.all
      rw [hjoin] at hg hmost hall
      refine ⟨_, hg, ⟨Nat.succ_le_succ hgrants.length, fun v hv => ?who, fun v hv => ?most,
        fun hlt => hall (Nat.lt_of_succ_lt_succ hlt)⟩⟩
      case who =>
        rcases List.mem_cons.1 hv with rfl | hv
        · exact ⟨w, hw, rfl, rfl⟩
        · exact hgrants.who v hv
      case most =>
        rcases List.mem_cons.1 hv with rfl | hv
        · by_cases hmore : ∃ v ∈ g, v.who = w.1
          · obtain ⟨v, hv, hvw⟩ := hmore
            exact hvw ▸ hmost v hv
          · have hg0 : holds g w.1 = 0 := List.length_eq_zero_iff.2 <| List.filter_eq_nil_iff.2 fun v hv he =>
              hmore ⟨v, hv, beq_iff_eq.1 he⟩
            have hone : holds [(⟨w.1, cycle + 2 + w.2⟩ : Resv)] w.1 = 1 := by simp [holds]
            rw [← hjoin, holds_append, holds_append, hone, hg0]
            exact hfew
        · exact hmost v hv

theorem exec_creditReturn_spec {r st el q : Nat} {s : State} (hok : elemOk s r st el = true) (hq : q < 6) :
    let e := getE s (ekey r st el)
    let x := getQ e q
    let g := grantSlots (getR s r).cycle (requesters s (ekey r st el) q) (emptySlots x (getR s r).cycle) x.resv x.rr
    exec (.creditReturn r st el q) s =
      .next (setE s (ekey r st el) { e with queues := tset e.queues q { x with resv := g.1, rr := g.2 } }) := by
  obtain ⟨hst, hel⟩ := elemOk_lt hok
  have hunit : (elemOk s r st el && decide (q < 6)) = true := by rw [hok, decide_eq_true hq]; rfl
  rw [exec_creditReturn, execCreditReturn, withUnit_of_ok hunit, creditReturn, keyRegion_ekey hst hel]
  rfl

/-! ## COORDINATE_INTERSECT (R182) -/

theorem coordOf_toNat (t : Token) : coordOf t = (lane 32 t.pay 0).toNat := laneOf_toNat ..

/-- A queue that holds a token loses it. -/
theorem dequeue_eq_popped {e : Elem} {q : Nat} {t : Token} (h : headTok e q = some t) :
    dequeue e q = { e with queues := tset e.queues q (popped (getQ e q)) } ∧ (dequeue e q).queues ≠ e.queues := by
  obtain ⟨l, hl⟩ : ∃ l, (getQ e q).toks = t :: l := List.head?_eq_some_iff.1 h
  have heq : dequeue e q = { e with queues := tset e.queues q (popped (getQ e q)) } := by
    unfold dequeue popped
    simp only [hl]
    rfl
  refine ⟨heq, fun hsame => ?_⟩
  have hpop : (popped (getQ e q)).toks = l := by unfold popped; rw [hl]
  have hget : (popped (getQ e q)).toks = (getQ e q).toks := by
    have hq := congrArg (fun t => (tget t q ({} : Queue)).toks) hsame
    rw [heq] at hq
    dsimp only at hq
    rw [tget_tset_same] at hq
    exact hq
  rw [hpop, hl] at hget
  exact absurd (congrArg List.length hget) (by rw [List.length_cons]; omega)

/-- The intersection unit drops a head that does not end its wave, where its coordinate is the smaller one. -/
theorem intersect_of_lt {e : Elem} {a b : Token} (hen : spEn e = true) (ha : headTok e (spQa e) = some a) (hb : headTok e (spQb e) = some b)
    (hra : rawAvail e (spQa e) ≠ 0) (hrb : rawAvail e (spQb e) ≠ 0) :
    (coordOf a < coordOf b → a.eow = false → intersect e = dequeue e (spQa e)) ∧
    (coordOf b < coordOf a → b.eow = false → intersect e = dequeue e (spQb e)) ∧ (coordOf a = coordOf b → intersect e = e) := by
  have hgate : (spEn e && rawAvail e (spQa e) != 0 && rawAvail e (spQb e) != 0) = true := by
    rw [hen, bne_iff_ne.2 hra, bne_iff_ne.2 hrb]; rfl
  have hlast : ∀ t u : Token, coordOf t < coordOf u → t.eow = false → ¬ (t.eow || coordOf t == 0xFFFFFFFF) = true :=
      fun t u hlt heow h => by
    have hu := (lane 32 u.pay 0).isLt
    rw [← coordOf_toNat] at hu
    rw [heow, Bool.false_or, beq_iff_eq] at h
    omega
  unfold intersect
  dsimp only
  rw [ha, hb]
  dsimp only
  rw [if_pos hgate]
  refine ⟨fun hlt heow => ?_, fun hlt heow => ?_, fun heq => ?_⟩
  · rw [if_pos hlt, if_neg (hlast a b hlt heow)]
  · rw [if_neg (by omega), if_pos hlt, if_neg (hlast b a hlt heow)]
  · rw [if_neg (by omega), if_neg (by omega)]

theorem exec_coordinateIntersect_spec {r st el : Nat} {s : State} (hok : elemOk s r st el = true) (hact : acting (getR s r) = true)
    (hbusy : (getE s (ekey r st el)).spBusy ≤ (getR s r).cycle) :
    let e := getE s (ekey r st el)
    (∀ q t, headTok e q = some t → intersect e = dequeue e q → exec (.coordinateIntersect r st el) s =
      .next (setE s (ekey r st el) { e with queues := tset e.queues q (popped (getQ e q)), spBusy := (getR s r).cycle + 1 })) ∧
    (intersect e = e → exec (.coordinateIntersect r st el) s = .next s) := by
  rw [exec_coordinateIntersect, execCoordinateIntersect, withUnit_of_ok hok]
  refine ⟨fun q t ht hq => congrArg _ ?_, fun heq => congrArg _ (if_neg ?_)⟩
  · obtain ⟨hpop, hne⟩ := dequeue_eq_popped ht
    refine (if_pos ?_).trans ?_
    · rw [hq, hact, decide_eq_true hbusy, bne_iff_ne.2 hne]; rfl
    · rw [hq, hpop]
  · rw [heq, bne_self_eq_false, Bool.and_false]
    exact Bool.false_ne_true

/-! ## The statement -/

/-- Settles O35: a token is taken off the output stage and enters where its binding says; the arbiter's grants by induction on the empty
slots; the intersection unit by the comparison of the two coordinates. -/
theorem tokenTransport : Obligations.TokenTransport := by
  unfold Obligations.TokenTransport
  refine ⟨?deliver, ?credit, ?intersect⟩
  case deliver =>
    intro r st el k j s tk rest hok hk hj key e c hfirst hwait hpend pt
    have hexec := exec_tokenDeliver_of_first hok hk hj hfirst hwait hpend
    refine ⟨?queue, ?stream, ?engine⟩
    case queue =>
      intro h1 d
      rw [hexec, if_pos h1]
      refine ⟨fun hlt => congrArg _ (if_pos hlt), fun hle => ?_⟩
      refine ⟨_, (outTaken e k j).out, congrArg _ (if_neg (Nat.not_lt.2 hle)), took_outTaken hfirst hpend, ⟨?_, ?_⟩, fun _ => rfl,
        fun _ => rfl, rfl⟩
      · exact getE_modE ..
      · exact fun _ hk => getE_modE_other _ _ _ _ hk
    case stream =>
      intro h2 hle
      obtain ⟨out, htook, hframe⟩ := port_entered (s := s) (r := r) (st := st) (el := el) (k := k) (j := j) (f := fun x =>
        { x with ports := tset x.ports (bindPort tk.bind % 16) { tget x.ports (bindPort tk.bind % 16) {} with
          slots := portEntered (tget x.ports (bindPort tk.bind % 16) {}).slots (.chan key k) pt } }) hfirst hpend
      refine ⟨_, out, hexec.trans (congrArg _ ?_), htook, hframe⟩
      rw [if_neg (by omega), if_pos h2]
      exact if_neg (Nat.not_lt.2 hle)
    case engine =>
      intro h3 n away hle
      obtain ⟨out, htook, hframe⟩ := port_entered (s := s) (r := r) (st := st) (el := el) (k := k) (j := j) (f := fun x =>
        setEnginePort x n tk.tok.ctx (portEntered (enginePort x n tk.tok.ctx) (.chan key k) pt)) hfirst hpend
      refine ⟨_, out, hexec.trans (congrArg _ ?_), htook, hframe⟩
      rw [if_neg (by omega), if_neg (by omega), if_pos h3]
      exact if_neg (Nat.not_lt.2 hle)
  case credit =>
    intro r st el q s hok hq key x free
    obtain ⟨g, hg, hgrants⟩ := grants_grantSlots (getR s r).cycle (requesters s key q) (emptySlots x (getR s r).cycle) x.resv x.rr
    have hexec := exec_creditReturn_spec hok hq
    dsimp only at hexec
    rw [hg] at hexec
    exact ⟨_, g, (grantSlots (getR s r).cycle (requesters s key q) (emptySlots x (getR s r).cycle) x.resv x.rr).2, hexec,
      ⟨getE_setE .., fun _ hk => getE_setE_other _ _ _ _ hk⟩, fun _ => rfl, fun _ => rfl, rfl, hgrants.length, hgrants.who, hgrants.most,
      hgrants.all⟩
  case intersect =>
    intro r st el s a b hok hact key e drops ca cb hen hbusy ha hb hra hrb
    obtain ⟨hless, hmore, hequal⟩ := intersect_of_lt hen ha hb hra hrb
    obtain ⟨hdrop, hkeep⟩ := exec_coordinateIntersect_spec hok hact hbusy
    rw [coordOf_toNat, coordOf_toNat] at hless hmore hequal
    refine ⟨fun hlt heow => ?_, fun hlt heow => ?_, fun heq => ?_⟩
    · exact hdrop _ a ha (hless (by simpa [BitVec.ult] using hlt) heow)
    · exact hdrop _ b hb (hmore (by simpa [BitVec.ult] using hlt) heow)
    · exact ⟨s, hkeep (hequal (congrArg BitVec.toNat heq)), rfl, fun _ _ => rfl, fun _ => rfl, fun _ => rfl, rfl⟩

end Sys2Proof.Claims
end

section
/-!
# Ports of streams: what is written out, what arrives

An outbound port writes its first token to its ring, or drops it where the ring's owner is another (R180, R181); a token on its way from
an inbound port enters its queue (R172); an inbound port takes an entry of its ring where its queue has a slot (R180).
-/
namespace Sys2Proof.Claims
open Sys2Proof.Machine

theorem tset_tset {α : Type} (t : Table α) (k : Nat) (v w : α) : tset (tset t k v) k w = tset t k w := by
  induction t with
  | nil => simp [tset]
  | cons p l ih =>
    obtain ⟨j, u⟩ := p
    simp only [tset]
    split
    · simp [tset]
    · split
      · simp [tset]
      · simp only [tset]
        rw [if_neg ‹_›, if_neg ‹_›, ih]

/-! ## Ports of a region -/

/-- A region whose port n is replaced. -/
def setPort (x : Region) (n : Nat) (p : StreamPort) : Region := { x with ports := tset x.ports n p }

theorem getR_modPort (s : State) (r n : Nat) (f : StreamPort → StreamPort) :
    getR (modPort s r n f) r = setPort (getR s r) n (f (tget (getR s r).ports n {})) := getR_modR ..

theorem getR_modPort_other (s : State) (r n : Nat) {q : Nat} (f : StreamPort → StreamPort) (h : q ≠ r) :
    getR (modPort s r n f) q = getR s q :=
  getR_modR_other _ _ _ _ h

theorem getR_portSend (s : State) (r n key q : Nat) (t : Token) :
    getR (portSend s r n key q t) r = setPort (getR s r) n (portSent (tget (getR s r).ports n {}) key q t (getR s r).cycle) :=
  getR_modPort ..

/-- A port that is replaced twice. -/
theorem setPort_setPort (x : Region) (n : Nat) (p p' : StreamPort) : setPort (setPort x n p) n p' = setPort x n p' :=
  congrArg (fun t => { x with ports := t }) (tset_tset ..)

theorem tget_setPort (x : Region) (n : Nat) (p : StreamPort) : tget (setPort x n p).ports n {} = p := tget_tset_same ..

theorem unit_port {r n : Nat} (hr : r < 64) (hn : n < 16) : (regionOk r && decide (n < 16)) = true := by
  rw [regionOk, decide_eq_true hn, Bool.and_true]
  exact decide_eq_true hr

/-! ## Outbound ports (R180, R181) -/

/-- The first token of an outbound port leaves it. -/
def portPopped (p : StreamPort) (rest : List PortTok) (c : Nat) : StreamPort :=
  { p with slots := { p.slots with toks := rest }, busy := c + 1 }

theorem exec_outboundPortWrite_spec {r n : Nat} {s : State} {tk : PortTok} {rest : List PortTok} (hr : r < 64) (hn : n < 16)
    (hlive : PortLive s r n true) (htoks : (tget (getR s r).ports n {}).slots.toks = tk :: rest)
    (hfull : ringFull (ringDesc s (spDie (spOf s r n)) (spRing (spOf s r n))) = false) :
    let d := ringDesc s (spDie (spOf s r n)) (spRing (spOf s r n))
    let u := modPort s r n fun p => portPopped p rest (getR s r).cycle
    (ringOwner d ≠ ownerOf (getR s r) → exec (.outboundPortWrite r n) s =
      .next (nack (gwLog u r (spRing (spOf s r n)) (spDie (spOf s r n)) n true false) tk.key tk.chan)) ∧
    (ringOwner d = ownerOf (getR s r) → tk.tok.isMarker = false → exec (.outboundPortWrite r n) s =
      .next (gwUnit (ringPushBy u r (spDie (spOf s r n)) (spRing (spOf s r n)) tk.tok) r)) := by
  obtain ⟨hen, hdir, hring, hgate, hnear, hfree, -⟩ := hlive
  rw [exec_outboundPortWrite, execOutboundPortWrite, withUnit_of_ok (unit_port hr hn)]
  unfold outboundWrite
  dsimp only
  rw [htoks]
  dsimp only
  rw [if_pos rfl] at hring
  rw [hen, hdir, hring, hfull, hgate, decide_eq_true hfree, hnear, if_neg (by simp), if_neg (by simp)]
  refine ⟨fun hne => ?_, fun heq hmark => ?_⟩
  · rw [if_pos hne]
    rfl
  · rw [if_neg (not_not.2 heq), if_neg (by simp [hmark])]
    rfl

/-- Two fields at bits 32 and 40 of a number, with what stands below and above them. -/
theorem extractLsb'_at_32_40 {lo cause origin : Nat} (hi : Nat) (hlo : lo < 2 ^ 32) (hcause : cause < 2 ^ 8) :
    (BitVec.ofNat 1024 (lo + cause * 2 ^ 32 + origin * 2 ^ 40 + hi * 2 ^ 42)).extractLsb' 32 8 = BitVec.ofNat 8 cause ∧
      (BitVec.ofNat 1024 (lo + cause * 2 ^ 32 + origin * 2 ^ 40 + hi * 2 ^ 42)).extractLsb' 40 2 = BitVec.ofNat 2 origin := by
  constructor
  · apply BitVec.eq_of_toNat_eq
    rw [toNat_extractLsb'_mod, BitVec.toNat_ofNat, BitVec.toNat_ofNat]
    omega
  · apply BitVec.eq_of_toNat_eq
    rw [toNat_extractLsb'_mod, BitVec.toNat_ofNat, BitVec.toNat_ofNat]
    omega

/-- The cause and the origin in the record of a trap (R442). -/
theorem trapRecord_cause_origin (e : Elem) (key : Nat) {origin code beat slot : Nat} (cause : BitVec 8) (word : BitVec 64) (addr : Nat)
    (ops : List Vec) (hcode : code < 2 ^ 11) (hbeat : beat < 2 ^ 6) (hslot : slot < 2 ^ 4) :
    (trapRecord e key origin cause code beat slot word addr ops).extractLsb' 32 8 = cause ∧
      (trapRecord e key origin cause code beat slot word addr ops).extractLsb' 40 2 = BitVec.ofNat 2 origin := by
  have hel : keyElem key < 16 := Nat.mod_lt _ (by decide)
  have hst : keySite key < 20 := Nat.mod_lt _ (by decide)
  obtain ⟨lo, hi, hlo, hrec⟩ : ∃ lo hi, lo < 2 ^ 32 ∧ trapRecord e key origin cause code beat slot word addr ops =
      BitVec.ofNat 1024 (lo + cause.toNat * 2 ^ 32 + origin * 2 ^ 40 + hi * 2 ^ 42) := by
    unfold trapRecord
    dsimp only
    generalize (upto 6).foldl _ 0 = sides
    generalize packLanes 128 _ = vals
    refine ⟨keyElem key * 2 ^ 2 + keySite key * 2 ^ 6 + slot * 2 ^ 11 + beat * 2 ^ 15 + code * 2 ^ 21,
      word.toNat * 2 ^ 374 + addr * 2 ^ 438 + vals * 2 ^ 502 + sides * 2 ^ 886, by omega, congrArg (BitVec.ofNat 1024) ?_⟩
    omega
  obtain ⟨hcause, horigin⟩ := extractLsb'_at_32_40 hi hlo cause.isLt
  rw [hrec]
  exact ⟨hcause.trans (BitVec.ofNat_toNat ..), horigin⟩

/-- A refused token's element traps (R181, R503). -/
theorem nack_spec (s : State) {key : Nat} (k : Nat) (h : (getE s key).st ≠ .trapped) :
    ∃ rec : BitVec 1024, getE (nack s key k) key =
        { getE s key with st := .trapped, trapAt := (getR s (keyRegion key)).cycle, trapRec := some rec } ∧
      rec.extractLsb' 32 8 = 0x0A ∧ rec.extractLsb' 40 2 = 2 ∧ OtherElems key s (nack s key k) ∧
      { nack s key k with elems := s.elems } = s := by
  obtain ⟨hself, hother, hrest⟩ := elemTrap_spec s key 2 0x0A 0 0 0 0 k []
  rw [if_neg h] at hself
  obtain ⟨hcause, horigin⟩ := trapRecord_cause_origin (getE s key) key (origin := 2) (code := 0) (beat := 0) (slot := 0) 0x0A 0 k []
    (by decide) (by decide) (by decide)
  exact ⟨_, hself, hcause, horigin, hother, hrest⟩

theorem isMarker_eq_false {t : Token} (h : t.side.extractLsb' 14 2 ≠ 2) : t.isMarker = false :=
  beq_eq_false_iff_ne.2 fun he => h (BitVec.eq_of_toNat_eq he)

theorem isMarker_eq_true {t : Token} (h : t.side.extractLsb' 14 2 = 2) : t.isMarker = true :=
  beq_iff_eq.2 (congrArg BitVec.toNat h)

theorem getR_ringPushBy (s : State) (r die n : Nat) (t : Token) (q : Nat) : getR (ringPushBy s r die n t) q = getR s q := rfl

theorem outbound_written {r n : Nat} {s : State} {tk : PortTok} {rest : List PortTok} (hr : r < 64) (hn : n < 16)
    (hlive : PortLive s r n true) (htoks : (tget (getR s r).ports n {}).slots.toks = tk :: rest)
    (hfull : ringFull (ringDesc s (spDie (spOf s r n)) (spRing (spOf s r n))) = false)
    (howner : ringOwner (ringDesc s (spDie (spOf s r n)) (spRing (spOf s r n))) = ownerOf (getR s r))
    (hkind : tk.tok.side.extractLsb' 14 2 ≠ 2) :
    let b := spOf s r n
    let p := tget (getR s r).ports n {}
    ∃ t, exec (.outboundPortWrite r n) s = .next t ∧
      getR t r = { getR s r with ports := tset (getR s r).ports n (portPopped p rest (getR s r).cycle), gwCount := gwNext (getR s r) } ∧
      OtherRegions r s t ∧ SameElems s t ∧ SameDevice s { t with windowBy := s.windowBy } ∧
      MemIs (ringPushed s (spDie b) (spRing b) tk.tok) s t := by
  obtain ⟨-, hwrite⟩ := exec_outboundPortWrite_spec hr hn hlive htoks hfull
  obtain ⟨m, w, hpush⟩ := ringPushBy_eq (modPort s r n fun p => portPopped p rest (getR s r).cycle) r (spDie (spOf s r n))
    (spRing (spOf s r n)) tk.tok
  refine ⟨_, hwrite howner (isMarker_eq_false hkind), ?own, fun q hq => ?others, fun k => ?elems, ?device, ?mem⟩
  case own =>
    rw [getR_gwUnit, getR_ringPushBy, getR_modPort]
    rfl
  case others =>
    rw [gwUnit, getR_modR_other _ _ _ _ hq, getR_ringPushBy]
    exact getR_modPort_other s r n _ hq
  case elems => rw [gwUnit, getE_modR, hpush]; rfl
  case device => rw [hpush]; rfl
  case mem =>
    exact memIs_ringPush (s := modPort s r n fun p => portPopped p rest (getR s r).cycle) hlive.aligned _ _ tk.tok

theorem outbound_refused {r n : Nat} {s : State} {tk : PortTok} {rest : List PortTok} (hr : r < 64) (hn : n < 16)
    (hlive : PortLive s r n true) (htoks : (tget (getR s r).ports n {}).slots.toks = tk :: rest)
    (hfull : ringFull (ringDesc s (spDie (spOf s r n)) (spRing (spOf s r n))) = false)
    (howner : ringOwner (ringDesc s (spDie (spOf s r n)) (spRing (spOf s r n))) ≠ ownerOf (getR s r))
    (hst : (getE s tk.key).st ≠ .trapped) :
    let p := tget (getR s r).ports n {}
    ∃ t rec l, exec (.outboundPortWrite r n) s = .next t ∧
      getR t r = { getR s r with ports := tset (getR s r).ports n (portPopped p rest (getR s r).cycle) } ∧ OtherRegions r s t ∧
      OtherElems tk.key s t ∧ SameMem s t ∧
      getE t tk.key = { getE s tk.key with st := .trapped, trapAt := (getR s (keyRegion tk.key)).cycle, trapRec := some rec } ∧
      rec.extractLsb' 32 8 = 0x0A ∧ rec.extractLsb' 40 2 = 2 ∧
      { t with regions := s.regions, elems := s.elems, mem := s.mem } = { s with logQueue := s.logQueue ++ [l] } := by
  obtain ⟨hdrop, -⟩ := exec_outboundPortWrite_spec hr hn hlive htoks hfull
  have hu := getR_modPort s r n fun p => portPopped p rest (getR s r).cycle
  have hcycle : ∀ q, (getR (modPort s r n fun p => portPopped p rest (getR s r).cycle) q).cycle = (getR s q).cycle := fun q => by
    by_cases hq : q = r
    · rw [hq, hu]; rfl
    · rw [getR_modPort_other s r n _ hq]
  obtain ⟨rec, hself, hcause, horigin, hother, hrest⟩ := nack_spec (gwLog (modPort s r n fun p => portPopped p rest (getR s r).cycle) r
    (spRing (spOf s r n)) (spDie (spOf s r n)) n true false) (key := tk.key) tk.chan hst
  refine ⟨_, rec, _, hdrop howner, hu, fun q hq => getR_modPort_other s r n (fun p => portPopped p rest (getR s r).cycle) hq,
    hother, fun _ => rfl, ?_, hcause, horigin, rfl⟩
  rw [hself]
  exact congrArg (fun c => { getE s tk.key with st := .trapped, trapAt := c, trapRec := some rec }) (hcycle _)

end Sys2Proof.Claims
end

section
/-!
# Ports of streams: what arrives, and what is taken from a ring

A token on its way from a port enters its queue when it arrives (R172, R501); an inbound port sends the entry of its ring to the queue
that its binding names (R180), a deal port to the sites of its actor in turn, and a marker to every one of them (R331, R335).
-/
namespace Sys2Proof.Claims
open Sys2Proof.Machine

/-! ## Arrivals (R172, R501) -/

theorem hopsWest_keySite (key : Nat) : hopsWest (keySite key) = key / 16 % 20 % 5 := rfl

theorem portArrival_none {s : State} {r n : Nat} (h : NoArrival s r n) : portArrival s r n = none :=
  List.find?_eq_none.2 fun m hm => by
    have hlt := h m hm
    rw [decide_eq_true_eq, hopsWest_keySite]
    omega

/-- The first token that has arrived. -/
theorem portArrival_of_moves {s : State} {r n : Nat} {before after : List PortMove} {m : PortMove}
    (hmoves : (tget (getR s r).ports n {}).moves = before ++ m :: after)
    (hbefore : ∀ x ∈ before, (getR s r).cycle < x.sent + 2 + x.key / 16 % 20 % 5)
    (hm : m.sent + 2 + m.key / 16 % 20 % 5 ≤ (getR s r).cycle) :
    portArrival s r n = some m ∧ removeFirst (fun v => v == m) (before ++ m :: after) = before ++ after := by
  constructor
  · unfold portArrival
    rw [hmoves, List.find?_append, List.find?_eq_none.2 fun x hx => ?_, Option.none_or]
    · exact List.find?_cons_of_pos (decide_eq_true hm)
    · have hlt := hbefore x hx
      rw [decide_eq_true_eq, hopsWest_keySite]
      omega
  · have hnot : m ∉ before := fun hmem => Nat.not_le.2 (hbefore m hmem) hm
    have hfind : (before ++ m :: after).find? (fun v => v == m) = some m := by
      have hearly : before.find? (fun v => v == m) = none := List.find?_eq_none.2 fun x hx he => hnot (beq_iff_eq.1 he ▸ hx)
      rw [List.find?_append, hearly, Option.none_or]
      exact List.find?_cons_of_pos (beq_self_eq_true m)
    rw [removeFirst_eq_erase hfind, List.erase_append_right _ hnot, List.erase_cons_head]

theorem portArrive_spec {s : State} {r n : Nat} {before after : List PortMove} {m : PortMove}
    (hmoves : (tget (getR s r).ports n {}).moves = before ++ m :: after)
    (hremove : removeFirst (fun v => v == m) (before ++ m :: after) = before ++ after) :
    let p := tget (getR s r).ports n {}
    let t := portArrive s r n m
    OneQueue m.key m.queue (entered (getQ (getE s m.key) m.queue) (.port r n) m.tok) s t ∧
      getR t r = { getR s r with ports := tset (getR s r).ports n { p with moves := before ++ after } } ∧
      OtherRegions r s t ∧ SameMem s t ∧ SameDevice s t := by
  have hport : getR (portArrive s r n m) r = setPort (getR s r) n { tget (getR s r).ports n {} with
      moves := removeFirst (fun v => v == m) (tget (getR s r).ports n {}).moves } :=
    getR_modPort s r n fun p => { p with moves := removeFirst (fun v => v == m) p.moves }
  refine ⟨⟨getE_modE .., fun k hk => getE_modE_other _ _ _ _ hk⟩, ?_, fun q hq => ?_, fun _ => rfl, rfl⟩
  · rw [hport, hmoves, hremove]
    rfl
  · exact getR_modPort_other s r n (fun p => { p with moves := removeFirst (fun v => v == m) p.moves }) hq

theorem exec_arrives {s : State} {r n : Nat} {m : PortMove} (hr : r < 64) (hn : n < 16) (h : portArrival s r n = some m) :
    ∀ i ∈ [Instr.inboundPortDeliver r n, .dealPortDeliver r n], exec i s = .next (portArrive s r n m) := by
  have hin : exec (.inboundPortDeliver r n) s = .next (portArrive s r n m) := by
    rw [exec_inboundPortDeliver, execInboundPortDeliver, withUnit_of_ok (unit_port hr hn)]
    unfold inboundDeliver
    dsimp only
    rw [h]
  have hdeal : exec (.dealPortDeliver r n) s = .next (portArrive s r n m) := by
    rw [exec_dealPortDeliver, execDealPortDeliver, withUnit_of_ok (unit_port hr hn)]
    unfold dealDeliver
    dsimp only
    rw [h]
  exact List.forall_mem_cons.2 ⟨hin, List.forall_mem_singleton.2 hdeal⟩

/-! ## An entry that is taken and sent -/

/-- A port has a slot in a queue for one more token. -/
theorem portSlots_eq_zero_iff (s : State) (r n key q : Nat) : portSlots s r n key q = 0 ↔ ¬ HasSlot s r n key q := by
  unfold portSlots HasSlot
  omega

theorem inboundHead_of_waiting {s : State} {r n : Nat} {t : Token} (h : Waiting s r n t) :
    inboundHead s r n = some t ∧ inboundSync s r n = (s, true) ∧ (tget (getR s r).ports n {}).busy ≤ (getR s r).cycle := by
  obtain ⟨⟨hen, hdir, hring, hgate, hnear, hfree, -⟩, hsync, hentry, rfl⟩ := h
  rw [if_neg Bool.false_ne_true] at hring
  refine ⟨if_pos ?_, hsync, hfree⟩
  rw [hen, hdir, hnear, hring, hgate, bne_iff_ne.2 hentry]
  rfl

/-- The entry leaves the ring, and the gateway counts it (R181, R464). -/
theorem inboundPop_spec {s : State} {r n : Nat} (hact : acting (getR s r) = true) (hline : s.ringOffset % 64 = 0) :
    getR (inboundPop s r n) r = { getR s r with gwCount := (getR s r).gwCount + 1 } ∧ OtherRegions r s (inboundPop s r n) ∧
      SameElems s (inboundPop s r n) ∧ SameDevice s (inboundPop s r n) ∧ RingPopped s r n (inboundPop s r n) := by
  refine ⟨?_, fun q hq => getR_modR_other _ _ _ _ hq, fun _ => rfl, rfl, memIs_ringPop hline _ _ (spCons_lt _)⟩
  refine (getR_gwUnit ..).trans ?_
  have hown : getR (ringPop s (spDie (spOf s r n)) (spRing (spOf s r n)) (spCons (spOf s r n))) r = getR s r := rfl
  rw [hown, gwNext, hact, if_pos rfl]

/-- A change of one port after that. -/
theorem modPort_after {s u : State} {r n : Nat} (f : StreamPort → StreamPort) (ho : OtherRegions r s u) (he : SameElems s u)
    (hd : SameDevice s u) : OtherRegions r s (modPort u r n f) ∧ SameElems s (modPort u r n f) ∧ SameDevice s (modPort u r n f) :=
  ⟨fun q hq => (getR_modPort_other u r n f hq).trans (ho q hq), he, hd⟩

/-- What an inbound port does with the entry that waits. -/
theorem exec_inboundPortDeliver_spec {s : State} {r n : Nat} {t : Token} (hr : r < 64) (hn : n < 16) (hwait : Waiting s r n t)
    (hnone : NoArrival s r n) (hdeal : dealSites (getR s r) n = none) (hpump : pumpSource (getR s r) n = false)
    (hact : acting (getR s r) = true) :
    let b := spOf s r n
    let key := ekey r (spSite b) (spElem b)
    exec (.inboundPortDeliver r n) s = .next
      (if portMismatch s r n then inboundMismatch s r n
      else if portSlots s r n key (spQueue b) = 0 then s else portSend (inboundPop s r n) r n key (spQueue b) t) := by
  obtain ⟨hhead, hsync, hfree⟩ := inboundHead_of_waiting hwait
  rw [exec_inboundPortDeliver, execInboundPortDeliver, withUnit_of_ok (unit_port hr hn)]
  unfold inboundDeliver
  dsimp only
  rw [portArrival_none hnone, hhead]
  dsimp only
  rw [hsync, hdeal, hpump, hact, if_neg (by simpa using hfree)]
  rfl

theorem portMismatch_iff (s : State) (r n : Nat) :
    portMismatch s r n = true ↔ ringOwner (ringDesc s (spDie (spOf s r n)) (spRing (spOf s r n))) ≠ ownerOf (getR s r) := bne_iff_ne

theorem inbound_sent {s : State} {r n key q : Nat} (t : Token) (hact : acting (getR s r) = true) (hline : s.ringOffset % 64 = 0) :
    let p := tget (getR s r).ports n {}
    let u := portSend (inboundPop s r n) r n key q t
    SameElems s u ∧ getR u r = { getR s r with
        ports := tset (getR s r).ports n (portSent p key q t (getR s r).cycle), gwCount := (getR s r).gwCount + 1 } ∧
      OtherRegions r s u ∧ SameDevice s u ∧ RingPopped s r n u := by
  obtain ⟨hown, hothers, helems, hdevice, hpop⟩ := inboundPop_spec (n := n) hact hline
  obtain ⟨ho, he, hd⟩ := modPort_after (n := n) (fun p => portSent p key q t (getR (inboundPop s r n) r).cycle) hothers helems hdevice
  refine ⟨he, ?_, ho, hd, hpop⟩
  rw [getR_portSend, hown]
  rfl

/-! ## Deal ports (R331, R335) -/

theorem dealSlot_iff (s : State) (r n st : Nat) :
    dealSlot s r n st = true ↔ HasSlot s r n (ekey r st (spElem (spOf s r n))) (spQueue (spOf s r n)) := by
  unfold dealSlot dealQueue
  dsimp only
  rw [bne_iff_ne, ne_eq, portSlots_eq_zero_iff, not_not]

/-- The first site in order that has a slot. -/
theorem find?_dealSlot {s : State} {r n st i : Nat} {order : List Nat} (hst : order[i]? = some st)
    (hslot : HasSlot s r n (ekey r st (spElem (spOf s r n))) (spQueue (spOf s r n)))
    (hbefore : ∀ j < i, ∀ u, order[j]? = some u → ¬ HasSlot s r n (ekey r u (spElem (spOf s r n))) (spQueue (spOf s r n))) :
    order.find? (fun st => dealSlot s r n st) = some st := by
  obtain ⟨hi, rfl⟩ := List.getElem?_eq_some_iff.1 hst
  refine List.find?_eq_some_iff_getElem.2 ⟨(dealSlot_iff ..).2 hslot, i, hi, rfl, fun j hj => ?_⟩
  rw [Bool.not_eq_true', ← Bool.not_eq_true, dealSlot_iff]
  exact hbefore j hj _ (List.getElem?_eq_getElem (by omega))

theorem exec_dealPortDeliver_spec {s : State} {r n : Nat} {live : List Nat} (hr : r < 64) (hn : n < 16)
    (hlive : dealSites (getR s r) n = some live) (hact : acting (getR s r) = true) (hen : spEnabled (spOf s r n) = true)
    (hnone : NoArrival s r n) (hbusy : (tget (getR s r).ports n {}).busy ≤ (getR s r).cycle) :
    let p := tget (getR s r).ports n {}
    (∀ st rest, p.dealLeft = st :: rest → dealSlot s r n st = true → exec (.dealPortDeliver r n) s =
      .next (dealTo (modPort s r n fun p => { p with dealLeft := rest }) r n st marker)) ∧
    (∀ t, p.dealLeft = [] → (getR s r).stoat.drains = [] → Waiting s r n t → portMismatch s r n = false →
      (t.isMarker = true → exec (.dealPortDeliver r n) s =
        .next (modPort (inboundPop s r n) r n fun p => { p with dealLeft := live, eowPassed := true })) ∧
      (∀ st, t.isMarker = false →
        (live.filter (p.lastDeal < ·) ++ live.filter (· ≤ p.lastDeal)).find? (fun st => dealSlot s r n st) = some st →
        exec (.dealPortDeliver r n) s = .next (modPort (dealTo (inboundPop s r n) r n st t) r n fun p =>
          { p with lastDeal := st, eowPassed := p.eowPassed || t.eow, dealLeft := if t.eow then live.filter (· != st) else [] }))) := by
  rw [exec_dealPortDeliver, execDealPortDeliver, withUnit_of_ok (unit_port hr hn)]
  unfold dealDeliver
  dsimp only
  rw [portArrival_none hnone, hlive]
  dsimp only
  rw [hact, hen, if_neg (by simpa using hbusy)]
  refine ⟨fun st rest hleft hslot => ?_, fun t hleft hdrains hwait hmatch => ?_⟩
  · rw [hleft]
    dsimp only
    rw [if_pos hslot]
  · obtain ⟨hhead, hsync, -⟩ := inboundHead_of_waiting hwait
    rw [hleft, hdrains]
    dsimp only [List.find?_nil]
    rw [hhead]
    dsimp only
    rw [hsync, hmatch, if_neg Bool.false_ne_true]
    dsimp only
    rw [if_neg (by simp)]
    refine ⟨fun hm => by rw [if_pos hm], fun st hm hst => ?_⟩
    rw [if_neg (by simp [hm]), hst]

end Sys2Proof.Claims
end

section
/-!
# Ports of streams: what is dealt, and ports that are disabled

A port that is disabled gives up its tokens and its slots (R179), as does one whose ring belongs to another owner (R181); the queues of
its region are bound again, and keep their tokens (R114).
-/
namespace Sys2Proof.Claims
open Sys2Proof.Machine

/-! ## What the dealing of one token leaves (R331) -/

theorem spOf_modPort (s : State) (r n m : Nat) (f : StreamPort → StreamPort) : spOf (modPort s r m f) r n = spOf s r n := by
  rw [spOf, getSeq, getR_modPort]
  rfl

theorem marker_eq : marker = ⟨markerSide, 0⟩ := rfl

theorem dealt_left {s : State} {r n st : Nat} (rest : List Nat) :
    let p := tget (getR s r).ports n {}
    let t := dealTo (modPort s r n fun p => { p with dealLeft := rest }) r n st marker
    SameElems s t ∧ getR t r = setPort (getR s r) n (portSent { p with dealLeft := rest } (ekey r st (spElem (spOf s r n)))
        (spQueue (spOf s r n)) ⟨markerSide, 0⟩ (getR s r).cycle) ∧
      OtherRegions r s t ∧ SameMem s t ∧ SameDevice s t := by
  refine ⟨fun _ => rfl, ?_, fun q hq => ?_, fun _ => rfl, rfl⟩
  · rw [dealTo, getR_portSend, getR_modPort, tget_setPort, setPort_setPort, dealQueue, spOf_modPort, marker_eq]
    rfl
  · rw [dealTo, portSend, getR_modPort_other _ _ _ _ hq, getR_modPort_other _ _ _ _ hq]

theorem spOf_inboundPop {s : State} {r n : Nat} (hact : acting (getR s r) = true) (hline : s.ringOffset % 64 = 0) :
    spOf (inboundPop s r n) r n = spOf s r n := by
  obtain ⟨hown, -⟩ := inboundPop_spec (n := n) hact hline
  rw [spOf, getSeq, hown]
  rfl

theorem dealt_marker {s : State} {r n : Nat} (live : List Nat) (hact : acting (getR s r) = true) (hline : s.ringOffset % 64 = 0) :
    let p := tget (getR s r).ports n {}
    let t := modPort (inboundPop s r n) r n fun p => { p with dealLeft := live, eowPassed := true }
    RingPopped s r n t ∧
      getR t r = { getR s r with ports := tset (getR s r).ports n { p with dealLeft := live, eowPassed := true },
                                 gwCount := (getR s r).gwCount + 1 } ∧
      OtherRegions r s t ∧ SameElems s t ∧ SameDevice s t := by
  obtain ⟨hown, hothers, helems, hdevice, hpop⟩ := inboundPop_spec (n := n) hact hline
  obtain ⟨ho, he, hd⟩ := modPort_after (n := n) (fun p => { p with dealLeft := live, eowPassed := true }) hothers helems hdevice
  refine ⟨hpop, ?_, ho, he, hd⟩
  rw [getR_modPort, hown]
  rfl

theorem dealt_token {s : State} {r n st : Nat} (t : Token) (f : StreamPort → StreamPort) (hact : acting (getR s r) = true)
    (hline : s.ringOffset % 64 = 0) :
    let p := tget (getR s r).ports n {}
    let u := modPort (dealTo (inboundPop s r n) r n st t) r n f
    RingPopped s r n u ∧ SameElems s u ∧
      getR u r = setPort { getR s r with gwCount := (getR s r).gwCount + 1 } n
        (f (portSent p (ekey r st (spElem (spOf s r n))) (spQueue (spOf s r n)) t (getR s r).cycle)) ∧
      OtherRegions r s u ∧ SameDevice s u := by
  obtain ⟨hown, hothers, helems, hdevice, hpop⟩ := inboundPop_spec (n := n) hact hline
  refine ⟨hpop, helems, ?_, fun q hq => ?_, hdevice⟩
  · dsimp only
    rw [getR_modPort, dealTo, getR_portSend, tget_setPort, setPort_setPort, dealQueue, spOf_inboundPop hact hline, hown]
  · rw [getR_modPort_other _ _ _ _ hq, dealTo, portSend, getR_modPort_other _ _ _ _ hq]
    exact hothers q hq

/-! ## Queues that are bound again (R114) -/

theorem tfind_tmap {α : Type} (f : Nat → α → α) (t : Table α) (k : Nat) : tfind (tmap f t) k = (tfind t k).map (f k) := by
  induction t with
  | nil => rfl
  | cons p l ih =>
    obtain ⟨j, v⟩ := p
    have hcons : tmap f ((j, v) :: l) = (j, f j v) :: tmap f l := rfl
    rw [hcons, tfind, tfind]
    by_cases hj : j = k
    · subst hj
      rw [if_pos rfl, if_pos rfl]
      rfl
    · rw [if_neg hj, if_neg hj]
      split
      · rfl
      · exact ih

/-- A table whose entries are replaced, where the replacement keeps a property. -/
theorem tget_tmap_keeps {α : Type} (P : α → α → Prop) (f : Nat → α → α) (t : Table α) (k : Nat) (d : α) (hd : P d d)
    (hf : ∀ v, P v (f k v)) : P (tget t k d) (tget (tmap f t) k d) := by
  rw [tget, tget, tfind_tmap]
  cases tfind t k with
  | none => exact hd
  | some v => exact hf v

/-- An element of which only the queues have changed, and they hold the same tokens. -/
structure KeepsTokens (e e' : Elem) : Prop where
  toks : ∀ q, (getQ e' q).toks = (getQ e q).toks
  rest : { e' with queues := e.queues } = e

theorem KeepsTokens.refl (e : Elem) : KeepsTokens e e := ⟨fun _ => rfl, rfl⟩

theorem KeepsTokens.trans {e e' e'' : Elem} (h : KeepsTokens e e') (h' : KeepsTokens e' e'') : KeepsTokens e e'' where
  toks q := (h'.toks q).trans (h.toks q)
  rest := by
    have hrest := congrArg (fun x : Elem => { x with queues := e.queues }) h'.rest
    exact hrest.trans h.rest

/-- A queue that is replaced by one with the same tokens. -/
theorem keepsTokens_setQ (e : Elem) (q : Nat) {x : Queue} (h : x.toks = (getQ e q).toks) : KeepsTokens e (setQ e q x) where
  toks n := by
    rw [getQ_setQ]
    split
    next hn => rw [h, hn]
    next => rfl
  rest := rfl

theorem keepsTokens_modE (s : State) (k : Nat) (f : Elem → Elem) (h : KeepsTokens (getE s k) (f (getE s k))) (a : Nat) :
    KeepsTokens (getE s a) (getE (modE s k f) a) := by
  by_cases ha : a = k
  · subst ha
    rw [getE_modE]
    exact h
  · rw [getE_modE_other _ _ _ _ ha]
    exact KeepsTokens.refl _

/-- The bound bits of an element's queues, and of a region's, as the bindings name them (R114). -/
def boundBit (ts : List (Nat × Nat)) (k q : Nat) (x : Queue) : Queue := { x with bound := ts.contains (k, q) }
def boundBits (ts : List (Nat × Nat)) (r k : Nat) (e : Elem) : Elem :=
  if keyRegion k = r then { e with queues := tmap (boundBit ts k) e.queues } else e

theorem keepsTokens_boundBits (ts : List (Nat × Nat)) (r k : Nat) (e : Elem) : KeepsTokens e (boundBits ts r k e) := by
  unfold boundBits
  split
  · exact ⟨fun q => tget_tmap_keeps (fun x y : Queue => y.toks = x.toks) (boundBit ts k) e.queues q {} rfl fun _ => rfl, rfl⟩
  · exact KeepsTokens.refl _

/-- A queue of an element becomes bound. -/
def bindQueue (s : State) (t : Nat × Nat) : State := modE s t.1 fun e => setQ e t.2 { getQ e t.2 with bound := true }

theorem keepsTokens_bindQueues (ts : List (Nat × Nat)) (s : State) (a : Nat) :
    KeepsTokens (getE s a) (getE (ts.foldl bindQueue s) a) := by
  induction ts generalizing s with
  | nil => exact KeepsTokens.refl _
  | cons t ts ih =>
    exact (keepsTokens_modE s t.1 (fun e => setQ e t.2 { getQ e t.2 with bound := true }) (keepsTokens_setQ _ _ rfl) a).trans (ih _)

theorem rebind_eq_foldl (s : State) (r : Nat) : rebind s r = { (queueTargets s r).foldl bindQueue s with
    elems := tmap (boundBits (queueTargets s r) r) ((queueTargets s r).foldl bindQueue s).elems } := rfl

theorem keepsTokens_rebind (s : State) (r a : Nat) : KeepsTokens (getE s a) (getE (rebind s r) a) := by
  rw [rebind_eq_foldl]
  exact (keepsTokens_bindQueues _ s a).trans (tget_tmap_keeps KeepsTokens _ _ a {} (KeepsTokens.refl _) (keepsTokens_boundBits _ r a))

theorem rebind_eq (s : State) (r : Nat) : ∃ E, rebind s r = { s with elems := E } := by
  have hfold := foldl_keeps (fun s : State => { s with elems := [] }) bindQueue (fun _ _ => rfl) (queueTargets s r) s
  exact ⟨(rebind s r).elems, congrArg (fun u : State => { u with elems := (rebind s r).elems }) hfold⟩

theorem getSeq_setElems (s : State) (E : Table Elem) (r : Nat) : getSeq { s with elems := E } r = getSeq s r := rfl
theorem getR_setElems (s : State) (E : Table Elem) (r : Nat) : getR { s with elems := E } r = getR s r := rfl

/-! ## Disabling an inbound port (R179, R181) -/

/-- A binding without EN. -/
theorem spEnabled_cleared (b : BitVec 64) : spEnabled (b &&& ~~~ BitVec.ofNat 64 (2 ^ 63)) = false := by
  rw [spEnabled, BitVec.getLsbD_and, BitVec.getLsbD_not, getLsbD_ofNat_two_pow (by decide)]
  simp

/-- An inbound port has been disabled. -/
structure Disabled (r n : Nat) (s t : State) : Prop where
  disabled : spEnabled (spOf t r n) = false
  pending : (getSeq t r).pending = (getSeq s r).pending
  exiting : (getSeq t r).exiting = (getSeq s r).exiting
  others : OtherRegions r s t
  mem : t.mem = s.mem
  logged : t.logQueue = s.logQueue

theorem disablePort_eq {s : State} {r n : Nat} (hen : spEnabled (spOf s r n) = true) (hin : spOut (spOf s r n) = false) :
    ∃ E, disablePort s r n = { modSeq (modR s r fun x => { x with ports := terase x.ports n }) r fun q =>
      { q with spbind := tset q.spbind n (spOf s r n &&& ~~~ BitVec.ofNat 64 (2 ^ 63)) } with elems := E } := by
  obtain ⟨E, hE⟩ := rebind_eq (modSeq (releaseSlots (modR s r fun x => { x with ports := terase x.ports n }) r (.port r n)) r fun q =>
    { q with spbind := tset q.spbind n (spOf s r n &&& ~~~ BitVec.ofNat 64 (2 ^ 63)) }) r
  refine ⟨E, Eq.trans ?_ hE⟩
  unfold disablePort
  dsimp only
  rw [hen, hin, if_neg (by simp), if_neg Bool.false_ne_true]

theorem disabled_disablePort {s : State} {r n : Nat} (hen : spEnabled (spOf s r n) = true) (hin : spOut (spOf s r n) = false) :
    Disabled r n s (disablePort s r n) := by
  obtain ⟨E, hE⟩ := disablePort_eq hen hin
  have hseq : getSeq (disablePort s r n) r = { getSeq s r with
      spbind := tset (getSeq s r).spbind n (spOf s r n &&& ~~~ BitVec.ofNat 64 (2 ^ 63)) } := by
    rw [hE, getSeq_setElems, getSeq_modSeq, getSeq, getR_modR]
    rfl
  refine { disabled := ?disabled, pending := by rw [hseq], exiting := by rw [hseq], others := fun q hq => ?others, mem := by rw [hE]; rfl,
           logged := by rw [hE]; rfl }
  case disabled =>
    rw [spOf, hseq]
    dsimp only
    rw [tget_tset_same]
    exact spEnabled_cleared _
  case others => rw [hE, getR_setElems, modSeq, getR_modR_other _ _ _ _ hq, getR_modR_other _ _ _ _ hq]

theorem inbound_mismatch {s : State} {r n : Nat} (hen : spEnabled (spOf s r n) = true) (hin : spOut (spOf s r n) = false)
    (hexit : (getSeq s r).exiting = false) :
    let t := inboundMismatch s r n
    spEnabled (spOf t r n) = false ∧ (getSeq t r).pending = (getSeq s r).pending ++ [⟨5, 0x0A, 4, 0⟩] ∧
      t.logQueue.length = s.logQueue.length + 1 ∧ OtherRegions r s t ∧ SameMem s t := by
  have hd : Disabled r n (gwLog s r (spRing (spOf s r n)) (spDie (spOf s r n)) n false false) _ := disabled_disablePort hen hin
  have hseq := raiseAsync_spec _ r 5 0x0A 4 0 (hd.exiting.trans hexit)
  refine ⟨?_, ?_, ?_, fun q hq => ?_, fun x => ?_⟩
  · rw [inboundMismatch, spOf, hseq]
    exact hd.disabled
  · rw [inboundMismatch, hseq]
    dsimp only
    rw [hd.pending]
    rfl
  · exact (congrArg List.length hd.logged).trans (List.length_append ..)
  · exact (getR_modR_other _ _ _ _ hq).trans (hd.others q hq)
  · exact congrArg (memGet · x) hd.mem

end Sys2Proof.Claims
end

section
/-!
# Detachment

A consumer that held its stream back for the detach time loses its route, or its port (R176, R177).
-/
namespace Sys2Proof.Claims
open Sys2Proof.Machine

/-! ## Routes -/

theorem heldOut_of_held {s : State} {r : Nat} {w : DetachWho} (h0 : ((getSeq s r).strmctl.extractLsb' 0 10).toNat * 1000 ≠ 0)
    (h : ∃ p ∈ (getR s r).held, p.1 = w ∧ ((getSeq s r).strmctl.extractLsb' 0 10).toNat * 1000 ≤ p.2) : heldOut s r w = true := by
  obtain ⟨p, hp, hw, hlong⟩ := h
  unfold heldOut
  rw [Bool.and_eq_true]
  refine ⟨bne_iff_ne.2 h0, List.any_eq_true.2 ⟨p, hp, ?_⟩⟩
  rw [hw, beq_self_eq_true, Bool.true_and]
  exact decide_eq_true hlong

/-- DET of a route is set (R177). -/
def markDet (k j : Nat) (e : Elem) : Elem := { e with det := tset e.det k (tget e.det k 0 ||| BitVec.ofNat 4 (2 ^ j)) }

/-- A feeder keeps n of its slots in a queue. -/
def keepSlots (w : Feeder) (n : Nat) (q : Queue) : Queue :=
  { q with resv := (q.resv.filter fun v => v.who == w).take n ++ q.resv.filter fun v => v.who != w }

/-- The elements after a route is cut: its DET bit, and of its channel's slots those for tokens still to come. -/
def routeCut (s : State) (key k j : Nat) : State :=
  let e := getE s key
  let t := routeTarget e key k j
  let shared := (liveRoutes e k).any fun i => i != j && routeTarget e key k i == t
  if shared then modE s key (markDet k j)
  else modE (modE s key (markDet k j)) t.1 fun y => setQ y t.2 (keepSlots (.chan key k) (owed e key k (1, t.1, t.2)) (getQ y t.2))

theorem detachRoute_eq_routeCut (s : State) (key k j : Nat) :
    detachRoute s key k j = raiseAsync (rebind (routeCut s key k j) (keyRegion key)) (keyRegion key) 5 0x0B 4 0 := rfl

theorem routeCut_eq (s : State) (key k j : Nat) : ∃ E, routeCut s key k j = { s with elems := E } ∧
    (getE (routeCut s key k j) key).det = tset (getE s key).det k (tget (getE s key).det k 0 ||| BitVec.ofNat 4 (2 ^ j)) ∧
      ∀ a q, (getQ (getE (routeCut s key k j) a) q).toks = (getQ (getE s a) q).toks := by
  have hmarked : ∀ a q, (getQ (getE (modE s key (markDet k j)) a) q).toks = (getQ (getE s a) q).toks := fun a q => by
    by_cases ha : a = key
    · rw [ha, getE_modE]
      rfl
    · rw [getE_modE_other _ _ _ _ ha]
  unfold routeCut
  dsimp only
  split
  · exact ⟨_, rfl, by rw [getE_modE]; rfl, hmarked⟩
  · obtain ⟨key', q'⟩ := routeTarget (getE s key) key k j
    have hkeeps := keepsTokens_modE (modE s key (markDet k j)) key'
      (fun y => setQ y q' (keepSlots (.chan key k) (owed (getE s key) key k (1, key', q')) (getQ y q'))) (keepsTokens_setQ _ _ rfl)
    refine ⟨_, rfl, ?_, fun a q => ((hkeeps a).toks q).trans (hmarked a q)⟩
    have hrest := congrArg Elem.det (hkeeps key).rest
    refine hrest.trans ?_
    rw [getE_modE]
    rfl

/-- A route that is detached: DET of its channel has its bit, no queue loses a token, and the region's trap becomes pending. -/
theorem detachRoute_eq (s : State) (key k j : Nat) : ∃ E,
    detachRoute s key k j = raiseAsync { s with elems := E } (keyRegion key) 5 0x0B 4 0 ∧
      (getE { s with elems := E } key).det = tset (getE s key).det k (tget (getE s key).det k 0 ||| BitVec.ofNat 4 (2 ^ j)) ∧
      ∀ a q, (getQ (getE { s with elems := E } a) q).toks = (getQ (getE s a) q).toks := by
  obtain ⟨E₁, hcut, hdet, htoks⟩ := routeCut_eq s key k j
  obtain ⟨E, hE⟩ := rebind_eq (routeCut s key k j) (keyRegion key)
  have hkeeps := keepsTokens_rebind (routeCut s key k j) (keyRegion key)
  rw [hE, hcut] at hkeeps
  rw [hcut] at hE hdet htoks
  refine ⟨E, ?_, ?_, fun a q => ((hkeeps a).toks q).trans (htoks a q)⟩
  · rw [detachRoute_eq_routeCut, hcut, hE]
  · have hrest := congrArg Elem.det (hkeeps key).rest
    exact hrest.trans hdet

/-- A region forgets how long a consumer has held its stream back. -/
def dropHeld (w : DetachWho) (x : Region) : Region := { x with held := x.held.filter fun p => p.1 != w }

theorem getSeq_dropHeld (s : State) (r : Nat) (w : DetachWho) : getSeq (modR s r (dropHeld w)) r = getSeq s r := by
  rw [getSeq, getR_modR]
  rfl

theorem exec_streamDetach_route {s : State} {r st el k j : Nat} (hok : elemOk s r st el = true)
    (hheld : heldOut s r (.route r st el k j) = true) :
    exec (.streamDetach (.route r st el k j)) s =
      .next (modR (detachRoute s (ekey r st el) k j) r (dropHeld (.route r st el k j))) := by
  rw [exec_streamDetach]
  unfold execStreamDetach
  dsimp only
  rw [withUnit_of_ok hok, if_pos hheld]
  rfl

theorem route_detached {s : State} {r st el k j : Nat} (hok : elemOk s r st el = true)
    (hheld : heldOut s r (.route r st el k j) = true) (hexit : (getSeq s r).exiting = false) :
    let key := ekey r st el
    let w := DetachWho.route r st el k j
    ∃ t, exec (.streamDetach w) s = .next t ∧
      (getE t key).det = tset (getE s key).det k (tget (getE s key).det k 0 ||| BitVec.ofNat 4 (2 ^ j)) ∧
      (getSeq t r).pending = (getSeq s r).pending ++ [⟨5, 0x0B, 4, 0⟩] ∧ (getR t r).held = (getR s r).held.filter (fun p => p.1 != w) ∧
      (∀ a q, (getQ (getE t a) q).toks = (getQ (getE s a) q).toks) ∧ OtherRegions r s t ∧ SameMem s t ∧ SameDevice s t := by
  obtain ⟨hst, hel⟩ := elemOk_lt hok
  obtain ⟨E, hE, hdet, htoks⟩ := detachRoute_eq s (ekey r st el) k j
  rw [keyRegion_ekey hst hel] at hE
  have hraise := raiseAsync_spec { s with elems := E } r 5 0x0B 4 0 hexit
  have hown : getR (raiseAsync { s with elems := E } r 5 0x0B 4 0) r = { getR s r with
      seq := getSeq (raiseAsync { s with elems := E } r 5 0x0B 4 0) r } := by
    rw [raiseAsync, getSeq_modSeq, getR_modSeq]
    rfl
  dsimp only
  rw [exec_streamDetach_route hok hheld, hE]
  refine ⟨_, rfl, hdet, ?pending, ?held, htoks, fun q hq => ?others, fun _ => rfl, rfl⟩
  case pending =>
    rw [getSeq_dropHeld, hraise]
    rfl
  case held => rw [getR_modR, hown]; rfl
  case others => exact (getR_modR_other _ _ _ _ hq).trans (getR_modR_other _ _ _ _ hq)

/-! ## Consumers of a ring -/

theorem one_shiftLeft_eq_cast (c : Nat) : (1 : BitVec 8) <<< c = ((1 <<< c : Nat) : BitVec 8) := by
  apply BitVec.eq_of_toNat_eq
  rw [BitVec.toNat_shiftLeft]
  exact (BitVec.toNat_ofNat ..).symm

/-- Setting DET of a consumer changes one byte of its ring's descriptor. -/
theorem memIs_detached {s : State} (hline : s.ringOffset % 64 = 0) (die ring : Nat) {c : Nat} (hc : c < 8) :
    MemIs (bytesAt (ringAddr s die ring + 48) [(ringDesc s die ring).extractLsb' 384 8 ||| 1 <<< c]) s
      (setRingDesc s die ring (ringPut (ringDesc s die ring) (384 + c) (384 + c) 1)) := by
  have hmem := memIs_setRingDesc hline die ring (j := 48) (k := 1) (by decide) (by decide)
    ((ringDesc s die ring).extractLsb' 384 8 ||| (1 : BitVec 8) <<< c).toNat
  rw [ringPut_det _ hc]
  have hbyte : bytesOf 1 ((ringDesc s die ring).extractLsb' 384 8 ||| (1 : BitVec 8) <<< c).toNat =
      [(ringDesc s die ring).extractLsb' 384 8 ||| 1 <<< c] := by
    rw [bytesOf, BitVec.ofNat_toNat, BitVec.setWidth_eq, bytesOf, one_shiftLeft_eq_cast]
  rw [hbyte] at hmem
  exact hmem

/-- The port of a consumer that is detached: a stream port, or a queue port from 16 on. -/
def closePort (s : State) (r n : Nat) : State :=
  if n < 16 then disablePort s r n
  else modSeq s r fun q => { q with sqbind := tset q.sqbind (n - 16) (tget q.sqbind (n - 16) 0 &&& ~~~ BitVec.ofNat 64 (2 ^ 63)) }

theorem detachRing_eq (s : State) (r n die ring c : Nat) : detachRing s r n die ring c =
    raiseAsync (closePort (setRingDesc s die ring (ringPut (ringDesc s die ring) (384 + c) (384 + c) 1)) r n) r 5 0x0B 4 0 := rfl

/-- A port of either kind has been closed. -/
structure Closed (r n : Nat) (s t : State) : Prop where
  stream : n < 16 → spEnabled (spOf t r n) = false
  queue : 16 ≤ n → spEnabled (sqOf t r (n - 16)) = false
  pending : (getSeq t r).pending = (getSeq s r).pending
  exiting : (getSeq t r).exiting = (getSeq s r).exiting
  others : OtherRegions r s t
  mem : t.mem = s.mem

theorem closed_closePort {s : State} {r n : Nat} (h : n < 16 → spEnabled (spOf s r n) = true ∧ spOut (spOf s r n) = false) :
    Closed r n s (closePort s r n) := by
  by_cases hn : n < 16
  · obtain ⟨hen, hin⟩ := h hn
    have hd := disabled_disablePort hen hin
    rw [closePort, if_pos hn]
    exact { stream := fun _ => hd.disabled, queue := fun hge => absurd hn (Nat.not_lt.2 hge), pending := hd.pending, exiting := hd.exiting,
            others := hd.others, mem := hd.mem }
  · rw [closePort, if_neg hn]
    refine { stream := fun hlt => absurd hlt hn, queue := fun _ => ?_, pending := by rw [getSeq_modSeq], exiting := by rw [getSeq_modSeq],
             others := fun q hq => getR_modR_other _ _ _ _ hq, mem := rfl }
    rw [sqOf, getSeq_modSeq]
    dsimp only
    rw [tget_tset_same]
    exact spEnabled_cleared _

theorem ring_detached {s : State} {die ring c r n : Nat} (hline : s.ringOffset % 64 = 0) (hc : c < 8)
    (hfind : (ringConsumers s die ring c).find? (fun p => heldOut s p.1 (.ring die ring c)) = some (r, n))
    (hport : n < 16 → spEnabled (spOf s r n) = true ∧ spOut (spOf s r n) = false) (hexit : (getSeq s r).exiting = false) :
    ∃ t, exec (.streamDetach (.ring die ring c)) s = .next t ∧
      MemIs (bytesAt (ringAddr s die ring + 48) [(ringDesc s die ring).extractLsb' 384 8 ||| 1 <<< c]) s t ∧
      (n < 16 → spEnabled (spOf t r n) = false) ∧ (16 ≤ n → spEnabled (sqOf t r (n - 16)) = false) ∧
      (getSeq t r).pending = (getSeq s r).pending ++ [⟨5, 0x0B, 4, 0⟩] ∧ OtherRegions r s t := by
  have hclosed : Closed r n (setRingDesc s die ring (ringPut (ringDesc s die ring) (384 + c) (384 + c) 1)) _ := closed_closePort hport
  have hraise := raiseAsync_spec _ r 5 0x0B 4 0 (hclosed.exiting.trans hexit)
  have hexec : exec (.streamDetach (.ring die ring c)) s = .next (modR (detachRing s r n die ring c) r (dropHeld (.ring die ring c))) := by
    rw [exec_streamDetach]
    unfold execStreamDetach
    dsimp only
    rw [hfind]
    rfl
  refine ⟨_, hexec, fun x => ?mem, fun hn => ?stream, fun hn => ?queue, ?pending, fun q hq => ?others⟩
  case mem =>
    have hmem := memIs_detached hline die ring hc x
    rw [← hclosed.mem] at hmem
    exact hmem
  case stream =>
    rw [spOf, getSeq_dropHeld, detachRing_eq, hraise]
    exact hclosed.stream hn
  case queue =>
    rw [sqOf, getSeq_dropHeld, detachRing_eq, hraise]
    exact hclosed.queue hn
  case pending =>
    rw [getSeq_dropHeld, detachRing_eq, hraise]
    dsimp only
    rw [hclosed.pending]
    rfl
  case others => exact (getR_modR_other _ _ _ _ hq).trans ((getR_modR_other _ _ _ _ hq).trans (hclosed.others q hq))

/-! ## The statement -/

/-- Settles O36: each port by the branch that its conditions choose; a detached consumer by what the rebinding and the disabling keep. -/
theorem streamPorts : Obligations.StreamPorts := by
  unfold Obligations.StreamPorts
  refine ⟨?outbound, ?inbound, ?arrival, ?deal, ?route, ?ring⟩
  case outbound =>
    intro r n s tk rest hr hn hlive b d p p' htoks hfull
    exact ⟨outbound_written hr hn hlive htoks hfull, outbound_refused hr hn hlive htoks hfull⟩
  case inbound =>
    intro r n s tk hr hn hwait hnone b hdeal hpump hact key p owner
    have hexec := exec_inboundPortDeliver_spec hr hn hwait hnone hdeal hpump hact
    refine ⟨fun howner hslot => ⟨_, hexec.trans (congrArg _ ?_), inbound_sent tk hact hwait.live.aligned⟩,
      fun howner hslot => hexec.trans (congrArg _ ?_), fun howner hexit => ⟨_, hexec.trans (congrArg _ ?_),
        inbound_mismatch hwait.live.enabled hwait.live.direction hexit⟩⟩
    · rw [if_neg fun h => (portMismatch_iff s r n).1 h howner]
      exact if_neg fun h => (portSlots_eq_zero_iff ..).1 h hslot
    · rw [if_neg fun h => (portMismatch_iff s r n).1 h howner]
      exact if_pos ((portSlots_eq_zero_iff ..).2 hslot)
    · exact if_pos ((portMismatch_iff s r n).2 howner)
  case arrival =>
    intro r n s before m after hr hn p hmoves hbefore hm i hi
    obtain ⟨harrive, hremove⟩ := portArrival_of_moves hmoves hbefore hm
    exact ⟨_, exec_arrives hr hn harrive i hi, portArrive_spec hmoves hremove⟩
  case deal =>
    intro r n s live hr hn hlive hact hen hnone b p key slot deals hbusy
    obtain ⟨hleft, hentry⟩ := exec_dealPortDeliver_spec hr hn hlive hact hen hnone hbusy
    refine ⟨fun st rest hst hslot => ⟨_, hleft st rest hst ((dealSlot_iff ..).2 hslot), dealt_left rest⟩,
      fun tk hst hdrains hwait howner => ?_⟩
    obtain ⟨hmarker, htoken⟩ := hentry tk hst hdrains hwait (Bool.eq_false_iff.2 fun h => (portMismatch_iff s r n).1 h howner)
    refine ⟨fun hkind => ⟨_, hmarker (isMarker_eq_true hkind), dealt_marker live hact hwait.live.aligned⟩, ?_⟩
    intro hkind i st order hi hslot hbefore
    exact ⟨_, htoken st (isMarker_eq_false hkind) (find?_dealSlot hi hslot hbefore), dealt_token tk _ hact hwait.live.aligned⟩
  case route =>
    intro r st el k j s hok key w n hn hheld hexit
    exact route_detached hok (heldOut_of_held hn hheld) hexit
  case ring =>
    intro die ring c r n s hline hc w hfind hport hexit
    exact ring_detached hline hc hfind hport hexit

end Sys2Proof.Claims
end

section
/-!
# The byte memory

A read after a write, and the canonical form (R197, log 2), from the laws of the memory's cells.
-/
namespace Sys2Proof.Claims
open Sys2Proof.Machine

/-- Settles O37: the laws of the memory's cells, one for each part. -/
theorem readAfterWrite : Obligations.ReadAfterWrite := by
  unfold Obligations.ReadAfterWrite
  exact fun m a bs x => ⟨memGet_memWrite_bytesAt m a bs x, memBytes_eq m a, fun h => memWrite_wf h a bs⟩

end Sys2Proof.Claims
end

section
/-!
# The update of a barrier

The barrier as the fields that it is put together from, and the three outcomes of an update (R213 to R215).
-/
namespace Sys2Proof.Claims
open Sys2Proof.Machine

/-! ## The fields of a barrier (R213) -/

/-- A barrier with three of its fields replaced, as the fields one behind the other. -/
theorem ofNat_putField_barrier (b : BitVec 128) (sec arr phase : Nat) :
    BitVec.ofNat 128 (putField (putField (putField b.toNat 79 48 sec) 23 4 arr) 3 0 phase) =
      b.extractLsb' 80 48 ++ BitVec.ofNat 32 sec ++ b.extractLsb' 24 24 ++ BitVec.ofNat 20 arr ++ BitVec.ofNat 4 phase := by
  refine BitVec.eq_of_getLsbD_eq fun i hi => ?_
  simp only [BitVec.getLsbD_ofNat, testBit_putField (show 48 ≤ 79 + 1 by decide), testBit_putField (show 4 ≤ 23 + 1 by decide),
    testBit_putField (show 0 ≤ 3 + 1 by decide), BitVec.getLsbD_append, BitVec.getLsbD_extractLsb', BitVec.testBit_toNat, hi, decide_true,
    Bool.true_and, Nat.sub_zero, Nat.zero_le, true_and]
  rcases (by omega : i < 4 ∨ 4 ≤ i ∧ i < 24 ∨ 24 ≤ i ∧ i < 48 ∨ 48 ≤ i ∧ i < 80 ∨ 80 ≤ i) with h | h | h | h | h <;> grind

/-- The reload value of a barrier, at the width of its count. -/
theorem ofNat_barReload (b : BitVec 128) : BitVec.ofNat 20 (barReload b) = b.extractLsb' 24 20 :=
  BitVec.eq_of_toNat_eq (by simp only [barReload, BitVec.toNat_ofNat, BitVec.extractLsb'_toNat]; omega)

/-- The next phase of a barrier. -/
theorem ofNat_barPhase_succ (b : BitVec 128) : BitVec.ofNat 4 ((barPhase b + 1) % 16) = b.extractLsb' 0 4 + 1 :=
  BitVec.eq_of_toNat_eq (by simp [barPhase])

theorem barAfter_changes {b : BitVec 128} {darr dsec : Nat} (ha : (b.extractLsb' 4 20).toNat = darr) (hs : (b.extractLsb' 48 32).toNat = dsec) :
    barAfter b darr dsec =
      (b.extractLsb' 80 48 ++ 0#32 ++ b.extractLsb' 24 24 ++ b.extractLsb' 24 20 ++ (b.extractLsb' 0 4 + 1), true) := by
  unfold barAfter
  rw [if_pos (by simp [barArr, barSec, ha, hs]), ofNat_putField_barrier, ofNat_barReload, ofNat_barPhase_succ]
  simp [barSec, hs]

/-- The number of arrivals, or of bytes, that a count still waits for. -/
theorem ofNat_toNat_sub {w : Nat} (x : BitVec w) {d : Nat} (h : d ≤ x.toNat) : BitVec.ofNat w (x.toNat - d) = x - BitVec.ofNat w d := by
  rw [← BitVec.ofNat_sub_ofNat_of_le _ _ (by omega) h, BitVec.ofNat_toNat, BitVec.setWidth_eq]

theorem putField_barPhase (b : BitVec 128) (sec arr : Nat) :
    putField (putField (putField b.toNat 79 48 sec) 23 4 arr) 3 0 (barPhase b) = putField (putField b.toNat 79 48 sec) 23 4 arr := by
  refine Nat.eq_of_testBit_eq fun i => ?_
  rw [testBit_putField (by decide)]
  split
  · rename_i h
    rw [testBit_putField (by decide), if_neg (by omega), testBit_putField (by decide), if_neg (by omega), barPhase, BitVec.testBit_toNat,
      BitVec.getLsbD_extractLsb', BitVec.testBit_toNat]
    simp [show i < 4 by omega]
  · rfl

theorem barAfter_counts {b : BitVec 128} {darr dsec : Nat} (ha : darr ≤ (b.extractLsb' 4 20).toNat) (hs : dsec ≤ (b.extractLsb' 48 32).toNat)
    (hne : ¬ ((b.extractLsb' 4 20).toNat = darr ∧ (b.extractLsb' 48 32).toNat = dsec)) :
    barAfter b darr dsec = (b.extractLsb' 80 48 ++ (b.extractLsb' 48 32 - BitVec.ofNat 32 dsec) ++ b.extractLsb' 24 24 ++
      (b.extractLsb' 4 20 - BitVec.ofNat 20 darr) ++ b.extractLsb' 0 4, false) := by
  unfold barAfter
  rw [if_neg (by simp only [barArr, barSec]; omega), ← putField_barPhase, ofNat_putField_barrier, barSec, barArr, barPhase,
    ofNat_toNat_sub _ hs, ofNat_toNat_sub _ ha, BitVec.ofNat_toNat, BitVec.setWidth_eq]

/-- The model's refusal and its barrier after the update are the statement's. -/
theorem barrierAfter_eq (b : BitVec 128) (darr dsec : Nat) :
    barrierAfter b darr dsec = if barArr b < darr ∨ barSec b < dsec then none else some (barAfter b darr dsec) := by
  unfold barrierAfter
  dsimp only
  by_cases hless : (b.extractLsb' 4 20).toNat < darr ∨ (b.extractLsb' 48 32).toNat < dsec
  · rw [if_pos hless, if_pos (show barArr b < darr ∨ barSec b < dsec from hless)]
  · rw [if_neg hless, if_neg (show ¬ (barArr b < darr ∨ barSec b < dsec) from hless)]
    split
    · rename_i hlast
      rw [barAfter_changes hlast.1 hlast.2]
    · rename_i hmore
      rw [barAfter_counts (by omega) (by omega) hmore]

/-! ## The notify token (R215) -/

theorem mkSide_notify (sc : BitVec 3) :
    mkSide (if sc.toNat = 0 then 0 else 1) sc.toNat false 0 31 = (if sc = 0 then 0#2 else 1#2) ++ sc ++ 0#6 ++ 31#5 := by
  decide +revert

/-- The phase of the barrier that a phase change leaves. -/
theorem barPhase_barAfter {b : BitVec 128} {darr dsec : Nat} (h : (barAfter b darr dsec).2 = true) :
    barPhase (barAfter b darr dsec).1 = (barPhase b + 1) % 16 := by
  unfold barAfter at h ⊢
  dsimp only at h ⊢
  split at h
  · rename_i hlast
    rw [if_pos hlast, ofNat_putField_barrier, barPhase, BitVec.extractLsb'_append_eq_right]
    simp
  · cases h

theorem ofNat_phase_succ (p : BitVec 4) : BitVec.ofNat 32 ((p.toNat + 1) % 16) = p.setWidth 32 + 1 &&& 15 := by
  decide +revert

theorem notifyToken_spec {b : BitVec 128} {phase : Nat} (off : Nat) (h : phase = (barPhase b + 1) % 16) :
    NotifyToken b off (notifyToken b phase off) where
  site := rfl
  elem := rfl
  queue := rfl
  phase := (lane_vecOf 32 _ (by decide)).trans (h ▸ ofNat_phase_succ _)
  offset := lane_vecOf 32 _ (by decide)
  zero := ⟨lane_vecOf 32 _ (by decide), lane_vecOf 32 _ (by decide)⟩
  side := mkSide_notify _

/-! ## The update (R214) -/

theorem releaseWaiter_eq (e : Elem) (off : Nat) : releaseWaiter e off = { e with waiter := released off e.waiter } := by
  unfold releaseWaiter released
  split
  · rename_i o v h
    split
    · rename_i heq; simp [heq]
    · rw [← h]
  · rename_i h
    rw [← h]

/-- The element with a barrier as an update leaves it, and the TBWAIT of a barrier whose phase has changed. -/
def afterUpdate (e : Elem) (off : Nat) (r : BitVec 128 × Bool) : Elem :=
  { e with spad := memWrite e.spad off (bytesOf 16 r.1.toNat), waiter := if r.2 then released off e.waiter else e.waiter }

theorem afterUpdate_eq (e : Elem) (off : Nat) (r : BitVec 128 × Bool) :
    (let e := { e with spad := memWrite e.spad off (bytesOf 16 r.1.toNat) }
     if r.2 then releaseWaiter e off else e) = afterUpdate e off r := by
  obtain ⟨b, _ | _⟩ := r
  · rfl
  · exact releaseWaiter_eq ..

section outcomes
variable {e : Elem} {off darr dsec : Nat}

theorem barrierUpdate_refused (h : barArr (barrierAt e off) < darr ∨ barSec (barrierAt e off) < dsec) :
    barrierUpdate e off darr dsec = .refused := if_pos h

variable (h : ¬ (barArr (barrierAt e off) < darr ∨ barSec (barrierAt e off) < dsec))
include h

theorem barrierUpdate_accepted : barrierUpdate e off darr dsec =
    (let r := barAfter (barrierAt e off) darr dsec
     let notifies := r.2 && barNen (barrierAt e off)
     if notifies && decide (8 ≤ e.notify.length) then .waits
     else .applied (if notifies then { afterUpdate e off r with notify := e.notify ++ [notifyToken (barrierAt e off) (barPhase r.1) off] }
       else afterUpdate e off r)) := by
  let r := barAfter (barrierAt e off) darr dsec
  let notifies := r.2 && barNen (barrierAt e off)
  exact (if_neg h).trans (congrArg (fun made : Elem => if notifies && decide (8 ≤ e.notify.length) then BarRes.waits
    else .applied (if notifies then { made with notify := made.notify ++ [notifyToken (barrierAt e off) (barPhase r.1) off] } else made))
    (afterUpdate_eq e off r))

theorem barrierUpdate_waits (hnotify : ((barAfter (barrierAt e off) darr dsec).2 && barNen (barrierAt e off)) = true)
    (hfull : 8 ≤ e.notify.length) : barrierUpdate e off darr dsec = .waits := by
  simp [barrierUpdate_accepted h, hnotify, hfull]

theorem barrierUpdate_notifies (hnotify : ((barAfter (barrierAt e off) darr dsec).2 && barNen (barrierAt e off)) = true)
    (hroom : e.notify.length < 8) : barrierUpdate e off darr dsec = .applied { afterUpdate e off (barAfter (barrierAt e off) darr dsec) with
      notify := e.notify ++ [notifyToken (barrierAt e off) (barPhase (barAfter (barrierAt e off) darr dsec).1) off] } := by
  simp [barrierUpdate_accepted h, hnotify, Nat.not_le.2 hroom]

theorem barrierUpdate_silent (hsilent : ((barAfter (barrierAt e off) darr dsec).2 && barNen (barrierAt e off)) = false) :
    barrierUpdate e off darr dsec = .applied (afterUpdate e off (barAfter (barrierAt e off) darr dsec)) := by
  simp [barrierUpdate_accepted h, hsilent]

end outcomes

/-- Settles O24: the outcomes of an update are those of the model's test, with the fields of the barrier as the statement writes them. -/
theorem barrierUpdates : Obligations.BarrierUpdates := by
  unfold Obligations.BarrierUpdates
  intro e off darr dsec
  dsimp only
  rw [barrierAfter_eq]
  by_cases hless : barArr (barrierAt e off) < darr ∨ barSec (barrierAt e off) < dsec
  · rw [if_pos hless]
    exact barrierUpdate_refused hless
  · rw [if_neg hless]
    dsimp only
    split
    · rename_i hnotify
      have hboth : ((barAfter (barrierAt e off) darr dsec).2 && barNen (barrierAt e off)) = true := Bool.and_eq_true_iff.2 hnotify
      exact ⟨barrierUpdate_waits hless hboth,
        fun hroom => ⟨_, notifyToken_spec off (barPhase_barAfter hnotify.1), barrierUpdate_notifies hless hboth hroom⟩⟩
    · rename_i hsilent
      exact barrierUpdate_silent hless (by rw [← Bool.and_eq_true_iff] at hsilent; exact Bool.eq_false_iff.2 hsilent)

end Sys2Proof.Claims
end

section
/-!
# The canonical form of the memories: results and updates

What it means for each kind of result that the memories in it are in the canonical form, and that the updates of a table keep it.
Each operation of the model has, in the sections that follow, one lemma under the predicate of its result: `MemoriesOk.settle` says
that `settle` keeps the canonical form. So a proof about an operation is built as the operation is.
-/
namespace Sys2Proof.Claims
open Sys2Proof.Machine

/-! ## Results that hold a state or an element -/

/-- The scratchpad of an element is in the canonical form. -/
def SpadOk (e : Elem) : Prop := Memory.wf e.spad = true

def GotOk : Got → Prop
  | .done s .. | .wait s => MemoriesOk s

def XGotOk : XGot → Prop
  | .ok s _ | .wait s | .fault s .. => MemoriesOk s

def SeqGotOk : SeqGot → Prop
  | .ok s _ | .wait s | .trap s .. => MemoriesOk s

def CsrOk : CsrSet → Prop
  | .ok s => MemoriesOk s
  | _ => True

def BarOk : BarRes → Prop
  | .applied e => SpadOk e
  | _ => True

def UpdOk : UpdRes → Prop
  | .wait s | .refused s | .done s => MemoriesOk s

def TokOk : SrcTok → Prop
  | .none s | .tok s _ | .flt s _ => MemoriesOk s

def SomeOk {α : Type} : Option (State × α) → Prop
  | some p => MemoriesOk p.1
  | none => True

def OptOk : Option State → Prop
  | some s => MemoriesOk s
  | none => True

def FetchOk : Fetched → Prop
  | .instr _ s | .wait s => MemoriesOk s

def OutOk : Host.Outcome State Fault Refusal → Prop
  | .next s => MemoriesOk s
  | _ => True

/-- What an instruction computes in each of its beats keeps the canonical form of the element's scratchpad. -/
def ExeOk (exe : Exe) : Prop := ∀ x e k o l, SpadOk e → SpadOk (exe x e k o l).elem

variable {s t : State} {d e : Elem}

/-! ## The state that a result holds -/

theorem MemoriesOk.of_fst {α : Type} {p : State × α} {b : α} (hp : MemoriesOk p.1) (he : p = (s, b)) : MemoriesOk s := by
  rw [he] at hp
  exact hp

theorem MemoriesOk.of_done {g : Got} {l : Line} {n : Nat} {b : Option (BitVec 8)} (hg : GotOk g) (he : g = .done s l n b) : MemoriesOk s := by
  rw [he] at hg
  exact hg

theorem MemoriesOk.of_wait {g : Got} (hg : GotOk g) (he : g = .wait s) : MemoriesOk s := by
  rw [he] at hg
  exact hg

theorem MemoriesOk.of_xok {g : XGot} {x : Xlat} (hg : XGotOk g) (he : g = .ok s x) : MemoriesOk s := by
  rw [he] at hg
  exact hg

theorem MemoriesOk.of_xwait {g : XGot} (hg : XGotOk g) (he : g = .wait s) : MemoriesOk s := by
  rw [he] at hg
  exact hg

theorem MemoriesOk.of_xfault {g : XGot} {c : BitVec 8} {n : Nat} (hg : XGotOk g) (he : g = .fault s c n) : MemoriesOk s := by
  rw [he] at hg
  exact hg

theorem MemoriesOk.of_sok {g : SeqGot} {bs : List Byte} (hg : SeqGotOk g) (he : g = .ok s bs) : MemoriesOk s := by
  rw [he] at hg
  exact hg

theorem MemoriesOk.of_csr {g : CsrSet} (hg : CsrOk g) (he : g = .ok s) : MemoriesOk s := by
  rw [he] at hg
  exact hg

theorem SpadOk.of_applied {g : BarRes} (hg : BarOk g) (he : g = .applied e) : SpadOk e := by
  rw [he] at hg
  exact hg

theorem MemoriesOk.of_updWait {g : UpdRes} (hg : UpdOk g) (he : g = .wait s) : MemoriesOk s := by
  rw [he] at hg
  exact hg

theorem MemoriesOk.of_updRefused {g : UpdRes} (hg : UpdOk g) (he : g = .refused s) : MemoriesOk s := by
  rw [he] at hg
  exact hg

theorem MemoriesOk.of_updDone {g : UpdRes} (hg : UpdOk g) (he : g = .done s) : MemoriesOk s := by
  rw [he] at hg
  exact hg

theorem MemoriesOk.of_tokNone {g : SrcTok} (hg : TokOk g) (he : g = .none s) : MemoriesOk s := by
  rw [he] at hg
  exact hg

theorem MemoriesOk.of_tok {g : SrcTok} {x : Token} (hg : TokOk g) (he : g = .tok s x) : MemoriesOk s := by
  rw [he] at hg
  exact hg

theorem MemoriesOk.of_tokFlt {g : SrcTok} {f : PFlt} (hg : TokOk g) (he : g = .flt s f) : MemoriesOk s := by
  rw [he] at hg
  exact hg

theorem MemoriesOk.of_some_fst {α : Type} {g : Option (State × α)} {a : α} (hg : SomeOk g) (he : g = some (s, a)) : MemoriesOk s := by
  rw [he] at hg
  exact hg

theorem MemoriesOk.of_some {g : Option State} (hg : OptOk g) (he : g = some s) : MemoriesOk s := by
  rw [he] at hg
  exact hg

theorem MemoriesOk.of_next {g : Host.Outcome State Fault Refusal} (hg : OutOk g) (he : g = .next s) : MemoriesOk s := by
  rw [he] at hg
  exact hg

/-! ## Choices -/

theorem MemoriesOk.ite {c : Prop} [Decidable c] (hs : MemoriesOk s) (ht : MemoriesOk t) : MemoriesOk (if c then s else t) := by
  split <;> assumption

theorem MemoriesOk.ite_fst {α : Type} {c : Prop} [Decidable c] {p q : State × α} (hp : MemoriesOk p.1) (hq : MemoriesOk q.1) :
    MemoriesOk (if c then p else q).1 := by
  split <;> assumption

theorem SpadOk.ite {c : Prop} [Decidable c] (hd : SpadOk d) (he : SpadOk e) : SpadOk (if c then d else e) := by
  split <;> assumption

theorem SpadOk.ite_elem {c : Prop} [Decidable c] {p q : BeatRes} (hp : SpadOk p.elem) (hq : SpadOk q.elem) :
    SpadOk (if c then p else q).elem := by
  split <;> assumption

theorem SomeOk.ite {α : Type} {c : Prop} [Decidable c] {p q : Option (State × α)} (hp : SomeOk p) (hq : SomeOk q) :
    SomeOk (if c then p else q) := by
  split <;> assumption

theorem GotOk.ite {c : Prop} [Decidable c] {p q : Got} (hp : GotOk p) (hq : GotOk q) : GotOk (if c then p else q) := by
  split <;> assumption

theorem XGotOk.ite {c : Prop} [Decidable c] {p q : XGot} (hp : XGotOk p) (hq : XGotOk q) : XGotOk (if c then p else q) := by
  split <;> assumption

theorem SeqGotOk.ite {c : Prop} [Decidable c] {p q : SeqGot} (hp : SeqGotOk p) (hq : SeqGotOk q) : SeqGotOk (if c then p else q) := by
  split <;> assumption

theorem CsrOk.ite {c : Prop} [Decidable c] {p q : CsrSet} (hp : CsrOk p) (hq : CsrOk q) : CsrOk (if c then p else q) := by
  split <;> assumption

theorem BarOk.ite {c : Prop} [Decidable c] {p q : BarRes} (hp : BarOk p) (hq : BarOk q) : BarOk (if c then p else q) := by
  split <;> assumption

theorem UpdOk.ite {c : Prop} [Decidable c] {p q : UpdRes} (hp : UpdOk p) (hq : UpdOk q) : UpdOk (if c then p else q) := by
  split <;> assumption

theorem TokOk.ite {c : Prop} [Decidable c] {p q : SrcTok} (hp : TokOk p) (hq : TokOk q) : TokOk (if c then p else q) := by
  split <;> assumption

theorem OptOk.ite {c : Prop} [Decidable c] {p q : Option State} (hp : OptOk p) (hq : OptOk q) : OptOk (if c then p else q) := by
  split <;> assumption

theorem OutOk.ite {c : Prop} [Decidable c] {p q : Host.Outcome State Fault Refusal} (hp : OutOk p) (hq : OutOk q) :
    OutOk (if c then p else q) := by
  split <;> assumption

/-! ## Updates of a table -/

theorem MemoriesOk.of_eq (ok : MemoriesOk s) (hm : t.mem = s.mem) (he : t.elems = s.elems) : MemoriesOk t := by
  obtain ⟨hmem, hspads⟩ := ok
  refine ⟨?_, fun k => ?_⟩
  · unfold State.MemOk at *
    rw [hm]
    exact hmem
  · unfold Machine.getE
    rw [he]
    exact hspads k

theorem MemoriesOk.memWrite_mem (ok : MemoriesOk s) (a : Nat) (bs : List Byte) : MemoriesOk { s with mem := memWrite s.mem a bs } :=
  ⟨memWrite_wf ok.1 a bs, ok.2⟩

theorem MemoriesOk.spad {k : Nat} (ok : MemoriesOk s) : SpadOk (getE s k) := ok.2 k

theorem SpadOk.getE {k : Nat} (ok : MemoriesOk s) : SpadOk (getE s k) := ok.2 k

theorem MemoriesOk.setE {k : Nat} (ok : MemoriesOk s) (he : SpadOk e) : MemoriesOk (setE s k e) := by
  refine ⟨ok.1, fun j => ?_⟩
  by_cases hj : j = k
  · subst hj
    rw [getE_setE]
    exact he
  · rw [getE_setE_other _ _ _ _ hj]
    exact ok.2 j

theorem MemoriesOk.modE {k : Nat} {f : Elem → Elem} (ok : MemoriesOk s) (hf : SpadOk (getE s k) → SpadOk (f (getE s k))) :
    MemoriesOk (modE s k f) :=
  .setE ok (hf ok.spad)

theorem MemoriesOk.tmapElems {f : Nat → Elem → Elem} (ok : MemoriesOk s) (hf : ∀ k e, SpadOk e → SpadOk (f k e)) :
    MemoriesOk { s with elems := tmap f s.elems } :=
  ⟨ok.1, fun k => tget_tmap_keeps (fun e e' => SpadOk e → SpadOk e') f s.elems k {} id (fun e => hf k e) (ok.2 k)⟩

theorem MemoriesOk.setR {r : Nat} {x : Region} (ok : MemoriesOk s) : MemoriesOk (setR s r x) := ok
theorem MemoriesOk.modR {r : Nat} {f : Region → Region} (ok : MemoriesOk s) : MemoriesOk (modR s r f) := ok
theorem MemoriesOk.modSeq {r : Nat} {f : Seq → Seq} (ok : MemoriesOk s) : MemoriesOk (modSeq s r f) := ok

/-! ## Folds -/

theorem MemoriesOk.foldl {α : Type} {f : State → α → State} {l : List α} (ok : MemoriesOk s)
    (hf : ∀ s a, MemoriesOk s → MemoriesOk (f s a)) : MemoriesOk (l.foldl f s) := by
  induction l generalizing s with
  | nil => exact ok
  | cons a l ih => exact ih (hf s a ok)

theorem MemoriesOk.foldl_fst {α β : Type} {f : State × β → α → State × β} {l : List α} {p : State × β} (ok : MemoriesOk p.1)
    (hf : ∀ p a, MemoriesOk p.1 → MemoriesOk (f p a).1) : MemoriesOk (l.foldl f p).1 := by
  induction l generalizing p with
  | nil => exact ok
  | cons a l ih => exact ih (hf p a ok)

theorem SpadOk.foldl {α : Type} {f : Elem → α → Elem} {l : List α} (ok : SpadOk e) (hf : ∀ e a, SpadOk e → SpadOk (f e a)) :
    SpadOk (l.foldl f e) := by
  induction l generalizing e with
  | nil => exact ok
  | cons a l ih => exact ih (hf e a ok)

theorem MemoriesOk.of_setElems {l : List (Nat × Elem)} (ok : MemoriesOk s) (hl : ∀ p ∈ l, SpadOk p.2) :
    MemoriesOk (l.foldl (fun s p => Machine.setE s p.1 p.2) s) := by
  induction l generalizing s with
  | nil => exact ok
  | cons p l ih => exact ih (.setE ok (hl p List.mem_cons_self)) fun q hq => hl q (List.mem_cons_of_mem _ hq)

/-! ## Updates of fields that hold no memory -/

theorem MemoriesOk.with_free {a} (ok : MemoriesOk s) : MemoriesOk { s with free := a } := ok
theorem MemoriesOk.with_acks {a} (ok : MemoriesOk s) : MemoriesOk { s with acks := a } := ok
theorem MemoriesOk.with_cisterns {a} (ok : MemoriesOk s) : MemoriesOk { s with cisterns := a } := ok
theorem MemoriesOk.with_logQueue {a} (ok : MemoriesOk s) : MemoriesOk { s with logQueue := a } := ok
theorem MemoriesOk.with_frmWait {a} (ok : MemoriesOk s) : MemoriesOk { s with frmWait := a } := ok
theorem MemoriesOk.with_dist {a} (ok : MemoriesOk s) : MemoriesOk { s with dist := a } := ok
theorem MemoriesOk.with_wells_rows {a b} (ok : MemoriesOk s) : MemoriesOk { s with wells := a, rows := b } := ok
theorem MemoriesOk.with_rsRun {a} (ok : MemoriesOk s) : MemoriesOk { s with rsRun := a } := ok
theorem MemoriesOk.with_hostReplies {a} (ok : MemoriesOk s) : MemoriesOk { s with hostReplies := a } := ok
theorem MemoriesOk.with_hostPend_nextHost {a b} (ok : MemoriesOk s) : MemoriesOk { s with hostPend := a, nextHost := b } := ok
theorem MemoriesOk.with_hostPend {a} (ok : MemoriesOk s) : MemoriesOk { s with hostPend := a } := ok
theorem MemoriesOk.with_saves {a} (ok : MemoriesOk s) : MemoriesOk { s with saves := a } := ok
theorem MemoriesOk.with_poison {a} (ok : MemoriesOk s) : MemoriesOk { s with poison := a } := ok
theorem MemoriesOk.with_stage {a} (ok : MemoriesOk s) : MemoriesOk { s with stage := a } := ok
theorem MemoriesOk.with_bootMeasured {a} (ok : MemoriesOk s) : MemoriesOk { s with bootMeasured := a } := ok
theorem MemoriesOk.with_rotQueue {a} (ok : MemoriesOk s) : MemoriesOk { s with rotQueue := a } := ok
theorem MemoriesOk.with_free_lastBudget {a b} (ok : MemoriesOk s) : MemoriesOk { s with free := a, lastBudget := b } := ok
theorem MemoriesOk.with_saves_homes_acks_hostPend {a b c d} (ok : MemoriesOk s) :
    MemoriesOk { s with saves := a, homes := b, acks := c, hostPend := d } := ok
theorem MemoriesOk.with_rsQueue {a} (ok : MemoriesOk s) : MemoriesOk { s with rsQueue := a } := ok
theorem MemoriesOk.with_time {a} (ok : MemoriesOk s) : MemoriesOk { s with time := a } := ok
theorem MemoriesOk.with_logQueue_logWr_msix {a b c} (ok : MemoriesOk s) : MemoriesOk { s with logQueue := a, logWr := b, msix := c } := ok
theorem MemoriesOk.with_poison_badCheck {a b} (ok : MemoriesOk s) : MemoriesOk { s with poison := a, badCheck := b } := ok

theorem MemoriesOk.tmapElems_acks {f : Nat → Elem → Elem} {as} (ok : MemoriesOk s) (hf : ∀ k e, SpadOk e → SpadOk (f k e)) :
    MemoriesOk { s with elems := tmap f s.elems, acks := as } :=
  .with_acks (.tmapElems ok hf)

theorem SpadOk.with_touched {a} (ok : SpadOk e) : SpadOk { e with touched := a } := ok
theorem SpadOk.with_installing {a} (ok : SpadOk e) : SpadOk { e with installing := a } := ok
theorem SpadOk.with_st_installing {a b} (ok : SpadOk e) : SpadOk { e with st := a, installing := b } := ok
theorem SpadOk.with_st {a} (ok : SpadOk e) : SpadOk { e with st := a } := ok
theorem SpadOk.with_la_lb {a b} (ok : SpadOk e) : SpadOk { e with la := a, lb := b } := ok
theorem SpadOk.with_portBusy {a} (ok : SpadOk e) : SpadOk { e with portBusy := a } := ok
theorem SpadOk.with_markers {a} (ok : SpadOk e) : SpadOk { e with markers := a } := ok
theorem SpadOk.with_spBusy {a} (ok : SpadOk e) : SpadOk { e with spBusy := a } := ok
theorem SpadOk.with_held {a} (ok : SpadOk e) : SpadOk { e with held := a } := ok
theorem SpadOk.with_inbox {a} (ok : SpadOk e) : SpadOk { e with inbox := a } := ok
theorem SpadOk.with_binbox {a} (ok : SpadOk e) : SpadOk { e with binbox := a } := ok
theorem SpadOk.with_pow {a} (ok : SpadOk e) : SpadOk { e with pow := a } := ok
theorem SpadOk.with_busy {a} (ok : SpadOk e) : SpadOk { e with busy := a } := ok

theorem SpadOk.with_seqBusy_spad_seqOcc {a b c} (ok : Memory.wf b = true) : SpadOk { e with seqBusy := a, spad := b, seqOcc := c } := ok

/-! ## Reads of a Marten job -/

def SndOk {α : Type} : Option (α × State) → Prop
  | some p => MemoriesOk p.2
  | none => True

/-- What a Marten job reads keeps the canonical form of the memories, also where it stops the job. -/
def MjOk {α : Type} (m : MjM α) : Prop := ∀ s, MemoriesOk s → SndOk (m.run.run s)

theorem MjOk.of_run {α : Type} {m : MjM α} {x : Except MjStop α} (hm : MjOk m) (ok : MemoriesOk s)
    (he : m.run.run s = some (x, t)) : MemoriesOk t := by
  have h := hm s ok
  rw [he] at h
  exact h

theorem MjOk.pure {α : Type} {a : α} : MjOk (pure a : MjM α) := fun _ ok => ok

theorem MjOk.throw {α : Type} {e : MjStop} : MjOk (throw e : MjM α) := fun _ ok => ok

theorem MjOk.ite {α : Type} {c : Prop} [Decidable c] {m n : MjM α} (hm : MjOk m) (hn : MjOk n) : MjOk (if c then m else n) := by
  split <;> assumption

theorem MjOk.bind {α β : Type} {m : MjM α} {f : α → MjM β} (hm : MjOk m) (hf : ∀ a, MjOk (f a)) : MjOk (m >>= f) := by
  intro s ok
  have h := hm s ok
  rw [ExceptT.run_bind, StateT.run_bind]
  cases hr : m.run.run s with
  | none => trivial
  | some p =>
    obtain ⟨r, t⟩ := p
    rw [hr] at h
    cases r with
    | error e => exact h
    | ok a => exact hf a t h

theorem MjOk.mapM {α β : Type} {f : α → MjM β} {l : List α} (hf : ∀ a, MjOk (f a)) : MjOk (l.mapM f) := by
  induction l with
  | nil => exact .pure
  | cons a l ih =>
    rw [List.mapM_cons]
    exact .bind (hf a) fun _ => .bind ih fun _ => .pure

end Sys2Proof.Claims
end

section
/-!
# The canonical form of the memories: operations of an element and firings

One lemma for each operation of the model: it keeps the canonical form of the memories. They stand in the order of the model's definitions.
-/
namespace Sys2Proof.Claims
open Sys2Proof.Machine

variable {s : State} {e : Elem} {k q r rw : Nat} {o : BeatOps} {cause : BitVec 8} {x : Ctx} {exe : Exe} {h : Hdr} {l : List Vec}
  {a d : Opnd}

theorem OutOk.withUnit {on : Bool} {f : State → State} (ok : MemoriesOk s) (hf : ∀ s, MemoriesOk s → MemoriesOk (f s)) :
    OutOk (withUnit on s f) :=
  .ite (hf _ ok) trivial

theorem SpadOk.setQ {x : Queue} (ok : SpadOk e) : SpadOk (setQ e q x) := ok

theorem SpadOk.dequeue (ok : SpadOk e) : SpadOk (dequeue e q) := by
  unfold Machine.dequeue
  dsimp only
  split
  · exact ok
  · exact .setQ ok

theorem SpadOk.send {t : Token} {cycle : Nat} {wait : Option (Scope × Nat)} (ok : SpadOk e) : SpadOk (send e k t cycle wait) := ok
theorem SpadOk.sendLoad {a : Access} {v : Vec} {cycle : Nat} (ok : SpadOk e) : SpadOk (sendLoad e k a v cycle) := ok

theorem MemoriesOk.elemTrap {key origin code beat slot addr : Nat} {word : BitVec 64} {ops : List Vec} (ok : MemoriesOk s) :
    MemoriesOk (elemTrap s key origin cause code beat slot word addr ops) :=
  .modE ok (fun ok1 => .ite ok1 ok1)

theorem MemoriesOk.takeTrap {src : Nat} {async : Bool} {val : BitVec 64} (ok : MemoriesOk s) :
    MemoriesOk (takeTrap s r cause src async val) :=
  .modSeq ok

theorem MemoriesOk.seqTrap {val : BitVec 64} (ok : MemoriesOk s) : MemoriesOk (seqTrap s r cause val) := .takeTrap ok
theorem MemoriesOk.returnTrap (ok : MemoriesOk s) : MemoriesOk (returnTrap s r) := .modSeq ok

theorem MemoriesOk.raiseAsync {cls src : Nat} {val : BitVec 64} (ok : MemoriesOk s) : MemoriesOk (raiseAsync s r cls cause src val) :=
  .modSeq ok

theorem SpadOk.setP {j : Nat} {v : Bool} (ok : SpadOk e) : SpadOk (setP e j v) := ok

theorem SpadOk.predUpdate {ps : Option (PredMode × Fin 8)} {fp carry any : Bool} {w : Nat} {res : Vec} (ok : SpadOk e) :
    SpadOk (predUpdate e ps fp w res carry any) := by
  unfold Machine.predUpdate
  split
  · exact ok
  · exact .setP ok

theorem SpadOk.setFlags {f : Flags} (ok : SpadOk e) : SpadOk (setFlags e f) := ok
theorem SpadOk.invalL1 (ok : SpadOk e) : SpadOk (invalL1 e) := ok
theorem SpadOk.acquireTok {t : Token} (ok : SpadOk e) : SpadOk (acquireTok e t) := .ite (.invalL1 ok) ok

theorem SpadOk.acquireField {dq : Bool} {u : FieldUse} (ok : SpadOk e) : SpadOk (acquireField e k dq u) := by
  unfold Machine.acquireField
  split
  · split
    · exact .acquireTok ok
    · exact ok
  · split
    · exact .acquireTok ok
    · exact ok
  · split
    · exact .acquireTok ok
    · exact ok
  · split
    · exact .acquireTok ok
    · exact ok
  · split
    · exact .acquireTok ok
    · exact ok
  · exact ok

theorem SpadOk.acquireOps {f : Form} (ok : SpadOk e) : SpadOk (acquireOps e f k) :=
  .acquireField (.acquireField (.acquireField (.acquireField ok)))

theorem SpadOk.setPend {j : Nat} (ok : SpadOk e) : SpadOk (setPend e j) := ok
theorem SpadOk.clearPend {j : Nat} (ok : SpadOk e) : SpadOk (clearPend e j) := ok

theorem SpadOk.writeDest {v : Vec} {u : FieldUse} (ok : SpadOk e) : SpadOk (writeDest x e k v u) := by
  unfold Machine.writeDest
  split
  · exact ok
  · exact ok
  · exact ok
  · exact .send ok
  · exact .send ok
  · exact ok

theorem SpadOk.freeLate {now c : Nat} (ok : SpadOk e) : SpadOk (freeLate e q now c) := .ite ok (.setQ ok)

theorem SpadOk.dequeueAll {now c : Nat} {qs : List (Fin 6)} (ok : SpadOk e) : SpadOk (dequeueAll e now c qs) :=
  .foldl ok (fun _ _ ok1 => .freeLate (.dequeue ok1))

theorem SpadOk.beat {y : Firing} (ok : ExeOk exe) (hy : SpadOk y.elem) : SpadOk (beat x exe rw y).elem := by
  unfold Machine.beat
  split
  · exact hy
  dsimp only
  have h := ok x (Machine.acquireOps y.elem x.form y.done) y.done (readOps y.elem x.sample x.form y.done).1 y.held (.acquireOps hy)
  generalize exe x (Machine.acquireOps y.elem x.form y.done) y.done (readOps y.elem x.sample x.form y.done).1 y.held = b at h ⊢
  split
  · exact h
  · dsimp only
    split
    · split
      · exact .dequeueAll (.with_la_lb (.writeDest (.setFlags h)))
      · exact .dequeueAll (.setFlags h)
    · split
      · exact .with_la_lb (.writeDest (.setFlags h))
      · exact .setFlags h

theorem SpadOk.beats {n : Nat} {y : Firing} (ok : ExeOk exe) (ok1 : SpadOk y.elem) : SpadOk (beats x exe rw n y).elem := by
  induction n generalizing y with
  | zero =>
    exact ok1
  | succ n ih =>
    unfold Machine.beats
    exact ih (.beat ok ok1)

theorem SpadOk.runBeats (ok : MemoriesOk s) (ok1 : ExeOk exe) : SpadOk (runBeats s x exe rw).elem := .beats ok1 (.with_pow (.getE ok))

theorem MemoriesOk.finish {carry : BeatOps → Bool} {y : Firing} (ok : MemoriesOk s) (ok1 : SpadOk y.elem) :
    MemoriesOk (finish s x rw carry y) := by
  unfold Machine.finish
  split
  · exact .modE (.elemTrap (.setE (.modR ok) ok1)) (fun ok2 => ok2)
  · exact .setE (.modR ok) (.with_busy (.predUpdate ok1))

theorem MemoriesOk.fireForm {f : Form} {cpb ctx : Nat} {unit : Bool} {carry : BeatOps → Bool} {after : Firing → State → State}
    (ok : ExeOk exe) (hafter : ∀ x0 s1, MemoriesOk s1 → MemoriesOk (after x0 s1)) (ok1 : MemoriesOk s) :
    MemoriesOk (fireForm f cpb rw unit ctx carry exe after s) :=
  .ite (.ite (hafter _ _ (.finish ok1 (.runBeats ok1 ok))) (.finish ok1 (.runBeats ok1 ok))) ok1

theorem OutOk.fire {i : Instr} {cpb : Nat} {carry : BeatOps → Bool} (ok : ExeOk exe) (ok1 : MemoriesOk s) :
    OutOk (fire i cpb rw carry exe s) := by
  unfold Machine.fire
  split
  · exact ok1
  · exact MemoriesOk.fireForm ok (fun _ _ ok2 => ok2) ok1

theorem OutOk.fireWith {i : Instr} {unit : Bool} {ctx : Nat} {after : Firing → State → State} (ok : ExeOk exe)
    (hafter : ∀ x0 s1, MemoriesOk s1 → MemoriesOk (after x0 s1)) (ok1 : MemoriesOk s) : OutOk (fireWith i unit ctx exe after s) := by
  unfold Machine.fireWith
  split
  · exact ok1
  · exact MemoriesOk.fireForm ok (fun _ _ ok2 => hafter _ _ ok2) ok1

theorem SpadOk.pureExe {g : BeatOps → Vec} (ok : SpadOk e) : SpadOk (pureExe g x e k o l).elem := ok
theorem SpadOk.flagExe {g : BeatOps → Vec × Flags} (ok : SpadOk e) : SpadOk (flagExe g x e k o l).elem := ok

theorem SpadOk.elemExe {g : Ctx → Elem → Nat → BeatOps → Elem} (hg : ∀ x0 e x2 x3, SpadOk e → SpadOk (g x0 e x2 x3)) (ok : SpadOk e) :
    SpadOk (elemExe g x e k o l).elem :=
  hg _ _ _ _ ok

theorem SpadOk.trapExe {code : Nat} (ok : SpadOk e) : SpadOk (trapExe cause code x e k o l).elem := ok

theorem OutOk.fireInt {i : Instr} {g : BeatOps → Vec} (ok : MemoriesOk s) : OutOk (fireInt i rw g s) :=
  .fire (fun _ _ _ _ _ ok1 => .pureExe ok1) ok

theorem OutOk.fireCarry {i : Instr} {g : BeatOps → Vec} {c : BeatOps → Bool} (ok : MemoriesOk s) : OutOk (fireCarry i rw g c s) :=
  .fire (fun _ _ _ _ _ ok1 => .pureExe ok1) ok

theorem OutOk.execNop (ok : MemoriesOk s) : OutOk (execNop h s) := .fire (fun _ _ _ _ _ ok1 => .pureExe ok1) ok
theorem OutOk.execMov (ok : MemoriesOk s) : OutOk (execMov h d a s) := .fireInt ok
theorem OutOk.execMovi {imm : BitVec 12} (ok : MemoriesOk s) : OutOk (execMovi h d imm s) := .fireInt ok
theorem OutOk.execMovhi {imm : BitVec 12} (ok : MemoriesOk s) : OutOk (execMovhi h d a imm s) := .fireInt ok
theorem OutOk.execSel {b c : Opnd} (ok : MemoriesOk s) : OutOk (execSel h d a b c s) := .fireInt ok
theorem OutOk.execPset (ok : MemoriesOk s) : OutOk (execPset h a s) := .fire (fun _ _ _ _ _ ok1 => .elemExe (fun _ _ _ _ ok2 => ok2) ok1) ok
theorem OutOk.execHalt (ok : MemoriesOk s) : OutOk (execHalt h s) := .fire (fun _ _ _ _ _ ok1 => .elemExe (fun _ _ _ _ ok2 => ok2) ok1) ok

theorem OutOk.execFevt (ok : MemoriesOk s) : OutOk (execFevt h a s) := by
  unfold Machine.execFevt
  exact .fireWith (fun _ _ _ _ _ ok1 => .elemExe (fun _ _ _ _ ok2 => ok2) ok1) (fun _ _ ok1 => .modSeq ok1) ok

theorem OutOk.execCtlRead {n : BitVec 5} (ok : MemoriesOk s) : OutOk (execCtlRead h d n s) :=
  MemoriesOk.fireForm (fun _ _ _ _ _ ok1 => .ite ok1 ok1) (fun _ _ ok1 => ok1) ok

theorem SpadOk.ctlWriteElem {n : Nat} {v : BitVec 32} (ok : SpadOk e) : SpadOk (ctlWriteElem e n v) := .ite ok (.ite ok ok)

theorem OutOk.execCtlWrite {n : BitVec 5} (ok : MemoriesOk s) : OutOk (execCtlWrite h a n s) :=
  .fire (fun _ _ _ _ _ ok1 => .elemExe (fun _ _ _ _ ok2 => .ctlWriteElem ok2) ok1) ok

theorem OutOk.execTrap {n : BitVec 11} (ok : MemoriesOk s) : OutOk (execTrap h n s) := .fire (fun _ _ _ _ _ ok1 => .trapExe ok1) ok
theorem OutOk.execBkpt {n : BitVec 11} (ok : MemoriesOk s) : OutOk (execBkpt h n s) := .fire (fun _ _ _ _ _ ok1 => .trapExe ok1) ok
theorem OutOk.execFaultySlotFire (ok : MemoriesOk s) : OutOk (execFaultySlotFire cause s) := .ite (MemoriesOk.elemTrap ok) ok

end Sys2Proof.Claims
end

section
/-!
# The canonical form of the memories: the homes of the lines

One lemma for each operation of the model: it keeps the canonical form of the memories. They stand in the order of the model's definitions.
-/
namespace Sys2Proof.Claims
open Sys2Proof.Machine

variable {s : State} {ag die ln r scope : Nat} {tag : ReqTag} {v : Via}

theorem MemoriesOk.logPush {event owner addr info : Nat} {cause : BitVec 8} {region : Option Nat} (ok : MemoriesOk s) :
    MemoriesOk (logPush s event cause owner region addr info) :=
  ok

theorem MemoriesOk.modCist {d : Nat} {f : Cistern → Cistern} (ok : MemoriesOk s) : MemoriesOk (modCist s d f) := ok
theorem MemoriesOk.setDir {d : Dir} (ok : MemoriesOk s) : MemoriesOk (setDir s ln d) := ok
theorem MemoriesOk.modDir {f : Dir → Dir} (ok : MemoriesOk s) : MemoriesOk (modDir s ln f) := .setDir ok
theorem MemoriesOk.setHome {h : HomeQ} (ok : MemoriesOk s) : MemoriesOk (setHome s ln h) := ok

theorem MemoriesOk.noteHead (ok : MemoriesOk s) : MemoriesOk (noteHead s ln) := by
  obtain ⟨t, ht⟩ := noteHead_eq s ln
  rw [ht]
  exact ok

theorem MemoriesOk.storeHome {d : Line} {m : BitVec 64} (ok : MemoriesOk s) : MemoriesOk (storeHome s ln d m) :=
  .noteHead ⟨memWriteMask_wf ok.1 .., ok.2⟩

theorem MemoriesOk.putHome {d : Line} {m : BitVec 64} (ok : MemoriesOk s) : MemoriesOk (putHome s ln d m) :=
  .with_poison_badCheck (.storeHome ok)

theorem MemoriesOk.setCLine {c : CLine} (ok : MemoriesOk s) : MemoriesOk (setCLine s die ln c) := .modCist ok
theorem MemoriesOk.dropCLine (ok : MemoriesOk s) : MemoriesOk (dropCLine s die ln) := .modCist ok

theorem MemoriesOk.mergeAnswers {l : List (Line × BitVec 64)} (ok : MemoriesOk s) : MemoriesOk (mergeAnswers s ln l) :=
  .ite ok (.with_free (.storeHome ok))

theorem MemoriesOk.applyWb {q : HReq} (ok : MemoriesOk s) : MemoriesOk (applyWb s ln q) := by
  unfold Machine.applyWb
  split
  · split
    · dsimp only
      split
      · exact .ite (.setHome ok) (.setHome (.modDir ok))
      · exact .modDir ok
    · dsimp only
      split
      · exact .ite (.setHome ok) (.setHome (.modDir (.putHome ok)))
      · exact .modDir (.putHome ok)
  · split
    · dsimp only
      split
      · exact .ite (.setHome ok) (.setHome (.modDir ok))
      · exact .modDir ok
    · dsimp only
      split
      · exact .ite (.setHome ok) (.setHome (.modDir (.putHome ok)))
      · exact .modDir (.putHome ok)

theorem MemoriesOk.drainWb (ok : MemoriesOk s) : MemoriesOk (drainWb s ln) := .foldl (.setHome ok) (fun _ _ ok1 => .applyWb ok1)

theorem MemoriesOk.grantAck (ok : MemoriesOk s) : MemoriesOk (grantAck s ln) := by
  unfold Machine.grantAck
  dsimp only
  split
  · split
    · exact .ite (.ite (.modCist (.ite (.setCLine (.setHome ok)) (.setHome ok))) (.ite (.setCLine (.setHome ok)) (.setHome ok)))
        (.with_acks (.ite (.modCist (.ite (.setCLine (.setHome ok)) (.setHome ok))) (.ite (.setCLine (.setHome ok)) (.setHome ok))))
    · exact ok
  · exact ok

theorem MemoriesOk.recallLine (ok : MemoriesOk s) : MemoriesOk (recallLine s ln) := by
  have h : MemoriesOk (Machine.drainWb (Machine.grantAck s ln) ln) := .drainWb (.grantAck ok)
  unfold Machine.recallLine
  generalize Machine.drainWb (Machine.grantAck s ln) ln = t at h ⊢
  dsimp only
  split
  · exact .setHome (.setDir (.with_cisterns (.foldl (.mergeAnswers h) fun _ _ ok => .dropCLine ok)))
  · exact .setDir (.with_cisterns (.foldl (.mergeAnswers h) fun _ _ ok => .dropCLine ok))

theorem MemoriesOk.postReq {q : HReq} (ok : MemoriesOk s) : MemoriesOk (postReq s ln q) := .setHome ok
theorem MemoriesOk.askTagged {q : HReq} (ok : MemoriesOk s) : MemoriesOk (askTagged s ln q) := .ite ok (.postReq ok)

theorem MemoriesOk.takeAck {t : State} {a : Ack} (ok : MemoriesOk s) (he : takeAck s tag = some (a, t)) : MemoriesOk t := by
  unfold Machine.takeAck at he
  split at he
  · obtain ⟨-, rfl⟩ := Prod.mk.inj (Option.some.inj he)
    exact ok
  · cases he

theorem MemoriesOk.bufferWrite {d : Line} {m plc : BitVec 64} {via : Nat × List Nat} (ok : MemoriesOk s) :
    MemoriesOk (bufferWrite s r ln d m plc via) :=
  .modR ok

theorem MemoriesOk.planTx (ok : MemoriesOk s) : MemoriesOk (planTx s ln) := by
  unfold Machine.planTx
  dsimp only
  split
  · exact .drainWb ok
  · exact .setHome (.drainWb ok)

theorem MemoriesOk.concludeTx {t : HTx} (ok : MemoriesOk s) : MemoriesOk (concludeTx s ln t) :=
  .setHome (.setDir (.ite (.putHome (.mergeAnswers ok)) (.ite (.putHome (.mergeAnswers ok)) (.mergeAnswers ok))))

theorem MemoriesOk.settle (ok : MemoriesOk s) : MemoriesOk (settle s ln) := by
  unfold Machine.settle
  split
  · exact .ite (.concludeTx ok) ok
  · exact ok

theorem MemoriesOk.recallWithGo {pub : State → Nat → Nat → (Narrow → Bool) → State × Bool}
    (hpub : ∀ s x1 x2 x3, MemoriesOk s → MemoriesOk (pub s x1 x2 x3).1) (ok : MemoriesOk s) : MemoriesOk (recallWith.go pub s ln).1 :=
  .ite_fst (.settle (.recallLine (.foldl_fst ok (fun _ _ ok1 => .ite_fst (hpub _ _ _ _ ok1) ok1)))) (.foldl_fst ok (fun _ _ ok1 => .ite_fst
    (hpub _ _ _ _ ok1) ok1))

theorem MemoriesOk.recallWith {pub : State → Nat → Nat → (Narrow → Bool) → State × Bool}
    (hpub : ∀ s x1 x2 x3, MemoriesOk s → MemoriesOk (pub s x1 x2 x3).1) (ok : MemoriesOk s) : MemoriesOk (recallWith pub s ln).1 := by
  unfold Machine.recallWith
  split
  · exact .ite_fst ok (.recallWithGo (fun _ _ _ _ ok1 => hpub _ _ _ _ ok1) ok)
  · exact .recallWithGo (fun _ _ _ _ ok1 => hpub _ _ _ _ ok1) ok

theorem MemoriesOk.dropEntry {e : WcbEntry} (ok : MemoriesOk s) : MemoriesOk (dropEntry s r e) := .modR ok

theorem MemoriesOk.performNarrow {pub : State → Nat → Nat → (Narrow → Bool) → State × Bool} {w : Narrow}
    (hpub : ∀ s x1 x2 x3, MemoriesOk s → MemoriesOk (pub s x1 x2 x3).1) (ok : MemoriesOk s) : MemoriesOk (performNarrow pub s die w).1 := by
  unfold Machine.performNarrow
  split
  · dsimp only
    split
    · exact .ite_fst (.postReq (.dropCLine ok)) (.recallWith (fun _ _ _ _ ok1 => hpub _ _ _ _ ok1) ok)
    · exact .ite_fst (.recallWith (fun _ _ _ _ ok1 => hpub _ _ _ _ ok1) ok) (.modCist ok)
  · split
    · dsimp only
      split
      · exact ok
      · refine .ite_fst ?_ ?_
        · exact .dropEntry (.takeAck ok ‹_›)
        · refine .ite_fst ?_ ?_
          · exact .postReq (.dropEntry ok)
          · refine .ite_fst ?_ ?_
            · exact ok
            · split
              · exact .settle (.putHome (.of_fst (.recallWith (fun _ _ _ _ ok1 => hpub _ _ _ _ ok1) (.dropEntry ok)) ‹_›))
              · exact ok
    · dsimp only
      split
      · exact ok
      · refine .ite_fst ?_ ?_
        · refine .ite_fst ?_ ?_
          · split
            · exact .settle (.putHome (.of_fst (.recallWith (fun _ _ _ _ ok1 => hpub _ _ _ _ ok1) (.setHome (.dropEntry ok))) ‹_›))
            · exact ok
          · exact ok
        · refine .ite_fst ?_ ?_
          · exact .postReq (.dropEntry ok)
          · refine .ite_fst ?_ ?_
            · exact ok
            · split
              · exact .settle (.putHome (.of_fst (.recallWith (fun _ _ _ _ ok1 => hpub _ _ _ _ ok1) (.dropEntry ok)) ‹_›))
              · exact ok

theorem MemoriesOk.publishWithin {fuel n : Nat} {pass : Narrow → Bool} (ok : MemoriesOk s) :
    MemoriesOk (publishWithin fuel s die n pass).1 := by
  induction fuel generalizing s die n pass with
  | zero =>
    exact ok
  | succ fuel ih =>
    unfold Machine.publishWithin
    exact .foldl_fst ok (fun _ _ ok1 => .ite_fst (.performNarrow (fun _ _ _ _ ok2 => ih ok2) ok1) ok1)

theorem MemoriesOk.publishDie {n : Nat} {pass : Narrow → Bool} (ok : MemoriesOk s) : MemoriesOk (publishDie s die n pass).1 :=
  .publishWithin ok

theorem MemoriesOk.takeBack (ok : MemoriesOk s) : MemoriesOk (takeBack s ln).1 := .recallWith (fun _ _ _ _ ok1 => .publishDie ok1) ok

theorem MemoriesOk.askGrant {k : ReqKind} (ok : MemoriesOk s) : MemoriesOk (askGrant s die ln k) := by
  unfold Machine.askGrant
  split
  · dsimp only
    split
    · exact .setCLine (.ite (.publishDie ok) (.dropCLine (.publishDie ok)))
    · exact .publishDie ok
  · exact .ite ok (.postReq ok)

theorem MemoriesOk.startReq {k : ReqKind} (ok : MemoriesOk s) : MemoriesOk (startReq s ln k) := by
  unfold Machine.startReq
  dsimp only
  split
  · exact .ite (.ite (.settle (.planTx (.setHome ok))) (.setHome ok)) ok
  · exact ok

theorem OutOk.execRds (ok : MemoriesOk s) : OutOk (execRds ln s) := MemoriesOk.startReq ok
theorem OutOk.execWalk (ok : MemoriesOk s) : OutOk (execWalk ln s) := MemoriesOk.startReq ok
theorem OutOk.execRdx (ok : MemoriesOk s) : OutOk (execRdx ln s) := MemoriesOk.startReq ok
theorem OutOk.execRdmm (ok : MemoriesOk s) : OutOk (execRdmm ln s) := MemoriesOk.startReq ok
theorem OutOk.execWrh (ok : MemoriesOk s) : OutOk (execWrh ln s) := MemoriesOk.startReq ok
theorem OutOk.execAth (ok : MemoriesOk s) : OutOk (execAth ln s) := MemoriesOk.startReq ok

theorem MemoriesOk.endRecall {t : HTx} (ok : MemoriesOk s) : MemoriesOk (endRecall s ln t) := by
  unfold Machine.endRecall
  refine .setHome ?_
  refine .setDir ?_
  refine .with_logQueue ?_
  split
  · exact ok
  · exact .putHome ok
  · exact ok

theorem MemoriesOk.recallOver (ok : MemoriesOk s) : MemoriesOk (recallOver s ln) := by
  unfold Machine.recallOver
  split
  · exact .ite (.endRecall ok) ok
  · exact ok

theorem MemoriesOk.takeWb {k : ReqKind} (ok : MemoriesOk s) : MemoriesOk (takeWb s ln k) := by
  unfold Machine.takeWb
  split
  · dsimp only
    split <;> exact ok
  · dsimp only
    split
    · exact .recallOver (.settle (.applyWb (.setHome ok)))
    · exact ok

theorem OutOk.execWbm (ok : MemoriesOk s) : OutOk (execWbm ln s) := MemoriesOk.takeWb ok
theorem OutOk.execWbmm (ok : MemoriesOk s) : OutOk (execWbmm ln s) := MemoriesOk.takeWb ok
theorem OutOk.execClre (ok : MemoriesOk s) : OutOk (execClre ln s) := MemoriesOk.takeWb ok

theorem MemoriesOk.answerSnoop {k : ReqKind} (ok : MemoriesOk s) : MemoriesOk (answerSnoop s ln ag k) := by
  unfold Machine.answerSnoop
  split
  · split
    · split
      · dsimp only
        split
        · exact .ite_fst ok (.publishDie ok)
        · refine .ite ?_ ?_
          · exact .ite_fst ok (.publishDie ok)
          · refine .setHome ?_
            refine .setDir ?_
            split
            · exact .setCLine (.ite_fst ok (.publishDie ok))
            · exact .ite_fst ok (.publishDie ok)
      · split
        · dsimp only
          split
          · exact .ite_fst ok (.publishDie ok)
          · refine .ite ?_ ?_
            · exact .ite_fst ok (.publishDie ok)
            · refine .setHome ?_
              split
              · exact .ite (.setDir (.dropCLine (.ite_fst ok (.publishDie ok)))) (.setDir (.setCLine (.ite_fst ok (.publishDie ok))))
              · exact .setDir (.ite_fst ok (.publishDie ok))
        · dsimp only
          split
          · exact .ite_fst ok (.publishDie ok)
          · refine .ite ?_ ?_
            · exact .ite_fst ok (.publishDie ok)
            · refine .setHome ?_
              split
              · exact .ite (.setDir (.dropCLine (.ite_fst ok (.publishDie ok)))) (.setDir (.setCLine (.ite_fst ok (.publishDie ok))))
              · exact .setDir (.ite_fst ok (.publishDie ok))
    · split
      · dsimp only
        split
        · exact .ite_fst ok (.publishDie ok)
        · refine .ite ?_ ?_
          · exact .ite_fst ok (.publishDie ok)
          · refine .setHome ?_
            refine .setDir ?_
            split
            · exact .setCLine (.ite_fst ok (.publishDie ok))
            · exact .ite_fst ok (.publishDie ok)
      · split
        · dsimp only
          split
          · exact .ite_fst ok (.publishDie ok)
          · refine .ite ?_ ?_
            · exact .ite_fst ok (.publishDie ok)
            · refine .setHome ?_
              split
              · exact .ite (.setDir (.dropCLine (.ite_fst ok (.publishDie ok)))) (.setDir (.setCLine (.ite_fst ok (.publishDie ok))))
              · exact .setDir (.ite_fst ok (.publishDie ok))
        · dsimp only
          split
          · exact .ite_fst ok (.publishDie ok)
          · refine .ite ?_ ?_
            · exact .ite_fst ok (.publishDie ok)
            · refine .setHome ?_
              split
              · exact .ite (.setDir (.dropCLine (.ite_fst ok (.publishDie ok)))) (.setDir (.setCLine (.ite_fst ok (.publishDie ok))))
              · exact .setDir (.ite_fst ok (.publishDie ok))
  · split
    · split
      · dsimp only
        split
        · exact .ite_fst ok (.publishDie ok)
        · refine .ite ?_ ?_
          · exact .ite_fst ok (.publishDie ok)
          · refine .setHome ?_
            refine .setDir ?_
            split
            · exact .setCLine (.ite_fst ok (.publishDie ok))
            · exact .ite_fst ok (.publishDie ok)
      · dsimp only
        split
        · exact .ite_fst ok (.publishDie ok)
        · exact .ite (.ite_fst ok (.publishDie ok)) (.setHome (.setDir (.dropCLine (.ite_fst ok (.publishDie ok)))))
    · split
      · dsimp only
        split
        · exact .ite_fst ok (.publishDie ok)
        · refine .ite ?_ ?_
          · exact .ite_fst ok (.publishDie ok)
          · refine .setHome ?_
            refine .setDir ?_
            split
            · exact .setCLine (.ite_fst ok (.publishDie ok))
            · exact .ite_fst ok (.publishDie ok)
      · dsimp only
        split
        · exact .ite_fst ok (.publishDie ok)
        · exact .ite (.ite_fst ok (.publishDie ok)) (.setHome (.setDir (.dropCLine (.ite_fst ok (.publishDie ok)))))

theorem MemoriesOk.snoop {k : ReqKind} (ok : MemoriesOk s) : MemoriesOk (snoop s ln ag k) := by
  unfold Machine.snoop
  split
  · exact .ite ok (.ite (.settle (.answerSnoop ok)) ok)
  · exact ok

theorem OutOk.execSnps (ok : MemoriesOk s) : OutOk (execSnps ln ag s) := MemoriesOk.snoop ok
theorem OutOk.execSnpi (ok : MemoriesOk s) : OutOk (execSnpi ln ag s) := MemoriesOk.snoop ok
theorem OutOk.execSnpmm (ok : MemoriesOk s) : OutOk (execSnpmm ln ag s) := MemoriesOk.snoop ok

theorem MemoriesOk.evictLine (ok : MemoriesOk s) : MemoriesOk (evictLine s die ln) := by
  unfold Machine.evictLine
  split
  · exact ok
  · refine .ite ?_ ?_
    · exact .ite_fst ok (.publishDie ok)
    · split
      · split
        · exact .postReq (.dropCLine ok)
        · exact .postReq (.dropCLine ok)
        · exact .ite (.postReq (.dropCLine ok)) (.modCist (.postReq (.dropCLine ok)))
        · exact .dropCLine ok
      · split
        · exact .postReq (.dropCLine (.publishDie ok))
        · exact .postReq (.dropCLine (.publishDie ok))
        · exact .ite (.postReq (.dropCLine (.publishDie ok))) (.modCist (.postReq (.dropCLine (.publishDie ok))))
        · exact .dropCLine (.publishDie ok)

theorem OutOk.execCisternEvict (ok : MemoriesOk s) : OutOk (execCisternEvict die ln s) := .withUnit ok (fun _ ok1 => .evictLine ok1)

theorem OutOk.execGrantAck (ok : MemoriesOk s) : OutOk (execGrantAck ln s) := by
  have h : MemoriesOk (match (getHome s ln).tx with
      | some t =>
        let l := (getCist s t.req.agent).lines
        if t.granted.isSome && t.req.agent < 4 && !t.req.uncached && decide (cisternLines ≤ l.length) && (cLine s t.req.agent ln).isNone
          then
          Machine.evictLine { s with free := s.free + 1 } t.req.agent (l.getD (Config.evictChoice s.free % l.length) default).1
        else Machine.grantAck s ln
      | none => s) := by
    split
    · exact .ite (.evictLine (.with_free ok)) (.grantAck ok)
    · exact ok
  exact h

theorem MemoriesOk.publication (ok : MemoriesOk s) : MemoriesOk (publication s die ln) := by
  unfold Machine.publication
  dsimp only
  split
  · exact ok
  · refine .ite ?_ ?_
    · exact ok
    · refine .ite ?_ ?_
      · exact .setHome ok
      · refine .ite ?_ ?_
        · exact .publishDie ok
        · split
          · exact .ite (.publishDie ok) (.modCist (.modDir (.publishDie ok)))
          · exact .ite (.settle (.planTx (.setHome (.ite (.publishDie ok) (.modCist (.modDir (.publishDie ok))))))) (.setHome (.ite
              (.publishDie ok) (.modCist (.modDir (.publishDie ok)))))

theorem OutOk.execPublicationRequest (ok : MemoriesOk s) : OutOk (execPublicationRequest die ln s) :=
  .withUnit ok (fun _ ok1 => .publication ok1)

theorem OutOk.execNarrowHoldNotice (ok : MemoriesOk s) : OutOk (execNarrowHoldNotice r ln s) :=
  .withUnit ok (fun _ ok1 => .ite (.ite (.modCist (.setR ok1)) (.modDir (.modCist (.setR ok1)))) ok1)

theorem OutOk.execNarrowReleaseNotice (ok : MemoriesOk s) : OutOk (execNarrowReleaseNotice die ln s) :=
  .withUnit ok (fun _ ok1 => .ite ok1 (.ite (.modCist ok1) (.modDir (.modCist ok1))))

theorem MemoriesOk.writeCLine {c : CLine} {d : Line} {m : BitVec 64} {first last : Nat} (ok : MemoriesOk s) :
    MemoriesOk (writeCLine s die ln c d m first last) :=
  .setCLine ok

theorem MemoriesOk.askWrite (ok : MemoriesOk s) : MemoriesOk (askWrite s die ln) := .ite (.askGrant ok) (.askGrant ok)
theorem MemoriesOk.tellLoss (ok : MemoriesOk s) : MemoriesOk (tellLoss s r) := .ite ok (.raiseAsync (.modR ok))

theorem MemoriesOk.drainWcb (ok : MemoriesOk s) : MemoriesOk (drainWcb s r) := by
  unfold Machine.drainWcb
  split
  · dsimp only
    split
    · exact ok
    · refine .ite ?_ ?_
      · exact .tellLoss (.logPush (.setR ok))
      · refine .ite ?_ ?_
        · exact .modR (.takeAck ok ‹_›)
        · split
          · exact .ite (.setR (.writeCLine ok)) (.askWrite ok)
          · exact .askWrite ok
  · dsimp only
    split
    · exact ok
    · refine .ite ?_ ?_
      · exact .tellLoss (.logPush (.setR ok))
      · refine .ite ?_ ?_
        · exact .askTagged (.modR ok)
        · split
          · exact .ite (.setR (.writeCLine ok)) (.askWrite ok)
          · exact .askWrite ok

theorem OutOk.execWriteCombiningBufferDrain (ok : MemoriesOk s) : OutOk (execWriteCombiningBufferDrain r s) :=
  .withUnit ok (fun _ ok1 => .drainWcb ok1)

theorem MemoriesOk.recallDrop (ok : MemoriesOk s) : MemoriesOk (recallDrop s die ln) := by
  unfold Machine.recallDrop
  exact .modCist (.foldl (.dropCLine ok) (fun _ _ ok1 => .ite (.modR ok1) ok1))

theorem MemoriesOk.recallBegin (ok : MemoriesOk s) : MemoriesOk (recallBegin s ln) := by
  unfold Machine.recallBegin
  dsimp only
  split
  · exact ok
  · exact .setHome ok

theorem MemoriesOk.recallAnswer (ok : MemoriesOk s) : MemoriesOk (recallAnswer s ag ln) := by
  unfold Machine.recallAnswer
  refine .ite ok ?_
  have h : MemoriesOk (Machine.recallBegin s ln) := .recallBegin ok
  generalize Machine.recallBegin s ln = t at h ⊢
  dsimp only
  split
  · exact h
  refine .ite h ?_
  have hp : MemoriesOk (if 32 ≤ ag then (t, true) else Machine.publishDie t ag (lastWrite t ag ln) fun w => w.line == ln).1 :=
    .ite_fst h (.publishDie h)
  generalize (if 32 ≤ ag then (t, true) else Machine.publishDie t ag (lastWrite t ag ln) fun w => w.line == ln) = p at hp ⊢
  refine .ite hp ?_
  have hd : MemoriesOk (if 32 ≤ ag then { p.1 with free := p.1.free + 2 } else Machine.recallDrop p.1 ag ln) :=
    .ite (.with_free hp) (.recallDrop hp)
  generalize (if 32 ≤ ag then { p.1 with free := p.1.free + 2 } else Machine.recallDrop p.1 ag ln) = u at hd ⊢
  split
  · exact hd
  · exact .recallOver (.setHome hd)

theorem OutOk.execRecallInvalidate (ok : MemoriesOk s) : OutOk (execRecallInvalidate ag ln s) :=
  .withUnit ok (fun _ ok1 => .recallAnswer ok1)

theorem GotOk.lostRead (ok : MemoriesOk s) : GotOk (lostRead s r) := MemoriesOk.tellLoss ok
theorem GotOk.lostWrite {pa dev : Nat} (ok : MemoriesOk s) : GotOk (lostWrite s r pa dev) := MemoriesOk.with_free (.tellLoss (.logPush ok))
theorem MemoriesOk.notePeer {dev : Nat} (ok : MemoriesOk s) : MemoriesOk (notePeer s r dev) := .modR ok
theorem MemoriesOk.noteWell (ok : MemoriesOk s) : MemoriesOk (noteWell s v) := .ite ok ok

theorem MemoriesOk.windowSync {r : Option Nat} (ok : MemoriesOk s) : MemoriesOk (windowSync s die r ln).1 :=
  .foldl_fst ok (fun _ _ ok1 => .ite_fst ok1 (.ite_fst (.ite_fst (.drainWcb ok1) ok1) (.publishDie ok1)))

theorem MemoriesOk.windowNote (ok : MemoriesOk s) : MemoriesOk (windowNote s r ln) := ok

theorem MemoriesOk.windowStore {d : Line} {m : BitVec 64} (ok : MemoriesOk s) : MemoriesOk (windowStore s ln d m) :=
  ⟨memWriteMask_wf ok.1 .., ok.2⟩

theorem MemoriesOk.regrant {k : ReqKind} (ok : MemoriesOk s) : MemoriesOk (regrant s die ln k) :=
  .ite (.evictLine ok) (.askGrant (.evictLine ok))

theorem GotOk.readShared {pkg : Bool} (ok : MemoriesOk s) : GotOk (readShared s r v pkg tag) := by
  unfold Machine.readShared
  split
  · split
    · dsimp only
      split
      · exact MemoriesOk.drainWcb ok
      · refine .ite ?_ ?_
        · exact .ite (MemoriesOk.drainWcb ok) (MemoriesOk.takeAck ok ‹_›)
        · split
          · exact .ite (MemoriesOk.regrant ok) ok
          · exact .lostRead ok
    · dsimp only
      split
      · exact MemoriesOk.drainWcb ok
      · refine .ite ?_ ?_
        · exact .ite (MemoriesOk.drainWcb ok) (MemoriesOk.takeAck ok ‹_›)
        · split
          · exact .ite (MemoriesOk.regrant ok) ok
          · exact MemoriesOk.askGrant (.noteWell ok)
  · split
    · dsimp only
      split
      · exact MemoriesOk.drainWcb ok
      · refine .ite ?_ ?_
        · exact .ite (MemoriesOk.drainWcb ok) (.lostRead ok)
        · split
          · exact .ite (MemoriesOk.regrant ok) ok
          · exact .lostRead ok
    · dsimp only
      split
      · exact MemoriesOk.drainWcb ok
      · refine .ite ?_ ?_
        · exact .ite (MemoriesOk.drainWcb ok) (MemoriesOk.askTagged (.noteWell ok))
        · split
          · exact .ite (MemoriesOk.regrant ok) ok
          · exact MemoriesOk.askGrant (.noteWell ok)

theorem GotOk.readLine {pkg : Bool} (ok : MemoriesOk s) : GotOk (readLine s r v pkg tag) := by
  unfold Machine.readLine
  split
  · exact .ite (.lostRead ok) (.ite (.readShared (.notePeer ok)) ok)
  · exact .ite (.lostRead ok) (.ite (MemoriesOk.windowSync ok) (MemoriesOk.windowSync ok))
  · exact .readShared ok
  · exact ok

theorem GotOk.writeHome {d : Line} {m : BitVec 64} (ok : MemoriesOk s) : GotOk (writeHome s r v d m tag) := by
  unfold Machine.writeHome
  split
  · exact MemoriesOk.takeAck ok ‹_›
  · exact .ite (.lostWrite ok) (MemoriesOk.askTagged (.noteWell ok))

theorem GotOk.writeShared {d : Line} {m : BitVec 64} (ok : MemoriesOk s) : GotOk (writeShared s r v scope d m tag) := by
  unfold Machine.writeShared
  split
  · split
    · dsimp only
      split
      · exact MemoriesOk.drainWcb ok
      · exact MemoriesOk.bufferWrite ok
    · dsimp only
      split
      · exact MemoriesOk.drainWcb ok
      · exact MemoriesOk.bufferWrite ok
  · split
    · dsimp only
      split
      · exact MemoriesOk.drainWcb ok
      · refine .ite ?_ ?_
        · exact MemoriesOk.drainWcb ok
        · refine .ite ?_ ?_
          · exact .writeHome ok
          · split
            · exact .ite (MemoriesOk.writeCLine ok) (.lostWrite ok)
            · exact .lostWrite ok
    · dsimp only
      split
      · exact MemoriesOk.drainWcb ok
      · refine .ite ?_ ?_
        · exact MemoriesOk.drainWcb ok
        · refine .ite ?_ ?_
          · exact .writeHome ok
          · split
            · exact .ite (MemoriesOk.writeCLine ok) (MemoriesOk.askWrite (.noteWell ok))
            · exact MemoriesOk.askWrite (.noteWell ok)

theorem GotOk.writeLine {d : Line} {m : BitVec 64} (ok : MemoriesOk s) : GotOk (writeLine s r v scope d m tag) := by
  unfold Machine.writeLine
  split
  · exact .ite (.lostWrite ok) (.ite (.writeShared (.notePeer ok)) ok)
  · exact .ite (.lostWrite ok) (MemoriesOk.windowNote (.windowStore ok))
  · exact .writeShared ok
  · exact ok

theorem GotOk.atomicShared {off op size vv cc : Nat} (ok : MemoriesOk s) : GotOk (atomicShared s r v scope off op size vv cc tag) := by
  unfold Machine.atomicShared
  split
  · split
    · dsimp only
      split
      · exact MemoriesOk.drainWcb ok
      · refine .ite ?_ ?_
        · exact MemoriesOk.drainWcb ok
        · refine .ite ?_ ?_
          · exact MemoriesOk.takeAck ok ‹_›
          · split
            · exact .ite (MemoriesOk.writeCLine ok) (.ite (MemoriesOk.regrant ok) (.lostWrite ok))
            · exact .lostWrite ok
    · dsimp only
      split
      · exact MemoriesOk.drainWcb ok
      · refine .ite ?_ ?_
        · exact MemoriesOk.drainWcb ok
        · refine .ite ?_ ?_
          · exact MemoriesOk.takeAck ok ‹_›
          · split
            · exact .ite (MemoriesOk.writeCLine ok) (.ite (MemoriesOk.regrant ok) (MemoriesOk.askGrant (.noteWell ok)))
            · exact MemoriesOk.askGrant (.noteWell ok)
  · split
    · dsimp only
      split
      · exact MemoriesOk.drainWcb ok
      · refine .ite ?_ ?_
        · exact MemoriesOk.drainWcb ok
        · refine .ite ?_ ?_
          · exact .lostWrite ok
          · split
            · exact .ite (MemoriesOk.writeCLine ok) (.ite (MemoriesOk.regrant ok) (.lostWrite ok))
            · exact .lostWrite ok
    · dsimp only
      split
      · exact MemoriesOk.drainWcb ok
      · refine .ite ?_ ?_
        · exact MemoriesOk.drainWcb ok
        · refine .ite ?_ ?_
          · exact MemoriesOk.askTagged (.noteWell ok)
          · split
            · exact .ite (MemoriesOk.writeCLine ok) (.ite (MemoriesOk.regrant ok) (MemoriesOk.askGrant (.noteWell ok)))
            · exact MemoriesOk.askGrant (.noteWell ok)

theorem GotOk.atomicLine {off op size vv cc : Nat} (ok : MemoriesOk s) : GotOk (atomicLine s r v scope off op size vv cc tag) := by
  unfold Machine.atomicLine
  split
  · exact .ite (.lostWrite ok) (.ite (.atomicShared (.notePeer ok)) ok)
  · exact .ite (.lostWrite ok) (.ite (MemoriesOk.windowNote (.windowStore (.windowSync ok))) (MemoriesOk.windowSync ok))
  · exact .atomicShared ok
  · exact ok

theorem MemoriesOk.pushOut (ok : MemoriesOk s) : MemoriesOk (pushOut s r ln scope) := by
  unfold Machine.pushOut
  refine .ite ?_ ?_
  · exact ok
  · refine .ite ?_ ?_
    · exact .drainWcb ok
    · refine .ite ?_ ?_
      · refine .ite ?_ ?_
        · split
          · exact .ite (.performNarrow (fun _ _ _ _ ok1 => .publishDie ok1) ok) (.evictLine ok)
          · exact ok
        · exact .ite (.takeBack ok) (.ite (.settle (.drainWb ok)) (.evictLine ok))
      · exact ok

end Sys2Proof.Claims
end

section
/-!
# The canonical form of the memories: translation and the memory instructions of an element

One lemma for each operation of the model: it keeps the canonical form of the memories. They stand in the order of the model's definitions.
-/
namespace Sys2Proof.Claims
open Sys2Proof.Machine

variable {s : State} {e : Elem} {n pa r : Nat} {ch : BitVec 2} {rc : BitVec 3} {x : Ctx} {h : Hdr} {a d : Opnd} {pol : Policy} {sc : Scope}

theorem MemoriesOk.homeSync {ln : Nat} (ok : MemoriesOk s) : MemoriesOk (homeSync s ln).1 := by
  unfold Machine.homeSync
  refine .ite_fst ?_ ?_
  · exact .grantAck ok
  · refine .ite_fst ?_ ?_
    · exact .foldl_fst (.drainWb (.grantAck ok)) (fun _ _ ok1 => .ite_fst (.publishDie ok1) ok1)
    · refine .ite_fst ?_ ?_
      · exact .takeBack (.foldl_fst (.drainWb (.grantAck ok)) (fun _ _ ok1 => .ite_fst (.publishDie ok1) ok1))
      · refine .ite_fst ?_ ?_
        · exact .setDir (.ite (.storeHome (.with_free (.foldl_fst (.drainWb (.grantAck ok)) (fun _ _ ok1 => .ite_fst (.publishDie ok1)
            ok1)))) (.foldl_fst (.drainWb (.grantAck ok)) (fun _ _ ok1 => .ite_fst (.publishDie ok1) ok1)))
        · refine .ite_fst ?_ ?_
          · split
            · exact .setDir (.setCLine (.storeHome (.foldl_fst (.drainWb (.grantAck ok)) (fun _ _ ok1 => .ite_fst (.publishDie ok1) ok1))))
            · exact .foldl_fst (.drainWb (.grantAck ok)) (fun _ _ ok1 => .ite_fst (.publishDie ok1) ok1)
          · exact .foldl_fst (.drainWb (.grantAck ok)) (fun _ _ ok1 => .ite_fst (.publishDie ok1) ok1)

theorem MemoriesOk.engineSync (ok : MemoriesOk s) : MemoriesOk (engineSync s pa n).1 := by
  unfold Machine.engineSync
  refine .foldl_fst ok (fun _ _ ok1 => ?_)
  refine .ite_fst ?_ ?_
  · exact ok1
  · split
    · exact .homeSync ok1
    · exact .windowSync ok1
    · exact ok1

theorem MemoriesOk.engineWrite {bs : List Byte} (ok : MemoriesOk s) : MemoriesOk (engineWrite s pa bs) := by
  unfold Machine.engineWrite
  extract_lets a z whole s₁ lines
  have h₁ : MemoriesOk s₁ := .foldl ok fun _ _ ok => .settle (.recallLine (.homeSync ok))
  exact .noteHead ⟨memWrite_wf h₁.1 .., h₁.2⟩

theorem MemoriesOk.engineStore {bs : List Byte} (ok : MemoriesOk s) : MemoriesOk (engineStore s n pa bs).1 := by
  unfold Machine.engineStore
  split
  · exact .ite_fst ok (.foldl ok (fun _ _ ok1 => .askTagged ok1))
  · exact .ite_fst ok (.foldl ok (fun _ _ ok1 => .askTagged ok1))
  · exact .foldl ok (fun _ _ ok1 => .windowStore ok1)
  · exact ok

theorem MemoriesOk.clearSharers {len : Nat} (ok : MemoriesOk s) : MemoriesOk (clearSharers s n pa len).1 :=
  .ite_fst ok (.foldl ok (fun _ _ ok1 => .ite ok1 (.postReq ok1)))

theorem MemoriesOk.installWalk {w : WalkRun} {x : Xlat} (ok : MemoriesOk s) : MemoriesOk (installWalk s r w x) := .modR ok
theorem MemoriesOk.postFault {rec_ : BitVec 256} (ok : MemoriesOk s) : MemoriesOk (postFault s r rec_) := .modR ok

theorem MemoriesOk.advanceRun {w : WalkRun} (ok : MemoriesOk s) : MemoriesOk (advanceRun s r w).1 := by
  unfold Machine.advanceRun
  split
  · split
    · exact .takeAck ok ‹_›
    · exact .askTagged ok
  · exact ok

theorem MemoriesOk.advanceWalks (ok : MemoriesOk s) : MemoriesOk (advanceWalks s r) := .foldl ok (fun _ _ ok1 => .modR (.advanceRun ok1))
theorem MemoriesOk.dropWalk {w : WalkRun} (ok : MemoriesOk s) : MemoriesOk (dropWalk s r w) := .modR ok
theorem MemoriesOk.beginWalk {va : Nat} {a : XReq} (ok : MemoriesOk s) : MemoriesOk (beginWalk s r va a) := .modR ok

theorem XGotOk.translate {va : Nat} {a : XReq} (ok : MemoriesOk s) : XGotOk (translate s r va a) := by
  unfold Machine.translate
  have h : MemoriesOk (advanceWalks s r) := .advanceWalks ok
  refine .ite ok ?_
  split
  · split <;> exact ok
  dsimp only
  split
  · exact MemoriesOk.beginWalk h
  split
  · exact MemoriesOk.ite (.modR h) h
  · exact MemoriesOk.modR (.dropWalk h)
  · exact MemoriesOk.installWalk (.dropWalk h)

theorem SpadOk.issue {a : Access} (ok : SpadOk e) : SpadOk (issue e a) := by
  unfold Machine.issue
  split
  · exact .setPend ok
  · exact ok

theorem SpadOk.memBeat {m : MemOp} {k u : Nat} {imm : ℤ} {o : BeatOps} {data : Vec} (ok : SpadOk e) :
    SpadOk (memBeat x e m k u imm o data).elem := by
  unfold Machine.memBeat
  split
  · dsimp only
    split
    · exact ok
    · exact .issue ok
    · exact .ite_elem ok (.issue ok)
  · dsimp only
    split
    · exact ok
    · exact ok
    · exact .ite_elem ok (.issue ok)

theorem OutOk.fireMem {i : Instr} {m : MemOp} {exe : Exe} (ok : ExeOk exe) (ok1 : MemoriesOk s) : OutOk (fireMem i m exe s) := by
  unfold Machine.fireMem
  split
  · exact ok1
  · exact MemoriesOk.fireForm ok (fun _ _ ok2 => ok2) ok1

theorem OutOk.execLd {off : BitVec 6} (ok : MemoriesOk s) : OutOk (execLd h d a off rc ch sc pol s) := by
  unfold Machine.execLd
  exact .fireMem (fun _ _ _ _ _ ok1 => .memBeat ok1) ok

theorem OutOk.execSt {off : BitVec 6} (ok : MemoriesOk s) : OutOk (execSt h d a off rc ch sc pol s) := by
  unfold Machine.execSt
  exact .fireMem (fun _ _ _ _ _ ok1 => .memBeat ok1) ok

theorem OutOk.execLdfKeep {off : BitVec 6} (ok : MemoriesOk s) : OutOk (execLdfKeep h d a off rc ch s) := by
  unfold Machine.execLdfKeep
  exact .fireMem (fun _ _ _ _ _ ok1 => .memBeat ok1) ok

theorem OutOk.execLdfClr {off : BitVec 6} (ok : MemoriesOk s) : OutOk (execLdfClr h d a off rc ch s) := by
  unfold Machine.execLdfClr
  exact .fireMem (fun _ _ _ _ _ ok1 => .memBeat ok1) ok

theorem OutOk.execStf {off : BitVec 6} (ok : MemoriesOk s) : OutOk (execStf h d a off rc ch s) := by
  unfold Machine.execStf
  exact .fireMem (fun _ _ _ _ _ ok1 => .memBeat ok1) ok

theorem OutOk.execLdr {off : BitVec 6} (ok : MemoriesOk s) : OutOk (execLdr h d a off rc ch s) := by
  unfold Machine.execLdr
  exact .fireMem (fun _ _ _ _ _ ok1 => .memBeat ok1) ok

theorem OutOk.execFesetEmpty {off : BitVec 6} (ok : MemoriesOk s) : OutOk (execFesetEmpty h a off rc ch s) :=
  .fireMem (fun _ _ _ _ _ ok1 => .memBeat ok1) ok

theorem OutOk.execFesetFull {off : BitVec 6} (ok : MemoriesOk s) : OutOk (execFesetFull h a off rc ch s) :=
  .fireMem (fun _ _ _ _ _ ok1 => .memBeat ok1) ok

theorem SpadOk.barLine {ln : Nat} (ok : SpadOk e) : SpadOk (barLine e ln) := ok

theorem SpadOk.atomIssue {r : BeatRes} (ok : SpadOk r.elem) : SpadOk (atomIssue x r).elem := by
  unfold Machine.atomIssue
  split
  · split
    · refine .ite_elem ?_ ?_
      · split
        · exact .barLine ok
        · exact ok
      · exact ok
    · exact ok
  · exact ok

theorem OutOk.execAtom {op : BitVec 4} {size : BitVec 2} (ok : MemoriesOk s) : OutOk (execAtom h d a op size rc ch sc s) := by
  unfold Machine.execAtom
  exact .fireMem (fun _ _ _ _ _ ok1 => .atomIssue (.memBeat ok1)) ok

theorem SpadOk.gatherBeat {m : MemOp} {w k : Nat} {imm : ℤ} {o : BeatOps} {data : Vec} (ok : SpadOk e) :
    SpadOk (gatherBeat x e m w k imm o data).elem :=
  .ite ok (.issue ok)

theorem OutOk.execLdg {off : BitVec 6} (ok : MemoriesOk s) : OutOk (execLdg h d a off rc ch sc pol s) := by
  unfold Machine.execLdg
  exact .fireMem (fun _ _ _ _ _ ok1 => .gatherBeat ok1) ok

theorem OutOk.execSts {off : BitVec 6} (ok : MemoriesOk s) : OutOk (execSts h d a off rc ch sc pol s) := by
  unfold Machine.execSts
  exact .fireMem (fun _ _ _ _ _ ok1 => .gatherBeat ok1) ok

theorem SpadOk.releaseWaiter {off : Nat} (ok : SpadOk e) : SpadOk (releaseWaiter e off) := by
  unfold Machine.releaseWaiter
  split
  · exact .ite ok ok
  · exact ok

theorem BarOk.barrierUpdate {off darr dsec : Nat} (ok : SpadOk e) : BarOk (barrierUpdate e off darr dsec) := by
  unfold Machine.barrierUpdate
  extract_lets b r e₁ e₂
  have h₁ : SpadOk e₁ := memWrite_wf ok ..
  have h₂ : SpadOk e₂ := .ite (.releaseWaiter h₁) h₁
  refine .ite trivial (.ite trivial (?_ : SpadOk _))
  exact .ite h₂ h₂

theorem OutOk.execArrive {off : BitVec 6} (ok : MemoriesOk s) : OutOk (execArrive h a off rc ch sc s) := by
  unfold Machine.execArrive
  refine .fireMem (fun x e k o _ he => ?_) ok
  dsimp only
  split
  next ad _ _ =>
    refine .ite_elem ?_ (.memBeat he)
    refine .ite_elem (.with_held (.memBeat he)) ?_
    have hb : BarOk (barrierUpdate e ad 1 0) := .barrierUpdate he
    split
    · exact he
    next heq =>
      have hx : SpadOk _ := .of_applied hb heq
      exact .with_portBusy hx
    · exact .with_held (.memBeat he)
  · exact .memBeat he

theorem SpadOk.sealBeat (ok : SpadOk e) : SpadOk (sealBeat e n).elem := .ite_elem ok (.ite_elem (.ite_elem ok ok) ok)
theorem OutOk.execSeal (ok : MemoriesOk s) : OutOk (execSeal h rc ch s) := .fireMem (fun _ _ _ _ _ ok1 => .sealBeat ok1) ok

theorem OutOk.execRclaim (ok : MemoriesOk s) : OutOk (execRclaim h rc ch s) := by
  unfold Machine.execRclaim
  exact .fireWith (fun _ _ _ _ _ ok1 => .ite_elem ok1 ok1) (fun _ _ ok1 => ok1) ok

theorem OutOk.execPref {off : BitVec 6} (ok : MemoriesOk s) : OutOk (execPref h a off rc pol s) := by
  unfold Machine.execPref
  exact .fireMem (fun _ _ _ _ _ ok1 => .ite_elem ok1 (.ite_elem ok1 (.ite_elem ok1 (.issue ok1)))) ok

theorem OutOk.execInvl1 (ok : MemoriesOk s) : OutOk (execInvl1 h s) :=
  .fireMem (fun _ _ _ _ _ ok1 => .elemExe (fun _ _ _ _ ok2 => .invalL1 ok2) ok1) ok

theorem OutOk.execBrec (ok : MemoriesOk s) : OutOk (execBrec h d a rc s) := .fireMem (fun _ _ _ _ _ ok1 => .ite_elem ok1 ok1) ok
theorem MemoriesOk.pruneTouched {key : Nat} (ok : MemoriesOk s) : MemoriesOk (pruneTouched key s) := .modE ok (fun ok1 => ok1)

theorem OutOk.fireFence {i : Instr} {kind : Nat} (ok : MemoriesOk s) : OutOk (fireFence i kind sc s) :=
  .fireWith (fun _ _ _ _ _ ok1 => .elemExe (fun _ _ _ _ ok2 => .ite (.invalL1 ok2) ok2) ok1) (fun _ _ ok1 => .pruneTouched ok1) ok

theorem OutOk.execFenceFull (ok : MemoriesOk s) : OutOk (execFenceFull h sc s) := .fireFence ok
theorem OutOk.execFenceRel (ok : MemoriesOk s) : OutOk (execFenceRel h sc s) := .fireFence ok
theorem OutOk.execFenceAcq (ok : MemoriesOk s) : OutOk (execFenceAcq h sc s) := .fireFence ok

theorem OutOk.execTsync (ok : MemoriesOk s) : OutOk (execTsync h s) := by
  unfold Machine.execTsync
  exact .fireWith (fun _ _ _ _ _ ok1 => .elemExe (fun _ _ _ _ ok2 => .issue ok2) ok1) (fun _ _ ok1 => ok1) ok

end Sys2Proof.Claims
end

section
/-!
# The canonical form of the memories: regions and device registers

One lemma for each operation of the model: it keeps the canonical form of the memories. They stand in the order of the model's definitions.
-/
namespace Sys2Proof.Claims
open Sys2Proof.Machine

variable {s : State} {die n off owner r : Nat} {w : BitVec 64} {t : Token}

theorem MemoriesOk.setRingDesc {d : BitVec 512} (ok : MemoriesOk s) : MemoriesOk (setRingDesc s die n d) := ok.memWrite_mem _ _
theorem MemoriesOk.ringWrite {d : BitVec 512} {c : Nat} (ok : MemoriesOk s) : MemoriesOk (ringWrite s d c t) := ok.memWrite_mem _ _
theorem MemoriesOk.ringPush (ok : MemoriesOk s) : MemoriesOk (ringPush s die n t) := .setRingDesc (.ringWrite ok)
theorem MemoriesOk.ringPushBy (ok : MemoriesOk s) : MemoriesOk (ringPushBy s r die n t) := .windowNote (.ringPush ok)
theorem MemoriesOk.ringSync {j : Nat} (ok : MemoriesOk s) : MemoriesOk (ringSync s r die n j).1 := .windowSync ok
theorem MemoriesOk.ringPop {j : Nat} (ok : MemoriesOk s) : MemoriesOk (ringPop s die n j) := .setRingDesc ok
theorem MemoriesOk.gwUnit (ok : MemoriesOk s) : MemoriesOk (gwUnit s r) := .modR ok

theorem MemoriesOk.rebind (ok : MemoriesOk s) : MemoriesOk (rebind s r) :=
  .tmapElems (.foldl ok fun _ _ ok => .modE ok fun ok => .setQ ok) fun _ _ ok => .ite ok ok

theorem MemoriesOk.releaseSlots {w : Feeder} (ok : MemoriesOk s) : MemoriesOk (releaseSlots s r w) := .tmapElems ok fun _ _ ok => .ite ok ok

theorem MemoriesOk.disablePort (ok : MemoriesOk s) : MemoriesOk (disablePort s r n) :=
  .ite ok (.rebind (.modSeq (.releaseSlots (.modR (.ite (.setRingDesc ok) ok)))))

theorem SpadOk.zeroConfig {e : Elem} (ok : SpadOk e) : SpadOk (zeroConfig e) := ok
theorem SpadOk.clearElem {e : Elem} (ok : SpadOk e) : SpadOk (clearElem e) := .zeroConfig ok
theorem MemoriesOk.disablePorts (ok : MemoriesOk s) : MemoriesOk (disablePorts s r) := .foldl ok (fun _ _ ok1 => .disablePort ok1)

theorem MemoriesOk.clearRegion (ok : MemoriesOk s) : MemoriesOk (clearRegion s r) :=
  .modR (.tmapElems (.disablePorts ok) fun _ _ ok => .ite (.clearElem ok) ok)

theorem MemoriesOk.rejCmd (ok : MemoriesOk s) : MemoriesOk (rejCmd s r) := .modR ok
theorem MemoriesOk.beginStop {reason : BitVec 8} (ok : MemoriesOk s) : MemoriesOk (beginStop s r reason) := .modR ok

theorem MemoriesOk.prPreempt (ok : MemoriesOk s) : MemoriesOk (prPreempt s r) := by
  unfold Machine.prPreempt
  dsimp only
  split
  · exact .ite (.setR ok) (.rejCmd ok)
  · exact .ite (.rejCmd ok) (.ite (.setR ok) (.beginStop ok))
  · exact .rejCmd ok

theorem MemoriesOk.prRequest {reason : BitVec 8} {hold : Bool} (ok : MemoriesOk s) : MemoriesOk (prRequest s r reason hold) := by
  unfold Machine.prRequest
  dsimp only
  split
  · exact .ite (.setR ok) (.rejCmd ok)
  · exact .ite (.rejCmd ok) (.ite (.setR ok) (.beginStop ok))
  · exact .ite (.beginStop ok) (.rejCmd ok)
  · exact ok

theorem MemoriesOk.prRestore (ok : MemoriesOk s) : MemoriesOk (prRestore s r) := by
  unfold Machine.prRestore
  split
  · exact .modR ok
  · exact .modR ok
  · exact .modR ok
  · exact .rejCmd ok

theorem MemoriesOk.prRelease (ok : MemoriesOk s) : MemoriesOk (prRelease s r) := by
  unfold Machine.prRelease
  split
  · exact .clearRegion ok
  · exact .modR ok
  · exact .rejCmd ok

theorem MemoriesOk.prReserve (ok : MemoriesOk s) : MemoriesOk (prReserve s r) := by
  unfold Machine.prReserve
  split
  · exact .modR ok
  · exact .rejCmd ok

theorem MemoriesOk.prcmd {op : Nat} (ok : MemoriesOk s) : MemoriesOk (prcmd s r op) :=
  .ite (.prPreempt ok) (.ite (.prRestore ok) (.ite (.prRelease ok) (.ite (.prReserve ok) (.rejCmd ok))))

theorem OutOk.execPrcmdPreempt (ok : MemoriesOk s) : OutOk (execPrcmdPreempt r s) := .withUnit ok (fun _ ok1 => .prPreempt ok1)
theorem OutOk.execPrcmdRestore (ok : MemoriesOk s) : OutOk (execPrcmdRestore r s) := .withUnit ok (fun _ ok1 => .prRestore ok1)
theorem OutOk.execPrcmdRelease (ok : MemoriesOk s) : OutOk (execPrcmdRelease r s) := .withUnit ok (fun _ ok1 => .prRelease ok1)
theorem OutOk.execPrcmdReserve (ok : MemoriesOk s) : OutOk (execPrcmdReserve r s) := .withUnit ok (fun _ ok1 => .prReserve ok1)

theorem OutOk.execDrainTimerExpire (ok : MemoriesOk s) : OutOk (execDrainTimerExpire r s) := by
  unfold Machine.execDrainTimerExpire
  refine .withUnit ok (fun _ ok1 => ?_)
  dsimp only
  split
  · exact .ite (.prRequest (.setR ok1)) ok1
  · exact ok1

theorem OutOk.execDrawlimExpire (ok : MemoriesOk s) : OutOk (execDrawlimExpire r s) := by
  unfold Machine.execDrawlimExpire
  refine .withUnit ok (fun _ ok1 => ?_)
  dsimp only
  split
  · exact .ite (.beginStop ok1) ok1
  · exact ok1

theorem MemoriesOk.frmStart {f : Nat} (ok : MemoriesOk s) : MemoriesOk (frmStart s f) := .foldl ok (fun _ _ ok1 => .askTagged ok1)

theorem MemoriesOk.frmStep (ok : MemoriesOk s) : MemoriesOk (frmStep s) := by
  unfold Machine.frmStep
  split
  · exact ok
  · exact ok
  · refine .ite ?_ ?_
    · dsimp only
      split
      · exact ok
      · exact .frmStart ok
    · exact ok

theorem MemoriesOk.frmFree (ok : MemoriesOk s) : MemoriesOk (frmFree s w) :=
  .ite (.frmStep ok) (.ite (.with_frmWait (.frmStep ok)) (.frmStart (.frmStep ok)))

theorem MemoriesOk.blockWrite (ok : MemoriesOk s) : MemoriesOk (blockWrite s r off w) :=
  .ite (.prcmd ok) (.ite (.ite (.modR ok) ok) (.ite (.modR ok) (.ite (.ite (.modR ok) ok) (.ite (.ite (.modR ok) ok) ok))))

theorem MemoriesOk.rownWrite (ok : MemoriesOk s) : MemoriesOk (rownWrite s r w) := .modR ok
theorem MemoriesOk.logcfgWrite (ok : MemoriesOk s) : MemoriesOk (logcfgWrite s w) := ok
theorem MemoriesOk.pwrbudWrite (ok : MemoriesOk s) : MemoriesOk (pwrbudWrite s r w) := .modR ok
theorem MemoriesOk.opctlWrite (ok : MemoriesOk s) : MemoriesOk (opctlWrite s r w) := .ite ok (.modR ok)
theorem MemoriesOk.optctlWrite (ok : MemoriesOk s) : MemoriesOk (optctlWrite s w) := .ite ok ok
theorem MemoriesOk.goodWrite (ok : MemoriesOk s) : MemoriesOk (goodWrite s) := ok
theorem MemoriesOk.keylockWrite (ok : MemoriesOk s) : MemoriesOk (keylockWrite s w) := ok
theorem MemoriesOk.keyhashWrite {k j : Nat} (ok : MemoriesOk s) : MemoriesOk (keyhashWrite s k j w) := .ite ok ok

theorem MemoriesOk.regWrite (ok : MemoriesOk s) : MemoriesOk (regWrite s owner off w) :=
  .ite ok (.ite (.blockWrite ok) (.ite ok (.ite (.rownWrite ok) (.ite (.ite ok ok) (.ite (.logcfgWrite ok) (.ite ok (.ite (.ite (.goodWrite
    ok) ok) (.ite ok (.ite ok (.ite (.ite ok ok) (.ite ok (.ite ok (.ite (.ite (.pwrbudWrite ok) ok) (.ite (.opctlWrite ok) (.ite (.ite ok
    ok) (.ite (.optctlWrite ok) (.ite (.frmFree ok) (.ite ok (.ite (.ite (.keyhashWrite ok) ok) (.ite (.ite (.keylockWrite ok) ok)
    ok))))))))))))))))))))

theorem MemoriesOk.partWrite {low : Bool} (ok : MemoriesOk s) : MemoriesOk (partWrite s owner off low w) :=
  .ite (.regWrite ok) (.ite ok (.ite (.ite (.modR ok) ok) (.regWrite ok)))

theorem MemoriesOk.devWrite {bs : List Byte} (ok : MemoriesOk s) : MemoriesOk (devWrite s owner off bs) :=
  .foldl ok (fun _ _ ok1 => .partWrite ok1)

theorem MemoriesOk.devStore {region : Option Nat} {pa : Nat} {bs : List Byte} (ok : MemoriesOk s) :
    MemoriesOk (devStore s owner region pa bs) :=
  .ite (.devWrite ok) (.logPush ok)

theorem OutOk.execDeviceRegisterWrite {pa : Nat} (ok : MemoriesOk s) : OutOk (execDeviceRegisterWrite owner pa w s) :=
  MemoriesOk.ite (.ite (.regWrite ok) (.logPush ok)) ok

theorem OutOk.execRownWrite (ok : MemoriesOk s) : OutOk (execRownWrite r w s) := .withUnit ok (fun _ ok1 => .rownWrite ok1)
theorem OutOk.execOptctlClr (ok : MemoriesOk s) : OutOk (execOptctlClr owner s) := ok
theorem OutOk.execFrmfreeWrite (ok : MemoriesOk s) : OutOk (execFrmfreeWrite w s) := MemoriesOk.frmFree ok
theorem OutOk.execGood (ok : MemoriesOk s) : OutOk (execGood s) := MemoriesOk.goodWrite ok
theorem OutOk.execKeylockWrite (ok : MemoriesOk s) : OutOk (execKeylockWrite w s) := MemoriesOk.keylockWrite ok
theorem MemoriesOk.logDrop (ok : MemoriesOk s) : MemoriesOk (logDrop s) := ok

theorem OutOk.execLogRecordWrite (ok : MemoriesOk s) : OutOk (execLogRecordWrite s) := by
  unfold Machine.execLogRecordWrite
  refine (?_ : MemoriesOk _)
  split
  · exact ok
  dsimp only
  refine .ite (.logDrop ok) ?_
  split
  · exact .ite (.with_logQueue_logWr_msix (.engineStore ok)) (.engineStore ok)
  · exact .ite (.with_logQueue_logWr_msix (.engineStore ok)) (.engineStore ok)
  · exact .logDrop ok

theorem MemoriesOk.meterBoundary (ok : MemoriesOk s) : MemoriesOk (meterBoundary s) := by
  unfold Machine.meterBoundary
  split
  · exact .of_eq ok rfl rfl
  · exact ok

theorem OutOk.execMeterIntervalBoundary (ok : MemoriesOk s) : OutOk (execMeterIntervalBoundary s) := MemoriesOk.meterBoundary ok

end Sys2Proof.Claims
end

section
/-!
# The canonical form of the memories: accesses, channels and ports

One lemma for each operation of the model: it keeps the canonical form of the memories. They stand in the order of the model's definitions.
-/
namespace Sys2Proof.Claims
open Sys2Proof.Machine

variable {s : State} {e : Elem} {addr c el i id k key n q r st : Nat} {t : Token}

theorem MemoriesOk.modAcc {f : Access → Access} (ok : MemoriesOk s) : MemoriesOk (modAcc s key id f) := .modE ok (fun ok1 => ok1)
theorem MemoriesOk.dropAcc (ok : MemoriesOk s) : MemoriesOk (dropAcc s key id) := .modE ok (fun ok1 => ok1)
theorem MemoriesOk.faultAcc {c : BitVec 8} {ad : Nat} (ok : MemoriesOk s) : MemoriesOk (faultAcc s key id c ad) := .modAcc ok
theorem SpadOk.spadWrite {size v : Nat} (ok : SpadOk e) : SpadOk (spadWrite e addr size v) := memWrite_wf ok ..
theorem SpadOk.setFull {v : Bool} (ok : SpadOk e) : SpadOk (setFull e addr v) := ok
theorem SpadOk.countSeal {ns : List Nat} {f : Nat → Nat} (ok : SpadOk e) : SpadOk (countSeal e ns f) := .foldl ok (fun _ _ ok1 => ok1)

theorem XGotOk.accXlat {a : Access} (ok : MemoriesOk s) : XGotOk (accXlat s key a) := by
  unfold Machine.accXlat
  split
  · exact ok
  · dsimp only
    split
    · split <;> exact ok
    · split
      · exact MemoriesOk.modE (.with_free (.of_xok (.translate ok) ‹_›)) (fun ok1 => ok1)
      · exact .translate ok

theorem MemoriesOk.xlatFault {a : Access} {c : BitVec 8} {level : Nat} (ok : MemoriesOk s) : MemoriesOk (xlatFault s key a c level) := by
  unfold Machine.xlatFault
  split
  · exact .dropAcc (.postFault ok)
  · exact .faultAcc (.postFault ok)

theorem MemoriesOk.withXlat {a : Access} {f : State → Xlat → State} (ok : MemoriesOk s) (hf : ∀ s x1, MemoriesOk s → MemoriesOk (f s x1)) :
    MemoriesOk (withXlat s key a f) := by
  unfold Machine.withXlat
  split
  · exact hf _ _ (.modAcc (.of_xok (.accXlat ok) ‹_›))
  · exact .of_xwait (.accXlat ok) ‹_›
  · exact .xlatFault (.of_xfault (.accXlat ok) ‹_›)

theorem OutOk.accStep {f : Nat → Access → State} (ok : MemoriesOk s) (hf : ∀ x0 x1, MemoriesOk (f x0 x1)) :
    OutOk (accStep r st el i s f) := by
  unfold Machine.accStep
  refine .withUnit ok (fun _ ok1 => ?_)
  dsimp only
  split
  · exact .ite ok1 (hf _ _)
  · exact ok1

theorem OutOk.execTranslationWalkComplete (ok : MemoriesOk s) : OutOk (execTranslationWalkComplete r st el i s) :=
  .accStep ok (fun _ _ => .ite (.withXlat ok (fun _ _ ok1 => ok1)) ok)

theorem MemoriesOk.deliver {a : Access} (ok : MemoriesOk s) : MemoriesOk (deliver s key a) := by
  unfold Machine.deliver
  refine .modE ?_ (fun ok1 => .countSeal ok1)
  refine .modE ok (fun ok1 => ?_)
  split
  · exact .clearPend ok1
  · exact .sendLoad ok1
  · exact ok1

theorem MemoriesOk.lanesRead {a : Access} (ok : MemoriesOk s) : MemoriesOk (lanesRead s key a) := .modAcc ok
theorem MemoriesOk.laneDone {v : Vec} (ok : MemoriesOk s) : MemoriesOk (laneDone s key id v) := .modAcc ok

theorem MemoriesOk.regLoad {a : Access} {pa : Nat} (ok : MemoriesOk s) : MemoriesOk (regLoad s key a pa) :=
  .ite (.laneDone ok) (.faultAcc ok)

theorem MemoriesOk.readLane {a : Access} {x : Xlat} (ok : MemoriesOk s) : MemoriesOk (readLane s key a x) := by
  unfold Machine.readLane
  split
  · dsimp only
    split
    · exact .ite (.regLoad (.modAcc ok)) (.modAcc ok)
    · split
      · exact .laneDone (.modAcc ok)
      · refine .ite ?_ ?_
        · exact .modAcc ok
        · split
          · exact .of_wait (.readLine (.modAcc ok)) ‹_›
          · split
            · exact .dropAcc (.of_done (.readLine (.modAcc ok)) ‹_›)
            · exact .laneDone (.ite (.modE (.with_free (.of_done (.readLine (.modAcc ok)) ‹_›)) (fun ok1 => ok1)) (.of_done (.readLine
                (.modAcc ok)) ‹_›))
  · dsimp only
    split
    · exact .ite (.regLoad (.modAcc ok)) (.modAcc ok)
    · split
      · exact .laneDone (.modAcc ok)
      · refine .ite ?_ ?_
        · exact .modAcc ok
        · split
          · exact .of_wait (.readLine (.modAcc ok)) ‹_›
          · split
            · exact .faultAcc (.of_done (.readLine (.modAcc ok)) ‹_›)
            · exact .laneDone (.ite (.modE (.with_free (.of_done (.readLine (.modAcc ok)) ‹_›)) (fun ok1 => ok1)) (.of_done (.readLine
                (.modAcc ok)) ‹_›))

theorem MemoriesOk.atomLane {a : Access} {op size : Nat} {x : Xlat} (ok : MemoriesOk s) : MemoriesOk (atomLane s key a op size x) := by
  have h : MemoriesOk (Machine.modE s key fun e => barLine e ((viaOf x a.addr).pa / 64)) := .modE ok SpadOk.barLine
  unfold Machine.atomLane
  dsimp only
  split
  · exact .faultAcc ok
  refine .ite h ?_
  split
  next he => exact .of_wait (.atomicLine h) he
  next he =>
    have hd := MemoriesOk.of_done (.atomicLine h) he
    split
    · exact .faultAcc hd
    · exact .laneDone (.modE hd fun ok => .with_touched ok)

theorem MemoriesOk.loadReturn {a : Access} (ok : MemoriesOk s) : MemoriesOk (loadReturn s key a) := by
  unfold Machine.loadReturn
  refine .ite ?_ ?_
  · exact .ite (.deliver ok) ok
  · refine .ite ?_ ?_
    · exact .modAcc ok
    · split
      · exact .ite (.withXlat ok (fun _ _ ok1 => .readLane ok1)) (.ite (.lanesRead ok) ok)
      · exact .ite (.withXlat ok (fun _ _ ok1 => .readLane ok1)) (.ite (.lanesRead ok) ok)
      · exact .ite (.withXlat ok (fun _ _ ok1 => .readLane ok1)) (.ite (.lanesRead ok) ok)
      · exact .ite (.withXlat ok (fun _ _ ok1 => .atomLane ok1)) ok
      · exact ok

theorem OutOk.execLoadDataReturn (ok : MemoriesOk s) : OutOk (execLoadDataReturn r st el i s) :=
  .accStep ok (fun _ _ => .ite (.loadReturn ok) ok)

theorem SpadOk.l1Store {pol : Policy} {pa : Nat} {bs : List Byte} (ok : SpadOk e) : SpadOk (l1Store e pol pa bs) := ok
theorem MemoriesOk.storeDone {a : Access} (ok : MemoriesOk s) : MemoriesOk (storeDone s key a) := .ite (.dropAcc ok) (.laneDone ok)

theorem MemoriesOk.storeLane {a : Access} {x : Xlat} (ok : MemoriesOk s) : MemoriesOk (storeLane s key a x) := by
  unfold Machine.storeLane
  refine .ite ?_ ?_
  · exact ok
  · split
    · exact .ite (.storeDone (.devStore ok)) ok
    · split
      · dsimp only
        split
        · exact .of_wait (.writeLine ok) ‹_›
        · exact .storeDone (.modE (.of_done (.writeLine ok) ‹_›) (fun ok1 => .with_touched (.l1Store ok1)))
      · dsimp only
        split
        · exact .of_wait (.writeLine ok) ‹_›
        · exact .storeDone (.modE (.of_done (.writeLine ok) ‹_›) (fun ok1 => .with_touched (.l1Store ok1)))

theorem SpadOk.spadStore {a : Access} (ok : SpadOk e) : SpadOk (spadStore e a) := .foldl ok (fun _ _ ok1 => .ite ok1 (.spadWrite ok1))
theorem MemoriesOk.landPut {src : UpdFrom} (ok : MemoriesOk s) : MemoriesOk (landPut s key src addr) := .modE ok (fun ok1 => ok1)

theorem MemoriesOk.landed {src : UpdFrom} {f : Elem → Elem} (ok : MemoriesOk s) (hf : ∀ e, SpadOk e → SpadOk (f e)) :
    MemoriesOk (landed s key src addr f) :=
  .modE ok (fun ok1 => hf _ ok1)

theorem MemoriesOk.land {a : Access} {f : Elem → Elem} (ok : MemoriesOk s) (hf : ∀ e, SpadOk e → SpadOk (f e)) :
    MemoriesOk (land s key a f) :=
  .dropAcc (.landed ok (fun _ ok1 => hf _ ok1))

theorem MemoriesOk.globalStore {a : Access} (ok : MemoriesOk s) : MemoriesOk (globalStore s key a) := by
  unfold Machine.globalStore
  split
  · exact .withXlat (.modAcc ok) (fun _ _ ok1 => .modAcc ok1)
  · refine .ite ?_ ?_
    · exact .storeDone ok
    · split
      · exact .storeLane ok
      · exact ok

theorem MemoriesOk.writePerform {a : Access} (ok : MemoriesOk s) : MemoriesOk (writePerform s key a) := by
  unfold Machine.writePerform
  split
  · exact .ite (.globalStore ok) (.ite (.modE (.dropAcc ok) (fun ok1 => .spadStore ok1)) (.ite (.land ok (fun _ ok1 => .spadStore ok1)) ok))
  · exact .ite (.globalStore ok) (.ite (.modE (.dropAcc ok) (fun ok1 => .spadStore ok1)) (.ite (.land ok (fun _ ok1 => .spadStore ok1)) ok))
  · exact .ite (.modE (.dropAcc ok) (fun ok1 => .setFull ok1)) (.ite (.land ok (fun _ ok1 => .setFull ok1)) ok)
  · exact .ite (.modE (.modAcc ok) (fun ok1 => .spadWrite ok1)) ok
  · dsimp only
    split
    · exact .pushOut ok
    · exact .ite (.dropAcc ok) ok
  · exact ok

theorem MemoriesOk.seqStorePerform (ok : MemoriesOk s) : MemoriesOk (seqStorePerform s r i) := by
  unfold Machine.seqStorePerform
  dsimp only
  split
  · exact ok
  · refine .ite ?_ ?_
    · exact ok
    · split
      · exact .modSeq (.devStore ok)
      · split
        · exact .of_wait (.writeLine ok) ‹_›
        · exact .modSeq (.modSeq (.of_done (.writeLine ok) ‹_›))

theorem OutOk.execWritePerformed {w : Actor} (ok : MemoriesOk s) : OutOk (execWritePerformed r w i s) := by
  unfold Machine.execWritePerformed
  refine .withUnit ok (fun _ ok1 => ?_)
  split
  · split
    · exact .ite ok1 (.writePerform ok1)
    · exact ok1
  · exact .seqStorePerform ok1

theorem OutOk.execLateFault (ok : MemoriesOk s) : OutOk (execLateFault r st el i s) := by
  unfold Machine.execLateFault
  refine .withUnit ok (fun _ ok1 => ?_)
  dsimp only
  split
  · split
    · refine .ite ?_ ?_
      · refine .elemTrap ?_
        split
        · exact .modE (.dropAcc ok1) (fun ok2 => .clearPend ok2)
        · exact .dropAcc ok1
      · exact ok1
    · exact ok1
  · exact ok1

theorem SpadOk.portTake {who : Nat} (ok : SpadOk e) : SpadOk (portTake e who c) := ok
theorem SpadOk.portMiss {who : Nat} (ok : SpadOk e) : SpadOk (portMiss e who c) := ok

theorem MemoriesOk.usePort {who : Nat} {f : State → State} (ok : MemoriesOk s) (hf : ∀ s, MemoriesOk s → MemoriesOk (f s)) :
    MemoriesOk (usePort s key who f) :=
  .ite (hf _ (.modE ok (fun ok1 => .portTake ok1))) (.modE ok (fun ok1 => .portMiss ok1))

theorem MemoriesOk.portRequest {a : Access} (ok : MemoriesOk s) : MemoriesOk (portRequest s key a) := by
  unfold Machine.portRequest
  refine .ite ?_ ?_
  · exact ok
  · split
    · exact .ite ok (.usePort ok (fun _ ok1 => .ite (.faultAcc ok1) (.modAcc (.modE ok1 (fun ok2 => .countSeal ok2)))))
    · exact .usePort ok (fun _ ok1 => .ite (.faultAcc ok1) (.modAcc (.landPut ok1)))
    · exact .usePort ok (fun _ ok1 => .ite (.faultAcc ok1) (.modAcc (.landPut ok1)))
    · exact .usePort ok (fun _ ok1 => .ite (.faultAcc ok1) (.modAcc (.landPut ok1)))
    · exact ok

theorem OutOk.execExternalPortRequest (ok : MemoriesOk s) : OutOk (execExternalPortRequest r st el i s) :=
  .accStep ok (fun _ _ => .portRequest ok)

theorem OutOk.execLdfComplete (ok : MemoriesOk s) : OutOk (execLdfComplete r st el i s) := by
  unfold Machine.execLdfComplete
  refine .accStep ok (fun _ _ => ?_)
  split
  · exact .ite (.ite (.deliver ok) ok) (.ite ok (.ite (.ite ok (.deliver (.ite (.modE ok (fun ok1 => .setFull ok1)) ok))) (.modAcc ok)))
  · exact ok

theorem OutOk.execStfComplete (ok : MemoriesOk s) : OutOk (execStfComplete r st el i s) := by
  unfold Machine.execStfComplete
  refine .accStep ok fun key a => ?_
  dsimp only
  split
  · exact .ite ok (.ite (.ite ok (.modAcc (.landed ok fun _ ok => ok))) (.ite (.faultAcc ok) (.land ok fun _ ok => .setFull (.spadWrite
      ok))))
  · exact ok

theorem OutOk.execArriveSend (ok : MemoriesOk s) : OutOk (execArriveSend r st el i s) := by
  unfold Machine.execArriveSend
  refine .accStep ok (fun _ _ => ?_)
  refine .ite ?_ ?_
  · exact ok
  · refine .ite ?_ ?_
    · exact .modAcc ok
    · split
      · exact .pushOut ok
      · exact ok

theorem UpdOk.portUpdate {off who : Nat} {src : UpdFrom} {upd : Elem → BarRes} (ok : MemoriesOk s) (hupd : ∀ e, SpadOk e → BarOk (upd e)) :
    UpdOk (portUpdate s key off src who upd) := by
  have hb : BarOk (upd (Machine.getE s key)) := hupd _ ok.spad
  unfold Machine.portUpdate
  extract_lets c e here keep out
  have hkeep : MemoriesOk keep := .ite ok (.modE ok fun ok => ok)
  refine .ite (MemoriesOk.modE ok fun ok => .portMiss ok) (.ite hkeep ?_)
  split
  · exact MemoriesOk.modE ok fun ok => ok
  · exact hkeep
  next he =>
    have hx : SpadOk _ := .of_applied hb he
    exact MemoriesOk.setE ok hx

theorem OutOk.execBarrierUpdate (ok : MemoriesOk s) : OutOk (execBarrierUpdate r st el i s) := by
  unfold Machine.execBarrierUpdate
  refine .accStep ok (fun _ _ => ?_)
  refine .ite ?_ ?_
  · exact ok
  · refine .ite ?_ ?_
    · exact .faultAcc ok
    · split
      · exact .faultAcc (.of_updRefused (.portUpdate ok (fun _ ok1 => .barrierUpdate ok1)) ‹_›)
      · exact .of_updWait (.portUpdate ok (fun _ ok1 => .barrierUpdate ok1)) ‹_›
      · exact .dropAcc (.of_updDone (.portUpdate ok (fun _ ok1 => .barrierUpdate ok1)) ‹_›)

theorem MemoriesOk.enqueue {w : Feeder} (ok : MemoriesOk s) : MemoriesOk (enqueue s key q w t) := .modE ok (fun ok1 => .setQ ok1)

theorem OutOk.execNotifyTokenDeliver (ok : MemoriesOk s) : OutOk (execNotifyTokenDeliver r st el s) := by
  unfold Machine.execNotifyTokenDeliver
  refine .withUnit ok (fun _ ok1 => ?_)
  dsimp only
  split
  · exact ok1
  · exact .ite (.modE ok1 (fun ok2 => ok2)) (.ite ok1 (.usePort ok1 (fun _ ok2 => .enqueue (.modE ok2 (fun ok3 => ok3)))))

theorem OutOk.execEnterDraining (ok : MemoriesOk s) : OutOk (execEnterDraining r st el s) :=
  .withUnit ok (fun _ ok1 => .ite (.modE ok1 (fun ok2 => ok2)) ok1)

theorem SpadOk.toReconf (ok : SpadOk e) : SpadOk (toReconf e) := .ite ok ok

theorem OutOk.execEndOfWaveMarkerSend (ok : MemoriesOk s) : OutOk (execEndOfWaveMarkerSend r st el k s) :=
  .withUnit ok fun _ ok => .ite (.setE ok (.toReconf (.with_markers (.send ok.spad)))) ok

theorem OutOk.execMarkerReachesHead (ok : MemoriesOk s) : OutOk (execMarkerReachesHead r st el q s) := by
  unfold Machine.execMarkerReachesHead
  refine .withUnit ok (fun _ ok1 => ?_)
  refine .modE ok1 (fun ok2 => ?_)
  dsimp only
  split
  · exact .ite (.setQ ok2) ok2
  · exact ok2

theorem SpadOk.outTaken {j : Nat} (ok : SpadOk e) : SpadOk (outTaken e k j) := ok

theorem MemoriesOk.tokenDeliver {j : Nat} (ok : MemoriesOk s) : MemoriesOk (tokenDeliver s key k j) := by
  unfold Machine.tokenDeliver
  split
  · dsimp only
    split
    · split
      · split
        · exact .pushOut ok
        · exact ok
      · exact ok
    · exact ok
  · exact .ite (.ite ok (.enqueue (.modE ok (fun ok1 => .outTaken ok1)))) (.ite (.ite ok (.modR (.modE ok (fun ok1 => .outTaken ok1))))
      (.ite (.ite ok (.modR (.modE ok (fun ok1 => .outTaken ok1)))) ok))

theorem OutOk.execTokenDeliver {j : Nat} (ok : MemoriesOk s) : OutOk (execTokenDeliver r st el k j s) :=
  .withUnit ok (fun _ ok1 => .tokenDeliver ok1)

theorem MemoriesOk.creditReturn (ok : MemoriesOk s) : MemoriesOk (creditReturn s key q) := .modE ok (fun ok1 => .setQ ok1)
theorem OutOk.execCreditReturn (ok : MemoriesOk s) : OutOk (execCreditReturn r st el q s) := .withUnit ok (fun _ ok1 => .creditReturn ok1)

theorem MemoriesOk.portGrants (ok : MemoriesOk s) : MemoriesOk (portGrants s r) :=
  .foldl (.foldl (.foldl ok (fun _ _ ok1 => .ite (.modR ok1) ok1)) (fun _ _ ok1 => .ite ok1 (.foldl ok1 (fun _ _ ok2 => .modR ok2)))) (fun
    _ _ ok1 => .ite (.ite ok1 (.modR ok1)) (.modR (.ite ok1 (.modR ok1))))

theorem MemoriesOk.gwLog {ring die port : Nat} {out queue : Bool} (ok : MemoriesOk s) : MemoriesOk (gwLog s r ring die port out queue) :=
  .logPush ok

theorem MemoriesOk.nack (ok : MemoriesOk s) : MemoriesOk (nack s key k) := .elemTrap ok
theorem MemoriesOk.modPort {f : StreamPort → StreamPort} (ok : MemoriesOk s) : MemoriesOk (modPort s r n f) := .modR ok

theorem MemoriesOk.outboundWrite (ok : MemoriesOk s) : MemoriesOk (outboundWrite s r n) := by
  unfold Machine.outboundWrite
  dsimp only
  split
  · exact ok
  · exact .ite ok (.ite (.tellLoss (.logPush (.modPort ok))) (.ite (.nack (.gwLog (.modPort ok))) (.ite (.ite (.gwUnit (.ringPushBy
      (.modPort ok))) (.modPort ok)) (.gwUnit (.ringPushBy (.modPort ok))))))

theorem OutOk.execOutboundPortWrite (ok : MemoriesOk s) : OutOk (execOutboundPortWrite r n s) :=
  .withUnit ok (fun _ ok1 => .outboundWrite ok1)

theorem MemoriesOk.inboundMismatch (ok : MemoriesOk s) : MemoriesOk (inboundMismatch s r n) := .raiseAsync (.disablePort (.gwLog ok))
theorem MemoriesOk.inboundSync (ok : MemoriesOk s) : MemoriesOk (inboundSync s r n).1 := .ringSync ok
theorem MemoriesOk.inboundPop (ok : MemoriesOk s) : MemoriesOk (inboundPop s r n) := .gwUnit (.ringPop ok)
theorem MemoriesOk.portSend (ok : MemoriesOk s) : MemoriesOk (portSend s r n key q t) := .modPort ok
theorem MemoriesOk.portArrive {m : PortMove} (ok : MemoriesOk s) : MemoriesOk (portArrive s r n m) := .enqueue (.modPort ok)

theorem MemoriesOk.inboundDeliver (ok : MemoriesOk s) : MemoriesOk (inboundDeliver s r n) := by
  unfold Machine.inboundDeliver
  split
  · exact .portArrive ok
  · split
    · exact ok
    · exact .ite ok (.ite (.inboundMismatch ok) (.ite ok (.ite (.inboundSync ok) (.portSend (.inboundPop (.inboundSync ok))))))

theorem OutOk.execInboundPortDeliver (ok : MemoriesOk s) : OutOk (execInboundPortDeliver r n s) :=
  .withUnit ok (fun _ ok1 => .inboundDeliver ok1)

theorem MemoriesOk.dealTo (ok : MemoriesOk s) : MemoriesOk (dealTo s r n st t) := .portSend ok

theorem MemoriesOk.dealDeliver (ok : MemoriesOk s) : MemoriesOk (dealDeliver s r n) := by
  unfold Machine.dealDeliver
  split
  · dsimp only
    split
    · exact .portArrive ok
    · exact ok
    · refine .ite ?_ ?_
      · exact ok
      · split
        · exact .ite (.dealTo (.modPort ok)) ok
        · split
          · exact .dealTo (.modR ok)
          · exact ok
  · split
    · dsimp only
      split
      · exact .portArrive ok
      · exact ok
      · refine .ite ?_ ?_
        · exact ok
        · split
          · exact .ite (.dealTo (.modPort ok)) ok
          · split
            · exact .dealTo (.modR ok)
            · exact .inboundMismatch ok
    · split
      · dsimp only
        split
        · exact .portArrive ok
        · exact ok
        · refine .ite ?_ ?_
          · exact ok
          · split
            · exact .ite (.dealTo (.modPort ok)) ok
            · split
              · exact .dealTo (.modR ok)
              · exact .ite (.inboundSync ok) (.modPort (.inboundPop (.inboundSync ok)))
      · split
        · dsimp only
          split
          · exact .portArrive ok
          · exact ok
          · refine .ite ?_ ?_
            · exact ok
            · split
              · exact .ite (.dealTo (.modPort ok)) ok
              · split
                · exact .dealTo (.modR ok)
                · refine .ite ?_ ?_
                  · exact .inboundSync ok
                  · split
                    · exact .inboundSync ok
                    · exact .modPort (.dealTo (.inboundPop (.inboundSync ok)))
        · dsimp only
          split
          · exact .portArrive ok
          · exact ok
          · refine .ite ?_ ?_
            · exact ok
            · split
              · exact .ite (.dealTo (.modPort ok)) ok
              · split
                · exact .dealTo (.modR ok)
                · refine .ite ?_ ?_
                  · exact .inboundSync ok
                  · split
                    · exact .inboundSync ok
                    · exact .modPort (.dealTo (.inboundPop (.inboundSync ok)))

theorem OutOk.execDealPortDeliver (ok : MemoriesOk s) : OutOk (execDealPortDeliver r n s) := .withUnit ok (fun _ ok1 => .dealDeliver ok1)
theorem MemoriesOk.heldTick (ok : MemoriesOk s) : MemoriesOk (heldTick s r) := .ite ok (.ite ok (.setR ok))

theorem MemoriesOk.detachRoute {j : Nat} (ok : MemoriesOk s) : MemoriesOk (detachRoute s key k j) :=
  .raiseAsync (.rebind (.ite (.modE ok (fun ok1 => ok1)) (.modE (.modE ok (fun ok1 => ok1)) (fun ok1 => .setQ ok1))))

theorem MemoriesOk.detachRing {die ring : Nat} (ok : MemoriesOk s) : MemoriesOk (detachRing s r n die ring c) :=
  .raiseAsync (.ite (.disablePort (.setRingDesc ok)) (.modSeq (.setRingDesc ok)))

theorem OutOk.execStreamDetach {w : DetachWho} (ok : MemoriesOk s) : OutOk (execStreamDetach w s) := by
  unfold Machine.execStreamDetach
  split
  · exact .withUnit ok fun _ ok => .ite (.modR (.detachRoute ok)) ok
  next die ring c =>
    refine (?_ : MemoriesOk _)
    split
    · exact .modR (.detachRing ok)
    · exact ok

end Sys2Proof.Claims
end

section
/-!
# The canonical form of the memories: instructions of the sequencer

One lemma for each operation of the model: it keeps the canonical form of the memories. They stand in the order of the model's definitions.
-/
namespace Sys2Proof.Claims
open Sys2Proof.Machine

variable {s : State} {kind n r va : Nat}

theorem OutOk.seqDo {f : Nat → Machine.Seq → State} (_ : MemoriesOk s) (hf : ∀ x0 x1, MemoriesOk (f x0 x1)) : OutOk (seqDo s f) := hf _ _
theorem MemoriesOk.seqNext {f : Machine.Seq → Machine.Seq} (ok : MemoriesOk s) : MemoriesOk (seqNext s r f) := .modSeq ok
theorem MemoriesOk.seqPut {d : BitVec 5} {v : BitVec 64} (ok : MemoriesOk s) : MemoriesOk (seqPut s r d v) := .seqNext ok
theorem MemoriesOk.seqReserved (ok : MemoriesOk s) : MemoriesOk (seqReserved s r) := .seqTrap ok

theorem OutOk.seqPriv {f : Nat → Machine.Seq → State} (ok : MemoriesOk s) (hf : ∀ x0 x1, MemoriesOk (f x0 x1)) : OutOk (seqPriv s f) :=
  .seqDo ok (fun _ _ => .ite (hf _ _) (.seqTrap ok))

theorem MemoriesOk.seqGotThen {g : SeqGot} {f : State → List Byte → State} (ok : SeqGotOk g)
    (hf : ∀ s x1, MemoriesOk s → MemoriesOk (f s x1)) : MemoriesOk (SeqGot.then g r f) := by
  unfold Machine.SeqGot.then
  split
  · exact hf _ _ ok
  · exact ok
  · exact ok

theorem MemoriesOk.seqIssued (ok : MemoriesOk s) : MemoriesOk (seqIssued s r) := .modSeq ok

theorem SeqGotOk.seqGotIssued {g : SeqGot} (ok : SeqGotOk g) : SeqGotOk (SeqGot.issued g r) := by
  unfold Machine.SeqGot.issued
  split <;> exact ok

theorem XGotOk.seqXlat (ok : MemoriesOk s) : XGotOk (seqXlat s r va kind) := by
  unfold Machine.seqXlat
  split
  · dsimp only
    split
    · exact MemoriesOk.of_xfault (.translate ok) ‹_›
    · exact .translate ok
  · dsimp only
    split
    · exact MemoriesOk.postFault (.of_xfault (.translate ok) ‹_›)
    · exact .translate ok

theorem XGotOk.seqUse (ok : MemoriesOk s) : XGotOk (seqUse s r va kind) := by
  unfold Machine.seqUse
  split
  · exact .ite ok (.seqXlat ok)
  · exact .seqXlat ok

theorem MemoriesOk.seqHold {x : Xlat} (ok : MemoriesOk s) : MemoriesOk (seqHold s r va x) := .modSeq ok
theorem MemoriesOk.seqRelease (ok : MemoriesOk s) : MemoriesOk (seqRelease s r) := .modSeq ok

theorem SeqGotOk.seqLoadLine (ok : MemoriesOk s) : SeqGotOk (seqLoadLine s r va n) := by
  unfold Machine.seqLoadLine
  split
  · exact MemoriesOk.of_xwait (.seqUse ok) ‹_›
  · exact MemoriesOk.of_xfault (.seqUse ok) ‹_›
  · refine .ite ?_ ?_
    · exact MemoriesOk.of_xok (.seqUse ok) ‹_›
    · split
      · exact .ite (MemoriesOk.of_xok (.seqUse ok) ‹_›) (.ite (MemoriesOk.of_xok (.seqUse ok) ‹_›) (MemoriesOk.of_xok (.seqUse ok) ‹_›))
      · split
        · exact MemoriesOk.of_xok (.seqUse ok) ‹_›
        · split
          · exact MemoriesOk.seqHold (.of_wait (.readLine (.of_xok (.seqUse ok) ‹_›)) ‹_›)
          · split
            · exact MemoriesOk.seqRelease (.of_done (.readLine (.of_xok (.seqUse ok) ‹_›)) ‹_›)
            · exact MemoriesOk.ite (.seqRelease (.of_done (.readLine (.of_xok (.seqUse ok) ‹_›)) ‹_›)) (.modSeq (.with_free (.seqRelease
                (.of_done (.readLine (.of_xok (.seqUse ok) ‹_›)) ‹_›))))

theorem SeqGotOk.seqLoad (ok : MemoriesOk s) : SeqGotOk (seqLoad s r va n) := by
  unfold Machine.seqLoad
  refine .ite ?_ ?_
  · exact ok
  · refine .ite ?_ ?_
    · exact ok
    · split
      · exact MemoriesOk.of_sok (.seqLoadLine ok) ‹_›
      · exact .seqLoadLine ok

theorem SeqGotOk.readLines {fuel : Nat} {acc : List Byte} (ok : MemoriesOk s) : SeqGotOk (readLines r fuel s va n acc) := by
  induction fuel generalizing s va n acc with
  | zero =>
    exact ok
  | succ fuel ih =>
    unfold Machine.readLines
    refine .ite ?_ ?_
    · exact ok
    · split
      · exact ih ok
      · refine .ite ?_ ?_
        · exact ok
        · split
          · exact ih (.modSeq (.of_sok (.seqLoadLine ok) ‹_›))
          · exact .seqLoadLine ok

theorem SeqGotOk.seqRecord (ok : MemoriesOk s) : SeqGotOk (seqRecord s r va n) := .readLines ok

theorem MemoriesOk.seqPush {scope : Nat} (ok : MemoriesOk s) : MemoriesOk (seqPush s r scope) := by
  unfold Machine.seqPush
  dsimp only
  split
  · exact .seqStorePerform ok
  · split
    · exact .pushOut ok
    · exact ok

theorem MemoriesOk.afterWrites {scope : Nat} {f : State → State} (ok : MemoriesOk s) (hf : ∀ s, MemoriesOk s → MemoriesOk (f s)) :
    MemoriesOk (afterWrites s r scope f) :=
  .ite (hf _ (.modSeq ok)) (.seqPush ok)

theorem MemoriesOk.seqWait (ok : MemoriesOk s) : MemoriesOk (seqWait s r) := .modSeq ok

theorem OutOk.alu2 {d a b : BitVec 5} {f : BitVec 64 → BitVec 64 → BitVec 64} (ok : MemoriesOk s) : OutOk (alu2 d a b f s) :=
  .seqDo ok (fun _ _ => .seqPut ok)

theorem OutOk.alu1 {d a : BitVec 5} {f : BitVec 64 → BitVec 64} (ok : MemoriesOk s) : OutOk (alu1 d a f s) :=
  .seqDo ok (fun _ _ => .seqPut ok)

theorem OutOk.execSeqAdd {d a b : BitVec 5} (ok : MemoriesOk s) : OutOk (execSeqAdd d a b s) := .alu2 ok
theorem OutOk.execSeqSub {d a b : BitVec 5} (ok : MemoriesOk s) : OutOk (execSeqSub d a b s) := .alu2 ok
theorem OutOk.execSeqAnd {d a b : BitVec 5} (ok : MemoriesOk s) : OutOk (execSeqAnd d a b s) := .alu2 ok
theorem OutOk.execSeqOr {d a b : BitVec 5} (ok : MemoriesOk s) : OutOk (execSeqOr d a b s) := .alu2 ok
theorem OutOk.execSeqXor {d a b : BitVec 5} (ok : MemoriesOk s) : OutOk (execSeqXor d a b s) := .alu2 ok
theorem OutOk.execSeqShl {d a b : BitVec 5} (ok : MemoriesOk s) : OutOk (execSeqShl d a b s) := .alu2 ok
theorem OutOk.execSeqShr {d a b : BitVec 5} (ok : MemoriesOk s) : OutOk (execSeqShr d a b s) := .alu2 ok
theorem OutOk.execSeqSar {d a b : BitVec 5} (ok : MemoriesOk s) : OutOk (execSeqSar d a b s) := .alu2 ok
theorem OutOk.execSeqMul {d a b : BitVec 5} (ok : MemoriesOk s) : OutOk (execSeqMul d a b s) := .alu2 ok
theorem OutOk.execSeqMulh {d a b : BitVec 5} (ok : MemoriesOk s) : OutOk (execSeqMulh d a b s) := .alu2 ok
theorem OutOk.execSeqMulhu {d a b : BitVec 5} (ok : MemoriesOk s) : OutOk (execSeqMulhu d a b s) := .alu2 ok
theorem OutOk.execDiv {d a b : BitVec 5} (ok : MemoriesOk s) : OutOk (execDiv d a b s) := .alu2 ok
theorem OutOk.execDivu {d a b : BitVec 5} (ok : MemoriesOk s) : OutOk (execDivu d a b s) := .alu2 ok
theorem OutOk.execRem {d a b : BitVec 5} (ok : MemoriesOk s) : OutOk (execRem d a b s) := .alu2 ok
theorem OutOk.execRemu {d a b : BitVec 5} (ok : MemoriesOk s) : OutOk (execRemu d a b s) := .alu2 ok
theorem OutOk.execSeqMin {d a b : BitVec 5} (ok : MemoriesOk s) : OutOk (execSeqMin d a b s) := .alu2 ok
theorem OutOk.execSeqMax {d a b : BitVec 5} (ok : MemoriesOk s) : OutOk (execSeqMax d a b s) := .alu2 ok
theorem OutOk.execSeqMinu {d a b : BitVec 5} (ok : MemoriesOk s) : OutOk (execSeqMinu d a b s) := .alu2 ok
theorem OutOk.execSeqMaxu {d a b : BitVec 5} (ok : MemoriesOk s) : OutOk (execSeqMaxu d a b s) := .alu2 ok
theorem OutOk.execSlt {d a b : BitVec 5} (ok : MemoriesOk s) : OutOk (execSlt d a b s) := .alu2 ok
theorem OutOk.execSltu {d a b : BitVec 5} (ok : MemoriesOk s) : OutOk (execSltu d a b s) := .alu2 ok
theorem OutOk.execSeqClz {d a : BitVec 5} (ok : MemoriesOk s) : OutOk (execSeqClz d a s) := .alu1 ok
theorem OutOk.execSeqPopc {d a : BitVec 5} (ok : MemoriesOk s) : OutOk (execSeqPopc d a s) := .alu1 ok
theorem OutOk.execSeqAddi {d a : BitVec 5} {i : BitVec 16} (ok : MemoriesOk s) : OutOk (execSeqAddi d a i s) := .alu1 ok
theorem OutOk.execSeqAndi {d a : BitVec 5} {i : BitVec 16} (ok : MemoriesOk s) : OutOk (execSeqAndi d a i s) := .alu1 ok
theorem OutOk.execSeqOri {d a : BitVec 5} {i : BitVec 16} (ok : MemoriesOk s) : OutOk (execSeqOri d a i s) := .alu1 ok
theorem OutOk.execSeqXori {d a : BitVec 5} {i : BitVec 16} (ok : MemoriesOk s) : OutOk (execSeqXori d a i s) := .alu1 ok
theorem OutOk.execSeqShli {d a : BitVec 5} {n : BitVec 6} (ok : MemoriesOk s) : OutOk (execSeqShli d a n s) := .alu1 ok
theorem OutOk.execSeqShri {d a : BitVec 5} {n : BitVec 6} (ok : MemoriesOk s) : OutOk (execSeqShri d a n s) := .alu1 ok
theorem OutOk.execSeqSari {d a : BitVec 5} {n : BitVec 6} (ok : MemoriesOk s) : OutOk (execSeqSari d a n s) := .alu1 ok
theorem OutOk.execSlti {d a : BitVec 5} {i : BitVec 16} (ok : MemoriesOk s) : OutOk (execSlti d a i s) := .alu1 ok
theorem OutOk.execLhi {d : BitVec 5} {i : BitVec 16} (ok : MemoriesOk s) : OutOk (execLhi d i s) := .seqDo ok (fun _ _ => .seqPut ok)

theorem OutOk.branch {a b : BitVec 5} {o : BitVec 16} {c : BitVec 64 → BitVec 64 → Bool} (ok : MemoriesOk s) : OutOk (branch a b o c s) :=
  .seqDo ok (fun _ _ => .modSeq ok)

theorem OutOk.execBeq {a b : BitVec 5} {o : BitVec 16} (ok : MemoriesOk s) : OutOk (execBeq a b o s) := .branch ok
theorem OutOk.execBne {a b : BitVec 5} {o : BitVec 16} (ok : MemoriesOk s) : OutOk (execBne a b o s) := .branch ok
theorem OutOk.execBlt {a b : BitVec 5} {o : BitVec 16} (ok : MemoriesOk s) : OutOk (execBlt a b o s) := .branch ok
theorem OutOk.execBge {a b : BitVec 5} {o : BitVec 16} (ok : MemoriesOk s) : OutOk (execBge a b o s) := .branch ok
theorem OutOk.execBltu {a b : BitVec 5} {o : BitVec 16} (ok : MemoriesOk s) : OutOk (execBltu a b o s) := .branch ok
theorem OutOk.execBgeu {a b : BitVec 5} {o : BitVec 16} (ok : MemoriesOk s) : OutOk (execBgeu a b o s) := .branch ok
theorem OutOk.execJmp {o : BitVec 26} (ok : MemoriesOk s) : OutOk (execJmp o s) := .seqDo ok (fun _ _ => .modSeq ok)
theorem OutOk.execJal {o : BitVec 26} (ok : MemoriesOk s) : OutOk (execJal o s) := .seqDo ok (fun _ _ => .modSeq ok)
theorem OutOk.execJr {d a : BitVec 5} (ok : MemoriesOk s) : OutOk (execJr d a s) := .seqDo ok (fun _ _ => .ite (.seqTrap ok) (.modSeq ok))

theorem MemoriesOk.withAddr {va : ℤ} {f : Nat → State} (ok : MemoriesOk s) (hf : ∀ x0, MemoriesOk (f x0)) :
    MemoriesOk (withAddr s r va f) :=
  .ite (.seqTrap ok) (hf _)

theorem OutOk.loadN {d a : BitVec 5} {i : BitVec 16} (ok : MemoriesOk s) : OutOk (loadN n d a i s) :=
  .seqDo ok (fun _ _ => .withAddr ok (fun _ => .seqGotThen (.seqGotIssued (.seqLoad ok)) (fun _ _ ok1 => .seqPut ok1)))

theorem OutOk.execLdb {d a : BitVec 5} {i : BitVec 16} (ok : MemoriesOk s) : OutOk (execLdb d a i s) := .loadN ok
theorem OutOk.execLdh {d a : BitVec 5} {i : BitVec 16} (ok : MemoriesOk s) : OutOk (execLdh d a i s) := .loadN ok
theorem OutOk.execLdw {d a : BitVec 5} {i : BitVec 16} (ok : MemoriesOk s) : OutOk (execLdw d a i s) := .loadN ok
theorem OutOk.execLdd {d a : BitVec 5} {i : BitVec 16} (ok : MemoriesOk s) : OutOk (execLdd d a i s) := .loadN ok

theorem OutOk.execLdl {d : BitVec 5} {i : BitVec 16} (ok : MemoriesOk s) : OutOk (execLdl d i s) :=
  .seqDo ok (fun _ _ => .withAddr ok (fun _ => .seqGotThen (.seqGotIssued (.seqLoad ok)) (fun _ _ ok1 => .seqPut ok1)))

theorem OutOk.storeN {d a : BitVec 5} {i : BitVec 16} (ok : MemoriesOk s) : OutOk (storeN n d a i s) := by
  unfold Machine.storeN
  refine .seqDo ok (fun _ _ => ?_)
  refine .withAddr ok (fun _ => ?_)
  refine .ite ?_ ?_
  · exact .seqTrap ok
  · split
    · exact .seqIssued (.of_xwait (.seqXlat ok) ‹_›)
    · exact .seqTrap (.of_xfault (.seqXlat ok) ‹_›)
    · exact .seqNext (.of_xok (.seqXlat ok) ‹_›)

theorem OutOk.execStb {d a : BitVec 5} {i : BitVec 16} (ok : MemoriesOk s) : OutOk (execStb d a i s) := .storeN ok
theorem OutOk.execSth {d a : BitVec 5} {i : BitVec 16} (ok : MemoriesOk s) : OutOk (execSth d a i s) := .storeN ok
theorem OutOk.execStw {d a : BitVec 5} {i : BitVec 16} (ok : MemoriesOk s) : OutOk (execStw d a i s) := .storeN ok
theorem OutOk.execStd {d a : BitVec 5} {i : BitVec 16} (ok : MemoriesOk s) : OutOk (execStd d a i s) := .storeN ok

theorem OutOk.execSeqAtom {d a b : BitVec 5} {c : BitVec 3} {z : BitVec 2} {o : BitVec 4} (ok : MemoriesOk s) :
    OutOk (execSeqAtom d a b c z o s) := by
  unfold Machine.execSeqAtom
  refine .seqDo ok (fun _ _ => ?_)
  refine .ite ?_ ?_
  · exact .seqTrap ok
  · refine .ite ?_ ?_
    · exact .seqReserved ok
    · refine .withAddr ok (fun _ => ?_)
      refine .ite ?_ ?_
      · exact .seqTrap ok
      · split
        · exact .seqIssued (.of_xwait (.seqUse ok) ‹_›)
        · exact .seqTrap (.of_xfault (.seqUse ok) ‹_›)
        · refine .ite ?_ ?_
          · exact .seqIssued (.of_xok (.seqUse ok) ‹_›)
          · split
            · exact .seqTrap (.of_xok (.seqUse ok) ‹_›)
            · dsimp only
              split
              · exact .seqIssued (.seqHold (.of_wait (.atomicLine (.modSeq (.of_xok (.seqUse ok) ‹_›))) ‹_›))
              · split
                · exact .seqTrap (.of_done (.atomicLine (.modSeq (.of_xok (.seqUse ok) ‹_›))) ‹_›)
                · exact .seqNext (.of_done (.atomicLine (.modSeq (.of_xok (.seqUse ok) ‹_›))) ‹_›)

theorem OutOk.seqFence {c : BitVec 3} (ok : MemoriesOk s) : OutOk (seqFence kind c s) :=
  .seqDo ok (fun _ _ => .ite (.seqReserved ok) (.ite (.seqNext ok) (.afterWrites ok (fun _ ok1 => .seqNext ok1))))

theorem OutOk.execSeqFenceFull {c : BitVec 3} (ok : MemoriesOk s) : OutOk (execSeqFenceFull c s) := .seqFence ok
theorem OutOk.execSeqFenceRel {c : BitVec 3} (ok : MemoriesOk s) : OutOk (execSeqFenceRel c s) := .seqFence ok
theorem OutOk.execSeqFenceAcq {c : BitVec 3} (ok : MemoriesOk s) : OutOk (execSeqFenceAcq c s) := .seqFence ok

theorem OutOk.execSeqTsync (ok : MemoriesOk s) : OutOk (execSeqTsync s) :=
  .seqDo ok (fun _ _ => .afterWrites ok (fun _ ok1 => .seqNext ok1))

end Sys2Proof.Claims
end

section
/-!
# The canonical form of the memories: matrix islands and pumps

One lemma for each operation of the model: it keeps the canonical form of the memories. They stand in the order of the model's definitions.
-/
namespace Sys2Proof.Claims
open Sys2Proof.Machine

variable {s : State} {c i id m n p r : Nat} {u : Run}

theorem MemoriesOk.modM {f : Island → Island} (ok : MemoriesOk s) : MemoriesOk (modM s r m f) := .modR ok

theorem OutOk.islandStep {f : Region → Island → State} (ok : MemoriesOk s) (hf : ∀ x0 x1, MemoriesOk (f x0 x1)) :
    OutOk (islandStep r m s f) :=
  .withUnit ok (fun _ _ => hf _ _)

theorem MemoriesOk.ctxFault {v : BitVec 64} (ok : MemoriesOk s) : MemoriesOk (ctxFault s r m c v) := .raiseAsync (.modM ok)

theorem MemoriesOk.tileFault {t detail : Nat} {cause : BitVec 8} (ok : MemoriesOk s) : MemoriesOk (tileFault s r m u t cause detail) :=
  .ite (.modM ok) (.ctxFault (.modM ok))

theorem MemoriesOk.operandFetch {side : Bool} {vec g : Nat} (ok : MemoriesOk s) : MemoriesOk (operandFetch s r m c side vec g) := by
  unfold Machine.operandFetch
  refine .ite ?_ ?_
  · exact ok
  · split
    · exact .modM ok
    · split
      · exact .modM ok
      · split
        · exact .tileFault (.modM ok)
        · exact .modM ok
        · refine .ite ?_ ?_
          · exact .modM ok
          · refine .usePort (.modM ok) (fun _ ok1 => ?_)
            refine .ite ?_ ?_
            · refine .foldl ok1 (fun _ _ ok2 => ?_)
              split
              · exact .tileFault ok2
              · exact ok2
            · exact .foldl ok1 (fun _ _ ok2 => .modM (.modE ok2 (fun ok3 => .countSeal ok3)))

theorem OutOk.execMatrixOperandFetch {side : Bool} {vec g : Nat} (ok : MemoriesOk s) : OutOk (execMatrixOperandFetch r m c side vec g s) :=
  .withUnit ok (fun _ ok1 => .operandFetch ok1)

theorem MemoriesOk.fetchReturn (ok : MemoriesOk s) : MemoriesOk (fetchReturn s r m n) := by
  unfold Machine.fetchReturn
  split
  · exact ok
  · exact .ite ok (.modM (.modE ok (fun ok1 => .countSeal ok1)))

theorem OutOk.execMatrixFetchReturn (ok : MemoriesOk s) : OutOk (execMatrixFetchReturn r m n s) :=
  .withUnit ok (fun _ ok1 => .fetchReturn ok1)

theorem MemoriesOk.operandStage {side : Bool} (ok : MemoriesOk s) : MemoriesOk (operandStage s r m c side) := by
  unfold Machine.operandStage
  dsimp only
  split
  · exact ok
  · refine .ite ?_ ?_
    · exact .modR ok
    · split
      · exact .ite ok (.modM (.modR ok))
      · exact ok

theorem OutOk.execMatrixOperandStage {side : Bool} (ok : MemoriesOk s) : OutOk (execMatrixOperandStage r m c side s) :=
  .withUnit ok (fun _ ok1 => .operandStage ok1)

theorem MemoriesOk.blockStep (ok : MemoriesOk s) : MemoriesOk (blockStep s r m) := by
  unfold Machine.blockStep
  dsimp only
  split
  · split
    · exact .ite ok (.modM ok)
    · exact ok
  · exact ok

theorem OutOk.execMatrixBlockStep (ok : MemoriesOk s) : OutOk (execMatrixBlockStep r m s) := .withUnit ok (fun _ ok1 => .blockStep ok1)

theorem MemoriesOk.zeroTile (ok : MemoriesOk s) : MemoriesOk (zeroTile s r m) := by
  unfold Machine.zeroTile
  dsimp only
  split
  · exact .ite (.modM ok) ok
  · exact ok

theorem OutOk.execMatrixZeroTile (ok : MemoriesOk s) : OutOk (execMatrixZeroTile r m s) := .withUnit ok (fun _ ok1 => .zeroTile ok1)

theorem MemoriesOk.mxXlat {t va kind : Nat} {f : State → Xlat → State} (ok : MemoriesOk s) (hf : ∀ s x1, MemoriesOk s → MemoriesOk (f s x1)) :
    MemoriesOk (mxXlat s r m u t va kind f) := by
  unfold Machine.mxXlat
  split
  · exact hf _ _ ok
  · split
    · dsimp only
      split
      · exact hf _ _ (.modM (.of_xok (.translate ok) ‹_›))
      · exact .of_xwait (.translate ok) ‹_›
      · exact .tileFault (.of_xfault (.translate ok) ‹_›)
    · dsimp only
      split
      · exact hf _ _ (.modM (.of_xok (.translate ok) ‹_›))
      · exact .of_xwait (.translate ok) ‹_›
      · exact .tileFault (.postFault (.of_xfault (.translate ok) ‹_›))

theorem MemoriesOk.pieceDone {t : Nat} (ok : MemoriesOk s) : MemoriesOk (pieceDone s r m u t) := .modM ok

theorem MemoriesOk.loadPiece {t f : Nat} {p : MPiece} {bs : List Byte} (ok : MemoriesOk s) : MemoriesOk (loadPiece s r m u t f p bs) :=
  .pieceDone (.modM ok)

theorem MemoriesOk.movingTile {k : TileKind} {f : State → Run → Nat → BitVec 1024 → Bool → State} (ok : MemoriesOk s)
    (hf : ∀ s x1 x2 x3 x4, MemoriesOk s → MemoriesOk (f s x1 x2 x3 x4)) : MemoriesOk (movingTile s r m k f) := by
  unfold Machine.movingTile
  dsimp only
  split
  · exact .ite (hf _ _ _ _ _ (.modM ok)) ok
  · exact ok

theorem MemoriesOk.loadTile (ok : MemoriesOk s) : MemoriesOk (loadTile s r m) := by
  unfold Machine.loadTile
  refine .movingTile ok (fun _ _ _ _ _ ok1 => ?_)
  split
  · exact ok1
  · split
    · dsimp only
      split
      · exact .tileFault ok1
      · exact .loadPiece ok1
      · refine .mxXlat ok1 (fun _ _ ok2 => ?_)
        split
        · exact .of_wait (.readLine ok2) ‹_›
        · split
          · exact .tileFault (.of_done (.readLine ok2) ‹_›)
          · exact .loadPiece (.of_done (.readLine ok2) ‹_›)
    · dsimp only
      split
      · exact .tileFault ok1
      · exact .loadPiece ok1
      · exact .ite ok1 (.usePort ok1 (fun _ ok2 => .loadPiece (.modM ok2)))

theorem OutOk.execMatrixLoadTile (ok : MemoriesOk s) : OutOk (execMatrixLoadTile r m s) := .withUnit ok (fun _ ok1 => .loadTile ok1)
theorem MemoriesOk.writeDone {t : Nat} {fl : Flags} (ok : MemoriesOk s) : MemoriesOk (writeDone s r m u t fl) := .pieceDone (.modM ok)

theorem OptOk.writeLanding {t : Nat} {c : BitVec 1024} (ok : MemoriesOk s) : OptOk (writeLanding s r m u t c) := by
  unfold Machine.writeLanding
  split
  · split
    · exact .ite (MemoriesOk.writeDone (.landed ok (fun _ ok1 => .setFull (.spadWrite ok1)))) trivial
    · exact trivial
  · exact trivial

theorem MemoriesOk.writeTile (ok : MemoriesOk s) : MemoriesOk (writeTile s r m) := by
  unfold Machine.writeTile
  refine .movingTile ok (fun _ _ _ _ _ ok1 => ?_)
  split
  · exact .of_some (.writeLanding ok1) ‹_›
  · split
    · split
      · dsimp only
        split
        · exact ok1
        · split
          · exact .tileFault ok1
          · exact .ite (.writeDone ok1) ok1
          · refine .mxXlat ok1 (fun _ _ ok2 => ?_)
            split
            · exact .of_wait (.writeLine ok2) ‹_›
            · exact .writeDone (.of_done (.writeLine ok2) ‹_›)
      · split
        · dsimp only
          split
          · exact ok1
          · split
            · exact .tileFault ok1
            · exact .ite (.writeDone ok1) ok1
            · exact ok1
        · dsimp only
          split
          · exact ok1
          · split
            · exact .tileFault ok1
            · exact .ite (.writeDone ok1) ok1
            · exact .usePort ok1 (fun _ ok2 => .ite (.tileFault ok2) (.modM (.landPut ok2)))
    · split
      · dsimp only
        split
        · exact ok1
        · split
          · exact ok1
          · exact .ite (.writeDone ok1) ok1
          · refine .mxXlat ok1 (fun _ _ ok2 => ?_)
            split
            · exact .of_wait (.writeLine ok2) ‹_›
            · exact .writeDone (.of_done (.writeLine ok2) ‹_›)
      · split
        · dsimp only
          split
          · exact ok1
          · split
            · exact ok1
            · exact .ite (.writeDone ok1) ok1
            · exact ok1
        · dsimp only
          split
          · exact ok1
          · split
            · exact ok1
            · exact .ite (.writeDone ok1) ok1
            · exact .usePort ok1 (fun _ ok2 => .ite (.tileFault ok2) (.modM (.landPut ok2)))

theorem OutOk.execMatrixWriteTile (ok : MemoriesOk s) : OutOk (execMatrixWriteTile r m s) := .withUnit ok (fun _ ok1 => .writeTile ok1)
theorem MemoriesOk.tileComplete (ok : MemoriesOk s) : MemoriesOk (tileComplete s r m n) := .modM ok

theorem OutOk.execMatrixTileComplete (ok : MemoriesOk s) : OutOk (execMatrixTileComplete r m n s) :=
  .withUnit ok (fun _ ok1 => .ite (.tileComplete ok1) ok1)

theorem MemoriesOk.matrixArrival (ok : MemoriesOk s) : MemoriesOk (matrixArrival s r m n) := by
  unfold Machine.matrixArrival
  split
  · exact ok
  · refine .ite ?_ ?_
    · exact ok
    · refine .ite ?_ ?_
      · exact .usePort ok (fun _ ok1 => .ctxFault (.modM ok1))
      · split
        · exact .ctxFault (.modM (.of_updRefused (.portUpdate ok (fun _ ok1 => .barrierUpdate ok1)) ‹_›))
        · exact .of_updWait (.portUpdate ok (fun _ ok1 => .barrierUpdate ok1)) ‹_›
        · exact .modM (.of_updDone (.portUpdate ok (fun _ ok1 => .barrierUpdate ok1)) ‹_›)

theorem OutOk.execMatrixArrival (ok : MemoriesOk s) : OutOk (execMatrixArrival r m n s) := .withUnit ok (fun _ ok1 => .matrixArrival ok1)

theorem MemoriesOk.modIslands {m : BitVec 4} {f : Nat → Island → Island} (ok : MemoriesOk s) : MemoriesOk (modIslands s r m f) :=
  .foldl ok (fun _ _ ok1 => .modM ok1)

theorem MemoriesOk.setCtx {m : BitVec 4} {rec_ : Option (BitVec 1024)} (ok : MemoriesOk s) : MemoriesOk (setCtx s r m c rec_) :=
  .modIslands ok

theorem MemoriesOk.afterRuns {m : BitVec 4} {f : State → State} (ok : MemoriesOk s) (hf : ∀ s, MemoriesOk s → MemoriesOk (f s)) :
    MemoriesOk (afterRuns s r m c f) :=
  .ite (.seqReserved ok) (.ite (.seqWait ok) (hf _ ok))

theorem OutOk.execMctx {a : BitVec 5} {m : BitVec 4} {c : BitVec 2} (ok : MemoriesOk s) : OutOk (execMctx a m c s) :=
  .seqDo ok (fun _ _ => .afterRuns ok (fun _ ok1 => .ite (.seqTrap ok1) (.ite (.seqTrap ok1) (.seqGotThen (.seqGotIssued (.seqRecord ok1))
    (fun _ _ ok2 => .ite (.seqTrap (.modIslands ok2)) (.seqNext (.setCtx ok2)))))))

theorem OutOk.execMctxClr {m : BitVec 4} {c : BitVec 2} (ok : MemoriesOk s) : OutOk (execMctxClr m c s) :=
  .seqDo ok (fun _ _ => .afterRuns ok (fun _ ok1 => .seqNext (.setCtx ok1)))

theorem OutOk.mrun {k : TileKind} {a b : BitVec 5} {m acc st : BitVec 4} {c : BitVec 2} (ok : MemoriesOk s) :
    OutOk (mrun k a b m c acc st s) :=
  .seqDo ok (fun _ _ => .ite (.seqReserved ok) (.ite (.seqTrap (.modIslands ok)) (.ite (.seqWait ok) (.seqNext (.modR (.modIslands ok))))))

theorem OutOk.execMrunMma {a b : BitVec 5} {m x st : BitVec 4} {c : BitVec 2} (ok : MemoriesOk s) : OutOk (execMrunMma a b m c x st s) :=
  .mrun ok

theorem OutOk.execMrunZero {a b : BitVec 5} {m x st : BitVec 4} {c : BitVec 2} (ok : MemoriesOk s) : OutOk (execMrunZero a b m c x st s) :=
  .mrun ok

theorem OutOk.execMrunLoad {a b : BitVec 5} {m x st : BitVec 4} {c : BitVec 2} (ok : MemoriesOk s) : OutOk (execMrunLoad a b m c x st s) :=
  .mrun ok

theorem OutOk.execMrunWrite {a b : BitVec 5} {m x st : BitVec 4} {c : BitVec 2} (ok : MemoriesOk s) :
    OutOk (execMrunWrite a b m c x st s) :=
  .mrun ok

theorem MemoriesOk.modPump {f : Pump → Pump} (ok : MemoriesOk s) : MemoriesOk (modPump s r p f) := .modR ok
theorem MemoriesOk.modActive {f : PActive → PActive} (ok : MemoriesOk s) : MemoriesOk (modActive s r p id f) := .modPump ok

theorem OutOk.pumpStep {f : State → State} (ok : MemoriesOk s) (hf : ∀ s, MemoriesOk s → MemoriesOk (f s)) : OutOk (pumpStep r p s f) :=
  .withUnit ok (fun _ ok1 => hf _ ok1)

theorem MemoriesOk.stallTimer (ok : MemoriesOk s) : MemoriesOk (stallTimer s r) := .modR ok

theorem MemoriesOk.pumpFault {f : PFlt} {iter : Nat} (ok : MemoriesOk s) : MemoriesOk (pumpFault s r p id f iter) := by
  unfold Machine.pumpFault
  split
  · exact ok
  · exact .ite ok (.stallTimer (.raiseAsync (.modActive (.modPump ok))))

theorem MemoriesOk.pumpStall {a : PActive} {f : PFlt} {iter : Nat} (ok : MemoriesOk s) : MemoriesOk (pumpStall s r p a f iter) :=
  .stallTimer (.raiseAsync (.modPump ok))

theorem MemoriesOk.enterRequest {q : PReq} (ok : MemoriesOk s) : MemoriesOk (enterRequest s r p q) := .modPump ok

theorem MemoriesOk.takePacket (ok : MemoriesOk s) : MemoriesOk (takePacket s r p) := by
  unfold Machine.takePacket
  dsimp only
  split
  · exact ok
  · exact .ite ok (.ite (.raiseAsync (.modPump (.modPump ok))) (.enterRequest (.modPump ok)))

theorem MemoriesOk.requestPacket (ok : MemoriesOk s) : MemoriesOk (requestPacket s r p) := by
  unfold Machine.requestPacket
  exact .takePacket (.takePacket (.ite (.modPump ok) ok))

theorem OutOk.execPumpRequestPacket (ok : MemoriesOk s) : OutOk (execPumpRequestPacket r p s) :=
  .pumpStep ok (fun _ ok1 => .requestPacket ok1)

theorem OutOk.execPump {a : BitVec 5} {u : BitVec 1} (ok : MemoriesOk s) : OutOk (execPump a u s) :=
  .seqDo ok (fun _ _ => .ite (.seqTrap ok) (.ite (.seqTrap ok) (.seqGotThen (.seqGotIssued (.seqRecord ok)) (fun _ _ ok1 => .ite (.seqTrap
    (.modPump ok1)) (.ite (.modSeq (.seqWait ok1)) (.seqNext (.enterRequest ok1)))))))

theorem MemoriesOk.requestStart (ok : MemoriesOk s) : MemoriesOk (requestStart s r p) := by
  unfold Machine.requestStart
  dsimp only
  split
  · exact ok
  · refine .ite ?_ ?_
    · exact ok
    · refine .ite ?_ ?_
      · refine .pumpFault ?_
        split
        · exact .ite (.modE (.modPump ok) (fun ok1 => .setQ ok1)) (.modPump ok)
        · exact .modPump ok
      · split
        · exact .ite (.modE (.modPump ok) (fun ok1 => .setQ ok1)) (.modPump ok)
        · exact .modPump ok

theorem OutOk.execPumpRequestStart (ok : MemoriesOk s) : OutOk (execPumpRequestStart r p s) := .pumpStep ok (fun _ ok1 => .requestStart ok1)

theorem MemoriesOk.issuePiece {a : PActive} {w : PPiece} (ok : MemoriesOk s) : MemoriesOk (issuePiece s r p a w) := by
  unfold Machine.issuePiece
  refine .ite ?_ ?_
  · exact .modActive (.modPump ok)
  · dsimp only
    split
    · exact .modActive (.modPump ok)
    · split
      · exact .modActive (.modPump (.of_xok (.translate ok) ‹_›))
      · exact .of_xwait (.translate ok) ‹_›
      · exact .pumpStall (.postFault (.of_xfault (.translate ok) ‹_›))

theorem TokOk.sourceToken {a : PActive} (ok : MemoriesOk s) : TokOk (sourceToken s r p a) := by
  unfold Machine.sourceToken
  refine .ite ?_ ?_
  · split
    · exact ok
    · exact MemoriesOk.modPump ok
  · refine .ite ?_ ?_
    · exact ok
    · split
      · exact ok
      · exact .ite (MemoriesOk.inboundMismatch ok) (.ite (MemoriesOk.inboundPop (.inboundSync ok)) (MemoriesOk.inboundSync ok))

theorem MemoriesOk.collectReads {a : PActive} (ok : MemoriesOk s) : MemoriesOk (collectReads s r p a) := .modActive (.modPump ok)

theorem MemoriesOk.pumpIssue (ok : MemoriesOk s) : MemoriesOk (pumpIssue s r p) := by
  unfold Machine.pumpIssue
  dsimp only
  split
  · exact ok
  · refine .ite ?_ ?_
    · exact ok
    · split
      · exact .issuePiece ok
      · refine .ite ?_ ?_
        · exact ok
        · split
          · exact .collectReads ok
          · split
            · exact .modActive (.modPump (.collectReads ok))
            · exact .pumpFault (.collectReads ok)
            · split
              · exact .of_tokNone (.sourceToken (.collectReads ok)) ‹_›
              · exact .pumpFault (.of_tokFlt (.sourceToken (.collectReads ok)) ‹_›)
              · exact .ite (.of_tok (.sourceToken (.collectReads ok)) ‹_›) (.modActive (.of_tok (.sourceToken (.collectReads ok)) ‹_›))

theorem OutOk.execPumpIssue (ok : MemoriesOk s) : OutOk (execPumpIssue r p s) := .pumpStep ok (fun _ ok1 => .pumpIssue ok1)
theorem MemoriesOk.dropPAcc (ok : MemoriesOk s) : MemoriesOk (dropPAcc s r p id) := .modPump ok
theorem MemoriesOk.modPAcc {f : PAcc → PAcc} (ok : MemoriesOk s) : MemoriesOk (modPAcc s r p id f) := .modPump ok

theorem MemoriesOk.pieceWritten {a : PAcc} (ok : MemoriesOk s) : MemoriesOk (pieceWritten s r p a) := by
  unfold Machine.pieceWritten
  dsimp only
  split
  · exact .ite (.modPump (.dropPAcc ok)) (.dropPAcc ok)
  · exact .dropPAcc ok

theorem MemoriesOk.memPiece {a : PAcc} {x : Xlat} (ok : MemoriesOk s) : MemoriesOk (memPiece s r p a x) := by
  unfold Machine.memPiece
  refine .ite ?_ ?_
  · dsimp only
    split
    · exact .of_wait (.writeLine ok) ‹_›
    · exact .pieceWritten (.of_done (.writeLine ok) ‹_›)
  · split
    · exact .of_wait (.readLine ok) ‹_›
    · split
      · exact .pumpFault (.dropPAcc (.of_done (.readLine ok) ‹_›))
      · exact .modPAcc (.of_done (.readLine ok) ‹_›)

theorem MemoriesOk.pieceRefused {a : PAcc} {detail ad : Nat} (ok : MemoriesOk s) : MemoriesOk (pieceRefused s r p a detail ad) :=
  .pumpFault (.ite (.dropPAcc ok) (.modPAcc ok))

theorem OptOk.spadLand {a : PAcc} (ok : MemoriesOk s) : OptOk (spadLand s r p a) := by
  unfold Machine.spadLand
  split
  · exact trivial
  · exact .ite (MemoriesOk.ite (.pieceWritten (.landed ok (fun _ ok1 => .setFull (.spadWrite ok1)))) (.modPAcc (.landed ok (fun _ ok1 =>
      .setFull (.spadWrite ok1))))) trivial

theorem MemoriesOk.spadPiece {a : PAcc} (ok : MemoriesOk s) : MemoriesOk (spadPiece s r p a) :=
  .ite (.ite ok (.modPAcc (.foldl ok (fun _ _ ok1 => .modE ok1 (fun ok2 => .countSeal ok2))))) (.ite ok (.ite (.usePort ok (fun _ ok1 =>
    .ite (.pieceRefused ok1) (.modPAcc (.landPut ok1)))) (.ite ok (.usePort ok (fun _ ok1 => .ite (.pieceRefused ok1) (.modPAcc (.modE ok1
    (fun ok2 => .countSeal ok2))))))))

theorem MemoriesOk.fabricPiece {a : PAcc} {hops : Nat} {resv : List Resv} {enter : State → State} (ok : MemoriesOk s)
    (henter : ∀ s, MemoriesOk s → MemoriesOk (enter s)) : MemoriesOk (fabricPiece s r p a hops resv enter) := by
  unfold Machine.fabricPiece
  split
  · exact .ite ok (.pieceWritten (henter _ ok))
  · exact .ite ok (.modPAcc ok)

theorem MemoriesOk.sendPiece {a : PAcc} {t : Token} (ok : MemoriesOk s) : MemoriesOk (sendPiece s r p a t) :=
  .ite ok (.ite (.ite (.pumpFault (.dropPAcc ok)) (.ite (.pieceWritten (.tellLoss (.logPush ok))) (.ite ok (.ite (.pumpFault (.dropPAcc
    (.gwLog ok))) (.pieceWritten (.gwUnit (.ringPushBy ok))))))) (.ite (.fabricPiece ok (fun _ ok1 => .modR ok1)) (.fabricPiece ok
    (fun _ ok1 => .enqueue ok1))))

theorem MemoriesOk.reissuePiece {a : PAcc} (ok : MemoriesOk s) : MemoriesOk (reissuePiece s r p a) := by
  unfold Machine.reissuePiece
  refine .ite ?_ ?_
  · exact ok
  · split
    · exact .modPAcc (.modPump (.of_xok (.translate ok) ‹_›))
    · exact .of_xwait (.translate ok) ‹_›
    · split
      · exact .pumpStall (.postFault (.of_xfault (.translate ok) ‹_›))
      · exact .postFault (.of_xfault (.translate ok) ‹_›)

theorem MemoriesOk.pumpAccessStep (ok : MemoriesOk s) : MemoriesOk (pumpAccessStep s r p i) := by
  unfold Machine.pumpAccessStep
  split
  · exact ok
  · refine .ite ?_ ?_
    · exact ok
    · refine .ite ?_ ?_
      · exact ok
      · split
        · exact .sendPiece ok
        · exact .memPiece ok
        · refine .ite ?_ ?_
          · exact .ite (.pieceWritten ok) (.modPAcc ok)
          · refine .ite ?_ ?_
            · exact .reissuePiece ok
            · split
              · exact .of_some (.spadLand ok) ‹_›
              · exact .spadPiece ok

theorem OutOk.execPumpAccessComplete (ok : MemoriesOk s) : OutOk (execPumpAccessComplete r p i s) :=
  .pumpStep ok (fun _ ok1 => .pumpAccessStep ok1)

theorem MemoriesOk.pumpBarrier (ok : MemoriesOk s) : MemoriesOk (pumpBarrier s r p i) := by
  unfold Machine.pumpBarrier
  dsimp only
  split
  · exact ok
  · split
    · exact .modPump ok
    · refine .ite ?_ ?_
      · exact ok
      · refine .ite ?_ ?_
        · exact .usePort ok (fun _ ok1 => .pumpFault (.modPump ok1))
        · split
          · exact .pumpFault (.modPump (.of_updRefused (.portUpdate ok (fun _ ok1 => .barrierUpdate ok1)) ‹_›))
          · exact .of_updWait (.portUpdate ok (fun _ ok1 => .barrierUpdate ok1)) ‹_›
          · exact .modPump (.of_updDone (.portUpdate ok (fun _ ok1 => .barrierUpdate ok1)) ‹_›)

theorem OutOk.execPumpBarrierUpdate (ok : MemoriesOk s) : OutOk (execPumpBarrierUpdate r p i s) :=
  .pumpStep ok (fun _ ok1 => .pumpBarrier ok1)

theorem MemoriesOk.endRequest {q : PReq} (ok : MemoriesOk s) : MemoriesOk (endRequest s r p q) := by
  unfold Machine.endRequest
  split
  · split
    · exact .modPump ok
    · exact .ite (.modPump ok) (.ite (.modE (.modPump ok) (fun ok1 => .setQ ok1)) (.modR (.modPump ok)))
  · split
    · exact .modPump ok
    · exact .ite (.modPump ok) (.ite (.modE (.modPump ok) (fun ok1 => .setQ ok1)) (.modR (.modPump ok)))

theorem MemoriesOk.requestComplete (ok : MemoriesOk s) : MemoriesOk (requestComplete s r p i) := by
  unfold Machine.requestComplete
  dsimp only
  split
  · exact ok
  · exact .ite ok (.ite (.modActive (.modPump ok)) (.endRequest (.modPump ok)))

theorem OutOk.execPumpRequestComplete (ok : MemoriesOk s) : OutOk (execPumpRequestComplete r p i s) :=
  .pumpStep ok (fun _ ok1 => .ite (.requestComplete ok1) ok1)

theorem MemoriesOk.pumpRetry (ok : MemoriesOk s) : MemoriesOk (pumpRetry s r p) := .stallTimer (.modPump ok)
theorem MemoriesOk.pumpClr (ok : MemoriesOk s) : MemoriesOk (pumpClr s r p) := .modPump ok
theorem OutOk.execRetry (ok : MemoriesOk s) : OutOk (execRetry r p s) := .pumpStep ok (fun _ ok1 => .pumpRetry ok1)
theorem OutOk.execClr (ok : MemoriesOk s) : OutOk (execClr r p s) := .pumpStep ok (fun _ ok1 => .pumpClr ok1)

end Sys2Proof.Claims
end

section
/-!
# The canonical form of the memories: barriers, control registers and configuration images of the sequencer

One lemma for each operation of the model: it keeps the canonical form of the memories. They stand in the order of the model's definitions.
-/
namespace Sys2Proof.Claims
open Sys2Proof.Machine

variable {s : State} {el key n r st va : Nat} {w : BitVec 64}

theorem MemoriesOk.sqMismatch {out : Bool} (ok : MemoriesOk s) : MemoriesOk (sqMismatch s r n out) := .seqTrap (.gwLog ok)

theorem OutOk.execQput {a b v : BitVec 5} {p c : BitVec 2} {e : BitVec 1} {sc : BitVec 3} (ok : MemoriesOk s) :
    OutOk (execQput a b p e sc c v s) :=
  .seqDo ok (fun _ _ => .ite (.seqReserved ok) (.ite (.seqTrap ok) (.ite (.sqMismatch ok) (.ite (.seqNext (.tellLoss (.logPush ok))) (.ite
    (.modSeq (.seqWait ok)) (.ite (.seqWait ok) (.ite (.seqNext (.gwUnit (.ringPushBy ok))) (.afterWrites (.seqWait ok) (fun _ ok1 =>
    .seqNext (.gwUnit (.ringPushBy ok1)))))))))))

theorem OutOk.execQget {l h : BitVec 5} {p : BitVec 2} (ok : MemoriesOk s) : OutOk (execQget l h p s) :=
  .seqDo ok (fun _ _ => .ite (.seqTrap ok) (.ite (.sqMismatch ok) (.ite (.seqTrap (.tellLoss ok)) (.ite (.seqWait ok) (.ite (.seqWait
    (.ringSync ok)) (.seqNext (.gwUnit (.ringPop (.ringSync ok)))))))))

theorem MemoriesOk.withBarrier {v : BitVec 64} {f : Nat → Nat → State} (ok : MemoriesOk s) (hf : ∀ x0 x1, MemoriesOk (f x0 x1)) :
    MemoriesOk (withBarrier s r v f) := by
  unfold Machine.withBarrier
  split
  · exact .seqTrap ok
  · exact hf _ _

theorem MemoriesOk.atBarrier {va : BitVec 64} {port done : State → State} (ok : MemoriesOk s)
    (hport : ∀ s, MemoriesOk s → MemoriesOk (port s)) (hdone : ∀ s, MemoriesOk s → MemoriesOk (done s)) :
    MemoriesOk (atBarrier s r key va port done) := by
  unfold Machine.atBarrier
  dsimp only
  split
  · exact .ite ok (.ite (hdone _ ok) (.seqTrap ok))
  · exact .ite ok (hport _ ok)
  · exact .modSeq (.seqWait ok)

theorem MemoriesOk.barReply {cause : BitVec 8} (ok : MemoriesOk s) : MemoriesOk (barReply s r key cause) := .modSeq ok

theorem MemoriesOk.seqUpdate {off : Nat} {upd : Elem → BarRes} (ok : MemoriesOk s) (hupd : ∀ e, SpadOk e → BarOk (upd e)) :
    MemoriesOk (seqUpdate s r key off upd) := by
  unfold Machine.seqUpdate
  refine .ite ?_ ?_
  · exact .usePort ok (fun _ ok1 => .barReply ok1)
  · split
    · exact .of_updWait (.portUpdate ok (fun _ ok1 => hupd _ ok1)) ‹_›
    · exact .barReply (.of_updRefused (.portUpdate ok (fun _ ok1 => hupd _ ok1)) ‹_›)
    · exact .barReply (.of_updDone (.portUpdate ok (fun _ ok1 => hupd _ ok1)) ‹_›)

theorem OutOk.execTbinit {a b : BitVec 5} {n : BitVec 16} (ok : MemoriesOk s) : OutOk (execTbinit a b n s) :=
  .seqDo ok (fun _ _ => .withBarrier ok (fun _ _ => .ite (.seqTrap ok) (.atBarrier ok (fun _ ok1 => .seqUpdate ok1 (fun _ ok2 =>
    SpadOk.spadWrite ok2)) (fun _ ok1 => .seqNext ok1))))

theorem OutOk.execTbarr {a : BitVec 5} {sc : BitVec 3} (ok : MemoriesOk s) : OutOk (execTbarr a sc s) :=
  .seqDo ok (fun _ _ => .ite (.seqReserved ok) (.withBarrier ok (fun _ _ => .ite (.atBarrier ok (fun _ ok1 => .seqUpdate ok1 (fun _ ok2 =>
    .barrierUpdate ok2)) (fun _ ok1 => .seqNext ok1)) (.afterWrites (.seqWait ok) (fun _ ok1 => .atBarrier ok1 (fun _ ok2 => .seqUpdate ok2
    (fun _ ok3 => .barrierUpdate ok3)) (fun _ ok2 => .seqNext ok2))))))

theorem OutOk.execTbwait {a b : BitVec 5} {sc : BitVec 3} (ok : MemoriesOk s) : OutOk (execTbwait a b sc s) :=
  .seqDo ok (fun _ _ => .ite (.seqReserved ok) (.withBarrier ok (fun _ _ => .atBarrier ok (fun _ ok1 => .ite (.ite (.barReply ok1) ok1)
    (.usePort ok1 (fun _ ok2 => .ite (.barReply ok2) (.modSeq (.modE ok2 (fun ok3 => ok3)))))) (fun _ ok1 => .seqNext ok1))))

theorem MemoriesOk.csrSetOrElse {g : CsrSet} (ok : CsrOk g) (ok1 : MemoriesOk s) : MemoriesOk (CsrSet.orElse g s) := by
  unfold Machine.CsrSet.orElse
  split
  · exact ok
  · exact ok1

theorem CsrOk.setSlotdat (ok : MemoriesOk s) : CsrOk (setSlotdat s r w) := by
  unfold Machine.setSlotdat
  refine .ite ?_ ?_
  · exact trivial
  · split
    · exact trivial
    · exact trivial
    · exact trivial
    · exact MemoriesOk.modSeq (.modE ok (fun ok1 => ok1))

theorem MemoriesOk.setPb {b : BitVec 64} {v : Bool} (ok : MemoriesOk s) : MemoriesOk (setPb s b v) := .setRingDesc ok

theorem MemoriesOk.movePb {old v : BitVec 64} (ok : MemoriesOk s) : MemoriesOk (movePb s old v) :=
  .ite (.setPb (.ite (.setPb ok) ok)) (.ite (.setPb ok) ok)

theorem CsrOk.setSpbind (ok : MemoriesOk s) : CsrOk (setSpbind s r n w) :=
  .ite trivial (MemoriesOk.rebind (.modSeq (.ite (.releaseSlots (.ite (.movePb ok) (.movePb (.disablePort ok)))) (.ite (.movePb ok)
    (.movePb (.disablePort ok))))))

theorem CsrOk.setSqbind (ok : MemoriesOk s) : CsrOk (setSqbind s r n w) := .ite trivial (MemoriesOk.modSeq (.movePb ok))
theorem CsrOk.setCfgmap {i : Nat} (ok : MemoriesOk s) : CsrOk (setCfgmap s r i w) := .ite trivial (MemoriesOk.modSeq ok)
theorem MemoriesOk.popEtq (ok : MemoriesOk s) : MemoriesOk (popEtq s r) := .modR ok
theorem MemoriesOk.popFaultq (ok : MemoriesOk s) : MemoriesOk (popFaultq s r) := .modR ok

theorem CsrOk.setEtact {act : Nat} (ok : MemoriesOk s) : CsrOk (setEtact s r st el act) :=
  .ite trivial (.ite trivial (MemoriesOk.modE ok (fun ok1 => .ite ok1 ok1)))

theorem MemoriesOk.setPump {p k : Nat} (ok : MemoriesOk s) : MemoriesOk (setPump s r p k w) :=
  .ite (.modPump ok) (.ite (.pumpClr (.ite (.pumpRetry ok) ok)) (.ite (.pumpRetry ok) ok))

theorem CsrOk.csrWrite (ok : MemoriesOk s) : CsrOk (csrWrite s r n w) := by
  unfold Machine.csrWrite
  refine .ite ?_ ?_
  · exact MemoriesOk.modSeq ok
  · refine .ite ?_ ?_
    · exact MemoriesOk.modSeq ok
    · refine .ite ?_ ?_
      · exact MemoriesOk.modSeq ok
      · refine .ite ?_ ?_
        · exact MemoriesOk.modSeq ok
        · refine .ite ?_ ?_
          · exact MemoriesOk.modSeq ok
          · refine .ite ?_ ?_
            · exact MemoriesOk.modSeq ok
            · refine .ite ?_ ?_
              · exact MemoriesOk.modSeq ok
              · refine .ite ?_ ?_
                · exact MemoriesOk.ite (.popEtq ok) ok
                · refine .ite ?_ ?_
                  · exact .setEtact ok
                  · refine .ite ?_ ?_
                    · exact MemoriesOk.modSeq ok
                    · refine .ite ?_ ?_
                      · exact .setSlotdat ok
                      · refine .ite ?_ ?_
                        · exact MemoriesOk.modSeq ok
                        · refine .ite ?_ ?_
                          · exact .setCfgmap ok
                          · refine .ite ?_ ?_
                            · exact .setSqbind ok
                            · refine .ite ?_ ?_
                              · exact .setSpbind ok
                              · refine .ite ?_ ?_
                                · exact MemoriesOk.modM ok
                                · refine .ite ?_ ?_
                                  · exact MemoriesOk.modR ok
                                  · refine .ite ?_ ?_
                                    · exact MemoriesOk.ite (.popFaultq ok) ok
                                    · split
                                      · exact MemoriesOk.setPump ok
                                      · exact ok

theorem OutOk.execGetc {d : BitVec 5} {n : BitVec 12} (ok : MemoriesOk s) : OutOk (execGetc d n s) :=
  .seqDo ok (fun _ _ => .ite (.seqTrap ok) (.ite (.seqTrap ok) (.seqNext ok)))

theorem OutOk.execSetc {a : BitVec 5} {n : BitVec 12} (ok : MemoriesOk s) : OutOk (execSetc a n s) := by
  unfold Machine.execSetc
  refine .seqDo ok (fun _ _ => ?_)
  refine .ite ?_ ?_
  · exact .seqTrap ok
  · refine .ite ?_ ?_
    · exact .seqTrap ok
    · split
      · exact .seqNext (.of_csr (.csrWrite ok) ‹_›)
      · exact .seqWait ok
      · exact .seqTrap ok

theorem OutOk.execSlotdatWrite (ok : MemoriesOk s) : OutOk (execSlotdatWrite r w s) :=
  .withUnit ok (fun _ ok1 => .csrSetOrElse (.setSlotdat ok1) ok1)

theorem OutOk.execSpbindWrite (ok : MemoriesOk s) : OutOk (execSpbindWrite r n w s) :=
  .withUnit ok (fun _ ok1 => .csrSetOrElse (.setSpbind ok1) ok1)

theorem OutOk.execSqbindWrite (ok : MemoriesOk s) : OutOk (execSqbindWrite r n w s) :=
  .withUnit ok (fun _ ok1 => .csrSetOrElse (.setSqbind ok1) ok1)

theorem OutOk.execCfgmapWrite (ok : MemoriesOk s) : OutOk (execCfgmapWrite r n w s) :=
  .withUnit ok (fun _ ok1 => .csrSetOrElse (.setCfgmap ok1) ok1)

theorem OutOk.execXfqpop (ok : MemoriesOk s) : OutOk (execXfqpop r s) := .withUnit ok (fun _ ok1 => .popFaultq ok1)
theorem OutOk.execEtpop (ok : MemoriesOk s) : OutOk (execEtpop r s) := .withUnit ok (fun _ ok1 => .popEtq ok1)

theorem OutOk.execEtactResume (ok : MemoriesOk s) : OutOk (execEtactResume r st el s) :=
  .withUnit ok (fun _ ok1 => .csrSetOrElse (.setEtact ok1) ok1)

theorem OutOk.execEtactHalt (ok : MemoriesOk s) : OutOk (execEtactHalt r st el s) :=
  .withUnit ok (fun _ ok1 => .csrSetOrElse (.setEtact ok1) ok1)

theorem OutOk.execElementTrapRecordQueue (ok : MemoriesOk s) : OutOk (execElementTrapRecordQueue r st el s) := by
  unfold Machine.execElementTrapRecordQueue
  refine .withUnit ok (fun _ ok1 => ?_)
  dsimp only
  split
  · exact .ite (.modR (.modE ok1 (fun ok2 => ok2))) ok1
  · exact ok1

theorem MemoriesOk.rejectImage {f : ImgFail} (ok : MemoriesOk s) : MemoriesOk (rejectImage s r f) := .seqTrap (.modSeq ok)
theorem SpadOk.applyConfig {e : Elem} {ws : List (BitVec 64)} (ok : SpadOk e) : SpadOk (applyConfig e ws) := ok

theorem MemoriesOk.releaseChans (ok : MemoriesOk s) : MemoriesOk (releaseChans s key) :=
  .foldl ok (fun _ _ ok1 => .foldl ok1 (fun _ _ ok2 => .ite (.modE ok2 (fun ok3 => .setQ ok3)) (.ite (.modR ok2) (.foldl ok2
    (fun _ _ ok3 => .modR ok3)))))

theorem MemoriesOk.install {ws : List (BitVec 64)} {st : ElemState} (ok : MemoriesOk s) : MemoriesOk (install s key ws st) :=
  .rebind (.modR (.modE (.releaseChans ok) fun ok => SpadOk.applyConfig (ws := ws) ok))

theorem MemoriesOk.retireLoads (ok : MemoriesOk s) : MemoriesOk (retireLoads s r) := .modR ok

theorem MemoriesOk.configStep (ok : MemoriesOk s) : MemoriesOk (configStep s r key) := by
  unfold Machine.configStep
  refine .ite ?_ ?_
  · exact .setE ok (.toReconf (.getE ok))
  · split
    · exact .ite (.setE (.setE ok (.toReconf (.getE ok))) (.with_installing (.toReconf (.getE ok)))) (.setE ok (.toReconf (.getE ok)))
    · refine .ite ?_ ?_
      · split
        · exact .setE (.setE ok (.toReconf (.getE ok))) (.with_st_installing (.toReconf (.getE ok)))
        · exact .ite (.setE (.setE ok (.toReconf (.getE ok))) (.with_st (.toReconf (.getE ok)))) (.setE ok (.toReconf (.getE ok)))
      · exact .setE ok (.toReconf (.getE ok))

theorem OutOk.execConfigurationInstall (ok : MemoriesOk s) : OutOk (execConfigurationInstall r st el s) :=
  .withUnit ok (fun _ ok1 => .ite (.configStep ok1) ok1)

theorem MemoriesOk.stoatEffect {t : Option (List ActorState)} (ok : MemoriesOk s) : MemoriesOk (stoatEffect s r t) := .rebind (.modR ok)
theorem MemoriesOk.stoatTake {load : Nat} (ok : MemoriesOk s) : MemoriesOk (stoatTake s r load) := .ite (.stoatEffect (.modR ok)) ok

theorem OutOk.execInstallComplete (ok : MemoriesOk s) : OutOk (execInstallComplete r st el s) := by
  unfold Machine.execInstallComplete
  refine .withUnit ok (fun _ ok1 => ?_)
  dsimp only
  split
  · exact .ite (.retireLoads (.modSeq (.install (.stoatTake ok1)))) ok1
  · exact ok1

theorem OutOk.execHaltedToDraining (ok : MemoriesOk s) : OutOk (execHaltedToDraining r st el s) :=
  .withUnit ok (fun _ ok1 => .ite (.modE ok1 (fun ok2 => ok2)) ok1)

theorem SeqGotOk.seqImage (ok : MemoriesOk s) : SeqGotOk (seqImage s r va) := by
  unfold Machine.seqImage
  split
  · exact .seqRecord (.of_sok (.seqRecord ok) ‹_›)
  · exact .seqRecord ok

theorem SeqGotOk.seqImages {acc : List Byte} (ok : MemoriesOk s) : SeqGotOk (seqImages r n s va acc) := by
  induction n generalizing s va acc with
  | zero =>
    exact ok
  | succ n ih =>
    unfold Machine.seqImages
    split
    · exact ih (.of_sok (.seqImage ok) ‹_›)
    · exact .seqImage ok

theorem OutOk.execLdcfg {a st : BitVec 5} (ok : MemoriesOk s) : OutOk (execLdcfg a st s) := by
  unfold Machine.execLdcfg
  refine .seqPriv ok (fun _ _ => ?_)
  refine .ite ?_ ?_
  · exact .seqTrap ok
  · refine .ite ?_ ?_
    · exact .seqTrap ok
    · refine .ite ?_ ?_
      · exact .rejectImage ok
      · refine .ite ?_ ?_
        · exact .seqWait (.modSeq ok)
        · refine .seqGotThen (.seqGotIssued (.seqImage ok)) (fun _ _ ok1 => ?_)
          split
          · exact .rejectImage ok1
          · exact .seqNext (.foldl ok1 (fun _ _ ok2 => .install ok2))

theorem OutOk.execLdcfgClr {st : BitVec 5} (ok : MemoriesOk s) : OutOk (execLdcfgClr st s) :=
  .seqPriv ok (fun _ _ => .ite (.seqTrap ok) (.seqNext (.foldl ok (fun _ _ ok1 => .install ok1))))

theorem SeqGotOk.poolHeaders {base : Nat} {es : List PoolEnt} (ok : MemoriesOk s) : SeqGotOk (poolHeaders r base es s) := by
  induction es generalizing s with
  | nil =>
    exact ok
  | cons x es ih =>
    unfold Machine.poolHeaders
    split
    · exact .ite (ih (.of_sok (.seqRecord ok) ‹_›)) (MemoriesOk.of_sok (.seqRecord ok) ‹_›)
    · exact .seqRecord ok

theorem MemoriesOk.loadCode {w : Nat} {sects : List Sect} (ok : MemoriesOk s) : MemoriesOk (loadCode s r va w sects) := by
  unfold Machine.loadCode
  split
  · exact .rejectImage ok
  · split
    · exact .ite (.rejectImage ok) (.seqNext ok)
    · refine .ite ?_ ?_
      · exact .rejectImage ok
      · refine .seqGotThen (.seqGotIssued (.seqRecord ok)) (fun _ _ ok1 => ?_)
        split
        · exact .rejectImage ok1
        · exact .ite (.rejectImage ok1) (.seqGotThen (.seqGotIssued (.poolHeaders ok1)) (fun _ _ ok2 => .ite (.ite (.rejectImage ok2)
            (.seqNext ok2)) (.rejectImage ok2)))

theorem OutOk.execLdcfgCode {a : BitVec 5} {w : BitVec 1} (ok : MemoriesOk s) : OutOk (execLdcfgCode a w s) := by
  unfold Machine.execLdcfgCode
  refine .seqPriv ok (fun _ _ => ?_)
  refine .ite ?_ ?_
  · exact .seqTrap ok
  · refine .seqGotThen (.seqGotIssued (.seqRecord ok)) (fun _ _ ok1 => ?_)
    refine .ite ?_ ?_
    · exact .rejectImage ok1
    · refine .seqGotThen (.seqGotIssued (.seqRecord ok1)) (fun _ _ ok2 => ?_)
      split
      · exact .rejectImage ok2
      · exact .loadCode ok2

theorem OutOk.execRecfg {a : BitVec 5} (ok : MemoriesOk s) : OutOk (execRecfg a s) := by
  unfold Machine.execRecfg
  refine .seqDo ok (fun _ _ => ?_)
  refine .ite ?_ ?_
  · exact .seqTrap ok
  · refine .ite ?_ ?_
    · exact .seqTrap ok
    · refine .seqGotThen (.seqGotIssued (.seqRecord ok)) (fun _ _ ok1 => ?_)
      refine .ite ?_ ?_
      · exact .rejectImage ok1
      · refine .seqGotThen (.seqGotIssued (.seqImages ok1)) (fun _ _ ok2 => ?_)
        split
        · exact .rejectImage ok2
        · exact .ite (.seqWait (.modSeq ok2)) (.seqNext ok2)

theorem OutOk.execRecfgEnd (ok : MemoriesOk s) : OutOk (execRecfgEnd s) := .seqDo ok (fun _ _ => .seqNext ok)

end Sys2Proof.Claims
end

section
/-!
# The canonical form of the memories: the distributor and the engines

One lemma for each operation of the model: it keeps the canonical form of the memories. They stand in the order of the model's definitions.
-/
namespace Sys2Proof.Claims
open Sys2Proof.Machine

variable {s : State} {die fuel id kind n owner pa q r va : Nat} {j : MJob}

theorem SomeOk.engThen {α β : Type} {g : EngGot α} {f : State → α → EngGot β} (ok : SomeOk g) (hf : ∀ s x1, MemoriesOk s → SomeOk (f s x1)) :
    SomeOk (engThen g f) := by
  unfold Machine.engThen
  split
  · exact trivial
  · exact ok
  · exact hf _ _ ok

theorem MemoriesOk.engStep {α : Type} {g : EngGot α} {fault : State → EngFault → State} {f : State → α → State} (ok : MemoriesOk s)
    (ok1 : SomeOk g) (hfault : ∀ s x1, MemoriesOk s → MemoriesOk (fault s x1)) (hf : ∀ s x1, MemoriesOk s → MemoriesOk (f s x1)) :
    MemoriesOk (engStep s g fault f) := by
  unfold Machine.engStep
  split
  · exact ok
  · exact hfault _ _ ok1
  · exact hf _ _ ok1

theorem MemoriesOk.engineWalkLine {ln : Nat} (ok : MemoriesOk s) : MemoriesOk (engineWalkLine s die ln).1 :=
  .ite_fst (.homeSync ok) (.modCist (.ite (.setDir (.homeSync ok)) (.setCLine (.setDir (.homeSync ok)))))

theorem SomeOk.engineWalkGo {got : List Nat} {a : XReq} (ok : MemoriesOk s) : SomeOk (engineWalkGo fuel s die got va a) := by
  induction fuel generalizing s die got va a with
  | zero =>
    exact ok
  | succ fuel ih =>
    unfold Machine.engineWalkGo
    split
    · exact .ite (ih (.engineWalkLine ok)) trivial
    · exact ok

theorem SomeOk.engineWalk {a : XReq} (ok : MemoriesOk s) : SomeOk (engineWalk s die va a) := by
  unfold Machine.engineWalk
  refine .ite ?_ ?_
  · exact ok
  · split
    · exact trivial
    · exact MemoriesOk.of_some_fst (.engineWalkGo ok) ‹_›
    · exact MemoriesOk.of_some_fst (.engineWalkGo ok) ‹_›
    · exact MemoriesOk.of_some_fst (.engineWalkGo ok) ‹_›

theorem SomeOk.engineXlat {a : XReq} (ok : MemoriesOk s) : SomeOk (engineXlat s die va a) := .engThen (.engineWalk ok) (fun _ _ ok1 => ok1)

theorem SomeOk.engineLine (ok : MemoriesOk s) : SomeOk (engineLine s pa va n) := by
  unfold Machine.engineLine
  split
  · exact .ite ok ok
  · refine .ite ?_ ?_
    · exact trivial
    · split <;> exact MemoriesOk.engineSync ok

theorem SomeOk.engineRead {a : XReq} (ok : MemoriesOk s) : SomeOk (engineRead die a fuel s va n) := by
  induction fuel generalizing s va n with
  | zero =>
    exact ok
  | succ fuel ih =>
    unfold Machine.engineRead
    exact .ite ok (.engThen (.engineXlat ok) (fun _ _ ok1 => .engThen (.engineLine ok1) (fun _ _ ok2 => .engThen (ih ok2) (fun _ _ ok3 =>
      ok3))))

theorem SomeOk.engineRecord {a : XReq} (ok : MemoriesOk s) : SomeOk (engineRecord s die a va n) := .engineRead ok

theorem MemoriesOk.enginePost {f : EngFault} {asid src func : Nat} (ok : MemoriesOk s) : MemoriesOk (enginePost s r f asid kind src func) :=
  .ite ok (.postFault ok)

theorem MemoriesOk.engineStoreLine {region : Option Nat} {bs : List Byte} (ok : MemoriesOk s) :
    MemoriesOk (engineStoreLine s n owner region pa bs).1 := by
  unfold Machine.engineStoreLine
  split
  · exact .ite_fst (.logPush ok) (.ite_fst (.engineStore ok) ok)
  · exact .engineStore ok

theorem MemoriesOk.enginePut {hi lo v : Nat} (ok : MemoriesOk s) : MemoriesOk (enginePut s pa n hi lo v) := .engineWrite ok
theorem MemoriesOk.qSync (ok : MemoriesOk s) : MemoriesOk (qSync s q).1 := .engineSync ok
theorem MemoriesOk.qPut {hi lo v : Nat} (ok : MemoriesOk s) : MemoriesOk (qPut s q hi lo v) := .ite ok (.enginePut ok)

theorem SomeOk.headThen {g : EngGot (List Byte)} {f : State → BitVec 1024 → HeadGot} (ok : SomeOk g)
    (hf : ∀ s x, MemoriesOk s → SomeOk (f s x)) : SomeOk (headThen g f) := by
  unfold Machine.headThen
  split
  · trivial
  · exact ok
  · exact hf _ _ ok

theorem SomeOk.readHead {e d : BitVec 512} (ok : MemoriesOk s) : SomeOk (readHead s e d) := by
  unfold Machine.readHead
  refine .ite ?_ ?_
  · exact ok
  · refine .headThen (.engineRecord ok) (fun _ _ ok1 => ?_)
    refine .ite ?_ ?_
    · exact ok1
    · refine .headThen (.engineRecord ok1) (fun _ _ ok2 => ?_)
      refine .ite ?_ ?_
      · exact ok2
      · refine .ite ?_ ?_
        · exact ok2
        · refine .headThen (.engineRecord ok2) (fun _ _ ok3 => ?_)
          split <;> exact ok3

theorem MemoriesOk.agePut (ok : MemoriesOk s) : MemoriesOk (agePut s q) := .qPut ok
theorem MemoriesOk.modDisp {f : Disp → Disp} (ok : MemoriesOk s) : MemoriesOk (modDisp s id f) := ok

theorem MemoriesOk.flyHead {h : Head} (ok : MemoriesOk s) : MemoriesOk (flyHead s q h).1 := by
  unfold Machine.flyHead
  split <;> exact ok

theorem MemoriesOk.dropStanding (ok : MemoriesOk s) : MemoriesOk (dropStanding s q) := by
  unfold Machine.dropStanding
  dsimp only
  split
  · split
    · exact .ite ok ok
    · exact ok
  · exact ok

theorem MemoriesOk.dropDisabled (ok : MemoriesOk s) : MemoriesOk (dropDisabled s) := .foldl ok (fun _ _ ok1 => .dropStanding ok1)

theorem MemoriesOk.distSelect (ok : MemoriesOk s) : MemoriesOk (distSelect s owner) := by
  unfold Machine.distSelect
  refine .ite ?_ ?_
  · exact ok
  · split
    · exact ok
    · split
      · exact ok
      · exact .with_dist (.flyHead ok)

theorem OutOk.execDistributorSelect (ok : MemoriesOk s) : OutOk (execDistributorSelect owner s) := MemoriesOk.distSelect (.dropDisabled ok)

theorem MemoriesOk.optStore (ok : MemoriesOk s) : MemoriesOk (optStore s r) := by
  unfold Machine.optStore
  dsimp only
  split
  · exact .ite ok ok
  · exact ok

theorem MemoriesOk.optApply (ok : MemoriesOk s) : MemoriesOk (optApply s r) := by
  unfold Machine.optApply
  dsimp only
  split
  · exact .ite (.setR ok) ok
  · exact ok

theorem OutOk.execPwrmark {n : BitVec 4} (ok : MemoriesOk s) : OutOk (execPwrmark n s) :=
  .seqDo ok (fun _ _ => .seqNext (.optApply (.modR (.optStore ok))))

theorem SpadOk.startElem {newOwner newAsid : Bool} {e : Elem} (ok : SpadOk e) : SpadOk (startElem newOwner newAsid owner e) := by
  have h : SpadOk (Machine.invalL1 { e with wave := 0 }) := SpadOk.invalL1 (e := { e with wave := 0 }) ok
  cases newOwner with
  | true => exact Memory.wf_nil
  | false => cases newAsid <;> exact h

theorem MemoriesOk.startTeam {t : Team} {d : BitVec 512} (ok : MemoriesOk s) : MemoriesOk (startTeam s r t d) :=
  .optApply (.setR (.tmapElems ok fun _ _ ok => .ite (.startElem ok) ok))

theorem MemoriesOk.advanceHead {ticket : Nat} (ok : MemoriesOk s) : MemoriesOk (advanceHead s q ticket) := .agePut (.qPut ok)

theorem MemoriesOk.bindTeam {h : Head} (ok : MemoriesOk s) : MemoriesOk (bindTeam s q r h) := by
  unfold Machine.bindTeam
  dsimp only
  split
  · exact .flyHead ok
  · exact .ite (.advanceHead (.modDisp (.startTeam (.flyHead ok)))) (.agePut (.with_dist (.modDisp (.startTeam (.flyHead ok)))))

theorem MemoriesOk.teamBind (ok : MemoriesOk s) : MemoriesOk (teamBind s owner) := by
  unfold Machine.teamBind
  split
  · exact ok
  · split
    · exact ok
    · dsimp only
      split
      · exact ok
      · exact .bindTeam ok

theorem OutOk.execTeamBind (ok : MemoriesOk s) : OutOk (execTeamBind owner s) := MemoriesOk.ite (.teamBind (.dropDisabled ok)) ok

theorem MemoriesOk.freeBind (ok : MemoriesOk s) : MemoriesOk (freeBind s r) := by
  unfold Machine.freeBind
  dsimp only
  split
  · exact ok
  · refine .ite ?_ ?_
    · exact ok
    · split
      · exact ok
      · split
        · exact ok
        · exact .bindTeam ok

theorem OutOk.execFreeRegionBind (ok : MemoriesOk s) : OutOk (execFreeRegionBind r s) :=
  .withUnit ok (fun _ ok1 => .ite (.freeBind (.dropDisabled ok1)) ok1)

theorem MemoriesOk.dropDisp (ok : MemoriesOk s) : MemoriesOk (dropDisp s id) := ok

theorem MemoriesOk.completionFault {d : Disp} {f : EngFault} (ok : MemoriesOk s) : MemoriesOk (completionFault s d f) :=
  .dropDisp (.logPush (.enginePost ok))

theorem SomeOk.complCheck {d : Disp} {k : Nat} (ok : MemoriesOk s) : SomeOk (complCheck d k s) := by
  induction k generalizing s with
  | zero =>
    exact ok
  | succ k ih =>
    unfold Machine.complCheck
    exact .engThen (ih ok) (fun _ _ ok1 => .engThen (.engineXlat ok1) (fun _ _ ok2 => ok2))

theorem MemoriesOk.completeStep {d : Disp} {why : HeadEnd} (ok : MemoriesOk s) : MemoriesOk (completeStep s d why) :=
  .ite (.dropDisp ok) (.engStep ok (.engThen (.complCheck ok) (fun _ _ ok1 => .engineXlat ok1)) (fun _ _ ok1 => .completionFault ok1) (fun
    _ _ ok1 => .ite (.engineStoreLine ok1) (.ite (.dropDisp (.engineStoreLine ok1)) (.modDisp (.engineStoreLine ok1)))))

theorem OptOk.completeQueue (ok : MemoriesOk s) : OptOk (completeQueue s q) := by
  unfold Machine.completeQueue
  split
  next d _ =>
    cases d.ending with
    | none => trivial
    | some o => exact MemoriesOk.completeStep ok
  · trivial

theorem MemoriesOk.endHead {e d : BitVec 512} {why : HeadEnd} (ok : MemoriesOk s) : MemoriesOk (endHead s q e d why) := .advanceHead ok

theorem MemoriesOk.newHead {e : BitVec 512} (ok : MemoriesOk s) : MemoriesOk (newHead s q e) := by
  unfold Machine.newHead
  dsimp only
  split
  · exact ok
  · exact .advanceHead (.logPush (.of_some_fst (.engineLine ok) ‹_›))
  · split
    · exact .of_some_fst (.engineLine ok) ‹_›
    · refine .endHead ?_
      split
      · exact .enginePost (.of_some_fst (.readHead (.of_some_fst (.engineLine ok) ‹_›)) ‹_›)
      · exact .of_some_fst (.readHead (.of_some_fst (.engineLine ok) ‹_›)) ‹_›
    · exact .with_dist (.of_some_fst (.readHead (.of_some_fst (.engineLine ok) ‹_›)) ‹_›)

theorem MemoriesOk.oldHead {e : BitVec 512} {h : Head} (ok : MemoriesOk s) : MemoriesOk (oldHead s q e h) := by
  unfold Machine.oldHead
  refine .ite ?_ ?_
  · exact .advanceHead ok
  · refine .ite ?_ ?_
    · refine .endHead ?_
      split
      · exact .dropDisp ok
      · exact ok
    · exact ok

theorem MemoriesOk.headRead (ok : MemoriesOk s) : MemoriesOk (headRead s q) := by
  unfold Machine.headRead
  split
  · exact .of_some (.completeQueue ok) ‹_›
  · refine .ite ?_ ?_
    · exact .qSync ok
    · refine .ite ?_ ?_
      · exact .dropStanding (.qPut (.agePut (.qSync ok)))
      · refine .ite ?_ ?_
        · exact .qPut (.agePut (.qSync ok))
        · split
          · exact .ite (.oldHead (.qPut (.agePut (.qSync ok)))) (.newHead (.qPut (.agePut (.qSync ok))))
          · exact .newHead (.qPut (.agePut (.qSync ok)))

theorem OutOk.execDispatchHeadRead (ok : MemoriesOk s) : OutOk (execDispatchHeadRead q s) :=
  .withUnit ok (fun _ ok1 => .ite (.headRead ok1) ok1)

theorem OutOk.execLaunch {a d : BitVec 5} {q : BitVec 8} (ok : MemoriesOk s) : OutOk (execLaunch a d q s) :=
  .seqDo ok (fun _ _ => .ite (.seqWait (.qSync ok)) (.ite (.seqTrap (.qSync ok)) (.ite (.seqTrap (.qSync ok)) (.seqGotThen (.seqGotIssued
    (.seqRecord (.qSync ok))) (fun _ _ ok1 => .ite (.seqWait (.modSeq ok1)) (.afterWrites (.seqWait (.modSeq ok1)) (fun _ ok2 => .ite
    (.clearSharers ok2) (.seqPut (.qPut (.engineWrite (.clearSharers ok2)))))))))))

theorem MemoriesOk.exitBegin (ok : MemoriesOk s) : MemoriesOk (exitBegin s r) := .modR (.seqWait (.optStore ok))
theorem OutOk.execExit (ok : MemoriesOk s) : OutOk (execExit s) := .seqDo ok (fun _ _ => .ite (.seqPush ok) (.exitBegin ok))

theorem MemoriesOk.teamRetired {t : Team} {cause : Option (BitVec 8)} (ok : MemoriesOk s) : MemoriesOk (teamRetired s t cause) :=
  .modDisp ok

theorem MemoriesOk.teamRetire (ok : MemoriesOk s) : MemoriesOk (teamRetire s r) := by
  unfold Machine.teamRetire
  split
  · dsimp only
    split <;> exact ok
  · dsimp only
    split
    · exact ok
    · exact .ite (.drainWcb ok) (.ite (.publishDie ok) (.modR (.teamRetired (.publishDie ok))))

theorem OutOk.execTeamRetire (ok : MemoriesOk s) : OutOk (execTeamRetire r s) := .withUnit ok (fun _ ok1 => .teamRetire ok1)

theorem OutOk.execRestripe {a : BitVec 5} (ok : MemoriesOk s) : OutOk (execRestripe a s) := by
  unfold Machine.execRestripe
  refine .seqPriv ok fun r q => ?_
  dsimp only
  refine .ite (.seqTrap ok) (.seqGotThen (.seqGotIssued (.seqRecord ok)) fun s bs ok => ?_)
  refine .ite (.engineSync ok) (.ite (.seqTrap (.engineSync ok)) (.ite (.seqTrap (.engineSync ok)) ?_))
  refine .ite (.seqWait (.modSeq (.engineSync ok))) (.afterWrites (.seqWait (.modSeq (.engineSync ok))) fun s ok => ?_)
  split
  · exact .seqNext (.with_rsQueue (.of_xok (.seqXlat ok) ‹_›))
  · exact .of_xwait (.seqXlat ok) ‹_›
  · exact .seqTrap (.of_xfault (.seqXlat ok) ‹_›)

theorem SomeOk.rsRead (ok : MemoriesOk s) : SomeOk (rsRead s pa) := .ite (MemoriesOk.engineWalkLine ok) trivial

theorem SomeOk.rsTable {lev tbl : Nat} (ok : MemoriesOk s) : SomeOk (rsTable va lev s tbl) := by
  induction lev generalizing s tbl with
  | zero =>
    exact ok
  | succ lev ih =>
    unfold Machine.rsTable
    dsimp only
    split
    · exact trivial
    · exact .ite (MemoriesOk.of_some_fst (.rsRead ok) ‹_›) (.ite (MemoriesOk.of_some_fst (.rsRead ok) ‹_›) (.ite (MemoriesOk.of_some_fst
        (.rsRead ok) ‹_›) (ih (.of_some_fst (.rsRead ok) ‹_›))))

theorem SomeOk.rsWalk {asid : Nat} (ok : MemoriesOk s) : SomeOk (rsWalk s va asid) := by
  unfold Machine.rsWalk
  split
  · exact trivial
  · refine .ite ?_ ?_
    · exact MemoriesOk.of_some_fst (.rsRead ok) ‹_›
    · refine .ite ?_ ?_
      · exact MemoriesOk.of_some_fst (.rsRead ok) ‹_›
      · refine .engThen (.rsTable (.of_some_fst (.rsRead ok) ‹_›)) (fun _ _ ok1 => ?_)
        split
        · exact trivial
        · exact .ite (MemoriesOk.of_some_fst (.rsRead ok1) ‹_›) (.ite (MemoriesOk.of_some_fst (.rsRead ok1) ‹_›) (.ite
            (MemoriesOk.of_some_fst (.rsRead ok1) ‹_›) (MemoriesOk.of_some_fst (.rsRead ok1) ‹_›)))

theorem MemoriesOk.modRun {f : RsRun → RsRun} (ok : MemoriesOk s) : MemoriesOk (modRun s f) := ok
theorem MemoriesOk.rsEnd {reason fva : Nat} {cause : BitVec 8} (ok : MemoriesOk s) : MemoriesOk (rsEnd s reason cause fva) := .modRun ok

theorem MemoriesOk.rsLeaf {x : RsRun} (ok : MemoriesOk s) : MemoriesOk (rsLeaf s x) := by
  unfold Machine.rsLeaf
  refine .ite ?_ ?_
  · exact .rsEnd ok
  · refine .engStep ok (.rsWalk ok) (fun _ _ ok1 => .rsEnd (.postFault ok1)) (fun _ _ ok1 => ?_)
    refine .ite ?_ ?_
    · exact .rsEnd ok1
    · refine .ite ?_ ?_
      · exact .rsEnd ok1
      · refine .ite ?_ ?_
        · exact .modRun ok1
        · split
          · exact ok1
          · exact .ite (.rsEnd (.of_some_fst (.rsRead ok1) ‹_›)) (.modRun (.of_some_fst (.rsRead ok1) ‹_›))

theorem OptOk.moveLine {ln : Nat} {old new : BitVec 64} (ok : MemoriesOk s) : OptOk (moveLine s ln old new) :=
  .ite trivial (.ite ok (.ite trivial (MemoriesOk.with_wells_rows (.setDir (.takeBack ok)))))

theorem MemoriesOk.closeWindow {l : RsLeaf} {plc : BitVec 64} (ok : MemoriesOk s) : MemoriesOk (closeWindow s l plc) := ok

theorem MemoriesOk.rsMove {x : RsRun} {l : RsLeaf} (ok : MemoriesOk s) : MemoriesOk (rsMove s x l) := by
  unfold Machine.rsMove
  refine .ite ?_ ?_
  · exact ok
  · refine .ite ?_ ?_
    · exact .rsEnd ok
    · split
      · exact ok
      · exact .modRun (.of_some (.moveLine ok) ‹_›)

theorem MemoriesOk.rsSwap {x : RsRun} {l : RsLeaf} (ok : MemoriesOk s) : MemoriesOk (rsSwap s x l) := by
  unfold Machine.rsSwap
  dsimp only
  split
  · exact .ite (.modRun (.closeWindow (.takeAck ok ‹_›))) (.rsEnd (.takeAck ok ‹_›))
  · exact .askTagged ok

theorem MemoriesOk.rsBack {l : RsLeaf} (ok : MemoriesOk s) : MemoriesOk (rsBack s l) := by
  unfold Machine.rsBack
  split
  · exact ok
  · exact .ite (.modRun (.closeWindow (.of_some (.moveLine ok) ‹_›))) (.modRun (.of_some (.moveLine ok) ‹_›))

theorem MemoriesOk.restripeStep (ok : MemoriesOk s) : MemoriesOk (restripeStep s) := by
  unfold Machine.restripeStep
  split
  · split <;> exact ok
  · split
    · exact .rsLeaf ok
    · exact .ite (.rsMove ok) (.rsSwap ok)
    · exact .ite (.modRun ok) (.rsBack ok)
    · exact ok

theorem OutOk.execRestripeJob (ok : MemoriesOk s) : OutOk (execRestripeJob s) := MemoriesOk.ite ok (.restripeStep ok)

theorem MemoriesOk.restripeEnd (ok : MemoriesOk s) : MemoriesOk (restripeEnd s) := by
  unfold Machine.restripeEnd
  split
  · split
    · exact .ite (.with_rsRun (.engineStoreLine ok)) (.engineStoreLine ok)
    · exact ok
  · exact ok

theorem OutOk.execRestripeJobEnd (ok : MemoriesOk s) : OutOk (execRestripeJobEnd s) := MemoriesOk.ite ok (.restripeEnd ok)
theorem MemoriesOk.modMarten {d : Nat} {f : Marten → Marten} (ok : MemoriesOk s) : MemoriesOk (modMarten s d f) := ok

theorem OutOk.execCutsel {a : BitVec 5} (ok : MemoriesOk s) : OutOk (execCutsel a s) :=
  .seqDo ok (fun _ _ => .ite (.seqTrap ok) (.ite (.seqWait ok) (.seqNext (.modMarten ok))))

theorem SomeOk.mjXlat (ok : MemoriesOk s) : SomeOk (mjXlat s die j va kind) := by
  unfold Machine.mjXlat
  split
  · dsimp only
    split <;> exact ok
  · exact .engThen (.engineWalk ok) (fun _ _ ok1 => MemoriesOk.modMarten ok1)

theorem MemoriesOk.mjDropped (ok : MemoriesOk s) : MemoriesOk (mjDropped s j pa) := .logPush ok

theorem SomeOk.mjReadLines (ok : MemoriesOk s) : SomeOk (mjReadLines die j fuel s va n) := by
  induction fuel generalizing s va n with
  | zero =>
    exact ok
  | succ fuel ih =>
    unfold Machine.mjReadLines
    exact .ite ok (.engThen (.mjXlat ok) (fun _ _ ok1 => .engThen (.ite ok1 (.engineLine ok1)) (fun _ _ ok2 => .engThen (ih ok2)
      (fun _ _ ok3 => ok3))))

theorem SomeOk.mjRead (ok : MemoriesOk s) : SomeOk (mjRead s die j va n) := .engThen (.mjReadLines ok) (fun _ _ ok1 => ok1)

theorem MemoriesOk.mjRun {α : Type} {m : MjM α} {stop : State → MjStop → State} {f : State → α → State} (ok : MemoriesOk s) (hm : MjOk m)
    (hstop : ∀ s e, MemoriesOk s → MemoriesOk (stop s e)) (hf : ∀ s a, MemoriesOk s → MemoriesOk (f s a)) :
    MemoriesOk (mjRun s m stop f) := by
  unfold Machine.mjRun
  split
  · exact ok
  · exact hstop _ _ (hm.of_run ok ‹_›)
  · exact hf _ _ (hm.of_run ok ‹_›)

theorem MjOk.mjRec : MjOk (mjRec die j va n) := by
  intro s ok
  have h := SomeOk.mjRead (die := die) (j := j) (va := va) (n := n) ok
  unfold Machine.mjRec
  rw [ExceptT.run_mk, StateT.run]
  split
  · trivial
  next he => exact MemoriesOk.of_some_fst h he
  next he => exact MemoriesOk.of_some_fst h he

theorem MjOk.malformed {α : Type} : MjOk (malformed (α := α)) := .throw
theorem MjOk.readGroup {g : Nat} : MjOk (readGroup die j g) := .ite .malformed (.bind .mjRec fun _ => .ite .malformed .pure)
theorem MjOk.readCluster {c : Nat} : MjOk (readCluster die j c) := .bind .mjRec fun _ => .ite .malformed .pure
theorem MjOk.readInst : MjOk (readInst die j n) := .bind .mjRec fun _ => .ite .malformed .pure
theorem MjOk.readIndices : MjOk (readIndices die j va n) := .bind .mjRec fun _ => .pure

theorem MjOk.selectIn {n : Inst} {g : Nat} {cs : List Nat} : MjOk (selectIn die j n g cs) := by
  induction cs with
  | nil => exact .pure
  | cons c cs ih =>
    have hjp : ∀ sel : Bool, MjOk (do
        let r ← Machine.selectIn die j n g cs
        Pure.pure (if sel then (c, g) :: r else r)) := fun _ => .bind ih fun _ => .pure
    exact .bind .readCluster fun _ => .ite (.bind .pure hjp) (.bind .readGroup fun _ => .bind .pure hjp)

theorem MjOk.visit {n : Inst} {v : Visit} : MjOk (visit die j n fuel v) := by
  induction fuel generalizing v with
  | zero => exact .throw
  | succ fuel ih =>
    unfold Machine.visit
    split
    · exact .pure
    · exact .bind .readGroup fun _ => .ite (.bind .selectIn fun _ => ih) (.ite ih (.bind .readIndices fun _ => ih))

theorem MjOk.fallback {a : Nat} : MjOk (fallback die j fuel a) := by
  induction fuel generalizing a with
  | zero => exact .pure
  | succ fuel ih =>
    exact .ite .pure (.bind .readGroup fun _ => .bind (.mapM fun _ => .readCluster) fun _ => .ite .pure ih)

theorem MjOk.substitute {sel rest : List (Nat × Nat)} {acc : List (Nat × Nat × Bool) × List Nat} :
    MjOk (substitute die j sel rest acc) := by
  induction rest generalizing acc with
  | nil => exact .pure
  | cons p rest ih => exact .bind .readCluster fun _ => .ite ih (.bind .fallback fun _ => ih)

theorem MjOk.cutTokens : MjOk (cutTokens die j n) :=
  .bind .readInst fun _ => .bind .readIndices fun _ => .bind .visit fun _ => .bind .substitute fun _ =>
    .ite .throw (.bind (.mapM fun _ => .bind .readGroup fun _ => .bind .readCluster fun _ => .pure) fun _ => .pure)

theorem MemoriesOk.modJob {f : MJob → MJob} (ok : MemoriesOk s) : MemoriesOk (modJob s die id f) := .modMarten ok
theorem MemoriesOk.dropJob (ok : MemoriesOk s) : MemoriesOk (dropJob s die id) := .modMarten ok

theorem MemoriesOk.mjPost {f : Option EngFault} (ok : MemoriesOk s) : MemoriesOk (mjPost s j f kind) := by
  unfold Machine.mjPost
  split
  · exact .enginePost ok
  · exact ok

theorem MemoriesOk.mjEnd {e : MjStop} (ok : MemoriesOk s) : MemoriesOk (mjEnd s die j e) := .modJob (.mjPost ok)
theorem MemoriesOk.mjLost {f : EngFault} (ok : MemoriesOk s) : MemoriesOk (mjLost s die j f kind) := .raiseAsync (.dropJob (.mjPost ok))

theorem SomeOk.snapshot {pages : List Nat} (ok : MemoriesOk s) : SomeOk (snapshot die j pages s) := by
  induction pages generalizing s with
  | nil => exact ok
  | cons p ps ih =>
    unfold Machine.snapshot
    split
    · trivial
    next s₁ g h =>
      have h₁ := ih (.of_some_fst (.engineXlat ok) ‹_›)
      dsimp only
      cases hs : Machine.snapshot die j ps s₁ with
      | none => trivial
      | some a => rw [hs] at h₁; exact h₁

theorem MjOk.readGraph : MjOk (readGraph die j) := by
  refine .bind .mjRec fun v => ?_
  dsimp only
  refine .ite .malformed fun s ok => ?_
  rw [ExceptT.run_mk, StateT.run]
  generalize ({ j with graph := BitVec.ofNat 512 v } : MJob) = k
  have h := SomeOk.snapshot (die := die) (j := k) (pages := upto (gh k 191 160)) ok
  cases hs : Machine.snapshot die k (upto (gh k 191 160)) s with
  | none => trivial
  | some p => rw [hs] at h; exact h

theorem MemoriesOk.beginJob (ok : MemoriesOk s) : MemoriesOk (beginJob s die j) := by
  unfold Machine.beginJob
  extract_lets d refuse put ring start
  have hput : ∀ s j, MemoriesOk s → MemoriesOk (put s j) := fun _ _ ok => .modJob ok
  have hstart : ∀ s j, MemoriesOk s → MemoriesOk (start s j) := fun _ _ ok => hput _ _ (.ite (.setRingDesc ok) ok)
  refine .ite (.mjEnd (hput _ _ ok)) (.ite (.mjEnd (hput _ _ ok)) ?_)
  split
  · exact ok
  · exact .mjEnd (hstart _ _ (MjOk.readGraph.of_run ok ‹_›))
  · exact hstart _ _ (MjOk.readGraph.of_run ok ‹_›)

theorem MemoriesOk.martenStart (ok : MemoriesOk s) : MemoriesOk (martenStart s die) := by
  unfold Machine.martenStart
  refine .ite ?_ ?_
  · exact ok
  · split
    · exact ok
    · exact .engStep ok (.mjRead ok) (fun _ _ ok1 => .mjLost ok1) (fun _ _ ok1 => .beginJob ok1)

theorem OutOk.execMartenJobStart (ok : MemoriesOk s) : OutOk (execMartenJobStart die s) := .withUnit ok (fun _ ok1 => .martenStart ok1)

theorem MemoriesOk.visitNext (ok : MemoriesOk s) : MemoriesOk (visitNext s die j) :=
  .mjRun ok .cutTokens (fun _ _ ok1 => .mjEnd ok1) (fun _ _ ok1 => .modJob ok1)

theorem MemoriesOk.sentToken (ok : MemoriesOk s) : MemoriesOk (sentToken s die j) := .modMarten (.modJob ok)

theorem MemoriesOk.stopJob {e : MEnd} {f : Option EngFault} (ok : MemoriesOk s) : MemoriesOk (stopJob s die j e f kind) :=
  .modJob (.mjPost ok)

theorem MemoriesOk.jobPush {t : Token} (ok : MemoriesOk s) : MemoriesOk (jobPush s die j t) := .ite (.mjDropped ok) (.ringPush ok)

theorem MemoriesOk.emitRing {pay : Nat} (ok : MemoriesOk s) : MemoriesOk (emitRing s die j pay) :=
  .ite (.stopJob ok) (.sentToken (.jobPush ok))

theorem MemoriesOk.jobWrite {bs : List Byte} {fault : State → EngFault → State} {f : State → State} (ok : MemoriesOk s)
    (hfault : ∀ s x1, MemoriesOk s → MemoriesOk (fault s x1)) (hf : ∀ s, MemoriesOk s → MemoriesOk (f s)) :
    MemoriesOk (jobWrite s die j va bs fault f) :=
  .engStep ok (.mjXlat ok) (fun _ _ ok1 => hfault _ _ ok1) (fun _ _ ok1 => .ite (hf _ (.mjDropped ok1)) (.ite (hf _ (.engineStoreLine ok1))
    (.engineStoreLine ok1)))

theorem MemoriesOk.emitBuild {pay part : Nat} (ok : MemoriesOk s) : MemoriesOk (emitBuild s die j pay part) :=
  .mjRun ok .mjRec (fun _ _ ok1 => .stopJob ok1) (fun _ _ ok1 => .ite (.sentToken (.modJob (.modJob ok1))) (.jobWrite ok1 (fun _ _ ok2 =>
    .stopJob ok2) (fun _ ok2 => .sentToken (.modJob ok2))))

theorem MemoriesOk.martenEmit (ok : MemoriesOk s) : MemoriesOk (martenEmit s die id) := by
  unfold Machine.martenEmit
  split
  · exact ok
  · refine .ite ?_ ?_
    · exact ok
    · refine .ite ?_ ?_
      · exact .visitNext ok
      · split
        · exact ok
        · exact .ite ok (.ite (.emitBuild ok) (.emitRing ok))

theorem OutOk.execMartenTokenEmit (ok : MemoriesOk s) : OutOk (execMartenTokenEmit die id s) := .withUnit ok (fun _ ok1 => .martenEmit ok1)
theorem MemoriesOk.jobClearPb (ok : MemoriesOk s) : MemoriesOk (jobClearPb s j) := .ite (.setRingDesc ok) ok

theorem MemoriesOk.jobArrive (ok : MemoriesOk s) : MemoriesOk (jobArrive s die j) := by
  unfold Machine.jobArrive
  refine .ite ?_ ?_
  · exact .dropJob ok
  · refine .ite ?_ ?_
    · exact .logPush (.dropJob ok)
    · refine .ite ?_ ?_
      · exact .usePort ok (fun _ ok1 => .raiseAsync (.logPush (.dropJob ok1)))
      · split
        · exact .raiseAsync (.logPush (.dropJob (.of_updRefused (.portUpdate ok (fun _ ok1 => .barrierUpdate ok1)) ‹_›)))
        · exact .of_updWait (.portUpdate ok (fun _ ok1 => .barrierUpdate ok1)) ‹_›
        · exact .dropJob (.of_updDone (.portUpdate ok (fun _ ok1 => .barrierUpdate ok1)) ‹_›)

theorem MemoriesOk.jobWrites (ok : MemoriesOk s) : MemoriesOk (jobWrites s die j) := by
  unfold Machine.jobWrites
  split
  · exact .jobWrite ok (fun _ _ ok1 => .modJob (.mjPost ok1)) (fun _ ok1 => .modJob ok1)
  · exact .jobWrite ok (fun _ _ ok1 => .mjLost (.jobClearPb ok1)) (fun _ ok1 => .modJob (.jobClearPb ok1))

theorem MemoriesOk.martenEnd (ok : MemoriesOk s) : MemoriesOk (martenEnd s die id) := by
  unfold Machine.martenEnd
  split
  · exact ok
  · exact .ite (.jobArrive ok) (.ite ok (.ite (.modJob ok) (.ite (.ite (.modJob (.stopJob ok)) (.ite ok (.modJob (.jobPush ok))))
      (.jobWrites ok))))

theorem OutOk.execMartenJobEnd (ok : MemoriesOk s) : OutOk (execMartenJobEnd die id s) := .withUnit ok (fun _ ok1 => .martenEnd ok1)

end Sys2Proof.Claims
end

section
/-!
# The canonical form of the memories: invalidations, the Stoat engine, saving and restoring

One lemma for each operation of the model: it keeps the canonical form of the memories. They stand in the order of the model's definitions.
-/
namespace Sys2Proof.Claims
open Sys2Proof.Machine

variable {s : State} {e : Elem} {base die ln n r : Nat}

theorem MemoriesOk.dropXlats (ok : MemoriesOk s) : MemoriesOk (dropXlats s r ln) :=
  .ite ok (.tmapElems_acks (.setR ok) fun _ _ ok => .ite ok ok)

theorem MemoriesOk.publishOld (ok : MemoriesOk s) : MemoriesOk (publishOld s r ln).1 :=
  .ite_fst (.publishDie ok) (.foldl_fst (.publishDie ok) (fun _ _ ok1 => .ite_fst ok1 (.ite_fst (.settle (.recallLine (.publishDie ok1)))
    (.publishDie ok1))))

theorem MemoriesOk.ackInvalidation (ok : MemoriesOk s) : MemoriesOk (ackInvalidation s r ln) := by
  unfold Machine.ackInvalidation
  refine .ite ?_ ?_
  · exact .modCist ok
  · dsimp only
    split
    · exact .modDir (.modCist ok)
    · exact .ite (.recallOver (.setHome (.modDir (.modCist ok)))) (.ite (.settle (.setHome (.modDir (.modCist ok)))) (.setHome (.modDir
        (.modCist ok))))

theorem MemoriesOk.invalidate (ok : MemoriesOk s) : MemoriesOk (invalidate s r ln) :=
  .ite ok (.ite ok (.ite (.ackInvalidation (.dropXlats ok)) (.ite (.dropXlats ok) (.ite (.publishOld (.dropXlats ok)) (.modR
    (.ackInvalidation (.publishOld (.dropXlats ok))))))))

theorem OutOk.execTranslationInvalidation (ok : MemoriesOk s) : OutOk (execTranslationInvalidation r ln s) :=
  .withUnit ok (fun _ ok1 => .invalidate ok1)

theorem MemoriesOk.placeTmpls {f : State → List ActorState → State} {es : List (BitVec 256)} {acc : List ActorState}
    (hf : ∀ s x1, MemoriesOk s → MemoriesOk (f s x1)) (ok : MemoriesOk s) : MemoriesOk (placeTmpls r f es s acc) := by
  induction es generalizing s acc with
  | nil =>
    exact hf _ _ ok
  | cons x es ih =>
    unfold Machine.placeTmpls
    refine .ite ?_ ?_
    · exact .seqTrap ok
    · refine .seqGotThen (.seqGotIssued (.seqImage ok)) (fun _ _ ok1 => ?_)
      split
      · exact .rejectImage ok1
      · exact ih ok1

theorem MemoriesOk.attachTable {t : List ActorState} (ok : MemoriesOk s) : MemoriesOk (attachTable s r t) := by
  unfold Machine.attachTable
  split
  · exact .ite (.modR ok) (.stoatEffect ok)
  · exact .stoatEffect ok

theorem OutOk.execPlace {a : BitVec 5} (ok : MemoriesOk s) : OutOk (execPlace a s) :=
  .seqPriv ok (fun _ _ => .ite (.seqTrap ok) (.seqGotThen (.seqGotIssued (.seqRecord ok)) (fun _ _ ok1 => .ite (.seqTrap ok1) (.seqGotThen
    (.seqGotIssued (.seqRecord ok1)) (fun _ _ ok2 => .ite (.seqTrap ok2) (.placeTmpls (fun _ _ ok3 => .seqNext (.attachTable ok3)) ok2))))))

theorem MemoriesOk.setFrozen {v : Bool} (ok : MemoriesOk s) : MemoriesOk (setFrozen s r v) := .modR ok
theorem OutOk.execPlaceFrz (ok : MemoriesOk s) : OutOk (execPlaceFrz s) := .seqPriv ok (fun _ _ => .seqNext (.setFrozen ok))
theorem OutOk.execPlaceThaw (ok : MemoriesOk s) : OutOk (execPlaceThaw s) := .seqPriv ok (fun _ _ => .seqNext (.setFrozen ok))
theorem OutOk.execPlaceSt {d : BitVec 5} (ok : MemoriesOk s) : OutOk (execPlaceSt d s) := .seqPriv ok (fun _ _ => .seqPut ok)
theorem MemoriesOk.modActor {j : Nat} {f : ActorState → ActorState} (ok : MemoriesOk s) : MemoriesOk (modActor s r j f) := .modR ok

theorem MemoriesOk.startGrow {j : Nat} (ok : MemoriesOk s) : MemoriesOk (startGrow s r j) := by
  unfold Machine.startGrow
  split
  · exact ok
  · exact .modR (.modActor ok)

theorem MemoriesOk.startShrink {j : Nat} {a : ActorState} (ok : MemoriesOk s) : MemoriesOk (startShrink s r j a) := .modR (.modActor ok)

theorem MemoriesOk.stoatChange {l : List ActorState} {j : Nat} (ok : MemoriesOk s) : MemoriesOk (stoatChange s r l j) := by
  induction l generalizing s j with
  | nil =>
    exact ok
  | cons x l ih =>
    unfold Machine.stoatChange
    exact .ite (.startGrow ok) (.ite (.startShrink ok) (ih ok))

theorem MemoriesOk.stoatSample (ok : MemoriesOk s) : MemoriesOk (stoatSample s r) := by
  unfold Machine.stoatSample
  dsimp only
  split
  · exact ok
  · exact .ite ok (.stoatChange (.setR ok))

theorem OutOk.execStoatSample (ok : MemoriesOk s) : OutOk (execStoatSample r s) := .withUnit ok (fun _ ok1 => .stoatSample ok1)

theorem MemoriesOk.growComplete (ok : MemoriesOk s) : MemoriesOk (growComplete s r) := by
  unfold Machine.growComplete
  dsimp only
  split
  · refine .ite ?_ ?_
    · exact ok
    · split
      · exact ok
      · exact .rebind (.modR (.modActor (.foldl ok (fun _ _ ok1 => .ite (.install ok1) ok1))))
  · exact ok

theorem OutOk.execStoatGrowComplete (ok : MemoriesOk s) : OutOk (execStoatGrowComplete r s) := .withUnit ok (fun _ ok1 => .growComplete ok1)

theorem MemoriesOk.drainClear {st : Nat} (ok : MemoriesOk s) : MemoriesOk (drainClear s r st) :=
  .ite (.rebind (.modR (.foldl ok (fun _ _ ok1 => .install ok1)))) ok

theorem OutOk.execStoatDrainClear {st : Nat} (ok : MemoriesOk s) : OutOk (execStoatDrainClear r st s) :=
  .withUnit ok (fun _ ok1 => .drainClear ok1)

theorem SpadOk.freeze (ok : SpadOk e) : SpadOk (freeze e) := by
  unfold Machine.freeze
  split <;> exact ok

theorem MemoriesOk.regionHalted (ok : MemoriesOk s) : MemoriesOk (regionHalted s r) :=
  .ite (.modR (.tmapElems ok fun _ _ ok => .ite (.freeze ok) ok)) ok

theorem OutOk.execRegionHalted (ok : MemoriesOk s) : OutOk (execRegionHalted r s) := .withUnit ok (fun _ ok1 => .regionHalted ok1)
theorem SpadOk.saveElem (ok : SpadOk e) : SpadOk (saveElem e) := ok

theorem MemoriesOk.dropCounts {x : Region} (ok : MemoriesOk s) : MemoriesOk (dropCounts s x) :=
  .foldl (.foldl ok (fun _ _ ok1 => .foldl ok1 (fun _ _ ok2 => .modE ok2 (fun ok3 => .countSeal ok3)))) (fun _ _ ok1 => .foldl ok1
    (fun _ _ ok2 => .ite ok2 (.foldl ok2 (fun _ _ ok3 => .modE ok3 (fun ok4 => .countSeal ok4)))))

theorem MemoriesOk.areaSync (ok : MemoriesOk s) : MemoriesOk (areaSync s base n).1 :=
  .foldl_fst ok (fun _ _ ok1 => .ite_fst (.homeSync ok1) ok1)

theorem MemoriesOk.writeArea {h : BitVec 512} (ok : MemoriesOk s) : MemoriesOk (writeArea s r base h) :=
  .engineWrite (.engineWrite (.foldl ok (fun _ _ ok1 => .engineWrite ok1)))

theorem MemoriesOk.clearSaved (ok : MemoriesOk s) : MemoriesOk (clearSaved s r) :=
  .modR (.tmapElems ok fun _ _ ok => .ite (.clearElem ok) ok)

theorem MemoriesOk.saveComplete (ok : MemoriesOk s) : MemoriesOk (saveComplete s r) := by
  unfold Machine.saveComplete
  dsimp only
  split
  · exact ok
  · refine .ite ok (.ite (.drainWcb ok) (.ite (.publishDie ok) (.ite (.clearSharers (.publishDie ok)) ?_)))
    exact .clearSaved (.with_saves (.writeArea (.modR (.tmapElems (.dropCounts (.clearSharers (.publishDie ok)))
      fun _ _ ok => .ite (.saveElem ok) ok))))

theorem OutOk.execSaveComplete (ok : MemoriesOk s) : OutOk (execSaveComplete r s) := .withUnit ok (fun _ ok1 => .saveComplete ok1)
theorem SpadOk.landElem {a b c : Nat} (ok : SpadOk e) : SpadOk (landElem a b c n e) := ok
theorem SpadOk.readElemBlock {spad : Nat} : SpadOk (readElemBlock s base n spad e) := memWrite_wf Memory.wf_nil ..

theorem SomeOk.readImages {q : XReq} {fuel va : Nat} (ok : MemoriesOk s) : SomeOk (readImages die q fuel s va) := by
  induction fuel generalizing s va with
  | zero =>
    exact ok
  | succ fuel ih =>
    unfold Machine.readImages
    exact .engThen (.engineRecord ok) (fun _ _ ok1 => .engThen (.engineRecord ok1) (fun _ _ ok2 => .engThen (ih ok2) (fun _ _ ok3 => ok3)))

theorem SomeOk.rereadLoad {x : Region} {l : PendLoad} (ok : MemoriesOk s) : SomeOk (rereadLoad die x s l) := by
  unfold Machine.rereadLoad
  refine .engThen (.engineRecord ok) (fun _ _ ok1 => ?_)
  refine .ite ?_ ?_
  · exact ok1
  · refine .engThen (.readImages ok1) (fun _ _ ok2 => ?_)
    split <;> exact ok2

theorem SomeOk.rereadLoads {x : Region} {l : List PendLoad} (ok : MemoriesOk s) : SomeOk (rereadLoads die x s l) := by
  induction l generalizing s with
  | nil =>
    exact ok
  | cons x l ih =>
    unfold Machine.rereadLoads
    exact .engThen (.rereadLoad ok) (fun _ _ ok1 => .engThen (ih ok1) (fun _ _ ok2 => ok2))

theorem SomeOk.restoreCheck (ok : MemoriesOk s) : SomeOk (restoreCheck s r base) := by
  unfold Machine.restoreCheck
  refine .ite ?_ ?_
  · exact ok
  · refine .ite ?_ ?_
    · exact ok
    · refine .ite ?_ ?_
      · exact ok
      · split
        · exact ok
        · split
          · exact ok
          · refine .ite ?_ ?_
            · exact ok
            · dsimp only
              split
              · exact trivial
              · exact MemoriesOk.of_some_fst (.rereadLoads ok) ‹_›
              · exact .ite (MemoriesOk.of_some_fst (.rereadLoads ok) ‹_›) (MemoriesOk.of_some_fst (.rereadLoads ok) ‹_›)

theorem MemoriesOk.claimRings (ok : MemoriesOk s) : MemoriesOk (claimRings s r) := .foldl ok (fun _ _ ok1 => .ite (.setRingDesc ok1) ok1)

theorem MemoriesOk.restoreInto {v : Saved} {loads : List PendLoad} (ok : MemoriesOk s) : MemoriesOk (restoreInto s r base v loads) := by
  refine .stallTimer (.raiseAsync (.optApply (.rebind (.claimRings (.with_saves (.engineWrite (.setR (.of_setElems ok ?_))))))))
  intro p hp
  obtain ⟨k, -, rfl⟩ := List.mem_map.mp hp
  exact .landElem .readElemBlock

theorem MemoriesOk.restoreComplete (ok : MemoriesOk s) : MemoriesOk (restoreComplete s r) := by
  unfold Machine.restoreComplete
  refine .ite ?_ ?_
  · exact ok
  · refine .ite ?_ ?_
    · exact .areaSync ok
    · split
      · exact ok
      · exact .modR (.ite (.clearRegion (.of_some_fst (.restoreCheck (.areaSync ok)) ‹_›)) (.of_some_fst (.restoreCheck (.areaSync ok))
          ‹_›))
      · exact .ite (.clearSharers (.of_some_fst (.restoreCheck (.areaSync ok)) ‹_›)) (.restoreInto (.clearSharers (.of_some_fst
          (.restoreCheck (.areaSync ok)) ‹_›)))

theorem OutOk.execRestoreComplete (ok : MemoriesOk s) : OutOk (execRestoreComplete r s) := .withUnit ok (fun _ ok1 => .restoreComplete ok1)

end Sys2Proof.Claims
end

section
/-!
# The canonical form of the memories: links, power, time and boot

One lemma for each operation of the model: it keeps the canonical form of the memories. They stand in the order of the model's definitions.
-/
namespace Sys2Proof.Claims
open Sys2Proof.Machine

variable {s : State} {fn ln off p r : Nat}

theorem MemoriesOk.hostRefuse {write : Bool} {addr : Nat} (ok : MemoriesOk s) : MemoriesOk (hostRefuse s fn write addr) :=
  .with_hostReplies (.logPush ok)

theorem MemoriesOk.hostPiece {owner id i pa pos n : Nat} {q : HostReq} (ok : MemoriesOk s) :
    MemoriesOk (hostPiece s owner id i q pa pos n).1 := by
  unfold Machine.hostPiece
  split
  · split
    · split
      · exact .postReq ok
      · exact .windowStore ok
      · exact .devWrite ok
      · exact .ite_fst (.postReq ok) (.logPush ok)
      · exact ok
    · split
      · exact .postReq ok
      · exact .windowStore ok
      · exact ok
      · exact .ite_fst (.postReq ok) (.logPush ok)
      · exact ok
    · split
      · exact .postReq ok
      · exact .windowStore ok
      · exact .devWrite ok
      · exact .ite_fst (.postReq ok) (.logPush ok)
      · exact ok
  · split
    · split
      · exact .postReq ok
      · exact .windowStore ok
      · exact .devWrite ok
      · exact .ite_fst (.postReq ok) (.logPush ok)
      · exact ok
    · split
      · exact .postReq ok
      · exact .windowStore ok
      · exact ok
      · exact .ite_fst (.postReq ok) (.logPush ok)
      · exact ok
    · split
      · exact .postReq ok
      · exact ok
      · exact ok
      · refine .ite_fst ?_ ?_
        · exact .postReq ok
        · split
          · exact ok
          · exact ok
          · exact .logPush ok
      · exact ok

theorem MemoriesOk.hostSync {ps : List (Nat × Nat × Nat)} (ok : MemoriesOk s) : MemoriesOk (hostSync s ps).1 := by
  unfold Machine.hostSync
  refine .foldl_fst ok (fun _ _ ok1 => ?_)
  refine .ite_fst ?_ ?_
  · exact ok1
  · split
    · exact .windowSync ok1
    · exact ok1

theorem MemoriesOk.hostIssue {owner : Nat} {q : HostReq} {ps : List (Nat × Nat × Nat)} (ok : MemoriesOk s) :
    MemoriesOk (hostIssue s fn owner q ps) :=
  .ite (.hostSync ok) (.with_hostPend_nextHost (.foldl_fst (.hostSync ok) (fun _ _ ok1 => .hostPiece ok1)))

theorem MemoriesOk.hostAnswer {h : HostPend} (ok : MemoriesOk s) : MemoriesOk (hostAnswer s h) := by
  unfold Machine.hostAnswer
  refine .ite ?_ ?_
  · refine .ite ?_ ?_
    · refine .with_hostPend ?_
      refine .foldl_fst ok (fun _ _ ok1 => ?_)
      split
      · exact .takeAck ok1 ‹_›
      · exact ok1
    · refine .with_hostReplies ?_
      refine .with_hostPend ?_
      refine .foldl_fst ok (fun _ _ ok1 => ?_)
      split
      · exact .takeAck ok1 ‹_›
      · exact ok1
  · refine .with_hostPend ?_
    refine .foldl_fst ok (fun _ _ ok1 => ?_)
    split
    · exact .takeAck ok1 ‹_›
    · exact ok1

theorem MemoriesOk.hostStep (ok : MemoriesOk s) : MemoriesOk (hostStep s) := .foldl ok (fun _ _ ok1 => .hostAnswer ok1)

theorem MemoriesOk.hostFault {asid kind : Nat} {f : EngFault} (ok : MemoriesOk s) : MemoriesOk (hostFault s fn asid kind f) :=
  .enginePost ok

theorem MemoriesOk.doorbellRead (ok : MemoriesOk s) : MemoriesOk (doorbellRead s fn off) :=
  .ite (.qSync ok) (.ite (.hostRefuse (.qSync ok)) (.with_hostReplies (.qSync ok)))

theorem MemoriesOk.hostAccess {q : HostReq} (ok : MemoriesOk s) : MemoriesOk (hostAccess s q) := by
  unfold Machine.hostAccess
  split
  · exact .doorbellRead ok
  · dsimp only
    split
    · exact .hostRefuse (.hostFault ok)
    · exact .ite (.hostRefuse ok) (.hostIssue ok)

theorem MemoriesOk.hostRequest {q : HostReq} (ok : MemoriesOk s) : MemoriesOk (hostRequest s q) := .ite (.hostAccess ok) ok
theorem OutOk.execHostRequest {q : HostReq} (ok : MemoriesOk s) : OutOk (execHostRequest q s) := MemoriesOk.hostRequest ok

theorem SomeOk.windowPieces {a : XReq} {l : List (Nat × Nat × Nat)} (ok : MemoriesOk s) : SomeOk (windowPieces a s l) := by
  induction l generalizing s with
  | nil =>
    exact ok
  | cons x l ih =>
    unfold Machine.windowPieces
    exact .engThen (.engineXlat ok) (fun _ _ ok1 => .engThen (ih ok1) (fun _ _ ok2 => ok2))

theorem MemoriesOk.windowRequest {q : HostReq} (ok : MemoriesOk s) : MemoriesOk (windowRequest s fn q) := by
  unfold Machine.windowRequest
  split
  · exact .doorbellRead ok
  · exact .ite (.hostRefuse ok) (.engStep ok (.windowPieces ok) (fun _ _ ok1 => .hostRefuse (.hostFault ok1)) (fun _ _ ok1 => .hostIssue
      ok1))

theorem OutOk.execVfWindowRequest {q : HostReq} (ok : MemoriesOk s) : OutOk (execVfWindowRequest fn q s) :=
  .withUnit ok (fun _ ok1 => .ite (.windowRequest ok1) ok1)

theorem MemoriesOk.doorbellWrite {w : BitVec 32} (ok : MemoriesOk s) : MemoriesOk (doorbellWrite s fn off w) :=
  .ite (.qSync ok) (.ite (.hostRefuse (.qSync ok)) (.ite (.hostStep (.qSync ok)) (.qPut (.qSync ok))))

theorem OutOk.execDoorbellWrite {w : BitVec 32} (ok : MemoriesOk s) : OutOk (execDoorbellWrite fn off w s) :=
  .withUnit ok (fun _ ok1 => .ite (.doorbellWrite ok1) ok1)

theorem MemoriesOk.stopDisp {d : Disp} {reason : Nat} {cause : BitVec 8} (ok : MemoriesOk s) : MemoriesOk (stopDisp s d reason cause) := by
  unfold Machine.stopDisp
  dsimp only
  split
  · exact .ite (.advanceHead (.modDisp (.with_saves (.foldl ok (fun _ _ ok1 => .clearRegion ok1))))) (.modDisp (.with_saves (.foldl ok (fun
      _ _ ok1 => .clearRegion ok1))))
  · exact .modDisp (.with_saves (.foldl ok (fun _ _ ok1 => .clearRegion ok1)))

theorem MemoriesOk.stopDisps {p : Disp → Bool} {reason : Nat} {cause : BitVec 8} (ok : MemoriesOk s) :
    MemoriesOk (stopDisps s p reason cause) :=
  .foldl ok (fun _ _ ok1 => .stopDisp ok1)

theorem MemoriesOk.functionReset (ok : MemoriesOk s) : MemoriesOk (functionReset s fn) := by
  unfold Machine.functionReset
  dsimp only
  exact .with_saves_homes_acks_hostPend (.stopDisps (.foldl ok fun _ _ ok => .dropStanding (.qPut (.qSync ok))))

theorem OutOk.execFunctionLevelReset (ok : MemoriesOk s) : OutOk (execFunctionLevelReset fn s) :=
  .withUnit ok (fun _ ok1 => .functionReset ok1)

theorem MemoriesOk.setPort {x : LinkPort} (ok : MemoriesOk s) : MemoriesOk (Machine.setPort s p x) := ok
theorem MemoriesOk.portFail (ok : MemoriesOk s) : MemoriesOk (portFail s p) := .setPort ok

theorem MemoriesOk.peerAnswered {wide bad : Bool} {d : Line} (ok : MemoriesOk s) : MemoriesOk (peerAnswered s ln wide d bad) := by
  unfold Machine.peerAnswered
  dsimp only
  split
  · exact .ite (.setHome ok) (.setHome (.with_poison (.ite ok (.foldl ok (fun _ _ ok1 => .dropCLine ok1)))))
  · exact ok

theorem MemoriesOk.peerSnooped {k : Nat} (ok : MemoriesOk s) : MemoriesOk (peerSnooped s ln k) := by
  unfold Machine.peerSnooped
  refine .foldl ok (fun _ _ ok1 => ?_)
  split
  · split
    · split
      · dsimp only
        split
        · exact .setCLine (.ite_fst ok1 (.publishDie ok1))
        · exact .ite_fst ok1 (.publishDie ok1)
      · dsimp only
        split
        · exact .ite (.dropCLine (.ite_fst ok1 (.publishDie ok1))) (.setCLine (.ite_fst ok1 (.publishDie ok1)))
        · exact .ite_fst ok1 (.publishDie ok1)
    · split
      · dsimp only
        split
        · exact .setCLine (.ite_fst ok1 (.publishDie ok1))
        · exact .ite_fst ok1 (.publishDie ok1)
      · dsimp only
        split
        · exact .ite (.dropCLine (.ite_fst ok1 (.publishDie ok1))) (.setCLine (.ite_fst ok1 (.publishDie ok1)))
        · exact .ite_fst ok1 (.publishDie ok1)
  · split
    · split
      · dsimp only
        split
        · exact .setCLine (.ite_fst ok1 (.publishDie ok1))
        · exact .ite_fst ok1 (.publishDie ok1)
      · dsimp only
        split
        · exact .ite (.dropCLine (.ite_fst ok1 (.publishDie ok1))) (.ite_fst ok1 (.publishDie ok1))
        · exact .ite_fst ok1 (.publishDie ok1)
    · split
      · dsimp only
        split
        · exact .setCLine (.ite_fst ok1 (.publishDie ok1))
        · exact .ite_fst ok1 (.publishDie ok1)
      · dsimp only
        split
        · exact .ite (.dropCLine (.ite_fst ok1 (.publishDie ok1))) (.ite_fst ok1 (.publishDie ok1))
        · exact .ite_fst ok1 (.publishDie ok1)

theorem MemoriesOk.peerServe {d : Nat} {q : PeerReq} (ok : MemoriesOk s) : MemoriesOk (peerServe s d q) := by
  unfold Machine.peerServe
  refine .ite ?_ ?_
  · exact ok
  · split
    · exact ok
    · exact ok
    · exact .ite (.postReq (.noteWell ok)) ok
    · exact .ite (.postReq (.noteWell ok)) ok
    · exact .ite (.postReq (.noteWell ok)) ok
    · exact .ite (.postReq (.noteWell ok)) ok
    · exact .ite (.foldl ok (fun _ _ ok1 => .postReq (.noteWell ok1))) ok
    · exact .ite (.postReq (.noteWell ok)) ok
    · refine .ite ?_ ?_
      · split
        · exact ok
        · exact .hostAccess ok
      · exact ok
    · exact .ite (.peerAnswered ok) ok
    · exact .ite (.peerSnooped ok) ok

theorem MemoriesOk.flitReceive {ok : Bool} {q : PeerReq} (hs : MemoriesOk s) : MemoriesOk (flitReceive s p ok q) :=
  .ite hs (.ite (.peerServe (.setPort hs)) (.setPort hs))

theorem OutOk.execFlitReceive {on : Bool} {q : PeerReq} (ok : MemoriesOk s) : OutOk (execFlitReceive p on q s) :=
  .withUnit ok (fun _ ok1 => .flitReceive ok1)

theorem MemoriesOk.flitReplay (ok : MemoriesOk s) : MemoriesOk (flitReplay s p) := .ite ok (.ite (.portFail ok) (.setPort ok))
theorem OutOk.execFlitReplay (ok : MemoriesOk s) : OutOk (execFlitReplay p s) := .withUnit ok (fun _ ok1 => .flitReplay ok1)
theorem MemoriesOk.receiveTimeout (ok : MemoriesOk s) : MemoriesOk (receiveTimeout s p) := .ite (.portFail ok) ok

theorem OutOk.execPortReceiveTimeout (ok : MemoriesOk s) : OutOk (execPortReceiveTimeout p s) :=
  .withUnit ok (fun _ ok1 => .receiveTimeout ok1)

theorem MemoriesOk.portRetrain (ok : MemoriesOk s) : MemoriesOk (portRetrain s p) := by
  unfold Machine.portRetrain
  dsimp only
  split
  · exact .setPort ok
  · exact .setPort ok
  · exact .setPort ok
  · exact ok

theorem OutOk.execPortRetrain (ok : MemoriesOk s) : OutOk (execPortRetrain p s) := .withUnit ok (fun _ ok1 => .portRetrain ok1)
theorem MemoriesOk.dropAgent {ag : Nat} (ok : MemoriesOk s) : MemoriesOk (dropAgent s ln ag) := .setDir (.ite ok ok)

theorem MemoriesOk.dropRequests {ag : Nat} (ok : MemoriesOk s) : MemoriesOk (dropRequests s ln ag) := by
  unfold Machine.dropRequests
  split
  · dsimp only
    split
    · exact .ite (.endRecall (.setHome ok)) (.settle (.setHome ok))
    · exact .setHome ok
  · dsimp only
    split
    · exact .ite (.endRecall (.setHome ok)) (.settle (.setHome ok))
    · exact .setHome ok

theorem MemoriesOk.freshLoss (ok : MemoriesOk s) : MemoriesOk (freshLoss s) := ok

theorem MemoriesOk.endPeerReqs {d : Nat} (ok : MemoriesOk s) : MemoriesOk (endPeerReqs s d ln) := by
  unfold Machine.endPeerReqs
  refine .setHome ?_
  refine .foldl ok (fun _ _ ok1 => ?_)
  split
  · split
    · split
      · exact .with_acks (.logPush ok1)
      · exact .logPush ok1
    · split <;> exact ok1
  · split
    · split
      · exact .with_acks (.logPush ok1)
      · exact .logPush ok1
    · split <;> exact ok1
  · split
    · split
      · exact .with_acks (.logPush ok1)
      · exact .logPush ok1
    · split <;> exact ok1

theorem MemoriesOk.dropPeerLines {d : Nat} (ok : MemoriesOk s) : MemoriesOk (dropPeerLines s d) :=
  .foldl (.foldl ok (fun _ _ ok1 => .endPeerReqs ok1)) (fun _ _ ok1 => .modCist (.foldl ok1 (fun _ _ ok2 => .logPush ok2)))

theorem MemoriesOk.peerLost {d : Nat} (ok : MemoriesOk s) : MemoriesOk (peerLost s d) :=
  .ite ok (.stopDisps (.dropPeerLines (.foldl (.foldl (.freshLoss ok) (fun _ _ ok1 => .dropAgent ok1)) (fun _ _ ok1 => .dropRequests ok1))))

theorem OutOk.execPeerLost {d : Nat} (ok : MemoriesOk s) : OutOk (execPeerLost d s) := .withUnit ok (fun _ ok1 => .peerLost ok1)

theorem MemoriesOk.cutLine {well : Nat} (ok : MemoriesOk s) : MemoriesOk (cutLine s ln well) :=
  .foldl ok (fun _ _ ok1 => .ite (.modCist (.modDir (.dropCLine (.dropRequests (.dropAgent ok1))))) ok1)

theorem MemoriesOk.dieLinkFail {f : Nat} (ok : MemoriesOk s) : MemoriesOk (dieLinkFail s f) :=
  .ite ok (.stopDisps (.foldl (.freshLoss ok) (fun _ _ ok1 => .cutLine ok1)))

theorem OutOk.execDieLinkFail {f : Nat} (ok : MemoriesOk s) : OutOk (execDieLinkFail f s) := .withUnit ok (fun _ ok1 => .dieLinkFail ok1)

theorem MemoriesOk.powerRefill (ok : MemoriesOk s) : MemoriesOk (powerRefill s r) :=
  .setR (.foldl ok (fun _ _ ok1 => .modE ok1 (fun ok2 => ok2)))

theorem OutOk.execPowerTokenRefill (ok : MemoriesOk s) : OutOk (execPowerTokenRefill r s) := .withUnit ok (fun _ ok1 => .powerRefill ok1)

theorem MemoriesOk.budgetRecompute (ok : MemoriesOk s) : MemoriesOk (budgetRecompute s) :=
  .ite (.with_free_lastBudget (.foldl ok fun _ _ ok => .modR ok)) ok

theorem OutOk.execPwrbudRecompute (ok : MemoriesOk s) : OutOk (execPwrbudRecompute s) := MemoriesOk.budgetRecompute ok

theorem MemoriesOk.powerEmergency (ok : MemoriesOk s) : MemoriesOk (powerEmergency s) := by
  unfold Machine.powerEmergency
  split
  · split
    · exact .ite (.prRequest ok) ok
    · exact ok
  · split
    · exact .ite (.prRequest ok) ok
    · exact ok

theorem OutOk.execPowerEmergency (ok : MemoriesOk s) : OutOk (execPowerEmergency s) := MemoriesOk.powerEmergency ok
theorem MemoriesOk.monitorCycle (ok : MemoriesOk s) : MemoriesOk (monitorCycle s r) := .ite (.setR ok) ok
theorem MemoriesOk.windowEnd (ok : MemoriesOk s) : MemoriesOk (windowEnd s r) := .modR ok

theorem OutOk.execBackpressureWindowEnd (ok : MemoriesOk s) : OutOk (execBackpressureWindowEnd r s) :=
  .withUnit ok (fun _ ok1 => .windowEnd ok1)

theorem MemoriesOk.cycleEvents (ok : MemoriesOk s) : MemoriesOk (cycleEvents s r) :=
  .ite (.powerRefill (.ite (.windowEnd (.ite (.stoatSample ok) ok)) (.ite (.stoatSample ok) ok))) (.ite (.windowEnd (.ite (.stoatSample ok)
    ok)) (.ite (.stoatSample ok) ok))

theorem MemoriesOk.tickRegion (ok : MemoriesOk s) : MemoriesOk (tickRegion s r) :=
  .ite (.modR (.cycleEvents (.requestPacket (.requestPacket (.monitorCycle (.portGrants ok)))))) ok

theorem MemoriesOk.tickTime (ok : MemoriesOk s) : MemoriesOk (tickTime s) :=
  .hostStep (.frmStep (.meterBoundary (.foldl (.with_time (.foldl ok (fun _ _ ok1 => .ite ok1 (.agePut ok1)))) (fun _ _ ok1 => .heldTick
    ok1))))

theorem MemoriesOk.startFail {reason : Nat} (ok : MemoriesOk s) : MemoriesOk (startFail s reason) := ok
theorem OutOk.execGoodTimeout (ok : MemoriesOk s) : OutOk (execGoodTimeout s) := MemoriesOk.ite (.startFail ok) ok
theorem MemoriesOk.cleared (_ : MemoriesOk s) : MemoriesOk (cleared s) := .of_eq memoriesOk_reset rfl rfl

theorem MemoriesOk.startUp {host : Bool} {reason : Nat} (ok : MemoriesOk s) : MemoriesOk (startUp s host reason) :=
  .ite (.with_stage (.startFail (.cleared ok))) (.ite (.cleared ok) (.with_bootMeasured (.cleared ok)))

theorem OutOk.execDeviceReset {host : Bool} {fail : Nat} (ok : MemoriesOk s) : OutOk (execDeviceReset host fail s) :=
  .withUnit ok (fun _ ok1 => .startUp ok1)

theorem OutOk.spdmAnswer {f : Spdm → Spdm} {a : SpdmReply} (ok : MemoriesOk s) : OutOk (spdmAnswer s f a) := ok
theorem OutOk.spdmAfter {a : SpdmReply} (ok : MemoriesOk s) : OutOk (spdmAfter s a) := .ite (.spdmAnswer ok) (.spdmAnswer ok)
theorem OutOk.execGetVersion (ok : MemoriesOk s) : OutOk (execGetVersion s) := .spdmAnswer ok
theorem OutOk.execGetCapabilities (ok : MemoriesOk s) : OutOk (execGetCapabilities s) := .ite (.spdmAnswer ok) (.spdmAnswer ok)
theorem OutOk.execNegotiateAlgorithms (ok : MemoriesOk s) : OutOk (execNegotiateAlgorithms s) := .ite (.spdmAnswer ok) (.spdmAnswer ok)
theorem OutOk.execGetDigests (ok : MemoriesOk s) : OutOk (execGetDigests s) := .spdmAfter ok
theorem OutOk.execGetCertificate (ok : MemoriesOk s) : OutOk (execGetCertificate s) := .spdmAfter ok
theorem OutOk.execChallenge (ok : MemoriesOk s) : OutOk (execChallenge s) := .spdmAfter ok
theorem OutOk.execGetMeasurements {ix : Nat} (ok : MemoriesOk s) : OutOk (execGetMeasurements ix s) := .spdmAfter ok

theorem OutOk.execVerify {a d : BitVec 5} (ok : MemoriesOk s) : OutOk (execVerify a d s) :=
  .seqPriv ok (fun _ _ => .ite (.seqTrap ok) (.ite (.seqPut ok) (.seqPut ok)))

theorem MemoriesOk.setVerify {v : VReq} (ok : MemoriesOk s) : MemoriesOk (setVerify s v) := ok

theorem MemoriesOk.verifyStep (ok : MemoriesOk s) : MemoriesOk (verifyStep s) := by
  unfold Machine.verifyStep
  split
  · exact ok
  · split
    · exact .engStep ok (.engineRecord ok) (fun _ _ ok1 => .setVerify (.enginePost ok1)) (fun _ _ ok1 => .setVerify ok1)
    · exact .engStep ok (.engineXlat ok) (fun _ _ ok1 => .with_rotQueue (.enginePost ok1)) (fun _ _ ok1 => .ite (.with_rotQueue
        (.engineStoreLine ok1)) (.engineStoreLine ok1))

theorem OutOk.execVerifyServe (ok : MemoriesOk s) : OutOk (execVerifyServe s) := MemoriesOk.verifyStep ok

end Sys2Proof.Claims
end

section
/-!
# The canonical form of the memories: the vector instructions of an element

One lemma for each operation of the model: it keeps the canonical form of the memories. They stand in the order of the model's definitions.
-/
namespace Sys2Proof.Claims
open Sys2Proof.Machine

variable {s : State} {e : Elem} {el k key r st : Nat} {o : BeatOps} {imm : BitVec 12} {x : Ctx} {h : Hdr} {l : List Vec} {a b d : Opnd}

theorem OutOk.fireFp {i : Instr} {t : LaneTy} {rw : Nat} {g : BeatOps → Vec × Flags} (ok : MemoriesOk s) : OutOk (fireFp i t rw g s) :=
  .fire (fun _ _ _ _ _ ok1 => .flagExe ok1) ok

theorem OutOk.execFadd (ok : MemoriesOk s) : OutOk (execFadd h d a b s) := .fireFp ok
theorem OutOk.execFsub (ok : MemoriesOk s) : OutOk (execFsub h d a b s) := .fireFp ok
theorem OutOk.execFmul (ok : MemoriesOk s) : OutOk (execFmul h d a b s) := .fireFp ok
theorem OutOk.execFma {c : Opnd} (ok : MemoriesOk s) : OutOk (execFma h d a b c s) := .fireFp ok
theorem OutOk.execFnma {c : Opnd} (ok : MemoriesOk s) : OutOk (execFnma h d a b c s) := .fireFp ok
theorem OutOk.execFmin (ok : MemoriesOk s) : OutOk (execFmin h d a b s) := .fireFp ok
theorem OutOk.execFmax (ok : MemoriesOk s) : OutOk (execFmax h d a b s) := .fireFp ok
theorem OutOk.execFcmpeq (ok : MemoriesOk s) : OutOk (execFcmpeq h d a b s) := .fireFp ok
theorem OutOk.execFcmplt (ok : MemoriesOk s) : OutOk (execFcmplt h d a b s) := .fireFp ok
theorem OutOk.execFcmple (ok : MemoriesOk s) : OutOk (execFcmple h d a b s) := .fireFp ok
theorem OutOk.execFsgn (ok : MemoriesOk s) : OutOk (execFsgn h d a b s) := .fireFp ok
theorem OutOk.execFrcp (ok : MemoriesOk s) : OutOk (execFrcp h d a s) := .fireFp ok
theorem OutOk.execFrsq (ok : MemoriesOk s) : OutOk (execFrsq h d a s) := .fireFp ok
theorem OutOk.execFexp2 (ok : MemoriesOk s) : OutOk (execFexp2 h d a s) := .fireFp ok
theorem OutOk.execFlog2 (ok : MemoriesOk s) : OutOk (execFlog2 h d a s) := .fireFp ok
theorem OutOk.execFsin (ok : MemoriesOk s) : OutOk (execFsin h d a s) := .fireFp ok
theorem OutOk.execFcos (ok : MemoriesOk s) : OutOk (execFcos h d a s) := .fireFp ok
theorem OutOk.execFrnd {rm : BitVec 3} (ok : MemoriesOk s) : OutOk (execFrnd h d a rm s) := .fireFp ok
theorem OutOk.execFdot2 {c : Opnd} (ok : MemoriesOk s) : OutOk (execFdot2 h d a b c s) := .fireFp ok
theorem OutOk.execFaddmin {c : Opnd} (ok : MemoriesOk s) : OutOk (execFaddmin h d a b c s) := .fireFp ok
theorem OutOk.execFclass (ok : MemoriesOk s) : OutOk (execFclass h d a s) := .fireFp ok
theorem OutOk.execFscale (ok : MemoriesOk s) : OutOk (execFscale h d a b s) := .fireFp ok
theorem OutOk.execFsat (ok : MemoriesOk s) : OutOk (execFsat h d a s) := .fireFp ok
theorem OutOk.execAdd (ok : MemoriesOk s) : OutOk (execAdd h d a b s) := .fireCarry ok
theorem OutOk.execSub (ok : MemoriesOk s) : OutOk (execSub h d a b s) := .fireCarry ok
theorem OutOk.execAdds (ok : MemoriesOk s) : OutOk (execAdds h d a b s) := .fireCarry ok
theorem OutOk.execSubs (ok : MemoriesOk s) : OutOk (execSubs h d a b s) := .fireCarry ok
theorem OutOk.execAddus (ok : MemoriesOk s) : OutOk (execAddus h d a b s) := .fireCarry ok
theorem OutOk.execSubus (ok : MemoriesOk s) : OutOk (execSubus h d a b s) := .fireCarry ok
theorem OutOk.execMul (ok : MemoriesOk s) : OutOk (execMul h d a b s) := .fireInt ok
theorem OutOk.execMulh (ok : MemoriesOk s) : OutOk (execMulh h d a b s) := .fireInt ok
theorem OutOk.execMulhu (ok : MemoriesOk s) : OutOk (execMulhu h d a b s) := .fireInt ok
theorem OutOk.execMad {c : Opnd} (ok : MemoriesOk s) : OutOk (execMad h d a b c s) := .fireInt ok
theorem OutOk.execAddmin {c : Opnd} (ok : MemoriesOk s) : OutOk (execAddmin h d a b c s) := .fireInt ok
theorem OutOk.execAddmax {c : Opnd} (ok : MemoriesOk s) : OutOk (execAddmax h d a b c s) := .fireInt ok
theorem OutOk.execMin (ok : MemoriesOk s) : OutOk (execMin h d a b s) := .fireInt ok
theorem OutOk.execMax (ok : MemoriesOk s) : OutOk (execMax h d a b s) := .fireInt ok
theorem OutOk.execMinu (ok : MemoriesOk s) : OutOk (execMinu h d a b s) := .fireInt ok
theorem OutOk.execMaxu (ok : MemoriesOk s) : OutOk (execMaxu h d a b s) := .fireInt ok
theorem OutOk.execAbsd (ok : MemoriesOk s) : OutOk (execAbsd h d a b s) := .fireInt ok
theorem OutOk.execAnd (ok : MemoriesOk s) : OutOk (execAnd h d a b s) := .fireInt ok
theorem OutOk.execOr (ok : MemoriesOk s) : OutOk (execOr h d a b s) := .fireInt ok
theorem OutOk.execXor (ok : MemoriesOk s) : OutOk (execXor h d a b s) := .fireInt ok
theorem OutOk.execAndn (ok : MemoriesOk s) : OutOk (execAndn h d a b s) := .fireInt ok
theorem OutOk.execShl (ok : MemoriesOk s) : OutOk (execShl h d a b s) := .fireCarry ok
theorem OutOk.execShr (ok : MemoriesOk s) : OutOk (execShr h d a b s) := .fireCarry ok
theorem OutOk.execSar (ok : MemoriesOk s) : OutOk (execSar h d a b s) := .fireCarry ok
theorem OutOk.execRol (ok : MemoriesOk s) : OutOk (execRol h d a b s) := .fireInt ok
theorem OutOk.execPopc (ok : MemoriesOk s) : OutOk (execPopc h d a s) := .fireInt ok
theorem OutOk.execClz (ok : MemoriesOk s) : OutOk (execClz h d a s) := .fireInt ok
theorem OutOk.execCmpeq (ok : MemoriesOk s) : OutOk (execCmpeq h d a b s) := .fireInt ok
theorem OutOk.execCmplt (ok : MemoriesOk s) : OutOk (execCmplt h d a b s) := .fireInt ok
theorem OutOk.execCmpltu (ok : MemoriesOk s) : OutOk (execCmpltu h d a b s) := .fireInt ok
theorem OutOk.execDot4 {c : Opnd} (ok : MemoriesOk s) : OutOk (execDot4 h d a b c s) := .fireInt ok
theorem OutOk.execSad {c : Opnd} (ok : MemoriesOk s) : OutOk (execSad h d a b c s) := .fireInt ok
theorem OutOk.execAddi (ok : MemoriesOk s) : OutOk (execAddi h d a imm s) := .fireCarry ok
theorem OutOk.execAndi (ok : MemoriesOk s) : OutOk (execAndi h d a imm s) := .fireInt ok
theorem OutOk.execOri (ok : MemoriesOk s) : OutOk (execOri h d a imm s) := .fireInt ok
theorem OutOk.execXori (ok : MemoriesOk s) : OutOk (execXori h d a imm s) := .fireInt ok
theorem OutOk.execShli (ok : MemoriesOk s) : OutOk (execShli h d a imm s) := .fireCarry ok
theorem OutOk.execShri (ok : MemoriesOk s) : OutOk (execShri h d a imm s) := .fireCarry ok
theorem OutOk.execSari (ok : MemoriesOk s) : OutOk (execSari h d a imm s) := .fireCarry ok
theorem OutOk.execCmpeqi (ok : MemoriesOk s) : OutOk (execCmpeqi h d a imm s) := .fireInt ok
theorem OutOk.execCmplti (ok : MemoriesOk s) : OutOk (execCmplti h d a imm s) := .fireInt ok
theorem OutOk.execExt {pos len : BitVec 6} (ok : MemoriesOk s) : OutOk (execExt h d a pos len s) := .fireInt ok
theorem OutOk.execIns {pos len : BitVec 6} (ok : MemoriesOk s) : OutOk (execIns h d a pos len s) := .fireInt ok

theorem OutOk.fireChan {i : Instr} {ctx : Nat} {exe : Exe} (ok : ExeOk exe) (ok1 : MemoriesOk s) : OutOk (fireChan i ctx exe s) :=
  .fireWith ok (fun _ _ ok2 => ok2) ok1

theorem OutOk.execTags {vc : BitVec 5} {ctx : BitVec 2} (ok : MemoriesOk s) : OutOk (execTags h d vc ctx s) :=
  .fireChan (fun _ _ _ _ _ ok1 => .elemExe (fun _ _ _ _ ok2 => ok2) ok1) ok

theorem OutOk.execSend {eow : Bool} {vc : BitVec 5} {ctx : BitVec 2} (ok : MemoriesOk s) : OutOk (execSend h d a eow vc ctx s) :=
  .fireChan (fun _ _ _ _ _ ok1 => .elemExe (fun _ _ _ _ ok2 => .send ok2) ok1) ok

theorem OutOk.execSendo {eow : Bool} {vc : BitVec 5} {sc : Scope} {ctx : BitVec 2} (ok : MemoriesOk s) :
    OutOk (execSendo h d a eow vc sc ctx s) :=
  .fireChan (fun _ _ _ _ _ ok1 => .elemExe (fun _ _ _ _ ok2 => .send ok2) ok1) ok

theorem OutOk.execDrop (ok : MemoriesOk s) : OutOk (execDrop h a s) :=
  .fireChan (fun _ _ _ _ _ ok1 => .elemExe (fun _ _ _ _ ok2 => ok2) ok1) ok

theorem OutOk.execRelay (ok : MemoriesOk s) : OutOk (execRelay h d a s) := by
  unfold Machine.execRelay
  refine .fireChan ?_ ok
  intro _ _ _ _ _ ok1
  refine .elemExe (fun _ _ _ _ ok2 => ?_) ok1
  split
  · exact .send ok2
  · exact ok2

theorem OutOk.execLcnt (ok : MemoriesOk s) : OutOk (execLcnt h d a s) := .fire (fun _ _ _ _ _ ok1 => ok1) ok

theorem OutOk.execFtset {fmt vc : BitVec 5} (ok : MemoriesOk s) : OutOk (execFtset h a fmt vc s) :=
  .fireChan (fun _ _ _ _ _ ok1 => .elemExe (fun _ _ _ _ ok2 => ok2) ok1) ok

theorem OutOk.execSpcfg {en : Bool} {qa qb : BitVec 3} (ok : MemoriesOk s) : OutOk (execSpcfg h en qa qb s) :=
  .fireChan (fun _ _ _ _ _ ok1 => .elemExe (fun _ _ _ _ ok2 => ok2) ok1) ok

theorem SpadOk.intersect (ok : SpadOk e) : SpadOk (intersect e) := by
  unfold Machine.intersect
  dsimp only
  split
  · exact .ite (.ite (.ite ok (.dequeue ok)) (.ite (.ite ok (.dequeue ok)) ok)) ok
  · exact ok

theorem OutOk.execCoordinateIntersect (ok : MemoriesOk s) : OutOk (execCoordinateIntersect r st el s) :=
  .withUnit ok (fun _ ok1 => .ite (.setE ok1 (.with_spBusy (.intersect (.getE ok1)))) ok1)

theorem SpadOk.beginX {k : XKind} {a : Vec} (ok : SpadOk e) : SpadOk (beginX x e k d a) := .setPend ok

theorem OutOk.execTxch {m : BitVec 4} (ok : MemoriesOk s) : OutOk (execTxch h d a m s) := by
  unfold Machine.execTxch
  exact .fireWith (fun _ _ _ _ _ ok1 => .elemExe (fun _ _ _ _ ok2 => .beginX ok2) ok1) (fun _ _ ok1 => .modE ok1 (fun ok2 => ok2)) ok

theorem OutOk.execTbcst {src : BitVec 4} (ok : MemoriesOk s) : OutOk (execTbcst h d a src s) := by
  unfold Machine.execTbcst
  exact .fireWith (fun _ _ _ _ _ ok1 => .elemExe (fun _ _ _ _ ok2 => .beginX ok2) ok1) (fun _ _ ok1 => .ite (.foldl ok1 (fun _ _ ok2 =>
    .modE ok2 (fun ok3 => ok3))) ok1) ok

theorem OutOk.execTred {op gm : BitVec 4} (ok : MemoriesOk s) : OutOk (execTred h d a op gm s) :=
  .fireWith (fun _ _ _ _ _ ok1 => .elemExe (fun _ _ _ _ ok2 => .beginX ok2) ok1) (fun _ _ ok1 => ok1) ok

theorem SpadOk.deliverX {d : Nat} {v : Vec} {p : XKind → Bool} (ok : SpadOk e) : SpadOk (deliverX e d v p) := .clearPend ok

theorem OutOk.execTxchDeliver {m : Nat} (ok : MemoriesOk s) : OutOk (execTxchDeliver r st el m s) := by
  unfold Machine.execTxchDeliver
  refine .withUnit ok fun s ok => ?_
  dsimp only
  split
  · exact .ite (.setE ok (.with_inbox (.deliverX ok.spad))) ok
  · exact ok

theorem OutOk.execTbcstDeliver (ok : MemoriesOk s) : OutOk (execTbcstDeliver r st el s) := by
  unfold Machine.execTbcstDeliver
  refine .withUnit ok fun s ok => ?_
  dsimp only
  split
  · split
    · split
      · exact .ite (.setE ok (.with_binbox (.deliverX ok.spad))) ok
      · exact ok
    · exact ok
  · exact ok

theorem MemoriesOk.tredTrap (ok : MemoriesOk s) : MemoriesOk (tredTrap s key) := by
  unfold Machine.tredTrap
  split
  · exact ok
  · exact .elemTrap (.modE ok (fun ok1 => .clearPend ok1))

theorem MemoriesOk.tredDeliver {op gm : Nat} {ty : LaneTy} (ok : MemoriesOk s) : MemoriesOk (tredDeliver s key op gm ty) := by
  unfold Machine.tredDeliver
  refine .foldl ok (fun _ _ ok1 => ?_)
  split
  · exact .modE ok1 (fun ok2 => .setFlags (.deliverX ok2))
  · exact ok1

theorem OutOk.execTredDeliver (ok : MemoriesOk s) : OutOk (execTredDeliver r st el s) := by
  unfold Machine.execTredDeliver
  refine .withUnit ok (fun _ ok1 => ?_)
  refine .ite ?_ ?_
  · exact ok1
  · split
    · exact .tredTrap (.tredTrap ok1)
    · split
      · exact ok1
      · exact .ite (.tredDeliver ok1) ok1

theorem OutOk.execLxor (ok : MemoriesOk s) : OutOk (execLxor h d a imm s) := .fireInt ok
theorem OutOk.execLfun {imm : BitVec 6} (ok : MemoriesOk s) : OutOk (execLfun h d a b imm s) := .fireInt ok
theorem OutOk.execLbcst (ok : MemoriesOk s) : OutOk (execLbcst h d a imm s) := .fireInt ok
theorem OutOk.execLpack (ok : MemoriesOk s) : OutOk (execLpack h d a b s) := .fireInt ok
theorem OutOk.execLunpk {sx half : Bool} (ok : MemoriesOk s) : OutOk (execLunpk h d a sx half s) := .fire (fun _ _ _ _ _ ok1 => ok1) ok

theorem OutOk.execCvt {tt rm : BitVec 3} {tf sf : Bool} {part : BitVec 4} (ok : MemoriesOk s) :
    OutOk (execCvt h d a tt tf sf rm part s) := by
  unfold Machine.execCvt
  exact .fire (fun _ _ _ _ _ ok1 => ok1) ok

theorem OutOk.execCvtn {tt rm : BitVec 3} {tf sf : Bool} {ef : BitVec 2} (ok : MemoriesOk s) : OutOk (execCvtn h d a tt tf sf rm ef s) := by
  unfold Machine.execCvtn
  exact .fire (fun _ _ _ _ _ ok1 => .ite ok1 ok1) ok

theorem OutOk.execMxqSc {fmt : BitVec 2} (ok : MemoriesOk s) : OutOk (execMxqSc h d a fmt s) := .fire (fun _ _ _ _ _ ok1 => ok1) ok

theorem OutOk.execMxq {rm : BitVec 3} {fmt : BitVec 2} (ok : MemoriesOk s) : OutOk (execMxq h d a b rm fmt s) := by
  unfold Machine.execMxq
  exact .fire (fun _ _ _ _ _ ok1 => ok1) ok

theorem OutOk.execMxdq {part : BitVec 3} {fmt : BitVec 2} (ok : MemoriesOk s) : OutOk (execMxdq h d a b part fmt s) := by
  unfold Machine.execMxdq
  exact .fire (fun _ _ _ _ _ ok1 => ok1) ok

theorem OutOk.execEfld {n : BitVec 2} (ok : MemoriesOk s) : OutOk (execEfld h a n s) :=
  .fire (fun _ _ _ _ _ ok1 => .elemExe (fun _ _ _ _ ok2 => ok2) ok1) ok

theorem OutOk.execEfst {n : BitVec 2} (ok : MemoriesOk s) : OutOk (execEfst h d n s) := .fire (fun _ _ _ _ _ ok1 => ok1) ok
theorem OutOk.execRbox {c : Opnd} (ok : MemoriesOk s) : OutOk (execRbox h d a b c s) := .fire (fun _ _ _ _ _ ok1 => .flagExe ok1) ok
theorem SpadOk.rtriExe (ok : SpadOk e) : SpadOk (rtriExe x e k o l).elem := .ite_elem ok ok
theorem OutOk.execRtri {c : Opnd} (ok : MemoriesOk s) : OutOk (execRtri h d a b c s) := .fire (fun _ _ _ _ _ ok1 => .rtriExe ok1) ok
theorem OutOk.execEdge {c : Opnd} (ok : MemoriesOk s) : OutOk (execEdge h d a b c s) := .fireInt ok
theorem SpadOk.seqtHeadExe {q : Nat} (ok : SpadOk e) : SpadOk (seqtHeadExe q x e k o l).elem := .ite_elem ok ok
theorem SpadOk.seqtParkedExe (ok : SpadOk e) : SpadOk (seqtParkedExe x e k o l).elem := ok

theorem OutOk.execSeqt (ok : MemoriesOk s) : OutOk (execSeqt h d a s) :=
  .ite (MemoriesOk.fireForm (fun _ _ _ _ _ ok1 => .seqtParkedExe ok1) (fun _ _ ok1 => ok1) ok) (MemoriesOk.fireForm (fun _ _ _ _ _ ok1 =>
    .seqtHeadExe ok1) (fun _ _ ok1 => ok1) ok)

theorem OutOk.execSeqtRst {j : BitVec 3} {base : BitVec 4} (ok : MemoriesOk s) : OutOk (execSeqtRst h a j base s) :=
  .fire (fun _ _ _ _ _ ok1 => .ite_elem ok1 (.ite_elem ok1 ok1)) ok

theorem MemoriesOk.seqPark (ok : MemoriesOk s) : MemoriesOk (seqPark s key) := by
  have trap : ∀ cause addr, MemoriesOk (if (Machine.getE s key).busy ≤ (Machine.getR s (keyRegion key)).cycle then
      Machine.elemTrap s key 1 cause 0 0 0 0 addr [] else s) := fun _ _ => .ite (.elemTrap ok) ok
  unfold Machine.seqPark
  dsimp only
  split
  · exact ok
  next t _ =>
    have tok : SpadOk (acquireTok (Machine.getE s key) t) := .acquireTok ok.spad
    exact .ite ok (.ite ok (.ite (.ite (trap _ _) (.ite (trap _ _) (.setE ok (.dequeue (.with_seqBusy_spad_seqOcc (memWrite_wf tok ..))))))
      (.ite ok (trap _ _))))

theorem OutOk.execSeqtPark (ok : MemoriesOk s) : OutOk (execSeqtPark r st el s) := .withUnit ok (fun _ ok1 => .ite (.seqPark ok1) ok1)

end Sys2Proof.Claims
end

section
/-!
# The canonical form of the memories: one step

One lemma for each operation of the model: it keeps the canonical form of the memories. They stand in the order of the model's definitions.
-/
namespace Sys2Proof.Claims
open Sys2Proof.Machine

variable {s : State} {el r st : Nat}

theorem FetchOk.fetch (ok : MemoriesOk s) : FetchOk (fetch s r) := by
  have hu := XGotOk.seqUse (s := s) (r := r) (va := (getSeq s r).pc.toNat) (kind := 3) ok
  unfold Machine.fetch
  dsimp only
  split
  next he => exact MemoriesOk.of_xwait hu he
  next he => exact MemoriesOk.of_xfault hu he
  next t x he =>
    have ht := MemoriesOk.of_xok hu he
    split
    · exact ht
    split
    · exact ht
    split
    · exact ht
    have hr := GotOk.readLine (r := r) (v := viaOf x (getSeq s r).pc.toNat) (pkg := false) (tag := seqTag t r) ht
    split
    next hd => exact MemoriesOk.seqHold (.of_wait hr hd)
    next hd =>
      have hs := MemoriesOk.seqRelease (r := r) (.of_done hr hd)
      split
      · exact hs
      · exact MemoriesOk.modSeq (.with_free hs)

theorem OutOk.execIllegalInstruction {cause : BitVec 8} (ok : MemoriesOk s) : OutOk (execIllegalInstruction cause s) :=
  .seqDo ok (fun _ _ => .seqTrap ok)

theorem OutOk.execInstructionFetchFault {cause : BitVec 8} (ok : MemoriesOk s) : OutOk (execInstructionFetchFault cause s) :=
  .seqDo ok (fun _ _ => .seqTrap ok)

theorem OutOk.execAsyncTrapTake (ok : MemoriesOk s) : OutOk (execAsyncTrapTake r s) := by
  unfold Machine.execAsyncTrapTake
  refine .withUnit ok (fun _ ok1 => ?_)
  dsimp only
  split
  · exact .ite ok1 (.takeTrap (.modSeq ok1))
  · exact ok1

theorem OutOk.execSeqTrap {n : BitVec 11} (ok : MemoriesOk s) : OutOk (execSeqTrap n s) := .seqDo ok (fun _ _ => .seqTrap ok)
theorem OutOk.execSeqBkpt {n : BitVec 11} (ok : MemoriesOk s) : OutOk (execSeqBkpt n s) := .seqDo ok (fun _ _ => .seqTrap ok)
theorem OutOk.execTret (ok : MemoriesOk s) : OutOk (execTret s) := .seqPriv ok (fun _ _ => .returnTrap ok)

theorem OutOk.execWaite {a d : BitVec 5} (ok : MemoriesOk s) : OutOk (execWaite a d s) := by
  unfold Machine.execWaite
  refine .seqDo ok (fun _ _ => ?_)
  refine .ite ?_ ?_
  · exact .seqPut ok
  · split
    · exact .seqNext ok
    · exact .ite ok (.modSeq (.seqWait ok))

theorem OutOk.execEventWaitTimeout (ok : MemoriesOk s) : OutOk (execEventWaitTimeout r s) := by
  unfold Machine.execEventWaitTimeout
  refine .withUnit ok (fun _ ok1 => ?_)
  dsimp only
  split
  · exact .ite (.seqPut ok1) ok1
  · exact ok1

theorem OutOk.execYield (ok : MemoriesOk s) : OutOk (execYield s) := by
  unfold Machine.execYield
  refine .seqDo ok (fun _ _ => ?_)
  dsimp only
  split
  · exact .beginStop (.seqNext ok)
  · exact .seqNext ok

theorem OutOk.exec {i : Instr} (ok : MemoriesOk s) : OutOk (exec i s) := by
  unfold Machine.exec
  split
  · exact .execNop ok
  · exact .execMov ok
  · exact .execMovi ok
  · exact .execMovhi ok
  · exact .execSel ok
  · exact .execPset ok
  · exact .execTags ok
  · exact .execHalt ok
  · exact .execSend ok
  · exact .execSendo ok
  · exact .execDrop ok
  · exact .execRelay ok
  · exact .execLcnt ok
  · exact .execFtset ok
  · exact .execArrive ok
  · exact .execFevt ok
  · exact .execAdd ok
  · exact .execSub ok
  · exact .execAdds ok
  · exact .execSubs ok
  · exact .execAddus ok
  · exact .execSubus ok
  · exact .execMul ok
  · exact .execMulh ok
  · exact .execMulhu ok
  · exact .execMad ok
  · exact .execAddmin ok
  · exact .execAddmax ok
  · exact .execMin ok
  · exact .execMax ok
  · exact .execMinu ok
  · exact .execMaxu ok
  · exact .execAbsd ok
  · exact .execAnd ok
  · exact .execOr ok
  · exact .execXor ok
  · exact .execAndn ok
  · exact .execShl ok
  · exact .execShr ok
  · exact .execSar ok
  · exact .execRol ok
  · exact .execPopc ok
  · exact .execClz ok
  · exact .execCmpeq ok
  · exact .execCmplt ok
  · exact .execCmpltu ok
  · exact .execDot4 ok
  · exact .execSad ok
  · exact .execAddi ok
  · exact .execAndi ok
  · exact .execOri ok
  · exact .execXori ok
  · exact .execShli ok
  · exact .execShri ok
  · exact .execSari ok
  · exact .execCmpeqi ok
  · exact .execCmplti ok
  · exact .execExt ok
  · exact .execIns ok
  · exact .execLxor ok
  · exact .execLfun ok
  · exact .execLbcst ok
  · exact .execTxch ok
  · exact .execTbcst ok
  · exact .execTred ok
  · exact .execLpack ok
  · exact .execLunpk ok
  · exact .execFadd ok
  · exact .execFsub ok
  · exact .execFmul ok
  · exact .execFma ok
  · exact .execFnma ok
  · exact .execFmin ok
  · exact .execFmax ok
  · exact .execFcmpeq ok
  · exact .execFcmplt ok
  · exact .execFcmple ok
  · exact .execFsgn ok
  · exact .execFrcp ok
  · exact .execFrsq ok
  · exact .execFexp2 ok
  · exact .execFlog2 ok
  · exact .execFsin ok
  · exact .execFcos ok
  · exact .execFrnd ok
  · exact .execFdot2 ok
  · exact .execFaddmin ok
  · exact .execFclass ok
  · exact .execFscale ok
  · exact .execFsat ok
  · exact .execCvt ok
  · exact .execCvtn ok
  · exact .execMxqSc ok
  · exact .execMxq ok
  · exact .execMxdq ok
  · exact .execEfld ok
  · exact .execEfst ok
  · exact .execLd ok
  · exact .execSt ok
  · exact .execLdfKeep ok
  · exact .execLdfClr ok
  · exact .execStf ok
  · exact .execLdg ok
  · exact .execSts ok
  · exact .execAtom ok
  · exact .execFenceFull ok
  · exact .execFenceRel ok
  · exact .execFenceAcq ok
  · exact .execLdr ok
  · exact .execSeal ok
  · exact .execRclaim ok
  · exact .execPref ok
  · exact .execInvl1 ok
  · exact .execFesetEmpty ok
  · exact .execFesetFull ok
  · exact .execBrec ok
  · exact .execTsync ok
  · exact .execRbox ok
  · exact .execRtri ok
  · exact .execSpcfg ok
  · exact .execSeqt ok
  · exact .execSeqtRst ok
  · exact .execEdge ok
  · exact .execCtlRead ok
  · exact .execCtlWrite ok
  · exact .execTrap ok
  · exact .execBkpt ok
  · exact .execFaultySlotFire ok
  · exact .execSeqAdd ok
  · exact .execSeqSub ok
  · exact .execSeqAnd ok
  · exact .execSeqOr ok
  · exact .execSeqXor ok
  · exact .execSeqShl ok
  · exact .execSeqShr ok
  · exact .execSeqSar ok
  · exact .execSeqMul ok
  · exact .execSeqMulh ok
  · exact .execSeqMulhu ok
  · exact .execDiv ok
  · exact .execDivu ok
  · exact .execRem ok
  · exact .execRemu ok
  · exact .execSeqMin ok
  · exact .execSeqMax ok
  · exact .execSeqMinu ok
  · exact .execSeqMaxu ok
  · exact .execSlt ok
  · exact .execSltu ok
  · exact .execSeqClz ok
  · exact .execSeqPopc ok
  · exact .execSeqAddi ok
  · exact .execSeqAndi ok
  · exact .execSeqOri ok
  · exact .execSeqXori ok
  · exact .execSeqShli ok
  · exact .execSeqShri ok
  · exact .execSeqSari ok
  · exact .execSlti ok
  · exact .execLhi ok
  · exact .execLdl ok
  · exact .execLdb ok
  · exact .execLdh ok
  · exact .execLdw ok
  · exact .execLdd ok
  · exact .execStb ok
  · exact .execSth ok
  · exact .execStw ok
  · exact .execStd ok
  · exact .execSeqAtom ok
  · exact .execSeqFenceFull ok
  · exact .execSeqFenceRel ok
  · exact .execSeqFenceAcq ok
  · exact .execBeq ok
  · exact .execBne ok
  · exact .execBlt ok
  · exact .execBge ok
  · exact .execBltu ok
  · exact .execBgeu ok
  · exact .execJmp ok
  · exact .execJal ok
  · exact .execJr ok
  · exact .execGetc ok
  · exact .execSetc ok
  · exact .execSeqTrap ok
  · exact .execSeqBkpt ok
  · exact .execTret ok
  · exact .execWaite ok
  · exact .execSeqTsync ok
  · exact .execMctx ok
  · exact .execMctxClr ok
  · exact .execMrunMma ok
  · exact .execMrunZero ok
  · exact .execMrunLoad ok
  · exact .execMrunWrite ok
  · exact .execPump ok
  · exact .execLdcfg ok
  · exact .execLdcfgClr ok
  · exact .execLdcfgCode ok
  · exact .execRecfg ok
  · exact .execRecfgEnd ok
  · exact .execQput ok
  · exact .execQget ok
  · exact .execTbinit ok
  · exact .execTbarr ok
  · exact .execTbwait ok
  · exact .execLaunch ok
  · exact .execExit ok
  · exact .execYield ok
  · exact .execPlace ok
  · exact .execPlaceFrz ok
  · exact .execPlaceThaw ok
  · exact .execPlaceSt ok
  · exact .execCutsel ok
  · exact .execRestripe ok
  · exact .execPwrmark ok
  · exact .execVerify ok
  · exact .execAsyncTrapTake ok
  · exact .execIllegalInstruction ok
  · exact .execInstructionFetchFault ok
  · exact .execSlotdatWrite ok
  · exact .execSpbindWrite ok
  · exact .execSqbindWrite ok
  · exact .execCfgmapWrite ok
  · exact .execRetry ok
  · exact .execClr ok
  · exact .execXfqpop ok
  · exact .execEtpop ok
  · exact .execEtactResume ok
  · exact .execEtactHalt ok
  · exact .execEnterDraining ok
  · exact .execEndOfWaveMarkerSend ok
  · exact .execConfigurationInstall ok
  · exact .execInstallComplete ok
  · exact .execHaltedToDraining ok
  · exact .execMarkerReachesHead ok
  · exact .execTokenDeliver ok
  · exact .execCreditReturn ok
  · exact .execStreamDetach ok
  · exact .execOutboundPortWrite ok
  · exact .execInboundPortDeliver ok
  · exact .execCoordinateIntersect ok
  · exact .execTxchDeliver ok
  · exact .execTbcstDeliver ok
  · exact .execTredDeliver ok
  · exact .execExternalPortRequest ok
  · exact .execLoadDataReturn ok
  · exact .execWritePerformed ok
  · exact .execLateFault ok
  · exact .execLdfComplete ok
  · exact .execStfComplete ok
  · exact .execArriveSend ok
  · exact .execBarrierUpdate ok
  · exact .execNotifyTokenDeliver ok
  · exact .execSeqtPark ok
  · exact .execMatrixOperandFetch ok
  · exact .execMatrixFetchReturn ok
  · exact .execMatrixOperandStage ok
  · exact .execMatrixBlockStep ok
  · exact .execMatrixZeroTile ok
  · exact .execMatrixLoadTile ok
  · exact .execMatrixWriteTile ok
  · exact .execMatrixTileComplete ok
  · exact .execMatrixArrival ok
  · exact .execPumpRequestPacket ok
  · exact .execPumpRequestStart ok
  · exact .execPumpIssue ok
  · exact .execPumpAccessComplete ok
  · exact .execPumpBarrierUpdate ok
  · exact .execPumpRequestComplete ok
  · exact .execEventWaitTimeout ok
  · exact .execTeamRetire ok
  · exact .execDispatchHeadRead ok
  · exact .execDistributorSelect ok
  · exact .execTeamBind ok
  · exact .execFreeRegionBind ok
  · exact .execStoatSample ok
  · exact .execStoatGrowComplete ok
  · exact .execStoatDrainClear ok
  · exact .execDealPortDeliver ok
  · exact .execRds ok
  · exact .execWalk ok
  · exact .execRdx ok
  · exact .execRdmm ok
  · exact .execWbm ok
  · exact .execWbmm ok
  · exact .execWrh ok
  · exact .execAth ok
  · exact .execClre ok
  · exact .execGrantAck ok
  · exact .execSnps ok
  · exact .execSnpi ok
  · exact .execSnpmm ok
  · exact .execCisternEvict ok
  · exact .execNarrowHoldNotice ok
  · exact .execNarrowReleaseNotice ok
  · exact .execPublicationRequest ok
  · exact .execRecallInvalidate ok
  · exact .execTranslationInvalidation ok
  · exact .execTranslationWalkComplete ok
  · exact .execRestripeJob ok
  · exact .execRestripeJobEnd ok
  · exact .execMartenJobStart ok
  · exact .execMartenTokenEmit ok
  · exact .execMartenJobEnd ok
  · exact .execPrcmdPreempt ok
  · exact .execPrcmdRestore ok
  · exact .execPrcmdRelease ok
  · exact .execPrcmdReserve ok
  · exact .execDrainTimerExpire ok
  · exact .execDrawlimExpire ok
  · exact .execRegionHalted ok
  · exact .execSaveComplete ok
  · exact .execRestoreComplete ok
  · exact .execElementTrapRecordQueue ok
  · exact .execDieLinkFail ok
  · exact .execRownWrite ok
  · exact .execLogRecordWrite ok
  · exact .execMeterIntervalBoundary ok
  · exact .execDoorbellWrite ok
  · exact .execVfWindowRequest ok
  · exact .execHostRequest ok
  · exact .execFunctionLevelReset ok
  · exact .execFlitReceive ok
  · exact .execFlitReplay ok
  · exact .execPortReceiveTimeout ok
  · exact .execPortRetrain ok
  · exact .execPeerLost ok
  · exact .execPowerTokenRefill ok
  · exact .execPwrbudRecompute ok
  · exact .execPowerEmergency ok
  · exact .execBackpressureWindowEnd ok
  · exact .execOptctlClr ok
  · exact .execFrmfreeWrite ok
  · exact .execGood ok
  · exact .execGoodTimeout ok
  · exact .execDeviceReset ok
  · exact .execKeylockWrite ok
  · exact .execVerifyServe ok
  · exact .execGetVersion ok
  · exact .execGetCapabilities ok
  · exact .execNegotiateAlgorithms ok
  · exact .execGetDigests ok
  · exact .execGetCertificate ok
  · exact .execChallenge ok
  · exact .execGetMeasurements ok
  · exact .execDeviceRegisterWrite ok
  · exact .execWriteCombiningBufferDrain ok

theorem MemoriesOk.focusSeq (ok : MemoriesOk s) : MemoriesOk (focusSeq s r) := ok
theorem MemoriesOk.focusSlot {n : Nat} (ok : MemoriesOk s) : MemoriesOk (focusSlot s r st el n) := ok
theorem MemoriesOk.placeSeqWord {w : BitVec 32} (ok : MemoriesOk s) : MemoriesOk (placeSeqWord s w) := .modR ⟨memWrite_wf ok.1 .., ok.2⟩
theorem MemoriesOk.placeElemWord {w : BitVec 64} (ok : MemoriesOk s) : MemoriesOk (placeElemWord s w) := .setR (.modE ok (fun ok1 => ok1))
theorem MemoriesOk.advance (ok : MemoriesOk s) : MemoriesOk (advance s) := ok

theorem OutOk.thenAdvance {o : Host.Outcome State Fault Refusal} (ok : OutOk o) : OutOk (thenAdvance o) := by
  cases o with
  | next s => exact MemoriesOk.advance ok
  | fault _ => trivial
  | refused _ => trivial

theorem OutOk.seqStep (ok : MemoriesOk s) : OutOk (seqStep s r) := by
  have hf : MemoriesOk (focusSeq s r) := .focusSeq ok
  have hx := FetchOk.fetch (r := r) hf
  unfold Machine.seqStep
  refine .ite hf (.ite (.exec hf) (.ite (.exec hf) ?_))
  split
  next he => rw [he] at hx; exact hx
  next he => rw [he] at hx; exact .exec hx

theorem OutOk.pick {l : List Nat} (ok : MemoriesOk s) : OutOk (pick s r st el l) := by
  induction l generalizing s with
  | nil =>
    exact ok
  | cons x l ih =>
    unfold Machine.pick
    dsimp only
    split
    · exact ih ok
    · split
      · exact .ite (MemoriesOk.of_next (.exec (.focusSlot ok)) ‹_›) (ih ok)
      · exact .exec (.focusSlot ok)

theorem OutOk.elemStep (ok : MemoriesOk s) : OutOk (elemStep s r st el) := .ite (.pick ok) ok

theorem OutOk.step (ok : MemoriesOk s) : OutOk (step s) := by
  unfold Machine.step
  refine .thenAdvance ?_
  refine .ite ?_ ?_
  · split
    · exact .seqStep ok
    · exact .elemStep ok
    · exact .exec ok
    · exact MemoriesOk.tickRegion ok
    · exact MemoriesOk.tickTime ok
  · exact ok

theorem MemoriesOk.stateWithFetchWord {nbits w : Nat} (ok : MemoriesOk s) : MemoriesOk (State.withFetchWord s nbits w) :=
  .ite (.placeSeqWord ok) (.placeElemWord ok)

/-- Settles O60: a step writes memories by `memWrite` and `memWriteMask` alone, and each of them keeps the canonical form. -/
theorem memoryInvariant : Obligations.MemoryInvariant := by
  unfold Obligations.MemoryInvariant
  intro s t ok he
  exact .of_next (.step ok) he

end Sys2Proof.Claims
end

section
/-!
# The barrier instructions of the sequencer

TBINIT, TBARR and TBWAIT travel to the port of an element and back (`atBarrier`): the request leaves, the port serves it, and the reply
completes the instruction or traps (R297 to R299, R501).
-/
namespace Sys2Proof.Claims
open Sys2Proof.Machine

/-! ## What a barrier instruction that waits leaves -/

section waits
variable {s t : State} {w : BarWait}

/-- A change of the sequencer alone, in what the model keeps of the instruction. -/
theorem barrierWaits_of_onlySeq (ht : OnlySeq (here s) s t) (hbar : (getSeq t (here s)).bar = w)
    (hrest : { getSeq t (here s) with bar := (hereSeq s).bar, asked := (hereSeq s).asked, waitStart := (hereSeq s).waitStart,
                                      touched := (hereSeq s).touched } = hereSeq s) (es : Table Elem) :
    BarrierWaits w s { t with elems := es } where
  bar := hbar
  rest := hrest
  region := ht.region
  regions := ht.regions
  mem := ht.mem
  device := ht.device

theorem otherElems_setE (s : State) (key : Nat) (e : Elem) : OtherElems key s (setE s key e) := fun _ h => getE_setE_other _ _ _ _ h

/-- The reply of a port sets out, and elements have changed. -/
theorem replied_barReply {key : Nat} {es : Table Elem} (hes : OtherElems key s { s with elems := es }) (cause : BitVec 8) :
    Replied key cause s (barReply { s with elems := es } (here s) key cause) := by
  have hq := getSeq_modSeq s (here s) fun q => { q with asked := true, bar := { q.bar with
    reply := some ((getR s (here s)).cycle + 2 + hopsWest (keySite key), cause) } }
  refine ⟨barrierWaits_of_onlySeq (t := barReply s (here s) key cause) (onlySeq_modSeq ..) ?_ ?_ es, hes⟩
  · exact congrArg Seq.bar hq
  · rw [barReply, hq]
    rfl

theorem getE_barReply (s : State) (r key : Nat) (cause : BitVec 8) (k : Nat) : getE (barReply s r key cause) k = getE s k := rfl

/-- The port of an element serves a request, and a reply sets out. -/
theorem replied_served {key : Nat} {e e' : Elem} (h : PortServed e e') (cause : BitVec 8) :
    Replied key cause s (barReply (setE s key e') (here s) key cause) ∧ PortServed e (getE (barReply (setE s key e') (here s) key cause) key) :=
  ⟨replied_barReply (otherElems_setE s key e') cause, by rw [getE_barReply, getE_setE]; exact h⟩

end waits

/-! ## The way to the port and back -/

section travel
variable {s : State} {key : Nat} {va : BitVec 64} {port go : State → State}

theorem atBarrier_sends {r : Nat} (hr : (getSeq s r).bar.reply = none) (hs : (getSeq s r).bar.sent = none) :
    atBarrier s r key va port go = modSeq (seqWait s r) r fun q => { q with bar := { q.bar with sent := some (getR s r).cycle } } := by
  unfold atBarrier
  simp only [hr, hs]

theorem atBarrier_arrives {n : Nat} {c : BitVec 8} (hr : (hereSeq s).bar.reply = some (n, c)) (hn : n ≤ (getR s (here s)).cycle) :
    atBarrier s (here s) key va port go = if c = 0 then go s else seqTrap s (here s) c va := by
  have hr' : (getSeq s (here s)).bar.reply = some (n, c) := hr
  unfold atBarrier
  simp only [hr', if_neg (Nat.not_lt.2 hn)]

theorem atBarrier_port (h : AtPort key s) : atBarrier s (here s) key va port go = port s := by
  obtain ⟨n, hs, hn⟩ := h.sent
  have hr' : (getSeq s (here s)).bar.reply = none := h.waits
  have hs' : (getSeq s (here s)).bar.sent = some n := hs
  unfold atBarrier
  simp only [hr', hs']
  exact if_neg (Nat.not_lt.2 hn)

/-- The request that sets out, from a state in which the sequencer has changed nothing but the lines that its writes have reached. -/
theorem barrierWaits_sends {t : State} {n : Nat} {touched : List Nat} {start : Option Nat} (ht : OnlySeq (here s) s t)
    (hq : getSeq t (here s) = { hereSeq s with waitStart := start, touched := touched }) :
    BarrierWaits { (hereSeq s).bar with sent := some n } s
      (modSeq (seqWait t (here s)) (here s) fun q => { q with bar := { q.bar with sent := some n } }) := by
  have hall : OnlySeq (here s) s (modSeq (seqWait t (here s)) (here s) fun q => { q with bar := { q.bar with sent := some n } }) :=
    (ht.trans (onlySeq_modSeq ..)).trans (onlySeq_modSeq ..)
  refine barrierWaits_of_onlySeq hall ?_ ?_ t.elems
  · rw [getSeq_modSeq, seqWait, getSeq_modSeq, hq]
  · rw [getSeq_modSeq, seqWait, getSeq_modSeq, hq]

theorem barrierTravels_of_exec {i : Instr} {f : State → State → Prop} (h : exec i s = .next (atBarrier s (here s) key va port go))
    (hgo : f s (go s)) : BarrierTravels i va f s := by
  refine ⟨fun hr hs => ⟨_, h, ?_⟩, fun n _ hr hn => ⟨_, h, ?_⟩, fun n c _ hr hc hn => ⟨_, h, ?_⟩⟩
  · have hsend : atBarrier s (here s) key va port go = _ := atBarrier_sends hr hs
    rw [hsend]
    exact ⟨barrierWaits_sends (OnlySeq.refl ..) rfl, fun _ => rfl⟩
  · rw [atBarrier_arrives hr hn, if_pos rfl]
    exact hgo
  · rw [atBarrier_arrives hr hn, if_neg hc]
    exact traps_seqTrap ..

end travel

theorem withBarrier_ok {s : State} {v : BitVec 64} (h : barrierCause (getR s (here s)) v = none) (f : Nat → Nat → State) :
    withBarrier s (here s) v f = f (barrierKey (here s) v) (barrierOff v) := by
  unfold withBarrier
  rw [h]

/-! ## Updates at the port -/

section port
variable {s : State} {r key off : Nat} {upd : Elem → BarRes}

theorem usePort_free {who : Nat} (h : portFree s key who = true) (f : State → State) :
    usePort s key who f = f (modE s key fun e => portTake e who (getR s (keyRegion key)).cycle) := if_pos h

theorem seqUpdate_sealed (hf : portFree s key seqPortNo = true) (h : isSealed (getE s key) off = true) :
    seqUpdate s r key off upd = barReply (setE s key (portTake (getE s key) seqPortNo (getR s (keyRegion key)).cycle)) r key 0x07 := by
  unfold seqUpdate
  rw [if_pos h, usePort_free hf]
  rfl

/-- The element whose port has served an update of the sequencer. -/
def updateServed (s : State) (key : Nat) (e : Elem) : Elem :=
  { portTake e seqPortNo (getR s (keyRegion key)).cycle with held := e.held.filter fun h => h.src != .seq && updLive s (keyRegion key) h.src }

theorem portServed_portTake (e : Elem) (who c : Nat) : PortServed e (portTake e who c) := rfl

theorem portServed_updateServed (s : State) (key : Nat) (e : Elem) : PortServed e (updateServed s key e) := rfl

theorem spad_updateServed (s : State) (key : Nat) (e : Elem) : (updateServed s key e).spad = e.spad := rfl

/-- The bytes that the update has written, and the element otherwise. -/
theorem updateServed_spadWrite (s : State) (key : Nat) (e : Elem) (off n v : Nat) :
    (∀ x, memGet (updateServed s key (spadWrite e off n v)).spad x = (bytesAt off (bytesOf n v) x).getD (memGet e.spad x)) ∧
      PortServed e { updateServed s key (spadWrite e off n v) with spad := e.spad } := by
  refine ⟨fun x => ?_, ?_⟩
  · rw [spad_updateServed, spadWrite, memGet_memWrite_bytesAt]
  · unfold spadWrite
    generalize memWrite e.spad off (bytesOf n v) = m
    rfl

variable (hf : portFree s key seqPortNo = true) (hs : isSealed (getE s key) off = false) (ha : updAhead s key off .seq = false)
include hf hs ha

theorem seqUpdate_refused (hu : upd (getE s key) = .refused) :
    seqUpdate s r key off upd = barReply (setE s key (updateServed s key (getE s key))) r key 0x05 := by
  unfold seqUpdate
  rw [if_neg (by simp [hs])]
  simp only [portUpdate, hf, ha, hu]
  rfl

theorem seqUpdate_writes (g : Elem → Elem) :
    seqUpdate s r key off (fun e => .applied (g e)) = barReply (setE s key (updateServed s key (g (getE s key)))) r key 0 := by
  unfold seqUpdate
  rw [if_neg (by simp [hs])]
  simp only [portUpdate, hf, ha]
  rfl

theorem seqUpdate_applied {e : Elem} (hu : upd (getE s key) = .applied e) :
    seqUpdate s r key off upd = barReply (setE s key (updateServed s key e)) r key 0 := by
  unfold seqUpdate
  rw [if_neg (by simp [hs])]
  simp only [portUpdate, hf, ha, hu]
  rfl

end port

/-! ## TBWAIT at its port -/

section wait
variable {s : State} {key off : Nat}

/-- The barrier holds another phase: the reply sets out. -/
theorem usePort_phase_differs {phase : Nat} (hf : portFree s key seqPortNo = true)
    (h : barPhase (barrierAt (getE s key) off) ≠ phase) (wait : State → State) :
    (usePort s key seqPortNo fun t =>
      if barPhase (BitVec.ofNat 128 (memVal (getE t key).spad off 16)) ≠ phase then barReply t (here s) key 0 else wait t) =
      barReply (setE s key (portTake (getE s key) seqPortNo (getR s (keyRegion key)).cycle)) (here s) key 0 := by
  rw [usePort_free hf, modE, getE_setE]
  exact if_pos h

theorem usePort_phase_same {phase : Nat} (hf : portFree s key seqPortNo = true)
    (h : barPhase (barrierAt (getE s key) off) = phase) (reply wait : State → State) :
    (usePort s key seqPortNo fun t =>
      if barPhase (BitVec.ofNat 128 (memVal (getE t key).spad off 16)) ≠ phase then reply t else wait t) =
      wait (setE s key (portTake (getE s key) seqPortNo (getR s (keyRegion key)).cycle)) := by
  rw [usePort_free hf, modE, getE_setE]
  exact if_neg (not_not.2 h)

end wait

section wait
variable {s : State} {key off : Nat}

/-- The element with the TBWAIT of a region registered at a barrier. -/
def registered (off : Nat) (e : Elem) : Elem := { e with waiter := some (off, false) }

/-- The barrier is in the phase that TBWAIT waits out: it is registered there. -/
theorem registers_waiter (e : Elem) :
    let t := modSeq (modE (setE s key e) key (registered off)) (here s) fun q => { q with bar := { q.bar with waits := true } }
    BarrierWaits { (hereSeq s).bar with waits := true } s t ∧ OtherElems key s t ∧ getE t key = registered off e := by
  have hq := getSeq_modSeq s (here s) fun q => { q with bar := { q.bar with waits := true } }
  refine ⟨barrierWaits_of_onlySeq (t := modSeq s (here s) fun q => { q with bar := { q.bar with waits := true } })
    (onlySeq_modSeq ..) (congrArg Seq.bar hq) ?_ (modE (setE s key e) key (registered off)).elems, ?_, ?_⟩
  · rw [hq]
    rfl
  · intro k hk
    change getE (modE (setE s key e) key (registered off)) k = getE s k
    rw [getE_modE_other _ _ _ _ hk, getE_setE_other _ _ _ _ hk]
  · change getE (modE (setE s key e) key (registered off)) key = registered off e
    rw [getE_modE, getE_setE]

theorem toNat_eq_phase {v : BitVec 64} (h : v.extractLsb' 4 60 = 0) : v.toNat = (v.extractLsb' 0 4).toNat := by
  have h' := congrArg BitVec.toNat h
  simp only [BitVec.extractLsb'_toNat, BitVec.ofNat_eq_ofNat, BitVec.toNat_ofNat, Nat.shiftRight_eq_div_pow] at h' ⊢
  have := v.isLt
  omega

theorem barPhase_eq_iff {e : Elem} {v : BitVec 64} (h : v.extractLsb' 4 60 = 0) :
    barPhase (barrierAt e off) = v.toNat ↔ (barrierAt e off).extractLsb' 0 4 = v.extractLsb' 0 4 := by
  rw [toNat_eq_phase h, ← BitVec.toNat_inj]
  rfl

end wait

/-! ## What an update leaves of a barrier (R213, R214) -/

section fields
variable (g : BitVec 48) (s : BitVec 32) (r : BitVec 24) (a : BitVec 20) (p : BitVec 4)

theorem concat_phase : (g ++ s ++ r ++ a ++ p).extractLsb' 0 4 = p := by
  rw [BitVec.extractLsb'_append_eq_right]

theorem concat_count : (g ++ s ++ r ++ a ++ p).extractLsb' 4 20 = a := by
  refine BitVec.eq_of_getLsbD_eq fun i hi => ?_
  simp only [BitVec.getLsbD_extractLsb', BitVec.getLsbD_append, hi]
  grind

theorem concat_reload : (g ++ s ++ r ++ a ++ p).extractLsb' 24 24 = r := by
  refine BitVec.eq_of_getLsbD_eq fun i hi => ?_
  simp only [BitVec.getLsbD_extractLsb', BitVec.getLsbD_append, hi]
  grind

theorem concat_bytes : (g ++ s ++ r ++ a ++ p).extractLsb' 48 32 = s := by
  refine BitVec.eq_of_getLsbD_eq fun i hi => ?_
  simp only [BitVec.getLsbD_extractLsb', BitVec.getLsbD_append, hi]
  grind

theorem concat_notify : (g ++ s ++ r ++ a ++ p).extractLsb' 80 48 = g := by
  refine BitVec.eq_of_getLsbD_eq fun i hi => ?_
  simp only [BitVec.getLsbD_extractLsb', BitVec.getLsbD_append, hi]
  grind

end fields

section step
variable {b : BitVec 128} {e e' : Elem} {off darr dsec : Nat}

theorem toNat_sub_ofNat {w d : Nat} {x : BitVec w} (h : d ≤ x.toNat) : (x - BitVec.ofNat w d).toNat = x.toNat - d := by
  rw [← ofNat_toNat_sub x h, BitVec.toNat_ofNat, Nat.mod_eq_of_lt (Nat.lt_of_le_of_lt (Nat.sub_le ..) x.isLt)]

theorem barrierStep_barAfter (h : ¬ (barArr b < darr ∨ barSec b < dsec)) : BarrierStep darr dsec b (barAfter b darr dsec).1 := by
  have ha : darr ≤ (b.extractLsb' 4 20).toNat := Nat.le_of_not_lt fun hlt => h (.inl hlt)
  have hs : dsec ≤ (b.extractLsb' 48 32).toNat := Nat.le_of_not_lt fun hlt => h (.inr hlt)
  unfold BarrierStep
  by_cases hlast : (b.extractLsb' 4 20).toNat = darr ∧ (b.extractLsb' 48 32).toNat = dsec
  · rw [barAfter_changes hlast.1 hlast.2]
    simp only [concat_phase, concat_count, concat_reload, concat_bytes, concat_notify, hlast, Nat.sub_self, and_self, if_true]
    exact ⟨rfl, trivial⟩
  · rw [barAfter_counts ha hs hlast]
    simp only [concat_phase, concat_count, concat_reload, concat_bytes, concat_notify, toNat_sub_ofNat ha, toNat_sub_ofNat hs]
    rw [if_neg (by omega)]
    exact ⟨trivial, ⟨trivial, trivial⟩, trivial, trivial⟩

/-- The phase of a barrier changes with the last arrival and the last byte alone. -/
theorem barAfter_phase (h : ¬ (barArr b < darr ∨ barSec b < dsec)) (hp : (barAfter b darr dsec).1.extractLsb' 0 4 ≠ b.extractLsb' 0 4) :
    (barAfter b darr dsec).2 = true := by
  have ha : darr ≤ (b.extractLsb' 4 20).toNat := Nat.le_of_not_lt fun hlt => h (.inl hlt)
  have hs : dsec ≤ (b.extractLsb' 48 32).toNat := Nat.le_of_not_lt fun hlt => h (.inr hlt)
  by_cases hlast : (b.extractLsb' 4 20).toNat = darr ∧ (b.extractLsb' 48 32).toNat = dsec
  · rw [barAfter_changes hlast.1 hlast.2]
  · rw [barAfter_counts ha hs hlast, concat_phase] at hp
    exact absurd rfl hp

/-- What an update that is made leaves in the scratchpad, and of the TBWAIT that is registered. -/
theorem barrierUpdate_applied (h : barrierUpdate e off darr dsec = .applied e') :
    ¬ (barArr (barrierAt e off) < darr ∨ barSec (barrierAt e off) < dsec) ∧
      e'.spad = memWrite e.spad off (bytesOf 16 (barAfter (barrierAt e off) darr dsec).1.toNat) ∧
      e'.waiter = if (barAfter (barrierAt e off) darr dsec).2 then released off e.waiter else e.waiter := by
  by_cases hless : barArr (barrierAt e off) < darr ∨ barSec (barrierAt e off) < dsec
  · rw [barrierUpdate_refused hless] at h
    cases h
  · rw [barrierUpdate_accepted hless] at h
    dsimp only at h
    split at h
    · cases h
    · split at h
      · cases h
        exact ⟨hless, rfl, rfl⟩
      · cases h
        exact ⟨hless, rfl, rfl⟩

/-- The number that a write of n bytes leaves where it was made. -/
theorem memVal_memWrite_bytesOf (m : List Host.Cell) (a n v : Nat) : memVal (memWrite m a (bytesOf n v)) a n = v % 2 ^ (8 * n) := by
  rw [memVal, memBytes_eq_bytesOf (v := v), leVal_bytesOf]
  intro i hi
  rw [memGet_memWrite, length_bytesOf, if_pos (by omega), Nat.add_sub_cancel_left, List.getD_eq_getElem?_getD, getElem?_bytesOf hi]
  rfl

theorem barrierAt_of_spad {c : BitVec 128} (h : e'.spad = memWrite e.spad off (bytesOf 16 c.toNat)) : barrierAt e' off = c := by
  rw [barrierAt, h, memVal_memWrite_bytesOf, Nat.mod_eq_of_lt c.isLt, BitVec.ofNat_toNat, BitVec.setWidth_eq]

end step

/-! ## The instructions -/

section instructions
variable {s : State} {a b : BitVec 5} {sc : BitVec 3} {n : BitVec 16}

theorem goes_seqNext (s : State) : Goes (nextPcOf s) s (seqNext s (here s) id) := goes_modSeq rfl

theorem exec_tbinit_atBarrier (hc : barrierCause (getR s (here s)) (reg s a) = none) (h₁ : (reg s b).extractLsb' 0 20 ≠ 0)
    (h₂ : (reg s b).extractLsb' 20 4 = 0) (h₃ : (reg s b).extractLsb' 56 8 = 0) (hn : notifyBad (getR s (here s)) n = false) :
    exec (.tbinit a b n) s = .next (atBarrier s (here s) (barrierKey (here s) (reg s a)) (reg s a)
      (fun t => seqUpdate t (here s) (barrierKey (here s) (reg s a)) (barrierOff (reg s a)) fun e =>
        .applied (spadWrite e (barrierOff (reg s a)) 16 (((reg s b).extractLsb' 0 20).toNat * 2 ^ 4 +
          ((reg s b).extractLsb' 0 20).toNat * 2 ^ 24 + ((reg s b).extractLsb' 24 32).toNat * 2 ^ 48 + n.toNat * 2 ^ 112)))
      fun t => seqNext t (here s) id) := by
  rw [exec_tbinit]
  refine congrArg Host.Outcome.next ((withBarrier_ok hc _).trans (if_neg ?_))
  rintro (h | h | h | h)
  · exact h₁ h
  · exact h h₂
  · exact h h₃
  · exact absurd (hn.symm.trans h) (by decide)

/-- TBARR where no request is out, once the earlier writes are performed, and where one is. -/
theorem exec_tbarr_atBarrier (hsc : sc.toNat < 5) (hc : barrierCause (getR s (here s)) (reg s a) = none)
    (go : State → State) (hgo : go = fun t => atBarrier t (here s) (barrierKey (here s) (reg s a)) (reg s a)
      (fun t => seqUpdate t (here s) (barrierKey (here s) (reg s a)) (barrierOff (reg s a)) fun e => barrierUpdate e (barrierOff (reg s a)) 1 0)
      fun t => seqNext t (here s) id) :
    exec (.tbarr a sc) s =
      .next (if (hereSeq s).bar.sent.isSome then go s else afterWrites (seqWait s (here s)) (here s) sc.toNat go) := by
  rw [exec_tbarr, hgo]
  exact congrArg Host.Outcome.next ((if_neg (Nat.not_le.2 hsc)).trans (withBarrier_ok hc _))

theorem exec_tbwait_atBarrier (hsc : sc.toNat < 5) (hv : (reg s b).extractLsb' 4 60 = 0)
    (hc : barrierCause (getR s (here s)) (reg s a) = none) :
    exec (.tbwait a b sc) s = .next (atBarrier s (here s) (barrierKey (here s) (reg s a)) (reg s a)
      (fun t =>
        if (hereSeq s).bar.waits then
          if (getE t (barrierKey (here s) (reg s a))).waiter = some (barrierOff (reg s a), true)
            then barReply t (here s) (barrierKey (here s) (reg s a)) 0 else t
        else usePort t (barrierKey (here s) (reg s a)) seqPortNo fun t =>
          if barPhase (BitVec.ofNat 128 (memVal (getE t (barrierKey (here s) (reg s a))).spad (barrierOff (reg s a)) 16)) ≠ (reg s b).toNat
            then barReply t (here s) (barrierKey (here s) (reg s a)) 0
          else modSeq (modE t (barrierKey (here s) (reg s a)) fun e => { e with waiter := some (barrierOff (reg s a), false) }) (here s)
            fun q => { q with bar := { q.bar with waits := true } })
      fun t => seqNext t (here s) fun q => seqAcquire q sc.toNat) := by
  rw [exec_tbwait]
  refine congrArg Host.Outcome.next ((if_neg ?_).trans (withBarrier_ok hc _))
  rintro (h | h)
  · omega
  · exact h hv

end instructions

/-- The request of TBARR sets out once the earlier writes are performed. -/
theorem sends_afterWrites {s : State} {key scope : Nat} {va : BitVec 64} {port go : State → State} (hw : seqPerformed s (here s) scope = true)
    (hr : (hereSeq s).bar.reply = none) (hs : (hereSeq s).bar.sent = none) :
    let t := afterWrites (seqWait s (here s)) (here s) scope fun t => atBarrier t (here s) key va port go
    BarrierWaits { (hereSeq s).bar with sent := some (getR s (here s)).cycle } s t ∧ SameElems s t := by
  dsimp only
  rw [afterWrites_performed ((seqPerformed_seqWait ..).trans hw)]
  generalize hf : (fun q : Seq => { q with touched := q.touched.filter fun ln => !lineAt (seqWait s (here s)) (here s) ln 4 }) = f
  have hu : OnlySeq (here s) s (modSeq (seqWait s (here s)) (here s) f) := (onlySeq_modSeq ..).trans (onlySeq_modSeq ..)
  have hq : getSeq (modSeq (seqWait s (here s)) (here s) f) (here s) = { hereSeq s with
      waitStart := some ((hereSeq s).waitStart.getD (getR s (here s)).cycle)
      touched := (hereSeq s).touched.filter fun ln => !lineAt (seqWait s (here s)) (here s) ln 4 } := by
    rw [getSeq_modSeq, seqWait, getSeq_modSeq, ← hf]
    rfl
  have hc : (getR (modSeq (seqWait s (here s)) (here s) f) (here s)).cycle = (getR s (here s)).cycle := by
    rw [getR_modSeq, seqWait, getR_modSeq]
  rw [atBarrier_sends (by rw [hq]; exact hr) (by rw [hq]; exact hs), hc]
  exact ⟨barrierWaits_sends hu hq, fun _ => rfl⟩

/-- Settles O13: each instruction is `atBarrier` with its own request at the port and its own completion. -/
theorem sequencerBarriers : Obligations.SequencerBarriers := by
  unfold Obligations.SequencerBarriers
  refine ⟨fun a b n s => ?init, fun a sc s => ?arrive, fun a b sc s => ?wait, fun e off darr dsec e' h => ?step⟩
  case init =>
    dsimp only
    intro hc h₁ h₂ h₃ hn
    have hx := exec_tbinit_atBarrier hc h₁ h₂ h₃ hn
    refine ⟨barrierTravels_of_exec hx (goes_seqNext s), fun hp hs => ⟨_, hx, ?_⟩, fun hp hs ha => ⟨_, hx, ?_⟩⟩
    · rw [atBarrier_port hp, seqUpdate_sealed hp.free hs]
      exact replied_served (portServed_portTake ..) _
    · rw [atBarrier_port hp, seqUpdate_writes hp.free hs ha, getE_barReply, getE_setE]
      exact ⟨(replied_served (portServed_updateServed ..) _).1, updateServed_spadWrite ..⟩
  case arrive =>
    dsimp only
    intro hsc hc
    have hx := exec_tbarr_atBarrier hsc hc _ rfl
    have hsent : AtPort (barrierKey (here s) (reg s a)) s → exec (.tbarr a sc) s = .next (seqUpdate s (here s)
        (barrierKey (here s) (reg s a)) (barrierOff (reg s a)) fun e => barrierUpdate e (barrierOff (reg s a)) 1 0) := by
      intro hp
      obtain ⟨n, hn, -⟩ := hp.sent
      rw [hx, hn, Option.isSome_some, if_pos rfl, atBarrier_port hp]
    refine ⟨fun hw => ?_, fun hp hs => ⟨_, hsent hp, ?_⟩, fun hp hs ha hu => ⟨_, hsent hp, ?_⟩, fun e' hp hs ha hu => ⟨_, hsent hp, ?_⟩⟩
    · refine ⟨fun hr hs => ⟨_, hx, ?_⟩, fun n hs hr hn => ⟨_, hx, ?_⟩, fun n c hs hr hne hn => ⟨_, hx, ?_⟩⟩
      · rw [hs, Option.isSome_none, if_neg Bool.false_ne_true]
        exact sends_afterWrites hw hr hs
      · rw [if_pos (Option.isSome_iff_ne_none.2 hs), atBarrier_arrives hr hn, if_pos rfl]
        exact goes_seqNext s
      · rw [if_pos (Option.isSome_iff_ne_none.2 hs), atBarrier_arrives hr hn, if_neg hne]
        exact traps_seqTrap ..
    · rw [seqUpdate_sealed hp.free hs]
      exact replied_served (portServed_portTake ..) _
    · rw [seqUpdate_refused hp.free hs ha hu]
      exact replied_served (portServed_updateServed ..) _
    · rw [seqUpdate_applied hp.free hs ha hu]
      exact replied_served (portServed_updateServed ..) _
  case wait =>
    dsimp only
    intro hsc hv hc
    have hx := exec_tbwait_atBarrier (b := b) hsc hv hc
    refine ⟨barrierTravels_of_exec hx ?_, fun hp hw hne => ⟨_, hx, ?_⟩, fun hp hw he => ⟨_, hx, ?_⟩, fun hp hw hrel => ⟨_, hx, ?_⟩⟩
    · refine fenced_seqNext (l := (hereSeq s).touched) (OnlySeq.refl ..) rfl ?_
      unfold seqAcquire
      split <;> simp [*]
    · rw [atBarrier_port hp, hw, if_neg Bool.false_ne_true, usePort_phase_differs hp.free (mt (barPhase_eq_iff hv).1 hne)]
      exact replied_served (portServed_portTake ..) _
    · rw [atBarrier_port hp, hw, if_neg Bool.false_ne_true, usePort_phase_same hp.free ((barPhase_eq_iff hv).2 he)]
      obtain ⟨hbar, hother, hkey⟩ := registers_waiter (s := s) (key := barrierKey (here s) (reg s a)) (off := barrierOff (reg s a))
        (portTake (getE s (barrierKey (here s) (reg s a))) seqPortNo (getR s (keyRegion (barrierKey (here s) (reg s a)))).cycle)
      exact ⟨hbar, hother, hkey ▸ rfl⟩
    · rw [atBarrier_port hp, hw, if_pos rfl, if_pos hrel]
      exact ⟨replied_barReply (fun _ _ => rfl) _, rfl⟩
  case step =>
    obtain ⟨hok, hspad, hwaiter⟩ := barrierUpdate_applied h
    have hat := barrierAt_of_spad hspad
    refine ⟨?_, fun x hx => ?_, fun v hp hv => ?_⟩
    · rw [hat]
      exact barrierStep_barAfter hok
    · rw [hspad, memGet_memWrite, length_bytesOf, if_neg (by omega)]
    · rw [hat] at hp
      rw [hwaiter, if_pos (barAfter_phase hok hp), hv]
      simp [released]

end Sys2Proof.Claims
end
section
/-!
# Firings that do not trap where a condition is kept

Whether a beat traps may depend on what the beats before it have left. Where each beat keeps a condition under which the next does not
trap, the firing is that of an Execute that never traps.
-/
namespace Sys2Proof.Claims
open Sys2Proof.Machine

/-- An Execute without its traps. -/
def untrapped (exe : Exe) : Exe := fun x e k o held => { exe x e k o held with trap := none }

theorem untrapped_eq {exe : Exe} {x : Ctx} {e : Elem} {k : Nat} {o : BeatOps} {held : List Vec} (h : (exe x e k o held).trap = none) :
    untrapped exe x e k o held = exe x e k o held := by
  unfold untrapped
  rw [← h]

theorem noTrap_untrapped (x : Ctx) (exe : Exe) (n : Nat) : NoTrap x (untrapped exe) n := fun _ _ _ _ _ => rfl

/-- A beat that does not trap is a beat of the Execute without traps. -/
theorem beat_untrapped {x : Ctx} {exe : Exe} {k : Nat} {y : Firing} (rw : Nat) (hy : y.trap = none) (hk : y.done = k)
    (h : (beatRes x exe k y).trap = none) : beat x exe rw y = beat x (untrapped exe) rw y := by
  have hres : beatRes x (untrapped exe) k y = beatRes x exe k y := untrapped_eq h
  rw [beat_of_no_trap rw hy hk h, beat_of_no_trap rw hy hk (hres ▸ h), hres]

/-- Each beat keeps the condition P of the element before it, and has the effects `eff`, without a trap. -/
def KeepsBeats (s : State) (f : Form) (cpb : Nat) (exe : Exe) (eff : Effects) (P : Nat → Elem → Prop) : Prop :=
  ∀ k < f.hdr.beats.count, ∀ e held, P k e →
    let r := exe (fireCtx s f cpb) (acquireOps e f k) k (readOps e (fpSample s) f k).1 held
    r.trap = none ∧ eff (fireCtx s f cpb) (acquireOps e f k) k (readOps e (fpSample s) f k).1 held r ∧
      ∀ fl e', Beat f (fireCtx s f cpb) k fl r e' → P (k + 1) e'

variable {s : State} {f : Form} {cpb : Nat} {exe : Exe} {eff : Effects} {P : Nat → Elem → Prop}

/-- Along the beats the condition holds, and no trap makes a difference. -/
theorem KeepsBeats.afterBeats_eq (h : KeepsBeats s f cpb exe eff P) (hfirst : P 0 (paid s f)) (rw : Nat) {k : Nat}
    (hk : k ≤ f.hdr.beats.count) :
    afterBeats (fireCtx s f cpb) exe rw (paid s f) k = afterBeats (fireCtx s f cpb) (untrapped exe) rw (paid s f) k ∧
      P k (afterBeats (fireCtx s f cpb) (untrapped exe) rw (paid s f) k).elem := by
  induction k with
  | zero => exact ⟨rfl, hfirst⟩
  | succ k ih =>
    obtain ⟨heq, hP⟩ := ih (by omega)
    have hno := noTrap_untrapped (fireCtx s f cpb) exe f.hdr.beats.count
    obtain ⟨hnone, hdone⟩ := afterBeats_progress rw (paid s f) hno (by omega : k ≤ _)
    obtain ⟨htrap, -, hnext⟩ := h k (by omega) _ (afterBeats (fireCtx s f cpb) (untrapped exe) rw (paid s f) k).held hP
    constructor
    · rw [afterBeats, afterBeats, Function.iterate_succ_apply', Function.iterate_succ_apply', ← afterBeats, ← afterBeats, heq]
      exact beat_untrapped rw hnone hdone htrap
    · have hres : beatRes (fireCtx s f cpb) (untrapped exe) k (afterBeats (fireCtx s f cpb) (untrapped exe) rw (paid s f) k) = _ :=
        untrapped_eq htrap
      rw [afterBeats_succ rw (paid s f) hno (by omega)]
      dsimp only
      rw [hres]
      exact hnext _ _ (beat_beatElem (fireCtx s f cpb) k _ _)

/-- A firing that is ready, whose beats keep a condition under which none of them traps, completes with its effects. -/
theorem KeepsBeats.fireForm_completes (h : KeepsBeats s f cpb exe eff P) (hfirst : P 0 (paid s f)) {ctx rw : Nat} {unit : Bool}
    (hg : OnGrid s) (hr : Ready s f ctx) (hu : unit = true) (carry : BeatOps → Bool) (hw : 0 < rw) :
    let t := fireForm f cpb rw unit ctx carry exe (fun _ t => t) s
    OnlyElem s t ∧ Ran f cpb rw carry eff s (getE t (focusKey s)) := by
  have hfires : (ready s (focusKey s) f ctx && unit) = true := by rw [hr.ready_eq hg, hu]; rfl
  have hruns : runBeats s (fireCtx s f cpb) exe rw = runBeats s (fireCtx s f cpb) (untrapped exe) rw := by
    rw [runBeats_eq_afterBeats, runBeats_eq_afterBeats]
    exact (h.afterBeats_eq hfirst rw (Nat.le_refl _)).1
  have hfire : fireForm f cpb rw unit ctx carry exe (fun _ t => t) s = fireForm f cpb rw unit ctx carry (untrapped exe) (fun _ t => t) s := by
    rw [fireForm_runs _ _ _ _ _ _ _ _ _ hfires, fireForm_runs _ _ _ _ _ _ _ _ _ hfires]
    dsimp only
    rw [hruns]
  obtain ⟨honly, es, rs, hstart, hbeats, hend⟩ := Claims.fireForm_completes (exe := untrapped exe)
    (eff := fun x e k o held r => r = untrapped exe x e k o held) hg hr hu carry hw (fun _ _ _ _ _ => rfl) fun _ _ _ _ _ => rfl
  dsimp only
  rw [hfire]
  have hP : ∀ k ≤ f.hdr.beats.count, P k (es k) := by
    intro k hk
    induction k with
    | zero => rw [hstart]; exact hfirst
    | succ k ih =>
      obtain ⟨hres, -, hbeat⟩ := hbeats k hk
      obtain ⟨htrap, -, hnext⟩ := h k hk _ (if k = 0 then [] else (rs (k - 1)).held) (ih (by omega))
      rw [untrapped_eq htrap] at hres
      exact hnext _ _ (hres ▸ hbeat)
  refine ⟨honly, es, rs, hstart, fun k hk => ?_, hend⟩
  obtain ⟨hres, htrap', hbeat⟩ := hbeats k hk
  obtain ⟨htrap, heff, -⟩ := h k hk _ (if k = 0 then [] else (rs (k - 1)).held) (hP k (Nat.le_of_lt hk))
  rw [untrapped_eq htrap] at hres
  exact ⟨hres ▸ heff, htrap', hbeat⟩

/-- A firing of one beat that is ready and does not trap. -/
theorem fireForm_completes_one {s : State} {f : Form} {exe : Exe} {eff : Effects} {ctx cpb rw : Nat} {unit : Bool} (hg : OnGrid s)
    (hr : Ready s f ctx) (hu : unit = true) (carry : BeatOps → Bool) (hw : 0 < rw) (h1 : f.hdr.beats.count = 1)
    (h : ∀ held, let r := exe (fireCtx s f cpb) (acquireOps (paid s f) f 0) 0 (firstOps s f) held
      r.trap = none ∧ eff (fireCtx s f cpb) (acquireOps (paid s f) f 0) 0 (firstOps s f) held r) :
    let t := fireForm f cpb rw unit ctx carry exe (fun _ t => t) s
    OnlyElem s t ∧ Ran f cpb rw carry eff s (getE t (focusKey s)) := by
  have hkeeps : KeepsBeats s f cpb exe eff fun k e => k = 0 → e = paid s f := by
    intro k hk e held hP
    obtain rfl : k = 0 := by omega
    obtain rfl := hP rfl
    obtain ⟨htrap, heff⟩ := h held
    exact ⟨htrap, heff, fun _ _ _ hzero => absurd hzero (by omega)⟩
  exact hkeeps.fireForm_completes (fun _ => rfl) hg hr hu carry hw

end Sys2Proof.Claims
end
section
/-!
# What the beats of a memory instruction read

A memory instruction changes the accesses of its element, their count, the load-pending bits and the L1, and loses the heads of its queues
where it dequeues; each of its beats reads the operands, records and seals that stood there as it fired (R106, R202).
-/
namespace Sys2Proof.Claims
open Sys2Proof.Machine

/-- The element e reads as e₀ does, but for its queues. -/
structure ReadsAs (e₀ e : Elem) : Prop where
  f : ∀ n, tget e.f n 0 = tget e₀.f n 0
  m : ∀ n, tget e.m n 0 = tget e₀.m n 0
  la : e.la = e₀.la
  lb : e.lb = e₀.lb
  fmts : e.fmts = e₀.fmts
  recs : e.recs = e₀.recs
  seals : e.seals = e₀.seals

theorem ReadsAs.trans {e₀ e₁ e₂ : Elem} (h : ReadsAs e₀ e₁) (h' : ReadsAs e₁ e₂) : ReadsAs e₀ e₂ where
  f n := (h'.f n).trans (h.f n)
  m n := (h'.m n).trans (h.m n)
  la := h'.la.trans h.la
  lb := h'.lb.trans h.lb
  fmts := h'.fmts.trans h.fmts
  recs := h'.recs.trans h.recs
  seals := h'.seals.trans h.seals

/-- Nothing of the element has changed but its accesses, their count, the load-pending bits and the L1. -/
def OnlyAccs (e e' : Elem) : Prop := { e' with accs := e.accs, nextAcc := e.nextAcc, pend := e.pend, l1 := e.l1 } = e

theorem OnlyAccs.readsAs {e e' : Elem} (h : OnlyAccs e e') : ReadsAs e e' where
  f n := (congrArg (fun e : Elem => tget e.f n 0) h :)
  m n := (congrArg (fun e : Elem => tget e.m n 0) h :)
  la := (congrArg Elem.la h :)
  lb := (congrArg Elem.lb h :)
  fmts := (congrArg Elem.fmts h :)
  recs := (congrArg Elem.recs h :)
  seals := (congrArg Elem.seals h :)

theorem OnlyAccs.getQ {e e' : Elem} (h : OnlyAccs e e') (q : Nat) : getQ e' q = getQ e q := (congrArg (fun e : Elem => Machine.getQ e q) h :)

theorem onlyAccs_acquireOps (e : Elem) (f : Form) (k : Nat) : OnlyAccs e (acquireOps e f k) := by
  obtain ⟨c, h⟩ := acquireOps_cases e f k
  rw [h e rfl]
  cases c <;> rfl

/-- Of what a later beat reads, a beat without a result changes the queues alone. -/
theorem readsAs_of_beat {f : Form} {x : Ctx} {k : Nat} {fl : Flags} {r : BeatRes} {e : Elem} (h : Beat f x k fl r e)
    (hresult : f.result = false) : ReadsAs r.elem e where
  f n := by rw [h.freg, destF, hresult]; rfl
  m n := by rw [h.mreg, destM, hresult]; rfl
  la := by rw [h.la, hresult]; rfl
  lb := by rw [h.lb, hresult]; rfl
  fmts := (congrArg Elem.fmts h.rest :)
  recs := (congrArg Elem.recs h.rest :)
  seals := (congrArg Elem.seals h.rest :)

theorem tokenOperand_congr {e₀ e : Elem} (h : ReadsAs e₀ e) (sample : BitVec 3) (t : Token) :
    tokenOperand e sample t = tokenOperand e₀ sample t := by
  unfold tokenOperand vcFmt vcReg
  simp only [h.fmts, h.f]

/-- The tokens of a queue that leaves its head at each beat. -/
theorem toks_leftAt (now c : Nat) (q : Queue) : (leftAt now c q).toks = q.toks.drop 1 := by
  have hpop : (popped q).toks = q.toks.drop 1 := by
    unfold popped
    cases h : q.toks with
    | nil => simp [h]
    | cons t l => rfl
  unfold leftAt
  dsimp only
  split <;> exact hpop

/-- What an element is before beat k of a firing that started from e₀: it reads as e₀, and k heads of each queue have left where the beats
dequeue. -/
structure BeforeBeat (f : Form) (e₀ : Elem) (k : Nat) (e : Elem) : Prop where
  reads : ReadsAs e₀ e
  toks : ∀ q ∈ f.queues.map Fin.val, (getQ e q).toks = (getQ e₀ q).toks.drop (if f.hdr.dq then k else 0)

theorem beforeBeat_paid (s : State) (f : Form) : BeforeBeat f (elem s) 0 (paid s f) where
  reads := ⟨fun _ => rfl, fun _ => rfl, rfl, rfl, rfl, rfl, rfl⟩
  toks q _ := by rw [ite_self]; rfl

/-- A beat that changes the accesses alone comes before the next. -/
theorem BeforeBeat.next {f : Form} {e₀ e e' : Elem} {x : Ctx} {k : Nat} {fl : Flags} {r : BeatRes} (h : BeforeBeat f e₀ k e)
    (hresult : f.result = false) (hr : OnlyAccs (acquireOps e f k) r.elem) (hbeat : Beat f x k fl r e') : BeforeBeat f e₀ (k + 1) e' where
  reads := ((h.reads.trans (onlyAccs_acquireOps e f k).readsAs).trans hr.readsAs).trans (readsAs_of_beat hbeat hresult)
  toks q hq := by
    have hsame : getQ r.elem q = getQ e q := (hr.getQ q).trans ((onlyAccs_acquireOps e f k).getQ q)
    rw [hbeat.queues q, hsame]
    cases hdq : f.hdr.dq with
    | false =>
      have htoks := h.toks q hq
      rw [hdq] at htoks
      rw [if_neg (by simp)]
      exact htoks
    | true =>
      have htoks := h.toks q hq
      rw [hdq] at htoks
      rw [if_pos ⟨rfl, hq⟩, toks_leftAt, htoks, List.drop_drop]
      rfl

/-- The operand of beat k is that of the element as it fired (R106). -/
theorem BeforeBeat.readOps_a {s : State} {f : Form} {k : Nat} {e : Elem} (h : BeforeBeat f (elem s) k e) {a : Opnd} (ha : f.a = .src a) :
    (readOps e (fpSample s) f k).1.a = opndAt s k a := by
  have hread : (readOps e (fpSample s) f k).1.a = (readOpnd e (fpSample s) k f.hdr.dq a).1 := by
    change (readField e (fpSample s) k f.hdr.dq f.a).1 = _
    rw [ha]
    rfl
  rw [hread]
  unfold opndAt
  cases a with
  | f n => exact h.reads.f n.val
  | m n => exact h.reads.m n.val
  | la => exact h.reads.la
  | lb => exact h.reads.lb
  | q j =>
    have hmem : j.val ∈ f.queues.map Fin.val := by
      refine List.mem_map_of_mem (List.mem_filterMap.2 ⟨f.a, by simp, ?_⟩)
      rw [ha]
      rfl
    have hentry : queueEntry e j.val k f.hdr.dq = queueEntry (elem s) j.val k false := by
      unfold queueEntry
      rw [h.toks j.val hmem, List.getElem?_drop]
      cases f.hdr.dq <;> simp
    simp only [readOpnd, hentry, tokenOperand_congr h.reads]

/-- Beats that read operand A, the records and the seals, and change the accesses alone, keep what the next reads. -/
theorem keepsBeats_of_onlyAccs {s : State} {f : Form} {a : Opnd} {exe : Exe} {eff : Effects} (hresult : f.result = false) (ha : f.a = .src a)
    (h : ∀ k < f.hdr.beats.count, ∀ e o held, e.recs = (elem s).recs → e.seals = (elem s).seals → o.a = opndAt s k a →
      let r := exe (fireCtx s f 1) e k o held
      r.trap = none ∧ eff (fireCtx s f 1) e k o held r ∧ OnlyAccs e r.elem) : KeepsBeats s f 1 exe eff (BeforeBeat f (elem s)) := by
  intro k hk e held hP
  have hacq := hP.reads.trans (onlyAccs_acquireOps e f k).readsAs
  obtain ⟨htrap, heff, honly⟩ := h k hk _ (readOps e (fpSample s) f k).1 held hacq.recs hacq.seals (hP.readOps_a ha)
  exact ⟨htrap, heff, fun _ _ hbeat => hP.next hresult honly hbeat⟩

end Sys2Proof.Claims
end

section
/-!
# Accesses as they are left outstanding (R202, R204, R207)
-/
namespace Sys2Proof.Claims
open Sys2Proof.Machine

/-! ## Offsets -/

theorem recOffset_eq (b : BitVec 256) (a : Vec) (imm : Int) (k u : Nat) : recOffset b a imm k u =
    (lane 32 a 0).toInt * (b.extractLsb' 104 32).toInt + (lane 32 a 1).toInt * (b.extractLsb' 136 32).toInt + (lane 32 a 2).toInt + imm +
      (u * k : Nat) := by
  unfold recOffset recStride1 recStride2
  simp only [laneOf_toNat, fun v : BitVec 32 => sext_toNat v (by decide)]

theorem laneOffset_eq {w : Nat} (hw : 0 < w) (b : BitVec 256) (a : Vec) (imm : Int) (j : Nat) :
    laneOffset b w a imm j = (lane w a j).toInt * recStride1 b + imm := by
  unfold laneOffset
  rw [laneOf_toNat, sext_toNat _ hw]

/-! ## One access -/

theorem outstanding_newAccess (x : Ctx) (e : Elem) (m : MemOp) (k : Nat) (o : BeatOps) (b : BitVec 256) (data : Vec) (lanes : List AccLane)
    (hcpb : x.cpb = 1) : Outstanding x e m k b o data (newAccess x e m k o b data lanes) where
  id := rfl
  what := ⟨rfl, rfl, rfl, rfl, rfl, rfl⟩
  place := ⟨rfl, rfl⟩
  data := rfl
  slot := ⟨rfl, rfl, rfl, rfl, by rw [newAccess, hcpb, Nat.mul_one]⟩
  fresh := ⟨rfl, rfl, rfl, rfl, rfl, rfl, rfl, rfl, rfl⟩
  sends j hj := by simp [newAccess, hj]

/-- An access that is issued is left outstanding, and the register that it loads pends (R111). -/
theorem issues_issue {x : Ctx} {e : Elem} {m : MemOp} {k : Nat} {o : BeatOps} {b : BitVec 256} {data : Vec} {lanes : List AccLane}
    {p : List AccLane → Prop} (hcpb : x.cpb = 1) (hp : p lanes) :
    Issues x e m k b o data p (issue e (newAccess x e m k o b data lanes)) := by
  refine ⟨⟨_, outstanding_newAccess x e m k o b data lanes hcpb, hp, ?_⟩, ?_, fun j hj => ?_, ?_⟩
  case refine_3 =>
    cases hd : m.dest with
    | reg n =>
      have hpend : (issue e (newAccess x e m k o b data lanes)).pend = e.pend ||| BitVec.ofNat 64 (2 ^ n) := by
        simp [issue, newAccess, hd, setPend]
      rw [hpend, BitVec.getLsbD_or, getLsbD_ofNat_two_pow hj]
      simp [eq_comm]
    | _ => simp [issue, newAccess, hd]
  all_goals
    unfold issue
    dsimp only
    split <;> rfl

theorem Issues.onlyAccs {x : Ctx} {e e' : Elem} {m : MemOp} {k : Nat} {b : BitVec 256} {o : BeatOps} {data : Vec} {p : List AccLane → Prop}
    (h : Issues x e m k b o data p e') : OnlyAccs e e' := by
  obtain ⟨-, -, -, hrest⟩ := h
  exact congrArg (fun e' : Elem => { e' with l1 := e.l1 }) hrest

theorem laneAt_newLane (x : Ctx) (e : Elem) (m : MemOp) (b : BitVec 256) (j a : Nat) :
    LaneAt x e m b j (.at_ a) (newLane x e m (recSpace b) j a) :=
  ⟨rfl, rfl, rfl, rfl, rfl⟩

/-- The lane of an address that is skipped: a load takes zero for it. -/
theorem laneAt_skipped (x : Ctx) (e : Elem) (m : MemOp) (b : BitVec 256) (j : Nat) :
    LaneAt x e m b j .skip ⟨j, 0, true, none, true, some 0⟩ := ⟨rfl, rfl, rfl, rfl⟩

/-! ## Beats with one address -/

/-- The seal check of an own write (R210). -/
theorem sealCheck_eq_false {s : State} {e : Elem} {m : MemOp} {a : Nat} (hseals : e.seals = (elem s).seals)
    (h : recSpace (recAt s m.rec_) = 1 → takesStore m.kind = true → ¬ inSeal (elem s) a) :
    (recSpace (recAt s m.rec_) = 1 && takesStore m.kind &&
      (e.seals.any fun p => p.2.sealed && decide (p.2.lo ≤ a / 16 * 16 ∧ a / 16 * 16 < p.2.hi))) = false := by
  rw [Bool.eq_false_iff]
  intro hcheck
  simp only [Bool.and_eq_true, decide_eq_true_eq, List.any_eq_true] at hcheck
  obtain ⟨⟨hspace, hstore⟩, p, hp, hsealed, hlo, hhi⟩ := hcheck
  exact h hspace hstore ⟨p, hseals ▸ hp, hsealed, hlo, hhi⟩

/-- Where an offset passes: nowhere, or at an address that no own seal refuses. -/
theorem Passes.cases {s : State} {f : Form} {m : MemOp} {off : Int} (h : Passes s m off) :
    memAddr (fireCtx s f 1).region (fireCtx s f 1).key (recAt s m.rec_) m.spaces off m.size = .skip ∨
    ∃ a, memAddr (fireCtx s f 1).region (fireCtx s f 1).key (recAt s m.rec_) m.spaces off m.size = .at_ a ∧
      (recSpace (recAt s m.rec_) = 1 → takesStore m.kind = true → ¬ inSeal (elem s) a) := by
  obtain ⟨hno, hseal⟩ := h
  change memAddr (getR s (here s)) (focusKey s) _ _ _ _ = _ ∨ ∃ a, memAddr (getR s (here s)) (focusKey s) _ _ _ _ = _ ∧ _
  cases hgo : memAddr (getR s (here s)) (focusKey s) (recAt s m.rec_) m.spaces off m.size with
  | trap c a => exact absurd hgo (hno c a)
  | skip => exact .inl rfl
  | at_ a => exact .inr ⟨a, rfl, hseal a hgo⟩

/-- A beat whose address passes leaves its access outstanding. -/
theorem memBeat_of_passes {s : State} {f : Form} {m : MemOp} {e : Elem} {k u : Nat} {imm : Int} {o : BeatOps} (held : List Vec)
    (data : BeatOps → Vec) (hrecs : e.recs = (elem s).recs) (hseals : e.seals = (elem s).seals)
    (hp : Passes s m (recOffset (recAt s m.rec_) o.a imm k u)) :
    let r := memBeat (fireCtx s f 1) e m k u imm o (data o)
    r.trap = none ∧ memEffects m imm u data (fireCtx s f 1) e k o held r ∧ OnlyAccs e r.elem := by
  have hrec : tget e.recs m.rec_ 0 = recAt s m.rec_ := by rw [hrecs]; rfl
  unfold memBeat memEffects
  dsimp only
  rw [hrec]
  obtain hgo | ⟨a, hgo, hseal⟩ := hp.cases (f := f)
  · rw [hgo]
    dsimp only
    cases hload : takesLoad m.kind with
    | false => exact ⟨rfl, ⟨rfl, rfl, by simp⟩, rfl⟩
    | true =>
      have hissues := issues_issue (x := fireCtx s f 1) (e := e) (m := m) (k := k) (o := o) (b := recAt s m.rec_) (data := data o) rfl
        (p := fun l => ∃ y, l = [y] ∧ LaneAt (fireCtx s f 1) e m (recAt s m.rec_) 0 .skip y) ⟨_, rfl, laneAt_skipped ..⟩
      exact ⟨rfl, ⟨rfl, rfl, by simpa using hissues⟩, hissues.onlyAccs⟩
  · rw [hgo]
    dsimp only
    rw [sealCheck_eq_false hseals hseal]
    have hissues := issues_issue (x := fireCtx s f 1) (e := e) (m := m) (k := k) (o := o) (b := recAt s m.rec_) (data := data o) rfl
      (p := fun l => ∃ y, l = [y] ∧ LaneAt (fireCtx s f 1) e m (recAt s m.rec_) 0 (.at_ a) y) ⟨_, rfl, laneAt_newLane ..⟩
    exact ⟨rfl, ⟨rfl, rfl, by simpa using hissues⟩, hissues.onlyAccs⟩

/-! ## Beats with an address per lane (R219) -/

/-- Lanes whose addresses pass do not trap. -/
theorem gatherLanes_of_passes {s : State} {f : Form} {m : MemOp} {e : Elem} {w : Nat} (hw : 0 < w) {imm : Int} {v : Vec}
    (hseals : e.seals = (elem s).seals) (n j₀ : Nat)
    (hp : ∀ j < n, Passes s m ((lane w v (j₀ + j)).toInt * recStride1 (recAt s m.rec_) + imm)) :
    let b := recAt s m.rec_
    let x := fireCtx s f 1
    ∃ l, gatherLanes x e m b w v imm n j₀ = (l, none) ∧ l.length = n ∧ ∀ j < n, ∃ y, l[j]? = some y ∧
      LaneAt x e m b (j₀ + j) (memAddr x.region x.key b m.spaces ((lane w v (j₀ + j)).toInt * recStride1 b + imm) m.size) y := by
  dsimp only
  induction n generalizing j₀ with
  | zero => exact ⟨[], rfl, rfl, fun j hj => absurd hj (Nat.not_lt_zero j)⟩
  | succ n ih =>
    obtain ⟨l, hl, hlen, hlanes⟩ := ih (j₀ + 1) fun j hj => by
      rw [Nat.add_assoc, Nat.add_comm 1]
      exact hp (j + 1) (by omega)
    have hfirst : ∃ y, gatherLanes (fireCtx s f 1) e m (recAt s m.rec_) w v imm (n + 1) j₀ = (y :: l, none) ∧
        LaneAt (fireCtx s f 1) e m (recAt s m.rec_) j₀ (memAddr (fireCtx s f 1).region (fireCtx s f 1).key (recAt s m.rec_) m.spaces
          ((lane w v j₀).toInt * recStride1 (recAt s m.rec_) + imm) m.size) y := by
      rw [gatherLanes, laneOffset_eq hw, hl]
      obtain hgo | ⟨a, hgo, hseal⟩ := (hp 0 (by omega)).cases (f := f)
      · rw [Nat.add_zero] at hgo
        rw [hgo]
        exact ⟨_, rfl, laneAt_skipped ..⟩
      · rw [Nat.add_zero] at hgo
        rw [hgo]
        dsimp only
        rw [sealCheck_eq_false hseals hseal]
        exact ⟨_, rfl, laneAt_newLane ..⟩
    obtain ⟨y, hy, hlane⟩ := hfirst
    refine ⟨_, hy, congrArg (· + 1) hlen, fun j hj => ?_⟩
    cases j with
    | zero => exact ⟨y, rfl, hlane⟩
    | succ j =>
      obtain ⟨z, hz, hzlane⟩ := hlanes j (by omega)
      rw [Nat.add_assoc, Nat.add_comm 1] at hzlane
      exact ⟨z, hz, hzlane⟩

/-- A beat whose lanes all pass leaves its access outstanding. -/
theorem gatherBeat_of_passes {s : State} {f : Form} {m : MemOp} {e : Elem} {k w : Nat} (hw : 0 < w) (hlanes : 0 < 128 / w) {imm : Int}
    {o : BeatOps} (held : List Vec) (data : BeatOps → Vec) (hrecs : e.recs = (elem s).recs) (hseals : e.seals = (elem s).seals)
    (hp : ∀ j < 128 / w, Passes s m ((lane w o.a j).toInt * recStride1 (recAt s m.rec_) + imm)) :
    let r := gatherBeat (fireCtx s f 1) e m w k imm o (data o)
    r.trap = none ∧ laneEffects m w imm data (fireCtx s f 1) e k o held r ∧ OnlyAccs e r.elem := by
  have hrec : tget e.recs m.rec_ 0 = recAt s m.rec_ := by rw [hrecs]; rfl
  obtain ⟨l, hl, hlen, hat⟩ := gatherLanes_of_passes (f := f) (m := m) (imm := imm) (v := o.a) hw hseals (128 / w) 0
    (by simpa only [Nat.zero_add] using hp)
  simp only [Nat.zero_add] at hat
  have hne : l ≠ [] := List.ne_nil_of_length_pos (hlen ▸ hlanes)
  have hres : gatherBeat (fireCtx s f 1) e m w k imm o (data o) =
      ⟨issue e (newAccess (fireCtx s f 1) e m k o (recAt s m.rec_) (data o) l), 0, 0, [], none⟩ := by
    unfold gatherBeat
    dsimp only
    rw [hrec, hl]
    simp [hne]
  have hissues := issues_issue (x := fireCtx s f 1) (e := e) (m := m) (k := k) (o := o) (b := recAt s m.rec_) (data := data o) rfl
    (p := fun l => l.length = 128 / w ∧ ∀ j < 128 / w, ∃ y, l[j]? = some y ∧ LaneAt (fireCtx s f 1) e m (recAt s m.rec_) j
      (memAddr (fireCtx s f 1).region (fireCtx s f 1).key (recAt s m.rec_) m.spaces
        ((lane w o.a j).toInt * recStride1 (recAt s m.rec_) + imm) m.size) y) ⟨hlen, hat⟩
  dsimp only
  rw [hres]
  unfold laneEffects
  dsimp only
  rw [hrec]
  exact ⟨rfl, ⟨rfl, rfl, hissues⟩, hissues.onlyAccs⟩

end Sys2Proof.Claims
end
section
/-!
# Memory instructions of an element (R202, R204, R205, R217 to R220, R223)
-/
namespace Sys2Proof.Claims
open Sys2Proof.Machine

/-! ## Where an offset leads (R202) -/

/-- The base of a record as the address is formed from it. -/
theorem baseOf_eq (b : BitVec 256) : (if recSpace b = 0 then recBase b else recBase b % 2 ^ 16) = baseOf b := by
  unfold baseOf recBase
  split
  next => rfl
  next => rw [BitVec.extractLsb'_toNat, BitVec.extractLsb'_toNat, Nat.mod_mod_of_dvd _ (Nat.pow_dvd_pow 2 (by decide : 16 ≤ 57))]

/-- MemAddr by its cases: a space that the instruction does not admit, an offset outside the extent, one inside it. -/
theorem memAddr_eq (x : Region) (key : Nat) (b : BitVec 256) (spaces : List Nat) (o : Int) (size : Nat) : memAddr x key b spaces o size =
    if recSpace b ∉ spaces then .trap 2 0
    else if o < 0 ∨ ((b.extractLsb' 64 40).toNat : Int) < o + size then
      if recBounds b = 0 then .trap 5 (wrap 64 (baseOf b + o))
      else if recBounds b = 2 ∨ (b.extractLsb' 64 40).toNat < size then .skip
      else placed x key b size (baseOf b + (if o < 0 then 0 else (b.extractLsb' 64 40).toNat - size))
    else placed x key b size (baseOf b + o.toNat) := by
  unfold memAddr recExtent
  dsimp only
  rw [placed_eq, placed_eq, ← baseOf_eq]
  by_cases hs : recSpace b ∈ spaces <;> simp [hs]

/-- Clamping takes an offset outside the extent to the nearer end of what fits (R202). -/
theorem clamp_eq {o : Int} {ext size : Nat} (hout : o < 0 ∨ (ext : Int) < o + size) (hfits : (size : Int) ≤ ext) :
    (if o < 0 then 0 else ext - size) = (max 0 (min o (ext - size))).toNat := by
  split <;> omega

/-! ## The instructions -/

/-- A memory instruction whose beats keep what they read completes. -/
theorem completes_fireMem {i : Instr} {m : MemOp} {f : Form} {exe : Exe} {eff : Effects} {s : State} {P : Nat → Elem → Prop}
    (hi : exec i s = fireMem i m exe s) (hf : i.form = some f) (hg : OnGrid s) (hr : Ready s f (fieldCtx s f))
    (hm : MemFree (elem s) m f.hdr.beats.count) (hkeeps : KeepsBeats s f 1 exe eff P) (hfirst : P 0 (paid s f)) :
    Completes i f eff s :=
  ⟨_, hi.trans (fireMem_eq hf m exe s), hkeeps.fireForm_completes hfirst hg hr hm.memReady_eq noCarry f.hdr.ty.width_pos⟩

/-- What the encoding tables and the model say of an instruction with one address per beat. -/
theorem form_of_memForms {h : Hdr} {d a : Opnd} {off : BitVec 6} {rc : BitVec 3} {ch : BitVec 2} {sc : Scope} {pol : Policy}
    {p : Instr × MemOp × Nat × Bool} (hp : p ∈ memForms h d a off rc ch sc pol) {f : Form} (hf : p.1.form = some f) (s : State) :
    f.result = false ∧ f.a = .src a ∧ p.2.1.rec_ = rc.toNat ∧
      exec p.1 s = fireMem p.1 p.2.1 (fun x e k o _ => memBeat x e p.2.1 k p.2.2.1 (16 * off.toInt) o (dataOf p.2.2.2 o)) s := by
  simp only [memForms, List.mem_cons, List.not_mem_nil, or_false] at hp
  rcases hp with rfl | rfl | rfl | rfl | rfl | rfl | rfl | rfl <;> cases hf <;> exact ⟨rfl, rfl, rfl, rfl⟩

/-- The same of an instruction with one address per lane. -/
theorem form_of_gatherForms {h : Hdr} {d a : Opnd} {off : BitVec 6} {rc : BitVec 3} {ch : BitVec 2} {sc : Scope} {pol : Policy}
    {p : Instr × MemOp × Bool} (hp : p ∈ gatherForms h d a off rc ch sc pol) {f : Form} (hf : p.1.form = some f) (s : State) :
    f.result = false ∧ f.a = .src a ∧ p.2.1.rec_ = rc.toNat ∧
      exec p.1 s = fireMem p.1 p.2.1 (fun x e k o _ => gatherBeat x e p.2.1 h.ty.width k (16 * off.toInt) o (dataOf p.2.2 o)) s := by
  simp only [gatherForms, List.mem_cons, List.not_mem_nil, or_false] at hp
  rcases hp with rfl | rfl <;> cases hf <;> exact ⟨rfl, rfl, rfl, rfl⟩

theorem lanes_pos (t : LaneTy) : 0 < 128 / t.width := by cases t <;> decide

theorem exec_atom_eq (h : Hdr) (d a : Opnd) (op : BitVec 4) (size : BitVec 2) (rc : BitVec 3) (ch : BitVec 2)
    (sc : Scope) (s : State) : exec (.atom h d a op size rc ch sc) s = fireMem (.atom h d a op size rc ch sc) (atomOp d op size rc ch sc)
      (fun x e k o _ => atomIssue x (memBeat x e (atomOp d op size rc ch sc) k 0 0 o o.d)) s := by
  have hbytes : atomBytes size.toNat = if size = 0 then 4 else 8 := by
    unfold atomBytes
    simp only [← BitVec.toNat_inj, BitVec.ofNat_eq_ofNat, BitVec.toNat_ofNat, Nat.zero_mod]
  change execAtom h d a op size rc ch sc s = _
  rw [execAtom, hbytes]
  rfl

/-- A beat of ATOM whose address passes leaves its access outstanding, and its line leaves the L1 where the L1 TLB gives it (R207). -/
theorem atomIssue_of_passes {s : State} {f : Form} {m : MemOp} {e : Elem} {k : Nat} {o : BeatOps} (held : List Vec)
    (hload : takesLoad m.kind = true) (hrecs : e.recs = (elem s).recs) (hseals : e.seals = (elem s).seals)
    (hp : Passes s m (recOffset (recAt s m.rec_) o.a 0 k 0)) :
    let r := atomIssue (fireCtx s f 1) (memBeat (fireCtx s f 1) e m k 0 0 o o.d)
    r.trap = none ∧ atomEffects m (fireCtx s f 1) e k o held r ∧ OnlyAccs e r.elem := by
  have hrec : tget e.recs m.rec_ 0 = recAt s m.rec_ := by rw [hrecs]; rfl
  obtain ⟨htrap, heff, honly⟩ := memBeat_of_passes (f := f) held (fun o => o.d) hrecs hseals hp
  have hissued := heff
  unfold memEffects at hissued
  dsimp only at hissued htrap heff honly ⊢
  rw [hload, hrec] at hissued
  obtain ⟨-, -, hissues⟩ := hissued
  rw [if_neg (by simp)] at hissues
  obtain ⟨⟨a, hout, ⟨y, hy, hlane⟩, haccs⟩, -⟩ := hissues
  unfold atomEffects
  dsimp only
  generalize hr' : memBeat (fireCtx s f 1) e m k 0 0 o o.d = r' at *
  have htlb : ∀ ad, l1Xlat (fireCtx s f 1) r'.elem ad = l1Xlat (fireCtx s f 1) e ad := fun ad => by
    have h := (congrArg Elem.tlb honly :)
    unfold l1Xlat
    rw [show r'.elem.tlb = e.tlb from h]
  have hissue : atomIssue (fireCtx s f 1) r' = if recSpace (recAt s m.rec_) = 0 ∧ !y.skip then
      (match l1Xlat (fireCtx s f 1) e y.addr with
        | some t => { r' with elem := lineBarred ((t.pa + (y.addr - t.va)) / 64) r'.elem }
        | none => r') else r' := by
    unfold atomIssue
    rw [haccs, List.getLast?_concat]
    dsimp only
    rw [hy]
    dsimp only
    rw [hout.place.1, htlb]
    simp only [htrap, and_true]
    rfl
  have hsame : atomIssue (fireCtx s f 1) r' =
      (match memAddr (fireCtx s f 1).region (fireCtx s f 1).key (recAt s m.rec_) m.spaces (recOffset (recAt s m.rec_) o.a 0 k 0) m.size with
      | .at_ a => if recSpace (recAt s m.rec_) = 0 then
          match l1Xlat (fireCtx s f 1) e a with | some t => { r' with elem := lineBarred ((t.pa + (a - t.va)) / 64) r'.elem } | none => r'
        else r'
      | _ => r') := by
    obtain ⟨-, -, hat⟩ := hlane
    rw [hissue]
    obtain hgo | ⟨ad, hgo, -⟩ := hp.cases (f := f)
    · rw [hgo] at hat ⊢
      simp [hat.1]
    · rw [hgo] at hat ⊢
      obtain ⟨haddr, hskip, -⟩ := hat
      simp [haddr, hskip]
  refine ⟨?_, ⟨r', heff, by rw [hrec]; exact hsame⟩, ?_⟩
  all_goals rw [hissue]; split
  · split <;> exact htrap
  · exact htrap
  · split
    · exact (congrArg (fun e' : Elem => { e' with l1 := e.l1 }) honly :)
    · exact honly
  · exact honly

/-- Settles O22: each instruction fires Execute on operands, records and seals that its beats keep. -/
theorem elementMemory : Obligations.ElementMemory := by
  unfold Obligations.ElementMemory
  refine ⟨⟨fun b a imm k u => recOffset_eq b a imm k u, fun x key b spaces o size hsize => ?goes⟩,
    fun h d a off rc ch sc pol s p hp f hf hg hr hm hpass => ?one,
    fun h d a off rc ch sc pol s p hp f hf hg hr hm hpass => ?lanes,
    fun h d a op size rc ch sc s f hf hsize hg hr hm hpass => ?atom⟩
  case goes =>
    dsimp only
    rw [memAddr_eq]
    refine ⟨fun hs => if_pos hs, fun hs hlo hhi => ?_, fun hs hout hb => ?_, fun hs hout hb hskip => ?_, fun hs hout hb hb2 hfits => ?_⟩
    · rw [if_neg (not_not.2 hs), if_neg (by omega)]
    · rw [if_neg (not_not.2 hs), if_pos hout, if_pos hb]
      exact ⟨_, rfl⟩
    · rw [if_neg (not_not.2 hs), if_pos hout, if_neg hb, if_pos (hskip.imp_right Int.ofNat_lt.1)]
    · rw [if_neg (not_not.2 hs), if_pos hout, if_neg hb, if_neg (by omega), clamp_eq hout hfits]
  case one =>
    obtain ⟨hresult, ha, hrec, hexec⟩ := form_of_memForms hp hf s
    refine completes_fireMem hexec hf hg hr hm (keepsBeats_of_onlyAccs hresult ha fun k hk e o held hrecs hseals hoa =>
      memBeat_of_passes held _ hrecs hseals ?_) (beforeBeat_paid s f)
    rw [hoa, hrec]
    exact hpass k hk
  case lanes =>
    obtain ⟨hresult, ha, hrec, hexec⟩ := form_of_gatherForms hp hf s
    refine completes_fireMem hexec hf hg hr hm (keepsBeats_of_onlyAccs hresult ha fun k hk e o held hrecs hseals hoa =>
      gatherBeat_of_passes h.ty.width_pos (lanes_pos h.ty) held _ hrecs hseals fun j hj => ?_) (beforeBeat_paid s f)
    rw [hoa, hrec]
    exact hpass k hk j hj
  case atom =>
    cases hf
    refine completes_fireMem (exec_atom_eq h d a op size rc ch sc s) rfl hg hr hm (keepsBeats_of_onlyAccs rfl rfl
      fun k hk e o held hrecs hseals hoa => atomIssue_of_passes held rfl hrecs hseals ?_) (beforeBeat_paid s _)
    rw [hoa]
    exact hpass k hk

end Sys2Proof.Claims
end
section
/-!
# Memory instructions of one beat (R208, R221, R222, R224, R225, R355, R396)
-/
namespace Sys2Proof.Claims
open Sys2Proof.Machine

/-! ## Firings of one beat -/

/-- The element in the first beat of a firing: it has paid, and perhaps its L1 was invalidated (R112, R346). -/
def firstElem (s : State) (f : Form) : Elem := acquireOps (paid s f) f 0

theorem firstElem_eq (s : State) (f : Form) : ∃ c : Bool, firstElem s f = if c then invalL1 (paid s f) else paid s f := by
  obtain ⟨c, h⟩ := acquireOps_cases (paid s f) f 0
  exact ⟨c, h _ rfl⟩

theorem recs_firstElem (s : State) (f : Form) : (firstElem s f).recs = (elem s).recs := by
  obtain ⟨c, h⟩ := firstElem_eq s f
  rw [h]
  cases c <;> rfl

theorem seals_firstElem (s : State) (f : Form) : (firstElem s f).seals = (elem s).seals := by
  obtain ⟨c, h⟩ := firstElem_eq s f
  rw [h]
  cases c <;> rfl

theorem rec_firstElem (s : State) (f : Form) (n : Nat) : tget (firstElem s f).recs n 0 = recAt s n := by
  rw [recs_firstElem]
  rfl

theorem nextAcc_firstElem (s : State) (f : Form) : (firstElem s f).nextAcc = (elem s).nextAcc := by
  obtain ⟨c, h⟩ := firstElem_eq s f
  rw [h]
  cases c <;> rfl

/-- Paying and acquiring leave what a fence waits for. -/
theorem performedNow_firstElem (s : State) (f : Form) (r scope : Nat) :
    performedNow s (firstElem s f) r scope = performedNow s (elem s) r scope := by
  obtain ⟨c, h⟩ := firstElem_eq s f
  rw [h]
  cases c with
  | false => rfl
  | true =>
    unfold performedNow
    exact congrArg (· && _) (List.all_map ..)

section
variable {i : Instr} {m : MemOp} {f : Form} {exe : Exe} {s : State} (hi : exec i s = fireMem i m exe s) (hf : i.form = some f)
  (h1 : f.hdr.beats.count = 1) (hchan : f.chan = none) (hg : OnGrid s) (hr : Ready s f 0) (hm : MemFree (elem s) m 1)

include hi hf h1 hchan hg hr hm

/-- A memory instruction of one beat that does not trap. -/
theorem completes_one {eff : Effects} (h : ∀ held, let r := exe (fireCtx s f 1) (firstElem s f) 0 (firstOps s f) held
    r.trap = none ∧ eff (fireCtx s f 1) (firstElem s f) 0 (firstOps s f) held r) : Completes i f eff s := by
  have hctx : fieldCtx s f = 0 := by rw [fieldCtx, hchan]
  rw [← h1] at hm
  exact ⟨_, hi.trans (fireMem_eq hf m exe s),
    fireForm_completes_one hg (hctx ▸ hr) hm.memReady_eq noCarry f.hdr.ty.width_pos h1 h⟩

/-- A memory instruction of one beat that changes its element without a trap. -/
theorem completes_change {g : Ctx → Elem → Nat → BeatOps → Elem → Prop} {e' : Elem}
    (h : ∀ held, exe (fireCtx s f 1) (firstElem s f) 0 (firstOps s f) held = ⟨e', 0, 0, [], none⟩)
    (hchange : g (fireCtx s f 1) (firstElem s f) 0 (firstOps s f) e') : Completes i f (change g) s :=
  completes_one hi hf h1 hchan hg hr hm fun held => by
    rw [h held]
    exact ⟨rfl, hchange, rfl, rfl⟩

/-- A memory instruction of one beat that traps. -/
theorem traps_one {c : BitVec 8} {ad : Nat} (had : ad < 2 ^ 64)
    (h : exe (fireCtx s f 1) (firstElem s f) 0 (firstOps s f) [] = ⟨firstElem s f, 0, 0, [], some ⟨c, 0, ad⟩⟩) :
    ∃ t, exec i s = .next t ∧ ElemTraps f c 0 (BitVec.ofNat 64 ad) (firstOps s f).a (firstOps s f).b (firstOps s f).c
      (acquireOps (elem s) f 0) s t := by
  have hctx : fieldCtx s f = 0 := by rw [fieldCtx, hchan]
  rw [← h1] at hm
  exact ⟨_, hi.trans (fireMem_eq hf m exe s), elemTraps_fireForm hg (hctx ▸ hr) hm.memReady_eq h (Nat.two_pow_pos 11) had _ _ _⟩

end

theorem count_x1 {b : Beats} (h : b = .x1) : b.count = 1 := by rw [h]; rfl

/-! ## ARRIVE (R225) -/

def arriveOp (rc : BitVec 3) (ch : BitVec 2) (sc : Scope) : MemOp :=
  ⟨.arrive, rc.toNat, some (ch.toNat, true), sc, .dflt, [1, 2], 16, .none⟩

/-- An update that has to wait takes its place at the port (R215). -/
def takesPlace (e : Elem) (key ad : Nat) (r : BeatRes) : BeatRes :=
  { r with elem := { r.elem with held := r.elem.held ++ [⟨ad, .acc key e.nextAcc⟩] } }

/-- The update of ARRIVE in its firing beat. -/
def arriveUpdate (s : State) (x : Ctx) (e : Elem) (ad : Nat) (r : BeatRes) : BeatRes :=
  if updAhead s x.key ad (.acc x.key e.nextAcc) then takesPlace e x.key ad r
  else match barrierUpdate e ad 1 0 with
    | .refused => ⟨e, 0, 0, [], some ⟨5, 0, ad⟩⟩
    | .applied e' => ⟨{ e' with portBusy := Nat.max e'.portBusy (x.cycle + 1) }, 0, 0, [], none⟩
    | .waits => takesPlace e x.key ad r

/-- Execute of ARRIVE: the update happens in the firing beat where the barrier is the element's own and nothing is waited for. -/
def arriveBeat (s : State) (m : MemOp) (sc : Scope) (imm : Int) : Exe := fun x e k o _ =>
  let r := memBeat x e m k 0 imm o 0
  let b := tget e.recs m.rec_ 0
  match r.trap, memAddr x.region x.key b m.spaces (recOffset b o.a imm k 0) 16 with
  | none, .at_ ad => if recSpace b = 1 && performedNow s e (keyRegion x.key) sc.code.toNat then arriveUpdate s x e ad r else r
  | _, _ => r

theorem exec_arrive_eq (h : Hdr) (a : Opnd) (off : BitVec 6) (rc : BitVec 3) (ch : BitVec 2) (sc : Scope) (s : State) :
    exec (.arrive h a off rc ch sc) s =
      fireMem (.arrive h a off rc ch sc) (arriveOp rc ch sc) (arriveBeat s (arriveOp rc ch sc) sc (16 * off.toInt)) s := rfl

/-- Without an update in the firing beat the arrival stays outstanding. -/
theorem arriveBeat_outstanding {s : State} {m : MemOp} {sc : Scope} {imm : Int} {x : Ctx} {e : Elem} {k : Nat} {o : BeatOps}
    (held : List Vec) (h : recSpace (tget e.recs m.rec_ 0) ≠ 1 ∨
      memAddr x.region x.key (tget e.recs m.rec_ 0) m.spaces (recOffset (tget e.recs m.rec_ 0) o.a imm k 0) 16 = .skip ∨
      performedNow s e (keyRegion x.key) sc.code.toNat = false) :
    arriveBeat s m sc imm x e k o held = memBeat x e m k 0 imm o 0 := by
  unfold arriveBeat
  dsimp only
  split
  next ad _ hat =>
    refine if_neg fun hown => ?_
    obtain ⟨hspace, hperf⟩ := Bool.and_eq_true_iff.1 hown
    rcases h with h | h | h
    · exact h (of_decide_eq_true hspace)
    · rw [hat] at h; cases h
    · rw [h] at hperf; cases hperf
  next => rfl

theorem arriveBeat_update {s : State} {m : MemOp} {sc : Scope} {imm : Int} {x : Ctx} {e : Elem} {k ad : Nat} {o : BeatOps}
    (held : List Vec) (htrap : (memBeat x e m k 0 imm o 0).trap = none) (hspace : recSpace (tget e.recs m.rec_ 0) = 1)
    (hat : memAddr x.region x.key (tget e.recs m.rec_ 0) m.spaces (recOffset (tget e.recs m.rec_ 0) o.a imm k 0) 16 = .at_ ad)
    (hperf : performedNow s e (keyRegion x.key) sc.code.toNat = true) :
    arriveBeat s m sc imm x e k o held = arriveUpdate s x e ad (memBeat x e m k 0 imm o 0) := by
  unfold arriveBeat
  dsimp only
  rw [htrap, hat]
  dsimp only
  rw [hperf, hspace]
  rfl

/-- An update looks at the scratchpad, the notify queue and the waiter of its element, and changes nothing else. -/
theorem barrierUpdate_congr {e₁ e : Elem} (hspad : e₁.spad = e.spad) (hnotify : e₁.notify = e.notify) (hwaiter : e₁.waiter = e.waiter)
    (off darr dsec : Nat) : barrierUpdate e₁ off darr dsec =
      match barrierUpdate e off darr dsec with
      | .refused => .refused
      | .waits => .waits
      | .applied e' => .applied { e₁ with spad := e'.spad, notify := e'.notify, waiter := e'.waiter } := by
  have hbar : barrierAt e₁ off = barrierAt e off := by unfold barrierAt; rw [hspad]
  by_cases hless : barArr (barrierAt e off) < darr ∨ barSec (barrierAt e off) < dsec
  · have hless₁ : barArr (barrierAt e₁ off) < darr ∨ barSec (barrierAt e₁ off) < dsec := by rwa [hbar]
    rw [barrierUpdate_refused hless, barrierUpdate_refused hless₁]
  · have hless₁ : ¬ (barArr (barrierAt e₁ off) < darr ∨ barSec (barrierAt e₁ off) < dsec) := by rwa [hbar]
    rw [barrierUpdate_accepted hless, barrierUpdate_accepted hless₁, hbar]
    unfold afterUpdate
    dsimp only
    rw [hspad, hnotify, hwaiter]
    cases (barAfter (barrierAt e off) darr dsec).2 && barNen (barrierAt e off) with
    | false => rfl
    | true => cases decide (8 ≤ e.notify.length) <;> rfl

/-- The update of ARRIVE in its firing beat, from what it comes to in the element before. -/
theorem arriveUpdate_firstElem (s : State) (f : Form) (ad : Nat) (r : BeatRes) : arriveUpdate s (fireCtx s f 1) (firstElem s f) ad r =
    if updAhead s (focusKey s) ad (.acc (focusKey s) (elem s).nextAcc) then takesPlace (firstElem s f) (focusKey s) ad r
    else match barrierUpdate (elem s) ad 1 0 with
      | .refused => ⟨firstElem s f, 0, 0, [], some ⟨5, 0, ad⟩⟩
      | .applied e' => ⟨{ firstElem s f with
          spad := e'.spad, notify := e'.notify, waiter := e'.waiter, portBusy := max (firstElem s f).portBusy (nowAt s + 1) }, 0, 0, [], none⟩
      | .waits => takesPlace (firstElem s f) (focusKey s) ad r := by
  have hupdate : barrierUpdate (firstElem s f) ad 1 0 = _ := barrierUpdate_congr (e := elem s) (by
    obtain ⟨c, h⟩ := firstElem_eq s f
    rw [h]
    cases c <;> rfl) (by
    obtain ⟨c, h⟩ := firstElem_eq s f
    rw [h]
    cases c <;> rfl) (by
    obtain ⟨c, h⟩ := firstElem_eq s f
    rw [h]
    cases c <;> rfl) ad 1 0
  rw [arriveUpdate, nextAcc_firstElem, hupdate]
  cases barrierUpdate (elem s) ad 1 0 <;> rfl

section
variable {h : Hdr} {a : Opnd} {off : BitVec 6} {rc : BitVec 3} {ch : BitVec 2} {sc : Scope} {s : State} {f : Form}
  (hf : (Instr.arrive h a off rc ch sc).form = some f) (hx1 : h.beats = .x1) (hg : OnGrid s) (hr : Ready s f 0)
  (hm : MemFree (elem s) (arriveOp rc ch sc) 1)
  (hp : Passes s (arriveOp rc ch sc) (recOffset (recAt s rc.toNat) (opndAt s 0 a) (16 * off.toInt) 0 0))

include hf hx1 in
theorem form_arrive : f.hdr.beats.count = 1 ∧ f.chan = none ∧ (firstOps s f).a = opndAt s 0 a := by
  cases hf
  exact ⟨count_x1 hx1, rfl, opndAt_firstOps rfl⟩

include hf hx1 hp in
/-- The access that ARRIVE leaves outstanding where it does not end in its firing beat. -/
theorem memBeat_arrive (held : List Vec) : let r := memBeat (fireCtx s f 1) (firstElem s f) (arriveOp rc ch sc) 0 0 (16 * off.toInt) (firstOps s f) 0
    r.trap = none ∧ memEffects (arriveOp rc ch sc) (16 * off.toInt) 0 (fun _ => 0) (fireCtx s f 1) (firstElem s f) 0 (firstOps s f) held r ∧
      OnlyAccs (firstElem s f) r.elem := by
  obtain ⟨-, -, hoff⟩ := form_arrive (s := s) hf hx1
  rw [← hoff] at hp
  exact memBeat_of_passes (m := arriveOp rc ch sc) held (fun _ => 0) (recs_firstElem s f) (seals_firstElem s f) hp

include hf hx1 hg hr hm hp

theorem completes_arrive_outstanding (hout : recSpace (recAt s rc.toNat) ≠ 1 ∨
      memAddr (getR s (here s)) (focusKey s) (recAt s rc.toNat) [1, 2]
        (recOffset (recAt s rc.toNat) (opndAt s 0 a) (16 * off.toInt) 0 0) 16 = .skip ∨
      performedNow s (elem s) (here s) sc.code.toNat = false) :
    Completes (.arrive h a off rc ch sc) f (memEffects (arriveOp rc ch sc) (16 * off.toInt) 0 (fun _ => 0)) s := by
  obtain ⟨h1, hchan, hoff⟩ := form_arrive (s := s) hf hx1
  refine completes_one (exec_arrive_eq h a off rc ch sc s) hf h1 hchan hg hr hm fun held => ?_
  obtain ⟨htrap, heff, -⟩ := memBeat_arrive hf hx1 hp held
  rw [arriveBeat_outstanding held]
  · exact ⟨htrap, heff⟩
  · change recSpace (tget (firstElem s f).recs rc.toNat 0) ≠ 1 ∨ memAddr (getR s (here s)) (focusKey s) (tget (firstElem s f).recs rc.toNat 0) [1, 2]
      (recOffset (tget (firstElem s f).recs rc.toNat 0) (firstOps s f).a _ 0 0) 16 = .skip ∨
      performedNow s (firstElem s f) (keyRegion (focusKey s)) _ = false
    rw [rec_firstElem, performedNow_firstElem, hg.keyRegion_focusKey, hoff]
    exact hout

variable {ad : Nat} (hat : memAddr (getR s (here s)) (focusKey s) (recAt s rc.toNat) [1, 2]
    (recOffset (recAt s rc.toNat) (opndAt s 0 a) (16 * off.toInt) 0 0) 16 = .at_ ad)
  (hspace : recSpace (recAt s rc.toNat) = 1) (hperf : performedNow s (elem s) (here s) sc.code.toNat = true)
include hat hspace hperf

omit hr hm in
/-- Execute of an ARRIVE at a barrier of its own element. -/
theorem arriveBeat_own (held : List Vec) : arriveBeat s (arriveOp rc ch sc) sc (16 * off.toInt) (fireCtx s f 1) (firstElem s f) 0 (firstOps s f) held =
    arriveUpdate s (fireCtx s f 1) (firstElem s f) ad
      (memBeat (fireCtx s f 1) (firstElem s f) (arriveOp rc ch sc) 0 0 (16 * off.toInt) (firstOps s f) 0) := by
  obtain ⟨-, -, hoff⟩ := form_arrive (s := s) hf hx1
  obtain ⟨htrap, -, -⟩ := memBeat_arrive hf hx1 hp held
  refine arriveBeat_update held htrap ?_ ?_ ?_
  · exact (congrArg recSpace (rec_firstElem s f rc.toNat)).trans hspace
  · change memAddr (getR s (here s)) (focusKey s) (tget (firstElem s f).recs rc.toNat 0) [1, 2]
      (recOffset (tget (firstElem s f).recs rc.toNat 0) (firstOps s f).a _ 0 0) 16 = _
    rw [rec_firstElem, hoff]
    exact hat
  · change performedNow s (firstElem s f) (keyRegion (focusKey s)) _ = _
    rw [performedNow_firstElem, hg.keyRegion_focusKey]
    exact hperf

theorem completes_arrive_applied {e' : Elem} (hfirst : updAhead s (focusKey s) ad (.acc (focusKey s) (elem s).nextAcc) = false)
    (hupdate : barrierUpdate (elem s) ad 1 0 = .applied e') :
    Completes (.arrive h a off rc ch sc) f (change fun x e _ _ e1 =>
      e1 = { e with spad := e'.spad, notify := e'.notify, waiter := e'.waiter, portBusy := max e.portBusy (x.cycle + 1) }) s := by
  obtain ⟨h1, hchan, -⟩ := form_arrive (s := s) hf hx1
  refine completes_change (exec_arrive_eq h a off rc ch sc s) hf h1 hchan hg hr hm (fun held => ?_) rfl
  rw [arriveBeat_own hf hx1 hg hp hat hspace hperf, arriveUpdate_firstElem, hfirst, hupdate]
  rfl

theorem completes_arrive_waits (hwaits : updAhead s (focusKey s) ad (.acc (focusKey s) (elem s).nextAcc) = true ∨
      barrierUpdate (elem s) ad 1 0 = .waits) :
    Completes (.arrive h a off rc ch sc) f (fun x e k o held r =>
      ∃ r', memEffects (arriveOp rc ch sc) (16 * off.toInt) 0 (fun _ => 0) x e k o held r' ∧
        r = { r' with elem := { r'.elem with held := e.held ++ [⟨ad, .acc x.key e.nextAcc⟩] } }) s := by
  obtain ⟨h1, hchan, -⟩ := form_arrive (s := s) hf hx1
  refine completes_one (exec_arrive_eq h a off rc ch sc s) hf h1 hchan hg hr hm fun held => ?_
  obtain ⟨htrap, heff, honly⟩ := memBeat_arrive hf hx1 hp held
  have hplace : ∀ r, arriveUpdate s (fireCtx s f 1) (firstElem s f) ad r = takesPlace (firstElem s f) (focusKey s) ad r := fun r => by
    rw [arriveUpdate_firstElem]
    rcases hwaits with hahead | hwaits
    · exact if_pos hahead
    · rw [hwaits]
      exact ite_self _
  have hheld := (congrArg Elem.held honly :)
  dsimp only at hheld
  rw [arriveBeat_own hf hx1 hg hp hat hspace hperf, hplace]
  exact ⟨htrap, _, heff, by rw [takesPlace, hheld]; rfl⟩

theorem traps_arrive (hfirst : updAhead s (focusKey s) ad (.acc (focusKey s) (elem s).nextAcc) = false)
    (hupdate : barrierUpdate (elem s) ad 1 0 = .refused) : ∃ t, exec (.arrive h a off rc ch sc) s = .next t ∧
      ElemTraps f 5 0 (BitVec.ofNat 64 ad) (firstOps s f).a (firstOps s f).b (firstOps s f).c (acquireOps (elem s) f 0) s t := by
  obtain ⟨h1, hchan, -⟩ := form_arrive (s := s) hf hx1
  refine traps_one (exec_arrive_eq h a off rc ch sc s) hf h1 hchan hg hr hm (show Fits (.at_ ad) from hat ▸ fits_memAddr ..) ?_
  rw [arriveBeat_own hf hx1 hg hp hat hspace hperf, arriveUpdate_firstElem, hfirst, hupdate]
  rfl

end

/-! ## PREF, SEAL and BREC -/

/-- The rounded range of a record in space 1 (R221). -/
theorem sealRange_eq {b : BitVec 256} (h : recSpace b = 1) :
    sealRange b = (baseOf b / 16 * 16, (baseOf b + recExtent b + 15) / 16 * 16) ∧ recBase b % 2 ^ 16 = baseOf b := by
  have hbase : recBase b % 2 ^ 16 = baseOf b := by rw [← baseOf_eq, if_neg (by omega)]
  exact ⟨by rw [sealRange, hbase], hbase⟩

/-- Execute of RCLAIM. -/
def rclaimBeat (e : Elem) (n : Nat) : BeatRes :=
  if recSpace (tget e.recs n 0) ≠ 1 then ⟨e, 0, 0, [], some ⟨2, 0, 0⟩⟩
  else ⟨{ e with seals := tset e.seals n { tget e.seals n {} with sealed := false } }, 0, 0, [], none⟩

theorem rclaimBeat_firstElem {s : State} (f : Form) {n : Nat} (h : recSpace (recAt s n) = 1) : rclaimBeat (firstElem s f) n =
    ⟨{ firstElem s f with seals := tset (firstElem s f).seals n { tget (elem s).seals n {} with sealed := false } }, 0, 0, [], none⟩ := by
  rw [rclaimBeat, rec_firstElem, if_neg (not_not.2 h)]
  simp only [seals_firstElem]

/-- The operand D of the only beat. -/
theorem opndAt_firstOps_d {s : State} {f : Form} {d : Opnd} (h : f.d = .src d) : (firstOps s f).d = opndAt s 0 d := by
  have hread : (firstOps s f).d = (readOpnd (elem s) (fpSample s) 0 f.hdr.dq d).1 := by
    change (readField (elem s) (fpSample s) 0 f.hdr.dq f.d).1 = _
    rw [h]
    rfl
  rw [hread]
  cases d with
  | q j => cases f.hdr.dq <;> rfl
  | _ => rfl

end Sys2Proof.Claims
end

section
/-!
# Fences and TSYNC (R355, R396)
-/
namespace Sys2Proof.Claims
open Sys2Proof.Machine

/-- An instruction that sends nothing, traps in no beat and is fired with a condition of its own; what it does beyond its element comes
last. -/
theorem exec_fireWith_after {i : Instr} {f : Form} {s : State} {unit : Bool} {exe : Exe} (after : Firing → State → State)
    (hi : exec i s = fireWith i unit 0 exe after s) (hf : i.form = some f) (hg : OnGrid s) (hr : Ready s f 0) (hu : unit = true)
    (htrap : ∀ x e k o held, (exe x e k o held).trap = none) {eff : Effects}
    (heff : ∀ k < f.hdr.beats.count, ∀ e o held, eff (fireCtx s f 1) e k o held (exe (fireCtx s f 1) e k o held)) :
    ∃ y t, exec i s = .next (after y t) ∧ OnlyElem s t ∧ Ran f 1 f.hdr.ty.width (fun _ => false) eff s (getE t (focusKey s)) := by
  have hnotrap : NoTrap (fireCtx s f 1) exe f.hdr.beats.count := fun _ _ _ _ _ => htrap ..
  obtain ⟨honly, hran⟩ := fireForm_completes hg hr hu (fun _ => false) f.hdr.ty.width_pos hnotrap heff
  refine ⟨runBeats s (fireCtx s f 1) exe f.hdr.ty.width, _, hi.trans ?_, honly, hran⟩
  rw [fireWith, hf]
  exact congrArg Host.Outcome.next (fireForm_after hg hr hu hnotrap after)

/-- A fence fires where its condition holds, and what it no longer watches leaves. -/
theorem fence_done {i : Instr} {kind : Nat} {sc : Scope} {f : Form} {s : State} (hi : exec i s = fireFence i kind sc s)
    (hf : i.form = some f) (hg : OnGrid s) (hr : Ready s f 0)
    (hready : fenceReady s (focusKey s) kind sc.code.toNat = true) (g : Elem → Elem)
    (hgrel : ∀ e, g e = if kind ≠ 1 ∧ 1 ≤ sc.code.toNat then invalL1 e else e) :
    ∃ t, exec i s = .next t ∧ OnlyElem s t ∧ Ran f 1 f.hdr.ty.width (fun _ => false) (change fun _ e _ _ e' => e' = g e) s
      { getE t (focusKey s) with touched := (elem s).touched } := by
  obtain ⟨y, t, hexec, honly, hran⟩ := exec_fireWith_after (eff := change fun _ e _ _ e' => e' = g e) (fun _ t => pruneTouched (focusKey s) t)
    hi hf hg hr hready (fun _ _ _ _ _ => rfl) fun _ _ e _ _ => ⟨(hgrel e).symm, rfl, rfl⟩
  have htouched : (getE t (focusKey s)).touched = (elem s).touched := by
    obtain ⟨-, e', hkept, hlast⟩ := hran.invariant (fun _ e => e.touched = (elem s).touched) rfl
      fun k e o held r fl e' hP heff hbeat => by
        obtain ⟨hr, -, -⟩ := heff
        have hrest := (congrArg Elem.touched hbeat.rest :)
        obtain ⟨c, hc⟩ := acquireOps_cases e f k
        have hgt : ∀ e, (g e).touched = e.touched := fun e => by rw [hgrel]; split <;> rfl
        refine hrest.trans ?_
        rw [hr, hgt, hc e rfl, ← hP]
        cases c <;> rfl
    exact ((congrArg Elem.touched hlast :)).trans hkept
  refine ⟨_, hexec, ?_, ?_⟩
  · exact
      { region := honly.region
        fired := honly.fired
        regions := honly.regions
        elems := fun k hk => (getE_modE_other _ _ _ _ hk).trans (honly.elems k hk)
        mem := honly.mem
        device := honly.device }
  · rw [pruneTouched, getE_modE, ← htouched]
    exact hran

/-- What a fence waits for, by its kind. -/
theorem fenceReady_eq {s : State} (hg : OnGrid s) (hno : ∀ a ∈ (elem s).accs, a.kind ≠ .tsync) (kind scope : Nat) :
    fenceReady s (focusKey s) kind scope = ((kind == 2 || performedNow s (elem s) (here s) scope) &&
      (kind == 1 || (elem s).accs.all fun a => !a.live || !takesLoad a.kind)) := by
  have htsync : ((elem s).accs.all fun a => a.kind != .tsync) = true := List.all_eq_true.2 fun a ha => bne_iff_ne.2 (hno a ha)
  change (_ && _ && (elem s).accs.all fun a => a.kind != .tsync) = _
  rw [htsync, Bool.and_true, hg.keyRegion_focusKey]
  rfl

/-- Where every access is performed no load is in flight. -/
theorem noLoads_of_performedNow {s : State} {e : Elem} {r scope : Nat} (h : performedNow s e r scope = true) :
    (e.accs.all fun a => !a.live || !takesLoad a.kind) = true := by
  obtain ⟨hall, -⟩ := Bool.and_eq_true_iff.1 h
  exact List.all_eq_true.2 fun a ha => by rw [List.all_eq_true.1 hall a ha]; rfl

/-- A fence above the element's own scope invalidates the L1 (R355). -/
theorem one_le_code_iff (sc : Scope) : 1 ≤ sc.code.toNat ↔ sc ≠ .e := by cases sc <;> decide

end Sys2Proof.Claims
end

section
/-!
# The memory instructions of one beat settled
-/
namespace Sys2Proof.Claims
open Sys2Proof.Machine

/-- Settles O25: each instruction fires its Execute once, on the element that has paid; a fence prunes what it watches afterwards. -/
theorem elementLocalMemory : Obligations.ElementLocalMemory := by
  unfold Obligations.ElementLocalMemory
  refine ⟨fun h a off rc ch sc s f hf hx1 hg hr => ?arrive, fun h a off rc pol s f hf hx1 hg hr => ?pref,
    fun h rc ch s f hf hx1 hg hr => ?range, fun h rc ch s f hf hx1 hg hr => ?rclaim, fun h s f hf hg hr => ?invl1,
    fun h d a rc s f hf hx1 hg hr => ?brec, fun h sc s f hf hg hr hno => ?fence, fun h s f hf hx1 hg hr hidle hroom => ?tsync⟩
  case arrive =>
    dsimp only
    intro hm hp
    exact ⟨completes_arrive_outstanding hf hx1 hg hr hm hp, fun ad hat hspace hperf =>
      ⟨fun e' => completes_arrive_applied hf hx1 hg hr hm hp hat hspace hperf, completes_arrive_waits hf hx1 hg hr hm hp hat hspace hperf,
        traps_arrive hf hx1 hg hr hm hp hat hspace hperf⟩⟩
  case pref =>
    dsimp only
    intro hm
    obtain ⟨h1, hchan, hoff⟩ : f.hdr.beats.count = 1 ∧ f.chan = none ∧ (firstOps s f).a = opndAt s 0 a := by
      cases hf
      exact ⟨count_x1 hx1, rfl, opndAt_firstOps rfl⟩
    refine ⟨fun hnone => completes_change rfl hf h1 hchan hg hr hm (fun held => ?_) rfl, fun hspace hpol hlo hhi hbase => ?_⟩
    · dsimp only
      rw [rec_firstElem]
      exact if_pos hnone
    · have hexec : exec (.pref h a off rc pol) s = fireMem (.pref h a off rc pol) _ _ s := rfl
      refine completes_change (e' := issue (firstElem s f) (newAccess (fireCtx s f 1) (firstElem s f)
        ⟨.pref, rc.toNat, none, .die, pol, [0], 64, .none⟩ 0 (firstOps s f) (recAt s rc.toNat) 0
        [⟨0, (recBase (recAt s rc.toNat) + (recOffset (recAt s rc.toNat) (opndAt s 0 a) (16 * off.toInt) 0 0).toNat) / 64 * 64,
          false, none, true, none⟩])) hexec hf h1 hchan hg hr hm (fun held => ?_) (issues_issue rfl ⟨_, rfl, rfl, rfl⟩)
      dsimp only
      rw [rec_firstElem, hoff, show offBytes off = 16 * off.toInt from rfl]
      have hpass : ¬ (recSpace (recAt s rc.toNat) ≠ 0 ∨ pol = .cg ∨ pol = .noal) := by
        rcases hpol with rfl | rfl <;> simp [hspace]
      generalize recOffset (recAt s rc.toNat) (opndAt s 0 a) (16 * off.toInt) 0 0 = q at *
      have hin : decide (q < 0 ∨ (recExtent (recAt s rc.toNat) : Int) < q + 64) = false := decide_eq_false (by omega)
      rw [if_neg hpass, hin, Bool.false_and, if_neg Bool.false_ne_true, if_neg (by omega : ¬ q < 0), if_neg Bool.false_ne_true,
        if_neg (by omega)]
  case range =>
    dsimp only
    intro hm hspace
    obtain ⟨h1, hops⟩ : f.hdr.beats.count = 1 ∧ NoOperands f := by
      cases hf
      exact ⟨count_x1 hx1, rfl, rfl, rfl, rfl⟩
    obtain ⟨hrange, hbase⟩ := sealRange_eq hspace
    refine ⟨fun hopen => completes_change rfl hf h1 hops.chan_eq hg hr hm (fun held => ?_) rfl,
      fun hsealed hlo hhi => completes_change rfl hf h1 hops.chan_eq hg hr hm (fun held => ?_) rfl, fun hsealed hother => ?_⟩
    · rw [sealBeat, rec_firstElem, seals_firstElem, if_neg (not_not.2 hspace), hopen, hrange]
      rfl
    · rw [sealBeat, rec_firstElem, seals_firstElem, if_neg (not_not.2 hspace), hsealed, hrange, if_pos rfl]
      exact if_pos ⟨hlo, hhi⟩
    · have htrap := traps_one (i := .seal h rc ch) (exe := fun _ e _ _ _ => sealBeat e rc.toNat) rfl hf h1 hops.chan_eq hg hr hm (c := 7)
        (ad := baseOf (recAt s rc.toNat)) (by rw [← hbase]; omega) (by
          rw [sealBeat, rec_firstElem, seals_firstElem, if_neg (not_not.2 hspace), hsealed, hrange, hbase, if_pos rfl]
          exact if_neg (not_and_or.2 hother))
      rwa [hops.firstOps_eq, hops.acquireOps_eq] at htrap
  case rclaim =>
    dsimp only
    intro hm
    obtain ⟨h1, hops⟩ : f.hdr.beats.count = 1 ∧ NoOperands f := by
      cases hf
      exact ⟨count_x1 hx1, rfl, rfl, rfl, rfl⟩
    have hctx : exec (.rclaim h rc ch) s = .next (fireForm f 1 f.hdr.ty.width
        (memReady (elem s) (noEntry rc.toNat (some (ch.toNat, true)) .e) 1 && (tget (elem s).seals rc.toNat {}).count == 0) 0
        (fun _ => false) (fun _ e _ _ _ => rclaimBeat e rc.toNat) (fun _ t => t) s) := by
      cases hf
      rfl
    refine ⟨fun hspace hcount => ⟨_, hctx, fireForm_completes_one hg hr (by rw [hm.memReady_eq, hcount]; rfl) _ f.hdr.ty.width_pos h1
      fun held => ?_⟩, fun hcount => ?_⟩
    · dsimp only
      rw [show rclaimBeat (acquireOps (paid s f) f 0) rc.toNat = _ from rclaimBeat_firstElem f hspace]
      exact ⟨rfl, rfl, rfl, rfl⟩
    · rw [hctx, fireForm_waits _ _ _ _ _ _ _ _ _ (by simp [hcount])]
  case invl1 =>
    intro hm
    have hctx : fieldCtx s f = 0 := by
      cases hf
      rfl
    exact ⟨_, fireMem_eq hf (noEntry 0 none .e) (elemExe fun _ e _ _ => invalL1 e) s, fireForm_completes hg (hctx ▸ hr) hm.memReady_eq noCarry
      f.hdr.ty.width_pos (fun _ _ _ _ _ => rfl) fun _ _ _ _ _ => ⟨rfl, rfl, rfl⟩⟩
  case brec =>
    intro hm
    obtain ⟨h1, hchan, hd, ha, hbc⟩ : f.hdr.beats.count = 1 ∧ f.chan = none ∧ (firstOps s f).d = opndAt s 0 d ∧
        (firstOps s f).a = opndAt s 0 a ∧ (firstOps s f).b = 0 ∧ (firstOps s f).c = 0 := by
      cases hf
      exact ⟨count_x1 hx1, rfl, opndAt_firstOps_d rfl, opndAt_firstOps rfl, rfl, rfl⟩
    have hexec : exec (.brec h d a rc) s = fireMem (.brec h d a rc) (noEntry rc.toNat none .e) _ s := rfl
    refine ⟨fun hgood => completes_change hexec hf h1 hchan hg hr hm (fun held => ?_) rfl, fun hbad => ?_⟩
    · dsimp only
      rw [hd, ha]
      exact if_neg (by rw [show (fireCtx s f 1).region = getR s (here s) from rfl, hgood]; simp)
    · have htrap := traps_one hexec hf h1 hchan hg hr hm (c := 2) (ad := 0) (Nat.two_pow_pos 64) (by
        dsimp only
        rw [hd, ha]
        exact if_pos hbad)
      rwa [ha, hbc.1, hbc.2] at htrap
  case fence =>
    dsimp only
    have hinval : ∀ kind ≠ 1, ∀ e : Elem, (if sc = .e then e else { e with l1 := [], accs := e.accs.map fun a => { a with noAlloc := true } }) =
        if kind ≠ 1 ∧ 1 ≤ sc.code.toNat then invalL1 e else e := fun kind hkind e => by
      by_cases hsc : sc = .e
      · rw [if_pos hsc, if_neg fun h => (one_le_code_iff sc).1 h.2 hsc]
      · rw [if_neg hsc, if_pos ⟨hkind, (one_le_code_iff sc).2 hsc⟩]
        rfl
    refine ⟨fun hperf => ⟨fence_done (kind := 0) rfl hf hg hr ?_ _ (hinval 0 (by decide)), fence_done (kind := 1) (sc := sc) rfl ?_ hg hr ?_ id fun _ => rfl⟩,
      fun hloads => fence_done (kind := 2) (sc := sc) rfl ?_ hg hr ?_ _ (hinval 2 (by decide))⟩
    · rw [fenceReady_eq hg hno, hperf, noLoads_of_performedNow hperf]
      rfl
    · rw [← hf]; rfl
    · rw [fenceReady_eq hg hno, hperf]
      rfl
    · rw [← hf]; rfl
    · have hnone : ((elem s).accs.all fun a => !a.live || !takesLoad a.kind) = true := List.all_eq_true.2 fun a ha => by
        cases hlive : a.live with
        | false => rfl
        | true => rw [hloads a ha hlive]; rfl
      rw [fenceReady_eq hg hno, hnone]
      rfl
  case tsync =>
    have hready : ((elem s).accs.all (fun a => !a.live) && decide (storesUsed (elem s) + 1 ≤ 16)) = true := by
      rw [decide_eq_true (by omega), Bool.and_true]
      exact List.all_eq_true.2 fun a ha => by rw [hidle a ha]; rfl
    obtain ⟨_, t, hexec, hdone⟩ := exec_fireWith_after (i := .tsync h) (fun _ t => t) rfl hf hg hr hready (fun _ _ _ _ _ => rfl)
      (eff := change fun x e k o e' => Issues x e ⟨.tsync, 0, none, .die, .dflt, [], 16, .none⟩ k 0 o 0 (fun l => l = []) e')
      fun _ _ _ _ _ => ⟨issues_issue rfl rfl, rfl, rfl⟩
    exact ⟨t, hexec, hdone⟩

end Sys2Proof.Claims
end
section
/-!
# Steps of accesses on their way (R197 to R225)

A step of an access looks it up by its number, which is its own; what it changes is its entry in the table of its element, or the
element itself.
-/
namespace Sys2Proof.Claims
open Sys2Proof.Machine

/-! ## States that differ in their elements -/

/-- A step that leaves the elements of u, and beside them u itself. -/
theorem into_of_elems {i : Instr} {s t u : State} (hexec : exec i s = .next t) (helems : SameElems u t)
    (hrest : { t with elems := u.elems } = u) : Into i s u :=
  ⟨t, hexec, helems, fun k => (congrArg (fun v => getR v k) hrest :), fun k => (congrArg (fun v : State => memGet v.mem k) hrest :),
    (congrArg (fun v : State => { v with regions := u.regions, mem := u.mem }) hrest :)⟩

theorem into_of_eq {i : Instr} {s u : State} (hexec : exec i s = .next u) : Into i s u :=
  into_of_elems hexec (fun _ => rfl) rfl

theorem setE_setE (s : State) (k : Nat) (x y : Elem) : setE (setE s k x) k y = setE s k y := by
  unfold setE
  dsimp only
  rw [tset_tset]

/-- Two changes of one element are one. -/
theorem modE_modE (s : State) (k : Nat) (f g : Elem → Elem) : modE (modE s k f) k g = modE s k fun e => g (f e) := by
  simp only [modE, getE_setE, setE_setE]

theorem modE_setE (s : State) (k : Nat) (x : Elem) (g : Elem → Elem) : modE (setE s k x) k g = setE s k (g x) := by
  simp only [modE, getE_setE, setE_setE]

theorem modE_congr {s : State} {k : Nat} {f g : Elem → Elem} (h : f (getE s k) = g (getE s k)) : modE s k f = modE s k g := by
  simp only [modE, h]

/-! ## The access of a number -/

/-- The entries of an element that has access a, and no other, under number i. -/
structure Holds (i : Nat) (a : Access) (accs : List Access) : Prop where
  here : a ∈ accs
  only : ∀ x ∈ accs, x.id = i ↔ x = a

section
variable {i : Nat} {a : Access} {accs : List Access} (h : Holds i a accs)
include h

theorem Holds.id_eq : a.id = i := (h.only a h.here).2 rfl

theorem Holds.find?_eq : accs.find? (fun x => x.id == i) = some a := by
  cases hfind : accs.find? fun x => x.id == i with
  | none => exact absurd h.id_eq fun he => List.find?_eq_none.1 hfind a h.here (beq_iff_eq.2 he)
  | some x =>
    have hid := List.find?_some (p := fun x : Access => x.id == i) hfind
    rw [(h.only x (List.mem_of_find?_eq_some hfind)).1 (beq_iff_eq.1 hid)]

/-- A change of the access of that number is a change of a. -/
theorem Holds.map_eq (f : Access → Access) :
    (accs.map fun x => if x.id = a.id then f x else x) = accs.map fun x => if x.id = i then f a else x := by
  rw [h.id_eq]
  refine List.map_congr_left fun x hx => ?_
  split
  next hid => rw [(h.only x hx).1 hid]
  next => rfl

end

theorem OnWay.holds {s : State} {r st el i : Nat} {a : Access} (h : OnWay s r st el i a) : Holds i a (getE s (ekey r st el)).accs :=
  ⟨h.here, h.only⟩

/-- An access that becomes another of the same number, twice. -/
theorem becomes_becomes {i : Nat} {a b : Access} (hid : a.id = i) (e : Elem) : becomes i b (becomes i a e) = becomes i b e := by
  unfold becomes
  simp only [List.map_map]
  congr 1
  refine List.map_congr_left fun x _ => ?_
  simp only [Function.comp]
  by_cases hx : x.id = i
  · rw [if_pos hx, if_pos hx, if_pos hid]
  · rw [if_neg hx, if_neg hx]

theorem holds_becomes {i : Nat} {a b : Access} {e : Elem} (h : Holds i a e.accs) (hid : b.id = i) : Holds i b (becomes i b e).accs where
  here := List.mem_map.2 ⟨a, h.here, if_pos h.id_eq⟩
  only x hx := by
    obtain ⟨y, -, rfl⟩ := List.mem_map.1 hx
    split
    next => exact ⟨fun _ => rfl, fun _ => hid⟩
    next hne => exact ⟨fun he => absurd he hne, fun he => absurd (he ▸ hid) hne⟩

theorem filter_map_replace {i : Nat} {b : Access} (hid : b.id = i) (accs : List Access) :
    (accs.map fun x => if x.id = i then b else x).filter (fun x => x.id != i) = accs.filter fun x => x.id != i := by
  induction accs with
  | nil => rfl
  | cons x xs ih =>
    rw [List.map_cons, List.filter_cons, List.filter_cons, ih]
    by_cases hx : x.id = i <;> simp [hx, hid]

/-- What an access has become leaves with it. -/
theorem without_becomes {i : Nat} {b : Access} (hid : b.id = i) (e : Elem) : without i (becomes i b e) = without i e := by
  unfold without becomes
  simp only [filter_map_replace hid]

/-- The model's change of an access. -/
theorem modAcc_eq {s : State} {key i : Nat} {a : Access} (h : Holds i a (getE s key).accs) (f : Access → Access) :
    modAcc s key a.id f = modE s key (becomes i (f a)) := modE_congr (by rw [becomes, ← h.map_eq f])

/-- A change of an access that has changed already. -/
theorem modAcc_becomes {s : State} {key i : Nat} {a b : Access} (h : Holds i a (getE s key).accs) (hid : b.id = i) (f : Access → Access) :
    modAcc (modE s key (becomes i b)) key b.id f = modE s key (becomes i (f b)) := by
  have hholds : Holds i b (getE (modE s key (becomes i b)) key).accs := by
    rw [getE_modE]
    exact holds_becomes h hid
  have hmod := modAcc_eq hholds f
  rw [modE_modE] at hmod
  exact hmod.trans (modE_congr (becomes_becomes hid _))

theorem dropAcc_eq (s : State) (key i : Nat) : dropAcc s key i = modE s key (without i) := rfl

theorem faultAcc_eq {s : State} {key i : Nat} {a : Access} (h : Holds i a (getE s key).accs) (c : BitVec 8) (ad : Nat) :
    faultAcc s key a.id c ad = modE s key (becomes i { a with fault := some (c, ad) }) := modAcc_eq h _

/-! ## The lane in progress -/

theorem lane_of_one {a : Access} {l : AccLane} (hl : a.lanes = [l]) (hcur : a.cur = 0) : a.lane = l := by
  rw [Access.lane, hl, hcur]
  rfl

theorem addr_of_one {a : Access} {l : AccLane} (hl : a.lanes = [l]) (hcur : a.cur = 0) : a.addr = l.addr := by
  rw [Access.addr, lane_of_one hl hcur]

theorem setLane_of_one {a : Access} {l : AccLane} (hl : a.lanes = [l]) (hcur : a.cur = 0) (f : AccLane → AccLane) :
    a.setLane f = { a with lanes := [f l] } := by
  rw [Access.setLane, hl, hcur]
  rfl

/-! ## A step of an access -/

section
variable {s : State} {r st el i : Nat} {a : Access} (h : OnWay s r st el i a)
include h

theorem OnWay.site_elem : st < 20 ∧ el < 16 := elemOk_lt h.unit

theorem OnWay.keyRegion_eq : keyRegion (ekey r st el) = r := keyRegion_ekey h.site_elem.1 h.site_elem.2

theorem OnWay.keySite_eq : keySite (ekey r st el) = st := keySite_ekey h.site_elem.1 h.site_elem.2

theorem OnWay.findAcc_eq : findAcc (getE s (ekey r st el)) i = some a := h.holds.find?_eq

/-- What a step does is what it does to its access, which has not failed. -/
theorem OnWay.accStep_eq (f : Nat → Access → State) : accStep r st el i s f = .next (f (ekey r st el) a) := by
  unfold accStep withUnit
  rw [h.unit, if_pos rfl]
  dsimp only
  rw [h.findAcc_eq]
  dsimp only
  rw [h.sound]
  rfl

end

/-! ## Turns at the element port (R197) -/

/-- The oldest access of an element is next at its port. -/
theorem ownTurn_of_first {e : Elem} {i : Nat} (h : ∀ b ∈ e.accs, i ≤ b.id) : ownTurn e i = true :=
  List.all_eq_true.2 fun b hb => by
    rw [decide_eq_false (Nat.not_lt.2 (h b hb))]
    rfl

theorem waitsBehind_of_first {e : Elem} {i : Nat} {a : Access} (hid : a.id = i) (h : ∀ b ∈ e.accs, i ≤ b.id) : waitsBehind e a = false :=
  List.any_eq_false.2 fun b hb => by
    rw [decide_eq_false (Nat.not_lt.2 (hid ▸ h b hb))]
    exact Bool.false_ne_true

/-- Where no sealed range holds the granule (R209). -/
theorem sealsOver_eq_nil_iff (e : Elem) (ad : Nat) : sealsOver e ad = [] ↔ ¬ inSeal e ad := by
  unfold sealsOver inSeal
  rw [List.map_eq_nil_iff, List.filter_eq_nil_iff]
  simp only [Bool.and_eq_true, decide_eq_true_eq]
  exact ⟨fun h ⟨p, hp, hin⟩ => h p hp hin, fun h p hp hin => h ⟨p, hp, hin⟩⟩

theorem isSealed_eq (e : Elem) (ad : Nat) : isSealed e ad = true ↔ inSeal e ad := by
  rw [isSealed, bne_iff_ne, ne_eq, sealsOver_eq_nil_iff, not_not]

end Sys2Proof.Claims
end
section
/-!
# Remote accesses at the external port, arrivals and notify tokens (R197, R210, R211, R214, R215, R225)
-/
namespace Sys2Proof.Claims
open Sys2Proof.Machine

/-! ## The external port -/

/-- A write in the port's order, which seals refuse (R198, R210). -/
def putAtPort (s : State) (key : Nat) (a : Access) (c : Nat) (ns : List Nat) : State :=
  if ns ≠ [] then faultAcc s key a.id 0x07 a.addr
  else modAcc (landPut s a.target (.acc key a.id) a.addr) key a.id fun a => { a with accepted := some c }

/-- A remote load of an immutable granule, which takes its data and raises the counts of the seals (R211). -/
def readAtPort (s : State) (key : Nat) (a : Access) (c : Nat) (t : Elem) (ns : List Nat) : State :=
  if ns = [] then faultAcc s key a.id 0x07 a.addr
  else modAcc (modE s a.target fun e => countSeal e ns (· + 1)) key a.id fun b =>
    { b.setLane (fun l => { l with got := some (spadRead t a.addr 16) }) with raised := ns, accepted := some c }

section
variable {s : State} {r st el i : Nat} {a : Access} (h : OnWay s r st el i a) (harr : ArrivesAt s r st (ekey r st el) a)
include h harr

theorem arrived_of_arrivesAt : ¬ (a.space ≠ 2 ∨ a.accepted.isSome = true ∨ (!a.live) = true ∨
    (getR s (keyRegion (ekey r st el))).cycle < a.fired + 1 + hops (keySite (ekey r st el)) (keySite a.target)) := by
  rw [h.keyRegion_eq, h.keySite_eq, harr.space, harr.first, harr.live]
  simp [harr.arrived]

omit h in
/-- The port serves the request that has arrived. -/
theorem usePort_arrived (f : State → State) : usePort s a.target (elemPortNo (ekey r st el)) f =
    f (modE s a.target fun e => portTake e (elemPortNo (ekey r st el)) (getR s r).cycle) := by
  rw [usePort_free harr.free, harr.region]

theorem portRequest_write {v : Bool} (hkind : a.kind = .st ∨ a.kind = .feset v ∨ a.kind = .stf) : portRequest s (ekey r st el) a =
    putAtPort (modE s a.target fun e => portTake e (elemPortNo (ekey r st el)) (getR s r).cycle) (ekey r st el) a (getR s r).cycle
      (sealsOver (getE s a.target) a.addr) := by
  unfold portRequest
  dsimp only
  rw [if_neg (arrived_of_arrivesAt h harr)]
  rcases hkind with hk | hk | hk
  all_goals
    rw [hk]
    dsimp only
    rw [usePort_arrived harr, h.keyRegion_eq]
    rfl

theorem portRequest_read (hkind : a.kind = .ldr) (hclear : ∀ w ∈ landings s a.target, w.addr / 16 ≠ a.addr / 16)
    (hcount : ∀ n ∈ sealsOver (getE s a.target) a.addr, (tget (getE s a.target).seals n {}).count < 1023) : portRequest s (ekey r st el) a =
    readAtPort (modE s a.target fun e => portTake e (elemPortNo (ekey r st el)) (getR s r).cycle) (ekey r st el) a (getR s r).cycle
      (getE s a.target) (sealsOver (getE s a.target) a.addr) := by
  have hfree : ¬ ((!portClear s a.target a.addr) = true ∨ ((sealsOver (getE s a.target) a.addr).any fun n =>
      decide (1023 ≤ (tget (getE s a.target).seals n {}).count)) = true) := by
    have hport : portClear s a.target a.addr = true := List.all_eq_true.2 fun w hw => decide_eq_true (hclear w hw)
    rw [hport]
    rintro (hno | hany)
    · cases hno
    · obtain ⟨n, hn, hle⟩ := List.any_eq_true.1 hany
      exact absurd (of_decide_eq_true hle) (Nat.not_le.2 (hcount n hn))
  unfold portRequest
  dsimp only
  rw [if_neg (arrived_of_arrivesAt h harr), hkind]
  dsimp only
  rw [if_neg hfree, usePort_arrived harr, h.keyRegion_eq]
  rfl

end

section
variable {s : State} {key i c : Nat} {a : Access} {l : AccLane} (h : Holds i a (getE s key).accs) (hlanes : a.lanes = [l]) (hcur : a.cur = 0)
  (hother : a.target ≠ key)
include h hother

/-- The entries of the requester are as they were when the target has changed. -/
theorem Holds.after_target (f : Elem → Elem) : Holds i a (getE (modE s a.target f) key).accs := by
  rwa [getE_modE_other _ _ _ _ hother.symm]

include hlanes hcur

theorem refused_at_port (f : Elem → Elem) : faultAcc (modE s a.target f) key a.id 0x07 a.addr =
    modE (modE s a.target f) key (becomes i { a with fault := some (0x07, l.addr) }) := by
  rw [faultAcc_eq (h.after_target hother f), addr_of_one hlanes hcur]

theorem putAtPort_refused {ns : List Nat} (hns : ns ≠ []) (f : Elem → Elem) : putAtPort (modE s a.target f) key a c ns =
    modE (modE s a.target f) key (becomes i { a with fault := some (0x07, l.addr) }) := by
  rw [putAtPort, if_pos hns, refused_at_port h hlanes hcur hother]

theorem putAtPort_accepted (f : Elem → Elem) : putAtPort (modE s a.target f) key a c [] =
    modE (modE s a.target fun e => { f e with landing := (f e).landing ++ [⟨.acc key i, l.addr, (getR s (keyRegion a.target)).cycle⟩] }) key
      (becomes i { a with accepted := some c }) := by
  rw [putAtPort, if_neg (not_not.2 rfl), landPut, modE_modE, modAcc_eq (h.after_target hother _), h.id_eq, addr_of_one hlanes hcur]
  rfl

theorem readAtPort_refused (f : Elem → Elem) (t : Elem) : readAtPort (modE s a.target f) key a c t [] =
    modE (modE s a.target f) key (becomes i { a with fault := some (0x07, l.addr) }) := by
  rw [readAtPort, if_pos rfl, refused_at_port h hlanes hcur hother]

theorem readAtPort_taken (f : Elem → Elem) (t : Elem) (n : Nat) : readAtPort (modE s a.target f) key a c t [n] =
    modE (modE s a.target fun e => { f e with
      seals := tset (f e).seals n { tget (f e).seals n {} with count := (tget (f e).seals n {}).count + 1 } }) key
      (becomes i { a with
        accepted := some c, raised := [n], lanes := [{ l with got := some (BitVec.ofNat 128 (memVal t.spad l.addr 16)) }] }) := by
  rw [readAtPort, if_neg (List.cons_ne_nil n []), modE_modE, modAcc_eq (h.after_target hother _), setLane_of_one hlanes hcur,
    addr_of_one hlanes hcur]
  rfl

end

/-! ## Arrivals (R225) -/

section
variable {s : State} {r st el i : Nat} {a : Access} {l : AccLane} (h : OnWay s r st el i a)
include h

/-- Every access that was issued before the oldest is performed where the lines that it has touched are. -/
theorem performedAt_of_first (hfirst : ∀ b ∈ (getE s (ekey r st el)).accs, i ≤ b.id) {scope : Nat}
    (hlines : ∀ ln ∈ (getE s (ekey r st el)).touched, lineAt s r ln scope = true) : performedAt s (ekey r st el) a.id scope = true := by
  unfold performedAt
  rw [h.holds.id_eq, h.keyRegion_eq]
  refine Bool.and_eq_true_iff.2 ⟨List.all_eq_true.2 fun b hb => ?_, List.all_eq_true.2 hlines⟩
  rw [decide_eq_true (hfirst b hb), Bool.or_true]

theorem into_arriveSend (hkind : a.kind = .arrive) (hsent : a.sentOff = false) (hfirst : ∀ b ∈ (getE s (ekey r st el)).accs, i ≤ b.id)
    (hlines : ∀ ln ∈ (getE s (ekey r st el)).touched, lineAt s r ln a.scope.code.toNat = true) :
    Into (.arriveSend r st el i) s (modE s (ekey r st el) (becomes i { a with sentOff := true })) := by
  refine into_of_eq ((exec_arriveSend ..).trans ((h.accStep_eq _).trans (congrArg _ ?_)))
  rw [if_neg (by simp [hkind, hsent]), if_pos (performedAt_of_first h hfirst hlines), modAcc_eq h.holds]

/-- What an arrival that has been sent off comes to at its barrier. -/
theorem exec_barrierUpdate_sent (hkind : a.kind = .arrive) (hsent : a.sentOff = true)
    (hdue : a.space = 1 ∨ a.fired + 1 + hops st (keySite a.target) ≤ (getR s r).cycle) : exec (.barrierUpdate r st el i) s = .next
      (if isSealed (getE s a.target) a.addr then faultAcc s (ekey r st el) a.id 0x07 a.addr
      else match portUpdate s a.target a.addr (.acc (ekey r st el) a.id) (elemPortNo (ekey r st el)) fun e => barrierUpdate e a.addr 1 0 with
        | .refused s => faultAcc s (ekey r st el) a.id 0x05 a.addr
        | .wait s => s
        | .done s => dropAcc s (ekey r st el) a.id) := by
  refine (exec_barrierUpdate ..).trans ((h.accStep_eq _).trans (congrArg _ ?_))
  have hdue' : (a.space == 1 || decide (a.fired + 1 + hops (keySite (ekey r st el)) (keySite a.target) ≤ (getR s r).cycle)) = true := by
    rw [h.keySite_eq]
    rcases hdue with hown | harrived
    · rw [hown]; rfl
    · rw [decide_eq_true harrived, Bool.or_true]
  exact if_neg (by simp [hkind, hsent, hdue'])

end

/-- The element after its port has served the source of an update. -/
def servedOut (s : State) (key : Nat) (src : UpdFrom) (who : Nat) (e : Elem) : Elem :=
  { portTake e who (getR s (keyRegion key)).cycle with held := e.held.filter fun h => h.src != src && updLive s (keyRegion key) h.src }

/-- The element where the source of an update that waits stands in its place. -/
def servedKeep (s : State) (key off : Nat) (src : UpdFrom) (who : Nat) (e : Elem) : Elem :=
  if e.held.any fun h => h.src == src then e
  else { portTake e who (getR s (keyRegion key)).cycle with held := e.held ++ [⟨off, src⟩] }

theorem portServed_servedOut (s : State) (key : Nat) (src : UpdFrom) (who : Nat) (e : Elem) : PortServed e (servedOut s key src who e) := rfl

theorem portServed_servedKeep (s : State) (key off : Nat) (src : UpdFrom) (who : Nat) (e : Elem) :
    PortServed e (servedKeep s key off src who e) := by
  unfold servedKeep
  split <;> rfl

theorem heldAt_servedKeep (s : State) (key off : Nat) (src : UpdFrom) (who : Nat) (e : Elem) : HeldAt src (servedKeep s key off src who e) := by
  unfold servedKeep
  split
  next hheld =>
    obtain ⟨w, hw, hsrc⟩ := List.any_eq_true.1 hheld
    exact ⟨w, hw, beq_iff_eq.1 hsrc⟩
  next => exact ⟨_, List.mem_append_right _ (List.mem_singleton.2 rfl), rfl⟩

/-- An update at a free port that none waits ahead of (R214, R215). -/
theorem portUpdate_eq {s : State} {key off who : Nat} {src : UpdFrom} (hfree : portFree s key who = true)
    (hahead : updAhead s key off src = false) (upd : Elem → BarRes) : portUpdate s key off src who upd =
      match upd (getE s key) with
      | .refused => .refused (setE s key (servedOut s key src who (getE s key)))
      | .waits => .wait (if (getE s key).held.any fun h => h.src == src then s
          else setE s key (servedKeep s key off src who (getE s key)))
      | .applied e' => .done (setE s key (servedOut s key src who e')) := by
  unfold portUpdate
  rw [hfree, hahead]
  cases hupd : upd (getE s key) with
  | refused => simp [hupd, servedOut, modE]
  | waits =>
    simp only [hupd, servedKeep, modE]
    split <;> simp_all
  | applied e' => simp [hupd, servedOut]

/-! ## The statement's cases of a barrier -/

section
variable {s : State} {r st el i : Nat} {a : Access} {l : AccLane} (h : OnWay s r st el i a) (hkind : a.kind = .arrive)
  (hsent : a.sentOff = true) (hlanes : a.lanes = [l]) (hcur : a.cur = 0)
  (hdue : a.space = 1 ∨ a.fired + 1 + hops st (keySite a.target) ≤ (getR s r).cycle)
include h hkind hsent hlanes hcur hdue

theorem into_barrierUpdate_sealed (hseal : inSeal (getE s a.target) l.addr) : Into (.barrierUpdate r st el i) s
    (modE s (ekey r st el) (becomes i { a with fault := some (0x07, l.addr) })) := by
  refine into_of_eq ((exec_barrierUpdate_sent h hkind hsent hdue).trans (congrArg _ ?_))
  rw [addr_of_one hlanes hcur, if_pos ((isSealed_eq ..).2 hseal), faultAcc_eq h.holds]

variable (hseal : ¬ inSeal (getE s a.target) l.addr) (hfree : portFree s a.target (elemPortNo (ekey r st el)) = true)
  (hahead : updAhead s a.target l.addr (.acc (ekey r st el) i) = false)
include hseal hfree hahead

theorem exec_barrierUpdate_unsealed : exec (.barrierUpdate r st el i) s = .next
    (let src := UpdFrom.acc (ekey r st el) i
     let who := elemPortNo (ekey r st el)
     match barrierUpdate (getE s a.target) l.addr 1 0 with
      | .refused => faultAcc (setE s a.target (servedOut s a.target src who (getE s a.target))) (ekey r st el) a.id 0x05 l.addr
      | .waits => if (getE s a.target).held.any fun h => h.src == src then s
          else setE s a.target (servedKeep s a.target l.addr src who (getE s a.target))
      | .applied e' => dropAcc (setE s a.target (servedOut s a.target src who e')) (ekey r st el) i) := by
  refine (exec_barrierUpdate_sent h hkind hsent hdue).trans (congrArg _ ?_)
  rw [addr_of_one hlanes hcur, if_neg ((isSealed_eq ..).not.2 hseal), h.holds.id_eq, portUpdate_eq hfree hahead]
  cases barrierUpdate (getE s a.target) l.addr 1 0 <;> rfl

theorem into_barrierUpdate_applied {z : Elem} (hz : barrierUpdate (getE s a.target) l.addr 1 0 = .applied z) :
    ∃ z', PortServed z z' ∧ Into (.barrierUpdate r st el i) s (modE (setE s a.target z') (ekey r st el) (without i)) := by
  refine ⟨servedOut s a.target (.acc (ekey r st el) i) (elemPortNo (ekey r st el)) z, portServed_servedOut .., into_of_eq ?_⟩
  rw [exec_barrierUpdate_unsealed h hkind hsent hlanes hcur hdue hseal hfree hahead, hz]
  rfl

theorem into_barrierUpdate_refused (hz : barrierUpdate (getE s a.target) l.addr 1 0 = .refused) :
    ∃ y', PortServed (getE s a.target) y' ∧ Into (.barrierUpdate r st el i) s
      (modE (setE s a.target y') (ekey r st el) (becomes i { a with fault := some (0x05, l.addr) })) := by
  refine ⟨servedOut s a.target (.acc (ekey r st el) i) (elemPortNo (ekey r st el)) (getE s a.target), portServed_servedOut .., into_of_eq ?_⟩
  rw [exec_barrierUpdate_unsealed h hkind hsent hlanes hcur hdue hseal hfree hahead, hz]
  dsimp only
  rw [faultAcc_eq]
  by_cases hown : ekey r st el = a.target
  · rw [← hown, getE_setE]
    exact h.holds
  · rw [getE_setE_other _ _ _ _ hown]
    exact h.holds

theorem into_barrierUpdate_waits (hz : barrierUpdate (getE s a.target) l.addr 1 0 = .waits) :
    ∃ y', PortServed (getE s a.target) y' ∧ HeldAt (.acc (ekey r st el) i) y' ∧ Into (.barrierUpdate r st el i) s (setE s a.target y') := by
  refine ⟨_, portServed_servedKeep s a.target l.addr (.acc (ekey r st el) i) (elemPortNo (ekey r st el)) _, heldAt_servedKeep .., ?_⟩
  have hexec := exec_barrierUpdate_unsealed h hkind hsent hlanes hcur hdue hseal hfree hahead
  rw [hz] at hexec
  by_cases hheld : ((getE s a.target).held.any fun h => h.src == .acc (ekey r st el) i) = true
  · refine into_of_elems (hexec.trans (congrArg _ (if_pos hheld))) (fun k => ?_) rfl
    rw [servedKeep, if_pos hheld]
    by_cases hk : k = a.target
    · rw [hk, getE_setE]
    · rw [getE_setE_other _ _ _ _ hk]
  · exact into_of_eq (hexec.trans (congrArg _ (if_neg hheld)))

end

/-! ## Notify tokens (R215) -/

theorem into_notifyTokenDeliver {s : State} {r st el : Nat} {n : Notify} {rest : List Notify} (hok : elemOk s r st el = true)
    (hnotify : (getE s (ekey r st el)).notify = n :: rest) (hsite : siteOk (getR s r) n.site = true) (hq : n.queue < 6)
    (hport : portFree s (ekey r st el) notifyPortNo = true)
    (hslot : 1 ≤ usableResv (getQ (getE s (ekey r n.site n.elem)) n.queue).resv (.notify (ekey r st el)) (getR s r).cycle) :
    Into (.notifyTokenDeliver r st el) s
      (modE (modE s (ekey r st el) fun e => { portTake e notifyPortNo (getR s r).cycle with notify := rest }) (ekey r n.site n.elem) fun e =>
        { e with queues := tset e.queues n.queue (entered (getQ e n.queue) (.notify (ekey r st el)) n.tok) }) := by
  have hregion : keyRegion (ekey r st el) = r := keyRegion_ekey (elemOk_lt hok).1 (elemOk_lt hok).2
  refine into_of_eq ((exec_notifyTokenDeliver ..).trans ?_)
  unfold execNotifyTokenDeliver withUnit
  rw [hok, if_pos rfl]
  dsimp only
  rw [hnotify]
  dsimp only
  rw [hsite, if_neg (by simp; omega), if_neg (by omega), usePort_free hport, hregion, modE_modE]
  rfl

/-! ## Late faults (R203) -/

/-- The values of a record's fields at beat k. -/
def recordBeat (k : Nat) (v : Nat → Nat) : Nat → Nat
  | 4 => k
  | n => v n

/-- The record of a trap at any beat holds what R442 says. -/
theorem recorded_trapRecord_beat (e : Elem) (key : Nat) (cause : BitVec 8) {beat slot addr : Nat} (word : BitVec 64) (a b c : Vec)
    (hbeat : beat < 2 ^ 6) (hslot : slot < 2 ^ 4) (haddr : addr < 2 ^ 64) :
    Recorded key 0 cause 0 beat slot word (BitVec.ofNat 64 addr) a b c e (trapRecord e key 0 cause 0 beat slot word addr [a, b, c]) := by
  have hpack : trapRecord e key 0 cause 0 beat slot word addr [a, b, c] =
      BitVec.ofNat 1024 (packFields 2 recordWidths (recordBeat beat (recordValue e key cause 0 slot word addr a b c))) := by
    have hops : packLanes 128 [a.toNat, b.toNat, c.toNat] = a.toNat + 2 ^ 128 * (b.toNat + 2 ^ 128 * (c.toNat + 2 ^ 128 * 0)) := by
      simp only [packLanes, Nat.mod_eq_of_lt (BitVec.isLt _)]
    rw [packFields_recordWidths 2 _ rfl rfl]
    unfold trapRecord
    refine congrArg (BitVec.ofNat 1024) (congrArg₂ (· + ·) ?_ (congrArg (· * 2 ^ 928) (foldl_upto_six fun j => headSide e j * 2 ^ (16 * j))))
    simp only [List.map, hops, recordValue, recordBeat]
  have hlt : ∀ j w, recordWidths[j]? = some w → recordBeat beat (recordValue e key cause 0 slot word addr a b c) j < 2 ^ w := fun j w hw => by
    unfold recordBeat
    split
    next => cases hw; exact hbeat
    next => exact recordValue_lt e key cause word a b c (by decide) hslot haddr j w hw
  have field {i p w : Nat} := extractLsb'_packFields (i := i) (p := p) (w := w) hlt 1024
  rw [hpack]
  exact
    { elem := field (i := 1) rfl rfl (by decide)
      site := field (i := 2) rfl rfl (by decide)
      slot := field (i := 3) rfl rfl (by decide)
      beat := field (i := 4) rfl rfl (by decide)
      code := field (i := 5) rfl rfl (by decide)
      cause := (field (i := 6) rfl rfl (by decide)).trans (BitVec.ofNat_toNat ..)
      origin := field (i := 7) rfl rfl (by decide)
      word := (field (i := 9) rfl rfl (by decide)).trans (BitVec.ofNat_toNat ..)
      addr := field (i := 10) rfl rfl (by decide)
      opA := (field (i := 11) rfl rfl (by decide)).trans (BitVec.ofNat_toNat ..)
      opB := (field (i := 12) rfl rfl (by decide)).trans (BitVec.ofNat_toNat ..)
      opC := (field (i := 13) rfl rfl (by decide)).trans (BitVec.ofNat_toNat ..)
      heads := fun j hj => by
        refine Eq.trans ?_ (ofNat_headSide e j)
        match j, hj with
        | 0, _ => exact field (i := 14) rfl rfl (by decide)
        | 1, _ => exact field (i := 15) rfl rfl (by decide)
        | 2, _ => exact field (i := 16) rfl rfl (by decide)
        | 3, _ => exact field (i := 17) rfl rfl (by decide)
        | 4, _ => exact field (i := 18) rfl rfl (by decide)
        | 5, _ => exact field (i := 19) rfl rfl (by decide) }

theorem clearPend_eq (e : Elem) (n : Nat) : clearPend e n = unpend n e := by
  have hbit : BitVec.ofNat 64 (2 ^ n) = 1#64 <<< n := by
    apply BitVec.eq_of_toNat_eq
    rw [BitVec.toNat_ofNat, BitVec.toNat_shiftLeft, Nat.shiftLeft_eq]
    simp
  rw [clearPend, hbit, unpend]

theorem into_lateFault {s : State} {r st el i : Nat} {a : Access} {c : BitVec 8} {ad : Nat} (hok : elemOk s r st el = true)
    (h : Holds i a (getE s (ekey r st el)).accs) (hfault : a.fault = some (c, ad)) (hops : a.ops.length = 3) (hslot : a.slot < 16)
    (hbeat : a.beat < 64) (had : ad < 2 ^ 64) (hbusy : (getE s (ekey r st el)).busy ≤ (getR s r).cycle)
    (hrec : (getE s (ekey r st el)).trapRec = none) (htrap : (getE s (ekey r st el)).st ≠ .trapped)
    (hfrozen : (getE s (ekey r st el)).st ≠ .frozen) :
    ∃ rec, Recorded (ekey r st el) 0 c 0 a.beat a.slot a.word (BitVec.ofNat 64 ad) (a.ops.getD 0 0) (a.ops.getD 1 0) (a.ops.getD 2 0)
        (getE s (ekey r st el)) rec ∧
      Into (.lateFault r st el i) s (modE s (ekey r st el) fun e =>
        let e' := { without i e with st := .trapped, trapAt := (getR s r).cycle, trapRec := some rec }
        match a.dest with | .reg n => unpend n e' | _ => e') := by
  have hregion : keyRegion (ekey r st el) = r := keyRegion_ekey (elemOk_lt hok).1 (elemOk_lt hok).2
  obtain ⟨o₁, o₂, o₃, hlist⟩ := List.length_eq_three.1 hops
  refine ⟨trapRecord (getE s (ekey r st el)) (ekey r st el) 0 c 0 a.beat a.slot a.word ad a.ops, ?_, into_of_eq ((exec_lateFault ..).trans ?_)⟩
  · rw [hlist]
    exact recorded_trapRecord_beat (getE s (ekey r st el)) (ekey r st el) c a.word o₁ o₂ o₃ hbeat hslot had
  · have hfind : findAcc (getE s (ekey r st el)) i = some a := h.find?_eq
    unfold execLateFault withUnit
    rw [hok, if_pos rfl]
    dsimp only
    rw [hfind]
    dsimp only
    rw [hfault]
    dsimp only
    rw [if_pos ⟨hbusy, hrec, htrap, hfrozen⟩, dropAcc_eq]
    cases a.dest with
    | reg n =>
      dsimp only
      rw [modE_modE, elemTrap, modE_modE, getR_modE, hregion]
      refine congrArg Host.Outcome.next (modE_congr ((if_neg htrap).trans ?_))
      simp only [clearPend_eq]
      rfl
    | _ =>
      dsimp only
      rw [elemTrap, modE_modE, getR_modE, hregion]
      exact congrArg Host.Outcome.next (modE_congr (if_neg htrap))

end Sys2Proof.Claims
end
section
/-!
# A translation invalidation at a region (R369, R393)
-/
namespace Sys2Proof.Claims
open Sys2Proof.Machine

/-! ## What publication has to do where nothing is held back -/

theorem olderWrites_zero (s : State) (die : Nat) (pass : Narrow → Bool) : olderWrites s die 0 pass = [] := by
  have hhorizon : ∀ (l : List Narrow) k, horizon l k 0 = 0 := fun l k => by
    induction k with
    | zero => rfl
    | succ k ih =>
      rw [horizon, List.filter_eq_nil_iff.2 fun w _ => by simp]
      exact ih
  unfold olderWrites
  dsimp only
  rw [hhorizon, List.filter_eq_nil_iff.2 fun w _ => by simp]
  rfl

/-- Nothing before number 0 is published, where no write is on its way to a peer. -/
theorem publishDie_zero {s : State} {die : Nat} (h : Published s die fun _ => True) (pass : Narrow → Bool) :
    publishDie s die 0 pass = (s, true) := by
  have hpeers : (s.homes.any fun h => peerLine h.1 && h.2.reqs.any (peerWrite die)) = false := by
    refine List.any_eq_false.2 fun x hx hpeer => ?_
    obtain ⟨hline, hreqs⟩ := Bool.and_eq_true_iff.1 hpeer
    obtain ⟨q, hq, hwrite⟩ := List.any_eq_true.1 hreqs
    rw [h.peers x hx hline q hq] at hwrite
    cases hwrite
  unfold publishDie publishWithin
  rw [olderWrites_zero]
  simp [hpeers]

theorem publishOld_nothing {s : State} {r ln : Nat} (hwcb : (getR s r).wcb = [])
    (hclean : ∀ p ∈ (getCist s (sharerDie r)).lines, p.2.dirty = 0) (hpub : Published s (sharerDie r) fun _ => True) :
    publishOld s r ln = (s, true) := by
  have hold : oldWrites (getR s r) ln = 0 := by rw [oldWrites, hwcb]; rfl
  have hlines : ((getCist s (sharerDie r)).lines.filter fun c => c.2.dirty != 0 && !peerLine c.1) = [] :=
    List.filter_eq_nil_iff.2 fun p hp => by simp [hclean p hp]
  unfold publishOld
  dsimp only
  rw [hold, publishDie_zero hpub]
  dsimp only
  rw [if_neg (by simp), hlines]
  rfl

/-! ## The removals -/

section
variable {s : State} {r ln : Nat} (hr : r < 64)
include hr

theorem dropXlats_eq : ∃ x E A, dropXlats s r ln = { setR s r x with elems := E, acks := A } ∧
    x.tlb = (getR s r).tlb.filter (fun t => !xlatDerived (getR s r) ln t) ∧ x.wcb = (getR s r).wcb ∧ x.walkRec = (getR s r).walkRec ∧
    E = tmap (fun k e => if keyRegion k = r then { e with tlb := e.tlb.filter fun t => !xlatDerived (getR s r) ln t } else e) s.elems := by
  unfold dropXlats
  rw [if_neg (Nat.not_le.2 hr)]
  exact ⟨_, _, _, rfl, rfl, rfl, rfl, rfl⟩

omit hr in
/-- No translation that derives from the line stands in the region's TLB. -/
theorem leafLines_of_mem_filter {g : Region} {l : List Xlat} {x : Xlat} (hx : x ∈ l.filter fun t => !xlatDerived g ln t) :
    x.leafLines.contains ln = false := by
  obtain ⟨-, hkeep⟩ := List.mem_filter.1 hx
  unfold xlatDerived at hkeep
  rw [Bool.not_eq_true'] at hkeep
  exact (Bool.or_eq_false_iff.1 hkeep).1

end

/-! ## The acknowledgement (R369) -/

/-- What an acknowledgement of region r for a line changes: its entry among those that have read the line, and once no other region of the
die has read it, the directory's entry and the home. -/
structure Acknowledged (s : State) (r ln : Nat) (u : State) : Prop where
  elems : SameElems s u
  regions : SameRegions s u
  mem : SameMem s u
  gone : (ln, r) ∉ (getCist u (r / 16)).walkers
  others : (∃ q, q ≠ r ∧ (ln, q) ∈ (getCist s (r / 16)).walkers) → getDir u ln = getDir s ln
  last : (¬ ∃ q, q ≠ r ∧ (ln, q) ∈ (getCist s (r / 16)).walkers) → (getDir u ln).ts.getLsbD (r / 16) = false

theorem getHome_setHome (s : State) (ln : Nat) (h : HomeQ) : getHome (setHome s ln h) ln = h := by
  unfold setHome getHome
  dsimp only
  split
  next hempty => rw [tget_terase, if_pos rfl, hempty]
  next => exact tget_tset_same ..

/-- A request that waits for invalidations is not granted, and a recall is not over. -/
theorem settle_of_tinv {s : State} {ln : Nat} {t : HTx} (h : (getHome s ln).tx = some t) (ht : t.tinv ≠ []) : settle s ln = s := by
  rw [settle, h]
  exact if_neg fun hdone => ht hdone.2.1

theorem recallOver_of_tinv {s : State} {ln : Nat} {t : HTx} (h : (getHome s ln).tx = some t) (ht : t.tinv ≠ []) : recallOver s ln = s := by
  rw [recallOver, h]
  exact if_neg fun hdone => ht hdone.2.2

theorem getLsbD_andNot_bit4 (v : BitVec 4) {n : Nat} : (v &&& ~~~ bit4 n).getLsbD n = false := by
  unfold bit4
  by_cases hn : n < 4
  · rw [BitVec.getLsbD_and, BitVec.getLsbD_not, BitVec.getLsbD_ofNat, Nat.testBit_two_pow_self, decide_eq_true hn]
    simp
  · exact BitVec.getLsbD_of_ge _ _ (by omega)

/-- A change of a die's record and of a directory's entry leaves elements, regions and memory. -/
theorem acknowledged_ackInvalidation {s : State} {r ln : Nat} {tx : HTx} (hr : r < 64) (htx : (getHome s ln).tx = some tx)
    (hothers : (∃ q, q ≠ r ∧ (ln, q) ∈ (getCist s (r / 16)).walkers) ∨ ∃ d ∈ tx.tinv, d ≠ r / 16) :
    Acknowledged s r ln (ackInvalidation s r ln) := by
  have hdie : sharerDie r = r / 16 := if_pos hr
  let gone : Cistern → Cistern := fun c => { c with walkers := c.walkers.filter (· != (ln, r)) }
  have hcist : getCist (modCist s (r / 16) gone) (r / 16) = gone (getCist s (r / 16)) := tget_tset_same ..
  have hgone : (ln, r) ∉ (gone (getCist s (r / 16))).walkers := fun hmem => by
    obtain ⟨-, hne⟩ := List.mem_filter.1 hmem
    simp at hne
  have hany : ((gone (getCist s (r / 16))).walkers.any fun p => p.1 == ln) = true ↔
      ∃ q, q ≠ r ∧ (ln, q) ∈ (getCist s (r / 16)).walkers := by
    rw [List.any_eq_true]
    constructor
    · rintro ⟨⟨l, q⟩, hmem, hl⟩
      obtain ⟨hin, hne⟩ := List.mem_filter.1 hmem
      obtain rfl : l = ln := beq_iff_eq.1 hl
      exact ⟨q, fun hq => by simp [hq] at hne, hin⟩
    · rintro ⟨q, hq, hin⟩
      exact ⟨(ln, q), List.mem_filter.2 ⟨hin, by simp [hq]⟩, beq_iff_eq.2 rfl⟩
  unfold ackInvalidation
  rw [hdie]
  dsimp only
  rw [show getCist (modCist s (r / 16) fun c => { c with walkers := c.walkers.filter (· != (ln, r)) }) (r / 16) = gone (getCist s (r / 16)) from hcist]
  by_cases hwalk : ∃ q, q ≠ r ∧ (ln, q) ∈ (getCist s (r / 16)).walkers
  · rw [if_pos (hany.2 hwalk)]
    exact ⟨fun _ => rfl, fun _ => rfl, fun _ => rfl, hcist ▸ hgone, fun _ => rfl, fun hno => absurd hwalk hno⟩
  · rw [if_neg (hany.not.2 hwalk)]
    obtain hwalk' | ⟨d, hd, hne⟩ := hothers
    · exact absurd hwalk' hwalk
    · rw [show (getHome (modDir (modCist s (r / 16) fun c => { c with walkers := c.walkers.filter (· != (ln, r)) }) ln
        fun d => { d with ts := d.ts &&& ~~~ bit4 (r / 16) }) ln) = getHome s ln from rfl, htx]
      dsimp only
      have hwaits : tx.tinv.filter (· != r / 16) ≠ [] := List.ne_nil_of_mem (List.mem_filter.2 ⟨hd, bne_iff_ne.2 hne⟩)
      rw [recallOver_of_tinv (congrArg HomeQ.tx (getHome_setHome ..)) hwaits, settle_of_tinv (congrArg HomeQ.tx (getHome_setHome ..)) hwaits,
        ite_self, ite_self]
      refine ⟨fun _ => rfl, fun _ => rfl, fun _ => rfl, hcist ▸ hgone, fun hyes => absurd hyes hwalk, fun _ => ?_⟩
      have hdir : ∀ (u : State) (g : Dir → Dir) (h : HomeQ), getDir (setHome (modDir u ln g) ln h) ln = g (getDir u ln) := fun u g h =>
        tget_tset_same ..
      rw [hdir]
      exact getLsbD_andNot_bit4 _

/-! ## The invalidation -/

theorem invalidated {s : State} {r ln : Nat} (hr : r < 64) (hinv : invalidating s (r / 16) ln = true)
    (hread : (ln, r) ∈ (getCist s (r / 16)).walkers) (hold : oldAccess (dropXlats s r ln) r ln = false) (hwcb : (getR s r).wcb = [])
    (hclean : ∀ p ∈ (getCist s (r / 16)).lines, p.2.dirty = 0) (hpub : Published s (r / 16) fun _ => True) :
    exec (.translationInvalidation r ln) s = .next (modR (ackInvalidation (dropXlats s r ln) r ln) r fun x =>
      { x with walkRec := x.walkRec.filter fun w => w.line != ln }) := by
  have hdie : sharerDie r = r / 16 := if_pos hr
  have hcontains : (getCist s (r / 16)).walkers.contains (ln, r) = true := List.contains_iff_mem.2 hread
  obtain ⟨x, E, A, heq, -, hx, -, -⟩ := dropXlats_eq (s := s) (ln := ln) hr
  have hpublished : publishOld (dropXlats s r ln) r ln = (dropXlats s r ln, true) := by
    refine publishOld_nothing ?_ ?_ ?_
    · rw [heq]
      exact (congrArg Region.wcb (getR_setR s r x)).trans (hx.trans hwcb)
    · rw [heq, hdie]
      exact hclean
    · rw [heq, hdie]
      exact ⟨fun _ _ => trivial, hpub.peers⟩
  rw [exec_translationInvalidation, execTranslationInvalidation, withUnit, if_pos (decide_eq_true (by omega))]
  unfold invalidate
  dsimp only
  rw [hdie, hinv, if_neg (by simp), if_neg (by rw [hcontains]; simp), if_neg (Nat.not_le.2 hr), hold, if_neg Bool.false_ne_true, hpublished]
  rfl

/-- What an invalidation at a region leaves. -/
theorem translationInvalidated {s : State} {r ln : Nat} (hr : r < 64) (hinv : invalidating s (r / 16) ln = true)
    (hread : (ln, r) ∈ (getCist s (r / 16)).walkers) (hold : oldAccess (dropXlats s r ln) r ln = false) (hwcb : (getR s r).wcb = [])
    (hclean : ∀ p ∈ (getCist s (r / 16)).lines, p.2.dirty = 0) (hpub : Published s (r / 16) fun _ => True)
    (hothers : (∃ q, q ≠ r ∧ (ln, q) ∈ (getCist s (r / 16)).walkers) ∨ ∃ tx, (getHome s ln).tx = some tx ∧ ∃ d ∈ tx.tinv, d ≠ r / 16) :
    ∃ t, exec (.translationInvalidation r ln) s = .next t ∧ (ln, r) ∉ (getCist t (r / 16)).walkers ∧ OtherRegions r s t ∧ SameMem s t ∧
      (∀ x ∈ (getR t r).tlb, x.leafLines.contains ln = false) ∧
      (getR t r).walkRec = (getR s r).walkRec.filter (fun w => w.line != ln) ∧
      (∀ st el, ∀ x ∈ (getE t (ekey r (st % 20) (el % 16))).tlb, x.leafLines.contains ln = false) ∧
      ((¬ ∃ q, q ≠ r ∧ (ln, q) ∈ (getCist s (r / 16)).walkers) → (getDir t ln).ts.getLsbD (r / 16) = false) ∧
      ((∃ q, q ≠ r ∧ (ln, q) ∈ (getCist s (r / 16)).walkers) → getDir t ln = getDir s ln) := by
  obtain ⟨x, E, A, heq, htlb, -, hrec, hE⟩ := dropXlats_eq (s := s) (ln := ln) hr
  obtain ⟨tx, htx⟩ : ∃ tx, (getHome s ln).tx = some tx := by
    unfold invalidating at hinv
    split at hinv
    next tx htx => exact ⟨tx, htx⟩
    next => cases hinv
  have hlast : (∃ q, q ≠ r ∧ (ln, q) ∈ (getCist s (r / 16)).walkers) ∨ ∃ d ∈ tx.tinv, d ≠ r / 16 := by
    rcases hothers with hq | ⟨tx', htx', hd⟩
    · exact .inl hq
    · rw [htx, Option.some.injEq] at htx'
      exact .inr (htx' ▸ hd)
  have hack : Acknowledged (dropXlats s r ln) r ln (ackInvalidation (dropXlats s r ln) r ln) :=
    acknowledged_ackInvalidation hr (tx := tx) (by rw [heq]; exact htx) (by rw [heq]; exact hlast)
  refine ⟨_, invalidated hr hinv hread hold hwcb hclean hpub, hack.gone, fun q hq => ?_, fun k => ?_, fun y hy => ?_, ?_,
    fun st el y hy => ?_, fun hno => hack.last (by rw [heq]; exact hno), fun hyes => (hack.others (by rw [heq]; exact hyes)).trans (by rw [heq]; rfl)⟩
  · rw [getR_modR_other _ _ _ _ hq, hack.regions q, heq]
    exact getR_setR_other s r q x hq
  · exact (hack.mem k).trans (by rw [heq]; rfl)
  · rw [getR_modR, hack.regions r, heq] at hy
    have hy' : y ∈ (getR (setR s r x) r).tlb := hy
    rw [getR_setR, htlb] at hy'
    exact leafLines_of_mem_filter hy'
  · rw [getR_modR, hack.regions r, heq]
    exact congrArg (List.filter fun w => w.line != ln) ((congrArg Region.walkRec (getR_setR s r x)).trans hrec)
  · have hkey : keyRegion (ekey r (st % 20) (el % 16)) = r := keyRegion_ekey (Nat.mod_lt _ (by decide)) (Nat.mod_lt _ (by decide))
    have helem : ∀ z ∈ (getE (dropXlats s r ln) (ekey r (st % 20) (el % 16))).tlb, z.leafLines.contains ln = false := by
      rw [heq]
      change ∀ z ∈ (tget E (ekey r (st % 20) (el % 16)) {}).tlb, _
      rw [hE]
      refine tget_tmap_keeps (fun _ v : Elem => ∀ z ∈ v.tlb, z.leafLines.contains ln = false) _ s.elems _ {} (fun z hz => by cases hz)
        fun v z hz => ?_
      rw [if_pos hkey] at hz
      exact leafLines_of_mem_filter hz
    rw [getE_modR, hack.elems] at hy
    exact helem y hy

end Sys2Proof.Claims
end

section
/-!
# The ports of the scratchpads settled
-/
namespace Sys2Proof.Claims
open Sys2Proof.Machine

/-- Settles O40: a remote access at a free port, then an arrival on its way, a notify token, a late fault and an invalidation. -/
theorem accessPorts : Obligations.AccessPorts := by
  unfold Obligations.AccessPorts
  refine ⟨fun r st el i s a l h => ?port, fun r st el i s a h hkind hsent hfirst hlines => into_arriveSend h hkind hsent hfirst hlines,
    fun r st el i s a l h => ?update, fun r st el s n rest hok => into_notifyTokenDeliver hok,
    fun r st el i s a c ad hok hhere honly hfault hops hslot hbeat had hbusy hrec htrap hfrozen =>
      into_lateFault hok ⟨hhere, honly⟩ hfault hops hslot hbeat had hbusy hrec htrap hfrozen,
    fun r ln s hr hinv hread hold hwcb hclean hpub hothers => translationInvalidated hr hinv hread hold hwcb hclean hpub hothers⟩
  case port =>
    intro key harr ev y c takes accepted refused hlanes hcur hother
    have hexec : exec ev s = .next (portRequest s key a) := (exec_externalPortRequest ..).trans (h.accStep_eq _)
    have haddr := addr_of_one hlanes hcur
    refine ⟨fun v hkind hopen => ?_, fun v hkind hseal => ?_, fun hkind hclear => ⟨fun hopen => ?_, fun n hn hcount => ?_⟩⟩
    · rw [portRequest_write h harr hkind, haddr, (sealsOver_eq_nil_iff ..).2 hopen, putAtPort_accepted h.holds hlanes hcur hother,
        harr.region] at hexec
      exact into_of_eq hexec
    · rw [portRequest_write h harr hkind, haddr, putAtPort_refused h.holds hlanes hcur hother
        ((sealsOver_eq_nil_iff ..).not.2 (not_not.2 hseal))] at hexec
      exact into_of_eq hexec
    · rw [portRequest_read h harr hkind (by rwa [haddr]) (by rw [haddr, (sealsOver_eq_nil_iff ..).2 hopen]; exact fun _ hn => by cases hn),
        haddr, (sealsOver_eq_nil_iff ..).2 hopen, readAtPort_refused h.holds hlanes hcur hother] at hexec
      exact into_of_eq hexec
    · rw [portRequest_read h harr hkind (by rwa [haddr]) (by rw [haddr, hn]; simpa using hcount),
        haddr, hn, readAtPort_taken h.holds hlanes hcur hother] at hexec
      exact into_of_eq hexec
  case update =>
    intro key ev y hkind hsent hlanes hcur hdue
    exact ⟨into_barrierUpdate_sealed h hkind hsent hlanes hcur hdue, fun hseal hfree hahead =>
      ⟨fun z => into_barrierUpdate_applied h hkind hsent hlanes hcur hdue hseal hfree hahead,
        into_barrierUpdate_refused h hkind hsent hlanes hcur hdue hseal hfree hahead,
        into_barrierUpdate_waits h hkind hsent hlanes hcur hdue hseal hfree hahead⟩⟩

end Sys2Proof.Claims
end
section
/-!
# Returns of loads (R198, R206, R207, R211, R218, R219)
-/
namespace Sys2Proof.Claims
open Sys2Proof.Machine

/-! ## Steps of loads -/

/-- The instructions whose data LOAD_DATA_RETURN brings. -/
def Returns (k : AccKind) : Prop := isLoad k = true ∨ k = .ldr ∨ ∃ o z, k = .atom o z

section
variable {s : State} {r st el i : Nat} {a : Access} {l : AccLane} (h : OnWay s r st el i a)
include h

theorem exec_loadReturn (hkind : Returns a.kind) : exec (.loadDataReturn r st el i) s = .next (loadReturn s (ekey r st el) a) := by
  refine (exec_loadDataReturn ..).trans ((h.accStep_eq _).trans (congrArg _ (if_pos ?_)))
  rcases hkind with hk | hk | ⟨o, z, hk⟩
  · rw [hk]; rfl
  · rw [hk]; rfl
  · rw [hk]; rfl

/-- A load whose lane in progress has no data looks for it in its space. -/
theorem loadReturn_ld (hkind : a.kind = .ld) (hlanes : a.lanes = [l]) (hcur : a.cur = 0) (hgot : l.got = none) :
    loadReturn s (ekey r st el) a =
      if a.space = 0 then withXlat s (ekey r st el) a fun s x => readLane s (ekey r st el) a x
      else if a.space = 1 ∧ ownTurn (getE s (ekey r st el)) a.id = true ∧ a.fired + 2 ≤ (getR s r).cycle then lanesRead s (ekey r st el) a
      else s := by
  unfold loadReturn
  dsimp only
  rw [lane_of_one hlanes hcur, hgot, if_neg (by simp [hlanes, hgot]), if_neg (by simp), hkind, h.keyRegion_eq]

/-! ## Data of the element's own scratchpad (R197, R198) -/

theorem into_spadRead (hkind : a.kind = .ld) (hspace : a.space = 1) (hfirst : Oldest (getE s (ekey r st el)) i a l) (hgot : l.got = none)
    (hdue : a.fired + 2 ≤ (getR s r).cycle) : Into (.loadDataReturn r st el i) s (modE s (ekey r st el) (becomes i { a with
      lanes := [{ l with got := some (BitVec.ofNat 128 (memVal (getE s (ekey r st el)).spad l.addr a.size)) }] })) := by
  obtain ⟨hlanes, hcur, hold⟩ := hfirst
  have hturn : ownTurn (getE s (ekey r st el)) a.id = true := h.holds.id_eq ▸ ownTurn_of_first hold
  refine into_of_eq ((exec_loadReturn h (.inl (by rw [hkind]; rfl))).trans (congrArg _ ?_))
  rw [loadReturn_ld h hkind hlanes hcur hgot, if_neg (by omega), if_pos ⟨hspace, hturn, hdue⟩, lanesRead, modAcc_eq h.holds, hlanes]
  simp [hgot, spadRead]

/-! ## Translation (R388, R391) -/

omit h in
theorem accXlat_of_lane {x : Xlat} (hlanes : a.lanes = [l]) (hcur : a.cur = 0) (hx : l.xlat = some x) :
    accXlat s (ekey r st el) a = .ok s x := by
  unfold accXlat
  dsimp only
  rw [lane_of_one hlanes hcur, hx]

theorem accXlat_of_tlb {x : Xlat} (hlanes : a.lanes = [l]) (hcur : a.cur = 0) (hnone : l.xlat = none)
    (hfind : (getE s (ekey r st el)).tlb.find? (fun y => xlatHit y (accReq (getR s r) a.kind).asid (accReq (getR s r) a.kind).owner l.addr) = some x)
    (hperm : permitted x.pte (accReq (getR s r) a.kind) = true) (hclass : paClass s (x.pa + (l.addr - x.va)) = .gddr) :
    accXlat s (ekey r st el) a = .ok s x := by
  unfold accXlat
  dsimp only
  rw [lane_of_one hlanes hcur, hnone, h.keyRegion_eq, addr_of_one hlanes hcur]
  dsimp only
  rw [hfind]
  dsimp only
  rw [show xlatCheck s x l.addr (accReq (getR s r) a.kind) = none by rw [xlatCheck, hperm, hclass]; rfl]

/-- Once it is translated, the access keeps its translation. -/
theorem withXlat_eq {x : Xlat} (hlanes : a.lanes = [l]) (hcur : a.cur = 0) (hx : accXlat s (ekey r st el) a = .ok s x)
    (f : State → Xlat → State) : withXlat s (ekey r st el) a f =
      f (modE s (ekey r st el) (becomes i { a with lanes := [{ l with xlat := some x }] })) x := by
  unfold withXlat
  rw [hx]
  dsimp only
  rw [modAcc_eq h.holds, setLane_of_one hlanes hcur]

theorem into_translation {x : Xlat} (hspace : a.space = 0) (hlanes : a.lanes = [l]) (hcur : a.cur = 0) (hnone : l.xlat = none)
    (hgot : l.got = none)
    (hfind : (getE s (ekey r st el)).tlb.find? (fun y => xlatHit y (accReq (getR s r) a.kind).asid (accReq (getR s r) a.kind).owner l.addr) = some x)
    (hperm : permitted x.pte (accReq (getR s r) a.kind) = true) (hclass : paClass s (x.pa + (l.addr - x.va)) = .gddr) :
    Into (.translationWalkComplete r st el i) s
      (modE s (ekey r st el) (becomes i { a with lanes := [{ l with xlat := some x }] })) := by
  refine into_of_eq ((exec_translationWalkComplete ..).trans ((h.accStep_eq _).trans (congrArg _ ?_)))
  have hlane := lane_of_one hlanes hcur
  rw [if_pos ⟨hspace, by rw [hlanes, hcur]; exact Nat.one_pos, hlane ▸ hnone, hlane ▸ hgot⟩,
    withXlat_eq h hlanes hcur (accXlat_of_tlb h hlanes hcur hnone hfind hperm hclass)]

/-! ## Data of a line (R206, R207) -/

/-- The access with the data of n bytes of a line at byte j. -/
def withLine (a : Access) (l : AccLane) (d : Line) (j : Nat) : Access :=
  { a with lanes := [{ l with looked := true, got := some ((d.extractLsb' (8 * j) (8 * a.size)).setWidth 128) }], cur := 1, asked := false }

omit h in
theorem ofNat_leVal_lineBytes (d : Line) (j n : Nat) :
    BitVec.ofNat 128 (leVal (lineBytes d j n)) = (d.extractLsb' (8 * j) (8 * n)).setWidth 128 := by
  rw [leVal_lineBytes, BitVec.ofNat_toNat]

/-- The state in which a translated load looks for its line: its lane has been looked up in the L1. -/
theorem looked_eq {x : Xlat} (hlanes : a.lanes = [l]) (hcur : a.cur = 0) (hx : l.xlat = some x) :
    modAcc (modE s (ekey r st el) (becomes i { a with lanes := [{ l with xlat := some x }] })) (ekey r st el) a.id
      (fun a => a.setLane fun l => { l with looked := true }) =
    modE s (ekey r st el) (becomes i { a with lanes := [{ l with looked := true }] }) := by
  have hsame : ({ a with lanes := [{ l with xlat := some x }] } : Access) = a := by rw [← hx, ← hlanes]
  rw [hsame, modAcc_becomes h.holds h.holds.id_eq, setLane_of_one hlanes hcur]

/-- The data of the lane in progress. -/
theorem laneDone_looked (hcur : a.cur = 0) (d : Line) (j : Nat) :
    laneDone (modE s (ekey r st el) (becomes i { a with lanes := [{ l with looked := true }] })) (ekey r st el) a.id
      (BitVec.ofNat 128 (leVal (lineBytes d j a.size))) = modE s (ekey r st el) (becomes i (withLine a l d j)) := by
  have hset := setLane_of_one (a := { a with lanes := [{ l with looked := true }] }) rfl hcur fun l =>
    { l with got := some ((d.extractLsb' (8 * j) (8 * a.size)).setWidth 128) }
  rw [laneDone, ofNat_leVal_lineBytes]
  refine (modAcc_becomes h.holds (b := { a with lanes := [{ l with looked := true }] }) h.holds.id_eq _).trans ?_
  rw [hset, hcur]
  rfl

omit h in
/-- No other region's buffer holds the line. -/
theorem otherHolder_eq_none {ln : Nat} (hnone : NoneElse s r ln) : otherHolder s r ln = none := by
  unfold otherHolder
  rw [Option.map_eq_none_iff, List.find?_eq_none]
  intro p hp htest
  simp only [Bool.and_eq_true, bne_iff_ne, ne_eq, beq_iff_eq] at htest
  rw [hnone p hp htest.1.1 htest.1.2] at htest
  exact Bool.false_ne_true htest.2

omit h in
/-- A line that the die's cistern holds, which no buffer covers, is read there (R206, R341). -/
theorem readLine_held {v : Via} {pkg : Bool} {tag : ReqTag} {c : CLine} (hclass : paClass s v.pa = .gddr) (hcached : v.uncached = false)
    (hdie : dieCaches v.plc (r / 16) = true) (hline : cLine s (r / 16) (lineNo v.pa) = some c) (hst : c.st ≠ .mm) (hwcb : (getR s r).wcb = [])
    (hnone : NoneElse s r (lineNo v.pa)) (hwell : lineBad s (lineNo v.pa) = none) : readLine s r v pkg tag = .done s c.data 0 none := by
  have hover : overlay (getR s r) (lineNo v.pa) c.data = c.data := by rw [overlay, hwcb]; rfl
  have hmm : (pkg && c.st == .mm) = false := by rw [beq_eq_false_iff_ne.2 hst, Bool.and_false]
  unfold readLine
  rw [hclass]
  dsimp only
  unfold readShared
  dsimp only
  rw [lineKey_of_gddr hclass, otherHolder_eq_none hnone, hcached, show dieOf r = r / 16 from rfl, hdie, hline]
  dsimp only
  rw [hmm, hover, hwell]
  rfl

/-- A translated load: the line is in the L1 of its element. -/
theorem readLane_l1 {x : Xlat} {d : CacheLine} (hlanes : a.lanes = [l]) (hcur : a.cur = 0) (hx : l.xlat = some x)
    (hclass : paClass s (x.pa + (l.addr - x.va)) = .gddr) (hlooked : l.looked = false) (hmt : pteMt x.pte = 0)
    (hfind : (getE s (ekey r st el)).l1.find? (fun c => c.line == (x.pa + (l.addr - x.va)) / 64) = some d) :
    readLane (modE s (ekey r st el) (becomes i { a with lanes := [{ l with xlat := some x }] })) (ekey r st el) a x =
      modE s (ekey r st el) (becomes i (withLine a l d.data ((x.pa + (l.addr - x.va)) % 64))) := by
  unfold readLane
  dsimp only
  rw [looked_eq h hlanes hcur hx, addr_of_one hlanes hcur, lane_of_one hlanes hcur,
    show paClass (modE s (ekey r st el) _) (viaOf x l.addr).pa = .gddr from hclass]
  dsimp only
  rw [hlooked, hmt, getE_modE]
  simp only [Bool.not_false, beq_self_eq_true, Bool.and_self, Bool.true_and]
  rw [show (becomes i _ (getE s (ekey r st el))).l1.find? (fun c => c.line == (viaOf x l.addr).pa / 64) = some d from hfind]
  exact laneDone_looked h hcur _ _

/-- A translated load that does not allocate: the line is in the cistern of its die. -/
theorem readLane_cistern {x : Xlat} {c : CLine} (hlanes : a.lanes = [l]) (hcur : a.cur = 0) (hx : l.xlat = some x)
    (hclass : paClass s (x.pa + (l.addr - x.va)) = .gddr) (hpolicy : a.policy = .cg) (hlooked : l.looked = true)
    (hdue : a.fired + 20 ≤ (getR s r).cycle) (hmt : pteMt x.pte = 0) (hdie : dieCaches x.plc (r / 16) = true)
    (hline : cLine s (r / 16) (lineNo (x.pa + (l.addr - x.va))) = some c) (hst : c.st ≠ .mm) (hwcb : (getR s r).wcb = [])
    (hnone : NoneElse s r (lineNo (x.pa + (l.addr - x.va)))) (hwell : lineBad s (lineNo (x.pa + (l.addr - x.va))) = none) :
    readLane (modE s (ekey r st el) (becomes i { a with lanes := [{ l with xlat := some x }] })) (ekey r st el) a x =
      modE s (ekey r st el) (becomes i (withLine a l c.data ((x.pa + (l.addr - x.va)) % 64))) := by
  have hread : ∀ f pkg tag, readLine (modE s (ekey r st el) f) r (viaOf x l.addr) pkg tag = .done (modE s (ekey r st el) f) c.data 0 none :=
    fun f pkg tag => readLine_held hclass (by rw [viaOf, hmt]; rfl) hdie hline hst hwcb hnone hwell
  have hnofind : ∀ (cs : List CacheLine) n, cs.find? (fun c => false && c.line == n) = none := fun cs n =>
    List.find?_eq_none.2 fun _ _ => by simp
  have hnofill : ∀ b c d : Bool, ((a.policy == .dflt || a.policy == .strm) && b && c && d) = false := fun b c d => by rw [hpolicy]; rfl
  unfold readLane
  dsimp only
  rw [looked_eq h hlanes hcur hx, addr_of_one hlanes hcur, lane_of_one hlanes hcur,
    show paClass (modE s (ekey r st el) _) (viaOf x l.addr).pa = .gddr from hclass]
  dsimp only
  rw [hlooked, Bool.not_true, Bool.false_and, hnofind, h.keyRegion_eq, getR_modE, if_neg (Nat.not_lt.2 hdue), hread]
  dsimp only
  rw [hnofill, if_neg Bool.false_ne_true]
  exact laneDone_looked h hcur _ _

/-- A translated load goes on with its line. -/
theorem exec_loadReturn_translated {x : Xlat} (hkind : a.kind = .ld) (hspace : a.space = 0) (hlanes : a.lanes = [l]) (hcur : a.cur = 0)
    (hgot : l.got = none) (hx : l.xlat = some x) : exec (.loadDataReturn r st el i) s =
      .next (readLane (modE s (ekey r st el) (becomes i { a with lanes := [{ l with xlat := some x }] })) (ekey r st el) a x) := by
  rw [exec_loadReturn h (.inl (by rw [hkind]; rfl)), loadReturn_ld h hkind hlanes hcur hgot, if_pos hspace,
    withXlat_eq h hlanes hcur (accXlat_of_lane hlanes hcur hx)]

end

end Sys2Proof.Claims
end
section
/-!
# Delivery of loads (R198, R211, R218, R219)
-/
namespace Sys2Proof.Claims
open Sys2Proof.Machine

/-! ## States that a delivery leaves -/

/-- A change of one element, and then of another in a way that leaves it. -/
theorem into_of_modE_id {i : Instr} {s : State} {k j : Nat} {f g : Elem → Elem} (hexec : exec i s = .next (modE (modE s k f) j g))
    (hg : ∀ e, g e = e) : Into i s (modE s k f) :=
  into_of_elems hexec (fun n => by
    by_cases hn : n = j
    · rw [hn, getE_modE, hg]
    · rw [getE_modE_other _ _ _ _ hn]) rfl

section
variable {s : State} {r st el i : Nat} {a : Access} {l : AccLane} (h : OnWay s r st el i a)
include h

theorem loadDue_eq : loadDue (ekey r st el) a = dueFrom st a := by
  unfold loadDue dueFrom
  rw [h.keySite_eq]
  simp only [Bool.not_eq_true']

/-- A load that has all its data is delivered when it is due and in order. -/
theorem loadReturn_deliver (hall : ∀ y ∈ a.lanes, y.got.isSome = true) (hdue : dueFrom st a ≤ (getR s r).cycle)
    (horder : inBeatOrder (getE s (ekey r st el)) a = true) : loadReturn s (ekey r st el) a = deliver s (ekey r st el) a := by
  unfold loadReturn
  dsimp only
  rw [if_pos (List.all_eq_true.2 hall), loadDue_eq h, h.keyRegion_eq, if_pos ⟨hdue, horder⟩]

omit h in
theorem inBeatOrder_of_reg {e : Elem} {n : Nat} (hdest : a.dest = .reg n) : inBeatOrder e a = true := by
  unfold inBeatOrder
  rw [hdest]

theorem inBeatOrder_of_first {k : Nat} (hfirst : ∀ b ∈ (getE s (ekey r st el)).accs, b.dest = .chan k → i ≤ b.id) (hdest : a.dest = .chan k) :
    inBeatOrder (getE s (ekey r st el)) a = true := by
  unfold inBeatOrder
  rw [hdest]
  refine List.all_eq_true.2 fun b hb => ?_
  by_cases hchan : b.dest = .chan k
  · rw [h.holds.id_eq, decide_eq_false (Nat.not_lt.2 (hfirst b hb hchan))]
    rfl
  · rw [beq_eq_false_iff_ne.2 hchan, Bool.and_false]
    rfl

/-- The element when a register has taken the data of a load. -/
def deliveredReg (i n : Nat) (v : Vec) (e : Elem) : Elem := unpend n { without i e with f := tset e.f n v }

omit h in
theorem deliver_reg {key n : Nat} (hid : a.id = i) (hdest : a.dest = .reg n) : deliver s key a =
    modE (modE s key (deliveredReg i n (loadValue (getE s key) a))) a.target fun e => countSeal e a.raised (· - 1) := by
  unfold deliver
  refine congrArg (fun t => modE t a.target fun e => countSeal e a.raised (· - 1)) (modE_congr ?_)
  dsimp only
  rw [hdest, hid]
  exact clearPend_eq ..

theorem deliver_chan {k : Nat} (hdest : a.dest = .chan k) : deliver s (ekey r st el) a =
    modE (modE s (ekey r st el) fun e => sendLoad (without i e) k a (loadValue e a) ((getR s r).cycle - 1)) a.target
      fun e => countSeal e a.raised (· - 1) := by
  unfold deliver
  dsimp only
  rw [h.keyRegion_eq, h.holds.id_eq, hdest]
  rfl

omit h in
/-- A load of one address delivers what that address gave. -/
theorem loadValue_of_one {e : Elem} {v : Vec} (hkind : a.kind ≠ .ldg) (hlanes : a.lanes = [l]) (hgot : l.got = some v) : loadValue e a = v := by
  unfold loadValue
  split
  next hk => exact absurd hk hkind
  next => rw [hlanes]; exact congrArg (Option.getD · 0) hgot

theorem into_delivered_reg {n : Nat} (hkind : Returns a.kind) (hall : ∀ y ∈ a.lanes, y.got.isSome = true) (hraised : a.raised = [])
    (hdue : dueFrom st a ≤ (getR s r).cycle) (hdest : a.dest = .reg n) : Into (.loadDataReturn r st el i) s
      (modE s (ekey r st el) (deliveredReg i n (loadValue (getE s (ekey r st el)) a))) := by
  refine into_of_modE_id (j := a.target) (g := fun e => countSeal e a.raised (· - 1)) ?_ fun e => by rw [hraised]; rfl
  rw [exec_loadReturn h hkind, loadReturn_deliver h hall hdue (inBeatOrder_of_reg hdest), deliver_reg h.holds.id_eq hdest]

/-- A load to a channel sends its token (R206). -/
theorem into_delivered_chan {k : Nat} {v : Vec} (hkind : Returns a.kind) (hnot : a.kind ≠ .ldg) (hlanes : a.lanes = [l])
    (hgot : l.got = some v) (hraised : a.raised = []) (hdue : dueFrom st a ≤ (getR s r).cycle) (hdest : a.dest = .chan k)
    (hfirst : ∀ b ∈ (getE s (ekey r st el)).accs, b.dest = .chan k → i ≤ b.id) :
    ∃ o : OutTok, Into (.loadDataReturn r st el i) s (modE s (ekey r st el) fun e => { without i e with out := e.out ++ [o] }) ∧
      o.chan = k ∧ o.tok.pay = v ∧ o.tok.side = 0#6 ++ a.tag.extractLsb' 5 2 ++ 0#3 ++ a.tag.extractLsb' 0 5 ∧ o.bind = a.bind ∧
      o.sent = (getR s r).cycle - 1 ∧ o.wait = none ∧ o.recs = a.recs ∧ o.sample = a.sample := by
  have hall : ∀ y ∈ a.lanes, y.got.isSome = true := by rw [hlanes]; simp [hgot]
  refine ⟨⟨k, taggedToken a.tag v, a.bind, if a.bind = bindOf (getE s (ekey r st el)) k then liveRoutes (getE s (ekey r st el)) k
    else allRoutes a.bind, (getR s r).cycle - 1, none, a.recs, a.sample⟩, ?_, rfl, rfl, mkSide_eq_fields .., rfl, rfl, rfl, rfl, rfl⟩
  have hexec : exec (.loadDataReturn r st el i) s = .next (modE (modE s (ekey r st el) fun e =>
      sendLoad (without i e) k a (loadValue e a) ((getR s r).cycle - 1)) a.target fun e => countSeal e a.raised (· - 1)) := by
    rw [exec_loadReturn h hkind, loadReturn_deliver h hall hdue (inBeatOrder_of_first h hfirst hdest), deliver_chan h hdest]
  have hsame : (modE s (ekey r st el) fun e => sendLoad (without i e) k a (loadValue e a) ((getR s r).cycle - 1)) = modE s (ekey r st el)
      fun e => { without i e with out := e.out ++ [⟨k, taggedToken a.tag v, a.bind, if a.bind = bindOf (getE s (ekey r st el)) k then
        liveRoutes (getE s (ekey r st el)) k else allRoutes a.bind, (getR s r).cycle - 1, none, a.recs, a.sample⟩] } := by
    refine modE_congr ?_
    rw [loadValue_of_one hnot hlanes hgot]
    rfl
  rw [hsame] at hexec
  exact into_of_modE_id hexec fun e => by rw [hraised]; rfl

/-- A remote load lowers the counts of the seals that it raised (R211). -/
theorem exec_loadReturn_lowers {n b : Nat} (hkind : Returns a.kind) (hall : ∀ y ∈ a.lanes, y.got.isSome = true) (hraised : a.raised = [n])
    (hdest : a.dest = .reg b) (hdue : dueFrom st a ≤ (getR s r).cycle) (hother : a.target ≠ ekey r st el) :
    let y := getE s a.target
    ∃ t, exec (.loadDataReturn r st el i) s = .next t ∧
      getE t a.target = { y with seals := tset y.seals n { tget y.seals n {} with count := (tget y.seals n {}).count - 1 } } := by
  refine ⟨_, (exec_loadReturn h hkind).trans (congrArg _ ((loadReturn_deliver h hall hdue (inBeatOrder_of_reg hdest)).trans
    (deliver_reg h.holds.id_eq hdest))), ?_⟩
  rw [getE_modE, getE_modE_other _ _ _ _ hother, hraised]
  rfl

end

/-! ## LDG (R219) -/

/-- One lane of an LDG over the register's value. -/
def gathered (size : Nat) (v : Vec) (l : AccLane) : Vec :=
  BitVec.ofNat 128 (putField v.toNat (8 * size * (l.lane + 1) - 1) (8 * size * l.lane) (l.got.getD 0).toNat)

/-- The lanes of a register with one of them replaced. -/
theorem lane_gathered {size : Nat} (hsize : 0 < size) (v : Vec) (l : AccLane) {j : Nat} (hj : 8 * size * (j + 1) ≤ 128) :
    lane (8 * size) (gathered size v l) j = if j = l.lane then lane (8 * size) (l.got.getD 0) 0 else lane (8 * size) v j := by
  have hw : 0 < 8 * size := by omega
  have hend : ∀ n, 8 * size * (n + 1) = 8 * size * n + 8 * size := fun n => Nat.mul_succ ..
  refine BitVec.eq_of_getLsbD_eq fun b hb => ?_
  have hbit : (lane (8 * size) (gathered size v l) j).getLsbD b =
      (putField v.toNat (8 * size * (l.lane + 1) - 1) (8 * size * l.lane) (l.got.getD 0).toNat).testBit (8 * size * j + b) := by
    rw [lane, BitVec.getLsbD_extractLsb', gathered, BitVec.getLsbD_ofNat, decide_eq_true hb,
      decide_eq_true (by rw [hend] at hj; omega : 8 * size * j + b < 128), Bool.true_and, Bool.true_and]
  rw [hbit, testBit_putField (by rw [hend]; omega)]
  by_cases hlane : j = l.lane
  · rw [if_pos hlane, if_pos (by rw [hend, hlane]; omega), hlane, Nat.add_sub_cancel_left, lane, BitVec.getLsbD_extractLsb', decide_eq_true hb,
      Bool.true_and, Nat.mul_zero, Nat.zero_add]
    rfl
  · have hout : ¬ (8 * size * l.lane ≤ 8 * size * j + b ∧ 8 * size * j + b ≤ 8 * size * (l.lane + 1) - 1) := by
      rcases Nat.lt_or_gt_of_ne hlane with hlt | hgt
      · have := Nat.mul_le_mul_left (8 * size) (Nat.succ_le_of_lt hlt)
        rw [Nat.succ_eq_add_one, hend] at this
        omega
      · have := Nat.mul_le_mul_left (8 * size) (Nat.succ_le_of_lt hgt)
        rw [Nat.succ_eq_add_one, hend] at this
        rw [hend]
        omega
    rw [if_neg hlane, if_neg hout, lane, BitVec.getLsbD_extractLsb', decide_eq_true hb, Bool.true_and]
    rfl

/-- Lanes in order that have their data fill the register. -/
theorem lane_foldl_gathered {size : Nat} (hsize : 0 < size) (v : Nat → Vec) (old : Vec) (ls : List AccLane)
    (hfit : 8 * size * ls.length ≤ 128) (hls : ∀ (j : Nat) (l : AccLane), ls[j]? = some l → l.lane = j ∧ l.got = some (v j)) {j : Nat}
    (hj : j < ls.length) : lane (8 * size) (ls.foldl (gathered size) old) j = lane (8 * size) (v j) 0 := by
  induction ls using List.reverseRecOn with
  | nil => cases hj
  | append_singleton xs x ih =>
    rw [List.length_append, List.length_singleton] at hfit hj
    obtain ⟨hlane, hgot⟩ := hls xs.length x (by rw [List.getElem?_append_right (Nat.le_refl _), Nat.sub_self]; rfl)
    have hfits : ∀ n ≤ xs.length + 1, 8 * size * n ≤ 128 := fun n hn => Nat.le_trans (Nat.mul_le_mul_left _ hn) hfit
    rw [List.foldl_append, List.foldl_cons, List.foldl_nil, lane_gathered hsize _ _ (hfits (j + 1) hj), hlane, hgot]
    split
    next hlast => rw [hlast]; rfl
    next hne =>
      exact ih (hfits _ (by omega)) (fun k l hk => hls k l (by
        rw [List.getElem?_append_left (List.getElem?_eq_some_iff.1 hk).1]
        exact hk)) (by omega)

/-! ## Full-empty bits (R199) -/

theorem fullBit_setFull (e : Elem) (addr : Nat) (v : Bool) : FullBit (addr / 16) v e.full (setFull e addr v).full := fun x => by
  unfold setFull
  cases v with
  | false => by_cases hx : x = addr / 16 <;> simp [hx]
  | true =>
    by_cases hx : x = addr / 16
    · simp [hx]
    · simp only [if_true, List.mem_append, List.mem_filter, List.mem_singleton, hx, if_false, or_false, bne_iff_ne, ne_eq, not_false_iff,
        and_true, decide_eq_true_eq]
      exact ⟨fun hin => hin.elim And.left And.left, fun hin => (Nat.lt_or_gt_of_ne hx).imp (⟨hin, ·⟩) (⟨hin, ·⟩)⟩

/-- A full granule that stays full. -/
theorem fullBit_same {g : Nat} {l : List Nat} (h : g ∈ l) : FullBit g true l l := fun x => by
  by_cases hx : x = g <;> simp [hx, h]

section
variable {s : State} {r st el i : Nat} {a : Access} {l : AccLane} (h : OnWay s r st el i a)
include h

theorem into_gathered {n : Nat} {v : Nat → Vec} (hkind : a.kind = .ldg) (hdest : a.dest = .reg n) (hsize : a.size ∈ [1, 2, 4, 8])
    (hlen : a.lanes.length = 16 / a.size) (hls : ∀ (j : Nat) (l : AccLane), a.lanes[j]? = some l → l.lane = j ∧ l.got = some (v j))
    (hraised : a.raised = []) (hdue : dueFrom st a ≤ (getR s r).cycle) :
    ∃ w, Into (.loadDataReturn r st el i) s (modE s (ekey r st el) fun e => unpend n { without i e with f := tset e.f n w }) ∧
      ∀ j < 16 / a.size, lane (8 * a.size) w j = lane (8 * a.size) (v j) 0 := by
  have hall : ∀ y ∈ a.lanes, y.got.isSome = true := fun y hy => by
    obtain ⟨j, hj⟩ := List.mem_iff_getElem?.1 hy
    rw [(hls j y hj).2]
    rfl
  have hbits : 0 < a.size ∧ 8 * a.size * a.lanes.length ≤ 128 := by
    rw [hlen]
    simp only [List.mem_cons, List.not_mem_nil, or_false] at hsize
    rcases hsize with hs | hs | hs | hs <;> rw [hs] <;> decide
  have hvalue : loadValue (getE s (ekey r st el)) a = a.lanes.foldl (gathered a.size) (tget (getE s (ekey r st el)).f n 0) := by
    unfold loadValue
    rw [hkind, hdest]
    rfl
  refine ⟨_, into_delivered_reg h (.inl (by rw [hkind]; rfl)) hall hraised hdue hdest, fun j hj => ?_⟩
  rw [hvalue]
  exact lane_foldl_gathered hbits.1 v _ _ hbits.2 hls (hlen ▸ hj)

/-! ## LDF (R218) -/

/-- An LDF of the own scratchpad whose turn has come (R218). -/
theorem exec_ldfComplete_turn {clr : Bool} (hkind : a.kind = .ldf clr) (hspace : a.space = 1) (hfirst : Oldest (getE s (ekey r st el)) i a l)
    (hskip : l.skip = false) (hdue : a.fired + 3 ≤ (getR s r).cycle) : exec (.ldfComplete r st el i) s = .next
      (if isFull (getE s (ekey r st el)) l.addr = true then
        deliver (if clr then modE s (ekey r st el) fun e => setFull e l.addr false else s) (ekey r st el)
          (a.setLane fun l' => { l' with got := some (spadRead (getE s (ekey r st el)) l.addr 16) })
       else modAcc s (ekey r st el) a.id fun a => { a with parked := true }) := by
  obtain ⟨hlanes, hcur, hold⟩ := hfirst
  have hturn : ownTurn (getE s (ekey r st el)) a.id = true := h.holds.id_eq ▸ ownTurn_of_first hold
  have hloadDue : loadDue (ekey r st el) a = a.fired + 3 := by rw [loadDue, if_pos (.inr hspace)]
  refine (exec_ldfComplete ..).trans ((h.accStep_eq _).trans (congrArg _ ?_))
  simp only [hkind]
  rw [lane_of_one hlanes hcur, if_neg (by rw [hskip]; exact Bool.false_ne_true), hturn, Bool.or_true, if_neg (by simp; omega),
    addr_of_one hlanes hcur, waitsBehind_of_first h.holds.id_eq hold, hloadDue]
  by_cases hfull : isFull (getE s (ekey r st el)) l.addr = true
  · rw [if_pos ⟨hfull, rfl⟩, if_neg (by omega), if_pos hfull]
  · rw [if_neg (fun hboth => hfull hboth.1), if_neg hfull]

theorem into_ldf_full {clr : Bool} {n : Nat} (hkind : a.kind = .ldf clr) (hspace : a.space = 1) (hfirst : Oldest (getE s (ekey r st el)) i a l)
    (hskip : l.skip = false) (hraised : a.raised = []) (hdest : a.dest = .reg n) (hdue : a.fired + 3 ≤ (getR s r).cycle)
    (hfull : l.addr / 16 ∈ (getE s (ekey r st el)).full) :
    ∃ fl, FullBit (l.addr / 16) (!clr) (getE s (ekey r st el)).full fl ∧ Into (.ldfComplete r st el i) s (modE s (ekey r st el) fun e =>
      unpend n { without i e with f := tset e.f n (BitVec.ofNat 128 (memVal e.spad l.addr 16)), full := fl }) := by
  have hexec := exec_ldfComplete_turn h hkind hspace hfirst hskip hdue
  have hf : isFull (getE s (ekey r st el)) l.addr = true := List.contains_iff_mem.2 hfull
  rw [if_pos hf, setLane_of_one hfirst.1 hfirst.2.1] at hexec
  generalize hb : { a with lanes := [{ l with got := some (spadRead (getE s (ekey r st el)) l.addr 16) }] } = b at hexec
  have hid : b.id = i := hb ▸ h.holds.id_eq
  have hreg : b.dest = .reg n := hb ▸ hdest
  have hseals : b.raised = [] := hb ▸ hraised
  have hvalue : ∀ e, loadValue e b = BitVec.ofNat 128 (memVal (getE s (ekey r st el)).spad l.addr 16) := fun e =>
    loadValue_of_one (by rw [← hb, hkind]; simp) (congrArg Access.lanes hb.symm) rfl
  rw [deliver_reg hid hreg] at hexec
  simp only [hvalue, hseals] at hexec
  cases clr with
  | false =>
    exact ⟨_, fullBit_same hfull, into_of_modE_id (hexec.trans (congrArg (fun t => Host.Outcome.next (modE t _ _)) (modE_congr rfl)))
      fun _ => rfl⟩
  | true =>
    rw [if_pos rfl, modE_modE] at hexec
    exact ⟨_, fullBit_setFull (getE s (ekey r st el)) l.addr false,
      into_of_modE_id (hexec.trans (congrArg (fun t => Host.Outcome.next (modE t _ _)) (modE_congr rfl))) fun _ => rfl⟩

theorem into_ldf_waits {clr : Bool} (hkind : a.kind = .ldf clr) (hspace : a.space = 1) (hfirst : Oldest (getE s (ekey r st el)) i a l)
    (hskip : l.skip = false) (hdue : a.fired + 3 ≤ (getR s r).cycle) (hfull : l.addr / 16 ∉ (getE s (ekey r st el)).full) :
    Into (.ldfComplete r st el i) s (modE s (ekey r st el) (becomes i { a with parked := true })) :=
  into_of_eq ((exec_ldfComplete_turn h hkind hspace hfirst hskip hdue).trans
    (congrArg _ ((if_neg (List.contains_iff_mem.not.2 hfull)).trans (modAcc_eq h.holds _))))

end

/-- Settles O38: an access is translated, takes its data where it stands, and delivers it when it is due. -/
theorem accessReturns : Obligations.AccessReturns := by
  unfold Obligations.AccessReturns
  refine ⟨fun r st el i s a l x h hspace hlanes hcur hnone hgot => into_translation h hspace hlanes hcur hnone hgot,
    fun r st el i s a l h => into_spadRead h, fun r st el i s a l x d h => ?line, fun r st el i s a l v h => ?one,
    fun r st el i s a n v h => into_gathered h, fun r st el i s a l n b h => ?lowers, fun r st el i s a l clr n h => ?ldf⟩
  case line =>
    intro key e pa gets hkind hspace hlanes hcur hgot hx hclass hsize hin
    have hexec := exec_loadReturn_translated h hkind hspace hlanes hcur hgot hx
    refine ⟨fun hlooked hmt hfind => into_of_eq ?_, fun c hpolicy hlooked hdue hmt hdie hline hst hwcb hnone hwell => into_of_eq ?_⟩
    · rw [hexec, readLane_l1 h hlanes hcur hx hclass hlooked hmt hfind]
      rfl
    · rw [hexec, readLane_cistern h hlanes hcur hx hclass hpolicy hlooked hdue hmt hdie hline hst hwcb hnone hwell]
      rfl
  case one =>
    intro key e hkind hlanes hgot hraised hdue
    have hreturns : Returns a.kind ∧ a.kind ≠ .ldg := by
      rcases hkind with hk | hk | ⟨o, z, hk⟩
      · exact ⟨.inl (by rw [hk]; rfl), by rw [hk]; simp⟩
      · exact ⟨.inr (.inl hk), by rw [hk]; simp⟩
      · exact ⟨.inr (.inr ⟨o, z, hk⟩), by rw [hk]; simp⟩
    refine ⟨fun n hdest => ?_, fun k hdest hfirst =>
      into_delivered_chan h hreturns.1 hreturns.2 hlanes hgot hraised hdue hdest hfirst⟩
    have hinto := into_delivered_reg h hreturns.1 (by rw [hlanes]; simp [hgot]) hraised hdue hdest
    rwa [loadValue_of_one hreturns.2 hlanes hgot] at hinto
  case lowers =>
    intro key y hkind hlanes hgot hraised hdest hdue hother
    exact exec_loadReturn_lowers h (.inr (.inl hkind)) (by rw [hlanes]; simpa using hgot) hraised hdest hdue hother
  case ldf =>
    intro key e hkind hspace hfirst hskip hraised hdest hdue
    exact ⟨into_ldf_full h hkind hspace hfirst hskip hraised hdest hdue, into_ldf_waits h hkind hspace hfirst hskip hdue⟩

end Sys2Proof.Claims
end
section
/-!
# Writes to scratchpads (R197, R198, R218, R220, R395, R396)
-/
namespace Sys2Proof.Claims
open Sys2Proof.Machine

/-! ## What is written -/

theorem laneBytes_st {a : Access} {l : AccLane} (hkind : a.kind = .st) (hsize : a.size = 16) : laneBytes a l = bytesOf 16 a.data.toNat := by
  unfold laneBytes
  rw [hkind, hsize]

/-- A store of 16 bytes to one address. -/
theorem spadStore_one {a : Access} {l : AccLane} (hkind : a.kind = .st) (hsize : a.size = 16) (hlanes : a.lanes = [l]) (hskip : l.skip = false)
    (e : Elem) : spadStore e a = { e with spad := memWrite e.spad l.addr (bytesOf 16 a.data.toNat) } := by
  have hvalue : leVal (laneBytes a l) = a.data.toNat := by
    rw [laneBytes_st hkind hsize, leVal_bytesOf]
    exact Nat.mod_eq_of_lt a.data.isLt
  rw [spadStore, hlanes, List.foldl_cons, List.foldl_nil, if_neg (by rw [hskip]; exact Bool.false_ne_true), hvalue, spadWrite, hsize]

/-- An atomic of an access, whose operands are the lanes of its data (R220), as a function of words (R86). -/
theorem atomApply_lanes {a : Access} {o z n : Nat} (ho : o < 10) (hn : n = if z = 0 then 4 else 8) (old : BitVec (8 * n)) :
    atomApply o z old.toNat (atomV a z) (atomC a z) =
      (atomicResult (BitVec.ofNat 4 o) old (lane (8 * n) a.data 0) (lane (8 * n) a.data 1)).toNat := by
  have hw : 8 * n = if z = 0 then 32 else 64 := by rw [hn]; split <;> rfl
  have hv : ∀ j, (if z = 0 then laneOf 32 a.data.toNat j else laneOf 64 a.data.toNat j) = (lane (8 * n) a.data j).toNat := fun j => by
    rw [← laneOf_toNat, hw]
    split <;> rfl
  have hop : (BitVec.ofNat 4 o).toNat = o := by rw [BitVec.toNat_ofNat, Nat.mod_eq_of_lt (by omega)]
  have happly := atomApply_eq hw (BitVec.ofNat 4 o) old (lane (8 * n) a.data 0) (lane (8 * n) a.data 1)
    (Nat.mod_eq_of_lt (BitVec.isLt _)) (Nat.mod_eq_of_lt (BitVec.isLt _))
  rwa [hop, ← hv, ← hv] at happly

/-- Whether the turn of a write to the element's own scratchpad has come (R197, R198). -/
def ownWrites (s : State) (key : Nat) (a : Access) : Bool :=
  a.space == 1 && decide (a.fired + 2 ≤ (getR s (keyRegion key)).cycle) && ownTurn (getE s key) a.id

section
variable {s : State} {key : Nat} {a : Access}

theorem writePerform_st (hkind : a.kind = .st) : writePerform s key a =
    if a.space = 0 then globalStore s key a
    else if ownWrites s key a then modE (dropAcc s key a.id) key fun e => spadStore e a
    else if a.space = 2 && accLands s key a then land s key a fun e => spadStore e a
    else s := by
  unfold writePerform
  rw [hkind]
  rfl

theorem writePerform_feset {v : Bool} (hkind : a.kind = .feset v) : writePerform s key a =
    if ownWrites s key a then modE (dropAcc s key a.id) key fun e => setFull e a.addr v
    else if a.space = 2 && accLands s key a then land s key a fun e => setFull e a.addr v
    else s := by
  unfold writePerform
  rw [hkind]
  rfl

theorem writePerform_atom {o z : Nat} (hkind : a.kind = .atom o z) (hown : ownWrites s key a = true) (hgot : a.lane.got = none) :
    writePerform s key a =
      modE (modAcc s key a.id fun b => b.setLane fun l =>
          { l with got := some (BitVec.ofNat 128 (spadRead (getE s key) a.addr a.size).toNat) }) key
        fun e => spadWrite e a.addr a.size (atomApply o z (spadRead (getE s key) a.addr a.size).toNat (atomV a z) (atomC a z)) := by
  unfold writePerform
  rw [hkind]
  exact if_pos ⟨hown, hgot⟩

theorem writePerform_tsync (hkind : a.kind = .tsync)
    (hlines : ∀ ln ∈ (getE s key).touched, lineAt s (keyRegion key) ln 2 = true) :
    writePerform s key a = if a.fired + 20 ≤ (getR s (keyRegion key)).cycle then dropAcc s key a.id else s := by
  have hall : (getE s key).touched.find? (fun ln => !lineAt s (keyRegion key) ln 2) = none :=
    List.find?_eq_none.2 fun ln hln => by rw [hlines ln hln]; exact Bool.false_ne_true
  unfold writePerform
  rw [hkind]
  dsimp only
  rw [hall]

end

section
variable {s : State} {r st el i : Nat} {a : Access} {l : AccLane} (h : OnWay s r st el i a)
include h

theorem exec_write : exec (.writePerformed r (.elem (ekey r st el)) i) s = .next (writePerform s (ekey r st el) a) := by
  have hunit := h.unit
  simp only [elemOk, Bool.and_eq_true] at hunit
  obtain ⟨⟨hregion, hsite⟩, -⟩ := hunit
  rw [exec_writePerformed]
  unfold execWritePerformed withUnit
  rw [if_pos (by
    dsimp only
    rw [h.keyRegion_eq, h.keySite_eq, hsite, beq_self_eq_true, Bool.and_true, Bool.and_true]
    exact hregion)]
  dsimp only
  rw [h.findAcc_eq]
  dsimp only
  rw [h.sound]
  rfl

/-! ## The element's own scratchpad (R197, R198) -/

section
variable (hspace : a.space = 1) (hfirst : Oldest (getE s (ekey r st el)) i a l) (hdue : a.fired + 2 ≤ (getR s r).cycle)
include hspace hfirst hdue

theorem ownWrites_first : ownWrites s (ekey r st el) a = true := by
  rw [ownWrites, h.keyRegion_eq, hspace, decide_eq_true hdue, ownTurn_of_first (h.holds.id_eq ▸ hfirst.2.2)]
  rfl

theorem into_spadStore (hkind : a.kind = .st) (hsize : a.size = 16) (hskip : l.skip = false) :
    Into (.writePerformed r (.elem (ekey r st el)) i) s (modE s (ekey r st el) fun e =>
      { without i e with spad := memWrite e.spad l.addr (bytesOf 16 a.data.toNat) }) := by
  refine into_of_eq ((exec_write h).trans (congrArg _ ?_))
  rw [writePerform_st hkind, if_neg (by omega), if_pos (ownWrites_first h hspace hfirst hdue), dropAcc_eq, modE_modE, h.holds.id_eq]
  exact modE_congr (spadStore_one hkind hsize hfirst.1 hskip _)

theorem into_feset {v : Bool} (hkind : a.kind = .feset v) : ∃ fl, FullBit (l.addr / 16) v (getE s (ekey r st el)).full fl ∧
    Into (.writePerformed r (.elem (ekey r st el)) i) s (modE s (ekey r st el) fun e => { without i e with full := fl }) := by
  refine ⟨_, fullBit_setFull (getE s (ekey r st el)) l.addr v, into_of_eq ((exec_write h).trans (congrArg _ ?_))⟩
  rw [writePerform_feset hkind, if_pos (ownWrites_first h hspace hfirst hdue), dropAcc_eq, modE_modE, h.holds.id_eq,
    addr_of_one hfirst.1 hfirst.2.1]
  exact modE_congr rfl

/-- An ATOM of the own scratchpad replaces its word and keeps the old one (R220). -/
theorem into_atom {o z : Nat} (hkind : a.kind = .atom o z) (ho : o < 10) (hgot : l.got = none) :
    let n := if z = 0 then 4 else 8
    a.size = n → let old := BitVec.ofNat (8 * n) (memVal (getE s (ekey r st el)).spad l.addr n)
      let new := atomicResult (BitVec.ofNat 4 o) old (lane (8 * n) a.data 0) (lane (8 * n) a.data 1)
      Into (.writePerformed r (.elem (ekey r st el)) i) s (modE s (ekey r st el) fun e =>
        { becomes i { a with lanes := [{ l with got := some (old.setWidth 128) }] } e with
          spad := memWrite e.spad l.addr (bytesOf n new.toNat) }) := by
  intro n hsize old new
  have hn : n ≤ 16 := by simp only [n]; split <;> omega
  have hold : (spadRead (getE s (ekey r st el)) l.addr n).toNat = old.toNat := by
    have hlt : memVal (getE s (ekey r st el)).spad l.addr n < 2 ^ (8 * n) := by
      rw [memVal, memBytes_eq_bytesOf fun _ hi => (byteAt_memVal _ _ hi).symm, leVal_bytesOf]
      exact Nat.mod_lt _ (Nat.two_pow_pos _)
    have hle : 2 ^ (8 * n) ≤ 2 ^ 128 := Nat.pow_le_pow_right (by decide) (by omega)
    rw [spadRead, BitVec.toNat_ofNat, BitVec.toNat_ofNat, Nat.mod_eq_of_lt hlt, Nat.mod_eq_of_lt (Nat.lt_of_lt_of_le hlt hle)]
  have hkeep : BitVec.ofNat 128 old.toNat = old.setWidth 128 := BitVec.ofNat_toNat ..
  have hperform := writePerform_atom hkind (ownWrites_first h hspace hfirst hdue) (by rw [lane_of_one hfirst.1 hfirst.2.1, hgot])
  rw [addr_of_one hfirst.1 hfirst.2.1, hsize, hold, hkeep, atomApply_lanes (n := n) ho rfl, modAcc_eq h.holds, modE_modE,
    setLane_of_one hfirst.1 hfirst.2.1] at hperform
  exact into_of_eq ((exec_write h).trans (congrArg _ hperform))

end

/-! ## A scratchpad of another element (R197, R210) -/

section
variable (hlanes : a.lanes = [l]) (hcur : a.cur = 0) (hlands : Lands s r (ekey r st el) a l)
include hlanes hcur hlands

omit h in
theorem accLands_of_lands : accLands s (ekey r st el) a = true := by
  obtain ⟨n, hn, hdue⟩ := hlands.accepted
  obtain ⟨x, rest, hlandings, hsrc, haddr⟩ := hlands.first
  unfold accLands mayLand
  rw [hn]
  dsimp only
  rw [hlands.region, decide_eq_true hdue, hlands.owner, hlandings, addr_of_one hlanes hcur]
  simp [hsrc, haddr]

omit hlands in
/-- A write that leaves the port's order, and is made. -/
theorem land_eq (f : Elem → Elem) : land s (ekey r st el) a f =
    modE (modE s a.target fun e => f (landedOff (ekey r st el) i l.addr e)) (ekey r st el) (without i) := by
  rw [land, addr_of_one hlanes hcur, h.holds.id_eq]
  rfl

omit h hlanes hcur in
theorem ownWrites_remote : ¬ ownWrites s (ekey r st el) a = true := by
  rw [ownWrites, hlands.space]
  exact Bool.false_ne_true

omit h in
theorem remote_lands : (decide (a.space = 2) && accLands s (ekey r st el) a) = true := by
  rw [accLands_of_lands hlanes hcur hlands, hlands.space]
  rfl

theorem into_store_lands (hkind : a.kind = .st) (hsize : a.size = 16) (hskip : l.skip = false) :
    Into (.writePerformed r (.elem (ekey r st el)) i) s (modE (modE s a.target fun e =>
      { landedOff (ekey r st el) i l.addr e with spad := memWrite e.spad l.addr (bytesOf 16 a.data.toNat) }) (ekey r st el) (without i)) := by
  refine into_of_eq ((exec_write h).trans (congrArg _ ?_))
  rw [writePerform_st hkind, if_neg (by rw [hlands.space]; decide), if_neg (ownWrites_remote hlands),
    if_pos (remote_lands hlanes hcur hlands), land_eq h hlanes hcur]
  exact congrArg (fun t => modE t _ _) (modE_congr (spadStore_one hkind hsize hlanes hskip _))

theorem into_feset_lands {v : Bool} (hkind : a.kind = .feset v) : ∃ fl, FullBit (l.addr / 16) v (getE s a.target).full fl ∧
    Into (.writePerformed r (.elem (ekey r st el)) i) s
      (modE (modE s a.target fun e => { landedOff (ekey r st el) i l.addr e with full := fl }) (ekey r st el) (without i)) := by
  refine ⟨_, fullBit_setFull (getE s a.target) l.addr v, into_of_eq ((exec_write h).trans (congrArg _ ?_))⟩
  rw [writePerform_feset hkind, if_neg (ownWrites_remote hlands), if_pos (remote_lands hlanes hcur hlands), addr_of_one hlanes hcur,
    land_eq h hlanes hcur]
  exact congrArg (fun t => modE t _ _) (modE_congr rfl)

end

/-! ## STF (R218) -/

/-- An STF whose turn has come. -/
theorem exec_stf_turn (hkind : a.kind = .stf) (hlanes : a.lanes = [l]) (hcur : a.cur = 0)
    (hold : ∀ b ∈ (getE s (ekey r st el)).accs, i ≤ b.id)
    (hturn : a.parked = true ∨ (if a.space = 1 then decide (a.fired + 2 ≤ (getR s r).cycle) && ownTurn (getE s (ekey r st el)) a.id
      else accLands s (ekey r st el) a) = true) : exec (.stfComplete r st el i) s = .next
      (if isFull (getE s a.target) l.addr then
        if a.parked then s
        else modAcc (landed s a.target (.acc (ekey r st el) i) l.addr id) (ekey r st el) a.id fun a => { a with parked := true }
      else if a.parked && isSealed (getE s a.target) l.addr then faultAcc s (ekey r st el) a.id 0x07 l.addr
      else land s (ekey r st el) a fun e => setFull (spadWrite e l.addr 16 a.data.toNat) l.addr true) := by
  refine (exec_stfComplete ..).trans ((h.accStep_eq _).trans (congrArg _ ?_))
  dsimp only
  rw [hkind]
  dsimp only
  rw [if_neg (by simp only [Bool.not_eq_true', Bool.or_eq_false_iff]; rintro ⟨hp, ht⟩; simp_all), addr_of_one hlanes hcur,
    waitsBehind_of_first h.holds.id_eq hold, Bool.or_false, h.holds.id_eq]

/-- It is written where its granule is empty and no seal has come over it. -/
theorem exec_stf_empty (hkind : a.kind = .stf) (hlanes : a.lanes = [l]) (hcur : a.cur = 0)
    (hold : ∀ b ∈ (getE s (ekey r st el)).accs, i ≤ b.id)
    (hturn : a.parked = true ∨ (if a.space = 1 then decide (a.fired + 2 ≤ (getR s r).cycle) && ownTurn (getE s (ekey r st el)) a.id
      else accLands s (ekey r st el) a) = true) (hempty : l.addr / 16 ∉ (getE s a.target).full)
    (hseal : a.parked = false ∨ ¬ inSeal (getE s a.target) l.addr) : exec (.stfComplete r st el i) s = .next
      (modE (modE s a.target fun e => { landedOff (ekey r st el) i l.addr e with
        spad := memWrite e.spad l.addr (bytesOf 16 a.data.toNat), full := (setFull (getE s a.target) l.addr true).full })
        (ekey r st el) (without i)) := by
  have hnot : isFull (getE s a.target) l.addr = false := Bool.eq_false_iff.2 (List.contains_iff_mem.not.2 hempty)
  have hclear : (a.parked && isSealed (getE s a.target) l.addr) = false := by
    rcases hseal with hp | hs
    · rw [hp]; rfl
    · rw [Bool.eq_false_iff.2 ((isSealed_eq ..).not.2 hs), Bool.and_false]
  rw [exec_stf_turn h hkind hlanes hcur hold hturn, hnot, if_neg Bool.false_ne_true, hclear, if_neg Bool.false_ne_true, land_eq h hlanes hcur]
  exact congrArg (fun t => Host.Outcome.next (modE t _ _)) (modE_congr rfl)

theorem into_stf_lands (hkind : a.kind = .stf) (hlanes : a.lanes = [l]) (hcur : a.cur = 0) (hlands : Lands s r (ekey r st el) a l)
    (hold : ∀ b ∈ (getE s (ekey r st el)).accs, i ≤ b.id) (hparked : a.parked = false) (hempty : l.addr / 16 ∉ (getE s a.target).full) :
    ∃ fl, FullBit (l.addr / 16) true (getE s a.target).full fl ∧ Into (.stfComplete r st el i) s (modE (modE s a.target fun e =>
      { landedOff (ekey r st el) i l.addr e with spad := memWrite e.spad l.addr (bytesOf 16 a.data.toNat), full := fl })
      (ekey r st el) (without i)) := by
  have hspace : a.space ≠ 1 := by rw [hlands.space]; decide
  exact ⟨_, fullBit_setFull (getE s a.target) l.addr true, into_of_eq (exec_stf_empty h hkind hlanes hcur hold
    (.inr (by rw [if_neg hspace]; exact accLands_of_lands hlanes hcur hlands)) hempty (.inl hparked))⟩

section
variable (hkind : a.kind = .stf) (hspace : a.space = 1) (htarget : a.target = ekey r st el) (hfirst : Oldest (getE s (ekey r st el)) i a l)
  (hdue : a.fired + 2 ≤ (getR s r).cycle)
include hkind hspace htarget hfirst hdue

omit htarget hkind in
theorem stf_own_turn : a.parked = true ∨ (if a.space = 1 then decide (a.fired + 2 ≤ (getR s r).cycle) && ownTurn (getE s (ekey r st el)) a.id
      else accLands s (ekey r st el) a) = true := by
  rw [if_pos hspace, decide_eq_true hdue, ownTurn_of_first (h.holds.id_eq ▸ hfirst.2.2)]
  exact .inr rfl

/-- A full granule parks it. -/
theorem into_stf_parks (hfull : l.addr / 16 ∈ (getE s (ekey r st el)).full) (hparked : a.parked = false) :
    Into (.stfComplete r st el i) s (modE s (ekey r st el) fun e =>
      becomes i { a with parked := true } (landedOff (ekey r st el) i l.addr e)) := by
  have hf : isFull (getE s a.target) l.addr = true := htarget ▸ List.contains_iff_mem.2 hfull
  refine into_of_eq ((exec_stf_turn h hkind hfirst.1 hfirst.2.1 hfirst.2.2 (stf_own_turn h hspace hfirst hdue)).trans (congrArg _ ?_))
  have hholds : Holds i a (getE (landed s (ekey r st el) (.acc (ekey r st el) i) l.addr id) (ekey r st el)).accs := by
    rw [landed, getE_modE]
    exact h.holds
  have hland : landed s a.target (.acc (ekey r st el) i) l.addr id = landed s (ekey r st el) (.acc (ekey r st el) i) l.addr id :=
    congrArg (fun k => landed s k _ _ _) htarget
  rw [if_pos hf, if_neg (by rw [hparked]; exact Bool.false_ne_true), hland, modAcc_eq hholds, landed, modE_modE]
  rfl

theorem exec_stf_stays (hfull : l.addr / 16 ∈ (getE s (ekey r st el)).full) (hparked : a.parked = true) :
    exec (.stfComplete r st el i) s = .next s := by
  have hf : isFull (getE s a.target) l.addr = true := htarget ▸ List.contains_iff_mem.2 hfull
  rw [exec_stf_turn h hkind hfirst.1 hfirst.2.1 hfirst.2.2 (stf_own_turn h hspace hfirst hdue), if_pos hf, if_pos hparked]

theorem into_stf_own (hempty : l.addr / 16 ∉ (getE s (ekey r st el)).full)
    (hseal : a.parked = false ∨ ¬ inSeal (getE s (ekey r st el)) l.addr) :
    ∃ fl, FullBit (l.addr / 16) true (getE s (ekey r st el)).full fl ∧ Into (.stfComplete r st el i) s (modE s (ekey r st el) fun e =>
      { without i (landedOff (ekey r st el) i l.addr e) with spad := memWrite e.spad l.addr (bytesOf 16 a.data.toNat), full := fl }) := by
  have hexec := exec_stf_empty h hkind hfirst.1 hfirst.2.1 hfirst.2.2 (stf_own_turn h hspace hfirst hdue) (htarget ▸ hempty) (htarget ▸ hseal)
  rw [htarget, modE_modE] at hexec
  exact ⟨_, fullBit_setFull (getE s (ekey r st el)) l.addr true, into_of_eq hexec⟩

end

/-! ## TSYNC (R395, R396) -/

/-- It ends when every line that the element's writes have touched is at the die. -/
theorem into_tsync (hkind : a.kind = .tsync) (hlines : ∀ ln ∈ (getE s (ekey r st el)).touched, lineAt s r ln 2 = true)
    (hdue : a.fired + 20 ≤ (getR s r).cycle) :
    Into (.writePerformed r (.elem (ekey r st el)) i) s (modE s (ekey r st el) (without i)) := by
  refine into_of_eq ((exec_write h).trans (congrArg _ ?_))
  rw [writePerform_tsync hkind (by rwa [h.keyRegion_eq]), h.keyRegion_eq, if_pos hdue, dropAcc_eq, h.holds.id_eq]

end

end Sys2Proof.Claims
end
section
/-!
# Writes to lines of memory (R199, R207, R282, R341)
-/
namespace Sys2Proof.Claims
open Sys2Proof.Machine

/-! ## Bytes of a line -/

/-- A masked write of a line, byte by byte. -/
theorem extractLsb'_mergeLine (old new : Line) (m : BitVec 64) {j : Nat} (hj : j < 64) :
    (mergeLine old new m).extractLsb' (8 * j) 8 = if m.getLsbD j then new.extractLsb' (8 * j) 8 else old.extractLsb' (8 * j) 8 := by
  refine BitVec.eq_of_getLsbD_eq fun b hb => ?_
  rw [BitVec.getLsbD_extractLsb', getLsbD_mergeLine _ _ _ (by omega), show (8 * j + b) / 8 = j by omega, apply_ite (BitVec.getLsbD · b),
    BitVec.getLsbD_extractLsb', BitVec.getLsbD_extractLsb']
  split <;> rfl

/-- What two masked writes leave is what the write of both leaves. -/
theorem mergeLine_merged (old d e : Line) (m k : BitVec 64) :
    mergeLine old (mergeLine d e k) (m ||| k) = mergeLine (mergeLine old d m) e k := by
  refine BitVec.eq_of_getLsbD_eq fun i hi => ?_
  simp only [getLsbD_mergeLine _ _ _ hi, BitVec.getLsbD_or]
  cases m.getLsbD (i / 8) <;> cases k.getLsbD (i / 8) <;> rfl

/-- A write that is made again after others is as made once. -/
theorem mergeLine_again (old d e : Line) (m k : BitVec 64) :
    mergeLine (mergeLine old e k) (mergeLine d e k) (m ||| k) = mergeLine (mergeLine old d m) e k := by
  refine BitVec.eq_of_getLsbD_eq fun i hi => ?_
  simp only [getLsbD_mergeLine _ _ _ hi, BitVec.getLsbD_or]
  cases m.getLsbD (i / 8) <;> cases k.getLsbD (i / 8) <;> rfl

theorem getLsbD_lineSet (d : Line) (j n : Nat) (v : Vec) {i : Nat} (hi : i < 512) :
    (lineSet d j n v).getLsbD i = if 8 * j ≤ i ∧ i < 8 * j + 8 * n then v.getLsbD (i - 8 * j) else d.getLsbD i := by
  simp only [lineSet, BitVec.getLsbD_or, BitVec.getLsbD_and, BitVec.getLsbD_not, BitVec.getLsbD_shiftLeft, BitVec.getLsbD_setWidth,
    BitVec.getLsbD_allOnes, BitVec.getLsbD_extractLsb', hi, decide_true, Bool.true_and, Nat.zero_add]
  by_cases h : 8 * j ≤ i
  · have hl : i - 8 * j < 512 := by omega
    by_cases h' : i < 8 * j + 8 * n
    · simp [h, h', hl, Nat.not_lt.2 h, show i - 8 * j < 8 * n by omega]
    · simp [h, h', hl, Nat.not_lt.2 h, show ¬ i - 8 * j < 8 * n by omega]
  · simp [h, Nat.lt_of_not_le h]

/-- A masked write of the bytes of a register is the line with that field replaced. -/
theorem mergeLine_bytesOf (d : Line) (j n : Nat) (v : Vec) :
    mergeLine d (placeBytes j (bytesOf n v.toNat)).1 (placeBytes j (bytesOf n v.toNat)).2 = lineSet d j n v := by
  refine BitVec.eq_of_getLsbD_eq fun i hi => ?_
  have hplace : (j ≤ i / 8 ∧ i / 8 < j + n) ↔ (8 * j ≤ i ∧ i < 8 * j + 8 * n) := by omega
  rw [getLsbD_mergeLine _ _ _ hi, getLsbD_placeBytes _ _ (by omega), length_bytesOf, getLsbD_lineSet _ _ _ _ hi]
  simp only [decide_eq_true_eq, hplace]
  split
  next h => rw [getLsbD_placeBytes_bytesOf _ _ _ hi, decide_eq_true h, Bool.true_and, BitVec.testBit_toNat]
  next => rfl

/-! ## The write-combining buffer of a region (R341) -/

/-- What the entries of a buffer lay over a line. -/
def laidOver (ws : List WcbEntry) (k : Nat) (d : Line) : Line := ws.foldl (fun d w => if w.line = k then mergeLine d w.data w.mask else d) d

/-- An entry of a line after another write of it. -/
def combined (ln : Nat) (d : Line) (m : BitVec 64) (via : Nat × List Nat) (n : Nat) (w : WcbEntry) : WcbEntry :=
  if w.line = ln ∧ !w.asked then
    { w with data := mergeLine w.data d m, mask := w.mask ||| m, last := n, via := if w.via.contains via then w.via else w.via ++ [via] }
  else w

section
variable {ln k : Nat} {d : Line} {m : BitVec 64} {via : Nat × List Nat} {n : Nat}

theorem combined_line (w : WcbEntry) : (combined ln d m via n w).line = w.line := by
  unfold combined
  split <;> rfl

theorem combined_of_other {w : WcbEntry} (h : w.line ≠ ln) : combined ln d m via n w = w := if_neg fun hboth => h hboth.1

/-- An entry of another line stands as it stood. -/
theorem laidOver_combined_other (hk : k ≠ ln) (ws : List WcbEntry) (old : Line) :
    laidOver (ws.map (combined ln d m via n)) k old = laidOver ws k old := by
  unfold laidOver
  rw [List.foldl_map]
  congr 1
  funext old w
  rw [combined_line]
  by_cases hline : w.line = k
  · rw [combined_of_other (fun h => hk (hline.symm.trans h))]
  · rw [if_neg hline, if_neg hline]

/-- An entry that may take the write does so. -/
theorem combined_of_free {w : WcbEntry} (h : w.line = ln) (hfree : w.asked = false) (old : Line) :
    mergeLine old (combined ln d m via n w).data (combined ln d m via n w).mask = mergeLine old (mergeLine w.data d m) (w.mask ||| m) := by
  rw [combined, if_pos ⟨h, by rw [hfree]; rfl⟩]

/-- Where the line under the entries has the write already, they leave it there. -/
theorem laidOver_combined_again (ws : List WcbEntry) (hfree : ∀ w ∈ ws, w.line = ln → w.asked = false) (old : Line) :
    laidOver (ws.map (combined ln d m via n)) ln (mergeLine old d m) = mergeLine (laidOver ws ln old) d m := by
  induction ws generalizing old with
  | nil => rfl
  | cons w ws ih =>
    obtain ⟨hw, hrest⟩ := List.forall_mem_cons.1 hfree
    have step := fun x => ih hrest x
    unfold laidOver at step ⊢
    rw [List.map_cons, List.foldl_cons, List.foldl_cons, combined_line]
    by_cases hline : w.line = ln
    · rw [if_pos hline, if_pos hline, combined_of_free hline (hw hline), mergeLine_again, step]
    · rw [if_neg hline, if_neg hline, step]

/-- A write that an entry takes is laid over the line last. -/
theorem laidOver_combined (ws : List WcbEntry) (hfree : ∀ w ∈ ws, w.line = ln → w.asked = false) (hany : ∃ w ∈ ws, w.line = ln) (old : Line) :
    laidOver (ws.map (combined ln d m via n)) ln old = mergeLine (laidOver ws ln old) d m := by
  induction ws generalizing old with
  | nil => obtain ⟨w, hw, -⟩ := hany; cases hw
  | cons w ws ih =>
    obtain ⟨hw, hrest⟩ := List.forall_mem_cons.1 hfree
    have again := laidOver_combined_again (d := d) (m := m) (via := via) (n := n) ws hrest
    have step := fun ha x => ih hrest ha x
    unfold laidOver at again step ⊢
    rw [List.map_cons, List.foldl_cons, List.foldl_cons, combined_line]
    by_cases hline : w.line = ln
    · rw [if_pos hline, if_pos hline, combined_of_free hline (hw hline), mergeLine_merged, again]
    · have hlater : ∃ w ∈ ws, w.line = ln := by
        obtain ⟨v, hv, hvl⟩ := hany
        rcases List.mem_cons.1 hv with rfl | hmem
        · exact absurd hvl hline
        · exact ⟨v, hmem, hvl⟩
      rw [if_neg hline, if_neg hline, step hlater]

variable {x : Region} {plc : BitVec 64}

theorem wcbPut_wcb : (wcbPut x ln d m plc via n).wcb =
    if x.wcb.any fun w => w.line == ln && !w.asked then x.wcb.map (combined ln d m via n)
    else x.wcb ++ [⟨ln, d, m, plc, false, false, [via], n, n⟩] := by
  unfold wcbPut
  split <;> rfl

/-- The buffer alone takes the write. -/
theorem wcbPut_rest : { wcbPut x ln d m plc via n with wcb := x.wcb } = x := by
  unfold wcbPut
  split <;> rfl

/-- The buffer's bytes after a write (R341). -/
theorem overlay_wcbPut (hfree : ∀ w ∈ x.wcb, w.line = ln → w.asked = false) (k : Nat) (old : Line) :
    overlay (wcbPut x ln d m plc via n) k old = if k = ln then mergeLine (overlay x k old) d m else overlay x k old := by
  change laidOver (wcbPut x ln d m plc via n).wcb k old = if k = ln then mergeLine (laidOver x.wcb k old) d m else laidOver x.wcb k old
  rw [wcbPut_wcb]
  split
  next hany =>
    obtain ⟨w, hw, hline⟩ := List.any_eq_true.1 hany
    rw [Bool.and_eq_true, beq_iff_eq] at hline
    by_cases hk : k = ln
    · rw [if_pos hk, hk, laidOver_combined x.wcb hfree ⟨w, hw, hline.1⟩]
    · rw [if_neg hk, laidOver_combined_other hk]
  next =>
    unfold laidOver
    rw [List.foldl_append, List.foldl_cons, List.foldl_nil]
    by_cases hk : k = ln
    · rw [if_pos hk, if_pos hk.symm]
    · rw [if_neg hk, if_neg (Ne.symm hk)]

theorem wcbHas_wcbPut : wcbHas (wcbPut x ln d m plc via n) ln = true := by
  unfold wcbHas
  rw [wcbPut_wcb]
  split
  next hany =>
    obtain ⟨w, hw, hline⟩ := List.any_eq_true.1 hany
    rw [Bool.and_eq_true] at hline
    exact List.any_eq_true.2 ⟨_, List.mem_map_of_mem hw, by rw [combined_line]; exact hline.1⟩
  next => rw [List.any_append]; simp

end

/-! ## Where a write of a line is performed (R341) -/

section
variable {s : State} {r : Nat} {v : Via} {d : Line} {m : BitVec 64} {tag : ReqTag}

/-- A write whose scope lies in its region is performed in the region's buffer. -/
theorem writeLine_buffered {scope : Nat} (hclass : paClass s v.pa = .gddr) (hnone : NoneElse s r (lineNo v.pa)) (hscope : scope ≤ 1) :
    writeLine s r v scope d m tag = .done (bufferWrite s r (lineNo v.pa) d m (if v.uncached then 0 else v.plc) (v.root, v.leafLines)) 0 0 none := by
  unfold writeLine
  rw [hclass]
  dsimp only
  unfold writeShared
  dsimp only
  rw [lineKey_of_gddr hclass, otherHolder_eq_none hnone]
  exact if_pos hscope

/-- A write at the scope of the die is performed in its cistern, which may write the line alone. -/
theorem writeLine_held {c : CLine} (hclass : paClass s v.pa = .gddr) (hnone : NoneElse s r (lineNo v.pa)) (hcached : v.uncached = false)
    (hdie : dieCaches v.plc (dieOf r) = true) (hpoison : lineNo v.pa ∉ s.poison) (hwcb : wcbHas (getR s r) (lineNo v.pa) = false)
    (hline : cLine s (dieOf r) (lineNo v.pa) = some c) (hst : c.st = .exclusive ∨ c.st = .modified ∨ c.st = .mm) :
    writeLine s r v 2 d m tag =
      .done (writeCLine { s with wseq := s.wseq + 1 } (dieOf r) (lineNo v.pa) c d m s.wseq s.wseq) 0 0 none := by
  have hwritable : writable c = true := by rcases hst with hst | hst | hst <;> rw [writable, hst] <;> rfl
  have hwell : s.poison.contains (lineNo v.pa) = false := Bool.eq_false_iff.2 (List.contains_iff_mem.not.2 hpoison)
  unfold writeLine
  rw [hclass]
  dsimp only
  unfold writeShared
  dsimp only
  rw [lineKey_of_gddr hclass, otherHolder_eq_none hnone]
  dsimp only
  rw [if_neg (by decide), hwcb, if_neg Bool.false_ne_true, hcached, hdie, hwell, if_neg (by decide), hline]
  exact if_pos hwritable

end

/-! ## A store of an element (R199, R207) -/

/-- The element after a store to a line: its copy in the L1, and the lines that its writes have touched. -/
def storedLine (e : Elem) (i : Nat) (pol : Policy) (pa : Nat) (bs : List Byte) : Elem :=
  let e' := l1Store e pol pa bs
  without i { e' with touched := if e'.touched.contains (lineNo pa) then e'.touched else lineNo pa :: e'.touched }

theorem storedLine_eq {e : Elem} {i pa mt : Nat} {pol : Policy} {v : Vec} :
    ∃ tc, (∀ k, k ∈ tc ↔ k = lineNo pa ∨ k ∈ e.touched) ∧
      storedLine e i (if mt = 0 then pol else .cg) pa (bytesOf 16 v.toNat) = { without i e with
        touched := tc
        l1 := if pol = .cg ∨ mt ≠ 0 then e.l1.filter (fun c => c.line != pa / 64)
          else e.l1.map fun c => if c.line = pa / 64 then { c with data := lineSet c.data (pa % 64) 16 v } else c } := by
  have hpol : ((if mt = 0 then pol else .cg) = Policy.cg) ↔ (pol = .cg ∨ mt ≠ 0) := by
    by_cases hmt : mt = 0 <;> simp [hmt]
  refine ⟨if e.touched.contains (lineNo pa) then e.touched else lineNo pa :: e.touched, fun k => ?_, ?_⟩
  · split
    next hin => exact ⟨.inr, fun h => h.elim (fun hk => hk ▸ List.contains_iff_mem.1 hin) id⟩
    next => exact List.mem_cons
  · unfold storedLine l1Store
    simp only [mergeLine_bytesOf, hpol]
    rfl

section
variable {s : State} {r st el i : Nat} {a : Access} {l : AccLane} (h : OnWay s r st el i a)
include h

/-- A store of one translated address in the region's write-combining buffer. -/
theorem exec_store_buffered {x : Xlat} (hkind : a.kind = .st) (hsize : a.size = 16) (hspace : a.space = 0) (hlanes : a.lanes = [l])
    (hcur : a.cur = 0) (hskip : l.skip = false) (hx : l.xlat = some x) (hclass : paClass s (x.pa + (l.addr - x.va)) = .gddr)
    (hscope : a.scope = .e ∨ a.scope = .reg) (hnone : NoneElse s r (lineNo (x.pa + (l.addr - x.va))))
    (hdue : a.fired + 20 ≤ (getR s r).cycle) : exec (.writePerformed r (.elem (ekey r st el)) i) s = .next
      (let pa := x.pa + (l.addr - x.va)
       let p := placeBytes (pa % 64) (bytesOf 16 a.data.toNat)
       modE (bufferWrite s r (lineNo pa) p.1 p.2 (if (viaOf x l.addr).uncached then 0 else x.plc) (x.root, x.leafLines)) (ekey r st el)
        fun e => storedLine e i (if pteMt x.pte = 0 then a.policy else .cg) pa (bytesOf 16 a.data.toNat)) := by
  have htrans : untranslated a = none := by
    unfold untranslated
    rw [hlanes, List.findIdx?_cons, hskip, hx]
    rfl
  have hcode : a.scope.code.toNat ≤ 1 := by rcases hscope with hs | hs <;> rw [hs] <;> decide
  have hbytes : laneBytes a l = bytesOf 16 a.data.toNat := laneBytes_st hkind hsize
  refine (exec_write h).trans (congrArg _ ?_)
  rw [writePerform_st hkind, if_pos hspace]
  unfold globalStore
  rw [htrans]
  dsimp only
  rw [lane_of_one hlanes hcur, if_neg (by rw [hskip]; exact Bool.false_ne_true), hx]
  dsimp only
  unfold storeLane
  dsimp only
  rw [h.keyRegion_eq, addr_of_one hlanes hcur, lane_of_one hlanes hcur, if_neg (Nat.not_lt.2 hdue),
    show paClass s (viaOf x l.addr).pa = .gddr from hclass]
  dsimp only
  rw [hbytes, writeLine_buffered (v := viaOf x l.addr) hclass hnone hcode]
  dsimp only
  rw [storeDone, hlanes, hcur, if_pos (show [l].length ≤ 0 + 1 from Nat.le_refl 1), dropAcc_eq, modE_modE,
    lineKey_of_gddr (pa := (viaOf x l.addr).pa) hclass, h.holds.id_eq]
  rfl

/-- What it leaves: the bytes are in the buffer, and the element's own copy of the line has them (R207, R341). -/
theorem store_buffered {x : Xlat} (hkind : a.kind = .st) (hsize : a.size = 16) (hspace : a.space = 0) (hlanes : a.lanes = [l])
    (hcur : a.cur = 0) (hskip : l.skip = false) (hx : l.xlat = some x) (hclass : paClass s (x.pa + (l.addr - x.va)) = .gddr)
    (hscope : a.scope = .e ∨ a.scope = .reg)
    (hfree : ∀ w ∈ (getR s r).wcb, w.line = lineNo (x.pa + (l.addr - x.va)) → w.asked = false)
    (hnone : NoneElse s r (lineNo (x.pa + (l.addr - x.va)))) (hdue : a.fired + 20 ≤ (getR s r).cycle) :
    let key := ekey r st el
    let e := getE s key
    let pa := x.pa + (l.addr - x.va)
    let ln := lineNo pa
    ∃ t, exec (.writePerformed r (.elem key) i) s = .next t ∧ OtherElems key s t ∧ OtherRegions r s t ∧ SameMem s t ∧
      t.wseq = s.wseq + 1 ∧ SameDevice s { t with wseq := s.wseq } ∧
      { getR t r with wcb := (getR s r).wcb } = getR s r ∧
      (∀ k d, overlay (getR t r) k d = if k = ln then lineSet (overlay (getR s r) k d) (pa % 64) 16 a.data else overlay (getR s r) k d) ∧
      wcbHas (getR t r) ln = true ∧
      ∃ tc, (∀ k, k ∈ tc ↔ k = ln ∨ k ∈ e.touched) ∧ getE t key = { without i e with
        touched := tc,
        l1 := if a.policy = .cg ∨ pteMt x.pte ≠ 0 then e.l1.filter (fun c => c.line != pa / 64)
          else e.l1.map fun c => if c.line = pa / 64 then { c with data := lineSet c.data (pa % 64) 16 a.data } else c } := by
  intro key e pa ln
  refine ⟨_, exec_store_buffered h hkind hsize hspace hlanes hcur hskip hx hclass hscope hnone hdue, fun k hk => getE_modE_other _ _ _ _ hk,
    fun q hq => ?other, fun _ => rfl, rfl, rfl, ?rest, fun k d => ?bytes, ?holds, ?elem⟩
  case other =>
    rw [getR_modE, bufferWrite, getR_modR_other _ _ _ _ hq]
    rfl
  case rest =>
    rw [getR_modE, bufferWrite, getR_modR]
    exact wcbPut_rest
  case bytes =>
    rw [getR_modE, bufferWrite, getR_modR]
    refine (overlay_wcbPut hfree k d).trans ?_
    rw [mergeLine_bytesOf]
  case holds =>
    rw [getR_modE, bufferWrite, getR_modR]
    exact wcbHas_wcbPut
  case elem =>
    obtain ⟨tc, htc, heq⟩ := storedLine_eq (e := e) (i := i) (pa := pa) (mt := pteMt x.pte) (pol := a.policy) (v := a.data)
    refine ⟨tc, htc, ?_⟩
    rw [getE_modE]
    exact heq

end

/-! ## A store of the sequencer (R282, R341) -/

/-- The bytes of a line after a masked write of bytes that lie in it. -/
theorem extractLsb'_mergeLine_placeBytes (c : Line) (j : Nat) (bs : List Byte) {k : Nat} (hk : k < 64) :
    (mergeLine c (placeBytes j bs).1 (placeBytes j bs).2).extractLsb' (8 * k) 8 =
      if decide (j ≤ k ∧ k < j + bs.length) = true then bs.getD (k - j) 0 else c.extractLsb' (8 * k) 8 := by
  rw [extractLsb'_mergeLine _ _ _ hk, getLsbD_placeBytes _ _ hk]
  split
  next hin => exact lineByte_placeBytes bs (of_decide_eq_true hin).1 hk
  next => rfl

section
variable {s : State} {r i : Nat} {w : SeqStore}

/-- The sequencer's entry of a store is the one of its number. -/
theorem find?_store (hw : w ∈ (getSeq s r).stores) (honly : ∀ v ∈ (getSeq s r).stores, v.id = i ↔ v = w) :
    (getSeq s r).stores.find? (fun v => v.id == i) = some w := by
  cases hfind : (getSeq s r).stores.find? fun v => v.id == i with
  | none => exact absurd ((honly w hw).2 rfl) fun he => List.find?_eq_none.1 hfind w hw (beq_iff_eq.2 he)
  | some x =>
    have hid := List.find?_some (p := fun v : SeqStore => v.id == i) hfind
    rw [(honly x (List.mem_of_find?_eq_some hfind)).1 (beq_iff_eq.1 hid)]

/-- A store of the sequencer that no earlier store to its line precedes, in the cistern of its die. -/
theorem exec_seqStore_held {c : CLine} (hr : r < 64) (hw : w ∈ (getSeq s r).stores)
    (honly : ∀ v ∈ (getSeq s r).stores, (v.id = i ↔ v = w) ∧ (v.id < i → v.pa / 64 ≠ w.pa / 64)) (hclass : paClass s w.pa = .gddr)
    (hscope : w.scope = .die) (hmt : pteMt w.xlat.pte = 0) (hdie : dieCaches w.xlat.plc (dieOf r) = true) (hpoison : lineNo w.pa ∉ s.poison)
    (hwcb : wcbHas (getR s r) (lineNo w.pa) = false) (hnone : NoneElse s r (lineNo w.pa)) (hline : cLine s (dieOf r) (lineNo w.pa) = some c)
    (hst : c.st = .exclusive ∨ c.st = .modified ∨ c.st = .mm) : exec (.writePerformed r (.seq r) i) s = .next
      (let p := placeBytes (w.pa % 64) w.data
       modSeq (modSeq (writeCLine { s with wseq := s.wseq + 1 } (dieOf r) (lineNo w.pa) c p.1 p.2 s.wseq s.wseq) r fun q =>
          { q with touched := if q.touched.contains (lineNo w.pa) then q.touched else lineNo w.pa :: q.touched }) r
        fun q => { q with stores := q.stores.filter fun v => v.id != i }) := by
  have hfirst : (getSeq s r).stores.any (fun v => decide (v.id < i) && (decide (v.pa / 64 = w.pa / 64)
      || (paClass s v.pa == .registers && paClass s w.pa == .registers))) = false := by
    refine List.any_eq_false.2 fun v hv => ?_
    rw [hclass]
    by_cases hid : v.id < i
    · simp [(honly v hv).2 hid]
    · simp [hid]
  have hvia := writeLine_held (s := s) (r := r) (v := ⟨w.pa, w.xlat.plc, pteMt w.xlat.pte != 0, w.xlat.root, w.xlat.leafLines⟩)
    (d := (placeBytes (w.pa % 64) w.data).1) (m := (placeBytes (w.pa % 64) w.data).2) (tag := .store r i) (c := c) hclass hnone
    (by rw [hmt]; rfl) hdie hpoison hwcb hline hst
  rw [exec_writePerformed]
  unfold execWritePerformed withUnit
  rw [if_pos (by exact Bool.and_eq_true_iff.2 ⟨decide_eq_true hr, beq_self_eq_true r⟩)]
  refine congrArg _ ?_
  unfold seqStorePerform
  dsimp only
  rw [find?_store hw fun v hv => (honly v hv).1]
  dsimp only
  rw [hfirst, if_neg Bool.false_ne_true, hclass]
  dsimp only
  rw [hscope, show Scope.die.code.toNat = 2 from rfl, hvia, lineKey_of_gddr hclass]

/-- What it leaves: the line in the die's cistern has the bytes (R282, R341). -/
theorem seqStore_held {c : CLine} (hr : r < 64) (hw : w ∈ (getSeq s r).stores)
    (honly : ∀ v ∈ (getSeq s r).stores, (v.id = i ↔ v = w) ∧ (v.id < i → v.pa / 64 ≠ w.pa / 64)) (hclass : paClass s w.pa = .gddr)
    (hscope : w.scope = .die) (hmt : pteMt w.xlat.pte = 0) (hdie : dieCaches w.xlat.plc (dieOf r) = true) (hpoison : lineNo w.pa ∉ s.poison)
    (hwcb : wcbHas (getR s r) (lineNo w.pa) = false) (hnone : NoneElse s r (lineNo w.pa)) (hline : cLine s (dieOf r) (lineNo w.pa) = some c)
    (hst : c.st = .exclusive ∨ c.st = .modified ∨ c.st = .mm) :
    let ln := lineNo w.pa
    let n := w.data.length
    ∃ t c', exec (.writePerformed r (.seq r) i) s = .next t ∧ cLine t (dieOf r) ln = some c' ∧
      c'.st = (if c.st = .exclusive then .modified else c.st) ∧
      (∃ d, c'.data = keepRo s ln c.data d ∧ ∀ j < 64, let hit := decide (w.pa % 64 ≤ j ∧ j < w.pa % 64 + n)
        c'.dirty.getLsbD j = (c.dirty.getLsbD j || hit) ∧
        d.extractLsb' (8 * j) 8 = if hit then w.data.getD (j - w.pa % 64) 0 else c.data.extractLsb' (8 * j) 8) ∧
      (getSeq t r).stores = (getSeq s r).stores.filter (fun v => v.id != i) ∧ (∀ d k, (d ≠ dieOf r ∨ k ≠ ln) → cLine t d k = cLine s d k) ∧
      OtherRegions r s t ∧ SameElems s t ∧ SameMem s t := by
  intro ln n
  refine ⟨_, _, exec_seqStore_held hr hw honly hclass hscope hmt hdie hpoison hwcb hnone hline hst,
    (cLine_setCLine ..).trans (if_pos ⟨rfl, rfl⟩), rfl, ⟨_, rfl, fun j hj => ⟨?_, extractLsb'_mergeLine_placeBytes _ _ _ hj⟩⟩, ?_,
    fun d k hne => ?_, fun q hq => ?_, fun _ => rfl, fun _ => rfl⟩
  · rw [BitVec.getLsbD_or, getLsbD_placeBytes _ _ hj]
  · rw [getSeq_modSeq, getSeq_modSeq]
    rfl
  · refine (cLine_setCLine ..).trans (if_neg ?_)
    rintro ⟨hd, hk⟩
    exact hne.elim (fun h => h hd) (fun h => h hk)
  · rw [modSeq, modSeq, getR_modR_other _ _ _ _ hq, getR_modR_other _ _ _ _ hq]
    rfl

end

/-- Settles O39: a write is performed in its scratchpad, in the buffer of its region, or in the cistern of its die. -/
theorem accessWrites : Obligations.AccessWrites := by
  unfold Obligations.AccessWrites
  refine ⟨fun r st el i s a l h => ?own, fun r st el i s a h => ?remote, fun r st el i s a l x h => ?buffered, fun r i s w c => ?cistern,
    fun r st el i s a l h => ?stf⟩
  case own =>
    intro key e ev hspace hfirst hskip hdue
    exact ⟨fun hkind hsize => into_spadStore h hspace hfirst hdue hkind hsize hskip, fun v hkind => into_feset h hspace hfirst hdue hkind,
      fun o z hkind ho _ hgot => into_atom h hspace hfirst hdue hkind ho hgot⟩
  case remote =>
    intro key ev
    refine ⟨fun l hlanes hcur hskip hlands => ?_, fun hkind hlines hdue => into_tsync h hkind hlines hdue⟩
    exact ⟨fun hkind hsize => into_store_lands h hlanes hcur hlands hkind hsize hskip, fun v hkind => into_feset_lands h hlanes hcur hlands hkind,
      fun hkind hold hparked hempty => into_stf_lands h hkind hlanes hcur hlands hold hparked hempty⟩
  case buffered =>
    intro key e pa ln hkind hsize hspace hlanes hcur hskip hx hclass _ hscope hfree hnone hdue
    exact store_buffered h hkind hsize hspace hlanes hcur hskip hx hclass hscope hfree hnone hdue
  case cistern =>
    intro hr hw honly ln n _ hclass hscope hmt hdie hpoison hwcb hnone hline hst
    exact seqStore_held hr hw honly hclass hscope hmt hdie hpoison hwcb hnone hline hst
  case stf =>
    intro key e off hkind hspace htarget hfirst hskip hdue
    exact ⟨into_stf_parks h hkind hspace htarget hfirst hdue, exec_stf_stays h hkind hspace htarget hfirst hdue,
      into_stf_own h hkind hspace htarget hfirst hdue⟩

end Sys2Proof.Claims
end
